-- ==== Sys2Proof/Word.lean ====
section
/-! DEFINITION. Sys2Proof/Word.lean: the word types of the maintenance space, the signal store and the Chart (R28, R64),
and their plainest arithmetic. -/

namespace Sys2Proof

/-- One byte of a store, a frame or a payload. -/
abbrev Byte := BitVec 8

/-- A 16-bit field of a directory entry (Table 2-1). -/
abbrev Half := BitVec 16

/-- A 32-bit word: a signal value word (R66), a maintenance register (R559), a Chart word (R28). -/
abbrev Word := BitVec 32

/-- A 64-bit quantity: an arrival stamp (R47), a record's TIME (R463), a nonce (R486). -/
abbrev Dword := BitVec 64

/-- A natural number as a 32-bit word, modulo 2^32. -/
def w32 (n : Nat) : Word := BitVec.ofNat 32 n

/-- An integer as a 32-bit two's complement word, modulo 2^32. -/
def i32 (n : Int) : Word := BitVec.ofInt 32 n

/-- A truth value as the number 0 or 1. -/
def b2n (b : Bool) : Nat := if b then 1 else 0

/-- Bits [hi:lo] of a natural number, as a number (the manual's [m:n] notation, Table 0-8). -/
def bitsOf (n hi lo : Nat) : Nat := (n / 2 ^ lo) % 2 ^ (hi + 1 - lo)

/-- Bit i of a natural number. -/
def bitOf (n i : Nat) : Bool := (n / 2 ^ i) % 2 == 1

/-- A natural number n read as an m-bit two's complement number. -/
def signedOf (m n : Nat) : Int := if n < 2 ^ (m - 1) then n else (n : Int) - 2 ^ m

/-- A counter that stops at its largest value. -/
def satInc (max n : Nat) : Nat := if n < max then n + 1 else max

end Sys2Proof
end

