-- ==== Sys2Proof/Config.lean ====
section
/-! DEFINITION. Sys2Proof/Config.lean: what one device or one board fixes and the spec leaves open, and the standard functions
that the manual names without writing out. Every one is a constant without a body: no proof can see its value, so a claim
holds whatever it is. -/

namespace Sys2Proof.Config

/-- The UID fused at manufacture, unique per device (R491). -/
opaque uid : BitVec 64

/-- The Holtuo root-key hash fused at manufacture (R10, R491). -/
opaque rootHash : BitVec 384

/-- A fresh free value for each number drawn: nonces of SEC (R486, R500), results the spec leaves open. -/
opaque freeWord : Nat → BitVec 64

/-- Whether a crossing inside its window of R46 is seen: the spec allows both. -/
opaque crossingSeen : Nat → Bool

/-- SHA-384 (FIPS 180-4), named by R32, R498 and R499. -/
opaque sha384 : List (BitVec 8) → BitVec 384

/-- ECDSA P-384 verification of a SHA-384 hash (R32, R498): public key X then Y, hash, signature r then s. -/
opaque ecdsaOk : List (BitVec 8) → BitVec 384 → List (BitVec 8) → Bool

/-- AES-256-GCM keystream decryption or encryption of a message (R29, R485): key, IV, message. -/
opaque gcmCrypt : BitVec 256 → List (BitVec 8) → List (BitVec 8) → List (BitVec 8)

/-- AES-256-GCM tag (R29, R485): key, IV, additional authenticated data, ciphertext. -/
opaque gcmTag : BitVec 256 → List (BitVec 8) → List (BitVec 8) → List (BitVec 8) → BitVec 128

/-- The SP 800-108 key derivation of R495: leftmost 256 bits of HMAC-SHA-384 of the device key over the given text. -/
opaque kdf : BitVec 256 → List (BitVec 8) → BitVec 256

/-- AES key unwrap (SP 800-38F, KW) of R497: wrap key, 40 wrapped bytes; none when the integrity check fails. -/
opaque kwUnwrap : BitVec 256 → List (BitVec 8) → Option (BitVec 256)

/-- The error of a sine (0) or cosine (1) of an angle in turns; the model clamps it to the bound of R122 and leaves it free inside. -/
opaque trigError : Nat → Rat → Rat

/-- A value the spec leaves open for the given operands: one function for every such division or range corner, by a number
that names the corner. -/
opaque openQ : Nat → List Rat → Rat

/-- The word by which an event or a register reports an exact value whose format the spec does not state. -/
opaque reportWord : Rat → BitVec 32

/-- Satellite state of an ephemeris or almanac by its interface specification (R184): signal, content, transmit time and receive time in
ns of the constellation's own time; X, Y, Z in m, their rates in m/s, then the clock term with its relativistic part and the signal's group
delay in m. -/
opaque satState : Nat → List (BitVec 32) → Rat → Rat → List Rat

/-- End of validity of an ephemeris in ns of GPS time (R182): constellation, content. -/
opaque ephEnd : Nat → List (BitVec 32) → Rat

/-- Chip n of a ranging code (true for -1) by its interface specification: signal, pilot, code number, n (R159). -/
opaque codeChip : Nat → Bool → Nat → Nat → Bool

/-- Chip n of a pilot's secondary code (true for -1): signal, code number, n (R159). -/
opaque overlayChip : Nat → Nat → Nat → Bool

/-- Does a BeiDou satellite send the D2 message? (Table 5-6) -/
opaque sendsD2 : Nat → Bool

/-- Gain of a loop filter, which the spec gives by order and bandwidth only (R178): loop (0 FLL, 1 PLL, 2 DLL), order, bandwidth in Hz,
interval in s. -/
opaque loopGain : Nat → Nat → Rat → Rat → Rat

/-- Whether a prompt of the loops shows a cycle slip; the spec names no test (Table 5-8). -/
opaque cycleSlip : Rat × Rat → Bool

/-- The bits of a message item under its check, and the check, out of its symbols: error correction and framing of the interface
specifications (Table 5-7). -/
opaque fecDecode : Nat → List Bool → List Bool

/-- Klobuchar delay in m at the GPS L1 carrier (R184): LNAV parameters, receive time, azimuth and elevation in turns. -/
opaque klobuchar : List (BitVec 32) → Rat → Rat × Rat → Rat

/-- The reference position in m that a message 1005 or 1006 holds (R185). -/
opaque rtcmBase : List (BitVec 8) → Option (List Rat)

/-- The base pseudorange in m and its time in ns of GPS time that a multiple-signal message holds for a PRN and signal (R185). -/
opaque msmRange : List (BitVec 8) → Nat → Nat → Option (Rat × Rat)

/-- SBAS correction in m of a GPS satellite from the decoded messages (R184). -/
opaque sbasCorr : List (List (BitVec 32)) → Nat → Option Rat

/-- A result word or event parameter whose layout the spec does not state, of the numbers it reports: by a number that names it. -/
opaque layoutWord : Nat → List Nat → BitVec 32

/-- What a tester has shifted into the boundary-scan register, by the count of draws (R556). -/
opaque scanCells : Nat → BitVec 795

/-- Where the residual error of an event stamp lies within the ±4 ns of R397: free values, by a key of the stamp. -/
opaque stampError : Nat → Int

end Sys2Proof.Config
end

