-- ==== Sys2Proof/Machine/Flags.lean ====
section
/-! DEFINITION. Sys2Proof/Machine/Flags.lean: the quality codes of the signals, which are the flags of a result on this device, and the
computation of a result's quality from those of its inputs (R72, R73; Table 2-6). -/

namespace Sys2Proof.Machine

/-- Quality codes (Table 2-6). -/
abbrev Qual := BitVec 3

def qStale : Qual := 0#3
def qGood : Qual := 1#3
def qNan : Qual := 2#3
def qForced : Qual := 3#3
def qSubst : Qual := 4#3

/-- The rank of a quality, 0 the worst: NAN, STALE, SUBST, GOOD; FORCED counts as SUBST (R73). -/
def qRank (q : Qual) : Nat :=
  if q = qNan then 0 else if q = qStale then 1 else if q = qGood then 3 else 2

/-- The quality of a rank. -/
def qOfRank (n : Nat) : Qual := if n = 0 then qNan else if n = 1 then qStale else if n = 2 then qSubst else qGood

/-- The worst of a list of input qualities, GOOD when there is none (R73). -/
def qWorst (l : List Qual) : Qual := qOfRank (l.foldl (fun a q => min a (qRank q)) 3)

end Sys2Proof.Machine
end

