-- ==== Sys2Proof/Machine/Num.lean ====
section
/-! DEFINITION. Sys2Proof/Machine/Num.lean: the fixed-point rules that all engines share (R66 to R71) and the two CRCs of the manual (R29, R75). -/

namespace Sys2Proof.Machine

/-- 2 to the power e, as an exact rational. -/
def pow2 (e : Int) : Rat := if 0 ≤ e then ((2 ^ e.toNat : Nat) : Rat) else 1 / ((2 ^ (-e).toNat : Nat) : Rat)

/-- Round to nearest, ties to even (R71). -/
def roundEven (q : Rat) : Int :=
  let f := q.floor
  let r := q - (f : Rat)
  if r < 1 / 2 then f else if 1 / 2 < r then f + 1 else if f % 2 = 0 then f else f + 1

/-- Round toward zero (R25). -/
def roundZero (q : Rat) : Int := if 0 ≤ q then q.floor else -((-q).floor)

/-- Clamp to a symmetric or general range. -/
def clampI (lo hi x : Int) : Int := if x < lo then lo else if hi < x then hi else x

/-- Clamp a rational to a range. -/
def clampQ (lo hi x : Rat) : Rat := if x < lo then lo else if hi < x then hi else x

/-- Absolute value of a rational. -/
def absQ (x : Rat) : Rat := if x < 0 then -x else x

/-- The NaN code of SFX and UFX words (R66). -/
def nanWord : Word := 0x80000000#32

/-- The SFX word of an exact value at exponent e: none when it does not fit, which is NaN under R71. -/
def sfxOf (q : Rat) (e : Int) : Option Word :=
  let m := roundEven (q * pow2 (-e))
  if -(2 ^ 31 - 1) ≤ m ∧ m ≤ 2 ^ 31 - 1 then some (i32 m) else none

/-- The UFX word of an exact value at exponent e; the NaN code is no number (R66, R67). -/
def ufxOf (q : Rat) (e : Int) : Option Word :=
  let m := roundEven (q * pow2 (-e))
  if 0 ≤ m ∧ m ≤ 2 ^ 32 - 1 ∧ m ≠ 2 ^ 31 then some (i32 m) else none

/-- The value of an SFX word at exponent e (R66). -/
def sfxVal (w : Word) (e : Int) : Rat := (w.toInt : Rat) * pow2 e

/-- The value of a UFX word at exponent e (R66). -/
def ufxVal (w : Word) (e : Int) : Rat := (w.toNat : Rat) * pow2 e

/-- A hardware counter written as UFX with exponent 0: the NaN code is replaced by 0x8000_0001 (R67). -/
def counterWord (n : Nat) : Word := if n % 2 ^ 32 = 2 ^ 31 then 0x80000001#32 else w32 n

/-- The signed difference of two BAM32 angles, in turns of 2^-32 (R71): range -180 degrees to just under +180 degrees. -/
def bamDiff (a b : Word) : Int := (a - b).toInt

/-- A BAM32 word as an exact angle in turns, in [0, 1). -/
def bamTurns (w : Word) : Rat := (w.toNat : Rat) / 4294967296

/-- The BAM32 word nearest to an angle in turns, modulo one turn. -/
def bamOf (turns : Rat) : Word := i32 (roundEven (turns * 4294967296))

/-- One bit-serial step of a non-reflected 16-bit CRC with polynomial 0x1021. -/
def crc16Bit (c : Nat) (b : Bool) : Nat :=
  let top := (bitOf c 15) != b
  let s := (c * 2) % 65536
  if top then s ^^^ 0x1021 else s

/-- CRC-16, polynomial 0x1021, initial value 0xFFFF, no reflection, no final XOR (R75). -/
def crc16 (l : List Byte) : Nat :=
  l.foldl (fun c b => [7, 6, 5, 4, 3, 2, 1, 0].foldl (fun c i => crc16Bit c (bitOf b.toNat i)) c) 0xFFFF

/-- One bit-serial step of the reflected CRC-32. -/
def crc32Bit (c : Nat) (b : Bool) : Nat :=
  let low := (bitOf c 0) != b
  let s := c / 2
  if low then s ^^^ 0xEDB88320 else s

/-- CRC-32 of IEEE 802.3 (R29): reflected, initial value and final XOR all ones. -/
def crc32 (l : List Byte) : Nat :=
  (l.foldl (fun c b => [0, 1, 2, 3, 4, 5, 6, 7].foldl (fun c i => crc32Bit c (bitOf b.toNat i)) c) 0xFFFFFFFF)
    ^^^ 0xFFFFFFFF

/-- CRC-24Q, polynomial 0x864CFB, initial value 0 (RTCM 3 transport, named by R185). -/
def crc24 (l : List Byte) : Nat :=
  l.foldl (fun c b => [7, 6, 5, 4, 3, 2, 1, 0].foldl (fun c i =>
    let top := (bitOf c 23) != bitOf b.toNat i
    let t := (c * 2) % 2 ^ 24
    if top then t ^^^ 0x864CFB else t) c) 0

/-- One bit-serial step of the reflected CRC-16 of Modbus. -/
def crcModbusBit (c : Nat) (b : Bool) : Nat :=
  let low := (bitOf c 0) != b
  if low then (c / 2) ^^^ 0xA001 else c / 2

/-- CRC-16 of Modbus (Table 13-4): polynomial 0x8005, reflected, initial value 0xFFFF. -/
def crcModbus (l : List Byte) : Nat :=
  l.foldl (fun c b => [0, 1, 2, 3, 4, 5, 6, 7].foldl (fun c i => crcModbusBit c (bitOf b.toNat i)) c) 0xFFFF

/-- The smallest n with 2^n at least m (R76: the ceiling of log2), by fuel. -/
def clog2 (m : Nat) : Nat :=
  ((List.range 33).find? (fun n => m ≤ 2 ^ n)).getD 33

/-- Insertion of a value into a list sorted by a given order. -/
def insertBy {α : Type} (le : α → α → Bool) (x : α) : List α → List α
  | [] => [x]
  | y :: l => if le x y then x :: y :: l else y :: insertBy le x l

/-- Insertion sort by a given order; equal elements keep their order. -/
def sortBy {α : Type} (le : α → α → Bool) : List α → List α
  | [] => []
  | x :: l => insertBy le x (sortBy le l)

/-- The median of a list of exact values: the middle one, or the mean of the middle two. -/
def medianQ (l : List Rat) : Option Rat :=
  let t := sortBy (fun a b => decide (a ≤ b)) l
  match t.length with
  | 0 => none
  | n => if n % 2 = 1 then t[n / 2]? else
      match t[n / 2 - 1]?, t[n / 2]? with
      | some a, some b => some ((a + b) / 2)
      | _, _ => none

/-- The sum of a list of exact values. -/
def sumQ (l : List Rat) : Rat := l.foldl (· + ·) 0

/-- The IEEE 754 single of an exact value, rounded to nearest, ties to even. -/
def toSingle (q : Rat) : Word :=
  if q = 0 then 0
  else
    let a := absQ q
    let e : Int := ((List.range 254).map (fun (n : Nat) => 127 - (n : Int))).find? (fun e => decide (pow2 e ≤ a)) |>.getD (-126)
    let m := roundEven (a * pow2 (23 - e))
    let body : Int := if m < 8388608 then m else (e + 126) * 8388608 + m
    let body := if 2139095040 ≤ body then 2139095040 else body
    i32 (body + (if q < 0 then 2147483648 else 0))

/-- The value of an IEEE 754 single; none for a NaN or an infinity. -/
def ofSingle (w : Word) : Option Rat :=
  let n := w.toNat
  let x := bitsOf n 30 23
  let f := n % 8388608
  let a : Rat := if x = 0 then (f : Rat) * pow2 (-149) else ((f + 8388608 : Nat) : Rat) * pow2 ((x : Int) - 150)
  if x = 255 then none else some (if bitOf n 31 then -a else a)

/-- The IEEE 754 binary format of eb exponent and mb fraction bits nearest an exact value, ties to even. -/
def toIeee (eb mb : Nat) (q : Rat) : Nat :=
  if q = 0 then 0
  else
    let a := absQ q
    let bias : Int := 2 ^ (eb - 1) - 1
    let e : Int := ((List.range (2 ^ eb - 2)).map (fun (n : Nat) => bias - (n : Int))).find? (fun e => decide (pow2 e ≤ a)) |>.getD (1 - bias)
    let m := (roundEven (a * pow2 (mb - e))).toNat
    let body := if m < 2 ^ mb then m else (e + bias - 1).toNat * 2 ^ mb + m
    min body ((2 ^ eb - 1) * 2 ^ mb) + (if q < 0 then 2 ^ (eb + mb) else 0)

/-- The value of such a float; none for a NaN or an infinity. -/
def ofIeee (eb mb : Nat) (n : Nat) : Option Rat :=
  let x := bitsOf n (eb + mb - 1) mb
  let f := n % 2 ^ mb
  let bias : Int := 2 ^ (eb - 1) - 1
  let a : Rat := if x = 0 then (f : Rat) * pow2 (1 - bias - mb) else ((f + 2 ^ mb : Nat) : Rat) * pow2 ((x : Int) - bias - mb)
  if x = 2 ^ eb - 1 then none else some (if bitOf n (eb + mb) then -a else a)

/-! ### Roots, circular functions and logarithms. The manual names them without an algorithm; only R122 bounds an error. Each
value here is the mathematical one cut to 2^-64, which a result word then rounds (R71); DESIGN CHOICE, log 10. -/

/-- A value cut down to a multiple of 2^-64. -/
def cut64 (x : Rat) : Rat := ((x * pow2 64).floor : Rat) * pow2 (-64)

/-- The ratio of a circle's circumference to its diameter, to 60 decimals. -/
def piQ : Rat := 3141592653589793238462643383279502884197169399375105820974944 / 10 ^ 60

/-- Square root of a value that is not negative; 0 below. -/
def sqrtQ (x : Rat) : Rat := ((Nat.sqrt (x * pow2 128).floor.toNat : Nat) : Rat) * pow2 (-64)

/-- The largest n below 2^k with n^3 at most m. -/
def cbrtNat (m : Nat) : Nat → Nat
  | k => (List.range k).reverse.foldl (fun r i => if (r + 2 ^ i) ^ 3 ≤ m then r + 2 ^ i else r) 0

/-- The power two thirds of a value that is not negative (R256). -/
def pow23Q (x : Rat) : Rat :=
  let m := (x * x * pow2 192).floor.toNat
  ((cbrtNat m (m.log2 / 3 + 1) : Nat) : Rat) * pow2 (-64)

/-- An angle in turns brought to [-1/2, 1/2). -/
def halfTurn (x : Rat) : Rat := x - ((x + 1 / 2).floor : Rat)

/-- 1 - z/(a(a+1)) (1 - z/((a+2)(a+3)) (...)): the alternating series of sine (a = 2) and cosine (a = 1), by the number of terms. -/
def altSeries (z : Rat) : Nat → Nat → Rat
  | _, 0 => 1
  | a, k + 1 => 1 - z / ((a * (a + 1) : Nat) : Rat) * altSeries z (a + 2) k

/-- The exact sine and cosine of an angle in turns, to 2^-64. -/
def sinExact (x : Rat) : Rat := let a := cut64 (2 * piQ * halfTurn x); cut64 (a * altSeries (a * a) 2 20)
def cosExact (x : Rat) : Rat := let a := cut64 (2 * piQ * halfTurn x); cut64 (altSeries (a * a) 1 20)

/-- Sine and cosine as the engines evaluate them: within 2^-30 of the exact value, the error inside that bound left free (R122). -/
def trigBound : Rat := pow2 (-30) - pow2 (-60)
def sinTurns (x : Rat) : Rat := sinExact x + clampQ (-trigBound) trigBound (Config.trigError 0 x)
def cosTurns (x : Rat) : Rat := cosExact x + clampQ (-trigBound) trigBound (Config.trigError 1 x)

/-- t - t^3/3 + t^5/5 - ..., over z = t^2, from the term with divisor a. -/
def atanSeries (z : Rat) : Nat → Nat → Rat
  | a, 0 => 1 / (a : Rat)
  | a, k + 1 => 1 / (a : Rat) - z * atanSeries z (a + 2) k

/-- Half-angle step of the arctangent: tan(a/2) from tan a. -/
def halfTan (t : Rat) : Rat := cut64 (t / (1 + sqrtQ (1 + t * t)))

/-- Arctangent in turns of a ratio from 0 to 1. -/
def atan01 (t : Rat) : Rat :=
  let h := halfTan (halfTan t)
  4 * h * atanSeries (h * h) 1 16 / (2 * piQ)

/-- Angle in turns, in (-1/2, 1/2], of the vector (x, y); a vector of no length has none, and the value is free. -/
def atan2Turns (y x : Rat) : Rat :=
  if x = 0 ∧ y = 0 then Config.openQ 9 []
  else
    let a := if absQ y ≤ absQ x then atan01 (absQ y / absQ x) else 1 / 4 - atan01 (absQ x / absQ y)
    let b := if x < 0 then 1 / 2 - a else a
    cut64 (if y < 0 then -b else b)

/-- The artanh series 1 + z/3 + z^2/5 + ... from divisor a. -/
def artanhSeries (z : Rat) : Nat → Nat → Rat
  | a, 0 => 1 / (a : Rat)
  | a, k + 1 => 1 / (a : Rat) + z * artanhSeries z (a + 2) k

/-- Natural logarithm of a value from 1 to 2. -/
def ln12 (m : Rat) : Rat := let u := (m - 1) / (m + 1); 2 * u * artanhSeries (u * u) 1 24

/-- The exponent e with 2^e at most x and x below 2^(e+1), for a positive x. -/
def exp2 (x : Rat) : Int :=
  let e : Int := (x.num.natAbs.log2 : Int) - (x.den.log2 : Int)
  if pow2 e ≤ x then e else e - 1

/-- Ten times the decimal logarithm of a positive ratio (R179, R191); of none other is there a value, and it is free. -/
def decibels (x : Rat) : Rat :=
  if x ≤ 0 then Config.openQ 10 [x]
  else cut64 (10 * (ln12 (x / pow2 (exp2 x)) + (exp2 x : Rat) * ln12 2) / (ln12 (5 / 4) + 3 * ln12 2))

/-- WGS-84 constants (R121). -/
def wgsA : Rat := 6378137
def wgsE2 : Rat := 669437999014 / 100000000000000

end Sys2Proof.Machine
end

