-- ==== Sys2Proof/Machine/Tab.lean ====
section
/-! DEFINITION. Sys2Proof/Machine/Tab.lean: sparse tables in one canonical form. A table holds a family of like things
(bytes of a store, landing buffers, channels, mailboxes) by number: keys strictly rising, and no entry equal to what an
unlisted key reads as, so that equal tables are equal data. -/

namespace Sys2Proof.Machine

/-- A table from numbers to values: (key, value) pairs. -/
abbrev Tab (α : Type) := List (Nat × α)

/-- What key k reads as; an unlisted key reads as d. -/
def tget {α : Type} (d : α) : Tab α → Nat → α
  | [], _ => d
  | (k', v) :: t, k => if k = k' then v else tget d t k

/-- Put value v at key k, ahead of every greater key, with the entry dropped when v is what an unlisted key reads as. -/
def tset {α : Type} [DecidableEq α] (d : α) : Tab α → Nat → α → Tab α
  | [], k, v => if v = d then [] else [(k, v)]
  | (k', v') :: t, k, v =>
    if k < k' then (if v = d then (k', v') :: t else (k, v) :: (k', v') :: t)
    else if k = k' then (if v = d then t else (k, v) :: t)
    else (k', v') :: tset d t k v

/-- Change the value at key k by f. -/
def tmod {α : Type} [DecidableEq α] (d : α) (t : Tab α) (k : Nat) (f : α → α) : Tab α :=
  tset d t k (f (tget d t k))

/-- Every key of the table is above b. -/
def tabove {α : Type} (b : Nat) : Tab α → Prop
  | [] => True
  | (k, _) :: _ => b < k

/-- The canonical form: keys strictly rising, no entry equal to d. -/
def twf {α : Type} (d : α) : Tab α → Prop
  | [] => True
  | (k, v) :: t => v ≠ d ∧ tabove k t ∧ twf d t

/-- The keys below n whose value satisfies p, in rising order. -/
def twhere {α : Type} (d : α) (t : Tab α) (n : Nat) (p : α → Bool) : List Nat :=
  (List.range n).filter (fun k => p (tget d t k))

/-- A byte memory: the entries (address, byte) that differ from the byte an unlisted address reads as. -/
abbrev Mem := List Host.Cell

/-- The canonical form of a memory whose unlisted bytes read as d: addresses strictly rising, no entry equal to d. -/
def Memory.wf (d : Byte) : Mem → Bool
  | [] => true
  | (a, v) :: t => v != d && (match t with
    | [] => true
    | (b, _) :: _ => decide (a < b)) && Memory.wf d t

/-- Read n bytes from address a, lowest address first. -/
def memBytes (d : Byte) (m : Mem) (a : Nat) : Nat → List Byte
  | 0 => []
  | n + 1 => tget d m a :: memBytes d m (a + 1) n

/-- Write a list of bytes from address a upward. -/
def memPut (d : Byte) (m : Mem) (a : Nat) : List Byte → Mem
  | [] => m
  | b :: bs => memPut d (tset d m a b) (a + 1) bs

/-- Set the n bytes from address a to what an unlisted address reads as: drop their entries. -/
def memClear (m : Mem) (a n : Nat) : Mem := m.filter (fun c => c.1 < a || a + n ≤ c.1)

/-- Little-endian number of a byte list (R28: all multi-byte Chart fields are little-endian). -/
def leNat : List Byte → Nat
  | [] => 0
  | b :: bs => b.toNat + 256 * leNat bs

/-- The n little-endian bytes of a number. -/
def leBytes : Nat → Nat → List Byte
  | 0, _ => []
  | n + 1, v => BitVec.ofNat 8 v :: leBytes n (v / 256)

/-- Big-endian number of a byte list. -/
def beNat (l : List Byte) : Nat := leNat l.reverse

/-- The n big-endian bytes of a number. -/
def beBytes (n v : Nat) : List Byte := (leBytes n v).reverse

end Sys2Proof.Machine
end

