-- ==== Sys2Proof/Machine/Types.lean ====
section
/-! DEFINITION. Sys2Proof/Machine/Types.lean: the types of the commands' operands. -/

namespace Sys2Proof

/-- What the contract checker finds outside the operations' own issue (Table 1-13): an uncorrectable ECC error in a store (0 Chart, 1 QPS, 2 SDIR,
3 NAV), a completion strobe of an engine off its published tick, a write to a sealed Chart region, a bundle that decodes otherwise than its
ECC-checked copy. -/
inductive CckFault where
  | store (n : Fin 4)
  | latency (eng : BitVec 6) (op : BitVec 32)
  | seal
  | decode (op : BitVec 32)
  deriving DecidableEq, Repr

/-- Section types of Table 1-5. -/
inductive SectType where
  | seqp | lbut | sdir | crve | cant | sert | etht | lcek | fcec | qpst | vmdl | stmt | evmt | mbxt | ttut | navc | pwrt
  | keyw
  deriving DecidableEq, Repr

/-- The masters that reach the maintenance space (R473, R513): HSP is master 1, MEP is master 2, and a debug access acts as
master 1. -/
inductive Master where
  | hsp | mep
  deriving DecidableEq, Repr

/-- Device states (Table 3-1), OFF apart: in OFF there is no machine to step. -/
inductive DevState where
  | reset | wipe | load | verify | sync | standby | active | voting | safeHold | fault | sleep
  deriving DecidableEq, Repr

/-- Reset kinds (Table 3-3). -/
inductive ResetKind where
  | powerOn | pin | partner | contract
  deriving DecidableEq, Repr

/-- Power domains that can be gated, by the bit of the PWAKE and PGATE mask (R42). -/
inductive Domain where
  | qps | nav | ioe | ana | sec
  deriving DecidableEq, Repr

/-- Why an HSP transaction is broken (R484). -/
inductive HspBreak where
  | unknownOpcode | endsInsideWord
  deriving DecidableEq, Repr

/-- Outcome of the PMBus transfers of one rail poll (R526): the raw words, or how the transfer failed twice. -/
inductive PmbRead where
  | ok (w : BitVec 16)
  | noAck
  | badPec
  deriving DecidableEq, Repr

/-- What one rail answered in a poll (R526): VOUT_MODE (read once after the rail is ON), VOUT, IOUT, TEMPERATURE_1, STATUS. -/
structure PmbRail where
  rail   : Nat
  mode   : PmbRead
  vout   : PmbRead
  iout   : PmbRead
  temp   : PmbRead
  status : PmbRead
  deriving DecidableEq, Repr

/-- A MEP frame as it reaches the port (Table 14-7). -/
structure MepFrame where
  mver    : BitVec 8
  restart : Bool
  nonce   : BitVec 64
  counter : BitVec 64
  body    : List (BitVec 8)
  tag     : BitVec 128
  mac     : BitVec 48
  deriving DecidableEq, Repr

/-- What the JESD216 parameter table of XSPI-L declares (R467): the density in records of 32 bytes and the bus mode; none is
no valid parameter table. -/
structure LogMem where
  recs  : Nat
  octal : Bool
  deriving DecidableEq, Repr

/-- A PTP time as a message carries it: seconds, nanoseconds, and a correction in 2^-16 ns (R393). -/
structure PtpTime where
  secs  : Nat
  nanos : Nat
  corr  : Int
  deriving DecidableEq, Repr

/-- The data set of an Announce (R395): what the default best master clock algorithm compares. -/
structure PtpAnnounce where
  prio1    : Nat
  cls      : Nat
  accuracy : Nat
  variance : Nat
  prio2    : Nat
  identity : BitVec 64
  steps    : Nat
  utcOff   : Int
  utcValid : Bool
  deriving DecidableEq, Repr

/-- Which interval timer of the PTC has run out (R396). -/
inductive PtpTimer where
  | sync | announce | delay
  deriving DecidableEq, Repr

/-- What reaches a tracking channel: its number and the bytes of its antenna and band since the last (R160). -/
structure ChanSamples where
  chan : Fin 192
  iq   : List (BitVec 8)
  deriving DecidableEq, Repr

/-- A bit edge of a tracking channel: its number and the code periods from the start of the bit (R180). -/
structure ChanEdge where
  chan : Fin 192
  edge : Nat
  deriving DecidableEq, Repr

/-- How a ring frame left by the other port: whether it waited for it, and the residence that a Sync adds (R347, R398). -/
structure RingForward where
  wait      : Bool
  residence : BitVec 32
  deriving DecidableEq, Repr

/-- What the sample ports delivered since the previous EPOCH: samples of GSP0 to GSP3 (R162). -/
structure NavSamples where
  counts : List Nat
  deriving DecidableEq, Repr

/-- Which NAV operation completes (R165). -/
inductive NavDone where
  | acqCtl
  | acqSnap
  | trkSnap
  | epoch (e : NavSamples)
  | aiding
  | rtcmIn
  | cchClock
  deriving DecidableEq, Repr

/-- What a navigation word, page or message holds by its interface specification (R181). -/
inductive NavMsg where
  | ephemeris (issue : Nat) (content : List (BitVec 32))
  | almanac (prn issue : Nat) (content : List (BitVec 32))
  | klobuchar (params : List (BitVec 32))
  | leapSeconds (secs : Int)
  | sbas (type : Nat) (content : List (BitVec 32))
  | other
  deriving DecidableEq, Repr

/-- The waveform fields of a test injection command (R288), as its payload carries them. -/
structure LceTest where
  wave  : BitVec 8 := 0
  point : BitVec 8 := 0
  amp   : BitVec 32 := 0
  p1    : BitVec 32 := 0
  p2    : BitVec 32 := 0
  dur   : BitVec 32 := 0
  hold  : BitVec 16 := 0
  order : BitVec 8 := 0
  capt  : BitVec 8 := 0
  deriving DecidableEq, Repr

/-- What a quadrature decoder sees on one ACLK cycle (R311): an accepted transition that counts up or down, or both lines changing. -/
inductive QdcStep where
  | up | down | both
  deriving DecidableEq, Repr

/-- A HART frame as the demodulator delivers it (R332): its 0xFF preamble bytes, whether every character passed parity, whether no gap
exceeded one character time, and the bytes from the delimiter to the check byte. -/
structure HartFrame where
  preambles : Nat
  parityOk  : Bool
  gapsOk    : Bool
  bytes     : List (BitVec 8)
  deriving DecidableEq, Repr

/-- One record of a pack frame (R350): publishing position selector, group, publication time, directory identity, value words and
quality codes. -/
structure PackRec where
  psel  : Nat
  group : Nat
  secs  : BitVec 32
  nanos : BitVec 32
  dirid : BitVec 32
  words : List (BitVec 32)
  quals : List (BitVec 3)
  deriving DecidableEq, Repr

/-- A frame as it is received on a ring port (R348, R349). tagged: it carries an HSR tag and no VLAN tag; hsr is the sequence number
of the tag. The pack header fields are those of Table 11-4; they are meaningless in a frame of another EtherType. sync is the correction field of a
PTP Sync, in 2^-16 ns (R398). pdelay: the frame is addressed to 01:80:C2:00:00:0E (R396). -/
structure PackFrame where
  src    : BitVec 48
  hsr    : BitVec 16
  tagged : Bool
  etype  : BitVec 16
  fcsOk  : Bool
  pver   : BitVec 8
  packId : BitVec 16
  code   : BitVec 8
  act    : Bool
  vot    : Bool
  role   : BitVec 2
  fseq   : BitVec 16
  pcyc   : BitVec 32
  kIdx   : BitVec 16
  secs   : BitVec 32
  nanos  : BitVec 32
  recs   : List PackRec
  sync   : Option Int := none
  pdelay : Bool := false
  deriving DecidableEq, Repr

/-- A Bark (Table 11-7). -/
structure Bark where
  bver      : BitVec 8 := 1
  code      : BitVec 8 := 0
  role      : BitVec 2 := 0
  collar    : Bool := false
  claim     : Bool := false
  ilkSeen   : Bool := false
  ilkFault  : Bool := false
  eqOk      : Bool := false
  outEn     : Bool := false
  dstate    : BitVec 8 := 0
  offer     : Bool := false
  accept    : Bool := false
  decline   : Bool := false
  commit    : Bool := false
  release   : Bool := false
  fallback  : Bool := false
  duplexReq : Bool := false
  resync    : Bool := false
  reason    : BitVec 8 := 0
  peers     : BitVec 3 := 0
  target    : BitVec 8 := 0
  chartId   : BitVec 64 := 0
  dirid     : BitVec 32 := 0
  pcyc      : BitVec 32 := 0
  atCyc     : BitVec 32 := 0
  bseq      : BitVec 16 := 0
  shreason  : BitVec 7 := 0
  leaseLeft : BitVec 8 := 0
  actSec    : BitVec 32 := 0
  eqCyc     : BitVec 32 := 0
  deriving DecidableEq, Repr

/-- A stored set-point as the MODE item carries it (Table 11-9). -/
structure EqSetPoint where
  mode  : Nat
  given : Bool
  n     : Option Rat
  e     : Option Rat
  psi   : BitVec 32
  nB    : Option Rat
  eB    : Option Rat
  speed : Option Rat
  deriving DecidableEq, Repr

/-- The MODE item (Table 11-9). The seat assignment names the active seat, the outgoing mode and whether the transition is direct. -/
structure EqMode where
  mode     : Nat
  armed    : Nat
  seat     : Nat
  outgoing : Nat
  direct   : Bool
  ho       : Bool
  alpha    : Rat
  armCyc   : Nat
  tauD     : List Rat
  sps      : List EqSetPoint
  orgSet   : Bool
  orgLat   : BitVec 32
  orgLon   : BitVec 32
  deriving DecidableEq, Repr

/-- A reference slot as the OBS item carries it. -/
structure EqSlot where
  state : BitVec 3
  clean : BitVec 24
  dN    : Rat
  dE    : Rat
  deriving DecidableEq, Repr

/-- The OBS item (Table 11-9): p is the upper triangle of the covariance, row by row. -/
structure EqObs where
  x      : List Int
  p      : List Int
  pstat  : BitVec 3
  hstat  : BitVec 3
  drCyc  : BitVec 32
  hdrCyc : BitVec 32
  slots  : List EqSlot
  wN     : Rat
  wE     : Rat
  deriving DecidableEq, Repr

/-- One thruster as the PWR item carries it: sector sides and pin counts, the last accepted command words and force words. -/
structure EqThr where
  sided : Bool
  side0 : Bool
  side1 : Bool
  pin0  : Nat
  pin1  : Nat
  cmd   : List (BitVec 32)
  force : List (BitVec 32)
  deriving DecidableEq, Repr

/-- The PWR item (Table 11-9). ca lists each group's verdict, its runs of failed and passed verdicts and its alarm. -/
structure EqPwr where
  flrLim  : List (Nat × Rat)
  flrLeft : Nat
  flrGrp  : Nat
  thrs    : List EqThr
  holdCyc : BitVec 16
  ca      : List (Nat × Nat × Nat × Bool)
  deriving DecidableEq, Repr

/-- What an equalisation item holds (Table 11-9). -/
inductive EqBody where
  | mode (b : EqMode)
  | obs (b : EqObs)
  | lce (words : List (BitVec 32))
  | qps (record : List (BitVec 8))
  | pwr (b : EqPwr)
  deriving DecidableEq, Repr

/-- An equalisation item with its header (R368). -/
structure EqItem where
  index   : BitVec 8
  version : BitVec 32
  code    : BitVec 8
  body    : EqBody
  deriving DecidableEq, Repr

/-- A CMD frame (R383): target and sender unit codes, the sender's CHART_ID and pack cycle. -/
structure LeashCmd where
  target  : BitVec 8
  sender  : BitVec 8
  chartId : BitVec 64
  pcyc    : BitVec 32
  deriving DecidableEq, Repr

/-- How a transmission attempt ends without success (R434): lost arbitration, no acknowledge, a stuff error during arbitration in
which a recessive stuff bit was sent (which the standard does not count), any other error. -/
inductive CanErr where
  | lostArb | ack | stuffArb | other
  deriving DecidableEq, Repr

/-- A data or remote frame that a CAN controller receives. -/
structure CanFrame where
  id     : BitVec 29
  ide    : Bool
  fdf    : Bool
  brs    : Bool
  esi    : Bool
  dlc    : BitVec 4
  data   : List (BitVec 8)
  remote : Bool
  deriving DecidableEq, Repr

/-- Why a serial port discards the telegram in progress (R440): a framing, parity or break error, too long, a character outside the
NMEA set. -/
inductive SerErr where
  | char | long | charset
  deriving DecidableEq, Repr

/-- What a vessel-side Ethernet frame carries (R445). For UDP: addresses and ports, whether the datagram is unfragmented and without
options, whether its header checksum and its UDP checksum (or a UDP checksum of zero) are right, the payload. -/
inductive EthBody where
  | arpRequest (target : BitVec 32) (sender : BitVec 32) (senderMac : BitVec 48)
  | ptp
  | mep
  | udp (srcIp dstIp : BitVec 32) (srcPort dstPort : BitVec 16) (plain hdrOk sumOk : Bool) (payload : List (BitVec 8))
  | other
  deriving DecidableEq, Repr

/-- A frame received on ETH2 or ETH3: its length, whether its check sequence is right, its VLAN tag, its destination, the ns since its
start-of-frame delimiter passed. -/
structure EthFrame where
  len   : Nat
  fcsOk : Bool
  vid   : Option (BitVec 12)
  dst   : BitVec 48
  ago   : Nat
  body  : EthBody
  deriving DecidableEq, Repr

/-- An SGMII link word (R444): link, speed in Mb/s, full duplex. -/
structure LinkWord where
  up    : Bool
  speed : Nat
  full  : Bool
  deriving DecidableEq, Repr

/-- Wake events of SLEEP, in the order of PWR_WAKE.CAUSE (R522, R531). -/
inductive WakeCause where
  | time | mailbox | gpio | debug
  deriving DecidableEq, Repr


end Sys2Proof
end

