-- ==== Sys2Proof/Syntax.lean ====
section
/-! DEFINITION. Sys2Proof/Syntax.lean: the commands of the block, one constructor for each row of the table of operations and
events, in the table's order, with the operands its rule gives it. -/

namespace Sys2Proof

/-- The commands. Each constructor's comment names the row and the rule that governs it. -/
inductive Instr where
  /-- POR_RELEASE (R539). -/
  | porRelease
  /-- POR_ASSERT (R91). -/
  | porAssert
  /-- RESET_N_LOW (R570). -/
  | resetNLow
  /-- RESET_N_RISE (R91). -/
  | resetNRise
  /-- PFAIL_N_LOW (R93). -/
  | pfailNLow
  /-- PFAIL_RELEASE (R93). -/
  | pfailRelease
  /-- RECORDER_FLUSH_END (R470). -/
  | recorderFlushEnd
  /-- FLUSH_CUTOFF (R94). -/
  | flushCutoff
  /-- RESET_EXIT (R94). -/
  | resetExit (roleSel : Bool) (unitSel : BitVec 2) (alj : BitVec 4) (log : Option LogMem)
  /-- ZEROISER_COMPLETE (R96). -/
  | zeroiserComplete (fail : Option (BitVec 4 × BitVec 28))
  /-- CHART_HEADERS_READ (R98). -/
  | chartHeadersRead (octal : Bool) (ticks : Nat)
  /-- CHART_COPY_STREAMED (R99). -/
  | chartCopyStreamed (ticks : Nat)
  /-- VERIFY_COMPLETE (R100). -/
  | verifyComplete (ticks : Nat)
  /-- SEAL_COMPLETE (R102). -/
  | sealComplete
  /-- SYNC_TMO (R104). -/
  | syncTmo
  /-- SCHEDULE_START (R24). -/
  | scheduleStart
  /-- CONTRACT_RESET (R108). -/
  | contractReset
  /-- SLACK_ZONE_BEGIN (R23). -/
  | slackZoneBegin
  /-- ALIGNER_PHASE_SAMPLE (R25). -/
  | alignerPhaseSample (e : Int)
  /-- ALIGNER_TRIM_UPDATE (R26). -/
  | alignerTrimUpdate
  /-- FRAME_BOUNDARY (R22). -/
  | frameBoundary (alj : BitVec 4)
  /-- CCK_STORE (R55). -/
  | cckStore (fault : CckFault)
  /-- CCK_ECC_CORR (R57). -/
  | cckEccCorr (store : Fin 6)
  /-- NOP (R42). -/
  | nop (eng : BitVec 6)
  /-- MARK (R42). -/
  | mark (tag : BitVec 20)
  /-- PWAKE (R42). -/
  | pwake (mask : BitVec 5)
  /-- PGATE (R42). -/
  | pgate (mask : BitVec 5)
  /-- DOMAIN_WAKE_COMPLETE (R516). -/
  | domainWakeComplete (d : Domain)
  /-- DOMAIN_AUTO_WAKE (R518). -/
  | domainAutoWake (d : Domain)
  /-- LAND (R44). -/
  | land (lbu : BitVec 10)
  /-- PUB (R76). -/
  | pub (group : BitVec 8) (psel : BitVec 2)
  /-- SUBST (R77). -/
  | subst (sig : BitVec 17) (zero : Bool)
  /-- CURVE (R78). -/
  | curve (n : BitVec 8)
  /-- MMUL (R155). -/
  | mmul (d : BitVec 10)
  /-- MADD (R155). -/
  | madd (d : BitVec 10)
  /-- MRU_VOTE (R141). -/
  | mruVote
  /-- OBS_PRED (R145). -/
  | obsPred
  /-- REF_IN (R124). -/
  | refIn (slot : BitVec 5)
  /-- REF_TEST (R128). -/
  | refTest (slot : BitVec 5)
  /-- HDG_VOTE (R140). -/
  | hdgVote
  /-- REF_VOTE (R133). -/
  | refVote
  /-- OBS_DR_EXPIRED (R149). -/
  | obsDrExpired (heading : Bool)
  /-- OBS_UPD (R146). -/
  | obsUpd (slot : BitVec 5)
  /-- OBS_OUT (R147). -/
  | obsOut
  /-- WIND (R142). -/
  | wind
  /-- WIND_HOLD_END (R143). -/
  | windHoldEnd
  /-- PVT_SOLVE (R186). -/
  | pvtSolve
  /-- PVT_OUT (R189). -/
  | pvtOut
  /-- HDG_SOLVE (R190). -/
  | hdgSolve
  /-- ACQ_CTL (R171). -/
  | acqCtl (mode : BitVec 2)
  /-- ACQ_SNAP (R165). -/
  | acqSnap
  /-- TRK_SNAP (R180). -/
  | trkSnap (ch : BitVec 8)
  /-- EPOCH (R183). -/
  | epoch
  /-- AIDING (R194). -/
  | aiding (sig : BitVec 17)
  /-- RTCM_IN (R185). -/
  | rtcmIn (sig : BitVec 17)
  /-- CCH_CLOCK (R191). -/
  | cchClock (sig : BitVec 17)
  /-- NAV_OP_COMPLETE (R165). -/
  | navOpComplete (done : NavDone)
  /-- NAV_BOOTSTRAP_EPOCH (R394). -/
  | navBootstrapEpoch (samples : NavSamples)
  /-- ACQ_PASS_END (R170). -/
  | acqPassEnd (iq0 iq1 iq2 iq3 : List (BitVec 8))
  /-- AIDED_DWELL_END (R173). -/
  | aidedDwellEnd (chan : Fin 192) (ant1 ant2 : List (BitVec 8))
  /-- TRK_PLL_LOCK (R180). -/
  | trkPllLock (samples : ChanSamples)
  /-- ACQ_VERIFY_TIMEOUT (R172). -/
  | acqVerifyTimeout (chan : Fin 192)
  /-- BIT_SYNC (R180). -/
  | bitSync (at_ : ChanEdge)
  /-- FRAME_SYNC (R180). -/
  | frameSync (chan : Fin 192) (tx : Rat)
  /-- NAV_LOCK_LOST (R176). -/
  | navLockLost (samples : ChanSamples)
  /-- REACQ_TIMEOUT (R176). -/
  | reacqTimeout (chan : Fin 192)
  /-- SIDE_PEAK_MOVE (R177). -/
  | sidePeakMove (samples : ChanSamples)
  /-- NAV_MSG_DECODED (R181). -/
  | navMsgDecoded (chan : Fin 192) (symbols : List Bool) (type : Nat) (msg : NavMsg)
  /-- NAV_EXCLUDE (R195). -/
  | navExclude (mbx : BitVec 4) (con : BitVec 8) (prn : BitVec 8)
  /-- NAV_INCLUDE (R195). -/
  | navInclude (mbx : BitVec 4) (con : BitVec 8) (prn : BitVec 8)
  /-- FSA_BUILD (R204). -/
  | fsaBuild (tpl : BitVec 4) (entry : BitVec 12)
  /-- FAR_FACT (R212). -/
  | farFact (tpl : BitVec 4) (col : BitVec 9)
  /-- FAR_START (R213). -/
  | farStart (tpl : BitVec 4)
  /-- FAR_ITER (R215). -/
  | farIter (tpl : BitVec 4) (count : BitVec 8)
  /-- FAR_END (R216). -/
  | farEnd (tpl : BitVec 4)
  /-- QPS_CAPTURE_ARM (R226). -/
  | qpsCaptureArm (mbx : BitVec 4) (tpl : BitVec 8)
  /-- QPS_CAPTURE_DISARM (R226). -/
  | qpsCaptureDisarm (mbx : BitVec 4) (tpl : BitVec 8)
  /-- MODE_STEP (R231). -/
  | modeStep
  /-- ARM_TIMEOUT (R239). -/
  | armTimeout
  /-- MODE_REQ_ARM (R235). -/
  | modeReqArm (mbx : BitVec 4) (mode : BitVec 8)
  /-- MODE_REQ_SWITCH (R235). -/
  | modeReqSwitch (mbx : BitVec 4) (mode : BitVec 8)
  /-- MODE_REQ_DISARM (R235). -/
  | modeReqDisarm (mbx : BitVec 4) (mode : BitVec 8)
  /-- MODE_REQ_DIRECT (R235). -/
  | modeReqDirect (mbx : BitVec 4) (mode : BitVec 8)
  /-- SEAT_FEED (R248). -/
  | seatFeed (seat : BitVec 1)
  /-- SEAT_TAKE (R249). -/
  | seatTake (seat : BitVec 1)
  /-- TAU_MIX (R244). -/
  | tauMix
  /-- PWR_SHARE (R256). -/
  | pwrShare
  /-- FLR (R257). -/
  | flr
  /-- FLR_RELEASE (R257). -/
  | flrRelease
  /-- ALLOC_OUT (R253). -/
  | allocOut
  /-- ALLOC_LOST (R254). -/
  | allocLost
  /-- CA_PREP (R260). -/
  | caPrep (group : BitVec 3)
  /-- CA_EVAL (R261). -/
  | caEval (group : BitVec 3)
  /-- SIM_STEP (R263). -/
  | simStep
  /-- LCE_STEP (R272). -/
  | lceStep (ctx : BitVec 8)
  /-- LCE_MODE (R280). -/
  | lceMode (mbx : BitVec 4) (ctx : BitVec 8) (mode : BitVec 8) (mvSet : Bool) (uman : BitVec 32)
  /-- LCE_BANK (R281). -/
  | lceBank (mbx : BitVec 4) (ctx : BitVec 8) (bank : BitVec 8)
  /-- LCE_TEST_START (R289). -/
  | lceTestStart (mbx : BitVec 4) (ctx : BitVec 8) (t : LceTest)
  /-- LCE_TEST_STOP (R289). -/
  | lceTestStop (mbx : BitVec 4) (ctx : BitVec 8)
  /-- LCE_INJ_END (R289). -/
  | lceInjEnd
  /-- LCE_CAPTURE_ARM (R290). -/
  | lceCaptureArm (mbx : BitVec 4) (ctx : BitVec 8) (dec : BitVec 8)
  /-- LCE_CAPTURE_DISARM (R290). -/
  | lceCaptureDisarm (mbx : BitVec 4) (ctx : BitVec 8)
  /-- LCE_CAPTURE_PAGE (R290). -/
  | lceCapturePage (mbx : BitVec 4) (ctx : BitVec 8) (page : BitVec 8)
  /-- FCE_RESTART (R302). -/
  | fceRestart (chan : BitVec 6)
  /-- FCE_START (R298). -/
  | fceStart (mask : BitVec 8)
  /-- MODULATOR_SELECT_APPLY (R297). -/
  | modulatorSelectApply (chan : Fin 48) (before : Nat)
  /-- FCE_CIC_OUTPUT (R300). -/
  | fceCicOutput (chan : BitVec 6) (bits : List Bool) (split : Nat) (ago : Nat)
  /-- ANV_SEL (R312). -/
  | anvSel (chan : BitVec 3) (sel : BitVec 2)
  /-- QDC_ZERO (R312). -/
  | qdcZero (dec : BitVec 4)
  /-- QDC_ZERO_APPLY (R312). -/
  | qdcZeroApply (dec : BitVec 4)
  /-- QDC_TRANSITION (R311). -/
  | qdcTransition (dec : BitVec 4) (dir : QdcStep) (gap : Nat)
  /-- LPO_SET (R319). -/
  | lpoSet (chan : BitVec 4)
  /-- LPO_CODE_APPLY (R320). -/
  | lpoCodeApply (chan : BitVec 4)
  /-- LPO_LATCH_STROBE (R320). -/
  | lpoLatchStrobe (mask : BitVec 16)
  /-- LPO_CHECK (R322). -/
  | lpoCheck (chan : BitVec 4)
  /-- LPO_RBSEL (R317). -/
  | lpoRbsel (chan : BitVec 4) (sel : BitVec 2)
  /-- LPI_SEL (R317). -/
  | lpiSel (chan : BitVec 5) (sel : BitVec 2)
  /-- LPI_CHECK (R330). -/
  | lpiCheck (chan : BitVec 5)
  /-- LOOP_CLEAR (R326). -/
  | loopClear (mbx : BitVec 4) (chan : BitVec 8)
  /-- HART_REQ (R336). -/
  | hartReq (txn : BitVec 9)
  /-- HART_REQUEST_SEND (R335). -/
  | hartRequestSend (port : Fin 40)
  /-- HART_FRAME_RECEIVED (R337). -/
  | hartFrameReceived (port : Fin 40) (frame : HartFrame)
  /-- HART_STO_EXPIRY (R333). -/
  | hartStoExpiry (port : Fin 40)
  /-- HART_PASS (R339). -/
  | hartPass (mbx : BitVec 4) (port : BitVec 8) (addr : BitVec 8) (cmd : BitVec 8) (long : Bool) (data : List (BitVec 8))
  /-- PSW_TX (R351). -/
  | pswTx
  /-- RING_FRAME_RECEIVED (R348). -/
  | ringFrameReceived (port : Bool) (frame : PackFrame) (fwd : RingForward) (localWait : Bool)
  /-- BARK_TX (R358). -/
  | barkTx
  /-- ROLE_STEP (R380). -/
  | roleStep
  /-- LEASE_EXPIRED (R363). -/
  | leaseExpired
  /-- COLLAR_CLAIM_WINDOW_END (R364). -/
  | collarClaimWindowEnd
  /-- EQ_SNAP (R368). -/
  | eqSnap (item : BitVec 4) (index : BitVec 8)
  /-- EQ_LOST (R370). -/
  | eqLost
  /-- LEASH_UP (R356). -/
  | leashUp (link : Fin 3)
  /-- LEASH_DOWN (R356). -/
  | leashDown (link : Fin 3) (aligned : Bool) (errs : BitVec 16)
  /-- LEASH_BARK_RECEIVED (R357). -/
  | leashBarkReceived (link : Fin 3) (ok : Bool) (bark : Bark)
  /-- LEASH_EQ_RECEIVED (R369). -/
  | leashEqReceived (link : Fin 3) (ok : Bool) (item : EqItem)
  /-- LEASH_CMD_RECEIVED (R383). -/
  | leashCmdReceived (link : Fin 3) (ok : Bool) (cmd : LeashCmd)
  /-- ILK_IN_EDGE (R360). -/
  | ilkInEdge
  /-- ILK_CLAIM_LAPSE (R360). -/
  | ilkClaimLapse
  /-- ROLE_SWAP (R374). -/
  | roleSwap (mbx : BitVec 4)
  /-- PACK_DUPLEX (R379). -/
  | packDuplex (mbx : BitVec 4) (unit : BitVec 8)
  /-- PARTNER_RESET (R383). -/
  | partnerReset (mbx : BitVec 4) (link : BitVec 8)
  /-- PTC_READ (R418). -/
  | ptcRead
  /-- PTP_SYNC_RECEIVED (R393). -/
  | ptpSyncReceived (port : Fin 4) (seq : BitVec 16) (twoStep : Bool) (t1 : PtpTime)
  /-- PTP_FOLLOW_UP_RECEIVED (R393). -/
  | ptpFollowUpReceived (port : Fin 4) (seq : BitVec 16) (t1 : PtpTime)
  /-- PTP_ANNOUNCE_RECEIVED (R395). -/
  | ptpAnnounceReceived (port : Fin 4) (ann : PtpAnnounce)
  /-- PTP_PDELAY_REQ_RECEIVED (R396). -/
  | ptpPdelayReqReceived (port : Fin 4) (seq : BitVec 16)
  /-- PTP_DELAY_RESPONSE_RECEIVED (R393). -/
  | ptpDelayResponseReceived (port : Fin 4) (seq : BitVec 16) (rx : PtpTime) (tx : PtpTime)
  /-- PTP_MESSAGE_TIMER (R396). -/
  | ptpMessageTimer (port : Fin 4) (timer : PtpTimer)
  /-- PTP_SOURCE_TIMEOUT (R392). -/
  | ptpSourceTimeout (src : Fin 4)
  /-- TIME_HOLDOVER_ENTRY (R400). -/
  | timeHoldoverEntry
  /-- SOURCE_HOLD_EXPIRED (R404). -/
  | sourceHoldExpired (src : Fin 4)
  /-- REF_CLK_LOST (R390). -/
  | refClkLost
  /-- REF_CLK_BACK (R390). -/
  | refClkBack
  /-- PPS_OUT_RISE (R405). -/
  | ppsOutRise
  /-- PPS_OUT_FALL (R405). -/
  | ppsOutFall
  /-- PPS_IN_EDGE (R406). -/
  | ppsInEdge (input : Fin 2)
  /-- PPS_IN_MISS (R407). -/
  | ppsInMiss (input : Fin 2)
  /-- TTU_ARM (R409). -/
  | ttuArm (ent : BitVec 6)
  /-- TTU_STOP (R409). -/
  | ttuStop (ent : BitVec 6)
  /-- TTU_PROGRAM_ARRIVAL (R409). -/
  | ttuProgramArrival (ent : BitVec 6)
  /-- TTU_FIRE (R408). -/
  | ttuFire (ent : BitVec 6)
  /-- CALENDAR_LOAD (R414). -/
  | calendarLoad
  /-- TIME_SET (R417). -/
  | timeSet (mbx : BitVec 4) (secs : BitVec 48) (utc : BitVec 16)
  /-- CAN_TX (R432). -/
  | canTx (ctl : Fin 8) (obj : BitVec 7)
  /-- CAN_TX_ARRIVAL (R432). -/
  | canTxArrival (ctl : Fin 8) (begins : Bool)
  /-- CAN_FRAME_SENT (R432). -/
  | canFrameSent (ctl : Fin 8) (begins : Bool)
  /-- CAN_ATTEMPT_END (R434). -/
  | canAttemptEnd (ctl : Fin 8) (err : CanErr) (more : BitVec 5) (begins : Bool)
  /-- CAN_CANCEL (R433). -/
  | canCancel (ctl : Fin 8) (obj : BitVec 7)
  /-- CAN_CANCEL_ARRIVAL (R433). -/
  | canCancelArrival (ctl : Fin 8)
  /-- CAN_BUSOFF_RECOVERY (R434). -/
  | canBusoffRecovery (ctl : Fin 8) (begins : Bool)
  /-- CAN_FRAME_RECEIVED (R431). -/
  | canFrameReceived (ctl : Fin 8) (frame : CanFrame) (begins : Bool)
  /-- CAN_VIEW (R437). -/
  | canView (mbx : BitVec 4) (ctl : BitVec 8) (obj : BitVec 8)
  /-- SER_TX (R442). -/
  | serTx (port : Fin 12) (desc : BitVec 6)
  /-- SER_TX_ARRIVAL (R442). -/
  | serTxArrival (port : Fin 12)
  /-- SER_TELEGRAM_SENT (R442). -/
  | serTelegramSent (port : Fin 12)
  /-- SER_TELEGRAM_RECEIVED (R439). -/
  | serTelegramReceived (port : Fin 12) (bytes : List (BitVec 8))
  /-- SER_CHUNK_CLOSE (R441). -/
  | serChunkClose (port : Fin 12) (bytes : List (BitVec 8))
  /-- ETH_TX (R447). -/
  | ethTx (port : Fin 4) (desc : BitVec 6)
  /-- ETH_FRAME_RECEIVED (R445). -/
  | ethFrameReceived (port : Fin 4) (frame : EthFrame)
  /-- ETH_RAW_CHUNK (R446). -/
  | ethRawChunk (port : Fin 4) (desc : BitVec 8)
  /-- ETH_LINK (R444). -/
  | ethLink (port : Fin 4) (word : LinkWord)
  /-- MEP_NONCE_QUERY (R486). -/
  | mepNonceQuery (port : Bool) (mac : BitVec 48)
  /-- MEP_REQUEST (R487). -/
  | mepRequest (port : Bool) (frame : MepFrame)
  /-- EVM_CHECK (R455). -/
  | evmCheck (slot : BitVec 8)
  /-- EVT_TOKEN_REFILL (R460). -/
  | evtTokenRefill (slot : BitVec 8)
  /-- EVT_STICKY_CLEAR (R458). -/
  | evtStickyClear (m : Master) (reg : BitVec 3) (mask : BitVec 32)
  /-- REC_RECORD_WRITE (R469). -/
  | recRecordWrite
  /-- REC_CURSOR_WRITE (R471). -/
  | recCursorWrite (m : Master) (seq : BitVec 32)
  /-- REC_LOAD_COMPLETE (R471). -/
  | recLoadComplete (m : Master)
  /-- REC_WIN7_READ (R472). -/
  | recWin7Read (m : Master)
  /-- MBX_LOCK_READ (R474). -/
  | mbxLockRead (m : Master) (mbx : BitVec 4)
  /-- MBX_CTL_POST (R475). -/
  | mbxCtlPost (m : Master) (mbx : BitVec 4)
  /-- MBX_CTL_RELEASE (R475). -/
  | mbxCtlRelease (m : Master) (mbx : BitVec 4)
  /-- MBX_LOCK_EXPIRED (R475). -/
  | mbxLockExpired (mbx : BitVec 4)
  /-- MBX_SERVE (R476). -/
  | mbxServe (mbx : BitVec 4)
  /-- MBX_POST (R480). -/
  | mbxPost (mbx : BitVec 4) (tpl : BitVec 8)
  /-- MBX_COMMAND_COMPLETE (R477). -/
  | mbxCommandComplete (mbx : BitVec 4)
  /-- STANDALONE_SERVER_LATCH (R482). -/
  | standaloneServerLatch (mbx : BitVec 4)
  /-- FORCE (R483). -/
  | force (mbx : BitVec 4) (sig : BitVec 32) (val : BitVec 32)
  /-- SIGNAL_RELEASE (R483). -/
  | signalRelease (mbx : BitVec 4) (sig : BitVec 32)
  /-- FUNC_DISABLE (R483). -/
  | funcDisable (mbx : BitVec 4) (eng : BitVec 8) (inst : BitVec 16)
  /-- FUNC_ENABLE (R483). -/
  | funcEnable (mbx : BitVec 4) (eng : BitVec 8) (inst : BitVec 16)
  /-- HSP_READ (R484). -/
  | hspRead (addr : BitVec 32) (n : BitVec 8)
  /-- HSP_WRITE (R484). -/
  | hspWrite (addr : BitVec 32) (n : BitVec 8) (words : List (BitVec 32)) (crc : BitVec 16)
  /-- HSP_STATUS (R484). -/
  | hspStatus
  /-- HSP_RESET_MASTER (R478). -/
  | hspResetMaster (byte : BitVec 8)
  /-- PTC_NS_READ (R421). -/
  | ptcNsRead (m : Master)
  /-- REGISTER_WRITE (R563). -/
  | registerWrite (m : Master) (addr w : BitVec 32)
  /-- TOKEN_LOAD (R501). -/
  | tokenLoad (mbx : BitVec 4) (off : BitVec 16) (len : BitVec 8) (data : List (BitVec 8))
  /-- TOKEN_APPLY (R500). -/
  | tokenApply (mbx : BitVec 4)
  /-- TOKEN_APPLY_DONE (R500). -/
  | tokenApplyDone
  /-- TOKEN_CLEAR (R501). -/
  | tokenClear (mbx : BitVec 4)
  /-- LC_TRANSITION (R504). -/
  | lcTransition (stuck : BitVec 4)
  /-- HOLD (R505). -/
  | hold (mbx : BitVec 4)
  /-- HOLD_RELEASE (R505). -/
  | holdRelease (mbx : BitVec 4)
  /-- SLEEP (R521). -/
  | sleep (mbx : BitVec 4) (mask : BitVec 8) (gpio : BitVec 8) (level : BitVec 8) (secs : BitVec 48)
  /-- SLEEP_WAKE (R522). -/
  | sleepWake (cause : WakeCause)
  /-- WAKE_SYNC_ENTRY (R522). -/
  | wakeSyncEntry
  /-- REVOKE_DEBUG (R512). -/
  | revokeDebug (m : Master)
  /-- CLOSE_HOSTAUTH (R506). -/
  | closeHostauth (m : Master)
  /-- SEC_READ (R529). -/
  | secRead
  /-- PWR_READ (R529). -/
  | pwrRead
  /-- DBG_ATTACH (R510). -/
  | dbgAttach (req : BitVec 2)
  /-- DBG_ACC (R513). -/
  | dbgAcc (addr data : BitVec 32) (write go : Bool)
  /-- DBG_HALT (R515). -/
  | dbgHalt
  /-- DBG_RESUME (R515). -/
  | dbgResume
  /-- DBG_SWIN_WRITE (R513). -/
  | dbgSwinWrite (w : BitVec 32)
  /-- TAP_RESET (R508). -/
  | tapReset
  /-- EXTEST (R509). -/
  | extest
  /-- CLAMP (R509). -/
  | clamp
  /-- HIGHZ (R509). -/
  | highz
  /-- PWR_DOMAIN_FAULT (R520). -/
  | pwrDomainFault (d : Domain)
  /-- BRS_RANK_START (R524). -/
  | brsRankStart
  /-- BRS_RAIL_ENABLE (R524). -/
  | brsRailEnable (rail : Fin 12)
  /-- BRS_PG_GOOD (R524). -/
  | brsPgGood (rail : Fin 12)
  /-- BRS_PG_TMO (R524). -/
  | brsPgTmo (rail : Fin 12)
  /-- BRS_PG_LOST (R525). -/
  | brsPgLost (rail : Fin 12)
  /-- BRS_PG_BACK (R525). -/
  | brsPgBack (rail : Fin 12)
  /-- BRS_RAILCMD (R527). -/
  | brsRailcmd (m : Master) (w : BitVec 32)
  /-- PMB_POLL (R526). -/
  | pmbPoll (reads : List PmbRail)
  /-- TJ_SAMPLE (R542). -/
  | tjSample (temp : BitVec 16)
  /-- GPIO_SET (R552). -/
  | gpioSet (sig : BitVec 17) (bank : Bool)
  /-- GPIO_LEVEL_CHANGE (R554). -/
  | gpioLevelChange (bank : Bool) (levels : BitVec 32)
  /-- CHART_ERASE (R112). -/
  | chartErase (mbx : BitVec 4) (target : Bool)
  /-- CHART_WRITE (R112). -/
  | chartWrite (mbx : BitVec 4) (target : Bool) (off : BitVec 32) (len : BitVec 16) (data : List (BitVec 8))
  /-- CHART_COMMIT (R113). -/
  | chartCommit (mbx : BitVec 4) (target : Bool)
  /-- CHART_STATUS (R112). -/
  | chartStatus (mbx : BitVec 4) (target : Bool)
  /-- REANCHOR (R152). -/
  | reanchor (mbx : BitVec 4) (slot : BitVec 8)
  /-- SER_CHARACTER_ERROR (R440). -/
  | serCharacterError (port : Fin 12) (err : SerErr) (bytes : BitVec 16)
  /-- CAN_RX_ERROR (R434). -/
  | canRxError (ctl : Fin 8) (more : BitVec 5) (begins : Bool)
  /-- CAN_INTEGRATION_COMPLETE (R436). -/
  | canIntegrationComplete (ctl : Fin 8) (begins : Bool)
  /-- HSP_FRAME_ERROR (R484). -/
  | hspFrameError (addr : Option (BitVec 32))
  /-- HART_CARRIER_DETECT (R333). -/
  | hartCarrierDetect (port : Fin 40) (on : Bool)
  deriving DecidableEq, Repr

end Sys2Proof
end

