-- ==== Sys2Proof/Machine/State.lean ====
section
/-! DEFINITION. Sys2Proof/Machine/State.lean: everything the spec gives the device to hold, as plain data, the reasons a step
can stop, and the device right after reset. A field's default is its reset value; NOTES.md and the assumption log name those
the spec does not give. -/

namespace Sys2Proof.Machine

/-- One directory entry of the SDIR store (Table 2-1). A wiped entry is all zero, which is TYPE VOID (R65). -/
structure SdirEntry where
  value   : Word := 0
  wtime   : Word := 0
  fmt     : Half := 0
  origin  : Half := 0
  state   : Half := 0
  pathChk : Half := 0
  deriving DecidableEq, Repr

/-- One complete value of a landing buffer: payload words, arrival stamp, sequence count, the publisher's quality codes when
the source is the PSW (R80), and the CCLK cycle at which the writer completed it. -/
structure LbuVal where
  words : List Word
  secs  : Word
  nanos : Word
  seq   : Half
  quals : List Qual := []
  done  : Nat
  deriving DecidableEq, Repr

/-- One landing buffer (R44, R45, R51, R63). -/
structure Lbu where
  cur     : Option LbuVal := none
  pend    : Option LbuVal := none
  holdTo  : Nat := 0
  count   : Half := 0
  ovrSeq  : Half := 0
  ovrCnt  : Half := 0
  discard : Bool := false
  deriving DecidableEq, Repr

/-- A section of the running Chart copy: where it lies in its store (Table 1-4). -/
structure Sect where
  type   : SectType
  inst   : Nat
  dest   : Nat
  len    : Nat
  unpack : Nat
  deriving DecidableEq, Repr

/-- The header fields of the running copy that the device works with (Table 1-3). -/
structure Hdr where
  role     : Bool := false
  stepMaj  : Nat := 0
  chartId  : Dword := 0
  chartSeq : Word := 0
  f        : Nat := 50000
  p        : Nat := 8
  fcBits   : Nat := 0
  m        : Nat := 8000
  syncTmo  : Nat := 10000
  t0       : Nat := 0
  deriving DecidableEq, Repr

/-- Sequencer, frames and aligner (R22 to R27, R39, R58 to R61). -/
structure Seq where
  run       : Bool := false
  copy      : Bool := false
  copyAOk   : Bool := false
  copyBOk   : Bool := false
  align     : BitVec 2 := 0
  k         : Nat := 0
  tick      : Nat := 0
  frameLen  : Nat := 50000
  phases    : List Int := []
  err       : Int := 0
  drops     : BitVec 8 := 0
  adds      : BitVec 8 := 0
  fb        : Rat := 0
  trim      : Int := 0
  nextList  : Nat := 0
  nextTag   : Nat := 0
  tag       : Nat := 0
  bundle    : Nat := 0
  due       : Nat := 0
  ended     : Bool := true
  stopped   : Bool := false
  lastBund  : Nat := 0
  lanes     : List Nat := []
  vfailA    : Word := 0xFFFF0000#32
  vfailB    : Word := 0xFFFF0000#32
  vlocA     : Word := 0
  vlocB     : Word := 0
  deriving DecidableEq, Repr

/-- A result that an issued operation has still in flight (R55, R56): its first signal, the entries as they stood before it, the last
cycle of the operation. -/
structure PendWrite where
  first : Nat
  old   : List SdirEntry
  till  : Nat
  deriving DecidableEq, Repr

/-- Contract checker registers (R56, R57, R62) and the breach cycle from which R108 counts. busy holds, for each engine, the cycle
from which its issue port is free and the last cycle of its operation; writes and regions are the pending-write records of signals
and of table regions, with the last cycle of each (R55). -/
structure Cck where
  breach   : Bool := false
  code     : Half := 0
  eccCnt   : Word := 0
  merid    : Half := 0
  kIdx     : Half := 0
  lane     : BitVec 2 := 0
  tick     : BitVec 19 := 0
  bundle   : BitVec 18 := 0
  op       : Word := 0
  breachAt : Nat := 0
  busy     : Tab (Nat × Nat) := []
  writes   : List PendWrite := []
  regions  : List (Nat × Nat) := []
  deriving DecidableEq, Repr

/-- A latched disable or enable request (R51, R52): engine number, instance, direction, frame of effect. -/
structure FuncReq where
  eng    : Nat
  inst   : Nat
  enable : Bool
  due    : Nat
  deriving DecidableEq, Repr

/-- A latched force (some word) or release (none) of a signal (R74). -/
structure ForceReq where
  sig : Nat
  val : Option Word
  due : Nat
  deriving DecidableEq, Repr

/-- Start, reset and device state (R87 to R116). phaseAt is the cycle at which the present wipe, seal or SYNC began; lastClr the SAFE-HOLD reason
last cleared. -/
structure Boot where
  dev        : DevState := .reset
  sealed     : Bool := false
  sealAt     : Nat := 0
  sealing    : Bool := false
  reasons    : BitVec 7 := 0x20
  reasonDue  : List (Nat × Nat) := []
  released   : Bool := false
  releaseAt  : Nat := 0
  flushDone  : Bool := false
  firstWipe  : Bool := true
  wipes      : BitVec 8 := 0
  checkFail  : Bool := false
  wipeDone   : Bool := false
  bootTime   : Word := 0
  strapRole  : Bool := false
  chartRole  : Bool := false
  roleValid  : Bool := false
  roleMism   : Bool := false
  candA      : Bool := false
  candB      : Bool := false
  triedA     : Bool := false
  triedB     : Bool := false
  loading    : Bool := false
  octalC     : Bool := false
  hdrStage   : Tab Byte := []
  syncTmo    : Bool := false
  faultCause : Nat := 0
  phaseAt    : Nat := 0
  lastClr    : Nat := 0
  deriving DecidableEq, Repr

/-- What the AON domain holds across every reset while VBAT is in range (R111, R116). -/
structure Aon where
  count      : Half := 1
  prevKind   : BitVec 3 := 0
  flushTrunc : Bool := false
  lct        : Bool := false
  pfail      : Bool := false
  kind       : BitVec 3 := 1
  deriving DecidableEq, Repr

/-- Token bucket and counters of an event slot (R460, R462, R489). used counts the tokens taken and not yet refilled, refills the refill
times since the seal that have been taken into it. -/
structure EvSlot where
  raised   : Half := 0
  supp     : Half := 0
  used     : Nat := 0
  refills  : Nat := 0
  hidden   : Nat := 0
  lastCode : Half := 0
  deriving DecidableEq, Repr

/-- The event matrix (R455, R458, R489). edges holds whether the last EVM_CHECK of a slot found its signal true; shown is what sticky was before the
changes of cycle shownAt, since the pins follow on the tick after (R459). -/
structure Evm where
  raised : Half := 0
  sticky : Tab Word := []
  slots  : Tab EvSlot := []
  edges  : Tab Bool := []
  shown  : Tab Word := []
  shownAt : Nat := 0
  deriving DecidableEq, Repr

/-- A record without its CRC, which is computed from it (Table 14-2). -/
structure Rec where
  code   : Half
  flags  : Byte
  source : Byte
  seq    : Word := 0
  time   : Dword
  p0     : Word
  p1     : Word
  p2     : Word
  deriving DecidableEq, Repr

/-- One master's bank of the recorder window (R471, R472); its load began at loadAt. -/
structure RecBank where
  cursor : Word := 0
  wstat  : BitVec 3 := 0
  loadAt : Nat := 0
  win    : List Word := []
  deriving DecidableEq, Repr

/-- An event raised on the present tick: its place in the order of R457, its code, its parameters, and the time of its record. -/
structure Raised where
  key  : Nat × Nat
  code : Nat
  p0   : Word
  p1   : Word
  p2   : Word
  time : Dword
  deriving DecidableEq, Repr

/-- What the events of a tick change, as it stood before the first of them: the events of one tick are taken in the order of R457,
whatever order their commands come in. -/
structure TickBase where
  raised    : Half
  sticky    : Tab Word
  slots     : Tab EvSlot
  head      : Word
  numbered  : Nat
  staging   : List Rec
  preq      : List Rec
  lostFlag  : Bool
  lostStage : Half
  lostPre   : Half
  deriving DecidableEq, Repr

/-- The recorder (R466 to R472): staging oldest first, the pre-wipe queue, the log head. numbered counts the records numbered since
the log was blank. A record is being written since cycle writeAt while staging holds any. tickEvs are the events raised at cycle tickAt in their order, base what stood before them. -/
structure Recorder where
  hasLog   : Bool := false
  bus      : BitVec 2 := 0
  log2     : Nat := 0
  head     : Word := 0
  numbered : Nat := 0
  staging  : List Rec := []
  writeAt  : Nat := 0
  preq     : List Rec := []
  lostFlag : Bool := false
  lostStage : Half := 0
  lostPre  : Half := 0
  tickAt   : Nat := 0
  tickEvs  : List Raised := []
  base     : Option TickBase := none
  hsp      : RecBank := {}
  mep      : RecBank := {}
  deriving DecidableEq, Repr

/-- Mailbox states (R473). -/
inductive MbxState where
  | free | locked | posted | running | done
  deriving DecidableEq, Repr

/-- One mailbox (R473 to R479). result is the return code a handler has decided and not yet written. -/
structure Mbx where
  payload   : Tab Word := []
  state     : MbxState := .free
  owner     : Nat := 0
  poster    : Nat := 0
  posts     : Byte := 0
  touched   : Nat := 0
  result    : Option Half := none
  ackPosts  : Byte := 0
  ackMaster : BitVec 4 := 0
  ackReset  : Bool := true
  ackOrphan : Bool := false
  ackValid  : Bool := true
  ackCode   : Half := 0x0021#16
  deriving DecidableEq, Repr

/-- Host SPI port and maintenance Ethernet protocol (R484 to R487, R490). -/
structure HostIf where
  errCrc     : Byte := 0
  errProtect : Byte := 0
  errFrame   : Byte := 0
  applied    : Bool := false
  crcFailed  : Bool := false
  wrRefused  : Bool := false
  reply      : List Word := []
  replyCrc   : Half := 0
  status     : Byte := 0
  mepOk      : Half := 0
  mepNonces  : Half := 0
  mepAuth    : Half := 0
  mepReplay  : Half := 0
  mepLast    : Dword := 0
  bootNonce  : Dword := 0
  mepReply   : List Byte := []
  mepPort    : Nat := 0
  mepMac     : BitVec 48 := 0
  deriving DecidableEq, Repr

/-- The fuse fields (Table 15-1), with a mark of each SECDED field that shows an uncorrectable error. -/
structure Fuses where
  uid       : Dword
  rootHash  : BitVec 384
  lc0       : BitVec 4 := 0
  lc1       : BitVec 4 := 0
  lc2       : BitVec 4 := 0
  ownerHash : BitVec 384 := 0
  devKey    : BitVec 256 := 0
  dead0     : Bool := false
  dead1     : Bool := false
  dead2     : Bool := false
  uidBad    : Bool := false
  rootBad   : Bool := false
  ownerBad  : Bool := false
  keyBad    : Bool := false
  deriving DecidableEq, Repr

/-- Boundary-scan instructions in force (R509). -/
inductive Bscan where
  | bypass | extest | clamp | highz
  deriving DecidableEq, Repr

/-- The balls that boundary scan covers (R556, Table 16-1); xspi false is XSPI-C, true XSPI-L. -/
inductive Ball where
  | gpio (n : Nat) | qdcA (n : Nat) | qdcB (n : Nat) | serTx (n : Nat) | serRx (n : Nat) | serDe (n : Nat) | canTx (n : Nat) | canRx (n : Nat)
  | xspiClk (l : Bool) | xspiCsN (l : Bool) | xspiDqs (l : Bool) | xspiResetN (l : Bool) | xspiDq (l : Bool) (k : Nat)
  | gspClk (n : Nat) | gspI (n k : Nat) | gspQ (n k : Nat) | brsEn (n : Nat) | brsPg (n : Nat) | ppsIn (n : Nat) | ppsOut | trig (n : Nat)
  | resetN | pfailN | roleSel | unitSel (n : Nat) | hspSck | hspCsN | hspSdi | hspSdo | pmbScl | pmbSda | ilkOut | ilkIn | hostIrq
  | alj (n : Nat) | alm (n : Nat)
  deriving DecidableEq, Repr

/-- A requested SLEEP (R521). -/
structure SleepReq where
  mask  : Nat
  gpio  : Nat
  level : Bool
  secs  : Nat
  due   : Nat
  mbx   : Nat
  deriving DecidableEq, Repr

/-- An accepted transition token (R504): its type, the mailbox that carried it, the hash and key an LC_DEVELOP token brings. -/
structure LcReq where
  ttype : Nat
  mbx   : Nat
  owner : BitVec 384
  key   : BitVec 256
  at_   : Nat
  deriving DecidableEq, Repr

/-- The security engine, debug port and token handler (R491 to R515, R530). -/
structure Sec where
  hostauth  : Bool := false
  tokBuf    : Tab Byte := []
  tokOwner  : Nat := 0
  tokLen    : Nat := 0
  tnonce    : Dword := 0
  tokResult : Half := 0
  tokType   : BitVec 4 := 0
  applying  : Option Nat := none
  lct       : Option LcReq := none
  mepKey    : Option (BitVec 256) := none
  holdReq   : Bool := false
  holdQueue : List (Bool × Nat × Nat) := []
  grant     : BitVec 2 := 0
  level     : BitVec 2 := 0
  refused   : Bool := false
  heldReq   : Option (BitVec 2) := none
  attaches  : Half := 0
  halted    : Bool := false
  haltQueue : List (Bool × Nat) := []
  haltFrom  : Nat := 0
  dbgData   : Word := 0
  dbgStatus : BitVec 2 := 0
  swinCode  : Nat := 0
  swinMib   : Nat := 0
  trace     : Tab (List Word) := []
  traceNext : Nat := 0
  bscan     : Bscan := .bypass
  bsCells   : BitVec 795 := 0
  deriving DecidableEq, Repr

/-- Power domains and SLEEP (R516 to R522, R531). Masks follow the bits of R42. -/
structure Pwr where
  gated      : BitVec 5 := 0
  waking     : BitVec 5 := 0
  faulted    : BitVec 5 := 0
  gateLater  : BitVec 5 := 0
  gatePend   : BitVec 5 := 0
  wakeDue    : Tab Nat := []
  doze       : Bool := false
  wakeCnt    : Half := 0
  wakeCause  : BitVec 3 := 0
  sleepReq   : Option SleepReq := none
  sleepArmed : Option SleepReq := none
  sleepAt    : Nat := 0
  wakeAt     : Option Nat := none
  deriving DecidableEq, Repr

/-- States of a board rail (Table 15-16). -/
inductive RailState where
  | off | waitPg | on | failed | forcedOff
  deriving DecidableEq, Repr

/-- One board rail (R524 to R527). -/
structure Rail where
  en       : Bool := false
  pg       : Bool := false
  state    : RailState := .off
  pmbFails : Half := 0
  vmode    : Option (BitVec 16) := none
  raised   : Bool := false
  waitAt   : Nat := 0
  failedAt : Nat := 0
  deriving DecidableEq, Repr

/-- The board rail sequencer (R524, R526, R531): the rank in progress and the cycle at which it started, the poll periods since the seal that have
been served. -/
structure Brs where
  rank  : Nat := 0
  rankAt : Nat := 0
  begun : Bool := false
  polls : Nat := 0
  rails : Tab Rail := []
  deriving DecidableEq, Repr

/-- The temperature sensor (R542). -/
structure Tj where
  temp   : Half := 0
  high   : Bool := false
  hot    : Nat := 0
  cool   : Nat := 0
  since  : Nat := 0
  last   : Option Nat := none
  deriving DecidableEq, Repr

/-- One GPIO bank (R551 to R555). -/
structure GpioBank where
  levels  : Word := 0
  mask    : Word := 0
  out     : Word := 0
  nan     : Word := 0
  lastRec : Option Word := none
  deriving DecidableEq, Repr

/-- Input balls whose level is sampled or held (R4, R93, R324, R344, R360). -/
structure Pins where
  roleSel : Bool := false
  unitSel : BitVec 2 := 0
  alj     : BitVec 4 := 0
  pfailN  : Bool := true
  resetN  : Bool := true
  por     : Bool := true
  ilkIn   : Bool := false
  deriving DecidableEq, Repr

/-- One time source of the PTC (R392, R393, R404): consecutive good measurements, consecutive discards, SRC_HOLD served. -/
structure PtcSrc where
  valid   : Bool := false
  acc     : Byte := 0
  disc    : Byte := 0
  run     : Nat := 0
  discRun : Nat := 0
  held    : Bool := false
  validAt : Nat := 0
  deriving DecidableEq, Repr

/-- A PTP message as the PTC sends it (R396): 0 Sync, 1 Announce, 2 a delay request, 3 a Pdelay_Resp, 4 a Follow_Up, 5 a Pdelay_Resp_Follow_Up; its
sequence; the time it carries in units of 2^-32 ns, which is its own transmit stamp or, in a Pdelay_Resp, the receive stamp of the request; the data set of
an Announce. -/
structure PtpMsg where
  kind  : Nat
  seq   : Nat
  stamp : Nat
  data  : Option PtpAnnounce
  deriving DecidableEq, Repr

/-- PTP state of one ETH port (R392 to R397). Stamps are counter values in units of 2^-32 ns. waitSync is the two-step Sync that
waits for its Follow_Up: sequence, receive stamp, correction. sent holds the messages that left last, from one cause. syncAt and annAt are the TCLK edges
of the last Sync that completed and of the last Announce of the master; syncTx, annTx and dlyTx those at which the timers ran out last. -/
structure PtpPort where
  slave    : Bool := false
  delay    : Rat := 0
  delayOk  : Bool := false
  waitSync : Option (Nat × Nat × Int) := none
  syncDiff : Option Rat := none
  best     : Option PtpAnnounce := none
  syncSeq  : Half := 0
  annSeq   : Half := 0
  reqSeq   : Half := 0
  reqAt    : Nat := 0
  syncAt   : Nat := 0
  annAt    : Nat := 0
  syncTx   : Option Nat := none
  annTx    : Option Nat := none
  dlyTx    : Option Nat := none
  sent     : List PtpMsg := []
  deriving DecidableEq, Repr

/-- The PTP clock and time unit (R389 to R407, R421). The counter counts units of 2^-32 ns; phase is the eighths of a TCLK edge
gone, edges the TCLK edges since reset; r and i are in ppt; offset is in ns; predAt is the counter at which offset was taken; accAt is the edge of the last
accepted measurement; ppsSec and calSec are the whole seconds that PPS_OUT and the calendar have marked, ppsTo the edge at which PPS_OUT falls; ppsAt
holds for each PPS input the edge from which its 1.5 s run, none once they have been missed. -/
structure Ptc where
  counter   : Nat := 0
  phase     : Rat := 0
  edges     : Nat := 0
  r         : Rat := 0
  i         : Rat := 0
  rNext     : Option Rat := none
  status    : BitVec 2 := 0
  offset    : Rat := 0
  predAt    : Nat := 0
  sel       : Nat := 4
  srcs      : Tab PtcSrc := []
  ports     : Tab PtpPort := []
  onXtal    : Bool := false
  xtalFrom  : Nat := 0
  gm        : Bool := false
  gmId      : Dword := 0
  holdFrom  : Nat := 0
  holdSec   : Word := 0
  lockRun   : Nat := 0
  unlockRun : Nat := 0
  hspSecs   : Nat := 0
  hspFrac   : Half := 0
  mepSecs   : Nat := 0
  mepFrac   : Half := 0
  accAt     : Nat := 0
  ppsOut    : Bool := false
  ppsSec    : Nat := 0
  ppsTo     : Nat := 0
  calSec    : Nat := 0
  ppsLast   : Tab Nat := []
  ppsAt     : Tab (Option Nat) := []
  deriving DecidableEq, Repr

/-- The calendar in the AON domain (R414): a count of 1/32,768 s with the part of a count gone, in units of 1/3,125,000 count. -/
structure Cal where
  count : Nat := 0
  part  : Nat := 0
  utc   : Int := 0
  valid : Bool := false
  deriving DecidableEq, Repr

/-- An entry of a dual-clock FIFO out of CCLK (R50): what it carries, and the tick from which it stands in the FIFO, the one after its operation's
last (R19). -/
structure Handed (α : Type) where
  since : Nat
  item  : α
  deriving DecidableEq, Repr

/-- What the FIFO to TCLK carries for a trigger entry (R409): a PERIODIC arm, a ONESHOT whose pair is neither GOOD nor SUBST, the
pair of a ONESHOT, the full time of its entry, a stop. -/
inductive TtuProg where
  | periodic
  | invalid
  | pair (secs nanos : Nat)
  | full (ns : Nat)
  | stop
  deriving DecidableEq, Repr

/-- One trigger entry (R408 to R413). target is the armed target or next event in whole ns of PTP time. -/
structure Ttu where
  status : BitVec 3 := 0
  fires  : Byte := 0
  target : Nat := 0
  fifo   : List (Handed TtuProg) := []
  deriving DecidableEq, Repr

/-- The trigger unit (R411, R421): entries, PAST count, for each TRIG pin the end of its pulse in units of 0.5 ns of CCLK time,
the converter-start and loop-latch strobes on their way to ACLK. -/
structure Ttus where
  ent     : Tab Ttu := []
  pastCnt : Half := 0
  trigEnd : Tab Nat := []
  conv    : List (Handed Byte) := []
  latch   : List (Handed Half) := []
  deriving DecidableEq, Repr

/-- One reference slot (R118 to R139, R158). Positions in metres, headings in units of 2^-32 turn. -/
structure Slot where
  state   : BitVec 3 := 0
  reason  : BitVec 13 := 0
  clean   : BitVec 24 := 0
  seen    : Nat := 256
  raw     : List Word := []
  frz     : Nat := 0
  win     : List (Rat × Rat) := []
  innFail : Nat := 0
  dN      : Rat := 0
  dE      : Rat := 0
  medRun  : Nat := 0
  fresh   : Bool := false
  gateOk  : Bool := false
  failed  : Bool := false
  pN      : Rat := 0
  pE      : Rat := 0
  d2      : Rat := 0
  var     : Rat := 0
  weight  : Rat := 0
  selOff  : Bool := false
  rReason : BitVec 13 := 0
  rState  : BitVec 3 := 0
  rClean  : BitVec 24 := 0
  deriving DecidableEq, Repr

/-- The vessel observer, the reference voter and the wind filter (R140 to R157). State and covariance are mantissas. -/
structure Obs where
  slots   : Tab Slot := []
  x       : Tab Int := []
  p       : Tab Int := []
  chkX    : Tab Int := []
  chkP    : Tab Int := []
  started : Bool := false
  nanNow  : Bool := false
  restRun : Nat := 0
  restCnt : Half := 0
  pstat   : BitVec 3 := 0
  hstat   : BitVec 3 := 0
  drCyc   : Word := 0
  hdrCyc  : Word := 0
  frame   : Bool := false
  orgLat  : Word := 0
  orgLon  : Word := 0
  orgSeen : Nat := 65536
  initP   : Nat := 0
  initH   : Nat := 0
  setP    : List Nat := []
  setH    : List Nat := []
  pairP   : Nat := 0
  pairH   : Nat := 0
  pairOfP : List Nat := []
  pairOfH : List Nat := []
  mruRun  : Nat := 0
  mruPair : List Nat := []
  wN      : Rat := 0
  wE      : Rat := 0
  wHold   : Nat := 0
  wLost   : Bool := false
  wDecay  : Bool := false
  wZero   : Bool := true
  wSlot   : Nat := 0
  reanch  : List (Nat × Nat × Nat) := []
  deriving DecidableEq, Repr

/-- One tracking channel (R173 to R184, R191). window marks an entry under R174 or R175, found one whose window dwell has found its signal;
since and dwellAt are the ticks at which the state and the dwell began. code is the code phase in chips, dopp the Doppler in Hz, nco the
carrier phase of the replica and phase that of the record in cycles, tx the transmit time in ns of GPS time, upto the time in ns of the last
sample, rest the samples short of an interval; acc holds the last accumulators E, P, L, VE, VL, pilot prompt and noise as I/Q pairs, last the
prompt of the loops, accel and vel their integrators. lockHist, cmcHist and cn0Hist run newest first. sumP, sumN and cnMs are the sums of the
second that is running; the Ms counts say how long a condition has held. -/
structure NavChan where
  ant       : Nat := 0
  sig       : Nat := 0
  prn       : Nat := 0
  state     : BitVec 3 := 0
  window    : Bool := false
  found     : Bool := false
  since     : Nat := 0
  dwellAt   : Nat := 0
  dwells    : Nat := 0
  code      : Rat := 0
  dopp      : Rat := 0
  nco       : Rat := 0
  phase     : Rat := 0
  tx        : Option Rat := none
  upto      : Rat := 0
  rest      : List Byte := []
  acc       : List (Rat × Rat) := []
  last      : Rat × Rat := (0, 0)
  accel     : Rat := 0
  vel       : Rat := 0
  lockHist  : List (Rat × Nat) := []
  sumP      : Rat := 0
  sumN      : Rat := 0
  cnMs      : Nat := 0
  goodMs    : Nat := 0
  lowCnMs   : Nat := 0
  lowLockMs : Nat := 0
  sideMs    : Nat := 0
  pullMs    : Nat := 0
  halfOk    : Bool := false
  cn0       : Rat := 0
  lockMs    : Nat := 0
  slip      : Bool := false
  sidePeaks : Byte := 0
  cmc       : Bool := false
  power     : Bool := false
  cmcHist   : List Rat := []
  cmcClean  : Nat := 0
  powClean  : Nat := 0
  cn0Hist   : List Rat := []
  deriving DecidableEq, Repr

/-- A decoded ephemeris or almanac of a satellite: constellation (0 GPS, 1 Galileo, 2 BeiDou, 3 SBAS), PRN, issue, content. -/
structure NavEph where
  con     : Nat
  prn     : Nat
  issue   : Nat
  content : List Word
  deriving DecidableEq, Repr

/-- An RTCM message that has been accepted (R185): number, time of arrival in ns, its bytes. -/
structure RtcmMsg where
  number : Nat
  ns     : Nat
  bytes  : List Byte
  deriving DecidableEq, Repr

/-- What an EPOCH latches on its arrival (R165, R183): the channels, ephemerides, corrections and aiding in force. -/
structure NavLatch where
  chans : Tab NavChan := []
  ephs  : List NavEph := []
  sbas  : List NavEph := []
  rtcm  : List RtcmMsg := []
  klob  : List Word := []
  aid   : List (Option Rat) := []
  deriving DecidableEq, Repr

/-- One entry of a CCLK-to-NCLK FIFO (R163, R165): engine, opcode, operand, input block, issue time in ns, the time of its arrival in thirds of
a tick, whether it has arrived, and what its arrival latches. -/
structure NavOp where
  eng   : Nat
  opc   : Nat
  opnd  : Nat
  words : List (Word × Qual)
  ns    : Nat
  arr   : Nat := 0
  in_   : Bool := false
  latch : NavLatch := {}
  deriving DecidableEq, Repr

/-- A latched exclusion or inclusion (R195, R74). -/
structure NavReq where
  con  : Nat
  prn  : Nat
  excl : Bool
  due  : Nat
  mbx  : Nat
  deriving DecidableEq, Repr

/-- The navigation baseband and the solutions it feeds (R159 to R196). rxOff is receiver time minus PTP time plus 19 s, in ns. -/
structure Nav where
  ops       : List NavOp := []
  chans     : Tab NavChan := []
  acqMode   : BitVec 2 := 0
  jobSig    : Nat := 0
  jobPrn    : Nat := 0
  jobPass   : Nat := 0
  jobOn     : Bool := false
  jobAt     : Nat := 0
  unaided   : List (Nat × Nat) := []
  falseAl   : Nat := 0
  ephs      : List NavEph := []
  cands     : List NavEph := []
  alms      : List NavEph := []
  sbas      : List NavEph := []
  excluded  : List (Nat × Nat) := []
  reqs      : List NavReq := []
  gspOk     : BitVec 4 := 0
  gspFailed : BitVec 4 := 0
  gspGood   : Tab Nat := []
  epochs    : Word := 0
  msgErr    : Word := 0
  rxSet     : Bool := false
  rxOff     : Rat := 0
  jump      : Int := 0
  msJumps   : Word := 0
  marks     : BitVec 5 := 0
  clean     : Tab Nat := []
  dirRun    : Nat := 0
  noise     : Tab (List Rat) := []
  clkHist   : List (Nat × Rat) := []
  firstFix  : Option Nat := none
  aid       : List (Option Rat) := []
  klob      : List Word := []
  dgAvail   : Bool := false
  rtcmBuf   : List Byte := []
  rtcmSeq   : Option Nat := none
  rtcm      : List RtcmMsg := []
  rtcmChans : List Nat := []
  leap      : Option Int := none
  isFix     : Bool := false
  onlyDg    : Bool := false
  onlySbas  : Bool := false
  pos       : Option (Rat × Rat × Rat) := none
  sigma     : Option Rat := none
  fix       : BitVec 3 := 0
  tstat     : BitVec 2 := 0
  hdgFixed  : Bool := false
  hdgInts   : List (Nat × Int) := []
  hdgPsi    : Word := 0
  deriving DecidableEq, Repr

/-- One row of the active set (R198, R213): row number, equality turned round, multiplier. -/
structure QpRow where
  row  : Nat
  flip : Bool
  u    : Option Rat
  deriving DecidableEq, Repr

/-- A warm-start record (R218): signature, result code, the rows of W in order of entry. -/
structure QpRecord where
  sig    : Word
  result : Nat
  rows   : List Nat
  deriving DecidableEq, Repr

/-- One QPS template: its problem, factor and solver state (R199 to R221). Values are exact; none is NaN. words holds the words of
block b at key 2^18 b + element. fault is where NaN or breakdown arose: operation and pass. -/
structure QpTpl where
  words    : Tab Word := []
  maskOff  : List Nat := []
  rowOff   : List Nat := []
  qual     : Qual := qGood
  nanIn    : Bool := false
  sigBytes : List Byte := []
  sig      : Word := 0
  l        : List (List (Option Rat)) := []
  d        : List (Option Rat) := []
  dinv     : List (Option Rat) := []
  valid    : Bool := false
  pivot    : Option (Nat × Word) := none
  c1       : Nat := 0
  hfact    : Bool := false
  halted   : Bool := false
  result   : Nat := 15
  cand     : Option QpRow := none
  candS    : Option Rat := none
  passes   : Nat := 0
  active   : List QpRow := []
  schur    : List (List (Option Rat)) := []
  prio     : List Nat := []
  satd     : List Nat := []
  x        : List (Option Rat) := []
  flags    : Nat := 0
  range    : Nat × Nat := (0, 0)
  prev     : Option QpRecord := none
  imported : Option QpRecord := none
  broken   : Bool := false
  solves   : Half := 0
  colds    : Half := 0
  tstat    : Word := 0x0000000F#32
  tsig     : Word := 0
  deriving DecidableEq, Repr

/-- A latched arm or disarm of the QPS capture (R226). -/
structure QpCapReq where
  tpl : Nat
  arm : Bool
  due : Nat
  mbx : Nat
  deriving DecidableEq, Repr

/-- The QP solver engine and its capture (R197 to R227). -/
structure Qps where
  tpls     : Tab QpTpl := []
  fsaTpl   : Nat := 0
  farTpl   : Nat := 0
  fsaUntil : Nat := 0
  farUntil : Nat := 0
  capReqs  : List QpCapReq := []
  capTpl   : Nat := 0
  capArmed : Bool := false
  capFull  : Bool := false
  cap      : List Word := []
  capRows  : List Nat := []
  deriving DecidableEq, Repr

/-- A mode machine (R228, R232, R238 to R245): the real one, and the simulated one of R262. mode is the mode in force; incoming is
the mode of the other seat, armed or being handed over to (0 none); a DIRECT transition has its mode in force at once. -/
structure ModeRec where
  mode     : Nat := 0
  incoming : Nat := 0
  seat     : Nat := 0
  outgoing : Nat := 0
  direct   : Bool := false
  ho       : Bool := false
  alpha    : Rat := 0
  step     : Rat := 0
  hoCyc    : Nat := 0
  armCyc   : Nat := 0
  spTaken  : Bool := false
  failed   : Bool := false
  deriving DecidableEq, Repr

/-- The stored set-point of a mode (R242). -/
structure SetPoint where
  given : Bool := false
  n     : Option Rat := some 0
  e     : Option Rat := some 0
  psi   : Word := 0
  nB    : Option Rat := some 0
  eB    : Option Rat := some 0
  speed : Option Rat := some 0
  deriving DecidableEq, Repr

/-- A seat's plan (R249, R250): one X, Y, N for each block, none before the first accepted solve; time in frames. -/
structure Plan where
  blocks  : List (Rat × Rat × Rat) := []
  qual    : Qual := qGood
  time    : Nat := 0
  seen    : Nat := 256
  rejects : Nat := 0
  ended   : Bool := false
  deriving DecidableEq, Repr

/-- A latched mode request of the mailbox (R236). -/
structure ModeReq where
  mode   : Nat
  action : Nat
  due    : Nat
  mbx    : Nat
  deriving DecidableEq, Repr

/-- One consequence-analysis group (R261): last verdict 0 none, 1 PASS, 2 UNKNOWN, 3 FAIL; runs of counted verdicts. -/
structure CaGroup where
  verdict : Nat := 0
  fails   : Nat := 0
  passes  : Nat := 0
  alarm   : Bool := false
  deriving DecidableEq, Repr

/-- Sector bookkeeping of one thruster (R252). -/
structure ThrState where
  sided : Bool := false
  pin0  : Nat := 0
  pin1  : Nat := 0
  deriving DecidableEq, Repr

/-- The mode machine, the demand, allocation and power (R228 to R266). -/
structure Modes where
  m        : ModeRec := {}
  sim      : ModeRec := {}
  sps      : Tab SetPoint := []
  spSeen   : Nat := 256
  reqSeen  : Nat := 256
  orgSeen  : Nat := 65536
  orgSet   : Bool := false
  req      : Option ModeReq := none
  lastReq  : Nat × Nat × Nat := (0, 0, 0)
  hoDiff   : List Word := []
  tauD     : List Rat := []
  plan0    : Plan := {}
  plan1    : Plan := {}
  bounds   : List Rat := []
  give     : Tab Rat := []
  giveQ    : Qual := qGood
  flrLim   : List (Nat × Rat) := []
  flrEnd   : Nat := 0
  flrGrp   : Nat := 0
  brkPrev  : List (Bool × Qual) := []
  tiePrev  : List Qual := []
  busGrp   : Word := 0
  hold     : Bool := false
  holdCyc  : Half := 0
  lost     : Bool := false
  result   : Nat := 15
  thr      : Tab ThrState := []
  ca       : Tab CaGroup := []
  simX     : List (Option Rat) := []
  deriving DecidableEq, Repr

/-- What a latched LCE command asks for (R280, R281, R288, R290). -/
inductive LceCmd where
  | mode (auto : Bool) (mv : Option Word)
  | bank (b : Bool)
  | start (t : LceTest)
  | stop
  | arm (dec : Nat)
  | disarm
  | page (n : Nat)
  deriving DecidableEq, Repr

/-- A pending LCE command (R282). -/
structure LcePend where
  ctx : Nat
  cmd : LceCmd
  due : Nat
  mbx : Nat
  deriving DecidableEq, Repr

/-- The injection generator (R288, R289): test is the waveform in force, next the one that replaces it from the next sample, i the sample number, role
the role state it began in, moved whether that has changed since. -/
structure LceInj where
  active : Bool := false
  ctx    : Nat := 0
  test   : LceTest := {}
  next   : Option LceTest := none
  i      : Nat := 0
  phase  : Word := 0
  delta  : Word := 0
  reg    : Nat := 0
  role   : Nat := 0
  moved  : Bool := false
  reason : BitVec 3 := 0
  deriving DecidableEq, Repr

/-- The loop control engine (R267 to R295). The context state records and the capture buffer lie in the work area of LCEK in the
Chart store. starts: which contexts begin a START phase at their next sample, 1 after the schedule start, 2 after an enable. -/
structure Lce where
  starts   : Tab Nat := []
  recov    : List Nat := []
  cmds     : List LcePend := []
  inj      : LceInj := {}
  page     : BitVec 5 := 0
  capCtx   : Nat := 0
  capDec   : Nat := 0
  capFull  : Bool := false
  capArmed : Bool := false
  capCnt   : Nat := 0
  capSkip  : Nat := 0
  capT0    : Nat × Nat := (0, 0)
  deriving DecidableEq, Repr

/-- The values of a context's state record (Table 8-9). A BAM32 word is its number of 2^-32 turns; none is NaN. -/
structure LceVals where
  rP      : Option Rat
  eP      : Option Rat
  wP      : Option Rat
  xP      : Option Rat
  dd      : Option Rat
  ii      : Option Rat
  uP      : Option Rat
  uMan    : Option Rat
  status  : Nat
  reinit  : Bool
  left    : Nat
  hold    : Nat
  samples : Nat
  lims    : List (Option Rat)
  deriving DecidableEq, Repr


/-- One FCE channel (R299 to R307). skip counts the marker and the skip values still to come; pos is the number of values of the
window taken; rank and fir run newest first; a biquad holds x1, x2, y1, y2. -/
structure FceChan where
  started  : Bool := false
  sel      : BitVec 2 := 0
  skip     : Nat := 0
  pos      : Nat := 0
  win      : Nat := 0
  acc      : List Dword := []
  comb     : List Dword := []
  rank     : List (Option Int) := []
  fir      : List (Option Int) := []
  bq       : List (List Int) := []
  held     : Word := 0
  settled  : Bool := false
  left     : Nat := 0
  stepN    : Nat := 0
  coarse   : List Int := []
  age      : Nat := 0
  restarts : Byte := 0
  cause    : BitVec 3 := 0
  fines    : Nat := 0
  pendCmd  : Bool := false
  pendEn   : Bool := false
  deriving DecidableEq, Repr

/-- The filter chain engine and the quadrature decoders (R296 to R316). selFifo and zeroFifo carry the selects and clears on their
way to ACLK, oldest first. -/
structure Fce where
  chans    : Tab FceChan := []
  ignCnt   : Half := 0
  groups   : Byte := 0
  selFifo  : List (Handed (Nat × BitVec 2)) := []
  zeroFifo : List (Handed Nat) := []
  qcount   : Tab Word := []
  qerr     : Tab Half := []
  deriving DecidableEq, Repr


/-- One loop output (R318 to R327). A code of none is gate off. state is 1 RUN, 2 HOLD, 3 FAIL; stage is the state code of Table 10-4
last applied; level is 0 none, 1 LOW, 2 HIGH, 3 OFF; fifo carries codes to ACLK, latch is the code held for a strobe. -/
structure Lpo where
  code    : Option Nat := some 0
  fifo    : List (Handed (Option Nat)) := []
  latch   : Option Nat := some 0
  applied : Option Nat := some 0
  frozen  : Option Nat := some 0
  state   : BitVec 2 := 1
  stage   : BitVec 3 := 0
  cause   : BitVec 3 := 0
  level   : BitVec 2 := 0
  almOk   : Bool := false
  judged  : Bool := false
  comp    : Bool := false
  ovr     : Bool := false
  rbLost  : Bool := false
  rbTest  : Bool := false
  limit   : Bool := false
  hold    : Nat := 0
  mis     : Nat := 0
  misHigh : Bool := false
  blank   : Nat := 0
  loss    : Nat := 0
  almRun  : Nat := 0
  almIn   : Bool := false
  y       : Int := 0
  deriving DecidableEq, Repr

/-- One loop input (R330). -/
structure Lpi where
  status : BitVec 3 := 0
  last   : BitVec 3 := 0
  lo     : Nat := 0
  hi     : Nat := 0
  ok     : Nat := 0
  deriving DecidableEq, Repr

/-- The exchange a HART port is in: a transaction, or the pass-through; the requests sent; whether a response is awaited. -/
structure HartCur where
  txn      : Option Nat
  attempts : Nat
  await    : Bool
  deriving DecidableEq, Repr

/-- A pass-through request (R339). -/
structure HartPass where
  mbx  : Nat
  addr : Nat
  cmd  : Nat
  long : Bool
  data : List Byte
  due  : Nat
  deriving DecidableEq, Repr

/-- One HART port (R333 to R340). timer is the wait in force before a request: 1 RT1, 2 RT2, running since a cycle; sent is the last frame sent
and sentAt the cycle at which its first character left; pos is the next cyclic transaction. -/
structure HartPort where
  carrier : Bool := false
  timer   : BitVec 2 := 0
  since   : Nat := 0
  sentAt  : Nat := 0
  cur     : Option HartCur := none
  pos     : Nat := 0
  armed   : List Nat := []
  pass    : Option HartPass := none
  result  : BitVec 3 := 0
  lastTxn : Nat := 0
  fails   : Byte := 0
  done    : Word := 0
  failed  : Word := 0
  sent    : List Byte := []
  deriving DecidableEq, Repr

/-- A latched LOOP-CLEAR (R326). -/
structure LoopClear where
  chan : Nat
  due  : Nat
  mbx  : Nat
  deriving DecidableEq, Repr

/-- The current loops and HART (R317 to R343). ids holds learned addresses by 16 · port + ADDR, snaps the request values of a
transaction. -/
structure Loops where
  lpo    : Tab Lpo := []
  lpi    : Tab Lpi := []
  hart   : Tab HartPort := []
  ids    : Tab (Option (BitVec 40)) := []
  snaps  : Tab (List Word) := []
  clears : List LoopClear := []
  alj    : BitVec 4 := 0
  aljRec : Option (BitVec 4) := none
  deriving DecidableEq, Repr



/-- One entry of the duplicate table (R347): sender and sequence number, when it was made, directions it has been forwarded in
(out of ETH0, out of ETH1), whether a copy has been taken for local delivery. -/
structure DupEntry where
  src  : BitVec 48
  seq  : BitVec 16
  born : Nat
  fwd0 : Bool
  fwd1 : Bool
  got  : Bool
  deriving DecidableEq, Repr

/-- A record of a vote window (R355): unit code, its time, words and quality codes, whether its frame had VOT set. -/
structure Cand where
  code  : Nat
  ns    : Nat
  words : List Word
  quals : List Qual
  vot   : Bool
  deriving DecidableEq, Repr

/-- One subscription (R354, R355): the latest time of each unit's candidate, the end of a dual episode in PTP time, the vote window,
the words of the last vote. -/
structure PackSub where
  last   : Tab Nat := []
  dualTo : Nat := 0
  window : List Cand := []
  voted  : List (Option Word) := []
  deriving DecidableEq, Repr

/-- The pack switch PSW (R347 to R355, R388). -/
structure Psw where
  dups   : List DupEntry := []
  asm    : List PackRec := []
  fseq   : Half := 0
  hsr    : Half := 0
  sent   : Option PackFrame := none
  wire0  : List Byte := []
  wire1  : List Byte := []
  fwd    : Option (BitVec 48 × BitVec 16 × Bool) := none
  fwdBad : Bool := false
  fwdCorr : Option Int := none
  dup    : Word := 0
  alien  : Half := 0
  bad    : Half := 0
  wFwd   : Half := 0
  wLoc   : Half := 0
  link   : BitVec 2 := 0
  subs   : Tab PackSub := []
  lost1  : Byte := 0
  lost2  : Byte := 0
  lost3  : Byte := 0
  deriving DecidableEq, Repr

/-- A frame in a link's transmitter (R357): TYPE, payload bytes, when its /S/ leaves, in half nanoseconds, and the mailbox that waits for its end. -/
structure LeashTx where
  type  : BitVec 2
  len   : Nat
  start : Nat
  mbx   : Option Nat
  deriving DecidableEq, Repr

/-- One Leash link (R356 to R358, R363, R388). cur and pend are the two halves of its landing buffer: the complete Bark, and one whose
toggle is still crossing with the cycle of its completion. fresh counts the ROLE_STEPs for which a Bark counts as fresh. plan holds the frames that wait or
are on the wire; wire is the last frame formed, TYPE to CRC. -/
structure LeashLink where
  up      : Bool := false
  aligned : Bool := false
  lseq    : Byte := 0
  lost    : Byte := 0
  codeErr : Half := 0
  crcErr  : Half := 0
  cur     : Option Bark := none
  pend    : Option (Bark × Nat) := none
  seen    : Option Half := none
  latest  : Option Bark := none
  fresh   : Nat := 0
  unexp   : Option Nat := none
  mism    : Option Nat := none
  txBark  : Option Bark := none
  txEq    : Option EqItem := none
  txCmd   : Option LeashCmd := none
  wire    : List Byte := []
  plan    : List LeashTx := []
  cmdIn   : Option Nat := none
  deriving DecidableEq, Repr

/-- A received equalisation item and the frame from which it may be imported (R369). -/
structure EqHeld where
  item  : EqItem
  avail : Nat
  deriving DecidableEq, Repr

/-- A swap (R371 to R374). state is that of PACK_STAT.SWAP; at is S; c0 the cycle of the offer; answer what the partner side of it has
decided (0 nothing, 1 accept, 2 decline); retry the cycle from which it may be offered again. -/
structure Swap where
  state    : BitVec 3 := 0
  c0       : Nat := 0
  at_      : Nat := 0
  partner  : Bool := false
  answer   : BitVec 2 := 0
  reason   : Byte := 0
  abortAt  : Option Nat := none
  switched : Bool := false
  takes    : Bool := false
  deferred : Bool := false
  retry    : Nat := 0
  merid    : Nat := 0
  req      : Option (Nat × Nat) := none
  mbx      : Option Nat := none
  deriving DecidableEq, Repr

/-- A duplex restore that is pending (R379): named unit, cycle, the mailbox that asked. -/
structure DuplexReq where
  target : Nat
  cyc    : Nat
  mbx    : Option Nat
  deriving DecidableEq, Repr

/-- The redundancy machine (R344, R346, R360 to R383). ilk is coded as PACK_STAT.ILK_IN: 0 LOW, 1 CLAIM, 2 HIGH. claimAt is the
cycle number of the role step whose claim window runs; winOk whether ILK_IN has stayed LOW in it; take why the Collar is due. roleNext
is a role change for the next frame boundary, joinAt and voteAt the pack cycles of a change to VOTING; actFrom the CCLK cycle from
which the unit is ACTIVE with the Collar. -/
structure Pack where
  holder   : Bool := false
  claiming : Bool := false
  ilk      : BitVec 2 := 0
  strapErr : Bool := false
  leaseLeft : Nat := 0
  renewed  : Bool := false
  why      : BitVec 3 := 0
  window   : Bool := false
  winOk    : Bool := false
  claimAt  : Nat := 0
  ilkEdge  : Nat := 0
  releasing : Bool := false
  relUntil : Nat := 0
  yielding : Bool := false
  roleNext : Option DevState := none
  voteAt   : Option Nat := none
  fallWhy  : Byte := 0
  dup      : Option DuplexReq := none
  dupClaim : Bool := false
  joinAt   : Option Nat := none
  swap     : Swap := {}
  actFrom  : Option Nat := none
  ilkFault : Bool := false
  misRun   : Nat := 0
  blocked  : Bool := false
  noHold   : Nat := 0
  actSeen  : List Nat := []
  firstRs  : Bool := false
  bseq     : Half := 0
  eqOk     : Bool := false
  eqHeld   : List EqHeld := []
  eqVers   : Tab (Option Nat) := []
  eqRx     : Half := 0
  eqDisc   : Half := 0
  links    : Tab LeashLink := []
  psw      : Psw := {}
  deriving DecidableEq, Repr


/-- One CAN message object (R430, R432). stat is coded as CAN_OBJn_k.TXSTAT; again marks a new request made while the object's frame is
on the wire; cancel a cancel that waits on that frame. -/
structure CanObj where
  seq    : Byte := 0
  stat   : BitVec 3 := 0
  id     : BitVec 29 := 0
  ide    : Bool := false
  fdf    : Bool := false
  brs    : Bool := false
  esi    : Bool := false
  dlc    : BitVec 4 := 0
  data   : List Byte := []
  again  : Bool := false
  cancel : Bool := false
  count  : Nat := 0
  deriving DecidableEq, Repr

/-- What the CCLK-to-KCLK FIFO of a controller carries (R432, R433): an object's payload, or a cancel. -/
inductive CanFifo where
  | tx (obj : Nat) (data : List Byte)
  | cancel (obj : Nat)
  deriving DecidableEq, Repr

/-- A latched CAN-VIEW (R437). -/
structure CanView where
  obj : Nat
  due : Nat
  mbx : Nat
  deriving DecidableEq, Repr

/-- One CAN controller (R428 to R437). state is coded as CAN_STATn.STATE; wire is the object whose frame is on the wire. -/
structure CanCtl where
  state  : BitVec 3 := 0
  tec    : Nat := 0
  rec_   : Nat := 0
  lonely : Bool := false
  ackRun : Half := 0
  errFr  : Half := 0
  rx     : Half := 0
  tx     : Half := 0
  view   : Option Nat := none
  field  : Half := 0
  unm    : Half := 0
  fifo   : List (Handed CanFifo) := []
  wire   : Option Nat := none
  objs   : Tab CanObj := []
  views  : List CanView := []
  deriving DecidableEq, Repr

/-- One serial port (R438 to R443). fifo carries telegrams to SCLK, queue holds those that have arrived, wire the one on the line since the
CCLK cycle wireAt; the last stop bit left it at endAt. startAt is the cycle of the port's start or enable, closes the RAW chunk times that have
passed since; counts the telegrams matched by each descriptor. -/
structure SerPort where
  fifo   : List (Handed (List Byte)) := []
  queue  : List (List Byte) := []
  wire   : Option (List Byte) := none
  wireAt : Nat := 0
  endAt  : Option Nat := none
  landed : Half := 0
  unm    : Half := 0
  char   : Byte := 0
  check  : Byte := 0
  long   : Byte := 0
  drop   : Byte := 0
  clamp  : Half := 0
  field  : Half := 0
  chunk  : Half := 0
  startAt : Nat := 0
  closes : Nat := 0
  counts : Tab Nat := []
  deriving DecidableEq, Repr

/-- A datagram that has left for the transmit FIFO (R447). -/
structure Datagram where
  dstMac  : Nat
  dstIp   : Nat
  dstPort : Nat
  srcPort : Nat
  ident   : Half
  payload : List Byte
  deriving DecidableEq, Repr

/-- One Ethernet port (R444 to R448). cyc and inCyc: the pack cycle of PTP time and the frames delivered in it; excess: those discarded
in it; wire: the bytes of the last frame sent; raw, rawAt and seqs: RAW queue, PTP time from which its pace counts, and chunk sequence of each
descriptor; arp: the last ARP reply, target address and hardware address. -/
structure EthPort where
  speed  : BitVec 2 := 0
  cyc    : Nat := 0
  inCyc  : Nat := 0
  excess : Nat := 0
  landed : Half := 0
  disc   : Half := 0
  fcs    : Half := 0
  limit  : Half := 0
  sentN  : Half := 0
  supp   : Half := 0
  ident  : Half := 0
  sent   : Option Datagram := none
  wire   : List Byte := []
  arp    : Option (BitVec 32 × BitVec 48) := none
  raw    : Tab (List Byte) := []
  rawAt  : Tab Nat := []
  seqs   : Tab Half := []
  counts : Tab Nat := []
  deriving DecidableEq, Repr

/-- The field ports (chapter 13). -/
structure Ports where
  can : Tab CanCtl := []
  ser : Tab SerPort := []
  eth : Tab EthPort := []
  deriving DecidableEq, Repr

/-- What an operation in flight replaces when its table region is written (R56): the observer, the solution that the navigation unit keeps, a template,
the mode state, a context's state record in the Chart store, the pack assembly. -/
inductive Piece where
  | obs (o : Obs)
  | nav (n : Nav)
  | tpl (t : Nat) (q : QpTpl)
  | modes (m : Modes)
  | bytes (a : Nat) (l : List Byte)
  | asm (l : List PackRec)
  deriving DecidableEq, Repr

/-- An operation in flight that writes a table region: its last cycle and what stood in the region. -/
structure Flight where
  till  : Nat
  piece : Piece
  deriving DecidableEq, Repr

/-- The device: every register, buffer, table, mode and pin level the spec names, and the queue of waiting commands, first in,
first out. Times in cclk are CCLK cycles since power was first applied. -/
structure State where
  pending : List Instr := []
  pins    : Pins := {}
  aon     : Aon := {}
  boot    : Boot := {}
  hdr     : Hdr := {}
  sects   : List Sect := []
  cclk    : Nat := 0
  flash   : Mem := []
  sram    : Mem := []
  logMem  : Mem := []
  seq     : Seq := {}
  cck     : Cck := {}
  sdir    : Tab SdirEntry := []
  dirid   : Word := 0
  lbus    : Tab Lbu := []
  funcReqs : List FuncReq := []
  disabled : List (Nat × Nat) := []
  forces  : List ForceReq := []
  evm     : Evm := {}
  recd    : Recorder := {}
  mbx     : Tab Mbx := []
  host    : HostIf := {}
  fuses   : Fuses
  sec     : Sec := {}
  pwr     : Pwr := {}
  brs     : Brs := {}
  tj      : Tj := {}
  gpio0   : GpioBank := {}
  gpio1   : GpioBank := {}
  draws   : Nat := 0
  ptc     : Ptc := {}
  cal     : Cal := {}
  ttu     : Ttus := {}
  obs     : Obs := {}
  nav     : Nav := {}
  qps     : Qps := {}
  modes   : Modes := {}
  lce     : Lce := {}
  fce     : Fce := {}
  loops   : Loops := {}
  pack    : Pack := {}
  ports   : Ports := {}
  flight  : List Flight := []
  deriving DecidableEq, Repr

/-- Why a step ends in a fault. No command of this block does: the spec gives each an effect, and an event that cannot occur
in the state it meets changes nothing. -/
inductive Fault where
  /-- Raised by nothing: kept so that the type has a name for it (safe). -/
  | none
  deriving DecidableEq, Repr

/-- Why a step is refused. -/
inductive Refusal where
  /-- The command has no meaning yet; raised by an arm of exec only (safe). -/
  | notModelled (mnemonic : String)
  deriving DecidableEq, Repr

/-- The device with the power-on detector asserted, before any Chart has been loaded: RESET, KIND POWER-ON, outputs in their
boot state (R87, R89, R91), life cycle BLANK (R10). -/
def State.reset : State where
  fuses := { uid := Config.uid, rootHash := Config.rootHash }

end Sys2Proof.Machine
end

