-- ==== Sys2Proof/Machine/Ops.lean ====
section
/-! DEFINITION. Sys2Proof/Machine/Ops.lean: the named operations that the commands share: reading the Chart's tables, time,
the directory, landing buffers, events, issue of a scheduled operation, mailboxes, the state transitions. -/

namespace Sys2Proof.Machine

/-- What a step answers. -/
abbrev Res := Host.Outcome State Fault Refusal

/-! ### The running Chart's tables (R28 to R31): little-endian fields of a section in its store. -/

/-- The section of a type and instance in the running Chart, if it has one (R31). -/
def sectOf (s : State) (t : SectType) (i : Nat) : Option Sect := s.sects.find? (fun x => x.type = t ∧ x.inst = i)

/-- Does the running Chart hold this section? -/
def hasSect (s : State) (t : SectType) (i : Nat) : Bool := (sectOf s t i).isSome

/-- The number in the n bytes at an offset of a section; an absent section reads as 0, as a wiped store does. -/
def fld (s : State) (t : SectType) (i off n : Nat) : Nat :=
  match sectOf s t i with
  | none => 0
  | some x => leNat (memBytes 0 s.sram (x.dest + off) n)

def fld8 (s : State) (t : SectType) (i off : Nat) : Nat := fld s t i off 1
def fld16 (s : State) (t : SectType) (i off : Nat) : Nat := fld s t i off 2
def fld32 (s : State) (t : SectType) (i off : Nat) : Nat := fld s t i off 4

/-- A signed field of n bytes. -/
def sfld (s : State) (t : SectType) (i off n : Nat) : Int := signedOf (8 * n) (fld s t i off n)

/-- Bytes of a section. -/
def fldBytes (s : State) (t : SectType) (i off n : Nat) : List Byte :=
  match sectOf s t i with
  | none => List.replicate n 0
  | some x => memBytes 0 s.sram (x.dest + off) n

/-- A field of the pack block of PWRT (Table 15-11: PACK_OFF). -/
def packFld (s : State) (off n : Nat) : Nat := fld s .pwrt 0 (fld32 s .pwrt 0 0x08 + off) n

/-- A field of the loop block of PWRT (Table 15-11: LOOP_OFF). -/
def loopFld (s : State) (off n : Nat) : Nat := fld s .pwrt 0 (fld32 s .pwrt 0 0x04 + off) n

/-! ### Time (R22, R47, R389). -/

/-- Units of 2^-32 ns in one nanosecond. -/
def ptcUnit : Nat := 4294967296

/-- The PTC counter in whole nanoseconds. -/
def ptcNs (s : State) : Nat := s.ptc.counter / ptcUnit

/-- The increment ADD of one TCLK edge at rate adjustment r (R389). -/
def ptcAdd (r : Rat) : Nat := (roundEven ((4 * 4294967296) * (1 + r / 1000000000000))).toNat

/-- The calendar after n CCLK cycles of 2.5 ns (R414): 256/3,125,000 of a count each. -/
def calElapse (n : Nat) (c : Cal) : Cal :=
  if c.valid then
    let p := c.part + 256 * n
    { c with count := c.count + p / 3125000, part := p % 3125000 }
  else c

/-- The eighths of a 250 MHz TCLK period in n CCLK cycles: 5 each at the nominal 400 MHz; a positive trim, in parts per 10^9, makes CCLK
faster and the cycles shorter (R15, R26). -/
def tclkEighths (s : State) (n : Nat) : Rat :=
  if s.seq.trim = 0 then ((5 * n : Nat) : Rat) else ((5 * n : Nat) : Rat) * (1000000000 / (1000000000 + (s.seq.trim : Rat)))

/-- The fed-forward term: r in ppb, rounded (R26). -/
def feedForward (s : State) : Rat := ((roundEven (s.ptc.r / 1000) : Int) : Rat)

/-- The trim before the schedule starts: the fed-forward term alone (R26). -/
def trimAlone (s : State) : State := { s with seq := { s.seq with trim := clampI (-200000) 200000 (roundEven (feedForward s)) } }

/-- Let n CCLK cycles pass: the cycle counter, the calendar and, on its 250 MHz edges, the PTC counter (R389: 4 ns for each TCLK
edge, with the CCLK rate that the trim gives, R15, R26); a domain that a PGATE named is gated from the next tick (R42). -/
def elapse (n : Nat) (s : State) : State :=
  let eighths := s.ptc.phase + tclkEighths s n
  { s with
    cclk := s.cclk + n
    pwr := if n = 0 then s.pwr else { s.pwr with gated := s.pwr.gated ||| s.pwr.gatePend, gatePend := 0 }
    cal := calElapse n s.cal
    ptc := { s.ptc with counter := s.ptc.counter + (eighths / 8).floor.toNat * ptcAdd s.ptc.r, phase := eighths - 8 * ((eighths / 8).floor : Int), edges := s.ptc.edges + (eighths / 8).floor.toNat } }

/-- A scheduled event at tick t of the frame: the ticks until then pass, if they have not passed yet. -/
def toTick (t : Nat) (s : State) : State :=
  if s.seq.tick < t then { elapse (t - s.seq.tick) s with seq := { s.seq with tick := t } } else s

/-- Nominal PTP time of the current frame start, in half nanoseconds (R22). -/
def frameStartHalf (s : State) : Nat := 2000000000 * s.hdr.t0 + 5 * (s.seq.k * s.hdr.f)

/-- The time at the present tick in half nanoseconds (R47): from the frame start while the schedule runs, from the counter
before it does. -/
def nowHalf (s : State) : Nat := if s.seq.run then frameStartHalf s + 5 * s.seq.tick else 2 * ptcNs s

/-- The time of the present tick in whole nanoseconds. -/
def nowNs (s : State) : Nat := nowHalf s / 2

/-- The time L ticks after the present one, in whole nanoseconds: when a result of latency L is readable (R19). -/
def nowNsAt (s : State) (l : Nat) : Nat := (nowHalf s + 5 * l) / 2

/-- WTIME of a time in nanoseconds (Table 2-1). -/
def wtimeOf (ns : Nat) : Word := w32 (((ns / 1000000000) % 4) * 2 ^ 30 + ns % 1000000000)

/-- WTIME of the result of an operation of latency L issued now. -/
def opTime (s : State) (l : Nat) : Word := wtimeOf (nowNsAt s l)

/-- PTP seconds modulo 2^32 and nanoseconds of a time in nanoseconds (R47). -/
def stampOf (ns : Nat) : Word × Word := (w32 (ns / 1000000000), w32 (ns % 1000000000))

/-- The frame at whose start a request latched now takes effect (R51, R74, R106): the next frame up to tick F - 48, the one
after it later. -/
def latchFrame (s : State) : Nat := if s.seq.tick + 48 ≤ s.hdr.f then s.seq.k + 1 else s.seq.k + 2

/-- Time quality (Table 12-6). -/
def timeQual (s : State) : Nat :=
  if s.ptc.status = 0 then (if s.cal.valid then 1 else 0)
  else if s.ptc.status = 1 then 2 else if s.ptc.status = 2 then 3 else 4

/-- Kind of source index i of TTUT (Table 12-9); index 4 is none. -/
def srcKind (s : State) (i : Nat) : Nat := if i < 4 then fld8 s .ttut 0 i else 0

/-- UTC offset in seconds, and the rule of R415 that gave it. -/
def utcOf (s : State) : Int × Nat :=
  let k := srcKind s s.ptc.sel
  let ports : List Nat := if k = 2 then [0, 1] else if k = 3 then [2] else if k = 4 then [3] else []
  match ports.findSome? (fun p => ((tget {} s.ptc.ports p).best.filter (fun _ => (tget {} s.ptc.ports p).slave)).bind (fun a => if a.utcValid then some a.utcOff else none)) with
  | some o => (o, 1)
  | none =>
    match (if k = 1 then s.nav.leap else none) with
    | some l => (l + 19, 2)
    | none => if s.cal.valid then (s.cal.utc, 3) else (sfld s .ttut 0 0x2A 2, 4)

/-- TIME of a record raised now (R464): UTC in microseconds with the quality in [63:61]; with quality NONE, microseconds since
the last reset release. -/
def recTime (s : State) : Dword :=
  let q := timeQual s
  let ns : Int :=
    if q = 0 then (((s.cclk - s.boot.releaseAt) * 5 / 2 : Nat) : Int)
    else if q = 1 then ((s.cal.count * 1000000000 / 32768 : Nat) : Int) - s.cal.utc * 1000000000
    else (nowNs s : Int) - (utcOf s).1 * 1000000000
  BitVec.ofInt 64 ((ns / 1000) % 2 ^ 61) + BitVec.ofNat 64 (q * 2 ^ 61)

/-! ### Events and records (R453 to R466). -/

/-- What a byte of the log memory that nothing has written reads as. -/
def logBlank : Byte := 0xFF#8

/-- Codes that are always recorded (R461): Table 1-13, 0x0140 to 0x014A, TIME_STEP, EVT_SUPPRESSED, REC_LOG_STATE. -/
def alwaysRecorded (code : Nat) : Bool :=
  (0x0101 ≤ code && code ≤ 0x010A) || (0x0140 ≤ code && code ≤ 0x014A)
    || code == 0x0C08 || code == 0x0E00 || code == 0x0E01

/-- A field of EVMT entry n (Table 14-1). -/
def evmtFld (s : State) (n off len : Nat) : Nat := fld s .evmt 0 (64 + 16 * n + off) len

/-- The slot that serves an event code: the one that names it, or slot 255 (R453). -/
def evSlotOf (s : State) (code : Nat) : Nat :=
  ((List.range 255).find? (fun n => evmtFld s n 0 2 == code)).getD 255

def evSlot (s : State) (n : Nat) : EvSlot := tget {} s.evm.slots n

def modEvSlot (n : Nat) (f : EvSlot → EvSlot) (s : State) : State :=
  { s with evm := { s.evm with slots := tmod {} s.evm.slots n f } }

/-- The order of two events of one raise tick (R457): ascending slot, then ascending first parameter. -/
def keyLe (a b : Nat × Nat) : Bool := decide (a.1 < b.1) || (a.1 == b.1 && decide (a.2 ≤ b.2))

/-- The events of a tick with a further one in its place, after those of the same key. -/
def addRaised (e : Raised) (l : List Raised) : List Raised :=
  l.filter (fun x => keyLe x.key e.key) ++ e :: l.filter (fun x => !keyLe x.key e.key)

/-- A 16-bit counter that saturates. -/
def satHalfInc (h : Half) : Half := if h = 0xFFFF#16 then h else h + 1

/-- Put a formed record into staging, or into the pre-wipe queue before the end of the first wipe (R466, R470). -/
def stageRec (r : Rec) (s : State) : State :=
  if s.boot.firstWipe then
    if s.recd.preq.length < 16 then { s with recd := { s.recd with preq := s.recd.preq ++ [r] } }
    else { s with recd := { s.recd with lostPre := satHalfInc s.recd.lostPre } }
  else if s.recd.hasLog && 4096 ≤ s.recd.staging.length then
    { s with recd := { s.recd with lostStage := satHalfInc s.recd.lostStage, lostFlag := true } }
  else
    let r := { r with seq := s.recd.head, flags := if s.recd.lostFlag then r.flags ||| 4#8 else r.flags }
    let old := if 4096 ≤ s.recd.staging.length then s.recd.staging.drop 1 else s.recd.staging
    { s with recd := { s.recd with staging := old ++ [r], writeAt := if old.isEmpty then s.cclk else s.recd.writeAt, head := s.recd.head + 1, numbered := s.recd.numbered + 1, lostFlag := false } }

/-- Form the record of an event of a slot and stage it. -/
def recordEv (slot code : Nat) (p0 p1 p2 : Word) (time : Dword) (s : State) : State :=
  let sev := if s.boot.sealed then evmtFld s slot 2 1 % 4 else 0
  let flags := sev + (if s.boot.sealed then 0 else 8)
  stageRec { code := BitVec.ofNat 16 code, flags := BitVec.ofNat 8 flags, source := BitVec.ofNat 8 slot, time := time,
             p0 := p0, p1 := p1, p2 := p2 } s

/-- Count an event of a slot (EVT_STAT.RAISED, EVT_CNTn.RAISED) and set its sticky bit when EVMT says so (R458). -/
def touchSlot (slot : Nat) (s : State) : State :=
  let s := modEvSlot slot (fun e => { e with raised := e.raised + 1 }) { s with evm := { s.evm with raised := s.evm.raised + 1 } }
  if s.boot.sealed && bitOf (evmtFld s slot 2 1) 2 then
    { s with evm := { s.evm with sticky := tmod 0 s.evm.sticky (slot / 32) (fun w => w ||| BitVec.ofNat 32 (2 ^ (slot % 32))) } }
  else s

/-- EVT_SUPPRESSED ahead of a slot's next record, when events of the slot have been suppressed (R462). -/
def flushSuppressed (slot : Nat) (time : Dword) (s : State) : State :=
  let e := evSlot s slot
  if e.hidden = 0 then s
  else
    let sl := evSlotOf s 0x0E00
    let s := recordEv sl 0x0E00 (w32 slot) (e.lastCode.setWidth 32) (w32 e.hidden) time (touchSlot sl s)
    modEvSlot slot (fun e => { e with hidden := 0 }) s

/-- The refill times of a slot since the seal: every 400,000 × REFILL ticks (R460). -/
def refillTimes (s : State) (slot : Nat) : Nat := (s.cclk - s.boot.sealAt) / (400000 * max 1 (evmtFld s slot 6 2))

/-- A slot's bucket with the tokens it has gained, up to CAP. -/
def settleBucket (slot : Nat) (s : State) : State :=
  modEvSlot slot (fun e => { e with used := e.used - (refillTimes s slot - e.refills), refills := refillTimes s slot }) s

/-- EVM takes an event (R453 to R462): sticky bit, rate limit, record. Before the seal every event is recorded through slot 255 with
SEV 0 and no bucket. -/
def takeEvent (s : State) (x : Raised) : State :=
  if s.boot.sealed then
    let slot := evSlotOf s x.code
    let s := touchSlot slot s
    let record (s : State) : State := recordEv slot x.code x.p0 x.p1 x.p2 x.time (flushSuppressed slot x.time s)
    if alwaysRecorded x.code then record s
    else if bitOf (evmtFld s slot 3 1) 0 then s
    else if evmtFld s slot 6 2 = 0 then record s
    else
      let s := settleBucket slot s
      if (evSlot s slot).used < evmtFld s slot 4 1 then record (modEvSlot slot (fun e => { e with used := e.used + 1 }) s)
      else modEvSlot slot (fun e => { e with supp := satHalfInc e.supp, hidden := e.hidden + 1, lastCode := BitVec.ofNat 16 x.code }) s
  else recordEv 255 x.code x.p0 x.p1 x.p2 x.time (touchSlot 255 s)

/-- What the events of a tick change. -/
def tickBase (s : State) : TickBase :=
  { raised := s.evm.raised, sticky := s.evm.sticky, slots := s.evm.slots, head := s.recd.head, numbered := s.recd.numbered
    staging := s.recd.staging, preq := s.recd.preq, lostFlag := s.recd.lostFlag, lostStage := s.recd.lostStage, lostPre := s.recd.lostPre }

/-- The sticky bits that the pins still show on a tick on which they change (R459). -/
def keepShown (s : State) : State :=
  if s.evm.shownAt = s.cclk then s else { s with evm := { s.evm with shown := s.evm.sticky, shownAt := s.cclk } }

/-- The first event of a tick keeps what stood before it. -/
def openTick (s : State) : State :=
  if s.recd.base.isSome ∧ s.recd.tickAt = s.cclk then s
  else
    let s := keepShown s
    { s with recd := { s.recd with tickAt := s.cclk, tickEvs := [], base := some (tickBase s) } }

/-- Something else changes what the events change: those taken so far keep their place. -/
def closeTick (s : State) : State := { s with recd := { s.recd with tickEvs := [], base := none } }

/-- What stood before the first event of the tick. -/
def reopenTick (s : State) : State :=
  match s.recd.base with
  | none => s
  | some b =>
    { s with
      evm := { s.evm with raised := b.raised, sticky := b.sticky, slots := b.slots }
      recd := { s.recd with head := b.head, numbered := b.numbered, staging := b.staging, preq := b.preq, lostFlag := b.lostFlag,
                            lostStage := b.lostStage, lostPre := b.lostPre } }

/-- Raise an event at a place in the order of its tick (R457): the events of the tick are taken anew in that order. -/
def raiseAt (key : Nat × Nat) (code : Nat) (p0 p1 p2 : Word) (s : State) : State :=
  let s := openTick s
  let l := addRaised { key := key, code := code, p0 := p0, p1 := p1, p2 := p2, time := recTime s } s.recd.tickEvs
  l.foldl takeEvent (reopenTick { s with recd := { s.recd with tickEvs := l } })

/-- Raise an event (R453 to R462), in the order of R457. -/
def raise (code : Nat) (p0 p1 p2 : Word) (s : State) : State :=
  raiseAt ((if s.boot.sealed then evSlotOf s code else 255) + 1, p0.toNat) code p0 p1 p2 s

/-- Raise an event whose parameters the spec does not state: each is a free value. -/
def raiseOpen (code : Nat) (s : State) : State :=
  let w (n : Nat) : Word := (Config.freeWord (s.draws + n)).setWidth 32
  raise code (w 0) (w 1) (w 2) { s with draws := s.draws + 3 }

/-! ### The directory (R64 to R74). -/

def ent (s : State) (i : Nat) : SdirEntry := tget {} s.sdir i

/-- An entry as anything but SEQ's operations sees it: while the operation that writes it is in flight, as it was (R19). An operation that reads it then
breaches the contract (R55). -/
def entSeen (s : State) (i : Nat) : SdirEntry :=
  match s.cck.writes.find? (fun w => decide (w.first ≤ i ∧ i < w.first + w.old.length ∧ s.cclk ≤ w.till)) with
  | some w => w.old.getD (i - w.first) (ent s i)
  | none => ent s i

/-- TYPE of an entry (Table 2-2). -/
def entType (e : SdirEntry) : Nat := e.fmt.toNat % 8

/-- EXP of an entry as a signed exponent. -/
def entExp (e : SdirEntry) : Int := signedOf 6 (bitsOf e.fmt.toNat 8 3)

/-- ENUM_MAX of an entry. -/
def entMax (e : SdirEntry) : Nat := bitsOf e.fmt.toNat 8 3

def entForceable (e : SdirEntry) : Bool := bitOf e.fmt.toNat 9

def entQual (e : SdirEntry) : Qual := e.state.setWidth 3

def entConst (e : SdirEntry) : Bool := bitOf e.state.toNat 3

def entHeld (e : SdirEntry) : Bool := bitOf e.state.toNat 4

def entWcnt (e : SdirEntry) : Nat := bitsOf e.state.toNat 15 8

/-- STATE built from its fields (Table 2-4). -/
def entState (q : Qual) (const held : Bool) (wcnt : Nat) : Half :=
  BitVec.ofNat 16 (q.toNat + 8 * b2n const + 16 * b2n held + 256 * (wcnt % 256))

/-- An SFX or UFX signal whose word is the NaN code is NaN, as is any signal whose QUAL is NAN (R69). -/
def entNan (e : SdirEntry) : Bool :=
  entQual e == qNan || ((entType e == 1 || entType e == 2) && e.value == nanWord)

def sigW (s : State) (i : Nat) : Word := (ent s i).value
/-- The quality of a signal, its QUAL field: a NaN word leaves it what it is (R69, R73). -/
def sigQ (s : State) (i : Nat) : Qual := entQual (ent s i)
def sigNan (s : State) (i : Nat) : Bool := entNan (ent s i)
/-- A BOOL signal read as a condition: true when its word is nonzero and it is not NaN. -/
def sigTrue (s : State) (i : Nat) : Bool := !sigNan s i && sigW s i != 0

/-- The value of a signal (R66); none when it is NaN. A BAM32 gives its word as a number of 2^-32 turns. -/
def sigNum (s : State) (i : Nat) : Option Rat :=
  let e := ent s i
  if entNan e then none
  else if entType e = 1 then some (sfxVal e.value (entExp e))
  else if entType e = 2 then some (ufxVal e.value (entExp e))
  else some (e.value.toNat : Rat)

def setEnt (i : Nat) (e : SdirEntry) (s : State) : State := { s with sdir := tset {} s.sdir i e }

/-- The content of an entry after a write of a word with a quality at a time: WCNT advances by 1. -/
def written (e : SdirEntry) (w : Word) (q : Qual) (t : Word) : SdirEntry :=
  { e with value := w, wtime := t, state := entState q (entConst e) (entHeld e) (entWcnt e + 1) }

/-- Write one signal as its type demands (R68): a BOOL stores 1 for any nonzero word, an ENUM above ENUM_MAX stores 0 with
quality NAN and is reported, a NaN stores the NaN code or 0. A held or constant signal keeps its value (R74, R65). -/
def writeSig (i : Nat) (w : Word) (q : Qual) (t : Word) (s : State) : State :=
  let e := ent s i
  if entHeld e || entConst e then s
  else match entType e with
    | 0 => s
    | 1 | 2 =>
      if q = qNan then setEnt i (written e nanWord qNan t) s
      else if w = nanWord then setEnt i (written e w qNan t) s
      else setEnt i (written e w q t) s
    | 4 => setEnt i (written e (if q = qNan then 0 else if w = 0 then 0 else 1) q t) s
    | 5 =>
      if q = qNan then setEnt i (written e 0 qNan t) s
      else if entMax e < w.toNat then raise 0x0134 (w32 i) w 0 (setEnt i (written e 0 qNan t) s)
      else setEnt i (written e w q t) s
    | _ => setEnt i (written e (if q = qNan then 0 else w) q t) s

/-- Write one signal with exactly this quality, whatever an SFX or UFX word says: where the owning rule names the quality of a word that may be the NaN
code (R49, R77, R80, R219). The other types are written as ever. -/
def writeRaw (i : Nat) (w : Word) (q : Qual) (t : Word) (s : State) : State :=
  let e := ent s i
  if entHeld e || entConst e then s
  else if entType e = 1 ∨ entType e = 2 then setEnt i (written e w q t) s
  else writeSig i w q t s

/-- Write a TIME64 and TIME64H pair in one operation, each word with its quality (R68): nanoseconds above 999,999,999 make both words 0 with quality
NAN. -/
def writeTime (i : Nat) (secs nanos : Word) (q q' : Qual) (t : Word) (s : State) : State :=
  if 999999999 < nanos.toNat then writeSig (i + 1) 0 qNan t (writeSig i 0 qNan t s)
  else writeSig (i + 1) secs q' t (writeSig i nanos q t s)

/-- Write consecutive signals by an operation on single ones, a TIME64 pair as one (R68). -/
def writeListBy (one : Nat → Word → Qual → Word → State → State) : Nat → List (Word × Qual) → Word → State → State
  | _, [], _, s => s
  | i, [(w, q)], t, s => one i w q t s
  | i, (w, q) :: (w', q') :: l, t, s =>
    if entType (ent s i) = 6 then writeListBy one (i + 2) l t (writeTime i w' w q q' t s)
    else writeListBy one (i + 1) ((w', q') :: l) t (one i w q t s)

def writeList (i : Nat) (l : List (Word × Qual)) (t : Word) (s : State) : State := writeListBy writeSig i l t s

/-- Land one word: a NaN code that its writer gives as GOOD is NaN; under another quality it stays as it came (R49, R68, R80). -/
def landSig (i : Nat) (w : Word) (q : Qual) (t : Word) (s : State) : State :=
  if q = qGood ∨ q = qNan then writeSig i w q t s else writeRaw i w q t s

/-- Write consecutive words with the qualities as they come, no word judged by its value (R68). -/
def rawList (i : Nat) (l : List (Word × Qual)) (t : Word) (s : State) : State := writeListBy writeRaw i l t s

/-- Land consecutive words. -/
def landList (i : Nat) (l : List (Word × Qual)) (t : Word) (s : State) : State := writeListBy landSig i l t s

/-- Write an exact value, rescaled and rounded to the destination (R71); none, or a value that does not fit, is NaN. -/
def writeNum (i : Nat) (v : Option Rat) (q : Qual) (t : Word) (s : State) : State :=
  let e := ent s i
  match v with
  | none => writeSig i 0 qNan t s
  | some x =>
    match entType e with
    | 1 => match sfxOf x (entExp e) with
      | some w => writeSig i w q t s
      | none => writeSig i 0 qNan t s
    | 2 => match ufxOf x (entExp e) with
      | some w => writeSig i w q t s
      | none => writeSig i 0 qNan t s
    | _ => writeSig i (i32 (roundEven x)) q t s

/-- The worst quality of a list of input signals (R73). -/
def sigsQual (s : State) (l : List Nat) : Qual := qWorst (l.map (sigQ s))

/-- Mark a run of signals STALE without writing them (R51). -/
def markStale (i n : Nat) (s : State) : State :=
  (List.range n).foldl (fun s k =>
    let e := ent s (i + k)
    if entHeld e || entConst e then s else setEnt (i + k) { e with state := entState qStale (entConst e) (entHeld e) (entWcnt e) } s) s

/-! ### Landing buffers (R44 to R49, R568). -/

def lbuOf (s : State) (n : Nat) : Lbu := tget {} s.lbus n

def setLbu (n : Nat) (b : Lbu) (s : State) : State := { s with lbus := tset {} s.lbus n b }

/-- A field of LBUT entry n (Table 1-10). -/
def lbutFld (s : State) (n off len : Nat) : Nat := fld s .lbut 0 (16 + 16 * n + off) len

def lbuCnt (s : State) : Nat := fld32 s .lbut 0 0

/-- The landing buffer of a source: engine number and source index (Table 1-10). -/
def lbuOfSource (s : State) (eng idx : Nat) : Option Nat :=
  (List.range (lbuCnt s)).find? (fun n => lbutFld s n 0 2 == eng * 1024 + idx)

/-- Whether a toggle completed at cycle d is seen at the present cycle (R46, two-flop toggle: min 2, max 3 cycles). -/
def crossed (s : State) (d : Nat) : Bool :=
  if s.cclk < d + 2 then false else if d + 3 ≤ s.cclk then true else Config.crossingSeen (s.cclk * 1024 + d)

/-- A pending value whose toggle has been seen, and that no LAND holds off, becomes the complete value (R44). -/
def settle (s : State) (b : Lbu) : Lbu :=
  match b.pend with
  | some v => if b.holdTo ≤ s.cclk && crossed s v.done then { b with cur := some v, pend := none } else b
  | none => b

/-- A writer completes a value in landing buffer n (R44, R45): stamp, sequence count, toggle; a value still pending is replaced
and the overrun counted and recorded. -/
def lbuComplete (n : Nat) (words : List Word) (ns : Nat) (quals : List Qual) (s : State) : State :=
  let b := settle s (lbuOf s n)
  let v : LbuVal := { words := words, secs := (stampOf ns).1, nanos := (stampOf ns).2, seq := b.count + 1, quals := quals, done := s.cclk }
  match b.pend with
  | none => setLbu n { b with count := b.count + 1, pend := some v } s
  | some _ =>
    let c := if b.ovrCnt = 0xFFFF#16 then b.ovrCnt else b.ovrCnt + 1
    raise 0x0125 (w32 n) (c.setWidth 32) (v.seq.setWidth 32)
      (setLbu n { b with count := b.count + 1, pend := some v, ovrCnt := c, ovrSeq := v.seq } s)

/-- A writer in CCLK completes a value: the toggle needs no synchroniser (R308, R554). -/
def lbuDirect (n : Nat) (words : List Word) (ns : Nat) (s : State) : State :=
  let b := lbuOf s n
  setLbu n { b with count := b.count + 1, pend := none, cur := some { words := words, secs := (stampOf ns).1, nanos := (stampOf ns).2, seq := b.count + 1, done := s.cclk } } s

/-- Land a record from a source that may have no landing buffer. -/
def landFrom (eng idx : Nat) (words : List Word) (ns : Nat) (s : State) : State :=
  match lbuOfSource s eng idx with
  | none => s
  | some n => lbuComplete n words ns [] s

/-- Likewise for a writer in CCLK. -/
def landDirect (eng idx : Nat) (words : List Word) (ns : Nat) (s : State) : State :=
  match lbuOfSource s eng idx with
  | none => s
  | some n => lbuDirect n words ns s

/-! ### Dual-clock FIFOs out of CCLK (R46, R50, Table 1-11). -/

/-- A crossing: its bounds in destination cycles, and the destination period as a fraction of a tick. -/
structure Crossing where
  lo  : Nat
  hi  : Nat
  num : Nat
  den : Nat

/-- An entry of a FIFO, from the present operation of latency L. -/
def handed {α : Type} (s : State) (l : Nat) (x : α) : Handed α := { since := s.cclk + l, item := x }

/-- Is an entry discarded, since its operation was in flight at a breach (R56)? -/
def discarded {α : Type} (s : State) (h : Handed α) : Bool := s.cck.breach && decide (s.cck.breachAt < h.since)

/-- Has an entry been in its FIFO for the least time of the crossing, so that it may arrive? -/
def mayArrive {α : Type} (s : State) (c : Crossing) (h : Handed α) : Bool :=
  decide (h.since * c.den + c.lo * c.num ≤ s.cclk * c.den) && !discarded s h

/-- Has it been there for the greatest time, so that it arrives? -/
def mustArrive {α : Type} (s : State) (c : Crossing) (h : Handed α) : Bool :=
  decide (h.since * c.den + c.hi * c.num ≤ s.cclk * c.den) && !discarded s h

/-- Is the oldest entry of a FIFO overdue? -/
def headDue {α : Type} (s : State) (c : Crossing) (l : List (Handed α)) : Bool := l.head?.any (mustArrive s c)

/-- The crossing into ACLK of 20.48 MHz, of FIFOs and of strobes. -/
def aclkCross : Crossing := { lo := 2, hi := 3, num := 625, den := 32 }

/-- The bits of the strobes on their way that may have arrived. -/
def arrived {w : Nat} (s : State) (c : Crossing) (l : List (Handed (BitVec w))) : BitVec w :=
  (l.filter (mayArrive s c)).foldl (fun a h => a ||| h.item) 0

/-- The strobes that are left when those bits of a mask that may arrive have been taken. -/
def leaveOut {w : Nat} (s : State) (c : Crossing) (mask : BitVec w) (l : List (Handed (BitVec w))) : List (Handed (BitVec w)) :=
  (l.map (fun h => if mayArrive s c h then { h with item := h.item &&& ~~~ mask } else h)).filter (fun h => h.item != 0)

/-- What is left of a FIFO after a breach. -/
def keptOnly {α : Type} (s : State) (l : List (Handed α)) : List (Handed α) := l.filter (fun h => !discarded s h)

/-! ### Functions that are disabled (R51), domains that are gated (R43), the issue of an operation. -/

/-- Engines of which only entries or channels are functions, not the whole (R328, R413): their instance 0 is entry or channel 0. -/
def onlyParts (eng : Nat) : Bool := eng == 0x0D || eng == 0x28 || eng == 0x29

/-- The engine by which a function is named: the four engines of the navigation baseband are one function (R166). -/
def funcEng (eng : Nat) : Nat := if 8 ≤ eng ∧ eng ≤ 0x0B then 8 else eng

/-- Is a function, or the whole engine it belongs to, disabled? Instance 0 names the whole of an engine that can be disabled as a
whole (R291, R315, Table 14-5). -/
def isDisabled (s : State) (eng inst : Nat) : Bool :=
  s.disabled.any (fun p => p.1 = funcEng eng ∧ (p.2 = inst ∨ (p.2 = 0 ∧ onlyParts (funcEng eng) = false)))

/-- The power domain of an engine (Table 1-8). -/
def engDomain (eng : Nat) : Option Domain :=
  if eng = 4 ∨ eng = 5 then some .qps
  else if 8 ≤ eng ∧ eng ≤ 11 then some .nav
  else if 0x0E ≤ eng ∧ eng ≤ 0x27 ∨ eng = 0x2B then some .ioe
  else if 0x28 ≤ eng ∧ eng ≤ 0x2A then some .ana
  else if eng = 0x2F then some .sec
  else none

/-- The mask bit of a domain (R42). -/
def domBit : Domain → Nat
  | .qps => 0 | .nav => 1 | .ioe => 2 | .ana => 3 | .sec => 4

/-- The wake latency of a domain in ticks (Table 15-10); IOE is never gated. -/
def domWake : Domain → Nat
  | .qps => 4000 | .nav => 8000 | .ioe => 0 | .ana => 6000 | .sec => 1200

def domMask (d : Domain) : BitVec 5 := BitVec.ofNat 5 (2 ^ domBit d)

/-- A domain whose engines take no operation: gated, still waking, or faulted (R43, R520). -/
def domGated (s : State) (d : Domain) : Bool := (s.pwr.gated ||| s.pwr.waking ||| s.pwr.faulted) &&& domMask d != 0

/-- Set a SAFE-HOLD reason bit, with the frame from which it acts (R106). -/
def setReason (bit due : Nat) (s : State) : State :=
  if bitOf s.boot.reasons.toNat bit then s
  else { s with boot := { s.boot with reasons := s.boot.reasons ||| BitVec.ofNat 7 (2 ^ bit), reasonDue := (bit, due) :: s.boot.reasonDue.filter (fun p => p.1 != bit) } }

/-- Clear a SAFE-HOLD reason bit. -/
def clearReason (bit : Nat) (s : State) : State :=
  if bitOf s.boot.reasons.toNat bit = false then s
  else { s with boot := { s.boot with reasons := s.boot.reasons &&& ~~~ BitVec.ofNat 7 (2 ^ bit), reasonDue := s.boot.reasonDue.filter (fun p => p.1 != bit), lastClr := bit } }

/-- Write one entry of the schedule trace (R514). -/
def traceEntry (kind tag : Nat) (s : State) : State :=
  { s with sec := { s.sec with
    trace := tset [] s.sec.trace s.sec.traceNext [w32 (tag % 2 ^ 20 + kind * 2 ^ 24), w32 (s.seq.k / s.hdr.m), w32 (s.seq.k % s.hdr.m), w32 s.seq.tick]
    traceNext := (s.sec.traceNext + 1) % 4096 } }

/-- The outputs of the operations in flight at a breach are discarded: their signals keep the entries they had, and turn STALE
(R51, R56). -/
def dropFlight (s : State) : State :=
  (s.cck.writes.filter (fun w => decide (s.cclk ≤ w.till))).foldl (fun s w =>
    markStale w.first w.old.length (w.old.zipIdx.foldl (fun s p => setEnt (w.first + p.2) p.1 s) s)) s

/-- The first contract breach (R56): capture, event, trace, the schedule stops, SAFE-HOLD from the next frame. Later breaches
leave the capture alone. DESIGN CHOICE (log entry 132): a breach that no operation makes captures as LANE the first lane that waits to
issue, 0 with none, and as BUNDLE the last bundle that opened. -/
def breach (code : Nat) (op : Word) (s : State) : State :=
  if s.cck.breach then s
  else
    let s := dropFlight s
    let lane := s.seq.lanes.headD 0
    let s := { s with
      cck := { s.cck with breach := true, code := BitVec.ofNat 16 code, merid := BitVec.ofNat 16 (s.seq.k / s.hdr.m), kIdx := BitVec.ofNat 16 (s.seq.k % s.hdr.m), lane := BitVec.ofNat 2 lane, tick := BitVec.ofNat 19 s.seq.tick, bundle := BitVec.ofNat 18 s.seq.lastBund, op := op, breachAt := s.cclk, writes := [], regions := [] }
      seq := { s.seq with stopped := true } }
    setReason 0 (s.seq.k + 1) (traceEntry 2 code (raise code (w32 s.seq.tick) (w32 s.seq.lastBund) op s))

/-- Take the lane of the operation that issues now off the list of the bundle's enabled lanes. -/
def dropLane (s : State) : State := { s with seq := { s.seq with lanes := s.seq.lanes.drop 1 } }

/-- The debug halt suppresses every operation (R515). -/
def halted (s : State) : Bool := s.sec.halted

/-- An operation word (R38). -/
def opWord (eng opc opnd : Nat) : Word := w32 (eng * 2 ^ 26 + opc * 2 ^ 20 + opnd)

/-- Issue of a scheduled operation of an engine instance: nothing before the schedule starts or after a breach (R24, R56), NOP
when its function is disabled (R51) or the schedule is halted (R515), a CCK_GATED breach when its domain is gated (R55), and
otherwise its effect. The engine's instance is 0 where only the whole engine can be disabled. -/
def issue (eng inst : Nat) (op : Word) (f : State → State) (s : State) : Res :=
  if s.seq.run = false || s.seq.stopped then .next s
  else if isDisabled s eng inst || halted s then .next (dropLane s)
  else match engDomain eng with
    | some d => if domGated s d then .next (dropLane (breach 0x0106 op s)) else .next (dropLane (f s))
    | none => .next (dropLane (f s))

/-! ### Mailboxes (R473 to R480). -/

def mbxOf (s : State) (n : Nat) : Mbx := tget {} s.mbx n

def setMbx (n : Nat) (m : Mbx) (s : State) : State := { s with mbx := tset {} s.mbx n m }

/-- Payload byte j of a mailbox (R473). -/
def payByte (m : Mbx) (j : Nat) : Nat := ((tget 0 m.payload (j / 4)).toNat / 256 ^ (j % 4)) % 256

/-- Little-endian number of n payload bytes. -/
def payNum (m : Mbx) (j n : Nat) : Nat := leNat ((List.range n).map (fun i => BitVec.ofNat 8 (payByte m (j + i))))

/-- CMD of a mailbox's payload. -/
def mbxCmd (m : Mbx) : Nat := payNum m 0 2

/-- The handler writes the return code of a RUNNING command: MBX_ACKn, DONE, or FREE with ORPHAN for an orphan; BUSY is recorded
(R477, R478, Table 14-12). -/
def finishMbx (n : Nat) (code : Half) (s : State) : State :=
  let m := mbxOf s n
  if m.state != .running then s
  else
    let orphan := m.owner == 0
    let s := if code = 0x0020#16 then raise 0x0E04 (w32 n) (w32 (mbxCmd m)) (w32 m.poster) s else s
    let s := setMbx n { m with state := if orphan then .free else .done, result := none, touched := s.cclk, ackPosts := m.posts, ackMaster := BitVec.ofNat 4 m.poster, ackReset := false, ackOrphan := orphan, ackValid := true, ackCode := code } s
    if orphan then raise 0x0E03 (w32 n) (w32 (mbxCmd m)) (code.setWidth 32) s else s

/-- A handler completes a RUNNING command; one that it completes at its latch is DONE when MBX_COMMAND_COMPLETE comes (R476, R482). -/
def completeMbx (n : Nat) (code : Half) (s : State) : State :=
  let m := mbxOf s n
  if m.state = .running ∧ m.touched = s.cclk then setMbx n { m with result := some code } s else finishMbx n code s

/-- A receiver reset completes a POSTED or RUNNING command with ABORTED, and it is recorded (R479). -/
def abortMbx (n : Nat) (s : State) : State :=
  let m := mbxOf s n
  if m.state = .posted ∨ m.state = .running then
    finishMbx n 0x0021#16 (setMbx n { m with state := .running } (raise 0x0E02 (w32 n) (w32 (mbxCmd m)) (w32 m.poster) s))
  else s

/-- Leave a decided return code in the mailbox until its handler completes (MBX_COMMAND_COMPLETE). -/
def decideMbx (n : Nat) (code : Half) (s : State) : State :=
  let m := mbxOf s n
  if m.state = .running then setMbx n { m with result := some code } s else s

def rcDone : Half := 0x0000#16
def rcRange : Half := 0x0010#16
def rcUnknown : Half := 0x0012#16
def rcState : Half := 0x0013#16
def rcDenied : Half := 0x0014#16
def rcBusy : Half := 0x0020#16
def rcAborted : Half := 0x0021#16

/-! ### Output gating (R361, R362, R88). -/

/-- Is the unit of a duplex or triplex Chart (PFLAGS of Table 11-14)? -/
def isDuplex (s : State) : Bool := bitOf (packFld s 7 1) 0
def isTriplex (s : State) : Bool := bitOf (packFld s 7 1) 1

/-- Are the actuator outputs enabled on this tick? A simplex unit's follow ACTIVE alone (R361, R367); ilk 1 is CLAIM. -/
def outEnabled (s : State) : Bool :=
  s.boot.dev == .active && (!isDuplex s || (s.pack.holder && s.pack.claiming && s.pack.ilk != 1))

/-- What the actuator outputs do (Table 3-1, R361, R362): boot state, gated, enabled, safe state. -/
inductive OutMode where
  | boot | gated | enabled | safe
  deriving DecidableEq, Repr

def outMode (s : State) : OutMode :=
  match s.boot.dev with
  | .active => if outEnabled s then .enabled else .gated
  | .standby | .voting | .sleep => .gated
  | .safeHold => .safe
  | _ => .boot

/-! ### Device states (R87, R90). -/

/-- The code of a device state (Table 3-1). -/
def devCode : DevState → Nat
  | .reset => 1 | .wipe => 2 | .load => 3 | .verify => 4 | .sync => 5 | .standby => 6 | .active => 7 | .voting => 8
  | .safeHold => 9 | .fault => 10 | .sleep => 11

/-- The role state of a device state (Table 3-1): 0 STANDBY, 1 ACTIVE, 2 VOTING, 3 SAFE-HOLD. -/
def roleCode : DevState → Nat
  | .standby => 0 | .sleep => 0 | .active => 1 | .voting => 2 | _ => 3

/-! ### Life cycle and debug admission (R492, R493, R507 to R512). -/

/-- Bitwise majority of three copies (R491). -/
def majority (a b c : BitVec 4) : BitVec 4 := (a &&& b) ||| (a &&& c) ||| (b &&& c)

/-- The life-cycle state: the highest one whose pattern is fully set (R492, Table 15-2). -/
def lcState (s : State) : Nat :=
  let m := (majority s.fuses.lc0 s.fuses.lc1 s.fuses.lc2).toNat
  if m = 15 then 4 else if m % 8 = 7 then 3 else if m % 4 = 3 then 2 else m % 2

/-- KEY_DEAD by majority. -/
def keyDead (s : State) : Bool := (s.fuses.dead0 && s.fuses.dead1) || (s.fuses.dead0 && s.fuses.dead2) || (s.fuses.dead1 && s.fuses.dead2)

/-- KEY_LIVE (R493): a DEVICE_KEY counts as programmed when one of its bits is set. -/
def keyLive (s : State) : Bool := s.fuses.devKey != 0 && !keyDead s && !s.fuses.keyBad

/-- The power state (R517): 0 RUN, 1 DOZE, 2 SLEEP. -/
def powerState (s : State) : Nat := if s.boot.dev = .sleep then 2 else if s.seq.run && s.pwr.doze then 1 else 0

/-- O* of Table 15-8. -/
def starLevel (s : State) : Nat := if 2 ≤ s.sec.grant.toNat then 2 else 1

/-- The highest debug level the present cell of Table 15-8 permits; in SLEEP none stands (R512). -/
def dbgPermitted (s : State) : Nat :=
  if s.boot.dev = .sleep then 0
  else
    let role := roleCode s.boot.dev
    match lcState s with
    | 0 => if role = 3 then 3 else 0
    | 4 => 1
    | 1 => if role = 1 then 1 else if role = 2 then 2 else 3
    | lc =>
      if lc = 2 ∨ keyLive s then (if role = 0 ∨ role = 3 then starLevel s else 1)
      else if role = 1 then 1 else if role = 2 then 2 else 3

/-- Lower the admitted debug level and record DBG_DETACH; below FULL a halt ends at the next boundary (R510, R512, R515). -/
def dbgLower (level reason : Nat) (s : State) : State :=
  let old := s.sec.level
  let ends := old == 3 && (s.sec.halted || s.sec.haltQueue.any (fun q => q.1))
  let s := { s with sec := { s.sec with level := BitVec.ofNat 2 level, bscan := if level = 0 then .bypass else s.sec.bscan, haltQueue := if ends then s.sec.haltQueue ++ [(false, latchFrame s)] else s.sec.haltQueue } }
  raise 0x0F04 (w32 old.toNat) (w32 level) (w32 reason) s

/-- When the permitted level has fallen below the admitted one, the admitted one falls with it on the same tick (R512). -/
def dbgSettle (reason : Nat) (s : State) : State :=
  if dbgPermitted s < s.sec.level.toNat then dbgLower (dbgPermitted s) reason s else s

/-- Move to another device state and record STATE_CHANGE (Table 3-12); no change, no event. The debug level follows the role and
power state (R512). -/
def setDev (d : DevState) (s : State) : State :=
  if s.boot.dev = d then s
  else
    let old := s.boot.dev
    let s := { s with boot := { s.boot with dev := d } }
    dbgSettle (if d = .sleep then 2 else 1) (raise 0x0141 (w32 (devCode old)) (w32 (devCode d)) (s.boot.reasons.setWidth 32) s)

/-- Enter FAULT with a cause (R110). -/
def enterFault (cause : Nat) (s : State) : State :=
  let s := { s with boot := { s.boot with faultCause := cause }, seq := { s.seq with run := false } }
  let s := setReason 6 s.seq.k s
  raise 0x014A (w32 cause) s.seq.vfailA s.seq.vfailB (setDev .fault s)

end Sys2Proof.Machine
end

