-- ==== Sys2Proof/Machine/Sched.lean ====
section
/-! DEFINITION. Sys2Proof/Machine/Sched.lean: the sequencer, the frame aligner, the contract checker's own events, the power
operations of the schedule, and the LBU and SDIR operations (chapters 1 and 2, R516, R518). -/

namespace Sys2Proof.Machine

/-- NOP of any engine: no effect (R42). -/
def execNop (eng : BitVec 6) (s : State) : Res := issue eng.toNat 0 (opWord eng.toNat 0 0) (fun s => s) s

/-- MARK: the tag enters the schedule trace (R42, R514). -/
def execMark (tag : BitVec 20) (s : State) : Res :=
  issue 0 0 (opWord 0 1 tag.toNat) (fun s => traceEntry 1 tag.toNat s) s

/-- Start waking the gated domains of a mask; a domain is usable W_D ticks later (R43, R516). IOE is never gated. -/
def startWake (mask : BitVec 5) (s : State) : State :=
  let m := mask &&& s.pwr.gated
  [Domain.qps, .nav, .ana, .sec].foldl (fun s d =>
    if m &&& domMask d != 0 then
      { s with pwr := { s.pwr with gated := s.pwr.gated &&& ~~~ domMask d, waking := s.pwr.waking ||| domMask d, wakeDue := tset 0 s.pwr.wakeDue (domBit d) (s.cclk + domWake d) } }
    else s) s

/-- PWAKE (R42, R43). -/
def execPwake (mask : BitVec 5) (s : State) : Res :=
  issue 0 0 (opWord 0 2 mask.toNat) (fun s => startWake mask s) s

/-- The domain of a mailbox command's handler group (Table 14-3). -/
def groupDomain (g : Nat) : Option Domain :=
  if g = 5 then some .nav else if g = 6 then some .qps else if g = 0x0A then some .ana else if g = 0x0D then some .ioe
  else if g = 0x0F then some .sec else none

/-- Is a handler of this domain at work? A command POSTED or RUNNING keeps its domain powered (R518). -/
def handlerBusy (s : State) (d : Domain) : Bool :=
  (List.range 16).any (fun n =>
    let m := mbxOf s n
    (m.state == .posted || m.state == .running) && groupDomain (payByte m 1) == some d)

/-- The domains among a mask whose handlers are at work. -/
def busyMask (s : State) (mask : BitVec 5) : BitVec 5 :=
  [Domain.qps, .nav, .ana, .sec].foldl (fun a d => if mask &&& domMask d != 0 && handlerBusy s d then a ||| domMask d else a) 0

/-- PGATE: gates the named domains from the next tick; a domain whose handler runs is gated when the handler completes (R42,
R518). IOE is never gated (Table 15-10). -/
def execPgate (mask : BitVec 5) (s : State) : Res :=
  issue 0 0 (opWord 0 3 mask.toNat) (fun s =>
    let m := mask &&& ~~~ domMask .ioe
    let b := busyMask s m
    { s with pwr := { s.pwr with gatePend := s.pwr.gatePend ||| (m &&& ~~~ b), gateLater := s.pwr.gateLater ||| b } }) s

/-- At tick F - 64 - W_D the PWR starts waking a domain gated in the frame (R518). -/
def execDomainAutoWake (d : Domain) (s : State) : Res :=
  .next (if s.seq.run then startWake (domMask d) (toTick (s.hdr.f - 64 - domWake d) s) else s)

/-! ### Landing (R44 to R49, R568, R80). -/

/-- The payload signals of a LAND that finds no landable value keep their words, or take the NaN code, and turn STALE; WCNT
advances and WTIME stays (R568). -/
def landNone (target words : Nat) (nanIfStale : Bool) (s : State) : State :=
  (List.range words).foldl (fun s k =>
    let e := ent s (target + k)
    if entHeld e || entConst e || entType e == 0 then s
    else setEnt (target + k) { e with value := if nanIfStale then nanWord else e.value, state := entState qStale (entConst e) false (entWcnt e + 1) } s) s

/-- Age of a stamp at the present tick in ns, saturating at 0 and 0xFFFF_FFFF (R47). Stamps carry seconds modulo 2^32, so a
difference of half that range or more is a stamp in the future. -/
def stampAge (s : State) (secs nanos : Word) : Nat :=
  let top := 4294967296 * 1000000000
  let d := (nowNs s + top - (secs.toNat * 1000000000 + nanos.toNat) % top) % top
  if top / 2 ≤ d then 0 else min d 0xFFFFFFFF

/-- Write the two signals of AGE_SIG: age and sequence count, always GOOD (R49, R67). -/
def writeAge (i age seq : Nat) (t : Word) (s : State) : State :=
  writeSig (i + 1) (counterWord seq) qGood t (writeSig i (counterWord age) qGood t s)

/-- LAND of one landing buffer. -/
def landEffect (n : Nat) (s : State) : State :=
  let words := lbutFld s n 2 1
  let flags := lbutFld s n 3 1
  let target := lbutFld s n 4 4 % 2 ^ 17
  let maxAge := lbutFld s n 8 4
  let b := settle s (lbuOf s n)
  let b := { b with holdTo := s.cclk + 4 + words }
  let s := setLbu n b s
  let t := opTime s (4 + words)
  match (if b.discard then none else b.cur) with
  | none =>
    let s := landNone target words (bitOf flags 0) s
    if bitOf flags 1 then writeAge (target + words) 0xFFFFFFFF 0 t s else s
  | some v =>
    let age := stampAge s v.secs v.nanos
    let fresh := age ≤ maxAge
    let wt := wtimeOf ((v.secs.toNat % 4) * 1000000000 + v.nanos.toNat)
    let ws := (List.range words).map (fun k =>
      let w := v.words.getD k 0
      if fresh then (w, v.quals.getD k qGood) else (if bitOf flags 0 then nanWord else w, qStale))
    let s := landList target ws wt s
    if bitOf flags 1 then writeAge (target + words) age v.seq.toNat t s else s

/-- An operand that names a landing buffer beyond LBU_CNT lies outside the engine's table region, which is CCK_BOUND (R55). -/
def execLand (lbu : BitVec 10) (s : State) : Res :=
  issue 1 0 (opWord 1 0 lbu.toNat) (fun s =>
    if lbu.toNat < lbuCnt s then landEffect lbu.toNat s else breach 0x0107 (opWord 1 0 lbu.toNat) s) s

/-! ### SDIR operations (R76 to R78). -/

/-- SUBST: signal s + 1 from signal s, with substitution (R77). -/
def execSubst (sig : BitVec 17) (zero : Bool) (s : State) : Res :=
  issue 2 0 (opWord 2 2 (sig.toNat + 2 ^ 17 * b2n zero)) (fun s =>
    let i := sig.toNat
    let q := if sigNan s i then qNan else sigQ s i
    let t := opTime s 4
    if q = qGood then writeSig (i + 1) (sigW s i) qGood t s
    else if q = qForced ∨ q = qSubst then writeSig (i + 1) (sigW s i) qSubst t s
    else writeRaw (i + 1) (if zero then 0 else sigW s (i + 1)) qSubst t s) s

/-- A word of curve n's point array: word 0 X, 1 Y, 2 SLOPE of point p (R78). -/
def curvePt (s : State) (ptOff p w : Nat) : Nat := fld32 s .crve 0 (ptOff + 12 * p + 4 * w)

/-- A curve word as an integer: signed unless the curve or the output type is unsigned. -/
def curveInt (uns : Bool) (w : Nat) : Int := if uns then (w : Int) else signedOf 32 w

/-- The output word of a curve for an input word; none is NaN (R78). -/
def curveOut (s : State) (n : Nat) (x : Word) : Option Word :=
  let d := 16 + 16 * n
  let dst := fld32 s .crve 0 (d + 4) % 2 ^ 17
  let ptOff := fld32 s .crve 0 (d + 8)
  let cnt := fld16 s .crve 0 (d + 12) % 512
  let cf := fld8 s .crve 0 (d + 14)
  let se := sfld s .crve 0 (d + 15) 1
  let unsX := bitOf cf 1
  let unsY := entType (ent s dst) == 2
  let xi := curveInt unsX x.toNat
  let xs (p : Nat) : Int := curveInt unsX (curvePt s ptOff p 0)
  if xi < xs 0 then (if bitOf cf 0 then none else some (w32 (curvePt s ptOff 0 1)))
  else if xs (cnt - 1) ≤ xi then (if bitOf cf 0 then none else some (w32 (curvePt s ptOff (cnt - 1) 1)))
  else
    let p := ((List.range cnt).filter (fun p => decide (xs p ≤ xi))).length - 1
    let y := curveInt unsY (curvePt s ptOff p 1)
      + roundEven (((xi - xs p : Int) : Rat) * ((signedOf 32 (curvePt s ptOff p 2) : Int) : Rat) * pow2 se)
    if unsY then (if 0 ≤ y ∧ y < 2 ^ 32 ∧ y ≠ 2 ^ 31 then some (i32 y) else none)
    else if -(2 ^ 31 - 1) ≤ y ∧ y ≤ 2 ^ 31 - 1 then some (i32 y) else none

/-- CURVE (R78): an undeclared curve is outside the table region (R55). -/
def execCurve (n : BitVec 8) (s : State) : Res :=
  issue 2 0 (opWord 2 3 n.toNat) (fun s =>
    let d := 16 + 16 * n.toNat
    if fld32 s .crve 0 0 ≤ n.toNat then breach 0x0107 (opWord 2 3 n.toNat) s
    else
      let src := fld32 s .crve 0 d % 2 ^ 17
      let dst := fld32 s .crve 0 (d + 4) % 2 ^ 17
      let t := opTime s (8 + clog2 (fld16 s .crve 0 (d + 12) % 512))
      if sigNan s src then writeSig dst 0 qNan t s
      else match curveOut s n.toNat (sigW s src) with
        | none => writeSig dst 0 qNan t s
        | some w => writeSig dst w (sigsQual s [src]) t s) s

/-! ### The contract checker's own events (R55, R57). -/

/-- The event code of a finding (Table 1-13). -/
def cckCode : CckFault → Nat
  | .store _ => 0x0108 | .latency _ _ => 0x0102 | .seal => 0x0109 | .decode _ => 0x010A

/-- The word of the operation concerned, where the finding has one. -/
def cckOp : CckFault → Option Word
  | .latency _ op => some op | .decode op => some op | _ => none

/-- A finding of the contract checker after the seal is a breach (R55): an uncorrectable ECC error in the Chart, QPS, SDIR or NAV store, a
completion strobe off its tick, a write to a sealed Chart region, a bundle that decodes otherwise than its checked copy. Each is a
fault of the hardware, so it comes with the command (log entry 133). Where the finding has no operation word, that word is a free value. -/
def execCckStore (fault : CckFault) (s : State) : Res :=
  if s.boot.sealed then
    match cckOp fault with
    | some op => .next (breach (cckCode fault) op s)
    | none => .next (breach (cckCode fault) ((Config.freeWord s.draws).setWidth 32) { s with draws := s.draws + 1 })
  else .next s

/-- A corrected single-bit ECC error is counted and recorded, and is no breach (R57). -/
def execCckEccCorr (_store : Fin 6) (s : State) : Res :=
  .next (raiseOpen 0x0110 { s with cck := { s.cck with eccCnt := if s.cck.eccCnt = 0xFFFFFFFF#32 then s.cck.eccCnt else s.cck.eccCnt + 1 } })

/-! ### The slack zone (R23, R25 to R27). -/

/-- Frame class of Meridian frame index k (R22). -/
def classOf (s : State) (k : Nat) : Nat := k % 2 ^ s.hdr.fcBits

/-- Fetch the class-table entry of a Meridian frame index (R37). -/
def fetchClass (s : State) (k : Nat) : State :=
  let e := fld32 s .seqp 0 (fld32 s .seqp 0 4 + 4 * classOf s k)
  { s with seq := { s.seq with nextList := e % 2 ^ 18, nextTag := bitsOf e 31 24 } }

/-- At tick F - 64: CCK_LIST when SEQ has come to this tick and has not reached END (R55; a command that lets the remaining ticks of the
working zone pass leaves the list unjudged), the fetch of the next class entry (Table 1-2), and the PTC rate
change that waits for this tick (R402). -/
def execSlackZoneBegin (s : State) : Res :=
  if s.seq.run = false then .next s
  else
    let walked := decide (s.hdr.f ≤ s.seq.tick + 64)
    let s := toTick (s.hdr.f - 64) s
    let s := if s.seq.ended || s.seq.stopped || !walked then s
      else breach 0x010A ((Config.freeWord s.draws).setWidth 32) { s with draws := s.draws + 1 }
    let s := match s.ptc.rNext with
      | some r => { s with ptc := { s.ptc with r := r, rNext := none } }
      | none => s
    .next (fetchClass s ((s.seq.k + 1) % s.hdr.m))

/-- Mean of the last measurements of R25, in ticks (exact). -/
def meanPhase (l : List Int) : Rat := if l.length = 0 then 0 else ((l.foldl (· + ·) 0 : Int) : Rat) / (l.length : Rat)

/-- At tick F - 32: the mean of the last 16 measurements, the length of this frame, ALIGN (R25, R27). e is the measured phase
error in ticks. -/
def execAlignerPhaseSample (e : Int) (s : State) : Res :=
  if s.seq.run = false then .next s
  else
    let s := toTick (s.hdr.f - 32) s
    let l := (e :: s.seq.phases).take 16
    let m : Int := roundZero (meanPhase l)
    let q := { s.seq with phases := l, err := m }
    let q := if 1 ≤ m then { q with frameLen := s.hdr.f + 1, adds := q.adds + 1 }
      else if m ≤ -1 then { q with frameLen := s.hdr.f - 1, drops := q.drops + 1 }
      else { q with frameLen := s.hdr.f }
    let s := { s with seq := q }
    if decide (64 < m.natAbs) && s.seq.align == 1#2 then .next (raiseOpen 0x0121 { s with seq := { s.seq with align := 2 } })
    else if decide (m.natAbs ≤ 1) && s.seq.align == 2#2 then .next (raiseOpen 0x0122 { s with seq := { s.seq with align := 1 } })
    else .next s

/-- The aligner's trim law (R26), in parts per 10^9. DESIGN CHOICE (log entry 23): the law's sum is fractional and the rule rounds its
ff only; the clamped sum is rounded under R71, half to even, as SEQ_TRIM holds a whole number. -/
def trimLaw (f : Nat) (em fb ff : Rat) : Rat × Int :=
  let kp : Rat := 1000000000 / (64 * (f : Rat))
  let fb := clampQ (-200000) 200000 (fb - kp / 256 * em)
  (fb, roundEven (clampQ (-200000) 200000 (ff + fb - kp * em)))

/-- At tick F - 16: the CCLK rate trim; before the schedule starts it is the fed-forward term alone (R26). -/
def execAlignerTrimUpdate (s : State) : Res :=
  if s.seq.run then
    let s := toTick (s.hdr.f - 16) s
    let p := trimLaw s.hdr.f (meanPhase s.seq.phases) s.seq.fb (feedForward s)
    .next { s with seq := { s.seq with fb := p.1, trim := p.2 } }
  else .next (trimAlone s)

end Sys2Proof.Machine
end

