-- ==== Sys2Proof/Machine/Seqp.lean ====
section
/-! DEFINITION. Sys2Proof/Machine/Seqp.lean: the class table and the bundles of SEQP, and the walk of a list (R36 to R39). -/

namespace Sys2Proof.Machine

/-- BUNDLE_CNT. -/
def bundleCnt (s : State) : Nat := fld32 s .seqp 0 0

/-- Class-table entry c: LIST and TAG (R37). -/
def classEntry (s : State) (c : Nat) : Nat × Nat :=
  let e := fld32 s .seqp 0 (fld32 s .seqp 0 4 + 4 * c)
  (e % 2 ^ 18, bitsOf e 31 24)

/-- Word w of bundle b: 0 the header, 1 to 4 the lanes (R38). -/
def bundleWord (s : State) (b w : Nat) : Nat := fld32 s .seqp 0 (fld32 s .seqp 0 8 + 20 * b + 4 * w)

def bundleDelta (s : State) (b : Nat) : Nat := bundleWord s b 0 % 65536
def bundleLane (s : State) (b n : Nat) : Bool := bitOf (bundleWord s b 0) (16 + n)
def bundleEnd (s : State) (b : Nat) : Bool := bitOf (bundleWord s b 0) 20
def bundleSel (s : State) (b : Nat) : Nat := bitsOf (bundleWord s b 0) 31 24

/-- Is a bundle selected by a tag (R39)? -/
def bundleFor (s : State) (tag b : Nat) : Bool := bundleSel s b == 0 || bundleSel s b == tag

/-- The enabled lanes of a bundle. -/
def lanesOf (s : State) (b : Nat) : List Nat := (List.range 4).filter (bundleLane s b)

/-- The operation word of a lane. -/
def laneOp (s : State) (b n : Nat) : Nat := bundleWord s b (1 + n)

/-- The bundles of a list from b, whose tick is t, with their ticks, to its END; by fuel, which BUNDLE_CNT bounds. -/
def walkFrom (s : State) : Nat → Nat → Nat → List (Nat × Nat)
  | 0, _, _ => []
  | fuel + 1, b, t =>
    if bundleCnt s ≤ b then []
    else if bundleEnd s b then [(t, b)]
    else (t, b) :: walkFrom s fuel (b + 1) (t + bundleDelta s (b + 1))

/-- A list with its ticks (R39). -/
def walkList (s : State) (list : Nat) : List (Nat × Nat) := walkFrom s (bundleCnt s) list (bundleDelta s list)

/-- The distinct pairs of LIST and TAG that the class table reaches (R54). -/
def listPairs (s : State) : List (Nat × Nat) := ((List.range (2 ^ s.hdr.fcBits)).map (classEntry s)).eraseDups

/-- The operations a pair issues in a frame, in issue order: tick, bundle, lane, word. -/
def pairOps (s : State) (p : Nat × Nat) : List (Nat × Nat × Nat × Nat) :=
  ((walkList s p.1).filter (fun x => bundleFor s p.2 x.2)).flatMap (fun x => (lanesOf s x.2).map (fun n => (x.1, x.2, n, laneOp s x.2 n)))

/-- Does the Chart issue an operation, given by its engine and opcode? -/
def issuesOp (s : State) (eng opc : Nat) : Bool :=
  (listPairs s).any (fun p => (pairOps s p).any (fun x => x.2.2.2 / 2 ^ 26 == eng && x.2.2.2 / 2 ^ 20 % 64 == opc))

/-- Begin a frame's list: its first bundle and tick (R37, R39). -/
def beginList (list tag : Nat) (s : State) : State :=
  { s with seq := { s.seq with tag := tag, bundle := list, due := bundleDelta s list, ended := s.seq.stopped, lanes := [] } }

/-- Move past the bundle that has issued: to the next one of the list, or to its END. -/
def nextBundle (s : State) : State :=
  let b := s.seq.bundle
  { s with seq := { s.seq with lastBund := b, bundle := b + 1, due := s.seq.due + bundleDelta s (b + 1), ended := bundleEnd s b } }

end Sys2Proof.Machine
end

