-- ==== Sys2Proof/Machine/Equal.lean ====
section
/-! DEFINITION. Sys2Proof/Machine/Equal.lean: the equalisation items as their engines import them, and EQ_OK (R368 to R370). -/

namespace Sys2Proof.Machine

/-- The pack cycle number floor(K/P) (Table 11-4). -/
def pcyc (s : State) : Nat := s.seq.k / s.hdr.p

def modPack (f : Pack → Pack) (s : State) : State := { s with pack := f s.pack }

/-- ITEM of a body (Table 11-9). -/
def eqNo : EqBody → Nat
  | .mode _ => 1 | .obs _ => 2 | .lce _ => 3 | .qps _ => 4 | .pwr _ => 5

/-- The key of an item and index. -/
def eqKey (item index : Nat) : Nat := 256 * item + index

def itemKey (x : EqItem) : Nat := eqKey (eqNo x.body) x.index.toNat

/-- Age in pack cycles of a snapshot cycle number, which is kept modulo 2^32. -/
def eqAge (s : State) (version : Word) : Int := signedOf 32 ((pcyc s + 2 ^ 32 - version.toNat) % 2 ^ 32)

/-- Does the device import at all? (R369) -/
def importing (s : State) : Bool := s.boot.dev == .standby || s.boot.dev == .safeHold

/-- The keys of the items that R386 names: every declared LCE context and QPS template and, on a MANAGER, MODE, OBS and PWR. -/
def eqItems (s : State) : List Nat :=
  (if s.boot.chartRole then [eqKey 1 0, eqKey 2 0, eqKey 5 0] else [])
    ++ (if hasSect s .lcek 0 then (List.range (fld32 s .lcek 0 0)).map (eqKey 3) else [])
    ++ (List.range (fld32 s .qpst 0 0)).map (eqKey 4)

/-- The keys of the items that the Chart's EQ_SNAP operations cover (R370). -/
def eqNeeded (s : State) : List Nat :=
  (((listPairs s).flatMap (fun p => (pairOps s p).filterMap (fun x =>
    if x.2.2.2 / 2 ^ 26 = 0x0F ∧ x.2.2.2 / 2 ^ 20 % 64 = 3 then some (eqKey (x.2.2.2 % 16) (x.2.2.2 / 16 % 256)) else none)))).eraseDups

/-- Is an imported item older than 2 EQ_PERIOD pack cycles? -/
def eqStale (s : State) (version : Word) : Bool := decide ((2 * packFld s 0x0B 1 : Nat) < eqAge s version)

/-- The version of the last import of a key since EQ_OK was last cleared. -/
def eqVersion (s : State) (key : Nat) : Option Word := (tget none s.pack.eqVers key).map w32

/-- Has every item been imported, none of them stale? -/
def eqComplete (s : State) : Bool := (eqNeeded s).all (fun k => match eqVersion s k with
  | some v => !eqStale s v
  | none => false)

/-- A unit gains EQ_OK (R370). -/
def eqGain (s : State) : State :=
  if importing s && !s.pack.eqOk && eqComplete s then
    raise 0x0B0C (w32 (eqNeeded s).length) (w32 (pcyc s)) 0 (modPack (fun p => { p with eqOk := true }) s)
  else s

/-- A unit loses EQ_OK when an item it has imported has grown too old (R370). -/
def eqLose (s : State) : State :=
  if importing s && s.pack.eqOk then
    match (eqNeeded s).find? (fun k => match eqVersion s k with
      | some v => eqStale s v
      | none => true) with
    | some k => raise 0x0B0D (w32 k) (i32 (eqAge s ((eqVersion s k).getD 0))) 0 (modPack (fun p => { p with eqOk := false }) s)
    | none => s
  else s

/-- EQ_OK is cleared without a record, with the imports that it rests on (R370). -/
def eqClear (s : State) : State := modPack (fun p => { p with eqOk := false, eqVers := [] }) s

/-- The owning engine's next operation takes the newest version of a received item that has become available; a unit that may not import
drops it (R369). DEDUCED, log 84: a newer version replaces an older one at the boundary from which it is available. -/
def eqTake (item index : Nat) (s : State) : Option EqBody × State :=
  match (s.pack.eqHeld.filter (fun h => itemKey h.item = eqKey item index ∧ h.avail ≤ s.seq.k)).getLast? with
  | none => (none, s)
  | some h =>
    let s := modPack (fun p => { p with eqHeld := p.eqHeld.filter (fun x => itemKey x.item ≠ eqKey item index ∨ s.seq.k < x.avail) }) s
    if importing s then
      (some h.item.body, eqGain (modPack (fun p => { p with eqRx := p.eqRx + 1, eqVers := tset none p.eqVers (eqKey item index) (some h.item.version.toNat) }) s))
    else (none, s)

end Sys2Proof.Machine
end

