-- ==== Sys2Proof/Machine/Qps.lean ====
section
/-! DEFINITION. Sys2Proof/Machine/Qps.lean: the QP solver engine (chapter 6, R197 to R227). Numbers are exact, stored words are
rounded at the exponent of their array (R208); none is NaN. -/

namespace Sys2Proof.Machine

/-! ### Numbers. -/

abbrev OQ := Option Rat

/-- Round to a stored word of exponent e; a word that does not fit is NaN (R208). -/
def rnd (e : Int) (x : OQ) : OQ :=
  x.bind (fun q =>
    let m := roundEven (q * pow2 (-e))
    if -(2 ^ 31 - 1) ≤ m ∧ m ≤ 2 ^ 31 - 1 then some ((m : Rat) * pow2 e) else none)

def oAdd (a b : OQ) : OQ := a.bind (fun x => b.map (fun y => x + y))
def oSub (a b : OQ) : OQ := a.bind (fun x => b.map (fun y => x - y))
def oMul (a b : OQ) : OQ := a.bind (fun x => b.map (fun y => x * y))
def oSum (l : List OQ) : OQ := l.foldl oAdd (some 0)
def oDot (a b : List OQ) : OQ := oSum (List.zipWith oMul a b)
def anyNan (l : List OQ) : Bool := l.any (fun x => x.isNone)
def oWord (e : Int) (x : OQ) : Word := match x with
  | some q => (sfxOf q e).getD nanWord
  | none => nanWord

/-! ### QPST (R200 to R202). -/

def qp (s : State) (off n : Nat) : Nat := fld s .qpst 0 off n
def tplCnt (s : State) : Nat := qp s 0 4

/-- A field of template descriptor t (Table 6-3). -/
def qd (s : State) (t off n : Nat) : Nat := qp s (qp s 4 4 + 128 * t + off) n
def qdS (s : State) (t off n : Nat) : Int := signedOf (8 * n) (qd s t off n)

def qN (s : State) (t : Nat) : Nat := qd s t 0 2
def qMeq (s : State) (t : Nat) : Nat := qd s t 2 1
def qMg (s : State) (t : Nat) : Nat := qd s t 4 2
def qHconst (s : State) (t : Nat) : Bool := bitOf (qd s t 3 1) 0

def eL (s : State) (t : Nat) : Int := qdS s t 0x38 1
def eD (s : State) (t : Nat) : Int := qdS s t 0x39 1
def eDinv (s : State) (t : Nat) : Int := qdS s t 0x3A 1
def eZ (s : State) (t : Nat) : Int := qdS s t 0x3B 1
def eR (s : State) (t : Nat) : Int := qdS s t 0x3C 1
def eS (s : State) (t : Nat) : Int := qdS s t 0x3D 1
def eRcp (s : State) (t : Nat) : Int := qdS s t 0x3E 1
def eU (s : State) (t : Nat) : Int := qdS s t 0x3F 1
def eSl (s : State) (t : Nat) : Int := qdS s t 0x40 1
def eObj (s : State) (t : Nat) : Int := qdS s t 0x41 1

def pivFloor (s : State) (t : Nat) : Rat := ((qd s t 0x2C 4 : Nat) : Rat) * pow2 (eD s t)
def feasTol (s : State) (t : Nat) : Rat := ((qd s t 0x30 4 : Nat) : Rat) * pow2 (eSl s t)
def zFloor (s : State) (t : Nat) : Rat := ((qd s t 0x34 4 : Nat) : Rat) * pow2 (eS s t)

/-- A block (R201). -/
structure QpBlk where
  mat  : Nat
  exp  : Int
  row0 : Nat
  col0 : Nat
  rows : Nat
  cols : Nat

def qBlk (s : State) (t b : Nat) : QpBlk :=
  let o := qd s t 0x10 4 + 12 * b
  { mat := qp s o 1, exp := signedOf 8 (qp s (o + 1) 1), row0 := qp s (o + 2) 2, col0 := qp s (o + 4) 2, rows := qp s (o + 6) 2, cols := qp s (o + 8) 2 }

def qTpl (s : State) (t : Nat) : QpTpl := tget {} s.qps.tpls t
def setTpl (t : Nat) (q : QpTpl) (s : State) : State := { s with qps := { s.qps with tpls := tset {} s.qps.tpls t q } }

/-- Value of element e of block b. -/
def blkVal (s : State) (t b e : Nat) : OQ :=
  let w := tget 0 (qTpl s t).words (2 ^ 18 * b + e)
  if w = nanWord then none else some (sfxVal w (qBlk s t b).exp)

/-- The block of a matrix that covers an element, if one does. -/
def blkOf (s : State) (t mat i j : Nat) : Option Nat :=
  (List.range (qd s t 0x14 2)).find? (fun b =>
    let k := qBlk s t b
    k.mat == mat && decide (k.row0 ≤ i) && decide (i < k.row0 + k.rows) && decide (k.col0 ≤ j) && decide (j < k.col0 + k.cols))

/-- Element (i, j) of a matrix; an element that no block covers is zero (R201). -/
def matElt (s : State) (t mat i j : Nat) : OQ :=
  match blkOf s t mat i j with
  | some b => let k := qBlk s t b; blkVal s t b ((i - k.row0) * k.cols + (j - k.col0))
  | none => some 0

/-- H is read in its lower triangle and mirrored (R201). -/
def hElt (s : State) (t i j : Nat) : OQ := if j ≤ i then matElt s t 0 i j else matElt s t 0 j i

/-- Exponent of variable j: that of its X block. -/
def xExp (s : State) (t j : Nat) : Int := match blkOf s t 8 j 0 with
  | some b => (qBlk s t b).exp
  | none => 0

/-- A bound of variable j in matrix 6 or 7: none where it is not finite; a bound that no block covers is 0 once MASKV created it (R197,
R203). -/
def boundOf (s : State) (t mat j : Nat) : Option OQ :=
  match blkOf s t mat j 0 with
  | some _ => some (matElt s t mat j 0)
  | none => if (qTpl s t).maskOff.contains j then some (some 0) else none
def loOf (s : State) (t j : Nat) : Option OQ := boundOf s t 6 j
def hiOf (s : State) (t j : Nat) : Option OQ := boundOf s t 7 j

/-! ### Assembly (R203 to R206). -/

/-- Store an element of a block: rounded; a NaN into a block of the problem marks it (R205). -/
def putBlk (t b e : Nat) (x : OQ) (s : State) : State :=
  let k := qBlk s t b
  let w := oWord k.exp x
  let q := qTpl s t
  setTpl t { q with words := tset 0 q.words (2 ^ 18 * b + e) w, nanIn := q.nanIn || (w == nanWord && decide (k.mat ≤ 7)) } s

/-- Lower the worst-input quality of the build by the signals read (R205). -/
def readQual (t : Nat) (l : List Nat) (s : State) : State :=
  let q := qTpl s t
  setTpl t { q with qual := qWorst (q.qual :: l.map (sigQ s)) } s

/-- Put a list of values over a block, row-major. -/
def putAll (t b : Nat) (l : List OQ) (s : State) : State :=
  (l.zipIdx).foldl (fun s p => putBlk t b p.2 p.1 s) s

/-- MASKV writes 0 into the bound of variable j that a LO or HI block holds (R203). -/
def maskBound (t mat j : Nat) (s : State) : State :=
  match blkOf s t mat j 0 with
  | some b => putBlk t b (j - (qBlk s t b).row0) (some 0) s
  | none => s

/-- The bits of a mask entry, packed least significant first and padded to whole bytes (R206). -/
def packBits (l : List Bool) : List Byte :=
  (List.range ((l.length + 7) / 8)).map (fun i =>
    BitVec.ofNat 8 (((List.range 8).map (fun k => b2n (l.getD (8 * i + k) false) * 2 ^ k)).foldl (· + ·) 0))

/-- One FSA list entry (Table 6-4). -/
def fsaEntry (t e : Nat) (s : State) : State :=
  let o := qd s t 0x18 4 + 16 * e
  let opc := qp s o 1 % 64
  let b := qp s (o + 2) 2
  let s1 := qp s (o + 4) 4 % 2 ^ 24
  let s2 := qp s (o + 8) 4 % 2 ^ 24
  let pe := signedOf 8 (qp s (o + 12) 1)
  let k := qBlk s t b
  let n := k.rows * k.cols
  let els := List.range n
  let vals := els.map (blkVal s t b)
  let sg := s1 % 2 ^ 17
  match opc with
  | 0x01 => putAll t b (els.map (fun i => let w := w32 (qp s (qp s 8 4 + 4 * (s1 + i)) 4); if w = nanWord then none else some (sfxVal w pe))) s
  | 0x02 => readQual t (els.map (sg + ·)) (putAll t b (els.map (fun i => sigNum s (sg + i))) s)
  | 0x03 => putAll t b (els.map (fun i => let w := w32 (fld s .vmdl 0 (s1 + 4 * i) 4); if w = nanWord then none else some (sfxVal w pe))) s
  | 0x04 => readQual t [sg] (putAll t b (vals.map (fun v => oMul v (sigNum s sg))) s)
  | 0x05 =>
    let ka := qBlk s t s1
    putAll t b (els.map (fun i =>
      let r := i / k.cols
      let c := i % k.cols
      oSum (blkVal s t b i :: (List.range ka.cols).map (fun m => oMul (blkVal s t s1 (r * ka.cols + m)) (blkVal s t s2 (m * k.cols + c)))))) s
  | 0x06 => readQual t ((List.range k.rows).map (sg + ·)) ((List.range k.rows).foldl (fun s i => putBlk t b (i * k.cols + i) (sigNum s (sg + i)) s) s)
  | 0x07 =>
    let a := bamTurns (sigW s sg)
    let c := cosTurns a
    let v := sinTurns a
    let l := if sigNan s sg then [none, none, none, none] else [some c, some (-v), some v, some c]
    readQual t [sg] (putAll t b l s)
  | 0x08 => readQual t ((List.range k.rows).map (sg + ·)) (putAll t b ((List.range k.rows).map (fun i =>
      (blkVal s t b i).bind (fun x => (sigNum s (sg + i)).map (fun y => min x y)))) s)
  | 0x09 =>
    let bits := (List.range k.rows).map (fun i => sigW s (sg + i) != 0)
    let off := ((List.range k.rows).filter (fun i => !bits.getD i false)).map (k.row0 + ·)
    let q := qTpl s t
    let s := setTpl t { q with maskOff := q.maskOff ++ off, sigBytes := q.sigBytes ++ packBits bits } s
    readQual t ((List.range k.rows).map (sg + ·)) (off.foldl (fun s j => maskBound t 7 j (maskBound t 6 j s)) s)
  | 0x0A =>
    let bits := (List.range k.rows).map (fun i => sigW s (sg + i) != 0)
    let off := ((List.range k.rows).filter (fun i => !bits.getD i false)).map (fun i => qMeq s t + k.row0 + i)
    let q := qTpl s t
    readQual t ((List.range k.rows).map (sg + ·)) (setTpl t { q with rowOff := q.rowOff ++ off, sigBytes := q.sigBytes ++ packBits bits } s)
  | 0x0B => putAll t b (vals.map (fun v => v.map (fun x => -x))) s
  | _ => s

/-- Cost of an entry in ticks (Table 6-4). -/
def fsaCost (s : State) (t e : Nat) : Nat :=
  let o := qd s t 0x18 4 + 16 * e
  let k := qBlk s t (qp s (o + 2) 2)
  let n := k.rows * k.cols
  match qp s o 1 % 64 with
  | 0x02 => 4 + (n + 3) / 4
  | 0x05 => 8 + (k.rows * (qBlk s t (qp s (o + 4) 4 % 2 ^ 24)).cols * k.cols + 63) / 64 + (n + 15) / 16
  | 0x06 | 0x08 | 0x09 | 0x0A => 4 + (k.rows + 3) / 4
  | 0x07 => 16
  | _ => 4 + (n + 15) / 16

/-- The entries of a segment: from its first to the next one with SEG_END (R204). -/
def segment (s : State) (t first : Nat) : List Nat :=
  let rest := (List.range (qd s t 0x16 2)).drop first
  let isEnd (e : Nat) : Bool := bitOf (qp s (qd s t 0x18 4 + 16 * e) 1) 6
  let body := rest.takeWhile (fun e => !isEnd e)
  body ++ (rest.drop body.length).take 1

/-- The first suppressed operation breaks the solve of its template, and QPS_INCOMPLETE is recorded once (R221). -/
def qpsBreak (t op : Nat) (s : State) : State :=
  let q := qTpl s t
  if q.broken then s
  else raise 0x0605 (w32 t) (w32 op) (w32 (s.seq.k % s.hdr.m)) (setTpl t { q with broken := true } s)

/-- The output signals of a template keep their values with quality STALE (R221). -/
def qpsStale (t : Nat) (s : State) : State :=
  markStale (qd s t 0x28 4 % 2 ^ 17) 6 (markStale (qd s t 0x24 4 % 2 ^ 17) (qN s t) s)

/-- The templates with a solve operation in the list of the frame that begins. -/
def frameTpls (s : State) : List Nat :=
  ((pairOps s (s.seq.bundle, s.seq.tag)).filterMap (fun x =>
    let w := x.2.2.2
    if (w / 2 ^ 26 = 4 ∨ w / 2 ^ 26 = 5) ∧ w / 2 ^ 20 % 64 ≠ 0 then some (w % 16) else none)).eraseDups

/-- At the boundary of a frame whose operations are suppressed, the outputs of the templates that it would have worked on turn STALE, but for
those of a solve that is broken already (R221). -/
def qpsSuppress (s : State) : State :=
  if halted s then (frameTpls s).foldl (fun s t => if (qTpl s t).broken then s else qpsStale t s) s else s

/-- Issue of a QPS operation: a suppressed one breaks the solve, and every later one until its next first build segment is
suppressed as well (R221). -/
def qpsIssue (eng t op : Nat) (first : Bool) (w : Word) (f : State → State) (s : State) : Res :=
  if s.seq.run && !s.seq.stopped && (isDisabled s eng 0 || halted s) then .next (dropLane (qpsBreak t op s))
  else issue eng 0 w (fun s => if (qTpl s t).broken && !first then s else f s) s

/-- FSA_BUILD: one segment of the build (R204 to R206). -/
def fsaBuildEffect (t first : Nat) (s : State) : State :=
  let q := qTpl s t
  let s := if first = 0 then setTpl t { q with broken := false, maskOff := [], rowOff := [], qual := qGood, nanIn := false, sigBytes := leBytes 4 (qd s t 8 4), c1 := 0 } s else s
  let seg := segment s t first
  let s := seg.foldl (fun s e => fsaEntry t e s) s
  let cost := 8 + (seg.map (fsaCost s t)).foldl (· + ·) 0
  let q := qTpl s t
  let s := setTpl t { q with sig := w32 (crc32 q.sigBytes) } s
  { s with qps := { s.qps with fsaTpl := t, fsaUntil := s.cclk + cost } }

/-- A template operand beyond TPL_CNT is outside the table region (R55). -/
def execFsaBuild (t : BitVec 4) (entry : BitVec 12) (s : State) : Res :=
  let w := opWord 4 1 (t.toNat + 16 * entry.toNat)
  qpsIssue 4 t.toNat 0 (entry = 0) w (fun s => if tplCnt s ≤ t.toNat then breach 0x0107 w s else fsaBuildEffect t.toNat entry.toNat s) s

/-! ### Factor (R209, R212). -/

def lElt (q : QpTpl) (i j : Nat) : OQ := if i = j then some 1 else (q.l.getD i []).getD j (some 0)

/-- One column of H = L D L'. -/
def factCol (s : State) (t j : Nat) (q : QpTpl) : QpTpl :=
  let n := qN s t
  let w (i : Nat) : OQ := oSub (hElt s t i j) (oSum ((List.range j).map (fun k => oMul (oMul (lElt q i k) (q.d.getD k (some 0))) (lElt q j k))))
  let wj := w j
  let bad := match wj with
    | some x => decide (x < pivFloor s t)
    | none => false
  let inv := rnd (eDinv s t) (wj.bind (fun x => if x = 0 then none else some (1 / x)))
  let colv := (List.range n).map (fun i => if i ≤ j then some 0 else rnd (eL s t) (oMul (w i) inv))
  let l := (List.range n).map (fun i => (List.range n).map (fun c => if c = j then colv.getD i none else (q.l.getD i []).getD c (some 0)))
  { q with
    l := l
    d := (q.d.take j ++ List.replicate (j - q.d.length) (some 0)) ++ [rnd (eD s t) wj]
    dinv := (q.dinv.take j ++ List.replicate (j - q.dinv.length) (some 0)) ++ [inv]
    pivot := if bad && q.pivot.isNone then some (j, oWord (eD s t) wj) else q.pivot }

/-- Hinv y: the solve through L, D^-1 and L' (R212). It is formed in the accumulators; its user rounds it at the exponent of the array that it
goes to (R208). -/
def hinv (s : State) (t : Nat) (q : QpTpl) (y : List OQ) : List OQ :=
  let n := qN s t
  let f := (List.range n).foldl (fun (a : List OQ) i => a ++ [oSub (y.getD i (some 0)) (oSum ((List.range i).map (fun k => oMul (lElt q i k) (a.getD k none))))]) []
  let g := List.zipWith oMul f q.dinv
  (List.range n).foldl (fun (a : List OQ) m =>
    let i := n - 1 - m
    -- a holds entries i+1 .. n-1
    oSub (g.getD i none) (oSum (a.zipIdx.map (fun p => oMul (lElt q (i + 1 + p.2) i) p.1))) :: a) []

/-- The Schur factor of the kept products S: unit-triangular rows at EXP_L and diagonal at EXP_S (R208, R213). -/
def schurFactor (s : State) (t : Nat) (sm : List (List OQ)) : List (List OQ) × List OQ :=
  (List.range sm.length).foldl (fun (a : List (List OQ) × List OQ) i =>
    let row := (List.range i).foldl (fun (r : List OQ) j =>
      let num := oSub ((sm.getD i []).getD j none) (oSum ((List.range j).map (fun k => oMul (oMul (r.getD k none) ((a.1.getD j []).getD k none)) (a.2.getD k none))))
      let rc := rnd (eRcp s t) ((a.2.getD j none).bind (fun x => if x = 0 then none else some (1 / x)))
      r ++ [rnd (eL s t) (oMul num rc)]) []
    let dg := rnd (eS s t) (oSub ((sm.getD i []).getD i none) (oSum (row.zipIdx.map (fun p => oMul (oMul p.1 p.1) (a.2.getD p.2 none)))))
    (a.1 ++ [row], a.2 ++ [dg])) ([], [])

/-- Sinv y at an exponent, through the Schur factor. -/
def sinv (s : State) (t : Nat) (e : Int) (sm : List (List OQ)) (y : List OQ) : List OQ :=
  let f := schurFactor s t sm
  let m := sm.length
  let a := (List.range m).foldl (fun (a : List OQ) i => a ++ [oSub (y.getD i none) (oSum ((List.range i).map (fun k => oMul ((f.1.getD i []).getD k none) (a.getD k none))))]) []
  let g := List.zipWith (fun v d => oMul v (rnd (eRcp s t) (d.bind (fun x => if x = 0 then none else some (1 / x))))) a f.2
  ((List.range m).foldl (fun (b : List OQ) k =>
    let i := m - 1 - k
    oSub (g.getD i none) (oSum (b.zipIdx.map (fun p => oMul ((f.1.getD (i + 1 + p.2) []).getD i none) p.1))) :: b) []).map (rnd e)

/-- FAR_FACT: columns c0 to c1 - 1; a valid factor of a constant Hessian stays (R212). -/
def farFactEffect (t c1 : Nat) (s : State) : State :=
  let n := qN s t
  let q := qTpl s t
  let c0 := q.c1
  let sn (c : Nat) : Nat := n * (c * (c - 1)) / 2 - (c - 1) * c * (2 * c - 1) / 6
  let lat := 16 + (c1 - c0) + (2 * (sn c1 - sn c0) + 511) / 512
  let s := { s with qps := { s.qps with farTpl := t, farUntil := s.cclk + lat } }
  if qHconst s t && q.valid && (c0 = 0 || !q.hfact) then setTpl t { q with c1 := c1, hfact := false } s
  else
    let q0 := if c0 = 0 then { q with pivot := none, l := [], d := [], dinv := [], valid := false, hfact := true, range := (0, 0) } else q
    let q1 := ((List.range c1).drop c0).foldl (fun q j => factCol s t j q) q0
    setTpl t { q1 with c1 := c1, valid := decide (n ≤ c1) && q1.pivot.isNone } s

def execFarFact (t : BitVec 4) (c : BitVec 9) (s : State) : Res :=
  let w := opWord 5 1 (t.toNat + 16 * c.toNat)
  qpsIssue 5 t.toNat 1 false w (fun s => if tplCnt s ≤ t.toNat then breach 0x0107 w s else farFactEffect t.toNat (c.toNat + 1) s) s

/-! ### Rows (R198). -/

def vecN (s : State) (t : Nat) : List Nat := List.range (qN s t)

/-- Canonical normal of a row; flip turns an equality round. -/
def normal (s : State) (t row : Nat) (flip : Bool) : List OQ :=
  let meq := qMeq s t
  let mg := qMg s t
  let n := qN s t
  let sg : Rat := if flip then -1 else 1
  if row < meq then (vecN s t).map (fun j => (matElt s t 2 row j).map (fun x => sg * x))
  else if row < meq + mg then (vecN s t).map (fun j => (matElt s t 4 (row - meq) j).map (fun x => -x))
  else if row < meq + mg + n then (vecN s t).map (fun j => if j = row - meq - mg then some 1 else some 0)
  else (vecN s t).map (fun j => if j = row - meq - mg - n then some (-1) else some 0)

/-- Bound of a row. -/
def bound (s : State) (t row : Nat) (flip : Bool) : OQ :=
  let meq := qMeq s t
  let mg := qMg s t
  let n := qN s t
  if row < meq then (matElt s t 3 row 0).map (fun x => if flip then -x else x)
  else if row < meq + mg then (matElt s t 5 (row - meq) 0).map (fun x => -x)
  else if row < meq + mg + n then (loOf s t (row - meq - mg)).getD none
  else ((hiOf s t (row - meq - mg - n)).getD none).map (fun x => -x)

/-- Slack of a row at x, at EXP_SL. -/
def slack (s : State) (t : Nat) (x : List OQ) (row : Nat) (flip : Bool) : OQ :=
  rnd (eSl s t) (oSub (oDot (normal s t row flip) x) (bound s t row flip))

/-- The enabled inequality and bound rows (R198, R203). -/
def ineqRows (s : State) (t : Nat) : List Nat :=
  let meq := qMeq s t
  let mg := qMg s t
  let n := qN s t
  ((List.range mg).map (meq + ·)).filter (fun r => !((qTpl s t).rowOff.contains r))
    ++ ((List.range n).filter (fun j => (loOf s t j).isSome)).map (meq + mg + ·)
    ++ ((List.range n).filter (fun j => (hiOf s t j).isSome)).map (meq + mg + n + ·)

/-- The order in which R214 prefers candidates: the more negative slack, then the lower row (R198). -/
def ratRowLe (a b : Rat × Nat) : Bool := decide (a.1 < b.1) || (decide (a.1 = b.1) && decide (a.2 ≤ b.2))

/-- What a search for a candidate finds (R214): a row with what is left of prio, no row, or a slack that does not fit EXP_SL (R208). -/
inductive QpFind where
  | row (r : Nat) (prio : List Nat)
  | none
  | nan

/-- The first row of prio that qualifies; a row passed over leaves prio. -/
def findPrio (slackOf : Nat → OQ) (tol : Rat) (free : Nat → Bool) : List Nat → QpFind
  | [] => .none
  | r :: l =>
    if free r then
      match slackOf r with
      | some v => if v < -tol then .row r l else findPrio slackOf tol free l
      | Option.none => .nan
    else findPrio slackOf tol free l

/-- The candidate of R214. -/
def candidate (s : State) (t : Nat) (q : QpTpl) : QpFind :=
  let inW (r : Nat) : Bool := q.active.any (fun a => a.row == r)
  match (List.range (qMeq s t)).find? (fun r => !inW r && !q.satd.contains r) with
  | some r => .row r q.prio
  | Option.none =>
    let ok := ineqRows s t
    let slackOf (r : Nat) : OQ := slack s t q.x r false
    match findPrio slackOf (feasTol s t) (fun r => ok.contains r && !inW r) q.prio with
    | .none =>
      let l := (ok.filter (fun r => !inW r)).map (fun r => (slackOf r, r))
      if anyNan (l.map (fun p => p.1)) then .nan
      else
        let viol := (l.map (fun p => (p.1.getD 0, p.2))).filter (fun p => decide (p.1 < -feasTol s t))
        match (sortBy ratRowLe viol).head? with
        | some p => .row p.2 []
        | Option.none => .none
    | x => x

/-! ### The warm-start record (R218). -/

/-- The record of a template of n variables, 8 + 2n bytes: signature, result code, a reserved byte, the size of W, the rows of W in order of
entry, 0xFFFF in the slots beyond them. -/
def qpBytes (n : Nat) (r : QpRecord) : List Byte :=
  leBytes 4 r.sig.toNat ++ leBytes 1 r.result ++ leBytes 1 0 ++ leBytes 2 r.rows.length
    ++ ((r.rows ++ List.replicate (n - r.rows.length) 0xFFFF).take n).flatMap (leBytes 2)

/-- The record that bytes hold. -/
def qpParse (b : List Byte) : QpRecord :=
  let at_ (o n : Nat) : Nat := leNat ((b.drop o).take n)
  { sig := w32 (at_ 0 4), result := at_ 4 1, rows := (List.range (at_ 6 2)).map (fun i => at_ (8 + 2 * i) 2) }

/-! ### FAR_START (R213, R217). -/

def gVec (s : State) (t : Nat) : List OQ := (vecN s t).map (fun j => matElt s t 1 j 0)
def roundX (s : State) (t : Nat) (x : List OQ) : List OQ := x.zipIdx.map (fun p => rnd (xExp s t p.2) p.1)

/-- The start class of Table 6-6: 0 FIRST, 1 COLD by signature, 2 COLD by result, 3 WARM-REBUILT by import, 4 WARM-KEPT,
5 WARM-REBUILT. -/
def startClass (s : State) (t : Nat) (q : QpTpl) : Nat :=
  match q.imported.or q.prev with
  | none => 0
  | some r =>
    if r.sig ≠ q.sig then 1 else if 2 ≤ r.result then 2 else if q.imported.isSome then 3
    else if qHconst s t && q.valid then 4 else 5

/-- The sum of u_i times the normal of row i. -/
def nTu (s : State) (t : Nat) (rows : List QpRow) (u : List OQ) : List OQ :=
  (vecN s t).map (fun j => oSum (List.zipWith (fun a v => oMul ((normal s t a.row a.flip).getD j none) v) rows u))

/-- The warm-start record that an equalisation item delivers takes effect at the next FAR_START (R218, R369). -/
def farImport (t : Nat) (s : State) : State :=
  let x := eqTake 4 t s
  match x.1 with
  | some (.qps b) => setTpl t { qTpl x.2 t with imported := some (qpParse b) } x.2
  | _ => x.2

def farStartEffect (t : Nat) (s : State) : State :=
  let n := qN s t
  let s := farImport t s
  let q := qTpl s t
  let s := { s with qps := { s.qps with farTpl := t, farUntil := s.cclk + 32 + (6 * n * n + 511) / 512 } }
  let cls := startClass s t q
  let old := (q.imported.or q.prev).getD { sig := 0, result := 0, rows := [] }
  let s := if cls = 1 ∨ cls = 2 then raise 0x0600 (w32 (256 * t + cls)) q.sig old.sig s else s
  let s := if cls = 3 then raise 0x0606 (w32 t) old.sig (w32 old.rows.length) s else s
  let q := { q with
    halted := false, cand := none, candS := none, passes := 0, satd := [], result := 15
    valid := if cls = 1 ∨ cls = 2 then false else if cls = 3 then false else q.valid
    prev := some old, imported := none
    colds := if cls ≤ 2 then q.colds + 1 else q.colds }
  let q := if cls = 0 then { q with prev := none } else q
  let crossed := (List.range n).any (fun j => match loOf s t j, hiOf s t j with
    | some (some a), some (some b) => decide (b < a)
    | _, _ => false)
  let base := if cls ≤ 2 then 1 else if cls = 3 then 10 else if cls = 5 then 2 else 0
  let base := base + (if q.hfact then 16 else 0)
  let hg := roundX s t (hinv s t q (gVec s t))
  let stop (r : Nat) (q : QpTpl) : QpTpl := { q with halted := true, result := r, flags := base }
  let q :=
    if q.nanIn then stop 4 { q with range := (0, 0) }
    else if q.pivot.isSome then stop 3 q
    else if crossed then stop 2 { q with x := if q.x.length = n then q.x else List.replicate n (some 0) }
    else
      let kept : Option QpTpl :=
        if cls = 4 then
          let rhs := q.active.map (fun a => oAdd (bound s t a.row a.flip) (oDot (normal s t a.row a.flip) hg))
          let u := sinv s t (eU s t) q.schur rhs
          let x := roundX s t (hinv s t q (List.zipWith oSub (nTu s t q.active u) (gVec s t)))
          let neg := (List.zipWith (fun a v => decide (qMeq s t ≤ a.row) && (match v with
            | some y => decide (y < 0)
            | none => false)) q.active u).any (fun b => b)
          if neg then none else some { q with active := List.zipWith (fun a v => { a with u := v }) q.active u, x := x, prio := [], flags := base }
        else none
      let q := match kept with
        | some k => k
        | none => { q with
            active := [], schur := [], x := hg.map (fun v => v.map (fun y => -y))
            prio := if 3 ≤ cls then old.rows else []
            flags := if cls = 4 then base + 2 else base }
      if anyNan q.x || anyNan (q.active.map (fun a => a.u)) then { q with halted := true, result := 4, range := (if anyNan q.d then 1 else 2, 0) } else q
  setTpl t q s

def execFarStart (t : BitVec 4) (s : State) : Res :=
  let w := opWord 5 2 t.toNat
  qpsIssue 5 t.toNat 2 false w (fun s => if tplCnt s ≤ t.toNat then breach 0x0107 w s else farStartEffect t.toNat s) s

/-! ### FAR_ITER (R214, R215). -/

/-- A NaN in the passes makes the solve RANGE (R208, R210). -/
def rangeIter (q : QpTpl) : QpTpl := { q with halted := true, result := 4, range := (3, q.passes) }

/-- Take a new candidate, with an equality oriented so that its slack is not positive; none halts the solve OPTIMAL. -/
def takeCand (s : State) (t : Nat) (q : QpTpl) : QpTpl :=
  match q.cand with
  | some _ => q
  | none =>
    match candidate s t q with
    | .none => { q with prio := [], result := 0, halted := true }
    | .nan => rangeIter q
    | .row r l =>
      let flip := decide (r < qMeq s t) && (match slack s t q.x r false with
        | some v => decide (0 < v)
        | none => false)
      { q with prio := l, cand := some { row := r, flip := flip, u := some 0 } }

/-- The pass proper, for a pending candidate. -/
def passOf (s : State) (t : Nat) (q : QpTpl) (p : QpRow) : QpTpl :=
  let q := { q with passes := q.passes + 1 }
  let nu := normal s t p.row p.flip
  let v := (hinv s t q nu).map (rnd (eZ s t))
  let dv := q.active.map (fun a => rnd (eS s t) (oDot (normal s t a.row a.flip) v))
  let r := sinv s t (eR s t) q.schur dv
  let z := List.zipWith (fun a b => rnd (eZ s t) (oSub a b)) v (hinv s t q (nTu s t q.active r))
  let qq := rnd (eS s t) (oDot z nu)
  let sp := slack s t q.x p.row p.flip
  let fail := rangeIter q
  match qq, sp with
  | some qv, some sv =>
    if anyNan v || anyNan dv || anyNan r || anyNan z then fail
    else
      let qv := if qv ≤ zFloor s t then 0 else qv
      let t2 : Option Rat := if 0 < qv then rnd (eU s t) (oMul (some (-sv)) (rnd (eRcp s t) (some (1 / qv)))) else none
      let steps := (List.zipWith (fun a rj => (a, rj)) q.active r).filterMap (fun ar => match ar.1.u, ar.2 with
        | some u, some rj => if qMeq s t ≤ ar.1.row ∧ 0 < rj then some (rnd (eU s t) (some (u / rj)), ar.1.row) else none
        | _, _ => none)
      let t1 := (sortBy ratRowLe (steps.map (fun p => (p.1.getD 0, p.2)))).head?
      if 0 < qv ∧ t2.isNone ∨ anyNan (steps.map (fun p => p.1)) = true then fail
      else match t1, t2 with
      | none, none =>
        if p.row < qMeq s t ∧ absQ sv ≤ feasTol s t then { q with satd := p.row :: q.satd, cand := none }
        else { q with halted := true, result := 2, candS := some sv }
      | _, _ =>
        let full := match t1, t2 with
          | none, _ => true
          | some a, some b => decide (b ≤ a.1)
          | some _, none => false
        let st := if full then t2.getD 0 else (t1.map (fun a => a.1)).getD 0
        let x := if t2.isSome then roundX s t (List.zipWith (fun a b => oAdd a (oMul (some st) b)) q.x z) else q.x
        let act := List.zipWith (fun a rj =>
          let u := rnd (eU s t) (oSub a.u (oMul (some st) rj))
          { a with u := if qMeq s t ≤ a.row then u.map (fun y => if y < 0 then 0 else y) else u }) q.active r
        let up := rnd (eU s t) (oAdd p.u (some st))
        let q := { q with x := x, active := act }
        if anyNan x || anyNan (act.map (fun a => a.u)) || up.isNone then rangeIter q
        else if full then
          let sm := (List.zipWith (fun row d => row ++ [d]) q.schur dv) ++ [dv ++ [rnd (eS s t) (oDot nu v)]]
          { q with active := act ++ [{ p with u := up }], schur := sm, cand := none }
        else
          let gone := (t1.map (fun a => a.2)).getD 0
          let i := act.findIdx (fun a => a.row == gone)
          let sm := (q.schur.eraseIdx i).map (fun row => row.eraseIdx i)
          let dg := (schurFactor s t sm).2
          let broke := dg.any (fun d => match d with
            | some y => decide (y ≤ zFloor s t)
            | none => true)
          let q := { q with active := act.eraseIdx i, schur := sm, cand := some { p with u := up } }
          if broke then rangeIter q else q
  | _, _ => fail

/-- One pass; a pass after the solve has halted does nothing (R215). -/
def onePass (s : State) (t : Nat) (q : QpTpl) : QpTpl :=
  if q.halted then q
  else
    let q := takeCand s t q
    match q.cand with
    | some p => if q.halted then q else passOf s t q p
    | none => q

/-- k passes. -/
def passes (s : State) (t : Nat) : Nat → QpTpl → QpTpl
  | 0, q => q
  | k + 1, q => passes s t k (onePass s t q)

/-- Ticks of one pass (R211). -/
def tIt (s : State) (t : Nat) : Nat := let n := qN s t; 32 + (n * (qMg s t + 5 * n) + 511) / 512 + (n + 31) / 32

def farIterEffect (t k : Nat) (s : State) : State :=
  let s' := setTpl t (passes s t k (qTpl s t)) s
  { s' with qps := { s'.qps with farTpl := t, farUntil := s.cclk + 4 + k * tIt s t } }

def execFarIter (t : BitVec 4) (k : BitVec 8) (s : State) : Res :=
  let w := opWord 5 3 (t.toNat + 16 * k.toNat)
  qpsIssue 5 t.toNat 3 false w (fun s => if tplCnt s ≤ t.toNat then breach 0x0107 w s else farIterEffect t.toNat k.toNat s) s

/-! ### FAR_END (R216, R218 to R220, R226). -/

/-- The final test of R216 for a solve that has not halted. -/
def finalTest (s : State) (t : Nat) (q : QpTpl) : QpTpl :=
  if q.halted then q
  else match q.cand with
    | some p => { q with result := 1, candS := slack s t q.x p.row p.flip }
    | none => match candidate s t q with
      | .none => { q with prio := [], result := 0 }
      | .nan => rangeIter q
      | .row r l => { q with prio := l, result := 1, cand := some { row := r, flip := false, u := some 0 }, candS := slack s t q.x r false }

/-- Clip to the finite bounds (R216). -/
def clipX (s : State) (t : Nat) (x : List OQ) : List OQ :=
  x.zipIdx.map (fun p => p.1.map (fun v =>
    match loOf s t p.2, hiOf s t p.2 with
    | some (some a), some (some b) => if b < a then a else min (max v a) b
    | some (some a), _ => max v a
    | _, some (some b) => min v b
    | _, _ => v))

/-- The largest violation over the enabled rows. -/
def violation (s : State) (t : Nat) (x : List OQ) : OQ :=
  let eqs := (List.range (qMeq s t)).map (fun r => (slack s t x r false).map absQ)
  let ins := (ineqRows s t).map (fun r => (slack s t x r false).map (fun v => if v < 0 then -v else 0))
  (eqs ++ ins).foldl (fun a v => a.bind (fun m => v.map (fun y => max m y))) (some 0)

/-- The objective, at EXP_OBJ. -/
def objective (s : State) (t : Nat) (x : List OQ) : OQ :=
  let hx := (vecN s t).map (fun i => oDot ((vecN s t).map (fun j => hElt s t i j)) x)
  rnd (eObj s t) (oAdd ((oDot hx x).map (fun v => v / 2)) (oDot (gVec s t) x))

/-- Record a result that is not OPTIMAL (R220). -/
def qpsEvent (t : Nat) (q : QpTpl) (s : State) : State :=
  let row := w32 ((q.cand.map (fun p => p.row)).getD 0xFFFF)
  match q.result with
  | 1 => raise 0x0603 (w32 t) row (oWord (eSl s t) q.candS) s
  | 2 => raise 0x0604 (w32 t) row (oWord (eSl s t) q.candS) s
  | 3 => raise 0x0601 (w32 t) (w32 (q.pivot.getD (0, 0)).1) (q.pivot.getD (0, 0)).2 s
  | 4 => raise 0x0602 (w32 t) (w32 q.range.1) (w32 q.range.2) s
  | _ => s

def farEndEffect (t : Nat) (s : State) : State :=
  let n := qN s t
  let lat := 24 + (n * (n + qMg s t) + 511) / 512 + (n + 3) / 4
  let time := opTime s lat
  let q := finalTest s t (qTpl s t)
  let q := if q.result = 1 ∨ q.result = 2 then
      let c := clipX s t q.x
      { q with x := c, flags := if c = q.x then q.flags else q.flags + 4 } else q
  let dead := q.result = 3 ∨ q.result = 4
  let q := if dead then { q with valid := false } else q
  let xs := if dead then List.replicate n none else q.x
  let obj := if dead then nanWord else oWord (eObj s t) (objective s t xs)
  let vio := if dead then nanWord else oWord (eSl s t) (violation s t xs)
  let m := q.active.length
  let st := w32 (q.result + 16 * (q.flags % 32) + 512 * (m % 512) + 2 ^ 18 * (q.passes % 4096) + 2 ^ 31)
  let q := { q with
    halted := true, solves := q.solves + 1, tstat := st, tsig := q.sig
    prev := some { sig := q.sig, result := q.result, rows := q.active.map (fun a => a.row) } }
  let s := setTpl t q s
  let s := { s with qps := { s.qps with farTpl := t, farUntil := s.cclk + lat } }
  let xb := qd s t 0x24 4 % 2 ^ 17
  let s := rawList xb (xs.zipIdx.map (fun p =>
    let w := oWord (xExp s t p.2) p.1
    (w, if w = nanWord then qNan else q.qual))) time s
  let ob := qd s t 0x28 4 % 2 ^ 17
  let s := rawList ob ([w32 q.result, w32 q.flags, w32 q.passes, w32 m, obj, vio].map (fun w => (w, qGood))) time s
  let s := qpsEvent t q s
  if s.qps.capArmed && s.qps.capTpl == t then
    raise 0x0607 (w32 t) (w32 q.result) (w32 q.passes)
      { s with qps := { s.qps with
        capArmed := false, capFull := true
        cap := [st, q.sig, obj, vio, w32 ((s.seq.k / s.hdr.m % 65536) * 65536 + s.seq.k % s.hdr.m), w32 s.seq.tick, 0, q.qual.setWidth 32]
        capRows := q.active.map (fun a => a.row) } }
  else s

def execFarEnd (t : BitVec 4) (s : State) : Res :=
  let w := opWord 5 4 t.toNat
  qpsIssue 5 t.toNat 4 false w (fun s => if tplCnt s ≤ t.toNat then breach 0x0107 w s else farEndEffect t.toNat s) s

/-! ### Capture (R226). -/

def qpsCapHandler (mbx t : Nat) (arm : Bool) (s : State) : State :=
  if tplCnt s ≤ t then completeMbx mbx rcRange s
  else { s with qps := { s.qps with capReqs := s.qps.capReqs ++ [{ tpl := t, arm := arm, due := latchFrame s, mbx := mbx }] } }

def execQpsCaptureArm (mbx : BitVec 4) (t : BitVec 8) (s : State) : Res := .next (qpsCapHandler mbx.toNat t.toNat true s)
def execQpsCaptureDisarm (mbx : BitVec 4) (t : BitVec 8) (s : State) : Res := .next (qpsCapHandler mbx.toNat t.toNat false s)

/-- At a frame boundary the capture requests latched for it take effect (R226). -/
def qpsBoundary (s : State) : State :=
  let s := qpsSuppress s
  let now := s.qps.capReqs.filter (fun r => r.due ≤ s.seq.k)
  let s := { s with qps := { s.qps with capReqs := s.qps.capReqs.filter (fun r => !decide (r.due ≤ s.seq.k)) } }
  now.foldl (fun s r =>
    let s := if r.arm then { s with qps := { s.qps with capTpl := r.tpl, capArmed := true, capFull := false } }
      else { s with qps := { s.qps with capArmed := false } }
    completeMbx r.mbx rcDone s) s

end Sys2Proof.Machine
end

