-- ==== Sys2Proof/Machine/Observer.lean ====
section
/-! DEFINITION. Sys2Proof/Machine/Observer.lean: what the observer's operations share: the slot table, the state vector and
its covariance, the geometry, prediction, scalar update, tests, weights, anchoring (chapter 4). -/

namespace Sys2Proof.Machine

/-- A field of VMDL. -/
def vm (s : State) (off n : Nat) : Nat := fld s .vmdl 0 off n
def vmS (s : State) (off n : Nat) : Int := sfld s .vmdl 0 off n

/-- A field of the observer block (Table 4-8). -/
def ob (s : State) (off n : Nat) : Nat := vm s (vm s 0 4 + off) n
def obS (s : State) (off n : Nat) : Int := vmS s (vm s 0 4 + off) n

/-- A field of a slot descriptor (Table 4-4). -/
def sl (s : State) (n off len : Nat) : Nat := vm s (vm s 4 4 + 64 * n + off) len
def slS (s : State) (n off len : Nat) : Int := vmS s (vm s 4 4 + 64 * n + off) len

def slot (s : State) (n : Nat) : Slot := tget {} s.obs.slots n
def setSlot (n : Nat) (v : Slot) (s : State) : State := { s with obs := { s.obs with slots := tset {} s.obs.slots n v } }
def modSlot (n : Nat) (f : Slot → Slot) (s : State) : State := setSlot n (f (slot s n)) s

def slotKind (s : State) (n : Nat) : Nat := sl s n 0 1

/-- Is a slot of the position class (slots 0 to 7), of the heading class (8 to 11)? (Table 4-1) -/
def isPos (n : Nat) : Bool := n < 8
def isHdg (n : Nat) : Bool := 8 ≤ n && n < 12

/-- The used slots of a class. -/
def posSlots (s : State) : List Nat := List.range (vm s 8 1)
def hdgSlots (s : State) : List Nat := (List.range (vm s 9 1)).map (· + 8)
def mruSlots (s : State) : List Nat := (List.range (vm s 10 1)).map (· + 12)
def wndSlots (s : State) : List Nat := (List.range (vm s 11 1)).map (· + 15)

def rbit (v : Slot) (i : Nat) : Bool := bitOf v.reason.toNat i
def setRbit (i : Nat) (b : Bool) (v : Slot) : Slot :=
  { v with reason := if b then v.reason ||| BitVec.ofNat 13 (2 ^ i) else v.reason &&& ~~~ BitVec.ofNat 13 (2 ^ i) }

/-- Any reason bit of a list. -/
def anyBit (v : Slot) (l : List Nat) : Bool := l.any (rbit v)

/-- FIRST of REF_STATn: the lowest bit set among bits [9:0], 0xF for none (R128, R158). -/
def firstOf (r : BitVec 13) : Nat := ((List.range 10).find? (fun i => bitOf r.toNat i)).getD 15
def firstBit (v : Slot) : Nat := firstOf v.reason

/-- The reason bits that reject, by class (Table 4-6). -/
def rejectBits (n : Nat) : List Nat := if n < 12 then [0, 1, 2, 3, 4, 5, 6, 7, 8] else [0, 1, 2, 3, 9]

def slotsIn (s : State) (l : List Nat) (st : BitVec 3) : List Nat := l.filter (fun n => (slot s n).state = st)

/-- A length or speed field (UFX exponent -16) of a slot. -/
def slLen (s : State) (n off : Nat) : Rat := ufxVal (w32 (sl s n off 4)) (-16)

/-- A limit field of a slot in its class's unit: metres for position, BAM32 units for heading (R126). -/
def slLim (s : State) (n off : Nat) : Rat := if isPos n then slLen s n off else ((sl s n off 4 : Nat) : Rat)

/-! ### State vector and covariance (R144). -/

def isAngle (i : Nat) : Bool := i == 2 || i == 16 || i == 17

def sexp (s : State) (i : Nat) : Int := if isAngle i then 0 else obS s (0x124 + i) 1

/-- Value of state i: SI units, BAM32 units for angles. -/
def xv (s : State) (i : Nat) : Rat := ((tget 0 s.obs.x i : Int) : Rat) * pow2 (sexp s i)

def pexp (s : State) (i j : Nat) : Int := sexp s i + sexp s j + obS s 0x136 1

/-- Value of covariance element (i, j). -/
def pv (s : State) (i j : Nat) : Rat := ((tget 0 s.obs.p (18 * i + j) : Int) : Rat) * pow2 (pexp s i j)

/-- A value as a state mantissa: angles wrap, others are NaN when they do not fit (R71). -/
def xMant (s : State) (i : Nat) (v : Rat) : Option Int :=
  let m := roundEven (v * pow2 (- sexp s i))
  if isAngle i then some (m % 4294967296) else if -(2 ^ 31 - 1) ≤ m ∧ m ≤ 2 ^ 31 - 1 then some m else none

def pMant (s : State) (i j : Nat) (v : Rat) : Option Int :=
  let m := roundEven (v * pow2 (- pexp s i j))
  if -(2 ^ 31 - 1) ≤ m ∧ m ≤ 2 ^ 31 - 1 then some m else none

def idx18 : List Nat := List.range 18

/-- The mantissa of a NaN state: an anchored or shifted value that does not fit its word (R71). Angles never take it. -/
def nanMant : Int := -2147483648

/-- The first state that is NaN. -/
def xNan (s : State) : Option Nat := idx18.find? (fun i => !isAngle i && tget 0 s.obs.x i == nanMant)

/-- P0DIAG mantissa (Table 4-8). -/
def p0 (s : State) (i : Nat) : Int := obS s (0x0DC + 4 * i) 4

/-- Reset rows and columns of the covariance to P0DIAG. -/
def resetRows (l : List Nat) (s : State) : State :=
  let p := l.foldl (fun p i => idx18.foldl (fun p j =>
    tset 0 (tset 0 p (18 * i + j) (if i = j then p0 s i else 0)) (18 * j + i) (if i = j then p0 s i else 0)) p) s.obs.p
  { s with obs := { s.obs with p := p } }

def setX (i : Nat) (m : Int) (s : State) : State := { s with obs := { s.obs with x := tset 0 s.obs.x i m } }

/-- The first pair of state and covariance: covariance P0DIAG, state 0 (R150 sets measured states at anchoring). -/
def obsStart (s : State) : State :=
  if s.obs.started then s else resetRows idx18 { s with obs := { s.obs with started := true } }

/-- BAM32 units of an angle in radians and back (R145: bam). -/
def bamRad (x : Rat) : Rat := x * 4294967296 / (2 * piQ)
def radBam (x : Rat) : Rat := x * (2 * piQ) / 4294967296

def psiTurns (w : Rat) : Rat := w / 4294967296

/-! ### Geometry (R120 to R122). -/

/-- Rotation from vessel axes to north and east. -/
def rot (psi : Rat) (x y : Rat) : Rat × Rat :=
  let c := cosTurns (psiTurns psi)
  let t := sinTurns (psiTurns psi)
  (c * x - t * y, t * x + c * y)

/-- RM, RN and cos of an origin latitude (R121). -/
def originGeom (lat : Word) : Rat × Rat × Rat :=
  let si := sinTurns (bamTurns lat)
  let d := 1 - wgsE2 * si * si
  (wgsA * (1 - wgsE2) / (d * sqrtQ d), wgsA / sqrtQ d, cosTurns (bamTurns lat))

/-- Geodetic position about the origin, in metres; none above 20,000 m (R121). -/
def geoToNE (s : State) (lat lon : Word) : Option (Rat × Rat) :=
  let g := originGeom s.obs.orgLat
  let n := g.1 * radBam (bamDiff lat s.obs.orgLat : Int)
  let e := g.2.1 * g.2.2 * radBam (bamDiff lon s.obs.orgLon : Int)
  if absQ n ≤ 20000 ∧ absQ e ≤ 20000 then some (n, e) else none

/-- The voted heading, roll and pitch (Table 4-8: VOTE_SIG). -/
def voteSig (s : State) : Nat := ob s 0x00C 4 % 2 ^ 17
def votedPsi (s : State) : Rat := ((sigW s (voteSig s)).toNat : Rat)

/-- Roll and pitch in turns for a slot, and whether they are in use (R123). -/
def lever (s : State) (n : Nat) : Rat × Rat × Bool :=
  let q1 := sigQ s (voteSig s + 1)
  let q2 := sigQ s (voteSig s + 2)
  let ok := bitOf (sl s n 1 1) 1 && (q1 == qGood || q1 == qSubst) && (q2 == qGood || q2 == qSubst)
  if ok then (bamTurns (sigW s (voteSig s + 1)), bamTurns (sigW s (voteSig s + 2)), true) else (0, 0, false)

/-- A product rounded at an exponent (R71). -/
def prodAt (e : Int) (x y : Rat) : Rat := (roundEven (x * y * pow2 (-e)) : Rat) * pow2 e

/-- The lever correction (dN, dE) of a slot (R122); KIND 4 and 5 use level axes. Every product is rounded at the exponent of the
corrected north or east signal, those of a and b at the finer of the two: the spec names no exponent (DESIGN CHOICE, log 10). -/
def leverNE (s : State) (n : Nat) : Rat × Rat :=
  let o := sl s n 8 4 % 2 ^ 17
  let eN := entExp (ent s (o + 4))
  let eE := entExp (ent s (o + 5))
  let f := prodAt (min eN eE)
  let x : Rat := ((slS s n 0x0C 2 : Int) : Rat) / 100
  let y : Rat := ((slS s n 0x0E 2 : Int) : Rat) / 100
  let z : Rat := ((slS s n 0x10 2 : Int) : Rat) / 100
  let k := slotKind s n
  let (phi, theta, _) := lever s n
  let ab : Rat × Rat :=
    if k = 4 ∨ k = 5 then (x, y)
    else
      (f x (cosTurns theta) + f (f y (sinTurns phi)) (sinTurns theta) + f (f z (cosTurns phi)) (sinTurns theta),
       f y (cosTurns phi) - f z (sinTurns phi))
  let c := cosTurns (psiTurns (votedPsi s))
  let t := sinTurns (psiTurns (votedPsi s))
  (prodAt eN ab.1 c - prodAt eN ab.2 t, prodAt eE ab.1 t + prodAt eE ab.2 c)

/-- Age of the time of write of a signal at the present tick, in ns; WTIME keeps seconds modulo 4 (Table 2-1). -/
def wtimeAge (s : State) (i : Nat) : Nat :=
  let w := (ent s i).wtime.toNat
  let t := (w / 2 ^ 30) * 1000000000 + w % 2 ^ 30
  (nowNs s % 4000000000 + 4000000000 - t % 4000000000) % 4000000000

/-- Number of inputs, and the offset of a status BOOL or a fix ENUM, of each KIND (Table 4-2). -/
def kindInputs (k : Nat) : Nat :=
  if k = 1 ∨ k = 2 then 4 else if k = 3 ∨ k = 4 then 5 else if k = 5 then 3 else if k = 6 then 2 else if k = 7 then 3
  else if k = 8 then 4 else if k = 9 then 3 else 0

/-- Offsets of the measured axes that the freeze test compares (R129). -/
def kindAxes (k : Nat) : List Nat :=
  if k = 4 then [0, 1, 2] else if k = 6 ∨ k = 7 then [0] else if k = 8 then [0, 1, 2] else if k = 0 then [] else [0, 1]

/-- Does the slot's status or fix input fail? (R128 bit 2) -/
def statusBad (s : State) (n : Nat) : Bool :=
  let k := slotKind s n
  let i := sl s n 4 4 % 2 ^ 17
  if k = 1 ∨ k = 2 then (sigW s (i + 3)).toNat < sl s n 2 1
  else if k = 7 then (sigW s (i + 2)).toNat < sl s n 2 1
  else if k = 5 ∨ k = 9 then sigW s (i + 2) == 0
  else if k = 6 then sigW s (i + 1) == 0
  else if k = 8 then sigW s (i + 3) == 0
  else false

/-- The measured point of a position slot brought to CO, before age compensation; none is NaN (R120, R122). -/
def measuredCO (s : State) (n : Nat) : Option (Rat × Rat) :=
  let k := slotKind s n
  let i := sl s n 4 4 % 2 ^ 17
  let psi := votedPsi s
  let pl : Option (Rat × Rat) :=
    if k = 1 ∨ k = 2 then geoToNE s (sigW s i) (sigW s (i + 1))
    else match sigNum s i, sigNum s (i + 1), sigNum s (i + 2) with
      | some a, some b, some c =>
        if k = 3 then match sigNum s (i + 3), sigNum s (i + 4) with
          | some tn, some te => some (tn + a, te + b)
          | _, _ => none
        else if k = 4 then match sigNum s (i + 3), sigNum s (i + 4) with
          | some wn, some we =>
            let r := rot psi (c * sinTurns (psiTurns a)) (c * sinTurns (psiTurns b))
            some (wn - r.1, we - r.2)
          | _, _ => none
        else
          let r := rot psi (a * cosTurns (psiTurns b)) (a * sinTurns (psiTurns b))
          some (-r.1, -r.2)
      | _, _, _ => none
  match pl with
  | none => none
  | some (pn, pe) =>
    let d := leverNE s n
    some (pn - d.1, pe - d.2)

/-- Reported sigma of a slot in its class's unit, when its descriptor uses one (R126 SIGMA_IN). -/
def reportedSigma (s : State) (n : Nat) : Option Rat :=
  let k := slotKind s n
  let i := sl s n 4 4 % 2 ^ 17
  if bitOf (sl s n 1 1) 0 then
    if k = 1 ∨ k = 2 ∨ k = 3 then sigNum s (i + 2)
    else if k = 7 then sigNum s (i + 1)
    else none
  else none

/-! ### Tests (R129 to R132). -/

/-- Sample variance with divisor n - 1 of one axis of a window (R130). -/
def sampleVar (l : List Rat) : Rat :=
  let n : Rat := (l.length : Rat)
  let m := sumQ l / n
  sumQ (l.map (fun x => (x - m) * (x - m))) / (n - 1)

def winFull (s : State) (n : Nat) (v : Slot) : Bool := sl s n 0x13 1 ≤ v.win.length

/-- The larger sample variance of the axes, once the window is full (R130). -/
def winVar (s : State) (n : Nat) (v : Slot) : Option Rat :=
  if winFull s n v then
    let a := sampleVar (v.win.map (·.1))
    let b := sampleVar (v.win.map (·.2))
    some (if a < b then b else a)
  else none

/-- The measurement variance of R138: the largest of reported, sampled and floor sigma, squared. -/
def slotVar (s : State) (n : Nat) (v : Slot) : Rat :=
  let f := slLim s n 0x20
  let a := f * f
  let a := match reportedSigma s n with
    | some r => if f < r then r * r else a
    | none => a
  match winVar s n v with
  | some w => if a < w then w else a
  | none => a

/-- The class status that governs a slot: position or heading (R147). -/
def classInit (s : State) (n : Nat) : Bool := if isPos n then s.obs.pstat == 0 else s.obs.hstat == 0

/-- Innovation of a slot against the prediction (R131): (north, east), or (heading difference, 0). -/
def innovation (s : State) (n : Nat) (v : Slot) : Rat × Rat :=
  if isPos n then (v.pN - (xv s 0 + xv s 13), v.pE - (xv s 1 + xv s 15))
  else ((bamDiff (i32 (roundEven v.pN)) (i32 (roundEven (xv s 2 + xv s 17))) : Int), 0)

/-- The test statistic d^2 of R131; a singular S leaves it open. -/
def mahal (s : State) (n : Nat) (var : Rat) (nu : Rat × Rat) : Rat :=
  let h (j w k l : Nat) : Rat := pv s j k + pv s j l + pv s w k + pv s w l
  if isPos n then
    let a := h 0 13 0 13 + var
    let b := h 0 13 1 15
    let c := h 1 15 0 13
    let d := h 1 15 1 15 + var
    let det := a * d - b * c
    if det = 0 then Config.openQ 1 [nu.1, nu.2]
    else (nu.1 * (d * nu.1 - b * nu.2) + nu.2 * (a * nu.2 - c * nu.1)) / det
  else
    let a := h 2 17 2 17 + var
    if a = 0 then Config.openQ 1 [nu.1] else nu.1 * nu.1 / a

/-- The freeze test on a new update (R129): SFX and UFX axes against FRZ_EPS in the class's length unit, each word read by its
type, BAM32 axes in BAM32 units. -/
def frozen (s : State) (n : Nat) (old : List Word) : Bool :=
  let i := sl s n 4 4 % 2 ^ 17
  let ax := kindAxes (slotKind s n)
  old.length = ax.length && (ax.zip old).all (fun p =>
    let e := ent s (i + p.1)
    if entType e = 3 then decide ((bamDiff e.value p.2).natAbs ≤ sl s n 0x14 4)
    else
      let val (w : Word) : Rat := if entType e = 2 then ufxVal w (entExp e) else sfxVal w (entExp e)
      decide (absQ (val e.value - val p.2) ≤ slLen s n 0x14))

def rawWords (s : State) (n : Nat) : List Word :=
  (kindAxes (slotKind s n)).map (fun o => sigW s (sl s n 4 4 % 2 ^ 17 + o))

/-! ### Slot state changes (R135 to R137). -/

/-- Status group of a slot (Table 4-13): state and reason word, and for position and heading slots weight, corrected value, d^2
and sigma. -/
def writeSlot (n l : Nat) (s : State) : State :=
  let v := slot s n
  let o := sl s n 8 4 % 2 ^ 17
  let t := opTime s l
  let s := writeSig o (v.state.setWidth 32) qGood t s
  let s := writeSig (o + 1) (v.reason.setWidth 32) qGood t s
  if isPos n then
    let s := writeNum (o + 3) (some v.weight) qGood t s
    let s := writeNum (o + 4) (if rbit v 1 then none else some v.pN) qGood t s
    let s := writeNum (o + 5) (if rbit v 1 then none else some v.pE) qGood t s
    let s := writeNum (o + 6) (some v.d2) qGood t s
    writeNum (o + 7) (some (sqrtQ v.var)) qGood t s
  else if isHdg n then
    let s := writeNum (o + 3) (some v.weight) qGood t s
    let s := writeNum (o + 4) (if rbit v 1 then none else some v.pN) qGood t s
    let s := writeNum (o + 5) (some v.d2) qGood t s
    writeNum (o + 6) (some (sqrtQ v.var)) qGood t s
  else s

/-- Reject a slot (R137): REF_REJECT with the reason word and the test statistic. -/
def rejectSlot (n : Nat) (stat : Rat) (s : State) : State :=
  let s := modSlot n (fun v => { v with state := 3, clean := 0 }) s
  raise 0x0400 (w32 n) ((slot s n).reason.setWidth 32) (Config.reportWord stat) s

/-- Readmit a slot whose clean cycles have reached READMIT (R136). -/
def readmitSlot (n : Nat) (s : State) : State :=
  let v := slot s n
  raise 0x0401 (w32 n) (v.clean.setWidth 32) (Config.reportWord v.weight) (setSlot n { v with state := 2 } s)

/-- The statistic a rejection reports: d^2, sigma, |delta| or distance by the first bit set. -/
def rejectStat (s : State) (n : Nat) : Rat :=
  let v := slot s n
  let f := firstBit v
  if f = 4 then sqrtQ ((winVar s n v).getD 0)
  else if f = 6 then sqrtQ (v.dN * v.dN + v.dE * v.dE)
  else v.d2

/-- Count a clean or an unclean pack cycle, in every state of the slot, and readmit a CANDIDATE or REJECTED one (R136). -/
def countClean (n : Nat) (ok : Bool) (s : State) : State :=
  let v := slot s n
  let c := if ok then (if v.clean = 0xFFFFFF#24 then v.clean else v.clean + 1) else 0
  let s := setSlot n { v with clean := c } s
  if ok && (v.state == 1 || v.state == 3) && decide (sl s n 0x34 4 ≤ c.toNat) then readmitSlot n s else s

/-- The slot registers take what the last operation of the slots' cycle left (R158). -/
def showSlots (l : List Nat) (s : State) : State :=
  l.foldl (fun s n => modSlot n (fun v => { v with rReason := v.reason, rState := v.state, rClean := v.clean }) s) s

/-- Selection and frame move a slot before any test (R135, R137 items 1 and 2); OFF becomes CANDIDATE at the first REF_IN. -/
def selectSlot (n : Nat) (s : State) : State :=
  let v := slot s n
  let o := sl s n 8 4 % 2 ^ 17
  let off := entQual (ent s (o + 2)) != qStale && sigW s (o + 2) == 0
  let k := slotKind s n
  let other := isPos n && ((k == 5) != s.obs.frame)
  let v1 := setRbit 11 off (setRbit 12 other v)
  let st : BitVec 3 :=
    if off then 4 else if other then 5
    else if v.state = 0 ∨ v.state = 4 ∨ v.state = 5 then 1 else v.state
  let v1 := { v1 with state := st, clean := if st != v.state && (st == 1 || st == 4 || st == 5) then 0 else v1.clean, selOff := off }
  let s := setSlot n v1 s
  if off != v.selOff then raise 0x0402 (w32 n) (w32 (b2n (!off))) (st.setWidth 32) s else s

/-! ### Prediction and update (R145, R146). -/

/-- Read an exact matrix field of nine SFX words. -/
def mat9 (s : State) (off : Nat) (e : Int) (i j : Nat) : Rat := sfxVal (w32 (ob s (off + 4 * (3 * i + j)) 4)) e

def vec3 (s : State) (off i : Nat) (e : Int) : Rat := sfxVal (w32 (ob s (off + 4 * i) 4)) e

def sum3 (f : Nat → Rat) : Rat := f 0 + f 1 + f 2

def sum18 (f : Nat → Rat) : Rat := sumQ (idx18.map f)

/-- Is the bias of DOF d held in dead reckoning? (R149) -/
def biasHeld (s : State) (d : Nat) : Bool :=
  if d < 2 then s.obs.pstat == 2 || s.obs.pstat == 3 else s.obs.hstat == 2 || s.obs.hstat == 3

/-- DT in seconds (Table 4-8). -/
def obsDt (s : State) : Rat := ufxVal (w32 (ob s 0x090 4)) (-32)

/-- Wind feedforward of the last WIND; 0 unless GOOD or SUBST (R145). -/
def windFf (s : State) (d : Nat) : Rat :=
  let i := ob s 0x014 4 % 2 ^ 17 + d
  let q := sigQ s i
  if q = qGood ∨ q = qSubst then (sigNum s i).getD 0 else 0

/-- The state one pack cycle on (R145), all right-hand sides at the start of the step. -/
def predX (s : State) (i : Nat) : Rat :=
  let dt := obsDt s
  let c := cosTurns (psiTurns (xv s 2))
  let t := sinTurns (psiTurns (xv s 2))
  let u := xv s 3
  let v := xv s 4
  let r := xv s 5
  let me := obS s 0x137 1
  let de := obS s 0x138 1
  let vel (j : Nat) : Rat := if j = 0 then u else if j = 1 then v else r
  let bb (j : Nat) : Rat := if j = 0 then c * xv s 6 + t * xv s 7 else if j = 1 then -t * xv s 6 + c * xv s 7 else xv s 8
  let force (j : Nat) : Rat := xv s (9 + j) + bb j + windFf s j - sum3 (fun k => mat9 s 0x03C de j k * vel k)
  let acc (d : Nat) : Rat := sum3 (fun j => mat9 s 0x018 me d j * force j)
  if i = 0 then xv s 0 + dt * (c * u - t * v)
  else if i = 1 then xv s 1 + dt * (t * u + c * v)
  else if i = 2 then xv s 2 + ((roundEven (bamRad (dt * r)) : Int) : Rat)
  else if i < 6 then vel (i - 3) + dt * acc (i - 3)
  else if i < 9 then (if biasHeld s (i - 6) then xv s i else vec3 s 0x060 (i - 6) (-30) * xv s i)
  else if i < 12 then
    match sigNum s (ob s 0x004 4 % 2 ^ 17 + (i - 9)) with
    | some tau => xv s i + vec3 s 0x06C (i - 9) (-30) * (tau - xv s i)
    | none => xv s i
  else
    let d := (i - 12) / 2
    let w (k : Nat) : Rat := if isAngle k then (((i32 (tget 0 s.obs.x k)).toInt : Int) : Rat) else xv s k
    if (i - 12) % 2 = 0 then w i + dt * w (i + 1)
    else vec3 s 0x078 d (-30) * w (i - 1) + vec3 s 0x084 d (-30) * w i

/-- The Jacobian of the prediction at the present state, angles in BAM32 units (R145). -/
def predF (s : State) (i j : Nat) : Rat :=
  let dt := obsDt s
  let c := cosTurns (psiTurns (xv s 2))
  let t := sinTurns (psiTurns (xv s 2))
  let u := xv s 3
  let v := xv s 4
  let me := obS s 0x137 1
  let de := obS s 0x138 1
  let dpsi := radBam 1
  let id : Rat := if i = j then 1 else 0
  if i = 0 then (if j = 2 then dt * (-t * u - c * v) * dpsi else if j = 3 then dt * c else if j = 4 then -dt * t else id)
  else if i = 1 then (if j = 2 then dt * (c * u - t * v) * dpsi else if j = 3 then dt * t else if j = 4 then dt * c else id)
  else if i = 2 then (if j = 5 then bamRad dt else id)
  else if i < 6 then
    let d := i - 3
    let mi (k : Nat) : Rat := mat9 s 0x018 me d k
    if j = 2 then dt * dpsi * (mi 0 * (-t * xv s 6 + c * xv s 7) + mi 1 * (-c * xv s 6 - t * xv s 7))
    else if 3 ≤ j ∧ j < 6 then id - dt * sum3 (fun k => mi k * mat9 s 0x03C de k (j - 3))
    else if j = 6 then dt * (mi 0 * c - mi 1 * t)
    else if j = 7 then dt * (mi 0 * t + mi 1 * c)
    else if j = 8 then dt * mi 2
    else if 9 ≤ j ∧ j < 12 then dt * mi (j - 9)
    else 0
  else if i < 9 then (if i = j then (if biasHeld s (i - 6) then 1 else vec3 s 0x060 (i - 6) (-30)) else 0)
  else if i < 12 then
    (if i = j then (match sigNum s (ob s 0x004 4 % 2 ^ 17 + (i - 9)) with
      | some _ => 1 - vec3 s 0x06C (i - 9) (-30)
      | none => 1) else 0)
  else
    let d := (i - 12) / 2
    if (i - 12) % 2 = 0 then (if j = i then 1 else if j = i + 1 then dt else 0)
    else if j + 1 = i then vec3 s 0x078 d (-30) else if j = i then vec3 s 0x084 d (-30) else 0

/-- QDIAG entry in use: 0 for a held bias (R149). -/
def qdiag (s : State) (i : Nat) : Rat :=
  if 6 ≤ i ∧ i < 9 ∧ biasHeld s (i - 6) then 0 else ((obS s (0x094 + 4 * i) 4 : Int) : Rat) * pow2 (pexp s i i)

/-- The covariance one pack cycle on (R145): F P F' + Q, symmetrised, with the diagonal floored at P_FLOOR. -/
def predP (s : State) (i j : Nat) : Rat :=
  let fpf (a b : Nat) : Rat := sum18 (fun k => sum18 (fun l => predF s a k * pv s k l * predF s b l))
  let q : Rat := if i = j then qdiag s i else 0
  let m := (fpf i j + fpf j i) / 2 + q
  if i = j then (let f := ((ob s 0x148 4 : Nat) : Rat) * pow2 (pexp s i i); if m < f then f else m) else m

/-- Put a new state and covariance in place; the first index whose element is NaN, or whose variance is not positive, is the
offence of R153. -/
def storeXP (fx : Nat → Rat) (fp : Nat → Nat → Rat) (s : State) : Except Nat State :=
  let xs := idx18.map (fun i => xMant s i (fx i))
  let ps := idx18.map (fun i => idx18.map (fun j => pMant s i j (fp i j)))
  let bad := idx18.find? (fun i => (xs.getD i none).isNone || (ps.getD i []).any (·.isNone) || (match (ps.getD i []).getD i none with | some m => decide (m ≤ 0) | none => true))
  match bad with
  | some i => .error i
  | none => .ok { s with obs := { s.obs with
      x := idx18.foldl (fun t i => tset 0 t i ((xs.getD i none).getD 0)) s.obs.x
      p := idx18.foldl (fun t i => idx18.foldl (fun t j => tset 0 t (18 * i + j) (((ps.getD i []).getD j none).getD 0)) t) s.obs.p } }

/-- Restore the checkpoint, inflate P by CHK_INFL, propagate once, and mark the cycle (R153). -/
def restoreCheckpoint (opc slotNo bad : Nat) (s : State) : State :=
  let infl := ufxVal (w32 (ob s 0x14C 4)) (-8)
  let s := { s with obs := { s.obs with x := s.obs.chkX, p := s.obs.chkP, nanNow := true, restCnt := if s.obs.restCnt = 0xFFFF#16 then s.obs.restCnt else s.obs.restCnt + 1 } }
  let s := match storeXP (xv s) (fun i j => infl * pv s i j) s with
    | .ok t => t
    | .error _ => s
  let s := match storeXP (predX s) (predP s) s with
    | .ok t => t
    | .error _ => s
  raise 0x0408 (w32 (opc * 256 + slotNo)) (w32 bad) (s.obs.restCnt.setWidth 32) s

/-- One scalar update of the filter (R146); none when it leaves a NaN or a variance that is not positive. -/
def scalarUpdate (j w : Nat) (y var : Rat) (s : State) : Except Nat State :=
  let sv := pv s j j + 2 * pv s j w + pv s w w + var
  if sv = 0 then .error j
  else
    let k (i : Nat) : Rat := (pv s i j + pv s i w) / sv
    storeXP (fun i => xv s i + k i * y) (fun a b => pv s a b - k a * (pv s j b + pv s w b)) s

/-! ### Voting, weights, anchoring (R133 to R151). -/

/-- Distance squared of a slot from a point; headings as two's complement differences. -/
def dist2 (n : Nat) (v : Slot) (c : Rat × Rat) : Rat :=
  if isPos n then (v.pN - c.1) * (v.pN - c.1) + (v.pE - c.2) * (v.pE - c.2)
  else
    let d : Int := bamDiff (i32 (roundEven v.pN)) (i32 (roundEven c.1))
    ((d * d : Int) : Rat)

/-- Median of a set of slots, by axis; headings relative to the first slot of the set (R133, R140). -/
def slotMedian (s : State) (l : List Nat) : Rat × Rat :=
  match l with
  | [] => (0, 0)
  | n :: _ =>
    if isPos n then ((medianQ (l.map (fun m => (slot s m).pN))).getD 0, (medianQ (l.map (fun m => (slot s m).pE))).getD 0)
    else
      let b := i32 (roundEven (slot s n).pN)
      let d := l.map (fun m => ((bamDiff (i32 (roundEven (slot s m).pN)) b : Int) : Rat))
      ((b.toNat : Rat) + (medianQ d).getD 0, 0)

/-- The set S of R133 over the slots of a class. -/
def setS (s : State) (l : List Nat) : List Nat :=
  l.filter (fun n =>
    let v := slot s n
    !rbit v 11 && !rbit v 12 && !anyBit v [0, 1, 2, 3, 4, 5, 6] && v.state != 0)

/-- Median test of a class (R133): count failures, set MEDIAN, and name the one ACCEPTED slot to reject. -/
def medianTest (l : List Nat) (s : State) : State :=
  let c := slotMedian s l
  let s := l.foldl (fun s n =>
    let v := slot s n
    let lim := slLim s n 0x30
    let bad := decide (lim * lim < dist2 n v c)
    let run := if bad then v.medRun + 1 else 0
    setSlot n (setRbit 7 (decide (sl s n 0x2A 2 ≤ run) && bad) { v with medRun := run, failed := v.failed || bad }) s) s
  let cand := slotsIn s (l.filter (fun n => rbit (slot s n) 7)) 2
  let worst := cand.foldl (fun (a : Option Nat) n => match a with
    | none => some n
    | some m => if dist2 m (slot s m) c ≤ dist2 n (slot s n) c then some n else some m) none
  match worst with
  | none => s
  | some n => rejectSlot n (sqrtQ (dist2 n (slot s n) c)) s

/-- Pair test with exactly two slots, run cycles of this pair's disagreement before (R134): PAIR stands in the blamed slot alone. -/
def pairTest (a b : Nat) (run : Nat) (s : State) : State × Nat :=
  let va := slot s a
  let vb := slot s b
  let d := dist2 a va (vb.pN, vb.pE)
  let la := slLim s a 0x30
  let lb := slLim s b 0x30
  let lim := if la < lb then la else lb
  let s0 := setSlot b (setRbit 8 false vb) (setSlot a (setRbit 8 false va) s)
  if d ≤ lim * lim then (s0, 0)
  else
    let s := modSlot b (fun v => { v with failed := true }) (modSlot a (fun v => { v with failed := true }) s0)
    let run := run + 1
    if run < max (sl s a 0x2A 2) (sl s b 0x2A 2) then (s, run)
    else
      let dl (v : Slot) : Rat := v.dN * v.dN + v.dE * v.dE
      let n := if dl vb < dl va then a else b
      let first := !(rbit (if n = a then va else vb) 8)
      let s := modSlot n (setRbit 8 true) s
      let s := if first then raise 0x0403 (w32 a) (w32 b) (Config.reportWord (sqrtQ d)) s else s
      ((if (slot s n).state = 2 then rejectSlot n (sqrtQ d) s else s), run)

/-- Clear MEDIAN with its count in the slots of a class outside m, and PAIR in those outside p. -/
def clearTests (m p l : List Nat) (s : State) : State :=
  l.foldl (fun s n => modSlot n (fun v =>
    let v := if m.contains n then v else setRbit 7 false { v with medRun := 0 }
    if p.contains n then v else setRbit 8 false v) s) s

/-- Median or pair test of a class by the size of S, in every pack cycle (R128, R133, R134): a bit whose test does not apply to a
slot in this cycle is clear. The answer holds the pair's count of disagreement and the pair it is of. -/
def classTests (l : List Nat) (run : Nat) (was : List Nat) (s : State) : State × Nat × List Nat :=
  match setS s l with
  | [a, b] =>
    let r := pairTest a b (if was = [a, b] then run else 0) (clearTests [] [a, b] l s)
    (r.1, r.2, [a, b])
  | t => if t.length < 2 then (clearTests [] [] l s, 0, []) else (medianTest t (clearTests t [] l s), 0, [])

/-- After the comparison tests, a slot that failed one has had an unclean cycle (R136). -/
def uncleanFailed (l : List Nat) (s : State) : State :=
  l.foldl (fun s n => modSlot n (fun v => if v.failed then { v with clean := 0 } else v) s) s

/-- Weights of the ACCEPTED slots of a class, with the cap of R139. -/
def weigh (l : List Nat) (s : State) : State :=
  let acc := slotsIn s l 2
  let s := acc.foldl (fun s n => modSlot n (fun v => { v with var := slotVar s n v }) s) s
  let setW (s : State) : State :=
    let tot := sumQ (acc.map (fun n => 1 / (slot s n).var))
    acc.foldl (fun s n => modSlot n (fun v => { v with weight := 1 / v.var / tot }) s) s
  let s := setW s
  if acc.length < 2 then s
  else
    let s := acc.foldl (fun s n =>
      let v := slot s n
      let c : Rat := ((sl s n 3 1 : Nat) : Rat) / 256
      if sl s n 3 1 != 0 && decide (c < v.weight) then setSlot n { v with var := v.var * (v.weight * (1 - c) / (c * (1 - v.weight))) } s else s) s
    setW s

/-- Clear the variance windows and the filtered innovations of a class's slots, and DIVERGENCE with them (R130, R132). -/
def clearHistory (l : List Nat) (s : State) : State :=
  l.foldl (fun s n => modSlot n (fun v => setRbit 6 false { v with win := [], dN := 0, dE := 0 }) s) s

/-- Anchor a class to a set of slots (R150): weighted mean, wave states and covariance rows reset, the histories of the whole
class cleared, the slots ACCEPTED, status TRACK; a dead reckoning that ends so records OBS_DR_EXIT (R149). -/
def anchor (hdg : Bool) (why : Nat) (l : List Nat) (s : State) : State :=
  let st := if hdg then s.obs.hstat else s.obs.pstat
  let s := if st = 2 ∨ st = 3 then raise 0x0405 (w32 (b2n hdg)) (if hdg then s.obs.hdrCyc else s.obs.drCyc) (w32 (l.headD 0)) s else s
  let s := l.foldl (fun s n => modSlot n (fun v => { v with var := slotVar s n v }) s) s
  let tot := sumQ (l.map (fun n => 1 / (slot s n).var))
  let b := (l.head?).map (fun n => (slot s n).pN)
  let mean (f : Slot → Rat) : Rat := sumQ (l.map (fun n => f (slot s n) / (slot s n).var)) / tot
  let base := i32 (roundEven (b.getD 0))
  let s :=
    if hdg then
      let m := (base.toNat : Rat) + mean (fun v => ((bamDiff (i32 (roundEven v.pN)) base : Int) : Rat))
      setX 2 ((xMant s 2 m).getD nanMant) (setX 16 0 (setX 17 0 s))
    else
      let s0 := setX 0 ((xMant s 0 (mean (·.pN))).getD nanMant) (setX 1 ((xMant s 1 (mean (·.pE))).getD nanMant) s)
      setX 12 0 (setX 13 0 (setX 14 0 (setX 15 0 s0)))
  let s := resetRows (if hdg then [2, 16, 17] else [0, 1, 12, 13, 14, 15]) s
  let s := clearHistory (if hdg then hdgSlots s else posSlots s) s
  let s := l.foldl (fun s n => modSlot n (fun v => { v with state := 2 }) s) s
  let s := if hdg then { s with obs := { s.obs with hstat := 1, initH := 0, setH := [] } }
    else { s with obs := { s.obs with pstat := 1, initP := 0, setP := [] } }
  let p1 := if hdg then i32 (tget 0 s.obs.x 2) else i32 (tget 0 s.obs.x 0)
  let p2 : Word := if hdg then 0 else i32 (tget 0 s.obs.x 1)
  raise 0x0407 (w32 (b2n hdg * 256 + why)) p1 p2 s

/-- The eligible set of R150 among the slots of a class; two that disagree under R134 form none. -/
def eligible (s : State) (l : List Nat) : List Nat :=
  let c := l.filter (fun n =>
    let v := slot s n
    (v.state = 1 || v.state = 3) && !anyBit v [0, 1, 2, 3, 4])
  if c.length < 2 then c
  else
    let m := slotMedian s c
    let lim (n : Nat) : Rat := slLim s n 0x30 * slLim s n 0x30
    match c with
    | [a, b] => if dist2 a (slot s a) ((slot s b).pN, (slot s b).pE) ≤ (if lim a < lim b then lim a else lim b) then c else []
    | _ => c.filter (fun n => decide (dist2 n (slot s n) m ≤ lim n))

/-- Anchoring of a class that is in INIT or in dead reckoning (R150, R151): the same eligible set, not empty, for INIT_T cycles;
in TRACK no cycle counts. -/
def initTrack (hdg : Bool) (l : List Nat) (s : State) : State :=
  let put (e : List Nat) (n : Nat) : State :=
    if hdg then { s with obs := { s.obs with setH := e, initH := n } } else { s with obs := { s.obs with setP := e, initP := n } }
  let st := if hdg then s.obs.hstat else s.obs.pstat
  if st = 0 ∨ st = 2 ∨ st = 3 then
    let e := eligible s l
    let e := if st = 0 then e else if e.length < 2 then [] else e
    let old := if hdg then s.obs.setH else s.obs.setP
    let n := if hdg then s.obs.initH else s.obs.initP
    let n := if e = [] then 0 else if e = old then n + 1 else 1
    if e != [] && decide (ob s 0x144 4 ≤ n) then anchor hdg (if st = 0 then 0 else 1) e (put e n) else put e n
  else put [] 0

/-- Dead reckoning, its end, and anchoring of a class (R149 to R152), run by REF_VOTE and HDG_VOTE. A REANCHOR acts in the first
pack cycle that begins at or after its frame boundary. -/
def classTrack (hdg : Bool) (l : List Nat) (s : State) : State :=
  let st := if hdg then s.obs.hstat else s.obs.pstat
  let acc := slotsIn s l 2
  let cyc := if hdg then s.obs.hdrCyc else s.obs.drCyc
  let setSt (v : BitVec 3) (c : Word) (s : State) : State :=
    if hdg then { s with obs := { s.obs with hstat := v, hdrCyc := c } } else { s with obs := { s.obs with pstat := v, drCyc := c } }
  let inc (c : Word) : Word := if c = 0xFFFFFFFF#32 then c else c + 1
  let s :=
    if acc = [] then
      if st = 1 then raise 0x0404 (w32 (b2n hdg)) (w32 (s.seq.k % s.hdr.m)) 0 (setSt 2 1 s)
      else if st = 2 ∨ st = 3 then setSt st (inc cyc) s
      else s
    else if st = 2 ∨ st = 3 then raise 0x0405 (w32 (b2n hdg)) cyc (w32 (acc.headD 0)) (setSt 1 cyc s)
    else s
  let start := s.seq.k - s.seq.k % s.hdr.p
  let due := s.obs.reanch.filter (fun r => decide (r.2.1 ≤ start) && (if hdg then isHdg r.1 else isPos r.1))
  if due = [] then initTrack hdg l s
  else
    due.foldl (fun s r =>
      let v := slot s r.1
      if (v.state = 1 || v.state = 3) && !anyBit v [0, 1, 2, 3, 4] then completeMbx r.2.2 rcDone (anchor hdg 2 [r.1] s)
      else completeMbx r.2.2 rcState s)
      { s with obs := { s.obs with reanch := s.obs.reanch.filter (fun r => !due.contains r) } }

end Sys2Proof.Machine
end

