-- ==== Sys2Proof/Machine/Vmu.lean ====
section
/-! DEFINITION. Sys2Proof/Machine/Vmu.lean: the operations of the vector-matrix unit, engine 0x03 (Table 4-11), the observer's
timed events and the REANCHOR command. -/

namespace Sys2Proof.Machine

/-! ### General matrix operations (R155). -/

/-- A matrix descriptor: A, B, C and the shape m, n, k with its flags. -/
structure MatDesc where
  a : Nat
  b : Nat
  c : Nat
  m : Nat
  n : Nat
  k : Nat
  acc : Bool
  trA : Bool

def matDesc (s : State) (d : Nat) : MatDesc :=
  let o := vm s 0x10 4 + 16 * d
  { a := vm s o 4 % 2 ^ 17, b := vm s (o + 4) 4 % 2 ^ 17, c := vm s (o + 8) 4 % 2 ^ 17, m := vm s (o + 12) 1, n := vm s (o + 13) 1,
    k := vm s (o + 14) 1, acc := bitOf (vm s (o + 15) 1) 0, trA := bitOf (vm s (o + 15) 1) 1 }

/-- A descriptor operand beyond MAT_CNT is outside the table region (R55). -/
def matBound (s : State) (d : Nat) : Bool := d < vm s 0x14 2

/-- Exact sum of optional terms: any NaN makes it NaN (R71). -/
def sumOpt (l : List (Option Rat)) : Option Rat :=
  l.foldl (fun a x => match a, x with
    | some p, some q => some (p + q)
    | _, _ => none) (some 0)

def mulOpt (a b : Option Rat) : Option Rat :=
  match a, b with
  | some p, some q => some (p * q)
  | _, _ => none

/-- Element (i, j) of A of a product, transposed when TRANS_A is set. -/
def matA (d : MatDesc) (i l : Nat) : Nat := if d.trA then d.a + l * d.m + i else d.a + i * d.n + l

/-- MMUL: C := A B, or C + A B (Table 4-11). Every element is formed from the operands as they stand at the issue. -/
def mmulEffect (o : Nat) (s : State) : State :=
  let d := matDesc s o
  let t := opTime s (12 + (d.m * d.n * d.k + 127) / 128 + (d.m * d.k + 3) / 4)
  (List.range (d.m * d.k)).foldl (fun u e =>
    let i := e / d.k
    let j := e % d.k
    let prods := (List.range d.n).map (fun l => mulOpt (sigNum s (matA d i l)) (sigNum s (d.b + l * d.k + j)))
    let ins := (List.range d.n).flatMap (fun l => [matA d i l, d.b + l * d.k + j])
    let v := sumOpt (if d.acc then sigNum s (d.c + e) :: prods else prods)
    let q := sigsQual s (if d.acc then (d.c + e) :: ins else ins)
    writeNum (d.c + e) v q t u) s

def execMmul (d : BitVec 10) (s : State) : Res :=
  issue 3 0 (opWord 3 1 d.toNat) (fun s => if matBound s d.toNat then mmulEffect d.toNat s else breach 0x0107 (opWord 3 1 d.toNat) s) s

/-- MADD: C := A + B (Table 4-11). -/
def maddEffect (o : Nat) (s : State) : State :=
  let d := matDesc s o
  let t := opTime s (8 + (d.m * d.k + 3) / 4)
  (List.range (d.m * d.k)).foldl (fun u e =>
    let i := if d.trA then d.a + (e % d.k) * d.m + e / d.k else d.a + e
    writeNum (d.c + e) (sumOpt [sigNum s i, sigNum s (d.b + e)]) (sigsQual s [i, d.b + e]) t u) s

def execMadd (d : BitVec 10) (s : State) : Res :=
  issue 3 0 (opWord 3 2 d.toNat) (fun s => if matBound s d.toNat then maddEffect d.toNat s else breach 0x0107 (opWord 3 2 d.toNat) s) s

/-! ### REF_IN (R119 to R128). -/

/-- Bits 0 to 2 of a slot, its corrected measurement, and LEVER_NOMRU. -/
def refInBits (n : Nat) (s : State) : State :=
  let i := sl s n 4 4 % 2 ^ 17
  let k := slotKind s n
  let age := wtimeAge s i + sl s n 0x38 4
  let stale := entQual (ent s i) == qStale || decide (2000000000 < age)
  let nanIn := (List.range (kindInputs k)).any (fun o => sigNan s (i + o))
  let v := slot s n
  let v := setRbit 0 stale (setRbit 2 (statusBad s n) v)
  let v :=
    if isPos n then
      let nomru := !(lever s n).2.2
      match (if nanIn then none else measuredCO s n) with
      | none => setRbit 10 nomru (setRbit 1 true v)
      | some (pn, pe) =>
        let d := rot (votedPsi s) (xv s 3) (xv s 4)
        let a : Rat := (age : Rat) / 1000000000
        setRbit 10 nomru (setRbit 1 false { v with pN := pn + d.1 * a, pE := pe + d.2 * a })
    else if isHdg n then setRbit 1 nanIn { v with pN := ((sigW s i).toNat : Rat) }
    else setRbit 1 nanIn v
  setSlot n { v with failed := false } s

/-- Bits 3 and 9 of a motion or wind slot on a new update (R128). -/
def refInAux (n : Nat) (s : State) : State :=
  let i := sl s n 4 4 % 2 ^ 17
  let v := slot s n
  let w := entWcnt (ent s i)
  if w != v.seen && !anyBit v [0, 1, 2] then
    let frz := if frozen s n v.raw then v.frz + 1 else 0
    let out := if n < 15 then
        decide (sl s n 0x18 4 < (sigW s i).toInt.natAbs) || decide (sl s n 0x18 4 < (sigW s (i + 1)).toInt.natAbs)
      else (match sigNum s i with
        | some x => decide (slLen s n 0x18 < x)
        | none => false)
    setSlot n (setRbit 9 out (setRbit 3 (decide (sl s n 0x12 1 ≤ frz)) { v with seen := w, raw := rawWords s n, frz := frz })) s
  else setSlot n { v with seen := w } s

def refInEffect (n : Nat) (s : State) : State :=
  let s := refInBits n (selectSlot n (obsStart s))
  let s :=
    if n < 12 then
      let v := slot s n
      if v.state = 2 && anyBit v [0, 1, 2] then rejectSlot n v.d2 s else s
    else
      let s := refInAux n s
      let v := slot s n
      if v.state = 2 && anyBit v (rejectBits n) then rejectSlot n 0 s
      else countClean n (!anyBit v [0, 1, 2, 3, 9]) s
  writeSlot n 40 (if n < 12 then s else showSlots [n] s)

/-- An operand that names an unused slot is outside the table region (R55, R154). -/
def execRefIn (slot : BitVec 5) (s : State) : Res :=
  issue 3 0 (opWord 3 0x0A slot.toNat) (fun s =>
    if slot.toNat < 17 && slotKind s slot.toNat != 0 then refInEffect slot.toNat s else breach 0x0107 (opWord 3 0x0A slot.toNat) s) s

/-! ### REF_TEST (R129 to R132, R136). -/

/-- The tests of bits 3 to 6 on a new update with bits 0 to 2 clear; VARIANCE is not evaluated until the window is full (R130). -/
def refTestUpdate (n : Nat) (s : State) : State :=
  let v := slot s n
  let frz := if frozen s n v.raw then v.frz + 1 else 0
  let v := setRbit 3 (decide (sl s n 0x12 1 ≤ frz)) { v with raw := rawWords s n, frz := frz }
  let nu := innovation s n v
  let init := classInit s n
  let sample : Rat × Rat := if init && isPos n then (v.pN, v.pE) else nu
  let v := { v with win := (sample :: v.win).take (sl s n 0x13 1) }
  let wv := winVar s n v
  let vmax := slLim s n 0x18
  let sigBad := match reportedSigma s n with
    | some r => decide (slLim s n 0x1C < r)
    | none => false
  let v := match wv with
    | some x => setRbit 4 (decide (vmax * vmax < x) || sigBad) v
    | none => v
  if init then { s with obs := { s.obs with slots := tset {} s.obs.slots n { v with gateOk := false, failed := anyBit v [3, 4] } } }
  else
    let d2 := mahal s n (slotVar s n v) nu
    let ok := decide (d2 ≤ ufxVal (w32 (sl s n 0x24 4)) (-8))
    let fails := if ok then 0 else v.innFail + 1
    let v := setRbit 5 (!ok && decide (sl s n 0x28 1 ≤ fails)) { v with d2 := d2, gateOk := ok, innFail := fails }
    let sh := pow2 (-((sl s n 0x29 1 : Nat) : Int))
    let dn := v.dN + (nu.1 - v.dN) * sh
    let de := v.dE + (nu.2 - v.dE) * sh
    let dm := slLim s n 0x2C
    let v := setRbit 6 (decide (dm * dm < dn * dn + de * de)) { v with dN := dn, dE := de }
    setSlot n { v with failed := !ok || anyBit v [3, 4, 5, 6] } s

/-- REF_TEST: the tests of a new update, the rejection they bring, the clean-cycle count. A slot is rejected when a bit is
evaluated as set: a bit that an anchoring left standing rejects only at its next evaluation (DEDUCED, log 143). -/
def refTestEffect (n : Nat) (s : State) : State :=
  let i := sl s n 4 4 % 2 ^ 17
  let v := slot s n
  let w := entWcnt (ent s i)
  let fresh := w != v.seen
  let s := setSlot n { v with fresh := fresh, seen := w } s
  let tested := fresh && !anyBit v [0, 1, 2]
  let s := if tested then refTestUpdate n s else s
  let v := slot s n
  let s :=
    if v.state = 2 && tested && anyBit v [3, 4, 5, 6] then rejectSlot n (rejectStat s n) s
    else countClean n (!anyBit v [0, 1, 2] && !v.failed && winFull s n v) s
  writeSlot n 56 s

/-- REF_TEST serves position and heading slots only (R156). -/
def execRefTest (slot : BitVec 5) (s : State) : Res :=
  issue 3 0 (opWord 3 0x0B slot.toNat) (fun s =>
    if slot.toNat < 12 && slotKind s slot.toNat != 0 then refTestEffect slot.toNat s else breach 0x0107 (opWord 3 0x0B slot.toNat) s) s

/-! ### Votes (R133 to R141). -/

/-- The voted heading from the ACCEPTED heading slots, with its quality (R140). -/
def votedHeading (s : State) : Word × Qual :=
  let acc := slotsIn s (hdgSlots s) 2
  match acc with
  | [] => (i32 (tget 0 s.obs.x 2), qSubst)
  | [a] => (i32 (roundEven (slot s a).pN), qGood)
  | [a, b] =>
    let wa := i32 (roundEven (slot s a).pN)
    let d : Int := bamDiff (i32 (roundEven (slot s b).pN)) wa
    (wa + i32 (roundEven ((slot s b).weight * (d : Rat))), qGood)
  | l => (i32 (roundEven (slotMedian s l).1), qGood)

def hdgVoteEffect (s : State) : State :=
  let l := hdgSlots s
  let lat := 24 + 8 * l.length
  let (s, run, pair) := classTests l s.obs.pairH s.obs.pairOfH s
  let s := uncleanFailed l { s with obs := { s.obs with pairH := run, pairOfH := pair } }
  let s := weigh l (classTrack true l s)
  let h := votedHeading s
  let s := writeSig (voteSig s) h.1 h.2 (opTime s lat) s
  l.foldl (fun s n => writeSlot n lat s) (showSlots l s)

def execHdgVote (s : State) : Res := issue 3 0 (opWord 3 0x0C 0) hdgVoteEffect s

def refVoteEffect (s : State) : State :=
  let l := posSlots s
  let lat := 32 + 16 * l.length
  let (s, run, pair) := classTests l s.obs.pairP s.obs.pairOfP s
  let s := uncleanFailed l { s with obs := { s.obs with pairP := run, pairOfP := pair } }
  let s := weigh l (classTrack false l s)
  l.foldl (fun s n => writeSlot n lat s) (showSlots l s)

def execRefVote (s : State) : Res := issue 3 0 (opWord 3 0x0D 0) refVoteEffect s

/-- DR_MAX or HDR_MAX cycles of dead reckoning make the status DR-EXPIRED (R149). -/
def execObsDrExpired (heading : Bool) (s : State) : Res :=
  if heading then
    if s.obs.hstat = 2 && decide (ob s 0x140 4 ≤ s.obs.hdrCyc.toNat) then
      .next (raise 0x0406 1 s.obs.hdrCyc 0 { s with obs := { s.obs with hstat := 3 } })
    else .next s
  else if s.obs.pstat = 2 && decide (ob s 0x13C 4 ≤ s.obs.drCyc.toNat) then
    .next (raise 0x0406 0 s.obs.drCyc 0 { s with obs := { s.obs with pstat := 3 } })
  else .next s

/-- One axis of a motion slot as an exact value: BAM32 read signed, heave in metres. -/
def mruAxis (s : State) (n ax : Nat) : Rat :=
  let i := sl s n 4 4 % 2 ^ 17 + ax
  if ax < 2 then ((sigW s i).toInt : Rat) else (sigNum s i).getD 0

/-- MED_MAX of a motion slot on an axis: BAM32 units for roll and pitch, metres for heave. -/
def mruMax (s : State) (n ax : Nat) : Rat := if ax < 2 then ((sl s n 0x30 4 : Nat) : Rat) else slLen s n 0x30

def minQ (a b : Rat) : Rat := if a < b then a else b

/-- MRU_VOTE (R141). -/
def mruVoteEffect (s : State) : State :=
  let acc := slotsIn s (mruSlots s) 2
  let v := voteSig s
  let t := opTime s 32
  let put (f : Nat → Rat) (q : Qual) (s : State) : State :=
    let s := writeSig (v + 1) (i32 (roundEven (f 0))) q t s
    let s := writeSig (v + 2) (i32 (roundEven (f 1))) q t s
    writeNum (v + 3) (some (f 2)) q t s
  let was := if s.obs.mruPair = acc then s.obs.mruRun else 0
  let s := { s with obs := { s.obs with mruRun := 0, mruPair := acc } }
  let s := match acc with
    | [] => put (fun _ => 0) qStale s
    | [a] => put (mruAxis s a) qGood s
    | [a, b] =>
      let bad := [0, 1, 2].find? (fun ax => decide (minQ (mruMax s a ax) (mruMax s b ax) < absQ (mruAxis s a ax - mruAxis s b ax)))
      let run := if bad.isSome then was + 1 else 0
      let lim := max (sl s a 0x2A 2) (sl s b 0x2A 2)
      let dis := bad.isSome && decide (lim ≤ run)
      let first := dis && decide (was < lim)
      let ax := bad.getD 0
      let diff := absQ (mruAxis s a ax - mruAxis s b ax)
      let s := put (fun ax => (mruAxis s a ax + mruAxis s b ax) / 2) (if dis then qSubst else qGood) { s with obs := { s.obs with mruRun := run } }
      if first then raise 0x0409 (w32 ax) (Config.reportWord diff) 0 s else s
    | l => put (fun ax => (medianQ (l.map (fun n => mruAxis s n ax))).getD 0) qGood s
  writeSig (v + 4) (w32 acc.length) qGood t s

def execMruVote (s : State) : Res := issue 3 0 (opWord 3 0x08 0) mruVoteEffect s

/-! ### The observer (R145 to R153). -/

/-- A change of FRAME_SIG takes effect (R148). -/
def frameChange (s : State) : State :=
  let f := sigW s (ob s 0x008 4 % 2 ^ 17) != 0
  if f = s.obs.frame then s
  else
    let s := [0, 1, 3, 4, 6, 7, 12, 13, 14, 15].foldl (fun s i => setX i 0 s) s
    let s := resetRows [0, 1, 3, 4, 6, 7, 12, 13, 14, 15] s
    let s := clearHistory (posSlots s) s
    raise 0x040B (w32 (b2n s.obs.frame)) (w32 (b2n f)) 0 { s with obs := { s.obs with frame := f, pstat := 0, initP := 0, setP := [] } }

/-- A change of either origin signal's WCNT shifts the north and east states by the converted difference (R121); a difference
beyond 20,000 m, or a state that no longer fits, is NaN, which the restore of R153 answers. The first origin after reset has no
old one and shifts nothing. -/
def originShift (s : State) : State :=
  let o := ob s 0x010 4 % 2 ^ 17
  let seen := entWcnt (ent s o) + 256 * entWcnt (ent s (o + 1))
  if seen = s.obs.orgSeen then s
  else
    let lat := sigW s o
    let lon := sigW s (o + 1)
    let s1 := { s with obs := { s.obs with orgLat := lat, orgLon := lon, orgSeen := seen } }
    if s.obs.orgSeen = 65536 then s1
    else match geoToNE s1 s.obs.orgLat s.obs.orgLon with
      | some (dn, de) => setX 0 ((xMant s 0 (xv s 0 + dn)).getD nanMant) (setX 1 ((xMant s 1 (xv s 1 + de)).getD nanMant) s1)
      | none => setX 0 nanMant (setX 1 nanMant s1)

/-- Import the OBS item: state, covariance, statuses, dead-reckoning counts, slots, wind (R368, R369). -/
def obsImport (s : State) : State :=
  let x := eqTake 2 0 s
  match x.1 with
  | some (.obs b) =>
    let s := x.2
    let upper := idx18.flatMap (fun i => (List.range (18 - i)).map (fun j => (i, i + j)))
    let s := { s with obs := { s.obs with
      x := b.x.zipIdx.foldl (fun m p => tset 0 m p.2 p.1) []
      p := (upper.zip b.p).foldl (fun m q => tset 0 (tset 0 m (18 * q.1.1 + q.1.2) q.2) (18 * q.1.2 + q.1.1) q.2) []
      started := true, pstat := b.pstat, hstat := b.hstat, drCyc := b.drCyc, hdrCyc := b.hdrCyc, wN := b.wN, wE := b.wE } }
    b.slots.zipIdx.foldl (fun s q => modSlot q.2 (fun v => { v with state := q.1.state, clean := q.1.clean, dN := q.1.dN, dE := q.1.dE }) s) s
  | _ => x.2

def obsPredEffect (s : State) : State :=
  let s := obsImport s
  let s := originShift (frameChange (obsStart s))
  let s := { s with obs := { s.obs with nanNow := false } }
  match xNan s with
  | some i => restoreCheckpoint 0x09 0 i s
  | none => match storeXP (predX s) (predP s) s with
    | .ok t => t
    | .error i => restoreCheckpoint 0x09 0 i s

def execObsPred (s : State) : Res := issue 3 0 (opWord 3 0x09 0) obsPredEffect s

/-- OBS_UPD fuses one slot (R146); it changes nothing after a restore of the same cycle (R153). -/
def obsUpdEffect (n : Nat) (s : State) : State :=
  let v := slot s n
  if v.state != 2 || !v.fresh || !v.gateOk || s.obs.nanNow || anyBit v [0, 1, 2] then s
  else if (xNan s).isSome then restoreCheckpoint 0x0E n ((xNan s).getD 0) s
  else if isPos n then
    match scalarUpdate 0 13 (v.pN - (xv s 0 + xv s 13)) v.var s with
    | .error i => restoreCheckpoint 0x0E n i s
    | .ok s1 => match scalarUpdate 1 15 (v.pE - (xv s1 1 + xv s1 15)) v.var s1 with
      | .error i => restoreCheckpoint 0x0E n i s1
      | .ok s2 => s2
  else
    match scalarUpdate 2 17 (innovation s n v).1 v.var s with
    | .error i => restoreCheckpoint 0x0E n i s
    | .ok s1 => s1

def execObsUpd (slot : BitVec 5) (s : State) : Res :=
  issue 3 0 (opWord 3 0x0E slot.toNat) (fun s =>
    if slot.toNat < 12 && slotKind s slot.toNat != 0 then obsUpdEffect slot.toNat s else breach 0x0107 (opWord 3 0x0E slot.toNat) s) s

/-- Quality of an output by its class status (R147). -/
def statusQual (st : BitVec 3) : Qual := if st = 1 then qGood else if st = 2 ∨ st = 4 then qSubst else qStale

/-- The statuses that OBS_OUT publishes: RESTORED in a cycle with a restore (R153). -/
def pubStat (s : State) (hdg : Bool) : BitVec 3 := if s.obs.nanNow then 4 else if hdg then s.obs.hstat else s.obs.pstat

/-- After eight consecutive cycles with a restore, both classes enter INIT, which their registers then show (R153). -/
def restoreLimit (s : State) : State :=
  let run := if s.obs.nanNow then s.obs.restRun + 1 else 0
  let s := { s with obs := { s.obs with restRun := run } }
  if 8 ≤ run then
    let s := (posSlots s ++ hdgSlots s).foldl (fun s n => modSlot n (fun v => if v.state = 2 then { v with state := 1, clean := 0 } else v) s) s
    { s with obs := { s.obs with pstat := 0, hstat := 0, initP := 0, initH := 0, setP := [], setH := [], restRun := 0, nanNow := false } }
  else s

/-- One state of the observer written as a signal of the output group: a state whose word is the NaN code is NaN, a heading state is its angle. -/
def obsNum (o i : Nat) (q : Qual) (t : Word) (s : State) : State :=
  writeNum o (if tget 0 s.obs.x i = nanMant then none else some (xv s i)) q t s
def obsAng (o i : Nat) (q : Qual) (t : Word) (s : State) : State := writeSig o (i32 (tget 0 s.obs.x i)) q t s

/-- The output group (Table 4-12). -/
def obsWrite (s : State) : State :=
  let o := ob s 0x000 4 % 2 ^ 17
  let t := opTime s 48
  let ps := pubStat s false
  let hs := pubStat s true
  let qp := statusQual ps
  let qh := statusQual hs
  let s := obsNum o 0 qp t s
  let s := obsNum (o + 1) 1 qp t s
  let s := obsAng (o + 2) 2 qh t s
  let s := obsNum (o + 3) 3 qp t s
  let s := obsNum (o + 4) 4 qp t s
  let s := obsNum (o + 5) 5 qh t s
  let s := obsNum (o + 6) 6 qp t s
  let s := obsNum (o + 7) 7 qp t s
  let s := obsNum (o + 8) 8 qh t s
  let s := obsNum (o + 9) 13 qp t s
  let s := obsNum (o + 10) 15 qp t s
  let s := obsAng (o + 11) 17 qh t s
  let s := writeNum (o + 12) (some (sqrtQ (pv s 0 0))) qp t s
  let s := writeNum (o + 13) (some (sqrtQ (pv s 1 1))) qp t s
  let s := writeNum (o + 14) (some (sqrtQ (pv s 2 2))) qh t s
  let s := writeSig (o + 15) (ps.setWidth 32) qp t s
  let s := writeSig (o + 16) (hs.setWidth 32) qh t s
  let s := writeSig (o + 17) (counterWord s.obs.drCyc.toNat) qp t s
  let s := writeSig (o + 18) (w32 (slotsIn s (posSlots s) 2).length) qp t s
  writeSig (o + 19) (w32 (slotsIn s (hdgSlots s) 2).length) qh t s

def obsOutEffect (s : State) : State :=
  let bad := s.obs.nanNow || (xNan s).isSome
  let s := restoreLimit (obsWrite s)
  let s := showSlots (posSlots s ++ hdgSlots s) s
  if bad then s else { s with obs := { s.obs with chkX := s.obs.x, chkP := s.obs.p } }

def execObsOut (s : State) : Res := issue 3 0 (opWord 3 0x0F 0) obsOutEffect s

/-! ### Wind (R142, R143). -/

/-- A field of the wind block (Table 4-9). With NWND 0 there is no block, and every field reads 0: W stays 0, no time is held, the
forces are 0 (DESIGN CHOICE, log 141). -/
def wb (s : State) (off n : Nat) : Nat := if vm s 0xB 1 = 0 then 0 else vm s (vm s 0x0C 4 + off) n
def wbS (s : State) (off n : Nat) : Int := if vm s 0xB 1 = 0 then 0 else vmS s (vm s 0x0C 4 + off) n

/-- A coefficient at an angle in turns of 2^-32: linear in the 37-point table (R142). -/
def windCoef (s : State) (tab : Nat) (g : Word) : Rat :=
  let x := g.toNat * 36
  let i := x / 4294967296
  let f : Rat := ((x % 4294967296 : Nat) : Rat) / 4294967296
  let c (k : Nat) : Rat := sfxVal (w32 (wb s (tab + 4 * k) 4)) (wbS s 0x00D 1)
  c i + (c (i + 1) - c i) * f

/-- Apparent wind vector of a slot in vessel axes, as the direction it comes from. -/
def appWind (s : State) (n : Nat) : Rat × Rat :=
  let i := sl s n 4 4 % 2 ^ 17
  let v := (sigNum s i).getD 0
  let b := bamTurns (sigW s (i + 1))
  (v * cosTurns b, v * sinTurns b)

/-- Write the feedforward forces for the filtered wind (R142 items 5 and 6). -/
def writeWind (q : Qual) (s : State) : State :=
  let psi := xv s 2
  let c := cosTurns (psiTurns psi)
  let t := sinTurns (psiTurns psi)
  let ax := c * s.obs.wN + t * s.obs.wE + xv s 3
  let ay := -t * s.obs.wN + c * s.obs.wE + xv s 4
  let v2 := ax * ax + ay * ay
  let g := bamOf (atan2Turns ay ax)
  let ke := wbS s 0x00C 1
  let k (i : Nat) : Rat := sfxVal (w32 (wb s (4 * i) 4)) ke
  let o := ob s 0x014 4 % 2 ^ 17
  let tm := opTime s 64
  let s := writeNum o (some (k 0 * v2 * windCoef s 0x020 g)) q tm s
  let s := writeNum (o + 1) (some (k 1 * v2 * windCoef s 0x0B4 g)) q tm s
  writeNum (o + 2) (some (k 2 * v2 * windCoef s 0x148 g)) q tm s

/-- The preferred wind slot: the ENUM whose path is `pack.wnd.pref`, which reads as 0 while STALE (R142). The device holds no
path strings, so the entry is the one whose PATH_CHK is the CRC of that path (R75). -/
def windPref (s : State) : Nat :=
  let c := crc16 ("pack.wnd.pref".toList.map (fun ch => BitVec.ofNat 8 ch.toNat))
  match s.sdir.find? (fun p => entType p.2 == 5 && p.2.pathChk.toNat == c) with
  | none => 0
  | some (i, _) => if sigQ s i = qStale then 0 else (sigW s i).toNat

/-- WIND (R142, R143). The forces of an ACCEPTED wind slot are GOOD: the rule names no quality for them (DESIGN CHOICE, log 140). With
WHOLD 0 the decay begins in the cycle in which the last slot is lost. -/
def windEffect (s : State) : State :=
  let acc := slotsIn s (wndSlots s) 2
  match acc with
  | [] =>
    let s := if s.obs.wLost then { s with obs := { s.obs with wHold := s.obs.wHold + 1 } }
      else
        raise 0x040A (w32 s.obs.wSlot) (Config.reportWord (sqrtQ (s.obs.wN * s.obs.wN + s.obs.wE * s.obs.wE))) 0
          { s with obs := { s.obs with wLost := true, wHold := 1, wDecay := decide (wb s 0x010 4 = 0) } }
    let s := if s.obs.wDecay then
        let f := 1 - pow2 (-((wb s 0x00F 1 : Nat) : Int))
        { s with obs := { s.obs with wN := s.obs.wN * f, wE := s.obs.wE * f } }
      else s
    let small := decide (s.obs.wN * s.obs.wN + s.obs.wE * s.obs.wE < 1 / 100)
    if s.obs.wDecay && small then
      let o := ob s 0x014 4 % 2 ^ 17
      let t := opTime s 64
      writeSig (o + 2) 0 qStale t (writeSig (o + 1) 0 qStale t (writeSig o 0 qStale t s))
    else writeWind qSubst s
  | a :: rest =>
    let app : Rat × Rat := match rest with
      | [] => appWind s a
      | b :: _ =>
        let i (n : Nat) : Rat := (sigNum s (sl s n 4 4 % 2 ^ 17)).getD 0
        if absQ (i a - i b) ≤ minQ (slLen s a 0x30) (slLen s b 0x30) then
          (((appWind s a).1 + (appWind s b).1) / 2, ((appWind s a).2 + (appWind s b).2) / 2)
        else appWind s (if windPref s = 0 then a else b)
    let tw := rot (xv s 2) (app.1 - xv s 3) (app.2 - xv s 4)
    let sh := pow2 (-((wb s 0x00E 1 : Nat) : Int))
    let direct := s.obs.wLost || s.obs.wZero
    let wn := if direct then tw.1 else s.obs.wN + (tw.1 - s.obs.wN) * sh
    let we := if direct then tw.2 else s.obs.wE + (tw.2 - s.obs.wE) * sh
    writeWind qGood { s with obs := { s.obs with wN := wn, wE := we, wLost := false, wDecay := false, wHold := 0, wZero := false, wSlot := a } }

def execWind (s : State) : Res := issue 3 0 (opWord 3 0x10 0) windEffect s

/-- WHOLD pack cycles without an accepted wind slot have passed: the decay of W begins (R143). -/
def execWindHoldEnd (s : State) : Res :=
  if s.obs.wLost && decide (wb s 0x010 4 ≤ s.obs.wHold) then .next { s with obs := { s.obs with wDecay := true } } else .next s

/-! ### REANCHOR (R152). -/

/-- The handler takes a REANCHOR command of a mailbox: RANGE for an unused slot, STATE for a motion or wind slot, which can anchor
no class, else latched until the vote of its class; commands that wait act in their order. -/
def execReanchor (mbx : BitVec 4) (slot : BitVec 8) (s : State) : Res :=
  let n := slot.toNat
  if 17 ≤ n ∨ slotKind s n = 0 then .next (completeMbx mbx.toNat rcRange s)
  else if 12 ≤ n then .next (completeMbx mbx.toNat rcState s)
  else .next { s with obs := { s.obs with reanch := s.obs.reanch ++ [(n, latchFrame s, mbx.toNat)] } }

end Sys2Proof.Machine
end

