-- ==== Sys2Proof/Machine/Modes.lean ====
section
/-! DEFINITION. Sys2Proof/Machine/Modes.lean: the mode machine, set-points, the controller input groups, the seats' demands and
their mixing (R228 to R250, R262). -/

namespace Sys2Proof.Machine

/-- Fields of STMT (Tables 7-6 and 7-7) and of the thruster part of VMDL (Table 7-15). -/
def sm (s : State) (off n : Nat) : Nat := fld s .stmt 0 off n
def smS (s : State) (off n : Nat) : Int := sfld s .stmt 0 off n
def sme (s : State) (mode off n : Nat) : Nat := sm s (128 + 32 * (mode - 1) + off) n
def th (s : State) (off n : Nat) : Nat := vm s (vm s 0x18 4 + off) n

/-- A signal index field. -/
def sgi (n : Nat) : Nat := n % 2 ^ 17

/-- Transitions permitted in hardware (Table 7-3). -/
def permitted (m : Nat) : List Nat :=
  match m with
  | 1 => [2, 12, 14]
  | 2 => [1, 3, 4, 12]
  | 3 => [1, 2, 4, 5, 6, 7, 11, 13]
  | 4 => [1, 2, 3, 5, 6, 7, 9, 10, 11, 13]
  | 5 => [1, 2, 3, 4, 6, 7, 10, 11, 13]
  | 6 => [1, 2, 3, 4, 5, 7, 10, 11, 13]
  | 7 => [1, 2, 3, 4, 5, 8]
  | 8 => [1, 2, 4, 7]
  | 9 => [1, 2, 4]
  | 10 => [1, 2, 3, 4, 5]
  | 11 => [1, 2, 3, 4, 5]
  | 12 => [1, 2]
  | 13 => [1, 2, 3, 4, 5]
  | 14 => [1]
  | _ => []

/-- Does STMT keep the transition? Word i - 1, bit j - 1 of NARROW. -/
def narrowed (s : State) (i j : Nat) : Bool := !bitOf (sm s (2 * (i - 1)) 2) (j - 1)

/-- Seat laws (Table 7-2). -/
inductive Law where
  | none | zero | stick | mpcH | mpcP | mpcA | mpcT | mpcV | mpcW | test | sim
  deriving DecidableEq, Repr

def lawOf (m : Nat) : Law :=
  match m with
  | 1 => .none
  | 2 => .zero
  | 3 => .stick
  | 4 | 13 => .mpcH
  | 5 | 9 => .mpcP
  | 6 => .mpcA
  | 7 | 8 => .mpcT
  | 10 => .mpcV
  | 11 => .mpcW
  | 12 => .test
  | 14 => .sim
  | _ => .zero

/-- The number by which a law is told apart; the code the CIG carries is not stated. -/
def lawNo : Law → Nat
  | .none => 0 | .zero => 1 | .stick => 2 | .mpcH => 3 | .mpcP => 4 | .mpcA => 5 | .mpcT => 6 | .mpcV => 7 | .mpcW => 8
  | .test => 9 | .sim => 10

def isMpc : Law → Bool
  | .mpcH | .mpcP | .mpcA | .mpcT | .mpcV | .mpcW => true
  | _ => false

/-- Is a transition DIRECT? (R235) -/
def isDirect (i j : Nat) : Bool := i == 1 || i == 12 || i == 14 || j == 1 || j == 12 || j == 14 || j == 2

/-- Status of the position or heading class as a mode machine sees it: the simulated vessel is always at TRACK (R262; DEDUCED, log 147: the
simulated state has no other status). -/
def modeStat (s : State) (sim hdg : Bool) : BitVec 3 := if sim then 1 else pubStat s hdg
def posTrack (s : State) (sim : Bool) : Bool := modeStat s sim false == 1
def hdgTrack (s : State) (sim : Bool) : Bool := modeStat s sim true == 1
def usable (b : BitVec 3) : Bool := b == 1 || b == 2 || b == 4
def posUsable (s : State) (sim : Bool) : Bool := usable (modeStat s sim false)
def hdgUsable (s : State) (sim : Bool) : Bool := usable (modeStat s sim true)

/-- PARAM of a mode, UFX exponent -16. -/
def modeParam (s : State) (m : Nat) : Rat := ((sme s m 0x1C 4 : Nat) : Rat) / 65536

/-- N, E, heading in turns, u, v, r of the observer outputs. -/
def obsOut (s : State) : List OQ :=
  let o := sgi (ob s 0 4)
  [sigNum s o, sigNum s (o + 1), if sigNan s (o + 2) then none else some (bamTurns (sigW s (o + 2))), sigNum s (o + 3), sigNum s (o + 4), sigNum s (o + 5)]

/-- The state that a mode machine works on (R248, R262). -/
def stateOf (s : State) (sim : Bool) : List OQ := if sim then s.modes.simX else obsOut s

/-- Is the surge speed at least v? A NaN speed is not. -/
def surgeAt (s : State) (sim : Bool) (v : Rat) : Bool := match (stateOf s sim).getD 3 none with
  | some u => decide (v ≤ u)
  | none => false

def winchQ (s : State) (ok : Qual → Bool) : Bool := [0, 1, 2].all (fun k => ok (sigQ s (sgi (sm s 0x44 4) + k)))

/-- Descriptor of thruster i (Table 7-16). -/
def nThr (s : State) : Nat := th s 0 1
def nGen (s : State) : Nat := th s 2 1
def nSec (s : State) : Nat := th s 1 1
def thrOff (s : State) : Nat := th s 0x30 4 + 64
def thr (s : State) (i off n : Nat) : Nat := th s (thrOff s + 64 * i + off) n
def thrS (s : State) (i off n : Nat) : Int := signedOf (8 * n) (thr s i off n)
def cmdSig (s : State) (i : Nat) : Nat := sgi (thr s i 0x30 4)

/-- The switch gate of a mode (Table 7-2). spTaken: a set-point has been accepted since its ARM. -/
def gateOk (s : State) (sim : Bool) (m : Nat) (spTaken : Bool) : Bool :=
  let both := posTrack s sim && hdgTrack s sim
  match m with
  | 4 | 13 => hdgTrack s sim
  | 5 | 6 | 10 => both
  | 7 => both && spTaken
  | 8 => both && spTaken && surgeAt s sim (modeParam s 8)
  | 9 => both && s.obs.frame
  | 11 => both && winchQ s (fun q => q == qGood)
  | 12 => (List.range (nThr s)).all (fun i => sigW s (cmdSig s i + 3) != 1)
  | 14 => bitOf (th s 5 1) 1
  | _ => true

def plan (s : State) (seat : Nat) : Plan := if seat = 0 then s.modes.plan0 else s.modes.plan1
def setPlan (seat : Nat) (p : Plan) (s : State) : State :=
  if seat = 0 then { s with modes := { s.modes with plan0 := p } } else { s with modes := { s.modes with plan1 := p } }

/-- The stay condition of a mode in a seat (Table 7-2, R250). -/
def stayOk (s : State) (sim : Bool) (m seat : Nat) : Bool :=
  let both := posUsable s sim && hdgUsable s sim
  let own := match m with
    | 4 | 13 => hdgUsable s sim
    | 5 | 6 | 7 | 9 | 10 => both
    | 8 => both && surgeAt s sim (modeParam s 8 / 2)
    | 11 => both && winchQ s (fun q => q == qGood || q == qSubst)
    | _ => true
  own && !(isMpc (lawOf m) && (plan s seat).ended)

/-- Armed mode as the outputs show it: none while a DIRECT transition settles. -/
def armedOf (r : ModeRec) : Nat := if r.direct then 0 else r.incoming

/-- The mode whose law a seat runs; 0 is a free seat. -/
def seatMode (r : ModeRec) (seat : Nat) : Nat :=
  if seat = r.seat then (if r.direct then r.outgoing else r.mode) else r.incoming

/-! ### Moves of a machine: the real one, or the simulated one of R262, which follows the same rules and records the same events. -/

def setM (sim : Bool) (r : ModeRec) (s : State) : State :=
  if sim then { s with modes := { s.modes with sim := r } } else { s with modes := { s.modes with m := r } }
def getM (sim : Bool) (s : State) : ModeRec := if sim then s.modes.sim else s.modes.m

def alphaWord (a : Rat) : Word := i32 (roundEven (a * 4096))

/-- Free the other seat; in a hand-over that is an abort (R245). Reasons: 0 stay condition, 1 disarm, 2 TIMEOUT, 3 NaN. -/
def abortHo (sim : Bool) (reason : Nat) (s : State) : State :=
  let r := getM sim s
  let s' := setM sim { r with incoming := 0, ho := false, alpha := 0, direct := false, armCyc := 0 } s
  if r.ho ∨ reason = 2 then raise 0x0705 (w32 r.incoming) (w32 reason) (alphaWord r.alpha) s' else s'

def disarm (sim : Bool) (reason : Nat) (s : State) : State := if (getM sim s).incoming = 0 then s else abortHo sim reason s

/-- Place a mode in the free seat (ARM, R235). -/
def armMode (sim : Bool) (m source : Nat) (s : State) : State :=
  let r := getM sim s
  raise 0x0701 (w32 m) (w32 (1 - r.seat)) (w32 source) (setM sim { r with incoming := m, armCyc := 0, spTaken := false } s)

def setPt (s : State) (m : Nat) : SetPoint := tget {} s.modes.sps m
def putPt (m : Nat) (p : SetPoint) (s : State) : State := { s with modes := { s.modes with sps := tset {} s.modes.sps m p } }

/-- Seat τ signals. -/
def seatDesc (s : State) (seat off n : Nat) : Nat := th s (th s 0x30 4 + 32 * seat + off) n
def seatTau (s : State) (seat : Nat) : Nat := sgi (seatDesc s seat 4 4)

/-- At a switch into a mode with CAPTURE_SP, without a set-point accepted since its ARM, the observer's outputs become it, or the simulated
state (R242, R262). -/
def captureSp (sim : Bool) (m : Nat) (taken : Bool) (s : State) : State :=
  if bitOf (sme s m 1 1) 1 && !taken then
    let x := stateOf s sim
    let psi := if sim then bamOf ((x.getD 2 none).getD 0) else sigW s (sgi (ob s 0 4) + 2)
    putPt m { (setPt s m) with given := true, n := x.getD 0 none, e := x.getD 1 none, psi := psi } s
  else s

/-- Start the hand-over to the incoming mode (SWITCH, R243, R245). -/
def switchMode (sim : Bool) (s : State) : State :=
  let r := getM sim s
  let a := seatTau s r.seat
  let b := seatTau s (1 - r.seat)
  let e := entExp (ent s (sgi (th s 0x20 4)))
  let d := [0, 1, 2].map (fun k => oWord e (oSub (sigNum s (b + k)) (sigNum s (a + k))))
  let s := captureSp sim r.incoming r.spTaken s
  let s := setM sim { r with ho := true, direct := false, alpha := 0, step := 1 / ((max 1 (sm s 0x1C 2) : Nat) : Rat), hoCyc := 0, outgoing := r.mode } s
  let s := { s with modes := { s.modes with hoDiff := d } }
  raise 0x0704 (d.getD 0 0) (d.getD 1 0) (d.getD 2 0) (raise 0x0700 (w32 r.mode) (w32 r.incoming) (w32 (1 - r.seat)) s)

/-- Entry to SIMULATION: the simulated state takes the observer outputs; the simulated mode is JOYSTICK (R262, R263). -/
def enterSim (m : Nat) (s : State) : State :=
  if m = 14 then
    { s with modes := { s.modes with simX := obsOut s, sim := { mode := 3 } } }
  else s

/-- A DIRECT transition: the mode is in force in this MODE_STEP, the window is zero cycles (R235, R244). One that follows while another still
settles keeps the seat and the law whose demand is being left. -/
def directMode (sim : Bool) (m : Nat) (s : State) : State :=
  let s := if (getM sim s).direct then s else disarm sim 1 s
  let r := getM sim s
  let s := setM sim { r with
    mode := m, incoming := m, outgoing := if r.direct then r.outgoing else r.mode
    direct := true, ho := true, alpha := 0, step := 1, hoCyc := 0, failed := false } s
  let s := captureSp sim m false s
  raise 0x0700 (w32 r.mode) (w32 m) (w32 (1 - r.seat)) (if sim then s else enterSim m s)

/-! ### Requests (R235 to R237). -/

/-- The reason that refuses a request; 0 accepts it (Table 7-5). -/
def refusal (s : State) (sim : Bool) (m a : Nat) (fellBack : Bool) : Nat :=
  let r := getM sim s
  if m = 0 ∨ 14 < m ∨ a = 0 ∨ 4 < a then 1
  else if s.boot.dev ≠ .active ∧ s.boot.dev ≠ .voting then 2
  else if !(permitted r.mode).contains m then 3
  else if narrowed s r.mode m then 4
  else if isDirect r.mode m ≠ (a == 4) then 5
  else if a = 1 ∧ (armedOf r ≠ 0 ∨ r.ho) then 6
  else if (a = 2 ∨ a = 3) ∧ armedOf r ≠ m then 7
  else if (a = 2 ∨ a = 4) ∧ !gateOk s sim m r.spTaken then 8
  else if fellBack then 9 else 0

/-- Carry out an accepted request. -/
def doRequest (sim : Bool) (m a source : Nat) (s : State) : State :=
  match a with
  | 1 => armMode sim m source s
  | 2 => if (getM sim s).ho then s else switchMode sim s
  | 3 => disarm sim 1 s
  | _ => directMode sim m s

/-- Judge and carry out one request of the real machine; the reason. -/
def takeRequest (m a source : Nat) (fellBack : Bool) (s : State) : State × Nat :=
  let why := refusal s false m a fellBack
  let s := { s with modes := { s.modes with lastReq := (m, a, why) } }
  if why = 0 then (doRequest false m a source s, 0) else (raise 0x0702 (w32 m) (w32 a) (w32 why) s, why)

/-! ### Fallbacks (R238). -/

/-- The stay conditions of a machine; whether an automatic fallback was made. DESIGN CHOICE, log 147: with FALLBACK 0 the armed mode is disarmed once, when
the stay condition first fails, so that the operator can arm the way out. -/
def fallbacks (sim : Bool) (s : State) : State × Bool :=
  let r := getM sim s
  let other := 1 - r.seat
  let outOk := stayOk s sim r.mode (if r.direct then other else r.seat)
  if r.ho && !r.direct && !stayOk s sim r.incoming other then (abortHo sim 0 s, true)
  else if outOk then (if r.failed then setM sim { r with failed := false } s else s, false)
  else if r.ho && !r.direct then (setM sim { r with alpha := 1 } s, true)
  else
    let fb := sme s r.mode 0 1
    let cause := Config.layoutWord 8 [r.mode, b2n (posUsable s sim), b2n (hdgUsable s sim)]
    if fb = 3 then
      let s := raise 0x0706 (w32 r.mode) 3 cause (disarm sim 1 s)
      (switchMode sim (setM sim { (getM sim s) with incoming := 3, armCyc := 0, spTaken := false } s), true)
    else if fb = 2 then (directMode sim 2 (raise 0x0706 (w32 r.mode) 2 cause s), true)
    else if r.failed then (s, false)
    else
      let s := disarm sim 1 s
      (raise 0x0706 (w32 r.mode) 0 cause (setM sim { (getM sim s) with failed := true } s), false)

/-! ### Set-points and origin (R242, R243). -/

/-- The set-point fields that a mode uses (Table 7-8). -/
def spFields (m : Nat) : List Nat :=
  match m with
  | 5 | 6 | 9 | 11 => [1, 2, 3]
  | 10 => [1, 2, 4, 5]
  | 7 | 8 => [1, 2, 4, 5, 6]
  | 4 | 13 => [3]
  | _ => []

/-- Take a new set-point for the armed mode, or for the mode in force, in a unit that acts (R231, R242). Every MODE_STEP follows the count; the first
one has no earlier value to compare with. -/
def newSetPoint (acting : Bool) (s : State) : State :=
  let b := sgi (sm s 0x24 4)
  let wc := entWcnt (ent s b)
  let isNew := acting && s.modes.spSeen != 256 && wc != s.modes.spSeen
  let s := { s with modes := { s.modes with spSeen := wc } }
  if !isNew then s
  else
    let r := if s.modes.m.mode = 14 then s.modes.sim else s.modes.m
    let arm := armedOf r
    let m := if arm ≠ 0 then arm else r.mode
    if !((0 :: spFields m).all (fun k => sigQ s (b + k) == qGood)) then s
    else
      let v (k : Nat) : OQ := sigNum s (b + k)
      let old := setPt s m
      let dn := oSub (v 1) old.n
      let de := oSub (v 2) old.e
      let lim : Rat := ((sme s m 2 2 : Nat) : Rat) / 10
      let hor := (spFields m).contains 1 && old.given
      -- a step from a NaN set-point has no distance
      let d2 := if hor then (oAdd (oMul dn dn) (oMul de de)).getD 0 else 0
      let stepW := i32 (roundEven (sqrtQ d2 * 10))
      if decide (0 < lim) && decide (lim * lim < d2) then raise 0x0708 (w32 m) (sigW s b) stepW s
      else
        let s := putPt m { given := true, n := v 1, e := v 2, psi := sigW s (b + 3), nB := v 4, eB := v 5, speed := v 6 } s
        let s := if arm ≠ 0 then (if s.modes.m.mode = 14 then { s with modes := { s.modes with sim := { r with spTaken := true } } } else { s with modes := { s.modes with m := { r with spTaken := true } } }) else s
        raise 0x0707 (w32 m) (sigW s b) stepW s

/-- Write a new origin and shift the stored set-points by the converted difference, as R121 shifts the observer states: NaN beyond 20,000 m
(R243). -/
def writeOrigin (lat lon : Word) (s : State) : State :=
  let o := sgi (ob s 0x10 4)
  let t := opTime s 64
  let d := geoToNE { s with obs := { s.obs with orgLat := lat, orgLon := lon } } (sigW s o) (sigW s (o + 1))
  let dn := d.map (fun p => p.1)
  let de := d.map (fun p => p.2)
  let first := !s.modes.orgSet
  let s := writeSig (o + 1) lon qGood t (writeSig o lat qGood t s)
  let s := { s with modes := { s.modes with orgSet := true } }
  if first then s
  else { s with modes := { s.modes with sps := s.modes.sps.map (fun p => (p.1, { p.2 with n := oAdd p.2.n dn, e := oAdd p.2.e de, nB := oAdd p.2.nB dn, eB := oAdd p.2.eB de })) } }

/-- The origin of MODE_STEP (R243): the first one from a slot, later ones on request of a unit that acts (R231). Every MODE_STEP follows the count
of the request. -/
def origin (acting : Bool) (s : State) : State :=
  let b := sgi (sm s 0x24 4)
  let wc := 256 * entWcnt (ent s (b + 7)) + entWcnt (ent s (b + 8))
  let isNew := acting && s.modes.orgSeen != 65536 && wc != s.modes.orgSeen
  let s := { s with modes := { s.modes with orgSeen := wc } }
  if !s.modes.orgSet then
    match (posSlots s).find? (fun n => (slotKind s n = 1 ∨ slotKind s n = 2) && sigQ s (sgi (sl s n 4 4)) == qGood && sigQ s (sgi (sl s n 4 4) + 1) == qGood) with
    | some n => writeOrigin (sigW s (sgi (sl s n 4 4))) (sigW s (sgi (sl s n 4 4) + 1)) s
    | none => s
  else if !isNew || sigQ s (b + 7) != qGood || sigQ s (b + 8) != qGood then s
  else if [1, 2, 3, 4, 12].contains s.modes.m.mode then writeOrigin (sigW s (b + 7)) (sigW s (b + 8)) s
  else raise 0x0708 (w32 s.modes.m.mode) (sigW s b) 0xFFFFFFFF s

/-! ### MODE_STEP (R231). -/

/-- The simulated machine follows the simulated mode signal (R262): a mode that the signal names is armed when Table 7-3 and STMT permit it, and
switched to in the first MODE_STEP in which its gate is met, the arming one included; another selection, or that of the mode in force,
disarms it (DESIGN CHOICE, log 147: the signal stands for both requests). -/
def simRequest (fell : Bool) (s : State) : State :=
  let want := (sigW s (sgi (sm s 0x40 4) - 1)).toNat
  let r := s.modes.sim
  if fell ∨ r.ho ∨ !([3, 4, 5, 6, 7, 8, 10, 11, 13].contains want) then s
  else if want = r.mode then disarm true 1 s
  else
    let s := if r.incoming = want then s
      else
        let s := disarm true 1 s
        if (permitted r.mode).contains want ∧ !narrowed s r.mode want then armMode true want 0 s else s
    let r := s.modes.sim
    if r.incoming = want ∧ gateOk s true want r.spTaken then switchMode true s else s

/-- ARM_TIMEOUT: the armed mode is disarmed with reason TIMEOUT (R239). -/
def armTimeout (s : State) : State :=
  let r := s.modes.m
  if armedOf r ≠ 0 ∧ !r.ho ∧ sm s 0x1E 2 ≠ 0 then abortHo false 2 s else s

def execArmTimeout (s : State) : Res := .next (if sm s 0x1E 2 ≤ s.modes.m.armCyc then armTimeout s else s)

/-- Count the pack cycles that an armed mode has waited since the MODE_STEP that armed it (R239). -/
def countArm (was : Nat) (s : State) : State :=
  let r := s.modes.m
  if was ≠ 0 ∧ armedOf r ≠ 0 ∧ !r.ho then
    let s := setM false { r with armCyc := r.armCyc + 1 } s
    if sm s 0x1E 2 ≠ 0 ∧ sm s 0x1E 2 ≤ r.armCyc + 1 then armTimeout s else s
  else s

/-- Write the mode output group (Table 7-17). -/
def writeModeGroup (l : Nat) (s : State) : State :=
  let b := sgi (sm s 0x2C 4)
  let t := opTime s l
  let r := s.modes.m
  let s := writeSig b (w32 r.mode) qGood t s
  let s := writeSig (b + 1) (w32 (armedOf r)) qGood t s
  let s := writeNum (b + 2) (some r.alpha) qGood t s
  let s := writeSig (b + 3) (w32 (if r.mode = 14 then s.modes.sim.mode else 0)) qGood t s
  let s := writeSig (b + 4) (w32 s.modes.lastReq.2.2) qGood t s
  let s := writeSig (b + 5) (w32 (b2n (s.modes.ca.any (fun p => p.2.alarm)))) qGood t s
  let s := writeSig (b + 6) (w32 (b2n (!s.modes.flrLim.isEmpty))) qGood t s
  writeSig (b + 7) (w32 (b2n s.modes.hold)) qGood t s

/-- A new request of the request signals: the sequence's WCNT has changed, all three GOOD (R236). -/
def signalRequest (s : State) : Option (Nat × Nat) × State :=
  let b := sgi (sm s 0x20 4)
  let wc := entWcnt (ent s (b + 2))
  let isNew := s.modes.reqSeen ≠ 256 ∧ wc ≠ s.modes.reqSeen
  let s := { s with modes := { s.modes with reqSeen := wc } }
  if isNew ∧ [0, 1, 2].all (fun k => sigQ s (b + k) == qGood) then (some ((sigW s b).toNat, (sigW s (b + 1)).toNat), s) else (none, s)

/-- Import the MODE item: mode, armed mode, seats, hand-over, previous demand, set-points, origin (R368, R369). A unit that takes
SIMULATION from it enters its own simulation (R263). -/
def modeImport (s : State) : State :=
  let x := eqTake 1 0 s
  match x.1 with
  | some (.mode b) =>
    let s := if x.2.modes.m.mode = 14 then x.2 else enterSim b.mode x.2
    let s := setM false { s.modes.m with
      mode := b.mode, incoming := if b.direct then b.mode else b.armed, seat := b.seat, outgoing := b.outgoing, direct := b.direct, ho := b.ho
      alpha := b.alpha, step := if b.direct then 1 else 1 / ((max 1 (sm s 0x1C 2) : Nat) : Rat), armCyc := b.armCyc } s
    let s := { s with modes := { s.modes with
      tauD := b.tauD, orgSet := b.orgSet
      sps := b.sps.foldl (fun m p => tset {} m p.mode { given := p.given, n := p.n, e := p.e, psi := p.psi, nB := p.nB, eB := p.eB, speed := p.speed }) [] } }
    if b.orgSet then
      let o := sgi (ob s 0x10 4)
      writeSig (o + 1) b.orgLon qGood (opTime s 64) (writeSig o b.orgLat qGood (opTime s 64) s)
    else s
  | _ => x.2

def modeStepEffect (s : State) : State :=
  let s := modeImport s
  let s := if s.modes.m.mode = 0 then setM false { s.modes.m with mode := 1 } s else s
  let acting := s.boot.dev = .active ∨ s.boot.dev = .voting
  let sr := signalRequest s
  let s := sr.2
  let was := armedOf s.modes.m
  let fb := if acting then fallbacks false s else (s, false)
  let s := fb.1
  let mreq := match s.modes.req with
    | some r => if r.due ≤ s.seq.k then some r else none
    | none => none
  let s := match (if acting then sr.1 else none) with
    | some (m, a) =>
      let s := (takeRequest m a 0 fb.2 s).1
      (match mreq with
        | some r => completeMbx r.mbx rcBusy { s with modes := { s.modes with req := none } }
        | none => s)
    | none =>
      (match mreq with
        | some r =>
          let x := takeRequest r.mode r.action (mbxOf s r.mbx).poster fb.2 { s with modes := { s.modes with req := none } }
          completeMbx r.mbx (if x.2 = 0 then rcDone else BitVec.ofNat 16 (0x0100 + x.2)) x.1
        | none => s)
  let s := if acting then countArm was s else s
  let s := if acting ∧ s.modes.m.mode = 14 then
      let f := fallbacks true s
      simRequest f.2 f.1
    else s
  let s := origin acting (newSetPoint acting s)
  let rel := s.modes.m.mode = 9 ∨ armedOf s.modes.m = 9
  let s := writeSig (sgi (ob s 8 4)) (if rel then 1 else 0) qGood (opTime s 64) s
  writeModeGroup 64 s

def execModeStep (s : State) : Res := issue 6 0 (opWord 6 0x30 0) modeStepEffect s

/-- The handler of MODE-REQ: latched for the first MODE_STEP after the next frame boundary (R236). -/
def modeReqHandler (mbx m a : Nat) (s : State) : State :=
  if s.modes.req.isSome then completeMbx mbx rcBusy s
  else { s with modes := { s.modes with req := some { mode := m, action := a, due := latchFrame s, mbx := mbx } } }

def execModeReqArm (mbx : BitVec 4) (m : BitVec 8) (s : State) : Res := .next (modeReqHandler mbx.toNat m.toNat 1 s)
def execModeReqSwitch (mbx : BitVec 4) (m : BitVec 8) (s : State) : Res := .next (modeReqHandler mbx.toNat m.toNat 2 s)
def execModeReqDisarm (mbx : BitVec 4) (m : BitVec 8) (s : State) : Res := .next (modeReqHandler mbx.toNat m.toNat 3 s)
def execModeReqDirect (mbx : BitVec 4) (m : BitVec 8) (s : State) : Res := .next (modeReqHandler mbx.toNat m.toNat 4 s)

/-! ### SEAT_FEED (R248). -/

/-- The machine whose seats run: in SIMULATION the simulated one. -/
def runningRec (s : State) : ModeRec := if s.modes.m.mode = 14 then s.modes.sim else s.modes.m

/-- A value with the quality that a signal of it takes (R73). -/
abbrev QV := OQ × Qual

def sigV (s : State) (i : Nat) : QV := (sigNum s i, sigQ s i)
def constV (v : OQ) : QV := (v, if v.isNone then qNan else qGood)

/-- A value computed from inputs: NaN when one of them is, with the worst of their qualities (R71, R73). -/
def calcV (l : List QV) (v : Rat) : QV := (if anyNan (l.map (fun p => p.1)) then none else some v, qWorst (l.map (fun p => p.2)))

def writeV (i : Nat) (v : QV) (t : Word) (s : State) : State := writeNum i v.1 v.2 t s

/-- The state estimate that a seat works on: N, E, heading in turns, u, v, r; in SIMULATION the simulated state (R248). -/
def estimate (s : State) : List QV :=
  if s.modes.m.mode = 14 then s.modes.simX.map constV
  else let o := sgi (ob s 0 4); (obsOut s).zipIdx.map (fun p => (p.1, sigQ s (o + p.2)))

def estV (s : State) (k : Nat) : QV := (estimate s).getD k (none, qNan)
def estQ (s : State) (k : Nat) : Rat := (estV s k).1.getD 0

/-- A vector in earth axes turned into body axes at a heading in turns. -/
def toBody (psi n e : Rat) : Rat × Rat :=
  let c := cosTurns psi
  let t := sinTurns psi
  (c * n + t * e, -t * n + c * e)

/-- The part of a vector outside a circle of a radius. -/
def outside (r n e : Rat) : Rat × Rat :=
  let d2 := n * n + e * e
  if d2 ≤ r * r then (0, 0)
  else let d := sqrtQ d2; (n * (1 - r / d), e * (1 - r / d))

/-- A difference of angles in turns, brought to [-1/2, 1/2), in radians. -/
def angRad (d : Rat) : Rat := (d - ((d + 1 / 2).floor : Rat)) * (2 * piQ)

/-- Errors e_x, e_y, e_psi and the along-track speed error of a mode (Table 7-11). -/
def cigErrors (s : State) (m : Nat) : List QV :=
  let p := setPt s m
  let pos := [estV s 0, estV s 1, constV p.n, constV p.e]
  let n := p.n.getD 0
  let e := p.e.getD 0
  let nB := p.nB.getD 0
  let eB := p.eB.getD 0
  let psi := estQ s 2
  let zero := constV (some 0)
  let eh := calcV [estV s 2] (angRad (bamTurns p.psi - psi))
  let body (d : Rat × Rat) (l : List QV) : List QV := let b := toBody psi d.1 d.2; [calcV (estV s 2 :: l) b.1, calcV (estV s 2 :: l) b.2]
  match lawOf m with
  | .mpcH => [zero, zero, eh, zero]
  | .mpcA => body (outside (modeParam s m) (n - estQ s 0) (e - estQ s 1)) pos ++ [eh, zero]
  | .mpcV => body (outside (modeParam s m) (nB - estQ s 0) (eB - estQ s 1)) [estV s 0, estV s 1, constV p.nB, constV p.eB] ++ [zero, zero]
  | .mpcT =>
    let tn := nB - n
    let te := eB - e
    let len := sqrtQ (tn * tn + te * te)
    let leg := [constV p.n, constV p.e, constV p.nB, constV p.eB]
    let cross := if len = 0 then Config.openQ 4 [tn, te] else (tn * (estQ s 1 - e) - te * (estQ s 0 - n)) / len
    [zero, calcV (estV s 0 :: estV s 1 :: leg) (-cross), calcV (estV s 2 :: leg) (angRad (atan2Turns te tn - psi)),
      calcV [estV s 3, constV p.speed] (p.speed.getD 0 - estQ s 3)]
  | _ => body (n - estQ s 0, e - estQ s 1) pos ++ [eh, zero]

/-- Stick demand of law STICK: 0 when a stick signal is STALE or NAN (Table 7-12). -/
def stick (s : State) : List Rat × Qual :=
  let b := sgi (sm s 0x28 4)
  let q := sigsQual s [b, b + 1, b + 2]
  if q = qStale ∨ q = qNan then ([0, 0, 0], qSubst) else ([0, 1, 2].map (fun k => (sigNum s (b + k)).getD 0), if q = qGood then qGood else qSubst)

/-- Fixed demand of a mode (Table 7-11). -/
def fixedDemand (s : State) (m : Nat) : List QV :=
  let zero := constV (some 0)
  match lawOf m with
  | .mpcH => if m = 13 then [zero, zero, zero] else let b := sgi (sm s 0x28 4); [sigV s b, sigV s (b + 1), zero]
  | .mpcW => let b := sgi (sm s 0x44 4); [sigV s b, sigV s (b + 1), sigV s (b + 2)]
  | _ => [zero, zero, zero]

/-- Environmental force of DOF d: the bias turned into body axes plus the wind feedforward. DESIGN CHOICE, log 147: the simulated state holds no bias, so
SIMULATION turns the observer's by the simulated heading. -/
def envForce (s : State) (d : Nat) : QV :=
  let o := sgi (ob s 0 4) + 6
  let f := sigV s (sgi (ob s 0x14 4) + d)
  let bv (k : Nat) : Rat := (sigNum s (o + k)).getD 0
  let ff := f.1.getD 0
  if d = 2 then calcV [sigV s (o + 2), f] (bv 2 + ff)
  else
    let b := toBody (estQ s 2) (bv 0) (bv 1)
    calcV [estV s 2, sigV s o, sigV s (o + 1), f] ((if d = 0 then b.1 else b.2) + ff)

def cigSig (s : State) (seat : Nat) : Nat := sgi (th s (if seat = 0 then 0x18 else 0x1C) 4)

def seatFeedEffect (seat : Nat) (s : State) : State :=
  let t := opTime s 48
  let b := cigSig s seat
  let m0 := seatMode (runningRec s) seat
  let m := if m0 = 0 then 2 else m0
  let law := lawOf m
  let wq (k : Nat) : Rat := if !isMpc law then 0
    else if law = .mpcH ∧ k < 2 then 0 else if law = .mpcV ∧ k = 2 then 0 else ((sme s m (4 + 4 * k) 4 : Nat) : Rat) / 65536
  let e := cigErrors s m
  let vals : List QV :=
    e.take 3 ++ [estV s 3, estV s 4, estV s 5, envForce s 0, envForce s 1, envForce s 2] ++ fixedDemand s m
      ++ [0, 1, 2].map (fun k => constV (some (wq k))) ++ [0, 1, 2].map (fun k => constV (some (((sme s m (0x10 + 4 * k) 4 : Nat) : Rat) / 65536)))
      ++ e.drop 3 ++ [0, 1, 2].map (fun k => (some (s.modes.bounds.getD k 0), s.modes.giveQ))
  let s := vals.zipIdx.foldl (fun s p => writeV (b + p.2) p.1 t s) s
  writeSig (b + 23) 0 qGood t (writeSig (b + 22) (Config.layoutWord 7 [lawNo law]) qGood t s)

def execSeatFeed (seat : BitVec 1) (s : State) : Res :=
  issue 6 0 (opWord 6 0x31 seat.toNat) (seatFeedEffect seat.toNat) s

/-! ### SEAT_TAKE (R249, R250). -/

/-- Length of block j of a seat in prediction steps (R264). -/
def blkLen (s : State) (seat j : Nat) : Nat :=
  if seatDesc s seat 1 1 ≤ 24 then seatDesc s seat (8 + j) 1 else th s (seatDesc s seat 8 4 + j) 1

/-- The block that contains a plan time in frames, and whether the time has passed the last one. -/
def blockAt (s : State) (seat nb per time : Nat) : Nat × Bool :=
  let ends := (List.range nb).map (fun j => per * ((List.range (j + 1)).map (blkLen s seat)).foldl (· + ·) 0)
  match ends.findIdx? (fun e => decide (time < e)) with
  | some j => (j, false)
  | none => (nb - 1, true)

/-- Accept a new solve or advance the plan (R249, R250). The first SEAT_TAKE has no earlier count to compare with. -/
def planStep (seat m : Nat) (s : State) : State :=
  let tpl := seatDesc s seat 0 1
  let nb := seatDesc s seat 1 1
  let ob' := sgi (qd s tpl 0x28 4)
  let xb := sgi (qd s tpl 0x24 4)
  let p := plan s seat
  let wc := entWcnt (ent s ob')
  let isNew := p.seen ≠ 256 ∧ wc ≠ p.seen
  let p := { p with seen := wc }
  let qs := (List.range (qN s tpl)).map (fun k => sigQ s (xb + k))
  let ok := sigW s ob' == 0 && qs.all (fun q => q == qGood || q == qSubst)
  if isNew ∧ ok = true then
    let v (k : Nat) : Rat := (sigNum s (xb + k)).getD 0
    setPlan seat { p with blocks := (List.range nb).map (fun j => (v (3 * j), v (3 * j + 1), v (3 * j + 2))), qual := qWorst qs, time := 0, rejects := 0, ended := false } s
  else
    let time := p.time + s.hdr.p
    let at' := blockAt s seat nb (qd s tpl 0x0C 4) time
    let late := at'.2 && !p.blocks.isEmpty
    let n := if isNew then p.rejects + 1 else p.rejects
    let s := setPlan seat { p with time := time, rejects := n, ended := p.ended || late } s
    let s := if isNew then raise 0x0709 (w32 seat) (sigW s ob') (w32 n) s else s
    if late && !p.ended then raise 0x070A (w32 seat) (w32 m) (w32 (time / s.hdr.p)) s else s

def seatTakeEffect (seat : Nat) (s : State) : State :=
  let nb := seatDesc s seat 1 1
  let t := opTime s (16 + nb)
  let m := seatMode (runningRec s) seat
  let b := seatTau s seat
  let s := planStep seat m s
  let put (v : List QV) (s : State) : State := v.zipIdx.foldl (fun s p => writeV (b + p.2) p.1 t s) s
  let law := lawOf m
  if isMpc law then
    let p := plan s seat
    let at' := blockAt s seat nb (qd s (seatDesc s seat 0 1) 0x0C 4) p.time
    match p.blocks[at'.1]? with
    | some x => put (List.zipWith (fun v f => (oAdd (some v) f.1, qWorst [p.qual, f.2])) [x.1, x.2.1, x.2.2] (fixedDemand s m)) s
    | none => put (List.replicate 3 (none, qNan)) s
  else if law = .stick then let k := stick s; put (k.1.map (fun v => (some v, k.2))) s
  else put (List.replicate 3 (some 0, qGood)) s

def execSeatTake (seat : BitVec 1) (s : State) : Res :=
  issue 6 0 (opWord 6 0x32 seat.toNat) (seatTakeEffect seat.toNat) s

/-! ### TAU_MIX (R244 to R246). -/

/-- τ of a mode in a seat: 0 for the laws without one. -/
def tauOf (s : State) (m seat : Nat) : List QV :=
  match lawOf m with
  | .none | .zero | .test => List.replicate 3 (some 0, qGood)
  | _ => [0, 1, 2].map (fun k => sigV s (seatTau s seat + k))

/-- The mixed demand of a machine, its state after, and whether the incoming τ is NaN before the end (R244, R246). Where the outgoing τ is NaN the
demand is the incoming one alone. -/
def mixRec (s : State) (r : ModeRec) (inner : List QV) : List QV × ModeRec × Bool :=
  let tau (m seat : Nat) : List QV := if m = 14 then inner else tauOf s m seat
  if r.ho then
    let o := tau (if r.direct then r.outgoing else r.mode) r.seat
    let i := tau r.incoming (1 - r.seat)
    let lost := anyNan (o.map (fun p => p.1))
    let a := if lost then 1 else min (r.alpha + r.step) 1
    let t := if lost then i
      else List.zipWith (fun x y => calcV [x, y] (x.1.getD 0 + a * (y.1.getD 0 - x.1.getD 0))) o i
    (t, { r with alpha := a, hoCyc := r.hoCyc + 1 }, anyNan (i.map (fun p => p.1)) && decide (r.alpha < 1))
  else (tau r.mode r.seat, r, false)

/-- The hand-over is complete: the incoming seat becomes the active one. -/
def hoDone (sim : Bool) (r : ModeRec) (s : State) : State :=
  let n : ModeRec := { r with mode := if r.direct then r.mode else r.incoming, seat := 1 - r.seat, incoming := 0, ho := false, direct := false, alpha := 0, failed := false }
  raise 0x0703 (w32 r.outgoing) (w32 n.mode) (w32 r.hoCyc) (setM sim n s)

def tauMixEffect (s : State) : State :=
  let time := opTime s 24
  let b := sgi (th s 0x20 4)
  -- in SIMULATION the demand is that of the simulated machine
  let simMix := mixRec s s.modes.sim []
  let inSim := decide (s.modes.m.mode = 14)
  let s := if inSim then (if simMix.2.2 then abortHo true 3 s else setM true simMix.2.1 s) else s
  let x := mixRec s s.modes.m simMix.1
  let bad := x.2.2 && !x.2.1.direct
  let s := if bad then abortHo false 3 s else setM false x.2.1 s
  let t := if bad then tauOf s s.modes.m.mode s.modes.m.seat else x.1
  let prev (k : Nat) : Rat := s.modes.tauD.getD k 0
  let rate (k : Nat) : Rat := ((smS s (0x30 + 4 * k) 4 : Int) : Rat) * pow2 (entExp (ent s (b + k)))
  let tv (k : Nat) : QV := t.getD k (none, qNan)
  let next (k : Nat) : Rat := match (tv k).1 with
    | some v => prev k + clampQ (-(rate k)) (rate k) (v - prev k)
    | none => prev k
  let d := [0, 1, 2].map next
  let s := { s with modes := { s.modes with tauD := d } }
  let s := [0, 1, 2].foldl (fun s k => writeNum (b + k) (some (d.getD k 0)) (if (tv k).1.isNone then qStale else (tv k).2) time s) s
  let there := [0, 1, 2].all (fun k => (tv k).1 == some (d.getD k 0))
  let r := s.modes.m
  let s := if r.ho && decide (r.alpha = 1) && there then hoDone false r s else s
  let rs := s.modes.sim
  if inSim && rs.ho && decide (rs.alpha = 1) && there then hoDone true rs s else s

def execTauMix (s : State) : Res := issue 6 0 (opWord 6 0x33 0) tauMixEffect s

end Sys2Proof.Machine
end

