-- ==== Sys2Proof/Machine/Alloc.lean ====
section
/-! DEFINITION. Sys2Proof/Machine/Alloc.lean: power sharing and phase-back, allocation output, consequence analysis and the
simulated vessel (R251 to R263). -/

namespace Sys2Proof.Machine

/-! ### The switchboard (R256, R264). -/

def genOff (s : State) : Nat := thrOff s + 64 * nThr s
def gen (s : State) (g off n : Nat) : Nat := th s (genOff s + 8 * g + off) n
def genSec (s : State) (g : Nat) : Nat := gen s g 0 1
def genRated (s : State) (g : Nat) : Rat := ((10 * gen s g 4 2 : Nat) : Rat)
def genBrk (s : State) (g : Nat) : Nat := gen s g 6 2

def caOff (s : State) : Nat := genOff s + 8 * nGen s
def ca (s : State) (g off n : Nat) : Nat := th s (caOff s + 16 * g + off) n

/-- A breaker is closed when its BOOL is true and GOOD (R256). -/
def closed (s : State) (i : Nat) : Bool := sigQ s i == qGood && sigW s i != 0

/-- Tie of section k: it joins k and k + 1, the last one the ends of the ring (R256). -/
def tieSig (s : State) (k : Nat) : Nat := sgi (th s 0x24 4) + 2 * k + 1

/-- Does the tie of section k join two sections? -/
def tieUsed (s : State) (k : Nat) : Bool := decide (k + 1 < nSec s) || (k == 7 && bitOf (th s 5 1) 0)

def tied (s : State) (a b : Nat) : Bool :=
  (decide (b = a + 1) && closed s (tieSig s a)) || (decide (a = b + 1) && closed s (tieSig s b))
    || (bitOf (th s 5 1) 0 && ((a == 7 && b == 0) || (a == 0 && b == 7)) && closed s (tieSig s 7))

/-- Bus group of each section, numbered by its lowest section: as many rounds as there are sections. -/
def busGroups (s : State) : List Nat :=
  let n := nSec s
  (List.range n).foldl (fun (g : List Nat) _ =>
    (List.range n).map (fun a => ((List.range n).filter (fun b => tied s a b)).foldl (fun m b => min m (g.getD b b)) (g.getD a a))) (List.range n)

/-- The bus-group register word (Table 7-18). -/
def busWord (l : List Nat) : Word := w32 ((l.zipIdx.map (fun p => p.1 * 16 ^ p.2)).foldl (· + ·) 0)

/-- Rated power of a section. -/
def secRated (s : State) (k : Nat) : Rat := sumQ (((List.range (nGen s)).filter (fun g => genSec s g = k)).map (genRated s))

/-- Non-DP load of a section; NAN counts as the rated power of the section (R256). -/
def secLoad (s : State) (k : Nat) : Rat := (sigNum s (sgi (th s 0x24 4) + 2 * k)).getD (secRated s k)

/-- Capacity and usable power of a bus group, with a set of generators taken as tripped (R256). -/
def groupPower (s : State) (grp : List Nat) (g : Nat) (trip : Nat → Bool) : Rat × Rat :=
  let cap := sumQ (((List.range (nGen s)).filter (fun i => grp.getD (genSec s i) 99 = g ∧ closed s (genBrk s i) ∧ !trip i)).map (genRated s))
  let load := sumQ (((List.range (nSec s)).filter (fun k => grp.getD k 99 = g)).map (secLoad s))
  (cap, cap * (1 - ((th s 7 1 : Nat) : Rat) / 256) - load)

/-! ### Thrusters. -/

def thrRatedT (s : State) (i : Nat) : Rat := ((thr s i 0x1C 4 : Nat) : Rat) / 256
def thrRatedP (s : State) (i : Nat) : Rat := ((thr s i 0x20 4 : Nat) : Rat)
def thrSec (s : State) (i : Nat) : Nat := thr s i 1 1
def thrAz (s : State) (i : Nat) : Bool := thr s i 0 1 == 1
def fbSig (s : State) (i : Nat) : Nat := sgi (thr s i 0x34 4)
def workSig (s : State) (i : Nat) : Nat := sgi (thr s i 0x38 4)
def thrAvail (s : State) (i : Nat) : Bool := sigTrue s (fbSig s i)

/-- Power for a thrust, and thrust for a power (R256). -/
def powerOfThrust (s : State) (i : Nat) (t : Rat) : Rat := let x := t / thrRatedT s i; thrRatedP s i * x * sqrtQ x
def thrustOfPower (s : State) (i : Nat) (p : Rat) : Rat := thrRatedT s i * pow23Q (p / thrRatedP s i)

/-- The thrust the last accepted allocation gave. -/
def fPrev (s : State) (i : Nat) : OQ :=
  let w := workSig s i
  if thrAz s i then (oAdd (oMul (sigNum s (w + 1)) (sigNum s (w + 1))) (oMul (sigNum s (w + 2)) (sigNum s (w + 2)))).map sqrtQ
  else (sigNum s (w + 2)).map absQ

/-- The FLR limit of a thruster: its rated power without a phase-back. -/
def flrLimit (s : State) (i : Nat) : Rat := ((s.modes.flrLim.find? (fun p => p.1 = i)).map (fun p => p.2)).getD (thrRatedP s i)

/-- The sharing of R256 among thrusters: what each is given, after four rounds. A thruster whose need is NaN stays open. -/
def sharePower (s : State) (u : Rat) (thrs : List Nat) : List (Nat × Rat) :=
  let u := max u 0
  let round (x : List Nat × List (Nat × Rat)) : List Nat × List (Nat × Rat) :=
    let rest := u - sumQ (x.2.map (fun p => p.2))
    let tot := sumQ (x.1.map (thrRatedP s))
    let share (i : Nat) : Rat := rest * thrRatedP s i / tot
    let need (i : Nat) : OQ := (fPrev s i).map (fun f => powerOfThrust s i f * 5 / 4)
    let met (i : Nat) : Bool := match need i with
      | some v => decide (v < share i)
      | none => false
    (x.1.filter (fun i => !met i), x.2 ++ (x.1.filter met).map (fun i => (i, (need i).getD 0)))
  let r := round (round (round (round (thrs, []))))
  -- the last round's share of those still open
  let r3 := round (round (round (thrs, [])))
  let rest := u - sumQ (r3.2.map (fun p => p.2))
  let tot := sumQ (r3.1.map (thrRatedP s))
  r.2 ++ r.1.map (fun i => (i, rest * thrRatedP s i / tot))

/-- Cap of a thruster for what it is given. -/
def capFor (s : State) (i : Nat) (g : Rat) : Rat := min (thrustOfPower s i (min g (flrLimit s i))) (thrRatedT s i)

/-- The 3-vector of B for a unit force along x, and along y (R251). -/
def colB (s : State) (i : Nat) : List Rat × List Rat :=
  let x : Rat := ((thrS s i 4 2 : Int) : Rat) / 100
  let y : Rat := ((thrS s i 6 2 : Int) : Rat) / 100
  if thrAz s i then ([1, 0, -y], [0, 1, x])
  else
    let a := bamTurns (w32 (thr s i 8 4))
    let c := cosTurns a
    let t := sinTurns a
    ([c, t, x * t - y * c], [0, 0, 0])

/-- Force bounds: sums of |B| cap over the thrusters. -/
def forceBounds (s : State) (caps : List (Nat × Rat)) : List Rat :=
  [0, 1, 2].map (fun d => sumQ (caps.map (fun p =>
    let b := colB s p.1
    (absQ (b.1.getD d 0) + absQ (b.2.getD d 0)) * p.2)))

/-- Pack cycles of the phase-back that remain, begun ones counted whole (R257, Table 7-18). -/
def flrRemain (s : State) : Nat := if s.modes.flrLim.isEmpty then 0 else (s.modes.flrEnd - s.seq.k + s.hdr.p - 1) / s.hdr.p

/-- The release of a phase-back, recorded for each bus group that it held (R257). -/
def flrRelease (s : State) : State :=
  if s.modes.flrLim.isEmpty then s
  else
    ((List.range 8).filter (fun g => bitOf s.modes.flrGrp g)).foldl (fun s g => raise 0x0711 (w32 g) 0 0 s)
      { s with modes := { s.modes with flrLim := [], flrEnd := 0, flrGrp := 0 } }

/-- FLR_RELEASE: FLR_HOLD pack cycles have passed and the phase-back ends. -/
def execFlrRelease (s : State) : Res := .next (if s.modes.flrEnd ≤ s.seq.k then flrRelease s else s)

/-- Import the PWR item: phase-back, sectors, allocation hold, last accepted commands and forces, CA counts (R368, R369). -/
def pwrImport (s : State) : State :=
  let x := eqTake 5 0 s
  match x.1 with
  | some (.pwr b) =>
    let s := x.2
    let t := opTime s (16 + 12 * nThr s)
    let s := { s with modes := { s.modes with
      flrLim := b.flrLim, flrEnd := s.seq.k + s.hdr.p * b.flrLeft, flrGrp := b.flrGrp, holdCyc := b.holdCyc, hold := b.holdCyc != 0
      thr := b.thrs.zipIdx.foldl (fun m p => tset {} m p.2 { sided := p.1.sided, pin0 := p.1.pin0, pin1 := p.1.pin1 }) []
      ca := b.ca.zipIdx.foldl (fun m p => tset {} m p.2 { verdict := p.1.1, fails := p.1.2.1, passes := p.1.2.2.1, alarm := p.1.2.2.2 }) [] } }
    b.thrs.zipIdx.foldl (fun s p =>
      let c := cmdSig s p.2
      let w := workSig s p.2
      let s := if p.1.sided then
          (let s := if 1 ≤ thr s p.2 3 1 then writeSig (w + 3) (w32 (b2n p.1.side0)) qGood t s else s
           if 2 ≤ thr s p.2 3 1 then writeSig (w + 4) (w32 (b2n p.1.side1)) qGood t s else s)
        else s
      let s := p.1.cmd.zipIdx.foldl (fun s q => writeSig (c + q.2) q.1 (sigQ s (c + q.2)) t s) s
      p.1.force.zipIdx.foldl (fun s q => writeSig (w + 1 + q.2) q.1 qGood t s) s) s
  | _ => x.2

/-- PWR_SHARE (R256). -/
def pwrShareEffect (s : State) : State :=
  let s := pwrImport s
  let t := opTime s (32 + 8 * nThr s)
  let grp := busGroups s
  let gs := (List.range (nSec s)).filter (fun k => grp.getD k 99 = k)
  let gives := gs.flatMap (fun g =>
    let u := (groupPower s grp g (fun _ => false)).2
    sharePower s u ((List.range (nThr s)).filter (fun i => grp.getD (thrSec s i) 99 = g ∧ thrAvail s i)))
  let caps := gives.map (fun p => (p.1, capFor s p.1 p.2))
  let q := sigsQual s ((List.range (nSec s)).map (fun k => sgi (th s 0x24 4) + 2 * k))
  let q := if q = qNan then qSubst else q
  let s := { s with modes := { s.modes with
    busGrp := busWord grp, bounds := forceBounds s caps, giveQ := q
    give := gives.foldl (fun m p => tset 0 m p.1 p.2) [] } }
  (List.range (nThr s)).foldl (fun s i =>
    let c := ((caps.find? (fun p => p.1 = i)).map (fun p => p.2)).getD 0
    writeNum (workSig s i) (some c) q t s) s

def execPwrShare (s : State) : Res := issue 6 0 (opWord 6 0x34 0) pwrShareEffect s

/-- The limit of pwr_lim: the smaller of what PWR_SHARE gave and the phase-back. -/
def pwrLimit (s : State) (i : Nat) : Rat := min (tget 0 s.modes.give i) (flrLimit s i)

/-- Write pwr_lim of a thruster; its quality is that of what the power sharing read (R73). -/
def writeLimit (i : Nat) (q : Qual) (t : Word) (s : State) : State := writeNum (cmdSig s i + 2) (some (pwrLimit s i)) q t s

/-- The phase-back of a bus group with tripped generators (R257): trip and, where the measured power of its thrusters exceeds what is usable,
limits in proportion. A NaN power gives no sum that exceeds it (R71); a further trip restarts a hold in force. -/
def flrGroup (trips : List Nat) (grp : List Nat) (t : Word) (bg : Nat) (s : State) : State :=
  let cu := groupPower s grp bg (fun i => trips.contains i)
  let thrs := (List.range (nThr s)).filter (fun i => grp.getD (thrSec s i) 99 = bg)
  let dg := oSum (thrs.map (fun i => sigNum s (fbSig s i + 1)))
  let fin := s.seq.k + s.hdr.p * th s 0x2C 2
  let s := (trips.filter (fun g => grp.getD (genSec s g) 0 = bg)).foldl (fun s g => raise 0x070F (w32 g) (w32 bg) (i32 (roundEven cu.1)) s) s
  let above := match dg with
    | some d => decide (cu.2 < d)
    | none => false
  let s := if above || !s.modes.flrLim.isEmpty then { s with modes := { s.modes with flrEnd := fin } } else s
  if above then
    let d := dg.getD 0
    let lims := thrs.map (fun i => (i, (sigNum s (fbSig s i + 1)).getD 0 * max cu.2 0 / d))
    let q := sigsQual s (thrs.map (fun i => fbSig s i + 1))
    let s := { s with modes := { s.modes with
      flrLim := lims ++ s.modes.flrLim.filter (fun p => !thrs.contains p.1)
      flrGrp := s.modes.flrGrp ||| 2 ^ bg } }
    let s := thrs.foldl (fun s i => writeLimit i (qWorst [q, s.modes.giveQ]) t s) s
    raise 0x0710 (w32 bg) (i32 (roundEven d)) (i32 (roundEven cu.2)) s
  else s

/-- Is a quality STALE or NAN? -/
def qLost (q : Qual) : Bool := q == qStale || q == qNan

/-- FLR (R257): the end of a hold, breaker signals that become STALE or NAN, of generators and of ties, and trips. -/
def flrEffect (s : State) : State :=
  let s := pwrImport s
  let t := opTime s (40 + 4 * nThr s)
  let s := if !s.modes.flrLim.isEmpty && decide (s.modes.flrEnd ≤ s.seq.k) then flrRelease s else s
  let now := (List.range (nGen s)).map (fun g => (sigW s (genBrk s g) != 0, sigQ s (genBrk s g)))
  let ties := (List.range (nSec s)).map (fun k => sigQ s (tieSig s k))
  let pairs := (now.zip s.modes.brkPrev).zipIdx
  let trips := (pairs.filter (fun p => p.1.1 == (false, qGood) && p.1.2 == (true, qGood))).map (fun p => p.2)
  let lost := (pairs.filter (fun p => qLost p.1.1.2 && !qLost p.1.2.2)).map (fun p => (p.2, genBrk s p.2))
  let lostTies := ((ties.zip s.modes.tiePrev).zipIdx.filter (fun p => qLost p.1.1 && !qLost p.1.2 && tieUsed s p.2)).map (fun p => (p.2, tieSig s p.2))
  let grp := busGroups s
  let s := { s with modes := { s.modes with brkPrev := now, tiePrev := ties } }
  let s := (lost ++ lostTies).foldl (fun s p => raise 0x0712 (w32 p.1) (w32 p.2) 0 s) s
  ((List.range (nSec s)).filter (fun bg => trips.any (fun g => grp.getD (genSec s g) 99 = bg))).foldl (fun s bg => flrGroup trips grp t bg s) s

def execFlr (s : State) : Res := issue 6 0 (opWord 6 0x35 0) flrEffect s

/-! ### ALLOC_OUT (R252 to R255). -/

/-- The template with a role in TPL_ROLE (Table 7-15). -/
def roleTpl (s : State) (role : Nat) : Option Nat := (List.range 16).find? (fun t => th s (8 + t) 1 % 16 == role)

/-- Force of a thruster in an allocation solution: f_x, f_y in vessel axes for AZIMUTH, (f, 0) along ALPHA for FIXED. -/
def thrForce (s : State) (x : Nat → Rat) (i : Nat) : Rat × Rat :=
  let v := thr s i 0x3D 1
  if thrAz s i then (x v, x (v + 1)) else (x v, 0)

/-- Is an azimuth within the half-turn that starts at a? Both ends belong to it (R252). -/
def inHalf (a g : Word) : Bool := (g - a).toNat ≤ 2147483648

def sectA1 (s : State) (i k : Nat) : Word := w32 (thr s i (0x0C + 8 * k) 4)
def sectA2 (s : State) (i k : Nat) : Word := w32 (thr s i (0x10 + 8 * k) 4)
def sideSig (s : State) (i k : Nat) : Nat := workSig s i + 3 + k

/-- The side that an azimuth selects: that whose range alone holds it, and else the present one (R252); true is HIGH. -/
def sideOf (s : State) (i k : Nat) (az : Word) : Bool :=
  let inLow := inHalf (sectA1 s i k - 0x80000000#32) az
  let inHigh := inHalf (sectA2 s i k) az
  if inLow && !inHigh then false else if inHigh && !inLow then true else sigW s (sideSig s i k) != 0

def writeSide (i k : Nat) (side : Bool) (s : State) : State := writeSig (sideSig s i k) (if side then 1 else 0) qGood (opTime s (16 + 12 * nThr s)) s

/-- Keep the side BOOL of one sector from an accepted command (R252). The consecutive solves at the edge are those of one selected side. -/
def sectorSide (i k : Nat) (az : Word) (s : State) : State :=
  let st := tget {} s.modes.thr i
  let side := sideOf s i k az
  let kept := side == (sigW s (sideSig s i k) != 0)
  let edge := if side then sectA2 s i k else sectA1 s i k
  let pinned := decide (absQ ((bamDiff az edge : Int) : Rat) * 360 / 4294967296 ≤ ((thr s i 0x3C 1 : Nat) : Rat))
  let run := if pinned then (if !kept then 0 else if k = 0 then st.pin0 else st.pin1) + 1 else 0
  let turn := decide (th s 6 1 ≤ run)
  let run := if turn then 0 else run
  let st := if k = 0 then { st with pin0 := run } else { st with pin1 := run }
  let s := writeSide i k (side != turn) { s with modes := { s.modes with thr := tset {} s.modes.thr i st } }
  if turn then raise 0x070E (w32 i) (w32 k) (w32 (b2n (side != turn))) s else s

/-- After a reset the side of each sector is chosen from the thruster's actual azimuth (R252). -/
def firstSide (i : Nat) (s : State) : State :=
  if (tget {} s.modes.thr i).sided then s
  else
    let az := sigW s (fbSig s i + 4)
    let s := (List.range (thr s i 3 1)).foldl (fun s k => writeSide i k (sideOf s i k az) s) s
    { s with modes := { s.modes with thr := tmod {} s.modes.thr i (fun v => { v with sided := true }) } }

/-- The command group of one thruster from an accepted result, whose quality is q, or held (R253 to R255). -/
def thrCommand (acc : Option (Nat → Rat)) (q : Qual) (i : Nat) (s : State) : State :=
  let t := opTime s (16 + 12 * nThr s)
  let b := cmdSig s i
  let m := s.modes.m.mode
  let test := sgi (sm s 0x3C 4)
  let keep (f : Qual → Qual) (j : Nat) (s : State) : State := writeSig j (sigW s j) (f (sigQ s j)) t s
  let hold (f : Qual → Qual) (s : State) : State := keep f (b + 1) (keep f b s)
  let s :=
    if m = 1 ∨ m = 14 then writeSig (b + 3) 0 qGood t (hold id s)
    else if m = 12 then
      if !sigNan s test && (sigW s test).toNat == i then
        let v := sigV s (test + 1)
        let c := sigV s (workSig s i)
        let cap := c.1.getD 0
        let s := writeV b (calcV [v, c] (clampQ (-cap) cap (v.1.getD 0))) t s
        writeSig (b + 3) 2 qGood t (writeSig (b + 1) (sigW s (test + 2)) (sigQ s (test + 2)) t s)
      else writeSig (b + 3) 0 qGood t s
    else
      match acc with
      | some x =>
        let f := thrForce s x i
        let mag := if thrAz s i then sqrtQ (f.1 * f.1 + f.2 * f.2) else f.1
        let tiny := decide (mag < ((thr s i 0x24 4 : Nat) : Rat) / 256)
        let az := if thrAz s i then (if tiny then sigW s (b + 1) else bamOf (atan2Turns f.2 f.1)) else w32 (thr s i 8 4)
        let s := writeNum b (some mag) q t s
        let s := writeSig (b + 1) az q t s
        let s := (List.range (thr s i 3 1)).foldl (fun s k => sectorSide i k az s) s
        writeSig (b + 3) 1 qGood t s
      | none => writeSig (b + 3) 1 qGood t (hold (fun _ => qSubst) s)
  writeLimit i s.modes.giveQ t s

/-- ALLOC_HOLD_MAX held cycles: LOST is set and recorded once (R254). -/
def allocLost (s : State) : State :=
  if s.modes.hold && !s.modes.lost then
    raise 0x070C (s.modes.holdCyc.setWidth 32) (w32 s.modes.result) 0 { s with modes := { s.modes with lost := true } }
  else s

def execAllocLost (s : State) : Res := .next (if th s 0x2E 2 ≤ s.modes.holdCyc.toNat then allocLost s else s)

def allocOutEffect (s : State) : State :=
  let s := pwrImport s
  let t := opTime s (16 + 12 * nThr s)
  let tpl := (roleTpl s 3).getD 0
  let ob' := sgi (qd s tpl 0x28 4)
  let xb := sgi (qd s tpl 0x24 4)
  let n := qN s tpl
  let res := (sigW s ob').toNat
  let qs := (List.range n).map (fun k => sigQ s (xb + k))
  let ok := res == 0 && qs.all (fun q => q == qGood || q == qSubst)
  let q := qWorst qs
  let x (k : Nat) : Rat := (sigNum s (xb + k)).getD 0
  let s := { s with modes := { s.modes with result := res } }
  let s := (List.range (nThr s)).foldl (fun s i => firstSide i s) s
  let tau := sgi (ob s 4 4)
  let s :=
    if ok then
      let s := if s.modes.hold then
          raise 0x070D (s.modes.holdCyc.setWidth 32) 0 0 { s with modes := { s.modes with hold := false, lost := false, holdCyc := 0 } }
        else s
      let f (d : Nat) : Rat := sumQ ((List.range (nThr s)).map (fun i =>
        let v := thrForce s x i
        let b := colB s i
        b.1.getD d 0 * v.1 + b.2.getD d 0 * v.2))
      let s := [0, 1, 2].foldl (fun s d => writeNum (tau + d) (some (f d)) q t s) s
      (List.range (nThr s)).foldl (fun s i =>
        let v := thrForce s x i
        let w := workSig s i
        writeNum (w + 2) (some (if thrAz s i then v.2 else v.1)) q t (writeNum (w + 1) (some v.1) q t s)) s
    else
      let first := !s.modes.hold
      let s := { s with modes := { s.modes with hold := true, holdCyc := if first then 1 else if s.modes.holdCyc = 0xFFFF#16 then s.modes.holdCyc else s.modes.holdCyc + 1 } }
      let s := if first then raise 0x070B (w32 res) (sigW s (ob' + 2)) 0 s else s
      let s := if th s 0x2E 2 ≤ s.modes.holdCyc.toNat then allocLost s else s
      [0, 1, 2].foldl (fun s d => writeSig (tau + d) (sigW s (tau + d)) qSubst t s) s
  (List.range (nThr s)).foldl (fun s i => thrCommand (if ok then some x else none) q i s) s

def execAllocOut (s : State) : Res := issue 6 0 (opWord 6 0x36 0) allocOutEffect s

/-! ### Consequence analysis (R259 to R261). -/

/-- CA_PREP: the demand and the caps of a failure group (R260). -/
def caPrepEffect (g : Nat) (s : State) : State :=
  let t := opTime s (24 + 8 * nThr s)
  let b := sgi (ca s g 12 4)
  let cig := cigSig s (runningRec s).seat
  let mar : Rat := ((ca s g 8 2 : Nat) : Rat) / 256
  let q := sigsQual s [cig + 6, cig + 7, cig + 8]
  let secs := ca s g 1 1
  let mask := ca s g 4 4
  let grp := busGroups s
  let gone (i : Nat) : Bool := bitOf mask i || bitOf secs (thrSec s i)
  let gs := (List.range (nSec s)).filter (fun k => grp.getD k 99 = k)
  let gives := gs.flatMap (fun k =>
    let u := (groupPower s grp k (fun i => bitOf secs (genSec s i))).2
    sharePower s u ((List.range (nThr s)).filter (fun i => grp.getD (thrSec s i) 99 = k ∧ thrAvail s i ∧ !gone i)))
  let s := [0, 1, 2].foldl (fun s d => writeNum (b + d) ((sigNum s (cig + 6 + d)).map (fun v => -(v * mar))) q t s) s
  (List.range (nThr s)).foldl (fun s i =>
    let c := ((gives.find? (fun p => p.1 = i)).map (fun p => capFor s i p.2)).getD 0
    writeNum (b + 3 + i) (some c) qGood t s) s

def execCaPrep (g : BitVec 3) (s : State) : Res := issue 6 0 (opWord 6 0x37 g.toNat) (caPrepEffect g.toNat) s

/-- CA_EVAL: the verdict of a group's last solve and the CONSEQUENCE alarm (R261). -/
def caEvalEffect (g : Nat) (s : State) : State :=
  let tpl := ca s g 0 1
  let ob' := sgi (qd s tpl 0x28 4)
  let xb := sgi (qd s tpl 0x24 4) + qN s tpl - 3
  let b := sgi (ca s g 12 4)
  let res := (sigW s ob').toNat
  let dq := sigsQual s [b, b + 1, b + 2]
  let tol : Rat := ((ca s g 3 1 : Nat) : Rat) / 256
  let excess (d : Nat) : Rat :=
    let sl := absQ ((sigNum s (xb + d)).getD 0)
    sl - tol * absQ ((sigNum s (b + d)).getD 0) - pow2 (entExp (ent s (xb + d)))
  let pass := res == 0 && [0, 1, 2].all (fun d => !sigNan s (xb + d) && decide (excess d ≤ 0))
  let worst := ([1, 2].foldl (fun (m : Nat) d => if excess m < excess d then d else m) 0)
  let v := tget {} s.modes.ca g
  let v : CaGroup := if dq = qStale ∨ dq = qNan then { v with verdict := 2 }
    else if pass then { v with verdict := 1, passes := v.passes + 1, fails := 0 }
    else { v with verdict := 3, fails := v.fails + 1, passes := 0 }
  let cnt := ca s g 2 1
  let up := v.verdict = 3 ∧ cnt ≤ v.fails ∧ !v.alarm
  let v := if up then { v with alarm := true } else v
  let s := { s with modes := { s.modes with ca := tset {} s.modes.ca g v } }
  let s := if up then raise 0x0713 (w32 g) (w32 res) (w32 worst) s else s
  let groups := List.range (th s 3 1)
  let any := groups.any (fun k => (tget {} s.modes.ca k).alarm)
  let clear := any && groups.all (fun k => decide (ca s k 2 1 ≤ (tget {} s.modes.ca k).passes))
  let s := if clear then
      let mask := (groups.map (fun k => if (tget {} s.modes.ca k).alarm then 2 ^ k else 0)).foldl (· + ·) 0
      raise 0x0714 (w32 mask) 0 0 { s with modes := { s.modes with ca := groups.foldl (fun m k => tmod {} m k (fun c => { c with alarm := false })) s.modes.ca } }
    else s
  writeSig (sgi (sm s 0x2C 4) + 5) (w32 (b2n (groups.any (fun k => (tget {} s.modes.ca k).alarm)))) qGood (opTime s 20) s

def execCaEval (g : BitVec 3) (s : State) : Res := issue 6 0 (opWord 6 0x38 g.toNat) (caEvalEffect g.toNat) s

/-! ### The simulated vessel (R263). -/

/-- Force of a flow of a speed from a direction in turns on a vessel of a heading and velocity, through the wind block. -/
def flowForce (s : State) (speed dir psi u v : Rat) (d : Nat) : Rat :=
  let b := toBody psi (speed * cosTurns dir) (speed * sinTurns dir)
  let ax := b.1 + u
  let ay := b.2 + v
  let v2 := ax * ax + ay * ay
  let g := bamOf (atan2Turns ay ax)
  sfxVal (w32 (wb s (4 * d) 4)) (wbS s 0x00C 1) * v2 * windCoef s (if d = 0 then 0x020 else if d = 1 then 0x0B4 else 0x148) g

/-- SIM_STEP (R263). A result is NaN when an operand is (R71); its quality is the worst of the signals read (R73). -/
def simStepEffect (s : State) : State :=
  if s.modes.m.mode ≠ 14 then s
  else
    let t := opTime s 96
    let x (k : Nat) : Rat := (s.modes.simX.getD k none).getD 0
    let e := sgi (sm s 0x40 4)
    let tau := sgi (ob s 4 4)
    let ins := [tau, tau + 1, tau + 2, e, e + 1, e + 2, e + 3]
    let sv (k : Nat) : Rat := (sigNum s (e + k)).getD 0
    let ang (k : Nat) : Rat := bamTurns (sigW s (e + k))
    let me := obS s 0x137 1
    let de := obS s 0x138 1
    let force (j : Nat) : Rat := (sigNum s (tau + j)).getD 0 + flowForce s (sv 0) (ang 1) (x 2) (x 3) (x 4) j + flowForce s (sv 2) (ang 3) (x 2) (x 3) (x 4) j
      - sum3 (fun k => mat9 s 0x03C de j k * x (3 + k))
    let acc (d : Nat) : Rat := sum3 (fun j => mat9 s 0x018 me d j * force j)
    let dt := obsDt s
    let c := cosTurns (x 2)
    let sn := sinTurns (x 2)
    let psi := x 2 + dt * x 5 / (2 * piQ)
    let have_ (l : List Nat) (v : Rat) : OQ := if l.all (fun k => (s.modes.simX.getD k none).isSome) then some v else none
    let driven (k : Nat) (v : Rat) : OQ := if ins.any (sigNan s) then none else have_ [2, 3, 4, 5, k] v
    let y : List OQ := [have_ [0, 2, 3, 4] (x 0 + dt * (c * x 3 - sn * x 4)), have_ [1, 2, 3, 4] (x 1 + dt * (sn * x 3 + c * x 4)), have_ [2, 5] (psi - (psi.floor : Rat)),
      driven 3 (x 3 + dt * acc 0), driven 4 (x 4 + dt * acc 1), driven 5 (x 5 + dt * acc 2)]
    let q := sigsQual s ins
    let s := { s with modes := { s.modes with simX := y } }
    let o := sgi (th s 0x28 4)
    let at_ (k : Nat) : OQ := y.getD k none
    let s := writeSig (o + 2) (bamOf ((at_ 2).getD 0)) (if (at_ 2).isNone then qNan else qGood) t s
    [0, 1, 3, 4, 5].foldl (fun s k => writeNum (o + k) (at_ k) (if 3 ≤ k then q else qGood) t s) s

def execSimStep (s : State) : Res := issue 6 0 (opWord 6 0x39 0) simStepEffect s

end Sys2Proof.Machine
end

