-- ==== Sys2Proof/Machine/Ptc.lean ====
section
/-! DEFINITION. Sys2Proof/Machine/Ptc.lean: the PTP clock, its sources, servo and statuses, PPS and the calendar (R389 to R407,
R414 to R418). -/

namespace Sys2Proof.Machine

/-- A field of the time block of TTUT (Table 12-9). -/
def tt (s : State) (off n : Nat) : Nat := fld s .ttut 0 off n

def src (s : State) (i : Nat) : PtcSrc := tget {} s.ptc.srcs i
def modSrc (i : Nat) (f : PtcSrc → PtcSrc) (s : State) : State := { s with ptc := { s.ptc with srcs := tmod {} s.ptc.srcs i f } }

/-- The index of a source kind in the list, if it is listed. -/
def srcIdx (s : State) (kind : Nat) : Option Nat := (List.range 4).find? (fun i => srcKind s i == kind)

def port (s : State) (p : Nat) : PtpPort := tget {} s.ptc.ports p
def modPort (p : Nat) (f : PtpPort → PtpPort) (s : State) : State := { s with ptc := { s.ptc with ports := tmod {} s.ptc.ports p f } }

/-- A number of seconds in TCLK edges of 250 MHz. -/
def secEdges (n : Nat) : Nat := 250000000 * n

/-- 2^k seconds, for k from -7, in TCLK edges. -/
def logEdges (k : Int) : Nat := 250000000 * 2 ^ (k + 7).toNat / 128

/-- Have so many TCLK edges passed since an edge? -/
def edgesPast (s : State) (since n : Nat) : Bool := decide (since + n ≤ s.ptc.edges)

/-- The PTC time in whole seconds. -/
def ptcSec (s : State) : Nat := ptcNs s / 1000000000

/-- An offset as a saturating two's complement word of whole ns. -/
def offWord (q : Rat) : Word := i32 (clampI (-2147483648) 2147483647 (roundEven q))

/-- Change the time status and record it (R400); the run of consecutive measurements starts again. -/
def setTimeStatus (new : BitVec 2) (s : State) : State :=
  if s.ptc.status = new then s
  else
    let old := s.ptc.status
    let hold := if old = 3 then w32 ((s.cclk - s.ptc.holdFrom) / 400000000) else s.ptc.holdSec
    let s := { s with ptc := { s.ptc with status := new, lockRun := 0, unlockRun := 0, holdSec := hold, holdFrom := if new = 3 then s.cclk else s.ptc.holdFrom } }
    raise 0x0C01 (old.setWidth 32) (new.setWidth 32) (offWord s.ptc.offset) s

/-- The source that R404 selects; 4 is none. -/
def pickSource (s : State) : Nat :=
  let valid := (List.range 4).filter (fun i => (src s i).valid)
  let cur := s.ptc.sel
  match valid.filter (fun i => (src s i).held) with
  | q :: _ => if !valid.contains cur || decide (q < cur) then q else cur
  | [] => if valid.contains cur then cur else valid.headD 4

/-- Apply the selection and record its change (R404). -/
def reselect (s : State) : State :=
  let n := pickSource s
  if n = s.ptc.sel then s
  else raise 0x0C02 (w32 s.ptc.sel) (w32 n) (offWord s.ptc.offset) { s with ptc := { s.ptc with sel := n } }

/-- A source becomes valid or invalid (R392): an invalid source loses its run and its hold at once. -/
def setSrcValid (i : Nat) (v : Bool) (s : State) : State :=
  if (src s i).valid = v then (if v then s else modSrc i (fun x => { x with run := 0 }) s)
  else if v then reselect (modSrc i (fun x => { x with valid := true, held := tt s 0x26 2 == 0, validAt := s.ptc.edges }) s)
  else reselect (modSrc i (fun x => { x with valid := false, held := false, run := 0, discRun := 0 }) s)

/-- A new rate (R402): on the next TCLK edge before the schedule starts, when the trim follows it at once (R26); at the next slack zone after
it. -/
def setRate (r : Rat) (s : State) : State :=
  if s.seq.run then { s with ptc := { s.ptc with rNext := some r } } else trimAlone { s with ptc := { s.ptc with r := r, rNext := none } }

/-- The rate that the servo last computed. -/
def servoRate (s : State) : Rat := s.ptc.rNext.getD s.ptc.r

/-- The offset that the servo predicts: the last offset, less the phase that the rate above the learned frequency has removed
since (Example 12-1). -/
def predicted (s : State) : Rat :=
  s.ptc.offset - (servoRate s - s.ptc.i) / 1000000000000 * (((s.ptc.counter - s.ptc.predAt : Nat) : Rat) / 4294967296)

/-- The servo law (R401): new integral and rate for an offset. -/
def servoLaw (kp ki slew i r off : Rat) : Rat × Rat :=
  let p := kp * off
  let i := if absQ (p + i) < 50000000 then i + ki * off else i
  let rt := clampQ (-50000000) 50000000 (p + i)
  (i, r + clampQ (-slew) slew (rt - r))

/-- One accepted measurement of the selected source: servo, then the lock count (R401, Table 12-3). -/
def servo (off : Rat) (s : State) : State :=
  let kp : Rat := ((tt s 0x0C 4 : Nat) : Rat) / 65536
  let ki : Rat := ((tt s 0x10 4 : Nat) : Rat) / 65536
  let p := servoLaw kp ki ((tt s 0x14 4 : Nat) : Rat) s.ptc.i (servoRate s) off
  let s := setRate p.2 { s with ptc := { s.ptc with i := p.1, offset := off, predAt := s.ptc.counter } }
  if s.ptc.status = 1 then
    let n := if absQ off < 100 then s.ptc.lockRun + 1 else 0
    let s := { s with ptc := { s.ptc with lockRun := n } }
    if tt s 0x28 1 ≤ n then setTimeStatus 2 s else s
  else if s.ptc.status = 2 then
    let n := if ((tt s 0x20 4 : Nat) : Rat) < absQ off then s.ptc.unlockRun + 1 else 0
    let s := { s with ptc := { s.ptc with unlockRun := n } }
    if tt s 0x28 1 ≤ n then setTimeStatus 1 s else s
  else s

/-- The one step between two resets (R399): seconds, nanoseconds and fraction take the reference time, and the step is recorded in two parts. The whole
second that has begun is not marked again, and the PPS inputs are used from now on. -/
def timeStep (i : Nat) (off : Rat) (s : State) : State :=
  let old := s.ptc.counter
  let new := (((old : Int) + 65536 * roundEven (off * 65536))).toNat
  let d : Int := (new / ptcUnit : Nat) - (old / ptcUnit : Nat)
  let whole := new / ptcUnit / 1000000000
  let from_ : Tab (Option Nat) := [(0, some s.ptc.edges), (1, some s.ptc.edges)]
  let s := { s with ptc := { s.ptc with counter := new, offset := 0, predAt := new, accAt := s.ptc.edges, ppsSec := whole, calSec := whole, ppsAt := from_ } }
  let s := modSrc i (fun x => { x with acc := x.acc + 1 }) s
  setTimeStatus 1 (raise 0x0C00 (w32 (srcKind s i)) (i32 (d / 1000000000)) (i32 (d % 1000000000)) s)

/-- One measurement of a source (R393, R399 to R403): offset in ns. Only a valid source gives measurements. -/
def measure (i : Nat) (off : Rat) (s : State) : State :=
  let x := src s i
  if !x.valid then s
  else if s.ptc.status = 0 then (if srcKind s i ≤ 4 then timeStep i off s else s)
  else if decide (((tt s 0x1C 4 : Nat) : Rat) < absQ (off - predicted s)) && decide (x.discRun < 3) then
    modSrc i (fun x => { x with disc := x.disc + 1, discRun := x.discRun + 1 }) s
  else
    let s := modSrc i (fun x => { x with acc := x.acc + 1, discRun := 0 }) { s with ptc := { s.ptc with accAt := s.ptc.edges } }
    let s := if s.ptc.status = 3 then setTimeStatus 1 s else s
    if s.ptc.sel = i then servo off s else s

/-! ### PTP (R393 to R397). -/

/-- Source kind of an ETH port (Table 12-1). -/
def portKind (p : Nat) : Nat := if p = 2 then 3 else if p = 3 then 4 else 2

/-- A PTP time in exact ns, correction included. -/
def ptpNs (t : PtpTime) : Rat := ((t.secs * 1000000000 + t.nanos : Nat) : Rat) + ((t.corr : Int) : Rat) / 65536

/-- The residual error of the stamp with a key, in units of 2^-32 ns: anything within ±4 ns (R397). -/
def stampErr (key : Nat) : Int := Config.stampError key % (2 ^ 35 + 1) - 2 ^ 34

/-- The receive stamp of a message that arrives now, in exact ns: RX_LAT of the port is subtracted (R397). -/
def rxStamp (s : State) (p : Nat) : Rat :=
  (((s.ptc.counter : Int) + stampErr (8 * s.cclk + 2 * p) : Int) : Rat) / 4294967296 - ((tt s (0x34 + 2 * p) 2 : Nat) : Rat)

/-- The transmit stamp of a message that leaves now, in units of 2^-32 ns: TX_LAT is added (R397). -/
def txStamp (s : State) (p : Nat) : Nat := ((s.ptc.counter : Int) + stampErr (8 * s.cclk + 2 * p + 1)).toNat + tt s (0x2C + 2 * p) 2 * ptcUnit

/-- A Sync has completed with origin time plus corrections t1c and receive stamp t2: one measurement of the port's source, valid
from the fourth consecutive one with a valid delay on (R392). -/
def syncDone (p : Nat) (t1c t2 : Rat) (s : State) : State :=
  let x := port s p
  let s := modPort p (fun y => { y with syncDiff := some (t2 - t1c), waitSync := none, syncAt := s.ptc.edges }) s
  match srcIdx s (portKind p) with
  | none => s
  | some i =>
    if !x.slave then s
    else if !x.delayOk then modSrc i (fun y => { y with run := 0 }) s
    else
      let s := modSrc i (fun y => { y with run := y.run + 1 }) s
      let s := if 4 ≤ (src s i).run then setSrcValid i true s else s
      measure i (t1c + x.delay - t2) s

/-- PTP_SYNC_RECEIVED: a one-step Sync completes; a two-step Sync waits for its Follow_Up (R393). -/
def execPtpSyncReceived (p : Fin 4) (seq : BitVec 16) (twoStep : Bool) (t1 : PtpTime) (s : State) : Res :=
  if twoStep then
    .next (modPort p (fun y => { y with waitSync := some (seq.toNat, ((rxStamp s p) * 4294967296).floor.toNat, t1.corr) }) s)
  else .next (syncDone p (ptpNs t1) (rxStamp s p) s)

/-- PTP_FOLLOW_UP_RECEIVED: completes the Sync of the same sequence (R393). -/
def execPtpFollowUpReceived (p : Fin 4) (seq : BitVec 16) (t1 : PtpTime) (s : State) : Res :=
  match (port s p).waitSync with
  | some (q, t2, corr) =>
    if q = seq.toNat then .next (syncDone p (ptpNs { t1 with corr := t1.corr + corr }) ((t2 : Rat) / 4294967296) s) else .next s
  | none => .next s

/-- Unit code of Table 11-1 for a strap u. -/
def unitCode (s : State) : Nat :=
  let u := s.pins.unitSel.toNat
  if s.boot.chartRole then u + 1 else packFld s 6 1 + 128 * u

/-- The pack source address of R349 as a 48-bit number. -/
def packAddr (s : State) : Nat := 0x024A47 * 2 ^ 24 + packFld s 4 2 * 2 ^ 8 + unitCode s

/-- The clockIdentity of R395: the pack address with 0xFF, 0xFE after its third byte. -/
def clockId (s : State) : BitVec 64 :=
  BitVec.ofNat 64 ((packAddr s / 2 ^ 24) * 2 ^ 40 + 0xFFFE * 2 ^ 24 + packAddr s % 2 ^ 24)

/-- The best valid source apart from the ring, whose time a grandmaster would take (R395); 4 is none. -/
def ownSource (s : State) : Nat := ((List.range 4).find? (fun i => (src s i).valid && srcKind s i != 2)).getD 4

/-- The device's own data set (R395). A device without GM_EN is slave-only with class 255. DEDUCED (log entry 151): its best valid source is sought apart
from the ring, whose master it would replace. -/
def ownData (s : State) : PtpAnnounce :=
  let k := srcKind s (ownSource s)
  let six := k = 1 ∨ ((k = 3 ∨ k = 4) ∧ ((port s (k - 1)).best.map (fun a => a.cls)) = some 6)
  let cls := if !bitOf (tt s 4 1) 0 then 255
    else if s.ptc.status = 2 ∧ six then 6
    else if s.ptc.status = 3 then (if (s.cclk - s.ptc.holdFrom) / 400000000 ≤ tt s 0x40 4 then 7 else 187) else 248
  { prio1 := tt s 6 1, cls := cls, accuracy := 0xFE, variance := 0xFFFF, prio2 := tt s 7 1, identity := clockId s,
    steps := if k = 3 ∨ k = 4 then ((port s (k - 1)).best.map (fun a => a.steps + 1)).getD 0 else 0,
    utcOff := (utcOf s).1, utcValid := (utcOf s).2 ≤ 2 }

/-- The order of the default best master clock algorithm (IEEE 1588, named by R395): the first is better. -/
def annBetter (a b : PtpAnnounce) : Bool :=
  let k (x : PtpAnnounce) : List Nat := [x.prio1, x.cls, x.accuracy, x.variance, x.prio2, x.identity.toNat, x.steps]
  let rec go : List Nat → List Nat → Bool
    | x :: l, y :: m => if x < y then true else if y < x then false else go l m
    | _, _ => false
  go (k a) (k b)

/-- Run the best-master algorithm on the ring (R395): the grandmaster, the roles of the ring ports, PTP_GM_CHANGE. ETH2 and ETH3
are slaves of the master they hear. -/
def runBmca (s : State) : State :=
  let own := ownData s
  let ring := [0, 1].filterMap (fun p => (port s p).best.map (fun a => (p, a)))
  let best : Option (Nat × PtpAnnounce) := ring.foldl (fun b x => match b with
    | none => some x
    | some y => if annBetter x.2 y.2 then some x else some y) none
  let en := bitOf (tt s 4 1) 0
  let gm := en && (match best with
    | none => true
    | some b => annBetter own b.2)
  let (id, cls, prt) : BitVec 64 × Nat × Nat := if gm then (own.identity, own.cls, 4) else match best with
    | some b => (b.2.identity, b.2.cls, b.1)
    | none => (0, 255, 4)
  let s := [0, 1, 2, 3].foldl (fun s p =>
    let sl := if p < 2 then (!gm && decide (prt = p)) else (port s p).best.isSome
    modPort p (fun y => { y with slave := sl }) s) s
  let old := s.ptc.gmId
  let s := { s with ptc := { s.ptc with gm := gm, gmId := id } }
  let s := if gm then (match srcIdx s 2 with
    | some i => setSrcValid i false s
    | none => s) else (match srcIdx s 1 with
    | some i => setSrcValid i false s
    | none => s)
  if old = id then s else raise 0x0C03 (id.setWidth 32) (w32 cls) (w32 prt) s

/-- PTP_ANNOUNCE_RECEIVED: the data set enters the best-master algorithm (R395). -/
def execPtpAnnounceReceived (p : Fin 4) (a : PtpAnnounce) (s : State) : Res :=
  .next (runBmca (modPort p (fun y =>
    let take := match y.best with
      | none => true
      | some b => a.identity == b.identity || annBetter a b
    if take then { y with best := some a, annAt := s.ptc.edges } else y) s))

/-- Note the messages that a port sends now. No PTP frame leaves before the seal (R396). -/
def ptpSend (p : Nat) (l : List PtpMsg) (s : State) : State := if s.boot.sealed then modPort p (fun y => { y with sent := l }) s else s

/-- A message that carries its own transmit stamp. -/
def stamped (s : State) (p kind seq : Nat) : PtpMsg := { kind := kind, seq := seq, stamp := txStamp s p, data := none }

/-- PTP_PDELAY_REQ_RECEIVED: answered with Pdelay_Resp, which returns the request's receive stamp, and its Follow_Up (R396). -/
def execPtpPdelayReqReceived (p : Fin 4) (seq : BitVec 16) (s : State) : Res :=
  .next (ptpSend p [{ kind := 3, seq := seq.toNat, stamp := (rxStamp s p * 4294967296).floor.toNat, data := none }, stamped s p 5 seq.toNat] s)

/-- Does a port measure its delay end to end? Only ETH2 and ETH3 can (Table 12-2). -/
def portE2e (s : State) (p : Nat) : Bool := 2 ≤ p && bitOf (tt s 4 1) 1

/-- PTP_DELAY_RESPONSE_RECEIVED: the peer delay from the four stamps, or the mean path delay from the last Sync and the delay
request (R393). rx is the request's receive time at the other end; tx is the response's send time there. -/
def execPtpDelayResponseReceived (p : Fin 4) (seq : BitVec 16) (rx tx : PtpTime) (s : State) : Res :=
  let x := port s p
  let t3 : Rat := (x.reqAt : Rat) / 4294967296
  if x.reqSeq ≠ seq then .next s
  else if portE2e s p then
    match x.syncDiff with
    | some d => .next (modPort p (fun y => { y with delay := (d + (ptpNs rx - t3)) / 2, delayOk := true }) s)
    | none => .next s
  else
    .next (modPort p (fun y => { y with delay := ((rxStamp s p - t3) - (ptpNs tx - ptpNs rx)) / 2, delayOk := true }) s)

/-- May a port's timer run out now? Before the seal, and without a time block, no PTP message is sent (R89, R396). A Sync leaves the ring ports of the
grandmaster; the Announce timer of the ring ports runs with GM_EN; a delay request leaves the ring ports and a vessel-side port whose source is listed. -/
def ptpTimerOver (s : State) (p : Nat) (t : PtpTimer) : Bool :=
  let y := port s p
  let ran (last : Option Nat) (log : Nat) : Bool := last.all (fun e => edgesPast s e (logEdges (sfld s .ttut 0 log 1)))
  s.boot.sealed && hasSect s .ttut 0 && match t with
    | .sync => s.ptc.gm && decide (p < 2) && ran y.syncTx 8
    | .announce => bitOf (tt s 4 1) 0 && decide (p < 2) && ran y.annTx 9
    | .delay => (decide (p < 2) || (srcIdx s (portKind p)).isSome) && ran y.dlyTx 0xA

/-- What a timer that has run out sends (R395, R396): an Announce only from a grandmaster, which the algorithm decides anew. -/
def ptpTimerEffect (p : Nat) (t : PtpTimer) (s : State) : State :=
  match t with
  | .sync =>
    let n := (port s p).syncSeq + 1
    let s := modPort p (fun y => { y with syncSeq := n, syncTx := some s.ptc.edges }) s
    ptpSend p (stamped s p 0 n.toNat :: (if bitOf (tt s 4 1) 3 then [stamped s p 4 n.toNat] else [])) s
  | .announce =>
    let s := runBmca (modPort p (fun y => { y with annTx := some s.ptc.edges }) s)
    if s.ptc.gm then
      let n := (port s p).annSeq + 1
      ptpSend p [{ stamped s p 1 n.toNat with data := some (ownData s) }] (modPort p (fun y => { y with annSeq := n }) s)
    else s
  | .delay =>
    let n := (port s p).reqSeq + 1
    ptpSend p [stamped s p 2 n.toNat] (modPort p (fun y => { y with reqSeq := n, reqAt := txStamp s p, dlyTx := some s.ptc.edges }) s)

/-- PTP_MESSAGE_TIMER: the message of a timer that has run out. -/
def execPtpMessageTimer (p : Fin 4) (t : PtpTimer) (s : State) : Res := .next (if ptpTimerOver s p t then ptpTimerEffect p t s else s)

/-- Has the Announce timeout of a port's master expired (Table 12-2)? -/
def annOver (s : State) (p : Nat) : Bool := (port s p).best.isSome && edgesPast s (port s p).annAt (tt s 0xB 1 * logEdges (sfld s .ttut 0 9 1))

/-- Has no Sync completed on a slave port for four Sync intervals (R392)? -/
def syncOver (s : State) (p : Nat) : Bool := (port s p).slave && edgesPast s (port s p).syncAt (4 * logEdges (sfld s .ttut 0 8 1))

/-- The ports of a PTP source kind. -/
def kindPorts (k : Nat) : List Nat := if k = 2 then [0, 1] else if k = 3 then [2] else if k = 4 then [3] else []

/-- Does a PTP source that is valid, or gathers its Syncs, or whose master is known, time out now? -/
def sourceOver (s : State) (i : Nat) : Bool :=
  let x := src s i
  (kindPorts (srcKind s i)).any (fun p => annOver s p || ((x.valid || x.run != 0) && syncOver s p))

/-- PTP_SOURCE_TIMEOUT: the source becomes invalid at once; a master whose Announce timeout has expired is forgotten (R392). -/
def execPtpSourceTimeout (i : Fin 4) (s : State) : Res :=
  .next (if sourceOver s i then
    runBmca (setSrcValid i false ((kindPorts (srcKind s i)).foldl (fun t p => if annOver s p then modPort p (fun y => { y with best := none }) t else t) s))
  else s)

/-! ### Statuses and selection over time. -/

/-- Has no measurement been accepted for LOSS_S (Table 12-3)? -/
def lossOver (s : State) : Bool := (s.ptc.status == 1 || s.ptc.status == 2) && edgesPast s s.ptc.accAt (secEdges (tt s 0x24 2))

/-- TIME_HOLDOVER_ENTRY: LOSS_S without an accepted measurement; r takes the learned frequency (R400, R401, R403). -/
def execTimeHoldoverEntry (s : State) : Res :=
  .next (if lossOver s then setRate (clampQ (-50000000) 50000000 s.ptc.i) (setTimeStatus 3 s) else s)

/-- Has a source been valid for SRC_HOLD (R404)? -/
def holdOver (s : State) (i : Nat) : Bool := (src s i).valid && !(src s i).held && edgesPast s (src s i).validAt (secEdges (tt s 0x26 2))

/-- SOURCE_HOLD_EXPIRED: a source has been valid for SRC_HOLD (R404). -/
def execSourceHoldExpired (i : Fin 4) (s : State) : Res :=
  .next (if holdOver s i then reselect (modSrc i (fun x => { x with held := true }) s) else s)

/-- REF_CLK_LOST: TCLK moves to the crystal without a phase step (R390). -/
def execRefClkLost (s : State) : Res :=
  if s.ptc.onXtal then .next s else .next (raise 0x0C04 0 0 0 { s with ptc := { s.ptc with onXtal := true, xtalFrom := s.cclk } })

/-- REF_CLK_BACK: TCLK returns to REF10_IN (R390). -/
def execRefClkBack (s : State) : Res :=
  if s.ptc.onXtal then .next (raise 0x0C05 (w32 ((s.cclk - s.ptc.xtalFrom) / 400000000)) 0 0 { s with ptc := { s.ptc with onXtal := false } })
  else .next s

/-! ### PPS (R405 to R407). -/

/-- PPS_OUT_RISE: the counter has reached a new whole second, in every status but NONE (R405). -/
def ppsDue (s : State) : Bool := s.ptc.status != 0 && ptcSec s != s.ptc.ppsSec

def execPpsOutRise (s : State) : Res :=
  .next (if ppsDue s then { s with ptc := { s.ptc with ppsOut := true, ppsSec := ptcSec s, ppsTo := s.ptc.edges + 250000 * tt s 0x29 1 } } else s)

/-- PPS_OUT_FALL, PPS_W ms later (R405). -/
def ppsEnds (s : State) : Bool := s.ptc.ppsOut && decide (s.ptc.ppsTo ≤ s.ptc.edges)

def execPpsOutFall (s : State) : Res := .next (if ppsEnds s then { s with ptc := { s.ptc with ppsOut := false } } else s)

/-- The offset of a capture in ns: the nearest whole second less the capture (R406). -/
def ppsOffset (cap : Nat) : Rat :=
  let sec := 1000000000 * ptcUnit
  ((((cap + sec / 2) / sec * sec : Nat) : Rat) - (cap : Rat)) / 4294967296

/-- PPS_IN_EDGE: a capture compensated by 8 ns, used while time is valid and within 250 ms (R406); the input is valid after three
consecutive accepted edges, each within 1 s and 1 ms of the previous one (R407). -/
def execPpsInEdge (k : Fin 2) (s : State) : Res :=
  match srcIdx s (5 + k) with
  | none => .next s
  | some i =>
    let cap := s.ptc.counter - 8 * ptcUnit
    let off := ppsOffset cap
    if s.ptc.status = 0 then .next s
    else if 250000000 < absQ off then .next (modSrc i (fun x => { x with disc := x.disc + 1 }) s)
    else
      let last := tget 0 s.ptc.ppsLast k
      let gap := (cap - last) / ptcUnit
      let near := decide (last ≠ 0) && decide (999000000 ≤ gap) && decide (gap ≤ 1001000000)
      let s := { s with ptc := { s.ptc with ppsLast := tset 0 s.ptc.ppsLast k cap, ppsAt := tset none s.ptc.ppsAt k (some s.ptc.edges) } }
      let s := modSrc i (fun x => { x with run := if near then x.run + 1 else 1 }) s
      let s := if 3 ≤ (src s i).run then setSrcValid i true s else s
      .next (measure i off s)

/-- Has a listed PPS input given no accepted edge for 1.5 s (R407)? -/
def ppsMissed (s : State) (k : Nat) : Bool := (srcIdx s (5 + k)).isSome && (tget none s.ptc.ppsAt k).any (fun e => edgesPast s e 375000000)

/-- PPS_IN_MISS: 1.5 s without an accepted edge (R407). -/
def execPpsInMiss (k : Fin 2) (s : State) : Res :=
  match srcIdx s (5 + k) with
  | none => .next s
  | some i =>
    if ppsMissed s k then
      let secs := (s.ptc.edges - (tget none s.ptc.ppsAt k).getD 0) / 250000000
      .next (raise 0x0C06 (w32 k) (w32 secs) 0 (setSrcValid i false { s with ptc := { s.ptc with ppsAt := tset none s.ptc.ppsAt k none } }))
    else .next s

/-! ### Calendar (R414, R417) and PTC_READ (R418). -/

/-- The calendar takes a time; a change of more than 2 counts is recorded as TIME_STEP (R414). -/
def setCalendar (secs : Nat) (utc : Int) (always : Bool) (s : State) : State :=
  let old := s.cal.count
  let diff : Int := (32768 * secs : Nat) - (old : Nat)
  let us := clampI (-2147483648) 2147483647 ((diff * 1000000) / 32768)
  let s' := { s with cal := { count := 32768 * secs, part := 0, utc := utc, valid := true } }
  if always || decide (2 < diff.natAbs) || !s.cal.valid then raise 0x0C08 (w32 (old / 32768)) (w32 secs) (i32 us) s' else s'

/-- CALENDAR_LOAD: from the counter at each whole second of valid time (R414). -/
def calDue (s : State) : Bool := s.ptc.status != 0 && ptcSec s != s.ptc.calSec

def execCalendarLoad (s : State) : Res :=
  .next (if calDue s then setCalendar (ptcSec s) (utcOf s).1 false { s with ptc := { s.ptc with calSec := ptcSec s } } else s)

/-- PTC_READ: the time group (Table 12-8). -/
def ptcReadEffect (s : State) : State :=
  let t := opTime s 6
  let b := tt s 0x3C 4 % 2 ^ 17
  let st := stampOf (nowNs s)
  let q := if s.ptc.status = 2 then qGood else qSubst
  let s := writeTime b st.1 st.2 q q t s
  let s := writeSig (b + 2) (s.ptc.status.setWidth 32) qGood t s
  let s := writeNum (b + 3) (some s.ptc.offset) qGood t s
  let s := writeNum (b + 4) (some s.ptc.r) qGood t s
  let s := writeNum (b + 5) (some ((utcOf s).1 : Rat)) qGood t s
  writeSig (b + 6) (w32 s.ptc.sel) qGood t s

def execPtcRead (s : State) : Res := issue 0x0C 0 (opWord 0x0C 1 0) ptcReadEffect s

end Sys2Proof.Machine
end

