-- ==== Sys2Proof/Machine/Fields.lean ====
section
/-! DEFINITION. Sys2Proof/Machine/Fields.lean: field extraction and insertion, telegram framing and checks, which the CAN, serial
and Ethernet ports share (R424 to R427, R439, R442). -/

namespace Sys2Proof.Machine

/-! ### Field entries (Table 13-1). -/

/-- Where a port's tables lie: its section type and instance, the offset of its field entries and of its pool. -/
structure PortTab where
  ty   : SectType
  inst : Nat
  ext  : Nat
  pool : Nat

def pf (s : State) (p : PortTab) (off n : Nat) : Nat := fld s p.ty p.inst off n
def pfBytes (s : State) (p : PortTab) (off n : Nat) : List Byte := fldBytes s p.ty p.inst off n

/-- A field of entry e. -/
def fe (s : State) (p : PortTab) (e off n : Nat) : Nat := pf s p (p.ext + 16 * e + off) n

def feFmt (s : State) (p : PortTab) (e : Nat) : Nat := fe s p e 2 1 % 16
def feLe (s : State) (p : PortTab) (e : Nat) : Bool := bitOf (fe s p e 2 1) 4
def feMul (s : State) (p : PortTab) (e : Nat) : Int := signedOf 32 (fe s p e 8 4)
def feOfs (s : State) (p : PortTab) (e : Nat) : Int := signedOf 32 (fe s p e 0xC 4)

/-! ### Text fields. -/

def isDigit (b : Byte) : Bool := decide (0x30 ≤ b.toNat ∧ b.toNat ≤ 0x39)
def isHexDigit (b : Byte) : Bool := isDigit b || decide (0x41 ≤ b.toNat ∧ b.toNat ≤ 0x46) || decide (0x61 ≤ b.toNat ∧ b.toNat ≤ 0x66)
def hexVal (b : Byte) : Nat := if isDigit b then b.toNat - 0x30 else b.toNat % 32 + 9

/-- A run of digits as a number; none when it is empty or holds another character. -/
def digitsNat (l : List Byte) : Option Nat :=
  if l.isEmpty || !l.all isDigit then none else some (l.foldl (fun a b => 10 * a + (b.toNat - 0x30)) 0)

def hexNat (l : List Byte) : Option Nat :=
  if l.isEmpty || !l.all isHexDigit then none else some (l.foldl (fun a b => 16 * a + hexVal b) 0)

/-- Split a list at every occurrence of a byte. -/
def splitAt (c : Byte) : List Byte → List (List Byte)
  | [] => [[]]
  | b :: l => match splitAt c l with
    | x :: r => if b = c then [] :: x :: r else (b :: x) :: r
    | [] => [[b]]

/-- An ASCII decimal field: optional sign, digits, optional point (Table 13-2). -/
def decimal (l : List Byte) : Option Rat :=
  let neg := l.head? == some 0x2D
  let l := if neg || l.head? == some 0x2B then l.drop 1 else l
  let sgn (x : Rat) : Rat := if neg then -x else x
  match splitAt 0x2E l with
  | [a] => (digitsNat a).map (fun n => sgn (n : Rat))
  | [a, b] =>
    if a.isEmpty && b.isEmpty then none
    else match (if a.isEmpty then some 0 else digitsNat a), (if b.isEmpty then some 0 else digitsNat b) with
      | some x, some y => some (sgn ((x : Rat) + (y : Rat) / ((10 ^ b.length : Nat) : Rat)))
      | _, _ => none
  | _ => none

/-- Degrees from ddmm.m or dddmm.m, negated by a hemisphere field of S or W. -/
def latLon (v h : List Byte) : Option Rat :=
  let whole := (splitAt 0x2E v).headD []
  if h.isEmpty ∨ !whole.all isDigit ∨ (whole.length ≠ 4 ∧ whole.length ≠ 5) then none
  else (decimal v).map (fun x =>
    let d : Int := (x / 100).floor
    let a : Rat := (d : Rat) + (x - 100 * (d : Rat)) / 60
    if h = [0x53] ∨ h = [0x57] then -a else a)

/-! ### Extraction (R425, R426). -/

/-- What a received telegram offers to extraction: its bytes, its text fields when it is NMEA, the words of META. -/
structure RxData where
  bytes  : List Byte
  fields : Option (List (List Byte)) := none
  meta4  : List Nat := []

/-- A binary integer of an entry; none when it reaches beyond the data. -/
def rawInt (s : State) (p : PortTab) (e : Nat) (d : List Byte) : Option Nat :=
  let off := fe s p e 0 2
  let bp := fe s p e 3 1
  let bl := fe s p e 4 1
  let n := (bp + bl + 7) / 8
  if d.length < off + n then none
  else
    let b := (d.drop off).take n
    some (((if feLe s p e then leNat b else beNat b) / 2 ^ bp) % 2 ^ bl)

/-- A float of n bytes of an entry; none when it reaches beyond the data or is not finite. -/
def rawFloat (s : State) (p : PortTab) (e n eb mb : Nat) (d : List Byte) : Option Rat :=
  let off := fe s p e 0 2
  if d.length < off + n then none
  else
    let b := (d.drop off).take n
    ofIeee eb mb (if feLe s p e then leNat b else beNat b)

/-- The raw value of formats 0 to 6. -/
def rawValue (s : State) (p : PortTab) (e : Nat) (d : RxData) : Option Rat :=
  let off := fe s p e 0 2
  let field (k : Nat) : Option (List Byte) := d.fields.bind (fun l => l[k]?)
  match feFmt s p e with
  | 0 => (rawInt s p e d.bytes).map (fun n => (n : Rat))
  | 1 => (rawInt s p e d.bytes).map (fun n => ((signedOf (fe s p e 4 1) n : Int) : Rat))
  | 2 => rawFloat s p e 4 8 23 d.bytes
  | 3 => rawFloat s p e 8 11 52 d.bytes
  | 4 => (field off).bind decimal
  | 5 => (field off).bind (fun l => (hexNat l).map (fun n => (n : Rat)))
  | _ => match field off, field (off + 1) with
    | some v, some h => latLon v h
    | _, _ => none

/-- The word of an entry for a target of a type; none is a failure. -/
def extractWord (s : State) (p : PortTab) (e ty : Nat) (d : RxData) : Option Word :=
  let off := fe s p e 0 2
  match feFmt s p e with
  | 7 => ((d.fields.bind (fun l => l[off]?)).bind (fun l => l.head?)).map (fun c => if c.toNat = fe s p e 0xC 1 then 1 else 0)
  | 8 =>
    let x : Option Nat := match d.fields with
      | some l => (l[off]?).bind digitsNat
      | none => rawInt s p e d.bytes
    x.bind (fun n => if n < 16 then some (w32 ((fe s p e (if n < 8 then 8 else 0xC) 4 / 16 ^ (n % 8)) % 16)) else none)
  | 9 => (d.meta4[off]?).map (fun n => if off = 0 then counterWord n else w32 n)
  | _ =>
    (rawValue s p e d).bind (fun x =>
      let w := roundEven (x * ((feMul s p e : Int) : Rat) * pow2 (signedOf 8 (fe s p e 6 1) - signedOf 8 (fe s p e 5 1))) + feOfs s p e
      if ty = 3 then some (i32 (w % 4294967296))
      else if ty = 1 then (if -(2 ^ 31 - 1) ≤ w ∧ w ≤ 2 ^ 31 - 1 then some (i32 w) else none)
      else if ty = 2 then (if 0 ≤ w ∧ w < 2 ^ 32 ∧ w ≠ 2 ^ 31 then some (i32 w) else none)
      else if 0 ≤ w ∧ w < 2 ^ 32 then some (i32 w) else none)

/-- The words of n entries from the first, for targets from an index; or the entry whose failure discards the telegram. -/
def extractAll (s : State) (p : PortTab) (first n target : Nat) (d : RxData) : Except Nat (List Word) :=
  let ws := (List.range n).map (fun i =>
    let ty := entType (ent s (target + i))
    (first + i, ty, extractWord s p (first + i) ty d))
  match ws.find? (fun x => x.2.2.isNone && x.2.1 != 1 && x.2.1 != 2) with
  | some x => .error x.1
  | none => .ok (ws.map (fun x => x.2.2.getD nanWord))

/-! ### Insertion (R427). -/

/-- ASCII decimal digits of a number, at least n of them. -/
def decDigits (n v : Nat) : List Byte :=
  let ds := (List.range 40).map (fun k => BitVec.ofNat 8 (0x30 + (v / 10 ^ k) % 10))
  let len := max n (((List.range 40).find? (fun k => decide (v < 10 ^ (k + 1)))).getD 39 + 1)
  (ds.take len).reverse

def hexDigit (v : Nat) : Byte := BitVec.ofNat 8 (if v < 10 then 0x30 + v else 0x37 + v)

/-- Upper-case hexadecimal digits of a number, at least n of them. -/
def hexDigits (n v : Nat) : List Byte :=
  let ds := (List.range 16).map (fun k => hexDigit ((v / 16 ^ k) % 16))
  let len := max n (((List.range 16).find? (fun k => decide (v < 16 ^ (k + 1)))).getD 15 + 1)
  (ds.take len).reverse

/-- Digits with a decimal point before the last b of them. -/
def pointed (whole b v : Nat) : List Byte :=
  if b = 0 then decDigits whole v else decDigits whole (v / 10 ^ b) ++ 0x2E#8 :: decDigits b (v % 10 ^ b)

/-- The word of a signal as an integer: unsigned for BAM32, or signed there for LATLON. -/
def insInt (s : State) (i fmt : Nat) : Int :=
  let w := sigW s i
  if entType (ent s i) = 1 ∨ (entType (ent s i) = 3 ∧ fmt = 6) then w.toInt else (w.toNat : Int)

/-- The exact value that an entry inserts. -/
def insValue (s : State) (p : PortTab) (e i : Nat) : Rat :=
  ((insInt s i (feFmt s p e) - feOfs s p e : Int) : Rat) * ((feMul s p e : Int) : Rat) * pow2 (signedOf 8 (fe s p e 6 1))

/-- The text fields that an entry inserts. A hexadecimal field of a negative value, and whether LATLON is a longitude, are not
stated. -/
def insText (s : State) (p : PortTab) (e i : Nat) : List (List Byte) :=
  let fmt := feFmt s p e
  let b := fe s p e 3 1
  let r := roundEven (insValue s p e i)
  let sign : List Byte := if r < 0 then [0x2D] else []
  if sigNan s i then (if fmt = 6 then [[], []] else [[]])
  else match fmt with
    | 5 => [hexDigits 1 (if r < 0 then (Config.layoutWord 13 [r.natAbs]).toNat else r.toNat)]
    | 6 =>
      let lon := bitOf (Config.layoutWord 14 [i, e]).toNat 0
      let deg := r.natAbs / (60 * 10 ^ b)
      let m := r.natAbs % (60 * 10 ^ b)
      [decDigits (if lon then 3 else 2) deg ++ pointed 2 b m, [if lon then (if r < 0 then 0x57 else 0x45) else if r < 0 then 0x53 else 0x4E]]
    | 7 => [if sigW s i != 0 then [BitVec.ofNat 8 (fe s p e 0xC 1)] else []]
    | _ => [sign ++ pointed 1 b r.natAbs]

/-- Put v into bl bits at bit bp of n bytes. -/
def putBits (le : Bool) (old : List Byte) (bp bl v : Nat) : List Byte :=
  let n := old.length
  let x := if le then leNat old else beNat old
  let low := x % 2 ^ bp
  let high := x / 2 ^ (bp + bl)
  let y := low + (v % 2 ^ bl) * 2 ^ bp + high * 2 ^ (bp + bl)
  if le then leBytes n y else beBytes n y

/-- Replace bytes of a template from an offset; the template keeps its length. -/
def putBytes (t : List Byte) (off : Nat) (b : List Byte) : List Byte := (t.take off ++ b ++ t.drop (off + b.length)).take t.length

/-- Write an entry's signal into a binary template; whether it was clamped. -/
def insBinary (s : State) (p : PortTab) (e i : Nat) (t : List Byte) : List Byte × Bool :=
  let off := fe s p e 0 2
  let bp := fe s p e 3 1
  let bl := fe s p e 4 1
  let n := (bp + bl + 7) / 8
  let nan := sigNan s i
  let v := insValue s p e i
  let float (n eb mb : Nat) : List Byte × Bool :=
    let x := if nan then (2 ^ eb - 1) * 2 ^ mb + 2 ^ (mb - 1) else toIeee eb mb v
    (putBytes t off (if feLe s p e then leBytes n x else beBytes n x), false)
  match feFmt s p e with
  | 2 => float 4 8 23
  | 3 => float 8 11 52
  | fmt =>
    let r := roundEven v
    let lo : Int := if fmt = 1 then -(2 ^ (bl - 1)) else 0
    let hi : Int := if fmt = 1 then 2 ^ (bl - 1) - 1 else 2 ^ bl - 1
    let c := clampI lo hi r
    let old := (t.drop off ++ List.replicate n 0).take n
    let put := putBits (feLe s p e) old bp bl (if nan then 2 ^ bl - 1 else (c % 2 ^ bl).toNat)
    (putBytes t off put, !nan && c != r)

/-- The binary payload of a template with its insertions; how many were clamped. -/
def buildBinary (s : State) (p : PortTab) (poolAt len first n sig : Nat) : List Byte × Nat :=
  (List.range n).foldl (fun x i =>
    let y := insBinary s p (first + i) (sig + i) x.1
    (y.1, x.2 + b2n y.2)) (pfBytes s p (p.pool + poolAt) len, 0)

/-- Does a transmit descriptor with HOLD_BAD hold its telegram back? -/
def insBad (s : State) (sig n : Nat) : Bool := (List.range n).any (fun i => sigNan s (sig + i) || sigQ s (sig + i) == qStale)

def xorAll (l : List Byte) : Byte := l.foldl (fun a b => a ^^^ b) 0

/-- An NMEA telegram: the prefix, a comma-separated field per insertion, the checksum, CR and LF (R442). -/
def buildNmea (s : State) (p : PortTab) (poolAt len first n sig : Nat) : List Byte :=
  let body := pfBytes s p (p.pool + poolAt) len ++ ((List.range n).flatMap (fun i => insText s p (first + i) (sig + i))).flatMap (fun f => 0x2C#8 :: f)
  body ++ 0x2A#8 :: hexDigits 2 (xorAll (body.drop 1)).toNat ++ [0x0D, 0x0A]

/-! ### Checks and keys (Table 13-4, R439). -/

/-- Bytes of a check kind. -/
def checkLen (k : Nat) : Nat := if k = 2 ∨ k = 3 then 1 else if k = 4 ∨ k = 5 then 2 else if k = 6 then 3 else if k = 7 then 4 else 0

def checkVal (k : Nat) (l : List Byte) : Nat :=
  match k with
  | 2 => (xorAll l).toNat
  | 3 => (l.foldl (fun a b => a + b.toNat) 0) % 256
  | 4 => crc16 l
  | 5 => crcModbus l
  | 6 => crc24 l
  | 7 => crc32 l
  | _ => 0

/-- The check bytes of covered bytes. -/
def checkBytes (k : Nat) (le : Bool) (l : List Byte) : List Byte :=
  if le then leBytes (checkLen k) (checkVal k l) else beBytes (checkLen k) (checkVal k l)

/-- Is the check in a binary telegram's last bytes right? -/
def checkOk (k from_ : Nat) (le : Bool) (l : List Byte) : Bool :=
  let n := checkLen k
  decide (from_ + n ≤ l.length) && l.drop (l.length - n) == checkBytes k le ((l.take (l.length - n)).drop from_)

/-- The text of an NMEA sentence between its start character and its check or line end, and its two check digits. -/
def nmeaParts (l : List Byte) : List Byte × Option (List Byte) :=
  let body := (l.drop 1).takeWhile (fun b => b != 0x0D && b != 0x0A)
  match splitAt 0x2A body with
  | [a] => (a, none)
  | a :: r => (a, some (r.getD (r.length - 1) []))
  | [] => (body, none)

/-- Is an NMEA sentence's checksum right, or absent where it is not required? -/
def nmeaOk (required : Bool) (l : List Byte) : Bool :=
  let p := nmeaParts l
  match p.2 with
  | none => !required
  | some h => h.length == 2 && hexNat h == some (xorAll p.1).toNat

/-- Characters other than 0x20 to 0x7E, CR and LF. -/
def nmeaCharsOk (l : List Byte) : Bool := l.all (fun b => decide (0x20 ≤ b.toNat ∧ b.toNat ≤ 0x7E) || b == 0x0D || b == 0x0A)

/-- Fields of an NMEA sentence; field 0 is the address field. -/
def nmeaFields (l : List Byte) : List (List Byte) := splitAt 0x2C (nmeaParts l).1

/-- A field of RX descriptor d at the table's offset (Table 13-10). -/
def rxFld (s : State) (p : PortTab) (tab d off n : Nat) : Nat := pf s p (tab + 48 * d + off) n

/-- Does the key of RX descriptor d match a telegram? -/
def keyMatch (s : State) (p : PortTab) (tab d : Nat) (x : RxData) : Bool :=
  let n := rxFld s p tab d 3 1
  let key := pfBytes s p (tab + 48 * d + 0x18) n
  match x.fields with
  | some f =>
    let a := f.getD 0 []
    a.length == n && (a.zip key).all (fun q => q.2 == 0x3F || q.1 == q.2)
  | none =>
    let off := rxFld s p tab d 6 2
    let mask := pfBytes s p (tab + 48 * d + 0x20) n
    let b := (x.bytes.drop off).take n
    b.length == n && ((b.zip mask).zip key).all (fun q => (q.1.1 &&& q.1.2) == q.2)

/-- The 16-word record of a RAW chunk (R441, R185). -/
def chunkWords (seq : Half) (b : List Byte) : List Word :=
  w32 (b.length % 256 + 256 * seq.toNat) :: (List.range 15).map (fun k => w32 (leNat ((b.drop (4 * k)).take 4)))

/-- The stamp of a CAN or serial record (R423): the first tick at which its toggle is seen, less three ticks. -/
def asyncStamp (s : State) : Nat :=
  let early := Config.crossingSeen ((s.cclk + 2) * 1024 + s.cclk)
  (nowHalf s - (if early then 5 else 0)) / 2

end Sys2Proof.Machine
end

