-- ==== Sys2Proof/Machine/Ser.lean ====
section
/-! DEFINITION. Sys2Proof/Machine/Ser.lean: the serial ports (R438 to R443). -/

namespace Sys2Proof.Machine

def se (s : State) (p off n : Nat) : Nat := fld s .sert p off n

/-- Where a port's tables lie (Table 13-7). -/
def serTab (s : State) (p : Nat) : PortTab := { ty := .sert, inst := p, ext := se s p 0x28 4, pool := se s p 0x2C 4 }

/-- The bit rate of a port (Table 13-7). -/
def serRate (s : State) (p : Nat) : Nat := se s p 4 4

def serOn (s : State) (p : Nat) : Bool := bitOf (se s p 0 1) 0
def serFraming (s : State) (p : Nat) : Nat := se s p 1 1
def serCheck (s : State) (p : Nat) : Nat := se s p 3 1 % 16
def serCheckLe (s : State) (p : Nat) : Bool := bitOf (se s p 3 1) 7

def serOf (s : State) (p : Nat) : SerPort := tget {} s.ports.ser p
def setSer (p : Nat) (x : SerPort) (s : State) : State := { s with ports := { s.ports with ser := tset {} s.ports.ser p x } }
def modSer (p : Nat) (f : SerPort → SerPort) (s : State) : State := setSer p (f (serOf s p)) s

def sat8 (b : Byte) : Byte := if b = 0xFF#8 then b else b + 1
def sat16 (h : Half) : Half := if h = 0xFFFF#16 then h else h + 1
def add16 (h : Half) (n : Nat) : Half := BitVec.ofNat 16 (min 65535 (h.toNat + n))
def add8 (h : Byte) (n : Nat) : Byte := BitVec.ofNat 8 (min 255 (h.toNat + n))

/-- Does a port take part in what happens on its line? Not before the seal, without a section, or while disabled. -/
def serLive (s : State) (p : Nat) : Bool := s.boot.sealed && hasSect s .sert p && serOn s p && !isDisabled s (0x18 + p) 0

/-- Bits of a character on the line (R438). -/
def charBits (s : State) (p : Nat) : Nat :=
  let c := se s p 2 1
  1 + (if bitOf c 0 then 7 else 8) + (if c / 2 % 4 = 0 then 0 else 1) + (if bitOf c 3 then 2 else 1)

/-- Have n bit times of the port passed since a CCLK cycle? A bit is 400,000,000/BAUD CCLK cycles. -/
def bitsPast (s : State) (p since n : Nat) : Bool := decide (since * serRate s p + 400000000 * n ≤ s.cclk * serRate s p)

/-- SERn_DE: with DE_USED, from the start of the first start bit until DE_HOLD bit times after the last stop bit (R438). -/
def serDe (s : State) (p : Nat) : Bool :=
  bitOf (se s p 0 1) 1 && ((serOf s p).wire.isSome || (serOf s p).endAt.any (fun t => !bitsPast s p t (se s p 0x18 1)))

/-! ### Transmission (R442). -/

/-- A field of TX descriptor d (Table 13-11). -/
def stx (s : State) (p d off n : Nat) : Nat := se s p (se s p 0x24 4 + 32 * d + off) n

/-- The telegram of a TX descriptor; how many insertions were clamped. -/
def serBuild (s : State) (p d : Nat) : List Byte × Nat :=
  let t := serTab s p
  let first := stx s p d 4 2
  let n := stx s p d 2 1
  let sig := stx s p d 0xC 4 % 2 ^ 17
  if stx s p d 0 1 = 1 then (buildNmea s t (stx s p d 8 4) (stx s p d 6 2) first n sig, 0)
  else
    let x := buildBinary s t (stx s p d 8 4) (stx s p d 6 2) first n sig
    (x.1 ++ checkBytes (serCheck s p) (serCheckLe s p) (x.1.drop (se s p 0x14 2)), x.2)

/-- SER_TX forms a telegram and queues it, or drops it: gated, queue of four full, or held back by HOLD_BAD. -/
def serTxEffect (p d : Nat) (s : State) : State :=
  let x := serOf s p
  let bad := bitOf (stx s p d 1 1) 1 && insBad s (stx s p d 0xC 4 % 2 ^ 17) (stx s p d 2 1)
  if bad ∨ outMode s ≠ .enabled ∨ 4 ≤ x.fifo.length + x.queue.length then setSer p { x with drop := sat8 x.drop } s
  else
    let b := serBuild s p d
    setSer p { x with fifo := x.fifo ++ [handed s (4 + stx s p d 2 1) b.1], clamp := add16 x.clamp b.2 } s

def execSerTx (p : Fin 12) (d : BitVec 6) (s : State) : Res :=
  let w := opWord (0x18 + p.val) 1 d.toNat
  issue (0x18 + p.val) 0 w (fun s => if se s p 0x1C 2 ≤ d.toNat then breach 0x0107 w s else serTxEffect p d.toNat s) s

/-- The next queued telegram starts when the line is free. -/
def serStart (p : Nat) (s : State) : State :=
  let x := serOf s p
  match x.wire, x.queue with
  | none, t :: l => setSer p { x with wire := some t, wireAt := s.cclk, queue := l } s
  | _, _ => s

/-- The crossing into SCLK, which runs at 16 times the bit rate (R438). -/
def serCross (s : State) (p : Nat) : Crossing := { lo := 2, hi := 3, num := 25000000, den := max 1 (serRate s p) }

/-- The telegram reaches SCLK; not before its least crossing time (R46). -/
def execSerTxArrival (p : Fin 12) (s : State) : Res :=
  let x := serOf s p
  match x.fifo with
  | t :: l => if mayArrive s (serCross s p) t then .next (serStart p (setSer p { x with fifo := l, queue := x.queue ++ [t.item] } s)) else .next s
  | [] => .next s

/-- Have the bits of the telegram on the wire passed, and n bits more? A telegram starts on the next bit boundary (R442). -/
def serSent (s : State) (p n : Nat) : Bool :=
  (serOf s p).wire.any (fun b => bitsPast s p (serOf s p).wireAt (b.length * charBits s p + n))

/-- The last stop bit leaves the line (R442, R438); not before the telegram's bits have passed. -/
def execSerTelegramSent (p : Fin 12) (s : State) : Res :=
  if serSent s p 0 then .next (serStart p (modSer p (fun x => { x with wire := none, endAt := some s.cclk }) s)) else .next s

/-! ### Reception (R439 to R441). -/

/-- The port discards the telegram in progress. Causes: 0 character, 1 check, 2 length, 3 character set. -/
def serFail (p cause bytes : Nat) (s : State) : State :=
  let s := modSer p (fun x =>
    if cause = 1 then { x with check := sat8 x.check } else if cause = 2 then { x with long := sat8 x.long } else { x with char := sat8 x.char }) s
  raise 0x0D04 (w32 p) (w32 cause) (w32 bytes) s

/-- Is reception ignored while the port drives its own line? -/
def serEcho (s : State) (p : Nat) : Bool := bitOf (se s p 0 1) 2 && serDe s p

/-- A telegram that has passed its check is keyed and landed. -/
def serLand (p : Nat) (x : RxData) (s : State) : State :=
  let t := serTab s p
  match (List.range (se s p 0x1A 2)).find? (fun d => keyMatch s t (se s p 0x20 4) d x) with
  | none => modSer p (fun y => { y with unm := sat16 y.unm }) s
  | some d =>
    let s := modSer p (fun y => { y with counts := tmod 0 y.counts d (· + 1) }) s
    match lbuOfSource s (0x18 + p) d with
    | none => modSer p (fun y => { y with landed := y.landed + 1 }) s
    | some n =>
      let x := { x with meta4 := [tget 0 (serOf s p).counts d, x.bytes.length] }
      match extractAll s t (rxFld s t (se s p 0x20 4) d 4 2) (rxFld s t (se s p 0x20 4) d 2 1) (lbutFld s n 4 4 % 2 ^ 17) x with
      | .ok ws => lbuComplete n ws (asyncStamp s) [] (modSer p (fun y => { y with landed := y.landed + 1 }) s)
      | .error e => raise 0x0D07 (w32 (0x18 + p)) (w32 d) (w32 e) (modSer p (fun y => { y with field := sat16 y.field }) s)

/-- Does a list hold LF after CR? -/
def hasCrLf : List Byte → Bool
  | a :: b :: l => (a == 0x0D && b == 0x0A) || hasCrLf (b :: l)
  | _ => false

/-- Does NMEA framing make one telegram of these bytes: from "$" or "!" to the first LF after CR? -/
def nmeaFramed (b : List Byte) : Bool :=
  (b.head? == some 0x24 || b.head? == some 0x21) && b.drop (b.length - 2) == [0x0D, 0x0A] && !hasCrLf (b.take (b.length - 1))

def serNmea (p : Nat) (b : List Byte) (s : State) : State :=
  if nmeaFramed b = false then s
  else if se s p 0x12 2 < b.length then serFail p 2 b.length s
  else if !nmeaCharsOk b then serFail p 3 b.length s
  else if !nmeaOk (se s p 0x19 1 == 1) b then serFail p 1 b.length s
  else serLand p { bytes := b, fields := some (nmeaFields b) } s

/-- Is the check of a BINARY or IDLE telegram right? -/
def serChecked (s : State) (p : Nat) (b : List Byte) : Bool := serCheck s p == 0 || checkOk (serCheck s p) (se s p 0x14 2) (serCheckLe s p) b

/-- The length of the BINARY telegram that begins at the first of these bytes, once it is known. -/
def binLen (s : State) (p : Nat) (b : List Byte) : Option Nat :=
  let n := se s p 0xC 1
  let off := se s p 0xE 2
  let w := se s p 0xD 1
  if b.take n ≠ leBytes n (se s p 8 4) then none
  else if w = 0 then some (se s p 0x10 2)
  else if b.length < off + w then none
  else some ((beNat ((b.drop off).take w) : Int) + signedOf 16 (se s p 0x10 2)).toNat

/-- BINARY framing: hunting for the sync bytes; after a failure it resumes at the byte that follows the failed telegram's first byte. -/
def serHunt (fuel p : Nat) (b : List Byte) (s : State) : State :=
  match fuel with
  | 0 => s
  | fuel + 1 =>
    match binLen s p b with
    | none => serHunt fuel p (b.drop 1) s
    | some n =>
      if se s p 0x12 2 < n then serHunt fuel p (b.drop 1) (serFail p 2 (min n b.length) s)
      else if b.length < n then s
      else if n = 0 ∨ serChecked s p (b.take n) = false then serHunt fuel p (b.drop 1) (serFail p 1 n s)
      else serHunt fuel p (b.drop n) (serLand p { bytes := b.take n } s)

def serIdle (p : Nat) (b : List Byte) (s : State) : State :=
  if b.isEmpty then s
  else if se s p 0x12 2 < b.length then serFail p 2 b.length s
  else if serChecked s p b = false then serFail p 1 b.length s
  else serLand p { bytes := b } s

/-- A telegram completes under the port's framing; RAW framing has none. -/
def serTelegram (p : Nat) (b : List Byte) (s : State) : State :=
  if serEcho s p then s
  else match serFraming s p with
    | 1 => serNmea p b s
    | 2 => serHunt b.length p b s
    | 3 => serIdle p b s
    | _ => s

def execSerTelegramReceived (p : Fin 12) (b : List (BitVec 8)) (s : State) : Res :=
  if serLive s p then .next (serTelegram p b s) else .next s

def execSerCharacterError (p : Fin 12) (e : SerErr) (bytes : BitVec 16) (s : State) : Res :=
  if serLive s p && !serEcho s p then .next (serFail p (match e with
    | .char => 0
    | .long => 2
    | .charset => 3) bytes.toNat s)
  else .next s

/-- The times at which a RAW chunk closes, every CHUNK character times, that have passed since the port's start or enable (R441). -/
def chunkTimes (s : State) (p : Nat) : Nat := (s.cclk - (serOf s p).startAt) * serRate s p / (400000000 * max 1 (se s p 0x17 1 * charBits s p))

/-- A RAW chunk closes and lands; an empty one is not closed (R441). -/
def execSerChunkClose (p : Fin 12) (b : List (BitVec 8)) (s : State) : Res :=
  if serLive s p && serFraming s p == 4 && !b.isEmpty && !serEcho s p && decide ((serOf s p).closes < chunkTimes s p) then
    let s := modSer p (fun y => { y with chunk := y.chunk + 1, landed := y.landed + 1, closes := chunkTimes s p }) s
    let t := serTab s p
    let d := ((List.range (se s p 0x1A 2)).find? (fun d => rxFld s t (se s p 0x20 4) d 0 1 == 3)).getD 0
    .next (landFrom (0x18 + p.val) d (chunkWords (serOf s p).chunk (b.take 60)) (asyncStamp s) s)
  else .next s

/-! ### Gating, disable, enable (R442, R443). -/

/-- Outside the enabled state the telegram on the wire is cut off, and those queued are dropped and counted. -/
def serGate1 (s : State) (p : Nat) : State :=
  let x := serOf s p
  if x.wire.isNone && x.endAt.isNone && x.queue.isEmpty && x.fifo.isEmpty then s
  else setSer p { x with wire := none, endAt := none, queue := [], fifo := [], drop := add8 x.drop (x.queue.length + x.fifo.length) } s

def serRefresh (s : State) : State := if outMode s = .enabled then s else (List.range 12).foldl serGate1 s

/-- The CCLK cycle at which the character on the wire ends. -/
def charEnd (s : State) (p : Nat) : Nat :=
  let x := serOf s p
  let r := max 1 (serRate s p)
  let done := (s.cclk - x.wireAt) * r / (400000000 * charBits s p)
  x.wireAt + (400000000 * charBits s p * (done + 1) + (r - 1)) / r

/-- A disable: the character on the wire completes, the rest and the queue are discarded. -/
def serDisable (p : Nat) (s : State) : State :=
  modSer p (fun x => { x with wire := none, endAt := if x.wire.isSome then some (charEnd s p) else x.endAt, queue := [], fifo := [] }) s

/-- The start of a port, or an enable: the RAW chunk count is 0 and the chunk times count from here. -/
def serEnable (p : Nat) (s : State) : State := modSer p (fun x => { x with chunk := 0, startAt := s.cclk, closes := 0 }) s

def serSeal (s : State) : State := (List.range 12).foldl (fun s p => if hasSect s .sert p && serOn s p then serEnable p s else s) s

/-- The registers of a port by offset (Table 13-12). -/
def serReg (s : State) (p off : Nat) : Option Word :=
  let x := serOf s p
  match off with
  | 0x00 => some (w32 (256 * (x.queue.length + x.fifo.length) + 128 * b2n (isDisabled s (0x18 + p) 0) + 64 * b2n (s.boot.sealed && outMode s != .enabled) + 32 * b2n (serDe s p)))
  | 0x04 => some (w32 (65536 * x.landed.toNat + x.unm.toNat))
  | 0x08 => some (w32 (16777216 * x.char.toNat + 65536 * x.check.toNat + 256 * x.long.toNat + x.drop.toNat))
  | 0x0C => some (w32 (65536 * x.clamp.toNat + x.field.toNat))
  | _ => none

end Sys2Proof.Machine
end

