-- ==== Sys2Proof/Machine/Eth.lean ====
section
/-! DEFINITION. Sys2Proof/Machine/Eth.lean: the vessel-side Ethernet ports (R444 to R448). -/

namespace Sys2Proof.Machine

def et (s : State) (p off n : Nat) : Nat := fld s .etht p off n

/-- Where a port's tables lie (Table 13-8). -/
def ethTab (s : State) (p : Nat) : PortTab := { ty := .etht, inst := p, ext := et s p 0x1C 4, pool := et s p 0x24 4 }

def ethOf (s : State) (p : Nat) : EthPort := tget {} s.ports.eth p
def setEth (p : Nat) (x : EthPort) (s : State) : State := { s with ports := { s.ports with eth := tset {} s.ports.eth p x } }
def modEth (p : Nat) (f : EthPort → EthPort) (s : State) : State := setEth p (f (ethOf s p)) s

/-- A byte field that holds a big-endian number. -/
def etBe (s : State) (p off n : Nat) : Nat := beNat (fldBytes s .etht p off n)

/-- Port address, its IPv4 address, its flags. -/
def ethMac (s : State) (p : Nat) : Nat := etBe s p 0 6
def ethIp (s : State) (p : Nat) : Nat := etBe s p 8 4
def ethFlag (s : State) (p i : Nat) : Bool := bitOf (et s p 0xC 1) i

def ethDisabled (s : State) (p : Nat) : Bool := isDisabled s (0x24 + p) 0
def ethLive (s : State) (p : Nat) : Bool := s.boot.sealed && hasSect s .etht p && ethFlag s p 0 && !ethDisabled s p

/-! ### Transmission (R447). -/

def etx (s : State) (p d off n : Nat) : Nat := et s p (et s p 0x18 4 + 32 * d + off) n

/-- The one's complement of the one's complement sum of 16-bit words. -/
def inetSum (l : List Byte) : Nat :=
  let words := (List.range ((l.length + 1) / 2)).map (fun k => beNat ((l.drop (2 * k) ++ [0#8]).take 2))
  let x := words.foldl (· + ·) 0
  let y := x % 65536 + x / 65536
  0xFFFF - (y % 65536 + y / 65536)

/-- A UDP datagram with its computed checksum, whose zero is sent as 0xFFFF. -/
def udpBytes (src : Nat) (g : Datagram) : List Byte :=
  let len := 8 + g.payload.length
  let hdr (c : Nat) : List Byte := beBytes 2 g.srcPort ++ beBytes 2 g.dstPort ++ beBytes 2 len ++ beBytes 2 c
  let c := inetSum (beBytes 4 src ++ beBytes 4 g.dstIp ++ beBytes 2 17 ++ beBytes 2 len ++ hdr 0 ++ g.payload)
  hdr (if c = 0 then 0xFFFF else c) ++ g.payload

/-- An IPv4 packet: time to live 64, don't-fragment set (R447). -/
def ipv4Bytes (src : Nat) (g : Datagram) : List Byte :=
  let u := udpBytes src g
  let hdr (c : Nat) : List Byte :=
    [0x45, 0] ++ beBytes 2 (20 + u.length) ++ beBytes 2 g.ident.toNat ++ [0x40, 0, 64, 17] ++ beBytes 2 c ++ beBytes 4 src ++ beBytes 4 g.dstIp
  hdr (inetSum (hdr 0)) ++ u

/-- The Ethernet frame of a datagram of port p: tagged with its VID and priority when the VID is nonzero, padded to 60 bytes, and with its
check sequence. -/
def datagramFrame (s : State) (p : Nat) (g : Datagram) : List Byte :=
  let vid := et s p 6 2
  let tag : List Byte := if vid % 4096 = 0 then [] else [0x81, 0] ++ beBytes 2 (vid / 4096 % 8 * 8192 + vid % 4096)
  let b := beBytes 6 g.dstMac ++ beBytes 6 (ethMac s p) ++ tag ++ [8, 0] ++ ipv4Bytes (ethIp s p) g
  let b := b ++ List.replicate (60 - b.length) 0
  b ++ leBytes 4 (crc32 b)

def ethTxEffect (p d : Nat) (s : State) : State :=
  let x := ethOf s p
  let fl := etx s p d 1 1
  let first := etx s p d 4 2
  let n := etx s p d 2 1
  let sig := etx s p d 0xC 4 % 2 ^ 17
  if (bitOf fl 0 && !outEnabled s) || (bitOf fl 1 && insBad s sig n) then setEth p { x with supp := sat16 x.supp } s
  else
    let b := if etx s p d 0 1 = 1 then (buildNmea s (ethTab s p) (etx s p d 8 4) (etx s p d 6 2) first n sig, 0)
      else buildBinary s (ethTab s p) (etx s p d 8 4) (etx s p d 6 2) first n sig
    let o := et s p 0x18 4 + 32 * d
    let g : Datagram := { dstMac := etBe s p (o + 0x10) 6, dstIp := etBe s p (o + 0x18) 4, dstPort := et s p (o + 0x16) 2, srcPort := et s p (o + 0x1C) 2, ident := x.ident, payload := b.1 }
    setEth p { x with sent := some g, wire := datagramFrame s p g, ident := x.ident + 1, sentN := x.sentN + 1, supp := add16 x.supp b.2 } s

def execEthTx (p : Fin 4) (d : BitVec 6) (s : State) : Res :=
  let w := opWord (0x24 + p.val) 1 d.toNat
  issue (0x24 + p.val) 0 w (fun s => if et s p 0x12 2 ≤ d.toNat then breach 0x0107 w s else ethTxEffect p d.toNat s) s

/-! ### Reception (R445, R446). -/

/-- The pack cycle of PTP time (R22). -/
def ptpCycle (s : State) : Nat := (2 * ptcNs s - 2000000000 * s.hdr.t0) / (5 * s.hdr.f * s.hdr.p)

def rxd (s : State) (p d off n : Nat) : Nat := et s p (et s p 0x14 4 + 48 * d + off) n
def rxIp (s : State) (p d off : Nat) : Nat := etBe s p (et s p 0x14 4 + 48 * d + off) 4
def rxCnt (s : State) (p : Nat) : Nat := et s p 0x10 2

/-- The Ethernet address of an IPv4 multicast group. -/
def groupMac (ip : Nat) : Nat := 0x01005E000000 + ip % 2 ^ 23

/-- Is a frame addressed to the port, and tagged as the port expects? -/
def ethFor (s : State) (p : Nat) (f : EthFrame) : Bool :=
  let vid := et s p 6 2 % 4096
  let tag := match f.vid with
    | none => true
    | some v => vid != 0 && v.toNat == vid
  let d := f.dst.toNat
  tag && (d == ethMac s p || d == 0xFFFFFFFFFFFF || (List.range (rxCnt s p)).any (fun k => rxIp s p k 0x10 != 0 && groupMac (rxIp s p k 0x10) == d))

/-- Does a datagram match an RX descriptor's addresses and port? -/
def udpMatch (s : State) (p d : Nat) (srcIp dstIp dstPort : Nat) : Bool :=
  let own := rxIp s p d 0x10 == 0
  rxd s p d 8 2 == dstPort && (rxIp s p d 0xC == 0 || rxIp s p d 0xC == srcIp)
    && (if own then dstIp == ethIp s p else dstIp == rxIp s p d 0x10)

/-- Sentences of an NMEA payload: from "$" or "!" to LF after CR; tag blocks and a leading "UdPbC" with NUL are skipped (R446). -/
def sentences (fuel : Nat) (l : List Byte) : List (List Byte) :=
  match fuel, l with
  | 0, _ => []
  | _, [] => []
  | fuel + 1, b :: r =>
    if b = 0x5C then sentences fuel ((r.dropWhile (fun c => c != 0x5C)).drop 1)
    else if b = 0x24 ∨ b = 0x21 then
      let t := r.takeWhile (fun c => c != 0x0A)
      let rest := r.dropWhile (fun c => c != 0x0A)
      if rest.isEmpty ∨ t.getLast? ≠ some 0x0D then sentences fuel r
      else (b :: t ++ [0x0A]) :: sentences fuel (rest.drop 1)
    else sentences fuel r

/-- Land the record of descriptor d, or discard it. -/
def ethLand (p d stamp : Nat) (x : RxData) (s : State) : State :=
  let s := modEth p (fun y => { y with counts := tmod 0 y.counts d (· + 1) }) s
  match lbuOfSource s (0x24 + p) d with
  | none => modEth p (fun y => { y with landed := y.landed + 1 }) s
  | some n =>
    let x := { x with meta4 := [tget 0 (ethOf s p).counts d, x.bytes.length] }
    match extractAll s (ethTab s p) (rxd s p d 4 2) (rxd s p d 2 1) (lbutFld s n 4 4 % 2 ^ 17) x with
    | .ok ws => lbuComplete n ws stamp [] (modEth p (fun y => { y with landed := y.landed + 1 }) s)
    | .error e => raise 0x0D07 (w32 (0x24 + p)) (w32 d) (w32 e) s

/-- Count a frame that is discarded under R445. -/
def ethDiscard (p : Nat) (s : State) : State := modEth p (fun y => { y with disc := sat16 y.disc }) s

/-- A UDP datagram (R446). -/
def ethUdp (p stamp : Nat) (srcIp dstIp dstPort : Nat) (pay : List Byte) (s : State) : State :=
  let ds := (List.range (rxCnt s p)).filter (fun d => udpMatch s p d srcIp dstIp dstPort)
  match ds with
  | [] => ethDiscard p s
  | d0 :: _ =>
    let kind := rxd s p d0 0 1
    if kind = 3 then
      let q := tget [] (ethOf s p).raw d0
      if 4096 < q.length + pay.length then modEth p (fun y => { y with limit := sat16 y.limit }) s
      else modEth p (fun y => { y with raw := tset [] y.raw d0 (q ++ pay), rawAt := if q.isEmpty then tset 0 y.rawAt d0 (ptcNs s) else y.rawAt }) s
    else if kind = 2 then
      (match ds.find? (fun d => rxd s p d 0 1 == 2 && keyMatch s (ethTab s p) (et s p 0x14 4) d { bytes := pay }) with
       | some d => ethLand p d stamp { bytes := pay } s
       | none => ethDiscard p s)
    else
      let body := if pay.take 6 = [0x55, 0x64, 0x50, 0x62, 0x43, 0x00] then pay.drop 6 else pay
      let ts := (sentences (body.length + 1) body).filter (fun t => nmeaCharsOk t && nmeaOk false t)
      let keyed := ts.filterMap (fun t =>
        let x : RxData := { bytes := t, fields := some (nmeaFields t) }
        (ds.find? (fun d => rxd s p d 0 1 == 1 && keyMatch s (ethTab s p) (et s p 0x14 4) d x)).map (fun d => (d, x)))
      -- a later sentence of one descriptor replaces the earlier one
      let last := keyed.foldl (fun (m : List (Nat × RxData)) k => m.filter (fun q => q.1 != k.1) ++ [k]) []
      if last.isEmpty then ethDiscard p s else last.foldl (fun s k => ethLand p k.1 stamp k.2 s) s

/-- The arrival stamp of R397, less the time since the start-of-frame delimiter. -/
def ethStamp (s : State) (p ago : Nat) : Nat := ((rxStamp s p).floor).toNat - ago

/-- What becomes of a frame that is delivered. -/
def ethDeliver (p : Nat) (f : EthFrame) (s : State) : State :=
  match f.body with
  | .arpRequest target sender mac =>
    if ethFlag s p 2 && target.toNat == ethIp s p then modEth p (fun y => { y with arp := some (sender, mac) }) s else ethDiscard p s
  | .ptp => s
  | .mep => if ethFlag s p 1 then s else ethDiscard p s
  | .udp srcIp dstIp _ dstPort plain hdrOk sumOk pay =>
    if !plain then ethDiscard p s
    else if !hdrOk || !sumOk then modEth p (fun y => { y with fcs := sat16 y.fcs, disc := sat16 y.disc }) s
    else ethUdp p (ethStamp s p f.ago) srcIp.toNat dstIp.toNat dstPort.toNat pay s
  | .other => ethDiscard p s

/-- The frame limit of a pack cycle: whether a frame is within it; the first discarded in a pack cycle is recorded (R445). -/
def ethAdmit (p : Nat) (s : State) : Bool × State :=
  let c := ptpCycle s
  let s := if (ethOf s p).cyc = c then s else modEth p (fun y => { y with cyc := c, inCyc := 0, excess := 0 }) s
  let x := ethOf s p
  if et s p 0xE 2 ≤ x.inCyc then
    let s := setEth p { x with excess := x.excess + 1, limit := sat16 x.limit } s
    (false, if x.excess = 0 then raise 0x0D06 (w32 p) 1 (w32 c) s else s)
  else (true, setEth p { x with inCyc := x.inCyc + 1 } s)

/-- A frame received on ETH2 or ETH3 (R445): filter, limit, deliver. -/
def ethFrame (p : Nat) (f : EthFrame) (s : State) : State :=
  if !f.fcsOk then modEth p (fun y => { y with fcs := sat16 y.fcs, disc := sat16 y.disc }) s
  else if 1522 < f.len ∨ !ethFor s p f then ethDiscard p s
  else
    let r := ethAdmit p s
    if r.1 then ethDeliver p f r.2 else r.2

/-- ETH0 and ETH1 belong to the pack switch. -/
def execEthFrameReceived (p : Fin 4) (f : EthFrame) (s : State) : Res :=
  if 2 ≤ p.val ∧ ethLive s p then .next (ethFrame p f s) else .next s

/-- Does the RAW queue of a descriptor hold data, RAW_PACE µs of PTP time after the last chunk or the first byte? -/
def rawDue (s : State) (p d : Nat) : Bool :=
  ethLive s p && !(tget [] (ethOf s p).raw d).isEmpty && decide (tget 0 (ethOf s p).rawAt d + 1000 * rxd s p d 0xA 2 ≤ ptcNs s)

/-- RAW_PACE passes while the RAW queue of a descriptor holds data: a chunk of up to 60 bytes lands (R446). -/
def execEthRawChunk (p : Fin 4) (d : BitVec 8) (s : State) : Res :=
  let x := ethOf s p
  let q := tget [] x.raw d.toNat
  if rawDue s p d.toNat then
    let n := tget 0 x.seqs d.toNat + 1
    let s := setEth p { x with raw := tset [] x.raw d.toNat (q.drop 60), rawAt := tset 0 x.rawAt d.toNat (ptcNs s), seqs := tset 0 x.seqs d.toNat n, landed := x.landed + 1 } s
    .next (landFrom (0x24 + p.val) d.toNat (chunkWords n (q.take 60)) (ptcNs s) s)
  else .next s

/-! ### Link, disable (R444, R448). -/

/-- Speed code of a link word: 10 Mb/s and half duplex count as down, as does 100 Mb/s on a ring port. -/
def linkSpeed (p : Nat) (w : LinkWord) : BitVec 2 :=
  if !w.up || !w.full then 0 else if w.speed = 1000 then 2 else if w.speed = 100 ∧ 2 ≤ p then 1 else 0

def execEthLink (p : Fin 4) (w : LinkWord) (s : State) : Res :=
  let c := linkSpeed p w
  if (ethOf s p).speed = c then .next s
  else
    let s := modEth p (fun y => { y with speed := c }) s
    let s := if p.val < 2 then { s with pack := { s.pack with psw := { s.pack.psw with
        link := if c = 0 then s.pack.psw.link &&& ~~~ BitVec.ofNat 2 (2 ^ p.val) else s.pack.psw.link ||| BitVec.ofNat 2 (2 ^ p.val) } } } else s
    .next (raise 0x0D05 (w32 p) (c.setWidth 32) 0 s)

def ethDisable (p : Nat) (s : State) : State := modEth p (fun y => { y with raw := [] }) s

/-- The registers of a port by offset (Table 13-12); the counters read 0 for the ring ports. -/
def ethReg (s : State) (p off : Nat) : Option Word :=
  let x := ethOf s p
  let c (w : Word) : Option Word := some (if p < 2 then 0 else w)
  match off with
  | 0x00 => some (w32 (128 * b2n (ethDisabled s p) + 64 * b2n (decide (0 < x.excess) && x.cyc == ptpCycle s) + 16 * x.speed.toNat + b2n (x.speed != 0)))
  | 0x04 => c (w32 (65536 * x.landed.toNat + x.disc.toNat))
  | 0x08 => c (w32 (65536 * x.fcs.toNat + x.limit.toNat))
  | 0x0C => c (w32 (65536 * x.sentN.toNat + x.supp.toNat))
  | _ => none

end Sys2Proof.Machine
end

