-- ==== Sys2Proof/Machine/Can.lean ====
section
/-! DEFINITION. Sys2Proof/Machine/Can.lean: the CAN FD controllers (R428 to R437). -/

namespace Sys2Proof.Machine

def ca13 (s : State) (c off n : Nat) : Nat := fld s .cant c off n

/-- Where a controller's tables lie (Table 13-6). -/
def canTab (s : State) (c : Nat) : PortTab := { ty := .cant, inst := c, ext := fld32 s .cant c 0x14, pool := fld32 s .cant c 0x18 }

def canOn (s : State) (c : Nat) : Bool := bitOf (ca13 s c 0 1) 0
def objCnt (s : State) (c : Nat) : Nat := ca13 s c 0xC 1

/-- A field of object descriptor o (Table 13-9). -/
def od (s : State) (c o off n : Nat) : Nat := ca13 s c (ca13 s c 0x10 4 + 32 * o + off) n
def objUsed (s : State) (c o : Nat) : Bool := decide (o < objCnt s c) && bitOf (od s c o 0 1) 0
def objTx (s : State) (c o : Nat) : Bool := bitOf (od s c o 0 1) 1

def canOf (s : State) (c : Nat) : CanCtl := tget {} s.ports.can c
def setCan (c : Nat) (x : CanCtl) (s : State) : State := { s with ports := { s.ports with can := tset {} s.ports.can c x } }
def modCan (c : Nat) (f : CanCtl → CanCtl) (s : State) : State := setCan c (f (canOf s c)) s
def canObj (s : State) (c o : Nat) : CanObj := tget {} (canOf s c).objs o
def modObj (c o : Nat) (f : CanObj → CanObj) (s : State) : State := modCan c (fun x => { x with objs := tmod {} x.objs o f }) s

def satH (h : Half) : Half := if h = 0xFFFF#16 then h else h + 1

/-- Is the controller in its gated state? (R435) -/
def canGated (s : State) : Bool := outMode s != .enabled

/-- Payload bytes of a DLC. -/
def dlcLen (d : Nat) : Nat := if d ≤ 8 then d else [12, 16, 20, 24, 32, 48, 64].getD (d - 9) 64

/-! ### Error states (R434). -/

/-- The error state that the counters give: 4 BUS-OFF, 3 ERROR-PASSIVE, 2 ERROR-ACTIVE. -/
def errState (tec rc : Nat) : BitVec 3 := if 256 ≤ tec then 4 else if 128 ≤ tec ∨ 128 ≤ rc then 3 else 2

def canStateEv (c : Nat) (s : State) : State :=
  let x := canOf s c
  raise 0x0D00 (w32 c) (x.state.setWidth 32) (w32 (256 * min x.tec 255 + min x.rec_ 255)) s

/-- Move to the error state of the counters, from a state that takes part in the bus. In bus-off nothing is on the wire. -/
def canJudge (c : Nat) (s : State) : State :=
  let x := canOf s c
  let n := errState x.tec x.rec_
  if x.state = 0 ∨ x.state = 1 ∨ x.state = 4 ∨ x.state = n then s
  else
    let s := setCan c { x with state := n, wire := if n = 4 then none else x.wire } s
    let s := match (if n = 4 then x.wire else none) with
      | some o => modObj c o (fun b => { b with stat := if b.cancel then 4 else 1, again := false }) s
      | none => s
    canStateEv c s

/-- A valid frame has been sent (how 0) or received (1): the run of lonely attempts ends (R434). -/
def canHeard (c how : Nat) (s : State) : State :=
  let x := canOf s c
  let s := setCan c { x with lonely := false, ackRun := 0 } s
  if x.lonely then raise 0x0D02 (w32 c) (x.ackRun.setWidth 32) (w32 how) s else s

/-! ### Arbitration (R432). -/

/-- What arbitration compares: the base identifier, then the format, then the extension. -/
def arbKey (b : CanObj) : Nat := if b.ide then (b.id.toNat / 2 ^ 18) * 2 ^ 19 + 2 ^ 18 + b.id.toNat % 2 ^ 18 else (b.id.toNat % 2 ^ 11) * 2 ^ 19

/-- The PENDING object that is sent first. -/
def canBest (s : State) (c : Nat) : Option Nat :=
  let l := (List.range (objCnt s c)).filter (fun o => (canObj s c o).stat = 1)
  l.foldl (fun a o => match a with
    | none => some o
    | some q => if arbKey (canObj s c o) < arbKey (canObj s c q) then some o else some q) none

/-- A frame of the controller starts, when one is pending and it may send. -/
def canBegin (c : Nat) (go : Bool) (s : State) : State :=
  let x := canOf s c
  if !go || x.wire.isSome || canGated s || !(x.state == 2 || x.state == 3) then s
  else match canBest s c with
    | some o => modObj c o (fun b => { b with stat := 2 }) (modCan c (fun x => { x with wire := some o }) s)
    | none => s

/-- The object on the wire, a frame having begun if none was recorded. -/
def canWire (c : Nat) (s : State) : State := canBegin c true s

/-! ### CAN_TX and CAN_CANCEL (R432, R433, R449). -/

def canTxEffect (c o : Nat) (s : State) : State :=
  if objUsed s c o && objTx s c o then
    let x := buildBinary s (canTab s c) (od s c o 0x10 4) (dlcLen (od s c o 1 1)) (od s c o 0xC 2) (od s c o 2 1) (od s c o 0x14 4 % 2 ^ 17)
    modCan c (fun y => { y with fifo := y.fifo ++ [handed s (4 + od s c o 2 1) (.tx o (x.1.take (dlcLen (od s c o 1 1))))] }) s
  else s

def execCanTx (c : Fin 8) (o : BitVec 7) (s : State) : Res :=
  let w := opWord (0x10 + c.val) 1 o.toNat
  issue (0x10 + c.val) 0 w (fun s => if objCnt s c ≤ o.toNat then breach 0x0107 w s else canTxEffect c o.toNat s) s

def execCanCancel (c : Fin 8) (o : BitVec 7) (s : State) : Res :=
  let w := opWord (0x10 + c.val) 2 o.toNat
  issue (0x10 + c.val) 0 w (fun s =>
    if objCnt s c ≤ o.toNat then breach 0x0107 w s else modCan c (fun y => { y with fifo := y.fifo ++ [handed s 4 (.cancel o.toNat)] }) s) s

def cancelEv (c o outcome : Nat) (s : State) : State := raise 0x0D03 (w32 c) (w32 o) (w32 outcome) s

/-- A transmit request reaches KCLK: the object takes the content and becomes PENDING, or GATED. -/
def canArrive (c o : Nat) (d : List Byte) (s : State) : State :=
  let x := canOf s c
  let fl := od s c o 0 1
  let s := modObj c o (fun b => { b with
    seq := b.seq + 1, id := BitVec.ofNat 29 (od s c o 4 4), ide := bitOf fl 2, fdf := bitOf fl 3, brs := bitOf fl 4, esi := x.state == 3
    dlc := BitVec.ofNat 4 (od s c o 1 1), data := d }) s
  if x.wire = some o then modObj c o (fun b => { b with again := x.state != 0 }) s
  else modObj c o (fun b => { b with stat := if x.state = 0 then 4 else if canGated s then 6 else 1 }) s

/-- The crossing into KCLK of 80 MHz. -/
def canCross : Crossing := { lo := 3, hi := 4, num := 5, den := 1 }

/-- begins: the bus is free, so that the controller's best pending frame starts at once. Before the least crossing time nothing arrives (R46). -/
def execCanTxArrival (c : Fin 8) (begins : Bool) (s : State) : Res :=
  match (canOf s c).fifo with
  | ⟨t, .tx o d⟩ :: l =>
    if mayArrive s canCross ⟨t, CanFifo.tx o d⟩ then .next (canBegin c begins (canArrive c o d (modCan c (fun x => { x with fifo := l }) s))) else .next s
  | _ => .next s

def execCanCancelArrival (c : Fin 8) (s : State) : Res :=
  match (canOf s c).fifo with
  | ⟨t, .cancel o⟩ :: l =>
    if mayArrive s canCross ⟨t, CanFifo.cancel o⟩ = false then .next s
    else
    let s := modCan c (fun x => { x with fifo := l }) s
    if (canOf s c).wire = some o then .next (modObj c o (fun b => { b with cancel := true, again := false }) s)
    else if (canObj s c o).stat = 1 then .next (cancelEv c o 4 (modObj c o (fun b => { b with stat := 4 }) s))
    else .next s
  | _ => .next s

/-- A frame of this controller completes without error (R432, R433). -/
def execCanFrameSent (c : Fin 8) (begins : Bool) (s : State) : Res :=
  let s := canWire c s
  match (canOf s c).wire with
  | none => .next s
  | some o =>
    let b := canObj s c o
    let s := modObj c o (fun b => { b with stat := if b.again then 1 else if b.cancel then 5 else 3, again := false, cancel := false }) s
    let s := modCan c (fun x => { x with wire := none, tx := x.tx + 1, tec := x.tec - 1 }) s
    let s := if b.cancel then cancelEv c o 5 s else s
    .next (canBegin c begins (canJudge c (canHeard c 0 s)))

/-- An attempt ends in lost arbitration or an error; more counts the further rises of 8 of the transmit error counter. -/
def execCanAttemptEnd (c : Fin 8) (e : CanErr) (more : BitVec 5) (begins : Bool) (s : State) : Res :=
  let s := canWire c s
  let x := canOf s c
  match x.wire with
  | none => .next s
  | some o =>
    let b := canObj s c o
    let ends := b.cancel || x.state == 0
    let s := modObj c o (fun b => { b with stat := if ends && !b.again then 4 else 1, again := false, cancel := false }) s
    let up := match e with
      | .lostArb | .stuffArb => 0
      | .ack => if x.state = 3 then 0 else 8
      | .other => 8
    let run : Half := if e = .ack then satH x.ackRun else 0
    let s := modCan c (fun x => { x with
      wire := none, tec := x.tec + up + (if e = .lostArb then 0 else 8 * more.toNat), ackRun := run
      errFr := if e = .lostArb then x.errFr else satH x.errFr }) s
    let s := if ends then cancelEv c o 4 s else s
    let alone := e = .ack ∧ ca13 s c 0xA 2 ≤ run.toNat ∧ !x.lonely
    let s := if alone then raise 0x0D01 (w32 c) (run.setWidth 32) (w32 o) (modCan c (fun x => { x with lonely := true }) s) else s
    .next (canBegin c begins (canJudge c s))

/-- 128 occurrences of 11 recessive bits end bus-off (R434). -/
def execCanBusoffRecovery (c : Fin 8) (begins : Bool) (s : State) : Res :=
  if (canOf s c).state = 4 then
    .next (canBegin c begins (canStateEv c (modCan c (fun x => { x with state := 2, tec := 0, rec_ := 0 }) s)))
  else .next s

/-- After an enable, 11 recessive bits end the integration (R436). -/
def execCanIntegrationComplete (c : Fin 8) (begins : Bool) (s : State) : Res :=
  if (canOf s c).state = 1 then .next (canBegin c begins (canStateEv c (modCan c (fun x => { x with state := 2 }) s))) else .next s

/-! ### Reception (R431, R434). -/

/-- The first receive object that matches a frame. -/
def canMatch (s : State) (c : Nat) (f : CanFrame) : Option Nat :=
  (List.range (objCnt s c)).find? (fun o =>
    objUsed s c o && !objTx s c o && bitOf (od s c o 0 1) 2 == f.ide && ((od s c o 4 4 ^^^ f.id.toNat) &&& od s c o 8 4) == 0)

/-- META words of a CAN frame (Table 13-2). -/
def canMeta (count : Nat) (f : CanFrame) : List Nat :=
  [count, f.data.length, f.id.toNat, f.dlc.toNat + 16 * b2n f.fdf + 32 * b2n f.brs + 64 * b2n f.ide]

/-- The object stores the frame and lands its record (R431, R426). -/
def canStore (c o : Nat) (f : CanFrame) (s : State) : State :=
  let s := modObj c o (fun b => { b with
    seq := b.seq + 1, id := f.id, ide := f.ide, fdf := f.fdf, brs := f.brs, esi := f.esi, dlc := f.dlc, data := f.data, count := b.count + 1 }) s
  let s := modCan c (fun x => { x with rx := x.rx + 1 }) s
  match lbuOfSource s (0x10 + c) o with
  | none => s
  | some n =>
    match extractAll s (canTab s c) (od s c o 0xC 2) (od s c o 2 1) (lbutFld s n 4 4 % 2 ^ 17) { bytes := f.data, meta4 := canMeta (canObj s c o).count f } with
    | .ok ws => lbuComplete n ws (asyncStamp s) [] s
    | .error e => raise 0x0D07 (w32 (0x10 + c)) (w32 o) (w32 e) (modCan c (fun x => { x with field := satH x.field }) s)

/-- The receive error counter after a valid frame: above 127 it is set to a value from 119 to 127, which the standard leaves open. -/
def recAfter (s : State) (r : Nat) : Nat := if 127 < r then 119 + (Config.freeWord s.draws).toNat % 9 else r - 1

def execCanFrameReceived (c : Fin 8) (f : CanFrame) (begins : Bool) (s : State) : Res :=
  let x := canOf s c
  if x.state = 2 ∨ x.state = 3 then
    let s := setCan c { x with rec_ := recAfter s x.rec_ } { s with draws := s.draws + 1 }
    let s := canHeard c 1 s
    let s := if f.remote then s
      else match canMatch s c f with
        | some o => canStore c o f s
        | none => modCan c (fun x => { x with unm := satH x.unm }) s
    .next (canBegin c begins (canJudge c s))
  else .next s

/-- A bus error while receiving: the receive error counter rises by 1, and by 8 for each further cause of the standard. -/
def execCanRxError (c : Fin 8) (more : BitVec 5) (begins : Bool) (s : State) : Res :=
  let x := canOf s c
  if x.state = 2 ∨ x.state = 3 then
    .next (canBegin c begins (canJudge c (setCan c { x with rec_ := min 255 (x.rec_ + 1 + 8 * more.toNat), errFr := satH x.errFr } s)))
  else .next s

/-! ### Gating, disable, enable, view (R435 to R437). -/

/-- In the gated state the frame on the wire is cut off, and every pending object becomes GATED. -/
def canGate1 (s : State) (c : Nat) : State :=
  let x := canOf s c
  if (List.range (objCnt s c)).all (fun o => (canObj s c o).stat != 1 && (canObj s c o).stat != 2) then s
  else (List.range (objCnt s c)).foldl (fun s o => modObj c o (fun b => if b.stat = 1 ∨ b.stat = 2 then { b with stat := 6, again := false, cancel := false } else b) s)
    (setCan c { x with wire := none } s)

def canRefresh (s : State) : State := if canGated s then (List.range 8).foldl canGate1 s else s

/-- From the seal an enabled controller integrates on the bus. -/
def canSeal (s : State) : State :=
  (List.range 8).foldl (fun s c => if hasSect s .cant c && canOn s c then modCan c (fun x => { x with state := 1 }) s else s) s

def canDisable (c : Nat) (s : State) : State :=
  let s := (List.range (objCnt s c)).foldl (fun s o => if (canObj s c o).stat = 1 then cancelEv c o 4 (modObj c o (fun b => { b with stat := 4 }) s) else s) s
  let s := match (canOf s c).wire with
    | some o => modObj c o (fun b => { b with again := false }) s
    | none => s
  let views := (canOf s c).views
  views.foldl (fun s v => abortMbx v.mbx s) (modCan c (fun x => { x with state := 0, views := [] }) s)

def canEnable (c : Nat) (s : State) : State :=
  if hasSect s .cant c && canOn s c then modCan c (fun x => { x with state := 1, tec := 0, rec_ := 0 }) s else s

def canViewHandler (mbx c o : Nat) (s : State) : State :=
  if 8 ≤ c ∨ !hasSect s .cant c ∨ !objUsed s c o then completeMbx mbx rcRange s
  else modCan c (fun x => { x with views := x.views ++ [{ obj := o, due := latchFrame s, mbx := mbx }] }) s

def execCanView (mbx : BitVec 4) (c o : BitVec 8) (s : State) : Res := .next (canViewHandler mbx.toNat c.toNat o.toNat s)

/-- At a frame boundary the latched CAN-VIEW commands take effect. -/
def canBoundary (s : State) : State :=
  (List.range 8).foldl (fun s c =>
    let now := (canOf s c).views.filter (fun v => decide (v.due ≤ s.seq.k))
    let s := if now.isEmpty then s else modCan c (fun x => { x with views := x.views.filter (fun v => !decide (v.due ≤ s.seq.k)) }) s
    now.foldl (fun s v => completeMbx v.mbx rcDone (modCan c (fun x => { x with view := some v.obj }) s)) s) s

/-- The registers of a controller by offset (Table 13-12). -/
def canReg (s : State) (c off : Nat) : Option Word :=
  let x := canOf s c
  let v : CanObj := match x.view with
    | some o => canObj s c o
    | none => {}
  if off = 0x000 then some (w32 (16777216 * min x.tec 255 + 65536 * min x.rec_ 255 + 16 * b2n (s.boot.sealed && canGated s) + 8 * b2n x.lonely + x.state.toNat))
  else if off = 0x004 then some (w32 (65536 * x.rx.toNat + x.tx.toNat))
  else if off = 0x008 then some (w32 (65536 * x.ackRun.toNat + x.errFr.toNat))
  else if off = 0x00C then some (match x.view with
    | some o => w32 (128 + o)
    | none => 0)
  else if off = 0x010 then some (w32 (65536 * x.field.toNat + x.unm.toNat))
  else if 0x200 ≤ off ∧ off < 0x400 ∧ off % 4 = 0 then
    let b := canObj s c ((off - 0x200) / 4)
    some (w32 (256 * b.stat.toNat + b.seq.toNat))
  else if off = 0x400 then some (w32 (2147483648 * b2n v.brs + 1073741824 * b2n v.fdf + 536870912 * b2n v.ide + v.id.toNat))
  else if off = 0x404 then some (w32 (4096 * b2n v.esi + 256 * v.dlc.toNat + v.seq.toNat))
  else if 0x440 ≤ off ∧ off < 0x480 ∧ off % 4 = 0 then some (w32 (leNat ((v.data.drop (off - 0x440)).take 4)))
  else none

end Sys2Proof.Machine
end

