-- ==== Sys2Proof/Machine/Fce.lean ====
section
/-! DEFINITION. Sys2Proof/Machine/Fce.lean: the modulators, the filter chain engine and the quadrature decoders (R296 to R316). -/

namespace Sys2Proof.Machine

/-! ### FCEC (R313). -/

def fc (s : State) (off n : Nat) : Nat := fld s .fcec 0 off n

/-- A field of channel descriptor c (Table 9-6). -/
def fch (s : State) (c off n : Nat) : Nat := fc s (fc s 0 4 + 64 * c + off) n

def fcEnabled (s : State) (c : Nat) : Bool := bitOf (fch s c 0 1) 0
def fcRank (s : State) (c : Nat) : Bool := bitOf (fch s c 0 1) 1
def fcFir (s : State) (c : Nat) : Bool := bitOf (fch s c 0 1) 2
def fcNanU (s : State) (c : Nat) : Bool := bitOf (fch s c 0 1) 3
def fcGroup (s : State) (c : Nat) : Nat := fch s c 1 1 % 8
def fcSh (s : State) (c k : Nat) : Nat := fch s c (0x0A + k) 1
def fcSettleN (s : State) (c : Nat) : Nat := fch s c 0x0E 2

/-- Word k of the coefficient pool, signed. -/
def fcPool (s : State) (k : Nat) : Int := signedOf 32 (fc s (fc s 4 4 + 4 * k) 4)

def fceChan (s : State) (c : Nat) : FceChan := tget {} s.fce.chans c
def setFce (c : Nat) (x : FceChan) (s : State) : State := { s with fce := { s.fce with chans := tset {} s.fce.chans c x } }

/-- Is the channel, or the FCE, disabled? (R315) -/
def fceOff (s : State) (c : Nat) : Bool := isDisabled s 7 c

/-- shr of R300: an exact value times 2^-sh rounded to even; none outside the SFX range. -/
def shrI (v : Option Int) (sh : Nat) : Option Int :=
  v.bind (fun x =>
    let m := roundEven ((x : Rat) * pow2 (-(sh : Int)))
    if -(2 ^ 31 - 1) ≤ m ∧ m ≤ 2 ^ 31 - 1 then some m else none)

/-! ### Restarts (R302). -/

/-- The restart of a channel's fine path with a cause; START, SWITCH and ENABLE restart the coarse path too (Table 9-2). -/
def fceRestart (c cause : Nat) (s : State) : State :=
  let x := fceChan s c
  let n := fch s c 2 1
  let x := { x with
    acc := List.replicate n 0, comb := List.replicate n 0, rank := [], fir := [], bq := List.replicate (fch s c 9 1) [0, 0, 0, 0]
    held := nanWord, settled := false, left := fcSettleN s c, stepN := 0, age := 0, fines := 0
    restarts := x.restarts + 1, cause := BitVec.ofNat 3 cause, coarse := if cause ≤ 3 then [] else x.coarse }
  raise 0x0901 (w32 c) (w32 cause) (w32 (fcSettleN s c)) (setFce c x s)

/-- The restarts that wait for the next value: an enable and a command together are reported as ENABLE (R302). -/
def fcePending (c : Nat) (s : State) : State :=
  let x := fceChan s c
  if !x.pendCmd && !x.pendEn then s
  else fceRestart c (if x.pendEn then 3 else 4) (setFce c { x with pendCmd := false, pendEn := false } s)

/-! ### Values (R297, R300, R303). -/

/-- One value through the cascaded integrators. -/
def cicAdd (v : Dword) : List Dword → List Dword
  | [] => []
  | a :: l => (a + v) :: cicAdd (a + v) l

/-- A bit of a single-bit modulator as it enters the chain (R296). -/
def bitValue (b : Bool) : Int := if b then 1 else -1

/-- A channel takes one stream value: a marker passes, a skip value is 0, and the coarse path takes the values after the skip (R297, R303). -/
def fceTake (v : Int) (x : FceChan) : FceChan :=
  let v := if x.skip = 0 ∨ x.skip = 9 then v else 0
  { x with
    acc := cicAdd (BitVec.ofInt 64 v) x.acc
    pos := x.pos + 1
    skip := x.skip - 1
    coarse := if x.skip = 0 then (v :: x.coarse).take 32 else x.coarse }

def fceTakeAll (c : Nat) (l : List Int) (s : State) : State := setFce c (l.foldl (fun x v => fceTake v x) (fceChan s c)) s

/-! ### Starts and selects (R297, R298, R312). -/

/-- A converter-start strobe reaches ACLK: the stopped enabled channels of its groups start with select FIELD. -/
def execFceStart (mask : BitVec 8) (s : State) : Res :=
  let m := mask &&& arrived s aclkCross s.ttu.conv
  let named := (List.range 64).filter (fun c => fcEnabled s c && bitOf m.toNat (fcGroup s c))
  let fresh := named.filter (fun c => !(fceChan s c).started)
  let s := { s with ttu := { s.ttu with conv := leaveOut s aclkCross mask s.ttu.conv }, fce := { s.fce with groups := s.fce.groups ||| m } }
  let s := if fresh.length < named.length then
      { s with fce := { s.fce with ignCnt := if s.fce.ignCnt = 0xFFFF#16 then s.fce.ignCnt else s.fce.ignCnt + 1 } } else s
  let s := fresh.foldl (fun s c =>
    let s := setFce c { fceChan s c with started := true, sel := 0, skip := if c < 48 then 9 else 0, pos := 0, win := 0, pendCmd := false, pendEn := false } s
    let s := if 48 ≤ c then { s with fce := { s.fce with qcount := tset 0 s.fce.qcount (c - 48) 0 } } else s
    fceRestart c 1 s) s
  .next (if fresh = [] then s else raise 0x0900 (m.setWidth 32) (w32 fresh.length) 0 s)

/-- A select enters the FIFO to ACLK for a channel at its tick of issue (R312). -/
def sendSelect (c : Nat) (sel : BitVec 2) (s : State) : State := { s with fce := { s.fce with selFifo := s.fce.selFifo ++ [handed s 0 (c, sel)] } }

/-- The oldest select of a channel reaches its modulator: a change makes a marker and skip values, and restarts the chain; before is
how many values of the window have been read ahead of the marker since the channel's last event. -/
def execModulatorSelectApply (chan : Fin 48) (before : Nat) (s : State) : Res :=
  let c := chan.val
  match s.fce.selFifo.find? (fun p => p.item.1 = c) with
  | none => .next s
  | some p =>
    if mayArrive s aclkCross p = false ∨ domGated s .ana then .next s else
    let s := { s with fce := { s.fce with selFifo := s.fce.selFifo.erase p } }
    let x := fceChan s c
    if !x.started then .next (setFce c { x with sel := p.item.2 } s)
    else if x.sel = p.item.2 then .next s
    else
      let x := { x with sel := p.item.2, skip := 9, pos := x.pos + before, pendCmd := false, pendEn := false }
      .next (if fceOff s c then setFce c x s else fceRestart c 2 (setFce c x s))

/-- ANV_SEL; a select of 3 is no select (R312) and outside the engine's tables (R55). -/
def execAnvSel (chan : BitVec 3) (sel : BitVec 2) (s : State) : Res :=
  let w := opWord 0x2A 1 (chan.toNat + 8 * sel.toNat)
  issue 0x2A 0 w (fun s => if sel = 3 then breach 0x0107 w s else sendSelect (40 + chan.toNat) sel s) s

/-- FCE_RESTART: cause COMMAND, from the first value read at or after tick t + 2; nothing for a disabled channel (R312, R315). -/
def execFceRestart (chan : BitVec 6) (s : State) : Res :=
  issue 7 chan.toNat (opWord 7 1 chan.toNat) (fun s =>
    let x := fceChan s chan.toNat
    if x.started then setFce chan.toNat { x with pendCmd := true } s else s) s

/-! ### The chain processor (R300, R301, R305, R306). -/

/-- The combs, differential delay 1: the value and the combs after it. -/
def combs : Dword → List Dword → Dword × List Dword
  | v, [] => (v, [])
  | v, p :: l => let r := combs (v - p) l; (r.1, v :: r.2)

/-- The rank stage: the k-th smallest; none when any is none. -/
def rankOf (l : List (Option Int)) (k : Nat) : Option Int :=
  if l.any (fun v => v.isNone) then none else (sortBy (fun (a b : Int) => decide (a ≤ b)) (l.filterMap (fun v => v)))[k - 1]?

/-- The biquads from number i on: the output, the states, the number of the one that gave NaN. -/
def biquads (s : State) (base : Nat) : Nat → Option Int → List (List Int) → Option Int × List (List Int) × Option Nat
  | _, y, [] => (y, [], none)
  | i, none, l => (none, l, if i = 0 then none else none)
  | i, some x, q :: l =>
    let k (j : Nat) : Int := fcPool s (base + 5 * i + j)
    let v (j : Nat) : Int := q.getD j 0
    match shrI (some (k 0 * x + k 1 * v 0 + k 2 * v 1 - k 3 * v 2 - k 4 * v 3)) 30 with
    | none => (none, q :: l, some (i + 1))
    | some y => let r := biquads s base (i + 1) (some y) l; (r.1, [x, v 0, y, v 2] :: r.2.1, r.2.2)

/-- The coarse word over the last 32 values (R303). -/
def coarseWord (s : State) (c : Nat) (x : FceChan) : Option Int :=
  let k := signedOf 32 (fch s c 0x18 4)
  if x.coarse.length < 32 ∨ k = 0 then none else shrI (some (x.coarse.foldl (· + ·) 0 * k)) (fch s c 0x1C 1)

/-- settle_and_step (R305, R306): settle count, SETTLED, the step test. -/
def settleStep (c : Nat) (fine coarse : Option Int) (s : State) : State :=
  let x := fceChan s c
  let was := x.settled
  let x := { x with fines := x.fines + 1, left := x.left - 1, settled := was || decide (x.left ≤ 1) }
  let s := setFce c x s
  let s := if !was && x.settled then raise 0x0903 (w32 c) (x.cause.setWidth 32) (w32 x.fines) s else s
  let thr := fch s c 0x20 4
  if !was then setFce c { fceChan s c with stepN := 0 } s
  else match fine, coarse with
    | some f, some k =>
      let d := (f - k).natAbs
      if thr ≠ 0 ∧ thr < d then
        if fch s c 0x1D 1 ≤ x.stepN + 1 then
          raise 0x0902 (w32 c) (w32 d) (w32 thr) (setFce c { fceChan s c with settled := false, left := fcSettleN s c, stepN := 0 } s)
        else setFce c { fceChan s c with stepN := x.stepN + 1 } s
      else setFce c { fceChan s c with stepN := 0 } s
    | _, _ => setFce c { fceChan s c with stepN := 0 } s

/-- The stages up to the fine output: rank, FIR line, and for a fine output the fine value before SH3 with the stage of a NaN
(Table 9-8). -/
def fceStages (c : Nat) (fineOut : Bool) (x : FceChan) (s : State) : FceChan × Option Int × Option Nat :=
  let cb := combs (x.acc.getLastD 0) x.comb
  let y0 := shrI (some cb.1.toInt) (fcSh s c 0)
  let w := fch s c 3 1
  let rk := if fcRank s c then (if x.rank = [] then List.replicate w y0 else (y0 :: x.rank).take w) else []
  let k := fch s c 6 1
  let y1 := shrI (if fcRank s c then rankOf rk (if k = 0 then (w + 1) / 2 else k) else y0) (fcSh s c 1)
  let taps := fch s c 7 1
  let line := if fcFir s c then (if x.fir = [] then List.replicate taps y1 else (y1 :: x.fir).take taps) else []
  let x := { x with comb := cb.2, rank := rk, fir := line }
  if !fineOut then (x, none, none)
  else
    let h := fch s c 0x10 4
    let y2 := if fcFir s c then
        (if line.any (fun v => v.isNone) then none
         else shrI (some ((line.zipIdx.map (fun p => fcPool s (h + p.2) * p.1.getD 0)).foldl (· + ·) 0)) (fcSh s c 2))
      else shrI y1 (fcSh s c 2)
    let b := biquads s (fch s c 0x14 4) 0 y2 x.bq
    ({ x with bq := b.2.1 }, shrI b.1 (fcSh s c 3), if y2.isNone then some 2 else b.2.2.map (fun i => 3 + i))

/-- Ticks of a CIC output on the chain processor (R310). -/
def fceCost (s : State) (c : Nat) (fineOut : Bool) : Nat :=
  let fir := b2n (fcFir s c)
  4 + 2 * b2n (fcRank s c) + fir + (if fineOut then fir * ((fch s c 7 1 + 15) / 16 + 1) + 2 * fch s c 9 1 else 0)

/-- The record of a CIC output (Tables 9-3 and 9-4), stamped with the time the window's last value was read (R309), ago ticks
before the record completes, which is held between the bounds of R310. -/
def fceRecord (c ago : Nat) (fineOut range : Bool) (coarse : Option Int) (s : State) : State :=
  let x := fceChan s c
  let st := w32 (b2n x.settled + 2 * b2n (x.coarse.length == 32) + 4 + 8 * x.sel.toNat + 32 * b2n range + 256 * min x.age 15 + 65536 * x.left)
  let pos := if 48 ≤ c then tget 0 s.fce.qcount (c - 48) * BitVec.ofNat 32 (2 ^ fch s c 0x1F 1) else 0
  let least := fceCost s c fineOut - 1
  let most := least + ((((List.range 64).filter (fun d => fcEnabled s d && d != c)).map (fun d => fceCost s d true)).foldl (· + ·) 0)
  let ns := (nowHalf s - 5 * min most (max ago least)) / 2
  landDirect 7 c [x.held, (coarse.map i32).getD nanWord, st, pos] ns s

/-- One CIC output of an enabled channel. -/
def fceOutput (c ago : Nat) (s : State) : State :=
  let x := fceChan s c
  let fineOut := (x.win + 1) % fch s c 8 1 == 0
  let coarse := coarseWord s c x
  let r := fceStages c fineOut x s
  let s := setFce c { r.1 with win := x.win + 1, pos := 0, age := if fineOut then 0 else satInc 15 x.age } s
  let s := if fineOut then
      let s := match r.2.2 with
        | some st => raise 0x0904 (w32 c) (w32 st) (x.restarts.setWidth 32) s
        | none => s
      let s := settleStep c r.2.1 coarse s
      let y := fceChan s c
      setFce c { y with held := if fcNanU s c && !y.settled then nanWord else (r.2.1.map i32).getD nanWord } s
    else s
  let s := fceRecord c ago fineOut r.2.2.isSome coarse s
  if r.2.2.isSome then fceRestart c 5 s else s

/-- FCE_CIC_OUTPUT: the window's last value has been read. bits are the modulator's bits that complete the window since the channel's last event
(the marker's first, any bit in the place of a skip value; none for a quadrature channel, whose remaining values are 0), and split the
number of values read before a pending restart takes effect. Fewer bits complete no window. A disabled channel's grid goes on without a
record (R299, R315); a gated ANA domain gives channels 0 to 47 no values (R518). -/
def execFceCicOutput (chan : BitVec 6) (bits : List Bool) (split ago : Nat) (s : State) : Res :=
  let c := chan.toNat
  let x := fceChan s c
  let n := fch s c 4 2 - x.pos
  if !x.started || (decide (c < 48) && domGated s .ana) then .next s
  else if fceOff s c then .next (setFce c { x with win := x.win + 1, pos := 0, skip := 0 } s)
  else if c < 48 ∧ bits.length < n then .next s
  else
    let l : List Int := if c < 48 then (bits.take n).map bitValue else List.replicate n 0
    let s := fceTakeAll c (l.take split) s
    let s := if l.length ≤ split then s else fceTakeAll c (l.drop split) (fcePending c s)
    .next (fceOutput c ago s)

/-! ### Quadrature decoders (R311, R312). -/

/-- A filtered transition, or an error, of decoder q; gap is the number of cycles without one since the channel's last event. -/
def execQdcTransition (dec : BitVec 4) (dir : QdcStep) (gap : Nat) (s : State) : Res :=
  let q := dec.toNat
  let c := 48 + q
  if !(fceChan s c).started then .next s
  else
    let v : Int := match dir with
      | .up => 1
      | .down => -1
      | .both => 0
    let s := { s with fce := { s.fce with qcount := tmod 0 s.fce.qcount q (fun n => n + BitVec.ofInt 32 v) } }
    let s := if fceOff s c then s else fceTakeAll c (List.replicate gap 0 ++ [v]) (fcePending c s)
    match dir with
    | .both =>
      let e := tget 0 s.fce.qerr q
      let e := if e = 0xFFFF#16 then e else e + 1
      .next (raise 0x0905 (w32 q) (tget 0 s.fce.qcount q) (e.setWidth 32) { s with fce := { s.fce with qerr := tset 0 s.fce.qerr q e } })
    | _ => .next s

/-- QDC_ZERO: the clear enters the FIFO to ACLK (R312). -/
def execQdcZero (dec : BitVec 4) (s : State) : Res :=
  issue 0x2A 0 (opWord 0x2A 2 dec.toNat) (fun s => { s with fce := { s.fce with zeroFifo := s.fce.zeroFifo ++ [handed s 0 dec.toNat] } }) s

/-- The clear reaches the decoder; the stream is unaffected (R312). -/
def execQdcZeroApply (dec : BitVec 4) (s : State) : Res :=
  match s.fce.zeroFifo.find? (fun p => p.item = dec.toNat && mayArrive s aclkCross p) with
  | some p => .next { s with fce := { s.fce with zeroFifo := s.fce.zeroFifo.erase p, qcount := tset 0 s.fce.qcount dec.toNat 0 } }
  | none => .next s

/-! ### Enable and wake (R315, R518). -/

/-- A running channel restarts with cause ENABLE at its next value. -/
def fcePendEnable (c : Nat) (s : State) : State :=
  let x := fceChan s c
  if x.started then setFce c { x with pendEn := true } s else s

/-- At an enable of channel c, or of the FCE for instance 0. -/
def fceEnable (inst : Nat) (s : State) : State :=
  ((List.range 64).filter (fun c => inst == 0 || c == inst)).foldl (fun s c => if fceOff s c then s else fcePendEnable c s) s

/-- At the wake of ANA the running channels 0 to 47 restart. -/
def fceAnaWake (s : State) : State := (List.range 48).foldl (fun s c => fcePendEnable c s) s

/-- At the wake from SLEEP the running channels 48 to 63 restart; the position counts are unbroken. -/
def fceSleepWake (s : State) : State := (List.range 16).foldl (fun s q => fcePendEnable (48 + q) s) s

/-! ### Registers (R316). -/

def fceStat (s : State) : Word :=
  w32 (((List.range 64).filter (fun c => fcEnabled s c && (fceChan s c).settled)).length * 65536 + 256 * b2n (s.disabled.contains (7, 0)) + s.fce.groups.toNat)

/-- FCE_DIS and FCE_DISH: half h. -/
def fceDis (s : State) (h : Nat) : Word := w32 (((List.range 32).map (fun n => b2n (fceOff s (32 * h + n)) * 2 ^ n)).foldl (· + ·) 0)

def fceInsel (s : State) : Word := w32 (((List.range 8).map (fun n => (fceChan s (40 + n)).sel.toNat * 4 ^ n)).foldl (· + ·) 0)

def fceChReg (s : State) (c : Nat) : Word :=
  let x := fceChan s c
  w32 (65536 * x.left + 256 * x.restarts.toNat + 32 * x.cause.toNat + 8 * x.sel.toNat + 4 * b2n x.started + 2 * b2n (x.coarse.length == 32) + b2n x.settled)

end Sys2Proof.Machine
end

