-- ==== Sys2Proof/Machine/Loops.lean ====
section
/-! DEFINITION. Sys2Proof/Machine/Loops.lean: current-loop outputs and inputs (R317 to R330). -/

namespace Sys2Proof.Machine

/-! ### The loop block of PWRT (R341). -/

def lpF (s : State) (n off len : Nat) : Nat := loopFld s (loopFld s 4 4 + 32 * n + off) len
def liF (s : State) (n off len : Nat) : Nat := loopFld s (loopFld s 8 4 + 16 * n + off) len

def lpoOn (s : State) (n : Nat) : Bool := decide (n < 16) && bitOf (lpF s n 0 1) 0
def lpiOn (s : State) (n : Nat) : Bool := decide (n < 24) && bitOf (liF s n 0 1) 0
def lpTol (s : State) (n : Nat) : Nat := lpF s n 0x14 2
def shAct (s : State) (n : Nat) : Nat := lpF s n 2 1

def lpoOf (s : State) (n : Nat) : Lpo := tget {} s.loops.lpo n
def setLpo (n : Nat) (x : Lpo) (s : State) : State := { s with loops := { s.loops with lpo := tset {} s.loops.lpo n x } }
def modLpo (n : Nat) (f : Lpo → Lpo) (s : State) : State := setLpo n (f (lpoOf s n)) s
def lpiOf (s : State) (n : Nat) : Lpi := tget {} s.loops.lpi n
def setLpi (n : Nat) (x : Lpi) (s : State) : State := { s with loops := { s.loops with lpi := tset {} s.loops.lpi n x } }

/-! ### Levels and the output stage (R318, R324, R327). -/

/-- The code of an alarm level (Table 10-3): 1 LOW, 2 HIGH, otherwise gate off. -/
def levelCode (l : BitVec 2) : Option Nat := if l = 1 then some 0x1CCD else if l = 2 then some 0xAC00 else none

/-- The alarm level of R324, from ALM_SEL and the jumpers as sampled. -/
def alarmLevel (s : State) (n : Nat) : BitVec 2 :=
  match lpF s n 1 1 with
  | 0 => 1
  | 1 => 2
  | _ => if s.loops.alj.getLsbD (n / 4) then 2 else 1

/-- A level comes into force: its judgement starts afresh (R325). -/
def newLevel (l : BitVec 2) (x : Lpo) : Lpo := { x with level := l, almOk := false, judged := false, almRun := 0, almIn := false }

/-- The state code of the output stage (Table 10-4). -/
def lpoStage (s : State) (n : Nat) : BitVec 3 :=
  if !lpoOn s n then 0
  else if outMode s = .boot then 0
  else if outMode s = .safe || isDisabled s 0x28 n then 4
  else if outMode s = .gated then 5
  else (lpoOf s n).state.setWidth 3

/-- The code a stage drives; none is gate off. -/
def lpoDrive (s : State) (n : Nat) (x : Lpo) (stage : BitVec 3) : Option Nat :=
  if stage = 0 ∨ stage = 5 then none
  else if stage = 4 then
    (match shAct s n with
     | 0 => x.frozen
     | 1 => levelCode x.level
     | _ => none)
  else x.applied

/-- Start the blanking when the driven code has changed by more than TOL (R571). -/
def blankIf (s : State) (n : Nat) (old new : Option Nat) (x : Lpo) : Lpo :=
  if lpTol s n < ((old.getD 0 : Nat) - (new.getD 0 : Nat) : Int).natAbs then { x with blank := lpF s n 0x18 1 } else x

/-- Are the checks of a stage suspended? (Table 10-4) -/
def lpoSuspended (s : State) (n : Nat) (stage : BitVec 3) : Bool :=
  stage == 0 || stage == 5 || (stage == 4 && (decide (2 ≤ shAct s n) || isDisabled s 0x28 n))

/-- The output stage of a channel follows the device's state (R327). -/
def lpoRefresh1 (s : State) (n : Nat) : State :=
  let x := lpoOf s n
  let st := lpoStage s n
  if st = x.stage then s
  else
    let old := lpoDrive s n x x.stage
    let y := { x with stage := st }
    let y := if lpoSuspended s n st then { y with mis := 0, loss := 0, almRun := 0 } else y
    let y := if st = 4 then
        (let y := { y with frozen := x.applied }
         if shAct s n = 1 then newLevel (alarmLevel s n) y else y)
      else if st = 3 && (x.stage == 4 || x.stage == 5) then newLevel (alarmLevel s n) y
      else if x.stage = 4 && x.state != 3 then newLevel 0 y else y
    setLpo n (blankIf s n old (lpoDrive s n y st) y) s

def lpoRefresh (s : State) : State := (List.range 16).foldl lpoRefresh1 s

/-- Change a channel, with the blanking that a change of its driven code starts. -/
def lpoChange (n : Nat) (f : Lpo → Lpo) (s : State) : State :=
  let x := lpoOf s n
  let y := f x
  setLpo n (blankIf s n (lpoDrive s n x x.stage) (lpoDrive s n y x.stage) y) s

/-- The status word of an output (LPO_CHn [15:0]). -/
def lpoStatus (x : Lpo) : Word :=
  w32 (8192 * x.stage.toNat + 2048 * x.level.toNat + 1024 * b2n x.almOk + 512 * b2n x.judged + 64 * x.cause.toNat + 32 * b2n x.comp
    + 16 * b2n x.ovr + 8 * b2n x.rbLost + 4 * b2n x.rbTest + 2 * b2n x.limit)

/-- Write signals of the output group: code in force, last evaluated readback, status word. -/
def lpoOut (n lat : Nat) (codeToo : Bool) (s : State) : State :=
  let x := lpoOf s n
  let o := lpF s n 0x0C 4 % 2 ^ 17
  let t := opTime s lat
  let s := if codeToo then writeSig o (w32 (x.code.getD 0)) qGood t s else writeSig (o + 1) (i32 x.y) qGood t s
  writeSig (o + 2) (lpoStatus x) qGood t s

/-! ### LPO_SET (R318 to R320, R326). -/

/-- Usable: quality GOOD, SUBST or FORCED, and not NaN (R319). -/
def cmdUsable (s : State) (i : Nat) : Bool := (sigQ s i == qGood || sigQ s i == qSubst || sigQ s i == qForced) && !sigNan s i

/-- A value in code units of 2^-11 mA. -/
def codeUnits (q : Rat) : Int := roundEven (q * 2048)

/-- The pending LOOP-CLEAR of a channel returns it to RUN with its counts at 0 (R326). -/
def lpoClear (n : Nat) (s : State) : State :=
  match s.loops.clears.find? (fun c => c.chan = n ∧ c.due ≤ s.seq.k) with
  | none => s
  | some c =>
    let s := { s with loops := { s.loops with clears := s.loops.clears.erase c } }
    let s := modLpo n (fun x => newLevel 0 { x with state := 1, cause := 0, comp := false, ovr := false, mis := 0, loss := 0, hold := 0 }) s
    completeMbx c.mbx rcDone (raise 0x0A03 (w32 n) (w32 (mbxOf s c.mbx).poster) 0 s)

/-- The holding code by the law of R319. -/
def lpoForm (s : State) (n : Nat) (x : Lpo) : Lpo :=
  let i := lpF s n 4 4 % 2 ^ 17
  let ok := cmdUsable s i
  let x := if x.state = 3 && x.cause == 1 && ok then newLevel 0 { x with state := 1, cause := 0 } else x
  let x := { x with limit := false }
  if x.state = 3 then { x with code := levelCode x.level }
  else if ok then
    let v := codeUnits ((sigNum s i).getD 0)
    let c := clampI (lpF s n 0x10 2 : Nat) (lpF s n 0x12 2 : Nat) v
    { x with code := some c.toNat, limit := decide (c ≠ v), hold := 0, state := 1 }
  else if lpF s n 3 1 < x.hold + 1 then newLevel (alarmLevel s n) { x with hold := x.hold + 1, state := 3, cause := 1 }
  else { x with hold := x.hold + 1, state := 2 }

def lpoSetEffect (n : Nat) (s : State) : State :=
  let s := lpoClear n (lpoRefresh1 s n)
  let x := lpoOf s n
  let y := lpoForm s n x
  let y := blankIf s n x.code y.code { y with fifo := y.fifo ++ [handed s 8 y.code] }
  lpoOut n 8 true (lpoRefresh1 (setLpo n y s) n)

/-- A channel that the loop block leaves disabled is outside the engine's tables (R55, R317). -/
def execLpoSet (chan : BitVec 4) (s : State) : Res :=
  let w := opWord 0x28 1 chan.toNat
  issue 0x28 chan.toNat w (fun s => if lpoOn s chan.toNat then lpoSetEffect chan.toNat s else breach 0x0107 w s) s

/-- The oldest code of a channel reaches ACLK: applied at once, or kept for the strobe with LATCHED (R320). Before its least crossing time
nothing arrives (R46). -/
def execLpoCodeApply (chan : BitVec 4) (s : State) : Res :=
  let n := chan.toNat
  match (lpoOf s n).fifo with
  | [] => .next s
  | c :: l =>
    if mayArrive s aclkCross c = false ∨ domGated s .ana then .next s
    else .next (if bitOf (lpF s n 0 1) 1 then modLpo n (fun x => { x with fifo := l, latch := c.item }) s
      else lpoChange n (fun x => { x with fifo := l, applied := c.item }) s)

/-- A loop-output latch strobe reaches ACLK: the LATCHED channels that it names apply their held code (R320). -/
def execLpoLatchStrobe (mask : BitVec 16) (s : State) : Res :=
  if domGated s .ana then .next s else
  let m := mask &&& arrived s aclkCross s.ttu.latch
  let s := { s with ttu := { s.ttu with latch := leaveOut s aclkCross mask s.ttu.latch } }
  .next ((List.range 16).foldl (fun s n =>
    if m.getLsbD n && lpoOn s n && bitOf (lpF s n 0 1) 1 then lpoChange n (fun x => { x with applied := x.latch }) s else s) s)

/-! ### LPO_CHECK (R321 to R325). -/

/-- A readback or input record is usable: fine word GOOD and no NaN, SETTLED, select FIELD (R321). -/
def recUsable (s : State) (i : Nat) : Bool :=
  sigQ s i == qGood && !sigNan s i && bitOf (sigW s (i + 2)).toNat 0 && bitsOf (sigW s (i + 2)).toNat 4 3 == 0

/-- The mismatch test against the driven code (R322). -/
def lpoMismatch (n : Nat) (c : Int) (s : State) : State :=
  let x := lpoOf s n
  let tol : Int := (lpTol s n : Nat)
  let low := decide (x.y < c - tol)
  let high := decide (c + tol < x.y)
  if !low && !high then setLpo n { x with comp := false, ovr := false, mis := 0 } s
  else
    let s := if low && !x.comp then raise 0x0A00 (w32 n) (i32 c) (i32 x.y) s else if high && !x.ovr then raise 0x0A05 (w32 n) (i32 c) (i32 x.y) s else s
    let k := if x.misHigh = high then x.mis + 1 else 1
    let y := { x with comp := low, ovr := high, mis := k, misHigh := high }
    if lpF s n 0x16 2 ≤ k then
      let cause : BitVec 3 := if low then 2 else 3
      raise 0x0A01 (w32 n) (cause.setWidth 32) (i32 x.y) (setLpo n (newLevel (alarmLevel s n) { y with state := 3, cause := cause }) s)
    else setLpo n y s

/-- The level judgement (R325). -/
def lpoJudge (n : Nat) (s : State) : State :=
  let x := lpoOf s n
  if x.judged || x.level == 0 then s
  else
    let tol : Int := (lpTol s n : Nat)
    let within : Bool := match levelCode x.level with
      | none => decide (x.y ≤ tol)
      | some c => decide ((x.y - (c : Int)).natAbs ≤ lpTol s n)
    let k := if x.almIn = within then x.almRun + 1 else 1
    let y := { x with almRun := k, almIn := within }
    if k < lpF s n 0x19 1 then setLpo n y s
    else
      let s := raise 0x0A02 (w32 n) (w32 (256 * x.level.toNat + b2n within)) (i32 x.y) (setLpo n { y with judged := true, almOk := within } s)
      if within then s
      else if x.level = 2 && bitOf (lpF s n 0 1) 2 then lpoChange n (newLevel 1) s
      else if x.level = 1 then lpoChange n (newLevel 3) s
      else s

def lpoCheckEffect (n : Nat) (s : State) : State :=
  let s := lpoRefresh1 s n
  let rb := lpF s n 8 4 % 2 ^ 17
  let use := recUsable s rb
  let s := modLpo n (fun x => { x with rbTest := bitsOf (sigW s (rb + 2)).toNat 4 3 != 0 }) s
  let x := lpoOf s n
  let s := if lpoSuspended s n x.stage then s
    else
      let s := if use then setLpo n { x with loss := 0, rbLost := false } s
        else
          let k := x.loss + 1
          let s := setLpo n { x with loss := k } s
          if lpF s n 0x1A 2 ≤ k && !x.rbLost then
            raise 0x0A04 (w32 n) ((sigQ s rb).setWidth 32) (sigW s (rb + 2)) (modLpo n (fun x => { x with rbLost := true }) s)
          else s
      let blanked := decide (x.blank ≠ 0)
      let s := modLpo n (fun x => { x with blank := x.blank - 1 }) s
      if !use || blanked then s
      else
        let s := modLpo n (fun x => { x with y := codeUnits ((sigNum s rb).getD 0) }) s
        let c : Int := (((lpoDrive s n (lpoOf s n) x.stage).getD 0 : Nat) : Int)
        if x.stage = 1 || x.stage == 2 then lpoMismatch n c s
        else if x.stage = 4 && shAct s n == 0 then (if x.state = 3 then s else lpoMismatch n c s)
        else lpoJudge n s
  lpoOut n 12 false (lpoRefresh1 s n)

def execLpoCheck (chan : BitVec 4) (s : State) : Res :=
  let w := opWord 0x28 2 chan.toNat
  issue 0x28 chan.toNat w (fun s => if lpoOn s chan.toNat then lpoCheckEffect chan.toNat s else breach 0x0107 w s) s

/-! ### Selects (R317) and loop inputs (R330). -/

def execLpoRbsel (chan : BitVec 4) (sel : BitVec 2) (s : State) : Res :=
  let w := opWord 0x28 3 (chan.toNat + 16 * sel.toNat)
  issue 0x28 chan.toNat w (fun s => if sel = 3 ∨ lpoOn s chan.toNat = false then breach 0x0107 w s else sendSelect (24 + chan.toNat) sel s) s

def execLpiSel (chan : BitVec 5) (sel : BitVec 2) (s : State) : Res :=
  let w := opWord 0x29 1 (chan.toNat + 32 * sel.toNat)
  issue 0x29 chan.toNat w (fun s => if sel = 3 ∨ lpiOn s chan.toNat = false then breach 0x0107 w s else sendSelect chan.toNat sel s) s

def lpiCheckEffect (n : Nat) (s : State) : State :=
  let i := liF s n 4 4 % 2 ^ 17
  let st := liF s n 8 4 % 2 ^ 17
  let t := opTime s 8
  let x := lpiOf s n
  if !recUsable s i then writeSig st 3 qGood t (setLpi n { x with last := 3 } s)
  else
    let y := codeUnits ((sigNum s i).getD 0)
    let per := liF s n 2 2
    let low := decide (y < ((liF s n 0x0C 2 : Nat) : Int))
    let high := decide (((liF s n 0x0E 2 : Nat) : Int) < y)
    let x := { x with lo := if low then x.lo + 1 else 0, hi := if high then x.hi + 1 else 0, ok := if low || high then 0 else x.ok + 1 }
    let new : BitVec 3 := if low && decide (per ≤ x.lo) then 1 else if high && decide (per ≤ x.hi) then 2 else if decide (per ≤ x.ok) then 0 else x.status
    let s := if new ≠ 0 ∧ new ≠ x.status then raise 0x0A06 (w32 n) (new.setWidth 32) (sigW s i) s else s
    writeSig st (new.setWidth 32) qGood t (setLpi n { x with status := new, last := new } s)

def execLpiCheck (chan : BitVec 5) (s : State) : Res :=
  let w := opWord 0x29 2 chan.toNat
  issue 0x29 chan.toNat w (fun s => if lpiOn s chan.toNat then lpiCheckEffect chan.toNat s else breach 0x0107 w s) s

/-! ### LOOP-CLEAR (R326). -/

/-- The handler: judged at its latch, applied at the channel's next LPO_SET. -/
def loopClearHandler (mbx n : Nat) (s : State) : State :=
  if !lpoOn s n then completeMbx mbx rcRange s
  else
    let x := lpoOf s n
    if isDisabled s 0x28 n || !(x.state == 3 && (x.cause == 2 || x.cause == 3)) then completeMbx mbx rcState s
    else { s with loops := { s.loops with clears := s.loops.clears ++ [{ chan := n, due := latchFrame s, mbx := mbx }] } }

def execLoopClear (mbx : BitVec 4) (chan : BitVec 8) (s : State) : Res := .next (loopClearHandler mbx.toNat chan.toNat s)

/-! ### Boundaries, disable, pins, registers (R324, R327, R328, R343). -/

/-- At a Meridian boundary the live jumpers are compared with the sample (R324). -/
def aljBoundary (s : State) : State :=
  if s.seq.k % s.hdr.m ≠ 0 then s
  else if s.pins.alj = s.loops.alj then { s with loops := { s.loops with aljRec := none } }
  else if s.loops.aljRec = some s.pins.alj then s
  else raise 0x0A07 (s.loops.alj.setWidth 32) (s.pins.alj.setWidth 32) 0 { s with loops := { s.loops with aljRec := some s.pins.alj } }

/-- A disable of output n: a waiting LOOP-CLEAR ends ABORTED (R326). -/
def lpoDisable (n : Nat) (s : State) : State :=
  let gone := s.loops.clears.filter (fun c => c.chan = n)
  let s := { s with loops := { s.loops with clears := s.loops.clears.filter (fun c => c.chan ≠ n) } }
  lpoRefresh1 (gone.foldl (fun s c => abortMbx c.mbx s) s) n

/-- An enable of output n restarts its blanking (R328). -/
def lpoEnable (n : Nat) (s : State) : State := modLpo n (fun x => { x with blank := lpF s n 0x18 1 }) (lpoRefresh1 s n)

/-- The code an output drives at its pin; none is gate off. A gated ANA stops the drive (R518). -/
def lpoPin (s : State) (n : Nat) : Option Nat := if domGated s .ana then none else lpoDrive s n (lpoOf s n) (lpoStage s n)

def loopFail (s : State) : Word := w32 (((List.range 16).map (fun n => b2n ((lpoOf s n).state == 3) * 2 ^ n)).foldl (· + ·) 0)
def loopRbLost (s : State) : Word := w32 (((List.range 16).map (fun n => b2n (lpoOf s n).rbLost * 2 ^ n)).foldl (· + ·) 0)
def loopAlj (s : State) : Word := w32 (16 * s.pins.alj.toNat + s.loops.alj.toNat)
def lpoReg (s : State) (n : Nat) : Word := w32 (65536 * ((lpoOf s n).code.getD 0)) + lpoStatus { lpoOf s n with stage := lpoStage s n }
def lpiReg (s : State) (n : Nat) : Word := w32 (8 * (fceChan s n).sel.toNat + (lpiOf s n).last.toNat)

end Sys2Proof.Machine
end

