-- ==== Sys2Proof/Machine/Hart.lean ====
section
/-! DEFINITION. Sys2Proof/Machine/Hart.lean: the HART framers (R331 to R340). -/

namespace Sys2Proof.Machine

/-! ### Ports and transactions (Tables 10-11, 10-12). -/

def hpF (s : State) (p off n : Nat) : Nat := loopFld s (loopFld s 0x0C 4 + 16 * p + off) n
def txF (s : State) (t off n : Nat) : Nat := loopFld s (loopFld s 0x10 4 + 32 * t + off) n
def txnCnt (s : State) : Nat := loopFld s 0x14 2

def hpFlag (s : State) (p k : Nat) : Bool := bitOf (hpF s p 0 1) k
def txFlag (s : State) (t k : Nat) : Bool := bitOf (txF s t 1 1) k
def txPort (s : State) (t : Nat) : Nat := txF s t 0 1

def hartOf (s : State) (p : Nat) : HartPort := tget {} s.loops.hart p
def setHart (p : Nat) (h : HartPort) (s : State) : State := { s with loops := { s.loops with hart := tset {} s.loops.hart p h } }
def modHart (p : Nat) (f : HartPort → HartPort) (s : State) : State := setHart p (f (hartOf s p)) s

/-- A port is disabled with its loop channel (R328). -/
def hartOff (s : State) (p : Nat) : Bool := if p < 16 then isDisabled s 0x28 p else isDisabled s 0x29 (p - 16)

/-- The learned unique address of (port, ADDR). -/
def hartId (s : State) (p addr : Nat) : Option (BitVec 40) := tget none s.loops.ids (16 * p + addr)

/-! ### HART_REQ (R336). -/

/-- A request value as it is sent: an IEEE 754 single, or the value word. -/
def reqWord (s : State) (i : Nat) (single : Bool) : Word :=
  if single then (match sigNum s i with
    | some q => toSingle q
    | none => 0x7FC00000#32)
  else if sigNan s i then nanWord else sigW s i

def hartReqEffect (t : Nat) (s : State) : State :=
  let sig := txF s t 0x10 4 % 2 ^ 17
  let fmt := txF s t 6 1
  let ws := (List.range (txF s t 5 1)).map (fun i => reqWord s (sig + i) (bitOf fmt i))
  let s := { s with loops := { s.loops with snaps := tset [] s.loops.snaps t ws } }
  if txFlag s t 0 then modHart (txPort s t) (fun h => { h with armed := if h.armed.contains t then h.armed else sortBy (fun a b => decide (a ≤ b)) (t :: h.armed) }) s else s

/-- HART_REQ; while the transaction's port is disabled it is suppressed (R51, R328). -/
def execHartReq (txn : BitVec 9) (s : State) : Res :=
  let w := opWord 0x29 3 txn.toNat
  if s.seq.run && !s.seq.stopped && hartOff s (txPort s txn.toNat) then .next (dropLane s)
  else issue 0x29 64 w (fun s => if txnCnt s ≤ txn.toNat then breach 0x0107 w s else hartReqEffect txn.toNat s) s

/-! ### Requests (R332, R335). -/

/-- The exclusive-or of bytes. -/
def xorBytes (l : List Byte) : Byte := l.foldl (fun a b => a ^^^ b) 0

/-- The address bytes of a request: primary master bit, no burst bit, and the polling or the unique address. -/
def hartAddr (s : State) (p addr : Nat) (id : Option (BitVec 40)) : List Byte :=
  let top : Byte := if hpFlag s p 2 then 0 else 0x80
  match id with
  | none => [BitVec.ofNat 8 addr ||| top]
  | some v => match beBytes 5 v.toNat with
    | b :: l => (b ||| top) :: l
    | [] => []

/-- A request frame. -/
def hartFrame (s : State) (p : Nat) (addr : List Byte) (cmd : Nat) (data : List Byte) : List Byte :=
  let body := [if addr.length = 1 then 0x02#8 else 0x82#8] ++ addr ++ [BitVec.ofNat 8 cmd, BitVec.ofNat 8 data.length] ++ data
  List.replicate (hpF s p 1 1) 0xFF#8 ++ body ++ [xorBytes body]

/-- The request data of a transaction: pool bytes, then the snapshots (0 before the first HART_REQ). -/
def txnData (s : State) (t : Nat) : List Byte :=
  let pool := (List.range (txF s t 4 1)).map (fun k => BitVec.ofNat 8 (loopFld s (loopFld s 0x1C 4 + txF s t 0x14 4 + k) 1))
  let ws := tget [] s.loops.snaps t
  pool ++ (List.range (txF s t 5 1)).flatMap (fun i => beBytes 4 (ws.getD i 0).toNat)

/-- ADDR, HART command and LONG of an exchange. -/
def exchange (s : State) (h : HartPort) (c : HartCur) : Nat × Nat × Bool × List Byte :=
  match c.txn, h.pass with
  | some t, _ => (txF s t 2 1, txF s t 3 1, txFlag s t 1, txnData s t)
  | none, some q => (q.addr, q.cmd, q.long, q.data)
  | none, none => (0, 0, false, [])

/-- Write the port's status signals: last result, completed, failed (Table 10-11). -/
def hartSignals (p : Nat) (s : State) : State :=
  let h := hartOf s p
  let i := hpF s p 8 4 % 2 ^ 17
  let t := wtimeOf (nowNs s)
  writeSig (i + 2) (counterWord h.failed.toNat) qGood t (writeSig (i + 1) (counterWord h.done.toNat) qGood t (writeSig i (h.result.setWidth 32) qGood t s))

/-- The pass-through ends: the response replaces the payload, and the command completes DONE (R339). -/
def hartPassEnd (p result rc dev : Nat) (data : List Byte) (s : State) : State :=
  let h := hartOf s p
  match h.pass with
  | none => s
  | some q =>
    let m := mbxOf s q.mbx
    let b (k v : Nat) : Word := w32 (v * 256 ^ k)
    let w1 := b 0 result + b 1 rc + b 2 dev + b 3 data.length
    let d := (data.take 48) ++ List.replicate (48 - data.length) 0
    let pay := (List.range 12).foldl (fun t k => tset 0 t (4 + k) (w32 (leNat ((d.drop (4 * k)).take 4)))) (tset 0 (tset 0 (tset 0 m.payload 1 w1) 2 0) 3 0)
    let s := setMbx q.mbx { m with payload := pay } s
    let s := raise 0x0A0A (w32 p) (w32 q.cmd) (w32 result) (modHart p (fun h => { h with pass := none, cur := none }) s)
    completeMbx q.mbx rcDone s

/-- A transaction ends with a result (R337): the counts, the signals, HART_FAIL when nothing lands. -/
def hartTxnEnd (p t result attempts : Nat) (s : State) : State :=
  let landed := result = 0 ∨ result = 4
  let s := modHart p (fun h => { h with
    cur := none, result := BitVec.ofNat 3 result, lastTxn := t
    done := if landed then h.done + 1 else h.done
    failed := if landed then h.failed else h.failed + 1
    fails := if landed then h.fails else h.fails + 1 }) s
  let s := if landed then s else raise 0x0A08 (w32 p) (w32 t) (Config.layoutWord 10 [result, attempts]) s
  hartSignals p s

/-- The end of the exchange in progress with a result that lands nothing. -/
def hartEnd (p result rc dev : Nat) (data : List Byte) (s : State) : State :=
  match (hartOf s p).cur with
  | none => s
  | some c => match c.txn with
    | some t => hartTxnEnd p t result c.attempts s
    | none => hartPassEnd p result rc dev data s

/-- The next cyclic transaction from a position on: BURST transactions are never sent, a ONESHOT only when armed (R335). -/
def nextCyclic (s : State) (p pos : Nat) : Option (Nat × Nat) :=
  let n := hpF s p 6 2
  ((List.range n).map (fun k => (pos + k) % n)).find? (fun k => let t := hpF s p 4 2 + k; !txFlag s t 3 && !txFlag s t 0) |>.map (fun k => (hpF s p 4 2 + k, (k + 1) % n))

/-- What the port sends next: a retry, an armed ONESHOT, a pending pass-through, the next cyclic transaction (R335). -/
def hartChoose (s : State) (h : HartPort) (p : Nat) : Option (HartPort × HartCur) :=
  match h.cur with
  | some c => if c.await then none else some (h, c)
  | none => match h.armed with
    | t :: l => some ({ h with armed := l }, { txn := some t, attempts := 0, await := false })
    | [] =>
      if (match h.pass with
        | some q => decide (q.due ≤ s.seq.k)
        | none => false) then some (h, { txn := none, attempts := 0, await := false })
      else (nextCyclic s p h.pos).map (fun r => ({ h with pos := r.2 }, { txn := some r.1, attempts := 0, await := false }))

/-! ### Data-link timers (R333, Table 10-6). -/

/-- Has a number of character times passed since a cycle? A character is 11 bits at 1,200 bit/s, a third of 11,000,000 CCLK cycles. -/
def charsPast (s : State) (since chars : Nat) : Bool := decide (3 * since + 11000000 * chars ≤ 3 * s.cclk)

/-- The character times of the timer in force. -/
def hartWait (s : State) (p : Nat) (h : HartPort) : Nat :=
  if h.timer = 1 then (if hpFlag s p 2 then 41 else 33) else if h.timer = 2 then 8 else 0

/-- A port sends only when it has detected no carrier for the timer in force. -/
def hartMaySend (s : State) (p : Nat) (h : HartPort) : Bool := !h.carrier && charsPast s h.since (hartWait s p h)

/-- No response has started within STO of the end of the request. -/
def stoOver (s : State) (h : HartPort) : Bool :=
  (match h.cur with
    | some c => c.await
    | none => false) && !h.carrier && !domGated s .ana && charsPast s h.sentAt (h.sent.length + 28)

/-- HART_REQUEST_SEND: the port's timer allows it, with no carrier, and it sends its next request (R333, R335). -/
def execHartRequestSend (port : Fin 40) (s : State) : Res :=
  let p := port.val
  let h := hartOf s p
  if !hpFlag s p 0 || hartOff s p || domGated s .ana || !hartMaySend s p h || !s.seq.run then .next s
  else match hartChoose s h p with
    | none => .next s
    | some (h, c) =>
      let e := exchange s h c
      let id := hartId s p e.1
      if e.2.2.1 && id.isNone then .next (hartEnd p 6 0 0 [] (setHart p { h with cur := some c } s))
      else
        let f := hartFrame s p (hartAddr s p e.1 (if e.2.2.1 then id else none)) e.2.1 e.2.2.2
        .next (setHart p { h with cur := some { c with attempts := c.attempts + 1, await := true }, sent := f, sentAt := s.cclk } s)

/-! ### Responses (R332, R334, R337, R338). -/

/-- A received frame taken apart: delimiter, address bytes, command, data. -/
structure HartParts where
  delim : Byte
  addr  : List Byte
  cmd   : Nat
  data  : List Byte
  deriving DecidableEq, Repr

/-- The frame test of R332. -/
def hartParse (f : HartFrame) : Option HartParts :=
  match f.bytes with
  | [] => none
  | d :: l =>
    let n := if d = 0x86 ∨ d = 0x81 then 5 else 1
    let cnt := (l.getD (n + 1) 0).toNat
    if 2 ≤ f.preambles && f.parityOk && f.gapsOk && (d == 0x06 || d == 0x86 || d == 0x01 || d == 0x81)
      && f.bytes.length == n + 4 + cnt && xorBytes f.bytes == 0 then
      some { delim := d, addr := l.take n, cmd := (l.getD n 0).toNat, data := (l.drop (n + 2)).take cnt }
    else none

/-- The response code (k = 0) or device status (k = 1) byte of the received data; of data that do not hold it, a free value. -/
def hartStatus (p k : Nat) (data : List Byte) : Nat := match data[k]? with
  | some v => v.toNat
  | none => (Config.layoutWord 19 [p, k]).toNat % 256

/-- The word of a float at an extraction's exponent, for an SFX or a UFX target (R71, R337). -/
def hartFloat (s : State) (t k : Nat) (e : Int) (q : Rat) : Option Word :=
  match lbuOfSource s 0x29 t with
  | some n => if entType (ent s (lbutFld s n 4 4 % 2 ^ 17 + 1 + k)) = 2 then ufxOf q e else sfxOf q e
  | none => sfxOf q e

/-- A word that an extraction entry gives from the data that follow the status bytes; none reaches beyond them (R337). -/
def hartExtract (s : State) (x : Nat) (float : Int → Rat → Option Word) (d : List Byte) : Option Word :=
  let o := loopFld s 0x18 4 + 4 * x
  let off := loopFld s o 1
  let fmt := loopFld s (o + 1) 1 % 8
  let e := signedOf 8 (loopFld s (o + 2) 1)
  let n := if fmt = 0 then 1 else if fmt = 1 ∨ fmt = 4 then 2 else if fmt = 2 then 3 else 4
  if d.length < off + n then none
  else
    let v := beNat ((d.drop off).take n)
    if fmt = 4 then some (i32 (signedOf 16 v))
    else if fmt = 6 then some ((ofSingle (w32 v)).bind (float e) |>.getD nanWord)
    else some (w32 v)

/-- Land a transaction's record from the response bytes; the result is OK or SHORT. -/
def hartLand (t attempts : Nat) (data : List Byte) (s : State) : State × Nat :=
  let d := data.drop 2
  let xs := (List.range (txF s t 7 1)).map (fun k => hartExtract s (txF s t 8 2 + k) (hartFloat s t k) d)
  let result := if xs.any (fun x => x.isNone) then 4 else 0
  let p := txPort s t
  let w0 := w32 (result + 256 * hartStatus p 0 data + 65536 * hartStatus p 1 data + 16777216 * (attempts % 256))
  (landDirect 0x29 t (w0 :: xs.map (fun x => x.getD nanWord)) (nowNs s) s, result)

/-- LEARN_ID (R338). A byte that the response does not hold is a free value. -/
def hartLearn (p t : Nat) (data : List Byte) (s : State) : State :=
  let d := data.drop 2
  let b (k : Nat) : Nat := match d[txF s t (0x0A + k) 1]? with
    | some v => v.toNat
    | none => (Config.layoutWord 12 [p, t, k]).toNat % 256
  let v : BitVec 40 := BitVec.ofNat 40 (beNat ((List.range 5).map (fun k => BitVec.ofNat 8 (if k = 0 then b 0 % 64 else b k))))
  let a := txF s t 2 1
  let s' := { s with loops := { s.loops with ids := tset none s.loops.ids (16 * p + a) (some v) } }
  match hartId s p a with
  | some old => if old = v then s' else raise 0x0A09 (Config.layoutWord 9 [p, a]) (old.setWidth 32) (v.setWidth 32) s'
  | none => s'

/-- A failed attempt: another one after RT2 while RETRIES allow it, or the end (R335). -/
def hartRetry (p result rc dev : Nat) (data : List Byte) (s : State) : State :=
  match (hartOf s p).cur with
  | none => s
  | some c =>
    let s := modHart p (fun h => { h with timer := 2, since := s.cclk }) s
    if c.attempts ≤ hpF s p 2 1 then modHart p (fun h => { h with cur := some { c with await := false } }) s
    else hartEnd p result rc dev data s

/-- Does a response come from the address and command of the exchange? The burst bit of a response is the slave's own. -/
def hartMatch (s : State) (p : Nat) (e : Nat × Nat × Bool × List Byte) (q : HartParts) : Bool :=
  let want := hartAddr s p e.1 (if e.2.2.1 then hartId s p e.1 else none)
  let clear (l : List Byte) : List Byte := match l with
    | b :: r => (b &&& 0xBF#8) :: r
    | [] => []
  clear q.addr == clear want && q.cmd == e.2.1

/-- A burst frame: matched by command number to the port's BURST transactions in POINT mode with BURST_RX (R334). -/
def hartBurst (p : Nat) (q : HartParts) (s : State) : State :=
  if hpFlag s p 1 || !hpFlag s p 4 then s
  else
    let ts := ((List.range (hpF s p 6 2)).map (fun k => hpF s p 4 2 + k)).filter (fun t => txFlag s t 3 && txF s t 3 1 == q.cmd)
    let s := ts.foldl (fun s t =>
      if bitOf (hartStatus p 0 q.data) 7 then s
      else let r := hartLand t 0 q.data s; hartTxnEnd p t r.2 0 r.1) s
    modHart p (fun h => { h with timer := 2, since := s.cclk }) s

/-- A response while one is awaited. -/
def hartResponse (p : Nat) (c : HartCur) (q : HartParts) (s : State) : State :=
  let e := exchange s (hartOf s p) c
  let st := hartStatus p 0 q.data
  let dev := hartStatus p 1 q.data
  let rest := q.data.drop 2
  if !hartMatch s p e q then hartRetry p 5 0 0 [] s
  else if bitOf st 7 then hartRetry p 3 st dev rest s
  else
    let s := modHart p (fun h => { h with timer := 2, since := s.cclk }) s
    match c.txn with
    | none => hartPassEnd p 0 st dev rest s
    | some t =>
      let r := hartLand t c.attempts q.data s
      let s := if txFlag s t 2 && r.2 == 0 then hartLearn p t q.data r.1 else r.1
      hartTxnEnd p t r.2 c.attempts s

/-- HART_FRAME_RECEIVED: nothing for a port that is off (R340); a frame that fails R332 counts against the awaited response; a burst
frame is no response. -/
def execHartFrameReceived (port : Fin 40) (f : HartFrame) (s : State) : Res :=
  let p := port.val
  if !hpFlag s p 0 || hartOff s p || domGated s .ana then .next s
  else
    let aw := (hartOf s p).cur.filter (fun c => c.await)
    match hartParse f, aw with
    | none, some _ => .next (hartRetry p 2 0 0 [] s)
    | none, none => .next s
    | some q, aw =>
      if q.delim = 0x01 ∨ q.delim = 0x81 then .next (hartBurst p q s)
      else match aw with
        | some c => .next (hartResponse p c q s)
        | none => .next s

/-- HART_STO_EXPIRY: no response within STO (R333, R335). -/
def execHartStoExpiry (port : Fin 40) (s : State) : Res :=
  .next (if stoOver s (hartOf s port.val) then hartRetry port.val 1 0 0 [] s else s)

/-- HART_CARRIER_DETECT: carrier that comes while no response is awaited is another master's or a burst, and puts RT1 in force; every change of the
carrier starts the timer in force again (R333). -/
def execHartCarrierDetect (port : Fin 40) (on : Bool) (s : State) : Res :=
  if domGated s .ana then .next s
  else .next (modHart port.val (fun h =>
    let mine := match h.cur with
      | some c => c.await
      | none => false
    { h with carrier := on, timer := if on && !mine then 1 else h.timer, since := s.cclk }) s)

/-! ### HART-PASS (R339), disable and enable (R328, R340). -/

def hartPassHandler (mbx p addr cmd : Nat) (long : Bool) (data : List Byte) (s : State) : State :=
  if 40 ≤ p ∨ 16 ≤ addr ∨ 48 < data.length then completeMbx mbx rcRange s
  else if !hpFlag s p 0 || !hpFlag s p 3 then completeMbx mbx rcDenied s
  else if (hartOf s p).pass.isSome then completeMbx mbx rcBusy s
  else if hartOff s p then abortMbx mbx s
  else modHart p (fun h => { h with pass := some { mbx := mbx, addr := addr, cmd := cmd, long := long, data := data, due := latchFrame s } }) s

def execHartPass (mbx : BitVec 4) (port addr cmd : BitVec 8) (long : Bool) (data : List Byte) (s : State) : Res :=
  .next (hartPassHandler mbx.toNat port.toNat addr.toNat cmd.toNat long data s)

/-- A port is disabled: armed ONESHOTs and the exchange end, a pass-through with ABORTED (R340). -/
def hartDisable (p : Nat) (s : State) : State :=
  let h := hartOf s p
  let s := setHart p { h with cur := none, armed := [], pass := none } s
  match h.pass with
  | some q => abortMbx q.mbx s
  | none => s

/-- A port is enabled: its list restarts, after RT1 (R328, R333). -/
def hartEnable (p : Nat) (s : State) : State := modHart p (fun h => { h with pos := 0, timer := 1, since := s.cclk }) s

def hartReg (s : State) (p : Nat) : Word :=
  let h := hartOf s p
  w32 (h.lastTxn * 2 ^ 23 + 256 * h.fails.toNat + 8 * b2n h.carrier + h.result.toNat)

end Sys2Proof.Machine
end

