-- ==== Sys2Proof/Machine/Lce.lean ====
section
/-! DEFINITION. Sys2Proof/Machine/Lce.lean: the loop control engine (R267 to R295). -/

namespace Sys2Proof.Machine

/-! ### LCEK and the state records (R270, R293). -/

def lk (s : State) (off n : Nat) : Nat := fld s .lcek 0 off n

/-- Declared contexts. -/
def ctxCnt (s : State) : Nat := lk s 0 4

/-- A field of a context descriptor (Table 8-3). -/
def cx (s : State) (c off n : Nat) : Nat := lk s (lk s 4 4 + 256 * c + off) n

/-- A signal field: none is NONE (R270). -/
def optSig (n : Nat) : Option Nat := if bitOf n 31 then none else some (n % 2 ^ 17)

def cxSig (s : State) (c off : Nat) : Option Nat := optSig (cx s c off 4)
def cFlag (s : State) (c k : Nat) : Bool := bitOf (cx s c 0 1) k
def cAngle (s : State) (c : Nat) : Bool := cFlag s c 0
def cxER (s : State) (c : Nat) : Int := signedOf 8 (cx s c 9 1)
def cxEU (s : State) (c : Nat) : Int := signedOf 8 (cx s c 0x0A 1)
def cxGrp (s : State) (c : Nat) : Nat := cx s c 8 1
def cxOut (s : State) (c : Nat) : Nat := cx s c 0x34 4 % 2 ^ 17

/-- A word of a coefficient bank (Table 8-4), signed; bank true is B. -/
def bkI (s : State) (c : Nat) (b : Bool) (off : Nat) : Int := signedOf 32 (cx s c ((if b then 0xA8 else 0x50) + off) 4)

/-- Coefficient k of a bank, in the order of EXPS: KP, KI, KT, AD, BD, LB0, LB1, LA1, KFF. -/
def coef (s : State) (c : Nat) (b : Bool) (k : Nat) : Rat :=
  (bkI s c b (4 * k) : Rat) * pow2 (signedOf 8 (cx s c ((if b then 0xA8 else 0x50) + 0x40 + k) 1))

/-- A bank word at an exponent. -/
def bkV (s : State) (c : Nat) (b : Bool) (off : Nat) (e : Int) : Rat := (bkI s c b off : Rat) * pow2 e

/-- DR (Table 8-4): a BAM32 number when ANGLE is 1 (R276), which never limits from a half turn up. -/
def bkDR (s : State) (c : Nat) (b : Bool) : Rat := if cAngle s c then ((bkI s c b 0x24 % 2 ^ 32 : Int) : Rat) else bkV s c b 0x24 (cxER s c)

/-- Address of a context's state record in the Chart store. -/
def recAddr (s : State) (c : Nat) : Nat := ((sectOf s .lcek 0).map (fun x => x.dest)).getD 0 + lk s 8 4 + 1048576 + 64 * c

/-- The sixteen words of a state record. -/
def lceRec (s : State) (c : Nat) : List Word := (List.range 16).map (fun k => w32 (leNat (memBytes 0 s.sram (recAddr s c + 4 * k) 4)))

def putLceRec (c : Nat) (ws : List Word) (s : State) : State :=
  { s with sram := memPut 0 s.sram (recAddr s c) (ws.flatMap (fun w => leBytes 4 w.toNat)) }

/-- The value of a record word: a BAM32 number, or a word at an exponent. -/
def recVal (bam : Bool) (e : Int) (w : Word) : OQ :=
  if bam then some (w.toNat : Rat) else if w = nanWord then none else some (sfxVal w e)

def recWord (bam : Bool) (e : Int) (v : OQ) : Word := if bam then i32 (roundEven (v.getD 0)) else oWord e v

/-- Is word 3 a BAM32 y_prev? (Table 8-9) -/
def xIsBam (s : State) (c : Nat) : Bool := cAngle s c && !cFlag s c 1

/-- The state record as values. -/
def lceVals (s : State) (c : Nat) : LceVals :=
  let ws := lceRec s c
  let w (k : Nat) : Word := ws.getD k 0
  let er := cxER s c
  let eu := cxEU s c
  { rP := recVal (cAngle s c) er (w 0), eP := recVal false er (w 1), wP := recVal false er (w 2), xP := recVal (xIsBam s c) er (w 3)
    dd := recVal false eu (w 4), ii := recVal false eu (w 5), uP := recVal false eu (w 6), uMan := recVal false eu (w 7)
    status := (w 8).toNat % 65536, reinit := bitOf (w 8).toNat 16, left := (w 9).toNat, hold := (w 10).toNat, samples := (w 11).toNat
    lims := [recVal false er (w 12), recVal false er (w 13), recVal false eu (w 14), recVal false eu (w 15)] }

/-- Write the values back as a state record. -/
def putLceVals (c : Nat) (v : LceVals) (s : State) : State :=
  let er := cxER s c
  let eu := cxEU s c
  putLceRec c ([recWord (cAngle s c) er v.rP, oWord er v.eP, oWord er v.wP, recWord (xIsBam s c) er v.xP, oWord eu v.dd, oWord eu v.ii,
    oWord eu v.uP, oWord eu v.uMan, w32 (v.status % 65536 + 65536 * b2n v.reinit), w32 v.left, w32 v.hold, w32 v.samples]
    ++ v.lims.zipIdx.map (fun p => oWord (if p.2 < 2 then er else eu) p.1)) s

/-! Fields of the status word (R271). -/

def stAuto (n : Nat) : Bool := bitOf n 0
def stBank (n : Nat) : Bool := bitOf n 1
def stPhase (n : Nat) : Nat := bitsOf n 3 2
def stSel (n : Nat) : Nat := bitsOf n 5 4
def stLost (n : Nat) : Bool := bitOf n 6
def stFail (n : Nat) : Bool := bitOf n 8

/-- A status word of its fields; flags holds bits 9 to 15. -/
def mkStatus (auto bank : Bool) (phase sel : Nat) (lost hold fail : Bool) (flags : Nat) : Nat :=
  b2n auto + 2 * b2n bank + 4 * (phase % 4) + 16 * (sel % 4) + 64 * b2n lost + 128 * b2n hold + 256 * b2n fail + flags

/-- The same status word with other mode, bank and phase. -/
def reStatus (n : Nat) (auto bank : Bool) (phase : Nat) : Nat := n / 16 * 16 + b2n auto + 2 * b2n bank + 4 * (phase % 4)

/-- The phase in force for the next sample: the last sample's, while samples remain (R283). -/
def phaseNow (v : LceVals) : Nat := if v.left = 0 then 0 else stPhase v.status

/-- A new phase of n samples replaces the one in progress; with n 0 there is none (R283). -/
def setPhase (ph n : Nat) (v : LceVals) : LceVals :=
  { v with status := reStatus v.status (stAuto v.status) (stBank v.status) (if n = 0 then 0 else ph), left := n }

def modLce (f : Lce → Lce) (s : State) : State := { s with lce := f s.lce }

/-! ### Inputs (R272 to R275). -/

/-- Usable: GOOD, SUBST or FORCED (R272). -/
def lceUsable (q : Qual) : Bool := q == qGood || q == qSubst || q == qForced

/-- A signal at an exponent. -/
def sigAt (s : State) (i : Nat) (e : Int) : OQ := rnd e (sigNum s i)

/-- A set-point or measurement: a BAM32 number when ANGLE is 1. -/
def spVal (s : State) (c : Nat) (i : Option Nat) : OQ × Qual :=
  match i with
  | none => (none, qNan)
  | some i => if cAngle s c then ((if sigNan s i then none else some ((sigW s i).toNat : Rat)), sigQ s i) else (sigAt s i (cxER s c), sigQ s i)

/-- TPERM (R274). -/
def tperm (s : State) (c : Nat) : Bool :=
  match cxSig s c 0x48 with
  | none => false
  | some i => lceUsable (sigQ s i)
      && (if entType (ent s i) = 4 then sigW s i != 0 else decide (entType (ent s i) = 5) && (sigW s i).toNat == cx s c 0x0B 1)

/-- The achieved output, when TRK_SIG is usable. -/
def trkVal (s : State) (c : Nat) : Option (OQ × Qual) :=
  match cxSig s c 0x30 with
  | none => none
  | some i => if lceUsable (sigQ s i) then some (sigAt s i (cxEU s c), sigQ s i) else none

/-- The selector: the source, and whether it is lost (R273). -/
def lceSelect (s : State) (c prev : Nat) : Nat × Bool :=
  match cxSig s c 0x2C with
  | none => (0, false)
  | some i =>
    if lceUsable (sigQ s i) && decide ((sigW s i).toNat < cx s c 2 1) then ((sigW s i).toNat, false)
    else ((if cx s c 3 1 ≤ 3 then cx s c 3 1 else prev), true)

/-- One limit in force (R275): static, dynamic, the previous sample's where the dynamic one is NaN; with the quality it takes
part with. -/
def oneLimit (s : State) (c off : Nat) (e : Int) (static : Rat) (prev : OQ) (high : Bool) : Rat × List Qual :=
  let pick (v : Rat) : Rat := if high then min static v else max static v
  match cxSig s c off with
  | none => (static, [])
  | some i => match sigAt s i e with
    | some v => (pick v, [sigQ s i])
    | none => (match prev with
      | some v => pick v
      | none => static, [])

/-- Limits in force rl, rh, ul, uh, their qualities, LIM_CROSS (R275, R276). -/
def lceLimits (s : State) (c : Nat) (b : Bool) (v : LceVals) : List Rat × List Qual × Bool :=
  let er := cxER s c
  let eu := cxEU s c
  let p (k : Nat) : OQ := v.lims.getD k none
  let l := oneLimit s c 0x38 er (bkV s c b 0x2C er) (p 0) false
  let h := oneLimit s c 0x3C er (bkV s c b 0x30 er) (p 1) true
  let ul := oneLimit s c 0x40 eu (bkV s c b 0x34 eu) (p 2) false
  let uh := oneLimit s c 0x44 eu (bkV s c b 0x38 eu) (p 3) true
  ([min l.1 h.1, h.1, min ul.1 uh.1, uh.1], l.2 ++ h.2 ++ ul.2 ++ uh.2, decide (h.1 < l.1) || decide (uh.1 < ul.1))

/-! ### Phases, imports and commands at a sample (R282, R283, R285, R292). -/

/-- The first sample of a START: kind 1 after the schedule start, 2 after an enable (R283, R292). -/
def lceBegin (c kind : Nat) (s : State) : State :=
  let v := lceVals s c
  let ini := cx s c 1 1
  let auto := if kind = 1 then bitOf ini 0 else stAuto v.status
  let bank := if kind = 1 then bitOf ini 1 else stBank v.status
  let eu := cxEU s c
  let own : OQ := if kind = 1 then some (bkV s c bank 0x3C eu) else v.uP
  let u : OQ := if (if kind = 1 then bitOf ini 2 else cFlag s c 4) then (match trkVal s c with
    | some t => t.1
    | none => own) else own
  let zero : LceVals := { v with
    rP := some 0, eP := some 0, wP := some 0, xP := some 0, dd := some 0, ii := some 0, uP := u, uMan := u
    status := reStatus v.status auto bank 0 - (if bitOf v.status 8 then 256 else 0), reinit := true, hold := 0
    lims := [some (bkV s c bank 0x2C (cxER s c)), some (bkV s c bank 0x30 (cxER s c)), some (bkV s c bank 0x34 eu), some (bkV s c bank 0x38 eu)] }
  putLceVals c (setPhase 1 (cx s c 0x0C 2) zero) s

/-- An imported record replaces every word but word 11, with reinit set (R285, R293). -/
def lceImport (c : Nat) (ws : List Word) (s : State) : State :=
  putLceRec c ((ws.set 8 (ws.getD 8 0 ||| 0x10000#32)).set 11 ((lceRec s c).getD 11 0)) s

/-- Starts, imports and the RECOVERY after SAFE-HOLD that wait for the context's next sample. -/
def lcePrepare (c : Nat) (s : State) : State :=
  let s := match tget 0 s.lce.starts c with
    | 0 => s
    | k => modLce (fun l => { l with starts := tset 0 l.starts c 0 }) (lceBegin c k s)
  let x := eqTake 3 c s
  let s := match x.1 with
    | some (.lce ws) => lceImport c ws x.2
    | _ => x.2
  if s.lce.recov.contains c then
    putLceVals c (setPhase 2 (cx s c 0x0E 2) (lceVals s c)) (modLce (fun l => { l with recov := l.recov.filter (fun k => k != c) }) s)
  else s

/-- The CMD of a pending command. -/
def lceCmdNo : LceCmd → Nat
  | .mode _ _ => 0x0801 | .bank _ => 0x0802 | .start _ => 0x0804 | .stop => 0x0804 | .arm _ => 0x0805 | .disarm => 0x0805 | .page _ => 0x0805

/-- Complete a command with a code; a refusal is recorded (Table 8-11). -/
def lceFinish (mbx c cmd : Nat) (code : Half) (s : State) : State :=
  completeMbx mbx code (if code = rcDone then s else raise 0x0802 (w32 c) (w32 cmd) (code.setWidth 32) s)

/-- Arm the capture (R290). -/
def lceArm (c dec : Nat) (s : State) : State :=
  modLce (fun l => { l with capCtx := c, capDec := dec, capFull := false, capArmed := true, capCnt := 0, capSkip := 0 }) s

/-- LCE-MODE at the sample (R280). -/
def lceApplyMode (c : Nat) (auto : Bool) (mv : Option Word) (s : State) : State :=
  let v := lceVals s c
  let old := stAuto v.status
  let v := { v with status := reStatus v.status auto (stBank v.status) (stPhase v.status) }
  let v := if old && !auto then { v with uMan := v.uP } else v
  let v := match mv with
    | some w => if auto then v else { v with uMan := recVal false (cxEU s c) w }
    | none => v
  let s := putLceVals c v s
  if old != auto then raise 0x0800 (w32 c) (w32 (b2n old)) (w32 (b2n auto)) s else s

/-- LCE-BANK at the sample (R281): the condition that permits the swap, if any. -/
def bankCond (s : State) (c : Nat) (v : LceVals) : Option Nat :=
  if !stAuto v.status then some 0
  else if phaseNow v = 1 then some 1
  else if phaseNow v = 2 then some 2
  else if tperm s c then some 3 else none

def lceApplyBank (mbx c : Nat) (b : Bool) (s : State) : State :=
  let v := lceVals s c
  match bankCond s c v with
  | none => lceFinish mbx c 0x0802 rcState s
  | some k =>
    let v' := { v with status := reStatus v.status (stAuto v.status) b (stPhase v.status) }
    let v' := if stAuto v.status then { v' with dd := some 0, reinit := true } else v'
    lceFinish mbx c 0x0802 rcDone (raise 0x0801 (w32 c) (w32 (b2n b)) (w32 k) (putLceVals c v' s))

/-- The generator at the first sample of a waveform (R288). -/
def injStart (c role : Nat) (t : LceTest) (j : LceInj) : LceInj :=
  { j with active := true, ctx := c, test := t, next := none, i := 0, phase := 0, delta := t.p1, reg := 2 ^ t.order.toNat - 1, role := role, moved := false }

/-- A test start at the sample: it begins there, or replaces the waveform of the context from the next sample (R289). -/
def lceApplyStart (mbx c : Nat) (t : LceTest) (s : State) : State :=
  if !tperm s c then lceFinish mbx c 0x0804 rcDenied s
  else if t.point == 0 && !stAuto (lceVals s c).status then lceFinish mbx c 0x0804 rcState s
  else if s.lce.inj.active && s.lce.inj.ctx != c then lceFinish mbx c 0x0804 rcBusy s
  else
    let s := modLce (fun l => { l with inj := if l.inj.active then { l.inj with next := some t } else injStart c (roleCode s.boot.dev) t l.inj }) s
    lceFinish mbx c 0x0804 rcDone (if t.capt == 1 then lceArm c 1 s else s)

/-- One due command of the context; the second result says that it stops an injection. -/
def lceApply (c : Nat) (p : LcePend) (s : State) : State × Bool :=
  match p.cmd with
  | .mode auto mv => (lceFinish p.mbx c 0x0801 rcDone (lceApplyMode c auto mv s), false)
  | .bank b => (lceApplyBank p.mbx c b s, false)
  | .start t => (lceApplyStart p.mbx c t s, false)
  | .stop => (lceFinish p.mbx c 0x0804 rcDone s, s.lce.inj.active && s.lce.inj.ctx == c)
  | .arm dec => (lceFinish p.mbx c 0x0805 rcDone (lceArm c dec s), false)
  | .disarm => (lceFinish p.mbx c 0x0805 rcDone (modLce (fun l => { l with capArmed := false }) s), false)
  | .page _ => (s, false)

/-- The due commands of a context, LCE-MODE ahead of LCE-BANK (R282). A page selection waits for its boundary (R290). -/
def lceCommands (c : Nat) (s : State) : State × Bool :=
  let isPage (p : LcePend) : Bool := match p.cmd with
    | .page _ => true
    | _ => false
  let mine (p : LcePend) : Bool := p.ctx == c && decide (p.due ≤ s.seq.k) && !isPage p
  let now := sortBy (fun (a b : LcePend) => decide (lceCmdNo a.cmd ≤ lceCmdNo b.cmd)) (s.lce.cmds.filter mine)
  now.foldl (fun (a : State × Bool) p => let r := lceApply c p a.1; (r.1, a.2 || r.2))
    (modLce (fun l => { l with cmds := l.cmds.filter (fun p => !mine p) }) s, false)

/-! ### The injection generator (R288, R289). -/

/-- The end of an injection, with its reason (Table 8-8). A waveform that waits for the next sample starts there when the one before it is DONE, and
ends with it otherwise. -/
def injEnd (reason : Nat) (s : State) : State :=
  raise 0x0808 (w32 s.lce.inj.ctx) (w32 reason) (w32 s.lce.inj.i)
    (modLce (fun l =>
      let j := { l.inj with active := false, next := none, reason := BitVec.ofNat 3 reason }
      { l with inj := match l.inj.next with
        | some t => if reason = 0 then injStart j.ctx (roleCode s.boot.dev) t j else j
        | none => j }) s)

/-- Have DUR samples been completed? -/
def injDone (j : LceInj) : Bool := j.test.dur != 0 && decide (j.test.dur.toNat ≤ j.i)

/-- The feedback taps of a PRBS order. -/
def prbsTaps (order : Nat) : Nat × Nat :=
  if order = 7 then (7, 6) else if order = 9 then (9, 5) else if order = 10 then (10, 7) else if order = 11 then (11, 9) else (15, 14)

/-- One shift of the register: cell n is bit n - 1; the feedback enters cell 1. -/
def prbsNext (order reg : Nat) : Nat :=
  (2 * reg + b2n (bitOf reg ((prbsTaps order).1 - 1) != bitOf reg ((prbsTaps order).2 - 1))) % 2 ^ order

/-- The mantissa of d at the present sample. The output bit is the last cell. -/
def injMant (j : LceInj) : Int :=
  match j.test.wave.toNat with
  | 1 => j.test.amp.toInt
  | 2 | 3 => roundEven ((j.test.amp.toInt : Rat) * sinExact (bamTurns j.phase))
  | _ => if bitOf j.reg (j.test.order.toNat - 1) then j.test.amp.toInt else -j.test.amp.toInt

/-- The generator after a sample. -/
def injNext (j : LceInj) : LceInj :=
  let j' := { j with i := j.i + 1 }
  match j.next with
  | some t => injStart j.ctx j.role t j
  | none => match j.test.wave.toNat with
  | 2 => { j' with phase := j.phase + j.test.p1 }
  | 3 => { j' with phase := j.phase + j.delta, delta := j.delta + j.test.p2 }
  | 4 => if (j.i + 1) % j.test.hold.toNat = 0 then { j' with reg := prbsNext j.test.order.toNat j.reg } else j'
  | _ => j'

/-! ### The law (R272, R276 to R279). -/

/-- Signed BAM32 difference of two BAM32 numbers, in units of 2^-32 turn. -/
def bamSub (a b : Rat) : Int := signedOf 32 ((a - b).floor % 4294967296).toNat

/-- A BAM32 number modulo one turn. -/
def bamWrap (a : Rat) : Rat := (((a.floor % 4294967296 : Int)) : Rat)

def clampO (lo hi : Rat) (x : OQ) : OQ := x.map (fun v => clampQ lo hi v)

/-- Move from one output toward another within DU (none when 0) and two limits. -/
def toward (eu : Int) (du : Rat) (lo hi cur goal : OQ) : OQ :=
  let t := if du = 0 then goal else rnd eu (oAdd cur (clampO (-du) du (oSub goal cur)))
  match lo, hi with
  | some a, some b => clampO a b t
  | _, _ => none

/-- recover() apart from x_prev (R278). -/
def recovered (s : State) (c : Nat) (rin : OQ) (v : LceVals) : LceVals :=
  setPhase 2 (cx s c 0x0E 2) { v with hold := 0, rP := rin, eP := some 0, wP := some 0, dd := some 0, reinit := true, status := v.status - (if bitOf v.status 8 then 256 else 0) }

/-- The set-point after the rate limit, the injection and the limits, with R_LIM (R272, R276). -/
def lceSetPoint (s : State) (c : Nat) (b : Bool) (v : LceVals) (rin d : OQ) (rl rh : Rat) : OQ × Bool :=
  let dr := bkDR s c b
  if cAngle s c then
    let r := if dr = 0 then rin else rin.bind (fun r => v.rP.map (fun p => bamWrap (p + clampQ (-dr) dr (bamSub r p : Rat))))
    ((oAdd r d).map bamWrap, false)
  else
    let er := cxER s c
    let r := if dr = 0 then rin else rnd er (oAdd v.rP (clampO (-dr) dr (oSub rin v.rP)))
    let r := rnd er (oAdd r d)
    (clampO rl rh r, decide (clampO rl rh r ≠ r))

/-- One sample of the law: the values after it, e, r, y's negative or lead-lag input kept inside; none when v is NaN. dSp and dOut
are the injection at the set-point and at the output. -/
def lceLaw (s : State) (c : Nat) (b auto recov : Bool) (v : LceVals) (rin y f dSp dOut : OQ) (lim : List Rat) : Option (LceVals × OQ × OQ × Nat) :=
  let er := cxER s c
  let eu := cxEU s c
  let k (n : Nat) : OQ := some (coef s c b n)
  let rl := lim.getD 0 0
  let rh := lim.getD 1 0
  let ul := lim.getD 2 0
  let uh := lim.getD 3 0
  let sp := lceSetPoint s c b v rin dSp rl rh
  let r := sp.1
  let e := if cAngle s c then r.bind (fun a => y.bind (fun q => rnd er (some ((bamSub a q : Rat) / 4294967296)))) else rnd er (oSub r y)
  let w := if cFlag s c 2 then rnd er (oSub (oAdd (oMul (k 5) e) (oMul (k 6) v.eP)) (oMul (k 7) v.wP)) else e
  let bamX := xIsBam s c
  let x := if cFlag s c 1 then w else if bamX then y else oSub (some 0) y
  let xP := if recov then x else v.xP
  let dx := if bamX then x.bind (fun a => xP.bind (fun q => rnd er (some (-((bamSub a q : Rat) / 4294967296))))) else oSub x xP
  let dd := rnd eu (oAdd (oMul (k 3) v.dd) (oMul (k 4) dx))
  let pf := rnd eu (oAdd (oAdd (oMul (k 0) w) dd) (oMul (k 8) f))
  let i0 := if auto && v.reinit then clampO ul uh (rnd eu (oSub v.uP pf)) else v.ii
  let vv := rnd eu (oAdd (if auto then oAdd pf i0 else v.uMan) dOut)
  match vv with
  | none => none
  | some q =>
    let uc := clampQ ul uh q
    let du := bkV s c b 0x28 eu
    let u1 := if du = 0 then some uc else rnd eu (oAdd v.uP (clampO (-du) du (oSub (some uc) v.uP)))
    let u := clampO ul uh u1
    let tr := if cFlag s c 4 then trkVal s c else none
    let ua := match tr with
      | some t => t.1
      | none => u
    let i1 := if auto then clampO ul uh (rnd eu (oAdd (oAdd i0 (oMul (k 1) w)) (oMul (k 2) (oSub ua (some q))))) else clampO ul uh (rnd eu (oSub ua pf))
    let flags := 512 * b2n sp.2 + 1024 * b2n (decide (uc ≠ q)) + 2048 * b2n (decide (du ≠ 0 ∧ u1 ≠ some uc)) + 4096 * b2n tr.isSome
    some ({ v with rP := r, eP := e, wP := w, xP := x, dd := dd, ii := i1, uP := u, reinit := v.reinit && !auto,
                   lims := [some rl, some rh, some ul, some uh] }, e, r, flags)

/-- Rewrite a signal's value with a quality: the word stays, WCNT and WTIME advance (R277). -/
def rewriteSig (i : Nat) (q : Qual) (t : Word) (s : State) : State :=
  let e := ent s i
  if entHeld e || entConst e then s else setEnt i (written e e.value q t) s

/-- Word of an exact value with its quality: NaN is NAN in every case (R73). -/
def wq (w : Word) (v : OQ) (q : Qual) : Word × Qual := (w, if v.isNone then qNan else q)

/-- hold_sample (R277): the output moves or stays, the hold count and FAIL advance. inp is the input lost, q its quality. -/
def lceHold (c inp : Nat) (q q12 : Qual) (v : LceVals) (sel : Nat) (selLost : Bool) (flags : Nat) (t : Word) (s : State) : State × OQ :=
  let auto := stAuto v.status
  let b := stBank v.status
  let eu := cxEU s c
  let n := satInc 0xFFFFFFFF v.hold
  let lo := v.lims.getD 2 none
  let hi := v.lims.getD 3 none
  let du := bkV s c b 0x28 eu
  let past := auto && decide (cx s c 0x10 2 < n)
  let u := if !auto then toward eu du lo hi v.uP v.uMan
    else if past && cFlag s c 7 then toward eu du lo hi v.uP (some (bkV s c b 0x3C eu)) else v.uP
  let fail := stFail v.status || past
  let s := if v.hold = 0 then raise 0x0803 (w32 c) (w32 inp) (q.setWidth 32) s else s
  let s := if past && !stFail v.status then raise 0x0804 (w32 c) (w32 n) (oWord eu u) s else s
  let st := mkStatus auto b (phaseNow v) sel selLost true fail flags
  let v' := { v with uP := u, dd := some 0, wP := some 0, hold := n, status := st, left := v.left - 1, samples := (v.samples + 1) % 2 ^ 32 }
  let o := cxOut s c
  let s := putLceVals c v' s
  let x := wq (oWord eu u) u qSubst
  (writeSig (o + 3) (w32 st) qGood t (rewriteSig (o + 2) q12 t (rewriteSig (o + 1) q12 t (writeSig o x.1 x.2 t s))), u)

/-! ### Capture (R290). -/

/-- Store one sample of the capture: r, y, u, d. -/
def captureSample (c : Nat) (ws : List Word) (s : State) : State :=
  let l := s.lce
  if !(l.capArmed && l.capCtx == c) then s
  else if l.capSkip ≠ 0 then modLce (fun l => { l with capSkip := l.capSkip - 1 }) s
  else
    let base := ((sectOf s .lcek 0).map (fun x => x.dest)).getD 0 + lk s 8 4
    let s := { s with sram := memPut 0 s.sram (base + 16 * l.capCnt) (ws.flatMap (fun w => leBytes 4 w.toNat)) }
    let n := l.capCnt + 1
    let t0 := if l.capCnt = 0 then (s.seq.k / s.hdr.m % 65536, s.seq.k % s.hdr.m) else l.capT0
    let s := modLce (fun l => { l with capCnt := n, capSkip := l.capDec - 1, capT0 := t0 }) s
    if n = 65536 then raise 0x0809 (w32 c) (w32 n) (w32 l.capDec) (modLce (fun l => { l with capFull := true, capArmed := false }) s)
    else s

/-! ### LCE_STEP (R272). -/

/-- The first lost input, with its quality (R277). -/
def lostInput (s : State) (c : Nat) (ins : List (OQ × Qual)) : Option (Nat × Qual) :=
  (ins.zipIdx.find? (fun p => p.1.1.isNone || (cFlag s c 3 && p.1.2 == qStale))).map (fun p => (p.2, p.1.2))

/-- The sample proper, after starts and commands. stop says that a stop command was applied at it. -/
def lceSample (c : Nat) (stop : Bool) (s : State) : State :=
  let v := lceVals s c
  let auto := stAuto v.status
  let b := stBank v.status
  let er := cxER s c
  let eu := cxEU s c
  let t := opTime s 40
  let j := s.lce.inj
  let mine := j.active && j.ctx == c
  let why : Option Nat := if !mine then none
    else if j.moved || j.role != roleCode s.boot.dev then some 2
    else if !tperm s c then some 3
    else if j.test.point == 0 && !auto then some 4 else none
  let on := mine && why.isNone && !stop && !injDone j
  let m : Int := if on then injMant j else 0
  let atSp := j.test.point == 0
  let dv : OQ := some (if atSp && cAngle s c then (m : Rat) else (m : Rat) * pow2 (if atSp then er else eu))
  let dSp : OQ := if atSp then dv else some 0
  let dOut : OQ := if atSp then some 0 else dv
  let sl := lceSelect s c (stSel v.status)
  let s := if sl.2 && !stLost v.status then raise 0x0806 (w32 c) (sigW s ((cxSig s c 0x2C).getD 0)) (w32 sl.1) s else s
  let rin := spVal s c (cxSig s c (0x14 + 4 * sl.1))
  let y := spVal s c (cxSig s c 0x24)
  let ff := cxSig s c 0x28
  let f : OQ × Qual := match ff with
    | none => (some 0, qGood)
    | some i => (sigAt s i eu, sigQ s i)
  let lim := lceLimits s c b v
  let q12 := qWorst [rin.2, y.2]
  let cross := 16384 * b2n lim.2.2
  let recov := decide (v.hold ≠ 0)
  let v0 := if recov then recovered s c rin.1 v else v
  let res := match lostInput s c [rin, y, f] with
    | some _ => none
    | none => lceLaw s c b auto recov v0 rin.1 y.1 f.1 dSp dOut lim.1
  let yw := if cAngle s c then (match y.1 with
    | some a => i32 a.floor
    | none => nanWord) else oWord er y.1
  match res with
  | none =>
    let l := (lostInput s c [rin, y, f]).getD (3, qNan)
    let h := lceHold c l.1 l.2 q12 v sl.1 sl.2 cross t s
    let s := if mine then injEnd (why.getD 5) h.1 else h.1
    captureSample c [recWord (cAngle s c) er v.rP, yw, oWord eu h.2, 0] s
  | some (v1, e, r, flags) =>
    let st := mkStatus auto b (phaseNow v0) sl.1 sl.2 false false (flags + cross + 8192 * b2n on)
    let v1 := { v1 with status := st, left := v0.left - 1, samples := (v.samples + 1) % 2 ^ 32 }
    let s := if recov then raise 0x0805 (w32 c) (w32 v.hold) 0 s else s
    let trQ := if bitOf flags 12 then ((trkVal s c).map (fun p => [p.2])).getD [] else []
    let q0 := if auto then qWorst ([rin.2, y.2] ++ (if ff.isSome then [f.2] else []) ++ lim.2.1 ++ trQ) else qGood
    let o := cxOut s c
    let s := putLceVals c v1 s
    let rw' := recWord (cAngle s c) er r
    let s := writeList o [wq (oWord eu v1.uP) v1.uP q0, wq (oWord er e) e q12, wq rw' r q12, (w32 st, qGood)] t s
    let s := if on && j.i == 0 then raise 0x0807 (w32 c) (w32 (j.test.wave.toNat * 256 + j.test.point.toNat)) j.test.amp s else s
    let s := if on then modLce (fun l => { l with inj := injNext l.inj }) s
      else if mine then injEnd (why.getD (if stop then 6 else 0)) s else s
    captureSample c [rw', yw, oWord eu v1.uP, i32 m] s

def lceStepEffect (c : Nat) (s : State) : State :=
  let r := lceCommands c (lcePrepare c s)
  lceSample c r.2 r.1

/-- LCE_STEP belongs to the function of its context's group (R291). -/
def execLceStep (c : BitVec 8) (s : State) : Res :=
  issue 6 (cxGrp s c.toNat) (opWord 6 1 c.toNat) (fun s =>
    if ctxCnt s ≤ c.toNat then breach 0x0107 (opWord 6 1 c.toNat) s else lceStepEffect c.toNat s) s

/-! ### The mailbox commands (R280 to R282, R288 to R290). -/

/-- Are the fields of a test start inside their ranges? (R288) -/
def testRange (t : LceTest) : Bool :=
  decide (1 ≤ t.wave.toNat) && decide (t.wave.toNat ≤ 4) && decide (t.point.toNat ≤ 1) && decide (t.dur.toNat ≤ 16777215) && decide (t.capt.toNat ≤ 1)
    && t.amp != nanWord
    && (t.wave != 4 || (t.hold != 0 && [7, 9, 10, 11, 15].contains t.order.toNat))

/-- A field of a command outside its range (Table 8-6). -/
def lceRange : LceCmd → Bool
  | .mode auto mv => auto || mv != some nanWord
  | .bank _ => true
  | .start t => testRange t
  | .stop => true
  | .arm dec => decide (1 ≤ dec)
  | .disarm => true
  | .page n => decide (n ≤ 31)

/-- CMD_EN and INJ_EN (R280, R281, R289). -/
def lceAllowed (s : State) (c : Nat) : LceCmd → Bool
  | .mode _ _ => cFlag s c 6
  | .bank _ => cFlag s c 6
  | .start _ => cFlag s c 5
  | _ => true

/-- The handler: a refusal, or the command waits for its context's sample (R282). -/
def lceHandler (mbx c : Nat) (inRange : Bool) (cmd : LceCmd) (s : State) : State :=
  let no := lceCmdNo cmd
  if ctxCnt s ≤ c || !inRange || !lceRange cmd then lceFinish mbx c no rcRange s
  else if !lceAllowed s c cmd then lceFinish mbx c no rcDenied s
  else if s.lce.cmds.any (fun p => p.ctx == c && lceCmdNo p.cmd == no) then lceFinish mbx c no rcBusy s
  else if isDisabled s 6 (cxGrp s c) then lceFinish mbx c no rcState s
  else modLce (fun l => { l with cmds := l.cmds ++ [{ ctx := c, cmd := cmd, due := latchFrame s, mbx := mbx }] }) s

def execLceMode (mbx : BitVec 4) (c mode : BitVec 8) (mvSet : Bool) (uman : BitVec 32) (s : State) : Res :=
  .next (lceHandler mbx.toNat c.toNat (mode.toNat ≤ 1) (.mode (mode == 1) (if mvSet then some uman else none)) s)
def execLceBank (mbx : BitVec 4) (c bank : BitVec 8) (s : State) : Res := .next (lceHandler mbx.toNat c.toNat (bank.toNat ≤ 1) (.bank (bank == 1)) s)
def execLceTestStart (mbx : BitVec 4) (c : BitVec 8) (t : LceTest) (s : State) : Res := .next (lceHandler mbx.toNat c.toNat true (.start t) s)
def execLceTestStop (mbx : BitVec 4) (c : BitVec 8) (s : State) : Res := .next (lceHandler mbx.toNat c.toNat true .stop s)
def execLceCaptureArm (mbx : BitVec 4) (c dec : BitVec 8) (s : State) : Res := .next (lceHandler mbx.toNat c.toNat true (.arm dec.toNat) s)
def execLceCaptureDisarm (mbx : BitVec 4) (c : BitVec 8) (s : State) : Res := .next (lceHandler mbx.toNat c.toNat true .disarm s)
def execLceCapturePage (mbx : BitVec 4) (c page : BitVec 8) (s : State) : Res := .next (lceHandler mbx.toNat c.toNat true (.page page.toNat) s)

/-- LCE_INJ_END: an active injection that has completed its DUR samples ends with reason DONE (R289). -/
def execLceInjEnd (s : State) : Res := .next (if s.lce.inj.active && injDone s.lce.inj then injEnd 0 s else s)

/-! ### Frame boundaries, disable and enable (R290 to R292). -/

/-- At a boundary: the role state is followed for an injection (Table 8-8), and the page selections latched for it take effect. -/
def lceBoundary (s : State) : State :=
  let s := modLce (fun l => { l with inj := { l.inj with moved := l.inj.moved || (l.inj.active && l.inj.role != roleCode s.boot.dev) } }) s
  let isNow (p : LcePend) : Bool := decide (p.due ≤ s.seq.k) && (match p.cmd with
    | .page _ => true
    | _ => false)
  let now := s.lce.cmds.filter isNow
  now.foldl (fun s p => match p.cmd with
    | .page n => lceFinish p.mbx p.ctx 0x0805 rcDone (modLce (fun l => { l with page := BitVec.ofNat 5 n }) s)
    | _ => s) (modLce (fun l => { l with cmds := l.cmds.filter (fun p => !isNow p) }) s)

/-- The contexts of a group; instance 0 names the whole engine. -/
def grpCtxs (s : State) (g : Nat) : List Nat := (List.range (ctxCnt s)).filter (fun c => g == 0 || cxGrp s c == g)

/-- A context's group is disabled (R291): the output group turns STALE with DISABLED set, pending commands complete with STATE, an
injection or a capture on it ends. -/
def lceDisableCtx (s : State) (c : Nat) : State :=
  let o := cxOut s c
  let e := ent s (o + 3)
  let s := if entHeld e || entConst e then s else setEnt (o + 3) { e with value := e.value ||| 0x8000#32 } s
  let s := markStale o 4 s
  let now := s.lce.cmds.filter (fun p => p.ctx == c)
  let s := now.foldl (fun s p => lceFinish p.mbx c (lceCmdNo p.cmd) rcState s) (modLce (fun l => { l with cmds := l.cmds.filter (fun p => p.ctx != c) }) s)
  let s := if s.lce.inj.active && s.lce.inj.ctx == c then injEnd 1 s else s
  if s.lce.capArmed && s.lce.capCtx == c then modLce (fun l => { l with capArmed := false, capFull := false }) s else s

def lceDisable (g : Nat) (s : State) : State := (grpCtxs s g).foldl lceDisableCtx s

/-- At an enable the contexts that are no longer disabled begin a START phase at their next sample (R292). -/
def lceEnable (g : Nat) (s : State) : State :=
  (grpCtxs s g).foldl (fun s c => if isDisabled s 6 (cxGrp s c) then s else modLce (fun l => { l with starts := tset 0 l.starts c 2 }) s) s

/-- At the schedule start every context begins a START phase at its first sample (R283). -/
def lceStart (s : State) : State := modLce (fun l => { l with starts := (List.range (ctxCnt s)).map (fun c => (c, 1)) }) s

/-- After SAFE-HOLD every context's next sample begins a RECOVERY phase (R283). -/
def lceLeaveSafeHold (s : State) : State := modLce (fun l => { l with recov := List.range (ctxCnt s) }) s

/-! ### Registers (R295). -/

/-- LCE_STAT: contexts in MANUAL, contexts with HOLD or FAIL set. -/
def lceStat (s : State) : Word :=
  let st (c : Nat) : Nat := (lceVals s c).status
  let cs := List.range (ctxCnt s)
  w32 ((cs.filter (fun c => !stAuto (st c))).length * 65536 + (cs.filter (fun c => bitOf (st c) 7 || bitOf (st c) 8)).length)

/-- LCE_GRPDIS. -/
def lceGrpDis (s : State) : Word := w32 (((List.range 32).map (fun g => b2n (isDisabled s 6 g) * 2 ^ g)).foldl (· + ·) 0)

def lceInjReg (s : State) : Word :=
  let j := s.lce.inj
  w32 (b2n j.active * 2 ^ 31 + j.reason.toNat * 2 ^ 24 + (j.test.wave.toNat % 8) * 2 ^ 17 + (j.test.point.toNat % 2) * 2 ^ 16 + j.ctx)

def lceCapCtl (s : State) : Word :=
  let l := s.lce
  w32 (l.page.toNat * 2 ^ 24 + (l.capDec % 256) * 2 ^ 16 + b2n l.capFull * 512 + b2n l.capArmed * 256 + l.capCtx)

def lceCapT0 (s : State) : Word := w32 (s.lce.capT0.1 * 65536 + s.lce.capT0.2)

/-- LCE_CTXn: DISABLED shows while the context's group is disabled (R291). -/
def lceCtxReg (s : State) (c : Nat) : Word :=
  if ctxCnt s ≤ c then 0
  else
    let v := lceVals s c
    w32 (min v.hold 255 * 65536 + v.status % 32768 + 32768 * b2n (isDisabled s 6 (cxGrp s c)))

/-- A word of the capture window: word w of the page. -/
def lceWindow (s : State) (w : Nat) : Word :=
  if hasSect s .lcek 0 then
    w32 (leNat (memBytes 0 s.sram (((sectOf s .lcek 0).map (fun x => x.dest)).getD 0 + lk s 8 4 + 32768 * s.lce.page.toNat + 4 * w) 4))
  else 0

end Sys2Proof.Machine
end

