-- ==== Sys2Proof/Machine/Lin.lean ====
section
/-! DEFINITION. Sys2Proof/Machine/Lin.lean: small exact linear algebra on lists of rows, for the least-squares solutions. -/

namespace Sys2Proof.Machine

abbrev Mat := List (List Rat)

def dot (a b : List Rat) : Rat := sumQ (List.zipWith (· * ·) a b)

/-- Column j of a matrix. -/
def col (m : Mat) (j : Nat) : List Rat := m.map (fun r => r.getD j 0)

def transpose (m : Mat) (n : Nat) : Mat := (List.range n).map (col m)

def matVec (m : Mat) (v : List Rat) : List Rat := m.map (fun r => dot r v)

def identMat (n : Nat) : Mat := (List.range n).map (fun i => (List.range n).map (fun j => if i = j then 1 else 0))

/-- One step of Gauss-Jordan elimination at column k of an augmented matrix; none when no pivot is left. -/
def gaussStep (k : Nat) (m : Mat) : Option Mat :=
  match (List.range m.length).find? (fun i => decide (k ≤ i) && (m.getD i []).getD k 0 != 0) with
  | none => none
  | some p =>
    let pr := m.getD p []
    let kr := m.getD k []
    let piv := pr.getD k 0
    let row := pr.map (fun x => x / piv)
    some ((List.range m.length).map (fun i =>
      if i = k then row
      else
        let r := if i = p then kr else m.getD i []
        let f := r.getD k 0
        List.zipWith (fun x y => x - f * y) r row))

/-- The inverse of an n by n matrix, if it has one. -/
def matInv (n : Nat) (m : Mat) : Option Mat :=
  let aug := List.zipWith (· ++ ·) m (identMat n)
  ((List.range n).foldl (fun o k => o.bind (gaussStep k)) (some aug)).map (fun a => a.map (fun r => r.drop n))

/-- H' W H for rows h and weights w. -/
def normalMat (n : Nat) (h : Mat) (w : List Rat) : Mat :=
  (List.range n).map (fun i => (List.range n).map (fun j => sumQ (List.zipWith (fun r x => r.getD i 0 * x * r.getD j 0) h w)))

/-- Weighted least squares: the solution of (H' W H) x = H' W y, with (H' W H)^-1. -/
def wls (n : Nat) (h : Mat) (w y : List Rat) : Option (List Rat × Mat) :=
  (matInv n (normalMat n h w)).map (fun q =>
    (matVec q ((List.range n).map (fun i => sumQ (List.zipWith (fun r xy => r.getD i 0 * xy) h (List.zipWith (· * ·) w y)))), q))

/-- Least-squares line through points (t, y): intercept at t0 and slope. -/
def lsLine (t0 : Rat) (l : List (Rat × Rat)) : Option (Rat × Rat) :=
  (wls 2 (l.map (fun p => [1, p.1 - t0])) (l.map (fun _ => 1)) (l.map (fun p => p.2))).map (fun r => (r.1.getD 0 0, r.1.getD 1 0))

end Sys2Proof.Machine
end

