-- ==== Sys2Proof/Machine/Gnss.lean ====
section
/-! DEFINITION. Sys2Proof/Machine/Gnss.lean: the signal side of the navigation baseband: Table 5-1, the sample ports, replicas and
correlators, the acquisition grid, the dwells, the tracking loops, message checks, positions and predictions (R159 to R161, R169, R170,
R173, R177 to R181, R184, R194). Values inside the loops are exact: the spec gives NCLK no word for them. -/

namespace Sys2Proof.Machine

/-- A field of NAVC (Table 5-3). -/
def nv (s : State) (off n : Nat) : Nat := fld s .navc 0 off n

/-- An unsigned field with exponent -8. -/
def nvQ (s : State) (off n : Nat) : Rat := ((nv s off n : Nat) : Rat) / 256

def portOn (s : State) (p : Nat) : Bool := bitOf (nv s (16 * p + 8) 1) 0
def portRate (s : State) (p : Nat) : Nat := nv s (16 * p) 4

def navCh (s : State) (c : Nat) : NavChan := tget {} s.nav.chans c
def modNav (f : Nav → Nav) (s : State) : State := { s with nav := f s.nav }
def setNavCh (c : Nat) (v : NavChan) (s : State) : State := modNav (fun n => { n with chans := tset {} n.chans c v }) s

/-- Is NAV enabled? (R51, R166) -/
def navLive (s : State) : Bool := !s.disabled.contains (8, 0)

/-! ### Signals (Table 5-1). -/

/-- Constellation of a signal (Table 5-1): 0 GPS, 1 Galileo, 2 BeiDou, 3 SBAS. -/
def conOf (sig : Nat) : Nat := if sig ≤ 1 then 0 else if sig ≤ 3 then 1 else if sig ≤ 5 then 2 else 3

/-- Is a signal in the L1 band? (Table 5-1) -/
def isL1 (sig : Nat) : Bool := sig == 0 || sig == 2 || sig == 4 || sig == 6

/-- Carrier of a signal in Hz (Table 5-1). -/
def carrier (sig : Nat) : Rat := if sig = 4 then 1561098000 else if isL1 sig then 1575420000 else 1176450000

/-- Code rate in chips per second (Table 5-1). -/
def chipRate (sig : Nat) : Rat := if isL1 sig then (if sig = 4 then 2046000 else 1023000) else 10230000

/-- Chips in a code period (Table 5-1). -/
def periodChips (sig : Nat) : Nat := if isL1 sig then (if sig = 4 then 2046 else if sig = 2 then 4092 else 1023) else 10230

/-- Has the signal a pilot? (Table 5-1) -/
def hasPilot (sig : Nat) : Bool := sig == 1 || sig == 2 || sig == 3 || sig == 5

/-- Length of the pilot's secondary code: NH20, CS25, CS100; none is named for signal 5 (Table 5-1). -/
def overlayLen (sig : Nat) : Nat := if sig = 1 then 20 else if sig = 2 then 25 else if sig = 3 then 100 else 1

/-- The speed of light in m/s. -/
def cLight : Rat := 299792458

/-- The PRN numbers of a signal's constellation (R159). -/
def prnsOf (sig : Nat) : List Nat :=
  match conOf sig with
  | 0 => (List.range 32).map (· + 1)
  | 1 => (List.range 36).map (· + 1)
  | 2 => (List.range 63).map (· + 1)
  | _ => (List.range 39).map (· + 120)

/-- The sample port of an antenna and signal (R160). -/
def portOf (ant sig : Nat) : Nat := 2 * ant + (if isL1 sig then 0 else 1)

/-- Signal and PRN as an event parameter, in the layout of a channel record (Table 5-8). -/
def sigPrn (sig prn : Nat) : Word := w32 (prn + 256 * sig)

/-! ### Sample ports (R160, R161). A sample is a byte: the four I lines in [3:0], the four Q lines in [7:4]. -/

/-- The value on four sample lines: sign and magnitude, of 2 bits on lines [1:0] or of 4 bits; other lines are ignored (R160). -/
def lineVal (four : Bool) (n : Nat) : Int :=
  if four then (let m : Int := 2 * (n % 8) + 1; if bitOf n 3 then -m else m)
  else (let m : Int := if bitOf n 0 then 3 else 1; if bitOf n 1 then -m else m)

/-- I and Q of a port's sample. -/
def sampleIQ (s : State) (p : Nat) (b : Byte) : Rat × Rat :=
  let four := bitOf (nv s (16 * p + 8) 1) 1
  ((lineVal four (b.toNat % 16) : Int), (lineVal four (b.toNat / 16) : Int))

/-- The intermediate frequency of a signal on a port in Hz, negated when INVERT is 1 (R161). -/
def ifHz (s : State) (p sig : Nat) : Rat :=
  let f := carrier sig - (nv s (16 * p + 4) 4 : Nat)
  if bitOf (nv s (16 * p + 8) 1) 2 then -f else f

/-! ### Replicas and correlation (R159, R177). -/

/-- The replica at an absolute code phase in chips: the code's chip, for signal 2 times BOC(1,1), for a synchronised pilot times its secondary
code. The codes themselves are those of the interface specifications. -/
def replica (sig prn : Nat) (pilot overlay : Bool) (chips : Rat) : Rat :=
  let n := chips.floor
  let p : Int := periodChips sig
  let a : Rat := if Config.codeChip sig pilot prn (n % p).toNat then -1 else 1
  let b : Rat := if sig = 2 ∧ 1 / 2 ≤ chips - (n : Rat) then -1 else 1
  let o : Rat := if pilot && overlay && Config.overlayChip sig prn ((n / p) % (overlayLen sig : Nat)).toNat then -1 else 1
  a * b * o

/-- A sample turned back by a carrier phase in turns. -/
def mixDown (x : Rat × Rat) (turns : Rat) : Rat × Rat :=
  let c := cosTurns turns
  let t := sinTurns turns
  (x.1 * c + x.2 * t, x.2 * c - x.1 * t)

/-- The sum of samples against a replica: carrier from phase th at f Hz, code rep from phase 0 at rate cr, rate samples per second. -/
def correlate (rate th f cr : Rat) (rep : Rat → Rat) (l : List (Rat × Rat)) : Rat × Rat :=
  (l.foldl (fun (a : (Rat × Rat) × Rat) x =>
    let y := mixDown x (th + f * a.2 / rate)
    let r := rep (cr * a.2 / rate)
    ((a.1.1 + r * y.1, a.1.2 + r * y.2), a.2 + 1)) ((0, 0), 0)).1

def power (a : Rat × Rat) : Rat := a.1 * a.1 + a.2 * a.2
def absIQ (a : Rat × Rat) : Rat := sqrtQ (power a)

/-- Whole pieces of n elements from the front of a list. -/
def pieces {α : Type} (n : Nat) (l : List α) : List (List α) := if n = 0 then [] else (List.range (l.length / n)).map (fun k => (l.drop (k * n)).take n)

/-- Coherent time of a search in ms (Table 5-4). -/
def searchMs (sig : Nat) : Nat := if sig = 2 then 4 else 1

/-! ### The acquisition grid (R169, R170, Table 5-4). -/

def gridBin (sig : Nat) : Nat := if sig = 2 then 125 else 500
def gridBins (sig : Nat) : Nat := if sig = 2 then 3 else if sig = 4 then 6 else 12

/-- Doppler covered by one pass in Hz (Table 5-4). -/
def passDop (sig : Nat) : Nat := gridBin sig * gridBins sig

/-- Passes of one job (R170). -/
def jobPasses (s : State) (sig : Nat) : Nat := (2 * nv s 0x54 2 + passDop sig - 1) / passDop sig

/-- The Doppler of a bin of a pass: the passes of a job are centred on 0 Hz and run upward (DESIGN CHOICE, log 144). -/
def binDop (s : State) (sig pass bin : Nat) : Rat :=
  let d : Rat := (passDop sig : Nat)
  (pass : Rat) * d - ((jobPasses s sig : Nat) : Rat) * d / 2 + ((bin : Rat) + 1 / 2) * (gridBin sig : Nat)

/-- The antenna whose L1-band port the ACQ bank works on (R169). -/
def acqAnt (s : State) : Nat := if bitOf s.nav.gspFailed.toNat 0 then 1 else 0

/-- The port's samples resampled to 8.184 Msps: each takes the newest sample of the port (DESIGN CHOICE, log 144). -/
def resampled (s : State) (p : Nat) (iq : List Byte) : List (Rat × Rat) :=
  let r := portRate s p
  (List.range (iq.length * 8184000 / (if r = 0 then 1 else r))).filterMap (fun j => (iq[j * r / 8184000]?).map (sampleIQ s p))

/-- The power of one cell of the present pass: the coherent sums' powers added over ACQ_NC intervals (R169, R170). -/
def cellPower (s : State) (x : List (Rat × Rat)) (half bin : Nat) : Rat :=
  let g := s.nav.jobSig
  let d := binDop s g s.nav.jobPass bin
  let cr := chipRate g * (1 + d / carrier g)
  let f := ifHz s (portOf (acqAnt s) g) g + d
  let rep (c : Rat) : Rat := replica g s.nav.jobPrn false false ((half : Rat) / 2 + c)
  sumQ (((pieces (8184 * searchMs g) (x ++ List.replicate (8184 * searchMs g * nv s 0x53 1 - x.length) (0, 0))).take (nv s 0x53 1)).map
    (fun l => power (correlate 8184000 0 f cr rep l)))

/-- Every cell in use with its power (Table 5-4: half-chip code phases by Doppler bins). -/
def acqCells (s : State) (iq : List Byte) : List (Rat × Nat × Nat) :=
  let g := s.nav.jobSig
  let x := resampled s (portOf (acqAnt s) g) iq
  (List.range (2 * periodChips g)).flatMap (fun h => (List.range (gridBins g)).map (fun b => (cellPower s x h b, h, b)))

/-- The first greatest of a list. -/
def bestOf {α : Type} : List (Rat × α) → Option (Rat × α)
  | [] => none
  | x :: l => match bestOf l with
    | none => some x
    | some y => if y.1 ≤ x.1 then some x else some y

/-- Mean of a list of powers; 0 for none. -/
def meanQ (l : List Rat) : Rat := if l.length = 0 then 0 else sumQ l / ((l.length : Nat) : Rat)

/-- The detection test of R170. -/
def detects (s : State) (peak mean : Rat) : Bool := decide (nvQ s 0x56 2 * mean ≤ peak)

/-- The outcome of a pass: the code phase in chips and the Doppler of the peak cell, when it is a detection (R170). -/
def acqFound (s : State) (iq : List Byte) : Option (Rat × Rat) :=
  let cells := acqCells s iq
  match bestOf cells with
  | none => none
  | some (p, h, b) => if detects s p (meanQ (cells.map (fun c => c.1))) then some ((h : Rat) / 2, binDop s s.nav.jobSig s.nav.jobPass b) else none

/-- Ticks of a pass: the coherent time by ACQ_NC, and 0.1 ms (R170). -/
def passTicks (s : State) : Nat := (searchMs s.nav.jobSig * nv s 0x53 1 * 10 + 1) * 40000

/-! ### Dwells (R173 to R176). -/

/-- A channel's code phase in chips at a time in ns, from its last sample on. -/
def codeAt (v : NavChan) (ns : Rat) : Rat := v.code + chipRate v.sig * (1 + v.dopp / carrier v.sig) * (ns - v.upto) / 1000000000

/-- The half-width of an aided code search in chips: widened by the deviation of the aided position, then capped at AID_CHIPS (R173, R194);
1 chip for the window of R174 and R175. -/
def codeHalf (s : State) (v : NavChan) : Nat :=
  if v.window then 1
  else
    let w : Rat := (nv s 0x6C 1 : Nat) + absQ ((s.nav.aid.getD 3 none).getD 0) / cLight * chipRate v.sig
    min (nv s 0x6C 1) w.floor.toNat

/-- Dwells that cover the code window in one bin, and bins on either side (R173). -/
def dwellGroups (s : State) (v : NavChan) : Nat := (4 * codeHalf s v + 1 + 5) / 6
def dwellBins (s : State) (v : NavChan) : Nat := if v.window then 0 else (nv s 0x6A 2 + gridBin v.sig - 1) / gridBin v.sig

/-- Dwells of a full search (R173). -/
def aidedDwells (s : State) (v : NavChan) : Nat := dwellGroups s v * (2 * dwellBins s v + 1)

/-- Ticks of a dwell: the coherent time by ACQ_NC (R173). -/
def dwellTicks (s : State) (sig : Nat) : Nat := searchMs sig * nv s 0x53 1 * 400000

/-- One dwell: six code taps in one bin, with the noise correlator for the mean; the code phase at the dwell's end and the Doppler of a
detection. The window's code phases run upward in a bin, then the bins (DESIGN CHOICE, log 144). -/
def dwellFound (s : State) (v : NavChan) (iq : List Byte) : Option (Rat × Rat) :=
  let p := portOf v.ant v.sig
  let rate : Rat := (portRate s p : Nat)
  let n := portRate s p * searchMs v.sig / 1000
  let blocks := (pieces n (iq.map (sampleIQ s p))).take (nv s 0x53 1)
  let g := v.dwells % dwellGroups s v
  let b := v.dwells / dwellGroups s v
  let d := v.dopp + ((b : Rat) - (dwellBins s v : Nat)) * (gridBin v.sig : Nat)
  let cr := chipRate v.sig * (1 + d / carrier v.sig)
  let f := ifHz s p v.sig + d
  let span : Rat := (iq.length : Nat) / (if rate = 0 then 1 else rate)
  let c0 := codeAt v (nowNs s : Nat) - cr * span
  let off (j : Nat) : Rat := ((6 * g + j : Nat) : Rat) / 2 - (codeHalf s v : Nat)
  let tap (prn : Nat) (o : Rat) : Rat := sumQ (blocks.map (fun l => power (correlate rate 0 f cr (fun c => replica v.sig prn false false (c0 + o + c)) l)))
  let taps := ((List.range 6).filter (fun j => decide (off j ≤ (codeHalf s v : Nat)))).map (fun j => (tap v.prn (off j), off j))
  match bestOf taps with
  | none => none
  | some (q, o) => if detects s q (tap (nv s (0xA4 + v.sig) 1) 0) then some (c0 + o + cr * span, d) else none

/-! ### Tracking (R177 to R180). -/

/-- Coherent time of a channel's loops in ms (Table 5-6). Which BeiDou satellites send D2 is their interface specification's. -/
def loopMs (v : NavChan) : Nat :=
  if v.state = 2 then 1
  else if v.state = 3 then searchMs v.sig
  else if v.sig = 6 ∨ (v.sig = 4 ∧ Config.sendsD2 v.prn = true) then 2 else 20

/-- Spacings of E, P, L, VE, VL from the prompt in chips (Table 5-5). -/
def spacings (s : State) (sig : Nat) : List Rat :=
  let e : Rat := if bitOf (nv s 0x43 1) 1 then 1 / 10 else 1 / 2
  let v : Rat := if sig = 2 then 1 / 2 else 1
  [e, 0, -e, v, -v]

/-- The seven accumulators of a coherent interval: E, P, L, VE, VL, pilot prompt, noise (Table 5-5). -/
def accumulate (s : State) (v : NavChan) (l : List (Rat × Rat)) : List (Rat × Rat) :=
  let p := portOf v.ant v.sig
  let cr := chipRate v.sig * (1 + v.dopp / carrier v.sig)
  let go (prn : Nat) (pilot : Bool) (o : Rat) : Rat × Rat :=
    correlate (portRate s p : Nat) v.nco (ifHz s p v.sig + v.dopp) cr (fun c => replica v.sig prn pilot (decide (4 ≤ v.state.toNat)) (v.code + o + c)) l
  (spacings s v.sig).map (go v.prn false) ++ [if hasPilot v.sig then go v.prn true 0 else (0, 0), go (nv s (0xA4 + v.sig) 1) false 0]

/-- A ratio; with nothing below the line the value is free. -/
def ratioQ (k : Nat) (a b : Rat) : Rat := if b = 0 then Config.openQ k [a] else a / b

/-- The frequency discriminator in Hz: the cross product of two successive prompts, normalised (R178). -/
def fllDisc (a b : Rat × Rat) (t : Rat) : Rat := ratioQ 20 (a.1 * b.2 - a.2 * b.1) (absIQ a * absIQ b) / (2 * piQ * t)

/-- The phase discriminator in cycles: four-quadrant on a pilot, two-quadrant on the prompt (R178). -/
def pllDisc (sig : Nat) (a : Rat × Rat) : Rat :=
  if hasPilot sig then atan2Turns a.2 a.1 else if a.1 < 0 then atan2Turns (-a.2) (-a.1) else atan2Turns a.2 a.1

/-- The code discriminator: early less late envelope, normalised (R178). -/
def dllDisc (e l : Rat × Rat) : Rat := ratioQ 21 (absIQ e - absIQ l) (absIQ e + absIQ l)

/-- The lock indicator of one interval (R179). -/
def lockIndicator (p : Rat × Rat) : Rat := ratioQ 22 (p.1 * p.1 - p.2 * p.2) (power p)

/-- The newest entries of a history whose durations make up a time. -/
def recent (ms : Nat) : List (Rat × Nat) → List (Rat × Nat)
  | [] => []
  | x :: l => if ms = 0 then [] else x :: recent (ms - x.2) l

/-- The lock indicator filtered over 100 ms: its mean (R179; DESIGN CHOICE, log 144). -/
def lockOf (v : NavChan) : Rat :=
  let n := (v.lockHist.map (fun x => x.2)).foldl (· + ·) 0
  if n = 0 then 0 else sumQ (v.lockHist.map (fun x => x.1 * (x.2 : Nat))) / ((n : Nat) : Rat)

/-- The loops over one interval of t seconds: FLL and PLL together in PULL-IN for PULLIN_MS, the PLL alone after; the DLL aided by the
carrier. The filters' gains for an order and a bandwidth are not stated, so they are free (R178). -/
def runLoops (s : State) (v : NavChan) (acc : List (Rat × Rat)) (t : Rat) : NavChan :=
  let a (i : Nat) : Rat × Rat := acc.getD i (0, 0)
  let ctl := if hasPilot v.sig then a 5 else a 1
  let both := v.state = 2 ∧ v.pullMs < nv s 0x5A 2
  let ef := if both then fllDisc v.last ctl t else 0
  let ep := pllDisc v.sig ctl
  let gf (k : Nat) : Rat := Config.loopGain 0 k (nvQ s 0x64 2) t
  let gp (k : Nat) : Rat := Config.loopGain 1 k (nvQ s 0x66 2) t
  let accel := v.accel + t * (gp 0 * ep + gf 0 * ef)
  let vel := v.vel + t * (accel + gp 1 * ep + gf 1 * ef)
  let step := chipRate v.sig * (1 + v.dopp / carrier v.sig) * t
  let corr := Config.loopGain 2 0 (nvQ s 0x68 2) t * dllDisc (a 0) (a 2) * t
  { v with
    acc := acc, last := ctl, accel := accel, vel := vel, dopp := vel + gp 2 * ep
    nco := v.nco + (ifHz s (portOf v.ant v.sig) v.sig + v.dopp) * t, phase := v.phase - v.dopp * t
    code := v.code + step + corr, tx := v.tx.map (fun x => x + (step + corr) / chipRate v.sig * 1000000000) }

/-- The estimates over one interval of ms milliseconds: lock indicator, C/N0 of each second, and how long each condition of R176, R177
and R180 has held. -/
def runEstimates (s : State) (ms : Nat) (v : NavChan) : NavChan :=
  let a (i : Nat) : Rat × Rat := v.acc.getD i (0, 0)
  let sumP := v.sumP + power (a 1)
  let sumN := v.sumN + power (a 6)
  let k := v.cnMs + ms
  let full := decide (1000 ≤ k)
  let cn0 := if full then decibels (ratioQ 23 (sumP - sumN) (sumN * ((ms : Nat) : Rat) / 1000)) else v.cn0
  let v := { v with lockHist := recent 100 ((lockIndicator (a 1), ms) :: v.lockHist), cn0 := cn0, sumP := if full then 0 else sumP, sumN := if full then 0 else sumN, cnMs := if full then 0 else k }
  let held (b : Bool) (n : Nat) : Nat := if b then n + ms else 0
  let side := decide (power (a 1) < power (a 3)) || decide (power (a 1) < power (a 4))
  { v with
    goodMs := held (decide (8 / 10 ≤ lockOf v) && decide (nvQ s 0x5C 2 ≤ v.cn0)) v.goodMs
    lowCnMs := held (decide (v.cn0 < nvQ s 0x5E 2)) v.lowCnMs, lowLockMs := held (decide (lockOf v < 1 / 2)) v.lowLockMs
    sideMs := held (v.sig == 2 && side) v.sideMs
    pullMs := if v.state = 2 then v.pullMs + ms else v.pullMs, lockMs := if 3 ≤ v.state.toNat then v.lockMs + ms else 0
    slip := v.slip || Config.cycleSlip v.last }

/-- A channel that runs its loops: PULL-IN with its signal found, PLL, SYNCED or TRACKING. -/
def looping (v : NavChan) : Bool := v.state == 3 || v.state == 4 || v.state == 5 || (v.state == 2 && (!v.window || v.found))

/-- A channel over the samples of its port up to the present tick, in whole coherent intervals; what is left waits for the next. -/
def track (s : State) (v : NavChan) (iq : List Byte) : NavChan :=
  let p := portOf v.ant v.sig
  let r := portRate s p
  let ms := loopMs v
  let n := r * ms / 1000
  if looping v = false ∨ n = 0 ∨ domGated s .nav then v
  else
    let all := v.rest ++ iq
    let rest := all.drop (all.length / n * n)
    let v := (pieces n all).foldl (fun v l => runEstimates s ms (runLoops s v (accumulate s v (l.map (sampleIQ s p))) (((n : Nat) : Rat) / ((r : Nat) : Rat)))) v
    { v with rest := rest, upto := ((nowNs s : Nat) : Rat) - ((rest.length : Nat) : Rat) / ((r : Nat) : Rat) * 1000000000 }

/-! ### Message checks (R181, Table 5-7). -/

/-- The check sequence CRC-24Q of a list of bits. -/
def crc24Bits (l : List Bool) : Nat :=
  l.foldl (fun c b =>
    let top := (bitOf c 23) != b
    let t := (c * 2) % 2 ^ 24
    if top then t ^^^ 0x864CFB else t) 0

/-- A list of bits, the first the highest. -/
def bitsNat (l : List Bool) : Nat := l.foldl (fun n b => 2 * n + b2n b) 0

/-- Bits with their CRC-24Q at the end. -/
def crc24Ok (l : List Bool) : Bool := decide (24 ≤ l.length) && crc24Bits (l.take (l.length - 24)) == bitsNat (l.drop (l.length - 24))

/-- Exclusive or of the numbered bits, the first being 1. -/
def xorOf (l : List Bool) (ix : List Nat) : Bool := ix.foldl (fun b i => b != l.getD (i - 1) false) false

/-- The (32,26) parity of an LNAV word: the last two bits of the word before, 24 data bits, 6 parity bits (PRESUMED, log 145). -/
def lnavOk (l : List Bool) : Bool :=
  let d29 := l.getD 0 false
  let d30 := l.getD 1 false
  let d := (l.drop 2).take 24 |>.map (fun b => b != d30)
  decide (l.length = 32) && l.drop 26 ==
    [d29 != xorOf d [1, 2, 3, 5, 6, 10, 11, 12, 13, 14, 17, 18, 20, 23], d30 != xorOf d [2, 3, 4, 6, 7, 11, 12, 13, 14, 15, 18, 19, 21, 24],
     d29 != xorOf d [1, 3, 4, 5, 7, 8, 12, 13, 14, 15, 16, 19, 20, 22], d30 != xorOf d [2, 4, 5, 6, 8, 9, 13, 14, 15, 16, 17, 20, 21, 23],
     d30 != xorOf d [1, 3, 5, 6, 7, 9, 10, 14, 15, 16, 17, 18, 21, 22, 24], d29 != xorOf d [3, 5, 6, 8, 9, 10, 11, 13, 15, 19, 22, 23, 24]]

/-- The remainder of a block by x^4 + x + 1: 0 in a BCH(15,11) block without error (PRESUMED, log 145). -/
def bchRem (l : List Bool) : Nat :=
  l.foldl (fun c b =>
    let t := 2 * c + b2n b
    if 16 ≤ t then t ^^^ 0x13 else t) 0

/-- A BeiDou word: whole blocks of 15 bits, each without error. -/
def bchOk (l : List Bool) : Bool := l.length != 0 && l.length % 15 == 0 && (pieces 15 l).all (fun b => bchRem b == 0)

/-- The check of Table 5-7 on an item's symbols. The forward error correction and the framing of signals 1, 2, 3, 5 and 6 are those of the
interface specifications: what they give is the bits that the check covers and then the check. -/
def messageOk (sig : Nat) (symbols : List Bool) : Bool :=
  if sig = 0 then lnavOk symbols else if sig = 4 then bchOk symbols else crc24Ok (Config.fecDecode sig symbols)

/-! ### Positions (R184, R186, R194). -/

/-- WGS-84 position of a latitude and longitude in turns and a height in m. -/
def ecefOf (lat lon h : Rat) : List Rat :=
  let sp := sinTurns lat
  let n := wgsA / sqrtQ (1 - wgsE2 * sp * sp)
  [(n + h) * cosTurns lat * cosTurns lon, (n + h) * cosTurns lat * sinTurns lon, (n * (1 - wgsE2) + h) * sp]

/-- Latitude and longitude in turns and height in m by three Bowring iterations on WGS-84 (R186). -/
def geodetic (x : List Rat) : Rat × Rat × Rat :=
  let b := wgsA * sqrtQ (1 - wgsE2)
  let ep2 := wgsE2 / (1 - wgsE2)
  let p := sqrtQ (x.getD 0 0 * x.getD 0 0 + x.getD 1 0 * x.getD 1 0)
  let z := x.getD 2 0
  let stepB (beta : Rat) : Rat :=
    let sb := sinTurns beta
    let cb := cosTurns beta
    atan2Turns (z + ep2 * b * sb * sb * sb) (p - wgsE2 * wgsA * cb * cb * cb)
  let red (phi : Rat) : Rat := atan2Turns (b / wgsA * sinTurns phi) (cosTurns phi)
  let phi1 := stepB (atan2Turns (wgsA * z) (b * p))
  let phi2 := stepB (red phi1)
  let phi3 := stepB (red phi2)
  let sp := sinTurns phi3
  (phi3, atan2Turns (x.getD 1 0) (x.getD 0 0), p / cosTurns phi3 - wgsA / sqrtQ (1 - wgsE2 * sp * sp))

/-- North, east and up unit vectors at a geodetic position. -/
def localAxes (lat lon : Rat) : Mat :=
  let sp := sinTurns lat
  let cp := cosTurns lat
  let sn := sinTurns lon
  let cn := cosTurns lon
  [[-(sp * cn), -(sp * sn), cp], [-sn, cn, 0], [cp * cn, cp * sn, sp]]

def norm3 (v : List Rat) : Rat := sqrtQ (dot v v)
def sub3 (a b : List Rat) : List Rat := List.zipWith (· - ·) a b

/-- Where an elevation is seen from: axes and Earth-fixed position. -/
structure Site where
  axes : Mat
  pos  : List Rat

/-- The site of the aided position, whose words +0 to +3 must be present (R194). -/
def aidSite (aid : List (Option Rat)) : Option Site :=
  match aid.getD 0 none, aid.getD 1 none, aid.getD 2 none, aid.getD 3 none with
  | some a, some b, some h, some _ => some { axes := localAxes (a / 4294967296) (b / 4294967296), pos := ecefOf (a / 4294967296) (b / 4294967296) h }
  | _, _, _, _ => none

/-- Azimuth and elevation in turns of an Earth-fixed position seen from a site. -/
def azElOf (x : Site) (sv : List Rat) : Rat × Rat :=
  let d := sub3 sv x.pos
  let q (i : Nat) : Rat := dot (x.axes.getD i []) d
  (atan2Turns (q 1) (q 0), atan2Turns (q 2) (sqrtQ (q 0 * q 0 + q 1 * q 1)))

/-- GPS time to the time of a constellation's interface specification: BeiDou runs 14 s behind, Galileo is taken as GPS (R183). -/
def sysTime (sig : Nat) (ns : Rat) : Rat := if conOf sig = 2 then ns - 14000000000 else ns

/-- State of a satellite at a transmit time, rotated to a receive time (R184). -/
def satAt (sig : Nat) (content : List Word) (tx rx : Rat) : List Rat := Config.satState sig content (sysTime sig tx) (sysTime sig rx)

/-- Is an aided position held? +0 to +3 present with a deviation of at most 10,000 m (R194). -/
def aidedPos (s : State) : Bool :=
  (aidSite s.nav.aid).isSome &&
  (match s.nav.aid.getD 3 none with
    | some x => decide (absQ x ≤ 10000)
    | none => false)

/-- Receiver time at a PTP time, in ns of GPS time (R183). -/
def rxTime (s : State) (ns : Rat) : Rat := ns - 19000000000 + s.nav.rxOff

/-- An ephemeris within its validity, whose end is its interface specification's (R182). -/
def ephLive (t : Rat) (e : NavEph) : Bool := decide (t ≤ Config.ephEnd e.con e.content)

/-- What a prediction gives of a satellite's signal: elevation in degrees, code phase in chips, Doppler in Hz. -/
structure Predicted where
  elev : Rat
  code : Rat
  dopp : Rat

/-- The prediction for a signal of a satellite: only with an almanac or a valid ephemeris, valid time and an aided position (R171, R173). The
velocity of the aiding counts where it is present. -/
def predict (s : State) (sig prn : Nat) : Option Predicted :=
  let rx := rxTime s (nowNs s : Nat)
  match (if s.ptc.status ≠ 0 ∧ aidedPos s then aidSite s.nav.aid else none),
    (s.nav.ephs.filter (ephLive rx) ++ s.nav.alms).find? (fun e => e.con = conOf sig ∧ e.prn = prn) with
  | some x, some e =>
    let st0 := satAt sig e.content rx rx
    let tx := rx - norm3 (sub3 (st0.take 3) x.pos) / cLight * 1000000000
    let st := satAt sig e.content tx rx
    let d := sub3 (st.take 3) x.pos
    let r := norm3 d
    let v (i : Nat) : Rat := (s.nav.aid.getD i none).getD 0
    let own := List.zipWith (fun n e => v 5 * n + v 6 * e) (x.axes.getD 0 []) (x.axes.getD 1 [])
    let rr := ratioQ 24 (dot d (sub3 ((st.drop 3).take 3) own)) r
    some { elev := (azElOf x (st.take 3)).2 * 360, code := (tx / 1000000000 + st.getD 6 0 / cLight) * chipRate sig, dopp := -(rr * carrier sig / cLight) }
  | _, _ => none

end Sys2Proof.Machine
end

