-- ==== Sys2Proof/Machine/Nav.lean ====
section
/-! DEFINITION. Sys2Proof/Machine/Nav.lean: the satellite navigation baseband in NCLK: FIFOs, acquisition, tracking, messages,
epochs, records, consistency checks (R162 to R185, R191 to R196). -/

namespace Sys2Proof.Machine

/-- The channels reserved for an antenna and signal: POOL bytes in their order (Table 5-3). -/
def poolRange (s : State) (ant sig : Nat) : List Nat :=
  let i := 7 * ant + sig
  let lo := ((List.range i).map (fun j => nv s (0x44 + j) 1)).foldl (· + ·) 0
  (List.range (nv s (0x44 + i) 1)).map (· + lo)

/-- A free channel of a pool. -/
def freeCh (s : State) (ant sig : Nat) : Option Nat := (poolRange s ant sig).find? (fun c => (navCh s c).state = 0)

/-- Is a signal of a satellite assigned to a channel of an antenna? -/
def assigned (s : State) (ant sig prn : Nat) : Bool :=
  (List.range 192).any (fun c => let v := navCh s c; v.state != 0 && v.ant == ant && v.sig == sig && v.prn == prn)

/-! ### Operations into the FIFOs (R163, R165). -/

/-- What an EPOCH latches on arrival. -/
def navLatch (s : State) : NavLatch :=
  { chans := s.nav.chans, ephs := s.nav.ephs, sbas := s.nav.sbas, rtcm := s.nav.rtcm, klob := s.nav.klob, aid := s.nav.aid }

/-- X of an operation in NCLK cycles (Table 5-2). -/
def navX (eng opc : Nat) : Nat :=
  if eng = 8 then 16 else if eng = 9 then 32 else if eng = 0xB then 96 else if opc = 1 then 18944 else if opc = 2 then 64 else 256

/-- The completion of an operation in thirds of a tick: exactly X cycles of 4/3 tick after its arrival (R163, R165). -/
def opDone (o : NavOp) : Nat := o.arr + 4 * navX o.eng o.opc

/-- An operation enters its FIFO with the PTP time of the tick, and arrives after 3 or 4 NCLK cycles: which, the spec leaves open (Table 1-11,
R46). -/
def pushNav (eng opc opnd : Nat) (words : List (Word × Qual)) (s : State) : State :=
  let arr := 3 * s.cclk + (if Config.crossingSeen (s.cclk * 1024 + eng) then 12 else 16)
  modNav (fun n => { n with ops := n.ops ++ [{ eng := eng, opc := opc, opnd := opnd, words := words, ns := nowNs s, arr := arr }] }) s

def navBlock (s : State) (i n : Nat) : List (Word × Qual) := (List.range n).map (fun k => (sigW s (i + k), sigQ s (i + k)))

def execAcqCtl (mode : BitVec 2) (s : State) : Res :=
  issue 8 0 (opWord 8 1 mode.toNat) (pushNav 8 1 mode.toNat []) s

def execAcqSnap (s : State) : Res := issue 8 0 (opWord 8 2 0) (pushNav 8 2 0 []) s

def execTrkSnap (ch : BitVec 8) (s : State) : Res := issue 9 0 (opWord 9 1 ch.toNat) (pushNav 9 1 ch.toNat []) s

def execEpoch (s : State) : Res := issue 0x0A 0 (opWord 0x0A 1 0) (pushNav 0x0A 1 0 []) s

def execAiding (sig : BitVec 17) (s : State) : Res :=
  issue 0x0A 0 (opWord 0x0A 2 sig.toNat) (fun s => pushNav 0x0A 2 sig.toNat (navBlock s sig.toNat 8) s) s

def execRtcmIn (sig : BitVec 17) (s : State) : Res :=
  issue 0x0A 0 (opWord 0x0A 3 sig.toNat) (fun s => pushNav 0x0A 3 sig.toNat (navBlock s sig.toNat 16) s) s

def execCchClock (sig : BitVec 17) (s : State) : Res :=
  issue 0x0B 0 (opWord 0x0B 1 sig.toNat) (fun s => pushNav 0x0B 1 sig.toNat (navBlock s sig.toNat 2) s) s

/-! ### Acquisition (R169 to R176). -/

/-- Every (signal, PRN) of the list, in order (R171). -/
def acqList (s : State) : List (Nat × Nat) :=
  ([0, 2, 4, 6].filter (fun g => bitOf (nv s 0x40 1) g)).flatMap (fun g => (prnsOf g).map (fun p => (g, p)))

/-- Does the bank skip this job? A predicted-visible signal, at 0 degrees or above, is searched aided, but for one whose aided window has been
exhausted (R171, R173). -/
def acqSkip (s : State) (j : Nat × Nat) : Bool :=
  let a := acqAnt s
  assigned s a j.1 j.2 || (s.nav.acqMode == 1 &&
    ((freeCh s a j.1).isNone || (match predict s j.1 j.2 with
      | some q => (decide (0 ≤ q.elev) && !s.nav.unaided.contains j) || decide (q.elev < -5)
      | none => false)))

/-- The next job of the list after the present one, in turn; in STOP the bank idles (R171). A signal that was due an unaided search has had its
turn. -/
def nextJob (s : State) : State :=
  let here := (s.nav.jobSig, s.nav.jobPrn)
  let s := if s.nav.jobOn then modNav (fun n => { n with unaided := n.unaided.filter (fun j => j != here) }) s else s
  if s.nav.acqMode = 0 then modNav (fun n => { n with jobOn := false, jobPass := 0 }) s
  else
    let l := acqList s
    let after := (l.dropWhile (fun j => j != here)).drop 1
    match (after ++ l).find? (fun j => !acqSkip s j) with
    | some j => modNav (fun n => { n with jobOn := true, jobSig := j.1, jobPrn := j.2, jobPass := 0, jobAt := s.cclk }) s
    | none => modNav (fun n => { n with jobOn := false, jobPass := 0 }) s

/-- A bank that found every job skipped goes on when one no longer is (R171). -/
def wakeBank (s : State) : State := if s.nav.jobOn || s.nav.acqMode == 0 || !navLive s then s else nextJob s

/-- Put a signal on a channel in a state, with a code phase in chips at a time and a Doppler. -/
def takeCh (c ant sig prn : Nat) (st : BitVec 3) (window : Bool) (code dopp at_ : Rat) (s : State) : State :=
  setNavCh c { ant := ant, sig := sig, prn := prn, state := st, window := window, since := s.cclk, dwellAt := s.cclk, code := code, dopp := dopp, vel := dopp, upto := at_ } s

/-- Free channels take predicted-visible L1-band signals of antenna 1 in AIDED-SEARCH, about the predicted code phase and Doppler (R173). -/
def assignAided (s : State) : State :=
  if navLive s = false then s
  else
    (acqList s).foldl (fun s j =>
      if assigned s 0 j.1 j.2 || s.nav.unaided.contains j then s
      else match predict s j.1 j.2, freeCh s 0 j.1 with
        | some q, some c => if 0 ≤ q.elev then takeCh c 0 j.1 j.2 1 false q.code q.dopp (nowNs s : Nat) s else s
        | _, _ => s) s

/-- Free a channel; a bank without a job looks again. -/
def freeChan (c : Nat) (s : State) : State := wakeBank (setNavCh c {} s)

/-- The bytes of the port that a search pass listens to, of those that the four ports delivered (R160, R169). -/
def passBytes (s : State) (iq0 iq1 iq2 iq3 : List Byte) : List Byte := [iq0, iq1, iq2, iq3].getD (portOf (acqAnt s) s.nav.jobSig) []

/-- ACQ_PASS_END: the pass has lasted its time, its samples are searched, and a detection is handed to a free channel in PULL-IN with its
code phase and Doppler; else the next pass or job (R170 to R172). -/
def execAcqPassEnd (iq0 iq1 iq2 iq3 : List (BitVec 8)) (s : State) : Res :=
  if s.nav.jobOn = false ∨ domGated s .nav ∨ s.cclk < s.nav.jobAt + passTicks s then .next s
  else
    let a := acqAnt s
    let g := s.nav.jobSig
    let p := s.nav.jobPrn
    let iq := passBytes s iq0 iq1 iq2 iq3
    match acqFound s iq with
    | some (code, dopp) =>
      if assigned s a g p then .next (nextJob s)
      else match freeCh s a g with
        | none => .next (nextJob s)
        | some c =>
          let r := portRate s (portOf a g)
          let adv := chipRate g * (1 + dopp / carrier g) * ((iq.length : Nat) : Rat) / ((if r = 0 then 1 else r : Nat) : Rat)
          .next (nextJob (raise 0x0502 (sigPrn g p) (Config.reportWord code) (Config.reportWord dopp) (takeCh c a g p 2 false (code + adv) dopp (nowNs s : Nat) s)))
    | none =>
      let n := s.nav.jobPass + 1
      if s.nav.acqMode = 0 || decide (jobPasses s g ≤ n) then .next (nextJob s)
      else .next (modNav (fun v => { v with jobPass := n, jobAt := s.cclk }) s)

/-- May a dwell end on a channel? An aided search, a re-acquisition, or the one dwell of a window (R173 to R176). -/
def dwelling (v : NavChan) : Bool := v.state == 1 || v.state == 6 || (v.state == 2 && v.window && !v.found && v.dwells == 0)

/-- The bytes of a channel's own antenna, of those of its band at antennas 1 and 2. -/
def dwellBytes (v : NavChan) (ant1 ant2 : List Byte) : List Byte := if v.ant = 0 then ant1 else ant2

/-- AIDED_DWELL_END: the dwell has lasted its time; a detection leads to PULL-IN; a window exhausted leads to IDLE and an unaided search, or in
REACQ to the next search (R173, R174, R176). -/
def execAidedDwellEnd (c : Fin 192) (ant1 ant2 : List (BitVec 8)) (s : State) : Res :=
  let v := navCh s c
  if dwelling v = false ∨ domGated s .nav ∨ s.cclk < v.dwellAt + dwellTicks s v.sig then .next s
  else match dwellFound s v (dwellBytes v ant1 ant2) with
    | some (code, dopp) =>
      let since := if v.state = 2 then v.since else s.cclk
      .next (setNavCh c { v with state := 2, found := true, since := since, dwells := 0, pullMs := 0, code := code, dopp := dopp, vel := dopp, accel := 0, upto := ((nowNs s : Nat) : Rat) } s)
    | none =>
      let n := v.dwells + 1
      let go : State := setNavCh c { v with dwells := n, dwellAt := s.cclk } s
      if v.state = 2 ∨ n < aidedDwells s v then .next go
      else if v.state = 1 then .next (freeChan c (modNav (fun m => { m with unaided := (v.sig, v.prn) :: m.unaided }) s))
      else .next (setNavCh c { v with dwells := 0, dwellAt := s.cclk } s)

/-! ### Tracking (R176 to R180). -/

/-- TRK_PLL_LOCK: a stretch of samples; PLL once the lock indicator and C/N0 have held for 100 ms (R179, R180). -/
def execTrkPllLock (x : ChanSamples) (s : State) : Res :=
  let c := x.chan
  let v := track s (navCh s c) x.iq
  .next (setNavCh c (if v.state = 2 ∧ 100 ≤ v.goodMs then { v with state := 3, since := s.cclk, rest := [] } else v) s)

/-- How long a PULL-IN channel may take, in ms: ACQ_VERIFY, or PULLIN_MS for a window (R172, Table 5-6). -/
def verifyMs (s : State) (v : NavChan) : Nat := if v.window then nv s 0x5A 2 else nv s 0x58 2

/-- Has a PULL-IN channel failed to reach PLL in its time? -/
def verifyOver (s : State) (v : NavChan) : Bool := v.state == 2 && !domGated s .nav && decide (v.since + 400000 * verifyMs s v ≤ s.cclk)

/-- ACQ_VERIFY_TIMEOUT: the PULL-IN channel returns to IDLE; a detection of the ACQ bank or of an aided search was a false alarm
(R172). -/
def execAcqVerifyTimeout (c : Fin 192) (s : State) : Res :=
  let v := navCh s c
  if verifyOver s v then
    .next (freeChan c (modNav (fun n => { n with falseAl := if v.window then n.falseAl else n.falseAl + 1 }) s))
  else .next s

/-- BIT_SYNC: the synchroniser has found the bit or the secondary code, edge code periods into it (R180). -/
def execBitSync (x : ChanEdge) (s : State) : Res :=
  let c := x.chan
  let edge := x.edge
  let v := navCh s c
  let p := periodChips v.sig
  if v.state = 3 ∧ domGated s .nav = false then
    .next (setNavCh c { v with state := 4, since := s.cclk, rest := [], code := v.code - ((v.code / (p : Nat)).floor : Rat) * (p : Nat) + (edge : Nat) * (p : Nat) } s)
  else .next s

/-- A channel of a pool takes a signal in PULL-IN with one window (R174, R175). -/
def windowEntry (ant sig prn : Nat) (code dopp at_ : Rat) (s : State) : State :=
  if assigned s ant sig prn then s
  else match freeCh s ant sig with
    | some c => takeCh c ant sig prn 2 true code dopp at_ s
    | none => s

/-- The L5-band signal that follows an L1-band one (R174). -/
def followSig (sig : Nat) : Option Nat := if sig = 2 then some 3 else if sig = 0 then some 1 else if sig = 4 then some 5 else none

/-- FRAME_SYNC: TRACKING, with the transmit time in ns of GPS time that the frame gives for the present code phase; the preamble's polarity
resolves the half cycle. The L5-band signal of the satellite and the signal on antenna 2 follow. Without valid time the first frame
synchronisation gives receiver time; how long the signal was under way is not stated, so it is free (R174, R175, R180, R183). -/
def execFrameSync (c : Fin 192) (tx : Rat) (s : State) : Res :=
  let v := navCh s c
  if v.state ≠ 4 ∨ domGated s .nav then .next s
  else
    let v := { v with state := 5, since := s.cclk, tx := some tx, halfOk := true }
    let s := setNavCh c v s
    let s := if s.nav.rxSet then s
      else modNav (fun n => { n with rxSet := true, rxOff := if s.ptc.status = 0 then tx + Config.openQ 11 [tx] - ((nowNs s : Nat) : Rat) + 19000000000 else 0 }) s
    let s := match followSig v.sig with
      | some g => windowEntry v.ant g v.prn (tx / 1000000000 * chipRate g) (v.dopp * carrier g / carrier v.sig) v.upto s
      | none => s
    .next (if v.ant = 0 then windowEntry 1 v.sig v.prn v.code v.dopp v.upto s else s)

/-- NAV_LOCK_LOST: a stretch of samples; a channel whose C/N0 or lock indicator has stayed low for LOSS_MS enters REACQ (R176). -/
def execNavLockLost (x : ChanSamples) (s : State) : Res :=
  let c := x.chan
  let v := track s (navCh s c) x.iq
  if (v.state = 3 ∨ v.state = 4 ∨ v.state = 5) ∧ (nv s 0x60 2 ≤ v.lowCnMs ∨ nv s 0x60 2 ≤ v.lowLockMs) then
    .next (raise 0x0503 (w32 c) (sigPrn v.sig v.prn) (Config.reportWord v.cn0)
      (setNavCh c { v with
        state := 6, since := s.cclk, dwellAt := s.cclk, window := false, dwells := 0, cmc := false, cmcHist := [], cmcClean := 0, lockMs := 0, rest := [], lockHist := [],
        goodMs := 0, lowCnMs := 0, lowLockMs := 0, pullMs := 0, tx := none, halfOk := false } s))
  else .next (setNavCh c v s)

/-- Has REACQ_S passed without lock? (R176) -/
def reacqOver (s : State) (v : NavChan) : Bool := v.state == 6 && !domGated s .nav && decide (v.since + 400000000 * nv s 0x62 2 ≤ s.cclk)

/-- REACQ_TIMEOUT (R176). -/
def execReacqTimeout (c : Fin 192) (s : State) : Res :=
  if reacqOver s (navCh s c) then .next (freeChan c s) else .next s

/-- SIDE_PEAK_MOVE: a stretch of samples; for signal 2, after 20 ms of a side correlator above the prompt the code moves by half a chip toward
the larger one, and the move is counted (R177). -/
def execSidePeakMove (x : ChanSamples) (s : State) : Res :=
  let c := x.chan
  let v := track s (navCh s c) x.iq
  if v.sig = 2 ∧ 20 ≤ v.sideMs then
    let d : Rat := if power (v.acc.getD 4 (0, 0)) ≤ power (v.acc.getD 3 (0, 0)) then 1 / 2 else -1 / 2
    .next (setNavCh c { v with code := v.code + d, tx := v.tx.map (fun t => t + d / chipRate 2 * 1000000000), sidePeaks := v.sidePeaks + 1, sideMs := 0 } s)
  else .next (setNavCh c v s)

/-! ### Messages (R181, R182). -/

def satDist2 (a b : List Rat) : Rat := sumQ ((List.range 3).map (fun i => let d := a.getD i 0 - b.getD i 0; d * d))

/-- The signal whose message a constellation's ephemeris comes from. -/
def ephSig (con : Nat) : Nat := if con = 0 then 0 else if con = 1 then 2 else 4

/-- An ephemeris decoded for the second time is accepted, or rejected against the valid one that is held (R182). -/
def acceptEph (e : NavEph) (s : State) : State :=
  if !(s.nav.cands.contains e) then modNav (fun n => { n with cands := e :: n.cands.filter (fun x => !(x.con == e.con && x.prn == e.prn)) }) s
  else
    let t := rxTime s ((nowNs s : Nat) : Rat)
    let s := modNav (fun n => { n with cands := n.cands.filter (fun x => x != e), ephs := n.ephs.filter (ephLive t) }) s
    match s.nav.ephs.find? (fun x => x.con = e.con ∧ x.prn = e.prn) with
    | none => assignAided (modNav (fun n => { n with ephs := n.ephs ++ [e] }) s)
    | some h =>
      let d2 := satDist2 (satAt (ephSig e.con) e.content t t) (satAt (ephSig e.con) h.content t t)
      if 62500 < d2 then raise 0x0505 (w32 (e.prn + 256 * e.con)) (w32 e.issue) (Config.reportWord (sqrtQ d2)) s
      else assignAided (modNav (fun n => { n with ephs := n.ephs.map (fun x => if x.con = e.con ∧ x.prn = e.prn then e else x) }) s)

/-- SBAS messages that are applied (R184). -/
def sbasTypes : List Nat := [1, 2, 3, 4, 5, 6, 7, 9, 10, 17, 18, 24, 25, 26]

/-- NAV_MSG_DECODED: the check of Table 5-7 on the item's symbols; an item that fails it is discarded and counted; a good one is put to the
use the table names for its signal (R181). type is the message type that the event reports, m what the item holds by its interface
specification. -/
def execNavMsgDecoded (c : Fin 192) (symbols : List Bool) (type : Nat) (m : NavMsg) (s : State) : Res :=
  let v := navCh s c
  if v.state = 0 then .next s
  else if messageOk v.sig symbols = false then
    .next (raise 0x0504 (w32 c) (sigPrn v.sig v.prn) (w32 type)
      (modNav (fun n => { n with msgErr := if n.msgErr = 0xFFFFFFFF#32 then n.msgErr else n.msgErr + 1 }) s))
  else match m with
    | .ephemeris issue content =>
      if v.sig = 0 ∨ v.sig = 2 ∨ v.sig = 4 then .next (acceptEph { con := conOf v.sig, prn := v.prn, issue := issue, content := content } s) else .next s
    | .almanac prn issue content =>
      if v.sig = 0 ∨ v.sig = 2 ∨ v.sig = 4 then
        let e : NavEph := { con := conOf v.sig, prn := prn, issue := issue, content := content }
        .next (modNav (fun n => { n with alms := e :: n.alms.filter (fun x => !(x.con == e.con && x.prn == prn)) }) s)
      else .next s
    | .klobuchar params => if v.sig = 0 then .next (modNav (fun n => { n with klob := params }) s) else .next s
    | .leapSeconds secs => if v.sig = 0 then .next (modNav (fun n => { n with leap := some secs }) s) else .next s
    | .sbas t content =>
      if v.sig = 6 ∧ sbasTypes.contains t ∧ !(s.nav.excluded.contains (3, v.prn)) then
        .next (modNav (fun n => { n with sbas := { con := 3, prn := v.prn, issue := t, content := content } :: n.sbas.filter (fun x => !(x.prn == v.prn && x.issue == t)) }) s)
      else .next s
    | .other => .next s

/-! ### Consistency checks (R191 to R193). -/

/-- Epochs in a number of seconds. -/
def epochsIn (s : State) (secs : Nat) : Nat := secs * nv s 0x41 1

/-- One evaluation of a solution check: a failure sets the mark and records it, a run of clean evaluations of CCH_CLR seconds
clears it (R191). -/
def evalSolution (bit : Nat) (fail : Bool) (stat : Rat) (n : Nat) (s : State) : State :=
  let m : BitVec 5 := BitVec.ofNat 5 (2 ^ bit)
  if fail then
    let s' := modNav (fun v => { v with marks := v.marks ||| m, clean := tset 0 v.clean bit 0 }) s
    if bitOf s.nav.marks.toNat bit then s' else raise 0x050A (s'.nav.marks.setWidth 32) (Config.reportWord stat) (w32 n) s'
  else
    let k := tget 0 s.nav.clean bit + 1
    let s' := modNav (fun v => { v with clean := tset 0 v.clean bit k }) s
    if bitOf s.nav.marks.toNat bit && decide (epochsIn s (nv s 0x79 1) ≤ k) then
      raise 0x050B (m.setWidth 32) (w32 (nv s 0x79 1)) 0 (modNav (fun v => { v with marks := v.marks &&& ~~~ m }) s')
    else s'

/-- The channel checks CMC and POWER of one channel at an epoch: new channel, whether to record a mark, and its statistic: the CMC difference,
or for POWER alone the C/N0. -/
def channelChecks (s : State) (v : NavChan) (phValid : Bool) (codeMinusPhase : Rat) : NavChan × Bool × Rat :=
  let win := epochsIn s (nv s 0x6F 1)
  let hist := if phValid then (codeMinusPhase :: v.cmcHist).take (win + 1) else []
  let old := hist[win]?
  let stat := match old with
    | some o => absQ (codeMinusPhase - o)
    | none => 0
  let bad := old.isSome && decide (nvQ s 0x70 2 < stat)
  let clean := if bad then 0 else v.cmcClean + 1
  let cmc := bad || (v.cmc && phValid && decide (clean < win))
  let hot := decide (nvQ s 0x72 2 < v.cn0)
  let pclean := if hot then 0 else v.powClean + 1
  let power := hot || (v.power && decide (pclean < epochsIn s 1))
  ({ v with cmcHist := hist, cmcClean := clean, cmc := cmc, powClean := pclean, power := power, cn0Hist := (v.cn0 :: v.cn0Hist).take (epochsIn s 1 + 1) },
   (cmc && !v.cmc) || (power && !v.power), if cmc && !v.cmc then stat else v.cn0)

/-- Has the C/N0 of a channel risen by CN0_JUMP within 1 s? -/
def cn0Jumped (s : State) (v : NavChan) : Bool := v.cn0Hist.any (fun o => decide (nvQ s 0x74 2 ≤ v.cn0 - o))

/-- The POWER_JUMP condition of Table 5-10, with the number of channels that have risen. -/
def powerJump (s : State) (noise : List Rat) : Bool × Nat :=
  let count (a : Nat) : Nat := ((List.range 192).filter (fun c => let v := navCh s c; v.state != 0 && v.ant == a && cn0Jumped s v)).length
  let rises (p : Nat) : Bool :=
    let l := tget [] s.nav.noise p
    let mean := if l.length = 0 then 0 else sumQ l / (l.length : Rat)
    portOn s p && decide (0 < mean) && decide (nvQ s 0x76 2 ≤ decibels (noise.getD p 0 / mean))
  let n := max (count 0) (count 1)
  (decide (nv s 0x78 1 ≤ n) || [0, 1, 2, 3].any rises, n)

/-- Length of the mean direction vector of a list of fractions in cycles (R193). -/
def kappa (l : List Rat) : Rat :=
  if l.length = 0 then 0
  else
    let c := sumQ (l.map cosTurns)
    let t := sumQ (l.map sinTurns)
    sqrtQ (c * c + t * t) / (l.length : Rat)

/-- The carrier phase of a record as cycles (Table 5-8: 1 LSB is 2^-8 cycle). -/
def phaseCycles (w : Word) : Rat := (w.toNat : Rat) / 256

/-- The signal's single difference between the antennas as predicted by a baseline azimuth in turns, in cycles. -/
def predDiff (s : State) (az0 : Rat) (sig : Nat) (ae : Rat × Rat) : Rat :=
  ufxVal (w32 (nv s 0x8C 4)) (-16) * cosTurns ae.2 * cosTurns (ae.1 - az0) * carrier sig / cLight

/-! ### EPOCH (R162, R183, R184). -/

/-- One formed channel record: its 16 words and what the checks use. -/
structure NavRec where
  words   : List Word
  prValid : Bool
  phValid : Bool
  elevOk  : Bool
  pr      : Rat
  cycles  : Rat
  phase   : Word
  azel    : Rat × Rat
  dg      : Bool
  rtcm    : Bool

/-- The corrections of a satellite's signal that the held messages of the base give, oldest first, each with its time in ns of GPS time:
geometric range plus satellite clock term less base pseudorange (R185). -/
def rtcmCorrs (l : NavLatch) (sig prn : Nat) (eph : NavEph) : List (Rat × Rat) :=
  match l.rtcm.reverse.findSome? (fun m => if m.number ≤ 1006 then Config.rtcmBase m.bytes else none) with
  | none => []
  | some base => l.rtcm.filterMap (fun m =>
      (if m.number ≤ 1006 then none else Config.msmRange m.bytes prn sig).map (fun r =>
        let st := satAt sig eph.content (r.2 - r.1 / cLight * 1000000000) r.2
        (norm3 (sub3 (st.take 3) base) + st.getD 6 0 - r.1, r.2)))

/-- The correction of the base at a receive time: the last one and the rate from the last two, while its age is at most DG_AGE (R185). With one
alone no rate is stated, and it is free. -/
def rtcmAt (s : State) (l : NavLatch) (sig prn : Nat) (eph : NavEph) (rx : Rat) : Option Rat :=
  match (rtcmCorrs l sig prn eph).reverse with
  | [] => none
  | c :: rest =>
    let rate := match rest with
      | [] => Config.openQ 25 [c.1]
      | d :: _ => ratioQ 25 (c.1 - d.1) ((c.2 - d.2) / 1000000000)
    let age := (rx - c.2) / 1000000000
    if age ≤ ((nv s 0x8A 2 : Nat) : Rat) then some (c.1 + rate * age) else none

/-- The differential correction of a satellite's signal: RTCM while it is fresh, else SBAS, as DG_MODE says, and whether it is the base's
(R184, R185). -/
def dgCorr (s : State) (l : NavLatch) (sig prn : Nat) (eph : NavEph) (rx : Rat) : Option (Rat × Bool) :=
  let mode := nv s 0x42 1
  match (if mode = 1 ∨ mode = 3 then rtcmAt s l sig prn eph rx else none) with
  | some r => some (r, true)
  | none => if (mode = 2 ∨ mode = 3) ∧ sig = 0 then (Config.sbasCorr (l.sbas.map (fun m => m.content)) prn).map (fun r => (r, false)) else none

def sfxW (x : Rat) (e : Int) : Word := (sfxOf x e).getD nanWord
def ufxW (x : Rat) (e : Int) : Word := (ufxOf x e).getD nanWord

/-- The site that elevations are taken from: the aided position, else the last fix. -/
def refSite (s : State) (l : NavLatch) : Option Site :=
  match aidSite l.aid with
  | some x => some x
  | none => s.nav.pos.map (fun p =>
      let x := [p.1, p.2.1, p.2.2]
      let g := geodetic x
      { axes := localAxes g.1 g.2.1, pos := x })

/-- The time of a latch in ns of PTP time: the issue's, and the cycles of its crossing (R183). -/
def latchNs (op : NavOp) : Rat := (op.ns : Rat) + (if op.arr % 3 = 0 then 10 else 40 / 3)

/-- The record of a channel at a latch (Table 5-8), from its code and carrier at that time. A channel that is not TRACKING, or has no valid
ephemeris, has no valid pseudorange; without a site no elevation is stated, and it is free. -/
def navRecord (s : State) (l : NavLatch) (op : NavOp) (v : NavChan) : NavRec :=
  let con := conOf v.sig
  let dt := latchNs op - v.upto
  let rx := rxTime s (latchNs op)
  let eph := l.ephs.find? (fun e => e.con = con ∧ e.prn = v.prn ∧ ephLive rx e = true)
  let tx := match v.tx with
    | some x => x + (1 + v.dopp / carrier v.sig) * dt
    | none => rx
  let pr := cLight * (rx - tx) / 1000000000
  let st := match eph with
    | some e => satAt v.sig e.content tx rx
    | none => []
  let ae : Rat × Rat := match refSite s l, eph with
    | some x, some _ => azElOf x (st.take 3)
    | _, _ => (Config.openQ 26 [], Config.openQ 27 [])
  let dgc := eph.bind (fun e => dgCorr s l v.sig v.prn e rx)
  let dg := dgc.isSome
  let prV := decide (v.state = 5) && v.tx.isSome && eph.isSome
  let phV := (decide (v.state = 4) || decide (v.state = 5)) && (hasPilot v.sig || v.halfOk)
  let cyc := v.phase - v.dopp * dt / 1000000000
  let ph := i32 (roundEven (cyc * 256))
  let low := decide (ae.2 * 360 < ((nv s 0x52 1 : Nat) : Rat))
  let excl := s.nav.excluded.contains (con, v.prn)
  let flags := b2n prV + 2 * b2n phV + 4 * b2n v.slip + 8 * b2n dg + 16 * b2n v.cmc + 32 * b2n v.power + 64 * b2n excl + 128 * b2n low
  let f := carrier v.sig
  let iono := if dg then 0 else Config.klobuchar l.klob rx ae * (1575420000 / f) * (1575420000 / f)
  let w0 := w32 (v.prn + 256 * v.sig + 2048 * v.ant + 4096 * v.state.toNat)
  { words := if v.state = 0 then w0 :: List.replicate 15 0 else
      [w0, sfxW pr (-6), ph, sfxW v.dopp (-8), ufxW v.cn0 (-8), counterWord v.lockMs,
       sfxW (st.getD 0 0) (-5), sfxW (st.getD 1 0) (-5), sfxW (st.getD 2 0) (-5), sfxW (st.getD 3 0) (-12), sfxW (st.getD 4 0) (-12), sfxW (st.getD 5 0) (-12),
       sfxW (st.getD 6 0 + (dgc.map (fun r => r.1)).getD 0) (-8), sfxW iono (-8), bamOf ae.2, w32 flags]
    prValid := prV, phValid := phV, elevOk := !low, pr := pr, cycles := cyc, phase := ph, azel := ae, dg := dg, rtcm := (dgc.map (fun r => r.2)).getD false }

/-- The port check of an epoch (R162). -/
def portChecks (counts : List Nat) (s : State) : State :=
  let quot (p : Nat) : Rat := ((counts.getD p 0 : Nat) : Rat) / ((max 1 (portRate s p) : Nat) : Rat)
  [0, 1, 2, 3].foldl (fun s p =>
    if !portOn s p then s
    else
      let rate : Rat := ((max 1 (portRate s p) : Nat) : Rat)
      let bad := if p = 0 then decide (counts.getD 0 0 = 0) else decide (counts.getD 0 0 ≠ 0) && decide (2 / rate < absQ (quot p - quot 0))
      let m : BitVec 4 := BitVec.ofNat 4 (2 ^ p)
      let failed := bitOf s.nav.gspFailed.toNat p
      if bad then
        let s' := modNav (fun n => { n with
          gspFailed := n.gspFailed ||| m, gspOk := n.gspOk &&& ~~~ m, gspGood := tset 0 n.gspGood p 0
          chans := n.chans.filter (fun kv => portOf kv.2.ant kv.2.sig != p) }) s
        let expect := if p = 0 then rate / ((max 1 (nv s 0x41 1) : Nat) : Rat) else quot 0 * rate
        if failed then s' else raise 0x0500 (w32 p) (w32 (counts.getD p 0)) (i32 (roundEven expect)) s'
      else if failed then
        let k := tget 0 s.nav.gspGood p + 1
        if 3 ≤ k then raise 0x0501 (w32 p) 0 0 (modNav (fun n => { n with gspFailed := n.gspFailed &&& ~~~ m, gspOk := n.gspOk ||| m, gspGood := tset 0 n.gspGood p 0 }) s)
        else modNav (fun n => { n with gspGood := tset 0 n.gspGood p k }) s
      else modNav (fun n => { n with gspOk := n.gspOk ||| m }) s) s

/-- Receiver time at a latch: set at the first one with valid PTC time, moved by the 1 ms that the epoch before asked for
(R183). -/
def rxLatch (s : State) : State :=
  let s := if s.nav.rxSet = false && s.ptc.status != 0 then modNav (fun n => { n with rxSet := true, rxOff := 0 }) s else s
  if s.nav.jump = 0 then s
  else
    let d := s.nav.jump
    let k := s.nav.msJumps + 1
    raise 0x0506 k (Config.layoutWord 5 [d.toNat]) 0 (modNav (fun n => { n with rxOff := n.rxOff + (d : Rat) * 1000000, msJumps := k, jump := 0 }) s)

/-- PTP seconds at the GPS epoch: 315,964,800 s from 1970 to 1980 in UTC, and 19 s. -/
def gpsEpochNs : Rat := 315964800000000000

/-- The eight words of the epoch header (Table 5-8). -/
def epochHeader (s : State) (op : NavOp) : List Word :=
  let rx := rxTime s ((op.ns : Rat) + 35 / 3) - gpsEpochNs
  let week : Int := (rx / 604800000000000).floor
  let inWeek := rx - (week : Rat) * 604800000000000
  let ms := (inWeek / 1000000).floor
  let track := ((List.range 192).filter (fun c => (navCh s c).state = 5)).length
  [counterWord s.nav.epochs.toNat, i32 ms, counterWord s.nav.msJumps.toNat, i32 week, s.nav.gspOk.setWidth 32, i32 (s.nav.leap.getD 0), w32 track,
   i32 (inWeek - (ms : Rat) * 1000000).floor]

/-- The direction condition at one epoch (R193). -/
def directionBad (s : State) (recs : List (NavChan × NavRec)) (aid : List (Option Rat)) : Bool × Rat × Nat :=
  let a0 := recs.filter (fun r => r.1.ant = 0 && r.2.phValid && r.2.elevOk)
  let a1 := recs.filter (fun r => r.1.ant = 1 && r.2.phValid && r.2.elevOk)
  let both := a0.filterMap (fun r => (a1.find? (fun t => t.1.sig = r.1.sig ∧ t.1.prn = r.1.prn)).map (fun t => (r, t)))
  let meas := both.map (fun p => phaseCycles p.1.2.phase - phaseCycles p.2.2.phase)
  let off := w32 (nv s 0x94 4)
  let head : Option Word := match aid.getD 4 none with
    | some w => some (i32 (roundEven w))
    | none => if s.nav.hdgFixed then some s.nav.hdgPsi else none
  let kp := match head with
    | some h => kappa (both.map (fun p => predDiff s (bamTurns (h - off)) p.1.1.sig p.1.2.azel))
    | none => 0
  let km := kappa meas
  let n := both.length
  (decide (nv s 0x6D 1 ≤ n) && decide (((nv s 0x7A 1 : Nat) : Rat) / 256 ≤ km) && decide (kp < ((nv s 0x7B 1 : Nat) : Rat) / 256), km, n)

/-- NAV_DG_STATE at a change of availability (R185). -/
def dgState (recs : List (NavChan × NavRec)) (s : State) : State :=
  let n := (recs.filter (fun r => r.2.dg)).length
  let on := decide (0 < n)
  if on = s.nav.dgAvail then s
  else
    let age := match s.nav.rtcm.getLast? with
      | some m => (nowNs s - m.ns) / 1000000000
      | none => 0
    raise 0x0508 (w32 (b2n on)) (w32 age) (w32 n) (modNav (fun v => { v with dgAvail := on }) s)

/-- Mean noise correlator power of each port over the channels that use it (Table 5-10). -/
def portNoise (chans : List (Nat × NavChan)) : List Rat :=
  (List.range 4).map (fun p => meanQ ((chans.filter (fun cv => cv.2.state != 0 && portOf cv.2.ant cv.2.sig == p)).map (fun cv => power (cv.2.acc.getD 6 (0, 0)))))

/-- An EPOCH completes: ports, receiver time, records, checks, header, the next millisecond jump (R162, R183, R184, R191). -/
def epochDone (op : NavOp) (e : NavSamples) (s : State) : State :=
  let s := rxLatch (portChecks e.counts (modNav (fun n => { n with epochs := n.epochs + 1, ephs := n.ephs.filter (ephLive (rxTime s (nowNs s : Nat))) }) s))
  let l := op.latch
  -- the channels as latched; a port that has failed has none
  let chans := (List.range 192).map (fun c =>
    let v := tget {} l.chans c
    (c, if bitOf s.nav.gspFailed.toNat (portOf v.ant v.sig) then {} else v))
  let recs0 := chans.map (fun cv => (cv.1, cv.2, navRecord s l op cv.2))
  -- channel marks first, then the records that carry them
  let s := recs0.foldl (fun s r =>
    if r.2.1.state = 0 then s
    else
      let lam := cLight / carrier r.2.1.sig
      let x := channelChecks s r.2.1 r.2.2.phValid (r.2.2.pr - lam * r.2.2.cycles)
      let v := navCh s r.1
      let s := if v.state = 0 then s
        else setNavCh r.1 { v with cmcHist := x.1.cmcHist, cmcClean := x.1.cmcClean, cmc := x.1.cmc, powClean := x.1.powClean, power := x.1.power, cn0Hist := x.1.cn0Hist } s
      if x.2.1 then raise 0x0509 (w32 r.1) (w32 (b2n x.1.cmc + 2 * b2n x.1.power)) (Config.reportWord x.2.2) s else s) s
  let marked := recs0.map (fun r => (r.1, { r.2.1 with cmc := (navCh s r.1).cmc, power := (navCh s r.1).power }))
  let recs := marked.map (fun cv => (cv.1, cv.2, navRecord s l op cv.2))
  let s := recs.foldl (fun s r => landFrom 0x0A r.1 r.2.2.words op.ns s) s
  let s := landFrom 0x0A 192 (epochHeader s op) op.ns s
  let pairs := recs.map (fun r => r.2)
  let s := dgState pairs (modNav (fun n => { n with rtcmChans := recs.filterMap (fun r => if r.2.2.rtcm then some r.1 else none) }) s)
  let noise := portNoise chans
  let pj := powerJump s noise
  let s := modNav (fun n => { n with noise := [0, 1, 2, 3].foldl (fun t p =>
    if portOn s p then tset [] t p ((noise.getD p 0 :: tget [] t p).take (epochsIn s 60)) else t) n.noise }) s
  let s := evalSolution 2 pj.1 ((pj.2 : Nat) : Rat) pj.2 s
  let s :=
    if bitOf (nv s 0x43 1) 0 then
      let d := directionBad s pairs l.aid
      let run := if d.1 then s.nav.dirRun + 1 else 0
      let s := modNav (fun n => { n with dirRun := run }) s
      if d.1 && decide (run < nv s 0x6E 1) then s else evalSolution 4 d.1 d.2.1 d.2.2 s
    else s
  let tr := pairs.filter (fun r => r.1.state = 5 && r.2.prValid)
  let mean : Rat := if tr.length = 0 then 75 else sumQ (tr.map (fun r => r.2.pr)) / (tr.length : Rat) / cLight * 1000
  let s := modNav (fun n => { n with jump := if mean < 68 then 1 else if 88 < mean then -1 else 0 }) s
  wakeBank (assignAided s)

/-! ### RTCM (R185). -/

/-- Message numbers that are accepted (R185). -/
def rtcmNumbers : List Nat := [1005, 1006, 1074, 1075, 1077, 1094, 1095, 1097, 1124, 1125, 1127]

/-- Take whole transport frames off the front of the buffer, by fuel: preamble, 10-bit length, CRC; a bad frame is discarded. -/
def rtcmFrames (ns : Nat) : Nat → List Byte → List RtcmMsg → List Byte × List RtcmMsg
  | 0, buf, out => (buf, out)
  | n + 1, buf, out =>
    match buf.dropWhile (fun b => b != 0xD3#8) with
    | [] => ([], out)
    | buf =>
      if buf.length < 3 then (buf, out)
      else
        let len := ((buf.getD 1 0).toNat % 4) * 256 + (buf.getD 2 0).toNat
        if buf.length < len + 6 then (buf, out)
        else
          let good := crc24 (buf.take (len + 3)) = beNat ((buf.drop (len + 3)).take 3)
          let body := (buf.drop 3).take len
          let num := (body.getD 0 0).toNat * 16 + (body.getD 1 0).toNat / 16
          rtcmFrames ns n (buf.drop (len + 6))
            (if good && rtcmNumbers.contains num then out ++ [{ number := num, ns := ns, bytes := body }] else out)

/-- RTCM_IN completes: a gap in the sequence discards the frame in progress; accepted messages are held, the last two of each
number (R185). -/
def rtcmDone (op : NavOp) (s : State) : State :=
  let w0 := (op.words.getD 0 (0, 0)).1.toNat
  let cnt := min 60 (w0 % 256)
  let seq := bitsOf w0 23 8
  let bytes := ((op.words.drop 1).flatMap (fun w => leBytes 4 w.1.toNat)).take cnt
  let want := s.nav.rtcmSeq
  let gap := match want with
    | some q => q != seq
    | none => false
  let s := if gap then raise 0x0507 (w32 (want.getD 0)) (w32 seq) (w32 s.nav.rtcmBuf.length) (modNav (fun n => { n with rtcmBuf := [] }) s) else s
  let r := rtcmFrames op.ns 64 (s.nav.rtcmBuf ++ bytes) []
  let keep (l : List RtcmMsg) (m : RtcmMsg) : List RtcmMsg :=
    let same := l.filter (fun x => x.number = m.number)
    l.filter (fun x => x.number != m.number) ++ (if same.length < 2 then same else same.drop (same.length - 1)) ++ [m]
  modNav (fun n => { n with rtcmSeq := some ((seq + 1) % 65536), rtcmBuf := r.1, rtcm := r.2.foldl keep n.rtcm }) s

/-! ### CCH_CLOCK (R191, R192). -/

/-- The clock check of one time offset, from 60 s after the first fix on, and the history it leaves. -/
def clockCheck (op : NavOp) (s : State) : State :=
  let w := op.words.getD 0 (nanWord, qNan)
  let off : Option Rat := if w.2 = qNan ∨ w.2 = qStale then none else some (sfxVal w.1 (entExp (ent s op.opnd)))
  match off with
  | none => s
  | some y =>
    let t : Rat := ((op.ns : Nat) : Rat) / 1000000000
    let young := match s.nav.firstFix with
      | some f => decide (op.ns < f + 60000000000)
      | none => true
    let pts := s.nav.clkHist.map (fun p => (((p.1 : Nat) : Rat) / 1000000000, p.2))
    let s : State :=
      if young then s
      else match lsLine t pts, lsLine t (((t, y) :: pts).filter (fun p => decide (t - 10 ≤ p.1))) with
        | some a, some b =>
          let d := absQ (y - a.1)
          let e := absQ (b.2 - a.2)
          evalSolution 3 (decide (((nv s 0x7C 4 : Nat) : Rat) < d) || decide (((nv s 0x80 4 : Nat) : Rat) / 256 < e)) d pts.length s
        | _, _ => s
    if s.nav.marks = 0 then
      modNav (fun n => { n with clkHist := ((op.ns, y) :: n.clkHist).filter (fun p => op.ns ≤ p.1 + 60000000000) }) s
    else s

/-! ### Arrival and completion (R164, R165). -/

/-- The aiding block as exact values: BAM32 units for angles; a word whose quality is neither GOOD nor SUBST, or that is NaN, is absent (R194). -/
def aidValues (s : State) (o : NavOp) : List (Option Rat) :=
  o.words.zipIdx.map (fun p =>
    if p.1.2 ≠ qGood ∧ p.1.2 ≠ qSubst then none
    else if p.2 = 0 ∨ p.2 = 1 ∨ p.2 = 4 then some (p.1.1.toNat : Rat)
    else if p.1.1 = nanWord then none else some (sfxVal p.1.1 (entExp (ent s (o.opnd + p.2)))))

/-- An operation arrives at its engine: an EPOCH latches, AIDING is in force from its arrival (R165). -/
def arriveNav (o : NavOp) (s : State) : State :=
  let l : NavLatch := if o.eng = 0xA ∧ o.opc = 1 then navLatch s else {}
  let s := modNav (fun n => { n with ops := n.ops.map (fun x => if x = o then { x with in_ := true, latch := l } else x) }) s
  if o.eng = 0xA ∧ o.opc = 1 then modNav (fun n => { n with chans := n.chans.map (fun kv => (kv.1, { kv.2 with slip := false })) }) s
  else if o.eng = 0xA ∧ o.opc = 2 then wakeBank (assignAided (modNav (fun n => { n with aid := aidValues s o }) s))
  else s

/-- The arrivals that are due, by NCLK cycle, on one cycle an EPOCH first; one waits while an operation that completes on an earlier cycle has not
completed (R165). -/
def navArrivals (s : State) : State :=
  let due := s.nav.ops.filter (fun o => !o.in_ && !domGated s .nav && decide (o.arr ≤ 3 * s.cclk))
  let key (o : NavOp) : Nat := 2 * o.arr + (if o.opc = 1 then 0 else 1)
  (sortBy (fun a b => decide (key a ≤ key b)) due).foldl (fun s o =>
    if s.nav.ops.any (fun x => x.in_ && decide (opDone x < o.arr)) then s else arriveNav o s) s

/-- Is an operation complete by now? -/
def opOver (s : State) (o : NavOp) : Bool := o.in_ && !domGated s .nav && decide (opDone o ≤ 3 * s.cclk)

/-- Take the oldest complete operation of an engine and opcode out of its FIFO. -/
def takeNavOp (eng opc : Nat) (s : State) : Option (NavOp × State) :=
  (s.nav.ops.find? (fun o => decide (o.eng = eng ∧ o.opc = opc) && opOver s o)).map (fun o => (o, modNav (fun n => { n with ops := n.ops.erase o }) s))

/-- A channel's TRK_SNAP record (R180): seven I/Q pairs, code phase, state with the side-peak count and the loop flags. -/
def trkWords (s : State) (c : Nat) : List Word :=
  let v := navCh s c
  let p : Rat := (periodChips v.sig : Nat)
  (List.range 7).flatMap (fun i => [Config.reportWord (v.acc.getD i (0, 0)).1, Config.reportWord (v.acc.getD i (0, 0)).2])
    ++ [ufxW (v.code - ((v.code / p).floor : Rat) * p) (-16), Config.layoutWord 3 [v.state.toNat, v.sidePeaks.toNat, b2n (looping v), b2n v.halfOk]]

/-- The eight words of ACQ_SNAP, whose layout the spec does not state: mode, job, pass and false alarms are what it reports. -/
def acqWords (s : State) : List Word :=
  (List.range 8).map (fun i => Config.layoutWord (100 + i) [s.nav.acqMode.toNat, s.nav.jobSig, s.nav.jobPrn, s.nav.jobPass, s.nav.falseAl])

/-- What an operation of NAV does on its completion, taken out of its FIFO. -/
def navFinish (d : NavDone) (o : NavOp) (s : State) : State :=
  match d with
  | .acqCtl =>
    let s := modNav (fun n => { n with acqMode := BitVec.ofNat 2 o.opnd }) s
    if navLive s = false then s else wakeBank s
  | .acqSnap => landFrom 8 0 (acqWords s) o.ns s
  | .trkSnap => landFrom 9 0 (trkWords s o.opnd) o.ns s
  | .epoch e => epochDone o e s
  | .aiding => s
  | .rtcmIn => rtcmDone o s
  | .cchClock =>
    let s := clockCheck o s
    landFrom 0x0B 0 [s.nav.marks.setWidth 32, Config.layoutWord 4 [s.nav.clkHist.length]] o.ns s

/-- Engine and opcode of a completion. -/
def navKey : NavDone → Nat × Nat
  | .acqCtl => (8, 1)
  | .acqSnap => (8, 2)
  | .trkSnap => (9, 1)
  | .epoch _ => (0xA, 1)
  | .aiding => (0xA, 2)
  | .rtcmIn => (0xA, 3)
  | .cchClock => (0xB, 1)

/-- What completes an operation of NAV that has reached its engine. -/
def navDone (d : NavDone) (s : State) : State :=
  let s := navArrivals s
  match takeNavOp (navKey d).1 (navKey d).2 s with
  | some (o, s) => navFinish d o s
  | none => s

/-- NAV_OP_COMPLETE: an operation completes exactly X cycles after its arrival and lands its results with the stamp of its issue tick; before that
nothing completes (R164, R165). -/
def execNavOpComplete (d : NavDone) (s : State) : Res := .next (navDone d s)

/-- The samples that ports with their programmed clocks deliver in an epoch. -/
def nominalCounts (s : State) : List Nat := (List.range 4).map (fun p => if portOn s p then portRate s p / max 1 (nv s 0x41 1) else 0)

/-- The completion that an operation stands for; an EPOCH that completes of itself has the ports' nominal counts. -/
def doneOf (s : State) (o : NavOp) : NavDone :=
  if o.eng = 8 then (if o.opc = 1 then .acqCtl else .acqSnap) else if o.eng = 9 then .trkSnap else if o.eng = 0xB then .cchClock
  else if o.opc = 1 then .epoch { counts := nominalCounts s } else if o.opc = 2 then .aiding else .rtcmIn

/-- The operation whose completion is due first. -/
def navDue (s : State) : Option NavDone :=
  ((sortBy (fun a b => decide (opDone a ≤ opDone b)) (s.nav.ops.filter (opOver s))).head?).map (doneOf s)

/-- At a disable of NAV every channel goes to IDLE and ACQ stops (R166). -/
def navDisable (s : State) : State := modNav (fun n => { n with chans := [], acqMode := 0, jobOn := false, jobPass := 0 }) s

/-! ### Exclusion (R195). -/

/-- The number of PRNs a constellation may name (R159). -/
def prnRange (con prn : Nat) : Bool :=
  (con == 0 && 1 ≤ prn && prn ≤ 32) || (con == 1 && 1 ≤ prn && prn ≤ 36) || (con == 2 && 1 ≤ prn && prn ≤ 63) || (con == 3 && 120 ≤ prn && prn ≤ 158)

/-- The handler of NAV-EXCLUDE: RANGE, or latched for the frame boundary of R74. -/
def navExclHandler (mbx con prn : Nat) (excl : Bool) (s : State) : State :=
  if !prnRange con prn then completeMbx mbx rcRange s
  else modNav (fun n => { n with reqs := n.reqs ++ [{ con := con, prn := prn, excl := excl, due := latchFrame s, mbx := mbx }] }) s

def execNavExclude (mbx : BitVec 4) (con prn : BitVec 8) (s : State) : Res := .next (navExclHandler mbx.toNat con.toNat prn.toNat true s)
def execNavInclude (mbx : BitVec 4) (con prn : BitVec 8) (s : State) : Res := .next (navExclHandler mbx.toNat con.toNat prn.toNat false s)

/-- At a frame boundary the exclusions latched for it take effect (R195). -/
def navBoundary (s : State) : State :=
  let now := s.nav.reqs.filter (fun r => r.due ≤ s.seq.k)
  let s := modNav (fun n => { n with reqs := n.reqs.filter (fun r => !decide (r.due ≤ s.seq.k)) }) s
  now.foldl (fun s r =>
    let s := modNav (fun n => { n with
      excluded := if r.excl then (r.con, r.prn) :: n.excluded.filter (fun x => x != (r.con, r.prn)) else n.excluded.filter (fun x => x != (r.con, r.prn))
      sbas := if r.excl && r.con == 3 then n.sbas.filter (fun x => x.prn != r.prn) else n.sbas }) s
    let s := raise 0x050E (w32 (r.prn + 256 * r.con)) (w32 (b2n r.excl)) (w32 (mbxOf s r.mbx).poster) s
    completeMbx r.mbx rcDone s) (wakeBank s)

end Sys2Proof.Machine
end

