-- ==== Sys2Proof/Machine/Out.lean ====
section
/-! DEFINITION. Sys2Proof/Machine/Out.lean: what the actuator outputs do when the device state or the Collar changes (R88, R361, R362). -/

namespace Sys2Proof.Machine

/-- The output stages follow the state: loops, CAN transmitters, serial drivers. The GPIO, TRIG and PPS pins are functions of the state. -/
def outRefresh (s : State) : State := lpoRefresh (canRefresh (serRefresh s))

end Sys2Proof.Machine
end

