-- ==== Sys2Proof/Machine/Reset.lean ====
section
/-! DEFINITION. Sys2Proof/Machine/Reset.lean: entry to RESET, which every reset kind shares (R89 to R95, R111). -/

namespace Sys2Proof.Machine

/-- KIND of DEV_RSTCAUSE (Table 3-3). -/
def kindCode : ResetKind → BitVec 3
  | .powerOn => 1 | .pin => 2 | .partner => 3 | .contract => 4

/-- The AON cause register at the first reset of a sequence (R95, R116). -/
def aonReset (kind : ResetKind) (lct pfail : Bool) (a : Aon) : Aon :=
  { count := if a.count = 0xFFFF#16 then a.count else a.count + 1
    prevKind := a.kind, flushTrunc := false, lct := lct, pfail := pfail, kind := kindCode kind }

/-- A field of rail descriptor n (Table 15-12). -/
def railFld (s : State) (n off len : Nat) : Nat := fld s .pwrt 0 (fld32 s .pwrt 0 0x0C + 16 * n + off) len

/-- The rails at entry to RESET (R524): a power-on reset drives every EN low; other kinds keep the EN of rails with KEEP. Before a
Chart is loaded, only such rails have their EN high. PG is an input. -/
def railReset (s : State) (kind : ResetKind) : Tab Rail :=
  (List.range 12).foldl (fun m n =>
    let x := tget {} s.brs.rails n
    let keep := kind != .powerOn && x.en && (!hasSect s .pwrt 0 || bitOf (railFld s n 0 1) 1)
    tset {} m n { pg := x.pg, en := keep, state := if keep then .waitPg else .off }) []

/-- A loss of power while staged records are being written can tear the record in the slot of the oldest: whether it does, and what the slot then
holds, is not specified (R468). -/
def tearLog (s : State) : State :=
  match s.recd.staging with
  | [] => s
  | r :: _ =>
    if s.recd.hasLog && !(s.boot.dev == .reset && s.boot.flushDone) && (Config.freeWord s.draws).getLsbD 0 then
      let b := (List.range 32).map (fun i => (Config.freeWord (s.draws + 1 + i)).setWidth 8)
      { s with logMem := memPut logBlank s.logMem (32 * (r.seq.toNat % 2 ^ s.recd.log2)) b, draws := s.draws + 33 }
    else { s with draws := s.draws + 33 }

/-- The LC pattern a transition programs (Table 15-2). -/
def lcPattern (t : Nat) : BitVec 4 := if t = 1 then 1 else if t = 2 then 3 else if t = 3 then 7 else if t = 5 then 15 else 0

/-- Program the fuses of a transition: bits change from 0 to 1 only (R491). stuck are the LC bits that fail to program. -/
def program (r : LcReq) (stuck : BitVec 4) (f : Fuses) : Fuses :=
  let p := lcPattern r.ttype &&& ~~~ stuck
  let erase := r.ttype == 4 || r.ttype == 5
  { f with
    ownerHash := if r.ttype = 1 then f.ownerHash ||| r.owner else f.ownerHash
    devKey := if r.ttype = 1 then f.devKey ||| r.key else if erase then BitVec.allOnes 256 else f.devKey
    dead0 := f.dead0 || erase, dead1 := f.dead1 || erase, dead2 := f.dead2 || erase
    lc0 := f.lc0 ||| p, lc1 := f.lc1 ||| p, lc2 := f.lc2 ||| p }

/-- A transition that is interrupted leaves the life-cycle state its old one, its new one, or one between them (R492): which fuses have been
programmed, in the order of R504, and how the words read whose programming was cut off, is free. -/
def tearFuses (s : State) : State :=
  match s.sec.lct with
  | none => s
  | some r =>
    let w (n : Nat) : BitVec 64 := Config.freeWord (s.draws + n)
    let wide (n k : Nat) : Nat := (List.range k).foldl (fun a i => a * 2 ^ 64 + (w (n + i)).toNat) 0
    let done := program r 0 s.fuses
    let stage := (w 0).toNat % 5
    let f := s.fuses
    let keys : Fuses := if stage = 0 then f else if 2 ≤ stage then { f with ownerHash := done.ownerHash, devKey := done.devKey }
      else { f with
        ownerHash := f.ownerHash ||| (done.ownerHash &&& BitVec.ofNat 384 (wide 1 6)), devKey := f.devKey ||| (done.devKey &&& BitVec.ofNat 256 (wide 7 4))
        ownerBad := (w 11).getLsbD 0, keyBad := (w 11).getLsbD 1 }
    let dead : Fuses := if stage ≤ 1 then keys else
      let b (i : Nat) : Bool := decide (3 ≤ stage) || (w 12).getLsbD i
      { keys with dead0 := f.dead0 || (done.dead0 && b 0), dead1 := f.dead1 || (done.dead1 && b 1), dead2 := f.dead2 || (done.dead2 && b 2) }
    let m (n : Nat) : BitVec 4 := if stage = 4 then BitVec.allOnes 4 else (w n).setWidth 4
    let out : Fuses := if stage ≤ 2 then dead else
      { dead with lc0 := f.lc0 ||| (done.lc0 &&& m 13), lc1 := f.lc1 ||| (done.lc1 &&& m 14), lc2 := f.lc2 ||| (done.lc2 &&& m 15) }
    { s with fuses := out, draws := s.draws + 16, sec := { s.sec with lct := none } }

/-- What a reset does to the records and to the transition under way. -/
def tearOn (kind : ResetKind) (s : State) : State := tearFuses (if kind = .powerOn then tearLog s else s)

/-- The device right after entry to RESET from a later state: every register and store at its reset value, but for the AON domain,
the flashes, the fuses, the pins and what ILK_IN reads as, the recorder's staging and pre-wipe queue, the free-running cycle counter;
SRAM keeps its content until the wipe (R96, R111, R360). -/
def resetState (kind : ResetKind) (s : State) : State :=
  let fresh := State.reset
  { fresh with
    pending := s.pending, pins := s.pins, cal := s.cal, aon := s.aon, cclk := s.cclk, draws := s.draws
    flash := s.flash, sram := s.sram, sdir := s.sdir, logMem := s.logMem, fuses := s.fuses
    recd := { s.recd with
      hsp := {}, mep := {}, tickEvs := [], base := none, lostStage := 0, lostPre := 0, lostFlag := if kind = .powerOn then false else s.recd.lostFlag
      staging := if kind = .powerOn then [] else s.recd.staging
      preq := if kind = .powerOn then [] else s.recd.preq }
    brs := { fresh.brs with rails := railReset s kind }
    pack := { fresh.pack with ilk := s.pack.ilk }
    gpio0 := { levels := s.gpio0.levels }, gpio1 := { levels := s.gpio1.levels }
    boot := { fresh.boot with flushDone := decide (kind = .powerOn), released := kind = .partner ∨ kind = .contract, releaseAt := s.cclk, phaseAt := s.cclk } }

/-- Entry to RESET (R90, R91). A request that arrives in RESET joins the reset in progress: the flush is not restarted, and KIND
changes only to POWER-ON (R95). -/
def enterReset (kind : ResetKind) (lct pfail : Bool) (s : State) : State :=
  if s.boot.dev = .reset then
    let s := { s with boot := { s.boot with released := s.boot.released && kind != .pin && kind != .powerOn } }
    if kind = .powerOn then
      let s := tearLog s
      { s with aon := { s.aon with kind := 1 }, recd := { s.recd with staging := [], preq := [], tickEvs := [], base := none }, boot := { s.boot with flushDone := true }
               brs := { s.brs with rails := railReset s .powerOn } }
    else if pfail then { s with aon := { s.aon with pfail := true } } else s
  else
    let old := s.boot.dev
    let s := resetState kind (tearOn kind { s with aon := aonReset kind lct pfail s.aon })
    raise 0x0141 (w32 (devCode old)) 1 (s.boot.reasons.setWidth 32) s

end Sys2Proof.Machine
end

