-- ==== Sys2Proof/Machine/Ring.lean ====
section
/-! DEFINITION. Sys2Proof/Machine/Ring.lean: publication and the pack switch PSW (R76, R79 to R81, R345 to R355, R569). -/

namespace Sys2Proof.Machine

def modPsw (f : Psw → Psw) (s : State) : State := modPack (fun p => { p with psw := f p.psw }) s

/-- A 16-bit counter that saturates. -/
def satHalf (h : Half) : Half := if h = 0xFFFF#16 then h else h + 1

/-- PACK_ID of the device. -/
def packId (s : State) : Nat := packFld s 4 2

/-- P frames in half nanoseconds. -/
def cycleHalf (s : State) : Nat := 5 * s.hdr.p * s.hdr.f

/-! ### PUB and PSW_TX (R76, R350, R351). -/

/-- The indices of the entries of a group at a position (Table 2-3). -/
def groupEntries (s : State) (pos group : Nat) : List Nat :=
  (s.sdir.filter (fun p => p.2.origin.toNat % 128 == pos && p.2.origin.toNat / 256 == group)).map (fun p => p.1)

/-- The publishing position of a PUB (R569). -/
def pubPos (s : State) (psel : Nat) : Nat := if s.boot.chartRole then 1 + psel else packFld s 6 1

/-- PUB appends the group's record to the transmit assembly. -/
def pubEffect (group psel : Nat) (s : State) : State :=
  let l := groupEntries s (pubPos s psel) group
  if l.isEmpty then s
  else
    let st := stampOf (nowNs s)
    let r : PackRec := { psel := psel, group := group, secs := st.1, nanos := st.2, dirid := s.dirid, words := l.map (sigW s), quals := l.map (sigQ s) }
    modPsw (fun p => { p with asm := p.asm ++ [r] }) s

def execPub (group : BitVec 8) (psel : BitVec 2) (s : State) : Res :=
  issue 2 0 (opWord 2 1 (group.toNat + 256 * psel.toNat)) (pubEffect group.toNat psel.toNat) s

/-- The pack frame that a PSW_TX sends (R349, R350). -/
def packFrame (s : State) : PackFrame :=
  let st := stampOf (nowNs s)
  { src := BitVec.ofNat 48 (packAddr s), hsr := s.pack.psw.hsr, tagged := true, etype := BitVec.ofNat 16 (packFld s 8 2), fcsOk := true
    pver := 1, packId := BitVec.ofNat 16 (packId s), code := BitVec.ofNat 8 (unitCode s), act := outEnabled s, vot := s.boot.dev == .voting
    role := BitVec.ofNat 2 (roleCode s.boot.dev), fseq := s.pack.psw.fseq, pcyc := w32 (pcyc s), kIdx := BitVec.ofNat 16 (s.seq.k % s.hdr.m)
    secs := st.1, nanos := st.2, recs := s.pack.psw.asm }

/-- The bytes of a record (R350). -/
def packRecBytes (r : PackRec) : List Byte :=
  let q : Nat := (r.quals.zipIdx.map (fun p => p.1.toNat * 8 ^ p.2)).foldl (· + ·) 0
  [BitVec.ofNat 8 r.group, BitVec.ofNat 8 (r.words.length + 32 * r.psel)] ++ leBytes 6 q ++ leBytes 4 r.nanos.toNat ++ leBytes 4 r.secs.toNat ++ leBytes 4 r.dirid.toNat
    ++ r.words.flatMap (fun w => leBytes 4 w.toNat)

/-- The pack header (Table 11-4). -/
def packHeader (f : PackFrame) : List Byte :=
  let auth := b2n f.act + 2 * b2n f.vot + 4 * f.role.toNat
  [f.pver, f.code, BitVec.ofNat 8 auth, BitVec.ofNat 8 f.recs.length] ++ leBytes 2 f.packId.toNat ++ leBytes 2 f.fseq.toNat ++ leBytes 4 f.pcyc.toNat ++ leBytes 2 f.kIdx.toNat
    ++ leBytes 2 0 ++ leBytes 4 f.nanos.toNat ++ leBytes 4 f.secs.toNat ++ leBytes 8 0

/-- A pack frame as it leaves a ring port, from the destination address through the check sequence (R347, R349): NetId 0, LanId 0 on ETH0 and 1 on ETH1.
The LSDU size is IEC 62439-3's, which this device's text does not restate: a free value. -/
def packFrameBytes (f : PackFrame) (port : Bool) : List Byte :=
  let body := packHeader f ++ f.recs.flatMap packRecBytes
  let lsdu := (Config.layoutWord 21 [body.length]).toNat % 4096
  let l := beBytes 4 0x034A47 |>.drop 1
  let head := l ++ beBytes 2 f.packId.toNat ++ [0xFF#8] ++ beBytes 6 f.src.toNat ++ beBytes 2 0x892F ++ beBytes 2 (4096 * b2n port + lsdu) ++ beBytes 2 f.hsr.toNat ++ beBytes 2 f.etype.toNat
  let all := head ++ body
  let padded := all ++ List.replicate (60 - all.length) 0
  padded ++ leBytes 4 (crc32 padded)

/-- PSW_TX sends the assembly as one frame on both ring ports and empties it; an empty assembly sends nothing. -/
def pswTxEffect (s : State) : State :=
  if s.pack.psw.asm.isEmpty then s
  else
    let f := packFrame s
    modPsw (fun p => { p with asm := [], fseq := p.fseq + 1, hsr := p.hsr + 1, sent := some f, wire0 := packFrameBytes f false, wire1 := packFrameBytes f true }) s

def execPswTx (s : State) : Res := issue 0x0E 0 (opWord 0x0E 1 0) pswTxEffect s

/-! ### The vote (R355, Table 11-6). -/

/-- One contributor to a word: unit code, word, quality. -/
abbrev Vote := Nat × Word × Qual

/-- The value of a word for comparison: signed for SFX, unsigned otherwise. -/
def voteInt (ty : Nat) (w : Word) : Int := if ty = 1 then w.toInt else (w.toNat : Int)

/-- The middle of three by a key, ties by place. -/
def middle3 (key : Vote → Int) (a b c : Vote) : Vote :=
  if key a ≤ key b then (if key b ≤ key c then b else if key a ≤ key c then c else a)
  else (if key a ≤ key c then a else if key b ≤ key c then c else b)

/-- Quality of a word that a vote gave: lowered to SUBST below three records or when discrete words disagree. -/
def voteQual (n : Nat) (agree : Bool) (q : Qual) : Qual := if n < 3 ∨ !agree then qWorst [q, qSubst] else q

/-- The vote on a numeric word: value and quality. Contributors stand in order of unit code. -/
def voteNum (ty : Nat) (l : List Vote) : Word × Qual :=
  match l with
  | [] => if ty = 1 ∨ ty = 2 then (nanWord, qNan) else (0, qNan)
  | [a] => (a.2.1, voteQual 1 true a.2.2)
  | [a, b] =>
    let q := voteQual 2 true (qWorst [a.2.2, b.2.2])
    if ty = 3 then (a.2.1 + i32 (roundEven (((b.2.1 - a.2.1).toInt : Rat) / 2)), q)
    else
      let w := i32 (roundEven (((voteInt ty a.2.1 + voteInt ty b.2.1 : Int) : Rat) / 2))
      if w = nanWord then (w, qNan) else (w, q)
  | a :: b :: c :: _ =>
    let m := middle3 (fun v => if ty = 3 then (v.2.1 - a.2.1).toInt else voteInt ty v.2.1) a b c
    (m.2.1, voteQual 3 true m.2.2)

/-- The vote on a BOOL or ENUM word: value, quality, unit outvoted, whether the contributors or a previous vote decided it. -/
def voteDisc (prev : Option Word) (l : List Vote) : Option (Word × Qual) × Option Nat :=
  let undecided : Option (Word × Qual) := prev.map (fun w => (w, qSubst))
  match l with
  | [] => (none, none)
  | [a] => (some (a.2.1, voteQual 1 true a.2.2), none)
  | [a, b] => if a.2.1 = b.2.1 then (some (a.2.1, voteQual 2 true a.2.2), none) else (undecided, none)
  | a :: b :: c :: _ =>
    if a.2.1 = b.2.1 then
      (if b.2.1 = c.2.1 then (some (a.2.1, a.2.2), none) else (some (a.2.1, voteQual 3 false a.2.2), some c.1))
    else if a.2.1 = c.2.1 then (some (a.2.1, voteQual 3 false a.2.2), some b.1)
    else if b.2.1 = c.2.1 then (some (b.2.1, voteQual 3 false b.2.2), some a.1)
    else (undecided, none)

/-- The vote on a TIME64 pair: the nanoseconds word and the seconds word, each with the quality of its contributor's own word. -/
def voteTime (l : List (Vote × Vote)) : (Word × Qual) × (Word × Qual) :=
  let key (p : Vote × Vote) : Int := ((p.2.2.1.toNat * 4294967296 + p.1.2.1.toNat : Nat) : Int)
  let out (n : Nat) (p : Vote × Vote) : (Word × Qual) × (Word × Qual) := ((p.1.2.1, voteQual n true p.1.2.2), (p.2.2.1, voteQual n true p.2.2.2))
  match l with
  | [] => ((0, qNan), (0, qNan))
  | [a] => out 1 a
  | [a, b] => out 2 (if key b < key a then b else a)
  | a :: b :: c :: _ =>
    out 3 (if key a ≤ key b then (if key b ≤ key c then b else if key a ≤ key c then c else a)
      else (if key a ≤ key c then a else if key b ≤ key c then c else b))

/-- The contributors to word i of a window: a word whose quality is NAN, or that is the NaN code of an SFX or UFX signal, does not
contribute. -/
def contributors (ty i : Nat) (cands : List Cand) : List Vote :=
  (cands.map (fun c => (c.code, c.words.getD i 0, c.quals.getD i qNan))).filter (fun v =>
    v.2.2 != qNan && !((ty == 1 || ty == 2) && v.2.1 == nanWord))

/-- What a vote gives: words, quality codes, the words to remember (none undecided), the units outvoted. -/
structure VoteOut where
  words : List Word := []
  quals : List Qual := []
  keep  : List (Option Word) := []
  lost  : List Nat := []

/-- The vote word by word over signals of the given types, with the words of the previous vote. -/
def voteWords (cands : List Cand) (prev : List (Option Word)) : Nat → List Nat → VoteOut
  | _, [] => {}
  | i, 6 :: _ :: tys =>
    let a := contributors 6 i cands
    let b := contributors 7 (i + 1) cands
    let pairs := a.filterMap (fun v => (b.find? (fun w => w.1 = v.1)).map (fun w => (v, w)))
    let t := voteTime pairs
    let r := voteWords cands prev (i + 2) tys
    { r with words := t.1.1 :: t.2.1 :: r.words, quals := t.1.2 :: t.2.2 :: r.quals, keep := some t.1.1 :: some t.2.1 :: r.keep }
  | i, ty :: tys =>
    let l := contributors ty i cands
    let r := voteWords cands prev (i + 1) tys
    if ty = 4 ∨ ty = 5 then
      let d := voteDisc (prev.getD i none) l
      let v := d.1.getD (0, qNan)
      { words := v.1 :: r.words, quals := v.2 :: r.quals, keep := (d.1.map (fun x => x.1)).or (prev.getD i none) :: r.keep, lost := d.2.toList ++ r.lost }
    else
      let v := voteNum ty l
      { r with words := v.1 :: r.words, quals := v.2 :: r.quals, keep := some v.1 :: r.keep }

/-! ### Reception (R348, R353 to R355). -/

/-- Subscription entry e: POS, VOTE, GROUP (R354). -/
def subFld (s : State) (e : Nat) : Nat × Bool × Nat :=
  let w := packFld s (packFld s 0x24 4 + 4 * e) 4
  (w % 128, bitOf w 7, bitsOf w 15 8)

def subOf (s : State) (e : Nat) : PackSub := tget {} s.pack.psw.subs e
def setSub (e : Nat) (x : PackSub) (s : State) : State := modPsw (fun p => { p with subs := tset {} p.subs e x }) s

/-- Is a frame's sender a unit of the position of a record (R354)? -/
def senderOk (pos code psel : Nat) : Bool :=
  if 1 ≤ pos ∧ pos ≤ 3 then decide (1 ≤ code ∧ code ≤ 3) && psel == pos - 1
  else (code == pos || code == pos + 128) && psel == 0

/-- Count the units that a vote outvoted (PACK_VOTE). -/
def countLost (l : List Nat) (s : State) : State :=
  modPsw (fun p => l.foldl (fun p c => if c = 1 then { p with lost1 := p.lost1 + 1 } else if c = 2 then { p with lost2 := p.lost2 + 1 } else { p with lost3 := p.lost3 + 1 }) p) s

/-- The vote window after a candidate: units whose times lie within 160 ns of the newest (R355); none when the candidate is too old
to join. -/
def joinWindow (c : Cand) (w : List Cand) : Option (List Cand) :=
  let newest := w.foldl (fun a x => max a x.ns) 0
  if w.isEmpty ∨ newest + 160 < c.ns then some [c]
  else if c.ns + 160 < newest then none
  else
    let w := w.filter (fun x => x.code != c.code) ++ [c]
    let newest := w.foldl (fun a x => max a x.ns) 0
    some (w.filter (fun x => decide (newest ≤ x.ns + 160)))

/-- Order by unit code. -/
def byCode (w : List Cand) : List Cand :=
  (List.range 256).flatMap (fun k => w.filter (fun x => x.code == k))

/-- A candidate that is not voted: the rule of two active units, then the landing (R354). -/
def directCand (e n : Nat) (c : Cand) (s : State) : State :=
  let pos := (subFld s e).1
  let x := subOf s e
  let near := x.last.filter (fun p => p.1 != c.code && decide (2 * (max p.2 c.ns - min p.2 c.ns) < cycleHalf s))
  let x' := { x with last := tset 0 x.last c.code c.ns }
  match near.head? with
  | none => lbuComplete n c.words c.ns c.quals (setSub e x' s)
  | some o =>
    let now := ptcNs s
    let first := decide (x.dualTo ≤ now)
    let s := setSub e { x' with dualTo := now + (cycleHalf s + 1) / 2 } s
    let s := if first then raise 0x0B11 (w32 pos) (w32 (256 * min o.1 c.code + max o.1 c.code)) (w32 e) s else s
    if near.any (fun p => decide (p.1 < c.code)) then s else lbuComplete n c.words c.ns c.quals s

/-- A candidate of subscription e, whose landing buffer is n (R354, R355). -/
def packCand (e n : Nat) (c : Cand) (s : State) : State :=
  if (subFld s e).2.1 then
    let x := subOf s e
    match joinWindow c x.window with
    | none => if x.window.any (fun v => v.vot) then s else directCand e n c s
    | some w =>
      let s := setSub e { x with window := w } s
      if w.any (fun v => v.vot) then
        let target := lbutFld s n 4 4 % 2 ^ 17
        let tys := (List.range (lbutFld s n 2 1)).map (fun k => entType (ent s (target + k)))
        let v := voteWords (byCode w) x.voted 0 tys
        let s := setSub e { x with window := w, voted := v.keep } s
        lbuComplete n v.words (w.foldl (fun a y => max a y.ns) 0) v.quals (countLost v.lost s)
      else directCand e n c s
  else directCand e n c s

/-- One record of a delivered pack frame (R81, R354). DESIGN CHOICE (log entry 136): the publisher's position that SDIR_DIRID_MISMATCH names is the
sender's unit code without the unit bit, for a MANAGER record too. -/
def packRecord (f : PackFrame) (r : PackRec) (s : State) : State :=
  if r.dirid ≠ s.dirid then
    raise 0x0130 (w32 (f.code.toNat % 128)) r.dirid 0 (modPsw (fun p => { p with bad := satHalf p.bad }) s)
  else if !f.act && !f.vot then s
  else
    let c : Cand := { code := f.code.toNat, ns := r.secs.toNat * 1000000000 + r.nanos.toNat, words := r.words, quals := r.quals, vot := f.vot }
    (List.range (packFld s 0x22 2)).foldl (fun s e =>
      let x := subFld s e
      if x.2.2 = r.group ∧ senderOk x.1 f.code.toNat r.psel then
        (match lbuOfSource s 0x0E e with
         | some n => packCand e n c s
         | none => s)
      else s) s

/-- Local delivery of the first good copy of a frame. -/
def deliver (f : PackFrame) (s : State) : State :=
  if f.etype.toNat = packFld s 8 2 then
    if f.pver ≠ 1 then modPsw (fun p => { p with bad := satHalf p.bad }) s
    else if f.packId.toNat ≠ packId s then modPsw (fun p => { p with alien := satHalf p.alien }) s
    else
      let s := if f.act then modPack (fun p => { p with actSeen := f.code.toNat :: p.actSeen.filter (fun c => c != f.code.toNat) }) s else s
      f.recs.foldl (fun s r => packRecord f r s) s
  else if f.etype = 0x88F7 then s
  else modPsw (fun p => { p with alien := satHalf p.alien }) s

/-- Find the duplicate-table entry of a frame, leaving out entries that have lived DUP_LIFE µs (R347). -/
def liveDups (s : State) : List DupEntry := s.pack.psw.dups.filter (fun d => decide (s.cclk < d.born + 400 * packFld s 0x20 2))

/-- The correction field with which a Sync leaves again (R398): residence, the egress stamp less the ingress stamp, and the peer delay of the ingress port
are added, in 2^-16 ns. -/
def forwardedCorr (s : State) (port : Bool) (corr : Int) (residence : BitVec 32) : Int :=
  corr + residence.toNat + roundEven ((tget {} s.ptc.ports (b2n port)).delay * 65536)

/-- A ring frame (R348): forwarded out of the other port unless it is the device's own or already forwarded that way, with an inverted check sequence when its
own is wrong; a Pdelay message is link-local and is not forwarded, and comes to the PTC by its own command (R396); delivered when it is the first good copy. fwdWait and localWait: the frame, or a local frame, waited for an egress (R353); residence is what the stamps at its two ports
differ by, in 2^-16 ns. -/
def ringFrame (port : Bool) (f : PackFrame) (fwd : RingForward) (localWait : Bool) (s : State) : State :=
  if !f.tagged then modPsw (fun p => { p with alien := satHalf p.alien }) s
  else if f.src.toNat = packAddr s then s
  else if f.pdelay then s
  else
    let dups := liveDups s
    let old := dups.find? (fun d => d.src = f.src ∧ d.seq = f.hsr)
    let d : DupEntry := old.getD { src := f.src, seq := f.hsr, born := s.cclk, fwd0 := false, fwd1 := false, got := false }
    -- a frame received on ETH0 leaves on ETH1
    let already := if port then d.fwd0 else d.fwd1
    let again := d.got
    let d := if port then { d with fwd0 := true, got := d.got || f.fcsOk } else { d with fwd1 := true, got := d.got || f.fcsOk }
    let dups := if old.isSome then dups.map (fun x => if x.src = f.src ∧ x.seq = f.hsr then d else x)
      else (if 1024 ≤ dups.length then dups.drop 1 else dups) ++ [d]
    let s := modPsw (fun p => { p with
      dups := dups
      fwd := if already then p.fwd else some (f.src, f.hsr, !port)
      fwdBad := if already then p.fwdBad else !f.fcsOk
      fwdCorr := if already then p.fwdCorr else f.sync.map (fun c => forwardedCorr s port c fwd.residence)
      dup := if again && f.fcsOk && p.dup != 0xFFFFFFFF#32 then p.dup + 1 else p.dup }) s
    let wait (b local_ : Bool) (s : State) : State :=
      if b then
        let s := modPsw (fun p => if local_ then { p with wLoc := satHalf p.wLoc } else { p with wFwd := satHalf p.wFwd }) s
        raise 0x0B14 (w32 (b2n (!port))) 1 0 s
      else s
    let s := wait localWait true (wait (fwd.wait && !already) false s)
    if !f.fcsOk then modPsw (fun p => { p with bad := satHalf p.bad }) s
    else if again then s
    else deliver f s

/-- Before the seal the PSW neither forwards nor delivers (R89). -/
def execRingFrameReceived (port : Bool) (f : PackFrame) (fwd : RingForward) (localWait : Bool) (s : State) : Res :=
  if s.boot.sealed then .next (ringFrame port f fwd localWait s) else .next s

end Sys2Proof.Machine
end

