-- ==== Sys2Proof/Machine/Leash.lean ====
section
/-! DEFINITION. Sys2Proof/Machine/Leash.lean: units, Leash links, Barks, equalisation items, reset commands, the interlock
(R344, R346, R356 to R361, R368, R369, R383). -/

namespace Sys2Proof.Machine

/-! ### Units and links (Tables 11-1 and 11-2). -/

/-- Is the strap a valid unit under the pack block? -/
def unitValid (s : State) : Bool :=
  let u := s.pins.unitSel.toNat
  u == 0 || (u == 1 && isDuplex s) || (u == 2 && s.boot.chartRole && isTriplex s)

/-- The unit code expected on a link; 0 is no peer. -/
def linkPeer (s : State) (k : Nat) : Nat :=
  let u := s.pins.unitSel.toNat
  if !unitValid s then 0
  else if s.boot.chartRole then
    (match u, k with
     | 0, 0 => if isDuplex s then 2 else 0
     | 0, 1 => if isTriplex s then 3 else 0
     | 1, 0 => 1
     | 1, 2 => if isTriplex s then 3 else 0
     | 2, 1 => 1
     | 2, 2 => 2
     | _, _ => 0)
  else if k = 0 ∧ isDuplex s then packFld s 6 1 + (if u = 0 then 128 else 0)
  else 0

def linkActive (s : State) (k : Nat) : Bool := linkPeer s k != 0
def activeLinks (s : State) : List Nat := (List.range 3).filter (linkActive s)

def linkOf (s : State) (k : Nat) : LeashLink := tget {} s.pack.links k
def modLink (k : Nat) (f : LeashLink → LeashLink) (s : State) : State := modPack (fun p => { p with links := tmod {} p.links k f }) s

/-- The complete half of a link's Bark buffer, as a LAND would see it (R357, R44). -/
def settleLink (s : State) (l : LeashLink) : LeashLink :=
  match l.pend with
  | some (b, done) => if crossed s done then { l with cur := some b, pend := none } else l
  | none => l

/-- LEASE of the pack block. -/
def leaseLen (s : State) : Nat := packFld s 0x0A 1

/-- Seconds ACTIVE since the Collar was taken (R371, Table 11-16). -/
def actSec (s : State) : Nat := match s.pack.actFrom with
  | some c => (s.cclk - c) / 400000000
  | none => 0

/-- PEERS: units whose Barks are fresh (Table 11-7). -/
def peersOf (s : State) : BitVec 3 :=
  (activeLinks s).foldl (fun a k =>
    if (linkOf s k).fresh = 0 then a
    else if s.boot.chartRole then a ||| BitVec.ofNat 3 (2 ^ (linkPeer s k - 1)) else a ||| 1#3) 0

/-- The Bark that the latest ROLE_STEP found on a link, while it is fresh (R363). -/
def steppedBark (s : State) (k : Nat) : Option Bark := if (linkOf s k).fresh = 0 then none else (linkOf s k).latest

/-- The latest Bark of a link, as it is seen now, while it is fresh: the one of the latest ROLE_STEP, or a newer one. -/
def freshBark (s : State) (k : Nat) : Option Bark :=
  let l := settleLink s (linkOf s k)
  match l.cur with
  | some b => if l.fresh = 0 ∧ l.seen = some b.bseq then none else some b
  | none => none

/-- Codes of the other units whose fresh Barks show VOTING. -/
def votingCodes (s : State) : List Nat :=
  (activeLinks s).filterMap (fun k => (freshBark s k).bind (fun b => if b.role = 2 then some b.code.toNat else none))

def leastOf (l : List Nat) : Option Nat := l.foldl (fun a x => some (match a with | some y => min x y | none => x)) none

/-! ### Barks (R358). -/

/-- The swap flags that this pack cycle's Bark carries (Table 11-10): offer, accept, decline, commit. -/
def swapFlags (s : State) : Bool × Bool × Bool × Bool :=
  let w := s.pack.swap
  let c := pcyc s
  let own := !w.partner
  (own && w.state == 2 && c == w.c0 + 1, w.partner && w.answer == 1 && c == w.c0 + 2, w.partner && w.answer == 2 && c == w.c0 + 2,
   own && w.state == 4 && c == w.c0 + 3)

/-- Is a duplex request still to be sent on? -/
def dupPending (s : State) : Bool := match s.pack.dup with
  | some d => decide (pcyc s < d.cyc)
  | none => false

/-- S of the swap in progress; 0 is none. -/
def swapAt (s : State) : Nat := if s.pack.swap.state = 0 ∨ s.pack.swap.state = 1 then 0 else s.pack.swap.at_

/-- The pack cycle a Bark names: the pending duplex restore, the fall-back or the swap. -/
def atCycle (s : State) : Nat :=
  if dupPending s then (s.pack.dup.map (fun d => d.cyc)).getD 0
  else match s.pack.voteAt with
    | some v => v
    | none => swapAt s

/-- The pack cycle that PACK_AT names: a pending duplex restore, fall-back or swap (Table 11-16). -/
def pendCycle (s : State) : Nat :=
  match s.pack.dup, s.pack.voteAt with
  | some d, _ => d.cyc
  | none, some v => if pcyc s < v ∧ s.boot.dev ≠ .voting then v else swapAt s
  | none, none => swapAt s

/-- The oldest snapshot cycle among the imported items. -/
def oldestEq (s : State) : Nat := (leastOf (s.pack.eqVers.filterMap (fun p => p.2))).getD 0

/-- The Bark of this pack cycle. -/
def ownBark (s : State) : Bark :=
  let p := s.pack
  let f := swapFlags s
  let dp := dupPending s
  { code := BitVec.ofNat 8 (unitCode s), role := BitVec.ofNat 2 (roleCode s.boot.dev), collar := p.holder, claim := p.claiming && decide (p.claimAt ≤ s.cclk)
    ilkSeen := p.ilk == 1, ilkFault := p.ilkFault, eqOk := p.eqOk, outEn := outEnabled s, dstate := BitVec.ofNat 8 (devCode s.boot.dev)
    offer := f.1, accept := f.2.1, decline := f.2.2.1, commit := f.2.2.2
    release := p.releasing && decide (s.seq.k < p.relUntil), fallback := p.voteAt.isSome && !dp, duplexReq := dp
    resync := s.boot.dev == .standby && !p.eqOk
    reason := if f.2.2.1 then p.swap.reason else if p.voteAt.isSome then p.fallWhy else if p.swap.abortAt == some (pcyc s - 1) then p.swap.reason else 0
    peers := peersOf s, target := if dp then BitVec.ofNat 8 ((p.dup.map (fun d => d.target)).getD 0) else 0
    chartId := s.hdr.chartId, dirid := s.dirid, pcyc := w32 (pcyc s)
    atCyc := if f.1 || f.2.2.2 || dp || p.voteAt.isSome then w32 (atCycle s) else 0
    bseq := p.bseq, shreason := s.boot.reasons, leaseLeft := BitVec.ofNat 8 p.leaseLeft, actSec := w32 (actSec s), eqCyc := w32 (oldestEq s) }

def bit8 (b : Bool) (i : Nat) : Nat := if b then 2 ^ i else 0

/-- The 64 bytes of a Bark as 16 little-endian words (Table 11-7). -/
def barkWords (b : Bark) : List Word :=
  let role := b.role.toNat + bit8 b.collar 2 + bit8 b.claim 3 + bit8 b.ilkSeen 4 + bit8 b.ilkFault 5 + bit8 b.eqOk 6 + bit8 b.outEn 7
  let flags := bit8 b.offer 0 + bit8 b.accept 1 + bit8 b.decline 2 + bit8 b.commit 3 + bit8 b.release 4 + bit8 b.fallback 5 + bit8 b.duplexReq 6 + bit8 b.resync 7
  [w32 (b.bver.toNat + 256 * b.code.toNat + 65536 * role + 16777216 * b.dstate.toNat),
   w32 (flags + 256 * b.reason.toNat + 65536 * b.peers.toNat + 16777216 * b.target.toNat),
   b.chartId.setWidth 32, (b.chartId >>> 32).setWidth 32, b.dirid, b.pcyc, b.atCyc,
   w32 (b.bseq.toNat + 65536 * b.shreason.toNat + 16777216 * b.leaseLeft.toNat), b.actSec, b.eqCyc, 0, 0, 0, 0, 0, 0]

/-! ### The transmitter of a link (R357). -/

/-- A Leash frame from TYPE through the CRC. -/
def leashBytes (type lseq : Nat) (payload : List Byte) : List Byte :=
  let l := [BitVec.ofNat 8 type] ++ leBytes 2 payload.length ++ [BitVec.ofNat 8 lseq] ++ payload
  l ++ leBytes 4 (crc32 l)

/-- BARK goes before CMD, and CMD before EQ. -/
def txRank (x : LeashTx) : Nat := if x.type = 1 then 0 else if x.type = 3 then 1 else 2

/-- When a frame's closing /T/ and /R/ have left, in half nanoseconds: /S/, TYPE, LEN, LSEQ, payload, CRC, /T/, /R/ at 8 ns each. -/
def txLeft (x : LeashTx) : Nat := x.start + 16 * (x.len + 11)

/-- When the next frame may follow: behind at least four idle ordered sets. -/
def txOver (x : LeashTx) : Nat := txLeft x + 16 * 8

/-- The waiting frames one behind the other. -/
def txChain : Nat → List LeashTx → List LeashTx
  | _, [] => []
  | t, x :: l => { x with start := t } :: txChain (txOver { x with start := t }) l

/-- The crossing into LCLK, 4 or 5 cycles of 8 ns, in half nanoseconds (Table 1-11). -/
def lclkAt (s : State) : Nat := 5 * s.cclk + (if Config.crossingSeen (s.cclk * 1024 + 0x0F) then 64 else 80)

/-- Queue a frame on a link: the frame on the wire completes, the waiting ones follow by rank. -/
def leashSend (k : Nat) (type : BitVec 2) (payload : List Byte) (mbx : Option Nat) (s : State) : State :=
  let t := lclkAt s
  modLink k (fun l =>
    let live := l.plan.filter (fun x => decide (5 * s.cclk < txOver x))
    let wire := live.filter (fun x => decide (x.start ≤ t))
    let wait := live.filter (fun x => decide (t < x.start)) ++ [{ type := type, len := payload.length, start := t, mbx := mbx }]
    { l with
      plan := wire ++ txChain (wire.foldl (fun a x => max a (txOver x)) t) (sortBy (fun a b => decide (txRank a ≤ txRank b)) wait)
      wire := leashBytes type.toNat l.lseq.toNat payload
      lseq := l.lseq + 1 }) s

/-- BARK_TX sends the Bark on every active link. -/
def barkTxEffect (s : State) : State :=
  let b := ownBark s
  let bytes := (barkWords b).flatMap (fun w => leBytes 4 w.toNat)
  let s := (activeLinks s).foldl (fun s k => modLink k (fun l => { l with txBark := some b }) (leashSend k 1 bytes none s)) s
  modPack (fun p => { p with bseq := p.bseq + 1, releasing := p.releasing && decide (s.seq.k < p.relUntil) }) s

def execBarkTx (s : State) : Res := issue 0x0F 0 (opWord 0x0F 1 0) barkTxEffect s

/-- A received Bark is judged against the expected peer and the running Chart (R105, R346). DESIGN CHOICE (log entry 137): CHARTID_MISMATCH is recorded
once for each link while a mismatch stands on it, not for every Bark. -/
def judgeBark (k : Nat) (b : Bark) (s : State) : State :=
  let own := b.code.toNat = unitCode s
  let s :=
    if own ∨ b.code.toNat ≠ linkPeer s k then
      let first := (linkOf s k).unexp.isNone
      let s := setReason 4 (latchFrame s) (modLink k (fun l => { l with unexp := some (pcyc s) }) s)
      if first then raise 0x0B12 (if own then 2 else 1) (w32 k) (b.code.setWidth 32) s else s
    else s
  if b.chartId ≠ s.hdr.chartId then
    let first := (linkOf s k).mism.isNone
    let s := setReason 2 (latchFrame s) (modLink k (fun l => { l with mism := some (pcyc s) }) s)
    if first then raise 0x0144 ((s.hdr.chartId.setWidth 32)) (b.chartId.setWidth 32) (w32 (b.code.toNat % 128)) s else s
  else s

/-- A Bark arrives on a link (R357): it lands in the link's buffer and in its LBU, stamped with the PTP time of its end. -/
def barkReceived (k : Nat) (b : Bark) (s : State) : State :=
  let s := modLink k (fun l => { settleLink s l with pend := some (b, s.cclk) }) s
  judgeBark k b (landFrom 0x0F k (barkWords b) (ptcNs s) s)

/-- A frame of a link that fails its CRC or LEN is counted (Table 11-16). -/
def crcFailed (k : Nat) (s : State) : State := modLink k (fun l => { l with crcErr := satHalf l.crcErr }) s

/-- Nothing is received on a link that is not active, or before the seal. -/
def hears (s : State) (k : Nat) : Bool := s.boot.sealed && linkActive s k

def execLeashBarkReceived (link : Fin 3) (ok : Bool) (b : Bark) (s : State) : Res :=
  if !hears s link then .next s else if ok then .next (barkReceived link b s) else .next (crcFailed link s)

/-! ### Link state (R356). -/

def execLeashUp (link : Fin 3) (s : State) : Res :=
  if (linkOf s link).up then .next s
  else .next (raise 0x0B07 (w32 link) (w32 (linkPeer s link)) 0 (modLink link (fun l => { l with up := true, aligned := true }) s))

/-- The last Bark that has landed on a link. -/
def lastBark (s : State) (k : Nat) : Option Bark := (settleLink s (linkOf s k)).cur

/-- A link goes down: by invalid code groups, which are counted, or by loss of comma alignment. -/
def execLeashDown (link : Fin 3) (aligned : Bool) (errs : BitVec 16) (s : State) : Res :=
  let was := (linkOf s link).up
  let s := modLink link (fun l => { l with up := false, aligned := aligned, codeErr := BitVec.ofNat 16 (min 65535 (l.codeErr.toNat + errs.toNat)) }) s
  .next (if was then raise 0x0B06 (w32 link) (((lastBark s link).map (fun b => b.code.setWidth 32)).getD 0) 0 s else s)

/-! ### Equalisation items (R368, R369). -/

def eqMode (s : State) : EqMode :=
  let m := s.modes.m
  let o := sgi (ob s 0x10 4)
  { mode := m.mode, armed := armedOf m, seat := m.seat, outgoing := m.outgoing, direct := m.direct, ho := m.ho, alpha := m.alpha, armCyc := m.armCyc
    tauD := s.modes.tauD
    sps := s.modes.sps.map (fun p => { mode := p.1, given := p.2.given, n := p.2.n, e := p.2.e, psi := p.2.psi, nB := p.2.nB, eB := p.2.eB, speed := p.2.speed })
    orgSet := s.modes.orgSet, orgLat := sigW s o, orgLon := sigW s (o + 1) }

def eqObs (s : State) : EqObs :=
  { x := idx18.map (fun i => tget 0 s.obs.x i)
    p := idx18.flatMap (fun i => (List.range (18 - i)).map (fun j => tget 0 s.obs.p (18 * i + i + j)))
    pstat := s.obs.pstat, hstat := s.obs.hstat, drCyc := s.obs.drCyc, hdrCyc := s.obs.hdrCyc
    slots := (List.range 17).map (fun n => let v := slot s n; { state := v.state, clean := v.clean, dN := v.dN, dE := v.dE })
    wN := s.obs.wN, wE := s.obs.wE }

def eqPwr (s : State) : EqPwr :=
  { flrLim := s.modes.flrLim, flrLeft := flrRemain s, flrGrp := s.modes.flrGrp
    thrs := (List.range (nThr s)).map (fun i =>
      let v := tget {} s.modes.thr i
      let w := workSig s i
      { sided := v.sided, side0 := sigW s (w + 3) != 0, side1 := sigW s (w + 4) != 0, pin0 := v.pin0, pin1 := v.pin1
        cmd := [sigW s (cmdSig s i), sigW s (cmdSig s i + 1)], force := [sigW s (w + 1), sigW s (w + 2)] })
    holdCyc := if s.modes.hold then s.modes.holdCyc else 0
    ca := (List.range (th s 3 1)).map (fun g => let c := tget {} s.modes.ca g; (c.verdict, c.fails, c.passes, c.alarm)) }

/-- What EQ_SNAP reads for an item; none is no item of Table 11-9. -/
def eqBody (s : State) (item index : Nat) : Option EqBody :=
  match item with
  | 1 => some (.mode (eqMode s))
  | 2 => some (.obs (eqObs s))
  | 3 => some (.lce (lceRec s index))
  | 4 => let r := (qTpl s index).prev.getD { sig := 0, result := 0, rows := [] }; some (.qps (qpBytes (qN s index) r))
  | 5 => some (.pwr (eqPwr s))
  | _ => none

/-- The bytes of an item (Table 11-9). The records of LCE and QPS have the layout of their chapters; that of the content of the others is not stated, so each
of their bytes is a free value. -/
def eqBodyBytes (x : EqItem) : List Byte :=
  let free (n : Nat) : List Byte := (List.range n).map (fun k => BitVec.ofNat 8 (Config.layoutWord 20 [eqNo x.body, x.version.toNat, k]).toNat)
  match x.body with
  | .mode _ => free 512
  | .obs _ => free 1024
  | .lce ws => ws.flatMap (fun w => leBytes 4 w.toNat)
  | .qps r => r
  | .pwr _ => free 512

/-- The payload of an EQ frame: its 16-byte header and the item (R368). -/
def eqPayload (x : EqItem) : List Byte :=
  let b := eqBodyBytes x
  [BitVec.ofNat 8 (eqNo x.body), x.index] ++ leBytes 2 b.length ++ leBytes 4 x.version.toNat ++ [x.code] ++ leBytes 7 0 ++ b

/-- Is this unit the equalisation source? -/
def eqSource (s : State) : Bool :=
  if s.boot.dev = .voting then (votingCodes s).all (fun c => decide (unitCode s ≤ c)) else s.pack.holder

/-- EQ_SNAP sends an item to each link whose peer's latest Bark shows STANDBY or SAFE-HOLD. -/
def eqSnapEffect (item index : Nat) (s : State) : State :=
  match (if eqSource s then eqBody s item index else none) with
  | none => s
  | some body =>
    let x : EqItem := { index := BitVec.ofNat 8 index, version := w32 (pcyc s), code := BitVec.ofNat 8 (unitCode s), body := body }
    (activeLinks s).foldl (fun s k =>
      match (settleLink s (linkOf s k)).cur with
      | some b => if b.dstate = 6 ∨ b.dstate = 9 then modLink k (fun l => { l with txEq := some x }) (leashSend k 2 (eqPayload x) none s) else s
      | none => s) s

def execEqSnap (item : BitVec 4) (index : BitVec 8) (s : State) : Res :=
  issue 0x0F 0 (opWord 0x0F 3 (item.toNat + 16 * index.toNat)) (eqSnapEffect item.toNat index.toNat) s

/-- Is a sender the current equalisation source in this unit's view? (R369) -/
def fromSource (s : State) (code : Nat) : Bool :=
  match leastOf (votingCodes s) with
  | some c => code == c
  | none => (activeLinks s).any (fun k => match freshBark s k with
    | some b => b.collar && b.code.toNat == code
    | none => false)

/-- An equalisation item arrives: kept for import from the next frame boundary, with the version that is available until then, or
discarded. -/
def eqReceived (x : EqItem) (s : State) : State :=
  if importing s && fromSource s x.code.toNat then
    let same := s.pack.eqHeld.filter (fun h => itemKey h.item = itemKey x ∧ h.avail ≤ s.seq.k)
    modPack (fun p => { p with eqHeld := p.eqHeld.filter (fun h => itemKey h.item ≠ itemKey x) ++ same.getLast?.toList ++ [{ item := x, avail := s.seq.k + 1 }] }) s
  else modPack (fun p => { p with eqDisc := satHalf p.eqDisc }) s

def execLeashEqReceived (link : Fin 3) (ok : Bool) (x : EqItem) (s : State) : Res :=
  if !hears s link then .next s else if ok then .next (eqReceived x s) else .next (crcFailed link s)

/-- EQ_LOST: an imported item has grown older than 2 EQ_PERIOD pack cycles (R370). -/
def execEqLost (s : State) : Res := .next (eqLose s)

/-! ### Reset commands (R92, R383). -/

/-- Refuse a partner's reset command. -/
def resetRefused (sender : Nat) (s : State) : State := raise 0x0147 (w32 (sender % 128)) (w32 (devCode s.boot.dev)) 0 s

/-- A CMD frame for this unit, of the same Chart. -/
def cmdReceived (k : Nat) (c : LeashCmd) (s : State) : State :=
  if c.target.toNat ≠ unitCode s ∨ c.chartId ≠ s.hdr.chartId then s
  else
    match s.boot.dev with
    | .active | .fault => resetRefused c.sender.toNat s
    | .voting =>
      let s := modLink k (fun l => { l with cmdIn := some c.sender.toNat }) s
      if (activeLinks s).all (fun j => (linkOf s j).cmdIn.isSome) then enterReset .partner false false s else s
    | _ => enterReset .partner false false s

def execLeashCmdReceived (link : Fin 3) (ok : Bool) (c : LeashCmd) (s : State) : Res :=
  if !hears s link then .next s else if ok then .next (cmdReceived link c s) else .next (crcFailed link s)

/-- The payload of a CMD frame. -/
def cmdPayload (c : LeashCmd) : List Byte :=
  [1#8, c.target, c.sender] ++ leBytes 5 0 ++ leBytes 8 c.chartId.toNat ++ leBytes 4 c.pcyc.toNat ++ leBytes 12 0

/-- The handler of PARTNER-RESET (R383): the frame is sent, and the command completes when it has left the link. -/
def partnerResetHandler (mbx link : Nat) (s : State) : State :=
  if 3 ≤ link ∨ !linkActive s link then completeMbx mbx rcRange s
  else
    let c : LeashCmd := { target := BitVec.ofNat 8 (linkPeer s link), sender := BitVec.ofNat 8 (unitCode s), chartId := s.hdr.chartId, pcyc := w32 (pcyc s) }
    let s := modLink link (fun l => { l with txCmd := some c }) (leashSend link 3 (cmdPayload c) (some mbx) s)
    decideMbx mbx rcDone (raise 0x0B13 (w32 link) (c.target.setWidth 32) 0 s)

/-- Does a mailbox wait for a frame that has not left its link? -/
def leashHolds (s : State) (n : Nat) : Bool := [0, 1, 2].any (fun k => (linkOf s k).plan.any (fun x => x.mbx == some n && decide (5 * s.cclk < txLeft x)))

def execPartnerReset (mbx : BitVec 4) (link : BitVec 8) (s : State) : Res := .next (partnerResetHandler mbx.toNat link.toNat s)

/-! ### The interlock (R360, R361). -/

/-- A new classification of ILK_IN: a running claim window fails unless it is LOW, and the output stages follow (R361, R364). -/
def setIlk (c : BitVec 2) (s : State) : State :=
  let was := outEnabled s
  let s := modPack (fun p => { p with ilk := c, winOk := (p.winOk || decide (s.cclk < p.claimAt)) && c == 0 }) s
  let s := if was && !outEnabled s then raise 0x0B05 (c.setWidth 32) (w32 (s.seq.k % s.hdr.m)) (w32 s.seq.tick) s else s
  outRefresh s

/-- An edge on ILK_IN, as its synchroniser passes it on. -/
def execIlkInEdge (s : State) : Res :=
  .next (setIlk 1 (modPack (fun p => { p with ilkEdge := s.cclk }) { s with pins := { s.pins with ilkIn := !s.pins.ilkIn } }))

/-- Have 768 ticks passed since the last edge of a line that reads CLAIM? -/
def ilkLapsed (s : State) : Bool := s.pack.ilk == 1 && decide (s.pack.ilkEdge + 768 < s.cclk)

/-- The line reads as its level once 768 ticks have passed without an edge. -/
def execIlkClaimLapse (s : State) : Res :=
  .next (if ilkLapsed s then setIlk (if s.pins.ilkIn then 2 else 0) s else s)

/-- Does the unit claim? It does so from the result tick of its ROLE_STEP (R364). -/
def claimNow (s : State) : Bool := s.pack.claiming && decide (s.pack.claimAt ≤ s.cclk)

/-- The level of ILK_OUT: high at the claim start, toggled every 256 ticks, low while the unit does not claim (R360). -/
def ilkOut (s : State) : Bool := claimNow s && (s.cclk - s.pack.claimAt) / 256 % 2 == 0

end Sys2Proof.Machine
end

