-- ==== Sys2Proof/Machine/Role.lean ====
section
/-! DEFINITION. Sys2Proof/Machine/Role.lean: the Collar, role swap, fall-back to voting and the role steps (R363 to R382). -/

namespace Sys2Proof.Machine

/-! ### Role changes (R365, Table 11-12). -/

/-- The holder gives up the Collar: it stops claiming and sends RELEASE for LEASE pack cycles (R365). Reasons: 0 SAFE-HOLD, 1 SWAP,
2 YIELD, 3 VOTING. -/
def releaseCollar (reason : Nat) (s : State) : State :=
  if s.pack.holder then
    let s := modPack (fun p => { p with
      holder := false, claiming := false, yielding := false, actFrom := none, releasing := true, relUntil := s.seq.k + leaseLen s * s.hdr.p }) s
    raise 0x0B01 (w32 reason) (w32 (pcyc s)) 0 s
  else s

/-- A claim that has not led to the Collar ends. -/
def dropClaim (s : State) : State :=
  modPack (fun p => { p with window := false, winOk := false, claiming := p.claiming && p.holder, dupClaim := false }) s

/-- End the swap in progress with a reason (R373): the event, the mailbox, the time of the next offer. -/
def swapAbort (reason : Nat) (s : State) : State :=
  let w := s.pack.swap
  if w.state = 0 ∨ w.state = 1 then s
  else
    let why : Word := match (linkOf s 0).latest with
      | some b => b.reason.setWidth 32
      | none => 0
    let s := modPack (fun p => { p with swap := { retry := s.cclk + 400000000 * packFld s 0x10 4, merid := w.merid, reason := BitVec.ofNat 8 reason, abortAt := some (pcyc s) } }) s
    if w.partner then s
    else
      let s := raise 0x0B0A (w32 reason) (w32 w.at_) why s
      match w.mbx with
      | some m => completeMbx m rcAborted s
      | none => s

/-- A pending duplex request ends (R379). -/
def dupEnd (ok : Bool) (s : State) : State :=
  match s.pack.dup with
  | none => s
  | some d =>
    let s := raise 0x0B10 (w32 d.target) (w32 d.cyc) (w32 (b2n (!ok))) (modPack (fun p => { p with dup := none, dupClaim := false }) s)
    match d.mbx with
    | some m => completeMbx m (if ok then rcDone else rcAborted) s
    | none => s

/-- DESIGN CHOICE (log entry 139): an entry to STANDBY other than the first leaves the observer's classes and slots as they are; R150 does not say that it puts
them back. Entry to STANDBY: the lease is whole again, the episode counts begin afresh; from ACTIVE, EQ_OK is cleared (R363, R370). -/
def enterStandby (s : State) : State :=
  let s := if s.boot.dev = .active then eqClear s else s
  let s := setDev .standby (dropClaim s)
  modPack (fun p => { p with
    leaseLeft := leaseLen s, renewed := false, why := 0, blocked := false, noHold := 0, firstRs := true, voteAt := none, joinAt := none, roleNext := none }) s

/-- Entry to VOTING: a holder gives up the Collar (R376). -/
def enterVoting (s : State) : State :=
  let s := dropClaim (releaseCollar 3 s)
  let s := match s.pack.dup with
    | some d => if d.cyc ≤ pcyc s then dupEnd false s else s
    | none => s
  setDev .voting (modPack (fun p => { p with roleNext := none, joinAt := none }) s)

/-- Entry to SAFE-HOLD (R106, R107, R365). -/
def enterSafeHold (s : State) : State :=
  let old := s.boot.dev
  let s := dupEnd false (swapAbort 3 (dropClaim (releaseCollar 0 s)))
  let s := if old = .active then eqClear s else s
  let s := setDev .safeHold (modPack (fun p => { p with roleNext := none, joinAt := none, voteAt := none }) s)
  raise 0x0142 (s.boot.reasons.setWidth 32) (w32 (devCode old)) (w32 (s.seq.k % s.hdr.m)) s

/-- Entry to ACTIVE at a frame boundary. -/
def enterActive (s : State) : State :=
  let s := setDev .active (modPack (fun p => { p with roleNext := none, actFrom := some s.cclk }) s)
  match s.pack.dup with
  | some d => if d.target = unitCode s ∧ d.cyc ≤ pcyc s then dupEnd true s else s
  | none => s

/-- The role changes of this chapter at a frame boundary (Table 11-12); SAFE-HOLD reasons have been applied before. -/
def roleBoundary (s : State) : State :=
  let c := pcyc s
  let cycle := s.seq.k % s.hdr.p = 0
  let serving := s.boot.dev = .standby ∨ s.boot.dev = .active
  let s :=
    if serving ∧ cycle ∧ s.pack.voteAt = some c then enterVoting s
    else if s.boot.dev = .standby ∧ cycle ∧ s.pack.joinAt = some c then
      raise 0x0B0F (w32 (unitCode s)) (w32 c) 0 (enterVoting s)
    else if s.boot.dev = .voting ∧ cycle ∧ (s.pack.dup.map (fun d => d.cyc)) = some c then
      let s := enterStandby s
      if (s.pack.dup.map (fun d => d.target)) = some (unitCode s) then modPack (fun p => { p with dupClaim := true }) s else s
    else if s.boot.dev = .active ∧ cycle ∧ s.pack.swap.state = 4 ∧ !s.pack.swap.partner ∧ s.pack.swap.at_ = c then
      let s := enterStandby (releaseCollar 1 s)
      modPack (fun p => { p with swap := { p.swap with switched := true } }) s
    else if s.boot.dev = .active ∧ s.pack.yielding then enterStandby (releaseCollar 2 s)
    else match s.pack.roleNext with
      | some .active => if s.boot.dev = .standby then enterActive s else s
      | _ => s
  outRefresh (modPack (fun p => { p with roleNext := none }) s)

/-- The PACK and CHARTID reasons clear once a full pack cycle has passed without a Bark that sets them (R105, R346). -/
def barkReasons (s : State) : State :=
  let old (o : Option Nat) : Bool := match o with
    | some c => decide (c + 2 ≤ pcyc s)
    | none => false
  let s := [0, 1, 2].foldl (fun s k => modLink k (fun l => { l with
    unexp := if old l.unexp then none else l.unexp, mism := if old l.mism then none else l.mism }) s) s
  let any (f : LeashLink → Option Nat) : Bool := [0, 1, 2].any (fun k => (f (linkOf s k)).isSome)
  let s := if any (fun l => l.mism) then s else clearReason 2 s
  if any (fun l => l.unexp) || s.pack.strapErr then s else clearReason 4 s

/-- At the seal the unit is judged (R344): an invalid one sets the PACK reason until the next reset. -/
def judgeUnit (s : State) : State :=
  if unitValid s then s
  else raise 0x0B12 0 0 (w32 s.pins.unitSel.toNat) (setReason 4 s.seq.k (modPack (fun p => { p with strapErr := true }) s))

/-! ### Step 1: Barks, links, lease (R357, R363, R365). -/

/-- Read one link: its complete Bark, whether it is new, how long it stays fresh. -/
def readLink (k : Nat) (s : State) : State :=
  modLink k (fun l =>
    let l := settleLink s l
    let isNew := match l.cur with
      | some b => l.seen != some b.bseq
      | none => false
    { l with
      seen := l.cur.map (fun b => b.bseq), latest := l.cur
      fresh := if isNew then leaseLen s else l.fresh - 1
      lost := if isNew then l.lost else l.lost + 1 }) s

/-- The new Barks of this ROLE_STEP by link. -/
abbrev NewBarks := List (Nat × Bark)

def newOn (n : NewBarks) (k : Nat) : Option Bark := (n.find? (fun p => p.1 = k)).map (fun p => p.2)

def newBarks (before after : State) : NewBarks :=
  (activeLinks after).filterMap (fun k =>
    match (linkOf after k).cur with
    | some b => if (linkOf before k).seen != some b.bseq then some (k, b) else none
    | none => none)

/-- The lease of a unit that is not the holder (R363): the holder's link is LSH0, and on M3 either link; why it expires is the reason a takeover reports. -/
def countLease (n : NewBarks) (s : State) : State :=
  let from_ : NewBarks := if s.boot.chartRole && s.pins.unitSel == 2 then n else n.filter (fun p => p.1 == 0)
  let coll := from_.any (fun p => p.2.collar)
  let rel := from_.any (fun p => p.2.release)
  let s := if coll then modPack (fun p => { p with releasing := false }) s else s
  if s.pack.holder then s
  else if coll then modPack (fun p => { p with leaseLeft := leaseLen s, renewed := true, blocked := false }) s
  else if rel then modPack (fun p => { p with leaseLeft := 0, why := if p.swap.takes then 3 else 2 }) s
  else if s.pack.leaseLeft = 0 then s
  else modPack (fun p => { p with leaseLeft := p.leaseLeft - 1, why := if p.leaseLeft = 1 then (if p.renewed then 1 else 0) else p.why }) s

/-- LEASE_EXPIRED: the last count of the lease of a unit that is not the holder. -/
def execLeaseExpired (s : State) : Res :=
  if s.pack.holder ∨ s.pack.leaseLeft ≠ 1 then .next s
  else .next (modPack (fun p => { p with leaseLeft := 0, why := if p.renewed then 1 else 0 }) s)

/-- The count of M3's trigger 4: ROLE_STEPs without a new Bark with COLLAR from M1 or M2 (Table 11-11). -/
def countNoHold (n : NewBarks) (s : State) : State :=
  let seen := n.any (fun p => p.2.collar && (p.2.code == 1 || p.2.code == 2))
  modPack (fun p => { p with noHold := if seen then 0 else p.noHold + 1 }) s

/-! ### Step 3: ILK_FAULT (Table 11-11). -/

def ilkStep (n : NewBarks) (s : State) : State :=
  if isDuplex s && linkActive s 0 then
    let cls := s.pack.ilk
    let b0 := newOn n 0
    let bad := match b0 with
      | some b => b.claim != (cls == 1)
      | none => false
    let run := if bad then s.pack.misRun + 1 else 0
    let fault := cls == 2 || decide (2 ≤ run)
    let first := fault && !s.pack.ilkFault
    let s := modPack (fun p => { p with misRun := run, ilkFault := fault }) s
    if first then raise 0x0B04 (if cls = 2 then 0 else 1) (w32 (b2n ((b0.map (fun b => b.claim)).getD false))) (cls.setWidth 32) s else s
  else s

/-! ### Step 4: fall-back (R375, R376, R378). -/

/-- The link to M3, and the partner's code. -/
def linkM3 (s : State) : Nat := if s.pins.unitSel = 0 then 1 else 2

/-- Is the holder in Collar conflict? (R366) -/
def conflict (n : NewBarks) (s : State) : Bool :=
  s.pack.holder && (((newOn n 0).map (fun b => b.collar)).getD false || s.pack.ilk == 1)

/-- The first trigger of Table 11-11; 0 is none. DEDUCED (log entry 150): a latest Bark shows COLLAR only while it is fresh; the last Bark of a holder that has
failed would otherwise turn every takeover into a fall-back, which R375 rules out. -/
def fallTrigger (n : NewBarks) (s : State) : Nat :=
  let u := s.pins.unitSel.toNat
  let seesPartner : Bool := match (linkOf s (linkM3 s)).latest with
    | some b => b.peers.getLsbD (1 - u)
    | none => false
  let collarOf (k : Nat) : Bool := ((steppedBark s k).map (fun b => b.collar)).getD false
  let both := if u = 2 then collarOf 1 && collarOf 2 else s.pack.holder && collarOf 0
  if u < 2 ∧ (linkOf s 0).fresh = 0 ∧ seesPartner then 1
  else if u < 2 ∧ s.pack.ilkFault then 2
  else if conflict n s || both then 3
  else if u = 2 ∧ s.boot.dev = .standby ∧ 2 * leaseLen s ≤ s.pack.noHold ∧ !s.pack.actSeen.contains 1 ∧ !s.pack.actSeen.contains 2 then 4
  else 0

/-- Start the fall-back: VOTE_AT is two cycles on (R376). -/
def startFall (why : Nat) (s : State) : State :=
  let v := pcyc s + 2
  raise 0x0B0E (w32 why) (w32 v) (w32 (unitCode s)) (modPack (fun p => { p with voteAt := some v, fallWhy := BitVec.ofNat 8 why }) s)

/-- The earliest VOTE_AT that new FALLBACK Barks name. A STANDBY unit takes it from a VOTING sender only when it has seen that sender
before the set voted; one that comes later rejoins (R378). -/
def seenVoteAt (before : State) (n : NewBarks) (s : State) : Option Nat :=
  let knew (k : Nat) : Bool := match steppedBark before k with
    | some b => b.role != 2
    | none => false
  leastOf ((n.filter (fun (p : Nat × Bark) => p.2.fallback && (p.2.role != 2 || s.boot.dev == .active || knew p.1))).map (fun p => p.2.atCyc.toNat))

/-- Step 4; whether it acts. -/
def fallStep (before : State) (n : NewBarks) (s : State) : State × Bool :=
  if !isTriplex s || !(s.boot.dev == .standby || s.boot.dev == .active) then (s, false)
  else
    let c := pcyc s
    let pending := match s.pack.voteAt with
      | some v => decide (c < v)
      | none => false
    let rejoining := s.boot.dev == .standby && !(votingCodes s).isEmpty
    let why := if pending || rejoining then 0 else fallTrigger n s
    let s := if why = 0 then s else startFall why s
    let s := match seenVoteAt before n s with
      | none => s
      | some v =>
        let v := if v ≤ c then c + 1 else v
        let v := match s.pack.voteAt with
          | some w => if c < w then min v w else v
          | none => v
        modPack (fun p => { p with voteAt := some v }) s
    let pending := match s.pack.voteAt with
      | some v => decide (c < v)
      | none => false
    (if pending then swapAbort 3 s else s, pending)

/-! ### Step 5: duplex restore (R379). -/

def dupStep (n : NewBarks) (s : State) : State × Bool :=
  let c := pcyc s
  let asked := n.find? (fun p => p.2.duplexReq && decide (c < p.2.atCyc.toNat))
  let s := match s.pack.dup, asked with
    | none, some p => modPack (fun x => { x with dup := some { target := p.2.target.toNat, cyc := p.2.atCyc.toNat, mbx := none } }) s
    | _, _ => s
  match s.pack.dup with
  | none => (s, false)
  | some d =>
    -- the result, as the named unit's Barks show it
    let theirs := (n.find? (fun p => p.2.code.toNat = d.target)).map (fun p => p.2)
    let s := match theirs with
      | some b => if d.cyc < c + 1 ∧ b.role = 1 then dupEnd true s else if d.cyc < c + 1 ∧ b.fallback then dupEnd false s else s
      | none => s
    let s := if s.pack.dupClaim then modPack (fun p => { p with leaseLeft := 0, why := 4 }) s else s
    (s, false)

/-! ### Step 6: Collar conflict (R366). -/

def conflictStep (n : NewBarks) (s : State) : State × Bool :=
  if conflict n s then
    let yield := !isTriplex s && s.pins.unitSel == 1
    let s := raise 0x0B02 (w32 (linkPeer s 0)) (w32 (unitCode s)) (if isTriplex s then 2 else w32 (b2n yield)) s
    (swapAbort 3 (if yield then modPack (fun p => { p with yielding := true }) s else s), true)
  else (s, false)

/-! ### Step 7: swap (R371 to R374). -/

/-- The first condition of R371 that fails; 0 when a swap may be offered. -/
def swapBlock (s : State) : Nat :=
  let b := (linkOf s 0).latest
  let ready := match b with
    | some b => b.role == 0 && b.dstate == 6 && b.eqOk
    | none => false
  let theirFault := (b.map (fun b => b.ilkFault)).getD false
  let man := s.boot.chartRole
  if !ready then 1
  else if !(linkOf s 0).up then 2
  else if s.pack.ilkFault || theirFault then 3
  else if man && (s.modes.m.ho || !s.modes.flrLim.isEmpty || s.modes.hold) then 4
  else if man && s.modes.ca.any (fun p => p.2.alarm) then 5
  else if s.pack.voteAt.isSome || s.pack.dup.isSome then 6
  else 0

/-- Offer a swap (cycle c0). -/
def swapOffer (mbx : Option Nat) (s : State) : State :=
  let c := pcyc s
  let s := modPack (fun p => { p with swap := { p.swap with state := 2, c0 := c, at_ := c + 4, partner := false, answer := 0, switched := false, takes := false, deferred := false, mbx := mbx } }) s
  raise 0x0B08 (w32 (c + 4)) (w32 (linkPeer s 0)) (w32 (actSec s)) s

/-- SWAP_DEFER, with the first failing condition. -/
def swapDeferred (why : Nat) (s : State) : State := raise 0x0B0B (Config.layoutWord 11 [why]) (w32 (actSec s)) 0 s

/-- A due swap whose conditions fail is deferred, recorded once per episode. -/
def swapDefer (why : Nat) (s : State) : State :=
  let first := !s.pack.swap.deferred
  let s := modPack (fun p => { p with swap := { p.swap with state := 1, deferred := true } }) s
  if first then swapDeferred why s else s

/-- The holder's steps before the switch. -/
def swapHolder (n : NewBarks) (s : State) : State :=
  let w := s.pack.swap
  let c := pcyc s
  if w.state = 2 ∧ c = w.c0 + 2 then
    (match newOn n 0 with
     | some b => if b.accept then modPack (fun p => { p with swap := { p.swap with state := 4 } }) s
                 else if b.decline then swapAbort 1 s else swapAbort 2 s
     | none => swapAbort 2 s)
  else if w.state = 2 ∨ w.state = 4 then s
  else
    let asked := match w.req with
      | some r => decide (r.1 ≤ s.seq.k)
      | none => false
    match (if asked then w.req else none) with
    | some r =>
      let s := modPack (fun p => { p with swap := { p.swap with req := none } }) s
      let why := swapBlock s
      if why = 0 then swapOffer (some r.2) s else completeMbx r.2 rcState (swapDeferred why s)
    | none =>
      let merid := s.seq.k / s.hdr.m + 1
      if bitOf (packFld s 7 1) 2 && w.merid != merid then
        let s := modPack (fun p => { p with swap := { p.swap with merid := merid } }) s
        if packFld s 0x0C 4 ≤ actSec s ∧ w.retry ≤ s.cclk then
          let why := swapBlock s
          if why = 0 then swapOffer none s else swapDefer why s
        else s
      else s

/-- The old holder's step after the switch: SWAP_DONE, or the Collar taken back (R373). -/
def swapAfter (n : NewBarks) (s : State) : State :=
  let w := s.pack.swap
  if pcyc s < w.at_ + 1 then s
  else if ((newOn n 0).map (fun b => b.collar)).getD false then
    let s := modPack (fun p => { p with swap := { merid := w.merid } }) s
    let s := raise 0x0B09 (w32 (unitCode s)) (w32 (linkPeer s 0)) (w32 w.at_) s
    match w.mbx with
    | some m => completeMbx m rcDone s
    | none => s
  else
    modPack (fun p => { p with leaseLeft := 0, why := 6 }) (swapAbort 4 s)

/-- The partner's steps (Table 11-10). -/
def swapPartner (n : NewBarks) (s : State) : State :=
  let w := s.pack.swap
  let c := pcyc s
  let b0 := newOn n 0
  let standby := s.boot.dev = .standby
  match b0 with
  | some b =>
    if b.offer then
      let why : Nat := if !standby then 1 else if !s.pack.eqOk then 2 else if !(linkOf s 0).up then 3 else if s.pack.ilk ≠ 0 then 4 else 0
      modPack (fun p => { p with swap := { p.swap with
        state := if why = 0 then 3 else 0, partner := true, c0 := c - 1, at_ := b.atCyc.toNat, answer := if why = 0 then 1 else 2, reason := BitVec.ofNat 8 why, takes := false } }) s
    else if w.partner ∧ w.state = 3 ∧ b.commit ∧ c < w.at_ then modPack (fun p => { p with swap := { p.swap with state := 4, takes := true } }) s
    else if w.partner ∧ (w.at_ ≤ c ∨ (w.state = 3 ∧ w.at_ ≤ c + 1)) then
      -- a renewing Bark at S keeps the unit STANDBY
      modPack (fun p => { p with swap := { merid := w.merid } }) s
    else s
  | none => if w.partner ∧ (w.at_ ≤ c ∨ (w.state = 3 ∧ w.at_ ≤ c + 1)) then modPack (fun p => { p with swap := { merid := w.merid } }) s else s

/-- A ROLE-SWAP request of a unit that does not hold the Collar is refused (R374). -/
def swapRefuse (s : State) : State :=
  match s.pack.swap.req with
  | some r => if r.1 ≤ s.seq.k then completeMbx r.2 rcState (modPack (fun p => { p with swap := { p.swap with req := none } }) s) else s
  | none => s

def swapStep (n : NewBarks) (s : State) : State :=
  if s.pack.swap.switched then swapAfter n s
  else if s.pack.holder ∧ s.boot.dev = .active then swapHolder n s
  else swapPartner n (swapRefuse s)

/-! ### Step 8: takeover and rejoin (R364, R367, R378). -/

/-- Begin to claim at the result tick of this ROLE_STEP, 24 ticks on: the window of 768 ticks runs from there. -/
def claimStart (s : State) : State :=
  outRefresh (modPack (fun p => { p with window := true, winOk := p.ilk == 0, claiming := true, claimAt := s.cclk + 24, blocked := false }) s)

/-- A claim of a duplex restore that fails raises trigger 3 (R379). -/
def dupFailed (s : State) : State :=
  if s.pack.dupClaim then startFall 3 (dupEnd false s) else s

def takeStep (s : State) : State :=
  let st := s.boot.dev
  if !isDuplex s then
    if st = .standby ∧ s.pack.firstRs then
      let s := modPack (fun p => { p with firstRs := false, roleNext := some .active }) s
      raise 0x0B00 5 (w32 (b2n s.pack.eqOk)) (w32 (pcyc s)) s
    else s
  else if st ≠ .standby then s
  else if !(votingCodes s).isEmpty then
    (if s.pack.eqOk ∧ s.pack.joinAt = none then modPack (fun p => { p with joinAt := some (pcyc s + 1) }) s else s)
  else if s.pins.unitSel = 2 ∨ s.pack.holder ∨ s.pack.window ∨ s.pack.leaseLeft ≠ 0 then s
  else if s.pack.ilk ≠ 0 ∨ s.pack.actSeen.contains (linkPeer s 0) then
    let first := !s.pack.blocked
    let cause : Word := if s.pack.ilk ≠ 0 then 0 else 1
    let s := modPack (fun p => { p with blocked := true }) s
    let s := if first then raise 0x0B03 cause (w32 (pcyc s)) 0 s else s
    dupFailed s
  else claimStart s

/-- 768 ticks after the claim start (R364). -/
def claimEnd (s : State) : State :=
  if !s.pack.window then s
  else if s.pack.winOk ∧ s.pack.ilk = 0 ∧ s.boot.dev = .standby then
    let s := modPack (fun p => { p with window := false, holder := true, releasing := false, blocked := false, roleNext := some .active, swap := { p.swap with takes := false } }) s
    outRefresh (raise 0x0B00 (s.pack.why.setWidth 32) (w32 (b2n s.pack.eqOk)) (w32 (pcyc s)) s)
  else
    let upper := s.pins.unitSel == 1
    let s := dupFailed (modPack (fun p => { p with window := false, winOk := false, claiming := false }) s)
    outRefresh (if upper then modPack (fun p => { p with leaseLeft := leaseLen s }) s else s)

/-- Has the claim window passed? -/
def windowOver (s : State) : Bool := s.pack.window && decide (s.pack.claimAt + 768 ≤ s.cclk)

def execCollarClaimWindowEnd (s : State) : Res := .next (if windowOver s then claimEnd s else s)

/-! ### ROLE_STEP (R380). -/

/-- Single reset commands held since the previous ROLE_STEP are refused in VOTING (R383). -/
def refuseHeld (s : State) : State :=
  [0, 1, 2].foldl (fun s k => match (linkOf s k).cmdIn with
    | some c => resetRefused c (modLink k (fun l => { l with cmdIn := none }) s)
    | none => s) s

def roleStepEffect (s : State) : State :=
  let before := s
  -- 1
  let s := (activeLinks s).foldl (fun s k => readLink k s) s
  let n := newBarks before s
  let s := countNoHold n (countLease n s)
  let s := eqGain (eqLose s)
  -- 2: an invalid unit, or a wrong Bark, suppresses the rest
  let bad := s.pack.strapErr || n.any (fun p => p.2.code.toNat ≠ linkPeer s p.1)
  -- 3
  let s := ilkStep n s
  let s :=
    if bad then s
    else
      let f := fallStep before n s
      let d := dupStep n f.1
      let c := if f.2 then (if conflict n d.1 then (conflictStep n d.1).1 else d.1, true) else conflictStep n d.1
      if c.2 then c.1 else takeStep (swapStep n c.1)
  let s := refuseHeld s
  modPack (fun p => { p with actSeen := [] }) s

def execRoleStep (s : State) : Res := issue 0x0F 0 (opWord 0x0F 2 0) roleStepEffect s

/-! ### Commands (R374, R379). -/

/-- ROLE-SWAP: latched, it makes a swap due at the next ROLE_STEP (R374). -/
def roleSwapHandler (mbx : Nat) (s : State) : State :=
  let w := s.pack.swap
  if w.req.isSome ∨ w.state = 2 ∨ w.state = 3 ∨ w.state = 4 then completeMbx mbx rcBusy s
  else modPack (fun p => { p with swap := { p.swap with req := some (latchFrame s, mbx) } }) s

def execRoleSwap (mbx : BitVec 4) (s : State) : Res := .next (roleSwapHandler mbx.toNat s)

/-- Is a MANAGER unit VOTING, or STANDBY with EQ_OK, in this unit's view? -/
def dupReady (s : State) (code : Nat) : Bool :=
  if code = unitCode s then s.boot.dev == .voting
  else (activeLinks s).any (fun k => match freshBark s k with
    | some b => b.code.toNat == code && (b.role == 2 || (b.dstate == 6 && b.eqOk))
    | none => false)

/-- Has a unit no ILK_FAULT in this unit's view? -/
def dupClean (s : State) (code : Nat) : Bool :=
  if code = unitCode s then !s.pack.ilkFault
  else (activeLinks s).all (fun k => match freshBark s k with
    | some b => b.code.toNat != code || !b.ilkFault
    | none => true)

/-- Is LSH0 up? M3, which has no LSH0, judges by whether the two units see each other. -/
def lsh0Up (s : State) : Bool :=
  if s.pins.unitSel = 2 then
    (match freshBark s 1, freshBark s 2 with
     | some a, some b => a.peers.getLsbD 1 && b.peers.getLsbD 0
     | _, _ => false)
  else (linkOf s 0).up

/-- PACK-DUPLEX (R379). -/
def packDuplexHandler (mbx unit : Nat) (s : State) : State :=
  if unit ≠ 1 ∧ unit ≠ 2 then completeMbx mbx rcRange s
  else if s.pack.dup.isSome then completeMbx mbx rcBusy s
  else if s.boot.dev = .voting ∧ dupReady s 1 ∧ dupReady s 2 ∧ lsh0Up s ∧ dupClean s 1 ∧ dupClean s 2 then
    modPack (fun p => { p with dup := some { target := unit, cyc := pcyc s + 4, mbx := some mbx } }) s
  else completeMbx mbx rcState s

def execPackDuplex (mbx : BitVec 4) (unit : BitVec 8) (s : State) : Res := .next (packDuplexHandler mbx.toNat unit.toNat s)

/-! ### Registers (R388). -/

def packCfg (s : State) : Word :=
  if s.boot.sealed then w32 (65536 * packId s + 256 * s.pins.unitSel.toNat + (if unitValid s then unitCode s else 0)) else w32 (256 * s.pins.unitSel.toNat)

def packStat (s : State) : Word :=
  let p := s.pack
  let pend := match p.voteAt with
    | some v => s.boot.dev != .voting && decide (pcyc s < v)
    | none => false
  w32 (16777216 * (p.leaseLeft % 256) + 262144 * p.swap.state.toNat + bit8 p.dup.isSome 17 + bit8 pend 16 + 512 * (peersOf s).toNat + bit8 p.eqOk 8
    + bit8 (outEnabled s) 7 + bit8 (claimNow s && p.ilk != 1) 6 + 16 * p.ilk.toNat + bit8 p.ilkFault 3 + bit8 (claimNow s) 2 + bit8 p.holder 0)

def lshStat (s : State) (k : Nat) : Word :=
  let l := linkOf s k
  let b := lastBark s k
  w32 (16777216 * l.lost.toNat + 65536 * ((b.map (fun b => b.code.toNat)).getD 0) + 4096 * ((b.map (fun b => b.dstate.toNat % 16)).getD 0)
    + bit8 l.unexp.isSome 3 + bit8 (decide (0 < l.fresh)) 2 + bit8 l.aligned 1 + bit8 l.up 0)

def lshErr (s : State) (k : Nat) : Word := w32 (65536 * (linkOf s k).codeErr.toNat + (linkOf s k).crcErr.toNat)

/-- The pack registers by offset from 0x0005_0000. -/
def packReg (s : State) (o : Nat) : Option Word :=
  let w := s.pack.psw
  match o with
  | 0x00 => some (packCfg s)
  | 0x04 => some (packStat s)
  | 0x08 => some (w32 (actSec s))
  | 0x0C => some (w32 (pendCycle s))
  | 0x10 => some (lshStat s 0)
  | 0x14 => some (lshStat s 1)
  | 0x18 => some (lshStat s 2)
  | 0x20 => some (lshErr s 0)
  | 0x24 => some (lshErr s 1)
  | 0x28 => some (lshErr s 2)
  | 0x30 => some (w.link.setWidth 32)
  | 0x34 => some w.dup
  | 0x38 => some (w32 (65536 * w.alien.toNat + w.bad.toNat))
  | 0x3C => some (w32 (65536 * w.wFwd.toNat + w.wLoc.toNat))
  | 0x40 => some (w32 (65536 * s.pack.eqRx.toNat + s.pack.eqDisc.toNat))
  | 0x44 => some (w32 (65536 * w.lost3.toNat + 256 * w.lost2.toNat + w.lost1.toNat))
  | _ => none

end Sys2Proof.Machine
end

