-- ==== Sys2Proof/Machine/Power.lean ====
section
/-! DEFINITION. Sys2Proof/Machine/Power.lean: power domains, SLEEP and its wake, the debug attach that can wake the device, the board
rail sequencer and the PMBus poll (R510, R511, R516 to R529). -/

namespace Sys2Proof.Machine

def modPwr (f : Pwr → Pwr) (s : State) : State := { s with pwr := f s.pwr }

def modSec (f : Sec → Sec) (s : State) : State := { s with sec := f s.sec }

/-! ### Domains (R516, R518, R520). -/

/-- A domain that was waking is usable; at the wake of ANA the running FCE channels of its modulators restart (R518). -/
def wakeDone (d : Domain) (s : State) : State :=
  if s.pwr.waking &&& domMask d = 0 then s
  else
    let s := modPwr (fun p => { p with waking := p.waking &&& ~~~ domMask d, wakeDue := tset 0 p.wakeDue (domBit d) 0 }) s
    if d = .ana then fceAnaWake s else s

/-- W_D ticks after its wake started, and not before, a domain is usable (R516). -/
def execDomainWakeComplete (d : Domain) (s : State) : Res := .next (if tget 0 s.pwr.wakeDue (domBit d) ≤ s.cclk then wakeDone d s else s)

/-- Mailbox numbers whose command, POSTED or RUNNING, belongs to a handler group of the given set. -/
def mbxOfGroups (s : State) (p : Nat → Bool) : List Nat :=
  (List.range 16).filter (fun n =>
    let m := mbxOf s n
    (m.state == .posted || m.state == .running) && p (payByte m 1))

/-- Complete the commands of handler groups with ABORTED, each recorded (R479). -/
def abortGroups (p : Nat → Bool) (s : State) : State :=
  (mbxOfGroups s p).foldl (fun s n => abortMbx n s) s

/-- What the handlers of a domain still hold when it is reset: requests latched for a later boundary (R479). -/
def dropRequests (d : Domain) (s : State) : State :=
  match d with
  | .nav => { s with nav := { s.nav with reqs := [] } }
  | .qps => { s with qps := { s.qps with capReqs := [] } }
  | .ioe => { s with ports := { s.ports with can := (List.range 8).foldl (fun t c => tmod {} t c (fun x => { x with views := [] })) s.ports.can } }
  | .ana => { s with loops := { s.loops with clears := [], hart := (List.range 40).foldl (fun t p => tmod {} t p (fun h => { h with pass := none })) s.loops.hart } }
  | .sec =>
    let s := tearFuses s
    { s with sec := { s.sec with holdQueue := [], applying := none }, pwr := { s.pwr with sleepReq := none } }

/-- The power-good monitor of a powered domain falls (R520): the domain counts as gated until the next reset, and the commands of
its handler groups complete ABORTED. -/
def execPwrDomainFault (d : Domain) (s : State) : Res :=
  if (s.pwr.gated ||| s.pwr.faulted) &&& domMask d != 0 then .next s
  else
    let s := modPwr (fun p => { p with faulted := p.faulted ||| domMask d, waking := p.waking &&& ~~~ domMask d, wakeDue := tset 0 p.wakeDue (domBit d) 0 }) s
    let s := raise 0x0F0A (w32 (domBit d)) (w32 (devCode s.boot.dev)) 0 s
    .next (dropRequests d (abortGroups (fun g => groupDomain g == some d) s))

/-! ### SLEEP (R521, R522). -/

/-- PTP time in whole seconds, from the counter. -/
def ptcSecs (s : State) : Nat := ptcNs s / 1000000000

/-- The domains that SLEEP gates: QPS, NAV, ANA, SEC. -/
def sleepMask : BitVec 5 := 0b11011

/-- The SLEEP command at its latch (R501, R521). -/
def sleepHandler (mbx mask gpio level secs : Nat) (s : State) : State :=
  let poster := (mbxOf s mbx).poster
  if poster ≠ 2 ∧ ¬ (poster = 1 ∧ s.sec.hostauth) then completeMbx mbx rcDenied s
  else if s.boot.dev ≠ .standby ∨ bitOf (fld8 s .pwrt 0 0x10) 0 = false then completeMbx mbx rcState s
  else if mask = 0 ∨ 8 ≤ mask ∨ 64 ≤ gpio ∨ 2 ≤ level ∨ (bitOf mask 0 ∧ secs * 1000000000 ≤ ptcNs s) then completeMbx mbx rcRange s
  else modPwr (fun p => { p with sleepReq := some { mask := mask, gpio := gpio, level := level == 1, secs := secs, due := latchFrame s, mbx := mbx } }) s

def execSleep (mbx : BitVec 4) (mask gpio level : BitVec 8) (secs : BitVec 48) (s : State) : Res :=
  .next (sleepHandler mbx.toNat mask.toNat gpio.toNat level.toNat secs.toNat s)

/-- At its boundary an accepted SLEEP takes effect (R521); a device that has left STANDBY by then does not sleep. -/
def sleepBoundary (s : State) : State :=
  match s.pwr.sleepReq with
  | none => s
  | some r =>
    if s.seq.k < r.due then s
    else
      let s := modPwr (fun p => { p with sleepReq := none }) s
      if s.boot.dev ≠ .standby then completeMbx r.mbx rcState s
      else
        let s := modPwr (fun p => { p with sleepArmed := some r, sleepAt := s.cclk, gated := p.gated ||| sleepMask, waking := 0, wakeDue := [] })
          { s with seq := { s.seq with run := false } }
        completeMbx r.mbx rcDone (raise 0x0F08 (w32 r.mask) (w32 r.secs) 0 (setDev .sleep s))

def wakeCode : WakeCause → Nat
  | .time => 1 | .mailbox => 2 | .gpio => 3 | .debug => 4

/-- Does this wake event end the SLEEP in force (R522)? The level of a GPIO and the tick of a time are the event's own. -/
def wakes (c : WakeCause) (s : State) : Bool :=
  match s.pwr.sleepArmed with
  | none => false
  | some r => match c with
    | .time => bitOf r.mask 0 && decide (r.secs ≤ ptcSecs s)
    | .mailbox => bitOf r.mask 1 && (List.range 16).any (fun n => (mbxOf s n).state == .posted && (mbxOf s n).poster == 1)
    | .gpio => bitOf r.mask 2
    | .debug => s.sec.heldReq.isSome

/-- A wake event reaches CCLK (R522): the gated domains wake, and 80,000 ticks later the device enters SYNC. -/
def sleepWake (c : WakeCause) (s : State) : State :=
  if s.boot.dev = .sleep ∧ s.pwr.wakeAt = none ∧ wakes c s then
    let s := modPwr (fun p => { p with wakeAt := some (s.cclk + 80000), wakeCnt := p.wakeCnt + 1, wakeCause := BitVec.ofNat 3 (wakeCode c) }) s
    startWake sleepMask (raise 0x0F09 (w32 (wakeCode c)) (w32 ((s.cclk - s.pwr.sleepAt) / 400000000)) 0 s)
  else s

def execSleepWake (c : WakeCause) (s : State) : Res := .next (sleepWake c s)

/-! ### Debug attach (R510, R511). -/

/-- The cell of Table 15-8 as DBG_ATTACH and DBG_REFUSED report it. -/
def dbgCell (s : State) : Nat := lcState s * 256 + powerState s * 16 + roleCode s.boot.dev

/-- Judge a request for a level in the present cell (R510). -/
def dbgJudge (req : BitVec 2) (s : State) : State :=
  let perm := dbgPermitted s
  if perm < req.toNat then
    raise 0x0F03 (w32 req.toNat) (w32 perm) (w32 (dbgCell s)) (modSec (fun c => { c with refused := true }) s)
  else
    let s := raise 0x0F02 (w32 req.toNat) (w32 perm) (w32 (dbgCell s)) (modSec (fun c => { c with refused := false, attaches := c.attaches + 1 }) s)
    if req.toNat < s.sec.level.toNat then dbgLower req.toNat 0 s else modSec (fun c => { c with level := req }) s

/-- Does an attach attempt wake a sleeping device (W of Table 15-8)? -/
def attachWakes (s : State) : Bool := lcState s == 1 || (lcState s == 3 && !keyLive s)

/-- DBG_ATTACH: in SLEEP the attempt wakes the device and is held, or is refused (R511). -/
def execDbgAttach (req : BitVec 2) (s : State) : Res :=
  if s.boot.dev = .sleep then
    if attachWakes s then .next (sleepWake .debug (modSec (fun c => { c with heldReq := some req }) s))
    else .next (raise 0x0F03 (w32 req.toNat) 0 (w32 (dbgCell s)) (modSec (fun c => { c with refused := true }) s))
  else .next (dbgJudge req s)

/-- CORE's clocks have stood since the entry to SLEEP (R521): its mailbox times, and those of the recorder, go on from where they were. -/
def wakeClocks (s : State) : State :=
  let on (t : Nat) : Nat := min s.cclk (t + (s.cclk - s.pwr.sleepAt))
  let s := (List.range 16).foldl (fun s n => setMbx n { mbxOf s n with touched := on (mbxOf s n).touched } s) s
  { s with recd := { s.recd with writeAt := on s.recd.writeAt, hsp := { s.recd.hsp with loadAt := on s.recd.hsp.loadAt }, mep := { s.recd.mep with loadAt := on s.recd.mep.loadAt } } }

/-- 80,000 ticks after the wake the device enters SYNC, the domains usable; a held attach is judged (R511, R518, R522). -/
def execWakeSyncEntry (s : State) : Res :=
  match s.boot.dev, s.pwr.wakeAt with
  | .sleep, some t =>
    let s := elapse (t - s.cclk) s
    let s := [Domain.qps, .nav, .ana, .sec].foldl (fun s d => wakeDone d s) (startWake sleepMask s)
    let s := wakeClocks (fceSleepWake s)
    let s := modPwr (fun p => { p with wakeAt := none, sleepArmed := none }) { s with boot := { s.boot with syncTmo := false, phaseAt := s.cclk } }
    let s := setDev .sync s
    match s.sec.heldReq with
    | some r => .next (dbgJudge r (modSec (fun c => { c with heldReq := none }) s))
    | none => .next s
  | _, _ => .next s

/-! ### Board rails (R524 to R527). -/

def railOf (s : State) (n : Nat) : Rail := tget {} s.brs.rails n
def modRail (n : Nat) (f : Rail → Rail) (s : State) : State := { s with brs := { s.brs with rails := tmod {} s.brs.rails n f } }

def railCnt (s : State) : Nat := min 12 (fld8 s .pwrt 0 0x11)
def railFlag (s : State) (n i : Nat) : Bool := decide (n < railCnt s) && bitOf (railFld s n 0 1) i
def railUsed (s : State) (n : Nat) : Bool := railFlag s n 0
def railRank (s : State) (n : Nat) : Nat := railFld s n 1 1

/-- The used rails of a rank. -/
def rankRails (s : State) (r : Nat) : List Nat := (List.range 12).filter (fun n => railUsed s n && railRank s n == r)

/-- The lowest used rank from r upward. -/
def nextRank (s : State) (r : Nat) : Option Nat := (List.range 12).find? (fun q => decide (r ≤ q) && !(rankRails s q).isEmpty)

/-- Every rail of a rank is ON or FAILED. -/
def rankSettled (s : State) (r : Nat) : Bool := (rankRails s r).all (fun n => (railOf s n).state == .on || (railOf s n).state == .failed)

/-- Once the last used rank has settled, the sequence is complete (BRS_STAT.RANK 0xF). -/
def rankEnd (s : State) : State :=
  if s.brs.begun && s.brs.rank != 15 && rankSettled s s.brs.rank && (nextRank s (s.brs.rank + 1)).isNone then
    { s with brs := { s.brs with rank := 15 } }
  else s

/-- A rail turns ON; its VOUT_MODE is read anew (R526). -/
def railOn (n : Nat) (s : State) : State := rankEnd (modRail n (fun x => { x with pg := true, state := .on, vmode := none }) s)

/-- The rank that starts now: the lowest at the seal, a later one when the lower is settled; an inner none where no rank is left. -/
def rankStarts (s : State) : Option (Option Nat) :=
  if s.boot.sealed = false then none
  else if s.brs.begun = false then some (nextRank s 0)
  else if s.brs.rank ≠ 15 ∧ rankSettled s s.brs.rank then (nextRank s (s.brs.rank + 1)).map some
  else none

/-- A rail's EN is high: it is ON when its PG has been high for PG_FILT, and otherwise waits for it from now (R524). -/
def railWait (n : Nat) (s : State) : State :=
  modRail n (fun x => { x with en := true, raised := true, state := if x.pg then .on else .waitPg, waitAt := s.cclk, vmode := none }) s

/-- The next rank starts. A rail whose EN is already high is ON or waits for its PG at once (R524). -/
def execBrsRankStart (s : State) : Res :=
  match rankStarts s with
  | none => .next s
  | some none => .next { s with brs := { s.brs with begun := true, rank := 15 } }
  | some (some q) =>
    let s := { s with brs := { s.brs with begun := true, rank := q, rankAt := s.cclk } }
    .next (rankEnd ((rankRails s q).foldl (fun s n => if (railOf s n).en then railWait n s else s) s))

/-- Is it DELAY_US after the start of a rail's rank, its EN not yet raised by the sequence? -/
def railDue (s : State) (n : Nat) : Bool :=
  s.boot.sealed && s.brs.begun && railUsed s n && railRank s n == s.brs.rank && !(railOf s n).en && !(railOf s n).raised
    && decide (s.brs.rankAt + 400 * railFld s n 4 2 ≤ s.cclk)

/-- DELAY_US after the start of its rank, a rail's EN rises (R524). -/
def execBrsRailEnable (n : Fin 12) (s : State) : Res :=
  if railDue s n.val then .next (rankEnd (railWait n.val s)) else .next s

/-- PG has been high for PG_FILT: a waiting rail is ON (R524). -/
def execBrsPgGood (n : Fin 12) (s : State) : Res :=
  .next (if s.boot.sealed && (railOf s n).state == .waitPg then railOn n s else modRail n (fun x => { x with pg := true }) s)

/-- Has PG_TMO passed in WAIT_PG? -/
def pgLate (s : State) (n : Nat) : Bool :=
  s.boot.sealed && (railOf s n).raised && (railOf s n).state == .waitPg && decide ((railOf s n).waitAt + 400000 * railFld s n 3 1 ≤ s.cclk)

/-- PG_TMO has passed in WAIT_PG (R524). -/
def execBrsPgTmo (n : Fin 12) (s : State) : Res :=
  if pgLate s n.val then
    .next (rankEnd (raise 0x0F0B (w32 n) (w32 (railRank s n)) 0 (modRail n (fun x => { x with state := .failed, failedAt := s.cclk }) s)))
  else .next s

/-- PG has been low for PG_FILT: an ON rail is FAILED (R525). -/
def execBrsPgLost (n : Fin 12) (s : State) : Res :=
  if s.boot.sealed && (railOf s n).state == .on && (railOf s n).en then
    .next (raise 0x0F0C (w32 n) 0 0 (modRail n (fun x => { x with pg := false, state := .failed, failedAt := s.cclk }) s))
  else .next (modRail n (fun x => { x with pg := false }) s)

/-- PG has been high for PG_FILT: a FAILED rail is ON again (R525). -/
def execBrsPgBack (n : Fin 12) (s : State) : Res :=
  if s.boot.sealed && (railOf s n).state == .failed then
    .next (railOn n (raise 0x0F0D (w32 n) (w32 ((s.cclk - (railOf s n).failedAt) / 400000)) 0 s))
  else .next (modRail n (fun x => { x with pg := true }) s)

/-- May this write of BRS_RAILCMD be applied (R527)? -/
def railCmdOk (s : State) (w : Word) : Bool :=
  railFlag s (w.toNat % 16) 3 && (roleCode s.boot.dev == 0 || roleCode s.boot.dev == 3)

/-- The effect of an applied write of BRS_RAILCMD (R527, R531). -/
def railCmd (master : Nat) (w : Word) (s : State) : State :=
  if w.getLsbD 31 then
    let n := w.toNat % 16
    let on := w.getLsbD 8
    let s := if on then (if (railOf s n).en then s else railWait n s) else modRail n (fun x => { x with en := false, state := .forcedOff }) s
    rankEnd (raise 0x0F0F (w32 n) (w32 (b2n on)) (w32 master) s)
  else s

/-! ### PMBus (R526). -/

/-- The LINEAR16 value with the exponent of VOUT_MODE, as UFX -16. -/
def linear16 (mode w : Nat) : Word :=
  if mode / 32 ≠ 0 then nanWord else (ufxOf ((w : Rat) * pow2 (signedOf 5 (mode % 32))) (-16)).getD nanWord

/-- A LINEAR11 value at an SFX exponent. -/
def linear11 (e : Int) (w : Nat) : Word :=
  (sfxOf (((signedOf 11 (w % 2048) : Int) : Rat) * pow2 (signedOf 5 (w / 2048))) e).getD nanWord

/-- A transfer that failed twice: recorded and counted (R526). -/
def pmbFail (n cmd : Nat) (r : PmbRead) (s : State) : State :=
  match r with
  | .ok _ => s
  | .noAck => go 0 s
  | .badPec => go 1 s
where
  go (kind : Nat) (s : State) : State :=
    raise 0x0F0E (w32 n) (w32 cmd) (w32 kind) (modRail n (fun x => { x with pmbFails := satHalfInc x.pmbFails }) s)

/-- A word of a transfer; one that failed is the NaN code. -/
def pmbWord (f : Nat → Word) : PmbRead → Word
  | .ok w => f w.toNat
  | _ => nanWord

/-- Poll one rail. Before VOUT_MODE has been read the exponent of VOUT is not known: the word is a free value. -/
def pmbRail (s : State) (a : PmbRail) : State :=
  let n := a.rail
  if !railUsed s n || !railFlag s n 2 then s
  else
    let ask := (railOf s n).state == .on && (railOf s n).vmode.isNone
    let s := if ask then (match a.mode with
      | .ok w => modRail n (fun x => { x with vmode := some w }) s
      | r => pmbFail n 0x20 r s) else s
    let s := pmbFail n 0x79 a.status (pmbFail n 0x8D a.temp (pmbFail n 0x8C a.iout (pmbFail n 0x8B a.vout s)))
    let vout := match (railOf s n).vmode with
      | some m => pmbWord (linear16 (m.toNat % 256)) a.vout
      | none => pmbWord (fun w => Config.layoutWord 16 [w]) a.vout
    landDirect 0x30 n [vout, pmbWord (linear11 (-16)) a.iout, pmbWord (linear11 (-8)) a.temp, pmbWord w32 a.status] (nowNs s) s

/-- The poll periods that have passed since the seal. -/
def pollTimes (s : State) : Nat := (s.cclk - s.boot.sealAt) / (400000 * max 1 (fld16 s .pwrt 0 0x12))

/-- Every PMB_PERIOD ms from the seal the PMBus rails are read in rail order and their records landed. -/
def execPmbPoll (reads : List PmbRail) (s : State) : Res :=
  .next (if s.boot.sealed && decide (s.brs.polls < pollTimes s) then
    let s := { s with brs := { s.brs with polls := pollTimes s } }
    (List.range 12).foldl (fun s n => (reads.filter (fun a => a.rail == n)).foldl pmbRail s) s else s)

/-! ### SEC_READ and PWR_READ (R529). -/

/-- SEC_READ: the security group of Table 15-14. -/
def execSecRead (s : State) : Res :=
  issue 0x2F 0 (opWord 0x2F 1 0) (fun s =>
    let f := fld32 s .pwrt 0 0x14
    if bitOf f 31 then s
    else writeList (f % 2 ^ 17) [(w32 (lcState s), qGood), (w32 s.sec.level.toNat, qGood), (w32 (b2n s.sec.hostauth), qGood), (w32 (b2n (keyLive s)), qGood)] (opTime s 6) s) s

/-- A mask of the rails in a state. -/
def railMask (s : State) (st : RailState) : Nat := ((List.range 12).map (fun n => b2n ((railOf s n).state == st) * 2 ^ n)).foldl (· + ·) 0

/-- PWR_READ: the power group of Table 15-14. -/
def execPwrRead (s : State) : Res :=
  issue 0x30 0 (opWord 0x30 1 0) (fun s =>
    let f := fld32 s .pwrt 0 0x18
    if bitOf f 31 then s
    else writeList (f % 2 ^ 17) [(w32 (railMask s .on), qGood), (w32 (railMask s .failed), qGood), (w32 s.pwr.faulted.toNat, qGood)] (opTime s 6) s) s

/-! ### Registers (R531). -/

def railStateCode : RailState → Nat
  | .off => 0 | .waitPg => 1 | .on => 2 | .failed => 3 | .forcedOff => 4

def pwrReg (s : State) (o : Nat) : Option Word :=
  if o = 0 then some (w32 (65536 * powerState s + 1024 * s.pwr.faulted.toNat + 32 * s.pwr.waking.toNat + (s.pwr.gated ||| s.pwr.faulted).toNat))
  else if o = 4 then some (w32 (65536 * s.pwr.wakeCnt.toNat + s.pwr.wakeCause.toNat))
  else if o = 0x10 then
    some (w32 (2 ^ 24 * (s.brs.rank % 16) + 4096 * railMask s .failed + ((List.range 12).map (fun n => b2n (railOf s n).pg * 2 ^ n)).foldl (· + ·) 0))
  else if o = 0x14 then some 0
  else if 0x40 ≤ o ∧ o < 0x70 ∧ o % 4 = 0 then
    let x := railOf s ((o - 0x40) / 4)
    some (w32 (65536 * x.pmbFails.toNat + 4 * railStateCode x.state + 2 * b2n x.pg + b2n x.en))
  else none

end Sys2Proof.Machine
end

