-- ==== Sys2Proof/Machine/Rec.lean ====
section
/-! DEFINITION. Sys2Proof/Machine/Rec.lean: the recorder's log, the log scan, and the reading of records (R463, R466 to R472). -/

namespace Sys2Proof.Machine

def modRecd (f : Recorder → Recorder) (s : State) : State := { s with recd := f s.recd }

/-- The first 28 bytes of a record (Table 14-2). -/
def recHead (r : Rec) : List Byte :=
  leBytes 2 r.code.toNat ++ [r.flags, r.source] ++ leBytes 4 r.seq.toNat ++ leBytes 8 r.time.toNat
    ++ leBytes 4 r.p0.toNat ++ leBytes 4 r.p1.toNat ++ leBytes 4 r.p2.toNat

/-- The 32 bytes of a record: its CRC-32 stands last. -/
def recBytes (r : Rec) : List Byte := recHead r ++ leBytes 4 (crc32 (recHead r))

/-- The eight window words of 32 bytes. -/
def recWords (b : List Byte) : List Word := (List.range 8).map (fun i => w32 (leNat ((b.drop (4 * i)).take 4)))

/-- Records in the log (R467). -/
def logRecs (s : State) : Nat := 2 ^ s.recd.log2

/-- Log address of a sequence number (R467). -/
def logAddr (s : State) (seq : Nat) : Nat := 32 * (seq % logRecs s)

/-- The 32 bytes of log slot i. -/
def logSlot (s : State) (i : Nat) : List Byte := memBytes logBlank s.logMem (32 * i) 32

/-- Does a slot's content carry the CRC of its bytes? -/
def slotOk (b : List Byte) : Bool := leNat (b.drop 28) == crc32 (b.take 28)

/-- SEQ of a slot's content. -/
def slotSeq (b : List Byte) : Nat := leNat ((b.drop 4).take 4)

/-- Write one staged record whole, oldest first (R469). -/
def writeOldest (s : State) : State :=
  match s.recd.staging with
  | [] => s
  | r :: l => modRecd (fun x => { x with staging := l, writeAt := s.cclk, tickEvs := [], base := none }) { s with logMem := memPut logBlank s.logMem (logAddr s r.seq.toNat) (recBytes r) }

/-- Write staged records until at most n have been written. -/
def writeStaged : Nat → State → State
  | 0, s => s
  | n + 1, s => writeStaged n (writeOldest s)

/-- The longest time of a record write in ticks: 400 ns in 8D-8D-8D, 7.2 µs in 1S-1S-1S (R469). -/
def writeTicks (s : State) : Nat := if s.recd.bus = 2 then 2880 else 160

/-- The longest time of a cursor load in ticks: 2 µs in 8D-8D-8D, 16 µs in 1S-1S-1S (R471). -/
def loadTicks (s : State) : Nat := if s.recd.bus = 2 then 6400 else 800

/-- May a record be written: there is a log, the clocks run, and the flush of a reset has not ended (R469, R470, R521)? -/
def mayWrite (s : State) : Bool := s.recd.hasLog && !s.recd.staging.isEmpty && s.boot.dev != .sleep && (s.boot.dev != .reset || !s.boot.flushDone)

/-- A staged record has been written: the longest time has passed; a load is served between two writes. -/
def writeOver (s : State) : Bool :=
  mayWrite s && decide (s.recd.writeAt + writeTicks s + loadTicks s * (b2n (s.recd.hsp.wstat == 1) + b2n (s.recd.mep.wstat == 1)) ≤ s.cclk)

/-- REC_RECORD_WRITE: a staged record has been written. Without a log nothing is written; a flush that has ended writes no more
(R466, R469, R470); in SLEEP the clocks of CORE stand (R521). -/
def execRecRecordWrite (s : State) : Res :=
  if mayWrite s then .next (writeOldest s) else .next s

/-! ### The log scan (R467, R468). -/

/-- rd(i) of the scan. -/
def logRd (s : State) (i : Nat) : Option Nat :=
  let b := logSlot s i
  if slotOk b && slotSeq b % logRecs s == i then some (slotSeq b) else none

/-- The bisection of the scan, by fuel. -/
def scanLoop (s : State) (r0 : Nat) : Nat → Nat → Nat → Nat
  | 0, lo, _ => lo
  | n + 1, lo, hi =>
    if hi - lo ≤ 1 then lo
    else
      let mid := (lo + hi) / 2
      match logRd s mid with
      | some m => if (m + 2 ^ 32 - r0) % 2 ^ 32 = mid then scanLoop s r0 n mid hi else scanLoop s r0 n lo mid
      | none => scanLoop s r0 n lo mid

/-- The next SEQ, and how many records have been numbered since the log was blank (at least LOG_RECS when the log has gone round).
Without a log both are 0. -/
def logScan (s : State) : Nat × Nat :=
  if s.recd.hasLog = false then (0, 0)
  else
    let l := logRecs s
    match logRd s 0 with
    | none => match logRd s (l - 1) with
      | some m => ((m + 1) % 2 ^ 32, l)
      | none => (0, 0)
    | some r0 =>
      let lo := scanLoop s r0 32 0 l
      let head := (((logRd s lo).getD r0) + 1) % 2 ^ 32
      (head, if (logRd s (l - 1)).isSome then l else min head (lo + 1))

/-! ### Reading records (R471, R472). -/

/-- REC_OLDEST. -/
def recOldest (s : State) : Word :=
  s.recd.head - BitVec.ofNat 32 (if s.recd.hasLog then min s.recd.numbered (logRecs s) else min s.recd.staging.length 4096)

def bankOf (s : State) (m : Master) : RecBank := match m with
  | .hsp => s.recd.hsp
  | .mep => s.recd.mep

def setBank (m : Master) (b : RecBank) (s : State) : State := match m with
  | .hsp => modRecd (fun x => { x with hsp := b }) s
  | .mep => modRecd (fun x => { x with mep := b }) s

/-- A write of REC_CURSOR starts a load into the master's window. -/
def startLoad (m : Master) (seq : Word) (s : State) : State := setBank m { cursor := seq, wstat := 1, loadAt := s.cclk, win := [] } s

/-- How a load of SEQ q ends: its status and the window. Without a record the spec states no window content: free words. -/
def loadResult (s : State) (q : Word) : BitVec 3 × List Word :=
  let free := (List.range 8).map (fun i => (Config.freeWord (s.draws + i)).setWidth 32)
  if s.recd.head.toNat ≤ q.toNat then (4, free)
  else if q.toNat < (recOldest s).toNat then (3, free)
  else match s.recd.staging.find? (fun r => r.seq = q) with
    | some r => (2, recWords (recBytes r))
    | none =>
      let b := logSlot s (q.toNat % logRecs s)
      if s.recd.hasLog = false ∨ slotSeq b ≠ q.toNat then (3, free)
      else if slotOk b then (2, recWords b) else (5, recWords b)

/-- Has a load taken its longest time? -/
def loadOver (s : State) (m : Master) : Bool := (bankOf s m).wstat == 1 && s.boot.dev != .sleep && decide ((bankOf s m).loadAt + loadTicks s ≤ s.cclk)

/-- REC_LOAD_COMPLETE: within the longest time of a load. -/
def execRecLoadComplete (m : Master) (s : State) : Res :=
  let b := bankOf s m
  if b.wstat ≠ 1 then .next s
  else
    let r := loadResult s b.cursor
    .next (setBank m { b with wstat := r.1, win := r.2 } { s with draws := s.draws + 8 })

/-- The REC registers (Table 14-10); window words of a load in progress read 0. -/
def recReg (s : State) (m : Master) (o : Nat) : Option Word :=
  let b := bankOf s m
  if o = 0x00 then some (w32 (2 ^ 31 * b2n s.recd.hasLog + 2 ^ 29 * s.recd.bus.toNat + s.recd.staging.length))
  else if o = 0x04 then some s.recd.head
  else if o = 0x08 then some (recOldest s)
  else if o = 0x0C then some (w32 (65536 * s.recd.lostPre.toNat + s.recd.lostStage.toNat))
  else if o = 0x10 then some (w32 s.recd.log2)
  else if o = 0x20 then some b.cursor
  else if o = 0x24 then some (w32 b.wstat.toNat)
  else if 0x40 ≤ o ∧ o < 0x60 ∧ o % 4 = 0 then some (if b.wstat = 1 then 0 else b.win.getD ((o - 0x40) / 4) 0)
  else none

/-! ### The EVM registers and its own rows (R455, R458 to R460, R489). -/

/-- The sticky bits that the pins show: the changes of a tick show on the tick after (R459). -/
def stickyShown (s : State) : Tab Word := if s.evm.shownAt = s.cclk then s.evm.shown else s.evm.sticky

/-- Is a sticky bit set whose slot's ACT has the given bit? -/
def stickyWith (s : State) (bit : Nat) : Bool :=
  (List.range 256).any (fun n => bitOf (tget 0 (stickyShown s) (n / 32)).toNat (n % 32) && bitOf (evmtFld s n 2 1) bit)

/-- From entry to RESET until the seal and throughout FAULT the five pins are asserted (R459). -/
def pinsForced (s : State) : Bool := !s.boot.sealed || s.boot.dev == .fault

/-- Is ALMp asserted (low)? -/
def almPin (s : State) (p : Nat) : Bool := pinsForced s || stickyWith s (4 + p)

/-- Is HOST_IRQ asserted (low)? -/
def irqPin (s : State) : Bool := pinsForced s || stickyWith s 3

def evmReg (s : State) (o : Nat) : Option Word :=
  if o = 0 then
    some (w32 (65536 * s.evm.raised.toNat + 16 * b2n (irqPin s) + ((List.range 4).map (fun p => b2n (almPin s p) * 2 ^ p)).foldl (· + ·) 0))
  else if 0x100 ≤ o ∧ o < 0x120 ∧ o % 4 = 0 then some (tget 0 s.evm.sticky ((o - 0x100) / 4))
  else if 0x400 ≤ o ∧ o < 0x800 ∧ o % 4 = 0 then
    let e := evSlot s ((o - 0x400) / 4)
    some (w32 (65536 * e.supp.toNat + e.raised.toNat))
  else none

/-- The sticky bits of EVT_STICKYi whose slots have been raised on the present tick. -/
def raisedNow (s : State) (i : Nat) : Word :=
  match s.recd.base with
  | none => 0
  | some b =>
    if s.recd.tickAt ≠ s.cclk then 0
    else
      let slots := s.recd.tickEvs.map (fun e => if s.boot.sealed then evSlotOf s e.code else 255)
      slots.foldl (fun w n => if n / 32 = i then w ||| BitVec.ofNat 32 (2 ^ (n % 32)) else w) (tget 0 s.evm.sticky i &&& ~~~ tget 0 b.sticky i)

/-- Clear sticky bits by a mask; the bit of a slot that is raised on the same tick stays as it is (R458). -/
def clearSticky (i : Nat) (mask : Word) (s : State) : State :=
  let keep := raisedNow s i
  let s := keepShown (closeTick s)
  { s with evm := { s.evm with sticky := tmod 0 s.evm.sticky i (fun w => w &&& (~~~ mask ||| keep)) } }

/-- EVM_CHECK of a slot (R455). Only a slot with a Chart code has a check; another operand is outside the table region (R55). -/
def execEvmCheck (slot : BitVec 8) (s : State) : Res :=
  let w := opWord 0x2C 1 slot.toNat
  issue 0x2C 0 w (fun s =>
    let n := slot.toNat
    let code := evmtFld s n 0 2
    if code < 0xF000 ∨ 0xF0FF < code then breach 0x0107 w s
    else
      let sig := evmtFld s n 8 4 % 2 ^ 17
      let now := sigTrue s sig
      let edge := bitOf (evmtFld s n 3 1) 1
      let was := tget false s.evm.edges n
      let s' := { s with evm := { s.evm with edges := tset false s.evm.edges n now } }
      if now && (!edge || !was) then raise code (sigW s sig) ((sigQ s sig).setWidth 32) (w32 (s.seq.k % s.hdr.m)) s' else s') s

/-- Is a refill time of a slot's bucket to be taken into it? -/
def refillDue (s : State) (slot : Nat) : Bool := s.boot.sealed && evmtFld s slot 6 2 != 0 && decide ((evSlot s slot).refills < refillTimes s slot)

/-- A slot's bucket gains a token every REFILL ms from the seal, up to CAP (R460). -/
def execEvtTokenRefill (slot : BitVec 8) (s : State) : Res :=
  if refillDue s slot.toNat then .next (settleBucket slot.toNat (closeTick s)) else .next s

end Sys2Proof.Machine
end

