-- ==== Sys2Proof/Machine/Sec.lean ====
section
/-! DEFINITION. Sys2Proof/Machine/Sec.lean: keys, tokens, life-cycle transitions, HOLD, the debug halt, boundary scan (R491 to R515, R530). -/

namespace Sys2Proof.Machine

/-- The bytes of an ASCII label. -/
def labelBytes : List Nat → List Byte := fun l => l.map (BitVec.ofNat 8)

/-- The text of the key derivation after the key (R495). -/
def kdfText (label : List Byte) : List Byte := beBytes 4 1 ++ label ++ [0] ++ beBytes 4 0x100

/-- The Chart key, label JCHT; absent while KEY_LIVE is 0 (R495). -/
def chartKey (s : State) : Option (BitVec 256) :=
  if keyLive s then some (Config.kdf s.fuses.devKey (kdfText (labelBytes [0x4A, 0x43, 0x48, 0x54]))) else none

/-- The wrap key, label JKEY. -/
def wrapKey (s : State) : Option (BitVec 256) :=
  if keyLive s then some (Config.kdf s.fuses.devKey (kdfText (labelBytes [0x4A, 0x4B, 0x45, 0x59]))) else none

/-- Does a public key's hash match the fused hash that KEY_SEL names? A hash treated as absent matches nothing (R493, R499). -/
def hashMatches (s : State) (keySel : Nat) (pub : List Byte) : Bool :=
  let h := Config.sha384 pub
  if keySel = 0 then !s.fuses.ownerBad && h == s.fuses.ownerHash
  else keySel == 1 && !s.fuses.rootBad && h == s.fuses.rootHash

/-- Is KEY_SEL accepted for a Chart in the present life cycle (Table 15-2)? -/
def chartKeySel (s : State) (k : Nat) : Bool := k == 0 || (k == 1 && (lcState s == 1 || lcState s == 3))

/-- Draw a new token nonce (R500). -/
def newNonce (s : State) : State := { s with draws := s.draws + 1, sec := { s.sec with tnonce := Config.freeWord s.draws } }

/-- Clear the token buffer (R501). -/
def tokClear (s : State) : State := modSec (fun c => { c with tokBuf := [], tokOwner := 0, tokLen := 0 }) s

/-! ### Token commands (R501). -/

/-- TOKEN_LOAD at its latch. -/
def tokenLoadHandler (mbx off len : Nat) (data : List Byte) (s : State) : State :=
  let poster := (mbxOf s mbx).poster
  if poster ≠ 1 ∧ poster ≠ 2 then completeMbx mbx rcDenied s
  else if s.sec.tokOwner ≠ 0 ∧ s.sec.tokOwner ≠ poster then completeMbx mbx rcBusy s
  else if len = 0 ∨ 48 < len ∨ 512 < off + len then completeMbx mbx rcRange s
  else completeMbx mbx rcDone (modSec (fun c => { c with tokBuf := memPut 0 c.tokBuf off (data.take len), tokOwner := poster, tokLen := max c.tokLen (off + len) }) s)

def execTokenLoad (mbx : BitVec 4) (off : BitVec 16) (len : BitVec 8) (data : List (BitVec 8)) (s : State) : Res :=
  .next (tokenLoadHandler mbx.toNat off.toNat len.toNat data s)

/-- TOKEN_APPLY at its latch: the checks begin (R500); only the owner of the buffer may ask. -/
def tokenApplyHandler (mbx : Nat) (s : State) : State :=
  let poster := (mbxOf s mbx).poster
  if poster = 0 ∨ s.sec.tokOwner ≠ poster then completeMbx mbx rcDenied s
  else if s.sec.applying.isSome then completeMbx mbx rcBusy s
  else modSec (fun c => { c with applying := some mbx }) s

def execTokenApply (mbx : BitVec 4) (s : State) : Res := .next (tokenApplyHandler mbx.toNat s)

def tokenClearHandler (mbx : Nat) (s : State) : State :=
  let poster := (mbxOf s mbx).poster
  if poster = 0 ∨ s.sec.tokOwner ≠ poster then completeMbx mbx rcDenied s else completeMbx mbx rcDone (tokClear s)

def execTokenClear (mbx : BitVec 4) (s : State) : Res := .next (tokenClearHandler mbx.toNat s)

/-! ### HOLD (R505). -/

/-- Set or clear the COMMAND reason as the HOLD request and the halt stand, with effect at the present boundary. -/
def commandReason (s : State) : State := if s.sec.holdReq || s.sec.halted then setReason 3 s.seq.k s else clearReason 3 s

/-- Apply a HOLD or RELEASE. who is the mailbox, or 16 plus the master of a token. -/
def holdApply (on : Bool) (who : Nat) (s : State) : State :=
  let master := if who < 16 then (mbxOf s who).poster else who - 16
  let s := commandReason (modSec (fun c => { c with holdReq := on }) s)
  let s := raise 0x0F07 (w32 (b2n on)) (w32 master) (s.boot.reasons.setWidth 32) s
  if who < 16 then completeMbx who rcDone s else s

/-- A HOLD or RELEASE is latched for a boundary; where no frames run it acts from its latch (R482, R505). -/
def holdLatch (on : Bool) (who : Nat) (s : State) : State :=
  if s.seq.run then modSec (fun c => { c with holdQueue := c.holdQueue ++ [(on, latchFrame s, who)] }) s else holdApply on who s

def holdHandler (mbx : Nat) (on : Bool) (s : State) : State :=
  if (mbxOf s mbx).poster ≠ 2 then completeMbx mbx rcDenied s else holdLatch on mbx s

def execHold (mbx : BitVec 4) (s : State) : Res := .next (holdHandler mbx.toNat true s)
def execHoldRelease (mbx : BitVec 4) (s : State) : Res := .next (holdHandler mbx.toNat false s)

/-- The HOLD and RELEASE commands of this boundary, in the order they were latched. -/
def holdBoundary (s : State) : State :=
  let now := s.sec.holdQueue.filter (fun q => decide (q.2.1 ≤ s.seq.k))
  let s := modSec (fun c => { c with holdQueue := c.holdQueue.filter (fun q => !decide (q.2.1 ≤ s.seq.k)) }) s
  now.foldl (fun s q => holdApply q.1 q.2.2 s) s

/-! ### The checks of a token (R498 to R500). -/

def tokByte (s : State) (i : Nat) : Byte := tget 0 s.sec.tokBuf i
def tokNum (s : State) (i n : Nat) : Nat := leNat (memBytes 0 s.sec.tokBuf i n)
def tokType (s : State) : Nat := (tokByte s 5).toNat
def tokBody (s : State) : Nat := tokNum s 0x1C 4

/-- BODY_LEN of a token type (Table 15-4). -/
def bodyOf (t : Nat) : Nat := if t = 1 then 80 else 0

/-- Is a type accepted in the present life-cycle state and device state? -/
def tokAccepted (s : State) (t : Nat) : Bool :=
  let lc := lcState s
  match t with
  | 1 => lc == 0
  | 2 => lc == 1
  | 3 => lc == 1 || lc == 2
  | 4 => lc == 3
  | 5 => decide (lc ≤ 3)
  | 6 | 7 => decide (1 ≤ lc ∧ lc ≤ 3)
  | 8 | 9 => s.boot.sealed
  | _ => false

/-- Is KEY_SEL accepted for a type in the present state? -/
def tokKeySel (s : State) (t k : Nat) : Bool :=
  let lc := lcState s
  match t with
  | 4 => decide (k ≤ 1)
  | 5 => if lc = 0 then k == 1 else if lc = 2 then k == 0 else decide (k ≤ 1)
  | 6 => if lc = 2 then k == 0 else decide (k ≤ 1)
  | _ => k == 0

/-- ARG as Table 15-4 has it. -/
def tokArg (t a : Nat) : Bool := if t = 6 then a == 2 || a == 3 else a == 0

/-- The code with which the checks end (R500, R502). -/
def tokVerdict (s : State) : Half :=
  let t := tokType s
  let b := tokBody s
  let pub := memBytes 0 s.sec.tokBuf (0x20 + b) 96
  let sig := memBytes 0 s.sec.tokBuf (0x80 + b) 96
  let known := decide (1 ≤ t ∧ t ≤ 9)
  if memBytes 0 s.sec.tokBuf 0 4 ≠ labelBytes [0x4A, 0x54, 0x4F, 0x4B] ∨ tokByte s 4 ≠ 1 ∨ 0xE0 + b ≠ s.sec.tokLen
      ∨ (known ∧ (b ≠ bodyOf t ∨ tokArg t (tokNum s 0x18 4) = false)) then 0x0F10#16
  else if tokAccepted s t = false then 0x0F11#16
  else if s.fuses.uidBad ∨ tokNum s 0x08 8 ≠ s.fuses.uid.toNat then 0x0F12#16
  else if tokNum s 0x10 8 ≠ s.sec.tnonce.toNat then 0x0F13#16
  else
    let k := tokNum s 0x06 2
    let hashOk := if t = 1 then Config.sha384 pub == BitVec.ofNat 384 (tokNum s 0x20 48) else hashMatches s k pub
    if tokKeySel s t k = false ∨ hashOk = false ∨ Config.ecdsaOk pub (Config.sha384 (memBytes 0 s.sec.tokBuf 0 (0x20 + b))) sig = false then 0x0F14#16
    else rcDone

/-- The effect of an accepted token. A transition stays in progress: its command is left to the reset that follows (R504). -/
def tokEffect (mbx master t arg : Nat) (owner : BitVec 384) (key : BitVec 256) (s : State) : State :=
  if t ≤ 5 then modSec (fun c => { c with lct := some { ttype := t, mbx := mbx, owner := owner, key := key, at_ := s.cclk } }) s
  else
    let s :=
      if t = 6 then dbgSettle 3 (modSec (fun c => { c with grant := BitVec.ofNat 2 arg }) s)
      else if t = 7 then raise 0x0F10 (w32 master) 0 0 (modSec (fun c => { c with hostauth := true }) s)
      else holdLatch (t == 8) (16 + master) s
    completeMbx mbx rcDone s

/-- Has a token been under check for 4 ms (R501)? -/
def tokenLate (s : State) : Bool := s.sec.applying.any (fun n => decide ((mbxOf s n).touched + 1600000 ≤ s.cclk)) && s.boot.dev != .sleep

/-- The checks finish: the result, a new nonce, an empty buffer; an accepted token takes effect (R500). -/
def execTokenApplyDone (s : State) : Res :=
  match s.sec.applying with
  | none => .next s
  | some mbx =>
    let master := s.sec.tokOwner
    let t := tokType s
    let arg := tokNum s 0x18 4
    let owner := BitVec.ofNat 384 (tokNum s 0x20 48)
    let key := BitVec.ofNat 256 (tokNum s 0x50 32)
    let code := tokVerdict s
    let s := newNonce (tokClear (modSec (fun c => { c with applying := none, tokResult := code, tokType := BitVec.ofNat 4 t }) s))
    if code = rcDone then .next (tokEffect mbx master t arg owner key s)
    else .next (completeMbx mbx code (raise 0x0F01 (w32 t) (code.setWidth 32) (w32 master) s))

/-! ### Life-cycle transitions (R504). -/

/-- The state a transition commands. -/
def lcTarget (s : State) (t : Nat) : Nat := if t = 1 then 1 else if t = 2 then 2 else if t = 3 then 3 else if t = 5 then 4 else lcState s

/-- How many staged records write-through empties in 2 ms: all of them in 8D-8D-8D, at least 277 in 1S-1S-1S (R470); how many more is
open. -/
def flushNow (s : State) : State :=
  if s.recd.hasLog = false then s
  else if s.recd.bus = 1 then writeStaged 4096 s
  else writeStaged (277 + (Config.freeWord s.draws).toNat % 4096) { s with draws := s.draws + 1 }

/-- Has a transition taken its 38 ms (R504)? -/
def transitionLate (s : State) : Bool := s.sec.lct.any (fun r => decide (r.at_ + 15200000 ≤ s.cclk))

/-- LC_TRANSITION: staging is emptied, the fuses are programmed and read back, the transition is recorded and flushed, and a reset
of the POWER-ON row follows with LCT set, its release the device's own (R111, R504). -/
def execLcTransition (stuck : BitVec 4) (s : State) : Res :=
  match s.sec.lct with
  | none => .next s
  | some r =>
    let s := flushNow s
    let old := lcState s
    let want := lcTarget s r.ttype
    let s := { s with fuses := program r stuck s.fuses, sec := { s.sec with lct := none } }
    let s := raise 0x0F00 (w32 old) (w32 (lcState s)) (w32 (256 * r.ttype + b2n (lcState s != want))) s
    let s := enterReset .powerOn true false (flushNow s)
    .next { s with boot := { s.boot with released := true, releaseAt := s.cclk } }

/-! ### Authorisation and debug controls (R506 to R515). -/

/-- SEC_AUTHCTL (R512, R506): bit 1 clears the grant, bit 0 closes HOSTAUTH. -/
def authCtl (w : Word) (s : State) : State :=
  let s := if w.getLsbD 1 then dbgSettle 3 (modSec (fun c => { c with grant := 0 }) s) else s
  if w.getLsbD 0 then modSec (fun c => { c with hostauth := false }) s else s

/-- TRST_N or Test-Logic-Reset returns the level to NONE (R508). -/
def execTapReset (s : State) : Res :=
  let ends := s.sec.level == 3 && (s.sec.halted || s.sec.haltQueue.any (fun q => q.1))
  .next (modSec (fun c => { c with level := 0, bscan := .bypass, haltQueue := if ends then c.haltQueue ++ [(false, latchFrame s)] else c.haltQueue }) s)

/-- Is the device state one in which the outputs are in their boot state and boundary scan may drive them (R509)? -/
def bscanState (d : DevState) : Bool := d == .reset || d == .wipe || d == .load || d == .verify || d == .fault

/-- EXTEST, CLAMP and HIGHZ act from SCAN upward in those states, and as BYPASS otherwise (R508, R509). -/
def scanWith (b : Bscan) (s : State) : State :=
  modSec (fun c => { c with bscan := if bscanState s.boot.dev && decide (1 ≤ c.level.toNat) then b else .bypass }) s

/-- What the tester has shifted into the boundary-scan register, which a level of SCAN reaches (Table 15-7, R556): no row of the table shifts it, so the
cells are a free value (log 129). -/
def loadCells (s : State) : State :=
  if s.sec.level = 0 then s else modSec (fun c => { c with bsCells := Config.scanCells s.draws }) { s with draws := s.draws + 1 }

def execExtest (s : State) : Res := .next (scanWith .extest (loadCells s))
def execClamp (s : State) : Res := .next (scanWith .clamp (loadCells s))
def execHighz (s : State) : Res := .next (scanWith .highz s)

/-! ### The boundary-scan register (R556). -/

/-- The balls of banks 0 to 5 but for JTAG and TEST_EN, in the order of Table 16-1. -/
def bsBalls : List Ball := List.flatten [
  (List.range 64).map Ball.gpio,
  (List.range 16).flatMap (fun n => [Ball.qdcA n, Ball.qdcB n]),
  (List.range 12).flatMap (fun n => [Ball.serTx n, Ball.serRx n, Ball.serDe n]),
  (List.range 8).flatMap (fun n => [Ball.canTx n, Ball.canRx n]),
  [false, true].flatMap (fun l => Ball.xspiClk l :: Ball.xspiCsN l :: Ball.xspiDqs l :: Ball.xspiResetN l :: (List.range 8).map (Ball.xspiDq l)),
  (List.range 4).flatMap (fun n => Ball.gspClk n :: List.append ((List.range 4).map (Ball.gspI n)) ((List.range 4).map (Ball.gspQ n))),
  (List.range 12).flatMap (fun n => [Ball.brsEn n, Ball.brsPg n]),
  [Ball.ppsIn 0, Ball.ppsIn 1, Ball.ppsOut],
  (List.range 8).map Ball.trig,
  [Ball.resetN, Ball.pfailN, Ball.roleSel, Ball.unitSel 0, Ball.unitSel 1],
  [Ball.hspSck, Ball.hspCsN, Ball.hspSdi, Ball.hspSdo, Ball.pmbScl, Ball.pmbSda, Ball.ilkOut, Ball.ilkIn, Ball.hostIrq],
  (List.range 4).map Ball.alj,
  (List.range 4).map Ball.alm]

/-- A ball that is an input only: its output and enable cells have no effect. -/
def Ball.inputOnly : Ball → Bool
  | .qdcA _ | .qdcB _ | .serRx _ | .canRx _ | .gspClk _ | .gspI _ _ | .gspQ _ _ | .brsPg _ | .ppsIn _ | .resetN | .pfailN | .roleSel | .unitSel _
  | .hspSck | .hspCsN | .hspSdi | .ilkIn | .alj _ => true
  | _ => false

/-- A cell of a ball: 0 input, 1 output, 2 enable. Cell 0 of the register is nearest TDO. -/
def bsCell (s : State) (b : Ball) (k : Nat) : Option Bool := (bsBalls.idxOf? b).map (fun i => s.sec.bsCells.getLsbD (3 * i + k))

/-- What boundary scan makes of a ball: none where it leaves the ball to its function; an inner none is high impedance. An enable cell of 1
drives (DESIGN CHOICE, log entry 129). -/
def bsPin (s : State) (b : Ball) : Option (Option Bool) :=
  if b.inputOnly then none
  else match s.sec.bscan, bsCell s b 1, bsCell s b 2 with
    | .bypass, _, _ => none
    | .highz, some _, some _ => some none
    | _, some v, some e => some (if e then some v else none)
    | _, _, _ => none

/-- DBG_CTL (R515): HALT and RESUME at FULL are latched under R74. -/
def dbgCtl (w : Word) (s : State) : State :=
  let s := if w.getLsbD 0 then modSec (fun c => { c with haltQueue := c.haltQueue ++ [(true, latchFrame s)] }) s else s
  if w.getLsbD 1 then modSec (fun c => { c with haltQueue := c.haltQueue ++ [(false, latchFrame s)] }) s else s

def execDbgHalt (s : State) : Res := .next (if s.sec.level = 3 then dbgCtl 1 s else s)
def execDbgResume (s : State) : Res := .next (if s.sec.level = 3 then dbgCtl 2 s else s)

/-- May the store window select this store (Table 15-9)? OBSERVE reaches the SDIR and NAV stores, FULL every store but the keys'. -/
def swinOk (s : State) (w : Word) : Bool :=
  let c := w.toNat % 16
  if s.sec.level = 3 then decide (c ≤ 4) else s.sec.level == 2 && (c == 2 || c == 3)

def dbgSwin (w : Word) (s : State) : State := modSec (fun c => { c with swinCode := w.toNat % 16, swinMib := bitsOf w.toNat 11 8 }) s

/-- DBG_SWIN selects a MiB of a store (R513). -/
def execDbgSwinWrite (w : BitVec 32) (s : State) : Res := .next (if swinOk s w then dbgSwin w s else s)

/-! ### Registers (R530). -/

def secReg (s : State) (o : Nat) : Option Word :=
  let f := s.fuses
  let err := f.uidBad || f.rootBad || f.ownerBad || f.keyBad
  if o = 0x00 then
    some (w32 (1024 * b2n s.sec.hostauth + 512 * b2n (s.sec.tokOwner != 0) + 256 * b2n (f.ownerHash != 0 && !f.ownerBad) + 32 * b2n err
      + 16 * b2n (keyDead s) + 8 * b2n (keyLive s) + lcState s))
  else if o = 0x04 then some (w32 f.uid.toNat)
  else if o = 0x08 then some (w32 (f.uid.toNat / 2 ^ 32))
  else if o = 0x0C then some (w32 s.sec.tnonce.toNat)
  else if o = 0x10 then some (w32 (s.sec.tnonce.toNat / 2 ^ 32))
  else if o = 0x14 then some (w32 (65536 * s.sec.tokResult.toNat + 4096 * s.sec.tokType.toNat + s.sec.tokLen))
  else if o = 0x18 then
    some (w32 (65536 * s.sec.attaches.toNat + 512 * b2n s.sec.halted + 256 * b2n s.pwr.wakeAt.isSome + 64 * s.sec.grant.toNat + 4 * dbgPermitted s + s.sec.level.toNat))
  else if o = 0x1C then some 0
  else if 0x40 ≤ o ∧ o < 0x70 ∧ o % 4 = 0 then some (w32 (f.rootHash.toNat / 2 ^ (8 * (o - 0x40))))
  else if 0x80 ≤ o ∧ o < 0xB0 ∧ o % 4 = 0 then some (w32 (f.ownerHash.toNat / 2 ^ (8 * (o - 0x80))))
  else none

/-- What Capture-DR of DBG_ATTACH returns (R510). -/
def attachCapture (s : State) : Nat := s.sec.level.toNat + 4 * dbgPermitted s + 16 * b2n s.sec.refused + 32 * b2n s.pwr.wakeAt.isSome

end Sys2Proof.Machine
end

