-- ==== Sys2Proof/Machine/Image.lean ====
section
/-! DEFINITION. Sys2Proof/Machine/Image.lean: the Chart image in flash: header, section table, signature block, decryption, and the
container checks of the load-time verifier (R28 to R35, R53, R99, R496). -/

namespace Sys2Proof.Machine

/-- An image as its bytes by offset. -/
abbrev Img := Nat → Byte

/-- What a byte of flash that nothing has written reads as: erased. -/
def flashBlank : Byte := 0xFF#8

/-- Where a copy begins in the flash (R28). -/
def copyBase (copy : Bool) : Nat := if copy then 0x02000000 else 0

/-- A copy as it stands in flash. -/
def flashImg (s : State) (copy : Bool) : Img := fun o => tget flashBlank s.flash (copyBase copy + o)

def ibytes (m : Img) (o n : Nat) : List Byte := (List.range n).map (fun i => m (o + i))
def inum (m : Img) (o n : Nat) : Nat := leNat (ibytes m o n)

/-! ### Header (Table 1-3). -/

def magicOk (m : Img) : Bool := ibytes m 0 4 == labelBytes [0x4A, 0x43, 0x48, 0x54]
def hdrCrcOk (m : Img) : Bool := inum m 0xFC 4 == crc32 (ibytes m 0 0xFC)

/-- A candidate under R33. -/
def isCandidate (m : Img) : Bool := magicOk m && hdrCrcOk m

def iSeq (m : Img) : Nat := inum m 0x18 4
def iRole (m : Img) : Bool := bitOf (inum m 0x07 1) 0
def iEncrypted (m : Img) : Bool := bitOf (inum m 0x1C 4) 0
def iDevOnly (m : Img) : Bool := bitOf (inum m 0x1C 4) 1
def iSectCnt (m : Img) : Nat := inum m 0x38 4
def iSigOff (m : Img) : Nat := inum m 0x40 4

/-- The fields the device works with. -/
def hdrOf (m : Img) : Hdr :=
  { role := iRole m, stepMaj := inum m 0x06 1, chartId := BitVec.ofNat 64 (inum m 0x10 8), chartSeq := w32 (iSeq m), f := inum m 0x20 4
    p := inum m 0x24 1, fcBits := inum m 0x25 1, m := inum m 0x28 4, syncTmo := inum m 0x2C 4, t0 := inum m 0x30 6 }

/-! ### Section table (Table 1-4, Table 1-5). -/

/-- The four characters of a section type. -/
def typeName : SectType → List Nat
  | .seqp => [0x53, 0x45, 0x51, 0x50] | .lbut => [0x4C, 0x42, 0x55, 0x54] | .sdir => [0x53, 0x44, 0x49, 0x52]
  | .crve => [0x43, 0x52, 0x56, 0x45] | .cant => [0x43, 0x41, 0x4E, 0x54] | .sert => [0x53, 0x45, 0x52, 0x54]
  | .etht => [0x45, 0x54, 0x48, 0x54] | .lcek => [0x4C, 0x43, 0x45, 0x4B] | .fcec => [0x46, 0x43, 0x45, 0x43]
  | .qpst => [0x51, 0x50, 0x53, 0x54] | .vmdl => [0x56, 0x4D, 0x44, 0x4C] | .stmt => [0x53, 0x54, 0x4D, 0x54]
  | .evmt => [0x45, 0x56, 0x4D, 0x54] | .mbxt => [0x4D, 0x42, 0x58, 0x54] | .ttut => [0x54, 0x54, 0x55, 0x54]
  | .navc => [0x4E, 0x41, 0x56, 0x43] | .pwrt => [0x50, 0x57, 0x52, 0x54] | .keyw => [0x4B, 0x45, 0x59, 0x57]

def allTypes : List SectType :=
  [.seqp, .lbut, .sdir, .crve, .cant, .sert, .etht, .lcek, .fcec, .qpst, .vmdl, .stmt, .evmt, .mbxt, .ttut, .navc, .pwrt, .keyw]

/-- Store code of a type (Table 1-5). -/
def storeOf : SectType → Nat
  | .seqp | .crve | .lcek | .fcec | .stmt => 0
  | .qpst | .vmdl => 1
  | .sdir => 2
  | .navc => 3
  | .keyw => 5
  | _ => 4

/-- Capacity of a store in bytes (R31). -/
def storeCap (c : Nat) : Nat :=
  if c = 0 then 12582912 else if c = 1 then 8388608 else if c = 2 then 2097152 else if c = 3 then 3145728 else if c = 4 then 1572864
  else if c = 5 then 4096 else 0

/-- The instances a type accepts: lowest and highest (Table 1-5). -/
def instRange : SectType → Nat × Nat
  | .cant => (0, 7) | .sert => (0, 11) | .etht => (2, 3) | _ => (0, 0)

def mandatory : List SectType := [.seqp, .sdir, .lbut, .evmt, .pwrt, .mbxt]

/-- One section-table entry as it stands in the image. -/
structure ISect where
  idx    : Nat
  type   : Option SectType
  sver   : Nat
  inst   : Nat
  off    : Nat
  len    : Nat
  unpack : Nat
  dest   : Nat
  crc    : Nat
  deriving DecidableEq, Repr

def isectAt (m : Img) (i : Nat) : ISect :=
  let e := 0x100 + 32 * i
  { idx := i, type := allTypes.find? (fun t => labelBytes (typeName t) == ibytes m e 4), sver := inum m (e + 4) 2, inst := inum m (e + 6) 1
    off := inum m (e + 8) 4, len := inum m (e + 0xC) 4, unpack := inum m (e + 0x10) 4, dest := inum m (e + 0x14) 4, crc := inum m (e + 0x18) 4 }

/-- The section table; an SECT_CNT beyond 64 is cut there, and rejected. -/
def isects (m : Img) : List ISect := (List.range (min 64 (iSectCnt m))).map (isectAt m)

/-- The body of a section as stored. -/
def ibody (m : Img) (x : ISect) : List Byte := ibytes m x.off x.len

/-! ### Encryption (R29, R495, R496). -/

/-- The ciphertext message: the bodies in table order with nothing between them. -/
def cipherMsg (m : Img) : List Byte := (isects m).flatMap (ibody m)

def gcmAad (m : Img) : List Byte := ibytes m 0 0x60 ++ ibytes m 0x100 (32 * min 64 (iSectCnt m))

/-- The plaintext bodies in table order: cut from the decrypted message, or as stored; none without the Chart key. -/
def plainBodies (s : State) (m : Img) : Option (List (ISect × List Byte)) :=
  let l := isects m
  if iEncrypted m then
    (chartKey s).map (fun k =>
      let p := Config.gcmCrypt k (ibytes m 0x60 12) (cipherMsg m)
      (l.foldl (fun a x => (a.1 ++ [(x, (p.drop a.2).take x.len)], a.2 + x.len)) (([] : List (ISect × List Byte)), 0)).1)
  else some (l.map (fun x => (x, ibody m x)))

def gcmOk (s : State) (m : Img) : Bool :=
  match chartKey s with
  | none => false
  | some k => (Config.gcmTag k (ibytes m 0x60 12) (gcmAad m) (cipherMsg m)).toNat == inum m 0x70 16

/-! ### Verdicts (R53, R61, R100). -/

/-- Why a copy is rejected: code, section index or 0xFFFF, location. -/
structure Verdict where
  code : Nat
  sect : Nat
  loc  : Nat
  deriving DecidableEq, Repr

/-- The failed check that Table 1-12 lists first; among several of one code, the first found. -/
def firstFail : List Verdict → Option Verdict
  | [] => none
  | v :: l => match firstFail l with
    | none => some v
    | some w => if v.code ≤ w.code then some v else some w

/-- One check: nothing when it holds. -/
def chk (ok : Bool) (code sect loc : Nat) : List Verdict := if ok then [] else [{ code := code, sect := sect, loc := loc }]

/-- The header checks behind codes 0x01 to 0x05, made before a copy is streamed (R99). -/
def hdrFails (s : State) (m : Img) : List Verdict :=
  chk (magicOk m) 1 0xFFFF 0 ++ chk (inum m 8 4 == 256) 1 0xFFFF 8 ++ chk (hdrCrcOk m) 1 0xFFFF 0xFC
    ++ chk (inum m 4 1 == 0) 2 0xFFFF 4 ++ chk (inum m 5 1 == 1) 2 0xFFFF 5
    ++ chk (inum m 6 1 == 2) 3 0xFFFF 6
    ++ chk (iRole m == s.boot.strapRole) 4 0xFFFF 7
    ++ chk (!iDevOnly m || lcState s == 1) 5 0xFFFF 0x1C

/-- Container versions of SEQP and LBUT (R35). -/
def sverFails (m : Img) : List Verdict :=
  (isects m).flatMap (fun x => chk (!(x.type == some .seqp || x.type == some .lbut) || x.sver == 1) 2 x.idx (0x100 + 32 * x.idx + 4))

/-- The signature block, the key it names, the signature and the GCM tag (R32, R496). -/
def sigFails (s : State) (m : Img) : List Verdict :=
  let o := iSigOff m
  let key := inum m (o + 6) 2
  let pub := ibytes m (o + 0x10) 96
  let formed := ibytes m o 4 == labelBytes [0x4A, 0x53, 0x49, 0x47] && inum m (o + 4) 2 == 1 && decide (key ≤ 1) && inum m (o + 8) 4 == o
    && inum m (o + 0xC) 4 == 0 && inum m (o + 0xD0) 48 == 0
  chk (formed && chartKeySel s key && hashMatches s key pub && Config.ecdsaOk pub (Config.sha384 (ibytes m 0 o)) (ibytes m (o + 0x70) 96)) 6 0xFFFF o
    ++ chk (!iEncrypted m || gcmOk s m) 6 0xFFFF 0x70

/-- The layout of the container (R28, R30). -/
def layoutFails (m : Img) : List Verdict :=
  let n := iSectCnt m
  let o := iSigOff m
  let l := isects m
  let top := 0x100 + 32 * n
  chk (decide (1 ≤ n ∧ n ≤ 64)) 7 0xFFFF 0x38 ++ chk (inum m 0x3C 4 == 0x100) 7 0xFFFF 0x3C ++ chk (decide (top ≤ o) && o % 64 == 0) 7 0xFFFF 0x40
    ++ chk (inum m 0xC 4 == o + 256 && decide (inum m 0xC 4 ≤ 0x02000000)) 7 0xFFFF 0xC
    ++ l.flatMap (fun x =>
      let e := 0x100 + 32 * x.idx
      chk (x.off % 64 == 0 && decide (top ≤ x.off ∧ x.off < o ∧ x.off + x.len ≤ o)) 7 x.idx (e + 8)
        ++ chk (decide (x.len ≤ x.unpack)) 7 x.idx (e + 0x10) ++ chk (x.dest % 64 == 0) 7 x.idx (e + 0x14))
    ++ (l.zip l.tail).flatMap (fun p => chk (decide (p.1.off < p.2.off ∧ p.1.off + p.1.len ≤ p.2.off)) 7 p.2.idx (0x100 + 32 * p.2.idx + 8))

/-- Types, instances and section CRCs (R31, R99). -/
def sectionFails (s : State) (m : Img) : List Verdict :=
  let l := isects m
  let same (x y : ISect) : Bool := x.type == y.type && x.inst == y.inst
  l.flatMap (fun x =>
      let e := 0x100 + 32 * x.idx
      match x.type with
      | none => chk false 8 x.idx e
      | some t =>
        let r := instRange t
        chk (decide (r.1 ≤ x.inst ∧ x.inst ≤ r.2) && (l.filter (same x)).length == 1) 8 x.idx (e + 6))
    ++ mandatory.flatMap (fun t => chk (l.any (fun x => x.type == some t)) 8 0xFFFF 0x38)
    ++ (match plainBodies s m with
      | none => []
      | some bs => bs.flatMap (fun p => chk (crc32 p.2 == p.1.crc) 8 p.1.idx (0x100 + 32 * p.1.idx + 0x18)))

/-- Is a section's destination inside its store (R30, R31)? -/
def destOk (x : ISect) : Bool :=
  match x.type with
  | none => false
  | some t => x.dest / 2 ^ 28 == storeOf t && decide (x.dest % 2 ^ 28 + x.unpack ≤ storeCap (storeOf t)) && x.dest % 64 == 0

/-- Does a section's destination leave those of the sections ahead of it in the table alone (R30)? -/
def destFree (l : List ISect) (x : ISect) : Bool :=
  !l.any (fun y => decide (y.idx < x.idx ∧ x.dest < y.dest + y.unpack ∧ y.dest < x.dest + x.unpack))

/-- Destinations outside their store, or overlapping. -/
def storeFails (m : Img) : List Verdict :=
  let l := isects m
  l.flatMap (fun x => chk (x.type.isNone || destOk x) 9 x.idx (0x100 + 32 * x.idx + 0x14))
    ++ l.flatMap (fun x => chk (destFree l x) 9 x.idx (0x100 + 32 * x.idx + 0x14))

/-- The checks a CHART_COMMIT makes: codes 0x01 to 0x08 (Table 3-8). -/
def commitFails (s : State) (m : Img) : List Verdict :=
  hdrFails s m ++ sverFails m ++ sigFails s m ++ layoutFails m ++ sectionFails s m

end Sys2Proof.Machine
end

