-- ==== Sys2Proof/Machine/Update.lean ====
section
/-! DEFINITION. Sys2Proof/Machine/Update.lean: the CHART-UPDATE handler (R112 to R114). A command's return code is left with its mailbox
until the handler completes it. -/

namespace Sys2Proof.Machine

/-- May this copy be written? The inactive one; in FAULT either (R112). -/
def targetOk (s : State) (t : Bool) : Bool := s.boot.dev == .fault || t != s.seq.copy

/-- The image a commit judges: the staged header over the flash. -/
def stagedImg (s : State) (t : Bool) : Img := fun o => if o < 256 then tget 0 s.boot.hdrStage o else flashImg s t o

/-- Program bytes: flash bits change from 1 to 0 only. -/
def flashProgram (s : State) (a : Nat) (bs : List Byte) : Mem :=
  memPut flashBlank s.flash a ((memBytes flashBlank s.flash a bs.length).zipWith (fun x y => x &&& y) bs)

/-- CHART_ERASE: the target region reads as erased, and the header staging buffer is cleared. -/
def chartErase (mbx : Nat) (t : Bool) (s : State) : State :=
  if targetOk s t = false then decideMbx mbx rcState s
  else decideMbx mbx rcDone { s with flash := memClear s.flash (copyBase t) 0x02000000, boot := { s.boot with hdrStage := [] } }

/-- CHART_WRITE: bytes below 0x100 go to the staging buffer, the others are programmed and read back. -/
def chartWrite (mbx : Nat) (t : Bool) (off len : Nat) (data : List Byte) (s : State) : State :=
  if targetOk s t = false then decideMbx mbx rcState s
  else if len = 0 ∨ 48 < len ∨ 0x02000000 < off + len then decideMbx mbx rcRange s
  else
    let d := data.take len
    let h := 256 - off
    let s := { s with boot := { s.boot with hdrStage := memPut 0 s.boot.hdrStage off (d.take h) } }
    let a := copyBase t + max off 256
    let f := d.drop h
    let s := { s with flash := flashProgram s a f }
    decideMbx mbx (if memBytes flashBlank s.flash a f.length = f then rcDone else 0x0011#16) s

/-- CHART_COMMIT: reject codes 0x01 to 0x08 over the staged header and the flash; then the header is programmed, last of all (R113). -/
def chartCommit (mbx : Nat) (t : Bool) (s : State) : State :=
  if targetOk s t = false then decideMbx mbx rcState s
  else match firstFail (commitFails s (stagedImg s t)) with
    | some v => decideMbx mbx (BitVec.ofNat 16 (0x0100 + v.code)) s
    | none =>
      let hdr := memBytes 0 s.boot.hdrStage 0 256
      let s := { s with flash := flashProgram s (copyBase t) hdr }
      decideMbx mbx (if memBytes flashBlank s.flash (copyBase t) 256 = hdr then rcDone else 0x0011#16) s

/-- The payload words 4 to 15 of a mailbox take 48 bytes. -/
def putData (mbx : Nat) (bs : List Byte) (s : State) : State :=
  let m := mbxOf s mbx
  setMbx mbx { m with payload := (List.range 12).foldl (fun t i => tset 0 t (4 + i) (w32 (leNat ((bs.drop (4 * i)).take 4)))) m.payload } s

/-- CHART_STATUS: header bytes 0x000 to 0x02F of the target as they stand in flash. -/
def chartStatus (mbx : Nat) (t : Bool) (s : State) : State :=
  if targetOk s t = false then decideMbx mbx rcState s
  else decideMbx mbx rcDone (putData mbx (memBytes flashBlank s.flash (copyBase t) 0x30) s)

/-- Before the seal, outside FAULT, the handler is not available (R114). -/
def updateOpen (s : State) : Bool := s.boot.sealed || s.boot.dev == .fault

def execChartErase (mbx : BitVec 4) (t : Bool) (s : State) : Res := .next (if updateOpen s then chartErase mbx.toNat t s else s)
def execChartWrite (mbx : BitVec 4) (t : Bool) (off : BitVec 32) (len : BitVec 16) (data : List (BitVec 8)) (s : State) : Res :=
  .next (if updateOpen s then chartWrite mbx.toNat t off.toNat len.toNat data s else s)
def execChartCommit (mbx : BitVec 4) (t : Bool) (s : State) : Res := .next (if updateOpen s then chartCommit mbx.toNat t s else s)
def execChartStatus (mbx : BitVec 4) (t : Bool) (s : State) : Res := .next (if updateOpen s then chartStatus mbx.toNat t s else s)

end Sys2Proof.Machine
end

