-- ==== Sys2Proof/Machine/Mbx.lean ====
section
/-! DEFINITION. Sys2Proof/Machine/Mbx.lean: the mailboxes, their service, the device commands, and the dispatch of a latched command to its
handler (R473 to R483, R572, R573). -/

namespace Sys2Proof.Machine

/-! ### MBXT (R481, R482). -/

/-- A field of MBXT's entry for mailbox n. -/
def mbxtFld (s : State) (n off len : Nat) : Nat := fld s .mbxt 0 (64 + 32 * n + off) len

/-- GROUPS and MASTERS under which a mailbox is served: in FAULT those of R482, otherwise MBXT's. -/
def bindingOf (s : State) (n : Nat) : Nat × Nat :=
  if s.boot.dev = .fault then (if n = 0 then (2, 2) else if n = 1 then (0x2000, 2) else (0, 0))
  else (mbxtFld s n 0 2, mbxtFld s n 2 2)

/-- LOCK_TMO in ms; 0 is none. -/
def lockTmo (s : State) (n : Nat) : Nat := if s.boot.dev = .fault then (if n ≤ 1 then 60000 else 0) else mbxtFld s n 4 2

/-! ### Lock, payload, post, release (R473 to R475). -/

def masterNo : Master → Nat
  | .hsp => 1 | .mep => 2

/-- A lock read by a master (R474): what it returns, and the mailbox after it. -/
def lockRead (n master : Nat) (s : State) : Nat × State :=
  let m := mbxOf s n
  if m.state = .free then (0, setMbx n { m with state := .locked, owner := master, touched := s.cclk } s)
  else if m.owner = master then (0, s)
  else if m.owner = 0 then (15, s)
  else (m.owner, s)

/-- An owner's write of a payload word, while LOCKED (R473); none where it is not permitted. -/
def payWrite (n i master : Nat) (w : Word) (s : State) : Option State :=
  let m := mbxOf s n
  if m.owner = master ∧ m.state = .locked then some (setMbx n { m with payload := tset 0 m.payload i w, touched := s.cclk } s) else none

/-- POST (R475): the wake event powers the domain of the command's handler group (R518). -/
def postMbx (n master : Nat) (s : State) : Option State :=
  let m := mbxOf s n
  if m.owner = master ∧ m.state = .locked then
    let s := setMbx n { m with state := .posted, posts := m.posts + 1, poster := master, ackValid := false, result := none, touched := s.cclk } s
    some (if s.boot.dev = .sleep then sleepWake .mailbox s
      else match groupDomain (payByte m 1) with
        | some d => startWake (domMask d) s
        | none => s)
  else none

/-- RELEASE (R475). -/
def releaseMbx (n master : Nat) (s : State) : Option State :=
  let m := mbxOf s n
  if m.owner = master ∧ (m.state = .locked ∨ m.state = .done) then some (setMbx n { m with state := .free, owner := 0 } s) else none

/-- A write of MBX_CTLn: exactly one of POST and RELEASE is a request; any other write is not permitted (R475). -/
def ctlWrite (n master : Nat) (w : Word) (s : State) : Option State :=
  match w.getLsbD 0, w.getLsbD 1 with
  | true, false => postMbx n master s
  | false, true => releaseMbx n master s
  | _, _ => none

/-- The numbers of the mailbox states (Table 14-11). -/
def mbxCode : MbxState → Nat
  | .free => 0 | .locked => 1 | .posted => 2 | .running => 3 | .done => 4

/-- Has LOCK_TMO passed with no write of the owner (R475)? The mailbox is freed after its tick, so that a POST on it takes effect. CORE's clocks stand
in SLEEP (R521). -/
def lockOver (s : State) (n : Nat) : Bool :=
  let m := mbxOf s n
  (m.state == .locked || m.state == .done) && lockTmo s n != 0 && s.boot.dev != .sleep && decide (m.touched + 400000 * lockTmo s n < s.cclk)

def execMbxLockExpired (n : BitVec 4) (s : State) : Res :=
  let m := mbxOf s n.toNat
  if lockOver s n.toNat then
    .next (raise 0x0E06 (w32 n.toNat) (w32 m.owner) (w32 (mbxCode m.state)) (setMbx n.toNat { m with state := .free, owner := 0 } s))
  else .next s

/-- The ticks from a latch to DONE of a command that is completed at its latch: L of MBX_SERVE, or 1 under the standalone server (R476, R482). -/
def latchTicks (s : State) : Nat := if s.boot.dev = .fault ∨ s.boot.dev = .sync then 1 else 4

/-- May a handler complete a mailbox's command: its code is decided, and for PARTNER-RESET its frame has left the link (R383, R477)? -/
def handlerMay (s : State) (n : Nat) : Bool :=
  let m := mbxOf s n
  m.state == .running && m.result.isSome && s.boot.dev != .sleep && decide (m.touched + latchTicks s ≤ s.cclk) && !leashHolds s n

/-- Must it? CHART_ERASE, CHART_WRITE and CHART_COMMIT take what the flash takes, CHART_STATUS at most 1 ms (Table 3-8). -/
def handlerOver (s : State) (n : Nat) : Bool :=
  let m := mbxOf s n
  handlerMay s n && (payByte m 1 != 3 || m.result == some rcState || m.result == some rcRange || (payByte m 0 == 4 && decide (m.touched + 400000 ≤ s.cclk)))

/-- A handler completes a command; CHART-UPDATE records it (R113). -/
def handlerEnds (n : Nat) (s : State) : State :=
  let m := mbxOf s n
  match m.result with
  | some code =>
    let s := finishMbx n code s
    if payByte m 1 = 3 then raise 0x0148 (w32 (mbxCmd m)) (w32 (payNum m 2 2)) (code.setWidth 32) s else s
  | none => s

/-- MBX_COMMAND_COMPLETE. -/
def execMbxCommandComplete (n : BitVec 4) (s : State) : Res := .next (if handlerMay s n.toNat then handlerEnds n.toNat s else s)

/-- A master reset (R478): what completes on the same tick completes first; its locks are freed, its commands orphaned, its token buffer cleared
(R501). -/
def masterReset (master : Nat) (s : State) : State :=
  let s := (List.range 16).foldl (fun s n => if handlerOver s n then handlerEnds n s else s) s
  let mine := (List.range 16).filter (fun n => (mbxOf s n).owner == master)
  let freed := mine.filter (fun n => (mbxOf s n).state == .locked || (mbxOf s n).state == .done)
  let left := mine.filter (fun n => (mbxOf s n).state == .posted || (mbxOf s n).state == .running)
  let s := freed.foldl (fun s n => setMbx n { mbxOf s n with state := .free, owner := 0 } s) s
  let s := left.foldl (fun s n => setMbx n { mbxOf s n with owner := 0 } s) s
  let s := if s.sec.tokOwner = master then tokClear s else s
  raise 0x0E07 (w32 master) (w32 freed.length) (w32 left.length) s

/-! ### Device commands (R483). -/

/-- Will the signal be held once every latched request has taken effect? -/
def willHold (s : State) (i : Nat) : Bool := (s.forces.filter (fun f => f.sig == i)).foldl (fun _ f => f.val.isSome) (entHeld (ent s i))

def forceHandler (mbx i : Nat) (w : Word) (s : State) : State :=
  if 131072 ≤ i ∨ entType (ent s i) = 0 then completeMbx mbx rcRange s
  else if entForceable (ent s i) = false then completeMbx mbx rcDenied s
  else completeMbx mbx rcDone { s with forces := s.forces ++ [{ sig := i, val := some w, due := latchFrame s }] }

def releaseHandler (mbx i : Nat) (s : State) : State :=
  if 131072 ≤ i ∨ entType (ent s i) = 0 then completeMbx mbx rcRange s
  else if willHold s i = false then completeMbx mbx rcState s
  else completeMbx mbx rcDone { s with forces := s.forces ++ [{ sig := i, val := none, due := latchFrame s }] }

/-- How many instances of an engine can be named in a disable: none when the engine has no function that can be disabled. An
instance of 0 names the whole engine, where its parts are not all that can be named. -/
def funcParts (eng : Nat) : Nat :=
  if eng = 6 then 32 else if eng = 7 then 64 else if 8 ≤ eng ∧ eng ≤ 0x0B then 1 else if eng = 0x0D then 64
  else if 0x10 ≤ eng ∧ eng ≤ 0x23 then 1 else if eng = 0x26 ∨ eng = 0x27 then 1 else if eng = 0x28 then 16 else if eng = 0x29 then 24 else 0

/-- Will a function be disabled once every latched request has taken effect? -/
def willOff (s : State) (eng inst : Nat) : Bool :=
  (s.funcReqs.filter (fun r => r.eng == funcEng eng && r.inst == inst)).foldl (fun _ r => !r.enable) (s.disabled.any (fun p => p == (funcEng eng, inst)))

def funcHandler (mbx eng inst : Nat) (enable : Bool) (s : State) : State :=
  if 0x31 ≤ eng ∨ (funcParts eng ≠ 0 ∧ funcParts eng ≤ inst) then completeMbx mbx rcRange s
  else if funcParts eng = 0 ∨ willOff s eng inst = !enable then completeMbx mbx rcState s
  else completeMbx mbx rcDone { s with funcReqs := s.funcReqs ++ [{ eng := funcEng eng, inst := inst, enable := enable, due := latchFrame s }] }

def execForce (mbx : BitVec 4) (sig : BitVec 32) (val : BitVec 32) (s : State) : Res := .next (forceHandler mbx.toNat sig.toNat val s)
def execSignalRelease (mbx : BitVec 4) (sig : BitVec 32) (s : State) : Res := .next (releaseHandler mbx.toNat sig.toNat s)
def execFuncDisable (mbx : BitVec 4) (eng : BitVec 8) (inst : BitVec 16) (s : State) : Res := .next (funcHandler mbx.toNat eng.toNat inst.toNat false s)
def execFuncEnable (mbx : BitVec 4) (eng : BitVec 8) (inst : BitVec 16) (s : State) : Res := .next (funcHandler mbx.toNat eng.toNat inst.toNat true s)

/-- TIME-SET (R417): accepted only while time is NONE; it sets the calendar and records TIME_STEP. -/
def timeSetHandler (mbx secs : Nat) (utc : Int) (s : State) : State :=
  if s.ptc.status ≠ 0 then completeMbx mbx rcState s else completeMbx mbx rcDone (setCalendar secs utc true s)

def execTimeSet (mbx : BitVec 4) (secs : BitVec 48) (utc : BitVec 16) (s : State) : Res := .next (timeSetHandler mbx.toNat secs.toNat utc.toInt s)

/-- REANCHOR at its latch (R152). -/
def reanchorHandler (mbx slot : Nat) (s : State) : State :=
  match execReanchor (BitVec.ofNat 4 mbx) (BitVec.ofNat 8 slot) s with
  | .next t => t
  | _ => s

/-! ### From a payload to its handler (R476, R572). -/

/-- Are the payload bytes from a to below b zero? -/
def payZero (m : Mbx) (a b : Nat) : Bool := (List.range (b - a)).all (fun i => payByte m (a + i) == 0)

/-- Run a handler when the bytes that the command defines as zero are zero, else RANGE (R572). -/
def guarded (n : Nat) (ok : Bool) (f : State → State) (s : State) : State := if ok then f s else completeMbx n rcRange s

/-- The payload of a CHART-UPDATE command inside the ranges of R112. -/
def updRange (m : Mbx) : Bool := decide (payNum m 8 2 ≤ 48) && decide (payNum m 4 4 < 0x02000000) && decide (payNum m 4 4 + payNum m 8 2 ≤ 0x02000000)

/-- Hand a RUNNING command to the handler of its CMD. -/
def takeCommand (n : Nat) (s : State) : State :=
  let m := mbxOf s n
  let b := payByte m
  let z := payZero m
  let w (j : Nat) : Word := w32 (payNum m j 4)
  let bytes (j k : Nat) : List Byte := (List.range k).map (fun i => BitVec.ofNat 8 (b (j + i)))
  let z2 := z 2 4
  match mbxCmd m with
  | 0x0201 => guarded n (z2 && z 12 64) (forceHandler n (payNum m 4 4) (w 8)) s
  | 0x0202 => guarded n (z2 && z 8 64) (releaseHandler n (payNum m 4 4)) s
  | 0x0203 => guarded n (z2 && z 8 64 && decide (b 7 ≤ 1)) (funcHandler n (b 4) (payNum m 5 2) (b 7 == 1)) s
  | 0x0301 => guardedUpd m (chartErase n (bitOf (b 2) 0)) s
  | 0x0302 => guardedUpd m (chartWrite n (bitOf (b 2) 0) (payNum m 4 4) (payNum m 8 2) (bytes 16 48)) s
  | 0x0303 => guardedUpd m (chartCommit n (bitOf (b 2) 0)) s
  | 0x0304 => guardedUpd m (chartStatus n (bitOf (b 2) 0)) s
  | 0x0401 => guarded n (z2 && z 5 64) (reanchorHandler n (b 4)) s
  | 0x0501 => guarded n (z2 && z 7 64 && decide (b 6 ≤ 1)) (navExclHandler n (b 4) (b 5) (b 6 == 1)) s
  | 0x0601 => guarded n (z2 && z 6 64 && decide (b 5 ≤ 1)) (qpsCapHandler n (b 4) (b 5 == 1)) s
  | 0x0701 => guarded n (z2 && z 6 64) (modeReqHandler n (b 4) (b 5)) s
  | 0x0801 => guarded n (z2 && z 7 8 && z 12 64 && decide (b 6 ≤ 1))
      (lceHandler n (b 4) (decide (b 5 ≤ 1)) (.mode (b 5 == 1) (if b 6 = 1 then some (w 8) else none))) s
  | 0x0802 => guarded n (z2 && z 6 64) (lceHandler n (b 4) (decide (b 5 ≤ 1)) (.bank (b 5 == 1))) s
  | 0x0804 =>
      let t : LceTest := { wave := BitVec.ofNat 8 (b 6), point := BitVec.ofNat 8 (b 7), amp := w 8, p1 := w 12, p2 := w 16, dur := w 20, hold := BitVec.ofNat 16 (payNum m 24 2), order := BitVec.ofNat 8 (b 26), capt := BitVec.ofNat 8 (b 27) }
      guarded n (z2 && z 28 64) (lceHandler n (b 4) (decide (b 5 ≤ 1)) (if b 5 = 1 then .start t else .stop)) s
  | 0x0805 => guarded n (z2 && z 8 64) (lceHandler n (b 4) (decide (b 5 ≤ 2)) (if b 5 = 0 then .disarm else if b 5 = 1 then .arm (b 6) else .page (b 7))) s
  | 0x0A01 => guarded n (z2 && z 5 64) (loopClearHandler n (b 4)) s
  | 0x0A02 => guarded n (z2 && z 9 16 && decide (b 8 ≤ 1) && decide (b 7 ≤ 48)) (hartPassHandler n (b 4) (b 5) (b 6) (b 8 == 1) (bytes 16 (b 7))) s
  | 0x0B01 => guarded n (z 2 64) (roleSwapHandler n) s
  | 0x0B02 => guarded n (z2 && z 5 64) (packDuplexHandler n (b 4)) s
  | 0x0B03 => guarded n (z2 && z 5 64) (partnerResetHandler n (b 4)) s
  | 0x0C01 => guarded n (z 2 8 && z 16 64) (timeSetHandler n (payNum m 8 6) (signedOf 16 (payNum m 14 2))) s
  | 0x0D01 => guarded n (z2 && z 6 64) (canViewHandler n (b 4) (b 5)) s
  | 0x0F01 => guarded n (z2 && z 7 16) (tokenLoadHandler n (payNum m 4 2) (b 6) (bytes 16 48)) s
  | 0x0F02 => guarded n (z 2 64) (tokenApplyHandler n) s
  | 0x0F03 => guarded n (z 2 64) (tokenClearHandler n) s
  | 0x0F04 => guarded n (z 2 64) (holdHandler n true) s
  | 0x0F05 => guarded n (z 2 64) (holdHandler n false) s
  | 0x0F06 => guarded n (z2 && z 7 8 && z 14 64) (sleepHandler n (b 4) (b 5) (b 6) (payNum m 8 6)) s
  | _ => completeMbx n rcUnknown s
where
  /-- CHART-UPDATE leaves every code with the mailbox, so that its completion is recorded (R113). DESIGN CHOICE (log entry 138): a command with an OFFSET or
  LEN outside R112's limits that also names the running copy answers RANGE, ahead of STATE, and the limits hold for every command of the group. -/
  guardedUpd (m : Mbx) (f : State → State) (s : State) : State :=
    if payNum m 2 2 ≤ 1 ∧ payZero m 10 16 ∧ updRange m then f s else decideMbx n rcRange s

/-- Is a handler group at work on another mailbox's command (R476)? The loop commands wait for their contexts side by side: their handler
answers BUSY by the rule of its own chapter (R282). -/
def groupBusy (s : State) (n g : Nat) : Bool :=
  g != 8 && (List.range 16).any (fun j => j != n && (mbxOf s j).state == .running && (mbxOf s j).result.isNone && payByte (mbxOf s j) 1 == g)

/-- Latch a POSTED command and make the checks of R476 in their order. -/
def latchCommand (n : Nat) (s : State) : State :=
  let m := mbxOf s n
  if m.state ≠ .posted then s
  else
    let g := payByte m 1
    let bind := bindingOf s n
    let s := setMbx n { m with state := .running, result := none, touched := s.cclk } s
    if g < 2 ∨ 15 < g ∨ bitOf bind.1 (g - 2) = false then completeMbx n rcUnknown s
    else if bitOf bind.2 m.poster = false then completeMbx n rcDenied s
    else if groupBusy s n g then completeMbx n rcBusy s
    else takeCommand n s

/-- MBX_SERVE (R476): a SEQ post that is DONE is released first, and a code other than DONE recorded (R480). -/
def execMbxServe (n : BitVec 4) (s : State) : Res :=
  let w := opWord 0x2E 1 n.toNat
  issue 0x2E 0 w (fun s =>
    let m := mbxOf s n.toNat
    if mbxtFld s n.toNat 2 2 = 0 then breach 0x0107 w s
    else if m.state = .done ∧ m.owner = 3 then
      let s := setMbx n.toNat { m with state := .free, owner := 0 } s
      if m.ackCode = rcDone then s else raise 0x0E05 (w32 n.toNat) (w32 (mbxCmd m)) (m.ackCode.setWidth 32) s
    else latchCommand n.toNat s) s

/-- A byte field of MBXT's template t (R481). -/
def tplWord (s : State) (t i : Nat) : Word := w32 (fld s .mbxt 0 (fld32 s .mbxt 0 0 + 64 * t + 4 * i) 4)

/-- MBX_POST (R480): the lock is read as master 3; a winner posts the template in the same operation. -/
def execMbxPost (n : BitVec 4) (t : BitVec 8) (s : State) : Res :=
  let w := opWord 0x2E 2 (n.toNat + 16 * t.toNat)
  issue 0x2E 0 w (fun s =>
    let refuse (s : State) : State := raise 0x0E05 (w32 n.toNat) (w32 ((tplWord s t.toNat 0).toNat % 65536)) (rcBusy.setWidth 32) s
    if mbxtFld s n.toNat 2 2 = 0 ∨ fld16 s .mbxt 0 4 ≤ t.toNat then breach 0x0107 w s
    else
      let r := lockRead n.toNat 3 s
      if r.1 ≠ 0 ∨ (mbxOf r.2 n.toNat).state ≠ .locked then refuse s
      else
        let m := mbxOf r.2 n.toNat
        let s := setMbx n.toNat { m with payload := (List.range 16).foldl (fun p i => tset 0 p i (tplWord s t.toNat i)) [] } r.2
        (postMbx n.toNat 3 s).getD s) s

/-- Does the standalone server serve this mailbox, and its posted command, in the present state (R482)? -/
def standaloneServes (s : State) (n : Nat) : Bool :=
  if s.boot.dev = .fault then decide (n ≤ 1)
  else s.boot.dev == .sync && s.boot.sealed && !s.seq.run && bitOf (mbxtFld s n 0 2) 10 && payByte (mbxOf s n) 1 == 0x0C

/-- Has a posted command waited as many ticks as there are mailboxes served, so that the server has examined it? Where its round stands at a post is
not stated, so that it may be examined before. -/
def serverOver (s : State) (n : Nat) : Bool :=
  standaloneServes s n && (mbxOf s n).state == .posted
    && decide ((mbxOf s n).touched + (if s.boot.dev = .fault then 2 else ((List.range 16).filter (fun j => bitOf (mbxtFld s j 0 2) 10)).length) ≤ s.cclk)

/-- STANDALONE_SERVER_LATCH: the server examines a mailbox and latches its command (R482). -/
def execStandaloneServerLatch (n : BitVec 4) (s : State) : Res :=
  .next (if standaloneServes s n.toNat then latchCommand n.toNat s else s)

/-! ### Registers (R490). -/

def ackWord (m : Mbx) : Word :=
  w32 (2 ^ 24 * m.ackPosts.toNat + 2 ^ 20 * m.ackMaster.toNat + 2 ^ 18 * b2n m.ackReset + 2 ^ 17 * b2n m.ackOrphan + 2 ^ 16 * b2n m.ackValid + m.ackCode.toNat)

def ctlWord (m : Mbx) : Word := w32 (65536 * m.posts.toNat + 256 * mbxCode m.state + 16 * m.owner)

/-- A register of mailbox n by offset, MBX_LOCKn apart. -/
def mbxReg (s : State) (n o : Nat) : Option Word :=
  let m := mbxOf s n
  if o < 0x40 ∧ o % 4 = 0 then some (tget 0 m.payload (o / 4))
  else if o = 0x40 then some (ctlWord m)
  else if o = 0x44 then some (ackWord m)
  else none

end Sys2Proof.Machine
end

