-- ==== Sys2Proof/Machine/Pins.lean ====
section
/-! DEFINITION. Sys2Proof/Machine/Pins.lean: the temperature sensor and the GPIO banks (R542, R551 to R555). -/

namespace Sys2Proof.Machine

/-! ### The temperature sensor (R542). -/

/-- A number of sixteenths of a degree. -/
def degrees (n : Int) : Int := 16 * n

/-- TJ_SAMPLE: a sample of the sensor; 1,000 samples in a row at or above 115 degrees set HIGH, 1,000 at or below 110 clear it. The
clock of the sensor stands in RESET and SLEEP. The sensor is sampled every 1 ms, so that nothing is sampled within 1 ms of a sample. -/
def execTjSample (temp : BitVec 16) (s : State) : Res :=
  if s.boot.dev = .reset ∨ s.boot.dev = .sleep ∨ s.tj.last.any (fun t => decide (s.cclk < t + 400000)) then .next s
  else
    let hot := if degrees 115 ≤ temp.toInt then min (s.tj.hot + 1) 1000 else 0
    let cool := if temp.toInt ≤ degrees 110 then min (s.tj.cool + 1) 1000 else 0
    let t := { s.tj with temp := temp, hot := hot, cool := cool, last := some s.cclk }
    if !s.tj.high && hot == 1000 then
      .next (raise 0x1000 (temp.setWidth 32) 0 0 { s with tj := { t with high := true, since := s.cclk } })
    else if s.tj.high && cool == 1000 then
      .next (raise 0x1001 (temp.setWidth 32) (w32 ((s.cclk - s.tj.since) / 400000000)) 0 { s with tj := { t with high := false } })
    else .next { s with tj := t }

def tjReg (s : State) : Word := w32 (65536 * b2n s.tj.high + s.tj.temp.toNat)

/-! ### GPIO (R551 to R555). -/

def gpioOf (s : State) (b : Bool) : GpioBank := if b then s.gpio1 else s.gpio0
def setGpio (b : Bool) (x : GpioBank) (s : State) : State := if b then { s with gpio1 := x } else { s with gpio0 := x }

/-- Bits of a word by a test of their number. -/
def maskOf (f : Nat → Bool) : Word := w32 (((List.range 32).map (fun i => b2n (f i) * 2 ^ i)).foldl (· + ·) 0)

/-- GPIO_SET (R552): the mask signal and the 32 BOOLs are read at the issue tick. A masked pin of quality NAN is in high impedance; its
held level is then not stated, and is a free value. -/
def gpioSetEffect (sig : Nat) (b : Bool) (s : State) : State :=
  let mask := sigW s sig
  let nan := mask &&& maskOf (fun i => sigNan s (sig + 1 + i))
  let high := maskOf (fun i => sigTrue s (sig + 1 + i))
  let old := gpioOf s b
  let free : Word := (Config.freeWord s.draws).setWidth 32
  let out := (old.out &&& ~~~ mask) ||| (mask &&& ~~~ nan &&& high) ||| (nan &&& free)
  setGpio b { old with mask := mask, nan := nan, out := out } { s with draws := s.draws + 1 }

def execGpioSet (sig : BitVec 17) (bank : Bool) (s : State) : Res :=
  issue 0x2B 0 (opWord 0x2B 1 (sig.toNat + 131072 * b2n bank)) (gpioSetEffect sig.toNat bank) s

/-- Land a record of a bank: its filtered levels and what has changed since the record before (R554). Of the first record the spec states no pins
that changed: a free word. -/
def gpioRecord (b : Bool) (ns : Nat) (s : State) : State :=
  let x := gpioOf s b
  let diff : Word := match x.lastRec with
    | some w => x.levels ^^^ w
    | none => Config.layoutWord 22 [b2n b, s.seq.k]
  landDirect 0x2B (b2n b) [x.levels, diff] ns (setGpio b { x with lastRec := some x.levels } s)

/-- GPIO_LEVEL_CHANGE: the filtered levels of a bank change; the record is stamped 10 ticks before. -/
def execGpioLevelChange (bank : Bool) (levels : Word) (s : State) : Res :=
  let x := gpioOf s bank
  if levels = x.levels then .next s
  else
    let s := setGpio bank { x with levels := levels } s
    if s.boot.sealed = false ∨ s.boot.dev = .sleep ∨ domGated s .ioe then .next s
    else .next (gpioRecord bank ((nowHalf s - 50) / 2) s)

/-- The records of tick 0 of a frame (R554). -/
def gpioFrame (s : State) : State :=
  if domGated s .ioe then s else gpioRecord true (nowHalf s / 2) (gpioRecord false (nowHalf s / 2) s)

/-- The pins driven now (R552, R555). -/
def gpioOe (s : State) (b : Bool) : Word :=
  if outMode s = .enabled then (gpioOf s b).mask &&& ~~~ (gpioOf s b).nan else 0

/-- The GPIO registers by offset from 0x000B_F000. -/
def gpioReg (s : State) (o : Nat) : Option Word :=
  match o with
  | 0x00 => some s.gpio0.levels
  | 0x04 => some s.gpio1.levels
  | 0x08 => some (gpioOe s false)
  | 0x0C => some (gpioOe s true)
  | 0x10 => some s.gpio0.out
  | 0x14 => some s.gpio1.out
  | _ => none

end Sys2Proof.Machine
end

