-- ==== Sys2Proof/Machine/Ttu.lean ====
section
/-! DEFINITION. Sys2Proof/Machine/Ttu.lean: the time trigger unit (R408 to R413). -/

namespace Sys2Proof.Machine

/-- A field of trigger entry n (Table 12-10). -/
def te (s : State) (n off len : Nat) : Nat := fld s .ttut 0 (0x80 + 32 * n + off) len

def teKind (s : State) (n : Nat) : Nat := te s n 0 1 % 4
def teAuto (s : State) (n : Nat) : Bool := bitOf (te s n 0 1) 2

def ttuEnt (s : State) (n : Nat) : Ttu := tget {} s.ttu.ent n
def modTtu (n : Nat) (f : Ttu → Ttu) (s : State) : State := { s with ttu := { s.ttu with ent := tmod {} s.ttu.ent n f } }

/-- Land the status record of an entry with the time words and the arrival stamp of R412. -/
def ttuLand (n timeNs stampNs : Nat) (s : State) : State :=
  let e := ttuEnt s n
  landFrom 0x0D n [w32 (e.status.toNat + 256 * e.fires.toNat), (stampOf timeNs).2, (stampOf timeNs).1] stampNs s

/-- The full time of a pair: the 48-bit seconds with these low 32 bits that lie nearest the counter's seconds, the later of two
equally near (R409). -/
def pairNs (s : State) (secs nanos : Nat) : Nat :=
  let now := ptcNs s / 1000000000
  let d := signedOf 32 ((secs + 2 ^ 32 - now % 2 ^ 32) % 2 ^ 32)
  let d := if d = -2147483648 then 2147483648 else d
  (((now : Int) + d) % 2 ^ 48).toNat * 1000000000 + nanos

/-- The first instance of a PERIODIC entry after the counter value (R408, R409). -/
def nextInstance (s : State) (n : Nat) : Nat :=
  let per := te s n 8 4
  let base := (1000000000 * s.hdr.t0 + te s n 0x0C 4) % per
  let now := ptcNs s
  let k := (now + per - base) / per
  base + k * per

/-- Judge a target of a ONESHOT (R409): at or before the counter is PAST. -/
def judgeOnce (n target : Nat) (s : State) : State :=
  if target * ptcUnit ≤ s.ptc.counter then
    let s := modTtu n (fun e => { e with status := 3, target := target })
      { s with ttu := { s.ttu with pastCnt := if s.ttu.pastCnt = 0xFFFF#16 then s.ttu.pastCnt else s.ttu.pastCnt + 1 } }
    raise 0x0C07 (w32 n) (stampOf target).1 (stampOf target).2 (ttuLand n target (ptcNs s) s)
  else modTtu n (fun e => { e with status := 1, target := target }) s

/-- Judge a piece of programming on this edge (R409). -/
def judge (n : Nat) (p : TtuProg) (s : State) : State :=
  match p with
  | .periodic => modTtu n (fun e => { e with status := 1, target := nextInstance s n }) s
  | .invalid => let s := modTtu n (fun e => { e with status := 5 }) s; ttuLand n (ptcNs s) (ptcNs s) s
  | .pair a b => judgeOnce n (pairNs s a b) s
  | .full t => judgeOnce n t s
  | .stop => if (ttuEnt s n).status = 1 then modTtu n (fun e => { e with status := 4 }) s else s

/-- The programming of an AUTO entry: its instances, or the time in its entry (R409). -/
def autoProg (s : State) (n : Nat) : TtuProg :=
  if teKind s n = 2 then .periodic else .full (te s n 0x14 6 * 1000000000 + te s n 0x1C 4)

/-- The programming that TTU_ARM sends (R409). -/
def armProg (s : State) (n : Nat) : TtuProg :=
  if teKind s n = 2 then .periodic
  else if teAuto s n then autoProg s n
  else
    let i := te s n 0x10 4 % 2 ^ 17
    let good (k : Nat) : Bool := sigQ s k == qGood || sigQ s k == qSubst
    if good i && good (i + 1) then .pair (sigW s (i + 1)).toNat (sigW s i).toNat else .invalid

/-- TTU_ARM: the programming enters the FIFO to TCLK (R409). -/
def execTtuArm (n : BitVec 6) (s : State) : Res :=
  issue 0x0D n.toNat (opWord 0x0D 1 n.toNat) (fun s => modTtu n.toNat (fun e => { e with fifo := e.fifo ++ [handed s 4 (armProg s n.toNat)] }) s) s

/-- TTU_STOP (R409). -/
def execTtuStop (n : BitVec 6) (s : State) : Res :=
  issue 0x0D n.toNat (opWord 0x0D 2 n.toNat) (fun s => modTtu n.toNat (fun e => { e with fifo := e.fifo ++ [handed s 4 .stop] }) s) s

/-- The crossing into TCLK of 250 MHz. -/
def ttuCross : Crossing := { lo := 3, hi := 4, num := 8, den := 5 }

/-- The action of a firing (Table 12-4): PULSE drives pins only while the outputs are enabled (R411). -/
def ttuAct (n : Nat) (s : State) : State :=
  let mask := te s n 2 2
  match te s n 1 1 with
  | 1 =>
    if outEnabled s then
      let stop := s.ptc.edges + te s n 4 2
      { s with ttu := { s.ttu with trigEnd := (List.range 8).foldl (fun t k => if bitOf mask k then tset 0 t k (max (tget 0 t k) stop) else t) s.ttu.trigEnd } }
    else s
  | 2 => { s with ttu := { s.ttu with conv := s.ttu.conv ++ [handed s 0 (BitVec.ofNat 8 mask)] } }
  | 3 => { s with ttu := { s.ttu with latch := s.ttu.latch ++ [handed s 0 (BitVec.ofNat 16 mask)] } }
  | _ => s

/-- Has an ARMED entry that is not disabled reached its time (R408, R413)? -/
def fireDue (s : State) (n : Nat) : Bool :=
  (ttuEnt s n).status == 1 && !isDisabled s 0x0D n && decide ((ttuEnt s n).target * ptcUnit ≤ s.ptc.counter)

/-- A firing: action, count, record; a ONESHOT becomes FIRED, a PERIODIC entry takes its next instance (R408, R412, R413). -/
def ttuFire (n : Nat) (s : State) : State :=
  let at' := max (ptcNs s) (ttuEnt s n).target
  let s := ttuAct n s
  let s := modTtu n (fun e => { e with fires := e.fires + 1, status := if teKind s n = 2 then 1 else 2 }) s
  let s := ttuLand n at' at' s
  if teKind s n = 2 then modTtu n (fun e => { e with target := e.target + te s n 8 4 }) s else s

/-- TTU_FIRE: an entry whose time has come fires. -/
def execTtuFire (n : BitVec 6) (s : State) : Res := .next (if fireDue s n.toNat then ttuFire n.toNat s else s)

/-- TTU_PROGRAM_ARRIVAL: the oldest programming of the entry is judged (R409); before its least crossing time nothing arrives (R46). An entry whose time has
come on the same edge fires first (R410). -/
def execTtuProgramArrival (n : BitVec 6) (s : State) : Res :=
  match (ttuEnt s n.toNat).fifo with
  | [] => .next s
  | p :: l =>
    if mayArrive s ttuCross p then
      let s := if fireDue s n.toNat then ttuFire n.toNat s else s
      .next (judge n.toNat p.item (modTtu n.toNat (fun e => { e with fifo := l }) s))
    else .next s

/-- At the schedule start every declared AUTO entry is armed (R409). -/
def ttuAutoArm (s : State) : State :=
  (List.range (tt s 0x44 4)).foldl (fun s n => if decide (teKind s n ≠ 0) && teAuto s n then judge n (autoProg s n) s else s) s

/-- At the enable of an entry, ARMED programming is judged again (R413). -/
def ttuEnable (n : Nat) (s : State) : State :=
  if (ttuEnt s n).status = 1 then judge n (if teKind s n = 2 then .periodic else .full (ttuEnt s n).target) s else s

/-- The level of TRIG pin k: high until its pulse ends, low while gated (Table 11-8, R411). -/
def trigPin (s : State) (k : Nat) : Bool := outEnabled s && decide (s.ptc.edges < tget 0 s.ttu.trigEnd k)

end Sys2Proof.Machine
end

