-- ==== Sys2Proof/Machine/Regs.lean ====
section
/-! DEFINITION. Sys2Proof/Machine/Regs.lean: the content of every register and window of the maintenance space (R13, R58 to R63, R82 to R85,
R115, R116, R157, R158, R196, R227, R266, R421, R490, R560; Tables 17-3 to 17-16). Each block's function takes the offset from the block's
base and answers none for an address that nothing decodes. -/

namespace Sys2Proof.Machine

/-- Element n of an array of words at a base: its number, when the offset is one of its elements. -/
def elem (o base stride n : Nat) : Option Nat :=
  if base ≤ o ∧ (o - base) % stride = 0 ∧ (o - base) / stride < n then some ((o - base) / stride) else none

/-- A field of n bits of a two's complement number. -/
def twos (n : Nat) (v : Int) : Nat := (BitVec.ofInt n v).toNat

/-- DEV block (Tables 0-7, 3-10, 3-11, 16-6). -/
def devReg (s : State) (o : Nat) : Option Word :=
  let b := s.boot
  match o with
  | 0x00 => some 0x8640204A#32
  | 0x04 => some (w32 (8 * b2n b.roleMism + 4 * b2n b.roleValid + 2 * b2n b.chartRole + b2n b.strapRole))
  | 0x08 => some (w32 (256 * b2n b.sealed + 16 * roleCode b.dev + devCode b.dev))
  | 0x0C => some (b.reasons.setWidth 32)
  | 0x10 => some (w32 (65536 * s.aon.count.toNat + 256 * s.aon.prevKind.toNat + 32 * b2n s.aon.flushTrunc + 16 * b2n s.aon.lct + 8 * b2n s.aon.pfail + s.aon.kind.toNat))
  | 0x14 => some b.bootTime
  | 0x18 => some (w32 (256 * b.wipes.toNat + 2 * b2n b.checkFail + b2n b.wipeDone))
  | 0x20 => some (tjReg s)
  | _ => none

/-- HSP_ERR, MEP_CNT, MEP_ERR (Table 14-11). -/
def hostReg (s : State) (o : Nat) : Option Word :=
  let h := s.host
  match o with
  | 0x00 => some (w32 (16777216 * h.errCrc.toNat + 65536 * h.errProtect.toNat + 256 * h.errFrame.toNat))
  | 0x04 => some (w32 (65536 * h.mepOk.toNat + h.mepNonces.toNat))
  | 0x08 => some (w32 (65536 * h.mepAuth.toNat + h.mepReplay.toNat))
  | _ => none

/-- PTC and TTU (Table 12-11); PTC_SECLO and PTC_SECHI show the reading master's latch. -/
def timeReg (s : State) (m : Master) (o : Nat) : Option Word :=
  let p := s.ptc
  let secs := match m with | .hsp => p.hspSecs | .mep => p.mepSecs
  let frac := match m with | .hsp => p.hspFrac | .mep => p.mepFrac
  let cal := s.cal.count / 32768
  match o with
  | 0x00 => some (w32 (2048 * b2n p.onXtal + 1024 * b2n p.gm + 32 * p.sel + 4 * timeQual s + p.status.toNat))
  | 0x04 => some (w32 (ptcNs s % 1000000000))
  | 0x08 => some (w32 secs)
  | 0x0C => some (w32 (65536 * frac.toNat + secs / 2 ^ 32 % 65536))
  | 0x10 => some (offWord p.offset)
  | 0x14 => some (i32 (roundEven p.r))
  | 0x18 => some (w32 (65536 * (utcOf s).2 + twos 16 (utcOf s).1))
  | 0x1C => some p.holdSec
  | 0x40 => some (w32 cal)
  | 0x44 => some (w32 (131072 * b2n s.cal.valid + cal / 2 ^ 32 % 65536))
  | 0x80 => some (s.ttu.pastCnt.setWidth 32)
  | _ =>
    match elem o 0x20 4 4 with
    | some n =>
      let x := tget {} p.srcs n
      some (w32 (1048576 * b2n (p.sel == n) + 524288 * b2n x.valid + 65536 * (srcKind s n % 8) + 256 * x.disc.toNat + x.acc.toNat))
    | none => match elem o 0x30 4 2 with
      | some k =>
        let x := tget {} p.ports k
        some (w32 (2147483648 * b2n x.delayOk + twos 24 (roundEven x.delay)))
      | none => (elem o 0x100 4 64).map (fun n => let x := tget {} s.ttu.ent n; w32 (256 * x.fires.toNat + x.status.toNat))

/-- SEQ (Tables 1-14 to 1-17), by offset from 0x0004_0000. -/
def seqReg (s : State) (o : Nat) : Option Word :=
  let q := s.seq
  match o with
  | 0x00 => some (w32 (65536 * (if q.run then classOf s (q.k % s.hdr.m) % 65536 else 0) + 16 * q.align.toNat + 8 * b2n q.copyBOk + 4 * b2n q.copyAOk + 2 * b2n q.copy + b2n q.run))
  | 0x04 => some (w32 (q.k % s.hdr.m % 65536))
  | 0x08 => some (w32 (q.k / s.hdr.m))
  | 0x0C => some (w32 (16777216 * q.drops.toNat + 65536 * q.adds.toNat + twos 16 (clampI (-32767) 32767 q.err)))
  | 0x10 => some (w32 (twos 24 q.trim))
  | 0x14 => some q.vfailA
  | 0x18 => some q.vlocA
  | 0x1C => some q.vfailB
  | 0x20 => some q.vlocB
  | 0x24 => some (w32 s.hdr.chartId.toNat)
  | 0x28 => some (w32 (s.hdr.chartId.toNat / 2 ^ 32))
  | _ => none

/-- CCK (Table 1-18), by offset from 0x0004_0000. -/
def cckReg (s : State) (o : Nat) : Option Word :=
  let c := s.cck
  match o with
  | 0x100 => some (w32 (65536 * c.code.toNat + b2n c.breach))
  | 0x104 => some c.eccCnt
  | 0x108 => some (w32 (65536 * c.merid.toNat + c.kIdx.toNat))
  | 0x10C => some (w32 (524288 * c.lane.toNat + c.tick.toNat))
  | 0x110 => some (c.bundle.setWidth 32)
  | 0x114 => some c.op
  | _ => none

/-- LBU_OVRn (Table 1-20), by offset from 0x0004_1000. -/
def ovrReg (s : State) (o : Nat) : Option Word :=
  (elem o 0 4 1024).map (fun n => w32 (65536 * (lbuOf s n).ovrSeq.toNat + (lbuOf s n).ovrCnt.toNat))

/-- SDIR_DIRID and SDIR_FCNT (Table 2-10), by offset from 0x0004_0000. -/
def sdirReg (s : State) (o : Nat) : Option Word :=
  match o with
  | 0x200 => some s.dirid
  | 0x204 => some (w32 (s.sdir.filter (fun p => entHeld p.2)).length)
  | _ => none

/-- Word j of an entry (R84, Table 2-1). -/
def entryWord (e : SdirEntry) (j : Nat) : Word :=
  if j = 0 then e.value else if j = 1 then e.wtime
  else if j = 2 then w32 (65536 * e.origin.toNat + e.fmt.toNat)
  else w32 (65536 * e.pathChk.toNat + e.state.toNat)

/-- The observer and its slots (Tables 4-15, 4-16), by offset from 0x0004_0000. -/
def obsReg (s : State) (o : Nat) : Option Word :=
  let acc (l : List Nat) : Nat := (slotsIn s l 2).length
  match o with
  | 0x300 => some (w32 (262144 * (acc (wndSlots s) % 4) + 65536 * (acc (mruSlots s) % 4) + 4096 * (acc (hdgSlots s) % 8) + 256 * (acc (posSlots s) % 16)
      + 128 * b2n s.obs.frame + 16 * (pubStat s true).toNat + (pubStat s false).toNat))
  | 0x304 => some s.obs.drCyc
  | 0x308 => some (s.obs.restCnt.setWidth 32)
  | _ => match elem o 0x310 4 17 with
    | some n => some (w32 (256 * (slot s n).rReason.toNat + 16 * firstOf (slot s n).rReason + (slot s n).rState.toNat))
    | none => (elem o 0x360 4 17).map (fun n => (slot s n).rClean.setWidth 32)

/-- A mask over the eight consequence-analysis groups. -/
def caMask (s : State) (f : CaGroup → Bool) : Nat := ((List.range 8).map (fun g => b2n (f (tget {} s.modes.ca g)) * 2 ^ g)).foldl (· + ·) 0

/-- Modes and allocation (Table 7-18), by offset from 0x0004_0000. -/
def modeReg (s : State) (o : Nat) : Option Word :=
  let m := s.modes
  match o with
  | 0x400 => some (w32 (65536 * ((alphaWord m.m.alpha).toNat % 8192) + 8192 * b2n m.m.ho + 4096 * (m.m.seat % 2) + 256 * (if m.m.mode = 14 then m.sim.mode % 16 else 0)
      + 16 * (armedOf m.m % 16) + m.m.mode % 16))
  | 0x410 => some (w32 (65536 * (m.lastReq.2.2 % 65536) + 256 * (m.lastReq.2.1 % 256) + m.lastReq.1 % 256))
  | 0x414 => some (w32 (65536 * m.holdCyc.toNat + 16 * (m.result % 16) + 8 * b2n m.hold + 4 * b2n m.lost))
  | 0x418 => some (w32 (65536 * (m.flrGrp % 256) + flrRemain s % 65536))
  | 0x41C => some (w32 (65536 * caMask s (fun g => g.verdict == 2) + 256 * caMask s (fun g => g.verdict == 3) + caMask s (fun g => g.alarm)))
  | 0x420 => some m.busGrp
  | _ => (elem o 0x404 4 3).map (fun d => m.hoDiff.getD d 0)

/-- QPS (Table 6-15), by offset from 0x0006_0000. -/
def qpsReg (s : State) (o : Nat) : Option Word :=
  let q := s.qps
  match o with
  | 0x000 => some (w32 (4096 * (q.farTpl % 16) + 256 * (q.fsaTpl % 16) + 16 * b2n (decide (s.cclk < q.farUntil)) + b2n (decide (s.cclk < q.fsaUntil))))
  | 0x200 => some (w32 (32 * b2n q.capFull + 16 * b2n q.capArmed + q.capTpl % 16))
  | _ => match elem o 0x100 4 16, elem o 0x140 4 16, elem o 0x180 4 16 with
    | some n, _, _ => some (tget {} q.tpls n).tstat
    | _, some n, _ => some (tget {} q.tpls n).tsig
    | _, _, some n => some (w32 (65536 * (tget {} q.tpls n).colds.toNat + (tget {} q.tpls n).solves.toNat))
    | _, _, _ => match elem o 0x210 4 8 with
      | some i => some (q.cap.getD i 0)
      | none => (elem o 0x400 4 192).map (fun i => w32 (65536 * q.capRows.getD (2 * i + 1) 0xFFFF + q.capRows.getD (2 * i) 0xFFFF))

/-- LCE (Table 8-11), by offset from 0x0007_0000. -/
def lceReg (s : State) (o : Nat) : Option Word :=
  match o with
  | 0x00 => some (lceStat s)
  | 0x04 => some (lceGrpDis s)
  | 0x10 => some (lceInjReg s)
  | 0x14 => some (w32 s.lce.inj.i)
  | 0x18 => some (lceCapCtl s)
  | 0x1C => some (w32 (s.lce.capCnt % 131072))
  | 0x20 => some (lceCapT0 s)
  | _ => match elem o 0x100 4 256 with
    | some n => some (lceCtxReg s n)
    | none => (elem o 0x8000 4 8192).map (lceWindow s)

/-- FCE and QDC (Table 9-7), by offset from 0x0008_0000. -/
def fceReg (s : State) (o : Nat) : Option Word :=
  match o with
  | 0x00 => some (fceStat s)
  | 0x04 => some (s.fce.ignCnt.setWidth 32)
  | 0x08 => some (fceDis s 0)
  | 0x0C => some (fceDis s 1)
  | 0x10 => some (fceInsel s)
  | _ => match elem o 0x100 4 64, elem o 0x200 4 16 with
    | some n, _ => some (fceChReg s n)
    | _, some q => some (tget 0 s.fce.qcount q)
    | _, _ => (elem o 0x240 4 16).map (fun q => (tget 0 s.fce.qerr q).setWidth 32)

/-- Current loops and HART (Table 10-13), by offset from 0x0009_0000. -/
def loopsReg (s : State) (o : Nat) : Option Word :=
  match o with
  | 0x00 => some (loopFail s)
  | 0x04 => some (loopAlj s)
  | 0x08 => some (loopRbLost s)
  | _ => match elem o 0x100 4 16, elem o 0x140 4 24 with
    | some n, _ => some (lpoReg s n)
    | _, some n => some (lpiReg s n)
    | _, _ => (elem o 0x200 4 40).map (hartReg s)

/-- NAV (Table 5-11), by offset from 0x000A_0000. -/
def navReg (s : State) (o : Nat) : Option Word :=
  let n := s.nav
  let chs := List.range 192
  let count (f : NavChan → Bool) : Nat := (chs.filter (fun c => f (navCh s c))).length
  let held (con : Nat) : Nat := (n.ephs.filter (fun e => e.con == con)).length % 256
  match o with
  | 0x00 => some (w32 (65536 * count (fun v => v.state == 5) + 256 * (if bitOf (nv s 0x43 1) 0 then (if n.hdgFixed then 2 else 1) else 0)
      + 64 * n.acqMode.toNat + 16 * n.tstat.toNat + 8 * b2n n.dgAvail + n.fix.toNat))
  | 0x04 => some (n.gspOk.setWidth 32)
  | 0x08 => some n.epochs
  | 0x0C => some (w32 (65536 * count (fun v => v.power) + 256 * count (fun v => v.cmc) + n.marks.toNat / 4 * 4))
  | 0x10 => some (w32 (65536 * held 2 + 256 * held 1 + held 0))
  | 0x14 => some n.msgErr
  | _ => (elem o 0x100 4 192).map (fun c =>
      let v := navCh s c
      w32 (134217728 * b2n v.slip + 67108864 * b2n (v.state != 0 && n.excluded.contains (conOf v.sig, v.prn)) + 33554432 * b2n v.power + 16777216 * b2n v.cmc
        + 65536 * (v.cn0.floor.toNat % 256) + 4096 * v.state.toNat + 2048 * (v.ant % 2) + 256 * (v.sig % 8) + v.prn % 256))

/-- The field ports and GPIO (Tables 13-12, 16-14), by offset from 0x000B_0000. -/
def portReg (s : State) (o : Nat) : Option Word :=
  if o < 0x8000 then canReg s (o / 0x1000) (o % 0x1000)
  else if o < 0x8C00 then serReg s ((o - 0x8000) / 0x100) (o % 0x100)
  else if 0xC000 ≤ o ∧ o < 0xC400 then ethReg s ((o - 0xC000) / 0x100) (o % 0x100)
  else if 0xF000 ≤ o then gpioReg s (o - 0xF000)
  else none

/-- The words of mailbox registers, MBX_LOCKn as its read by the master would answer (R474). -/
def mbxAreaReg (s : State) (m : Master) (o : Nat) : Option Word :=
  if o % 256 = 0x48 then some (w32 (lockRead (o / 256) (masterNo m) s).1) else mbxReg s (o / 256) (o % 256)

/-- What the word at a maintenance address reads for a master where it is readable; none where nothing decodes it (R559, R560). -/
def regWord (s : State) (m : Master) (a : Nat) : Option Word :=
  if a % 4 ≠ 0 then none
  else if a < 0x1000 then devReg s a
  else if a < 0x2000 then secReg s (a - 0x1000)
  else if a < 0x3000 then pwrReg s (a - 0x2000)
  else if a < 0x10000 then none
  else if a < 0x18000 then evmReg s (a - 0x10000)
  else if a < 0x20000 then recReg s m (a - 0x18000)
  else if a < 0x21000 then mbxAreaReg s m (a - 0x20000)
  else if a < 0x30000 then hostReg s (a - 0x21000)
  else if a < 0x40000 then timeReg s m (a - 0x30000)
  else if a < 0x40100 then seqReg s (a - 0x40000)
  else if a < 0x40200 then cckReg s (a - 0x40000)
  else if a < 0x40300 then sdirReg s (a - 0x40000)
  else if a < 0x40400 then obsReg s (a - 0x40000)
  else if a < 0x41000 then modeReg s (a - 0x40000)
  else if a < 0x42000 then ovrReg s (a - 0x41000)
  else if a < 0x50000 then none
  else if a < 0x60000 then packReg s (a - 0x50000)
  else if a < 0x70000 then qpsReg s (a - 0x60000)
  else if a < 0x80000 then lceReg s (a - 0x70000)
  else if a < 0x90000 then fceReg s (a - 0x80000)
  else if a < 0xA0000 then loopsReg s (a - 0x90000)
  else if a < 0xB0000 then navReg s (a - 0xA0000)
  else if a < 0xC0000 then portReg s (a - 0xB0000)
  else if 0x100000 ≤ a ∧ a < 0x300000 then some (entryWord (entSeen s ((a - 0x100000) / 16)) (a % 16 / 4))
  else none

/-! ### The debug space (R513, R514, R566, Table 15-9). -/

/-- The domain in which a store lies (Table 15-10); the others lie in CORE. -/
def storeDomain (c : Nat) : Option Domain := if c = 1 then some .qps else if c = 3 then some .nav else none

/-- A word of a store. Beyond the store's capacity the spec states no content: a free word. -/
def storeWord (s : State) (c o : Nat) : Word :=
  if (storeDomain c).any (domGated s) then 0
  else if storeCap c ≤ o then Config.layoutWord 17 [c, o]
  else if c = 2 then entryWord (entSeen s (o / 16)) (o % 16 / 4)
  else w32 (leNat (memBytes 0 s.sram (c * 2 ^ 28 + o) 4))

/-- A word of the debug space; none where nothing decodes it. -/
def dbgWord (s : State) (a : Nat) : Option Word :=
  if a % 4 ≠ 0 ∨ s.sec.level.toNat < 2 then none
  else if a = 0x01000000 then some (w32 (4 * b2n s.sec.halted))
  else if a = 0x01000004 then some (w32 (256 * s.sec.swinMib + s.sec.swinCode))
  else if a = 0x01000008 then some (w32 s.sec.traceNext)
  else if 0x01010000 ≤ a ∧ a < 0x01020000 then some ((tget [] s.sec.trace ((a - 0x01010000) / 16)).getD (a % 16 / 4) 0)
  else if 0x01100000 ≤ a ∧ a < 0x01200000 then some (storeWord s s.sec.swinCode (s.sec.swinMib * 2 ^ 20 + (a - 0x01100000)))
  else none

end Sys2Proof.Machine
end

