-- ==== Sys2Proof/Machine/Chk.lean ====
section
/-! DEFINITION. Sys2Proof/Machine/Chk.lean: the language of the verifier's table checks: fields with their reserved bits and ranges,
signal types, counts (R16, R17, R53; Table 1-12). The device is viewed as it would run the copy under judgement. -/

namespace Sys2Proof.Machine

/-- The running-Chart view of an image: its sections where they are loaded, its header. -/
def imgSects (m : Img) : List Sect :=
  (isects m).filterMap (fun x => x.type.map (fun t => { type := t, inst := x.inst, dest := x.dest, len := x.len, unpack := x.unpack }))

/-- The device as it would run an image that has been streamed. -/
def viewOf (m : Img) (s : State) : State :=
  { s with sects := imgSects m, hdr := hdrOf m, boot := { s.boot with chartRole := iRole m } }

/-- The section-table index of a section. -/
def secIdx (v : State) (t : SectType) (i : Nat) : Nat := v.sects.findIdx (fun x => x.type = t ∧ x.inst = i)

/-- LENGTH and UNPACK_LEN of a section. -/
def secLen (v : State) (t : SectType) (i : Nat) : Nat := ((sectOf v t i).map (fun x => x.len)).getD 0
def secUnpack (v : State) (t : SectType) (i : Nat) : Nat := ((sectOf v t i).map (fun x => x.unpack)).getD 0

/-- One check of a section: code 0x18 TABLE at a byte offset of it. -/
def tab (v : State) (t : SectType) (i loc : Nat) (ok : Bool) : List Verdict := chk ok 0x18 (secIdx v t i) loc

/-- A count above its maximum: 0x0B CAPACITY (R17). -/
def cap (v : State) (t : SectType) (i loc n top : Nat) : List Verdict := chk (decide (n ≤ top)) 0x0B (secIdx v t i) loc

/-- A field of a table: offset, width in bytes, reserved bits; whether its value is judged, as a signed number or not, and its range. -/
structure Fd where
  off : Nat
  w   : Nat
  rsv : Nat := 0
  rng : Bool := false
  sgn : Bool := false
  lo  : Int := 0
  hi  : Int := 0
  deriving DecidableEq, Repr

/-- An unsigned field with a range. -/
def fU (off w lo hi : Nat) : Fd := { off := off, w := w, rng := true, lo := lo, hi := hi }
/-- A signed field with a range. -/
def fS (off w : Nat) (lo hi : Int) : Fd := { off := off, w := w, rng := true, sgn := true, lo := lo, hi := hi }
/-- A field of which only the lowest n bits are defined. -/
def fBits (off w n : Nat) : Fd := { off := off, w := w, rsv := 2 ^ (8 * w) - 2 ^ n }
/-- A field of which only the lowest n bits are defined, with a range. -/
def fBitsU (off w n lo hi : Nat) : Fd := { off := off, w := w, rsv := 2 ^ (8 * w) - 2 ^ n, rng := true, lo := lo, hi := hi }
/-- A signal index in [16:0]. -/
def fIx (off : Nat) : Fd := fBits off 4 17
/-- A run of reserved bytes. -/
def fZ (off n : Nat) : Fd := { off := off, w := n, rsv := 2 ^ (8 * n) - 1 }

/-- A field's verdicts: 0x0A RESERVED for a reserved bit that is set, 0x18 TABLE for a value outside its range. -/
def fdFail (v : State) (t : SectType) (i base : Nat) (f : Fd) : List Verdict :=
  let n := fld v t i (base + f.off) f.w
  let x : Int := if f.sgn then signedOf (8 * f.w) n else ((n - (n &&& f.rsv) : Nat) : Int)
  chk (n &&& f.rsv == 0) 0x0A (secIdx v t i) (base + f.off) ++ tab v t i (base + f.off) (!f.rng || decide (f.lo ≤ x ∧ x ≤ f.hi))

def fdFails (v : State) (t : SectType) (i base : Nat) (l : List Fd) : List Verdict := l.flatMap (fdFail v t i base)

/-- The accepted section version of every type is 0x0001. For SEQP and LBUT another is 0x02 FORMAT (R35), for the rest 0x18 TABLE. -/
def sverFail (m : Img) (v : State) (t : SectType) : List Verdict :=
  ((isects m).filter (fun x => x.type == some t && x.sver != 1)).flatMap (fun x => tab v t x.inst 0 false)

/-! ### Signal types (Table 2-2). -/

/-- What a table requires of a signal. -/
inductive Ty where
  | sfx | ufx | bam | bool | enum | num | any | time
  | enumMax (n : Nat)
  | sfxE (e : Int)
  | ufxE (e : Int)
  | sxuf
  deriving DecidableEq, Repr

def tyOk (v : State) (i : Nat) (ty : Ty) : Bool :=
  let e := ent v i
  let k := entType e
  decide (i < 131072) && match ty with
    | .sfx => k == 1
    | .ufx => k == 2
    | .bam => k == 3
    | .bool => k == 4
    | .enum => k == 5
    | .num => k == 1 || k == 2 || k == 3
    | .any => k != 0
    | .time => k == 6
    | .enumMax n => k == 5 && entMax e == n
    | .sfxE x => k == 1 && entExp e == x
    | .ufxE x => k == 2 && entExp e == x
    | .sxuf => k == 1 || k == 2

/-- Consecutive signals have the types of a list. -/
def tysOk (v : State) (first : Nat) (l : List Ty) : Bool := l.zipIdx.all (fun p => tyOk v (first + p.2) p.1)

/-- The signal run that a field names has these types. -/
def tyFd (v : State) (t : SectType) (i off : Nat) (l : List Ty) : List Verdict :=
  tab v t i off (tysOk v (fld v t i off 4 % 2 ^ 17) l)

/-! ### Signal runs. -/

/-- A run of signals: first and count. -/
abbrev Run := Nat × Nat

def runsMeet (a b : Run) : Bool := decide (a.1 < b.1 + b.2 ∧ b.1 < a.1 + a.2)
def anyMeet (l k : List Run) : Bool := l.any (fun a => k.any (runsMeet a))
def runAll (r : Run) (f : Nat → Bool) : Bool := (List.range r.2).all (fun j => f (r.1 + j))

/-- Byte ranges of a list are pairwise apart. -/
def rangesApart : List Run → Bool
  | [] => true
  | a :: l => l.all (fun b => a.2 == 0 || b.2 == 0 || !runsMeet a b) && rangesApart l

/-- Every bit of a run of bytes of a section is zero. -/
def zeroAt (v : State) (t : SectType) (i off n : Nat) : Bool := fld v t i off n == 0

/-- A MANAGER-only thing in a WORKER Chart: 0x0F ROLEFN (R6). -/
def roleFn (v : State) (t : SectType) (i loc : Nat) (ok : Bool) : List Verdict := chk ok 0x0F (secIdx v t i) loc

end Sys2Proof.Machine
end

