-- ==== Sys2Proof/Machine/Chk09.lean ====
section
/-! DEFINITION. Sys2Proof/Machine/Chk09.lean: the verifier on FCEC (R307, R310, R313, R314; Tables 9-3, 9-6). That no PGATE names ANA is judged with
the schedule. -/

namespace Sys2Proof.Machine

def fceChanFails (v : State) (c : Nat) : List Verdict :=
  let d := fc v 0 4 + 64 * c
  let t (l : Nat) (ok : Bool) : List Verdict := tab v .fcec 0 (d + l) ok
  let q := decide (48 ≤ c)
  let pool := fc v 8 4
  let r := fch v c 4 2
  let n := fch v c 2 1
  fdFails v .fcec 0 d [fBits 0 1 4, fBits 1 1 3, fZ 0x24 28]
    ++ (if fcEnabled v c = false then t 0 ((List.range 64).all (fun o => o == 0 || fch v c o 1 == 0))
      else
        fdFails v .fcec 0 d ([fU 2 1 1 5, fU 4 2 2 4096, fU 9 1 0 4, fU 0xE 2 1 65535, fU 0x1C 1 0 31, fU 0x1D 1 1 255] ++ (List.range 4).map (fun k => fU (0xA + k) 1 0 31))
          ++ t 3 (if fcRank v c then decide (3 ≤ fch v c 3 1 ∧ fch v c 3 1 ≤ 15) else fch v c 3 1 == 0) ++ t 6 (if fcRank v c then decide (fch v c 6 1 ≤ fch v c 3 1) else fch v c 6 1 == 0)
          ++ t 7 (if fcFir v c then decide (1 ≤ fch v c 7 1 ∧ fch v c 7 1 ≤ 128) else fch v c 7 1 == 0) ++ t 8 (if fcFir v c then decide (1 ≤ fch v c 8 1 ∧ fch v c 8 1 ≤ 16) else fch v c 8 1 == 1)
          ++ t 0x10 (!fcFir v c || decide (fch v c 0x10 4 + fch v c 7 1 ≤ pool)) ++ t 0x14 (fch v c 9 1 == 0 || decide (fch v c 0x14 4 + 5 * fch v c 9 1 ≤ pool))
          ++ t 0x1E (if q then decide (1 ≤ fch v c 0x1E 1 ∧ fch v c 0x1E 1 ≤ 15) else fch v c 0x1E 1 == 0) ++ t 0x1F (if q then decide (fch v c 0x1F 1 ≤ 31) else fch v c 0x1F 1 == 0)
          ++ t 4 (decide (r ^ n ≤ 2 ^ 62 ∧ r ^ n ≤ (2 ^ 31 - 1) * 2 ^ fcSh v c 0 ∧ 32 ≤ r * fch v c 8 1)))

/-- An LBUT entry of an FCE channel (Table 9-3). -/
def fceLbuOk (v : State) (k : Nat) : Bool :=
  let src := lbutFld v k 0 2
  let c := src % 1024
  let w := lbutFld v k 2 1
  let t := lbutFld v k 4 4 % 2 ^ 17
  src / 1024 != 7 || (fcEnabled v c && decide (w ≤ (if c < 48 then 3 else 4)) && tysOk v t ([Ty.sfx, .sfx, .ufxE 0, .bam].take w)
    && (decide (w < 2) || entExp (ent v t) == entExp (ent v (t + 1))))

def fcecFails (v : State) : List Verdict :=
  let lbus := (List.range (lbuCnt v)).flatMap (fun k => tab v .lbut 0 (16 + 16 * k) (fceLbuOk v k))
  if hasSect v .fcec 0 = false then lbus
  else
    let len := secLen v .fcec 0
    let on := (List.range 64).filter (fcEnabled v)
    let minR := on.foldl (fun a c => min a (fch v c 4 2)) 4096
    fdFails v .fcec 0 0 [fZ 0xC 52] ++ tab v .fcec 0 0 (fc v 0 4 % 64 == 0 && decide (fc v 0 4 + 4096 ≤ len)) ++ tab v .fcec 0 4 (fc v 4 4 % 4 == 0 && decide (fc v 4 4 + 4 * fc v 8 4 ≤ len))
      ++ (List.range 64).flatMap (fceChanFails v) ++ tab v .fcec 0 0 (decide ((on.map (fun c => fceCost v c true)).foldl (· + ·) 0 ≤ 17 * minR)) ++ lbus

end Sys2Proof.Machine
end

