-- ==== Sys2Proof/Machine/Chk04.lean ====
section
/-! DEFINITION. Sys2Proof/Machine/Chk04.lean: the verifier on the observer part of VMDL (R125 to R127, R155; Tables 4-1 to 4-13). -/

namespace Sys2Proof.Machine

/-- The KINDs permitted in a slot (Table 4-1). -/
def kindAllowed (n k : Nat) : Bool :=
  if n < 8 then decide (1 ≤ k ∧ k ≤ 5) else if n < 12 then k == 6 || k == 7 else if n < 15 then k == 8 else k == 9

/-- Is slot n below the count of its class? -/
def slotUsed (v : State) (n : Nat) : Bool :=
  decide (if n < 8 then n < vm v 8 1 else if n < 12 then n - 8 < vm v 9 1 else if n < 15 then n - 12 < vm v 10 1 else n - 15 < vm v 11 1)

/-- Inputs of a KIND (Table 4-2). -/
def kindTys : Nat → List Ty
  | 1 | 2 => [.bam, .bam, .sfx, .enum]
  | 3 => [.sfx, .sfx, .sfx, .sfx, .sfx]
  | 4 => [.bam, .bam, .sfx, .sfx, .sfx]
  | 5 => [.sfx, .bam, .bool]
  | 6 => [.bam, .bool]
  | 7 => [.bam, .bam, .enum]
  | 8 => [.bam, .bam, .sfx, .bool]
  | 9 => [.ufx, .bam, .bool]
  | _ => []

/-- The status group of a slot (Table 4-13). -/
def slotOutTys (n : Nat) : List Ty :=
  if n < 8 then [.enumMax 5, .ufx, .bool, .ufxE (-16), .sfx, .sfx, .ufxE (-8), .sfx]
  else if n < 12 then [.enumMax 5, .ufx, .bool, .ufxE (-16), .bam, .ufxE (-8), .bam]
  else [.enumMax 5, .ufx, .bool]

/-- The observer's output group (Table 4-12). -/
def obsTys : List Ty :=
  [.sfx, .sfx, .bam, .sfx, .sfx, .sfx, .sfx, .sfx, .sfx, .sfx, .sfx, .bam, .sfx, .sfx, .bam, .enumMax 4, .enumMax 4, .ufx, .enumMax 8, .enumMax 4]

/-- The fields of a slot descriptor with their ranges (Table 4-4). A field that no condition of the slot's class uses (Table 4-6),
and FIX_MIN of a KIND without a fix code, is 0 (R126; DEDUCED, log 44). -/
def slotFields (n k : Nat) : List Fd :=
  let zero (off w : Nat) : Fd := fU off w 0 0
  [fBits 1 1 2, fIx 4, fIx 8, fZ 0x3C 4, fU 0x38 4 0 1000000000]
    ++ (if k = 1 ∨ k = 2 ∨ k = 7 then [] else [zero 2 1])
    ++ (if n < 8 then [] else [zero 0xC 2, zero 0xE 2, zero 0x10 2] ++ (if n < 12 then [fBitsU 1 1 2 0 1] else [zero 1 1]))
    ++ (if k = 0 then [zero 3 1, zero 4 4, zero 8 4, zero 0x12 1, zero 0x13 1, zero 0x14 4, zero 0x18 4, zero 0x1C 4, zero 0x20 4, zero 0x24 4, zero 0x28 1,
          zero 0x29 1, zero 0x2A 2, zero 0x2C 4, zero 0x30 4, zero 0x34 4, zero 0x38 4, zero 1 1, zero 0xC 2, zero 0xE 2, zero 0x10 2]
      else if n < 12 then [fU 0x12 1 2 255, fU 0x13 1 8 64, fU 0x20 4 1 0xFFFFFFFF, fU 0x28 1 1 32, fU 0x29 1 0 15, fU 0x2A 2 1 65535, fU 0x34 4 1 4000000]
      else [fU 0x12 1 2 255, zero 3 1, zero 0x13 1, zero 0x1C 4, zero 0x20 4, zero 0x24 4, zero 0x28 1, zero 0x29 1, zero 0x2C 4,
          if n < 15 then fU 0x2A 2 1 65535 else zero 0x2A 2, fU 0x34 4 1 4000000])

/-- WCAP is 0 or 128 to 255. -/
def wcapOk (w : Nat) : Bool := w == 0 || decide (128 ≤ w)

def slotFails (v : State) (n : Nat) : List Verdict :=
  let b := vm v 4 4 + 64 * n
  let k := slotKind v n
  if slotUsed v n then
    fdFails v .vmdl 0 b (slotFields n k) ++ tab v .vmdl 0 b (kindAllowed n k) ++ tab v .vmdl 0 (b + 3) (12 ≤ n || wcapOk (sl v n 3 1))
      ++ tyFd v .vmdl 0 (b + 4) (kindTys k) ++ tyFd v .vmdl 0 (b + 8) (slotOutTys n)
  else tab v .vmdl 0 b (k == 0) ++ fdFails v .vmdl 0 b (slotFields n k)

/-- The observer block (Table 4-8): a length of one pack cycle in DT. -/
def obsBlockFails (v : State) : List Verdict :=
  let b := vm v 0 4
  let mid (o : Nat) : Bool := decide (-31 ≤ obS v o 1 ∧ obS v o 1 ≤ 31)
  fdFails v .vmdl 0 b [fIx 0, fIx 4, fIx 8, fIx 0xC, fIx 0x10, fIx 0x14, fZ 0x139 3, fZ 0x150 48, fU 0x144 4 1 65535, fU 0x148 4 1 0xFFFFFFFF, fU 0x14C 4 256 65535]
    ++ tyFd v .vmdl 0 b obsTys ++ tyFd v .vmdl 0 (b + 4) [.sfx, .sfx, .sfx] ++ tyFd v .vmdl 0 (b + 8) [.enumMax 1]
    ++ tyFd v .vmdl 0 (b + 0xC) [.bam, .bam, .bam, .sfx, .enum] ++ tyFd v .vmdl 0 (b + 0x10) [.bam, .bam] ++ tyFd v .vmdl 0 (b + 0x14) [.sfx, .sfx, .sfx]
    ++ tab v .vmdl 0 (b + 0x90) (((ob v 0x90 4 : Nat) : Int) == roundEven ((((v.hdr.p * v.hdr.f : Nat) : Rat) * 5 / 2000000000) * 4294967296))
    ++ (List.range 18).flatMap (fun i => tab v .vmdl 0 (b + 0x124 + i) (mid (0x124 + i) && (!isAngle i || ob v (0x124 + i) 1 == 0)))
    ++ tab v .vmdl 0 (b + 0x137) (mid 0x137) ++ tab v .vmdl 0 (b + 0x138) (mid 0x138)

/-- A matrix descriptor (R155). -/
def matFails (v : State) (d : Nat) : List Verdict :=
  let b := vm v 0x10 4 + 16 * d
  let m := vm v (b + 12) 1
  let n := vm v (b + 13) 1
  let k := vm v (b + 14) 1
  let mat (o r c : Nat) : Bool := runAll (vm v (b + o) 4 % 2 ^ 17, r * c) (fun i => tyOk v i .sfx)
  let c0 := vm v (b + 8) 4 % 2 ^ 17
  fdFails v .vmdl 0 b [fIx 0, fIx 4, fIx 8, fU 12 1 1 64, fU 13 1 0 64, fU 14 1 1 64, fBits 15 1 2]
    ++ tab v .vmdl 0 b ((if n = 0 then mat 0 m k && mat 4 m k else mat 0 m n && mat 4 n k) && mat 8 m k
      && runAll (c0, m * k) (fun i => entExp (ent v i) == entExp (ent v c0)))

/-- VMDL: header, slots, observer block, wind block, matrices (R125 to R127). -/
def vmdlFails (v : State) : List Verdict :=
  if hasSect v .vmdl 0 = false then []
  else
    let len := secLen v .vmdl 0
    let obs := vm v 0 4
    let mats := vm v 0x14 2
    cap v .vmdl 0 8 (vm v 8 1) 8 ++ cap v .vmdl 0 9 (vm v 9 1) 4 ++ cap v .vmdl 0 10 (vm v 10 1) 3 ++ cap v .vmdl 0 11 (vm v 11 1) 2 ++ cap v .vmdl 0 0x14 mats 1024
      ++ fdFails v .vmdl 0 0 [fZ 0x16 2, fZ 0x20 32]
      ++ tab v .vmdl 0 0 (obs % 64 == 0 && decide (obs + 384 ≤ len)) ++ tab v .vmdl 0 4 (vm v 4 4 % 64 == 0 && decide (vm v 4 4 + 1088 ≤ len))
      ++ tab v .vmdl 0 0xC (if vm v 11 1 = 0 then vm v 0xC 4 == 0 else decide (vm v 0xC 4 + 480 ≤ len))
      ++ tab v .vmdl 0 0x10 (decide (vm v 0x10 4 + 16 * mats ≤ len)) ++ tab v .vmdl 0 0x18 (decide (vm v 0x18 4 + vm v 0x1C 4 ≤ len))
      ++ (List.range 17).flatMap (slotFails v)
      ++ obsBlockFails v
      ++ (if vm v 11 1 = 0 then [] else fdFails v .vmdl 0 (vm v 0xC 4) [fS 0xC 1 (-31) 31, fS 0xD 1 (-31) 31, fU 0xE 1 0 20, fU 0xF 1 0 20, fZ 0x14 12, fZ 0x1DC 4])
      ++ (List.range (min mats 1024)).flatMap (matFails v)

end Sys2Proof.Machine
end

