-- ==== Sys2Proof/Machine/Chk05.lean ====
section
/-! DEFINITION. Sys2Proof/Machine/Chk05.lean: the verifier on NAVC (R161, R167, R168; Tables 5-1, 5-3, 5-8). The order and the recurrence of
the epoch operations are judged with the schedule. -/

namespace Sys2Proof.Machine

/-- Bandwidth of a signal in Hz (Table 5-1). -/
def sigBw (g : Nat) : Nat := if g = 0 ∨ g = 6 then 2046000 else if g = 2 ∨ g = 4 then 4092000 else 20460000

/-- The types of a channel record, the epoch header, the PVT and the heading group (Table 5-8). -/
def chanTys : List Ty :=
  [.ufx, .sfxE (-6), .bam, .sfxE (-8), .ufxE (-8), .ufxE 0, .sfxE (-5), .sfxE (-5), .sfxE (-5), .sfxE (-12), .sfxE (-12), .sfxE (-12), .sfxE (-8), .sfxE (-8), .bam, .ufx]
def epochTys : List Ty := [.ufx, .ufx, .ufx, .ufx, .ufx, .sfxE 0, .ufx, .ufx]
def pvtTys : List Ty := [.bam, .bam, .sfx, .enumMax 5, .sfx, .sfx, .sfx, .sfx, .sfx, .sfx, .ufx, .ufx, .ufx, .ufx, .sfx, .enum]
def hdgTys : List Ty := [.bam, .bam, .enum, .bam, .sfx, .ufx]

def navFields : List Fd :=
  [fBits 0x40 1 7, fU 0x42 1 0 3, fBits 0x43 1 2, fU 0x52 1 0 30, fU 0x53 1 1 64, fU 0x54 2 500 10000, fU 0x56 2 320 2048, fU 0x58 2 100 2000, fU 0x5A 2 50 2000,
    fU 0x60 2 20 5000, fU 0x62 2 0 600, fU 0x64 2 256 5120, fU 0x66 2 512 10240, fU 0x68 2 13 1024, fU 0x6A 2 50 2000, fU 0x6C 1 1 40, fU 0x6D 1 4 24, fU 0x6E 1 1 20,
    fU 0x6F 1 2 60, fU 0x70 2 256 51200, fU 0x78 1 2 24, fU 0x79 1 1 255, fU 0x7A 1 128 255, fU 0x7C 4 10 1000000, fU 0x8A 2 1 600, fU 0x8C 4 32768 327680,
    fU 0x92 2 384 4096, fIx 0x98, fIx 0x9C, fIx 0xA0, fZ 0xAB 1, fIx 0xAC, fZ 0xB0 16]

/-- R161 on a port for one signal, in twentieths of a hertz. -/
def ifOk (v : State) (p g : Nat) : Bool :=
  let f : Int := if g = 4 then 1561098000 else if isL1 g then 1575420000 else 1176450000
  let d : Int := f - (nv v (16 * p + 4) 4 : Nat)
  decide (20 * d.natAbs + 10 * sigBw g ≤ 9 * portRate v p)

def navcFails (v : State) : List Verdict :=
  if hasSect v .navc 0 = false then []
  else
    let pool (a g : Nat) : Nat := nv v (0x44 + 7 * a + g) 1
    let hz := nv v 0x41 1
    let meas := nv v 0xA0 4 % 2 ^ 17
    fdFails v .navc 0 0 navFields ++ tab v .navc 0 0x41 ([1, 2, 5, 10, 20].contains hz) ++ tab v .navc 0 0x5E (decide (nv v 0x5E 2 < nv v 0x5C 2))
      ++ (List.range 4).flatMap (fun p =>
        fdFails v .navc 0 (16 * p) [fBits 8 1 3, fZ 9 7]
          ++ (if portOn v p then tab v .navc 0 (16 * p) (decide (16368000 ≤ portRate v p ∧ portRate v p ≤ 100000000))
            ++ tab v .navc 0 (16 * p + 4) ((List.range 7).all (fun g => !bitOf (nv v 0x40 1) g || isL1 g != (p % 2 == 0) || ifOk v p g)) else []))
      ++ tab v .navc 0 0x44 (decide ((((List.range 14).map (fun j => nv v (0x44 + j) 1)).foldl (· + ·) 0) ≤ 192))
      ++ tab v .navc 0 0x44 ((List.range 2).all (fun a => (List.range 7).all (fun g => pool a g == 0 || (bitOf (nv v 0x40 1) g && portOn v (portOf a g)))))
      ++ tab v .navc 0 0x43 (!bitOf (nv v 0x43 1) 0 || (portOn v 0 && portOn v 2))
      ++ (List.range (lbuCnt v)).flatMap (fun k =>
        let src := lbutFld v k 0 2
        let t := lbutFld v k 4 4 % 2 ^ 17
        let c := src % 1024
        (if src / 1024 = 0x0A then
          tab v .navc 0 0xA0 (t == meas + 16 * c) ++ tab v .navc 0 0xA0 (tysOk v t ((if c = 192 then epochTys else chanTys).take (lbutFld v k 2 1)))
        else []) ++ (if src = 0x0B * 1024 then tab v .navc 0 0xAC (t == nv v 0xAC 4 % 2 ^ 17) else []))
      ++ tyFd v .navc 0 0x98 pvtTys ++ tyFd v .navc 0 0x9C hdgTys

end Sys2Proof.Machine
end

