-- ==== Sys2Proof/Machine/Chk06.lean ====
section
/-! DEFINITION. Sys2Proof/Machine/Chk06.lean: the verifier on QPST (R200 to R204, R207, R209, R219, R224; Tables 6-2 to 6-4, 6-10). The
sequence of R199 is judged with the schedule. -/

namespace Sys2Proof.Machine

def qpBlkCnt (v : State) (t : Nat) : Nat := qd v t 0x14 2
def qpListCnt (v : State) (t : Nat) : Nat := qd v t 0x16 2

/-- Rows and columns of a matrix (R201). -/
def matDims (v : State) (t mat : Nat) : Nat × Nat :=
  let n := qN v t
  match mat with
  | 0 => (n, n) | 2 => (qMeq v t, n) | 4 => (qMg v t, n) | 1 | 6 | 7 | 8 => (n, 1) | 3 => (qMeq v t, 1) | 5 => (qMg v t, 1) | _ => (384, 384)

/-- Do two blocks share an element? -/
def blksMeet (a b : QpBlk) : Bool := a.mat == b.mat && runsMeet (a.row0, a.rows) (b.row0, b.rows) && runsMeet (a.col0, a.cols) (b.col0, b.cols)

/-- The block table (R201). DEDUCED, log 146: a block is a rectangle with at least one element. -/
def blocksOk (v : State) (t : Nat) : Bool :=
  let l := (List.range (qpBlkCnt v t)).map (qBlk v t)
  let xs := l.filter (fun k => k.mat == 8)
  l.all (fun k => decide (k.mat ≤ 15 ∧ -31 ≤ k.exp ∧ k.exp ≤ 31 ∧ k.row0 + k.rows ≤ (matDims v t k.mat).1 ∧ k.col0 + k.cols ≤ (matDims v t k.mat).2 ∧ 1 ≤ k.rows ∧ 1 ≤ k.cols))
    && (List.range l.length).all (fun i => (List.range i).all (fun j => !blksMeet (qBlk v t i) (qBlk v t j)))
    && (xs.map (fun k => k.rows)).foldl (· + ·) 0 == qN v t
    && l.all (fun k => !(k.mat == 6 || k.mat == 7) || xs.any (fun x => x.row0 == k.row0 && x.rows == k.rows && x.exp == k.exp))

/-- Wp: words of the blocks that hold data. -/
def areaWords (v : State) (t : Nat) : Nat :=
  (((List.range (qpBlkCnt v t)).map (qBlk v t)).filter (fun k => k.mat != 8)).foldl (fun a k => a + k.rows * k.cols) 0

/-- The smallest work area (R202). -/
def areaMin (v : State) (t : Nat) : Nat :=
  let n := qN v t
  4 * (areaWords v t + 2 * n * n + 8 * n + 3 * (qMeq v t + qMg v t) + 64)

def qEntry (v : State) (t e off n : Nat) : Nat := qp v (qd v t 0x18 4 + 16 * e + off) n

/-- A list entry: opcode, blocks, types, shapes (R203, R207, R224). -/
def fsaEntryOk (v : State) (t e : Nat) : Bool :=
  let opc := qEntry v t e 0 1 % 64
  let dst := qEntry v t e 2 2
  let s1 := qEntry v t e 4 4 % 2 ^ 24
  let s2 := qEntry v t e 8 4 % 2 ^ 24
  let k := qBlk v t dst
  let n := k.rows * k.cols
  let sigs (c : Nat) (ty : Ty) : Bool := decide (s1 + c ≤ 131072) && runAll (s1, c) (fun i => tyOk v i ty)
  decide (dst < qpBlkCnt v t) && (k.mat != 8 || opc == 9) && (!(qHconst v t && k.mat == 0) || opc == 1 || opc == 3)
    && match opc with
      | 0x01 => decide (s1 + n ≤ qp v 0xC 4)
      | 0x02 => sigs n .sxuf
      | 0x03 => decide (s1 + 4 * n ≤ secLen v .vmdl 0)
      | 0x04 => sigs 1 .sxuf
      | 0x05 =>
        let a := qBlk v t s1
        let b := qBlk v t s2
        decide (s1 < qpBlkCnt v t ∧ s2 < qpBlkCnt v t) && a.rows == k.rows && b.cols == k.cols && a.cols == b.rows && a.mat != 8 && b.mat != 8
      | 0x06 => k.rows == k.cols && sigs k.rows .sxuf
      | 0x07 => k.rows == 2 && k.cols == 2 && decide (-30 ≤ k.exp) && sigs 1 .bam
      | 0x08 => k.cols == 1 && sigs k.rows .sxuf
      | 0x09 => k.mat == 8 && sigs k.rows .bool
      | 0x0A => k.mat == 5 && sigs k.rows .bool
      | 0x0B => true
      | _ => false

/-- Reserved bits of a list entry; PRM holds a pool or VMDL exponent in [7:0]. -/
def fsaEntryFails (v : State) (t e : Nat) : List Verdict :=
  let o := qd v t 0x18 4 + 16 * e
  let opc := qEntry v t e 0 1 % 64
  fdFails v .qpst 0 o [fBits 0 1 7, fZ 1 1, fBits 4 4 24, fBits 8 4 24]
    ++ (if opc = 1 ∨ opc = 3 then fdFails v .qpst 0 o [fBits 12 4 8, fS 12 1 (-31) 31] else [])
    ++ tab v .qpst 0 o (fsaEntryOk v t e)

/-- Every block but an X block is first written by LDK, LDS, LDV or ROT (R204); the last entry ends a segment. -/
def fsaOrderOk (v : State) (t : Nat) : Bool :=
  let l := List.range (qpListCnt v t)
  let touches (b e : Nat) : Bool :=
    qEntry v t e 2 2 == b || (qEntry v t e 0 1 % 64 == 5 && (qEntry v t e 4 4 % 2 ^ 24 == b || qEntry v t e 8 4 % 2 ^ 24 == b))
  (List.range (qpBlkCnt v t)).all (fun b => (qBlk v t b).mat == 8 ||
    match l.find? (touches b) with
    | some e => qEntry v t e 2 2 == b && [1, 2, 3, 7].contains (qEntry v t e 0 1 % 64)
    | none => false)
  && bitOf (qEntry v t (qpListCnt v t - 1) 0 1) 6

/-- The solution and status signals (R219, Table 6-10). -/
def qpOutTys (v : State) (t : Nat) : List Ty := [.enumMax 4, .ufxE 0, .ufxE 0, .ufxE 0, .sfxE (eObj v t), .sfxE (eSl v t)]

def tplFails (v : State) (t : Nat) : List Verdict :=
  let d := qp v 4 4 + 128 * t
  let a := qd v t 0x1C 4
  let x := qd v t 0x24 4 % 2 ^ 17
  cap v .qpst 0 d (qN v t) 384 ++ cap v .qpst 0 (d + 2) (qMeq v t) 64 ++ cap v .qpst 0 (d + 4) (qMg v t) 1536
    ++ cap v .qpst 0 (d + 0x14) (qpBlkCnt v t) 256 ++ cap v .qpst 0 (d + 0x16) (qpListCnt v t) 4096
    ++ fdFails v .qpst 0 d ([fU 0 2 1 384, fU 2 1 0 64, fBits 3 1 1, fU 4 2 0 1536, fU 6 2 1 4095, fU 0x14 2 1 256, fU 0x16 2 1 4096, fIx 0x24, fIx 0x28,
      fU 0x2C 4 1 0x7FFFFFFF, fU 0x30 4 0 0x7FFFFFFF, fU 0x34 4 1 0x7FFFFFFF, fZ 0x42 62] ++ (List.range 10).map (fun i => fS (0x38 + i) 1 (-31) 31))
    ++ tab v .qpst 0 (d + 0xC) (decide (1 ≤ qd v t 0xC 4) && v.hdr.m % qd v t 0xC 4 == 0)
    ++ tab v .qpst 0 (d + 0x10) (decide (qd v t 0x10 4 + 12 * qpBlkCnt v t ≤ secLen v .qpst 0)) ++ tab v .qpst 0 (d + 0x18) (decide (qd v t 0x18 4 + 16 * qpListCnt v t ≤ secLen v .qpst 0))
    ++ tab v .qpst 0 (d + 0x1C) (a % 64 == 0 && decide (secLen v .qpst 0 ≤ a ∧ a + qd v t 0x20 4 ≤ secUnpack v .qpst 0)) ++ tab v .qpst 0 (d + 0x20) (decide (areaMin v t ≤ qd v t 0x20 4))
    ++ tab v .qpst 0 (d + 0x2C) (decide (pow2 (-eDinv v t - 31) ≤ pivFloor v t))
    ++ (List.range (qpBlkCnt v t)).flatMap (fun b => fdFails v .qpst 0 (qd v t 0x10 4 + 12 * b) [fZ 10 2]) ++ tab v .qpst 0 (qd v t 0x10 4) (blocksOk v t)
    ++ (List.range (qpListCnt v t)).flatMap (fsaEntryFails v t) ++ tab v .qpst 0 (qd v t 0x18 4) (fsaOrderOk v t)
    ++ tab v .qpst 0 (d + 0x24) ((List.range (qN v t)).all (fun j => tyOk v (x + j) (.sfxE (xExp v t j)))) ++ tyFd v .qpst 0 (d + 0x28) (qpOutTys v t)

def qpstFails (v : State) : List Verdict :=
  if hasSect v .qpst 0 = false then []
  else
    let n := min 16 (tplCnt v)
    let len := secLen v .qpst 0
    cap v .qpst 0 0 (tplCnt v) 16 ++ fdFails v .qpst 0 0 [fZ 0x10 48] ++ tab v .qpst 0 0 (decide (1 ≤ tplCnt v))
      ++ tab v .qpst 0 4 (qp v 4 4 % 64 == 0 && decide (qp v 4 4 + 128 * n ≤ len)) ++ tab v .qpst 0 8 (qp v 8 4 % 4 == 0 && decide (qp v 8 4 + 4 * qp v 0xC 4 ≤ len))
      ++ (List.range n).flatMap (tplFails v)
      ++ tab v .qpst 0 0 (rangesApart ((List.range n).map (fun t => (qd v t 0x1C 4, qd v t 0x20 4))))

end Sys2Proof.Machine
end

