-- ==== Sys2Proof/Machine/Chk07.lean ====
section
/-! DEFINITION. Sys2Proof/Machine/Chk07.lean: the verifier on STMT and on the thruster and prediction part of VMDL (R234, R240, R241, R247,
R251, R259, R264, R265; Tables 7-3, 7-6 to 7-10, 7-13, 7-15 to 7-17). -/

namespace Sys2Proof.Machine

/-! ### STMT. -/

/-- Is the thruster part present? -/
def hasThr (v : State) : Bool := hasSect v .vmdl 0 && vm v 0x1C 4 != 0

/-- NARROW: no bit for a forbidden transition; the transition to ISOLATED stays permitted. -/
def narrowOk (v : State) (i : Nat) : Bool :=
  let w := sm v (2 * (i - 1)) 2
  (List.range 16).all (fun b => !bitOf w b || (permitted i).contains (b + 1)) && (i == 1 || bitOf w 0)

/-- The mode output group (Table 7-17). -/
def modeOutTys : List Ty := [.enumMax 14, .enumMax 14, .ufxE (-12), .enumMax 14, .ufx, .bool, .bool, .bool]

/-- The set-point group (Table 7-8). -/
def spTys : List Ty := [.ufx, .sfx, .sfx, .bam, .sfx, .sfx, .sfx, .bam, .bam]

/-- STMT. The simulated mode (R262) is judged when the thruster part has a SIM block. -/
def stmtFails (v : State) : List Verdict :=
  if hasSect v .stmt 0 = false then []
  else
    fdFails v .stmt 0 0 [fU 0x1C 2 1 65535, fIx 0x20, fIx 0x24, fIx 0x28, fIx 0x2C, fIx 0x3C, fIx 0x40, fIx 0x44, fZ 0x48 56]
      ++ (List.range 14).flatMap (fun j => tab v .stmt 0 (2 * j) (narrowOk v (j + 1)))
      ++ tyFd v .stmt 0 0x20 [.enum, .enum, .ufx] ++ tyFd v .stmt 0 0x24 spTys ++ tyFd v .stmt 0 0x28 [.sfx, .sfx, .sfx] ++ tyFd v .stmt 0 0x2C modeOutTys
      ++ tyFd v .stmt 0 0x3C [.enum, .sfx, .bam] ++ tyFd v .stmt 0 0x44 [.sfx, .sfx, .sfx]
      ++ tab v .stmt 0 0x40 (!(hasThr v && bitOf (th v 5 1) 1) || (sm v 0x40 4 % 2 ^ 17 != 0 && tyOk v (sm v 0x40 4 % 2 ^ 17 - 1) .enum))
      ++ [0x30, 0x34, 0x38].flatMap (fun o => tab v .stmt 0 o (sm v o 4 != 0))
      ++ (List.range 14).flatMap (fun j =>
        let m := j + 1
        let f := sme v m 0 1
        let o := 128 + 32 * j
        fdFails v .stmt 0 o [fBits 1 1 2] ++ tab v .stmt 0 o (f == 0 || ((f == 2 || f == 3) && (permitted m).contains f))
          ++ tab v .stmt 0 (o + 0x1C) (m == 6 || m == 8 || m == 10 || sme v m 0x1C 4 == 0))

/-! ### The thruster part (R264, R265). -/

def thrHdr (v : State) : Nat := vm v 0x18 4

/-- The controller input group (Table 7-10). -/
def cigTys : List Ty := List.replicate 12 .sfx ++ List.replicate 6 .ufx ++ [.sfx, .ufx, .ufx, .ufx, .enum, .ufx]

/-- Sector j of a thruster: its first angle and its width. -/
def sectOfThr (v : State) (i j : Nat) : Nat × Nat :=
  let a1 := thr v i (0x0C + 8 * j) 4
  let a2 := thr v i (0x10 + 8 * j) 4
  (a1, (a2 + 4294967296 - a1) % 4294967296)

/-- Narrower than 180 degrees; two of one thruster do not overlap. -/
def sectorsOk (v : State) (i : Nat) : Bool :=
  let n := thr v i 3 1
  let x := sectOfThr v i 0
  let y := sectOfThr v i 1
  (List.range n).all (fun j => decide ((sectOfThr v i j).2 < 2147483648))
    && (n != 2 || (decide (x.2 < (y.1 + 4294967296 - x.1) % 4294967296) && decide (y.2 < (x.1 + 4294967296 - y.1) % 4294967296)))

def thrFails (v : State) (i : Nat) : List Verdict :=
  let o := thrHdr v + thrOff v + 64 * i
  let az := thrAz v i
  let c (l : Nat) (ok : Bool) : List Verdict := tab v .vmdl 0 (o + l) ok
  cap v .vmdl 0 (o + 3) (thr v i 3 1) 2 ++ fdFails v .vmdl 0 o [fU 0 1 1 2, fU 1 1 0 7, fU 3 1 0 2, fIx 0x30, fIx 0x34, fIx 0x38, fU 0x3C 1 1 30, fZ 0x3E 2]
    ++ c 2 (if az then [8, 12, 16].contains (thr v i 2 1) else thr v i 2 1 == 0) ++ c 3 (az || thr v i 3 1 == 0) ++ c 8 (!az || thr v i 8 4 == 0)
    ++ c 0x0C (sectorsOk v i)
    ++ tyFd v .vmdl 0 (o + 0x30) [.sfx, .bam, .ufx, .enumMax 2] ++ tyFd v .vmdl 0 (o + 0x34) [.bool, .ufx, .ufx, .ufx, .bam]
    ++ tyFd v .vmdl 0 (o + 0x38) [.ufx, .sfx, .sfx, .bool, .bool]

def biasOff (v : State) : Nat := caOff v + 16 * th v 3 1

/-- The prediction blocks of a seat: inside their limits, their lengths sum to NP (R247, R264). -/
def seatFails (v : State) (seat : Nat) : List Verdict :=
  let o := thrHdr v + th v 0x30 4 + 32 * seat
  let nb := seatDesc v seat 1 1
  let np := seatDesc v seat 2 1
  let ns := seatDesc v seat 3 1
  let blk := (List.range nb).map (blkLen v seat)
  let rest := if nb ≤ 24 then (List.range (24 - nb)).all (fun j => seatDesc v seat (8 + nb + j) 1 == 0)
    else (List.range 20).all (fun j => seatDesc v seat (12 + j) 1 == 0) && seatDesc v seat 8 4 % 4 == 0
  cap v .vmdl 0 (o + 1) nb 120 ++ cap v .vmdl 0 (o + 2) np 120 ++ cap v .vmdl 0 (o + 3) ns 64
    ++ tab v .vmdl 0 (o + 1) (decide (1 ≤ nb ∧ nb ≤ 120)) ++ tab v .vmdl 0 (o + 2) (decide (1 ≤ np ∧ np ≤ 120)) ++ tab v .vmdl 0 (o + 3) (decide (ns ≤ 64))
    ++ tab v .vmdl 0 (o + 8) (blk.all (fun b => decide (1 ≤ b ∧ b ≤ 120)) && blk.foldl (· + ·) 0 == np && rest)
    ++ fdFails v .vmdl 0 o [fIx 4] ++ tyFd v .vmdl 0 (o + 4) [.sfx, .sfx, .sfx]
    ++ tab v .vmdl 0 o (decide (seatDesc v seat 0 1 < tplCnt v) && th v (8 + seatDesc v seat 0 1) 1 % 16 == seat + 1)

/-- The rows that Table 7-13 gives an allocation template, in excess of the bias and sector rows it counts per item. -/
def allocRows (v : State) : Nat :=
  ((List.range (nThr v)).map (fun i => thr v i 2 1 + 2 * thr v i 3 1)).foldl (· + ·) 0 + 2 * th v 4 1

def allocVars (v : State) : Nat := ((List.range (nThr v)).map (fun i => if thrAz v i then 2 else 1)).foldl (· + ·) 0 + 3

/-- The first of the forbidden-sector rows, which follow the polygon rows (Table 7-13). -/
def sectorRow0 (v : State) : Nat := ((List.range (nThr v)).map (fun i => thr v i 2 1)).foldl (· + ·) 0

/-- The order of the rows of an allocation template: its row masks, which enable the sector side rows and the bias rows (R251), lie at those rows. -/
def maskRowsOk (v : State) (t : Nat) : Bool :=
  (List.range (min 4096 (qpListCnt v t))).all (fun e =>
    qEntry v t e 0 1 % 64 != 0x0A || decide (sectorRow0 v ≤ (qBlk v t (qEntry v t e 2 2)).row0))

/-- The thrusters' variables in the allocation template (Table 7-16): each has its own, ahead of the three slacks. -/
def xvarsOk (v : State) : Bool :=
  let run (i : Nat) : Run := (thr v i 0x3D 1, if thrAz v i then 2 else 1)
  rangesApart ((List.range (nThr v)).map run) && (List.range (nThr v)).all (fun i => decide ((run i).1 + (run i).2 + 3 ≤ allocVars v))

/-- Where the blocks of the thruster part end, up to the prediction matrices (R264). -/
def blocksEnd (v : State) : Nat := caOff v + 16 * th v 3 1 + 8 * th v 4 1

/-- Does a mode with an MPC law ask for the terminal equalities (Table 7-6, TERM)? The seats' templates serve every such mode, so that one suffices. -/
def termUsed (v : State) : Bool := (List.range 14).any (fun j => isMpc (lawOf (j + 1)) && bitOf (sme v (j + 1) 1 1) 0)

/-- Does a template have the number of variables and rows of its role (Tables 7-9, 7-13)? -/
def roleShapeOk (v : State) (t : Nat) : Bool :=
  let r := th v (8 + t) 1 % 16
  if r = 1 ∨ r = 2 then
    let nb := seatDesc v (r - 1) 1 1
    qN v t == 3 * nb + 3 && qMg v t == 12 * seatDesc v (r - 1) 3 1 + 14 * nb && qMeq v t == (if termUsed v then 3 else 0) && !qHconst v t
  else if r = 3 ∨ r = 4 then
    qN v t == allocVars v && qMeq v t == 3 && qMg v t == allocRows v && decide (qN v t ≤ 96 ∧ qMg v t ≤ 512) && qHconst v t && maskRowsOk v t
  else r == 0

/-- PERIOD of the CA templates is exactly 1 s; of the allocation template, P; of an MPC, a multiple of P (R230, R259). -/
def rolePeriodOk (v : State) (t : Nat) : Bool :=
  let r := th v (8 + t) 1 % 16
  let p := qd v t 0xC 4
  if r = 4 then p * v.hdr.f == 400000000 else if r = 3 then p == v.hdr.p else if r = 1 ∨ r = 2 then p % v.hdr.p == 0 else true

def caFails (v : State) (g : Nat) : List Verdict :=
  let o := thrHdr v + caOff v + 16 * g
  fdFails v .vmdl 0 o [fU 2 1 1 16, fU 8 2 256 1024, fZ 10 2, fIx 12]
    ++ tab v .vmdl 0 o (decide (ca v g 0 1 < tplCnt v) && th v (8 + ca v g 0 1) 1 == 16 * g + 4)

def biasFails (v : State) (k : Nat) : List Verdict :=
  let o := biasOff v + 8 * k
  let a := th v o 1
  let b := th v (o + 1) 1
  fdFails v .vmdl 0 (thrHdr v + o) [fZ 2 2, fIx 4] ++ tab v .vmdl 0 (thrHdr v + o) (decide (a < nThr v ∧ b < nThr v) && a != b && thrAz v a && thrAz v b)
    ++ tyFd v .vmdl 0 (thrHdr v + o + 4) [.bool, .sfx]

def thrPartFails (v : State) : List Verdict :=
  if hasThr v = false then []
  else
    let h := thrHdr v
    let roles := (List.range 16).map (fun t => th v (8 + t) 1)
    let c (l : Nat) (ok : Bool) : List Verdict := tab v .vmdl 0 (h + l) ok
    cap v .vmdl 0 h (nThr v) 32 ++ cap v .vmdl 0 (h + 1) (nSec v) 8 ++ cap v .vmdl 0 (h + 2) (nGen v) 16 ++ cap v .vmdl 0 (h + 3) (th v 3 1) 8 ++ cap v .vmdl 0 (h + 4) (th v 4 1) 16
      ++ fdFails v .vmdl 0 h [fU 0 1 1 32, fBits 5 1 2, fU 6 1 1 255, fIx 0x18, fIx 0x1C, fIx 0x20, fIx 0x24, fIx 0x28, fU 0x2C 2 1 65535, fU 0x2E 2 1 65535, fZ 0x38 8]
      ++ tyFd v .vmdl 0 (h + 0x18) cigTys ++ tyFd v .vmdl 0 (h + 0x1C) cigTys ++ tyFd v .vmdl 0 (h + 0x20) [.sfx, .sfx, .sfx]
      ++ tyFd v .vmdl 0 (h + 0x24) ((List.range (nSec v)).flatMap (fun _ => [.ufx, .bool]))
      ++ (if bitOf (th v 5 1) 1 then tyFd v .vmdl 0 (h + 0x28) [.sfx, .sfx, .bam, .sfx, .sfx, .sfx] else [])
      ++ c 8 (roles.zipIdx.all (fun p => p.1 == 0 || decide (p.2 < tplCnt v)) && (roles.filter (fun r => r % 16 == 1)).length == 1
        && (roles.filter (fun r => r % 16 == 2)).length == 1 && decide ((roles.filter (fun r => r % 16 == 3)).length ≤ 1)
        && roles.all (fun r => decide (r % 16 ≤ 4) && (r % 16 == 4 || r / 16 == 0)))
      ++ roleFn v .vmdl 0 (h + 8) (v.boot.chartRole || roles.all (fun r => r % 16 == 0))
      ++ c 0x30 (decide (64 ≤ th v 0x30 4 ∧ blocksEnd v ≤ vm v 0x1C 4)) ++ c 0x34 (decide (blocksEnd v ≤ th v 0x34 4 ∧ th v 0x34 4 ≤ vm v 0x1C 4))
      ++ c (thrOff v) (!roles.any (fun r => r % 16 == 3) || xvarsOk v)
      ++ (List.range (min 16 (tplCnt v))).flatMap (fun t => c (8 + t) (roleShapeOk v t && rolePeriodOk v t))
      ++ seatFails v 0 ++ seatFails v 1
      ++ (List.range (min 32 (nThr v))).flatMap (thrFails v)
      ++ (List.range (min 16 (nGen v))).flatMap (fun g => fdFails v .vmdl 0 (h + genOff v + 8 * g) [fU 0 1 0 7, fZ 1 3] ++ c (genOff v + 8 * g + 6) (tyOk v (genBrk v g) .bool))
      ++ (List.range (min 8 (th v 3 1))).flatMap (caFails v) ++ (List.range (min 16 (th v 4 1))).flatMap (biasFails v)

end Sys2Proof.Machine
end

