-- ==== Sys2Proof/Machine/Chk08.lean ====
section
/-! DEFINITION. Sys2Proof/Machine/Chk08.lean: the verifier on LCEK (R269 to R271, R276, R284, R294; Tables 8-2 to 8-5). The recurrence of the
LCE_STEP operations (R269) is judged with the schedule. -/

namespace Sys2Proof.Machine

def cxPer (v : State) (c : Nat) : Nat := cx v c 4 2
def cxPhase (v : State) (c : Nat) : Nat := cx v c 6 2

/-- A signal field: the index in [16:0], NONE in [31]; one with NONE names no index. -/
def sigField (off : Nat) : Fd := { off := off, w := 4, rsv := 0x7FFE0000 }
def noneOk (v : State) (c off : Nat) : Bool := (cxSig v c off).isSome || cx v c off 4 % 2 ^ 31 == 0

/-- A named signal has a type; an unnamed one passes. -/
def optTy (v : State) (o : Option Nat) (l : List Ty) : Bool := match o with
  | none => true
  | some i => l.any (tyOk v i)

/-- One bank (Table 8-4). -/
def bankOk (v : State) (c : Nat) (b : Bool) : Bool :=
  let i := bkI v c b
  let one : Rat := coef v c b 3
  decide (i 0x2C ≤ i 0x30 ∧ i 0x34 ≤ i 0x38 ∧ i 0x34 ≤ i 0x3C ∧ i 0x3C ≤ i 0x38 ∧ 0 ≤ i 0x28 ∧ 0 ≤ one ∧ one < 1) && (cAngle v c || decide (0 ≤ i 0x24))
    && (!cAngle v c || (i 0x2C == 0 && i 0x30 == 0))

def bankFields (b : Nat) : List Fd := fZ (b + 0x49) 15 :: (List.range 9).map (fun k => fS (b + 0x40 + k) 1 (-31) 31)

/-- The outer context of an inner one: the context whose +0 output is the signal. -/
def outerOf (v : State) (i : Nat) : Option Nat := (List.range (ctxCnt v)).find? (fun o => cxOut v o == i)

/-- The outer contexts of a context. -/
def outers (v : State) (c : Nat) : List Nat :=
  (List.range (cx v c 2 1)).filterMap (fun i => (cxSig v c (0x14 + 4 * i)).bind (outerOf v))

/-- No chain of more than n contexts ends at c; a chain that closes on itself is longer than any. -/
def chainOk (v : State) : Nat → Nat → Bool
  | 0, _ => false
  | n + 1, c => (outers v c).all (chainOk v n)

/-- R284 at an inner context. -/
def cascadeOk (v : State) (c : Nat) : Bool :=
  chainOk v 4 c && (outers v c).all (fun o => decide (cxPer v c ≠ 0) && cxPer v o % cxPer v c == 0 && cxPhase v o % cxPer v c == cxPhase v c
    && (!cFlag v o 4 || cxSig v o 0x30 == some (cxOut v c + 2)))

def ctxFails (v : State) (c : Nat) : List Verdict :=
  let d := lk v 4 4 + 256 * c
  let t (l : Nat) (ok : Bool) : List Verdict := tab v .lcek 0 (d + l) ok
  let val : List Ty := if cAngle v c then [.bam] else [.sfx, .ufx]
  let num : List Ty := [.sfx, .ufx]
  let tp := cxSig v c 0x48
  let sigs := [0x14, 0x18, 0x1C, 0x20, 0x24, 0x28, 0x2C, 0x30, 0x34, 0x38, 0x3C, 0x40, 0x44, 0x48]
  fdFails v .lcek 0 d ([fBits 1 1 3, fU 2 1 1 4, fU 3 1 0 4, fU 4 2 1 65535, fU 8 1 0 31, fS 9 1 (-31) 31, fS 0xA 1 (-31) 31, fU 0x10 2 1 65535, fZ 0x12 2, fZ 0x4C 4]
      ++ sigs.map sigField ++ bankFields 0x50 ++ bankFields 0xA8)
    ++ cap v .lcek 0 (d + 2) (cx v c 2 1) 4 ++ sigs.flatMap (fun o => t o (noneOk v c o))
    ++ t 4 (decide (cxPer v c ≠ 0) && v.hdr.m % cxPer v c == 0 && decide (50000 ≤ v.hdr.f * cxPer v c)) ++ t 6 (decide (cxPhase v c < cxPer v c))
    ++ (List.range 4).flatMap (fun i => t (0x14 + 4 * i) ((cxSig v c (0x14 + 4 * i)).isSome == decide (i < cx v c 2 1) && optTy v (cxSig v c (0x14 + 4 * i)) val))
    ++ t 3 (cx v c 3 1 == 4 || decide (cx v c 3 1 < cx v c 2 1)) ++ t 0x24 ((cxSig v c 0x24).isSome && optTy v (cxSig v c 0x24) val)
    ++ t 0x34 ((cxSig v c 0x34).isSome && tysOk v (cxOut v c) [.sfxE (cxEU v c), .sfxE (cxER v c), if cAngle v c then .bam else .sfxE (cxER v c), .ufxE 0])
    ++ t 0x48 ((!cFlag v c 5 || tp.isSome) && optTy v tp [.bool, .enum] && (cx v c 0xB 1 == 0 || (match tp with | some i => tyOk v i .enum | none => false)))
    ++ t 0x30 (!(cFlag v c 4 || bitOf (cx v c 1 1) 2) || (cxSig v c 0x30).isSome) ++ t 0x30 (optTy v (cxSig v c 0x30) num) ++ t 0x28 (optTy v (cxSig v c 0x28) num)
    ++ t 0x2C (optTy v (cxSig v c 0x2C) [.enum]) ++ [0x38, 0x3C, 0x40, 0x44].flatMap (fun o => t o (optTy v (cxSig v c o) num))
    ++ t 0x38 (!cAngle v c || ((cxSig v c 0x38).isNone && (cxSig v c 0x3C).isNone))
    ++ t 0x50 (bankOk v c false) ++ t 0xA8 (bankOk v c true) ++ t 0x14 (cascadeOk v c)
    ++ t 0x34 ((List.range c).all (fun o => cxOut v o != cxOut v c))

def lcekFails (v : State) : List Verdict :=
  if hasSect v .lcek 0 = false then []
  else
    let n := ctxCnt v
    let len := secLen v .lcek 0
    let a := lk v 8 4
    cap v .lcek 0 0 n 256 ++ tab v .lcek 0 0 (decide (1 ≤ n)) ++ fdFails v .lcek 0 0 [fZ 0x10 48]
      ++ tab v .lcek 0 4 (lk v 4 4 % 64 == 0 && decide (lk v 4 4 + 256 * n ≤ len))
      ++ tab v .lcek 0 8 (a % 64 == 0 && decide (len ≤ a ∧ a + lk v 0xC 4 ≤ secUnpack v .lcek 0)) ++ tab v .lcek 0 0xC (lk v 0xC 4 == 1048576 + 64 * n)
      ++ (List.range (min n 256)).flatMap (ctxFails v)

end Sys2Proof.Machine
end

