-- ==== Sys2Proof/Machine/Chk10.lean ====
section
/-! DEFINITION. Sys2Proof/Machine/Chk10.lean: the verifier on the loop block of PWRT (R334, R337, R341, R342; Tables 10-8 to 10-12). The checks on
LPO_SET and LPO_CHECK are made with the schedule. -/

namespace Sys2Proof.Machine

/-- The loop block lies at LOOP_OFF; 0 says that the Chart has none. -/
def loopOff (v : State) : Nat := fld32 v .pwrt 0 4
def extCnt (v : State) : Nat := loopFld v 0x16 2

/-- A loop-block field group at an offset of the block. -/
def loopFds (v : State) (o : Nat) (l : List Fd) : List Verdict := fdFails v .pwrt 0 (loopOff v + o) l
def loopChk (v : State) (o : Nat) (ok : Bool) : List Verdict := tab v .pwrt 0 (loopOff v + o) ok
def loopTys (v : State) (o : Nat) (l : List Ty) : List Verdict := tyFd v .pwrt 0 (loopOff v + o) l

/-- Is a signal the target of the LBUT entry, with WORDS 3, of an FCE channel? -/
def fceTarget (v : State) (c sig : Nat) : Bool := match lbuOfSource v 7 c with
  | some k => lbutFld v k 2 1 == 3 && lbutFld v k 4 4 % 2 ^ 17 == sig
  | none => false

def fceChanOn (v : State) (c : Nat) : Bool := bitOf (fld v .fcec 0 (fld v .fcec 0 0 4 + 64 * c) 1) 0

def lpoFails (v : State) (n : Nat) : List Verdict :=
  let o := loopFld v 4 4 + 32 * n
  loopFds v o [fBits 0 1 3, fIx 4, fIx 8, fIx 0xC, fZ 0x1C 4]
    ++ (if lpoOn v n = false then []
      else
        loopFds v o [fU 1 1 0 2, fU 2 1 0 2, fU 3 1 1 255, fU 0x10 2 0 0xC000, fU 0x12 2 0 0xC000, fU 0x14 2 1 0x2000, fU 0x16 2 1 65535, fU 0x19 1 1 255, fU 0x1A 2 1 65535]
          ++ loopChk v (o + 0x12) (decide (lpF v n 0x10 2 ≤ lpF v n 0x12 2)) ++ loopTys v (o + 4) [.sxuf] ++ loopTys v (o + 0xC) [.sfxE (-11), .sfxE (-11), .ufxE 0]
          ++ loopChk v (o + 8) (fceTarget v (24 + n) (lpF v n 8 4 % 2 ^ 17)) ++ loopChk v o (fceChanOn v (24 + n)))

def lpiFails (v : State) (n : Nat) : List Verdict :=
  let o := loopFld v 8 4 + 16 * n
  loopFds v o [fBits 0 1 1, fZ 1 1, fIx 4, fIx 8]
    ++ (if lpiOn v n = false then []
      else
        loopFds v o [fU 2 2 1 65535] ++ loopChk v (o + 0xE) (decide (liF v n 0xC 2 < liF v n 0xE 2)) ++ loopTys v (o + 8) [.enumMax 3]
          ++ loopChk v (o + 4) (fceTarget v n (liF v n 4 4 % 2 ^ 17)) ++ loopChk v o (fceChanOn v n))

def hartOnCfg (v : State) (p : Nat) : Bool := bitOf (hpF v p 0 1) 0
def hartTxns (v : State) (p : Nat) : Run := (hpF v p 4 2, hpF v p 6 2)

def hartPortFails (v : State) (p : Nat) : List Verdict :=
  let o := loopFld v 0xC 4 + 16 * p
  let md := bitOf (hpF v p 0 1) 1
  let r := hartTxns v p
  loopFds v o [fBits 0 1 5, fZ 3 1, fIx 8, fZ 0xC 4]
    ++ (if hartOnCfg v p = false then []
      else
        cap v .pwrt 0 (o + 6) (hpF v p 6 2) 512 ++ loopFds v o [fU 1 1 5 20, fU 2 1 0 3, fU 6 2 0 512] ++ loopTys v (o + 8) [.enumMax 6, .ufx, .ufx]
          ++ loopChk v (o + 4) (decide (r.1 + r.2 ≤ txnCnt v) && runAll r (fun t => txF v t 0 1 == p))
          ++ loopChk v o ((!md || decide (16 ≤ p)) && (if md then runAll r (fun t => decide (1 ≤ txF v t 2 1)) else runAll r (fun t => txF v t 2 1 == txF v r.1 2 1)))
          ++ loopChk v o (if p < 16 then lpoOn v p else lpiOn v (p - 16)))

def txnFails (v : State) (t : Nat) : List Verdict :=
  let o := loopFld v 0x10 4 + 32 * t
  let fl := txF v t 1 1
  let p := txF v t 0 1
  loopFds v o [fU 0 1 0 39, fBits 1 1 4, fU 2 1 0 15, fU 3 1 0 253, fU 4 1 0 32, fU 5 1 0 8, fU 7 1 0 15, fZ 0xF 1, fIx 0x10, fZ 0x18 8]
    ++ cap v .pwrt 0 (o + 5) (txF v t 5 1) 8 ++ cap v .pwrt 0 (o + 7) (txF v t 7 1) 15 ++ loopChk v o (hartOnCfg v p) ++ loopChk v (o + 1) (!bitOf fl 3 || (!bitOf fl 0 && !bitOf fl 2 && bitOf (hpF v p 0 1) 4))
    ++ loopChk v (o + 8) (decide (txF v t 8 2 + txF v t 7 1 ≤ extCnt v)) ++ loopChk v (o + 0x14) (decide (txF v t 0x14 4 + txF v t 4 1 ≤ loopFld v 0x20 4))
    ++ loopChk v (o + 0x10) (runAll (txF v t 0x10 4 % 2 ^ 17, txF v t 5 1) (fun i => tyOk v i .any))

/-- LBUT entries of HART transactions. -/
def hartLbuOk (v : State) (k : Nat) : Bool :=
  let src := lbutFld v k 0 2
  let t := src % 1024
  let first := lbutFld v k 4 4 % 2 ^ 17
  src / 1024 != 0x29 || (decide (t < txnCnt v) && lbutFld v k 2 1 == 1 + txF v t 7 1 && tyOk v first (.ufxE 0) && runAll (first + 1, txF v t 7 1) (fun i => tyOk v i .sxuf))

def loopFails (v : State) : List Verdict :=
  let lbus := (List.range (lbuCnt v)).flatMap (fun k => tab v .lbut 0 (16 + 16 * k) (hartLbuOk v k))
  if loopOff v = 0 then lbus
  else
    let o := loopOff v
    let room := secLen v .pwrt 0 - o
    let inside (f size : Nat) : List Verdict := loopChk v f (loopFld v f 4 % 4 == 0 && decide (loopFld v f 4 + size ≤ room))
    cap v .pwrt 0 (o + 0x14) (txnCnt v) 512 ++ cap v .pwrt 0 (o + 0x16) (extCnt v) 4096 ++ loopChk v 0 (loopFld v 0 4 == 1) ++ loopFds v 0 [fZ 0x24 28]
      ++ inside 4 512 ++ inside 8 384 ++ inside 0xC 640 ++ inside 0x10 (32 * txnCnt v) ++ inside 0x18 (4 * extCnt v) ++ inside 0x1C (loopFld v 0x20 4)
      ++ (List.range 16).flatMap (lpoFails v) ++ (List.range 24).flatMap (lpiFails v) ++ (List.range 40).flatMap (hartPortFails v)
      ++ loopChk v 0xC (rangesApart (((List.range 40).filter (hartOnCfg v)).map (hartTxns v)))
      ++ (List.range (min 512 (txnCnt v))).flatMap (txnFails v)
      ++ (List.range (min 4096 (extCnt v))).flatMap (fun e => loopFds v (loopFld v 0x18 4 + 4 * e) [fU 0 1 0 254, fBitsU 1 1 3 0 6, fZ 3 1])
      ++ lbus

end Sys2Proof.Machine
end

