-- ==== Sys2Proof/Machine/Chk01.lean ====
section
/-! DEFINITION. Sys2Proof/Machine/Chk01.lean: the verifier on the header, SEQP, LBUT, SDIR and CRVE (R16, R17, R21, R36 to R39, R48, R49,
R65, R70, R78, R568). -/

namespace Sys2Proof.Machine

/-! ### Header and section table. -/

/-- Reserved fields of the header and of the section table; GCM fields of a plain image are zero (Table 1-3, Table 1-4). -/
def headRsvFails (m : Img) : List Verdict :=
  let z (o n : Nat) : List Verdict := chk (inum m o n == 0) 0x0A 0xFFFF o
  chk (inum m 7 1 < 2) 0x0A 0xFFFF 7 ++ chk (inum m 0x1C 4 < 4) 0x0A 0xFFFF 0x1C ++ z 0x26 2 ++ z 0x36 2 ++ z 0x44 4 ++ z 0x5E 2 ++ z 0x6C 4
    ++ z 0x80 124 ++ (if iEncrypted m then [] else z 0x60 12 ++ z 0x70 16)
    ++ (isects m).flatMap (fun x =>
      let e := 0x100 + 32 * x.idx
      chk (inum m (e + 7) 1 == 0) 0x0A x.idx (e + 7) ++ chk (inum m (e + 0x1C) 4 == 0) 0x0A x.idx (e + 0x1C))

/-- The timebase (R21): 0x0C. -/
def timebaseFails (m : Img) : List Verdict :=
  let h := hdrOf m
  let c (ok : Bool) (o : Nat) : List Verdict := chk ok 0x0C 0xFFFF o
  c (decide (10000 ≤ h.f ∧ h.f ≤ 400000) && 400000000 % h.f == 0) 0x20 ++ c (decide (1 ≤ h.p ∧ h.p ≤ 64)) 0x24 ++ c (decide (h.fcBits ≤ 16)) 0x25
    ++ c (decide (1 ≤ h.m ∧ h.m ≤ 65536) && h.m % h.p == 0) 0x28 ++ c (decide (1 ≤ h.syncTmo ∧ h.syncTmo ≤ 600000)) 0x2C

/-! ### SEQP: layout, lists, words (R36 to R39). -/

/-- 0x0D LIST at a bundle index. -/
def listFail (v : State) (ok : Bool) (b : Nat) : List Verdict := chk ok 0x0D (secIdx v .seqp 0) b

/-- The layout of the body. -/
def seqpLayoutOk (v : State) : Bool :=
  let c := fld32 v .seqp 0 4
  let b := fld32 v .seqp 0 8
  let len := secLen v .seqp 0
  let cl := 4 * 2 ^ v.hdr.fcBits
  let bl := 20 * bundleCnt v
  c % 64 == 0 && b % 64 == 0 && decide (64 ≤ c ∧ 64 ≤ b ∧ c + cl ≤ len ∧ b + bl ≤ len) && !runsMeet (c, cl) (b, bl) && decide (bundleCnt v ≠ 0)

/-- A list ends with an END bundle inside the array, its ticks obey R39; each breach at its bundle. -/
def listFails (v : State) (first : Nat) : List Verdict :=
  let w := walkList v first
  (w.drop 1).flatMap (fun x => listFail v (decide (1 ≤ bundleDelta v x.2)) x.2)
    ++ (match w.getLast? with
      | none => listFail v false first
      | some x => listFail v (bundleEnd v x.2 && decide (x.1 + 65 ≤ v.hdr.f)) x.2)

def seqpFails (v : State) : List Verdict :=
  let i := secIdx v .seqp 0
  cap v .seqp 0 0 (bundleCnt v) 262144 ++ fdFails v .seqp 0 0 [fZ 0xC 52] ++ listFail v (seqpLayoutOk v) 0
    ++ (if seqpLayoutOk v = false ∨ 262144 < bundleCnt v then []
      else
        (List.range (2 ^ v.hdr.fcBits)).flatMap (fun c => fdFails v .seqp 0 (fld32 v .seqp 0 4 + 4 * c) [{ off := 0, w := 4, rsv := 0x00FC0000 }])
        ++ (listPairs v).flatMap (fun p => listFail v (decide (p.1 < bundleCnt v)) p.1 ++ (if p.1 < bundleCnt v then listFails v p.1 else []))
        ++ (List.range (bundleCnt v)).flatMap (fun b =>
          fdFails v .seqp 0 (fld32 v .seqp 0 8 + 20 * b) [{ off := 0, w := 4, rsv := 0x00E00000 }]
          ++ (List.range 4).flatMap (fun n => chk (bundleLane v b n || laneOp v b n == 0) 0x0E i b)))

/-! ### SDIR (R65, R569). -/

/-- The positions of Table 2-3. -/
def posOk (p : Nat) : Bool := (decide (1 ≤ p ∧ p ≤ 3)) || decide (0x41 ≤ p ∧ p ≤ 0x7E)

def entPos (e : SdirEntry) : Nat := e.origin.toNat % 128
def entLocal (e : SdirEntry) : Bool := bitOf e.origin.toNat 7
def entGroup (e : SdirEntry) : Nat := e.origin.toNat / 256

/-- One directory entry, VOID or not (R65). -/
def sdirEntryFails (v : State) (i : Nat) : List Verdict :=
  let e := ent v i
  let idx := secIdx v .sdir 0
  let k := entType e
  let loc := 16 * i
  chk (e.fmt.toNat / 1024 == 0) 0x0A idx (loc + 8) ++ chk (bitsOf e.state.toNat 7 5 == 0) 0x0A idx (loc + 12)
    ++ tab v .sdir 0 (loc + 4) (e.wtime == 0) ++ tab v .sdir 0 (loc + 12) (!entHeld e && entWcnt e == 0 && entQual e == (if entConst e then qGood else qStale))
    ++ tab v .sdir 0 (loc + 8) ((if k == 1 || k == 2 then decide (-31 ≤ entExp e) else k == 5 || k == 0 || entMax e == 0)
      && (k != 6 || entType (ent v (i + 1)) == 7) && (k != 7 || (decide (0 < i) && entType (ent v (i - 1)) == 6)))

/-- The entries of one position and group, in index order. -/
def groupEnts (v : State) (pos grp : Nat) : List Nat :=
  (List.range (secLen v .sdir 0 / 16)).filter (fun i => entPos (ent v i) == pos && entGroup (ent v i) == grp)

def sdirFails (v : State) : List Verdict :=
  let n := secLen v .sdir 0 / 16
  tab v .sdir 0 0 (secUnpack v .sdir 0 == 0x00200000 && ((sectOf v .sdir 0).map (fun x => x.dest % 2 ^ 28)) == some 0 && secLen v .sdir 0 % 16 == 0)
    ++ (List.range n).flatMap (sdirEntryFails v)
    ++ (List.range n).flatMap (fun i =>
      let e := ent v i
      if entGroup e = 0 then []
      else
        let g := groupEnts v (entPos e) (entGroup e)
        tab v .sdir 0 (16 * i + 10) (decide (g.length ≤ 16) && g == (List.range g.length).map (fun j => g.headD 0 + j)))

/-! ### LBUT (R48, R49, R70, R568; 0x16 LBU). -/

/-- Engines that write landing buffers, with the source indices their tables have. -/
def sourceKnown (eng idx : Nat) : Bool :=
  (eng == 7 && decide (idx < 64)) || ((eng == 8 || eng == 9 || eng == 0x0B) && idx == 0) || (eng == 0x0A && decide (idx ≤ 192))
    || (eng == 0x0D && decide (idx < 64)) || eng == 0x0E || (eng == 0x0F && decide (idx < 3))
    || (decide (0x10 ≤ eng ∧ eng ≤ 0x17) && decide (idx < 128)) || (decide (0x18 ≤ eng ∧ eng ≤ 0x23) && decide (idx < 64))
    || ((eng == 0x26 || eng == 0x27) && decide (idx < 64)) || (eng == 0x29 && decide (idx < 512)) || (eng == 0x2B && decide (idx < 2))
    || (eng == 0x30 && decide (idx < 12))

/-- The signals an entry writes: its payload, and the age pair. -/
def lbutRun (v : State) (n : Nat) : Run := (lbutFld v n 4 4 % 2 ^ 17, lbutFld v n 2 1 + (if bitOf (lbutFld v n 3 1) 1 then 2 else 0))

def lbutFails (v : State) : List Verdict :=
  let i := secIdx v .lbut 0
  let n := lbuCnt v
  cap v .lbut 0 0 n 1024 ++ chk (decide (1 ≤ n ∧ 16 + 16 * n ≤ secLen v .lbut 0)) 0x16 i 0 ++ fdFails v .lbut 0 4 [fZ 0 12]
    ++ (List.range (min n 1024)).flatMap (fun k =>
      let o := 16 + 16 * k
      let src := lbutFld v k 0 2
      let words := lbutFld v k 2 1
      let fl := lbutFld v k 3 1
      let first := lbutFld v k 4 4 % 2 ^ 17
      let age := lbutFld v k 8 4
      let run := lbutRun v k
      let b (ok : Bool) (l : Nat) : List Verdict := chk ok 0x16 i (o + l)
      fdFails v .lbut 0 o [fBits 3 1 2, fIx 4, fZ 0xC 4]
        ++ b (sourceKnown (src / 1024) (src % 1024)) 0 ++ b (decide (1 ≤ words ∧ words ≤ 16)) 2 ++ b (decide (run.1 + run.2 ≤ 131072)) 4
        ++ b (decide (1 ≤ age ∧ age ≤ 0xFFFFFFFE)) 8
        ++ b ((List.range k).all (fun j => lbutFld v j 0 2 != src)) 0 ++ b ((List.range k).all (fun j => !runsMeet (lbutRun v j) run)) 4
        ++ b (!bitOf fl 1 || tysOk v (first + words) [.ufxE 0, .ufxE 0]) 4
        ++ tab v .lbut 0 (o + 3) (!bitOf fl 0 || runAll (first, words) (fun x => tyOk v x .sxuf))
        ++ tab v .lbut 0 (o + 4) (runAll run (fun x =>
          let e := ent v x
          entType e != 0 && !entConst e && (if src / 1024 = 0x0E then !entLocal e else entLocal e))))

/-! ### CRVE (R78). -/

def crveFails (v : State) : List Verdict :=
  if hasSect v .crve 0 = false then []
  else
    let n := fld32 v .crve 0 0
    cap v .crve 0 0 n 256 ++ tab v .crve 0 0 (decide (1 ≤ n)) ++ fdFails v .crve 0 0 [fZ 4 12]
      ++ (List.range (min n 256)).flatMap (fun c =>
        let d := 16 + 16 * c
        let src := fld32 v .crve 0 d % 2 ^ 17
        let po := fld32 v .crve 0 (d + 8)
        let cnt := fld16 v .crve 0 (d + 12) % 512
        let uns := bitOf (fld8 v .crve 0 (d + 14)) 1
        let xi (p : Nat) : Int := curveInt uns (curvePt v po p 0)
        fdFails v .crve 0 d [fIx 0, fIx 4, fBits 0xC 2 9, fBits 0xE 1 2, fS 0xF 1 (-31) 31] ++ cap v .crve 0 (d + 12) cnt 256
          ++ tab v .crve 0 (d + 12) (decide (2 ≤ cnt)) ++ tyFd v .crve 0 d [.num] ++ tyFd v .crve 0 (d + 4) [.sxuf]
          ++ tab v .crve 0 (d + 8) (po % 4 == 0 && decide (16 + 16 * n ≤ po ∧ po + 12 * cnt ≤ secLen v .crve 0))
          ++ tab v .crve 0 (d + 14) (entType (ent v src) != 3 || uns)
          ++ tab v .crve 0 po ((List.range (min cnt 256 - 1)).all (fun p => decide (xi p < xi (p + 1))) && curvePt v po (cnt - 1) 2 == 0))

end Sys2Proof.Machine
end

