-- ==== Sys2Proof/Machine/Chk11.lean ====
section
/-! DEFINITION. Sys2Proof/Machine/Chk11.lean: the verifier on the header and the rails of PWRT and on its pack block (R80, R385, R386, R523,
R526, R528; Tables 11-14, 15-11, 15-12, 15-14). The checks on the operations of the pack are made with the schedule. -/

namespace Sys2Proof.Machine

/-! ### PWRT header and rails. -/

def railOff (v : State) : Nat := fld32 v .pwrt 0 0xC
def railField (v : State) (n off len : Nat) : Nat := fld v .pwrt 0 (railOff v + 16 * n + off) len
def pmbRailOn (v : State) (n : Nat) : Bool := decide (n < fld8 v .pwrt 0 0x11) && bitOf (railField v n 0 1) 0 && bitOf (railField v n 0 1) 2

/-- The signal a group field names; none with NONE. -/
def groupSig (v : State) (o : Nat) : Option Nat := if bitOf (fld32 v .pwrt 0 o) 31 then none else some (fld32 v .pwrt 0 o % 2 ^ 17)

def groupTys (v : State) (o : Nat) (l : List Ty) : List Verdict := match groupSig v o with
  | some i => tab v .pwrt 0 o (tysOk v i l)
  | none => []

/-- The types of a PMBus record (R526). -/
def pmbTys : List Ty := [.ufxE (-16), .sfxE (-16), .sfxE (-8), .ufxE 0]

def railFails (v : State) (n : Nat) : List Verdict :=
  let o := railOff v + 16 * n
  fdFails v .pwrt 0 o [fBits 0 1 4, fZ 8 8]
    ++ (if bitOf (railField v n 0 1) 0 = false then []
      else
        fdFails v .pwrt 0 o [fU 1 1 0 11, fU 3 1 1 255, fU 6 2 1 1000]
          ++ tab v .pwrt 0 (o + 2) (if pmbRailOn v n then decide (railField v n 2 1 < 128) else railField v n 2 1 == 0)
          ++ tab v .pwrt 0 (o + 2) (!pmbRailOn v n || (List.range n).all (fun j => !pmbRailOn v j || railField v j 2 1 != railField v n 2 1)))

def pwrtFails (v : State) : List Verdict :=
  let n := fld8 v .pwrt 0 0x11
  let len := secLen v .pwrt 0
  let pmb := ((List.range (min n 12)).filter (pmbRailOn v)).length
  let each := if bitOf (fld8 v .pwrt 0 0x10) 1 then 1 else 3
  let rsvGroup : Nat := 2 ^ 31 - 2 ^ 17
  tab v .pwrt 0 0 (fld32 v .pwrt 0 0 == 1)
    ++ fdFails v .pwrt 0 0 [fBits 0x10 1 3, fU 0x12 2 1 1000, { off := 0x14, w := 4, rsv := rsvGroup }, { off := 0x18, w := 4, rsv := rsvGroup }, fZ 0x1C 36]
    ++ cap v .pwrt 0 0x11 n 12 ++ tab v .pwrt 0 4 (fld32 v .pwrt 0 4 % 4 == 0)
    ++ tab v .pwrt 0 8 (fld32 v .pwrt 0 8 != 0 && fld32 v .pwrt 0 8 % 4 == 0 && decide (fld32 v .pwrt 0 8 + 64 ≤ len))
    ++ tab v .pwrt 0 0xC (if n = 0 then railOff v == 0 else railOff v % 4 == 0 && decide (64 ≤ railOff v ∧ railOff v + 16 * n ≤ len))
    ++ tab v .pwrt 0 0x12 (decide (each * pmb ≤ fld16 v .pwrt 0 0x12))
    ++ groupTys v 0x14 [.enumMax 4, .enumMax 3, .bool, .bool] ++ groupTys v 0x18 [.ufxE 0, .ufxE 0, .ufxE 0]
    ++ (if n ≤ 12 ∧ 64 ≤ railOff v then (List.range n).flatMap (railFails v) else [])
    ++ (List.range (lbuCnt v)).flatMap (fun k =>
      let src := lbutFld v k 0 2
      if src / 1024 = 0x30 then
        tab v .lbut 0 (16 + 16 * k) (pmbRailOn v (src % 1024) && decide (lbutFld v k 2 1 ≤ 4) && tysOk v (lbutFld v k 4 4 % 2 ^ 17) (pmbTys.take (lbutFld v k 2 1)))
      else [])

/-! ### The pack block. -/

def packBlk (v : State) : Nat := fld32 v .pwrt 0 8
def subCnt (v : State) : Nat := packFld v 0x22 2

/-- The Leash links that some unit of the Chart's role may have active (R386). -/
def linkCan (v : State) (k : Nat) : Bool := if k = 0 then isDuplex v else v.boot.chartRole && isTriplex v && decide (k < 3)

/-- A subscription entry. -/
def subFails (v : State) (e : Nat) : List Verdict :=
  let o := packBlk v + packFld v 0x24 4 + 4 * e
  let x := subFld v e
  fdFails v .pwrt 0 o [fBits 0 4 16] ++ tab v .pwrt 0 o (posOk x.1 && x.2.2 != 0 && (!x.2.1 || (!v.boot.chartRole && decide (1 ≤ x.1 ∧ x.1 ≤ 3))))

/-- An LBUT entry of the PSW or of a Leash link. -/
def packLbuOk (v : State) (k : Nat) : Bool :=
  let src := lbutFld v k 0 2
  let e := src % 1024
  if src / 1024 = 0x0E then
    let x := subFld v e
    let g := groupEnts v x.1 x.2.2
    decide (e < subCnt v) && (List.range (lbuCnt v)).all (fun j => j == k || lbutFld v j 0 2 != src)
      && lbutFld v k 2 1 == g.length && some (lbutFld v k 4 4 % 2 ^ 17) == g.head?
  else if src / 1024 = 0x0F then lbutFld v k 2 1 == 16 && linkCan v e
  else true

def packFails (v : State) : List Verdict :=
  let o := packBlk v
  let man := v.boot.chartRole
  let pos := packFld v 6 1
  let ety := packFld v 8 2
  tab v .pwrt 0 o (packFld v 0 4 == 1)
    ++ fdFails v .pwrt 0 o [fU 4 2 1 0xFFFE, fBits 7 1 3, fU 0xA 1 2 64, fU 0xB 1 1 64, fU 0xC 4 3600 604800, fU 0x10 4 10 3600, fU 0x14 4 0 10000, fU 0x18 4 0 10000,
        fU 0x1C 4 0 10000, fU 0x20 2 100 65535, fZ 0x28 24]
    ++ roleFn v .pwrt 0 (o + 6) (if man then pos == 1 else decide (0x41 ≤ pos ∧ pos ≤ 0x7E)) ++ roleFn v .pwrt 0 (o + 7) (man || !isTriplex v)
    ++ tab v .pwrt 0 (o + 7) (!isTriplex v || isDuplex v)
    ++ tab v .pwrt 0 (o + 8) (decide (0x600 ≤ ety) && ety != 0x892F && ety != 0x88F7 && ety != 0x88FB)
    ++ cap v .pwrt 0 (o + 0x22) (subCnt v) 1024
    ++ tab v .pwrt 0 (o + 0x24) (packFld v 0x24 4 % 4 == 0 && decide (o + packFld v 0x24 4 + 4 * subCnt v ≤ secLen v .pwrt 0))
    ++ (List.range (min 1024 (subCnt v))).flatMap (subFails v)
    ++ (List.range (lbuCnt v)).flatMap (fun k => tab v .lbut 0 (16 + 16 * k) (packLbuOk v k))

end Sys2Proof.Machine
end

