-- ==== Sys2Proof/Machine/Chk12.lean ====
section
/-! DEFINITION. Sys2Proof/Machine/Chk12.lean: the verifier on TTUT (R412, R419, R420; Tables 12-4, 12-8 to 12-10). -/

namespace Sys2Proof.Machine

def ttutChk (v : State) (o : Nat) (ok : Bool) : List Verdict := tab v .ttut 0 o ok

/-- The time group (Table 12-8). -/
def timeTys : List Ty := [.time, .enumMax 3, .sfx, .sfx, .sfx, .enumMax 4]

/-- A TIME64 pair at +0 and +1, then the rest of the group. -/
def timeGroupOk (v : State) (i : Nat) : Bool := tyOk v i .time && tysOk v (i + 2) (timeTys.drop 1)

/-- The source kinds in priority order (Table 12-9). -/
def srcKinds (v : State) : List Nat := (List.range 4).map (fun j => fld v .ttut 0 j 1)

/-- SRC repeats no kind, names none after a 0, and not only PPS kinds. -/
def srcOk (v : State) : Bool :=
  let l := srcKinds v
  let used := l.filter (fun k => k != 0)
  l.all (fun k => decide (k ≤ 6)) && l.take used.length == used && decide used.Nodup && (used.isEmpty || used.any (fun k => decide (k ≤ 4)))

/-- A trigger entry that is declared. -/
def trigFails (v : State) (n : Nat) : List Verdict :=
  let o := 0x80 + 32 * n
  let k := teKind v n
  let auto := teAuto v n
  let act := te v n 1 1
  let arm := te v n 0x10 4
  let per := te v n 8 4
  fdFails v .ttut 0 o [fBits 0 1 3, fZ 6 2, { off := 0x10, w := 4, rsv := 2 ^ 31 - 2 ^ 17 }, { off := 0x14, w := 8, rsv := 2 ^ 64 - 2 ^ 48 }]
    ++ ttutChk v o (decide (k < 3))
    ++ (if k = 0 ∨ k = 3 then []
      else
        fdFails v .ttut 0 o [fU 1 1 1 4] ++ ttutChk v (o + 2) (act == 3 || (if act = 4 then te v n 2 2 == 0 else decide (te v n 2 2 < 256)))
          ++ ttutChk v (o + 4) (act != 1 || decide (2 ≤ te v n 4 2))
          ++ (if k = 2 then ttutChk v (o + 8) (decide (1000 ≤ per ∧ per ≤ 1000000000) && 1000000000 % per == 0) ++ ttutChk v (o + 0xC) (decide (te v n 0xC 4 < per))
            else
              ttutChk v (o + 0x10) (auto == bitOf arm 31) ++ ttutChk v (o + 0x10) (bitOf arm 31 || tyOk v (arm % 2 ^ 17) .time)
                ++ ttutChk v (o + 0x1C) (decide (te v n 0x1C 4 < 1000000000))))

def ttutFails (v : State) : List Verdict :=
  let lbus := (List.range (lbuCnt v)).flatMap (fun k =>
    let src := lbutFld v k 0 2
    let n := src % 1024
    let i := lbutFld v k 4 4 % 2 ^ 17
    if src / 1024 = 0x0D then tab v .lbut 0 (16 + 16 * k) (decide (n < tt v 0x44 4) && teKind v n != 0 && lbutFld v k 2 1 == 3 && tyOk v i (.ufxE 0) && tyOk v (i + 1) .time)
    else [])
  if hasSect v .ttut 0 = false then lbus
  else
    let cnt := tt v 0x44 4
    cap v .ttut 0 0x44 cnt 64
      ++ fdFails v .ttut 0 0 [fBits 4 1 5, fU 5 1 0 127, fS 8 1 (-7) 0, fS 9 1 (-3) 3, fS 0xA 1 (-4) 3, fU 0xB 1 2 10, fU 0x14 4 1 50000000, fU 0x18 4 1 1000000,
        fU 0x1C 4 10 1000000, fU 0x20 4 100 100000, fU 0x24 2 1 600, fU 0x26 2 0 600, fU 0x28 1 1 255, fU 0x29 1 1 200, fIx 0x3C, fU 0x40 4 1 604800, fZ 0x48 56]
      ++ ttutChk v 0 (srcOk v) ++ ttutChk v 0 (!(srcKinds v).contains 1 || hasSect v .navc 0)
      ++ roleFn v .ttut 0 4 (v.boot.chartRole || !bitOf (tt v 4 1) 0) ++ roleFn v .ttut 0 0 (v.boot.chartRole || (srcKinds v).all (fun k => k != 1 && k != 3 && k != 4))
      ++ (if issuesOp v 0x0C 1 then ttutChk v 0x3C (timeGroupOk v (tt v 0x3C 4 % 2 ^ 17)) else [])
      ++ (List.range (min 64 cnt)).flatMap (trigFails v)
      ++ (List.range 64).flatMap (fun n => if n < cnt then [] else ttutChk v (0x80 + 32 * n) (zeroAt v .ttut 0 (0x80 + 32 * n) 32)) ++ lbus

end Sys2Proof.Machine
end

