-- ==== Sys2Proof/Machine/Chk13.lean ====
section
/-! DEFINITION. Sys2Proof/Machine/Chk13.lean: the verifier on CANT, SERT and ETHT (R424, R449 to R451; Tables 13-1, 13-2, 13-6 to 13-11). The
spacing of the LANDs of a RAW source is judged with the schedule. -/

namespace Sys2Proof.Machine

/-! ### Field entries. -/

/-- The exponent that a field entry carries for a signal: the signal's, or 0 for BAM32, BOOL, ENUM and TIME64. -/
def expFor (v : State) (i : Nat) : Int := if entType (ent v i) = 1 ∨ entType (ent v i) = 2 then entExp (ent v i) else 0

/-- A field entry alone: reserved bits, format, bit position and length. -/
def entryFails (v : State) (p : PortTab) (ins nmea : Bool) (e : Nat) : List Verdict :=
  let o := p.ext + 16 * e
  let f := feFmt v p e
  let bin := f = 0 || f = 1 || (f = 8 && !nmea)
  let bp := fe v p e 3 1
  let bl := fe v p e 4 1
  fdFails v p.ty p.inst o [fBits 2 1 5, fZ 7 1]
    ++ tab v p.ty p.inst (o + 3) (if bin then decide (bp < 8 ∧ 1 ≤ bl ∧ bl ≤ 32) else bl == 0 && (if ins && (f == 4 || f == 6) then decide (bp ≤ 9) else bp == 0))
    ++ tab v p.ty p.inst (o + 2) (decide (f ≤ 9))

/-- The reserved bits of every declared entry, in use or not (R16). -/
def entriesRsv (v : State) (p : PortTab) (cnt : Nat) : List Verdict :=
  (List.range cnt).flatMap (fun e => fdFails v p.ty p.inst (p.ext + 16 * e) [fBits 2 1 5, fZ 7 1])

/-- A field entry in use for signal i: EXP and the format's target and direction (Table 13-2). -/
def useFails (v : State) (p : PortTab) (ins nmea : Bool) (e i : Nat) : List Verdict :=
  let o := p.ext + 16 * e
  let f := feFmt v p e
  entryFails v p ins nmea e
    ++ tab v p.ty p.inst (o + 2) (decide (i < 131072) && entType (ent v i) != 0 && (!decide (4 ≤ f ∧ f ≤ 7) || nmea) && (!ins || decide (f < 8))
      && (f != 7 || entType (ent v i) == 4))
    ++ tab v p.ty p.inst (o + 5) (signedOf 8 (fe v p e 5 1) == expFor v i)

/-- A run of n entries from `first` in use for the signals from i; it lies inside the table. -/
def runFails (v : State) (p : PortTab) (ins nmea : Bool) (cnt loc first n : Nat) (i : Option Nat) : List Verdict :=
  tab v p.ty p.inst loc (decide (first + n ≤ cnt))
    ++ (match i with
      | some i => if first + n ≤ cnt then (List.range n).flatMap (fun k => useFails v p ins nmea (first + k) (i + k)) else []
      | none => [])

/-- The first target of the LBUT entry of a source. -/
def lbuTarget (v : State) (eng idx : Nat) : Option Nat := (lbuOfSource v eng idx).map (fun k => lbutFld v k 4 4 % 2 ^ 17)

/-- The extreme words of a signal's type. -/
def extremes (e : SdirEntry) : List Word :=
  if entType e = 1 then [0x80000001, 0x7FFFFFFF]
  else if entType e = 3 then [0x80000000, 0x7FFFFFFF, 0xFFFFFFFF, 0]
  else if entType e = 4 then [0, 1]
  else if entType e = 5 then [0, w32 (entMax e)]
  else [0, 0xFFFFFFFF]

/-- The longest text that an entry can insert for a signal: its commas and its fields. The text of a number grows with its magnitude,
so the extreme words give it. -/
def longestText (v : State) (p : PortTab) (e i : Nat) : Nat :=
  ((extremes (ent v i)).map (fun w =>
    let t := insText (setEnt i { ent v i with value := w } v) p e i
    (t.map (fun f => f.length + 1)).foldl (· + ·) 0)).foldl max 1

/-- The longest NMEA telegram of a descriptor: prefix, fields, checksum, CR and LF. -/
def longestNmea (v : State) (p : PortTab) (tlen first n sig : Nat) : Nat :=
  tlen + ((List.range n).map (fun k => longestText v p (first + k) (sig + k))).foldl (· + ·) 0 + 5

/-- A table lies inside the body behind its header, at a multiple of 4. -/
def tableIn (v : State) (t : SectType) (i loc size : Nat) : List Verdict :=
  let o := fld32 v t i loc
  tab v t i loc (size == 0 || (o % 4 == 0 && decide (64 ≤ o ∧ o + size ≤ secLen v t i)))

/-! ### CANT. -/

/-- Quanta of a bit: BRP (1 + SEG1 + SEG2) KCLK cycles (R429). -/
def bitCycles (brp a b : Nat) : Nat := brp * (1 + a + b)

def objFails (v : State) (c o : Nat) : List Verdict :=
  let b := fld32 v .cant c 0x10 + 32 * o
  let fl := od v c o 0 1
  let tx := bitOf fl 1
  let num := od v c o 2 1
  let pool := fld32 v .cant c 0x1C
  let t (l : Nat) (ok : Bool) : List Verdict := tab v .cant c (b + l) ok
  fdFails v .cant c b [fBits 0 1 5, fZ 3 1, fBits 4 4 29, fBits 8 4 29, fZ 0xE 2, fIx 0x14, fZ 0x18 8]
    ++ (if bitOf fl 0 = false then []
      else
        cap v .cant c (b + 2) num 16 ++ t 4 (bitOf fl 2 || decide (od v c o 4 4 < 2048)) ++ t 1 (if tx then decide (od v c o 1 1 ≤ if bitOf fl 3 then 15 else 8) else od v c o 1 1 == 0)
          ++ t 2 (decide (num ≤ 16) && (tx || num != 0)) ++ t 8 (!tx || od v c o 8 4 == 0)
          ++ t 0x10 (if tx then decide (od v c o 0x10 4 + dlcLen (od v c o 1 1) ≤ pool) else od v c o 0x10 4 == 0)
          ++ runFails v (canTab v c) tx false (fld16 v .cant c 0xE) (b + 0xC) (od v c o 0xC 2) (min num 16)
            (if tx then some (od v c o 0x14 4 % 2 ^ 17) else lbuTarget v (0x10 + c) o))

def cantFails (v : State) (c : Nat) : List Verdict :=
  if hasSect v .cant c = false then []
  else
    let f (o : Nat) : Nat := fld8 v .cant c o
    let fd := bitOf (f 0) 1
    let nom := bitCycles (f 1) (f 2) (f 3)
    let dat := bitCycles (f 5) (f 6) (f 7)
    let t (l : Nat) (ok : Bool) : List Verdict := tab v .cant c l ok
    fdFails v .cant c 0 [fBits 0 1 2, fU 1 1 1 32, fU 2 1 2 255, fU 3 1 1 128, fU 4 1 1 (f 3), fU 9 1 0 127, fU 0xA 2 1 65535, fU 0xC 1 1 255, fZ 0xD 1, fZ 0x20 32]
      ++ (if fd then fdFails v .cant c 0 [fU 5 1 1 32, fU 6 1 1 31, fU 7 1 1 16, fU 8 1 1 (f 7)] else t 5 (zeroAt v .cant c 5 4))
      ++ t 1 (decide (80 ≤ nom ∧ nom ≤ 1600)) ++ t 5 (!fd || decide (10 ≤ dat ∧ dat ≤ nom))
      ++ cap v .cant c 0xC (f 0xC) 128 ++ cap v .cant c 0xE (fld16 v .cant c 0xE) 2048
      ++ tableIn v .cant c 0x10 (32 * f 0xC) ++ tableIn v .cant c 0x14 (16 * fld16 v .cant c 0xE) ++ tableIn v .cant c 0x18 (fld32 v .cant c 0x1C)
      ++ entriesRsv v (canTab v c) (min 2048 (fld16 v .cant c 0xE)) ++ (List.range (min 128 (f 0xC))).flatMap (objFails v c)

/-! ### Descriptors of SERT and ETHT. -/

/-- A receive descriptor (Table 13-10): its table starts at `at_`, it stands on engine `eng`, `kinds` are the RKINDs it may have. -/
def rxFails (v : State) (p : PortTab) (at_ cnt eng : Nat) (kinds : List Nat) (d : Nat) : List Verdict :=
  let b := at_ + 48 * d
  let k := rxFld v p at_ d 0 1
  let num := rxFld v p at_ d 2 1
  let t (l : Nat) (ok : Bool) : List Verdict := tab v p.ty p.inst (b + l) ok
  fdFails v p.ty p.inst b [fZ 1 1, fU 3 1 0 8, fZ 0x14 4, fZ 0x28 8]
    ++ t 0 (kinds.contains k) ++ cap v p.ty p.inst (b + 2) num 16 ++ t 2 (if k = 3 then num == 0 else decide (1 ≤ num ∧ num ≤ 16)) ++ t 0x20 (k != 1 || zeroAt v p.ty p.inst (b + 0x20) 8)
    ++ t 0xA (p.ty != .etht || k != 3 || decide (100 ≤ rxFld v p at_ d 0xA 2))
    ++ runFails v p false (k == 1) cnt (b + 4) (rxFld v p at_ d 4 2) (min num 16) (lbuTarget v eng d)

/-- A transmit descriptor (Table 13-11); `top` is the longest telegram of the port and `more` the bytes its check adds. -/
def txFails (v : State) (p : PortTab) (at_ cnt poolLen top more : Nat) (nmea bin eth : Bool) (d : Nat) : List Verdict :=
  let b := at_ + 32 * d
  let f (o n : Nat) : Nat := pf v p (b + o) n
  let k := f 0 1
  let n := f 2 1
  let sig := f 0xC 4 % 2 ^ 17
  let t (l : Nat) (ok : Bool) : List Verdict := tab v p.ty p.inst (b + l) ok
  fdFails v p.ty p.inst b [fBits 1 1 2, fZ 3 1, fIx 0xC, fZ 0x1E 2, fU 2 1 0 16, fU 6 2 1 512]
    ++ cap v p.ty p.inst (b + 2) n 16 ++ t 0 ((k == 1 && nmea) || (k == 2 && bin)) ++ t 1 (eth || !bitOf (f 1 1) 0) ++ t 8 (decide (f 8 4 + f 6 2 ≤ poolLen))
    ++ runFails v p true (k == 1) cnt (b + 4) (f 4 2) (min n 16) (some sig)
    ++ t 6 (decide ((if k = 1 then longestNmea v p (f 6 2) (f 4 2) (min n 16) sig else f 6 2 + more) ≤ top))

/-! ### SERT. -/

def sertFails (v : State) (p : Nat) : List Verdict :=
  if hasSect v .sert p = false then []
  else
    let fr := se v p 1 1
    let chk := se v p 3 1 % 16
    let pt := serTab v p
    let t (l : Nat) (ok : Bool) : List Verdict := tab v .sert p l ok
    let ext := se v p 0x1E 2
    let rx := se v p 0x1A 2
    let tx := se v p 0x1C 2
    fdFails v .sert p 0 [fBits 0 1 3, fU 1 1 1 4, fBits 2 1 4, { off := 3, w := 1, rsv := 0x70 }, fU 4 4 1200 921600, fU 0xD 1 0 2, fU 0x12 2 4 512, fU 0x18 1 0 16, fU 0x19 1 0 1,
        fZ 0x34 12]
      ++ t 2 (decide (se v p 2 1 / 2 % 4 < 3)) ++ t 3 (decide (chk ≤ 7) && (chk != 1 || fr == 1))
      ++ t 0xC (if fr = 2 then decide (1 ≤ se v p 0xC 1 ∧ se v p 0xC 1 ≤ 4) else se v p 0xC 1 == 0)
      ++ t 0x10 (fr != 2 || se v p 0xD 1 != 0 || decide (4 ≤ se v p 0x10 2 ∧ se v p 0x10 2 ≤ 512))
      ++ t 0x16 (fr != 3 || decide (3 ≤ se v p 0x16 1)) ++ t 0x17 (fr != 4 || decide (8 ≤ se v p 0x17 1 ∧ se v p 0x17 1 ≤ 60))
      ++ cap v .sert p 0x1A rx 256 ++ cap v .sert p 0x1C tx 64 ++ cap v .sert p 0x1E ext 2048
      ++ tableIn v .sert p 0x20 (48 * rx) ++ tableIn v .sert p 0x24 (32 * tx) ++ tableIn v .sert p 0x28 (16 * ext) ++ tableIn v .sert p 0x2C (se v p 0x30 4)
      ++ entriesRsv v pt (min 2048 ext) ++ (List.range (min 256 rx)).flatMap (rxFails v pt (se v p 0x20 4) ext (0x18 + p) [if fr = 1 then 1 else if fr = 4 then 3 else 2])
      ++ (List.range (min 64 tx)).flatMap
        (txFails v pt (se v p 0x24 4) ext (se v p 0x30 4) (se v p 0x12 2) (checkLen chk) (fr == 1) (fr == 2 || fr == 3) false)

/-! ### ETHT. -/

def ethtFails (v : State) (p : Nat) : List Verdict :=
  if hasSect v .etht p = false then []
  else
    let pt := ethTab v p
    let ext := et v p 0x20 2
    let rx := et v p 0x10 2
    let tx := et v p 0x12 2
    fdFails v .etht p 0 [fBits 6 2 15, fBits 0xC 1 3, fZ 0xD 1, fU 0xE 2 1 65535, fZ 0x22 2, fZ 0x2C 20]
      ++ tab v .etht p 0 (!bitOf (et v p 0 1) 0)
      ++ cap v .etht p 0x10 rx 256 ++ cap v .etht p 0x12 tx 64 ++ cap v .etht p 0x20 ext 2048
      ++ tableIn v .etht p 0x14 (48 * rx) ++ tableIn v .etht p 0x18 (32 * tx) ++ tableIn v .etht p 0x1C (16 * ext) ++ tableIn v .etht p 0x24 (et v p 0x28 4)
      ++ entriesRsv v pt (min 2048 ext) ++ (List.range (min 256 rx)).flatMap (rxFails v pt (et v p 0x14 4) ext (0x24 + p) [1, 2, 3])
      ++ (List.range (min 64 tx)).flatMap (txFails v pt (et v p 0x18 4) ext (et v p 0x28 4) 1472 0 true true true)

/-! ### LBUT entries with a field-port source. -/

/-- WORDS of a descriptor's record. -/
def rxWords (v : State) (p : PortTab) (at_ d : Nat) : Nat := if rxFld v p at_ d 0 1 = 3 then 16 else rxFld v p at_ d 2 1

def portLbuOk (v : State) (k : Nat) : Bool :=
  let src := lbutFld v k 0 2
  let g := src / 1024
  let d := src % 1024
  let w := lbutFld v k 2 1
  if 0x10 ≤ g ∧ g < 0x18 then hasSect v .cant (g - 0x10) && objUsed v (g - 0x10) d && !objTx v (g - 0x10) d && w == od v (g - 0x10) d 2 1
  else if 0x18 ≤ g ∧ g < 0x24 then
    hasSect v .sert (g - 0x18) && decide (d < se v (g - 0x18) 0x1A 2) && w == rxWords v (serTab v (g - 0x18)) (se v (g - 0x18) 0x20 4) d
  else if 0x24 ≤ g ∧ g < 0x28 then hasSect v .etht (g - 0x24) && decide (d < et v (g - 0x24) 0x10 2) && w == rxWords v (ethTab v (g - 0x24)) (et v (g - 0x24) 0x14 4) d
  else true

def portFails (v : State) : List Verdict :=
  (List.range 8).flatMap (cantFails v) ++ (List.range 12).flatMap (sertFails v) ++ (List.range 4).flatMap (ethtFails v)
    ++ (List.range (lbuCnt v)).flatMap (fun k => tab v .lbut 0 (16 + 16 * k) (portLbuOk v k))

end Sys2Proof.Machine
end

