-- ==== Sys2Proof/Machine/Chk14.lean ====
section
/-! DEFINITION. Sys2Proof/Machine/Chk14.lean: the verifier on EVMT, MBXT and KEYW (R453 to R456, R461, R481, R497, R573; Tables 14-1, 14-13).
The checks on EVM_CHECK, MBX_SERVE and MBX_POST are made with the schedule. -/

namespace Sys2Proof.Machine

/-! ### EVMT. -/

/-- The event codes that the manual defines: each range with its first and last code. -/
def eventRanges : List (Nat × Nat) :=
  [(0x0101, 0x010A), (0x0110, 0x0110), (0x0120, 0x0125), (0x0130, 0x0134), (0x0140, 0x0145), (0x0147, 0x014A), (0x0400, 0x040B), (0x0500, 0x050E), (0x0600, 0x0607),
    (0x0700, 0x0714), (0x0800, 0x0809), (0x0900, 0x0905), (0x0A00, 0x0A0A), (0x0B00, 0x0B14), (0x0C00, 0x0C09), (0x0D00, 0x0D07), (0x0E00, 0x0E0A), (0x0F00, 0x0F10),
    (0x1000, 0x1001)]

def codeDefined (c : Nat) : Bool := eventRanges.any (fun r => decide (r.1 ≤ c ∧ c ≤ r.2))

/-- A Chart code in use. -/
def chartCode (v : State) (c : Nat) : Bool := decide (0xF000 ≤ c ∧ c < 0xF000 + fld16 v .evmt 0 0)

/-- The codes of R461. -/
def alwaysCode (c : Nat) : Bool := decide (0x0101 ≤ c ∧ c ≤ 0x010A) || decide (0x0140 ≤ c ∧ c ≤ 0x014A) || c == 0x0C08 || c == 0x0E00 || c == 0x0E01

def evSlotFails (v : State) (n : Nat) : List Verdict :=
  let o := 64 + 16 * n
  let f (a b : Nat) : Nat := evmtFld v n a b
  let c := f 0 2
  let t (l : Nat) (ok : Bool) : List Verdict := tab v .evmt 0 (o + l) ok
  fdFails v .evmt 0 o [fBits 3 1 2, fZ 5 1, fIx 8, fZ 0xC 4]
    ++ t 0 ((n == 255) == (c == 0xFFFF)) ++ t 0 (c == 0 || c == 0xFFFF || codeDefined c || chartCode v c)
    ++ t 0 (c == 0 || (List.range n).all (fun j => evmtFld v j 0 2 != c)) ++ t 2 (decide (f 2 1 < 8) || bitOf (f 2 1) 2)
    ++ t 4 (f 6 2 == 0 || f 4 1 != 0) ++ t 3 (!alwaysCode c || !bitOf (f 3 1) 0) ++ t 8 (if chartCode v c then tyOk v (f 8 4 % 2 ^ 17) .bool else f 8 4 % 2 ^ 17 == 0)

def evmtFails (v : State) : List Verdict :=
  cap v .evmt 0 0 (fld16 v .evmt 0 0) 256 ++ fdFails v .evmt 0 0 [fZ 2 62] ++ (List.range 256).flatMap (evSlotFails v)

/-! ### MBXT. -/

def mbGroups (v : State) (n : Nat) : Nat := mbxtFld v n 0 2
def mbMasters (v : State) (n : Nat) : Nat := mbxtFld v n 2 2

/-- Does a mailbox accept a handler group? GROUPS bit g is group 2 + g. -/
def mbTakes (v : State) (n g : Nat) : Bool := decide (2 ≤ g) && bitOf (mbGroups v n) (g - 2)

/-- Is a group bound (R573)? -/
def groupBound (v : State) (g : Nat) : Bool := (List.range 16).any (fun n => mbTakes v n g && (bitOf (mbMasters v n) 1 || bitOf (mbMasters v n) 2))

/-- Is the group required (Table 14-13)? -/
def groupNeeded (v : State) (g : Nat) : Bool :=
  match g with
  | 3 => true
  | 4 => v.boot.chartRole && hasSect v .vmdl 0 && (decide (vm v 8 1 ≠ 0) || decide (vm v 9 1 ≠ 0))
  | 5 => hasSect v .navc 0
  | 6 => hasSect v .qpst 0
  | 7 => v.boot.chartRole
  | 8 => hasSect v .lcek 0
  | 10 => fld32 v .pwrt 0 4 != 0 && ((List.range 16).any (lpoOn v) || (List.range 24).any (lpiOn v))
  | 11 => isDuplex v
  | 12 => hasSect v .ttut 0
  | 13 => (List.range 8).any (hasSect v .cant)
  | 15 => true
  | _ => false

/-- The group of template t's CMD. -/
def tplGroup (v : State) (t : Nat) : Nat := fld8 v .mbxt 0 (fld32 v .mbxt 0 0 + 64 * t + 1)

def mbxFails (v : State) (n : Nat) : List Verdict :=
  let o := 64 + 32 * n
  let m := mbMasters v n
  fdFails v .mbxt 0 o [fZ 7 25, fBits 0 2 14]
    ++ tab v .mbxt 0 (o + 2) (decide (m < 16)) ++ tab v .mbxt 0 (o + 6) (decide (mbxtFld v n 6 1 ≤ 8))
    ++ tab v .mbxt 0 o (m != 0 || (mbGroups v n == 0 && mbxtFld v n 4 2 == 0 && mbxtFld v n 6 1 == 0)) ++ chk (m == 0 || mbxtFld v n 6 1 != 0) 0x17 (secIdx v .mbxt 0) (o + 6)

def mbxtFails (v : State) : List Verdict :=
  let pool := fld32 v .mbxt 0 0
  let n := fld16 v .mbxt 0 4
  cap v .mbxt 0 4 n 256 ++ fdFails v .mbxt 0 0 [fZ 6 58] ++ tab v .mbxt 0 0 (n == 0 || (pool % 4 == 0 && decide (576 ≤ pool ∧ pool + 64 * n ≤ secLen v .mbxt 0)))
    ++ (List.range 16).flatMap (mbxFails v) ++ tab v .mbxt 0 64 ((List.range 16).all (fun g => !groupNeeded v g || groupBound v g))

/-! ### KEYW. -/

/-- KEYW: SEC unwraps every entry during VERIFY; the keys are the device's, the section the copy's (R497). -/
def keywFails (v : State) : List Verdict :=
  if hasSect v .keyw 0 = false then []
  else
    let n := fld16 v .keyw 0 0
    let ty (i : Nat) : Nat := fld8 v .keyw 0 (16 + 48 * i)
    cap v .keyw 0 0 n 8 ++ tab v .keyw 0 0 (decide (1 ≤ n ∧ 16 + 48 * n ≤ secLen v .keyw 0)) ++ fdFails v .keyw 0 2 [fZ 0 14]
      ++ (List.range (min 8 n)).flatMap (fun i =>
        let o := 16 + 48 * i
        fdFails v .keyw 0 o [fZ 1 7] ++ tab v .keyw 0 o (ty i == 1 && (List.range i).all (fun j => ty j != ty i))
          ++ tab v .keyw 0 o (match wrapKey v with
            | none => false
            | some k => (Config.kwUnwrap k (fldBytes v .keyw 0 (o + 8) 40)).isSome))

/-! ### LBUT entries of the GPIO banks (R553). -/

def gpioLbuFails (v : State) : List Verdict :=
  (List.range (lbuCnt v)).flatMap (fun k =>
    let src := lbutFld v k 0 2
    if src / 1024 = 0x2B then
      let w := lbutFld v k 2 1
      tab v .lbut 0 (16 + 16 * k) (decide (src % 1024 ≤ 1 ∧ 1 ≤ w ∧ w ≤ 2) && runAll (lbutFld v k 4 4 % 2 ^ 17, w) (fun i => tyOk v i (.ufxE 0)))
    else [])

end Sys2Proof.Machine
end

