-- ==== Sys2Proof/Machine/Operands.lean ====
section
/-! DEFINITION. Sys2Proof/Machine/Operands.lean: the operand forms, the latencies and the resources of every scheduled operation (R19, R42,
R76, R154, R163, R189, R211, R229, R267, R312, R317, R384, R418, R449, R488, R529, R552; their tables). -/

namespace Sys2Proof.Machine

/-- What the tables publish of an operation: latency, initiation interval, the operand bits that are no field, whether the operand
names something declared, whether it is MANAGER-only, the signals it reads and writes, the table regions it reads and writes (1024
times the engine of the region plus its index). -/
structure OpInfo where
  lat  : Nat
  gap  : Nat
  rsv  : Nat := 2 ^ 20 - 1
  ok   : Bool := true
  man  : Bool := false
  reads  : List Run := []
  writes : List Run := []
  regR : List Nat := []
  regW : List Nat := []

/-- An operation whose initiation interval equals its latency, with an operand of n bits. -/
def opB (lat bits : Nat) (ok : Bool := true) (reads writes : List Run := []) : OpInfo :=
  { lat := lat, gap := lat, rsv := 2 ^ 20 - 2 ^ bits, ok := ok, reads := reads, writes := writes }

/-- A signal index of a table as a run. -/
def sigRun (i n : Nat) : Run := (i % 2 ^ 17, n)

/-! ### SEQ, LBU, SDIR (Tables 1-9, 2-8). -/

def seqOp (opc : Nat) : Option OpInfo := match opc with
  | 1 => some (opB 1 20)
  | 2 | 3 => some (opB 1 5)
  | _ => none

def lbuOp (v : State) (opc d : Nat) : Option OpInfo := match opc with
  | 0 =>
    let n := d % 1024
    some { opB (4 + lbutFld v n 2 1) 10 (decide (n < lbuCnt v)) with writes := [lbutRun v n], regW := [1024 + n] }
  | _ => none

/-- The first entry and the size of the group of a PUB (R569). -/
def pubRun (v : State) (d : Nat) : Run := let g := groupEnts v (pubPos v (d / 256 % 4)) (d % 256); (g.headD 0, g.length)

/-- DESIGN CHOICE (log entry 134): a PUB that names group 0 is given 0x10 OPERAND as one whose group has no entry, since GROUP 0 is no group (R569). -/
def sdirOp (v : State) (opc d : Nat) : Option OpInfo := match opc with
  | 1 =>
    let r := pubRun v d
    let psel := d / 256 % 4
    some { opB (8 + r.2) 10 (r.2 != 0 && d % 256 != 0 && (if v.boot.chartRole then decide (psel < 3) else psel == 0)) with reads := [r], regW := [1024 * 0x0E] }
  | 2 =>
    let i := d % 2 ^ 17
    some { opB 4 18 (decide (i + 1 < 131072)) with gap := 2, reads := [(i, 1)], writes := [(i + 1, 1)] }
  | 3 =>
    let n := d % 256
    let o := 16 + 16 * n
    let l := 8 + clog2 (fld16 v .crve 0 (o + 12) % 512)
    some (opB l 8 (hasSect v .crve 0 && decide (n < fld32 v .crve 0 0)) [sigRun (fld32 v .crve 0 o) 1] [sigRun (fld32 v .crve 0 (o + 4)) 1])
  | _ => none

/-! ### VMU (Tables 4-11, 5-9). -/

/-- The inputs and the status group of a slot. -/
def slotIn (v : State) (n : Nat) : Run := sigRun (sl v n 4 4) (kindTys (slotKind v n)).length
def slotOut (v : State) (n : Nat) : List Run := let r := sigRun (sl v n 8 4) (slotOutTys n).length; [(r.1, 2), (r.1 + 3, r.2 - 3)]
def obRun (v : State) (off n : Nat) : Run := sigRun (ob v off 4) n

/-- The channel records and the epoch header that the Chart lands. -/
def epochRuns (v : State) : List Run := ((List.range (lbuCnt v)).filter (fun k => lbutFld v k 0 2 / 1024 == 0x0A)).map (fun k => (lbutFld v k 4 4 % 2 ^ 17, lbutFld v k 2 1))

def pvtRun (v : State) (o n : Nat) : Run := sigRun (nv v 0x98 4 % 2 ^ 17 + o) n

def slotsOf (v : State) (a n : Nat) : List Nat := ((List.range n).map (a + ·)).filter (slotUsed v)

def vmuOp (v : State) (opc d : Nat) : Option OpInfo :=
  let m := matDesc v (d % 1024)
  let mat := hasSect v .vmdl 0 && decide (d % 1024 < vm v 0x14 2)
  let n := d % 32
  let used := hasSect v .vmdl 0 && decide (n < 17) && slotUsed v n
  let obs (o : OpInfo) : OpInfo := { o with regW := [1024 * 3], ok := o.ok && hasSect v .vmdl 0 }
  let nav (o : OpInfo) : OpInfo := { o with regW := [1024 * 9], ok := hasSect v .navc 0 }
  match opc with
  | 1 => some (opB (12 + (m.m * m.n * m.k + 127) / 128 + (m.m * m.k + 3) / 4) 10 (mat && m.n != 0)
      ([(m.a, m.m * m.n), (m.b, m.n * m.k)] ++ if m.acc then [(m.c, m.m * m.k)] else []) [(m.c, m.m * m.k)])
  | 2 => some (opB (8 + (m.m * m.k + 3) / 4) 10 (mat && m.n == 0) [(m.a, m.m * m.k), (m.b, m.m * m.k)] [(m.c, m.m * m.k)])
  | 8 => some (obs (opB 32 0 true ((slotsOf v 12 3).map (slotIn v)) [sigRun (ob v 0xC 4 % 2 ^ 17 + 1) 4]))
  | 9 => some { obs (opB 352 0 true [obRun v 4 3, obRun v 8 1, obRun v 0x10 2, obRun v 0x14 3] []) with man := true }
  | 0xA => some (obs (opB 40 5 used ([slotIn v n, sigRun (sl v n 8 4 + 2) 1] ++ if n < 12 then [obRun v 0xC 3, obRun v 0x10 2] else []) (slotOut v n)))
  | 0xB => some (obs (opB 56 5 (used && decide (n < 12)) [slotIn v n] (slotOut v n)))
  | 0xC => some { obs (opB (24 + 8 * vm v 9 1) 0 true [] (obRun v 0xC 1 :: (slotsOf v 8 4).flatMap (slotOut v))) with man := true }
  | 0xD => some { obs (opB (32 + 16 * vm v 8 1) 0 true [] ((slotsOf v 0 8).flatMap (slotOut v))) with man := true }
  | 0xE => some { obs (opB (8 + 72 * (if n < 8 then 2 else 1)) 5 (used && decide (n < 12)) [] []) with man := true }
  | 0xF => some { obs (opB 48 0 true [] [obRun v 0 20]) with man := true }
  | 0x10 => some (obs (opB 64 0 true ((slotsOf v 15 2).map (slotIn v)) [obRun v 0x14 3]))
  | 0x20 => some (nav (opB 3200 0 true (epochRuns v) [pvtRun v 4 9, pvtRun v 14 1]))
  | 0x21 => some (nav (opB 24 0 true [pvtRun v 8 2, sigRun (nv v 0xAC 4) 1] [pvtRun v 0 4, pvtRun v 13 1, pvtRun v 15 1]))
  | 0x22 => some { nav (opB 12288 0 true (epochRuns v ++ [sigRun (nv v 0xAC 4) 1]) [sigRun (nv v 0x9C 4) 6]) with ok := hasSect v .navc 0 && bitOf (nv v 0x43 1) 0 }
  | _ => none

/-! ### QPS (Table 6-5). -/

/-- Sn(c) (R211). -/
def snOf (n c : Nat) : Nat := n * (c * (c - 1) / 2) - (c - 1) * c * (2 * c - 1) / 6

/-- The signals that a build segment reads. -/
def buildReads (v : State) (t first : Nat) : List Run :=
  (segment v t first).flatMap (fun e =>
    let k := qBlk v t (qEntry v t e 2 2)
    let i := qEntry v t e 4 4 % 2 ^ 17
    match qEntry v t e 0 1 % 64 with
    | 2 => [(i, k.rows * k.cols)]
    | 4 | 7 => [(i, 1)]
    | 6 | 8 | 9 | 0xA => [(i, k.rows)]
    | _ => [])

/-- The latency of FAR_FACT from column c0 to c1. -/
def factLat (v : State) (t c0 c1 : Nat) : Nat := 16 + (c1 - c0) + (2 * (snOf (qN v t) c1 - snOf (qN v t) c0) + 511) / 512

/-- FSA and FAR operations. FAR_FACT is given here as from column 0; where its segment begins is judged with the schedule. -/
def qpsOp (v : State) (eng opc d : Nat) : Option OpInfo :=
  let t := d % 16
  let n := qN v t
  let here := hasSect v .qpst 0 && decide (t < tplCnt v)
  let r := 1024 * 4 + t
  match eng, opc with
  | 4, 1 => some { opB (8 + ((segment v t (d / 16 % 4096)).map (fsaCost v t)).foldl (· + ·) 0) 16 (here && decide (d / 16 % 4096 < qpListCnt v t)) with
      reads := buildReads v t (d / 16 % 4096), regW := [r] }
  | 5, 1 => some { opB (factLat v t 0 (d / 16 % 512 + 1)) 13 (here && decide (d / 16 % 512 < n)) with regR := [r], regW := [r + 16] }
  | 5, 2 => some { opB (32 + (6 * n * n + 511) / 512) 4 here with regR := [r], regW := [r + 16] }
  | 5, 3 => some { opB (4 + d / 16 % 256 * tIt v t) 12 (here && d / 16 % 256 != 0) with regR := [r], regW := [r + 16] }
  | 5, 4 => some { opB (24 + (n * (n + qMg v t) + 511) / 512 + (n + 3) / 4) 4 here with
      regR := [r], regW := [r + 16], writes := [sigRun (qd v t 0x24 4) n, sigRun (qd v t 0x28 4) 6] }
  | _, _ => none

/-! ### LCE and the mode operations (Tables 8-1, 7-1). -/

def ctxSigs (v : State) (c : Nat) : List Run :=
  [0x14, 0x18, 0x1C, 0x20, 0x24, 0x28, 0x2C, 0x30, 0x38, 0x3C, 0x40, 0x44, 0x48].filterMap (fun o => (cxSig v c o).map (fun i => (i, 1)))

def thrIdx (v : State) : List Nat := List.range (min 32 (nThr v))
def cmdRuns (v : State) (o n : Nat) : List Run := (thrIdx v).map (fun i => (cmdSig v i + o, n))
def fbRuns (v : State) : List Run := (thrIdx v).map (fun i => (fbSig v i, 5))

/-- Section loads and ties, breakers. -/
def powerRuns (v : State) : List Run := sigRun (th v 0x24 4) (2 * nSec v) :: (List.range (min 16 (nGen v))).map (fun g => (genBrk v g, 1))

def tplOut (v : State) (t : Nat) : List Run := [sigRun (qd v t 0x24 4) (qN v t), sigRun (qd v t 0x28 4) 6]

def modeOp (v : State) (opc d : Nat) : Option OpInfo :=
  let st := hasSect v .stmt 0 && hasThr v
  let op (lat bits : Nat) (ok : Bool) (reads writes : List Run) : Option OpInfo := some { opB lat bits (st && ok) reads writes with man := true, regW := [1024 * 6 + 512] }
  let s := d % 2
  let g := d % 8
  let seats : List Run := [(seatTau v 0, 3), (seatTau v 1, 3)]
  let stick : List Run := [sigRun (sm v 0x28 4) 3, sigRun (sm v 0x44 4) 3]
  let n := nThr v
  let caOk := decide (g < th v 3 1)
  match opc with
  | 0x30 => op 64 0 true ([sigRun (sm v 0x20 4) 3, sigRun (sm v 0x24 4) 9, sigRun (sm v 0x44 4) 3, obRun v 0 20, sigRun (sm v 0x40 4 % 2 ^ 17 - 1) 1] ++ seats ++ cmdRuns v 3 1)
      [sigRun (sm v 0x2C 4) 8, obRun v 8 1, obRun v 0x10 2]
  | 0x31 => op 48 1 true (obRun v 0 20 :: obRun v 0x14 3 :: stick) [(cigSig v s, 24)]
  | 0x32 => op (16 + seatDesc v s 1 1) 1 true (tplOut v (seatDesc v s 0 1) ++ stick) [(seatTau v s, 3)]
  | 0x33 => op 24 0 true seats [sigRun (th v 0x20 4) 3]
  | 0x34 => op (32 + 8 * n) 0 true (powerRuns v ++ fbRuns v) ((thrIdx v).map (fun i => (workSig v i, 1)))
  | 0x35 => op (40 + 4 * n) 0 true (powerRuns v ++ fbRuns v) (cmdRuns v 2 1)
  | 0x36 => op (16 + 12 * n) 0 true (tplOut v ((roleTpl v 3).getD 0) ++ fbRuns v ++ [sigRun (sm v 0x3C 4) 3]) (obRun v 4 3 :: cmdRuns v 0 4 ++ (thrIdx v).map (fun i => (workSig v i + 1, 4)))
  | 0x37 => op (24 + 8 * n) 3 caOk (powerRuns v ++ fbRuns v ++ [(cigSig v 0 + 6, 3), (cigSig v 1 + 6, 3)]) [sigRun (ca v g 12 4) (3 + n)]
  | 0x38 => op 20 3 caOk (tplOut v (ca v g 0 1) ++ [sigRun (ca v g 12 4) 3]) [sigRun (sm v 0x2C 4 % 2 ^ 17 + 5) 1]
  | 0x39 => op 96 0 true [sigRun (sm v 0x40 4) 4, obRun v 4 3] [sigRun (th v 0x28 4) 6]
  | _ => none

def lceOp (v : State) (opc d : Nat) : Option OpInfo :=
  if opc = 1 then
    let c := d % 256
    some { opB 40 8 (hasSect v .lcek 0 && decide (c < ctxCnt v)) (ctxSigs v c) [(cxOut v c, 4)] with gap := 4, regW := [1024 * 6 + c] }
  else modeOp v opc d

/-! ### FCE, NAV, PTC, TTU (Tables 9-5, 5-2, 12-7). -/

def navOp (v : State) (eng opc d : Nat) : Option OpInfo :=
  let i := d % 2 ^ 17
  let nav (o : OpInfo) : OpInfo := { o with ok := o.ok && hasSect v .navc 0 }
  match eng, opc with
  | 8, 1 => some (nav (opB 4 2 (decide (d % 4 < 3))))
  | 8, 2 => some (nav (opB 4 0))
  | 9, 1 => some (nav (opB 4 8 (decide (d % 256 < 192))))
  | 0xA, 1 => some (nav (opB 4 0))
  | 0xA, 2 => some (nav (opB 12 17 (decide (i + 8 ≤ 131072)) [(i, 8)]))
  | 0xA, 3 => some (nav (opB 20 17 (decide (i + 16 ≤ 131072)) [(i, 16)]))
  | 0xB, 1 => some (nav (opB 6 17 (i == nv v 0x98 4 % 2 ^ 17 + 8) [(i, 2)]))
  | _, _ => none

def timeOp (v : State) (eng opc d : Nat) : Option OpInfo :=
  let n := d % 64
  let ttu (r : List Run) : OpInfo := { opB 4 6 (hasSect v .ttut 0 && decide (n < tt v 0x44 4) && teKind v n != 0) r with regW := [1024 * 0x0D + n] }
  match eng, opc with
  | 0xC, 1 => some (opB 6 0 true [] (if hasSect v .ttut 0 then [sigRun (tt v 0x3C 4) 7] else []))
  | 0xD, 1 => some (ttu (if teKind v n = 1 ∧ teAuto v n = false then [sigRun (te v n 0x10 4) 2] else []))
  | 0xD, 2 => some (ttu [])
  | _, _ => none

/-! ### PSW, links, field ports (Tables 11-13, 13-5). -/

/-- Bytes of an equalisation item (Table 11-9); 0 for none. -/
def eqBytes (v : State) (item index : Nat) : Nat :=
  match item with
  | 1 => 512 | 2 => 1024 | 3 => 64 | 4 => 8 + 2 * qN v index | 5 => 512 | _ => 0

/-- Is an equalisation item one of Table 11-9? -/
def eqItemOk (item index : Nat) : Bool := match item with
  | 1 | 2 | 5 => index == 0
  | 3 => true
  | 4 => decide (index < 16)
  | _ => false

/-- The region that an item is read from. -/
def eqRegion (item index : Nat) : List Nat := match item with
  | 1 | 5 => [1024 * 6 + 512]
  | 2 => [1024 * 3]
  | 3 => [1024 * 6 + index]
  | 4 => [1024 * 4 + index + 16]
  | _ => []

def packOp (v : State) (eng opc d : Nat) : Option OpInfo :=
  let item := d % 16
  let i := d / 16 % 256
  match eng, opc with
  | 0xE, 1 => some { opB 8 0 with regR := [1024 * 0x0E] }
  | 0xF, 1 => some (opB 12 0)
  | 0xF, 2 => some (opB 24 0)
  | 0xF, 3 => some { opB (8 + (16 + eqBytes v item i + 15) / 16) 12 (eqItemOk item i) with regR := eqRegion item i }
  | _, _ => none

def portOp (v : State) (eng opc d : Nat) : Option OpInfo :=
  let tx (n sig : Nat) (bits : Nat) (ok : Bool) : Option OpInfo := some (opB (4 + n) bits ok [sigRun sig n])
  if 0x10 ≤ eng ∧ eng < 0x18 then
    let c := eng - 0x10
    let o := d % 128
    let ok := hasSect v .cant c && objUsed v c o && objTx v c o
    if opc = 1 then tx (od v c o 2 1) (od v c o 0x14 4) 7 ok else if opc = 2 then some (opB 4 7 ok) else none
  else if 0x18 ≤ eng ∧ eng < 0x24 then
    let p := eng - 0x18
    if opc = 1 then tx (stx v p (d % 64) 2 1) (stx v p (d % 64) 0xC 4) 6 (hasSect v .sert p && decide (d % 64 < se v p 0x1C 2)) else none
  else
    let p := eng - 0x24
    if opc = 1 then tx (etx v p (d % 64) 2 1) (etx v p (d % 64) 0xC 4) 6 (decide (2 ≤ p) && hasSect v .etht p && decide (d % 64 < et v p 0x12 2)) else none

/-! ### Loops, HART, converters, GPIO (Tables 10-2, 9-5, 16-13). -/

def loopOp (v : State) (eng opc d : Nat) : Option OpInfo :=
  let lpo := d % 16
  let out := lpF v lpo 0xC 4
  let here := loopOff v != 0
  let t := d % 512
  match eng, opc with
  | 0x28, 1 => some { opB 8 4 (here && lpoOn v lpo) [sigRun (lpF v lpo 4 4) 1] [sigRun out 1, sigRun (out + 2) 1] with gap := 2 }
  | 0x28, 2 => some { opB 12 4 (here && lpoOn v lpo) [sigRun (lpF v lpo 8 4) 3] [sigRun (out + 1) 2] with gap := 2 }
  | 0x28, 3 => some (opB 4 6 (here && lpoOn v lpo && decide (d / 16 % 4 < 3)))
  | 0x29, 1 => some (opB 4 7 (here && lpiOn v (d % 32) && decide (d / 32 % 4 < 3)))
  | 0x29, 2 => some { opB 8 5 (here && lpiOn v (d % 32)) [sigRun (liF v (d % 32) 4 4) 3] [sigRun (liF v (d % 32) 8 4) 1] with gap := 2 }
  | 0x29, 3 => some (opB (4 + txF v t 5 1) 9 (here && decide (t < txnCnt v) && hartOnCfg v (txF v t 0 1)) [sigRun (txF v t 0x10 4) (txF v t 5 1)] [])
  | _, _ => none

def convOp (eng opc d : Nat) : Option OpInfo := match eng, opc with
  | 7, 1 => some { opB 2 6 with gap := 1, regW := [1024 * 7 + d % 64] }
  | 0x2A, 1 => some (opB 4 5 (decide (d / 8 % 4 < 3)))
  | 0x2A, 2 => some (opB 4 4)
  | 0x2B, 1 => some (opB 4 18 (decide (d % 2 ^ 17 + 33 ≤ 131072)) [(d % 2 ^ 17, 33)] [])
  | _, _ => none

/-! ### EVM, MBX, SEC, PWR (Tables 14-9, 15-13). -/

def sysOp (v : State) (eng opc d : Nat) : Option OpInfo :=
  let m := d % 16
  let grp (o n : Nat) : List Run := ((groupSig v o).map (fun i => (i, n))).toList
  match eng, opc with
  | 0x2C, 1 => some (opB 4 8 (decide (evmtFld v (d % 256) 0 2 / 256 = 0xF0)) [sigRun (evmtFld v (d % 256) 8 4) 1] [])
  | 0x2E, 1 => some (opB 4 4 (mbMasters v m != 0))
  | 0x2E, 2 => some (opB 8 12 (mbMasters v m != 0 && decide (d / 16 % 256 < fld16 v .mbxt 0 4)))
  | 0x2F, 1 => some (opB 6 0 true [] (grp 0x14 4))
  | 0x30, 1 => some (opB 6 0 true [] (grp 0x18 3))
  | _, _ => none

/-- What the spec's tables publish of an operation; none for an undefined engine or opcode. -/
def opInfo (v : State) (eng opc d : Nat) : Option OpInfo :=
  if opc = 0 ∧ eng ≠ 1 then (if eng ≤ 0x30 then some (opB 1 0) else none)
  else match eng with
  | 0 => seqOp opc
  | 1 => lbuOp v opc d
  | 2 => sdirOp v opc d
  | 3 => vmuOp v opc d
  | 4 | 5 => qpsOp v eng opc d
  | 6 => lceOp v opc d
  | 8 | 9 | 0xA | 0xB => navOp v eng opc d
  | 0xC | 0xD => timeOp v eng opc d
  | 0xE | 0xF => packOp v eng opc d
  | 0x28 | 0x29 => loopOp v eng opc d
  | 7 | 0x2A | 0x2B => convOp eng opc d
  | _ => if 0x10 ≤ eng ∧ eng < 0x28 then portOp v eng opc d else sysOp v eng opc d

end Sys2Proof.Machine
end

