-- ==== Sys2Proof/Machine/ChkSeq.lean ====
section
/-! DEFINITION. Sys2Proof/Machine/ChkSeq.lean: the verifier on the schedule: operations and operands, issue ports, slack, hazards, gating, the
pack cycle (R18 to R20, R23, R40, R43, R53, R54, R223, R518, R567; codes 0x0A, 0x0E to 0x15). -/

namespace Sys2Proof.Machine

/-- An operation of a frame: bundle, lane, tick, the fields of its word, what the tables publish of it. -/
structure TOp where
  bund : Nat
  lane : Nat
  tick : Nat
  eng  : Nat
  opc  : Nat
  opnd : Nat
  info : OpInfo

def opEng (w : Nat) : Nat := w / 2 ^ 26
def opOpc (w : Nat) : Nat := w / 2 ^ 20 % 64
def opOpnd (w : Nat) : Nat := w % 2 ^ 20

def TOp.is (x : TOp) (eng opc : Nat) : Bool := x.eng == eng && x.opc == opc
/-- The last tick of an operation. -/
def TOp.last (x : TOp) : Nat := x.tick + x.info.lat - 1

/-! ### Words of the bundles (R41, R42, R567). -/

/-- The words of the enabled lanes of the bundle array, reached by a list or not: bundle, lane, word (R53, R567). -/
def enabledWords (v : State) : List (Nat × Nat × Nat) :=
  (List.range (min 262144 (bundleCnt v))).flatMap (fun b => (lanesOf v b).map (fun n => (b, n, laneOp v b n)))

/-- The verdicts of one signal that an operation writes or reads (R65): no VOID, no write of CONST or of another device's entry. -/
def readSigFails (v : State) (r : Run) : List Verdict :=
  chk (decide (r.1 + r.2 ≤ 131072) && runAll r (fun i => entType (ent v i) != 0)) 0x18 (secIdx v .sdir 0) (16 * r.1)
def writeSigFails (v : State) (land : Bool) (r : Run) : List Verdict :=
  chk (decide (r.1 + r.2 ≤ 131072) && runAll r (fun i => entType (ent v i) != 0 && !entConst (ent v i) && (land || entLocal (ent v i)))) 0x18 (secIdx v .sdir 0) (16 * r.1)

/-- SUBST: signal s + 1 has the FMT of s apart from FORCEABLE (R77). -/
def substOk (v : State) (i : Nat) : Bool :=
  let a := (ent v i).fmt.toNat
  let b := (ent v (i + 1)).fmt.toNat
  entType (ent v i) == entType (ent v (i + 1)) && entExp (ent v i) == entExp (ent v (i + 1)) && entMax (ent v i) == entMax (ent v (i + 1)) && entConst (ent v (i + 1)) == false
    && a / 1024 == b / 1024

/-- What a word alone breaks. -/
def wordFails (v : State) (x : Nat × Nat × Nat) : List Verdict :=
  let i := secIdx v .seqp 0
  let w := x.2.2
  match opInfo v (opEng w) (opOpc w) (opOpnd w) with
  | none => chk false 0x0E i x.1
  | some o =>
    chk (opOpnd w &&& o.rsv == 0) 0x0A i (fld32 v .seqp 0 8 + 20 * x.1 + 4 + 4 * x.2.1) ++ chk (v.boot.chartRole || !o.man) 0x0F i x.1 ++ chk o.ok 0x10 i x.1
      ++ (if o.ok then o.reads.flatMap (readSigFails v) ++ o.writes.flatMap (writeSigFails v (opEng w == 1)) ++ (if opEng w = 2 ∧ opOpc w = 2 then
        chk (substOk v (opOpnd w % 2 ^ 17)) 0x18 (secIdx v .sdir 0) (16 * (opOpnd w % 2 ^ 17)) else []) else [])

/-! ### The operations of a frame, with the latencies that depend on earlier frames (R211, R351). -/

/-- What earlier operations leave for later latencies: the last column of each template's last FAR_FACT, and the words of each PUB
since the last PSW_TX. -/
structure Carry where
  c1   : Tab Nat := []
  pubs : List Nat := []

/-- Bytes of a pack frame (R349, R350). -/
def packBytes (l : List Nat) : Nat := max 64 (56 + (l.map (fun n => 20 + 4 * n)).foldl (· + ·) 0)

def carryOp (v : State) (c : Carry) (x : Nat × Nat × Nat × Nat) : Carry × List TOp :=
  let w := x.2.2.2
  match opInfo v (opEng w) (opOpc w) (opOpnd w) with
  | none => (c, [])
  | some o =>
    let op (i : OpInfo) : List TOp := [{ bund := x.2.1, lane := x.2.2.1, tick := x.1, eng := opEng w, opc := opOpc w, opnd := opOpnd w, info := i }]
    let t := opOpnd w % 16
    if opEng w = 5 ∧ opOpc w = 1 then
      let c1 := opOpnd w / 16 % 512 + 1
      let l := factLat v t (tget 0 c.c1 t) c1
      ({ c with c1 := tset 0 c.c1 t (if qN v t ≤ c1 then 0 else c1) }, op { o with lat := l, gap := l })
    else if opEng w = 2 ∧ opOpc w = 1 then ({ c with pubs := c.pubs ++ [(pubRun v (opOpnd w)).2] }, op o)
    else if opEng w = 0x0E ∧ opOpc w = 1 then
      let l := 4 + (packBytes c.pubs + 15) / 16
      ({ c with pubs := [] }, op { o with lat := l, gap := l })
    else (c, op o)

def carryOps (v : State) : Carry → List (Nat × Nat × Nat × Nat) → Carry × List TOp
  | c, [] => (c, [])
  | c, x :: l =>
    let a := carryOp v c x
    let b := carryOps v a.1 l
    (b.1, a.2 ++ b.2)

/-- The operations of the frames from k on, one list a frame. -/
def carryFrames (v : State) : Carry → List Nat → Carry × List (List TOp)
  | c, [] => (c, [])
  | c, k :: l =>
    let a := carryOps v c (pairOps v (classEntry v (classOf v k)))
    let b := carryFrames v a.1 l
    (b.1, a.2 :: b.2)

/-- The operations of each frame of the Meridian, as the schedule leaves them once it has run through it. -/
def meridFrames (v : State) : List (List TOp) := (carryFrames v (carryFrames v {} (List.range v.hdr.m)).1 (List.range v.hdr.m)).2

/-- The class-table entries that no frame of the Meridian uses, each on its own. -/
def spareFrames (v : State) : List (List TOp) :=
  ((List.range (2 ^ v.hdr.fcBits)).filter (fun c => decide (v.hdr.m ≤ c))).map (fun c => (carryOps v {} (pairOps v (classEntry v c))).2)

/-! ### One frame. -/

/-- 0x11 PORT: an engine takes an operation only I ticks after its previous one (R40). -/
def portFailsOf (i : Nat) : List TOp → List Verdict
  | [] => []
  | x :: l => (l.filter (fun y => y.eng == x.eng && decide (y.tick < x.tick + x.info.gap))).flatMap (fun y => chk false 0x11 i y.bund) ++ portFailsOf i l

/-- 0x12 SLACK (R23). -/
def slackFailsOf (v : State) (i : Nat) (l : List TOp) : List Verdict := l.flatMap (fun x => chk (decide (x.last + 65 ≤ v.hdr.f)) 0x12 i x.bund)

/-- Are two operations in flight together, the second while the first is? -/
def pendingAt (w : TOp) (t : Nat) : Bool := decide (w.tick ≤ t ∧ t ≤ w.last)

/-- Two operations, the first of which does not issue later: a read of a pending write, or overlapping writers (R20). -/
def clash (a b : TOp) : Bool :=
  let sig := anyMeet a.info.writes b.info.writes
  let reg := a.info.regW.any (fun r => b.info.regW.contains r)
  (pendingAt a b.tick && (sig || reg || anyMeet a.info.writes b.info.reads || a.info.regW.any (fun r => b.info.regR.contains r)))
    || (a.tick == b.tick && (anyMeet b.info.writes a.info.reads || b.info.regW.any (fun r => a.info.regR.contains r)))

/-- 0x13 HAZARD. -/
def hazardFailsOf (i : Nat) : List TOp → List Verdict
  | [] => []
  | x :: l => (l.filter (clash x)).flatMap (fun y => chk false 0x13 i y.bund) ++ hazardFailsOf i l

def domains : List Domain := [.qps, .nav, .ioe, .ana, .sec]

/-- Does an operation gate, or wake, a domain? -/
def gatesDom (d : Domain) (x : TOp) : Bool := x.is 0 3 && bitOf x.opnd (domBit d)
def wakesDom (d : Domain) (x : TOp) : Bool := x.is 0 2 && bitOf x.opnd (domBit d)

/-- 0x14 GATED of one domain (R43, R518): operations while it is gated or waking, a PGATE while one is in flight or too late. -/
def gatedFailsOf (v : State) (i : Nat) (l : List TOp) (d : Domain) : List Verdict :=
  let gates := (l.filter (gatesDom d)).map (fun x => x.tick)
  l.flatMap (fun x =>
    if engDomain x.eng = some d then
      match (gates.filter (fun g => decide (g < x.tick))).getLast? with
      | none => []
      | some g => chk (l.any (fun y => wakesDom d y && decide (g ≤ y.tick ∧ y.tick + domWake d ≤ x.tick))) 0x14 i x.bund
    else [])
    ++ (l.filter (gatesDom d)).flatMap (fun x =>
      chk (decide (d = .ioe) || decide (x.tick + 64 + domWake d < v.hdr.f)) 0x14 i x.bund
        ++ chk (l.all (fun y => !(decide (engDomain y.eng = some d) && pendingAt y x.tick))) 0x14 i x.bund)

def frameFails (v : State) (l : List TOp) : List Verdict :=
  let i := secIdx v .seqp 0
  portFailsOf i l ++ slackFailsOf v i l ++ hazardFailsOf i l ++ domains.flatMap (gatedFailsOf v i l)

/-! ### Across frames. -/

/-- 0x15 PACKCYC: the PSW and Leash operations of frame k recur in frame k + P. -/
def packWork (l : List TOp) : List (Nat × Nat × Nat × Nat) := (l.filter (fun x => x.eng == 0x0E || x.eng == 0x0F)).map (fun x => (x.tick, x.eng, x.opc, x.opnd))

def packCycFails (v : State) (fr : List (List TOp)) : List Verdict :=
  let w := fr.map packWork
  (List.range v.hdr.m).flatMap (fun k =>
    let a := w.getD k []
    let b := w.getD ((k + v.hdr.p) % v.hdr.m) []
    chk (a == b) 0x15 (secIdx v .seqp 0) (classEntry v (classOf v k)).1)

/-- 0x13 HAZARD: an FSA_BUILD of a template between its FAR_FACT and its FAR_END (R223). -/
def buildInSolve (t : Nat) : Bool → List TOp → Bool
  | _, [] => false
  | on, x :: l =>
    let mine := (x.eng == 4 || x.eng == 5) && x.opnd % 16 == t
    if mine && x.is 5 1 then buildInSolve t true l
    else if mine && x.is 5 4 then buildInSolve t false l
    else (mine && x.is 4 1 && on) || buildInSolve t on l

/-- The solves of the templates. DESIGN CHOICE (log entry 131): where several bundles are concerned, SEQ_VLOCx names the template's first
FSA_BUILD here, the later bundle of the two for 0x11 and 0x13, the first bundle of the frame's list for 0x15, and bundle 0 for a SEQP
body whose layout fails. -/
def solveFails (v : State) (fr : List (List TOp)) : List Verdict :=
  let all := fr.flatMap (fun l => l)
  (List.range (min 16 (tplCnt v))).flatMap (fun t => chk (!buildInSolve t false (all ++ all)) 0x13 (secIdx v .seqp 0) ((all.find? (fun x => x.is 4 1 && x.opnd % 16 == t)).map (fun x => x.bund)).toList.sum)

/-- The schedule: its words, then its frames. -/
def scheduleFails (v : State) (fr : List (List TOp)) : List Verdict :=
  (enabledWords v).flatMap (wordFails v) ++ (fr ++ spareFrames v).flatMap (frameFails v) ++ packCycFails v fr ++ solveFails v fr

end Sys2Proof.Machine
end

