-- ==== Sys2Proof/Machine/ChkTab.lean ====
section
/-! DEFINITION. Sys2Proof/Machine/ChkTab.lean: the checks of the tables' own chapters on the operations of the Meridian (R156, R166, R187, R168,
R199, R224, R230, R269, R314, R342, R359, R386, R418, R451, R456, R481, R519, R528, R553; codes 0x17 and 0x18). -/

namespace Sys2Proof.Machine

/-- An operation with the tick counted from the start of the Meridian. -/
def timed (v : State) (fr : List (List TOp)) : List (Nat × TOp) := (fr.zipIdx).flatMap (fun p => p.1.map (fun x => (p.2 * v.hdr.f + x.tick, x)))

/-- The operations of every pack cycle. -/
def packCycles (v : State) (fr : List (List TOp)) : List (List TOp) :=
  (List.range (v.hdr.m / v.hdr.p)).map (fun c => ((fr.drop (c * v.hdr.p)).take v.hdr.p).flatMap (fun l => l))

/-- The operations of every window of n frames that begins at a multiple of n. -/
def windowsOf (v : State) (n : Nat) (fr : List (List TOp)) : List (List TOp) :=
  if n = 0 then [] else (List.range (v.hdr.m / n)).map (fun c => ((fr.drop (c * n)).take n).flatMap (fun l => l))

/-- Distances from each number of a list to the next, the last to the first of the next Meridian. -/
def cyclicGaps (len : Nat) : List Nat → List Nat
  | [] => []
  | a :: l => (List.zipWith (fun y x => y - x) (l ++ [a + len]) (a :: l))

/-! ### The observer (R156) and the control cycle (R230). -/

/-- The observer operations of a pack cycle in their order, motion and wind slots apart. -/
def obsOrder (v : State) : List (Nat × Nat) :=
  let hd := slotsOf v 8 4
  let ps := slotsOf v 0 8
  [(8, 0), (9, 0)] ++ hd.map (fun n => (0xA, n)) ++ hd.map (fun n => (0xB, n)) ++ [(0xC, 0)] ++ ps.map (fun n => (0xA, n)) ++ ps.map (fun n => (0xB, n)) ++ [(0xD, 0)]
    ++ (hd ++ ps).map (fun n => (0xE, n)) ++ [(0xF, 0), (0x10, 0)]

def obsCycleOk (v : State) (l : List TOp) : Bool :=
  let o := (l.filter (fun x => x.eng == 3 && decide (8 ≤ x.opc ∧ x.opc ≤ 0x10))).map (fun x => (x.opc, x.opnd))
  let late (p : Nat × Nat) : Bool := p.1 == 0xA && decide (12 ≤ p.2)
  let before (opc : Nat) : List Nat := ((o.takeWhile (fun p => p.1 != opc)).filter late).map (fun p => p.2)
  o.filter (fun p => !late p) == obsOrder v && (o.filter late).length == (slotsOf v 12 3).length + (slotsOf v 15 2).length
    && (slotsOf v 12 3).all (fun n => (before 8).contains n) && (slotsOf v 15 2).all (fun n => (before 0x10).contains n)

/-- Every MANAGER Chart issues the observer's operations in every pack cycle, whatever slots it uses (R156). -/
def obsCycleFails (v : State) (pc : List (List TOp)) : List Verdict :=
  if v.boot.chartRole then pc.flatMap (fun l => tab v .vmdl 0 0 (obsCycleOk v l)) else []

/-- The mode operations of a pack cycle, the FLRs and the consequence operations apart. -/
def modeOrder : List (Nat × Nat) := [(0x30, 0), (0x31, 0), (0x31, 1), (0x32, 0), (0x32, 1), (0x33, 0), (0x34, 0), (0x36, 0), (0x39, 0)]

def modeCycleOk (v : State) (l : List TOp) : Bool :=
  let t := (roleTpl v 3).getD 16
  let key := l.filterMap (fun x =>
    if x.eng = 6 ∧ (x.opc = 0x35 ∨ x.opc = 0x37 ∨ x.opc = 0x38) then none
    else if x.eng = 6 ∧ 0x30 ≤ x.opc then some (x.opc, x.opnd)
    else none)
  let idx (p : TOp → Bool) : Option Nat := l.findIdx? p
  let lt (a b : Option Nat) : Bool := match a, b with
    | some i, some j => decide (i < j)
    | _, _ => false
  let tplOp (x : TOp) : Bool := (x.eng == 4 || x.eng == 5) && x.opc != 0 && x.opnd % 16 == t
  key == modeOrder && lt (idx (fun x => x.is 3 0xF)) (idx (fun x => x.is 6 0x30))
    && (roleTpl v 3 == none || (lt (idx (fun x => x.is 6 0x34)) (idx tplOp) && lt (idx (fun x => x.is 5 4 && x.opnd % 16 == t)) (idx (fun x => x.is 6 0x36))
      && l.all (fun x => !(tplOp x && decide ((idx (fun y => y.is 6 0x36)).getD 0 < (idx (fun y => y.tick == x.tick && y.bund == x.bund && y.lane == x.lane)).getD 0)))))

/-- FLR once in every frame, and ahead of PWR_SHARE there. -/
def flrOk (l : List TOp) : Bool :=
  let o := (l.filter (fun x => x.is 6 0x35 || x.is 6 0x34)).map (fun x => x.opc)
  o == [0x35] || o == [0x35, 0x34]

/-- Is a list a repetition of a pattern? -/
def repeats (pat : List Nat) (l : List Nat) : Bool := l == (List.replicate (l.length / pat.length) pat).flatMap (fun x => x)

/-- CA_PREP ahead of the first build segment of the group's template, CA_EVAL behind its FAR_END. -/
def caOrderOk (v : State) (all : List TOp) (g : Nat) : Bool :=
  let t := ca v g 0 1
  repeats [0, 1, 2, 3] (all.filterMap (fun x =>
    if x.is 6 0x37 && x.opnd % 8 == g then some 0 else if x.is 4 1 && x.opnd == t then some 1 else if x.is 5 4 && x.opnd % 16 == t then some 2
    else if x.is 6 0x38 && x.opnd % 8 == g then some 3 else none))

def modeCycleFails (v : State) (fr pc : List (List TOp)) : List Verdict :=
  if v.boot.chartRole && hasSect v .stmt 0 && hasThr v then
    pc.flatMap (fun l => tab v .stmt 0 0 (modeCycleOk v l)) ++ fr.flatMap (fun l => tab v .stmt 0 0 (flrOk l))
      ++ (List.range (min 8 (th v 3 1))).flatMap (fun g => tab v .stmt 0 0 (caOrderOk v (fr.flatMap (fun l => l)) g))
  else []

/-! ### Templates (R199, R224) and loop contexts (R269). -/

/-- The build segments from entry e to the end of the list, by fuel. -/
def buildHeads (v : State) (t : Nat) : Nat → Nat → List Nat
  | 0, _ => []
  | n + 1, e => if qpListCnt v t ≤ e then [] else e :: buildHeads v t n (e + (segment v t e).length)

def solveOk (v : State) (t : Nat) (l : List TOp) : Bool :=
  let o := (l.filter (fun x => (x.eng == 4 || x.eng == 5) && x.opc != 0 && x.opnd % 16 == t)).map (fun x => (10 * x.eng + x.opc, x.opnd / 16))
  let builds := o.takeWhile (fun p => p.1 == 41)
  let o := o.drop builds.length
  let facts := o.takeWhile (fun p => p.1 == 51)
  let o := o.drop facts.length
  let iters := (o.drop 1).takeWhile (fun p => p.1 == 53)
  let cols := facts.map (fun p => p.2 % 512 + 1)
  builds.map (fun p => p.2) == buildHeads v t (qpListCnt v t) 0 && cols.getLast? == some (qN v t) && (List.zipWith (fun a b => decide (a < b)) (0 :: cols) cols).all (fun b => b)
    && (o.head?.map (fun p => p.1)) == some 52 && !iters.isEmpty && ((iters.map (fun p => p.2 % 256)).foldl (· + ·) 0 == qd v t 6 2)
    && ((o.drop (1 + iters.length)).map (fun p => p.1)) == [54]

def solveSeqFails (v : State) (fr : List (List TOp)) : List Verdict :=
  if hasSect v .qpst 0 then
    (List.range (min 16 (tplCnt v))).flatMap (fun t => (windowsOf v (qd v t 0xC 4) fr).flatMap (fun l => tab v .qpst 0 (qp v 4 4 + 128 * t + 0xC) (solveOk v t l)))
  else []

def ctxStepFails (v : State) (fr : List (List TOp)) : List Verdict :=
  if hasSect v .lcek 0 then
    (List.range (min 256 (ctxCnt v))).flatMap (fun c =>
      let at_ := (fr.zipIdx).flatMap (fun p => (p.1.filter (fun x => x.is 6 1 && x.opnd % 256 == c)).map (fun x => (p.2, x.tick)))
      let want := (List.range v.hdr.m).filter (fun k => cxPer v c != 0 && k % cxPer v c == cxPhase v c)
      tab v .lcek 0 (lk v 4 4 + 256 * c + 4) (at_.map (fun p => p.1) == want && (at_.all (fun p => p.2 == (at_.headD (0, 0)).2))))
  else []

/-! ### NAV (R168, R187, R166). -/

/-- Is an LBUT entry one of the measurements, or the CCH's? -/
def lbuEng (v : State) (x : TOp) : Nat := if x.is 1 0 then lbutFld v (x.opnd % 1024) 0 2 / 1024 else 64

/-- The operations of an epoch after its EPOCH, in order: 0 the LAND of a record, then PVT_SOLVE, CCH_CLOCK, the LAND of the CCH,
PVT_OUT, HDG_SOLVE. -/
def epochKey (v : State) (x : TOp) : Option Nat :=
  if x.is 0xA 1 then some 9 else if lbuEng v x = 0xA then some 0 else if x.is 3 0x20 then some 1 else if x.is 0xB 1 then some 2 else if lbuEng v x = 0xB then some 3
  else if x.is 3 0x21 then some 4 else if x.is 3 0x22 then some 5 else none

/-- The keys with their ticks, rotated to begin at an EPOCH. -/
def epochSeq (v : State) (fr : List (List TOp)) : List (Nat × Nat) :=
  let l := (timed v fr).filterMap (fun p => (epochKey v p.2).map (fun k => (p.1, k)))
  let head := l.takeWhile (fun p => p.2 != 9)
  l.drop head.length ++ head.map (fun p => (p.1 + v.hdr.m * v.hdr.f, p.2))

/-- Check the keys after an EPOCH at tick t: records first, each visible, then the rest in order. -/
def epochOk (hdg : Bool) : Option Nat → Nat → List (Nat × Nat) → Bool
  | _, n, [] => n == (if hdg then 5 else 4)
  | none, _, (t, k) :: l => k == 9 && epochOk hdg (some t) 0 l
  | some e, n, (t, k) :: l =>
    if k = 9 then n == (if hdg then 5 else 4) && epochOk hdg (some t) 0 l
    else if k = 0 then n == 0 && decide (e + 25267 ≤ t) && epochOk hdg (some e) 0 l
    else k == n + 1 && epochOk hdg (some e) k l

def navOrderFails (v : State) (fr : List (List TOp)) : List Verdict :=
  if hasSect v .navc 0 then
    let ep := ((timed v fr).filter (fun p => p.2.is 0xA 1)).map (fun p => p.1)
    let hz := max 1 (nv v 0x41 1)
    tab v .navc 0 0x41 (!ep.isEmpty && (cyclicGaps (v.hdr.m * v.hdr.f) ep).all (fun g => g * hz == 400000000))
      ++ tab v .navc 0 0x41 (epochOk (bitOf (nv v 0x43 1) 0) none 0 (epochSeq v fr))
  else []

/-! ### Gating rules of the tables (R166, R314, R386, R519). -/

def gateRuleFails (v : State) (fr : List (List TOp)) : List Verdict :=
  let gates (d : Domain) : Bool := fr.any (fun l => l.any (gatesDom d))
  tab v .navc 0 0 (!(hasSect v .navc 0 && (List.range 4).any (portOn v) && gates .nav)) ++ tab v .fcec 0 0 (!((List.range 48).any (fun c => hasSect v .fcec 0 && fcEnabled v c) && gates .ana))
    ++ tab v .pwrt 0 (packBlk v) (!gates .ioe) ++ tab v .etht 2 0xC (!((List.range 4).any (fun p => hasSect v .etht p && ethFlag v p 1) && gates .sec))

/-! ### Loop outputs (R342). -/

def lpoOpFails (v : State) (fr : List (List TOp)) : List Verdict :=
  if loopOff v = 0 then []
  else
    ((List.range 16).filter (lpoOn v)).flatMap (fun n =>
      let ops (opc : Nat) (l : List TOp) : List TOp := l.filter (fun x => x.is 0x28 opc && x.opnd % 16 == n)
      let cnt (opc : Nat) : Nat := (fr.map (fun l => (ops opc l).length)).foldl (· + ·) 0
      loopChk v (loopFld v 4 4 + 32 * n) (decide (1 ≤ cnt 1 ∧ cnt 1 ≤ cnt 2)
        && fr.all (fun l => (ops 1 l).all (fun x => (ops 2 l).all (fun y => decide (y.tick < x.tick))))))

/-! ### The pack (R359, R386). -/

/-- The largest LEASH_NS of the links that can be active. -/
def leashNs (v : State) : Nat := ((List.range 3).map (fun k => if linkCan v k then packFld v (0x14 + 4 * k) 4 else 0)).foldl max 0

/-- ROLE_STEP exactly once per pack cycle, in frame 0, at or before F - 840; with DUPLEX, BARK_TX the same and R359 between them. -/
def roleStepOk (v : State) (cycle : List (List TOp)) : Bool :=
  let ops (opc : Nat) (l : List TOp) : List TOp := l.filter (fun x => x.is 0xF opc)
  let f0 := cycle.headD []
  let later := (cycle.drop 1).flatMap (fun l => l)
  let t := ((ops 2 f0).headD { bund := 0, lane := 0, tick := 0, eng := 0, opc := 0, opnd := 0, info := opB 1 0 }).tick
  (ops 2 f0).length == 1 && (ops 2 later).isEmpty && decide (t + 840 ≤ v.hdr.f)
    && (!isDuplex v || ((ops 1 f0).length == 1 && (ops 1 later).isEmpty && (ops 1 f0).all (fun b => decide (b.tick + 3727 + (2 * leashNs v + 4) / 5 ≤ t))))

def frameCycles (v : State) (fr : List (List TOp)) : List (List (List TOp)) := (List.range (v.hdr.m / v.hdr.p)).map (fun c => (fr.drop (c * v.hdr.p)).take v.hdr.p)

/-- The longest run of PUBs with no PSW_TX between them, along a list. -/
def pubRuns : Nat → List TOp → Nat
  | n, [] => n
  | n, x :: l => if x.is 2 1 then pubRuns (n + 1) l else if x.is 0xE 1 then max n (pubRuns 0 l) else pubRuns n l

/-- Is an equalisation item declared? -/
def eqDeclared (v : State) (item index : Nat) : Bool :=
  match item with
  | 1 | 2 | 5 => v.boot.chartRole
  | 3 => hasSect v .lcek 0 && decide (index < ctxCnt v)
  | 4 => hasSect v .qpst 0 && decide (index < tplCnt v)
  | _ => true

def packOpFails (v : State) (fr : List (List TOp)) : List Verdict :=
  let pc := packCycles v fr
  let n := pc.length
  let o := packBlk v
  let t (ok : Bool) : List Verdict := tab v .pwrt 0 o ok
  let all := fr.flatMap (fun l => l)
  let eq (l : List TOp) : List Nat := (l.filter (fun x => x.is 0xF 3)).map (fun x => eqKey (x.opnd % 16) (x.opnd / 16 % 256))
  let per := max 1 (packFld v 0xB 1)
  (frameCycles v fr).flatMap (fun c => t (roleStepOk v c)) ++ t (!isDuplex v || pc.all (fun l => l.any (fun x => x.is 0xE 1)))
    ++ t (all.all (fun x => !x.is 0xE 1) || decide (pubRuns 0 (all ++ all) ≤ 16)) ++ t (all.all (fun x => !x.is 0xF 3 || eqDeclared v (x.opnd % 16) (x.opnd / 16 % 256)))
    ++ (if isDuplex v then
      let need := eqItems v
      (List.range n).flatMap (fun c =>
        let seen := (List.range per).flatMap (fun j => eq (pc.getD ((c + j) % n) []))
        tab v .pwrt 0 (o + 0xB) (need.all (fun k => seen.contains k)))
    else [])

/-! ### Other tables: time, ports, events, mailboxes, groups, GPIO. -/

/-- The longest time in ticks between two LANDs of an LBU through the Meridian. -/
def landGap (v : State) (fr : List (List TOp)) (n : Nat) : Nat :=
  (cyclicGaps (v.hdr.m * v.hdr.f) (((timed v fr).filter (fun p => p.2.is 1 0 && p.2.opnd % 1024 == n)).map (fun p => p.1))).foldl max 0

/-- RAW sources: the LANDs lie close enough that no two chunks close between them (R451). -/
def rawFails (v : State) (fr : List (List TOp)) : List Verdict :=
  (List.range (lbuCnt v)).flatMap (fun k =>
    let src := lbutFld v k 0 2
    let g := src / 1024
    let d := src % 1024
    let loc := 16 + 16 * k
    if decide (0x18 ≤ g ∧ g < 0x24) && hasSect v .sert (g - 0x18) && se v (g - 0x18) 1 1 == 4 then
      tab v .lbut 0 loc (decide ((landGap v fr k + v.hdr.f) * 98 * se v (g - 0x18) 4 4 ≤ 100 * 400000000 * (se v (g - 0x18) 0x17 1 * charBits v (g - 0x18))))
    else if decide (0x24 ≤ g ∧ g < 0x28) && hasSect v .etht (g - 0x24) && rxFld v (ethTab v (g - 0x24)) (et v (g - 0x24) 0x14 4) d 0 1 == 3 then
      tab v .lbut 0 loc (decide (landGap v fr k + v.hdr.f ≤ 400 * rxFld v (ethTab v (g - 0x24)) (et v (g - 0x24) 0x14 4) d 0xA 2))
    else [])

/-- Every slot with a Chart code has an EVM_CHECK in the Meridian (R456). -/
def checkFails (v : State) (all : List TOp) : List Verdict :=
  (List.range 255).flatMap (fun n => tab v .evmt 0 (64 + 16 * n) (!chartCode v (evmtFld v n 0 2) || all.any (fun x => x.is 0x2C 1 && x.opnd % 256 == n)))

/-- MBX_SERVE slots per pack cycle, and what MBX_POST names (R481). -/
def mbxOpFails (v : State) (pc : List (List TOp)) (all : List TOp) : List Verdict :=
  (List.range 16).flatMap (fun n =>
    chk (mbMasters v n == 0 || pc.all (fun l => decide (mbxtFld v n 6 1 ≤ (l.filter (fun x => x.is 0x2E 1 && x.opnd % 16 == n)).length))) 0x17 (secIdx v .mbxt 0) (64 + 32 * n + 6))
    ++ all.flatMap (fun x =>
      if x.is 0x2E 2 then
        tab v .mbxt 0 (64 + 32 * (x.opnd % 16) + 2) (bitOf (mbMasters v (x.opnd % 16)) 3)
          ++ tab v .mbxt 0 (fld32 v .mbxt 0 0 + 64 * (x.opnd / 16 % 256)) (mbTakes v (x.opnd % 16) (tplGroup v (x.opnd / 16 % 256)))
      else [])

/-- GPIO_SET: its mask is a CONST UFX 0, its pins are BOOLs, and a bank has one of them (R553). -/
def gpioFails (v : State) (all : List TOp) : List Verdict :=
  let sets := all.filter (fun x => x.is 0x2B 1)
  sets.flatMap (fun x =>
    let i := x.opnd % 2 ^ 17
    chk (tyOk v i (.ufxE 0) && entConst (ent v i) && runAll (i + 1, 32) (fun j => tyOk v j .bool) && sets.all (fun y => bitOf y.opnd 17 != bitOf x.opnd 17 || y.opnd == x.opnd))
      0x18 (secIdx v .seqp 0) (fld32 v .seqp 0 8 + 20 * x.bund + 4 + 4 * x.lane))

def groupOpFails (v : State) (all : List TOp) : List Verdict :=
  let has (eng opc : Nat) : Bool := all.any (fun x => x.is eng opc)
  tab v .pwrt 0 0x14 (!has 0x2F 1 || (groupSig v 0x14).isSome) ++ tab v .pwrt 0 0x18 (!has 0x30 1 || (groupSig v 0x18).isSome)
    ++ all.flatMap (fun x => chk (!x.is 0xC 1 || hasSect v .ttut 0) 0x18 (secIdx v .seqp 0) (fld32 v .seqp 0 8 + 20 * x.bund + 4 + 4 * x.lane))

/-- Every check of the tables on the schedule. -/
def tableOpFails (v : State) (fr : List (List TOp)) : List Verdict :=
  let pc := packCycles v fr
  let all := fr.flatMap (fun l => l)
  obsCycleFails v pc ++ modeCycleFails v fr pc ++ solveSeqFails v fr ++ ctxStepFails v fr ++ navOrderFails v fr ++ gateRuleFails v fr ++ lpoOpFails v fr ++ packOpFails v fr
    ++ rawFails v fr ++ checkFails v all ++ mbxOpFails v pc all ++ gpioFails v all ++ groupOpFails v all

end Sys2Proof.Machine
end

