-- ==== Sys2Proof/Machine/Verify.lean ====
section
/-! DEFINITION. Sys2Proof/Machine/Verify.lean: the load-time verifier (R16, R17, R53, R54, R100; Table 1-12). -/

namespace Sys2Proof.Machine

/-- Types whose section version is judged by its own chapter, with 0x18 TABLE. -/
def otherTypes : List SectType := [.sdir, .crve, .cant, .sert, .etht, .lcek, .fcec, .qpst, .vmdl, .stmt, .evmt, .mbxt, .ttut, .navc, .pwrt, .keyw]

/-- The checks on the sections of a copy, one chapter after the other. -/
def bodyFails (v : State) : List Verdict :=
  seqpFails v ++ lbutFails v ++ sdirFails v ++ crveFails v ++ vmdlFails v ++ thrPartFails v ++ navcFails v ++ qpstFails v ++ stmtFails v ++ lcekFails v ++ fcecFails v
    ++ loopFails v ++ pwrtFails v ++ packFails v ++ ttutFails v ++ portFails v ++ evmtFails v ++ mbxtFails v ++ keywFails v ++ gpioLbuFails v

/-- Every check that fails. The container and the destinations come first: a copy that breaks them is not looked into. -/
def verifyFails (s : State) (m : Img) : List Verdict :=
  let hard := commitFails s m ++ storeFails m
  if hard.isEmpty then
    let v := viewOf m s
    let fr := meridFrames v
    headRsvFails m ++ timebaseFails m ++ otherTypes.flatMap (sverFail m v) ++ bodyFails v ++ scheduleFails v fr ++ tableOpFails v fr
  else hard

/-- The verdict on a copy: none when it is accepted. -/
def verdictOf (s : State) (m : Img) : Option Verdict := firstFail (verifyFails s m)

end Sys2Proof.Machine
end

