-- ==== Sys2Proof/Machine/Boot.lean ====
section
/-! DEFINITION. Sys2Proof/Machine/Boot.lean: the reset inputs, the flush, the wipe, loading, verification, the seal, the end of SYNC_TMO, the
contract-fault reset (R33, R34, R81, R91 to R111, R494, R539, R570). -/

namespace Sys2Proof.Machine

def modBoot (f : Boot → Boot) (s : State) : State := { s with boot := f s.boot }

/-- Let the ticks pass until a cycle, when it has not come yet. -/
def elapseTo (c : Nat) (s : State) : State := elapse (c - s.cclk) s

/-! ### Reset inputs (R91 to R95, R539, R570). -/

/-- Reset release, once no asserted input holds it off. -/
def tryRelease (s : State) : State :=
  if s.boot.dev = .reset ∧ s.boot.released = false ∧ s.pins.por = false ∧ s.pins.resetN ∧ s.pins.pfailN then
    modBoot (fun b => { b with released := true, releaseAt := s.cclk }) s
  else s

/-- POR_ASSERT: a monitored supply is below its threshold. -/
def execPorAssert (s : State) : Res := .next (enterReset .powerOn false false { s with pins := { s.pins with por := true } })

/-- POR_RELEASE. -/
def execPorRelease (s : State) : Res := .next (tryRelease { s with pins := { s.pins with por := false } })

/-- RESET_N_LOW: the line has been low for the filter time. -/
def execResetNLow (s : State) : Res := .next (enterReset .pin false false { s with pins := { s.pins with resetN := false } })

/-- RESET_N_RISE. -/
def execResetNRise (s : State) : Res := .next (tryRelease { s with pins := { s.pins with resetN := true } })

/-- PFAIL_N_LOW. -/
def execPfailNLow (s : State) : Res := .next (enterReset .pin false true { s with pins := { s.pins with pfailN := false } })

/-- PFAIL_RELEASE: PFAIL_N and RESET_N have both been high for 10 ms. -/
def execPfailRelease (s : State) : Res := .next (tryRelease { s with pins := { s.pins with pfailN := true, resetN := true } })

/-! ### The end of RESET (R4, R94, R344, R467, R470). -/

/-- RECORDER_FLUSH_END: staging is empty, or there is no log to write it to. -/
def execRecorderFlushEnd (s : State) : Res :=
  if s.boot.dev = .reset ∧ (s.recd.staging = [] ∨ s.recd.hasLog = false) then .next (modBoot (fun b => { b with flushDone := true }) s) else .next s

/-- Is it 2 ms after entry to RESET, with records still staged? -/
def flushLate (s : State) : Bool := s.boot.dev == .reset && !s.boot.flushDone && mayWrite s && decide (s.boot.phaseAt + 800000 ≤ s.cclk)

/-- FLUSH_CUTOFF: 2 ms after entry. -/
def execFlushCutoff (s : State) : Res :=
  if flushLate s then
    .next (modBoot (fun b => { b with flushDone := true }) { s with aon := { s.aon with flushTrunc := true } })
  else .next s

/-- LOG2 of LOG_RECS: the largest power of two, up to 2^21, that fits. -/
def logSize (recs : Nat) : Nat := min 21 (Nat.log2 recs)

/-- The log memory as its parameter table shows it (R467): a memory of fewer than 1,024 records is no log. -/
def logFound (log : Option LogMem) (r : Recorder) : Recorder :=
  match log with
  | some x => if 1024 ≤ x.recs then { r with hasLog := true, bus := if x.octal then 1 else 2, log2 := logSize x.recs } else { r with hasLog := false, bus := 0, log2 := 0 }
  | none => { r with hasLog := false, bus := 0, log2 := 0 }

/-- RESET_EXIT: the straps and the alarm jumpers are sampled, the log memory is found, the wipe begins; records that the flush could not write go with
it (R94, R95). -/
def execResetExit (roleSel : Bool) (unitSel : BitVec 2) (alj : BitVec 4) (log : Option LogMem) (s : State) : Res :=
  if s.boot.dev ≠ .reset ∨ s.boot.released = false ∨ s.boot.flushDone = false then .next s
  else
    let s := elapseTo (s.boot.releaseAt + 20000) s
    let s := { s with
      pins := { s.pins with roleSel := roleSel, unitSel := unitSel, alj := alj }
      loops := { s.loops with alj := alj }
      recd := { logFound log s.recd with staging := [], tickEvs := [], base := none } }
    let s := setDev .wipe s
    .next (modBoot (fun b => { b with strapRole := roleSel, phaseAt := s.cclk }) s)

/-! ### The wipe (R96, R97, R468, R470, R500). -/

/-- The queued events enter staging in raise order after the first wipe. -/
def drainQueue (s : State) : State :=
  let q := s.recd.preq
  let head := s.recd.head
  modRecd (fun r => { r with
    staging := q.zipIdx.map (fun x => { x.1 with seq := head + BitVec.ofNat 32 x.2 })
    head := head + BitVec.ofNat 32 q.length, numbered := r.numbered + q.length, preq := [] }) (closeTick s)

/-- The end of the first wipe for the recorder: staging is empty, the log has been scanned, the queue drains. -/
def wipeRecorder (s : State) : State :=
  let h := logScan s
  drainQueue (modBoot (fun b => { b with firstWipe := false }) (modRecd (fun r => { r with staging := [], head := w32 h.1, numbered := h.2 }) s))

/-- ZEROISER_COMPLETE: the run takes 442,368 ticks, or 440,320 without staging; fail is the store and line of a failed check. -/
def execZeroiserComplete (fail : Option (BitVec 4 × BitVec 28)) (s : State) : Res :=
  if s.boot.dev ≠ .wipe then .next s
  else
    let s := elapseTo (s.boot.phaseAt + (if s.boot.firstWipe then 442368 else 440320)) s
    let s := { s with sram := [], sdir := [], dirid := 0, lbus := [] }
    let s := newNonce (if s.boot.firstWipe then wipeRecorder s else s)
    let s := modBoot (fun b => { b with wipes := b.wipes + 1, wipeDone := true }) s
    match fail with
    | some f => .next (enterFault 2 (raise 0x0149 (f.1.setWidth 32) (f.2.setWidth 32) 0 (modBoot (fun b => { b with checkFail := true }) s)))
    | none => .next (setDev .load s)

/-! ### Loading (R33, R34, R81, R98, R99, R494). -/

def setVfail (copy : Bool) (w loc : Word) (s : State) : State :=
  if copy then { s with seq := { s.seq with vfailB := w, vlocB := loc } } else { s with seq := { s.seq with vfailA := w, vlocA := loc } }

/-- A copy is rejected: its code and location, COPY_REJECTED, ROLE_MISMATCH where its role differs (R5, R34). DESIGN CHOICE (log entry
130): ROLE_MISMATCH is set for every rejected copy whose ROLE field differs, also where an earlier check of Table 1-12 names the code;
and the third parameter of COPY_REJECTED, which the spec does not name, is 0. -/
def rejectCopy (copy : Bool) (v : Verdict) (s : State) : State :=
  let role := iRole (flashImg s copy) != s.boot.strapRole
  let s := setVfail copy (w32 (65536 * (v.sect % 65536) + v.code)) (w32 v.loc) s
  raise 0x0123 (w32 (b2n copy)) (w32 v.code) 0 (if role then modBoot (fun b => { b with roleMism := true }) s else s)

/-- A copy whose header shows that it is no candidate counts as rejected with MAGIC. -/
def noCandidate (copy : Bool) (s : State) : State :=
  if isCandidate (flashImg s copy) then s
  else raise 0x0123 (w32 (b2n copy)) 1 0 (setVfail copy 0xFFFF0001#32 0 s)

/-- Which candidate is verified first (R33). -/
def firstCopy (s : State) : Bool :=
  if s.boot.candA && s.boot.candB then decide (iSeq (flashImg s false) < iSeq (flashImg s true)) else s.boot.candB

/-- CHART_HEADERS_READ: the parameter table and both headers, in at most 40,000 ticks. In BLANK and SCRAPPED no header is read. -/
def execChartHeadersRead (octal : Bool) (ticks : Nat) (s : State) : Res :=
  if s.boot.dev ≠ .load ∨ s.boot.loading then .next s
  else
    let s := elapse (min ticks 40000) s
    if lcState s = 0 then .next (enterFault 0x11 s)
    else if lcState s = 4 then .next (enterFault 0x12 s)
    else
      let s := noCandidate true (noCandidate false s)
      let s := modBoot (fun b => { b with octalC := octal, candA := isCandidate (flashImg s false), candB := isCandidate (flashImg s true) }) s
      if s.boot.candA = false ∧ s.boot.candB = false then .next (enterFault 1 s)
      else .next (modBoot (fun b => { b with loading := true }) { s with seq := { s.seq with copy := firstCopy s } })

/-- An entry from its 16 bytes (Table 2-1). -/
def entryOf (b : List Byte) : SdirEntry :=
  let n (o k : Nat) : Nat := leNat ((b.drop o).take k)
  { value := w32 (n 0 4), wtime := w32 (n 4 4), fmt := BitVec.ofNat 16 (n 8 2), origin := BitVec.ofNat 16 (n 10 2), state := BitVec.ofNat 16 (n 12 2), pathChk := BitVec.ofNat 16 (n 14 2) }

/-- The entries of a body from index i upward. -/
def loadEntries (b : List Byte) : Nat → Nat → Tab SdirEntry → Tab SdirEntry
  | 0, _, t => t
  | n + 1, i, t => loadEntries b n (i + 1) (tset {} t i (entryOf ((b.drop (16 * i)).take 16)))

/-- Write a section's plaintext to its destination; one outside its store is not written. -/
def loadSection (x : ISect) (b : List Byte) (s : State) : State :=
  if destOk x = false then s
  else if x.type = some .sdir then { s with sdir := loadEntries b (b.length / 16) 0 s.sdir }
  else { s with sram := memPut 0 s.sram x.dest b }

/-- SDIR_DIRID (R81): bytes 0x8 to 0xB and 0xE to 0xF of every entry in index order, ORIGIN bit 7 taken as 0. -/
def diridOf (s : State) : Word :=
  w32 (crc32 ((List.range 131072).flatMap (fun i =>
    let e := ent s i
    leBytes 2 e.fmt.toNat ++ leBytes 2 (e.origin &&& 0xFF7F#16).toNat ++ leBytes 2 e.pathChk.toNat)))

/-- Stream a copy: none of one that its header already rejects. DEDUCED (log entry 142): of two sections whose destinations overlap, the one later in the
table breaches R30 and is not written (R99). -/
def streamCopy (m : Img) (s : State) : State :=
  if (hdrFails s m).isEmpty = false then s
  else
    let s := match plainBodies s m with
      | some l => l.foldl (fun s (p : ISect × List Byte) => if destFree (l.map Prod.fst) p.1 then loadSection p.1 p.2 s else s) s
      | none => s
    { s with dirid := diridOf s }

/-- The ticks a copy takes to stream: 4,224 for each burst of 4,096 bytes in 8D-8D-8D; the spec states none for 1S-1S-1S. -/
def streamTicks (s : State) (m : Img) (ticks : Nat) : Nat :=
  if (hdrFails s m).isEmpty = false then 0
  else if s.boot.octalC then 4224 * ((min (inum m 0xC 4) 0x02000000 + 4095) / 4096) else ticks

/-- CHART_COPY_STREAMED: the copy in hand is in its stores. -/
def execChartCopyStreamed (ticks : Nat) (s : State) : Res :=
  if s.boot.dev ≠ .load ∨ s.boot.loading = false then .next s
  else
    let copy := s.seq.copy
    let m := flashImg s copy
    let s := streamCopy m (elapse (streamTicks s m ticks) s)
    .next (setDev .verify (modBoot (fun b => { b with triedA := b.triedA || !copy, triedB := b.triedB || copy }) s))

/-! ### Verification and the seal (R100 to R102, R111). -/

/-- VERIFY_COMPLETE: in at most 8,000,000 ticks the copy is accepted, or rejected and the other one loaded after a re-wipe. -/
def execVerifyComplete (ticks : Nat) (s : State) : Res :=
  if s.boot.dev ≠ .verify ∨ s.boot.sealing then .next s
  else
    let copy := s.seq.copy
    let m := flashImg s copy
    let s := elapse (min ticks 8000000) s
    match verdictOf s m with
    | none =>
      let s := setVfail copy 0xFFFF00FF#32 0 s
      let s := { s with seq := { s.seq with copyAOk := s.seq.copyAOk || !copy, copyBOk := s.seq.copyBOk || copy } }
      .next (modBoot (fun b => { b with sealing := true, roleValid := true, chartRole := iRole m, phaseAt := s.cclk }) s)
    | some v =>
      let s := rejectCopy copy v s
      let other := if copy then s.boot.candA && !s.boot.triedA else s.boot.candB && !s.boot.triedB
      if other then
        let s := setDev .wipe { s with seq := { s.seq with copy := !copy } }
        .next (modBoot (fun b => { b with wipeDone := false, phaseAt := s.cclk }) s)
      else .next (enterFault 1 s)

/-- The maintenance key that KEYW delivers (R497). -/
def mepKeyOf (s : State) : Option (BitVec 256) :=
  match (List.range (fld16 s .keyw 0 0)).find? (fun i => fld8 s .keyw 0 (16 + 48 * i) == 1), wrapKey s with
  | some i, some k => Config.kwUnwrap k (fldBytes s .keyw 0 (16 + 48 * i + 8) 40)
  | _, _ => none

/-- DEV_RSTCAUSE. -/
def rstCause (s : State) : Word := (devReg s 0x10).getD 0

/-- The three records of the seal, ahead of every other of its tick (R111). DEDUCED, log 106: the head that REC_LOG_STATE gives is the one at
their common raise tick, before any of the three is staged. -/
def sealRecords (s : State) : State :=
  let head := s.recd.head
  let s := raiseAt (0, 0) 0x0145 (rstCause s) s.hdr.chartSeq (w32 (256 * (s.seq.vfailA.toNat % 256) + s.seq.vfailB.toNat % 256)) s
  let s := raiseAt (0, 1) 0x0E01 (w32 s.recd.log2) head (w32 s.recd.bus.toNat) s
  raiseAt (0, 2) 0x0140 (w32 s.hdr.chartId.toNat) (w32 (s.hdr.chartId.toNat / 2 ^ 32)) (w32 (256 * s.boot.bootTime.toNat + b2n s.seq.copy)) s

/-- SEAL_COMPLETE: 20,000 ticks after acceptance (R102). -/
def execSealComplete (s : State) : Res :=
  if s.boot.dev ≠ .verify ∨ s.boot.sealing = false then .next s
  else
    let s := viewOf (flashImg s s.seq.copy) (elapseTo (s.boot.phaseAt + 20000) s)
    let s := { s with
      draws := s.draws + 1
      host := { s.host with bootNonce := Config.freeWord s.draws }
      sec := { s.sec with mepKey := mepKeyOf s, bscan := .bypass }
      pwr := { s.pwr with doze := issuesOp s 0 3 } }
    let s := modBoot (fun b => { b with sealed := true, sealing := false, loading := false, sealAt := s.cclk, phaseAt := s.cclk, bootTime := w32 ((s.cclk - b.releaseAt) * 5 / 2000) }) s
    .next (setDev .sync (judgeUnit (serSeal (canSeal (sealRecords s)))))

/-- SYNC_TMO: no valid time yet (R24, R104). The event's parameters are not stated. -/
def execSyncTmo (s : State) : Res :=
  if s.boot.dev = .sync ∧ s.boot.syncTmo = false ∧ s.ptc.status = 0 then
    .next (raiseOpen 0x0120 (setReason 1 s.seq.k (modBoot (fun b => { b with syncTmo := true }) s)))
  else .next s

/-! ### The contract-fault reset (R108, R109). -/

/-- CONTRACT_RESET: 400,000,000 ticks after the breach; a repeated breach within 60 s of the seal ends in FAULT. -/
def execContractReset (s : State) : Res :=
  if s.boot.dev ≠ .safeHold ∨ s.cck.breach = false then .next s
  else
    let s := elapseTo (s.cck.breachAt + 400000000) s
    if s.aon.kind = 4 ∧ s.cck.breachAt - s.boot.sealAt < 24000000000 then .next (outRefresh (enterFault 3 s))
    else .next (enterReset .contract false false s)

end Sys2Proof.Machine
end

