-- ==== Sys2Proof/Machine/Frame.lean ====
section
/-! DEFINITION. Sys2Proof/Machine/Frame.lean: the schedule start and the frame boundary: requests, forces, halts, role changes and
SAFE-HOLD reasons latched earlier take effect (R22, R24, R51, R52, R74, R106, R515, R518). -/

namespace Sys2Proof.Machine

/-! ### Domains (R518). -/

/-- Gating ends at the boundary: a domain whose wake has begun is usable, one still gated is taken as woken. A faulted one stays
(R520). -/
def gatingEnds (s : State) : State :=
  let s := startWake sleepMask s
  let s := [Domain.qps, .nav, .ana, .sec].foldl (fun s d => wakeDone d s) s
  modPwr (fun p => { p with gatePend := 0, gateLater := 0 }) s

/-! ### After a breach (R56). -/

/-- A table region gets back what stood in it: of the navigation unit the solution that it keeps. -/
def putPiece (s : State) : Piece → State
  | .obs o => { s with obs := o }
  | .nav n => { s with nav := { s.nav with
      isFix := n.isFix, onlyDg := n.onlyDg, onlySbas := n.onlySbas, pos := n.pos, sigma := n.sigma, fix := n.fix, tstat := n.tstat
      marks := n.marks, hdgFixed := n.hdgFixed, hdgInts := n.hdgInts, hdgPsi := n.hdgPsi } }
  | .tpl t q => { s with qps := { s.qps with tpls := tset {} s.qps.tpls t q } }
  | .modes m => { s with modes := m }
  | .bytes a l => { s with sram := memPut 0 s.sram a l }
  | .asm l => { s with pack := { s.pack with psw := { s.pack.psw with asm := l } } }

/-- The outputs of the operations that were in flight at a breach are discarded: the table regions that they wrote, and what they put into the FIFOs
out of CCLK. The signals are dealt with at the breach itself. -/
def dropHanded (s : State) : State :=
  if s.cck.breach = false then s
  else
    let s := (s.flight.reverse.filter (fun w => decide (s.cck.breachAt ≤ w.till))).foldl (fun s w => putPiece s w.piece) s
    { s with
      flight := []
      ttu := { s.ttu with ent := s.ttu.ent.map (fun p => (p.1, { p.2 with fifo := keptOnly s p.2.fifo })) }
      fce := { s.fce with selFifo := keptOnly s s.fce.selFifo, zeroFifo := keptOnly s s.fce.zeroFifo }
      loops := { s.loops with lpo := s.loops.lpo.map (fun p => (p.1, { p.2 with fifo := keptOnly s p.2.fifo })) }
      ports := { s.ports with
        can := s.ports.can.map (fun p => (p.1, { p.2 with fifo := keptOnly s p.2.fifo }))
        ser := s.ports.ser.map (fun p => (p.1, { p.2 with fifo := keptOnly s p.2.fifo })) } }

/-! ### Functions disabled and enabled (R51, R52). -/

/-- Does landing buffer n belong to a function? Its source names the engine and the entry (Table 1-10); a HART transaction belongs to
the loop of its port (R340). -/
def lbuOfFunc (s : State) (eng inst n : Nat) : Bool :=
  let e := lbutFld s n 0 2 / 1024
  let i := lbutFld s n 0 2 % 1024
  if eng = 7 then e == 7 && (inst == 0 || i == inst)
  else if eng = 8 then decide (8 ≤ e ∧ e ≤ 0x0B)
  else if eng = 0x0D then e == 0x0D && i == inst
  else if eng = 0x28 then e == 0x29 && txPort s i == inst
  else if eng = 0x29 then e == 0x29 && txPort s i == 16 + inst
  else e == eng

/-- The landing buffers of a function. -/
def funcLbus (s : State) (eng inst : Nat) : List Nat := (List.range (lbuCnt s)).filter (lbuOfFunc s eng inst)

/-- A function's landing buffer is marked DISCARD, its targets turn STALE. -/
def discardLbu (s : State) (n : Nat) : State :=
  markStale (lbutFld s n 4 4 % 2 ^ 17) (lbutFld s n 2 1) (setLbu n { lbuOf s n with discard := true } s)

/-- What was completed before the boundary of an enable is never landed (R52, R568). -/
def freshLbu (s : State) (n : Nat) : State := setLbu n { lbuOf s n with discard := false, cur := none, pend := none } s

/-- A disable of a function at the present boundary. -/
def funcDisable (eng inst : Nat) (s : State) : State :=
  if s.disabled.contains (eng, inst) then s
  else
    let s := (funcLbus s eng inst).foldl discardLbu { s with disabled := (eng, inst) :: s.disabled }
    let w (n : Nat) : Word := Config.layoutWord 15 [n, eng, inst, s.seq.k % s.hdr.m]
    let s := raise 0x0124 (w 0) (w 1) (w 2) s
    if eng = 6 then lceDisable inst s
    else if eng = 8 then abortGroups (fun g => g == 5) (navDisable s)
    else if 0x10 ≤ eng ∧ eng ≤ 0x17 then canDisable (eng - 0x10) s
    else if 0x18 ≤ eng ∧ eng ≤ 0x23 then serDisable (eng - 0x18) s
    else if eng = 0x26 ∨ eng = 0x27 then ethDisable (eng - 0x24) s
    else if eng = 0x28 then lpoDisable inst (hartDisable inst s)
    else if eng = 0x29 then hartDisable (16 + inst) s
    else s

/-- What an enabled function does at its boundary. -/
def funcRestart (eng inst : Nat) (s : State) : State :=
  if eng = 6 then lceEnable inst s
  else if eng = 7 then fceEnable inst s
  else if eng = 0x0D then ttuEnable inst s
  else if 0x10 ≤ eng ∧ eng ≤ 0x17 then canEnable (eng - 0x10) s
  else if 0x18 ≤ eng ∧ eng ≤ 0x23 then serEnable (eng - 0x18) s
  else if eng = 0x28 then hartEnable inst (lpoEnable inst s)
  else if eng = 0x29 then hartEnable (16 + inst) s
  else s

/-- An enable of a function at the present boundary. -/
def funcEnable (eng inst : Nat) (s : State) : State :=
  if s.disabled.contains (eng, inst) = false then s
  else
    let s := { s with disabled := s.disabled.filter (fun p => p != (eng, inst)) }
    funcRestart eng inst ((funcLbus s eng inst).foldl freshLbu s)

/-- The requests of this boundary, in the order they were latched. -/
def funcBoundary (s : State) : State :=
  let now := s.funcReqs.filter (fun r => decide (r.due ≤ s.seq.k))
  let s := { s with funcReqs := s.funcReqs.filter (fun r => !decide (r.due ≤ s.seq.k)) }
  now.foldl (fun s r => if r.enable then funcEnable r.eng r.inst s else funcDisable r.eng r.inst s) s

/-! ### Forces (R74). -/

/-- The word and the quality that a force gives a signal of a type (R68, R74): a BOOL takes 1 for any nonzero word; a word that R68 refuses, an ENUM above
ENUM_MAX or a TIME64 above 999,999,999 ns, is 0 with quality NAN. -/
def forcedWord (e : SdirEntry) (w : Word) : Word × Qual :=
  match entType e with
  | 4 => (if w = 0 then 0 else 1, qForced)
  | 5 => if entMax e < w.toNat then (0, qNan) else (w, qForced)
  | 6 => if 999999999 < w.toNat then (0, qNan) else (w, qForced)
  | _ => (w, qForced)

/-- A force takes effect: it is itself a write, at the time of this boundary, and checked as one (R68, R74). DEDUCED (log entry 135): a word that R68
refuses leaves the signal held with 0 and quality NAN, and of a TIME64 pair the other word too is 0 with quality NAN. -/
def forceSig (i : Nat) (w : Word) (s : State) : State :=
  let e := ent s i
  let t := wtimeOf (nowNs s)
  let f := forcedWord e w
  let s := if f.2 = qNan ∧ entType e = 6 then writeSig (i + 1) 0 qNan t s else s
  let s := if f.2 = qNan ∧ entType e = 5 then raise 0x0134 (w32 i) w 0 s else s
  raise 0x0131 (w32 i) w 0 (setEnt i { e with value := f.1, wtime := t, state := entState f.2 (entConst e) true (entWcnt e + 1) } s)

/-- A release: the signal keeps the forced value with QUAL STALE until its next write. -/
def releaseSig (i : Nat) (s : State) : State :=
  let e := ent s i
  if entHeld e then
    raise 0x0132 (w32 i) e.value 0 (setEnt i { e with state := entState qStale (entConst e) false (entWcnt e) } s)
  else s

def forceBoundary (s : State) : State :=
  let now := s.forces.filter (fun f => decide (f.due ≤ s.seq.k))
  let s := { s with forces := s.forces.filter (fun f => !decide (f.due ≤ s.seq.k)) }
  now.foldl (fun s f => match f.val with
    | some w => forceSig f.sig w s
    | none => releaseSig f.sig s) s

/-! ### The debug halt (R515). -/

/-- The halt begins. -/
def haltStart (s : State) : State :=
  if s.sec.halted then s
  else
    let s := modSec (fun c => { c with halted := true, haltFrom := s.seq.k }) s
    commandReason (raise 0x0F05 (w32 (s.seq.k % s.hdr.m)) (w32 (s.seq.k / s.hdr.m)) 0 s)

/-- The halt ends: every function that is not disabled restarts as at an enable (R52). -/
def haltEnd (s : State) : State :=
  if s.sec.halted = false then s
  else
    let n := s.seq.k - s.sec.haltFrom
    let s := raise 0x0F06 (w32 (s.seq.k % s.hdr.m)) (w32 n) 0 (modSec (fun c => { c with halted := false }) s)
    let s := commandReason s
    let s := (List.range (lbuCnt s)).foldl (fun s i => setLbu i { lbuOf s i with cur := none, pend := none } s) s
    let s := fceEnable 0 (lceEnable 0 s)
    let s := (List.range 64).foldl (fun s i => if isDisabled s 0x0D i then s else ttuEnable i s) s
    let s := (List.range 8).foldl (fun s c => if isDisabled s (0x10 + c) 0 then s else canEnable c s) s
    let s := (List.range 12).foldl (fun s p => if isDisabled s (0x18 + p) 0 then s else serEnable p s) s
    let s := (List.range 16).foldl (fun s i => if isDisabled s 0x28 i then s else hartEnable i (lpoEnable i s)) s
    (List.range 24).foldl (fun s i => if isDisabled s 0x29 i then s else hartEnable (16 + i) s) s

def haltBoundary (s : State) : State :=
  let now := s.sec.haltQueue.filter (fun q => decide (q.2 ≤ s.seq.k))
  let s := modSec (fun c => { c with haltQueue := c.haltQueue.filter (fun q => !decide (q.2 ≤ s.seq.k)) }) s
  now.foldl (fun s q => if q.1 then haltStart s else haltEnd s) s

/-! ### SAFE-HOLD (R90, R106, R107). -/

/-- A reason that acts from this boundary. -/
def reasonNow (s : State) : Bool := s.boot.reasonDue.any (fun p => decide (p.2 ≤ s.seq.k) && bitOf s.boot.reasons.toNat p.1)

/-- SAFE-HOLD ends with its last reason (R90, R107). -/
def leaveSafeHold (s : State) : State :=
  let s := raise 0x0143 (Config.layoutWord 18 [s.boot.lastClr]) (w32 (s.seq.k % s.hdr.m)) 0 (enterStandby s)
  lceLeaveSafeHold s

/-- The changes of state at a boundary: SAFE-HOLD before the role changes of Table 11-12. -/
def stateBoundary (s : State) : State :=
  if (s.boot.dev = .standby ∨ s.boot.dev = .active ∨ s.boot.dev = .voting) ∧ reasonNow s = true then outRefresh (enterSafeHold s)
  else if s.boot.dev = .safeHold ∧ s.boot.reasons = 0 then outRefresh (leaveSafeHold s)
  else roleBoundary s

/-! ### The boundary. -/

/-- What takes effect at the start of the frame in hand. -/
def frameHooks (s : State) : State :=
  let s := holdBoundary (haltBoundary (forceBoundary (funcBoundary (dropHanded s))))
  let s := sleepBoundary (eqGain (eqLose (stateBoundary (barkReasons s))))
  if s.seq.run then gpioFrame (aljBoundary (lceBoundary (navBoundary (qpsBoundary (canBoundary s))))) else outRefresh s

/-- FRAME_BOUNDARY: frame K + 1 begins with the list of its class. alj is what the alarm jumpers show. -/
def execFrameBoundary (alj : BitVec 4) (s : State) : Res :=
  if s.seq.run = false then .next s
  else
    let s := toTick s.seq.frameLen s
    let s := { s with
      seq := { s.seq with k := s.seq.k + 1, tick := 0, frameLen := s.hdr.f }
      pins := { s.pins with alj := alj } }
    .next (frameHooks (gatingEnds (beginList s.seq.nextList s.seq.nextTag s)))

/-! ### The schedule start (R24, R104, R522). -/

/-- Length of a Meridian in half nanoseconds (R22). -/
def meridHalf (s : State) : Nat := 5 * (s.hdr.m * s.hdr.f)

/-- The first Meridian boundary after the present PTP time, as a Meridian number. -/
def nextMerid (s : State) : Nat :=
  if 2 * ptcNs s < 2000000000 * s.hdr.t0 then 0
  else (2 * ptcNs s - 2000000000 * s.hdr.t0) / meridHalf s + 1

/-- The CCLK cycles until that boundary. -/
def cyclesToMerid (s : State) : Nat := (2000000000 * s.hdr.t0 + nextMerid s * meridHalf s - 2 * ptcNs s + 4) / 5

/-- The pack cycles without a Bark that sets a reason (R105, R346) count from the schedule start. -/
def freshBarks (s : State) : State :=
  [0, 1, 2].foldl (fun s k => modLink k (fun l => { l with mism := l.mism.map (fun _ => pcyc s), unexp := l.unexp.map (fun _ => pcyc s) }) s) s

/-- SCHEDULE_START: the schedule starts at the first Meridian boundary after time is valid in SYNC, the device enters STANDBY, and the
SYNC and BOOT reasons clear (Table 3-6). -/
def execScheduleStart (s : State) : Res :=
  if s.boot.dev ≠ .sync ∨ s.ptc.status = 0 ∨ s.seq.run = true then .next s
  else
    let k := s.hdr.m * nextMerid s
    let s := elapse (cyclesToMerid s) s
    let s := { s with seq := { s.seq with run := true, k := k, tick := 0, frameLen := s.hdr.f, align := 1, phases := [], err := 0, fb := 0 } }
    let s := freshBarks (fetchClass s 0)
    let s := beginList s.seq.nextList s.seq.nextTag s
    let s := enterStandby (clearReason 5 (clearReason 1 s))
    .next (frameHooks (ttuAutoArm (lceStart s)))

end Sys2Proof.Machine
end

