-- ==== Sys2Proof/Machine/Map.lean ====
section
/-! DEFINITION. Sys2Proof/Machine/Map.lean: reads and writes of the maintenance space by HSP, MEP and DBG_ACC: what each device state lets
a master reach, the registers writable after the seal, the reads with side effects (R421, R458, R471 to R475, R506, R513, R559 to R566). -/

namespace Sys2Proof.Machine

/-! ### Reads (Table 17-1, R565). -/

/-- The states after the seal in which the schedule may run: every decoded register is readable, MEP is enabled. -/
def served (s : State) : Bool :=
  match s.boot.dev with
  | .sync | .standby | .active | .voting | .safeHold => true
  | _ => false

/-- Is a decoded register readable in the present device state (Table 17-1)? -/
def readable (s : State) (a : Nat) : Bool :=
  let dev := decide (a < 0x1000)
  let mbx := decide (0x20000 ≤ a ∧ a < 0x21000)
  match s.boot.dev with
  | .reset => false
  | .wipe | .load | .verify => dev || a == 0x40000 || decide (0x40014 ≤ a ∧ a ≤ 0x40020)
  | .fault => dev || decide (0x1000 ≤ a ∧ a < 0x2000) || decide (0x40000 ≤ a ∧ a < 0x40200) || decide (0x18000 ≤ a ∧ a < 0x20000) || (mbx && decide (a < 0x20200))
  | .sleep => dev || decide (0x2000 ≤ a ∧ a < 0x3000) || (mbx && (a % 256 == 0x40 || a % 256 == 0x44))
  | _ => true

/-- A read of MBX_LOCKn acts on the lock where the register is readable, and in SLEEP for master 1 (R474, R562). -/
def lockSide (m : Master) (a : Nat) (s : State) : State :=
  if 0x20000 ≤ a ∧ a < 0x21000 ∧ a % 256 = 0x48 then (lockRead ((a - 0x20000) / 256) (masterNo m) s).2 else s

/-- PTC_NS latches the seconds and the fraction into the reader's bank (R421). -/
def latchTime (m : Master) (s : State) : State :=
  let secs := ptcNs s / 1000000000
  let frac := BitVec.ofNat 16 (s.ptc.counter % ptcUnit / 65536)
  match m with
  | .hsp => { s with ptc := { s.ptc with hspSecs := secs, hspFrac := frac } }
  | .mep => { s with ptc := { s.ptc with mepSecs := secs, mepFrac := frac } }

/-- The side effects of a read that a master makes of a readable register. -/
def readSide (m : Master) (a : Nat) (s : State) : State :=
  if a = 0x1805C then startLoad m ((bankOf s m).cursor + 1) s
  else if a = 0x30004 then latchTime m s
  else lockSide m a s

/-- A read of one word by a master. -/
def readAt (m : Master) (a : Nat) (s : State) : Word × State :=
  match regWord s m a with
  | none => (0, s)
  | some w =>
    if m = .mep ∧ served s = false then (0, s)
    else if readable s a then (w, readSide m a s)
    else (0, if s.boot.dev = .sleep then lockSide m a s else s)

/-- Words read from an address upward. -/
def readWords (m : Master) (a : Nat) : Nat → State → List Word × State
  | 0, s => ([], s)
  | n + 1, s =>
    let r := readAt m (a % 2 ^ 32) s
    let t := readWords m (a + 4) n r.2
    (r.1 :: t.1, t.2)

/-! ### Writes (Tables 17-1 and 17-2). -/

/-- A write to a mailbox's payload or control word. -/
def mbxWrite (m : Master) (o : Nat) (w : Word) (s : State) : Option State :=
  if o % 256 < 0x40 then payWrite (o / 256) (o % 256 / 4) (masterNo m) w s
  else if o % 256 = 0x40 then ctlWrite (o / 256) (masterNo m) w s
  else none

/-- May a master write a WA register (R506)? -/
def waOk (m : Master) (s : State) : Bool := m == .mep || s.sec.hostauth

/-- The state after a write of one word, where Table 17-1 and Table 17-2 permit it; none where it is refused. -/
def applyWord (m : Master) (a : Nat) (w : Word) (s : State) : Option State :=
  let mbx := decide (0x20000 ≤ a ∧ a < 0x21000)
  if a % 4 ≠ 0 then none
  else match s.boot.dev with
    | .fault =>
      if m = .mep then none
      else if mbx && decide (a < 0x20200) then mbxWrite m (a - 0x20000) w s
      else if a = 0x18020 then some (startLoad m w s)
      else none
    | .sleep => if m = .hsp ∧ mbx then mbxWrite m (a - 0x20000) w s else none
    | .sync | .standby | .active | .voting | .safeHold =>
      if mbx then mbxWrite m (a - 0x20000) w s
      else if 0x10100 ≤ a ∧ a < 0x10120 then some (clearSticky ((a - 0x10100) / 4) w s)
      else if a = 0x18020 then some (startLoad m w s)
      else if a = 0x101C then (if waOk m s then some (authCtl w s) else none)
      else if a = 0x2014 then (if waOk m s && railCmdOk s w then some (railCmd (masterNo m) w s) else none)
      else none
    | _ => none

/-- An address of the SDIR read window (R84). -/
def sdirWindow (a : Nat) : Bool := decide (0x100000 ≤ a ∧ a < 0x300000 ∧ a % 4 = 0)

/-- A saturating 8-bit count. -/
def satByteInc (b : Byte) : Byte := if b = 0xFF#8 then b else b + 1

/-- A refused write of master 1 is counted, and recorded as HSP_ERROR, or as SDIR_WINDOW_WRITE for the read window (R84, R484). -/
def refuseHsp (a : Nat) (s : State) : State :=
  let s := { s with host := { s.host with errProtect := satByteInc s.host.errProtect } }
  if sdirWindow a then raise 0x0133 (w32 a) 1 0 s else raise 0x0E08 1 (w32 a) 0 s

/-- A refused write of master 2 is counted in MEP_ERR; in which of its two fields the spec does not say: a free choice. -/
def refuseMep (a : Nat) (s : State) : State :=
  let auth := (Config.freeWord s.draws).getLsbD 0
  let s := { s with
    draws := s.draws + 1
    host := if auth then { s.host with mepAuth := satHalfInc s.host.mepAuth } else { s.host with mepReplay := satHalfInc s.host.mepReplay } }
  if sdirWindow a then raise 0x0133 (w32 a) 2 0 s else s

/-- One word written over HSP: whether it was applied, and the state after it. -/
def hspWord (a : Nat) (w : Word) (s : State) : Bool × State :=
  match applyWord .hsp a w s with
  | some t => (true, t)
  | none => (false, refuseHsp a s)

/-- One word written over MEP: 0 applied, 1 refused, 2 undecoded, and the state after it. -/
def mepWord (a : Nat) (w : Word) (s : State) : Nat × State :=
  match applyWord .mep a w s with
  | some t => (0, t)
  | none => if (regWord s .mep a).isSome then (1, refuseMep a s) else (2, s)

/-- Words written over HSP in address order: whether one was applied, whether one was refused (R564). -/
def hspWords (a : Nat) : List Word → State → (Bool × Bool) × State
  | [], s => ((false, false), s)
  | w :: l, s =>
    let r := hspWord (a % 2 ^ 32) w s
    let t := hspWords (a + 4) l r.2
    ((r.1 || t.1.1, !r.1 || t.1.2), t.2)

/-- A WRITE transaction whose CRC has checked, with the STATUS bits it leaves (Table 14-6). -/
def hspWriteWords (a : Nat) (l : List Word) (s : State) : State :=
  let r := hspWords a l s
  { r.2 with host := { r.2.host with applied := r.1.1, crcFailed := false, wrRefused := r.1.2 } }

/-- A write of one word by a master, as the rows that name a register make it. -/
def writeBy (m : Master) (a : Nat) (w : Word) (s : State) : State :=
  match m with
  | .hsp => hspWriteWords a [w] s
  | .mep => if served s then (mepWord a w s).2 else s

/-- A read of one word by a master, as the rows that name a register make it. -/
def readBy (m : Master) (a : Nat) (s : State) : State :=
  let r := readAt m a s
  { r.2 with host := { r.2.host with reply := [r.1] } }

/-! ### Rows that name a register. -/

def execEvtStickyClear (m : Master) (i : BitVec 3) (mask : Word) (s : State) : Res := .next (writeBy m (0x10100 + 4 * i.toNat) mask s)
def execRecCursorWrite (m : Master) (seq : Word) (s : State) : Res := .next (writeBy m 0x18020 seq s)
def execRecWin7Read (m : Master) (s : State) : Res := .next (readBy m 0x1805C s)
def execMbxLockRead (m : Master) (n : BitVec 4) (s : State) : Res := .next (readBy m (0x20048 + 256 * n.toNat) s)
def execMbxCtlPost (m : Master) (n : BitVec 4) (s : State) : Res := .next (writeBy m (0x20040 + 256 * n.toNat) 1 s)
def execMbxCtlRelease (m : Master) (n : BitVec 4) (s : State) : Res := .next (writeBy m (0x20040 + 256 * n.toNat) 2 s)
def execPtcNsRead (m : Master) (s : State) : Res := .next (readBy m 0x30004 s)
def execRegisterWrite (m : Master) (addr w : Word) (s : State) : Res := .next (writeBy m addr.toNat w s)
def execRevokeDebug (m : Master) (s : State) : Res := .next (writeBy m 0x101C 2 s)
def execCloseHostauth (m : Master) (s : State) : Res := .next (writeBy m 0x101C 1 s)
def execBrsRailcmd (m : Master) (w : Word) (s : State) : Res := .next (writeBy m 0x2014 w s)

/-! ### DBG_ACC (R513, R562, R566). -/

/-- What an access answers: the read data, the status of Capture-DR, the state after it. -/
def dbgAccess (a : Nat) (data : Word) (write : Bool) (s : State) : Word × BitVec 2 × State :=
  match dbgWord s a with
  | some w =>
    if write = false then (w, 0, s)
    else if a = 0x01000000 then (if s.sec.level = 3 ∧ served s then (0, 0, dbgCtl data s) else (0, 1, s))
    else if a = 0x01000004 then (if swinOk s data then (0, 0, dbgSwin data s) else (0, 1, s))
    else (0, 1, s)
  | none =>
    if (regWord s .hsp a).isNone then (0, 3, s)
    else if write = false then
      let r := readAt .hsp a s
      (r.1, 0, r.2)
    else match applyWord .hsp a data s with
      | some t => (0, 0, t)
      | none => (0, 1, if sdirWindow a then raise 0x0133 (w32 a) 1 0 s else refuseHsp a s)

/-- DBG_ACC: an Update-DR. Below OBSERVE the instruction acts as BYPASS (R508). -/
def execDbgAcc (addr data : Word) (write go : Bool) (s : State) : Res :=
  if go = false ∨ s.sec.level.toNat < 2 then .next s
  else
    let r := dbgAccess addr.toNat data write s
    .next (modSec (fun c => { c with dbgData := r.1, dbgStatus := r.2.1 }) r.2.2)

end Sys2Proof.Machine
end

