-- ==== Sys2Proof/Machine/Hostif.lean ====
section
/-! DEFINITION. Sys2Proof/Machine/Hostif.lean: the host SPI port and the maintenance Ethernet protocol (R478, R484 to R487, R490, R497). -/

namespace Sys2Proof.Machine

/-! ### HSP (R484). -/

/-- A broken or unknown transaction is discarded, counted and recorded. -/
def hspBroken (addr : Word) (s : State) : State :=
  raise 0x0E08 2 addr 0 { s with host := { s.host with errFrame := satByteInc s.host.errFrame } }

/-- HSP_READ: N words from an address, then the CRC over address, N and the words. -/
def execHspRead (addr : Word) (n : BitVec 8) (s : State) : Res :=
  if n.toNat = 0 ∨ 64 < n.toNat then .next (hspBroken addr s)
  else
    let r := readWords .hsp addr.toNat n.toNat s
    let crc := crc16 (beBytes 4 addr.toNat ++ [n] ++ r.1.flatMap (fun w => beBytes 4 w.toNat))
    .next { r.2 with host := { r.2.host with reply := r.1, replyCrc := BitVec.ofNat 16 crc } }

/-- The CRC of a WRITE: over the opcode, the address, N and the words. -/
def hspWriteCrc (addr : Word) (n : BitVec 8) (l : List Word) : Nat :=
  crc16 ([0x02#8] ++ beBytes 4 addr.toNat ++ [n] ++ l.flatMap (fun w => beBytes 4 w.toNat))

/-- HSP_WRITE: applied only when the CRC checks. -/
def execHspWrite (addr : Word) (n : BitVec 8) (l : List (BitVec 32)) (crc : BitVec 16) (s : State) : Res :=
  if n.toNat = 0 ∨ 64 < n.toNat ∨ l.length ≠ n.toNat then .next (hspBroken addr s)
  else if hspWriteCrc addr n l ≠ crc.toNat then
    .next (raise 0x0E08 0 addr 0 { s with host := { s.host with errCrc := satByteInc s.host.errCrc, applied := false, crcFailed := true, wrRefused := false } })
  else .next (hspWriteWords addr.toNat l s)

/-- HSP_STATUS: the status byte of Table 14-6. -/
def execHspStatus (s : State) : Res :=
  let h := s.host
  .next { s with host := { h with status := BitVec.ofNat 8 (8 * b2n s.boot.sealed + 4 * b2n h.wrRefused + 2 * b2n h.crcFailed + b2n h.applied) } }

/-- HSP_RESET_MASTER, with its byte; another byte makes it a broken transaction. -/
def execHspResetMaster (b : BitVec 8) (s : State) : Res :=
  if b = 0xA5#8 then .next (masterReset 1 s) else .next (hspBroken ((Config.freeWord s.draws).setWidth 32) { s with draws := s.draws + 1 })

/-- HSP_FRAME_ERROR: an unknown opcode, whose record has no address to name, or a transaction that ends inside a word. -/
def execHspFrameError (addr : Option (BitVec 32)) (s : State) : Res :=
  match addr with
  | some a => .next (hspBroken a s)
  | none => .next (hspBroken ((Config.freeWord s.draws).setWidth 32) { s with draws := s.draws + 1 })

/-! ### MEP (R485 to R487). -/

/-- A dropped frame is counted in MEP_ERR.AUTH. -/
def mepDrop (s : State) : State := { s with host := { s.host with mepAuth := satHalfInc s.host.mepAuth } }

/-- The Ethernet port: ETH2 or ETH3. -/
def mepPortNo (port : Bool) : Nat := if port then 3 else 2

/-- How a frame that reaches a port fares before its content is looked at: none where no handler listens, false where it is dropped
and counted (R485, R497, R521, Table 17-1), true where it is examined. -/
def mepListens (port : Bool) (s : State) : Option Bool :=
  if s.boot.dev = .fault ∨ s.boot.dev = .sleep then some false
  else if served s = false ∨ ethLive s (mepPortNo port) = false ∨ ethFlag s (mepPortNo port) 1 = false then none
  else some s.sec.mepKey.isSome

/-- A MEP frame of a port that listens counts against its frame limit (R445, R487): whether the frame is still examined. -/
def mepAdmit (port : Bool) (s : State) : Bool × State := if served s then ethAdmit (mepPortNo port) s else (true, s)

/-- The 24 bytes of a MEP header (Table 14-7). -/
def mepHeader (mver mtype flags : Byte) (nonce counter : Dword) (len : Nat) : List Byte :=
  [mver, mtype, flags, 0] ++ leBytes 8 nonce.toNat ++ leBytes 8 counter.toNat ++ leBytes 2 len ++ [0, 0]

/-- MEP_NONCE_QUERY: the reply carries the boot nonce and the last accepted counter. -/
def execMepNonceQuery (port : Bool) (mac : BitVec 48) (s : State) : Res :=
  let r := mepAdmit port s
  match mepListens port s, r.1 with
  | none, _ => .next s
  | some _, false => .next r.2
  | some false, true => .next (mepDrop r.2)
  | some true, true =>
    let s := r.2
    .next { s with host := { s.host with
      mepNonces := s.host.mepNonces + 1
      mepReply := mepHeader 1 2 0 s.host.bootNonce s.host.mepLast 0
      mepPort := mepPortNo port, mepMac := mac } }

/-- The GCM IV of a frame: COUNTER, NONCE bytes 0 to 2, MTYPE (R486). -/
def mepIv (counter nonce : Dword) (mtype : Byte) : List Byte := leBytes 8 counter.toNat ++ leBytes 3 nonce.toNat ++ [mtype]

/-- One item: READ or WRITE of words, with its header's status byte filled in. -/
def mepItem (op count : Byte) (addr : Nat) (l : List Byte) (s : State) : List Byte × State :=
  let hdr (st : Nat) : List Byte := [op, count, BitVec.ofNat 8 st, 0] ++ leBytes 4 addr
  let addrs := (List.range count.toNat).map (fun i => (addr + 4 * i) % 2 ^ 32)
  if op = 1 then
    let st := if addrs.any (fun a => (regWord s .mep a).isNone) then 2 else 0
    let r := readWords .mep addr count.toNat s
    (hdr st ++ r.1.flatMap (fun w => leBytes 4 w.toNat), r.2)
  else
    let r := addrs.zipIdx.foldl (fun x a =>
      let y := mepWord a.1 (w32 (leNat ((l.drop (4 * a.2)).take 4))) x.2
      (max x.1 y.1, y.2)) (0, s)
    (hdr r.1, r.2)

/-- The items of a request in order; the walk ends at the end of the body, at bytes that are no item, or (DESIGN CHOICE, log entry 153) at an item
whose answer no longer fits in the room of the response's 1,400 bytes. -/
def mepItems : Nat → Nat → List Byte → State → List Byte × State
  | 0, _, _, s => ([], s)
  | fuel + 1, room, l, s =>
    let op := l.getD 0 0
    let count := l.getD 1 0
    let need := if op = 2 then 8 + 4 * count.toNat else 8
    if (op = 1 ∨ op = 2) ∧ 1 ≤ count.toNat ∧ count.toNat ≤ 64 ∧ need ≤ l.length ∧ (if op = 1 then 8 + 4 * count.toNat else 8) ≤ room then
      let r := mepItem op count (leNat ((l.drop 4).take 4)) (l.drop 8) s
      let t := mepItems fuel (room - r.1.length) (l.drop need) r.2
      (r.1 ++ t.1, t.2)
    else ([], s)

/-- A frame that fails a condition of R486: counted, recorded, no reply. -/
def mepFail (port : Bool) (f : MepFrame) (kind : Nat) (s : State) : State :=
  raise 0x0E09 (w32 (mepPortNo port)) (f.counter.setWidth 32) (w32 kind) (mepDrop s)

/-- MEP_REQUEST: the conditions of R486 in their order, then the items as master 2, then the response. -/
def execMepRequest (port : Bool) (f : MepFrame) (s : State) : Res :=
  let a := mepAdmit port s
  match mepListens port s, a.1, s.sec.mepKey with
  | none, _, _ => .next s
  | some _, false, _ => .next a.2
  | some true, true, some key =>
    let s := a.2
    let flags := BitVec.ofNat 8 (b2n f.restart)
    let iv := mepIv f.counter f.nonce 3
    if f.mver ≠ 1#8 then .next (mepFail port f 0 s)
    else if f.nonce ≠ s.host.bootNonce then .next (mepFail port f 1 s)
    else if f.counter.toNat ≤ s.host.mepLast.toNat then
      .next (raise 0x0E0A (w32 (mepPortNo port)) (f.counter.setWidth 32) (s.host.mepLast.setWidth 32) { s with host := { s.host with mepReplay := satHalfInc s.host.mepReplay } })
    else if Config.gcmTag key iv (mepHeader f.mver 3 flags f.nonce f.counter f.body.length) f.body ≠ f.tag then .next (mepFail port f 2 s)
    else
      let s := { s with host := { s.host with mepLast := f.counter, mepOk := s.host.mepOk + 1 } }
      let s := if f.restart then masterReset 2 s else s
      let plain := Config.gcmCrypt key iv f.body
      let r := mepItems plain.length 1400 plain s
      let head := mepHeader 1 4 0 f.nonce f.counter r.1.length
      let ivOut := mepIv f.counter f.nonce 4
      let body := Config.gcmCrypt key ivOut r.1
      let tag := Config.gcmTag key ivOut head body
      .next { r.2 with host := { r.2.host with mepReply := head ++ body ++ leBytes 16 tag.toNat, mepPort := mepPortNo port, mepMac := f.mac } }
  | _, _, _ => .next (mepDrop a.2)

end Sys2Proof.Machine
end

