-- ==== Sys2Proof/Machine/NavSolve.lean ====
section
/-! DEFINITION. Sys2Proof/Machine/NavSolve.lean: position, time and heading on the vector-matrix unit (R186 to R190), and the
bootstrap of first time (R394). -/

namespace Sys2Proof.Machine

/-- A landed channel record as PVT_SOLVE and HDG_SOLVE read it. -/
structure LandRec where
  chan : Nat
  prn  : Nat
  sig  : Nat
  ant  : Nat
  flags : Nat
  pr   : Rat
  ph   : Word
  dopp : Rat
  sv   : List Rat
  vel  : List Rat
  corr : Rat
  iono : Rat
  elev : Rat

/-- The records that have been landed and are GOOD (R187: a record that is not landed is not used). -/
def landRecs (s : State) : List LandRec :=
  (List.range 192).filterMap (fun c =>
    let i := nv s 0xA0 4 % 2 ^ 17 + 16 * c
    let w0 := (sigW s i).toNat
    let q (k : Nat) (e : Int) : Rat := sfxVal (sigW s (i + k)) e
    if sigQ s (i + 15) != qGood || (List.range 16).any (fun k => sigNan s (i + k)) then none
    else some { chan := c, prn := w0 % 256, sig := bitsOf w0 10 8, ant := bitsOf w0 11 11, flags := (sigW s (i + 15)).toNat,
                pr := q 1 (-6), ph := sigW s (i + 2), dopp := q 3 (-8), sv := [q 6 (-5), q 7 (-5), q 8 (-5)],
                vel := [q 9 (-12), q 10 (-12), q 11 (-12)], corr := q 12 (-8), iono := q 13 (-8),
                elev := ((sigW s (i + 14)).toInt : Rat) / 4294967296 })

/-- May the solutions use this record? Elevation at the mask or above, none of CMC, POWER and EXCLUDED. -/
def recClean (s : State) (r : LandRec) : Bool :=
  decide (((nv s 0x52 1 : Nat) : Rat) ≤ r.elev * 360) && !bitOf r.flags 4 && !bitOf r.flags 5 && !bitOf r.flags 6

/-- One measurement of PVT_SOLVE. -/
structure PvtMeas where
  con  : Nat
  rho  : Rat
  var  : Rat
  dopp : Rat
  sig  : Nat
  sv   : List Rat
  vel  : List Rat
  dg   : Bool
  sbas : Bool

def tropo (el : Rat) : Rat := 240 / 100 * (1001 / 1000) / sqrtQ (2001 / 1000000 + sinTurns el * sinTurns el)

/-- The measurement of one satellite from its records on the two bands (R186). -/
def pvtMeas (s : State) (l1 l5 : Option LandRec) : Option PvtMeas :=
  let a := ((nv s 0x84 2 : Nat) : Rat) / 256
  let b := ((nv s 0x86 2 : Nat) : Rat) / 256
  -- corrected by SBAS, and not by the base
  let bySbas (r : LandRec) : Bool := bitOf r.flags 3 && !s.nav.rtcmChans.contains r.chan
  let mk (r : LandRec) (rho k : Rat) (dg : Bool) : PvtMeas :=
    let sn := sinTurns r.elev
    { con := conOf r.sig, rho := rho, var := k * (a * a + b * b / (sn * sn)), dopp := r.dopp, sig := r.sig, sv := r.sv, vel := r.vel, dg := dg, sbas := dg && bySbas r }
  let trop (r : LandRec) : Rat := if bitOf r.flags 3 then 0 else tropo r.elev
  match l1, l5 with
  | some x, some y =>
    let f1 := carrier x.sig * carrier x.sig
    let f5 := carrier y.sig * carrier y.sig
    some (mk x ((f1 * (x.pr + x.corr) - f5 * (y.pr + y.corr)) / (f1 - f5) - trop x) 9 (bitOf x.flags 3 && bitOf y.flags 3))
  | some x, none => some (mk x (x.pr + x.corr - x.iono - trop x) 1 (bitOf x.flags 3))
  | none, some y => some (mk y (y.pr + y.corr - y.iono - trop y) 1 (bitOf y.flags 3))
  | none, none => none

/-- The constellations in use, in order. -/
def consOf (l : List PvtMeas) : List Nat := [0, 1, 2, 3].filter (fun g => l.any (fun m => m.con == g))

/-- The measurements of a PVT_SOLVE after the choice of differential ones (R186). -/
def pvtInputs (s : State) : List PvtMeas :=
  let rs := (landRecs s).filter (fun r => r.ant = 0 && bitOf r.flags 0 && recClean s r)
  let l1 := rs.filter (fun r => isL1 r.sig)
  let l5 := rs.filter (fun r => !isL1 r.sig)
  let same (a b : LandRec) : Bool := conOf a.sig == conOf b.sig && a.prn == b.prn
  let all := l1.filterMap (fun r => pvtMeas s (some r) (l5.find? (same r)))
    ++ (l5.filter (fun r => !l1.any (same r))).filterMap (fun r => pvtMeas s none (some r))
  let dg := all.filter (fun m => m.dg)
  let sel := if nv s 0x42 1 ≠ 0 ∧ 3 + (consOf dg).length ≤ dg.length then dg else all
  if sel.all (fun m => m.dg) ∧ sel.any (fun m => m.sbas) then sel.filter (fun m => m.con = 0) else sel

/-- The row of H of a measurement at a position: unit vector from the satellite, then one clock column for each constellation. -/
def pvtRow (cons : List Nat) (x : List Rat) (m : PvtMeas) : List Rat :=
  let d := sub3 x m.sv
  let n := norm3 d
  d.map (fun q => q / n) ++ cons.map (fun g => if g = m.con then 1 else 0)

/-- One iteration: position and clocks. -/
def pvtIter (cons : List Nat) (l : List PvtMeas) (xb : List Rat) : Option (List Rat × Mat) :=
  let x := xb.take 3
  let clk (m : PvtMeas) : Rat := (xb.drop 3).getD (cons.findIdx (· == m.con)) 0
  let h := l.map (pvtRow cons x)
  let y := l.map (fun m => m.rho - norm3 (sub3 m.sv x) - clk m)
  (wls (3 + cons.length) h (l.map (fun m => 1 / m.var)) y).map (fun r => (List.zipWith (· + ·) xb r.1, r.2))

/-- The quadratic form of the position block of a matrix along an axis. -/
def quad (q : Mat) (a : List Rat) : Rat := dot a ((q.take 3).map (fun r => dot (r.take 3) a))

/-- Does an exact value fit the word of a signal? One that does not is NaN (R71). -/
def fitsSig (s : State) (i : Nat) (v : Option Rat) : Bool :=
  match v with
  | some q =>
    let e := ent s i
    if entType e = 1 then (sfxOf q (entExp e)).isSome else if entType e = 2 then (ufxOf q (entExp e)).isSome else true
  | none => false

/-- PVT_SOLVE (R186, R188). A result that is NaN, among them one that does not fit its signal, makes it no fix. -/
def pvtSolveEffect (s : State) : State :=
  let t := opTime s 3200
  let b := nv s 0x98 4 % 2 ^ 17
  let l := pvtInputs s
  let cons := consOf l
  let x0 : List Rat := match s.nav.pos with
    | some p => if s.nav.isFix then [p.1, p.2.1, p.2.2] else [0, 0, 0]
    | none => [0, 0, 0]
  let start : Option (List Rat × Mat) := some (x0 ++ cons.map (fun _ => 0), [])
  let sol := (List.range 4).foldl (fun o _ => o.bind (fun xb => pvtIter cons l xb.1)) start
  let enough := decide (3 + cons.length ≤ l.length)
  let q := sigsQual s [b + 4]
  let used := some ((l.length : Nat) : Rat)
  match (if enough then sol else none) with
  | none =>
    let s := modNav (fun n => { n with isFix := false }) s
    let s := (List.range 6).foldl (fun s k => writeNum (b + 4 + k) none q t s) s
    let s := writeNum (b + 10) used qGood t s
    writeNum (b + 14) none q t (writeNum (b + 12) none q t (writeNum (b + 11) none q t s))
  | some (xb, qm) =>
    let x := xb.take 3
    let h := l.map (pvtRow cons x)
    let w := l.map (fun m => 1 / m.var)
    let g := (matInv (3 + cons.length) (normalMat (3 + cons.length) h (w.map (fun _ => 1)))).getD []
    let geo := geodetic x
    let ax := localAxes geo.1 geo.2.1
    let ga (i : Nat) : Rat := quad g (ax.getD i [])
    let qa (i : Nat) : Rat := quad qm (ax.getD i [])
    let hdop := sqrtQ (ga 0 + ga 1)
    let pdop := sqrtQ (ga 0 + ga 1 + ga 2)
    -- velocity: range rate of each measurement from its Doppler, on the same geometry
    let rr := l.map (fun m => -(m.dopp * cLight / carrier m.sig) + dot ((pvtRow cons x m).take 3) m.vel)
    let vel : List Rat := match wls (3 + cons.length) h w rr with
      | some r => r.1
      | none => []
    let vloc (i : Nat) : Option Rat := if vel.length = 0 then none else some (dot (ax.getD i []) (vel.take 3))
    let bg := (xb.drop 3).getD 0 0
    let off := s.nav.rxOff - bg / cLight * 1000000000
    let bound := 417 / 100 + 1000000000 / ((max 1 (portRate s 0) : Nat) : Rat)
    let offSig := sqrtQ ((qm.getD 3 []).getD 3 0) / cLight * 1000000000 + bound
    let results : List (Nat × Option Rat) := [(2, some (sqrtQ (max (qa 0) (qa 1)))), (4, some geo.2.2), (5, vloc 0), (6, vloc 1), (7, (vloc 2).map (fun v => -v)), (8, some off),
      (9, some offSig), (11, some hdop), (12, some pdop)]
    let fix := decide (hdop ≤ ((nv s 0x88 2 : Nat) : Rat) / 256) && results.all (fun r => fitsSig s (b + r.1) r.2)
    let age := match s.nav.rtcm.getLast? with
      | some m => some (((nowNs s - m.ns : Nat) : Rat) / 1000000000)
      | none => none
    let s := modNav (fun n => { n with
      isFix := fix
      pos := if fix then some (x.getD 0 0, x.getD 1 0, x.getD 2 0) else n.pos
      sigma := if fix then some (sqrtQ (max (qa 0) (qa 1))) else n.sigma
      onlyDg := l.all (fun m => m.dg && !m.sbas)
      onlySbas := l.any (fun m => m.sbas)
      firstFix := if fix && n.firstFix.isNone then some (nowNs s) else n.firstFix }) s
    let s := writeNum (b + 4) (some geo.2.2) q t s
    let s := writeNum (b + 5) (vloc 0) q t s
    let s := writeNum (b + 6) (vloc 1) q t s
    let s := writeNum (b + 7) ((vloc 2).map (fun v => -v)) q t s
    let s := writeNum (b + 8) (some off) qGood t s
    let s := writeNum (b + 9) (some offSig) qGood t s
    let s := writeNum (b + 10) used qGood t s
    let s := writeNum (b + 11) (some hdop) qGood t s
    let s := writeNum (b + 12) (some pdop) qGood t s
    writeNum (b + 14) age qGood t s

def execPvtSolve (s : State) : Res := issue 3 0 (opWord 3 0x20 0) pvtSolveEffect s

/-- GNSS as a time source after a PVT_OUT (Table 12-1): valid while its conditions hold, and one measurement. -/
def gnssMeasure (s : State) : State :=
  match srcIdx s 1 with
  | none => s
  | some i =>
    let b := nv s 0x98 4 % 2 ^ 17
    let ok := s.ptc.gm && s.nav.tstat == 1 && sigQ s (b + 15) == qGood && sigQ s (b + 9) == qGood &&
      (match sigNum s (b + 9) with
        | some x => decide (x ≤ ((tt s 0x18 4 : Nat) : Rat))
        | none => false)
    let s := setSrcValid i ok s
    match sigNum s (b + 8) with
    | some off => if ok then measure i off s else s
    | none => s

/-- PVT_OUT: position, fix code, marks and time status (R189). -/
def pvtOutEffect (s : State) : State :=
  let t := opTime s 24
  let b := nv s 0x98 4 % 2 ^ 17
  let marks := (sigW s (nv s 0xAC 4 % 2 ^ 17)).toNat % 32
  let fix := if !s.nav.isFix || marks != 0 then 0 else if s.nav.onlyDg then 3 else if s.nav.onlySbas then 2 else 1
  let tst := if marks ≠ 0 then 2 else if !s.nav.isFix then 0 else 1
  let s := modNav (fun n => { n with fix := BitVec.ofNat 3 fix, tstat := BitVec.ofNat 2 tst }) s
  let s := match s.nav.pos with
    | some p =>
      let geo := geodetic [p.1, p.2.1, p.2.2]
      writeNum (b + 2) s.nav.sigma qGood t (writeSig (b + 1) (bamOf geo.2.1) qGood t (writeSig b (bamOf geo.1) qGood t s))
    | none => s
  let s := writeSig (b + 3) (w32 fix) qGood t s
  let s := writeSig (b + 13) (w32 marks) qGood t s
  gnssMeasure (writeSig (b + 15) (w32 tst) qGood t s)

def execPvtOut (s : State) : Res := issue 3 0 (opWord 3 0x21 0) pvtOutEffect s

/-! ### HDG_SOLVE (R190). -/

/-- One satellite common to both antennas: key, elevation, carrier wavelength in m, measured single difference in cycles, line of
sight in local axes, slip. -/
structure HdgSat where
  key  : Nat
  elev : Rat
  lam  : Rat
  sd   : Rat
  los  : List Rat
  slip : Bool

def hdgSats (s : State) : List HdgSat :=
  let rs := (landRecs s).filter (fun r => (r.sig = 0 || r.sig = 2 || r.sig = 4) && bitOf r.flags 1 && recClean s r)
  let x : List Rat := match s.nav.pos with
    | some p => [p.1, p.2.1, p.2.2]
    | none => [0, 0, 0]
  let geo := geodetic x
  let ax := localAxes geo.1 geo.2.1
  (rs.filter (fun r => r.ant = 0)).filterMap (fun r =>
    (rs.find? (fun u => u.ant = 1 ∧ u.sig = r.sig ∧ u.prn = r.prn)).map (fun u =>
      let d := sub3 r.sv x
      let n := norm3 d
      { key := r.prn + 256 * r.sig, elev := r.elev, lam := cLight / carrier r.sig, sd := ((r.ph - u.ph).toInt : Rat) / 256,
        los := ax.map (fun a => dot a d / n), slip := bitOf r.flags 2 || bitOf u.flags 2 }))

/-- Predicted double difference of a satellite against the reference for a baseline vector, in cycles. -/
def predDd (ref sat : HdgSat) (base : List Rat) : Rat := dot sat.los base / sat.lam - dot ref.los base / ref.lam

def measDd (ref sat : HdgSat) : Rat := sat.sd - ref.sd

/-- The cost of a baseline (R190). -/
def hdgCost (ref : HdgSat) (l : List HdgSat) (base : List Rat) : Rat :=
  sumQ (l.map (fun x => 1 - cosTurns (measDd ref x - predDd ref x base)))

/-- A baseline of the fixed length at an azimuth and a pitch in turns, in local axes. -/
def baseAt (len az pitch : Rat) : List Rat :=
  [len * cosTurns pitch * cosTurns az, len * cosTurns pitch * sinTurns az, len * sinTurns pitch]

/-- The eight best candidates of the search over 2,048 azimuths and 17 pitches. -/
def hdgSearch (ref : HdgSat) (l : List HdgSat) (len : Rat) : List (List Rat) :=
  let cands := (List.range 2048).flatMap (fun (k : Nat) => (List.range 17).map (fun (p : Nat) =>
    baseAt len ((k : Rat) / 2048) ((((p : Int) - 8 : Int) : Rat) / 360)))
  let costed := cands.map (fun b => (hdgCost ref l b, b))
  ((sortBy (fun a b => decide (a.1 ≤ b.1)) costed).take 8).map (fun c => c.2)

/-- Least-squares baseline for integers, and its residuals in cycles. -/
def hdgFit (ref : HdgSat) (l : List HdgSat) (ints : List Int) : Option (List Rat × List Rat) :=
  let h := l.map (fun x => List.zipWith (fun a r => a / x.lam - r / ref.lam) x.los ref.los)
  let y := List.zipWith (fun x (n : Int) => measDd ref x - (n : Rat)) l ints
  (wls 3 h (l.map (fun _ => 1)) y).map (fun r => (r.1, List.zipWith (fun hr yi => yi - dot hr r.1) h y))

/-- A candidate refined: its rounded integers, the cost of its fit, the fit. -/
def hdgRefine (ref : HdgSat) (l : List HdgSat) (base : List Rat) : Option (List Int × Rat × List Rat × List Rat) :=
  let ints (b : List Rat) : List Int := l.map (fun x => roundEven (measDd ref x - predDd ref x b))
  (hdgFit ref l (ints base)).bind (fun f =>
    let n := ints f.1
    (hdgFit ref l n).map (fun g => (n, hdgCost ref l g.1, g.1, g.2)))

/-- Write the heading group (Table 5-8) from a baseline; none leaves heading and pitch. -/
def hdgWrite (base : Option (List Rat)) (used : Nat) (fixed : Bool) (s : State) : State :=
  let t := opTime s 12288
  let b := nv s 0x9C 4 % 2 ^ 17
  let dir := bitOf (sigW s (nv s 0xAC 4 % 2 ^ 17)).toNat 4
  let s := match base with
    | some v =>
      let psi := bamOf (atan2Turns (v.getD 1 0) (v.getD 0 0)) + w32 (nv s 0x94 4)
      let hor := sqrtQ (v.getD 0 0 * v.getD 0 0 + v.getD 1 0 * v.getD 1 0)
      let s := modNav (fun n => { n with hdgPsi := psi }) s
      let s := writeSig b psi qGood t s
      let s := writeSig (b + 1) (bamOf (Config.openQ 2 v)) qGood t s
      let s := writeSig (b + 3) (bamOf (atan2Turns (v.getD 2 0) hor)) qGood t s
      writeNum (b + 4) (some (norm3 v)) qGood t s
    | none => s
  let s := writeSig (b + 2) (if fixed && !dir then 5 else 0) qGood t s
  writeNum (b + 5) (some ((used : Nat) : Rat)) qGood t s

/-- The heading is lost (NAV_HDG_LOST); the reason's code is not stated. -/
def hdgLose (n : Nat) (s : State) : State :=
  raise 0x050D (Config.layoutWord 6 [n]) s.nav.hdgPsi (w32 n) (modNav (fun v => { v with hdgFixed := false, hdgInts := [] }) s)

/-- The integer of the reference on the scale of the integers that are kept: its own, or for a satellite that has none the one that fits the
baseline of the others, against the highest of them (R190). -/
def hdgRefInt (s : State) (ref : HdgSat) (l : List HdgSat) : Int :=
  let held (x : HdgSat) : Option Int := (s.nav.hdgInts.find? (fun p => p.1 = x.key)).map (fun p => p.2)
  match held ref, l.filterMap (fun x => (held x).map (fun i => (x, i))) with
  | some i, _ => i
  | none, [] => 0
  | none, b :: rest =>
    match hdgFit b.1 (rest.map (fun p => p.1)) (rest.map (fun p => p.2 - b.2)) with
    | some f => b.2 + roundEven (measDd b.1 ref - predDd b.1 ref f.1)
    | none => 0

/-- HDG_SOLVE (R190). -/
def hdgSolveEffect (s : State) : State :=
  let sats := hdgSats s
  let len := ufxVal (w32 (nv s 0x8C 4)) (-16)
  match sortBy (fun (a b : HdgSat) => decide (b.elev ≤ a.elev)) sats with
  | [] => hdgWrite none 0 false (if s.nav.hdgFixed then hdgLose 0 s else s)
  | ref :: l =>
    let n := l.length
    if s.nav.hdgFixed then
      if sats.length < 4 then hdgWrite none n false (hdgLose n s)
      else
        let nref := hdgRefInt s ref l
        let held (x : HdgSat) : Option Int := if x.slip then none else (s.nav.hdgInts.find? (fun p => p.1 = x.key)).map (fun p => p.2 - nref)
        let kept := l.filterMap (fun x => (held x).map (fun i => (x, i)))
        match hdgFit ref (kept.map (fun p => p.1)) (kept.map (fun p => p.2)) with
        | none => hdgWrite none n false (hdgLose n s)
        | some f =>
          let now := l.map (fun x =>
            let want := measDd ref x - predDd ref x f.1
            match held x with
            | some i => if absQ (want - (i : Rat)) ≤ 1 / 4 then (x, i, false) else (x, roundEven want, true)
            | none => (x, roundEven want, true))
          let bad := (now.filter (fun p => p.2.2)).length
          if n ≤ 2 * bad then hdgWrite none n false (hdgLose n s)
          else
            let base := match hdgFit ref l (now.map (fun p => p.2.1)) with
              | some g => g.1
              | none => f.1
            hdgWrite (some base) n true (modNav (fun v => { v with hdgInts := (ref.key, 0) :: now.map (fun p => (p.1.key, p.2.1)) }) s)
    else if sats.length < 5 then hdgWrite none n false s
    else
      let refined := sortBy (fun (a b : List Int × Rat × List Rat × List Rat) => decide (a.2.1 ≤ b.2.1)) ((hdgSearch ref l len).filterMap (hdgRefine ref l))
      match refined with
      | [] => hdgWrite none n false s
      | best :: rest =>
        let second := rest.find? (fun c => c.1 != best.1)
        let ratioOk := match second with
          | some c => decide (best.2.1 * (((nv s 0x92 2 : Nat) : Rat) / 256) ≤ c.2.1)
          | none => true
        let lenOk := decide (absQ (norm3 best.2.2.1 - len) ≤ ufxVal (w32 (nv s 0x90 2)) (-16))
        let resOk := best.2.2.2.all (fun r => decide (absQ r < 15 / 100))
        if ratioOk && lenOk && resOk then
          let s := hdgWrite (some best.2.2.1) n true (modNav (fun v => { v with hdgFixed := true, hdgInts := (ref.key, 0) :: List.zipWith (fun x i => (x.key, i)) l best.1 }) s)
          raise 0x050C s.nav.hdgPsi (Config.reportWord (match second with
            | some c => c.2.1 / best.2.1
            | none => 0)) (w32 n) s
        else hdgWrite (some best.2.2.1) n false s

def execHdgSolve (s : State) : Res := issue 3 0 (opWord 3 0x22 0) hdgSolveEffect s

/-! ### The bootstrap (R394). -/

/-- NAV_BOOTSTRAP_EPOCH: one pass of the sequence of R187 without HDG_SOLVE, issued by NAV while the device is in SYNC, with GM_EN
set and GNSS listed. -/
def execNavBootstrapEpoch (e : NavSamples) (s : State) : Res :=
  if s.boot.dev = .sync ∧ s.seq.run = false ∧ bitOf (tt s 4 1) 0 ∧ (srcIdx s 1).isSome then
    let s := wakeBank (modNav (fun n => { n with acqMode := 1 }) s)
    let op : NavOp := { eng := 0x0A, opc := 1, opnd := 0, words := [], ns := nowNs s, arr := 3 * s.cclk + 12, in_ := true, latch := navLatch s }
    let s := epochDone op e s
    let land (s : State) : State := (List.range (lbuCnt s)).foldl (fun s n =>
      if lbutFld s n 0 2 / 1024 = 0x0A ∨ lbutFld s n 0 2 / 1024 = 0x0B then
        let b := lbuOf s n
        match b.pend with
        | some v =>
          let s := setLbu n { b with cur := some v, pend := none } s
          landList (lbutFld s n 4 4 % 2 ^ 17) (v.words.map (fun w => (w, qGood))) (wtimeOf op.ns) s
        | none => s
      else s) s
    let s := pvtSolveEffect (land s)
    let b := nv s 0x98 4 % 2 ^ 17
    let cop : NavOp := { eng := 0x0B, opc := 1, opnd := b + 8, words := navBlock s (b + 8) 2, ns := op.ns }
    let s := clockCheck cop s
    let s := landFrom 0x0B 0 [s.nav.marks.setWidth 32, Config.layoutWord 4 [s.nav.clkHist.length]] op.ns s
    .next (pvtOutEffect (land s))
  else .next s

end Sys2Proof.Machine
end

