-- ==== Sys2Proof/Machine/Dispatch.lean ====
section
/-! DEFINITION. Sys2Proof/Machine/Dispatch.lean: which meaning each command has. One arm per constructor, no wildcard. -/

namespace Sys2Proof.Machine

def exec (i : Instr) (s : State) : Host.Outcome State Fault Refusal :=
  match i with
  | .porRelease => Sys2Proof.Machine.execPorRelease s
  | .porAssert => Sys2Proof.Machine.execPorAssert s
  | .resetNLow => Sys2Proof.Machine.execResetNLow s
  | .resetNRise => Sys2Proof.Machine.execResetNRise s
  | .pfailNLow => Sys2Proof.Machine.execPfailNLow s
  | .pfailRelease => Sys2Proof.Machine.execPfailRelease s
  | .recorderFlushEnd => Sys2Proof.Machine.execRecorderFlushEnd s
  | .flushCutoff => Sys2Proof.Machine.execFlushCutoff s
  | .resetExit roleSel unitSel alj log => Sys2Proof.Machine.execResetExit roleSel unitSel alj log s
  | .zeroiserComplete fail => Sys2Proof.Machine.execZeroiserComplete fail s
  | .chartHeadersRead octal ticks => Sys2Proof.Machine.execChartHeadersRead octal ticks s
  | .chartCopyStreamed ticks => Sys2Proof.Machine.execChartCopyStreamed ticks s
  | .verifyComplete ticks => Sys2Proof.Machine.execVerifyComplete ticks s
  | .sealComplete => Sys2Proof.Machine.execSealComplete s
  | .syncTmo => Sys2Proof.Machine.execSyncTmo s
  | .scheduleStart => Sys2Proof.Machine.execScheduleStart s
  | .contractReset => Sys2Proof.Machine.execContractReset s
  | .slackZoneBegin => Sys2Proof.Machine.execSlackZoneBegin s
  | .alignerPhaseSample e => Sys2Proof.Machine.execAlignerPhaseSample e s
  | .alignerTrimUpdate => Sys2Proof.Machine.execAlignerTrimUpdate s
  | .frameBoundary alj => Sys2Proof.Machine.execFrameBoundary alj s
  | .cckStore fault => Sys2Proof.Machine.execCckStore fault s
  | .cckEccCorr store => Sys2Proof.Machine.execCckEccCorr store s
  | .nop eng => Sys2Proof.Machine.execNop eng s
  | .mark tag => Sys2Proof.Machine.execMark tag s
  | .pwake mask => Sys2Proof.Machine.execPwake mask s
  | .pgate mask => Sys2Proof.Machine.execPgate mask s
  | .domainWakeComplete d => Sys2Proof.Machine.execDomainWakeComplete d s
  | .domainAutoWake d => Sys2Proof.Machine.execDomainAutoWake d s
  | .land lbu => Sys2Proof.Machine.execLand lbu s
  | .pub group psel => Sys2Proof.Machine.execPub group psel s
  | .subst sig zero => Sys2Proof.Machine.execSubst sig zero s
  | .curve n => Sys2Proof.Machine.execCurve n s
  | .mmul d => Sys2Proof.Machine.execMmul d s
  | .madd d => Sys2Proof.Machine.execMadd d s
  | .mruVote => Sys2Proof.Machine.execMruVote s
  | .obsPred => Sys2Proof.Machine.execObsPred s
  | .refIn slot => Sys2Proof.Machine.execRefIn slot s
  | .refTest slot => Sys2Proof.Machine.execRefTest slot s
  | .hdgVote => Sys2Proof.Machine.execHdgVote s
  | .refVote => Sys2Proof.Machine.execRefVote s
  | .obsDrExpired heading => Sys2Proof.Machine.execObsDrExpired heading s
  | .obsUpd slot => Sys2Proof.Machine.execObsUpd slot s
  | .obsOut => Sys2Proof.Machine.execObsOut s
  | .wind => Sys2Proof.Machine.execWind s
  | .windHoldEnd => Sys2Proof.Machine.execWindHoldEnd s
  | .pvtSolve => Sys2Proof.Machine.execPvtSolve s
  | .pvtOut => Sys2Proof.Machine.execPvtOut s
  | .hdgSolve => Sys2Proof.Machine.execHdgSolve s
  | .acqCtl mode => Sys2Proof.Machine.execAcqCtl mode s
  | .acqSnap => Sys2Proof.Machine.execAcqSnap s
  | .trkSnap ch => Sys2Proof.Machine.execTrkSnap ch s
  | .epoch => Sys2Proof.Machine.execEpoch s
  | .aiding sig => Sys2Proof.Machine.execAiding sig s
  | .rtcmIn sig => Sys2Proof.Machine.execRtcmIn sig s
  | .cchClock sig => Sys2Proof.Machine.execCchClock sig s
  | .navOpComplete done => Sys2Proof.Machine.execNavOpComplete done s
  | .navBootstrapEpoch samples => Sys2Proof.Machine.execNavBootstrapEpoch samples s
  | .acqPassEnd iq0 iq1 iq2 iq3 => Sys2Proof.Machine.execAcqPassEnd iq0 iq1 iq2 iq3 s
  | .aidedDwellEnd chan ant1 ant2 => Sys2Proof.Machine.execAidedDwellEnd chan ant1 ant2 s
  | .trkPllLock samples => Sys2Proof.Machine.execTrkPllLock samples s
  | .acqVerifyTimeout chan => Sys2Proof.Machine.execAcqVerifyTimeout chan s
  | .bitSync at_ => Sys2Proof.Machine.execBitSync at_ s
  | .frameSync chan tx => Sys2Proof.Machine.execFrameSync chan tx s
  | .navLockLost samples => Sys2Proof.Machine.execNavLockLost samples s
  | .reacqTimeout chan => Sys2Proof.Machine.execReacqTimeout chan s
  | .sidePeakMove samples => Sys2Proof.Machine.execSidePeakMove samples s
  | .navMsgDecoded chan symbols type msg => Sys2Proof.Machine.execNavMsgDecoded chan symbols type msg s
  | .navExclude mbx con prn => Sys2Proof.Machine.execNavExclude mbx con prn s
  | .navInclude mbx con prn => Sys2Proof.Machine.execNavInclude mbx con prn s
  | .fsaBuild tpl entry => Sys2Proof.Machine.execFsaBuild tpl entry s
  | .farFact tpl col => Sys2Proof.Machine.execFarFact tpl col s
  | .farStart tpl => Sys2Proof.Machine.execFarStart tpl s
  | .farIter tpl count => Sys2Proof.Machine.execFarIter tpl count s
  | .farEnd tpl => Sys2Proof.Machine.execFarEnd tpl s
  | .qpsCaptureArm mbx tpl => Sys2Proof.Machine.execQpsCaptureArm mbx tpl s
  | .qpsCaptureDisarm mbx tpl => Sys2Proof.Machine.execQpsCaptureDisarm mbx tpl s
  | .modeStep => Sys2Proof.Machine.execModeStep s
  | .armTimeout => Sys2Proof.Machine.execArmTimeout s
  | .modeReqArm mbx mode => Sys2Proof.Machine.execModeReqArm mbx mode s
  | .modeReqSwitch mbx mode => Sys2Proof.Machine.execModeReqSwitch mbx mode s
  | .modeReqDisarm mbx mode => Sys2Proof.Machine.execModeReqDisarm mbx mode s
  | .modeReqDirect mbx mode => Sys2Proof.Machine.execModeReqDirect mbx mode s
  | .seatFeed seat => Sys2Proof.Machine.execSeatFeed seat s
  | .seatTake seat => Sys2Proof.Machine.execSeatTake seat s
  | .tauMix => Sys2Proof.Machine.execTauMix s
  | .pwrShare => Sys2Proof.Machine.execPwrShare s
  | .flr => Sys2Proof.Machine.execFlr s
  | .flrRelease => Sys2Proof.Machine.execFlrRelease s
  | .allocOut => Sys2Proof.Machine.execAllocOut s
  | .allocLost => Sys2Proof.Machine.execAllocLost s
  | .caPrep group => Sys2Proof.Machine.execCaPrep group s
  | .caEval group => Sys2Proof.Machine.execCaEval group s
  | .simStep => Sys2Proof.Machine.execSimStep s
  | .lceStep ctx => Sys2Proof.Machine.execLceStep ctx s
  | .lceMode mbx ctx mode mvSet uman => Sys2Proof.Machine.execLceMode mbx ctx mode mvSet uman s
  | .lceBank mbx ctx bank => Sys2Proof.Machine.execLceBank mbx ctx bank s
  | .lceTestStart mbx ctx t => Sys2Proof.Machine.execLceTestStart mbx ctx t s
  | .lceTestStop mbx ctx => Sys2Proof.Machine.execLceTestStop mbx ctx s
  | .lceInjEnd => Sys2Proof.Machine.execLceInjEnd s
  | .lceCaptureArm mbx ctx dec => Sys2Proof.Machine.execLceCaptureArm mbx ctx dec s
  | .lceCaptureDisarm mbx ctx => Sys2Proof.Machine.execLceCaptureDisarm mbx ctx s
  | .lceCapturePage mbx ctx page => Sys2Proof.Machine.execLceCapturePage mbx ctx page s
  | .fceRestart chan => Sys2Proof.Machine.execFceRestart chan s
  | .fceStart mask => Sys2Proof.Machine.execFceStart mask s
  | .modulatorSelectApply chan before => Sys2Proof.Machine.execModulatorSelectApply chan before s
  | .fceCicOutput chan bits split ago => Sys2Proof.Machine.execFceCicOutput chan bits split ago s
  | .anvSel chan sel => Sys2Proof.Machine.execAnvSel chan sel s
  | .qdcZero dec => Sys2Proof.Machine.execQdcZero dec s
  | .qdcZeroApply dec => Sys2Proof.Machine.execQdcZeroApply dec s
  | .qdcTransition dec dir gap => Sys2Proof.Machine.execQdcTransition dec dir gap s
  | .lpoSet chan => Sys2Proof.Machine.execLpoSet chan s
  | .lpoCodeApply chan => Sys2Proof.Machine.execLpoCodeApply chan s
  | .lpoLatchStrobe mask => Sys2Proof.Machine.execLpoLatchStrobe mask s
  | .lpoCheck chan => Sys2Proof.Machine.execLpoCheck chan s
  | .lpoRbsel chan sel => Sys2Proof.Machine.execLpoRbsel chan sel s
  | .lpiSel chan sel => Sys2Proof.Machine.execLpiSel chan sel s
  | .lpiCheck chan => Sys2Proof.Machine.execLpiCheck chan s
  | .loopClear mbx chan => Sys2Proof.Machine.execLoopClear mbx chan s
  | .hartReq txn => Sys2Proof.Machine.execHartReq txn s
  | .hartRequestSend port => Sys2Proof.Machine.execHartRequestSend port s
  | .hartFrameReceived port frame => Sys2Proof.Machine.execHartFrameReceived port frame s
  | .hartStoExpiry port => Sys2Proof.Machine.execHartStoExpiry port s
  | .hartPass mbx port addr cmd long data => Sys2Proof.Machine.execHartPass mbx port addr cmd long data s
  | .pswTx => Sys2Proof.Machine.execPswTx s
  | .ringFrameReceived port frame fwd localWait => Sys2Proof.Machine.execRingFrameReceived port frame fwd localWait s
  | .barkTx => Sys2Proof.Machine.execBarkTx s
  | .roleStep => Sys2Proof.Machine.execRoleStep s
  | .leaseExpired => Sys2Proof.Machine.execLeaseExpired s
  | .collarClaimWindowEnd => Sys2Proof.Machine.execCollarClaimWindowEnd s
  | .eqSnap item index => Sys2Proof.Machine.execEqSnap item index s
  | .eqLost => Sys2Proof.Machine.execEqLost s
  | .leashUp link => Sys2Proof.Machine.execLeashUp link s
  | .leashDown link aligned errs => Sys2Proof.Machine.execLeashDown link aligned errs s
  | .leashBarkReceived link ok bark => Sys2Proof.Machine.execLeashBarkReceived link ok bark s
  | .leashEqReceived link ok item => Sys2Proof.Machine.execLeashEqReceived link ok item s
  | .leashCmdReceived link ok cmd => Sys2Proof.Machine.execLeashCmdReceived link ok cmd s
  | .ilkInEdge => Sys2Proof.Machine.execIlkInEdge s
  | .ilkClaimLapse => Sys2Proof.Machine.execIlkClaimLapse s
  | .roleSwap mbx => Sys2Proof.Machine.execRoleSwap mbx s
  | .packDuplex mbx unit => Sys2Proof.Machine.execPackDuplex mbx unit s
  | .partnerReset mbx link => Sys2Proof.Machine.execPartnerReset mbx link s
  | .ptcRead => Sys2Proof.Machine.execPtcRead s
  | .ptpSyncReceived port seq twoStep t1 => Sys2Proof.Machine.execPtpSyncReceived port seq twoStep t1 s
  | .ptpFollowUpReceived port seq t1 => Sys2Proof.Machine.execPtpFollowUpReceived port seq t1 s
  | .ptpAnnounceReceived port ann => Sys2Proof.Machine.execPtpAnnounceReceived port ann s
  | .ptpPdelayReqReceived port seq => Sys2Proof.Machine.execPtpPdelayReqReceived port seq s
  | .ptpDelayResponseReceived port seq rx tx => Sys2Proof.Machine.execPtpDelayResponseReceived port seq rx tx s
  | .ptpMessageTimer port timer => Sys2Proof.Machine.execPtpMessageTimer port timer s
  | .ptpSourceTimeout src => Sys2Proof.Machine.execPtpSourceTimeout src s
  | .timeHoldoverEntry => Sys2Proof.Machine.execTimeHoldoverEntry s
  | .sourceHoldExpired src => Sys2Proof.Machine.execSourceHoldExpired src s
  | .refClkLost => Sys2Proof.Machine.execRefClkLost s
  | .refClkBack => Sys2Proof.Machine.execRefClkBack s
  | .ppsOutRise => Sys2Proof.Machine.execPpsOutRise s
  | .ppsOutFall => Sys2Proof.Machine.execPpsOutFall s
  | .ppsInEdge input => Sys2Proof.Machine.execPpsInEdge input s
  | .ppsInMiss input => Sys2Proof.Machine.execPpsInMiss input s
  | .ttuArm ent => Sys2Proof.Machine.execTtuArm ent s
  | .ttuStop ent => Sys2Proof.Machine.execTtuStop ent s
  | .ttuProgramArrival ent => Sys2Proof.Machine.execTtuProgramArrival ent s
  | .ttuFire ent => Sys2Proof.Machine.execTtuFire ent s
  | .calendarLoad => Sys2Proof.Machine.execCalendarLoad s
  | .timeSet mbx secs utc => Sys2Proof.Machine.execTimeSet mbx secs utc s
  | .canTx ctl obj => Sys2Proof.Machine.execCanTx ctl obj s
  | .canTxArrival ctl begins => Sys2Proof.Machine.execCanTxArrival ctl begins s
  | .canFrameSent ctl begins => Sys2Proof.Machine.execCanFrameSent ctl begins s
  | .canAttemptEnd ctl err more begins => Sys2Proof.Machine.execCanAttemptEnd ctl err more begins s
  | .canCancel ctl obj => Sys2Proof.Machine.execCanCancel ctl obj s
  | .canCancelArrival ctl => Sys2Proof.Machine.execCanCancelArrival ctl s
  | .canBusoffRecovery ctl begins => Sys2Proof.Machine.execCanBusoffRecovery ctl begins s
  | .canFrameReceived ctl frame begins => Sys2Proof.Machine.execCanFrameReceived ctl frame begins s
  | .canView mbx ctl obj => Sys2Proof.Machine.execCanView mbx ctl obj s
  | .serTx port desc => Sys2Proof.Machine.execSerTx port desc s
  | .serTxArrival port => Sys2Proof.Machine.execSerTxArrival port s
  | .serTelegramReceived port bytes => Sys2Proof.Machine.execSerTelegramReceived port bytes s
  | .serChunkClose port bytes => Sys2Proof.Machine.execSerChunkClose port bytes s
  | .ethTx port desc => Sys2Proof.Machine.execEthTx port desc s
  | .ethFrameReceived port frame => Sys2Proof.Machine.execEthFrameReceived port frame s
  | .ethRawChunk port desc => Sys2Proof.Machine.execEthRawChunk port desc s
  | .ethLink port word => Sys2Proof.Machine.execEthLink port word s
  | .mepNonceQuery port mac => Sys2Proof.Machine.execMepNonceQuery port mac s
  | .mepRequest port frame => Sys2Proof.Machine.execMepRequest port frame s
  | .evmCheck slot => Sys2Proof.Machine.execEvmCheck slot s
  | .evtTokenRefill slot => Sys2Proof.Machine.execEvtTokenRefill slot s
  | .evtStickyClear m reg mask => Sys2Proof.Machine.execEvtStickyClear m reg mask s
  | .recRecordWrite => Sys2Proof.Machine.execRecRecordWrite s
  | .recCursorWrite m seq => Sys2Proof.Machine.execRecCursorWrite m seq s
  | .recLoadComplete m => Sys2Proof.Machine.execRecLoadComplete m s
  | .recWin7Read m => Sys2Proof.Machine.execRecWin7Read m s
  | .mbxLockRead m mbx => Sys2Proof.Machine.execMbxLockRead m mbx s
  | .mbxCtlPost m mbx => Sys2Proof.Machine.execMbxCtlPost m mbx s
  | .mbxCtlRelease m mbx => Sys2Proof.Machine.execMbxCtlRelease m mbx s
  | .mbxLockExpired mbx => Sys2Proof.Machine.execMbxLockExpired mbx s
  | .mbxServe mbx => Sys2Proof.Machine.execMbxServe mbx s
  | .mbxPost mbx tpl => Sys2Proof.Machine.execMbxPost mbx tpl s
  | .mbxCommandComplete mbx => Sys2Proof.Machine.execMbxCommandComplete mbx s
  | .standaloneServerLatch mbx => Sys2Proof.Machine.execStandaloneServerLatch mbx s
  | .force mbx sig val => Sys2Proof.Machine.execForce mbx sig val s
  | .signalRelease mbx sig => Sys2Proof.Machine.execSignalRelease mbx sig s
  | .funcDisable mbx eng inst => Sys2Proof.Machine.execFuncDisable mbx eng inst s
  | .funcEnable mbx eng inst => Sys2Proof.Machine.execFuncEnable mbx eng inst s
  | .hspRead addr n => Sys2Proof.Machine.execHspRead addr n s
  | .hspWrite addr n words crc => Sys2Proof.Machine.execHspWrite addr n words crc s
  | .hspStatus => Sys2Proof.Machine.execHspStatus s
  | .hspResetMaster byte => Sys2Proof.Machine.execHspResetMaster byte s
  | .ptcNsRead m => Sys2Proof.Machine.execPtcNsRead m s
  | .registerWrite m addr w => Sys2Proof.Machine.execRegisterWrite m addr w s
  | .tokenLoad mbx off len data => Sys2Proof.Machine.execTokenLoad mbx off len data s
  | .tokenApply mbx => Sys2Proof.Machine.execTokenApply mbx s
  | .tokenApplyDone => Sys2Proof.Machine.execTokenApplyDone s
  | .tokenClear mbx => Sys2Proof.Machine.execTokenClear mbx s
  | .lcTransition stuck => Sys2Proof.Machine.execLcTransition stuck s
  | .hold mbx => Sys2Proof.Machine.execHold mbx s
  | .holdRelease mbx => Sys2Proof.Machine.execHoldRelease mbx s
  | .sleep mbx mask gpio level secs => Sys2Proof.Machine.execSleep mbx mask gpio level secs s
  | .sleepWake cause => Sys2Proof.Machine.execSleepWake cause s
  | .wakeSyncEntry => Sys2Proof.Machine.execWakeSyncEntry s
  | .revokeDebug m => Sys2Proof.Machine.execRevokeDebug m s
  | .closeHostauth m => Sys2Proof.Machine.execCloseHostauth m s
  | .secRead => Sys2Proof.Machine.execSecRead s
  | .pwrRead => Sys2Proof.Machine.execPwrRead s
  | .dbgAttach req => Sys2Proof.Machine.execDbgAttach req s
  | .dbgAcc addr data write go => Sys2Proof.Machine.execDbgAcc addr data write go s
  | .dbgHalt => Sys2Proof.Machine.execDbgHalt s
  | .dbgResume => Sys2Proof.Machine.execDbgResume s
  | .dbgSwinWrite w => Sys2Proof.Machine.execDbgSwinWrite w s
  | .tapReset => Sys2Proof.Machine.execTapReset s
  | .extest => Sys2Proof.Machine.execExtest s
  | .clamp => Sys2Proof.Machine.execClamp s
  | .highz => Sys2Proof.Machine.execHighz s
  | .pwrDomainFault d => Sys2Proof.Machine.execPwrDomainFault d s
  | .brsRankStart => Sys2Proof.Machine.execBrsRankStart s
  | .brsRailEnable rail => Sys2Proof.Machine.execBrsRailEnable rail s
  | .brsPgGood rail => Sys2Proof.Machine.execBrsPgGood rail s
  | .brsPgTmo rail => Sys2Proof.Machine.execBrsPgTmo rail s
  | .brsPgLost rail => Sys2Proof.Machine.execBrsPgLost rail s
  | .brsPgBack rail => Sys2Proof.Machine.execBrsPgBack rail s
  | .brsRailcmd m w => Sys2Proof.Machine.execBrsRailcmd m w s
  | .pmbPoll reads => Sys2Proof.Machine.execPmbPoll reads s
  | .tjSample temp => Sys2Proof.Machine.execTjSample temp s
  | .gpioSet sig bank => Sys2Proof.Machine.execGpioSet sig bank s
  | .gpioLevelChange bank levels => Sys2Proof.Machine.execGpioLevelChange bank levels s
  | .chartErase mbx target => Sys2Proof.Machine.execChartErase mbx target s
  | .chartWrite mbx target off len data => Sys2Proof.Machine.execChartWrite mbx target off len data s
  | .chartCommit mbx target => Sys2Proof.Machine.execChartCommit mbx target s
  | .chartStatus mbx target => Sys2Proof.Machine.execChartStatus mbx target s
  | .reanchor mbx slot => Sys2Proof.Machine.execReanchor mbx slot s
  | .serCharacterError port err bytes => Sys2Proof.Machine.execSerCharacterError port err bytes s
  | .serTelegramSent port => Sys2Proof.Machine.execSerTelegramSent port s
  | .canRxError ctl more begins => Sys2Proof.Machine.execCanRxError ctl more begins s
  | .canIntegrationComplete ctl begins => Sys2Proof.Machine.execCanIntegrationComplete ctl begins s
  | .hspFrameError addr => Sys2Proof.Machine.execHspFrameError addr s
  | .hartCarrierDetect port on => Sys2Proof.Machine.execHartCarrierDetect port on s

end Sys2Proof.Machine
end

