-- ==== Sys2Proof/Decode.lean ====
section
/-! DEFINITION. Sys2Proof/Decode.lean: the operation words of SEQP bundles (R38, R41, R42, R567; Tables 1-8, 1-9 and the operation tables of the
engines' chapters), as commands, and back. The table of commands itself gives its rows no bits. -/

namespace Sys2Proof

/-- A word that spells a command by the bits of the command table: no row of it has any. -/
def decodeTableWord (_nbits _w : Nat) : Option Instr := none

/-- ENG, OPC and OPND of an operation word (R38). -/
def wordEng (w : Nat) : Nat := w / 2 ^ 26
def wordOpc (w : Nat) : Nat := w / 2 ^ 20 % 64
def wordOpnd (w : Nat) : Nat := w % 2 ^ 20

/-- An operand of n bits; a set bit beyond them is a reserved operand bit (R567), and no operation. -/
def operand (n d : Nat) (f : Nat → Instr) : Option Instr := if d < 2 ^ n then some (f d) else none

/-- SEQ (Table 1-9). -/
def decSeq (opc d : Nat) : Option Instr := match opc with
  | 1 => operand 20 d (fun d => .mark (.ofNat 20 d))
  | 2 => operand 5 d (fun d => .pwake (.ofNat 5 d))
  | 3 => operand 5 d (fun d => .pgate (.ofNat 5 d))
  | _ => none

/-- SDIR (Table 2-8). -/
def decSdir (opc d : Nat) : Option Instr := match opc with
  | 1 => operand 10 d (fun d => .pub (.ofNat 8 (d % 256)) (.ofNat 2 (d / 256)))
  | 2 => operand 18 d (fun d => .subst (.ofNat 17 (d % 2 ^ 17)) (d / 2 ^ 17 % 2 == 1))
  | 3 => operand 8 d (fun d => .curve (.ofNat 8 d))
  | _ => none

/-- VMU (Table 4-11, Table 5-9). -/
def decVmu (opc d : Nat) : Option Instr := match opc with
  | 0x01 => operand 10 d (fun d => .mmul (.ofNat 10 d))
  | 0x02 => operand 10 d (fun d => .madd (.ofNat 10 d))
  | 0x08 => operand 0 d (fun _ => .mruVote)
  | 0x09 => operand 0 d (fun _ => .obsPred)
  | 0x0A => operand 5 d (fun d => .refIn (.ofNat 5 d))
  | 0x0B => operand 5 d (fun d => .refTest (.ofNat 5 d))
  | 0x0C => operand 0 d (fun _ => .hdgVote)
  | 0x0D => operand 0 d (fun _ => .refVote)
  | 0x0E => operand 5 d (fun d => .obsUpd (.ofNat 5 d))
  | 0x0F => operand 0 d (fun _ => .obsOut)
  | 0x10 => operand 0 d (fun _ => .wind)
  | 0x20 => operand 0 d (fun _ => .pvtSolve)
  | 0x21 => operand 0 d (fun _ => .pvtOut)
  | 0x22 => operand 0 d (fun _ => .hdgSolve)
  | _ => none

/-- FSA and FAR (Table 6-5): the template stands in [3:0]. -/
def decQps (eng opc d : Nat) : Option Instr := match eng, opc with
  | 4, 1 => operand 16 d (fun d => .fsaBuild (.ofNat 4 (d % 16)) (.ofNat 12 (d / 16)))
  | 5, 1 => operand 13 d (fun d => .farFact (.ofNat 4 (d % 16)) (.ofNat 9 (d / 16)))
  | 5, 2 => operand 4 d (fun d => .farStart (.ofNat 4 d))
  | 5, 3 => operand 12 d (fun d => .farIter (.ofNat 4 (d % 16)) (.ofNat 8 (d / 16)))
  | 5, 4 => operand 4 d (fun d => .farEnd (.ofNat 4 d))
  | _, _ => none

/-- LCE (Tables 7-1 and 8-1). -/
def decLce (opc d : Nat) : Option Instr := match opc with
  | 0x01 => operand 8 d (fun d => .lceStep (.ofNat 8 d))
  | 0x30 => operand 0 d (fun _ => .modeStep)
  | 0x31 => operand 1 d (fun d => .seatFeed (.ofNat 1 d))
  | 0x32 => operand 1 d (fun d => .seatTake (.ofNat 1 d))
  | 0x33 => operand 0 d (fun _ => .tauMix)
  | 0x34 => operand 0 d (fun _ => .pwrShare)
  | 0x35 => operand 0 d (fun _ => .flr)
  | 0x36 => operand 0 d (fun _ => .allocOut)
  | 0x37 => operand 3 d (fun d => .caPrep (.ofNat 3 d))
  | 0x38 => operand 3 d (fun d => .caEval (.ofNat 3 d))
  | 0x39 => operand 0 d (fun _ => .simStep)
  | _ => none

/-- The navigation baseband (Table 5-2). -/
def decNav (eng opc d : Nat) : Option Instr := match eng, opc with
  | 0x08, 1 => operand 2 d (fun d => .acqCtl (.ofNat 2 d))
  | 0x08, 2 => operand 0 d (fun _ => .acqSnap)
  | 0x09, 1 => operand 8 d (fun d => .trkSnap (.ofNat 8 d))
  | 0x0A, 1 => operand 0 d (fun _ => .epoch)
  | 0x0A, 2 => operand 17 d (fun d => .aiding (.ofNat 17 d))
  | 0x0A, 3 => operand 17 d (fun d => .rtcmIn (.ofNat 17 d))
  | 0x0B, 1 => operand 17 d (fun d => .cchClock (.ofNat 17 d))
  | _, _ => none

/-- Converters, loops and HART (Tables 9-5 and 10-2). -/
def decLoop (eng opc d : Nat) : Option Instr := match eng, opc with
  | 0x07, 1 => operand 6 d (fun d => .fceRestart (.ofNat 6 d))
  | 0x28, 1 => operand 4 d (fun d => .lpoSet (.ofNat 4 d))
  | 0x28, 2 => operand 4 d (fun d => .lpoCheck (.ofNat 4 d))
  | 0x28, 3 => operand 6 d (fun d => .lpoRbsel (.ofNat 4 (d % 16)) (.ofNat 2 (d / 16)))
  | 0x29, 1 => operand 7 d (fun d => .lpiSel (.ofNat 5 (d % 32)) (.ofNat 2 (d / 32)))
  | 0x29, 2 => operand 5 d (fun d => .lpiCheck (.ofNat 5 d))
  | 0x29, 3 => operand 9 d (fun d => .hartReq (.ofNat 9 d))
  | 0x2A, 1 => operand 5 d (fun d => .anvSel (.ofNat 3 (d % 8)) (.ofNat 2 (d / 8)))
  | 0x2A, 2 => operand 4 d (fun d => .qdcZero (.ofNat 4 d))
  | _, _ => none

/-- The time base and the pack (Tables 11-13 and 12-7). -/
def decPack (eng opc d : Nat) : Option Instr := match eng, opc with
  | 0x0C, 1 => operand 0 d (fun _ => .ptcRead)
  | 0x0D, 1 => operand 6 d (fun d => .ttuArm (.ofNat 6 d))
  | 0x0D, 2 => operand 6 d (fun d => .ttuStop (.ofNat 6 d))
  | 0x0E, 1 => operand 0 d (fun _ => .pswTx)
  | 0x0F, 1 => operand 0 d (fun _ => .barkTx)
  | 0x0F, 2 => operand 0 d (fun _ => .roleStep)
  | 0x0F, 3 => operand 12 d (fun d => .eqSnap (.ofNat 4 (d % 16)) (.ofNat 8 (d / 16)))
  | _, _ => none

/-- The field ports (Table 13-5). The controller or the port is that of the engine. -/
def decPort (eng opc d : Nat) : Option Instr :=
  if h : 0x10 ≤ eng ∧ eng < 0x18 then
    match opc with
    | 1 => operand 7 d (fun d => .canTx ⟨eng - 0x10, by omega⟩ (.ofNat 7 d))
    | 2 => operand 7 d (fun d => .canCancel ⟨eng - 0x10, by omega⟩ (.ofNat 7 d))
    | _ => none
  else if h : 0x18 ≤ eng ∧ eng < 0x24 then
    match opc with
    | 1 => operand 6 d (fun d => .serTx ⟨eng - 0x18, by omega⟩ (.ofNat 6 d))
    | _ => none
  else if h : 0x24 ≤ eng ∧ eng < 0x28 then
    match opc with
    | 1 => operand 6 d (fun d => .ethTx ⟨eng - 0x24, by omega⟩ (.ofNat 6 d))
    | _ => none
  else none

/-- Events, mailboxes, the SEC and PWR reads, GPIO (Tables 14-9, 15-13 and 16-13). -/
def decSys (eng opc d : Nat) : Option Instr := match eng, opc with
  | 0x2B, 1 => operand 18 d (fun d => .gpioSet (.ofNat 17 (d % 2 ^ 17)) (d / 2 ^ 17 % 2 == 1))
  | 0x2C, 1 => operand 8 d (fun d => .evmCheck (.ofNat 8 d))
  | 0x2E, 1 => operand 4 d (fun d => .mbxServe (.ofNat 4 d))
  | 0x2E, 2 => operand 12 d (fun d => .mbxPost (.ofNat 4 (d % 16)) (.ofNat 8 (d / 16)))
  | 0x2F, 1 => operand 0 d (fun _ => .secRead)
  | 0x30, 1 => operand 0 d (fun _ => .pwrRead)
  | _, _ => none

/-- The operation of a word; none for an undefined engine or opcode, or a reserved operand bit. Opcode 0 is NOP on every engine but the
LBU, whose opcode 0 is LAND. -/
def decodeOp (w : Nat) : Option Instr :=
  let eng := wordEng w
  let opc := wordOpc w
  let d := wordOpnd w
  if eng = 1 then (if opc = 0 then operand 10 d (fun d => .land (.ofNat 10 d)) else none)
  else if opc = 0 then (if eng ≤ 0x30 then operand 0 d (fun _ => .nop (.ofNat 6 eng)) else none)
  else if eng = 0 then decSeq opc d
  else if eng = 2 then decSdir opc d
  else if eng = 3 then decVmu opc d
  else if eng = 4 ∨ eng = 5 then decQps eng opc d
  else if eng = 6 then decLce opc d
  else if 8 ≤ eng ∧ eng ≤ 0x0B then decNav eng opc d
  else if 0x0C ≤ eng ∧ eng ≤ 0x0F then decPack eng opc d
  else if 0x10 ≤ eng ∧ eng < 0x28 then decPort eng opc d
  else if eng = 7 ∨ (0x28 ≤ eng ∧ eng ≤ 0x2A) then decLoop eng opc d
  else decSys eng opc d

/-- An operation word from its fields. -/
def opFields (eng opc d : Nat) : Nat := eng * 2 ^ 26 + opc * 2 ^ 20 + d

/-- The word of a scheduled operation; none for a command that no bundle can hold. A NOP names an engine that has one. -/
def encodeOp : Instr → Option Nat
  | .nop eng => if eng.toNat ≤ 0x30 ∧ eng.toNat ≠ 1 then some (opFields eng.toNat 0 0) else none
  | .mark t => some (opFields 0 1 t.toNat)
  | .pwake m => some (opFields 0 2 m.toNat)
  | .pgate m => some (opFields 0 3 m.toNat)
  | .land n => some (opFields 1 0 n.toNat)
  | .pub g p => some (opFields 2 1 (g.toNat + 256 * p.toNat))
  | .subst i z => some (opFields 2 2 (i.toNat + 2 ^ 17 * b2n z))
  | .curve n => some (opFields 2 3 n.toNat)
  | .mmul d => some (opFields 3 0x01 d.toNat)
  | .madd d => some (opFields 3 0x02 d.toNat)
  | .mruVote => some (opFields 3 0x08 0)
  | .obsPred => some (opFields 3 0x09 0)
  | .refIn n => some (opFields 3 0x0A n.toNat)
  | .refTest n => some (opFields 3 0x0B n.toNat)
  | .hdgVote => some (opFields 3 0x0C 0)
  | .refVote => some (opFields 3 0x0D 0)
  | .obsUpd n => some (opFields 3 0x0E n.toNat)
  | .obsOut => some (opFields 3 0x0F 0)
  | .wind => some (opFields 3 0x10 0)
  | .pvtSolve => some (opFields 3 0x20 0)
  | .pvtOut => some (opFields 3 0x21 0)
  | .hdgSolve => some (opFields 3 0x22 0)
  | .fsaBuild t e => some (opFields 4 1 (t.toNat + 16 * e.toNat))
  | .farFact t c => some (opFields 5 1 (t.toNat + 16 * c.toNat))
  | .farStart t => some (opFields 5 2 t.toNat)
  | .farIter t k => some (opFields 5 3 (t.toNat + 16 * k.toNat))
  | .farEnd t => some (opFields 5 4 t.toNat)
  | .lceStep c => some (opFields 6 0x01 c.toNat)
  | .modeStep => some (opFields 6 0x30 0)
  | .seatFeed n => some (opFields 6 0x31 n.toNat)
  | .seatTake n => some (opFields 6 0x32 n.toNat)
  | .tauMix => some (opFields 6 0x33 0)
  | .pwrShare => some (opFields 6 0x34 0)
  | .flr => some (opFields 6 0x35 0)
  | .allocOut => some (opFields 6 0x36 0)
  | .caPrep g => some (opFields 6 0x37 g.toNat)
  | .caEval g => some (opFields 6 0x38 g.toNat)
  | .simStep => some (opFields 6 0x39 0)
  | .fceRestart c => some (opFields 7 1 c.toNat)
  | .acqCtl m => some (opFields 0x08 1 m.toNat)
  | .acqSnap => some (opFields 0x08 2 0)
  | .trkSnap c => some (opFields 0x09 1 c.toNat)
  | .epoch => some (opFields 0x0A 1 0)
  | .aiding i => some (opFields 0x0A 2 i.toNat)
  | .rtcmIn i => some (opFields 0x0A 3 i.toNat)
  | .cchClock i => some (opFields 0x0B 1 i.toNat)
  | .ptcRead => some (opFields 0x0C 1 0)
  | .ttuArm e => some (opFields 0x0D 1 e.toNat)
  | .ttuStop e => some (opFields 0x0D 2 e.toNat)
  | .pswTx => some (opFields 0x0E 1 0)
  | .barkTx => some (opFields 0x0F 1 0)
  | .roleStep => some (opFields 0x0F 2 0)
  | .eqSnap i x => some (opFields 0x0F 3 (i.toNat + 16 * x.toNat))
  | .canTx c o => some (opFields (0x10 + c.val) 1 o.toNat)
  | .canCancel c o => some (opFields (0x10 + c.val) 2 o.toNat)
  | .serTx p d => some (opFields (0x18 + p.val) 1 d.toNat)
  | .ethTx p d => some (opFields (0x24 + p.val) 1 d.toNat)
  | .lpoSet c => some (opFields 0x28 1 c.toNat)
  | .lpoCheck c => some (opFields 0x28 2 c.toNat)
  | .lpoRbsel c x => some (opFields 0x28 3 (c.toNat + 16 * x.toNat))
  | .lpiSel c x => some (opFields 0x29 1 (c.toNat + 32 * x.toNat))
  | .lpiCheck c => some (opFields 0x29 2 c.toNat)
  | .hartReq t => some (opFields 0x29 3 t.toNat)
  | .anvSel c x => some (opFields 0x2A 1 (c.toNat + 8 * x.toNat))
  | .qdcZero d => some (opFields 0x2A 2 d.toNat)
  | .gpioSet i b => some (opFields 0x2B 1 (i.toNat + 2 ^ 17 * b2n b))
  | .evmCheck n => some (opFields 0x2C 1 n.toNat)
  | .mbxServe n => some (opFields 0x2E 1 n.toNat)
  | .mbxPost n t => some (opFields 0x2E 2 (n.toNat + 16 * t.toNat))
  | .secRead => some (opFields 0x2F 1 0)
  | .pwrRead => some (opFields 0x30 1 0)
  | _ => none

end Sys2Proof
end

