-- ==== Sys2Proof/Machine/Cck.lean ====
section
/-! DEFINITION. Sys2Proof/Machine/Cck.lean: the sequencer's walk through the list of a frame, lane by lane, and the contract checker's judgement of
every operation it issues: issue ports, the slack zone, pending writes (R38, R39, R55, R56; Table 1-13). -/

namespace Sys2Proof.Machine

/-- What the tables publish of an operation word as it issues now: the latency of a FAR_FACT counts from the column its factor has
reached, that of a PSW_TX from the assembly it sends (R211, R351). -/
def liveInfo (s : State) (w : Nat) : Option OpInfo :=
  (opInfo s (opEng w) (opOpc w) (opOpnd w)).map (fun o =>
    let l := if opEng w = 5 ∧ opOpc w = 1 then factLat s (opOpnd w % 16) (qTpl s (opOpnd w % 16)).c1 (opOpnd w / 16 % 512 + 1)
      else if opEng w = 0x0E ∧ opOpc w = 1 then 4 + (packBytes (s.pack.psw.asm.map (fun r => r.words.length)) + 15) / 16
      else o.lat
    if opEng w = 5 ∧ opOpc w = 1 ∨ opEng w = 0x0E ∧ opOpc w = 1 then { o with lat := l, gap := l } else o)

/-- The pending-write records of the present cycle: those of finished operations are gone. -/
def settleCck (s : State) : State :=
  { s with
    cck := { s.cck with
      writes := s.cck.writes.filter (fun w => decide (s.cclk ≤ w.till))
      regions := s.cck.regions.filter (fun r => decide (s.cclk ≤ r.2)) }
    flight := s.flight.filter (fun w => decide (s.cclk ≤ w.till)) }

/-- Does a run of signals meet a pending write? -/
def pendMeets (s : State) (r : Run) : Bool := s.cck.writes.any (fun w => runsMeet (w.first, w.old.length) r)
def pendRegion (s : State) (r : Nat) : Bool := s.cck.regions.any (fun p => p.1 == r)

/-- The breach that an operation makes as it issues, if any, in the order of Table 1-13: a port still occupied, an issue in the slack
zone, a read of a pending write, a second write. A gated domain and an operand outside its table are judged by the operation. -/
def issueBreach (s : State) (w : Nat) (o : OpInfo) : Option Nat :=
  if s.cclk < (tget (0, 0) s.cck.busy (opEng w)).1 then some 0x0101
  else if s.hdr.f ≤ s.seq.tick + 64 then some 0x0103
  else if o.reads.any (pendMeets s) || o.regR.any (pendRegion s) then some 0x0104
  else if o.writes.any (pendMeets s) || o.regW.any (pendRegion s) then some 0x0105
  else none

/-- What stands in a table region; a landing buffer, a trigger entry and a modulator are written by their FIFOs (R56). -/
def pieceOf (s : State) (r : Nat) : Option Piece :=
  let i := r % 1024
  match r / 1024 with
  | 3 => some (.obs s.obs)
  | 4 => some (.tpl (i % 16) (qTpl s (i % 16)))
  | 6 => some (if i = 512 then .modes s.modes else .bytes (recAddr s i) (memBytes 0 s.sram (recAddr s i) 64))
  | 9 => some (.nav s.nav)
  | 0x0E => some (.asm s.pack.psw.asm)
  | _ => none

/-- The records that an issued operation leaves. -/
def bookOp (w : Nat) (o : OpInfo) (s : State) : State :=
  let till := s.cclk + o.lat - 1
  { s with
    cck := { s.cck with
      busy := tset (0, 0) s.cck.busy (opEng w) (s.cclk + o.gap, max till (tget (0, 0) s.cck.busy (opEng w)).2)
      writes := s.cck.writes ++ o.writes.map (fun r => { first := r.1, old := (List.range r.2).map (fun i => ent s (r.1 + i)), till := till })
      regions := s.cck.regions ++ o.regW.map (fun r => (r, till)) }
    flight := s.flight ++ (o.regW.filterMap (pieceOf s)).map (fun x => { till := till, piece := x }) }

/-- The part of its engine that an operation word works for, where parts of that engine are functions of their own (R291, R315, R328, R413). -/
def opInst (s : State) (w : Nat) : Nat :=
  let d := opOpnd w
  match opEng w with
  | 6 => if opOpc w = 1 then cxGrp s (d % 256) else 0
  | 7 | 0x0D => d % 64
  | 0x28 => d % 16
  | 0x29 => if opOpc w = 3 then 64 else d % 32
  | _ => 0

/-- Is the operation suppressed, so that the checker takes it as NOP (R51, R515)? Its function is disabled, or the schedule is halted. -/
def suppressed (s : State) (w : Nat) : Bool :=
  isDisabled s (opEng w) (opInst s w) || (opEng w == 0x29 && opOpc w == 3 && hartOff s (txPort s (opOpnd w % 512))) || halted s

/-- The next lane of the bundle that is open: its operation issues, unless it breaches the contract. -/
def issueLane (n : Nat) (s : State) : State :=
  let w := laneOp s s.seq.lastBund n
  match decodeOp w, liveInfo s w with
  | some i, some o =>
    let s := settleCck s
    if suppressed s w then { s with pending := [i] }
    else match issueBreach s w o with
      | some code => dropLane (breach code (w32 w) s)
      | none => { bookOp w o s with pending := [i] }
  | _, _ => dropLane s

/-- The bundle whose tick has come opens: its enabled lanes issue when it is selected (R39). -/
def openBundle (s : State) : State :=
  let b := s.seq.bundle
  let s := nextBundle s
  { s with seq := { s.seq with lanes := if bundleFor s s.seq.tag b then lanesOf s b else [] } }

/-- At tick F - 64 an engine that is still busy breaches the slack zone (R23, R55). The spec names no operation word for it: that word is
a free value. -/
def slackCheck (s : State) : State :=
  if (List.range 64).any (fun e => decide (s.cclk ≤ (tget (0, 0) s.cck.busy e).2)) then
    breach 0x0103 ((Config.freeWord s.draws).setWidth 32) { s with draws := s.draws + 1 }
  else s

end Sys2Proof.Machine
end

