-- ==== Sys2Proof/Machine/Tick.lean ====
section
/-! DEFINITION. Sys2Proof/Machine/Tick.lean: what the clock does when no command waits: the sequencer issues the operations of the frame's
list, an event of the device's own whose time has come joins the queue, and otherwise one CCLK cycle passes (R22 to R26, R38, R39, R90, R96,
R102, R104, R108, R477, R516, R518, R522). -/

namespace Sys2Proof.Machine

/-- The start-up event whose time has come. -/
def bootDue (s : State) : Option Instr :=
  match s.boot.dev with
  | .reset =>
    if s.boot.flushDone then none
    else if s.recd.staging.isEmpty || !s.recd.hasLog then some .recorderFlushEnd
    else if flushLate s then some .flushCutoff
    else none
  | .wipe => if s.boot.phaseAt + (if s.boot.firstWipe then 442368 else 440320) ≤ s.cclk then some (.zeroiserComplete none) else none
  | .verify => if s.boot.sealing ∧ s.boot.phaseAt + 20000 ≤ s.cclk then some .sealComplete else none
  | .sync =>
    if s.ptc.status = 0 then
      (if s.boot.syncTmo = false ∧ s.boot.phaseAt + 400000 * s.hdr.syncTmo ≤ s.cclk then some .syncTmo else none)
    else if s.seq.run = false ∧ cyclesToMerid s ≤ 2 then some .scheduleStart
    else none
  | .safeHold => if s.cck.breach ∧ s.cck.breachAt + 400000000 ≤ s.cclk then some .contractReset else none
  | .sleep =>
    match s.pwr.wakeAt with
    | some t => if t ≤ s.cclk then some .wakeSyncEntry else none
    | none => if wakes .time s then some (.sleepWake .time) else none
  | _ => none

/-- A domain whose wake is over. -/
def wakeOver (s : State) : Option Instr :=
  ([Domain.qps, .nav, .ana, .sec].find? (fun d => s.pwr.waking &&& domMask d != 0 && decide (tget 0 s.pwr.wakeDue (domBit d) ≤ s.cclk))).map Instr.domainWakeComplete

/-- A mailbox whose command completes, is examined by the standalone server, or whose lock expires (R475, R476, R482). -/
def mbxOver (s : State) : Option Instr :=
  match (List.range 16).find? (handlerOver s), (List.range 16).find? (serverOver s), (List.range 16).find? (lockOver s) with
  | some n, _, _ => some (.mbxCommandComplete (BitVec.ofNat 4 n))
  | none, some n, _ => some (.standaloneServerLatch (BitVec.ofNat 4 n))
  | none, none, some n => some (.mbxLockExpired (BitVec.ofNat 4 n))
  | none, none, none => none

/-- What the recorder and the event matrix do of their own (R460, R469, R471). -/
def recOver (s : State) : Option Instr :=
  if writeOver s then some .recRecordWrite
  else if loadOver s .hsp then some (.recLoadComplete .hsp)
  else if loadOver s .mep then some (.recLoadComplete .mep)
  else s.evm.slots.findSome? (fun kv => if kv.2.used != 0 && refillDue s kv.1 then some (.evtTokenRefill (BitVec.ofNat 8 kv.1)) else none)

/-- What has stood in a FIFO out of CCLK for the greatest time of its crossing, and so arrives (R46, Table 1-11). Whether a bus is free is not the
FIFO's: a frame begins with its own command. -/
def crossOver (s : State) : Option Instr :=
  let ttu := (List.range 64).filterMap (fun n => if headDue s ttuCross (ttuEnt s n).fifo then some (Instr.ttuProgramArrival (BitVec.ofNat 6 n)) else none)
  let ana := !domGated s .ana
  let lpo := (List.range 16).filterMap (fun n => if ana && headDue s aclkCross (lpoOf s n).fifo then some (Instr.lpoCodeApply (BitVec.ofNat 4 n)) else none)
  let can := (List.finRange 8).filterMap (fun c => if headDue s canCross (canOf s c.val).fifo then
    (match (canOf s c.val).fifo with
      | ⟨_, .cancel _⟩ :: _ => some (Instr.canCancelArrival c)
      | _ => some (Instr.canTxArrival c false)) else none)
  let ser := (List.finRange 12).filterMap (fun p => if headDue s (serCross s p.val) (serOf s p.val).fifo then some (Instr.serTxArrival p) else none)
  let sel := (s.fce.selFifo.filter (fun p => ana && mustArrive s aclkCross p)).filterMap (fun p => if h : p.item.1 < 48 then some (Instr.modulatorSelectApply ⟨p.item.1, h⟩ 0) else none)
  let zero := (s.fce.zeroFifo.filter (mustArrive s aclkCross)).map (fun p => Instr.qdcZeroApply (BitVec.ofNat 4 p.item))
  let conv := (s.ttu.conv.filter (mustArrive s aclkCross)).map (fun p => Instr.fceStart p.item)
  let latch := (s.ttu.latch.filter (fun p => ana && mustArrive s aclkCross p)).map (fun p => Instr.lpoLatchStrobe p.item)
  (ttu ++ lpo ++ can ++ ser ++ sel ++ zero ++ conv ++ latch).head?

/-- A NAV operation that completes, or a channel whose time in PULL-IN or REACQ is over (R163, R172, R176). -/
def navOver (s : State) : Option Instr :=
  match navDue s with
  | some d => some (.navOpComplete d)
  | none => s.nav.chans.findSome? (fun kv =>
      if h : kv.1 < 192 then
        (if verifyOver s kv.2 then some (Instr.acqVerifyTimeout ⟨kv.1, h⟩) else if reacqOver s kv.2 then some (Instr.reacqTimeout ⟨kv.1, h⟩) else none)
      else none)

/-- A trigger entry whose time has come (R408). -/
def ttuOver (s : State) : Option Instr :=
  s.ttu.ent.findSome? (fun kv => if fireDue s kv.1 then some (.ttuFire (BitVec.ofNat 6 kv.1)) else none)

/-- What the PTC does of its own when the counter or its timers reach a time (R392, R396, R400, R404 to R407, R414). -/
def ptcOver (s : State) : Option Instr :=
  if ppsDue s then some .ppsOutRise
  else if calDue s then some .calendarLoad
  else if ppsEnds s then some .ppsOutFall
  else if lossOver s then some .timeHoldoverEntry
  else
    match (List.finRange 4).find? (fun (i : Fin 4) => sourceOver s i.val), (List.finRange 4).find? (fun (i : Fin 4) => holdOver s i.val), (List.finRange 2).find? (fun (k : Fin 2) => ppsMissed s k.val) with
    | some i, _, _ => some (.ptpSourceTimeout i)
    | none, some i, _ => some (.sourceHoldExpired i)
    | none, none, some k => some (.ppsInMiss k)
    | none, none, none =>
      if s.boot.dev = .sleep then none
      else (List.finRange 4).findSome? (fun (p : Fin 4) => ([PtpTimer.sync, .announce, .delay].find? (fun t => ptpTimerOver s p.val t)).map (fun t => Instr.ptpMessageTimer p t))

/-- A HART port whose response has not come within STO (R333). -/
def hartOver (s : State) : Option Instr :=
  s.loops.hart.findSome? (fun kv => if h : kv.1 < 40 then (if stoOver s kv.2 then some (.hartStoExpiry ⟨kv.1, h⟩) else none) else none)

/-- A telegram whose last bit has left a serial line, a RAW queue whose pace has passed (R442, R446). -/
def portOver (s : State) : Option Instr :=
  match (List.finRange 12).find? (fun (p : Fin 12) => serSent s p.val 1) with
  | some p => some (.serTelegramSent p)
  | none => (List.finRange 4).findSome? (fun (p : Fin 4) => (ethOf s p.val).raw.findSome? (fun kv => if rawDue s p.val kv.1 then some (Instr.ethRawChunk p (BitVec.ofNat 8 kv.1)) else none))

/-- What the security engine and the rail sequencer do of their own (R501, R504, R524). -/
def secOver (s : State) : Option Instr :=
  if tokenLate s then some .tokenApplyDone
  else if transitionLate s then some (.lcTransition 0)
  else if (rankStarts s).isSome then some .brsRankStart
  else match (List.finRange 12).find? (fun (n : Fin 12) => railDue s n.val), (List.finRange 12).find? (fun (n : Fin 12) => pgLate s n.val) with
    | some n, _ => some (.brsRailEnable n)
    | none, some n => some (.brsPgTmo n)
    | none, none => none

/-- An interlock line whose claim has lapsed, or a claim window that has passed (R360, R364). -/
def ilkOver (s : State) : Option Instr :=
  if ilkLapsed s then some .ilkClaimLapse else if windowOver s then some .collarClaimWindowEnd else none

/-- The event of the device's own that is due. -/
def dueEvent (s : State) : Option Instr :=
  match bootDue s with
  | some i => some i
  | none =>
    match ((ilkOver s).or (ttuOver s)).or ((ptcOver s).or ((mbxOver s).or ((secOver s).or (recOver s)))) with
    | some i => some i
    | none => match crossOver s with
      | some i => some i
      | none => match hartOver s with
        | some i => some i
        | none => (portOver s).or (navOver s)

/-- The phase error in ticks, measured at the present tick: the nominal start of the next frame less the PTC time projected for the end of
this one, rounded toward zero (R25). -/
def phaseErr (s : State) : Int :=
  let nominal : Rat := ((2000000000 * s.hdr.t0 + 5 * ((s.seq.k + 1) * s.hdr.f) : Nat) : Rat) / 2
  let eighths : Rat := s.ptc.phase + tclkEighths s (s.hdr.f - s.seq.tick)
  let proj : Rat := ((s.ptc.counter : Nat) : Rat) / ptcUnit + eighths * ((ptcAdd s.ptc.r : Nat) : Rat) / (8 * ptcUnit)
  roundZero ((nominal - proj) * 2 / 5)

/-- A domain that waits for its handler is gated once the handler is free (R518). -/
def gateFree (s : State) : State :=
  if s.pwr.gateLater = 0 then s
  else
    let free := s.pwr.gateLater &&& ~~~ busyMask s s.pwr.gateLater
    { s with pwr := { s.pwr with gatePend := s.pwr.gatePend ||| free, gateLater := s.pwr.gateLater &&& ~~~ free } }

/-- The frame's own events at the tick that has just begun (Table 1-2, R518). -/
def tickEvents (s : State) : List Instr :=
  let left := s.hdr.f - s.seq.tick
  ([Domain.qps, .nav, .ana, .sec].filter (fun d => s.pwr.gated &&& domMask d != 0 && left == 64 + domWake d)).map Instr.domainAutoWake
    ++ (if left = 64 then [.slackZoneBegin] else []) ++ (if left = 32 then [.alignerPhaseSample (phaseErr s)] else [])
    ++ (if left = 16 then [.alignerTrimUpdate] else [])

/-- One CCLK cycle of a running frame. -/
def frameTick (s : State) : State :=
  if s.seq.frameLen ≤ s.seq.tick + 1 then { s with pending := [.frameBoundary s.pins.alj] }
  else
    let s := elapse 1 (gateFree s)
    let s := { s with seq := { s.seq with tick := s.seq.tick + 1 } }
    let s := if s.hdr.f = s.seq.tick + 64 then slackCheck s else s
    { s with pending := tickEvents s }

/-- The device on an empty queue: what has crossed to NAV arrives. A domain is usable from the tick at which its wake is over, so that comes
before the tick's own operations (R43). -/
def idle (s : State) : State :=
  let s := navArrivals s
  match wakeOver s, (if s.seq.run && !s.seq.stopped then s.seq.lanes else []) with
  | some i, _ => { s with pending := [i] }
  | none, n :: _ => issueLane n s
  | none, [] =>
    if s.seq.run && !s.seq.stopped && !s.seq.ended && s.seq.tick == s.seq.due then openBundle s
    else match dueEvent s with
      | some i => { s with pending := [i] }
      | none => if s.seq.run then frameTick s else elapse 1 s

/-- A command placed at the front of the queue. -/
def putFront (o : Option Instr) (s : State) : State :=
  match o with
  | some i => { s with pending := i :: s.pending }
  | none => s

end Sys2Proof.Machine
end

