-- ==== Sys2Proof/Safety.lean ====
section
/-! DEFINITION. Sys2Proof/Safety.lean: the words that statements about the block use: which parts of the state a command leaves as they were. -/

namespace Sys2Proof.Machine

/-- The parts of the state, one for each field of State. -/
inductive Part where
  | pending | pins | aon | boot | hdr | sects | cclk | flash | sram | logMem | seq | cck | sdir | dirid | lbus | funcReqs | disabled | forces | evm | recd | mbx | host | fuses | sec | pwr | brs | tj | gpio0 | gpio1 | draws | ptc | cal | ttu | obs | nav | qps | modes | lce | fce | loops | pack | ports | flight
  deriving DecidableEq, Repr

/-- All parts. -/
def Part.all : List Part :=
  [Part.pending, Part.pins, Part.aon, Part.boot, Part.hdr, Part.sects, Part.cclk, Part.flash, Part.sram, Part.logMem, Part.seq,
   Part.cck, Part.sdir, Part.dirid, Part.lbus, Part.funcReqs, Part.disabled, Part.forces, Part.evm, Part.recd, Part.mbx, Part.host,
   Part.fuses, Part.sec, Part.pwr, Part.brs, Part.tj, Part.gpio0, Part.gpio1, Part.draws, Part.ptc, Part.cal, Part.ttu,
   Part.obs, Part.nav, Part.qps, Part.modes, Part.lce, Part.fce, Part.loops, Part.pack, Part.ports, Part.flight]

/-- All parts but the listed ones. -/
def Part.but (l : List Part) : List Part := Part.all.filter (fun p => !l.contains p)

/-- A part is the same in two states. -/
def samePart (s t : State) : Part → Prop
  | .pending => t.pending = s.pending
  | .pins => t.pins = s.pins
  | .aon => t.aon = s.aon
  | .boot => t.boot = s.boot
  | .hdr => t.hdr = s.hdr
  | .sects => t.sects = s.sects
  | .cclk => t.cclk = s.cclk
  | .flash => t.flash = s.flash
  | .sram => t.sram = s.sram
  | .logMem => t.logMem = s.logMem
  | .seq => t.seq = s.seq
  | .cck => t.cck = s.cck
  | .sdir => t.sdir = s.sdir
  | .dirid => t.dirid = s.dirid
  | .lbus => t.lbus = s.lbus
  | .funcReqs => t.funcReqs = s.funcReqs
  | .disabled => t.disabled = s.disabled
  | .forces => t.forces = s.forces
  | .evm => t.evm = s.evm
  | .recd => t.recd = s.recd
  | .mbx => t.mbx = s.mbx
  | .host => t.host = s.host
  | .fuses => t.fuses = s.fuses
  | .sec => t.sec = s.sec
  | .pwr => t.pwr = s.pwr
  | .brs => t.brs = s.brs
  | .tj => t.tj = s.tj
  | .gpio0 => t.gpio0 = s.gpio0
  | .gpio1 => t.gpio1 = s.gpio1
  | .draws => t.draws = s.draws
  | .ptc => t.ptc = s.ptc
  | .cal => t.cal = s.cal
  | .ttu => t.ttu = s.ttu
  | .obs => t.obs = s.obs
  | .nav => t.nav = s.nav
  | .qps => t.qps = s.qps
  | .modes => t.modes = s.modes
  | .lce => t.lce = s.lce
  | .fce => t.fce = s.fce
  | .loops => t.loops = s.loops
  | .pack => t.pack = s.pack
  | .ports => t.ports = s.ports
  | .flight => t.flight = s.flight

/-- Every part but those listed is the same in t as in s: what a command that turns s into t leaves alone. -/
def Only (l : List Part) (s t : State) : Prop := ∀ p, p ∉ l → samePart s t p

/-- If a command answers a next state, it has changed only the parts listed. -/
def OnlyNext (l : List Part) (s : State) (r : Res) : Prop := ∀ t, r = .next t → Only l s t

/-- SEQ issues an operation of an engine's instance with its full effect: the schedule runs and no breach has stopped it (R55), neither the
function is disabled (R51) nor the schedule halted (R515), and the engine's power domain is not gated (R43). -/
def issued (s : State) (eng inst : Nat) : Bool :=
  s.seq.run && !s.seq.stopped && !isDisabled s eng inst && !halted s
    && match engDomain eng with
       | some d => !domGated s d
       | none => true

/-- The three byte stores are in canonical form. -/
def StoresWf (s : State) : Prop :=
  Memory.wf flashBlank s.flash = true ∧ Memory.wf 0 s.sram = true ∧ Memory.wf logBlank s.logMem = true

/-- What no command may do to the fuses: a bit that is 1 in f is 1 in g, and the unique number and the root-key hash are as before (R491). -/
def FusesKept (f g : Fuses) : Prop :=
  f.lc0 &&& g.lc0 = f.lc0 ∧ f.lc1 &&& g.lc1 = f.lc1 ∧ f.lc2 &&& g.lc2 = f.lc2
    ∧ f.ownerHash &&& g.ownerHash = f.ownerHash ∧ f.devKey &&& g.devKey = f.devKey
    ∧ (f.dead0 = true → g.dead0 = true) ∧ (f.dead1 = true → g.dead1 = true) ∧ (f.dead2 = true → g.dead2 = true)
    ∧ g.uid = f.uid ∧ g.rootHash = f.rootHash

/-- Every disabled function, and every function that a waiting request names, is one that the manual lists as one that can be disabled (R51). -/
def FuncsListed (s : State) : Prop :=
  (∀ r ∈ s.funcReqs, r.inst < funcParts r.eng) ∧ ∀ p ∈ s.disabled, p.2 < funcParts p.1

/-- The reset values of the registers of DEV (Tables 17-3 to 17-16), at their first and last index. -/
def resetValuesDev : List (Nat × Nat) :=
  [(0x0, 0x8640204A), (0x8, 0x31), (0xC, 0x20), (0x14, 0x0), (0x18, 0x0), (0x20, 0x0)]

/-- The reset values of the registers of SEC, PWR (Tables 17-3 to 17-16), at their first and last index. -/
def resetValuesSecPwr : List (Nat × Nat) :=
  [(0x1014, 0x0), (0x101C, 0x0), (0x2000, 0x0), (0x2004, 0x0), (0x2014, 0x0)]

/-- The reset values of the registers of EVT, REC (Tables 17-3 to 17-16), at their first and last index. -/
def resetValuesEvtRec : List (Nat × Nat) :=
  [(0x10000, 0x1F), (0x10100, 0x0), (0x1011C, 0x0), (0x10400, 0x0), (0x107FC, 0x0), (0x18000, 0x0),
   (0x18010, 0x0), (0x18020, 0x0), (0x18024, 0x0), (0x18040, 0x0), (0x1805C, 0x0)]

/-- The reset values of the registers of MBX, HSP, MEP (Tables 17-3 to 17-16), at their first and last index. -/
def resetValuesMbxHspMep : List (Nat × Nat) :=
  [(0x20000, 0x0), (0x20F00, 0x0), (0x2003C, 0x0), (0x20F3C, 0x0), (0x20040, 0x0), (0x20F40, 0x0),
   (0x20044, 0x50021), (0x20F44, 0x50021), (0x20048, 0x0), (0x20F48, 0x0), (0x21000, 0x0), (0x21008, 0x0)]

/-- The reset values of the registers of PTC, TTU (Tables 17-3 to 17-16), at their first and last index. -/
def resetValuesPtcTtu : List (Nat × Nat) :=
  [(0x30000, 0x80), (0x30004, 0x0), (0x3001C, 0x0), (0x30014, 0x0), (0x30020, 0x0), (0x3002C, 0x0),
   (0x30030, 0x0), (0x30034, 0x0), (0x30080, 0x0), (0x30100, 0x0), (0x301FC, 0x0)]

/-- The reset values of the registers of SEQ, CCK, LBU, SDIR (Tables 17-3 to 17-16), at their first and last index. -/
def resetValuesSeqCckLbuSdir : List (Nat × Nat) :=
  [(0x40000, 0x0), (0x40010, 0x0), (0x40014, 0xFFFF0000), (0x4001C, 0xFFFF0000), (0x40018, 0x0), (0x40020, 0x0),
   (0x40024, 0x0), (0x40028, 0x0), (0x40100, 0x0), (0x40114, 0x0), (0x41000, 0x0), (0x41FFC, 0x0),
   (0x40200, 0x0), (0x40204, 0x0)]

/-- The reset values of the registers of OBS, REF (Tables 17-3 to 17-16), at their first and last index. -/
def resetValuesObsRef : List (Nat × Nat) :=
  [(0x40300, 0x0), (0x40308, 0x0), (0x40310, 0xF0), (0x40350, 0xF0), (0x40360, 0x0), (0x403A0, 0x0)]

/-- The reset values of the registers of MODE, ALLOC, FLR, CA (Tables 17-3 to 17-16), at their first and last index. -/
def resetValuesModeAllocFlrCa : List (Nat × Nat) :=
  [(0x40400, 0x0), (0x40404, 0x0), (0x4040C, 0x0), (0x40410, 0x0), (0x40414, 0xF0), (0x40418, 0x0),
   (0x40420, 0x0)]

/-- The reset values of the registers of PACK, LSH, PSW (Tables 17-3 to 17-16), at their first and last index. -/
def resetValuesPackLshPsw : List (Nat × Nat) :=
  [(0x50004, 0x0), (0x5000C, 0x0), (0x50010, 0x0), (0x50018, 0x0), (0x50020, 0x0), (0x50028, 0x0),
   (0x50030, 0x0), (0x50044, 0x0)]

/-- The reset values of the registers of QPS (Tables 17-3 to 17-16), at their first and last index. -/
def resetValuesQps : List (Nat × Nat) :=
  [(0x60000, 0x0), (0x60100, 0xF), (0x6013C, 0xF), (0x60140, 0x0), (0x6017C, 0x0), (0x60180, 0x0),
   (0x601BC, 0x0), (0x60200, 0x0), (0x60210, 0x0), (0x6022C, 0x0), (0x60400, 0xFFFFFFFF), (0x606FC, 0xFFFFFFFF)]

/-- The reset values of the registers of LCE (Tables 17-3 to 17-16), at their first and last index. -/
def resetValuesLce : List (Nat × Nat) :=
  [(0x70000, 0x0), (0x70004, 0x0), (0x70010, 0x0), (0x70020, 0x0), (0x70100, 0x0), (0x704FC, 0x0),
   (0x78000, 0x0), (0x7FFFC, 0x0)]

/-- The reset values of the registers of FCE, QDC (Tables 17-3 to 17-16), at their first and last index. -/
def resetValuesFceQdc : List (Nat × Nat) :=
  [(0x80000, 0x0), (0x80010, 0x0), (0x80100, 0x0), (0x801FC, 0x0), (0x80200, 0x0), (0x8023C, 0x0),
   (0x80240, 0x0), (0x8027C, 0x0)]

/-- The reset values of the registers of LOOP, LPO, LPI, HRT (Tables 17-3 to 17-16), at their first and last index. -/
def resetValuesLoopLpoLpiHrt : List (Nat × Nat) :=
  [(0x90000, 0x0), (0x90008, 0x0), (0x90100, 0x0), (0x9013C, 0x0), (0x90140, 0x0), (0x9019C, 0x0),
   (0x90200, 0x0), (0x9029C, 0x0)]

/-- The reset values of the registers of NAV (Tables 17-3 to 17-16), at their first and last index. -/
def resetValuesNav : List (Nat × Nat) :=
  [(0xA0000, 0x0), (0xA0014, 0x0), (0xA0100, 0x0), (0xA03FC, 0x0)]

/-- The reset values of the registers of CAN, SER, ETH, GPIO (Tables 17-3 to 17-16), at their first and last index. -/
def resetValuesCanSerEthGpio : List (Nat × Nat) :=
  [(0xB0000, 0x0), (0xB0010, 0x0), (0xB7000, 0x0), (0xB7010, 0x0), (0xB0200, 0x0), (0xB03FC, 0x0),
   (0xB7200, 0x0), (0xB73FC, 0x0), (0xB0400, 0x0), (0xB0404, 0x0), (0xB7400, 0x0), (0xB7404, 0x0),
   (0xB0440, 0x0), (0xB047C, 0x0), (0xB7440, 0x0), (0xB747C, 0x0), (0xB8000, 0x0), (0xB800C, 0x0),
   (0xB8B00, 0x0), (0xB8B0C, 0x0), (0xBC000, 0x0), (0xBC00C, 0x0), (0xBC300, 0x0), (0xBC30C, 0x0),
   (0xBF008, 0x0), (0xBF00C, 0x0), (0xBF010, 0x0), (0xBF014, 0x0)]

/-- The address of each register that the manual gives a fixed reset value, with that value, at its first and at its last index. Two registers
are left out: SEC_DBGSTAT and PTC_UTC show live conditions (log entry 6). -/
def resetValues : List (Nat × Nat) :=
  resetValuesDev ++ resetValuesSecPwr ++ resetValuesEvtRec ++ resetValuesMbxHspMep ++ resetValuesPtcTtu
    ++ resetValuesSeqCckLbuSdir ++ resetValuesObsRef ++ resetValuesModeAllocFlrCa ++ resetValuesPackLshPsw ++ resetValuesQps
    ++ resetValuesLce ++ resetValuesFceQdc ++ resetValuesLoopLpoLpiHrt ++ resetValuesNav ++ resetValuesCanSerEthGpio

/-- The parts of the state that a command may change: the list that stands beside each family of commands names all of them. -/
def touches : Instr → List Part
  | .porRelease | .resetNRise | .pfailRelease =>
      [Part.pins, Part.boot]
  | .porAssert | .resetNLow | .pfailNLow =>
      Part.but [Part.pending, Part.cclk, Part.flash, Part.sram, Part.sdir, Part.cal]
  | .recorderFlushEnd =>
      [Part.boot]
  | .flushCutoff =>
      [Part.aon, Part.boot]
  | .resetExit _ _ _ _ =>
      [Part.pins, Part.boot, Part.cclk, Part.evm, Part.recd, Part.sec, Part.pwr, Part.ptc, Part.cal, Part.loops]
  | .zeroiserComplete _ =>
      [Part.boot, Part.cclk, Part.sram, Part.seq, Part.sdir, Part.dirid, Part.lbus, Part.evm, Part.recd, Part.sec, Part.pwr,
       Part.draws, Part.ptc, Part.cal]
  | .chartHeadersRead _ _ | .verifyComplete _ =>
      [Part.boot, Part.cclk, Part.seq, Part.evm, Part.recd, Part.sec, Part.pwr, Part.ptc, Part.cal]
  | .chartCopyStreamed _ =>
      [Part.boot, Part.cclk, Part.sram, Part.sdir, Part.dirid, Part.evm, Part.recd, Part.sec, Part.pwr, Part.ptc, Part.cal]
  | .sealComplete =>
      [Part.boot, Part.hdr, Part.sects, Part.cclk, Part.evm, Part.recd, Part.host, Part.sec, Part.pwr, Part.draws, Part.ptc,
       Part.cal, Part.pack, Part.ports]
  | .syncTmo =>
      [Part.boot, Part.evm, Part.recd, Part.draws]
  | .scheduleStart =>
      Part.but [Part.pending, Part.pins, Part.aon, Part.hdr, Part.sects, Part.flash, Part.logMem, Part.cck, Part.dirid, Part.host,
       Part.fuses, Part.brs, Part.tj, Part.draws]
  | .contractReset =>
      Part.but [Part.pending, Part.pins, Part.flash, Part.sram, Part.sdir]
  | .slackZoneBegin =>
      [Part.boot, Part.cclk, Part.seq, Part.cck, Part.sdir, Part.evm, Part.recd, Part.sec, Part.pwr, Part.draws, Part.ptc,
       Part.cal]
  | .alignerPhaseSample _ =>
      [Part.cclk, Part.seq, Part.evm, Part.recd, Part.pwr, Part.draws, Part.ptc, Part.cal]
  | .alignerTrimUpdate | .domainAutoWake _ =>
      [Part.cclk, Part.seq, Part.pwr, Part.ptc, Part.cal]
  | .frameBoundary _ =>
      Part.but [Part.pending, Part.aon, Part.hdr, Part.sects, Part.flash, Part.logMem, Part.cck, Part.dirid, Part.host,
       Part.fuses, Part.brs, Part.tj, Part.draws]
  | .cckStore _ =>
      [Part.boot, Part.seq, Part.cck, Part.sdir, Part.evm, Part.recd, Part.sec, Part.draws]
  | .cckEccCorr _ =>
      [Part.cck, Part.evm, Part.recd, Part.draws]
  | .nop _ | .mark _ | .subst _ _ | .curve _ | .mmul _ | .madd _ | .seatFeed _ | .caPrep _ | .ptcRead | .evmCheck _ | .secRead |
    .pwrRead =>
      [Part.boot, Part.seq, Part.cck, Part.sdir, Part.evm, Part.recd, Part.sec]
  | .pwake _ | .pgate _ =>
      [Part.boot, Part.seq, Part.cck, Part.sdir, Part.evm, Part.recd, Part.sec, Part.pwr]
  | .domainWakeComplete _ =>
      [Part.pwr, Part.fce]
  | .land _ =>
      [Part.boot, Part.seq, Part.cck, Part.sdir, Part.lbus, Part.evm, Part.recd, Part.sec]
  | .pub _ _ | .pswTx | .barkTx | .eqSnap _ _ =>
      [Part.boot, Part.seq, Part.cck, Part.sdir, Part.evm, Part.recd, Part.sec, Part.pack]
  | .mruVote | .refIn _ | .refTest _ | .obsUpd _ | .obsOut | .wind =>
      [Part.boot, Part.seq, Part.cck, Part.sdir, Part.evm, Part.recd, Part.sec, Part.obs]
  | .obsPred =>
      [Part.boot, Part.seq, Part.cck, Part.sdir, Part.evm, Part.recd, Part.sec, Part.obs, Part.pack]
  | .hdgVote | .refVote =>
      [Part.boot, Part.seq, Part.cck, Part.sdir, Part.evm, Part.recd, Part.mbx, Part.sec, Part.obs]
  | .obsDrExpired _ =>
      [Part.evm, Part.recd, Part.obs]
  | .windHoldEnd =>
      [Part.obs]
  | .pvtSolve | .hdgSolve | .acqCtl _ | .acqSnap | .trkSnap _ | .epoch | .aiding _ | .rtcmIn _ | .cchClock _ =>
      [Part.boot, Part.seq, Part.cck, Part.sdir, Part.evm, Part.recd, Part.sec, Part.nav]
  | .pvtOut =>
      [Part.boot, Part.seq, Part.cck, Part.sdir, Part.evm, Part.recd, Part.sec, Part.ptc, Part.nav]
  | .navOpComplete _ =>
      [Part.lbus, Part.evm, Part.recd, Part.nav]
  | .navBootstrapEpoch _ =>
      [Part.seq, Part.sdir, Part.lbus, Part.evm, Part.recd, Part.ptc, Part.nav]
  | .acqPassEnd _ _ _ _ | .navLockLost _ | .navMsgDecoded _ _ _ _ =>
      [Part.evm, Part.recd, Part.nav]
  | .aidedDwellEnd _ _ _ | .trkPllLock _ | .acqVerifyTimeout _ | .bitSync _ | .frameSync _ _ | .reacqTimeout _ | .sidePeakMove _ =>
      [Part.nav]
  | .navExclude _ _ _ | .navInclude _ _ _ =>
      [Part.evm, Part.recd, Part.mbx, Part.nav]
  | .fsaBuild _ _ | .farFact _ _ | .farIter _ _ | .farEnd _ =>
      [Part.boot, Part.seq, Part.cck, Part.sdir, Part.evm, Part.recd, Part.sec, Part.qps]
  | .farStart _ =>
      [Part.boot, Part.seq, Part.cck, Part.sdir, Part.evm, Part.recd, Part.sec, Part.qps, Part.pack]
  | .qpsCaptureArm _ _ | .qpsCaptureDisarm _ _ =>
      [Part.evm, Part.recd, Part.mbx, Part.qps]
  | .modeStep =>
      [Part.boot, Part.seq, Part.cck, Part.sdir, Part.evm, Part.recd, Part.mbx, Part.sec, Part.obs, Part.modes, Part.pack]
  | .armTimeout | .flrRelease | .allocLost =>
      [Part.evm, Part.recd, Part.modes]
  | .modeReqArm _ _ | .modeReqSwitch _ _ | .modeReqDisarm _ _ | .modeReqDirect _ _ =>
      [Part.evm, Part.recd, Part.mbx, Part.modes]
  | .seatTake _ | .tauMix | .caEval _ | .simStep =>
      [Part.boot, Part.seq, Part.cck, Part.sdir, Part.evm, Part.recd, Part.sec, Part.modes]
  | .pwrShare | .flr | .allocOut =>
      [Part.boot, Part.seq, Part.cck, Part.sdir, Part.evm, Part.recd, Part.sec, Part.modes, Part.pack]
  | .lceStep _ =>
      [Part.boot, Part.sram, Part.seq, Part.cck, Part.sdir, Part.evm, Part.recd, Part.mbx, Part.sec, Part.lce, Part.pack]
  | .lceMode _ _ _ _ _ | .lceBank _ _ _ | .lceTestStart _ _ _ | .lceTestStop _ _ | .lceCaptureArm _ _ _ | .lceCaptureDisarm _ _ |
    .lceCapturePage _ _ _ =>
      [Part.evm, Part.recd, Part.mbx, Part.lce]
  | .lceInjEnd =>
      [Part.evm, Part.recd, Part.lce]
  | .fceRestart _ | .anvSel _ _ | .qdcZero _ | .lpoRbsel _ _ | .lpiSel _ _ =>
      [Part.boot, Part.seq, Part.cck, Part.sdir, Part.evm, Part.recd, Part.sec, Part.fce]
  | .fceStart _ =>
      [Part.evm, Part.recd, Part.ttu, Part.fce]
  | .modulatorSelectApply _ _ | .qdcTransition _ _ _ =>
      [Part.evm, Part.recd, Part.fce]
  | .fceCicOutput _ _ _ _ =>
      [Part.lbus, Part.evm, Part.recd, Part.fce]
  | .qdcZeroApply _ =>
      [Part.fce]
  | .lpoSet _ =>
      [Part.boot, Part.seq, Part.cck, Part.sdir, Part.evm, Part.recd, Part.mbx, Part.sec, Part.loops]
  | .lpoCodeApply _ | .hartCarrierDetect _ _ =>
      [Part.loops]
  | .lpoLatchStrobe _ =>
      [Part.ttu, Part.loops]
  | .lpoCheck _ | .lpiCheck _ | .hartReq _ =>
      [Part.boot, Part.seq, Part.cck, Part.sdir, Part.evm, Part.recd, Part.sec, Part.loops]
  | .loopClear _ _ | .hartPass _ _ _ _ _ _ =>
      [Part.evm, Part.recd, Part.mbx, Part.loops]
  | .hartRequestSend _ | .hartStoExpiry _ =>
      [Part.sdir, Part.evm, Part.recd, Part.mbx, Part.loops]
  | .hartFrameReceived _ _ =>
      [Part.sdir, Part.lbus, Part.evm, Part.recd, Part.mbx, Part.loops]
  | .ringFrameReceived _ _ _ _ =>
      [Part.lbus, Part.evm, Part.recd, Part.pack]
  | .roleStep =>
      [Part.boot, Part.seq, Part.cck, Part.sdir, Part.evm, Part.recd, Part.mbx, Part.sec, Part.loops, Part.pack, Part.ports]
  | .leaseExpired | .leashEqReceived _ _ _ =>
      [Part.pack]
  | .collarClaimWindowEnd =>
      [Part.evm, Part.recd, Part.mbx, Part.loops, Part.pack, Part.ports]
  | .eqLost | .leashUp _ | .leashDown _ _ _ =>
      [Part.evm, Part.recd, Part.pack]
  | .leashBarkReceived _ _ _ =>
      [Part.boot, Part.lbus, Part.evm, Part.recd, Part.pack]
  | .leashCmdReceived _ _ _ | .lcTransition _ =>
      Part.but [Part.pending, Part.pins, Part.cclk, Part.flash, Part.sram, Part.sdir, Part.cal]
  | .ilkInEdge =>
      [Part.pins, Part.evm, Part.recd, Part.loops, Part.pack, Part.ports]
  | .ilkClaimLapse =>
      [Part.evm, Part.recd, Part.loops, Part.pack, Part.ports]
  | .roleSwap _ | .packDuplex _ _ | .partnerReset _ _ =>
      [Part.evm, Part.recd, Part.mbx, Part.pack]
  | .ptpSyncReceived _ _ _ _ | .ptpFollowUpReceived _ _ _ | .timeHoldoverEntry | .ppsInEdge _ =>
      [Part.seq, Part.evm, Part.recd, Part.ptc]
  | .ptpAnnounceReceived _ _ | .ptpMessageTimer _ _ | .ptpSourceTimeout _ | .sourceHoldExpired _ | .refClkLost | .refClkBack |
    .ppsInMiss _ =>
      [Part.evm, Part.recd, Part.ptc]
  | .ptpPdelayReqReceived _ _ | .ptpDelayResponseReceived _ _ _ _ | .ppsOutRise | .ppsOutFall =>
      [Part.ptc]
  | .ttuArm _ | .ttuStop _ =>
      [Part.boot, Part.seq, Part.cck, Part.sdir, Part.evm, Part.recd, Part.sec, Part.ttu]
  | .ttuProgramArrival _ | .ttuFire _ =>
      [Part.lbus, Part.evm, Part.recd, Part.ttu]
  | .calendarLoad =>
      [Part.evm, Part.recd, Part.ptc, Part.cal]
  | .timeSet _ _ _ =>
      [Part.evm, Part.recd, Part.mbx, Part.cal]
  | .canTx _ _ | .canCancel _ _ | .serTx _ _ | .ethTx _ _ =>
      [Part.boot, Part.seq, Part.cck, Part.sdir, Part.evm, Part.recd, Part.sec, Part.ports]
  | .canTxArrival _ _ | .serTxArrival _ | .serTelegramSent _ =>
      [Part.ports]
  | .canFrameSent _ _ | .canAttemptEnd _ _ _ _ | .canCancelArrival _ | .canBusoffRecovery _ _ | .serCharacterError _ _ _ |
    .canRxError _ _ _ | .canIntegrationComplete _ _ =>
      [Part.evm, Part.recd, Part.ports]
  | .canFrameReceived _ _ _ =>
      [Part.lbus, Part.evm, Part.recd, Part.draws, Part.ports]
  | .canView _ _ _ =>
      [Part.evm, Part.recd, Part.mbx, Part.ports]
  | .serTelegramReceived _ _ | .serChunkClose _ _ | .ethFrameReceived _ _ | .ethRawChunk _ _ =>
      [Part.lbus, Part.evm, Part.recd, Part.ports]
  | .ethLink _ _ =>
      [Part.evm, Part.recd, Part.pack, Part.ports]
  | .mepNonceQuery _ _ =>
      [Part.evm, Part.recd, Part.host, Part.ports]
  | .mepRequest _ _ =>
      [Part.evm, Part.recd, Part.mbx, Part.host, Part.sec, Part.pwr, Part.brs, Part.draws, Part.ptc, Part.ports]
  | .evtTokenRefill _ =>
      [Part.evm, Part.recd]
  | .evtStickyClear _ _ _ | .recCursorWrite _ _ | .mbxCtlPost _ _ | .mbxCtlRelease _ _ | .registerWrite _ _ _ | .revokeDebug _ |
    .closeHostauth _ | .brsRailcmd _ _ =>
      [Part.evm, Part.recd, Part.mbx, Part.host, Part.sec, Part.pwr, Part.brs, Part.draws]
  | .recRecordWrite =>
      [Part.logMem, Part.recd]
  | .recLoadComplete _ =>
      [Part.recd, Part.draws]
  | .recWin7Read _ | .mbxLockRead _ _ | .ptcNsRead _ =>
      [Part.recd, Part.mbx, Part.host, Part.ptc]
  | .mbxLockExpired _ | .mbxCommandComplete _ =>
      [Part.evm, Part.recd, Part.mbx]
  | .mbxServe _ =>
      [Part.boot, Part.flash, Part.seq, Part.cck, Part.sdir, Part.funcReqs, Part.forces, Part.evm, Part.recd, Part.mbx, Part.sec,
       Part.pwr, Part.cal, Part.obs, Part.nav, Part.qps, Part.modes, Part.lce, Part.loops, Part.pack, Part.ports]
  | .mbxPost _ _ =>
      [Part.boot, Part.seq, Part.cck, Part.sdir, Part.evm, Part.recd, Part.mbx, Part.sec, Part.pwr]
  | .standaloneServerLatch _ =>
      [Part.boot, Part.flash, Part.funcReqs, Part.forces, Part.evm, Part.recd, Part.mbx, Part.sec, Part.pwr, Part.cal, Part.obs,
       Part.nav, Part.qps, Part.modes, Part.lce, Part.loops, Part.pack, Part.ports]
  | .force _ _ _ | .signalRelease _ _ =>
      [Part.forces, Part.evm, Part.recd, Part.mbx]
  | .funcDisable _ _ _ | .funcEnable _ _ _ =>
      [Part.funcReqs, Part.evm, Part.recd, Part.mbx]
  | .hspRead _ _ =>
      [Part.evm, Part.recd, Part.mbx, Part.host, Part.ptc]
  | .hspWrite _ _ _ _ =>
      [Part.evm, Part.recd, Part.mbx, Part.host, Part.sec, Part.pwr, Part.brs]
  | .hspStatus =>
      [Part.host]
  | .hspResetMaster _ =>
      [Part.evm, Part.recd, Part.mbx, Part.host, Part.sec, Part.draws]
  | .tokenLoad _ _ _ _ | .tokenApply _ | .tokenClear _ =>
      [Part.evm, Part.recd, Part.mbx, Part.sec]
  | .tokenApplyDone =>
      [Part.boot, Part.evm, Part.recd, Part.mbx, Part.sec, Part.draws]
  | .hold _ | .holdRelease _ =>
      [Part.boot, Part.evm, Part.recd, Part.mbx, Part.sec]
  | .sleep _ _ _ _ _ =>
      [Part.evm, Part.recd, Part.mbx, Part.pwr]
  | .sleepWake _ =>
      [Part.evm, Part.recd, Part.pwr]
  | .wakeSyncEntry =>
      [Part.boot, Part.cclk, Part.evm, Part.recd, Part.mbx, Part.sec, Part.pwr, Part.ptc, Part.cal, Part.fce]
  | .dbgAttach _ =>
      [Part.evm, Part.recd, Part.sec, Part.pwr]
  | .dbgAcc _ _ _ _ =>
      [Part.evm, Part.recd, Part.mbx, Part.host, Part.sec, Part.pwr, Part.brs, Part.ptc]
  | .dbgHalt | .dbgResume | .dbgSwinWrite _ | .tapReset | .highz =>
      [Part.sec]
  | .extest | .clamp =>
      [Part.sec, Part.draws]
  | .pwrDomainFault _ =>
      [Part.evm, Part.recd, Part.mbx, Part.fuses, Part.sec, Part.pwr, Part.draws, Part.nav, Part.qps, Part.loops, Part.ports]
  | .brsRankStart | .brsRailEnable _ | .brsPgGood _ =>
      [Part.brs]
  | .brsPgTmo _ | .brsPgLost _ | .brsPgBack _ =>
      [Part.evm, Part.recd, Part.brs]
  | .pmbPoll _ =>
      [Part.lbus, Part.evm, Part.recd, Part.brs]
  | .tjSample _ =>
      [Part.evm, Part.recd, Part.tj]
  | .gpioSet _ _ =>
      [Part.boot, Part.seq, Part.cck, Part.sdir, Part.evm, Part.recd, Part.sec, Part.gpio0, Part.gpio1, Part.draws]
  | .gpioLevelChange _ _ =>
      [Part.lbus, Part.gpio0, Part.gpio1]
  | .chartErase _ _ | .chartWrite _ _ _ _ _ =>
      [Part.boot, Part.flash, Part.mbx]
  | .chartCommit _ _ =>
      [Part.flash, Part.mbx]
  | .chartStatus _ _ =>
      [Part.mbx]
  | .reanchor _ _ =>
      [Part.evm, Part.recd, Part.mbx, Part.obs]
  | .hspFrameError _ =>
      [Part.evm, Part.recd, Part.host, Part.draws]

end Sys2Proof.Machine
end

