-- ==== Sys2Proof/Certificates/Slice0/Obligations.lean ====
section
/-! DEFINITION. Sys2Proof/Certificates/Slice0/Obligations.lean: the statements about the block that are to be proved. -/

open Sys2Proof Sys2Proof.Machine

/-- A step runs the command at the front of the queue. With command c at the front of the queue of waiting commands, a step is exec of c on the state whose queue is the rest. The queue is the model's own (log entry 1). (00_scope.md, INDEX.md) -/
def Obligations.StepRunsFrontCommand : Prop :=
  ∀ (c : Instr) (rest : List Instr) (s : State), step { s with pending := c :: rest } = exec c { s with pending := rest }

/-- With no command waiting a step is the block's own clock. On an empty queue a step answers the next state that idle gives: the block's clock runs on (the model's choice, log entry 2). When, after what has crossed to NAV has arrived, the schedule does not run, no domain's wake is over and no event of the device's own is due, one CCLK cycle passes and only the power, clock, time, calendar and NAV parts of the state may change. (01_chart_contract.md R22, 01_chart_contract.md R39) -/
def Obligations.EmptyQueueRunsClock : Prop :=
  ∀ s : State, s.pending = [] → step s = .next (idle s) ∧
    (wakeOver (navArrivals s) = none → (navArrivals s).seq.run = false → dueEvent (navArrivals s) = none →
      step s = .next (elapse 1 (navArrivals s)) ∧ Only [.pwr, .cclk, .ptc, .cal, .nav] s (elapse 1 (navArrivals s)))

/-- No command ends in a fault or a refusal. Every command in every state answers a next state: the spec calls no command's behaviour undefined, so the model has no stop. (00_scope.md, 01_chart_contract.md R55) -/
def Obligations.EveryCommandAnswersNext : Prop :=
  ∀ (c : Instr) (s : State), ∃ t, exec c s = .next t

/-- Each command changes only the parts of the state that its list names. For every command c the list touches c names parts of the state, each a field of State; when exec answers a next state every part that is not in the list is as before. No list names the queue of waiting commands (the queue is the model's own, log entry 1). (01_chart_contract.md R56, 02_signal_space.md R72, 14_events_recorder_mailboxes.md R453, 15_security_debug_power.md R491, 03_start_load_wipe.md R101) -/
def Obligations.CommandsChangeOnlyTheirParts : Prop :=
  ∀ c : Instr, Part.pending ∉ touches c ∧ ∀ s t : State, exec c s = .next t → Only (touches c) s t

/-- Operation words written out from the spec's fields spell their operations. The words of MARK, PWAKE, LAND, SUBST, PUB, MMUL, LCE_STEP, TTU_ARM, CAN_TX and MBX_POST, each written as ENG, OPC and OPND from the manual's tables, decode to these operations with their operands. (01_chart_contract.md R38, 01_chart_contract.md R41, 01_chart_contract.md R42, 02_signal_space.md R76) -/
def Obligations.OperationWordsDecode : Prop :=
  decodeOp 0x001ABCDE = some (.mark 0xABCDE) ∧ decodeOp 0x00200003 = some (.pwake 3)
    ∧ decodeOp 0x04000123 = some (.land 0x123) ∧ decodeOp 0x08200005 = some (.subst 5 false) ∧ decodeOp 0x08220005 = some (.subst 5 true)
    ∧ decodeOp 0x0810020A = some (.pub 10 2) ∧ decodeOp 0x0C100007 = some (.mmul 7) ∧ decodeOp 0x181000FF = some (.lceStep 0xFF)
    ∧ decodeOp 0x3410003F = some (.ttuArm 0x3F) ∧ decodeOp 0x40100012 = some (.canTx 0 0x12) ∧ decodeOp 0xB8200053 = some (.mbxPost 3 5)

/-- Reset leaves the block in RESET with nothing running and the registers at their reset values. In State.reset the device state is RESET, the device is not sealed, the schedule does not run, no command waits, every mailbox is FREE without an owner, no force and no disabled function stands, every signal is blank and the three byte stores list nothing. That nothing is listed is the model's choice for the flash and the log memory (log entry 5). In State.reset every register of Tables 17-3 to 17-16 that the manual gives a fixed reset value, at its first and at its last index, holds that value; two registers that show live conditions are left out (log entry 6). (03_start_load_wipe.md R87, 03_start_load_wipe.md R89, 01_chart_contract.md R24, 14_events_recorder_mailboxes.md R473, 17_address_map.md R560, Table 17-3, Table 17-6, Table 17-10) -/
def Obligations.ResetLeavesBlockAtRest : Prop :=
  (State.reset.boot.dev = .reset ∧ State.reset.boot.sealed = false ∧ State.reset.seq.run = false ∧ State.reset.pending = []
    ∧ (∀ n, (mbxOf State.reset n).state = .free ∧ (mbxOf State.reset n).owner = 0)
    ∧ State.reset.forces = [] ∧ State.reset.disabled = [] ∧ (∀ i, ent State.reset i = {})
    ∧ State.reset.flash = [] ∧ State.reset.sram = [] ∧ State.reset.logMem = [])
  ∧ (∀ p ∈ resetValues, regWord State.reset .hsp p.1 = some (w32 p.2))

/-- Decoding an encoded operation gives the operation back. For every command that is an operation of the manual's operation tables, with every operand at every value that its field admits, the word that its encoding gives fits 32 bits and decodes to the same command. (01_chart_contract.md R38, 01_chart_contract.md R41, 01_chart_contract.md R42, 01_chart_contract.md R567) -/
def Obligations.DecodeOfEncode : Prop :=
  ∀ (i : Instr) (w : Nat), encodeOp i = some w → w < 2 ^ 32 ∧ decodeOp w = some i

/-- A word that spells an operation is the one word that the operation encodes to. When a 32-bit word decodes to an operation, that operation encodes to the same word: no bit of a word is dropped, and a word with a reserved operand bit set spells no operation. (01_chart_contract.md R38, 01_chart_contract.md R41, 01_chart_contract.md R567) -/
def Obligations.EncodeOfDecode : Prop :=
  ∀ (i : Instr) (w : Nat), w < 2 ^ 32 → decodeOp w = some i → encodeOp i = some w

/-- The invariants of the byte stores and of the disabled functions hold at reset. The flash, the SRAM and the log memory of State.reset are in canonical form: addresses strictly rising, no entry equal to what an unlisted byte reads as. State.reset holds no disabled function and no request for one, so the invariant of the disabled functions holds. (03_start_load_wipe.md R96, 01_chart_contract.md R28, 14_events_recorder_mailboxes.md R467, 01_chart_contract.md R51) -/
def Obligations.InvariantsHoldAtReset : Prop :=
  (StoresWf State.reset)
  ∧ (FuncsListed State.reset)

/-- Every step keeps the byte stores in canonical form. From any state whose flash, SRAM and log memory are in canonical form, whatever command waits, and also when none waits, a step answers a state whose stores are in canonical form. (03_start_load_wipe.md R96, 03_start_load_wipe.md R112, 14_events_recorder_mailboxes.md R469, 08_loop_engine.md R290) -/
def Obligations.StoresStayCanonical : Prop :=
  ∀ s t : State, StoresWf s → step s = .next t → StoresWf t

/-- No step clears a fuse bit, and only a life-cycle transition sets one. Whatever a step does, a fuse bit that is 1 stays 1: in the three life-cycle copies, in the three key-dead copies, in the owner hash and in the device key; and the unique number and the root-key hash never change. When no life-cycle transition is in progress, a command leaves every fuse as it was. (15_security_debug_power.md R491, 15_security_debug_power.md R492, 15_security_debug_power.md R504) -/
def Obligations.FuseBitsOnlyRise : Prop :=
  (∀ s t : State, step s = .next t → FusesKept s.fuses t.fuses)
  ∧ (∀ (c : Instr) (s t : State), s.sec.lct = none → exec c s = .next t → t.fuses = s.fuses)

/-- No step ever disables a function that the manual does not list. From any state in which every disabled function and every waiting request names an engine whose functions may be disabled, a step answers a state of the same kind. SEQ, the crossings, the signal engine, VMU, the QPS engines, PTC, the pack engines, the network engines, GPIO, EVM, REC, MBX, SEC and PWR have no function that may be disabled. (01_chart_contract.md R51, 14_events_recorder_mailboxes.md R483, 11_pack_redundancy.md R387, 16_electrical_package.md R552) -/
def Obligations.OnlyListedFunctionsDisabled : Prop :=
  (∀ s t : State, FuncsListed s → step s = .next t → FuncsListed t)
  ∧ (∀ e ∈ [0, 1, 2, 3, 4, 5, 0x0C, 0x0E, 0x0F, 0x24, 0x25, 0x2B, 0x2C, 0x2D, 0x2E, 0x2F, 0x30], funcParts e = 0)

/-- The operations of the sequencer and of the signal engine have their effect when SEQ issues them. An issued NOP changes nothing but the lane; MARK writes one trace entry with its tag; PWAKE starts the wake of the gated domains of its mask; PGATE asks for the gating of the domains of its mask, at once where no work stands, later where it does, and never of IOE. An issued PUB publishes its group at its position; an issued CURVE of a declared curve writes NaN where its source is NaN or the curve gives nothing, else the curve's value with the source's quality, to the one destination signal; an undeclared curve is a contract breach. (01_chart_contract.md R39, 01_chart_contract.md R42, 01_chart_contract.md R43, 15_security_debug_power.md R514, 02_signal_space.md R76, 02_signal_space.md R78, 02_signal_space.md R569, 11_pack_redundancy.md R351) -/
def Obligations.SequencerAndSignalOperationsComplete : Prop :=
  (∀ s : State,
    (∀ eng : BitVec 6, issued s eng.toNat 0 = true → exec (.nop eng) s = .next (dropLane s))
    ∧ (issued s 0 0 = true →
      (∀ tag, exec (.mark tag) s = .next (dropLane (traceEntry 1 tag.toNat s)))
      ∧ (∀ m, exec (.pwake m) s = .next (dropLane (startWake m s)))
      ∧ (∀ m, exec (.pgate m) s = .next (dropLane { s with pwr := { s.pwr with
          gatePend := s.pwr.gatePend ||| (m &&& ~~~ domMask .ioe &&& ~~~ busyMask s (m &&& ~~~ domMask .ioe))
          gateLater := s.pwr.gateLater ||| busyMask s (m &&& ~~~ domMask .ioe) } }))))
  ∧ (∀ s : State, issued s 2 0 = true →
    (∀ g p, exec (.pub g p) s = .next (dropLane (pubEffect g.toNat p.toNat s)))
    ∧ (∀ n : BitVec 8, n.toNat < fld32 s .crve 0 0 →
      (let src := fld32 s .crve 0 (16 + 16 * n.toNat) % 2 ^ 17
       let dst := fld32 s .crve 0 (16 + 16 * n.toNat + 4) % 2 ^ 17
       let t := opTime s (8 + clog2 (fld16 s .crve 0 (16 + 16 * n.toNat + 12) % 512))
       (sigNan s src = true ∨ curveOut s n.toNat (sigW s src) = none → exec (.curve n) s = .next (dropLane (writeSig dst 0 qNan t s)))
       ∧ (∀ w, sigNan s src = false → curveOut s n.toNat (sigW s src) = some w →
         exec (.curve n) s = .next (dropLane (writeSig dst w (sigsQual s [src]) t s)))))
    ∧ (∀ n : BitVec 8, fld32 s .crve 0 0 ≤ n.toNat → exec (.curve n) s = .next (dropLane (breach 0x0107 (opWord 2 3 n.toNat) s))))

/-- An operation that may not issue has none of its effect. For every command that is an operation, w being the word that it encodes to: without a running schedule, or after a breach has stopped it, exec changes nothing. In a running schedule an operation of an engine other than 0x04 and 0x05 (the QP solver's, whose rule is R221) that is suppressed, its function or its transaction's HART port being disabled or the schedule halted, leaves nothing but its lane; an operation that is not suppressed and whose power domain is gated is a contract breach with event 0x0106 and has no other effect. (01_chart_contract.md R51, 01_chart_contract.md R43, 15_security_debug_power.md R515, 01_chart_contract.md R55) -/
def Obligations.HeldOperationsOnlyLeaveTheirLane : Prop :=
  ∀ (i : Instr) (w : Nat) (s : State), encodeOp i = some w →
    (s.seq.run = false ∨ s.seq.stopped = true → exec i s = .next s)
    ∧ (s.seq.run = true → s.seq.stopped = false → opEng w ≠ 4 → opEng w ≠ 5 → suppressed s w = true → exec i s = .next (dropLane s))
    ∧ (s.seq.run = true → s.seq.stopped = false → suppressed s w = false → ∀ d, engDomain (opEng w) = some d → domGated s d = true →
        exec i s = .next (dropLane (breach 0x0106 (w32 w) s)))

/-- LAND lands a declared buffer on its targets alone, and breaches the contract on an undeclared one. An issued LAND of a declared LBU has the landing's effect and is taken from the lane; of an LBU at or above LBU_CNT it is a contract breach with event 0x0107. When it is taken, every signal outside the buffer's targets, its payload signals and the two after them, is as before. (01_chart_contract.md R48, 01_chart_contract.md R49, 01_chart_contract.md R568, 01_chart_contract.md R55) -/
def Obligations.LandCompletes : Prop :=
  (∀ (l : BitVec 10) (s : State), issued s 1 0 = true →
    (l.toNat < lbuCnt s → exec (.land l) s = .next (dropLane (landEffect l.toNat s)))
    ∧ (lbuCnt s ≤ l.toNat → exec (.land l) s = .next (dropLane (breach 0x0107 (opWord 1 0 l.toNat) s))))
  ∧ (∀ (l : BitVec 10) (s t : State), issued s 1 0 = true → l.toNat < lbuCnt s → exec (.land l) s = .next t →
    ∀ k, k < lbutFld s l.toNat 4 4 % 2 ^ 17 ∨ lbutFld s l.toNat 4 4 % 2 ^ 17 + lbutFld s l.toNat 2 1 + 2 ≤ k → ent t k = ent s k)

/-- SUBST writes signal s + 1 by the quality of signal s. An issued SUBST of signal s: with s GOOD the value is copied GOOD; with s FORCED or SUBST it is copied SUBST; with s STALE or NaN, s + 1 keeps its value word (HOLD) or takes 0 (ZERO), with quality SUBST. A write of s + 1 is discarded while it is held or constant; every other signal is as before. (02_signal_space.md R77, 02_signal_space.md R74) -/
def Obligations.SubstFollowsSourceQuality : Prop :=
  ∀ (g : BitVec 17) (zero : Bool) (s : State), issued s 2 0 = true →
    (sigNan s g.toNat = false → sigQ s g.toNat = qGood →
      exec (.subst g zero) s = .next (dropLane (writeSig (g.toNat + 1) (sigW s g.toNat) qGood (opTime s 4) s)))
    ∧ (sigNan s g.toNat = false → sigQ s g.toNat = qForced ∨ sigQ s g.toNat = qSubst →
      exec (.subst g zero) s = .next (dropLane (writeSig (g.toNat + 1) (sigW s g.toNat) qSubst (opTime s 4) s)))
    ∧ (sigNan s g.toNat = true ∨ sigQ s g.toNat = qStale ∨ sigQ s g.toNat = qNan →
      exec (.subst g zero) s = .next (dropLane (writeRaw (g.toNat + 1) (if zero then 0 else sigW s (g.toNat + 1)) qSubst (opTime s 4) s)))
    ∧ (∀ t, exec (.subst g zero) s = .next t → ∀ k, k ≠ g.toNat + 1 → ent t k = ent s k)

/-- A write of a signal changes that signal alone, and a held signal not at all. Every write leaves every other entry of the directory alone. A write to a held (forced) or constant signal changes nothing. Else a write to an SFX or UFX signal with quality NAN or of the NaN code stores the NaN code with quality NAN, and every other word is stored with the quality given, each with the write's time and the write count advanced by one. (02_signal_space.md R67, 02_signal_space.md R68, 02_signal_space.md R69, 02_signal_space.md R72, 02_signal_space.md R74) -/
def Obligations.WriteSigSetsOneSignal : Prop :=
  ∀ (i : Nat) (w : Word) (q : Qual) (t : Word) (s : State),
    (∀ k, k ≠ i → ent (writeSig i w q t s) k = ent s k)
    ∧ (entHeld (ent s i) = true ∨ entConst (ent s i) = true → writeSig i w q t s = s)
    ∧ (entHeld (ent s i) = false → entConst (ent s i) = false → entType (ent s i) = 1 ∨ entType (ent s i) = 2 →
      (q = qNan ∨ w = nanWord → writeSig i w q t s = setEnt i (written (ent s i) nanWord qNan t) s)
      ∧ (q ≠ qNan → w ≠ nanWord → writeSig i w q t s = setEnt i (written (ent s i) w q t) s))
    ∧ (∀ v r, (written (ent s i) v r t).wtime = t ∧ entWcnt (written (ent s i) v r t) = (entWcnt (ent s i) + 1) % 256)

/-- The combined quality is the worst of the inputs. The quality of an operation's inputs is NAN when some input is NAN; else STALE when some input is STALE; else SUBST when some input is SUBST or FORCED; else, with every input GOOD, GOOD. (It leaves out R73's exceptions, which their own chapters define.) (02_signal_space.md R73) -/
def Obligations.WorstQualityOfInputs : Prop :=
  ∀ (s : State) (l : List Nat), (∀ i ∈ l, sigQ s i = qGood ∨ sigQ s i = qSubst ∨ sigQ s i = qForced ∨ sigQ s i = qStale ∨ sigQ s i = qNan) →
    ((∃ i ∈ l, sigQ s i = qNan) → sigsQual s l = qNan)
    ∧ ((∀ i ∈ l, sigQ s i ≠ qNan) → (∃ i ∈ l, sigQ s i = qStale) → sigsQual s l = qStale)
    ∧ ((∀ i ∈ l, sigQ s i ≠ qNan ∧ sigQ s i ≠ qStale) → (∃ i ∈ l, sigQ s i = qSubst ∨ sigQ s i = qForced) → sigsQual s l = qSubst)
    ∧ ((∀ i ∈ l, sigQ s i = qGood) → sigsQual s l = qGood)

/-- The operations of the vector and matrix unit and of the satellite navigation engines have their effect when SEQ issues them. Issued, each of these operations of engine 0x03 has its own effect (the definition named in the Lean text) and is taken from its lane: MMUL and MADD of a declared matrix descriptor, REF_IN of a used slot of 0 to 16, REF_TEST and OBS_UPD of a used slot of 0 to 11, and MRU_VOTE, OBS_PRED, HDG_VOTE, REF_VOTE, OBS_OUT, WIND, PVT_SOLVE, PVT_OUT and HDG_SOLVE. MMUL and MADD of a descriptor at or above MAT_CNT, REF_IN of a slot that is unused or above 16, and REF_TEST and OBS_UPD of a slot that is unused or above 11 are contract breaches with event 0x0107. Each issued operation of engines 0x08 to 0x0B puts one entry at the end of the NAV queue, and changes nothing else but the lane: ACQ_CTL its mode, ACQ_SNAP, TRK_SNAP its channel, EPOCH, AIDING the words and qualities of eight signals from its operand upward, RTCM_IN those of sixteen and CCH_CLOCK those of two; the entry holds the PTP time of the tick. (04_references_observer.md R154, 04_references_observer.md R155, 04_references_observer.md R156, 05_gnss_baseband.md R186, 05_gnss_baseband.md R163, 05_gnss_baseband.md R164, 05_gnss_baseband.md R165, 05_gnss_baseband.md R185, 05_gnss_baseband.md R194, 01_chart_contract.md R55) -/
def Obligations.ObserverAndNavOperationsComplete : Prop :=
  (∀ s : State, issued s 3 0 = true →
    (∀ d : BitVec 10, d.toNat < vm s 0x14 2 → exec (.mmul d) s = .next (dropLane (mmulEffect d.toNat s)) ∧ exec (.madd d) s = .next (dropLane (maddEffect d.toNat s)))
    ∧ (∀ d : BitVec 10, vm s 0x14 2 ≤ d.toNat → exec (.mmul d) s = .next (dropLane (breach 0x0107 (opWord 3 1 d.toNat) s))
      ∧ exec (.madd d) s = .next (dropLane (breach 0x0107 (opWord 3 2 d.toNat) s)))
    ∧ exec .mruVote s = .next (dropLane (mruVoteEffect s)) ∧ exec .obsPred s = .next (dropLane (obsPredEffect s))
    ∧ (∀ n : BitVec 5, n.toNat < 17 → slotKind s n.toNat ≠ 0 → exec (.refIn n) s = .next (dropLane (refInEffect n.toNat s)))
    ∧ (∀ n : BitVec 5, n.toNat < 12 → slotKind s n.toNat ≠ 0 → exec (.refTest n) s = .next (dropLane (refTestEffect n.toNat s)) ∧ exec (.obsUpd n) s = .next (dropLane (obsUpdEffect n.toNat s)))
    ∧ (∀ n : BitVec 5, 17 ≤ n.toNat ∨ slotKind s n.toNat = 0 → exec (.refIn n) s = .next (dropLane (breach 0x0107 (opWord 3 0x0A n.toNat) s)))
    ∧ (∀ n : BitVec 5, 12 ≤ n.toNat ∨ slotKind s n.toNat = 0 → exec (.refTest n) s = .next (dropLane (breach 0x0107 (opWord 3 0x0B n.toNat) s))
      ∧ exec (.obsUpd n) s = .next (dropLane (breach 0x0107 (opWord 3 0x0E n.toNat) s)))
    ∧ exec .hdgVote s = .next (dropLane (hdgVoteEffect s)) ∧ exec .refVote s = .next (dropLane (refVoteEffect s))
    ∧ exec .obsOut s = .next (dropLane (obsOutEffect s)) ∧ exec .wind s = .next (dropLane (windEffect s))
    ∧ exec .pvtSolve s = .next (dropLane (pvtSolveEffect s)) ∧ exec .pvtOut s = .next (dropLane (pvtOutEffect s)) ∧ exec .hdgSolve s = .next (dropLane (hdgSolveEffect s)))
  ∧ (∀ s : State,
    (issued s 8 0 = true → (∀ m, exec (.acqCtl m) s = .next (dropLane (pushNav 8 1 m.toNat [] s))) ∧ exec .acqSnap s = .next (dropLane (pushNav 8 2 0 [] s)))
    ∧ (issued s 9 0 = true → ∀ ch, exec (.trkSnap ch) s = .next (dropLane (pushNav 9 1 ch.toNat [] s)))
    ∧ (issued s 0x0A 0 = true → exec .epoch s = .next (dropLane (pushNav 0x0A 1 0 [] s))
      ∧ (∀ g, exec (.aiding g) s = .next (dropLane (pushNav 0x0A 2 g.toNat (navBlock s g.toNat 8) s)))
      ∧ (∀ g, exec (.rtcmIn g) s = .next (dropLane (pushNav 0x0A 3 g.toNat (navBlock s g.toNat 16) s))))
    ∧ (issued s 0x0B 0 = true → ∀ g, exec (.cchClock g) s = .next (dropLane (pushNav 0x0B 1 g.toNat (navBlock s g.toNat 2) s)))
    ∧ (∀ eng opc opnd words, Only [.nav] s (pushNav eng opc opnd words s)
      ∧ ∃ o : NavOp, o.eng = eng ∧ o.opc = opc ∧ o.opnd = opnd ∧ o.words = words ∧ o.ns = nowNs s
        ∧ pushNav eng opc opnd words s = { s with nav := { s.nav with ops := s.nav.ops ++ [o] } }))

/-- The operations of the QP solver, the mode operations and LCE_STEP have their effect when SEQ issues them. Issued on a declared template: the first segment of a build always has its effect; a later segment, FAR_FACT, FAR_START, FAR_ITER and FAR_END have theirs when the template's solve is not broken, and leave nothing but the lane changed when it is. Issued on a template at or above TPL_CNT whose solve is not broken, each of the five is a contract breach with event 0x0107. Each of them, suppressed in a running schedule by a debug halt, breaks the solve of its template (qpsBreak) and has no other effect than leaving its lane. Each issued operation 0x30 to 0x39 of engine 0x06 has its own effect and is taken from its lane, and so is LCE_STEP of a declared context; LCE_STEP of a context at or above CTX_CNT is a contract breach with event 0x0107. An operation's own effect is the definition named in the Lean text. (06_qp_solver.md R199, 06_qp_solver.md R211, 06_qp_solver.md R204, 06_qp_solver.md R212, 06_qp_solver.md R213, 06_qp_solver.md R215, 06_qp_solver.md R216, 06_qp_solver.md R221, 07_modes_allocation.md R229, 07_modes_allocation.md R230, 08_loop_engine.md R267, 08_loop_engine.md R268) -/
def Obligations.SolverAndModeOperationsComplete : Prop :=
  (∀ (t : BitVec 4) (s : State), t.toNat < tplCnt s →
    (issued s 4 0 = true →
      exec (.fsaBuild t 0) s = .next (dropLane (fsaBuildEffect t.toNat 0 s))
      ∧ ((qTpl s t.toNat).broken = false → ∀ e, exec (.fsaBuild t e) s = .next (dropLane (fsaBuildEffect t.toNat e.toNat s)))
      ∧ ((qTpl s t.toNat).broken = true → ∀ e, e ≠ 0 → exec (.fsaBuild t e) s = .next (dropLane s)))
    ∧ (issued s 5 0 = true → (qTpl s t.toNat).broken = false →
      (∀ c, exec (.farFact t c) s = .next (dropLane (farFactEffect t.toNat (c.toNat + 1) s)))
      ∧ exec (.farStart t) s = .next (dropLane (farStartEffect t.toNat s))
      ∧ (∀ k, exec (.farIter t k) s = .next (dropLane (farIterEffect t.toNat k.toNat s)))
      ∧ exec (.farEnd t) s = .next (dropLane (farEndEffect t.toNat s)))
    ∧ (issued s 5 0 = true → (qTpl s t.toNat).broken = true →
      (∀ c, exec (.farFact t c) s = .next (dropLane s)) ∧ exec (.farStart t) s = .next (dropLane s)
      ∧ (∀ k, exec (.farIter t k) s = .next (dropLane s)) ∧ exec (.farEnd t) s = .next (dropLane s)))
  ∧ (∀ (t : BitVec 4) (s : State), tplCnt s ≤ t.toNat → (qTpl s t.toNat).broken = false →
    (issued s 4 0 = true → ∀ e, exec (.fsaBuild t e) s = .next (dropLane (breach 0x0107 (opWord 4 1 (t.toNat + 16 * e.toNat)) s)))
    ∧ (issued s 5 0 = true →
      (∀ c, exec (.farFact t c) s = .next (dropLane (breach 0x0107 (opWord 5 1 (t.toNat + 16 * c.toNat)) s)))
      ∧ exec (.farStart t) s = .next (dropLane (breach 0x0107 (opWord 5 2 t.toNat) s))
      ∧ (∀ k, exec (.farIter t k) s = .next (dropLane (breach 0x0107 (opWord 5 3 (t.toNat + 16 * k.toNat)) s)))
      ∧ exec (.farEnd t) s = .next (dropLane (breach 0x0107 (opWord 5 4 t.toNat) s))))
  ∧ (∀ (t : BitVec 4) (s : State), s.seq.run = true → s.seq.stopped = false → halted s = true →
    (∀ e, exec (.fsaBuild t e) s = .next (dropLane (qpsBreak t.toNat 0 s))) ∧ (∀ c, exec (.farFact t c) s = .next (dropLane (qpsBreak t.toNat 1 s)))
    ∧ exec (.farStart t) s = .next (dropLane (qpsBreak t.toNat 2 s)) ∧ (∀ k, exec (.farIter t k) s = .next (dropLane (qpsBreak t.toNat 3 s)))
    ∧ exec (.farEnd t) s = .next (dropLane (qpsBreak t.toNat 4 s)))
  ∧ (∀ s : State,
    (issued s 6 0 = true →
      exec .modeStep s = .next (dropLane (modeStepEffect s))
      ∧ (∀ n, exec (.seatFeed n) s = .next (dropLane (seatFeedEffect n.toNat s)) ∧ exec (.seatTake n) s = .next (dropLane (seatTakeEffect n.toNat s)))
      ∧ exec .tauMix s = .next (dropLane (tauMixEffect s)) ∧ exec .pwrShare s = .next (dropLane (pwrShareEffect s))
      ∧ exec .flr s = .next (dropLane (flrEffect s)) ∧ exec .allocOut s = .next (dropLane (allocOutEffect s))
      ∧ (∀ g, exec (.caPrep g) s = .next (dropLane (caPrepEffect g.toNat s)) ∧ exec (.caEval g) s = .next (dropLane (caEvalEffect g.toNat s)))
      ∧ exec .simStep s = .next (dropLane (simStepEffect s)))
    ∧ (∀ c : BitVec 8, issued s 6 (cxGrp s c.toNat) = true →
      (c.toNat < ctxCnt s → exec (.lceStep c) s = .next (dropLane (lceStepEffect c.toNat s)))
      ∧ (ctxCnt s ≤ c.toNat → exec (.lceStep c) s = .next (dropLane (breach 0x0107 (opWord 6 1 c.toNat) s)))))

/-- The operations of the filter chain and of the current loops have their effect when SEQ issues them. Issued: FCE_RESTART of a started channel marks it for a restart at the first value read after the marker, and of one not started leaves only the lane changed. ANV_SEL, LPO_RBSEL of an enabled output and LPI_SEL of an enabled input put a select of 0 to 2 into the FIFO to the modulators; a select of 3, and an operation of an output or input channel that the Chart does not enable, are contract breaches with event 0x0107. QDC_ZERO puts a clear of its decoder into its FIFO. LPO_SET and LPO_CHECK of an enabled output, LPI_CHECK of an enabled input and HART_REQ of a declared transaction whose port is not disabled have their own effect, the definition named in the Lean text; HART_REQ of an undeclared transaction is a contract breach, and of a disabled port it leaves only the lane changed. (09_filter_chain.md R297, 09_filter_chain.md R302, 09_filter_chain.md R311, 09_filter_chain.md R312, 10_current_loops.md R317, 10_current_loops.md R328, 01_chart_contract.md R55) -/
def Obligations.ConverterOperationsComplete : Prop :=
  ∀ s : State,
    (∀ c : BitVec 6, issued s 7 c.toNat = true →
      ((fceChan s c.toNat).started = true → exec (.fceRestart c) s = .next (dropLane (setFce c.toNat { fceChan s c.toNat with pendCmd := true } s)))
      ∧ ((fceChan s c.toNat).started = false → exec (.fceRestart c) s = .next (dropLane s)))
    ∧ (issued s 0x2A 0 = true →
      (∀ (c : BitVec 3) (x : BitVec 2), x ≠ 3 → exec (.anvSel c x) s = .next (dropLane (sendSelect (40 + c.toNat) x s)))
      ∧ (∀ c : BitVec 3, exec (.anvSel c 3) s = .next (dropLane (breach 0x0107 (opWord 0x2A 1 (c.toNat + 24)) s)))
      ∧ (∀ d, exec (.qdcZero d) s = .next (dropLane { s with fce := { s.fce with zeroFifo := s.fce.zeroFifo ++ [handed s 0 d.toNat] } })))
    ∧ (∀ c : BitVec 4, issued s 0x28 c.toNat = true →
      (lpoOn s c.toNat = true → exec (.lpoSet c) s = .next (dropLane (lpoSetEffect c.toNat s)) ∧ exec (.lpoCheck c) s = .next (dropLane (lpoCheckEffect c.toNat s))
        ∧ (∀ x : BitVec 2, x ≠ 3 → exec (.lpoRbsel c x) s = .next (dropLane (sendSelect (24 + c.toNat) x s))))
      ∧ (lpoOn s c.toNat = false → exec (.lpoSet c) s = .next (dropLane (breach 0x0107 (opWord 0x28 1 c.toNat) s))
        ∧ exec (.lpoCheck c) s = .next (dropLane (breach 0x0107 (opWord 0x28 2 c.toNat) s)))
      ∧ (∀ x : BitVec 2, x = 3 ∨ lpoOn s c.toNat = false → exec (.lpoRbsel c x) s = .next (dropLane (breach 0x0107 (opWord 0x28 3 (c.toNat + 16 * x.toNat)) s))))
    ∧ (∀ c : BitVec 5, issued s 0x29 c.toNat = true →
      (lpiOn s c.toNat = true → exec (.lpiCheck c) s = .next (dropLane (lpiCheckEffect c.toNat s))
        ∧ (∀ x : BitVec 2, x ≠ 3 → exec (.lpiSel c x) s = .next (dropLane (sendSelect c.toNat x s))))
      ∧ (lpiOn s c.toNat = false → exec (.lpiCheck c) s = .next (dropLane (breach 0x0107 (opWord 0x29 2 c.toNat) s)))
      ∧ (∀ x : BitVec 2, x = 3 ∨ lpiOn s c.toNat = false → exec (.lpiSel c x) s = .next (dropLane (breach 0x0107 (opWord 0x29 1 (c.toNat + 32 * x.toNat)) s))))
    ∧ (∀ t : BitVec 9, issued s 0x29 64 = true →
      (hartOff s (txPort s t.toNat) = false → t.toNat < txnCnt s → exec (.hartReq t) s = .next (dropLane (hartReqEffect t.toNat s)))
      ∧ (hartOff s (txPort s t.toNat) = false → txnCnt s ≤ t.toNat → exec (.hartReq t) s = .next (dropLane (breach 0x0107 (opWord 0x29 3 t.toNat) s)))
      ∧ (hartOff s (txPort s t.toNat) = true → exec (.hartReq t) s = .next (dropLane s)))

/-- The operations of the pack engines, of PTC, of the time trigger unit and of the field ports have their effect when SEQ issues them. Issued, PSW_TX, BARK_TX, ROLE_STEP, EQ_SNAP and PTC_READ have their own effect, the definition named in the Lean text. TTU_ARM puts the entry's programming and TTU_STOP a stop at the end of the entry's FIFO, and nothing else changes but the lane. Issued on a declared object or descriptor, CAN_TX, SER_TX and ETH_TX have their own effect and CAN_CANCEL puts a cancel at the end of the controller's FIFO; on an undeclared one each is a contract breach with event 0x0107. (11_pack_redundancy.md R384, 12_time.md R418, 12_time.md R409, 11_pack_redundancy.md R351, 11_pack_redundancy.md R358, 11_pack_redundancy.md R380, 13_field_ports.md R432, 13_field_ports.md R433, 13_field_ports.md R442, 13_field_ports.md R447, 13_field_ports.md R449) -/
def Obligations.PackTimeAndPortOperationsComplete : Prop :=
  (∀ s : State,
    (issued s 0x0E 0 = true → exec .pswTx s = .next (dropLane (pswTxEffect s)))
    ∧ (issued s 0x0F 0 = true → exec .barkTx s = .next (dropLane (barkTxEffect s)) ∧ exec .roleStep s = .next (dropLane (roleStepEffect s))
      ∧ (∀ i n, exec (.eqSnap i n) s = .next (dropLane (eqSnapEffect i.toNat n.toNat s))))
    ∧ (issued s 0x0C 0 = true → exec .ptcRead s = .next (dropLane (ptcReadEffect s)))
    ∧ (∀ n : BitVec 6, issued s 0x0D n.toNat = true →
      exec (.ttuArm n) s = .next (dropLane (modTtu n.toNat (fun e => { e with fifo := e.fifo ++ [handed s 4 (armProg s n.toNat)] }) s))
      ∧ exec (.ttuStop n) s = .next (dropLane (modTtu n.toNat (fun e => { e with fifo := e.fifo ++ [handed s 4 .stop] }) s))))
  ∧ (∀ s : State,
    (∀ (c : Fin 8) (o : BitVec 7), issued s (0x10 + c.val) 0 = true →
      (o.toNat < objCnt s c → exec (.canTx c o) s = .next (dropLane (canTxEffect c o.toNat s))
        ∧ exec (.canCancel c o) s = .next (dropLane (modCan c (fun y => { y with fifo := y.fifo ++ [handed s 4 (.cancel o.toNat)] }) s)))
      ∧ (objCnt s c ≤ o.toNat → exec (.canTx c o) s = .next (dropLane (breach 0x0107 (opWord (0x10 + c.val) 1 o.toNat) s))
        ∧ exec (.canCancel c o) s = .next (dropLane (breach 0x0107 (opWord (0x10 + c.val) 2 o.toNat) s))))
    ∧ (∀ (p : Fin 12) (d : BitVec 6), issued s (0x18 + p.val) 0 = true →
      (d.toNat < se s p 0x1C 2 → exec (.serTx p d) s = .next (dropLane (serTxEffect p d.toNat s)))
      ∧ (se s p 0x1C 2 ≤ d.toNat → exec (.serTx p d) s = .next (dropLane (breach 0x0107 (opWord (0x18 + p.val) 1 d.toNat) s))))
    ∧ (∀ (p : Fin 4) (d : BitVec 6), issued s (0x24 + p.val) 0 = true →
      (d.toNat < et s p 0x12 2 → exec (.ethTx p d) s = .next (dropLane (ethTxEffect p d.toNat s)))
      ∧ (et s p 0x12 2 ≤ d.toNat → exec (.ethTx p d) s = .next (dropLane (breach 0x0107 (opWord (0x24 + p.val) 1 d.toNat) s)))))

/-- EVM_CHECK, the mailbox operations, SEC_READ, PWR_READ and GPIO_SET have their effect when SEQ issues them. Issued: EVM_CHECK of a slot with a Chart code (0xF000 to 0xF0FF) keeps its condition's level, and raises the slot's code with the condition's value, its quality and the frame number when the condition is true and either the slot has no EDGE bit or the condition was false before; of another slot it is a contract breach with event 0x0107. MBX_SERVE of a bound mailbox that is DONE and owned by SEQ frees it, and records MBX_POST_REFUSED unless its code is DONE; of a bound mailbox not so it has latchCommand's effect; of an unbound one it is a contract breach. MBX_POST of a declared template in a bound mailbox: where the lock is taken it records MBX_POST_REFUSED (0x0E05) with BUSY and has no other effect; a FREE mailbox of a device not asleep is then POSTED, owned and posted by SEQ (master 3), with its post counted and its acknowledgement cleared, and every other mailbox is as before. SEC_READ writes four GOOD words and PWR_READ three to the signals that PWRT names, and each leaves only the lane changed when PWRT names none. GPIO_SET has gpioSetEffect. (14_events_recorder_mailboxes.md R455, 14_events_recorder_mailboxes.md R476, 14_events_recorder_mailboxes.md R480, 14_events_recorder_mailboxes.md R481, 15_security_debug_power.md R529, 16_electrical_package.md R552, 01_chart_contract.md R55) -/
def Obligations.SystemOperationsComplete : Prop :=
  ∀ s : State,
    (∀ n : BitVec 8, issued s 0x2C 0 = true →
      (evmtFld s n.toNat 0 2 < 0xF000 ∨ 0xF0FF < evmtFld s n.toNat 0 2 → exec (.evmCheck n) s = .next (dropLane (breach 0x0107 (opWord 0x2C 1 n.toNat) s)))
      ∧ (0xF000 ≤ evmtFld s n.toNat 0 2 → evmtFld s n.toNat 0 2 ≤ 0xF0FF →
      (let now := sigTrue s (evmtFld s n.toNat 8 4 % 2 ^ 17)
       let t := { s with evm := { s.evm with edges := tset false s.evm.edges n.toNat now } }
       (now = false ∨ (bitOf (evmtFld s n.toNat 3 1) 1 = true ∧ tget false s.evm.edges n.toNat = true) → exec (.evmCheck n) s = .next (dropLane t))
       ∧ (now = true → (bitOf (evmtFld s n.toNat 3 1) 1 = false ∨ tget false s.evm.edges n.toNat = false) →
         exec (.evmCheck n) s = .next (dropLane (raise (evmtFld s n.toNat 0 2) (sigW s (evmtFld s n.toNat 8 4 % 2 ^ 17))
           ((sigQ s (evmtFld s n.toNat 8 4 % 2 ^ 17)).setWidth 32) (w32 (s.seq.k % s.hdr.m)) t))))))
    ∧ (∀ n : BitVec 4, issued s 0x2E 0 = true → mbxtFld s n.toNat 2 2 = 0 → exec (.mbxServe n) s = .next (dropLane (breach 0x0107 (opWord 0x2E 1 n.toNat) s)))
    ∧ (∀ n : BitVec 4, issued s 0x2E 0 = true → mbxtFld s n.toNat 2 2 ≠ 0 →
      (let m := mbxOf s n.toNat
       let t := setMbx n.toNat { m with state := .free, owner := 0 } s
       (m.state = .done → m.owner = 3 → m.ackCode = rcDone → exec (.mbxServe n) s = .next (dropLane t))
       ∧ (m.state = .done → m.owner = 3 → m.ackCode ≠ rcDone → exec (.mbxServe n) s = .next (dropLane (raise 0x0E05 (w32 n.toNat) (w32 (mbxCmd m)) (m.ackCode.setWidth 32) t)))
       ∧ (m.state ≠ .done ∨ m.owner ≠ 3 → exec (.mbxServe n) s = .next (dropLane (latchCommand n.toNat s))))
      ∧ (∀ t : BitVec 8, t.toNat < fld16 s .mbxt 0 4 → (lockRead n.toNat 3 s).1 ≠ 0 →
        exec (.mbxPost n t) s = .next (dropLane (raise 0x0E05 (w32 n.toNat) (w32 ((tplWord s t.toNat 0).toNat % 65536)) (rcBusy.setWidth 32) s)))
      ∧ (∀ t : BitVec 8, t.toNat < fld16 s .mbxt 0 4 → (mbxOf s n.toNat).state = .free → s.boot.dev ≠ .sleep →
        ∃ u, exec (.mbxPost n t) s = .next u ∧ (∀ k, k ≠ n.toNat → mbxOf u k = mbxOf s k)
          ∧ (mbxOf u n.toNat).state = .posted ∧ (mbxOf u n.toNat).owner = 3 ∧ (mbxOf u n.toNat).poster = 3
          ∧ (mbxOf u n.toNat).posts = (mbxOf s n.toNat).posts + 1 ∧ (mbxOf u n.toNat).ackValid = false))
    ∧ (issued s 0x2F 0 = true → (bitOf (fld32 s .pwrt 0 0x14) 31 = true → exec .secRead s = .next (dropLane s))
      ∧ (bitOf (fld32 s .pwrt 0 0x14) 31 = false → exec .secRead s = .next (dropLane (writeList (fld32 s .pwrt 0 0x14 % 2 ^ 17)
        [(w32 (lcState s), qGood), (w32 s.sec.level.toNat, qGood), (w32 (b2n s.sec.hostauth), qGood), (w32 (b2n (keyLive s)), qGood)] (opTime s 6) s))))
    ∧ (issued s 0x30 0 = true → (bitOf (fld32 s .pwrt 0 0x18) 31 = true → exec .pwrRead s = .next (dropLane s))
      ∧ (bitOf (fld32 s .pwrt 0 0x18) 31 = false → exec .pwrRead s = .next (dropLane (writeList (fld32 s .pwrt 0 0x18 % 2 ^ 17)
        [(w32 (railMask s .on), qGood), (w32 (railMask s .failed), qGood), (w32 s.pwr.faulted.toNat, qGood)] (opTime s 6) s))))
    ∧ (issued s 0x2B 0 = true → ∀ g b, exec (.gpioSet g b) s = .next (dropLane (gpioSetEffect g.toNat b s)))

/-- A reset request enters RESET, records the change and keeps what its kind preserves. From any state but RESET, a POWER-ON assertion, RESET_N low and PFAIL_N low enter RESET: the line that asked for it is kept as asserted, STATE_CHANGE (0x0141) is raised with the old state and the reset value of the SAFE-HOLD reasons, the entry is counted in the AON block (the count stays at its top value) with its kind, the kind before and PFAIL, no schedule runs and nothing is sealed. The flash, the SRAM, the crystal clock count and the calendar are as before; so is the log memory, unless a POWER-ON finds staged records (it may then tear one, tearOn); and so are the fuses while no life-cycle transition is in progress. (03_start_load_wipe.md R90, 03_start_load_wipe.md R91, 03_start_load_wipe.md R93, 03_start_load_wipe.md R570, 03_start_load_wipe.md R111) -/
def Obligations.ResetRequestsEnterReset : Prop :=
  ∀ s : State, s.boot.dev ≠ .reset → ∀ into : ResetKind → Bool → Pins → State,
    (∀ kind pf p, into kind pf p = raise 0x0141 (w32 (devCode s.boot.dev)) 1 0x20 (resetState kind (tearOn kind { s with pins := p, aon := aonReset kind false pf s.aon }))) →
    exec .porAssert s = .next (into .powerOn false { s.pins with por := true })
    ∧ exec .resetNLow s = .next (into .pin false { s.pins with resetN := false })
    ∧ exec .pfailNLow s = .next (into .pin true { s.pins with pfailN := false })
    ∧ (∀ kind pf p, (into kind pf p).boot.dev = .reset ∧ (into kind pf p).boot.sealed = false ∧ (into kind pf p).seq.run = false ∧ (into kind pf p).pins = p
      ∧ (into kind pf p).aon.kind = kindCode kind ∧ (into kind pf p).aon.prevKind = s.aon.kind ∧ (into kind pf p).aon.pfail = pf
      ∧ (into kind pf p).aon.count = (if s.aon.count = 0xFFFF#16 then s.aon.count else s.aon.count + 1)
      ∧ (into kind pf p).flash = s.flash ∧ (into kind pf p).sram = s.sram ∧ (kind ≠ .powerOn ∨ s.recd.staging = [] → (into kind pf p).logMem = s.logMem) ∧ (s.sec.lct = none → (into kind pf p).fuses = s.fuses)
      ∧ (into kind pf p).cclk = s.cclk ∧ (into kind pf p).cal = s.cal)

/-- A reset request in RESET joins the reset in progress, and the last request to end releases it. In RESET, RESET_N low changes only its pin and takes back a release; it neither counts a reset nor changes the kind nor restarts the flush. PFAIL_N low does the same and sets PFAIL. A POWER-ON assertion sets the kind to POWER-ON, empties staging and ends the flush. In an unreleased RESET with no other request, the release of the POWER-ON assertion, a rise of RESET_N and the release of PFAIL_N release the reset at the present CCLK count. The end of the flush is noted when staging is empty or no log exists; the cutoff ends a flush that is not over 2 ms after the entry to RESET (flushLate) and marks it truncated. (03_start_load_wipe.md R95, 03_start_load_wipe.md R93, 03_start_load_wipe.md R91, 03_start_load_wipe.md R94, 14_events_recorder_mailboxes.md R470) -/
def Obligations.ResetJoinsAndReleases : Prop :=
  (∀ s : State, s.boot.dev = .reset →
    exec .resetNLow s = .next { s with pins := { s.pins with resetN := false }, boot := { s.boot with released := false } }
    ∧ exec .pfailNLow s = .next { s with pins := { s.pins with pfailN := false }, boot := { s.boot with released := false }, aon := { s.aon with pfail := true } }
    ∧ (∃ t, exec .porAssert s = .next t ∧ t.aon = { s.aon with kind := 1 } ∧ t.recd.staging = [] ∧ t.recd.preq = [] ∧ t.boot.flushDone = true ∧ t.boot.released = false ∧ t.boot.dev = .reset))
  ∧ (∀ s : State, s.boot.dev = .reset → 
    (s.boot.released = false → s.pins.resetN = true → s.pins.pfailN = true →
      exec .porRelease s = .next (modBoot (fun b => { b with released := true, releaseAt := s.cclk }) { s with pins := { s.pins with por := false } }))
    ∧ (s.boot.released = false → s.pins.por = false → s.pins.pfailN = true →
      exec .resetNRise s = .next (modBoot (fun b => { b with released := true, releaseAt := s.cclk }) { s with pins := { s.pins with resetN := true } }))
    ∧ (s.boot.released = false → s.pins.por = false →
      exec .pfailRelease s = .next (modBoot (fun b => { b with released := true, releaseAt := s.cclk }) { s with pins := { s.pins with pfailN := true, resetN := true } }))
    ∧ (s.recd.staging = [] ∨ s.recd.hasLog = false → exec .recorderFlushEnd s = .next (modBoot (fun b => { b with flushDone := true }) s))
    ∧ (flushLate s = true → exec .flushCutoff s = .next (modBoot (fun b => { b with flushDone := true }) { s with aon := { s.aon with flushTrunc := true } })))

/-- From RESET through WIPE and LOAD the boot sequence advances as the manual says. A released and flushed RESET ends 20,000 ticks after the release: the straps are sampled and the state is WIPE. The zeroiser's completion leaves the SRAM, the directory and the crossings blank, with the wipe counted; a failed check enters FAULT with cause 2, else LOAD begins. With the headers read in LOAD of a device neither blank nor scrapped, and a candidate present, the copy to try first is the one candidate, or of two copy B where its SEQ is the higher and else copy A; a streamed copy is then in VERIFY with the copy marked tried. (03_start_load_wipe.md R90, 03_start_load_wipe.md R94, 03_start_load_wipe.md R96, 03_start_load_wipe.md R98, 03_start_load_wipe.md R100, 01_chart_contract.md R33, 00_scope.md R4) -/
def Obligations.BootSequenceAdvances : Prop :=
  ∀ s : State,
    (s.boot.dev = .reset → s.boot.released = true → s.boot.flushDone = true → ∀ role unit alj log, ∃ t, exec (.resetExit role unit alj log) s = .next t
      ∧ t.boot.dev = .wipe ∧ t.pins = { s.pins with roleSel := role, unitSel := unit, alj := alj } ∧ t.boot.strapRole = role ∧ s.boot.releaseAt + 20000 ≤ t.cclk
      ∧ t.flash = s.flash ∧ t.sram = s.sram ∧ t.fuses = s.fuses)
    ∧ (s.boot.dev = .wipe → ∃ t, exec (.zeroiserComplete none) s = .next t ∧ t.boot.dev = .load ∧ t.sram = [] ∧ t.sdir = [] ∧ t.lbus = [] ∧ t.dirid = 0
      ∧ t.boot.wipes = s.boot.wipes + 1 ∧ t.boot.wipeDone = true ∧ t.flash = s.flash ∧ t.fuses = s.fuses)
    ∧ (s.boot.dev = .wipe → ∀ f, ∃ t, exec (.zeroiserComplete (some f)) s = .next t ∧ t.boot.dev = .fault ∧ t.boot.faultCause = 2 ∧ t.boot.checkFail = true ∧ t.sram = [] ∧ t.sdir = [])
    ∧ (s.boot.dev = .load → s.boot.loading = false → lcState s ≠ 0 → lcState s ≠ 4 → (isCandidate (flashImg s false) = true ∨ isCandidate (flashImg s true) = true) →
      ∀ oct n, ∃ t, exec (.chartHeadersRead oct n) s = .next t ∧ t.boot.dev = .load ∧ t.boot.loading = true ∧ t.boot.octalC = oct
        ∧ t.boot.candA = isCandidate (flashImg s false) ∧ t.boot.candB = isCandidate (flashImg s true)
        ∧ t.seq.copy = (if isCandidate (flashImg s false) = true ∧ isCandidate (flashImg s true) = true then decide (iSeq (flashImg s false) < iSeq (flashImg s true)) else isCandidate (flashImg s true))
        ∧ t.flash = s.flash ∧ t.sram = s.sram)
    ∧ (s.boot.dev = .load → s.boot.loading = true → ∀ n, ∃ t, exec (.chartCopyStreamed n) s = .next t ∧ t.boot.dev = .verify
        ∧ (if s.seq.copy then t.boot.triedB = true ∧ t.boot.triedA = s.boot.triedA else t.boot.triedA = true ∧ t.boot.triedB = s.boot.triedB) ∧ t.flash = s.flash)

/-- An accepted copy is sealed, SYNC follows, and the schedule starts at a Meridian boundary. In VERIFY a copy without a failed check begins the seal; a rejected one with no other candidate enters FAULT with cause 1, and with another untried candidate WIPE begins again with that copy. The seal's completion leaves the device sealed in SYNC. SYNC without time records the time-out once and sets its SAFE-HOLD reason. With valid time the schedule starts: it runs, at tick 0 of the frame that begins the next Meridian, in STANDBY, with the SYNC and BOOT reasons cleared; the contexts and trigger entries then start and the work of that frame boundary is done. (01_chart_contract.md R33, 01_chart_contract.md R53, 03_start_load_wipe.md R100, 03_start_load_wipe.md R102, 03_start_load_wipe.md R104, 01_chart_contract.md R24) -/
def Obligations.VerifySealAndFirstFrame : Prop :=
  ∀ s : State,
    (s.boot.dev = .verify → s.boot.sealing = false → ∀ n,
      ∃ t, exec (.verifyComplete n) s = .next t ∧ t.flash = s.flash ∧ (verdictOf (elapse (min n 8000000) s) (flashImg s s.seq.copy)).elim
        (t.boot.dev = .verify ∧ t.boot.sealing = true ∧ t.boot.roleValid = true)
        (fun _ => if (if s.seq.copy then s.boot.candA && !s.boot.triedA else s.boot.candB && !s.boot.triedB) then t.boot.dev = .wipe ∧ t.seq.copy = !s.seq.copy
          else t.boot.dev = .fault ∧ t.boot.faultCause = 1))
    ∧ (s.boot.dev = .verify → s.boot.sealing = true → ∃ t, exec .sealComplete s = .next t ∧ t.boot.dev = .sync ∧ t.boot.sealed = true ∧ t.boot.sealing = false ∧ t.flash = s.flash ∧ t.fuses = s.fuses)
    ∧ (s.boot.dev = .sync → s.boot.syncTmo = false → s.ptc.status = 0 →
      exec .syncTmo s = .next (raiseOpen 0x0120 (setReason 1 s.seq.k (modBoot (fun b => { b with syncTmo := true }) s))))
    ∧ (s.boot.dev = .sync → s.ptc.status ≠ 0 → s.seq.run = false → ∃ u, exec .scheduleStart s = .next (frameHooks (ttuAutoArm (lceStart u))) ∧ u.boot.dev = .standby
        ∧ u.seq.run = true ∧ u.seq.k = s.hdr.m * nextMerid s ∧ u.seq.tick = 0 ∧ u.seq.frameLen = s.hdr.f ∧ bitOf u.boot.reasons.toNat 1 = false ∧ bitOf u.boot.reasons.toNat 5 = false)

/-- The frame's own events advance the schedule. While the schedule runs, a frame boundary counts the frame; the slack zone fetches the next frame's class entry and takes a pending servo rate; the phase sample keeps the newest sixteen samples, their mean as the error, and lengthens or shortens the frame by at most one tick; the trim update sets the trim by its law. (01_chart_contract.md R22, 01_chart_contract.md R23, 01_chart_contract.md R25, 01_chart_contract.md R26, 01_chart_contract.md R39, 12_time.md R402) -/
def Obligations.FrameEventsAdvance : Prop :=
  ∀ s : State, s.seq.run = true →
    (∀ alj, exec (.frameBoundary alj) s = .next (frameHooks (gatingEnds (beginList s.seq.nextList s.seq.nextTag
      { toTick s.seq.frameLen s with seq := { (toTick s.seq.frameLen s).seq with k := s.seq.k + 1, tick := 0, frameLen := s.hdr.f }, pins := { s.pins with alj := alj } }))))
    ∧ (s.seq.ended = true → ∃ t, exec .slackZoneBegin s = .next t ∧ t.seq.nextList = (fetchClass s ((s.seq.k + 1) % s.hdr.m)).seq.nextList
        ∧ t.seq.nextTag = (fetchClass s ((s.seq.k + 1) % s.hdr.m)).seq.nextTag ∧ t.seq.k = s.seq.k ∧ (∀ r, s.ptc.rNext = some r → t.ptc.r = r ∧ t.ptc.rNext = none))
    ∧ (∀ e : Int, ∃ t, exec (.alignerPhaseSample e) s = .next t ∧ t.seq.phases = (e :: s.seq.phases).take 16 ∧ t.seq.err = roundZero (meanPhase ((e :: s.seq.phases).take 16))
        ∧ t.seq.frameLen = (if 1 ≤ t.seq.err then s.hdr.f + 1 else if t.seq.err ≤ -1 then s.hdr.f - 1 else s.hdr.f) ∧ t.seq.k = s.seq.k)
    ∧ (∃ t, exec .alignerTrimUpdate s = .next t ∧ t.seq.k = s.seq.k ∧ t.seq.phases = s.seq.phases ∧ t.seq.frameLen = s.seq.frameLen
        ∧ (t.seq.fb, t.seq.trim) = trimLaw s.hdr.f (meanPhase s.seq.phases) s.seq.fb (feedForward (toTick (s.hdr.f - 16) s)))

/-- A corrected single-bit error is counted and recorded and is no breach. The event CCK_ECC_CORR of any store adds 1 to CCK_ECCCNT (which stays at its top value) and raises 0x0110; every store is as before, and so are the breach flag, the capture registers, the device state and the schedule: nothing changes but the CCK count, the event manager, the recorder and the count of open values. (R57) -/
def Obligations.EccCorrectionIsNoBreach : Prop :=
  ∀ (store : Fin 6) (s : State), ∃ t, exec (.cckEccCorr store) s = .next t
    ∧ t = raiseOpen 0x0110 { s with cck := { s.cck with eccCnt := if s.cck.eccCnt = 0xFFFFFFFF#32 then s.cck.eccCnt else s.cck.eccCnt + 1 } }
    ∧ t.cck = { s.cck with eccCnt := if s.cck.eccCnt = 0xFFFFFFFF#32 then s.cck.eccCnt else s.cck.eccCnt + 1 }
    ∧ t.cck.breach = s.cck.breach ∧ Only [.cck, .evm, .recd, .draws] s t

/-- A finding of the contract checker is a contract breach, and a held breach ends in a contract reset or in FAULT. After the seal, the event CCK_STORE with any finding, on a device without a breach, sets the BREACH flag with the finding's code (0x0108 for an uncorrectable store error, 0x0102 for a completion off its tick, 0x0109 for a write to a sealed region, 0x010A for a bundle that decodes otherwise), captures the frame, the tick, the bundle and, where the finding has one, the operation word, stops the schedule and sets the BREACH reason; with a breach already held it changes neither the capture nor the schedule nor the boot state. Before the seal it changes nothing. In SAFE-HOLD with a breach, the contract reset enters RESET with kind CONTRACT and no schedule; with the last reset already a contract reset and the breach within 60 s of the seal it enters FAULT with cause 3 instead. (01_chart_contract.md R55, 01_chart_contract.md R56, 03_start_load_wipe.md R106, 03_start_load_wipe.md R108, 03_start_load_wipe.md R109) -/
def Obligations.BreachStopsThenResets : Prop :=
  (∀ (f : CckFault) (s : State),
    (s.boot.sealed = true → s.cck.breach = false → ∃ t, exec (.cckStore f) s = .next t ∧ t.cck.breach = true ∧ t.seq.stopped = true ∧ t.cck.code = BitVec.ofNat 16 (cckCode f)
      ∧ t.cck.merid = BitVec.ofNat 16 (s.seq.k / s.hdr.m) ∧ t.cck.kIdx = BitVec.ofNat 16 (s.seq.k % s.hdr.m) ∧ t.cck.tick = BitVec.ofNat 19 s.seq.tick
      ∧ t.cck.bundle = BitVec.ofNat 18 s.seq.lastBund ∧ (∀ op, cckOp f = some op → t.cck.op = op)
      ∧ bitOf t.boot.reasons.toNat 0 = true ∧ t.hdr = s.hdr ∧ t.flash = s.flash ∧ t.mbx = s.mbx)
    ∧ (s.boot.sealed = true → s.cck.breach = true → ∃ t, exec (.cckStore f) s = .next t ∧ t.cck = s.cck ∧ t.seq = s.seq ∧ t.boot = s.boot)
    ∧ (s.boot.sealed = false → exec (.cckStore f) s = .next s))
  ∧ (∀ n e op, cckCode (.store n) = 0x0108 ∧ cckCode (.latency e op) = 0x0102 ∧ cckCode .seal = 0x0109 ∧ cckCode (.decode op) = 0x010A)
  ∧ (∀ s : State, s.boot.dev = .safeHold → s.cck.breach = true →
    (¬ (s.aon.kind = 4 ∧ s.cck.breachAt - s.boot.sealAt < 24000000000) → ∃ t, exec .contractReset s = .next t ∧ t.boot.dev = .reset ∧ t.aon.kind = 4 ∧ t.seq.run = false ∧ t.flash = s.flash)
    ∧ (s.aon.kind = 4 → s.cck.breachAt - s.boot.sealAt < 24000000000 → ∃ t, exec .contractReset s = .next t ∧ t.boot.dev = .fault ∧ t.boot.faultCause = 3 ∧ t.seq.run = false ∧ t.flash = s.flash))

/-- Power domains wake when their time is up and fault when their power-good falls. A wake completes once its due tick has come: the domain is no longer waking, and nothing but the power block and the filter chain changes; before that tick the command changes nothing. An automatic wake in a running schedule starts the wake (startWake) at tick F - 64 - W_D, and no schedule means no change; startWake takes a gated domain but IOE out of the gated set into the waking one, due W_D ticks later. A power-good that falls while the domain is neither gated nor faulted marks it faulted and ends its wake, records PWR_DOMAIN_FAULT (0x0F0A) with the domain and device state, ends the mailboxes of its handler groups (abortGroups) and drops its requests (dropRequests); of a gated or faulted domain it changes nothing. (01_chart_contract.md R43, 15_security_debug_power.md R516, 15_security_debug_power.md R518, 15_security_debug_power.md R520) -/
def Obligations.DomainsWakeAndFault : Prop :=
  ∀ (d : Domain) (s : State),
    (tget 0 s.pwr.wakeDue (domBit d) ≤ s.cclk → ∃ t, exec (.domainWakeComplete d) s = .next t ∧ t.pwr.waking &&& domMask d = 0 ∧ Only [.pwr, .fce] s t)
    ∧ (s.cclk < tget 0 s.pwr.wakeDue (domBit d) → exec (.domainWakeComplete d) s = .next s)
    ∧ (s.seq.run = true → exec (.domainAutoWake d) s = .next (startWake (domMask d) (toTick (s.hdr.f - 64 - domWake d) s)))
    ∧ (s.seq.run = false → exec (.domainAutoWake d) s = .next s)
    ∧ (d ≠ .ioe → s.pwr.gated &&& domMask d ≠ 0 → (startWake (domMask d) s).pwr.gated = s.pwr.gated &&& ~~~ domMask d
      ∧ (startWake (domMask d) s).pwr.waking = s.pwr.waking ||| domMask d ∧ tget 0 (startWake (domMask d) s).pwr.wakeDue (domBit d) = s.cclk + domWake d)
    ∧ ((s.pwr.gated ||| s.pwr.faulted) &&& domMask d = 0 →
      exec (.pwrDomainFault d) s = .next (dropRequests d (abortGroups (fun g => groupDomain g == some d) (raise 0x0F0A (w32 (domBit d)) (w32 (devCode s.boot.dev)) 0
        { s with pwr := { s.pwr with faulted := s.pwr.faulted ||| domMask d, waking := s.pwr.waking &&& ~~~ domMask d, wakeDue := tset 0 s.pwr.wakeDue (domBit d) 0 } }))))
    ∧ ((s.pwr.gated ||| s.pwr.faulted) &&& domMask d ≠ 0 → exec (.pwrDomainFault d) s = .next s)

/-- The board rails are started rank by rank and follow their power-good, and a GPIO level change is recorded. A rank start takes what rankStarts gives: nothing, the end of the sequence where no rank is used, or a rank q, which is then in work from this tick, each of its rails whose EN is already high waiting for its power-good (railWait). A rail whose start is due (railDue) raises EN and waits; after the seal, a power-good makes a waiting rail ON, one that is late (pgLate) FAILED with BRS_PG_TMO; an ON rail with EN high that loses it is FAILED with BRS_PG_LOST; a FAILED rail whose power-good comes back is ON with BRS_PG_BACK and the whole milliseconds since it failed. In every other case a power-good edge only sets the rail's level, and a rail not due or not late is unchanged. A PMBus poll acts after the seal when a poll is outstanding (polls below pollTimes): it takes the due number of polls and lands each rail's reads (pmbRail) in rail order; else it changes nothing. A command with a bank's levels as they stand changes nothing; other levels are set, and in a sealed, awake block whose IOE is powered also recorded (gpioRecord) with the stamp 10 ticks before. (15_security_debug_power.md R524, 15_security_debug_power.md R525, 15_security_debug_power.md R526, 16_electrical_package.md R551, 16_electrical_package.md R554) -/
def Obligations.BoardRailsAndPins : Prop :=
  (∀ s : State,
    (rankStarts s = none → exec .brsRankStart s = .next s)
    ∧ (rankStarts s = some none → exec .brsRankStart s = .next { s with brs := { s.brs with begun := true, rank := 15 } })
    ∧ (∀ q, rankStarts s = some (some q) → ∀ u : State, u = { s with brs := { s.brs with begun := true, rank := q, rankAt := s.cclk } } →
      exec .brsRankStart s = .next (rankEnd ((rankRails u q).foldl (fun v n => if (railOf v n).en then railWait n v else v) u)))
    ∧ (s.boot.sealed = true → s.brs.polls < pollTimes s → ∀ reads, exec (.pmbPoll reads) s
      = .next ((List.range 12).foldl (fun v n => (reads.filter (fun a => a.rail == n)).foldl pmbRail v) { s with brs := { s.brs with polls := pollTimes s } }))
    ∧ (s.boot.sealed = false ∨ pollTimes s ≤ s.brs.polls → ∀ reads, exec (.pmbPoll reads) s = .next s))
  ∧ (∀ (n : Fin 12) (s : State),
    (railDue s n = true → exec (.brsRailEnable n) s = .next (rankEnd (railWait n s)))
    ∧ (railDue s n = false → exec (.brsRailEnable n) s = .next s)
    ∧ (pgLate s n = true → exec (.brsPgTmo n) s
      = .next (rankEnd (raise 0x0F0B (w32 n) (w32 (railRank s n)) 0 (modRail n (fun x => { x with state := .failed, failedAt := s.cclk }) s))))
    ∧ (pgLate s n = false → exec (.brsPgTmo n) s = .next s)
    ∧ (s.boot.sealed = true → (railOf s n).state = .waitPg → exec (.brsPgGood n) s = .next (railOn n s))
    ∧ (s.boot.sealed = false ∨ (railOf s n).state ≠ .waitPg → exec (.brsPgGood n) s = .next (modRail n (fun x => { x with pg := true }) s))
    ∧ (s.boot.sealed = true → (railOf s n).state = .on → (railOf s n).en = true →
      exec (.brsPgLost n) s = .next (raise 0x0F0C (w32 n) 0 0 (modRail n (fun x => { x with pg := false, state := .failed, failedAt := s.cclk }) s)))
    ∧ (s.boot.sealed = false ∨ (railOf s n).state ≠ .on ∨ (railOf s n).en = false → exec (.brsPgLost n) s = .next (modRail n (fun x => { x with pg := false }) s))
    ∧ (s.boot.sealed = true → (railOf s n).state = .failed →
      exec (.brsPgBack n) s = .next (railOn n (raise 0x0F0D (w32 n) (w32 ((s.cclk - (railOf s n).failedAt) / 400000)) 0 s)))
    ∧ (s.boot.sealed = false ∨ (railOf s n).state ≠ .failed → exec (.brsPgBack n) s = .next (modRail n (fun x => { x with pg := true }) s)))
  ∧ (∀ (b : Bool) (w : Word) (s : State),
    (w = (gpioOf s b).levels → exec (.gpioLevelChange b w) s = .next s)
    ∧ (w ≠ (gpioOf s b).levels → s.boot.sealed = false ∨ s.boot.dev = .sleep ∨ domGated s .ioe = true →
      exec (.gpioLevelChange b w) s = .next (setGpio b { gpioOf s b with levels := w } s))
    ∧ (w ≠ (gpioOf s b).levels → s.boot.sealed = true → s.boot.dev ≠ .sleep → domGated s .ioe = false →
      exec (.gpioLevelChange b w) s = .next (gpioRecord b ((nowHalf s - 50) / 2) (setGpio b { gpioOf s b with levels := w } s))))

/-- The junction temperature alarm is set by 1,000 hot samples and cleared by 1,000 cool ones. Outside RESET and SLEEP, and at least 400,000 ticks (1 ms) after the last one taken, a sample is stored; HIGH clear becomes set exactly when this sample, of at least 115 °C, follows 999 or more such samples in a row, and TJ_HIGH is then recorded with the sample; HIGH set becomes clear exactly when this sample, of at most 110 °C, follows 999 or more such samples in a row, and TJ_NORMAL is then recorded with the sample and the whole seconds HIGH stood; a sample below 115 °C starts the hot count again, one above 110 °C the cool count. In RESET, in SLEEP or sooner after the last sample, the command changes nothing. (16_electrical_package.md R542) -/
def Obligations.JunctionTemperatureAlarm : Prop :=
  ∀ (x : BitVec 16) (s : State),
    (s.boot.dev = .reset ∨ s.boot.dev = .sleep ∨ (∃ t0, s.tj.last = some t0 ∧ s.cclk < t0 + 400000) → exec (.tjSample x) s = .next s)
    ∧ (s.boot.dev ≠ .reset → s.boot.dev ≠ .sleep → (∀ t0, s.tj.last = some t0 → t0 + 400000 ≤ s.cclk) →
      (∃ t, exec (.tjSample x) s = .next t ∧ t.tj.temp = x ∧ t.tj.last = some s.cclk ∧ Only [.tj, .evm, .recd] s t
        ∧ (s.tj.high = false → (t.tj.high = true ↔ degrees 115 ≤ x.toInt ∧ 999 ≤ s.tj.hot))
        ∧ (s.tj.high = true → (t.tj.high = false ↔ x.toInt ≤ degrees 110 ∧ 999 ≤ s.tj.cool))
        ∧ (x.toInt < degrees 115 → t.tj.hot = 0) ∧ (degrees 110 < x.toInt → t.tj.cool = 0))
      ∧ (s.tj.high = false → degrees 115 ≤ x.toInt → 999 ≤ s.tj.hot →
        exec (.tjSample x) s = .next (raise 0x1000 (x.setWidth 32) 0 0 { s with tj := { s.tj with temp := x, hot := 1000, cool := 0, high := true, since := s.cclk, last := some s.cclk } }))
      ∧ (s.tj.high = true → x.toInt ≤ degrees 110 → 999 ≤ s.tj.cool →
        exec (.tjSample x) s = .next (raise 0x1001 (x.setWidth 32) (w32 ((s.cclk - s.tj.since) / 400000000)) 0 { s with tj := { s.tj with temp := x, hot := 0, cool := 1000, high := false, last := some s.cclk } })))

/-- A satellite channel moves by its state table. The samples of a lock event are first tracked (track). PULL-IN (2) becomes PLL (3) after 100 good milliseconds; PLL becomes SYNCED (4) at the bit edge, unless NAV is gated; SYNCED becomes TRACKING (5) at frame synchronisation, which keeps the transmit time, resolves the half cycle and leaves the receiver time set; a channel in 3, 4 or 5 whose C/N0 or lock indicator has stayed low for LOSS_MS goes to REACQ (6) and records NAV_LOCK_LOST (0x0503); a side peak that has stood 20 ms on signal 2 moves the code by half a chip and counts. Where such a condition fails, the lock events leave only the tracking, the others nothing. A verify or reacquisition time-out that is over frees the channel (freeChan), and an unwindowed verify counts a false alarm. A dwell that ends in its time moves a detecting channel to PULL-IN with the code and Doppler found, counts, repeats an exhausted reacquisition, and frees an exhausted aided search, whose signal is then searched unaided; before its time it changes nothing. Lock events and bit synchronisation leave every other channel as before. (05_gnss_baseband.md R176, 05_gnss_baseband.md R177, 05_gnss_baseband.md R180, 05_gnss_baseband.md R173, 05_gnss_baseband.md R171) -/
def Obligations.NavChannelEvents : Prop :=
  ∀ (c : Fin 192) (s : State) (iq iq1 iq2 : List Byte) (v u : NavChan), v = navCh s c → u = track s v iq →
    (u.state = 2 → 100 ≤ u.goodMs → exec (.trkPllLock ⟨c, iq⟩) s = .next (setNavCh c { u with state := 3, since := s.cclk, rest := [] } s))
    ∧ (u.state ≠ 2 ∨ u.goodMs < 100 → exec (.trkPllLock ⟨c, iq⟩) s = .next (setNavCh c u s))
    ∧ (u.state = 3 ∨ u.state = 4 ∨ u.state = 5 → nv s 0x60 2 ≤ u.lowCnMs ∨ nv s 0x60 2 ≤ u.lowLockMs →
      ∃ t, exec (.navLockLost ⟨c, iq⟩) s = .next (raise 0x0503 (w32 c) (sigPrn u.sig u.prn) (Config.reportWord u.cn0) t)
        ∧ (navCh t c).state = 6 ∧ (navCh t c).tx = none ∧ (navCh t c).code = u.code ∧ (navCh t c).dopp = u.dopp ∧ Only [.nav] s t)
    ∧ ((u.state ≠ 3 ∧ u.state ≠ 4 ∧ u.state ≠ 5) ∨ (u.lowCnMs < nv s 0x60 2 ∧ u.lowLockMs < nv s 0x60 2) → exec (.navLockLost ⟨c, iq⟩) s = .next (setNavCh c u s))
    ∧ (u.sig = 2 → 20 ≤ u.sideMs → ∃ x : NavChan, exec (.sidePeakMove ⟨c, iq⟩) s = .next (setNavCh c x s) ∧ x.sidePeaks = u.sidePeaks + 1 ∧ x.sideMs = 0 ∧ x.state = u.state
        ∧ (power (u.acc.getD 4 (0, 0)) ≤ power (u.acc.getD 3 (0, 0)) → x.code = u.code + 1 / 2) ∧ (power (u.acc.getD 3 (0, 0)) < power (u.acc.getD 4 (0, 0)) → x.code = u.code - 1 / 2))
    ∧ (u.sig ≠ 2 ∨ u.sideMs < 20 → exec (.sidePeakMove ⟨c, iq⟩) s = .next (setNavCh c u s))
    ∧ (v.state = 3 → domGated s .nav = false → ∀ e, ∃ x : NavChan, exec (.bitSync ⟨c, e⟩) s = .next (setNavCh c x s) ∧ x.state = 4 ∧ x.dopp = v.dopp)
    ∧ (v.state ≠ 3 ∨ domGated s .nav = true → ∀ e, exec (.bitSync ⟨c, e⟩) s = .next s)
    ∧ (v.state = 4 → domGated s .nav = false → ∀ tx, ∃ t, exec (.frameSync c tx) s = .next t ∧ (navCh t c).state = 5 ∧ (navCh t c).tx = some tx ∧ (navCh t c).halfOk = true
        ∧ t.nav.rxSet = true ∧ Only [.nav] s t)
    ∧ (v.state ≠ 4 ∨ domGated s .nav = true → ∀ tx, exec (.frameSync c tx) s = .next s)
    ∧ (verifyOver s v = true → exec (.acqVerifyTimeout c) s = .next (freeChan c (modNav (fun n => { n with falseAl := if v.window then n.falseAl else n.falseAl + 1 }) s)))
    ∧ (verifyOver s v = false → exec (.acqVerifyTimeout c) s = .next s)
    ∧ (reacqOver s v = true → exec (.reacqTimeout c) s = .next (freeChan c s)) ∧ (reacqOver s v = false → exec (.reacqTimeout c) s = .next s)
    ∧ (dwelling v = false ∨ domGated s .nav = true ∨ s.cclk < v.dwellAt + dwellTicks s v.sig → exec (.aidedDwellEnd c iq1 iq2) s = .next s)
    ∧ (dwelling v = true → domGated s .nav = false → v.dwellAt + dwellTicks s v.sig ≤ s.cclk →
      (∀ code dopp, dwellFound s v (dwellBytes v iq1 iq2) = some (code, dopp) → ∃ x : NavChan, exec (.aidedDwellEnd c iq1 iq2) s = .next (setNavCh c x s) ∧ x.state = 2 ∧ x.found = true ∧ x.code = code ∧ x.dopp = dopp)
      ∧ (dwellFound s v (dwellBytes v iq1 iq2) = none → v.state = 2 ∨ v.dwells + 1 < aidedDwells s v → exec (.aidedDwellEnd c iq1 iq2) s = .next (setNavCh c { v with dwells := v.dwells + 1, dwellAt := s.cclk } s))
      ∧ (dwellFound s v (dwellBytes v iq1 iq2) = none → v.state = 1 → aidedDwells s v ≤ v.dwells + 1 →
        exec (.aidedDwellEnd c iq1 iq2) s = .next (freeChan c (modNav (fun m => { m with unaided := (v.sig, v.prn) :: m.unaided }) s)))
      ∧ (dwellFound s v (dwellBytes v iq1 iq2) = none → v.state = 6 → aidedDwells s v ≤ v.dwells + 1 → exec (.aidedDwellEnd c iq1 iq2) s = .next (setNavCh c { v with dwells := 0, dwellAt := s.cclk } s)))
    ∧ (∀ e, ∀ i ∈ ([.trkPllLock ⟨c, iq⟩, .navLockLost ⟨c, iq⟩, .sidePeakMove ⟨c, iq⟩, .bitSync ⟨c, e⟩] : List Instr), ∀ t, exec i s = .next t → ∀ j, j ≠ c.val → navCh t j = navCh s j)

/-- Search passes, decoded messages, the completions of NAV operations and the bootstrap epoch have their effect. A search pass changes nothing without a job, with NAV gated or before its time. In its time, a pass that finds a signal not yet assigned, and a free channel for it, records ACQ_DETECT (0x0502) and starts the channel in PULL-IN at the code and Doppler found; a find that is assigned already or has no free channel, and the last pass of a job or any pass in mode STOP that finds nothing, give way to the next job; any other pass counts. A decoded message of a free channel changes nothing; one whose symbols fail their check counts and is recorded (0x0504); of those that pass, leap seconds and Klobuchar parameters of signal 0 are kept, an ephemeris of signal 0, 2 or 4 is taken (acceptEph), an almanac of these replaces the satellite's, an SBAS message of signal 6 of a type in sbasTypes is kept unless its satellite is excluded, and a message of another purpose, any message of signal 1, 3 or 5 and an SBAS message of an excluded satellite change nothing. The completion of a NAV operation, once the arrivals due are made (navArrivals), finishes the waiting operation of its kind that is over (takeNavOp, navFinish), and changes no more where there is none. In SYNC without a schedule, with GM_EN and a GNSS source listed, the bootstrap epoch completes in acquisition mode LIST and starts no schedule; else it changes nothing. (05_gnss_baseband.md R170, 05_gnss_baseband.md R171, 05_gnss_baseband.md R181, 05_gnss_baseband.md R182, 05_gnss_baseband.md R164, 12_time.md R394) -/
def Obligations.NavSearchAndMessages : Prop :=
  ∀ s : State,
    (∀ w0 w1 w2 w3, s.nav.jobOn = false ∨ domGated s .nav = true ∨ s.cclk < s.nav.jobAt + passTicks s → exec (.acqPassEnd w0 w1 w2 w3) s = .next s)
    ∧ (s.nav.jobOn = true → domGated s .nav = false → s.nav.jobAt + passTicks s ≤ s.cclk → ∀ w0 w1 w2 w3,
      (∀ code dopp, acqFound s (passBytes s w0 w1 w2 w3) = some (code, dopp) →
        (assigned s (acqAnt s) s.nav.jobSig s.nav.jobPrn = true ∨ freeCh s (acqAnt s) s.nav.jobSig = none → exec (.acqPassEnd w0 w1 w2 w3) s = .next (nextJob s))
        ∧ (assigned s (acqAnt s) s.nav.jobSig s.nav.jobPrn = false → ∀ c, freeCh s (acqAnt s) s.nav.jobSig = some c →
          ∃ code', exec (.acqPassEnd w0 w1 w2 w3) s = .next (nextJob (raise 0x0502 (sigPrn s.nav.jobSig s.nav.jobPrn) (Config.reportWord code) (Config.reportWord dopp)
            (takeCh c (acqAnt s) s.nav.jobSig s.nav.jobPrn 2 false code' dopp (nowNs s : Nat) s)))))
      ∧ (acqFound s (passBytes s w0 w1 w2 w3) = none →
        (s.nav.acqMode = 0 ∨ jobPasses s s.nav.jobSig ≤ s.nav.jobPass + 1 → exec (.acqPassEnd w0 w1 w2 w3) s = .next (nextJob s))
        ∧ (s.nav.acqMode ≠ 0 → s.nav.jobPass + 1 < jobPasses s s.nav.jobSig →
          exec (.acqPassEnd w0 w1 w2 w3) s = .next (modNav (fun v => { v with jobPass := s.nav.jobPass + 1, jobAt := s.cclk }) s))))
    ∧ (∀ (c : Fin 192) (l : List Bool) (ty : Nat) (m : NavMsg),
      ((navCh s c).state = 0 → exec (.navMsgDecoded c l ty m) s = .next s)
      ∧ ((navCh s c).state ≠ 0 → messageOk (navCh s c).sig l = false → exec (.navMsgDecoded c l ty m) s = .next (raise 0x0504 (w32 c) (sigPrn (navCh s c).sig (navCh s c).prn) (w32 ty)
        (modNav (fun n => { n with msgErr := if n.msgErr = 0xFFFFFFFF#32 then n.msgErr else n.msgErr + 1 }) s)))
      ∧ ((navCh s c).state ≠ 0 → messageOk (navCh s c).sig l = true →
        (∀ secs, m = .leapSeconds secs → (navCh s c).sig = 0 → exec (.navMsgDecoded c l ty m) s = .next (modNav (fun n => { n with leap := some secs }) s))
        ∧ (∀ k, m = .klobuchar k → (navCh s c).sig = 0 → exec (.navMsgDecoded c l ty m) s = .next (modNav (fun n => { n with klob := k }) s))
        ∧ (∀ i x, m = .ephemeris i x → (navCh s c).sig = 0 ∨ (navCh s c).sig = 2 ∨ (navCh s c).sig = 4 →
          exec (.navMsgDecoded c l ty m) s = .next (acceptEph { con := conOf (navCh s c).sig, prn := (navCh s c).prn, issue := i, content := x } s))
        ∧ (∀ p i x, m = .almanac p i x → (navCh s c).sig = 0 ∨ (navCh s c).sig = 2 ∨ (navCh s c).sig = 4 → exec (.navMsgDecoded c l ty m) s = .next (modNav (fun n =>
          { n with alms := { con := conOf (navCh s c).sig, prn := p, issue := i, content := x } :: n.alms.filter (fun y => !(y.con == conOf (navCh s c).sig && y.prn == p)) }) s))
        ∧ (∀ k x, m = .sbas k x → (navCh s c).sig = 6 → sbasTypes.contains k = true → s.nav.excluded.contains (3, (navCh s c).prn) = false → exec (.navMsgDecoded c l ty m) s = .next (modNav (fun n =>
          { n with sbas := { con := 3, prn := (navCh s c).prn, issue := k, content := x } :: n.sbas.filter (fun y => !(y.prn == (navCh s c).prn && y.issue == k)) }) s))
        ∧ (m = .other ∨ ((navCh s c).sig ≠ 0 ∧ (navCh s c).sig ≠ 2 ∧ (navCh s c).sig ≠ 4 ∧ (navCh s c).sig ≠ 6) ∨ (∃ k x, m = .sbas k x ∧ s.nav.excluded.contains (3, (navCh s c).prn) = true)
          → exec (.navMsgDecoded c l ty m) s = .next s)))
    ∧ (∀ d, (∀ o u, takeNavOp (navKey d).1 (navKey d).2 (navArrivals s) = some (o, u) → exec (.navOpComplete d) s = .next (navFinish d o u))
      ∧ (takeNavOp (navKey d).1 (navKey d).2 (navArrivals s) = none → exec (.navOpComplete d) s = .next (navArrivals s)))
    ∧ (s.boot.dev = .sync → s.seq.run = false → bitOf (tt s 4 1) 0 = true → (srcIdx s 1).isSome = true →
      ∀ e, ∃ t, exec (.navBootstrapEpoch e) s = .next t ∧ t.nav.acqMode = 1 ∧ t.boot.dev = .sync ∧ t.seq = s.seq)
    ∧ (s.boot.dev ≠ .sync ∨ s.seq.run = true ∨ bitOf (tt s 4 1) 0 = false ∨ srcIdx s 1 = none → ∀ e, exec (.navBootstrapEpoch e) s = .next s)

/-- A force that takes effect holds the signal, and its release leaves the value STALE. A force taking effect leaves the signal with HELD set and its write count advanced by one; its word and quality are those of forcedWord: for types other than BOOL, ENUM and TIME64 nanoseconds the forced word with quality FORCED, for BOOL 0 or 1 with quality FORCED. From then on every write to it is discarded. Every other signal is as before, but for the word after a TIME64 nanoseconds word that is forced to a value above 999,999,999. A release of a held signal that the Chart declares leaves its word, its write count and every other signal, clears HELD and leaves quality STALE. SDIR_FORCE (0x0131) and SDIR_RELEASE (0x0132) are recorded with the signal. (02_signal_space.md R74, 02_signal_space.md R68) -/
def Obligations.ForceHoldsTheSignal : Prop :=
  ∀ (i : Nat) (w : Word) (s : State), i < 131072 →
    ((∀ k, k ≠ i → k ≠ i + 1 ∨ entType (ent s i) ≠ 6 ∨ w.toNat ≤ 999999999 → ent (forceSig i w s) k = ent s k)
      ∧ sigW (forceSig i w s) i = (forcedWord (ent s i) w).1 ∧ sigQ (forceSig i w s) i = (forcedWord (ent s i) w).2 ∧ entHeld (ent (forceSig i w s) i) = true
      ∧ (entType (ent s i) ≠ 4 → entType (ent s i) ≠ 5 → entType (ent s i) ≠ 6 → forcedWord (ent s i) w = (w, qForced))
      ∧ (entType (ent s i) = 4 → forcedWord (ent s i) w = (if w = 0 then 0 else 1, qForced))
      ∧ entWcnt (ent (forceSig i w s) i) = (entWcnt (ent s i) + 1) % 256
      ∧ (∀ v q t, writeSig i v q t (forceSig i w s) = forceSig i w s)
      ∧ (∃ u, forceSig i w s = raise 0x0131 (w32 i) w 0 u))
    ∧ (entHeld (ent s i) = true → entType (ent s i) ≠ 0 → (∀ k, k ≠ i → ent (releaseSig i s) k = ent s k) ∧ sigW (releaseSig i s) i = sigW s i ∧ sigQ (releaseSig i s) i = qStale
      ∧ entHeld (ent (releaseSig i s) i) = false ∧ entWcnt (ent (releaseSig i s) i) = entWcnt (ent s i) ∧ ∃ u, releaseSig i s = raise 0x0132 (w32 i) (sigW s i) 0 u)

/-- A request that reaches the block takes effect at a frame boundary that its tick decides, or is answered with its return code. The frame of effect is K + 1 when the present tick is at most F - 48 and K + 2 otherwise. FORCE, RELEASE, FUNC_DISABLE and FUNC_ENABLE that are accepted append exactly one request with that frame and complete DONE: FORCE of a declared FORCEABLE signal, RELEASE of a declared one that will then be held, FUNC_DISABLE and FUNC_ENABLE of a part that can be disabled and that they change. Refused, they complete RANGE (an undeclared signal, an engine code from 0x31 on, an instance too high), DENIED (a signal not FORCEABLE) or STATE (a signal that will not be held, a function that cannot be disabled or does not change). QPS-CAPTURE of a declared template, NAV-EXCLUDE of a satellite in range and a mode request with none waiting keep one request with its frame and its mailbox and change nothing else; of an undeclared template or a satellite out of range the command completes RANGE, and a mode request while one waits BUSY. (02_signal_space.md R74, 01_chart_contract.md R51, 01_chart_contract.md R52, 06_qp_solver.md R226, 07_modes_allocation.md R236, 05_gnss_baseband.md R195) -/
def Obligations.RequestsLatchForTheBoundary : Prop :=
  ∀ (m : BitVec 4) (s : State),
    ((s.seq.tick + 48 ≤ s.hdr.f → latchFrame s = s.seq.k + 1) ∧ (s.hdr.f < s.seq.tick + 48 → latchFrame s = s.seq.k + 2))
    ∧ (∀ (g v : BitVec 32), (131072 ≤ g.toNat ∨ entType (ent s g.toNat) = 0 →
        exec (.force m g v) s = .next (completeMbx m.toNat rcRange s) ∧ exec (.signalRelease m g) s = .next (completeMbx m.toNat rcRange s))
      ∧ (g.toNat < 131072 → entType (ent s g.toNat) ≠ 0 →
        (entForceable (ent s g.toNat) = true → exec (.force m g v) s = .next (completeMbx m.toNat rcDone { s with forces := s.forces ++ [{ sig := g.toNat, val := some v, due := latchFrame s }] }))
        ∧ (entForceable (ent s g.toNat) = false → exec (.force m g v) s = .next (completeMbx m.toNat rcDenied s))
        ∧ (willHold s g.toNat = true → exec (.signalRelease m g) s = .next (completeMbx m.toNat rcDone { s with forces := s.forces ++ [{ sig := g.toNat, val := none, due := latchFrame s }] }))
        ∧ (willHold s g.toNat = false → exec (.signalRelease m g) s = .next (completeMbx m.toNat rcState s))))
    ∧ (∀ (e : BitVec 8) (i : BitVec 16),
      (0x31 ≤ e.toNat ∨ (funcParts e.toNat ≠ 0 ∧ funcParts e.toNat ≤ i.toNat) →
        exec (.funcDisable m e i) s = .next (completeMbx m.toNat rcRange s) ∧ exec (.funcEnable m e i) s = .next (completeMbx m.toNat rcRange s))
      ∧ (e.toNat < 0x31 → funcParts e.toNat = 0 →
        exec (.funcDisable m e i) s = .next (completeMbx m.toNat rcState s) ∧ exec (.funcEnable m e i) s = .next (completeMbx m.toNat rcState s))
      ∧ (e.toNat < 0x31 → i.toNat < funcParts e.toNat →
        (willOff s e.toNat i.toNat = false → exec (.funcDisable m e i) s = .next (completeMbx m.toNat rcDone { s with funcReqs := s.funcReqs ++ [{ eng := funcEng e.toNat, inst := i.toNat, enable := false, due := latchFrame s }] })
          ∧ exec (.funcEnable m e i) s = .next (completeMbx m.toNat rcState s))
        ∧ (willOff s e.toNat i.toNat = true → exec (.funcEnable m e i) s = .next (completeMbx m.toNat rcDone { s with funcReqs := s.funcReqs ++ [{ eng := funcEng e.toNat, inst := i.toNat, enable := true, due := latchFrame s }] })
          ∧ exec (.funcDisable m e i) s = .next (completeMbx m.toNat rcState s))))
    ∧ (∀ t : BitVec 8, (t.toNat < tplCnt s →
        exec (.qpsCaptureArm m t) s = .next { s with qps := { s.qps with capReqs := s.qps.capReqs ++ [{ tpl := t.toNat, arm := true, due := latchFrame s, mbx := m.toNat }] } }
        ∧ exec (.qpsCaptureDisarm m t) s = .next { s with qps := { s.qps with capReqs := s.qps.capReqs ++ [{ tpl := t.toNat, arm := false, due := latchFrame s, mbx := m.toNat }] } })
      ∧ (tplCnt s ≤ t.toNat → exec (.qpsCaptureArm m t) s = .next (completeMbx m.toNat rcRange s) ∧ exec (.qpsCaptureDisarm m t) s = .next (completeMbx m.toNat rcRange s)))
    ∧ (∀ x : BitVec 8, ∀ p ∈ ([(.modeReqArm m x, 1), (.modeReqSwitch m x, 2), (.modeReqDisarm m x, 3), (.modeReqDirect m x, 4)] : List (Instr × Nat)),
      (s.modes.req = none → exec p.1 s = .next { s with modes := { s.modes with req := some { mode := x.toNat, action := p.2, due := latchFrame s, mbx := m.toNat } } })
      ∧ (s.modes.req ≠ none → exec p.1 s = .next (completeMbx m.toNat rcBusy s)))
    ∧ (∀ con prn : BitVec 8, (prnRange con.toNat prn.toNat = true →
        exec (.navExclude m con prn) s = .next (modNav (fun n => { n with reqs := n.reqs ++ [{ con := con.toNat, prn := prn.toNat, excl := true, due := latchFrame s, mbx := m.toNat }] }) s)
        ∧ exec (.navInclude m con prn) s = .next (modNav (fun n => { n with reqs := n.reqs ++ [{ con := con.toNat, prn := prn.toNat, excl := false, due := latchFrame s, mbx := m.toNat }] }) s))
      ∧ (prnRange con.toNat prn.toNat = false → exec (.navExclude m con prn) s = .next (completeMbx m.toNat rcRange s) ∧ exec (.navInclude m con prn) s = .next (completeMbx m.toNat rcRange s)))

/-- Arm time-out, the end of a load reduction, a lost allocation, dead-reckoning expiry, the end of the wind hold and REANCHOR have their effect. An armed mode outside a hand-over whose count has reached a nonzero ARM_TMO is disarmed, and MODE_HO_ABORT (0x0705) recorded with reason 2; with ARM_TMO 0 nothing happens. A standing phase-back whose end frame has come ends and records an FLR_RELEASE (0x0711) for each bus group that held it, and before that frame, or with none standing, nothing happens. A held allocation whose count has reached ALLOC_HOLD_MAX is lost and recorded (0x070C), once. A position or heading dead reckoning at its limit expires and is recorded (0x0406), and before it nothing happens. Once the wind is lost and its hold has lasted WHOLD cycles, its decay is set; else nothing happens. REANCHOR of a used slot of 0 to 11 keeps one request with its frame and mailbox after those that wait; of an unused slot or one above 16 it completes RANGE, of a used one of 12 to 16 STATE. (07_modes_allocation.md R239, 07_modes_allocation.md R257, 07_modes_allocation.md R254, 04_references_observer.md R143, 04_references_observer.md R149, 04_references_observer.md R152) -/
def Obligations.ModeEventsComplete : Prop :=
  ∀ s : State,
    (armedOf s.modes.m ≠ 0 → s.modes.m.ho = false → sm s 0x1E 2 ≠ 0 → sm s 0x1E 2 ≤ s.modes.m.armCyc →
      exec .armTimeout s = .next (raise 0x0705 (w32 s.modes.m.incoming) (w32 2) (alphaWord s.modes.m.alpha)
        (setM false { s.modes.m with incoming := 0, ho := false, alpha := 0, direct := false, armCyc := 0 } s)))
    ∧ (sm s 0x1E 2 = 0 → exec .armTimeout s = .next s)
    ∧ (s.modes.flrLim ≠ [] → s.modes.flrEnd ≤ s.seq.k →
      exec .flrRelease s = .next (((List.range 8).filter (fun g => bitOf s.modes.flrGrp g)).foldl (fun u g => raise 0x0711 (w32 g) 0 0 u)
        { s with modes := { s.modes with flrLim := [], flrEnd := 0, flrGrp := 0 } }))
    ∧ (s.modes.flrLim = [] ∨ s.seq.k < s.modes.flrEnd → exec .flrRelease s = .next s)
    ∧ (s.modes.hold = true → s.modes.lost = false → th s 0x2E 2 ≤ s.modes.holdCyc.toNat →
      exec .allocLost s = .next (raise 0x070C (s.modes.holdCyc.setWidth 32) (w32 s.modes.result) 0 { s with modes := { s.modes with lost := true } }))
    ∧ (s.modes.hold = false ∨ s.modes.lost = true ∨ s.modes.holdCyc.toNat < th s 0x2E 2 → exec .allocLost s = .next s)
    ∧ (s.obs.pstat = 2 → ob s 0x13C 4 ≤ s.obs.drCyc.toNat → exec (.obsDrExpired false) s = .next (raise 0x0406 0 s.obs.drCyc 0 { s with obs := { s.obs with pstat := 3 } }))
    ∧ (s.obs.pstat ≠ 2 ∨ s.obs.drCyc.toNat < ob s 0x13C 4 → exec (.obsDrExpired false) s = .next s)
    ∧ (s.obs.hstat = 2 → ob s 0x140 4 ≤ s.obs.hdrCyc.toNat → exec (.obsDrExpired true) s = .next (raise 0x0406 1 s.obs.hdrCyc 0 { s with obs := { s.obs with hstat := 3 } }))
    ∧ (s.obs.hstat ≠ 2 ∨ s.obs.hdrCyc.toNat < ob s 0x140 4 → exec (.obsDrExpired true) s = .next s)
    ∧ (s.obs.wLost = true → wb s 0x010 4 ≤ s.obs.wHold → exec .windHoldEnd s = .next { s with obs := { s.obs with wDecay := true } })
    ∧ (s.obs.wLost = false ∨ s.obs.wHold < wb s 0x010 4 → exec .windHoldEnd s = .next s)
    ∧ (∀ (m : BitVec 4) (n : BitVec 8),
      (n.toNat < 12 → slotKind s n.toNat ≠ 0 → exec (.reanchor m n) s = .next { s with obs := { s.obs with reanch := s.obs.reanch ++ [(n.toNat, latchFrame s, m.toNat)] } })
      ∧ (17 ≤ n.toNat ∨ slotKind s n.toNat = 0 → exec (.reanchor m n) s = .next (completeMbx m.toNat rcRange s))
      ∧ (12 ≤ n.toNat → n.toNat < 17 → slotKind s n.toNat ≠ 0 → exec (.reanchor m n) s = .next (completeMbx m.toNat rcState s)))

/-- A loop-engine command waits for its sample, or is answered with its return code. For LCE_MODE, LCE_BANK, LCE_TEST start and stop, and LCE_CAPTURE arm, disarm and page: a context not declared, or a field out of range, is answered RANGE; else a command the context does not allow (CMD_EN, INJ_EN) DENIED; else one whose command number is pending for the context BUSY; else one of a disabled group STATE; every other command appends one request with its frame of effect and mailbox and changes nothing else. An active injection that has completed its DUR samples ends with reason 0 and records LCE_INJ_END (0x0808), and a waveform that waits starts (injStart); else the end event changes nothing. (08_loop_engine.md R280, 08_loop_engine.md R281, 08_loop_engine.md R282, 08_loop_engine.md R288, 08_loop_engine.md R289, 08_loop_engine.md R290, 08_loop_engine.md R291) -/
def Obligations.LoopCommandsLatch : Prop :=
  (∀ (m : BitVec 4) (c : BitVec 8) (s : State) (mode bank dec page : BitVec 8) (mv : Bool) (u : Word) (x : LceTest),
    ∀ p ∈ ([(.lceMode m c mode mv u, decide (mode.toNat ≤ 1), .mode (mode == 1) (if mv then some u else none)),
      (.lceBank m c bank, decide (bank.toNat ≤ 1), .bank (bank == 1)), (.lceTestStart m c x, true, .start x), (.lceTestStop m c, true, .stop),
      (.lceCaptureArm m c dec, true, .arm dec.toNat), (.lceCaptureDisarm m c, true, .disarm), (.lceCapturePage m c page, true, .page page.toNat)] : List (Instr × Bool × LceCmd)),
    let pending := ∃ q ∈ s.lce.cmds, q.ctx = c.toNat ∧ lceCmdNo q.cmd = lceCmdNo p.2.2
    (ctxCnt s ≤ c.toNat ∨ p.2.1 = false ∨ lceRange p.2.2 = false → exec p.1 s = .next (lceFinish m.toNat c.toNat (lceCmdNo p.2.2) rcRange s))
    ∧ (c.toNat < ctxCnt s → p.2.1 = true → lceRange p.2.2 = true →
      (lceAllowed s c.toNat p.2.2 = false → exec p.1 s = .next (lceFinish m.toNat c.toNat (lceCmdNo p.2.2) rcDenied s))
      ∧ (lceAllowed s c.toNat p.2.2 = true → pending → exec p.1 s = .next (lceFinish m.toNat c.toNat (lceCmdNo p.2.2) rcBusy s))
      ∧ (lceAllowed s c.toNat p.2.2 = true → ¬ pending → isDisabled s 6 (cxGrp s c.toNat) = true → exec p.1 s = .next (lceFinish m.toNat c.toNat (lceCmdNo p.2.2) rcState s))
      ∧ (lceAllowed s c.toNat p.2.2 = true → ¬ pending → isDisabled s 6 (cxGrp s c.toNat) = false →
        exec p.1 s = .next (modLce (fun l => { l with cmds := l.cmds ++ [{ ctx := c.toNat, cmd := p.2.2, due := latchFrame s, mbx := m.toNat }] }) s))))
  ∧ (∀ s : State,
    (s.lce.inj.active = true → injDone s.lce.inj = true →
      ∀ j : LceInj, j = { s.lce.inj with active := false, next := none, reason := 0 } →
      exec .lceInjEnd s = .next (raise 0x0808 (w32 s.lce.inj.ctx) (w32 0) (w32 s.lce.inj.i)
        { s with lce := { s.lce with inj := (s.lce.inj.next.map (fun t => injStart j.ctx (roleCode s.boot.dev) t j)).getD j } }))
    ∧ (s.lce.inj.active = false ∨ injDone s.lce.inj = false → exec .lceInjEnd s = .next s))

/-- The converter events that reach the block have their effect. A converter start takes the start bits of its mask that have arrived out of their FIFO and adds them to the started groups; every enabled channel of those groups is then started, every channel that already was, or is not of them, is as before. A select takes effect when it may arrive and ANA is powered: it is taken from the FIFO, a channel not started keeps it, one that has it already is unchanged, one that has another restarts with the 8 skip values (fceRestart with cause 2), and a disabled one restarts no chain. A CIC window of a started channel whose ANA is powered is taken bit by bit, a restart that waits coming at its marker (split), and its output formed (fceOutput); a disabled channel only counts the window, and too few bits change nothing. A QDC zero that may arrive leaves the FIFO and sets the position count to 0. A transition of a started decoder counts up or down by one, an error counts in QDC_ERR and is recorded (0x0905), and unless the channel is disabled the stream takes gap zeros and the step. An output code that may arrive, with ANA powered, leaves its FIFO and becomes the applied code or, with LATCHED, the held one. A latch strobe applies the held code of every enabled LATCHED output that its arrived bits name. In every other case the command changes nothing. (09_filter_chain.md R297, 09_filter_chain.md R298, 09_filter_chain.md R299, 09_filter_chain.md R311, 10_current_loops.md R320, 01_chart_contract.md R50) -/
def Obligations.ConverterEventsComplete : Prop :=
  ∀ s : State,
    (∀ m : BitVec 8, ∃ t, exec (.fceStart m) s = .next t ∧ t.ttu = { s.ttu with conv := leaveOut s aclkCross m s.ttu.conv }
      ∧ t.fce.groups = s.fce.groups ||| (m &&& arrived s aclkCross s.ttu.conv) ∧ Only [.ttu, .fce, .evm, .recd] s t
      ∧ (∀ c, c < 64 → fcEnabled s c = true → bitOf (m &&& arrived s aclkCross s.ttu.conv).toNat (fcGroup s c) = true → (fceChan t c).started = true)
      ∧ (∀ c, (fceChan s c).started = true ∨ 64 ≤ c ∨ fcEnabled s c = false ∨ bitOf (m &&& arrived s aclkCross s.ttu.conv).toNat (fcGroup s c) = false → fceChan t c = fceChan s c))
    ∧ (∀ (c : Fin 48) (n : Nat) (x : FceChan), x = fceChan s c →
      (s.fce.selFifo.find? (fun p => p.item.1 = c.val) = none → exec (.modulatorSelectApply c n) s = .next s)
      ∧ (∀ p, s.fce.selFifo.find? (fun p => p.item.1 = c.val) = some p → (mayArrive s aclkCross p = false ∨ domGated s .ana = true → exec (.modulatorSelectApply c n) s = .next s)
        ∧ (mayArrive s aclkCross p = true → domGated s .ana = false → ∀ u : State, u = { s with fce := { s.fce with selFifo := s.fce.selFifo.erase p } } →
          (x.started = false → exec (.modulatorSelectApply c n) s = .next (setFce c { x with sel := p.item.2 } u))
          ∧ (x.started = true → x.sel = p.item.2 → exec (.modulatorSelectApply c n) s = .next u)
          ∧ (x.started = true → x.sel ≠ p.item.2 → ∀ v : State, v = setFce c { x with sel := p.item.2, skip := 9, pos := x.pos + n, pendCmd := false, pendEn := false } u →
            exec (.modulatorSelectApply c n) s = .next (if fceOff s c then v else fceRestart c 2 v)))))
    ∧ (∀ (c : BitVec 6) (bits : List Bool) (split ago n : Nat), n = fch s c.toNat 4 2 - (fceChan s c.toNat).pos →
      ((fceChan s c.toNat).started = false ∨ (c.toNat < 48 ∧ domGated s .ana = true) → exec (.fceCicOutput c bits split ago) s = .next s)
      ∧ ((fceChan s c.toNat).started = true → c.toNat < 48 → domGated s .ana = false → fceOff s c.toNat = false → bits.length < n → exec (.fceCicOutput c bits split ago) s = .next s)
      ∧ ((fceChan s c.toNat).started = true → 48 ≤ c.toNat ∨ domGated s .ana = false → fceOff s c.toNat = true →
        exec (.fceCicOutput c bits split ago) s = .next (setFce c.toNat { fceChan s c.toNat with win := (fceChan s c.toNat).win + 1, pos := 0, skip := 0 } s))
      ∧ ((fceChan s c.toNat).started = true → fceOff s c.toNat = false → ∀ l : List Int,
        (c.toNat < 48 ∧ domGated s .ana = false ∧ n ≤ bits.length ∧ l = (bits.take n).map bitValue) ∨ (48 ≤ c.toNat ∧ l = List.replicate n 0) →
        exec (.fceCicOutput c bits split ago) s = .next (fceOutput c.toNat ago (if l.length ≤ split then fceTakeAll c.toNat (l.take split) s
          else fceTakeAll c.toNat (l.drop split) (fcePending c.toNat (fceTakeAll c.toNat (l.take split) s))))))
    ∧ (∀ d : BitVec 4, (∀ p, s.fce.zeroFifo.find? (fun p => p.item = d.toNat && mayArrive s aclkCross p) = some p →
        exec (.qdcZeroApply d) s = .next { s with fce := { s.fce with zeroFifo := s.fce.zeroFifo.erase p, qcount := tset 0 s.fce.qcount d.toNat 0 } })
      ∧ (s.fce.zeroFifo.find? (fun p => p.item = d.toNat && mayArrive s aclkCross p) = none → exec (.qdcZeroApply d) s = .next s))
    ∧ (∀ (d : BitVec 4) (g : Nat), ((fceChan s (48 + d.toNat)).started = false → ∀ k, exec (.qdcTransition d k g) s = .next s)
      ∧ ((fceChan s (48 + d.toNat)).started = true → ∀ w : Int → State,
        (∀ v u, u = { s with fce := { s.fce with qcount := tmod 0 s.fce.qcount d.toNat (fun n => n + BitVec.ofInt 32 v) } } →
          w v = if fceOff s (48 + d.toNat) then u else fceTakeAll (48 + d.toNat) (List.replicate g 0 ++ [v]) (fcePending (48 + d.toNat) u)) →
        exec (.qdcTransition d .up g) s = .next (w 1) ∧ exec (.qdcTransition d .down g) s = .next (w (-1))
        ∧ ∃ e : Half, e = (if tget 0 (w 0).fce.qerr d.toNat = 0xFFFF#16 then 0xFFFF#16 else tget 0 (w 0).fce.qerr d.toNat + 1)
          ∧ exec (.qdcTransition d .both g) s = .next (raise 0x0905 (w32 d.toNat) (tget 0 (w 0).fce.qcount d.toNat) (e.setWidth 32)
            { w 0 with fce := { (w 0).fce with qerr := tset 0 (w 0).fce.qerr d.toNat e } })))
    ∧ (∀ n : BitVec 4, ((lpoOf s n.toNat).fifo = [] → exec (.lpoCodeApply n) s = .next s)
      ∧ (∀ c l, (lpoOf s n.toNat).fifo = c :: l →
        (mayArrive s aclkCross c = false ∨ domGated s .ana = true → exec (.lpoCodeApply n) s = .next s)
        ∧ (mayArrive s aclkCross c = true → domGated s .ana = false →
          (bitOf (lpF s n.toNat 0 1) 1 = true → exec (.lpoCodeApply n) s = .next (modLpo n.toNat (fun x => { x with fifo := l, latch := c.item }) s))
          ∧ (bitOf (lpF s n.toNat 0 1) 1 = false → exec (.lpoCodeApply n) s = .next (lpoChange n.toNat (fun x => { x with fifo := l, applied := c.item }) s)))))
    ∧ (∀ m : BitVec 16, (domGated s .ana = true → exec (.lpoLatchStrobe m) s = .next s)
      ∧ (domGated s .ana = false → exec (.lpoLatchStrobe m) s = .next ((List.range 16).foldl (fun u n =>
          if (m &&& arrived s aclkCross s.ttu.latch).getLsbD n && lpoOn u n && bitOf (lpF u n 0 1) 1 then lpoChange n (fun x => { x with applied := x.latch }) u else u)
          { s with ttu := { s.ttu with latch := leaveOut s aclkCross m s.ttu.latch } })))

/-- LOOP-CLEAR, HART-PASS and the HART port events have their effect. LOOP-CLEAR of an output that is not enabled completes RANGE, of one that is disabled or not in FAIL with cause COMPLIANCE or OVER STATE, and else keeps a clear with its frame and mailbox. HART-PASS out of range completes RANGE, on a port that is not enabled or without PASS_EN DENIED, on one with a pass-through pending BUSY, on a disabled one ABORTED (abortMbx), and else keeps its request. On a port that is enabled and not disabled, with ANA powered: a frame that is not accepted retries an awaited exchange and is ignored without one, a burst frame has hartBurst, another frame answers the awaited exchange and is ignored without one; a request is sent when the line is free and SEQ runs, for the exchange that hartChoose gives, one more attempt, or it ends with result 6 where a long address is needed and not known; otherwise these commands change nothing. An exchange whose slot time is over is retried, and one not over is unchanged. A carrier edge, with ANA powered, sets the carrier and its time, and starts timer 1 when the carrier rises outside the port's own exchange; with ANA gated it changes nothing. (10_current_loops.md R326, 10_current_loops.md R339, 10_current_loops.md R334, 10_current_loops.md R332, 10_current_loops.md R333) -/
def Obligations.CurrentLoopCommandsComplete : Prop :=
  ∀ s : State,
    (∀ (m : BitVec 4) (n : BitVec 8), (lpoOn s n.toNat = false → exec (.loopClear m n) s = .next (completeMbx m.toNat rcRange s))
      ∧ (lpoOn s n.toNat = true → isDisabled s 0x28 n.toNat = true ∨ (lpoOf s n.toNat).state ≠ 3 ∨ ((lpoOf s n.toNat).cause ≠ 2 ∧ (lpoOf s n.toNat).cause ≠ 3) →
        exec (.loopClear m n) s = .next (completeMbx m.toNat rcState s))
      ∧ (lpoOn s n.toNat = true → isDisabled s 0x28 n.toNat = false → (lpoOf s n.toNat).state = 3 → (lpoOf s n.toNat).cause = 2 ∨ (lpoOf s n.toNat).cause = 3 →
        exec (.loopClear m n) s = .next { s with loops := { s.loops with clears := s.loops.clears ++ [{ chan := n.toNat, due := latchFrame s, mbx := m.toNat }] } }))
    ∧ (∀ (m : BitVec 4) (p a c : BitVec 8) lg d,
      (40 ≤ p.toNat ∨ 16 ≤ a.toNat ∨ 48 < d.length → exec (.hartPass m p a c lg d) s = .next (completeMbx m.toNat rcRange s))
      ∧ (p.toNat < 40 → a.toNat < 16 → d.length ≤ 48 →
        (hpFlag s p.toNat 0 = false ∨ hpFlag s p.toNat 3 = false → exec (.hartPass m p a c lg d) s = .next (completeMbx m.toNat rcDenied s))
        ∧ (hpFlag s p.toNat 0 = true → hpFlag s p.toNat 3 = true →
          ((hartOf s p.toNat).pass ≠ none → exec (.hartPass m p a c lg d) s = .next (completeMbx m.toNat rcBusy s))
          ∧ ((hartOf s p.toNat).pass = none → hartOff s p.toNat = true → exec (.hartPass m p a c lg d) s = .next (abortMbx m.toNat s))
          ∧ ((hartOf s p.toNat).pass = none → hartOff s p.toNat = false →
            exec (.hartPass m p a c lg d) s = .next (modHart p.toNat (fun h => { h with pass := some { mbx := m.toNat, addr := a.toNat, cmd := c.toNat, long := lg, data := d, due := latchFrame s } }) s)))))
    ∧ (∀ (p : Fin 40) (f : HartFrame),
      (hpFlag s p 0 = false ∨ hartOff s p = true ∨ domGated s .ana = true → exec (.hartFrameReceived p f) s = .next s ∧ exec (.hartRequestSend p) s = .next s)
      ∧ (hpFlag s p 0 = true → hartOff s p = false → domGated s .ana = false →
        ((hartOf s p).cur.filter (fun c => c.await) = none → (hartParse f = none ∨ ∃ q, hartParse f = some q ∧ q.delim ≠ 0x01 ∧ q.delim ≠ 0x81) → exec (.hartFrameReceived p f) s = .next s)
        ∧ (∀ q, hartParse f = some q → q.delim = 0x01 ∨ q.delim = 0x81 → exec (.hartFrameReceived p f) s = .next (hartBurst p q s))
        ∧ (∀ c, (hartOf s p).cur.filter (fun c => c.await) = some c → (hartParse f = none → exec (.hartFrameReceived p f) s = .next (hartRetry p 2 0 0 [] s))
          ∧ (∀ q, hartParse f = some q → q.delim ≠ 0x01 → q.delim ≠ 0x81 → exec (.hartFrameReceived p f) s = .next (hartResponse p c q s)))
        ∧ (hartMaySend s p (hartOf s p) = false ∨ s.seq.run = false ∨ hartChoose s (hartOf s p) p = none → exec (.hartRequestSend p) s = .next s)
        ∧ (hartMaySend s p (hartOf s p) = true → s.seq.run = true → ∀ h c e id, hartChoose s (hartOf s p) p = some (h, c) → e = exchange s h c → id = hartId s p e.1 →
          (e.2.2.1 = true → id = none → exec (.hartRequestSend p) s = .next (hartEnd p 6 0 0 [] (setHart p { h with cur := some c } s)))
          ∧ (e.2.2.1 = false ∨ id ≠ none → exec (.hartRequestSend p) s = .next (setHart p { h with
            cur := some { c with attempts := c.attempts + 1, await := true }, sent := hartFrame s p (hartAddr s p e.1 (if e.2.2.1 then id else none)) e.2.1 e.2.2.2, sentAt := s.cclk } s)))))
    ∧ (∀ p : Fin 40, (stoOver s (hartOf s p) = true → exec (.hartStoExpiry p) s = .next (hartRetry p 1 0 0 [] s)) ∧ (stoOver s (hartOf s p) = false → exec (.hartStoExpiry p) s = .next s))
    ∧ (∀ (p : Fin 40) (on : Bool), (domGated s .ana = true → exec (.hartCarrierDetect p on) s = .next s)
      ∧ (domGated s .ana = false → exec (.hartCarrierDetect p on) s = .next (setHart p { hartOf s p with carrier := on, since := s.cclk, timer := if on = true ∧ (hartOf s p).cur.filter (fun c => c.await) = none then 1 else (hartOf s p).timer } s)))

/-- Leash links and the interlock follow their events. A link that comes up is marked up and aligned and LEASH_UP (0x0B07) recorded with its expected peer, and a link that is up is unchanged by it. A link that goes down is marked down with the alignment given and counts its code errors to at most 65,535; one that was up records LEASH_DOWN (0x0B06) with the unit code of its last Bark, or 0. After the seal, a Bark on an active link has barkReceived, an equalisation item eqReceived and a command cmdReceived; with a bad CRC each only counts (crcFailed), and on any other link or before the seal it changes nothing. An edge of ILK_IN toggles the pin's level, keeps its tick and classifies the line as CLAIM (1); the lapse of a CLAIM whose last edge is more than 768 ticks past classifies it HIGH (2) or LOW (0) by the level that stands, and any other lapse changes nothing. (11_pack_redundancy.md R346, 11_pack_redundancy.md R356, 11_pack_redundancy.md R357, 11_pack_redundancy.md R360) -/
def Obligations.LeashLinksAndInterlock : Prop :=
  ∀ (k : Fin 3) (s : State),
    ((linkOf s k).up = false → exec (.leashUp k) s = .next (raise 0x0B07 (w32 k) (w32 (linkPeer s k)) 0 (modLink k (fun l => { l with up := true, aligned := true }) s)))
    ∧ ((linkOf s k).up = true → exec (.leashUp k) s = .next s)
    ∧ (∀ al errs (u : State), u = modLink k (fun l => { l with up := false, aligned := al, codeErr := BitVec.ofNat 16 (min 65535 (l.codeErr.toNat + errs.toNat)) }) s →
      ((linkOf s k).up = true → exec (.leashDown k al errs) s = .next (raise 0x0B06 (w32 k) (((lastBark u k).map (fun b => b.code.setWidth 32)).getD 0) 0 u))
      ∧ ((linkOf s k).up = false → exec (.leashDown k al errs) s = .next u))
    ∧ (hears s k = (s.boot.sealed && linkActive s k))
    ∧ (hears s k = true → (∀ b, exec (.leashBarkReceived k true b) s = .next (barkReceived k b s) ∧ exec (.leashBarkReceived k false b) s = .next (crcFailed k s))
      ∧ (∀ x, exec (.leashEqReceived k true x) s = .next (eqReceived x s) ∧ exec (.leashEqReceived k false x) s = .next (crcFailed k s))
      ∧ (∀ c, exec (.leashCmdReceived k true c) s = .next (cmdReceived k c s) ∧ exec (.leashCmdReceived k false c) s = .next (crcFailed k s)))
    ∧ (hears s k = false → ∀ ok b x c, exec (.leashBarkReceived k ok b) s = .next s ∧ exec (.leashEqReceived k ok x) s = .next s ∧ exec (.leashCmdReceived k ok c) s = .next s)
    ∧ exec .ilkInEdge s = .next (setIlk 1 { s with pins := { s.pins with ilkIn := !s.pins.ilkIn }, pack := { s.pack with ilkEdge := s.cclk } })
    ∧ (s.pack.ilk = 1 → s.pack.ilkEdge + 768 < s.cclk → exec .ilkClaimLapse s = .next (setIlk (if s.pins.ilkIn then 2 else 0) s))
    ∧ (s.pack.ilk ≠ 1 ∨ s.cclk ≤ s.pack.ilkEdge + 768 → exec .ilkClaimLapse s = .next s)
    ∧ (∀ c, (setIlk c s).pack.ilk = c)

/-- The pack events and commands have their effect. After the seal a ring frame has ringFrame, before it none. A lease of one remaining cycle that is not held expires, its reason kept; any other is unchanged. A claim window that is over, 768 ticks after the claim began, takes the Collar where the interlock stayed LOW and the unit is STANDBY: it holds the Collar, is to be ACTIVE and records COLLAR_TAKE (0x0B00) with the reason, EQ_OK and the pack cycle; otherwise the unit stops claiming, and position 1 sets its lease again. Before that nothing happens. Equalisation that is lost while STANDBY or SAFE-HOLD clears EQ_OK and records EQ_LOST (0x0B0D) with the stale item; where none is stale, in another state or without EQ_OK nothing happens. ROLE-SWAP completes BUSY while one is asked for or in progress, else keeps a request with its frame and mailbox. PACK-DUPLEX completes RANGE for a unit code other than 1 and 2, BUSY while a request is pending, keeps the change four pack cycles ahead where its conditions hold, and else completes STATE. PARTNER-RESET on a link that is not active completes RANGE, else it hands the RESET command to the link, records PARTNER_RESET_SENT (0x0B13) and decides DONE (decideMbx). (11_pack_redundancy.md R348, 11_pack_redundancy.md R363, 11_pack_redundancy.md R364, 11_pack_redundancy.md R370, 11_pack_redundancy.md R374, 11_pack_redundancy.md R379, 11_pack_redundancy.md R383) -/
def Obligations.PackEventsAndCommands : Prop :=
  ∀ s : State,
    (∀ p f a b, (s.boot.sealed = true → exec (.ringFrameReceived p f a b) s = .next (ringFrame p f a b s)) ∧ (s.boot.sealed = false → exec (.ringFrameReceived p f a b) s = .next s))
    ∧ (s.pack.holder = false → s.pack.leaseLeft = 1 → exec .leaseExpired s = .next { s with pack := { s.pack with leaseLeft := 0, why := if s.pack.renewed then 1 else 0 } })
    ∧ (s.pack.holder = true ∨ s.pack.leaseLeft ≠ 1 → exec .leaseExpired s = .next s)
    ∧ (s.pack.window = true → s.pack.claimAt + 768 ≤ s.cclk →
      (s.pack.winOk = true → s.pack.ilk = 0 → s.boot.dev = .standby → exec .collarClaimWindowEnd s = .next (outRefresh (raise 0x0B00 (s.pack.why.setWidth 32) (w32 (b2n s.pack.eqOk)) (w32 (pcyc s))
        { s with pack := { s.pack with window := false, holder := true, releasing := false, blocked := false, roleNext := some .active, swap := { s.pack.swap with takes := false } } })))
      ∧ (s.pack.winOk = false ∨ s.pack.ilk ≠ 0 ∨ s.boot.dev ≠ .standby → ∀ u : State, u = dupFailed { s with pack := { s.pack with window := false, winOk := false, claiming := false } } →
        exec .collarClaimWindowEnd s = .next (outRefresh (if s.pins.unitSel = 1 then modPack (fun p => { p with leaseLeft := leaseLen u }) u else u))))
    ∧ (s.pack.window = false ∨ s.cclk < s.pack.claimAt + 768 → exec .collarClaimWindowEnd s = .next s)
    ∧ (importing s = (s.boot.dev == .standby || s.boot.dev == .safeHold))
    ∧ (∀ stale : Nat → Bool, (∀ k, stale k = (eqVersion s k).elim true (eqStale s)) →
      (importing s = true → s.pack.eqOk = true → ∀ key, (eqNeeded s).find? stale = some key →
        exec .eqLost s = .next (raise 0x0B0D (w32 key) (i32 (eqAge s ((eqVersion s key).getD 0))) 0 { s with pack := { s.pack with eqOk := false } }))
      ∧ (importing s = false ∨ s.pack.eqOk = false ∨ (eqNeeded s).find? stale = none → exec .eqLost s = .next s))
    ∧ (∀ m : BitVec 4, (s.pack.swap.req ≠ none ∨ s.pack.swap.state = 2 ∨ s.pack.swap.state = 3 ∨ s.pack.swap.state = 4 → exec (.roleSwap m) s = .next (completeMbx m.toNat rcBusy s))
      ∧ (s.pack.swap.req = none → s.pack.swap.state ≠ 2 → s.pack.swap.state ≠ 3 → s.pack.swap.state ≠ 4 →
        exec (.roleSwap m) s = .next { s with pack := { s.pack with swap := { s.pack.swap with req := some (latchFrame s, m.toNat) } } }))
    ∧ (∀ (m : BitVec 4) (u : BitVec 8), (u.toNat ≠ 1 → u.toNat ≠ 2 → exec (.packDuplex m u) s = .next (completeMbx m.toNat rcRange s))
      ∧ (u.toNat = 1 ∨ u.toNat = 2 → (s.pack.dup ≠ none → exec (.packDuplex m u) s = .next (completeMbx m.toNat rcBusy s))
        ∧ (s.pack.dup = none → s.boot.dev = .voting → dupReady s 1 = true → dupReady s 2 = true → lsh0Up s = true → dupClean s 1 = true → dupClean s 2 = true →
          exec (.packDuplex m u) s = .next { s with pack := { s.pack with dup := some { target := u.toNat, cyc := pcyc s + 4, mbx := some m.toNat } } })
        ∧ (s.pack.dup = none → s.boot.dev ≠ .voting ∨ dupReady s 1 = false ∨ dupReady s 2 = false ∨ lsh0Up s = false ∨ dupClean s 1 = false ∨ dupClean s 2 = false →
          exec (.packDuplex m u) s = .next (completeMbx m.toNat rcState s))))
    ∧ (∀ (m : BitVec 4) (k : BitVec 8), (3 ≤ k.toNat ∨ linkActive s k.toNat = false → exec (.partnerReset m k) s = .next (completeMbx m.toNat rcRange s))
      ∧ (k.toNat < 3 → linkActive s k.toNat = true → ∀ c : LeashCmd, c = { target := BitVec.ofNat 8 (linkPeer s k.toNat), sender := BitVec.ofNat 8 (unitCode s), chartId := s.hdr.chartId, pcyc := w32 (pcyc s) } →
        exec (.partnerReset m k) s = .next (decideMbx m.toNat rcDone (raise 0x0B13 (w32 k.toNat) (c.target.setWidth 32) 0 (modLink k.toNat (fun l => { l with txCmd := some c }) (leashSend k.toNat 3 (cmdPayload c) (some m.toNat) s))))))

/-- PTP messages are stamped, measured and answered. A one-step Sync is done at once (syncDone) with its origin time and its receive stamp; a two-step one is kept with its number, its receive stamp in 2^-32 ns and its correction. A Follow_Up of the number kept is done with both corrections, another, or one with none kept, changes nothing. A Sync done on a slave port with a valid delay measures the port's source by origin time plus delay less receive stamp. An Announce becomes the port's best when there is none, of the same identity, or better, and the master choice is made again. A peer delay request is answered with Pdelay_Resp and its Follow_Up. A delay response of another number changes nothing; a peer delay is half the difference of the two stamp intervals; a mean path delay is half the sum of the last Sync's difference and the request's, and nothing without a Sync. A timer that has run out has ptpTimerEffect, one that has not changes nothing, and before the seal none has. A source that times out forgets the masters whose Announce has timed out and is invalid, and the master choice is made again; else nothing changes. (12_time.md R392, 12_time.md R393, 12_time.md R395, 12_time.md R396, 12_time.md R397) -/
def Obligations.PtpMessagesMeasure : Prop :=
  ∀ (p : Fin 4) (s : State),
    (∀ n t1, exec (.ptpSyncReceived p n false t1) s = .next (syncDone p (ptpNs t1) (rxStamp s p) s)
      ∧ exec (.ptpSyncReceived p n true t1) s = .next (modPort p (fun y => { y with waitSync := some (n.toNat, (rxStamp s p * 4294967296).floor.toNat, t1.corr) }) s))
    ∧ (∀ n t1, ((port s p).waitSync = none → exec (.ptpFollowUpReceived p n t1) s = .next s)
      ∧ (∀ q t2 corr, (port s p).waitSync = some (q, t2, corr) →
        (q = n.toNat → exec (.ptpFollowUpReceived p n t1) s = .next (syncDone p (ptpNs { t1 with corr := t1.corr + corr }) ((t2 : Rat) / 4294967296) s))
        ∧ (q ≠ n.toNat → exec (.ptpFollowUpReceived p n t1) s = .next s)))
    ∧ (∀ t1 t2 i, srcIdx s (portKind p) = some i → (port s p).slave = true → (port s p).delayOk = true →
      ∃ u, syncDone p t1 t2 s = measure i (t1 + (port s p).delay - t2) u ∧ Only [.ptc, .evm, .recd] s u)
    ∧ (∀ a, exec (.ptpAnnounceReceived p a) s = .next (runBmca (modPort p (fun y =>
        if y.best.all (fun b => a.identity == b.identity || annBetter a b) then { y with best := some a, annAt := s.ptc.edges } else y) s)))
    ∧ (∀ n, exec (.ptpPdelayReqReceived p n) s = .next (ptpSend p
        [{ kind := 3, seq := n.toNat, stamp := (rxStamp s p * 4294967296).floor.toNat, data := none }, { kind := 5, seq := n.toNat, stamp := txStamp s p, data := none }] s))
    ∧ (∀ n rx tx, ((port s p).reqSeq ≠ n → exec (.ptpDelayResponseReceived p n rx tx) s = .next s)
      ∧ ((port s p).reqSeq = n → portE2e s p = false → exec (.ptpDelayResponseReceived p n rx tx) s
        = .next (modPort p (fun y => { y with delay := ((rxStamp s p - ((port s p).reqAt : Rat) / 4294967296) - (ptpNs tx - ptpNs rx)) / 2, delayOk := true }) s))
      ∧ ((port s p).reqSeq = n → portE2e s p = true → (∀ d, (port s p).syncDiff = some d → exec (.ptpDelayResponseReceived p n rx tx) s
          = .next (modPort p (fun y => { y with delay := (d + (ptpNs rx - ((port s p).reqAt : Rat) / 4294967296)) / 2, delayOk := true }) s))
        ∧ ((port s p).syncDiff = none → exec (.ptpDelayResponseReceived p n rx tx) s = .next s)))
    ∧ (∀ t, (ptpTimerOver s p t = true → exec (.ptpMessageTimer p t) s = .next (ptpTimerEffect p t s)) ∧ (ptpTimerOver s p t = false → exec (.ptpMessageTimer p t) s = .next s)
      ∧ (s.boot.sealed = false → ptpTimerOver s p t = false))
    ∧ (sourceOver s p = true → exec (.ptpSourceTimeout p) s = .next (runBmca (setSrcValid p false
        ((kindPorts (srcKind s p)).foldl (fun t q => if annOver s q then modPort q (fun y => { y with best := none }) t else t) s))))
    ∧ (sourceOver s p = false → exec (.ptpSourceTimeout p) s = .next s)

/-- The clock reference, the time status, the PPS pins, the calendar and the time triggers follow their events. The loss of the 10 MHz reference moves to the crystal and records REF_CLK_LOST (0x0C04), its return records REF_CLK_BACK (0x0C05) with the whole seconds; where it stands so already nothing changes. Once no measurement has been accepted for LOSS_S (lossOver) the time status is HOLDOVER at the clamped learned rate; a source valid for SRC_HOLD (holdOver) may be selected; PPS_OUT rises for PPS_W milliseconds when a whole second has come (ppsDue) and falls when they are over (ppsEnds); the calendar is loaded from the counter once a new whole second of valid time has come (calDue); in every other case these events change nothing. A PPS input whose edges are missing (ppsMissed) makes its source invalid and records the whole seconds (0x0C06). A PPS edge of a listed input, in valid time, is compensated by 8 ns; more than 250 ms from a whole second it is counted as discarded, else it is measured, its source valid after three near each other; without valid time, or of an input not listed, it changes nothing. TIME-SET sets the calendar without valid time, with valid time it completes STATE. Programming that may arrive leaves its FIFO and is judged (judge), after the entry has fired where its time has come; a fire event has ttuFire when the entry is due, and else changes nothing. A firing counts; a PERIODIC entry stays ARMED (1) with its target moved on by its period, another is FIRED (2). (12_time.md R390, 12_time.md R400, 12_time.md R403, 12_time.md R404, 12_time.md R405, 12_time.md R406, 12_time.md R407, 12_time.md R414, 12_time.md R417, 12_time.md R409, 12_time.md R410, 12_time.md R412) -/
def Obligations.TimeSourcesAndTriggers : Prop :=
  (∀ s : State,
    (s.ptc.onXtal = false → exec .refClkLost s = .next (raise 0x0C04 0 0 0 { s with ptc := { s.ptc with onXtal := true, xtalFrom := s.cclk } }) ∧ exec .refClkBack s = .next s)
    ∧ (s.ptc.onXtal = true → exec .refClkBack s = .next (raise 0x0C05 (w32 ((s.cclk - s.ptc.xtalFrom) / 400000000)) 0 0 { s with ptc := { s.ptc with onXtal := false } }) ∧ exec .refClkLost s = .next s)
    ∧ (lossOver s = true → ∃ t, exec .timeHoldoverEntry s = .next t ∧ t.ptc.status = 3 ∧ t.ptc.holdFrom = s.cclk ∧ Only [.ptc, .seq, .evm, .recd] s t
        ∧ (s.seq.run = false → t.ptc.r = clampQ (-50000000) 50000000 s.ptc.i) ∧ (s.seq.run = true → t.ptc.rNext = some (clampQ (-50000000) 50000000 s.ptc.i)))
    ∧ (lossOver s = false → exec .timeHoldoverEntry s = .next s)
    ∧ (∀ i : Fin 4, (holdOver s i = true → exec (.sourceHoldExpired i) s = .next (reselect (modSrc i (fun x => { x with held := true }) s)))
      ∧ (holdOver s i = false → exec (.sourceHoldExpired i) s = .next s))
    ∧ (ppsDue s = true → exec .ppsOutRise s = .next { s with ptc := { s.ptc with ppsOut := true, ppsSec := ptcSec s, ppsTo := s.ptc.edges + 250000 * tt s 0x29 1 } })
    ∧ (ppsDue s = false → exec .ppsOutRise s = .next s)
    ∧ (ppsEnds s = true → exec .ppsOutFall s = .next { s with ptc := { s.ptc with ppsOut := false } }) ∧ (ppsEnds s = false → exec .ppsOutFall s = .next s)
    ∧ (∀ k : Fin 2, (ppsMissed s k = true → ∀ i, srcIdx s (5 + k) = some i →
        exec (.ppsInMiss k) s = .next (raise 0x0C06 (w32 k) (w32 ((s.ptc.edges - (tget none s.ptc.ppsAt k).getD 0) / 250000000)) 0
          (setSrcValid i false { s with ptc := { s.ptc with ppsAt := tset none s.ptc.ppsAt k none } })))
      ∧ (ppsMissed s k = false → exec (.ppsInMiss k) s = .next s)
      ∧ (srcIdx s (5 + k) = none ∨ s.ptc.status = 0 → exec (.ppsInEdge k) s = .next s)
      ∧ (∀ i cap last, srcIdx s (5 + k) = some i → s.ptc.status ≠ 0 → cap = s.ptc.counter - 8 * ptcUnit → last = tget 0 s.ptc.ppsLast k →
        (250000000 < absQ (ppsOffset cap) → exec (.ppsInEdge k) s = .next (modSrc i (fun x => { x with disc := x.disc + 1 }) s))
        ∧ (absQ (ppsOffset cap) ≤ 250000000 → ∀ near v, near = (decide (last ≠ 0) && decide (999000000 ≤ (cap - last) / ptcUnit) && decide ((cap - last) / ptcUnit ≤ 1001000000)) →
          v = modSrc i (fun x => { x with run := if near then x.run + 1 else 1 })
            { s with ptc := { s.ptc with ppsLast := tset 0 s.ptc.ppsLast k cap, ppsAt := tset none s.ptc.ppsAt k (some s.ptc.edges) } } →
          exec (.ppsInEdge k) s = .next (measure i (ppsOffset cap) (if 3 ≤ (src v i).run then setSrcValid i true v else v)))))
    ∧ (calDue s = true → exec .calendarLoad s = .next (setCalendar (ptcSec s) (utcOf s).1 false { s with ptc := { s.ptc with calSec := ptcSec s } }))
    ∧ (calDue s = false → exec .calendarLoad s = .next s)
    ∧ (∀ (m : BitVec 4) (x : BitVec 48) (u : BitVec 16), (s.ptc.status = 0 → exec (.timeSet m x u) s = .next (completeMbx m.toNat rcDone (setCalendar x.toNat u.toInt true s)))
      ∧ (s.ptc.status ≠ 0 → exec (.timeSet m x u) s = .next (completeMbx m.toNat rcState s))))
  ∧ (∀ (n : BitVec 6) (s : State),
    ((ttuEnt s n.toNat).fifo = [] → exec (.ttuProgramArrival n) s = .next s)
    ∧ (∀ p l, (ttuEnt s n.toNat).fifo = p :: l → (mayArrive s ttuCross p = false → exec (.ttuProgramArrival n) s = .next s)
      ∧ (mayArrive s ttuCross p = true → exec (.ttuProgramArrival n) s
        = .next (judge n.toNat p.item (modTtu n.toNat (fun e => { e with fifo := l }) (if fireDue s n.toNat then ttuFire n.toNat s else s)))))
    ∧ (fireDue s n.toNat = true → exec (.ttuFire n) s = .next (ttuFire n.toNat s)) ∧ (fireDue s n.toNat = false → exec (.ttuFire n) s = .next s)
    ∧ ((ttuEnt (ttuFire n.toNat s) n.toNat).fires = (ttuEnt s n.toNat).fires + 1
      ∧ (teKind s n.toNat = 2 → (ttuEnt (ttuFire n.toNat s) n.toNat).status = 1 ∧ (ttuEnt (ttuFire n.toNat s) n.toNat).target = (ttuEnt s n.toNat).target + te s n.toNat 8 4)
      ∧ (teKind s n.toNat ≠ 2 → (ttuEnt (ttuFire n.toNat s) n.toNat).status = 2)
      ∧ (∀ j, j ≠ n.toNat → ttuEnt (ttuFire n.toNat s) j = ttuEnt s j)))

/-- The events of a CAN controller have their effect. A transmit at the head of the controller's FIFO that may arrive is taken out and reaches its object (canArrive); a cancel that may arrive is taken out, marks the object where its frame is on the wire, cancels it and records it where it is pending, and else does no more; before its time, or with another head, nothing changes. Where no frame is on the wire when a frame is reported sent or failed, the best pending one is taken to have begun (canWire), and with none the command does no more. A sent frame leaves the wire SENT, pending again where a new request waits, or sent in spite of a cancel, is counted and lowers TEC by one. A failed attempt leaves the wire pending, or cancelled where a cancel or a disable waits; it raises TEC by 8 for an error (not for lost arbitration, a stuff error in arbitration, or a missing acknowledgement in error-passive) and by 8 for each further error, counts the error frame and the run of missing acknowledgements, and records CAN_ALONE (0x0D01) when the run reaches its limit. In error-active and error-passive a received frame changes REC by its rule and is stored by the object that it matches, counted where none does, and not stored when it is a remote frame; a receive error raises REC by 1 and by 8 for each further cause, to at most 255. Bus-off ends with both counters 0 and error-active; the integration wait ends in error-active. In other states these change nothing. After a frame sent, failed or received and after a receive error the error state is judged (canJudge); after these, after a transmit's arrival and after the ends of bus-off and integration the best pending frame begins where the command says so (canBegin). CAN-VIEW of a used object keeps one request; of an unused one, a controller without a table or a number above 7 it completes RANGE. (13_field_ports.md R431, 13_field_ports.md R432, 13_field_ports.md R433, 13_field_ports.md R434, 13_field_ports.md R437, 01_chart_contract.md R50) -/
def Obligations.CanEventsComplete : Prop :=
  (∀ (c : Fin 8) (b : Bool) (s u : State), u = canWire c s →
    (∀ t o d l, (canOf s c).fifo = ⟨t, .tx o d⟩ :: l → (mayArrive s canCross (⟨t, .tx o d⟩ : Handed CanFifo) = true →
        exec (.canTxArrival c b) s = .next (canBegin c b (canArrive c o d (modCan c (fun x => { x with fifo := l }) s))))
      ∧ (mayArrive s canCross (⟨t, .tx o d⟩ : Handed CanFifo) = false → exec (.canTxArrival c b) s = .next s) ∧ exec (.canCancelArrival c) s = .next s)
    ∧ (∀ t o l, (canOf s c).fifo = ⟨t, .cancel o⟩ :: l → exec (.canTxArrival c b) s = .next s
      ∧ (mayArrive s canCross (⟨t, .cancel o⟩ : Handed CanFifo) = false → exec (.canCancelArrival c) s = .next s)
      ∧ (mayArrive s canCross (⟨t, .cancel o⟩ : Handed CanFifo) = true → ∀ v, v = modCan c (fun x => { x with fifo := l }) s →
        ((canOf v c).wire = some o → exec (.canCancelArrival c) s = .next (modObj c o (fun x => { x with cancel := true, again := false }) v))
        ∧ ((canOf v c).wire ≠ some o → (canObj v c o).stat = 1 → exec (.canCancelArrival c) s = .next (cancelEv c o 4 (modObj c o (fun x => { x with stat := 4 }) v)))
        ∧ ((canOf v c).wire ≠ some o → (canObj v c o).stat ≠ 1 → exec (.canCancelArrival c) s = .next v)))
    ∧ ((canOf s c).fifo = [] → exec (.canTxArrival c b) s = .next s ∧ exec (.canCancelArrival c) s = .next s)
    ∧ ((canOf u c).wire = none → exec (.canFrameSent c b) s = .next u ∧ ∀ e more, exec (.canAttemptEnd c e more b) s = .next u)
    ∧ (∀ o, (canOf u c).wire = some o →
      (∀ v, v = modCan c (fun x => { x with wire := none, tx := x.tx + 1, tec := x.tec - 1 })
          (modObj c o (fun y => { y with stat := if y.again then 1 else if y.cancel then 5 else 3, again := false, cancel := false }) u) →
        exec (.canFrameSent c b) s = .next (canBegin c b (canJudge c (canHeard c 0 (if (canObj u c o).cancel then cancelEv c o 5 v else v)))))
      ∧ (∀ (e : CanErr) (more : BitVec 5) (up : Nat) (run : Half) (ends : Bool) (v w : State),
        up = (if e = .lostArb ∨ e = .stuffArb ∨ (e = .ack ∧ (canOf u c).state = 3) then 0 else 8) → run = (if e = .ack then satH (canOf u c).ackRun else 0) →
        ends = ((canObj u c o).cancel || (canOf u c).state == 0) →
        v = modCan c (fun x => { x with wire := none, tec := x.tec + up + (if e = .lostArb then 0 else 8 * more.toNat), ackRun := run, errFr := if e = .lostArb then x.errFr else satH x.errFr })
          (modObj c o (fun y => { y with stat := if ends && !y.again then 4 else 1, again := false, cancel := false }) u) →
        w = (if ends then cancelEv c o 4 v else v) →
        exec (.canAttemptEnd c e more b) s = .next (canBegin c b (canJudge c (if e = .ack ∧ ca13 s c 0xA 2 ≤ run.toNat ∧ (canOf u c).lonely = false
          then raise 0x0D01 (w32 c) (run.setWidth 32) (w32 o) (modCan c (fun x => { x with lonely := true }) w) else w)))))
    ∧ ((canOf s c).state = 2 ∨ (canOf s c).state = 3 →
      (∀ more : BitVec 5, exec (.canRxError c more b) s
        = .next (canBegin c b (canJudge c (setCan c { canOf s c with rec_ := min 255 ((canOf s c).rec_ + 1 + 8 * more.toNat), errFr := satH (canOf s c).errFr } s))))
      ∧ (∀ f v, v = canHeard c 1 (setCan c { canOf s c with rec_ := recAfter s (canOf s c).rec_ } { s with draws := s.draws + 1 }) →
        exec (.canFrameReceived c f b) s = .next (canBegin c b (canJudge c (if f.remote then v else (canMatch v c f).elim
          (modCan c (fun x => { x with unm := satH x.unm }) v) (fun o => canStore c o f v))))))
    ∧ ((canOf s c).state ≠ 2 → (canOf s c).state ≠ 3 → ∀ more f, exec (.canRxError c more b) s = .next s ∧ exec (.canFrameReceived c f b) s = .next s)
    ∧ ((canOf s c).state = 4 → exec (.canBusoffRecovery c b) s = .next (canBegin c b (canStateEv c (modCan c (fun x => { x with state := 2, tec := 0, rec_ := 0 }) s))))
    ∧ ((canOf s c).state ≠ 4 → exec (.canBusoffRecovery c b) s = .next s)
    ∧ ((canOf s c).state = 1 → exec (.canIntegrationComplete c b) s = .next (canBegin c b (canStateEv c (modCan c (fun x => { x with state := 2 }) s))))
    ∧ ((canOf s c).state ≠ 1 → exec (.canIntegrationComplete c b) s = .next s))
  ∧ (∀ (m : BitVec 4) (c o : BitVec 8) (s : State),
    (c.toNat < 8 → hasSect s .cant c.toNat = true → objUsed s c.toNat o.toNat = true →
      exec (.canView m c o) s = .next (modCan c.toNat (fun x => { x with views := x.views ++ [{ obj := o.toNat, due := latchFrame s, mbx := m.toNat }] }) s))
    ∧ (8 ≤ c.toNat ∨ hasSect s .cant c.toNat = false ∨ objUsed s c.toNat o.toNat = false → exec (.canView m c o) s = .next (completeMbx m.toNat rcRange s)))

/-- The events of the serial and Ethernet ports have their effect. A telegram at the head of a serial port's FIFO that may arrive is taken to the end of its queue, and the line takes the next one where it is free (serStart); a telegram whose bits have all been sent (serSent) leaves the line, at this tick, and the next one is taken. On a live serial port a received telegram has serTelegram, and a character error that is no echo serFail with cause 0, 2 or 3. On a live RAW port whose next close is due and whose bytes are no echo, a close of some bytes lands their first sixty as one chunk, with the next chunk number. On ETH2 and ETH3, live, a received frame has ethFrame. A RAW descriptor of an Ethernet port whose data are due (rawDue) lands the first sixty of its queued bytes with the next chunk number, and keeps the rest. A link at a new speed keeps it, marks a ring port up or down, and is recorded (0x0D05). In every other case these events change nothing. (13_field_ports.md R439, 13_field_ports.md R440, 13_field_ports.md R441, 13_field_ports.md R442, 13_field_ports.md R444, 13_field_ports.md R445, 13_field_ports.md R446, 01_chart_contract.md R50) -/
def Obligations.SerialAndEthernetEvents : Prop :=
  ∀ s : State,
    (∀ p : Fin 12, ((serOf s p).fifo = [] → exec (.serTxArrival p) s = .next s)
      ∧ (∀ x l, (serOf s p).fifo = x :: l → (mayArrive s (serCross s p) x = false → exec (.serTxArrival p) s = .next s)
        ∧ (mayArrive s (serCross s p) x = true → exec (.serTxArrival p) s = .next (serStart p (setSer p { serOf s p with fifo := l, queue := (serOf s p).queue ++ [x.item] } s))))
      ∧ (serSent s p 0 = true → exec (.serTelegramSent p) s = .next (serStart p (modSer p (fun x => { x with wire := none, endAt := some s.cclk }) s)))
      ∧ (serSent s p 0 = false → exec (.serTelegramSent p) s = .next s))
    ∧ (∀ (p : Fin 12) bs, (serLive s p = true → exec (.serTelegramReceived p bs) s = .next (serTelegram p bs s)) ∧ (serLive s p = false → exec (.serTelegramReceived p bs) s = .next s))
    ∧ (∀ (p : Fin 12) bs, (serLive s p = true → serFraming s p = 4 → bs ≠ [] → serEcho s p = false → (serOf s p).closes < chunkTimes s p → ∀ u,
        u = modSer p (fun y => { y with chunk := y.chunk + 1, landed := y.landed + 1, closes := chunkTimes s p }) s →
        ∃ d, exec (.serChunkClose p bs) s = .next (landFrom (0x18 + p.val) d (chunkWords (serOf u p).chunk (bs.take 60)) (asyncStamp u) u))
      ∧ (serLive s p = false ∨ serFraming s p ≠ 4 ∨ bs = [] ∨ serEcho s p = true ∨ chunkTimes s p ≤ (serOf s p).closes → exec (.serChunkClose p bs) s = .next s))
    ∧ (∀ (p : Fin 12) n, (serLive s p = true → serEcho s p = false → exec (.serCharacterError p .char n) s = .next (serFail p 0 n.toNat s)
        ∧ exec (.serCharacterError p .long n) s = .next (serFail p 2 n.toNat s) ∧ exec (.serCharacterError p .charset n) s = .next (serFail p 3 n.toNat s))
      ∧ (serLive s p = false ∨ serEcho s p = true → ∀ e, exec (.serCharacterError p e n) s = .next s))
    ∧ (∀ (p : Fin 4) f, (2 ≤ p.val → ethLive s p = true → exec (.ethFrameReceived p f) s = .next (ethFrame p f s))
      ∧ (p.val < 2 ∨ ethLive s p = false → exec (.ethFrameReceived p f) s = .next s))
    ∧ (∀ (p : Fin 4) (d : BitVec 8), (rawDue s p d.toNat = true → ∀ q n, q = tget [] (ethOf s p).raw d.toNat → n = tget 0 (ethOf s p).seqs d.toNat + 1 →
        exec (.ethRawChunk p d) s = .next (landFrom (0x24 + p.val) d.toNat (chunkWords n (q.take 60)) (ptcNs s) (setEth p { ethOf s p with raw := tset [] (ethOf s p).raw d.toNat (q.drop 60), rawAt := tset 0 (ethOf s p).rawAt d.toNat (ptcNs s), seqs := tset 0 (ethOf s p).seqs d.toNat n, landed := (ethOf s p).landed + 1 } s)))
      ∧ (rawDue s p d.toNat = false → exec (.ethRawChunk p d) s = .next s))
    ∧ (∀ (p : Fin 4) w, ((ethOf s p).speed = linkSpeed p w → exec (.ethLink p w) s = .next s)
      ∧ ((ethOf s p).speed ≠ linkSpeed p w → ∀ u, u = modEth p (fun y => { y with speed := linkSpeed p w }) s →
        (2 ≤ p.val → exec (.ethLink p w) s = .next (raise 0x0D05 (w32 p) ((linkSpeed p w).setWidth 32) 0 u))
        ∧ (p.val < 2 → exec (.ethLink p w) s = .next (raise 0x0D05 (w32 p) ((linkSpeed p w).setWidth 32) 0 { u with pack := { u.pack with psw := { u.pack.psw with
            link := if linkSpeed p w = 0 then u.pack.psw.link &&& ~~~ BitVec.ofNat 2 (2 ^ p.val) else u.pack.psw.link ||| BitVec.ofNat 2 (2 ^ p.val) } } }))))

/-- A record gets its SEQ on entering staging, and a full staging loses it or its oldest. After the first wipe of the boot: while staging holds fewer than 4,096 records, a record enters as the newest with the next SEQ, which then advances by one modulo 2^32, and carries LOST exactly when a loss is outstanding. With a log and staging full, the record is lost without a SEQ, REC_LOST counts it and the next record will carry LOST. Without a log and staging full, it enters and the oldest leaves. Nothing outside the recorder changes. (R466) -/
def Obligations.RecordEntersStagingInOrder : Prop :=
  ∀ (r : Rec) (s : State), s.boot.firstWipe = false →
    (s.recd.staging.length < 4096 → ∃ x : Rec, (stageRec r s).recd.staging = s.recd.staging ++ [x] ∧ x.seq = s.recd.head
      ∧ x.flags = (if s.recd.lostFlag then r.flags ||| 4#8 else r.flags) ∧ (stageRec r s).recd.head = s.recd.head + 1 ∧ (stageRec r s).recd.lostFlag = false)
    ∧ (4096 ≤ s.recd.staging.length → s.recd.hasLog = true → stageRec r s
      = { s with recd := { s.recd with lostStage := satHalfInc s.recd.lostStage, lostFlag := true } })
    ∧ (4096 ≤ s.recd.staging.length → s.recd.hasLog = false → ∃ x : Rec, (stageRec r s).recd.staging = s.recd.staging.drop 1 ++ [x] ∧ x.seq = s.recd.head
      ∧ (stageRec r s).recd.head = s.recd.head + 1)
    ∧ Only [.recd] s (stageRec r s)

/-- A record write stores the oldest staged record in its log slot and no other byte of the log. With a log and a staged record, outside SLEEP and outside a RESET whose flush has ended, REC_RECORD_WRITE takes the oldest record from staging; its thirty-two bytes stand at the record's place in the log, and every other byte of the log memory is as before; nothing but the log memory and the recorder changes. In every other case it changes nothing. (14_events_recorder_mailboxes.md R463, 14_events_recorder_mailboxes.md R469) -/
def Obligations.RecordWriteStoresThirtyTwoBytes : Prop :=
  ∀ (s : State),
    (∀ r l, StoresWf s → s.recd.staging = r :: l → s.recd.hasLog = true → s.boot.dev ≠ .sleep → ¬ (s.boot.dev = .reset ∧ s.boot.flushDone = true) →
      ∃ t, exec .recRecordWrite s = .next t ∧ t.recd.staging = l ∧ memBytes logBlank t.logMem (logAddr s r.seq.toNat) 32 = recBytes r
        ∧ (∀ a, a < logAddr s r.seq.toNat ∨ logAddr s r.seq.toNat + 32 ≤ a → tget logBlank t.logMem a = tget logBlank s.logMem a)
        ∧ Only [.logMem, .recd] s t)
    ∧ (s.recd.hasLog = false ∨ s.recd.staging = [] ∨ s.boot.dev = .sleep ∨ (s.boot.dev = .reset ∧ s.boot.flushDone = true) → exec .recRecordWrite s = .next s)

/-- Token refill, cursor loads, the walk of the log and the clearing of sticky bits have their effect. A refill of a slot with a bucket, sealed and with a refill outstanding (refillDue), takes those outstanding from the tokens used; else it changes nothing. Where the device serves its masters, a cursor write sets that master's cursor and starts a load, and a read of REC_WIN7 answers word 7 of the window, 0 while a load runs, advances that master's cursor by one and starts the next load; the other master's cursor, window and status are as before. A load that runs ends with the state and the words of loadResult; with no load running its end changes nothing. A clear of sticky bits, where the device serves its masters, clears the bits of its mask in that word, but for those of slots raised on the same tick, and no bit of another word. A write over HSP leaves STATUS with only the applied bit. (14_events_recorder_mailboxes.md R460, 14_events_recorder_mailboxes.md R458, 14_events_recorder_mailboxes.md R471, 14_events_recorder_mailboxes.md R472) -/
def Obligations.RecorderReadsAndTokens : Prop :=
  ∀ (s : State) (fin : Master → State → State), (∀ t, fin .mep t = t) → (∀ t, fin .hsp t = { t with host := { t.host with applied := true, crcFailed := false, wrRefused := false } }) →
    (∀ n : BitVec 8, (refillDue s n.toNat = true → exec (.evtTokenRefill n) s
        = .next (modEvSlot n.toNat (fun e => { e with used := e.used - (refillTimes s n.toNat - e.refills), refills := refillTimes s n.toNat }) (closeTick s)))
      ∧ (refillDue s n.toNat = false → exec (.evtTokenRefill n) s = .next s))
    ∧ (served s = true → ∀ m q, exec (.recCursorWrite m q) s = .next (fin m (setBank m { cursor := q, wstat := 1, loadAt := s.cclk, win := [] } s)))
    ∧ (served s = true → ∀ m, ∃ u, u = setBank m { cursor := (bankOf s m).cursor + 1, wstat := 1, loadAt := s.cclk, win := [] } s
      ∧ exec (.recWin7Read m) s = .next { u with host := { u.host with reply := [if (bankOf s m).wstat = 1 then 0 else (bankOf s m).win.getD 7 0] } })
    ∧ (∀ m b, bankOf (setBank m b s) m = b ∧ (∀ m', m' ≠ m → bankOf (setBank m b s) m' = bankOf s m') ∧ Only [.recd] s (setBank m b s))
    ∧ (∀ m, ((bankOf s m).wstat = 1 → exec (.recLoadComplete m) s
        = .next (setBank m { bankOf s m with wstat := (loadResult s (bankOf s m).cursor).1, win := (loadResult s (bankOf s m).cursor).2 } { s with draws := s.draws + 8 }))
      ∧ ((bankOf s m).wstat ≠ 1 → exec (.recLoadComplete m) s = .next s))
    ∧ (served s = true → ∀ m (i : BitVec 3) mask, ∃ u, exec (.evtStickyClear m i mask) s = .next (fin m u) ∧ Only [.evm, .recd] s u
      ∧ u.evm.sticky = tset 0 s.evm.sticky i.toNat (tget 0 s.evm.sticky i.toNat &&& (~~~ mask ||| raisedNow s i.toNat)) ∧ ∀ j, j ≠ i.toNat → tget 0 u.evm.sticky j = tget 0 s.evm.sticky j)

/-- A lock read takes a free mailbox, only the owner posts or releases it, and an idle lock expires. While the device serves its masters, for master 1 over HSP and master 2 over MEP: a read of MBX_LOCK of a FREE mailbox makes the reader its owner, sets LOCKED and answers 0; of its own it answers 0, of an orphaned one 15, of another's its owner's number, and no mailbox changes. POST of the master's own LOCKED mailbox makes it POSTED for that master, counts the post, clears ACK VALID and wakes the domain of the command's group; RELEASE of its own LOCKED or DONE one makes it FREE without an owner and keeps the acknowledgement; no other mailbox changes. POST of a mailbox not its own or not LOCKED, and RELEASE of one not its own or neither LOCKED nor DONE, change no mailbox and, over HSP, set the refused bit and count in HSP_ERR.PROTECT. A LOCKED or DONE mailbox whose LOCK_TMO has passed (lockOver) becomes FREE and is recorded (0x0E06); before that nothing happens. (14_events_recorder_mailboxes.md R474, 14_events_recorder_mailboxes.md R475, 17_address_map.md R563) -/
def Obligations.MailboxLockAndControl : Prop :=
  ∀ (n : BitVec 4) (s : State) (fin : Master → State → State), (∀ t, fin .mep t = t) → (∀ t, fin .hsp t = { t with host := { t.host with applied := true, crcFailed := false, wrRefused := false } }) →
    (served s = true → ∀ (m : Master) (no : Nat) (x : Mbx), (m = .hsp ∧ no = 1 ∨ m = .mep ∧ no = 2) → x = mbxOf s n.toNat →
      (x.state = .free → exec (.mbxLockRead m n) s
        = .next { setMbx n.toNat { x with state := .locked, owner := no, touched := s.cclk } s with host := { s.host with reply := [0] } })
      ∧ (x.state ≠ .free → exec (.mbxLockRead m n) s = .next { s with host := { s.host with reply := [w32 (if x.owner = no then 0 else if x.owner = 0 then 15 else x.owner)] } })
      ∧ (x.owner = no → x.state = .locked → exec (.mbxCtlPost m n) s = .next (fin m ((groupDomain (payByte x 1)).elim id (fun d => startWake (domMask d))
          (setMbx n.toNat { x with state := .posted, posts := x.posts + 1, poster := no, ackValid := false, result := none, touched := s.cclk } s))))
      ∧ (x.owner = no → x.state = .locked ∨ x.state = .done → exec (.mbxCtlRelease m n) s = .next (fin m (setMbx n.toNat { x with state := .free, owner := 0 } s)))
      ∧ (x.owner ≠ no ∨ x.state ≠ .locked → ∃ t, exec (.mbxCtlPost m n) s = .next t ∧ t.mbx = s.mbx ∧ (m = .hsp → t.host.wrRefused = true ∧ t.host.errProtect = satByteInc s.host.errProtect))
      ∧ (x.owner ≠ no ∨ (x.state ≠ .locked ∧ x.state ≠ .done) →
        ∃ t, exec (.mbxCtlRelease m n) s = .next t ∧ t.mbx = s.mbx ∧ (m = .hsp → t.host.wrRefused = true ∧ t.host.errProtect = satByteInc s.host.errProtect)))
    ∧ (∀ x j, j ≠ n.toNat → mbxOf (setMbx n.toNat x s) j = mbxOf s j)
    ∧ (lockOver s n.toNat = true → exec (.mbxLockExpired n) s = .next (raise 0x0E06 (w32 n.toNat) (w32 (mbxOf s n.toNat).owner) (w32 (mbxCode (mbxOf s n.toNat).state))
        (setMbx n.toNat { mbxOf s n.toNat with state := .free, owner := 0 } s)))
    ∧ (lockOver s n.toNat = false → exec (.mbxLockExpired n) s = .next s)

/-- A running command whose handler has decided completes with its code, and the standalone server latches commands. Where a mailbox's handler may end (handlerMay: RUNNING, a code decided, its ticks past, not in SLEEP and no Leash frame of it still to leave), the command's completion leaves the mailbox DONE, FREE when it has no owner, with the acknowledgement valid, the code, the master that posted it and its post count, changes no other mailbox, and nothing but the mailboxes, the event manager and the recorder; else it changes nothing. A standalone server latches the command of a mailbox that it serves (latchCommand) and does nothing elsewhere. (14_events_recorder_mailboxes.md R475, 14_events_recorder_mailboxes.md R476, 14_events_recorder_mailboxes.md R477, 14_events_recorder_mailboxes.md R482) -/
def Obligations.MailboxCommandCompletes : Prop :=
  ∀ (n : BitVec 4) (s : State),
    (handlerMay s n.toNat = true → (mbxOf s n.toNat).state = .running ∧ ∃ code, (mbxOf s n.toNat).result = some code ∧ ∃ t, exec (.mbxCommandComplete n) s = .next t
      ∧ (mbxOf t n.toNat).state = (if (mbxOf s n.toNat).owner = 0 then .free else .done) ∧ (mbxOf t n.toNat).ackValid = true ∧ (mbxOf t n.toNat).ackCode = code
      ∧ (mbxOf t n.toNat).ackPosts = (mbxOf s n.toNat).posts ∧ (mbxOf t n.toNat).ackMaster = BitVec.ofNat 4 (mbxOf s n.toNat).poster
      ∧ (∀ j, j ≠ n.toNat → mbxOf t j = mbxOf s j) ∧ Only [.mbx, .evm, .recd] s t)
    ∧ (handlerMay s n.toNat = false → exec (.mbxCommandComplete n) s = .next s)
    ∧ (standaloneServes s n.toNat = true → exec (.standaloneServerLatch n) s = .next (latchCommand n.toNat s))
    ∧ (standaloneServes s n.toNat = false → exec (.standaloneServerLatch n) s = .next s)

/-- A read of one word changes nothing but the reply, except the three reads that the manual names. A read of one word, by HSP or MEP, at an address that is neither a mailbox lock, REC_WIN7 nor PTC_NS changes no part of the state but the reply. Where the device serves its masters, a read of PTC_NS answers the nanoseconds of the counter's second, latches its whole seconds and its fraction in 2^-16 ns for the reading master alone, and changes nothing else but the reply. (17_address_map.md R565, 17_address_map.md R559, 14_events_recorder_mailboxes.md R484) -/
def Obligations.HostReadsHaveNoSideEffect : Prop :=
  ∀ (m : Master) (s : State),
    (∀ a : Nat, ¬ (0x20000 ≤ a ∧ a < 0x21000 ∧ a % 256 = 0x48) → a ≠ 0x1805C → a ≠ 0x30004 → Only [.host] s (readBy m a s))
    ∧ (served s = true → ∃ u, exec (.ptcNsRead m) s = .next { u with host := { s.host with reply := [w32 (ptcNs s % 1000000000)] } } ∧ Only [.ptc] s u
      ∧ u.ptc = (match m with
        | .hsp => { s.ptc with hspSecs := ptcNs s / 1000000000, hspFrac := BitVec.ofNat 16 (s.ptc.counter % ptcUnit / 65536) }
        | .mep => { s.ptc with mepSecs := ptcNs s / 1000000000, mepFrac := BitVec.ofNat 16 (s.ptc.counter % ptcUnit / 65536) }))

/-- HSP transactions have their effect, and a broken one only counts. A READ of 1 to 64 words answers the words of their addresses in order (readWords) and their CRC over address, count and words. A WRITE of 1 to 64 words, as many as its count, whose CRC checks is applied word by word (hspWriteWords); one whose CRC fails counts in HSP_ERR, leaves STATUS with only the CRC bit, is recorded (0x0E08) and applies no word. STATUS reports sealed, refused, CRC failed and applied. RESET-MASTER with the byte 0xA5 resets master 1 (masterReset). A count of 0 or above 64, a WRITE of another number of words, another byte of RESET-MASTER and a frame error are broken transactions: they count and are recorded with cause 2 (hspBroken), with an open address where none was sent. A register write by HSP is a WRITE of one word; one by MEP is applied where the device serves its masters (mepWord) and changes nothing elsewhere. (14_events_recorder_mailboxes.md R484, 14_events_recorder_mailboxes.md R478, 17_address_map.md R563, 17_address_map.md R564) -/
def Obligations.HostTransactionsComplete : Prop :=
  ∀ s : State,
    (∀ (a : Word) (n : BitVec 8), (1 ≤ n.toNat → n.toNat ≤ 64 → ∀ r, r = readWords .hsp a.toNat n.toNat s →
        r.1.length = n.toNat ∧ exec (.hspRead a n) s = .next { r.2 with host := { r.2.host with
          reply := r.1, replyCrc := BitVec.ofNat 16 (crc16 (beBytes 4 a.toNat ++ [n] ++ r.1.flatMap (fun w => beBytes 4 w.toNat))) } })
      ∧ (n.toNat = 0 ∨ 64 < n.toNat → exec (.hspRead a n) s = .next (hspBroken a s)))
    ∧ (∀ (a : Word) (n : BitVec 8) (l : List Word) (crc : BitVec 16), (1 ≤ n.toNat → n.toNat ≤ 64 → l.length = n.toNat →
        (hspWriteCrc a n l = crc.toNat → exec (.hspWrite a n l crc) s = .next (hspWriteWords a.toNat l s))
        ∧ (hspWriteCrc a n l ≠ crc.toNat → exec (.hspWrite a n l crc) s
          = .next (raise 0x0E08 0 a 0 { s with host := { s.host with errCrc := satByteInc s.host.errCrc, applied := false, crcFailed := true, wrRefused := false } })))
      ∧ (n.toNat = 0 ∨ 64 < n.toNat ∨ l.length ≠ n.toNat → exec (.hspWrite a n l crc) s = .next (hspBroken a s)))
    ∧ (∀ a, exec (.hspFrameError (some a)) s = .next (hspBroken a s)) ∧ (∃ a, exec (.hspFrameError none) s = .next (hspBroken a { s with draws := s.draws + 1 }))
    ∧ (∀ a, hspBroken a s = raise 0x0E08 2 a 0 { s with host := { s.host with errFrame := satByteInc s.host.errFrame } })
    ∧ exec .hspStatus s = .next { s with host := { s.host with status := BitVec.ofNat 8 (8 * b2n s.boot.sealed + 4 * b2n s.host.wrRefused + 2 * b2n s.host.crcFailed + b2n s.host.applied) } }
    ∧ exec (.hspResetMaster 0xA5) s = .next (masterReset 1 s) ∧ (∀ b, b ≠ 0xA5#8 → ∃ a, exec (.hspResetMaster b) s = .next (hspBroken a { s with draws := s.draws + 1 }))
    ∧ (∀ a w : Word, exec (.registerWrite .hsp a w) s = .next (hspWriteWords a.toNat [w] s)
      ∧ (served s = true → exec (.registerWrite .mep a w) s = .next (mepWord a.toNat w s).2) ∧ (served s = false → exec (.registerWrite .mep a w) s = .next s))

/-- A MEP request acts only with the right version, nonce, counter and tag. A port that does not listen ignores MEP frames. A frame of a listening port is first counted against the port's limit (mepAdmit): one above it does no more, and one of a device without a session key, in FAULT or in SLEEP is dropped (mepDrop). A nonce query is answered to its MAC with the boot nonce and the last accepted counter, and counted. A request with another version, another nonce or a tag that does not verify only fails, with kind 0, 1 or 2 (mepFail), and one whose counter is not above the last accepted is a counted and recorded replay (0x0E0A). A request that passes all checks takes the counter as the last accepted and counts; with RESTART it resets master 2; its items are executed in order as master 2 (mepItems) and answered to its MAC. (14_events_recorder_mailboxes.md R485, 14_events_recorder_mailboxes.md R486, 14_events_recorder_mailboxes.md R487) -/
def Obligations.MepRequestsAuthenticate : Prop :=
  ∀ (p : Bool) (s u : State) (go : Bool), mepAdmit p s = (go, u) →
    (mepListens p s = none → ∀ f mac, exec (.mepRequest p f) s = .next s ∧ exec (.mepNonceQuery p mac) s = .next s)
    ∧ (∀ k, mepListens p s = some k → go = false → ∀ f mac, exec (.mepRequest p f) s = .next u ∧ exec (.mepNonceQuery p mac) s = .next u)
    ∧ (mepListens p s = some false → go = true → ∀ f mac, exec (.mepRequest p f) s = .next (mepDrop u) ∧ exec (.mepNonceQuery p mac) s = .next (mepDrop u))
    ∧ (mepListens p s = some true → go = true → ∀ mac, exec (.mepNonceQuery p mac) s = .next { u with host := { u.host with
        mepNonces := u.host.mepNonces + 1, mepReply := mepHeader 1 2 0 u.host.bootNonce u.host.mepLast 0, mepPort := mepPortNo p, mepMac := mac } })
    ∧ (mepListens p s = some true → go = true → ∀ key (f : MepFrame), s.sec.mepKey = some key →
      (f.mver ≠ 1#8 → exec (.mepRequest p f) s = .next (mepFail p f 0 u))
      ∧ (f.mver = 1#8 → f.nonce ≠ u.host.bootNonce → exec (.mepRequest p f) s = .next (mepFail p f 1 u))
      ∧ (f.mver = 1#8 → f.nonce = u.host.bootNonce → f.counter.toNat ≤ u.host.mepLast.toNat →
        exec (.mepRequest p f) s = .next (raise 0x0E0A (w32 (mepPortNo p)) (f.counter.setWidth 32) (u.host.mepLast.setWidth 32) { u with host := { u.host with mepReplay := satHalfInc u.host.mepReplay } }))
      ∧ (f.mver = 1#8 → f.nonce = u.host.bootNonce → u.host.mepLast.toNat < f.counter.toNat → ∀ ok : Bool,
        (ok = true ↔ Config.gcmTag key (mepIv f.counter f.nonce 3) (mepHeader f.mver 3 (BitVec.ofNat 8 (b2n f.restart)) f.nonce f.counter f.body.length) f.body = f.tag) →
        (ok = false → exec (.mepRequest p f) s = .next (mepFail p f 2 u))
        ∧ (ok = true → ∀ v plain r head, v = { u with host := { u.host with mepLast := f.counter, mepOk := u.host.mepOk + 1 } } → plain = Config.gcmCrypt key (mepIv f.counter f.nonce 3) f.body →
          r = mepItems plain.length 1400 plain (if f.restart then masterReset 2 v else v) → head = mepHeader 1 4 0 f.nonce f.counter r.1.length →
          exec (.mepRequest p f) s = .next { r.2 with host := { r.2.host with
            mepReply := head ++ Config.gcmCrypt key (mepIv f.counter f.nonce 4) r.1 ++ leBytes 16 (Config.gcmTag key (mepIv f.counter f.nonce 4) head (Config.gcmCrypt key (mepIv f.counter f.nonce 4) r.1)).toNat, mepPort := mepPortNo p, mepMac := f.mac } })))

/-- Token, hold, sleep and authorisation commands have their effect. A TOKEN_LOAD from no master completes DENIED, from another than the buffer's owner BUSY, out of range RANGE; else its part is stored and its poster owns the buffer. TOKEN_APPLY and TOKEN_CLEAR from another than the owner complete DENIED; TOKEN_APPLY during a check completes BUSY, else starts the check; TOKEN_CLEAR empties the buffer. The check's end draws a new nonce and empties the buffer; a failed check completes with its first failing code and records TOKEN_REJECT, a passed one takes its token's effect. A transition programs its fuses and ends in a POWER-ON reset; without one nothing changes. HOLD and RELEASE of another than master 2 complete DENIED; of master 2 they wait for the boundary, or act at once where no schedule runs. SLEEP of another than master 2 or an authorised master 1 completes DENIED, outside STANDBY or where not permitted STATE, with a bad operand RANGE, else latches. A wake cause acts only in a SLEEP that no cause ended, and the wake's end enters SYNC. Revoking debug and closing the host authorisation are writes of AUTHCTL by either master, a rail command one of the BRS register. (15_security_debug_power.md R498, 15_security_debug_power.md R500, 15_security_debug_power.md R501, 15_security_debug_power.md R504, 15_security_debug_power.md R505, 15_security_debug_power.md R506, 15_security_debug_power.md R521, 15_security_debug_power.md R522) -/
def Obligations.SecurityCommandsComplete : Prop :=
  ∀ (m : BitVec 4) (s : State),
    (∀ (off : BitVec 16) (len : BitVec 8) d,
      ((mbxOf s m.toNat).poster ≠ 1 → (mbxOf s m.toNat).poster ≠ 2 → exec (.tokenLoad m off len d) s = .next (completeMbx m.toNat rcDenied s))
      ∧ ((mbxOf s m.toNat).poster = 1 ∨ (mbxOf s m.toNat).poster = 2 →
        (s.sec.tokOwner ≠ 0 → s.sec.tokOwner ≠ (mbxOf s m.toNat).poster → exec (.tokenLoad m off len d) s = .next (completeMbx m.toNat rcBusy s))
        ∧ (s.sec.tokOwner = 0 ∨ s.sec.tokOwner = (mbxOf s m.toNat).poster →
          (len.toNat = 0 ∨ 48 < len.toNat ∨ 512 < off.toNat + len.toNat → exec (.tokenLoad m off len d) s = .next (completeMbx m.toNat rcRange s))
          ∧ (1 ≤ len.toNat → len.toNat ≤ 48 → off.toNat + len.toNat ≤ 512 → exec (.tokenLoad m off len d) s
            = .next (completeMbx m.toNat rcDone (modSec (fun c => { c with tokBuf := memPut 0 c.tokBuf off.toNat (d.take len.toNat), tokOwner := (mbxOf s m.toNat).poster, tokLen := max c.tokLen (off.toNat + len.toNat) }) s))))))
    ∧ ((mbxOf s m.toNat).poster = 0 ∨ s.sec.tokOwner ≠ (mbxOf s m.toNat).poster →
      exec (.tokenApply m) s = .next (completeMbx m.toNat rcDenied s) ∧ exec (.tokenClear m) s = .next (completeMbx m.toNat rcDenied s))
    ∧ ((mbxOf s m.toNat).poster ≠ 0 → s.sec.tokOwner = (mbxOf s m.toNat).poster →
      (s.sec.applying = none → exec (.tokenApply m) s = .next (modSec (fun c => { c with applying := some m.toNat }) s))
      ∧ (∀ k, s.sec.applying = some k → exec (.tokenApply m) s = .next (completeMbx m.toNat rcBusy s))
      ∧ exec (.tokenClear m) s = .next (completeMbx m.toNat rcDone (tokClear s)))
    ∧ (s.sec.applying = none → exec .tokenApplyDone s = .next s)
    ∧ (∀ k, s.sec.applying = some k → ∀ u : State,
      u = newNonce (tokClear (modSec (fun c => { c with applying := none, tokResult := tokVerdict s, tokType := BitVec.ofNat 4 (tokType s) }) s)) →
      u.sec.tokBuf = [] ∧ u.sec.tokOwner = 0 ∧ u.sec.tnonce = Config.freeWord s.draws
      ∧ (tokVerdict s ≠ rcDone → exec .tokenApplyDone s
        = .next (completeMbx k (tokVerdict s) (raise 0x0F01 (w32 (tokType s)) ((tokVerdict s).setWidth 32) (w32 s.sec.tokOwner) u)))
      ∧ (tokVerdict s = rcDone → exec .tokenApplyDone s
        = .next (tokEffect k s.sec.tokOwner (tokType s) (tokNum s 0x18 4) (BitVec.ofNat 384 (tokNum s 0x20 48)) (BitVec.ofNat 256 (tokNum s 0x50 32)) u)))
    ∧ (∀ k, (s.sec.lct = none → exec (.lcTransition k) s = .next s)
      ∧ (∀ r, s.sec.lct = some r → ∃ t, exec (.lcTransition k) s = .next t ∧ t.fuses = program r k s.fuses ∧ t.sec.lct = none
        ∧ t.boot.dev = .reset ∧ t.aon.kind = 1 ∧ t.boot.released = true))
    ∧ ((mbxOf s m.toNat).poster ≠ 2 →
      exec (.hold m) s = .next (completeMbx m.toNat rcDenied s) ∧ exec (.holdRelease m) s = .next (completeMbx m.toNat rcDenied s))
    ∧ ((mbxOf s m.toNat).poster = 2 →
      (s.seq.run = true → exec (.hold m) s = .next (modSec (fun c => { c with holdQueue := c.holdQueue ++ [(true, latchFrame s, m.toNat)] }) s)
        ∧ exec (.holdRelease m) s = .next (modSec (fun c => { c with holdQueue := c.holdQueue ++ [(false, latchFrame s, m.toNat)] }) s))
      ∧ (s.seq.run = false → exec (.hold m) s = .next (holdApply true m.toNat s) ∧ exec (.holdRelease m) s = .next (holdApply false m.toNat s)))
    ∧ (∀ (mask g lv : BitVec 8) (secs : BitVec 48),
      ((mbxOf s m.toNat).poster ≠ 2 → (mbxOf s m.toNat).poster ≠ 1 ∨ s.sec.hostauth = false →
        exec (.sleep m mask g lv secs) s = .next (completeMbx m.toNat rcDenied s))
      ∧ ((mbxOf s m.toNat).poster = 2 ∨ (mbxOf s m.toNat).poster = 1 ∧ s.sec.hostauth = true →
        (s.boot.dev ≠ .standby ∨ bitOf (fld8 s .pwrt 0 0x10) 0 = false → exec (.sleep m mask g lv secs) s = .next (completeMbx m.toNat rcState s))
        ∧ (s.boot.dev = .standby → bitOf (fld8 s .pwrt 0 0x10) 0 = true →
          (mask.toNat = 0 ∨ 8 ≤ mask.toNat ∨ 64 ≤ g.toNat ∨ 2 ≤ lv.toNat ∨ (bitOf mask.toNat 0 = true ∧ secs.toNat * 1000000000 ≤ ptcNs s) →
            exec (.sleep m mask g lv secs) s = .next (completeMbx m.toNat rcRange s))
          ∧ (1 ≤ mask.toNat → mask.toNat < 8 → g.toNat < 64 → lv.toNat < 2 → bitOf mask.toNat 0 = false ∨ ptcNs s < secs.toNat * 1000000000 →
            exec (.sleep m mask g lv secs) s
            = .next (modPwr (fun p => { p with sleepReq := some { mask := mask.toNat, gpio := g.toNat, level := lv.toNat == 1, secs := secs.toNat, due := latchFrame s, mbx := m.toNat } }) s)))))
    ∧ (∀ c, (s.boot.dev = .sleep → s.pwr.wakeAt = none → wakes c s = true → ∃ t, exec (.sleepWake c) s = .next t
        ∧ t.pwr.wakeAt = some (s.cclk + 80000) ∧ t.pwr.wakeCnt = s.pwr.wakeCnt + 1 ∧ t.pwr.wakeCause = BitVec.ofNat 3 (wakeCode c) ∧ t.boot = s.boot)
      ∧ (s.boot.dev ≠ .sleep ∨ s.pwr.wakeAt.isSome = true ∨ wakes c s = false → exec (.sleepWake c) s = .next s))
    ∧ (∀ x, s.boot.dev = .sleep → s.pwr.wakeAt = some x → ∃ t, exec .wakeSyncEntry s = .next t ∧ t.boot.dev = .sync ∧ t.boot.syncTmo = false
      ∧ t.pwr.wakeAt = none ∧ t.sec.heldReq = none ∧ t.sdir = s.sdir ∧ t.sram = s.sram)
    ∧ (s.boot.dev ≠ .sleep ∨ s.pwr.wakeAt = none → exec .wakeSyncEntry s = .next s)
    ∧ (∀ a, exec (.closeHostauth a) s = .next (writeBy a 0x101C 1 s) ∧ exec (.revokeDebug a) s = .next (writeBy a 0x101C 2 s)
      ∧ (∀ w, exec (.brsRailcmd a w) s = .next (writeBy a 0x2014 w s))
      ∧ (served s = true → waOk a s = true → (∃ t, exec (.closeHostauth a) s = .next t ∧ t.sec.hostauth = false)
        ∧ (∃ t, exec (.revokeDebug a) s = .next t ∧ t.sec.grant = 0)))

/-- Debug commands act within the admitted level. Outside SLEEP an attach is judged against the permitted level: a request above it is refused and recorded; one at or below it is admitted, counted and recorded, and one below the admitted level lowers the level. In SLEEP an attach that wakes is held and starts the wake, any other is refused. DBG_ACC without GO or below level 2 changes nothing and else answers its access. A halt and a resume latch for the boundary at level 3 and change nothing below it. The store window is set only where the level admits it. A TAP reset drops the level and the boundary-scan instruction, and ends a halt of level 3 at the next boundary. At an admitted level EXTEST and CLAMP leave what the tester has shifted in the cells, a free value (log entry 129); EXTEST, CLAMP and HIGHZ take only in the device states and levels that admit them, else BYPASS stands. (15_security_debug_power.md R507, 15_security_debug_power.md R508, 15_security_debug_power.md R509, 15_security_debug_power.md R510, 15_security_debug_power.md R511, 15_security_debug_power.md R512, 15_security_debug_power.md R513, 15_security_debug_power.md R515, 15_security_debug_power.md R522, 16_electrical_package.md R556) -/
def Obligations.DebugPortCompletes : Prop :=
  ∀ s : State,
    (∀ r : BitVec 2,
      (s.boot.dev = .sleep → attachWakes s = true → exec (.dbgAttach r) s = .next (sleepWake .debug (modSec (fun c => { c with heldReq := some r }) s)))
      ∧ (s.boot.dev = .sleep → attachWakes s = false →
        exec (.dbgAttach r) s = .next (raise 0x0F03 (w32 r.toNat) 0 (w32 (dbgCell s)) (modSec (fun c => { c with refused := true }) s)))
      ∧ (s.boot.dev ≠ .sleep →
        (dbgPermitted s < r.toNat → exec (.dbgAttach r) s = .next (raise 0x0F03 (w32 r.toNat) (w32 (dbgPermitted s)) (w32 (dbgCell s)) (modSec (fun c => { c with refused := true }) s)))
        ∧ (r.toNat ≤ dbgPermitted s → ∀ u : State,
          u = raise 0x0F02 (w32 r.toNat) (w32 (dbgPermitted s)) (w32 (dbgCell s)) (modSec (fun c => { c with refused := false, attaches := c.attaches + 1 }) s) →
          (s.sec.level.toNat ≤ r.toNat → exec (.dbgAttach r) s = .next (modSec (fun c => { c with level := r }) u))
          ∧ (r.toNat < s.sec.level.toNat → exec (.dbgAttach r) s = .next (dbgLower r.toNat 0 u)))))
    ∧ (∀ a d w go, go = false ∨ s.sec.level.toNat < 2 → exec (.dbgAcc a d w go) s = .next s)
    ∧ (∀ a d w, 2 ≤ s.sec.level.toNat → exec (.dbgAcc a d w true) s
      = .next (modSec (fun c => { c with dbgData := (dbgAccess (BitVec.toNat a) d w s).1, dbgStatus := (dbgAccess (BitVec.toNat a) d w s).2.1 }) (dbgAccess (BitVec.toNat a) d w s).2.2))
    ∧ (s.sec.level = 3 → exec .dbgHalt s = .next (modSec (fun c => { c with haltQueue := c.haltQueue ++ [(true, latchFrame s)] }) s)
      ∧ exec .dbgResume s = .next (modSec (fun c => { c with haltQueue := c.haltQueue ++ [(false, latchFrame s)] }) s))
    ∧ (s.sec.level ≠ 3 → exec .dbgHalt s = .next s ∧ exec .dbgResume s = .next s)
    ∧ (∀ w, (swinOk s w = true → exec (.dbgSwinWrite w) s = .next (modSec (fun c => { c with swinCode := w.toNat % 16, swinMib := bitsOf w.toNat 11 8 }) s))
      ∧ (swinOk s w = false → exec (.dbgSwinWrite w) s = .next s))
    ∧ (s.sec.level = 3 → s.sec.halted = true → exec .tapReset s
      = .next (modSec (fun c => { c with level := 0, bscan := .bypass, haltQueue := c.haltQueue ++ [(false, latchFrame s)] }) s))
    ∧ (s.sec.level ≠ 3 → exec .tapReset s = .next (modSec (fun c => { c with level := 0, bscan := .bypass }) s))
    ∧ (∃ t, exec .tapReset s = .next t ∧ t.sec.level = 0 ∧ t.sec.bscan = .bypass ∧ Only [.sec] s t)
    ∧ (∀ u : State, u = { s with draws := s.draws + 1 } →
      (bscanState s.boot.dev = true → 1 ≤ s.sec.level.toNat →
        exec .extest s = .next (modSec (fun c => { c with bscan := .extest, bsCells := Config.scanCells s.draws }) u)
        ∧ exec .clamp s = .next (modSec (fun c => { c with bscan := .clamp, bsCells := Config.scanCells s.draws }) u)
        ∧ exec .highz s = .next (modSec (fun c => { c with bscan := .highz }) s))
      ∧ (bscanState s.boot.dev = false → 1 ≤ s.sec.level.toNat →
        exec .extest s = .next (modSec (fun c => { c with bscan := .bypass, bsCells := Config.scanCells s.draws }) u)
        ∧ exec .clamp s = .next (modSec (fun c => { c with bscan := .bypass, bsCells := Config.scanCells s.draws }) u)
        ∧ exec .highz s = .next (modSec (fun c => { c with bscan := .bypass }) s))
      ∧ (s.sec.level = 0 → exec .extest s = .next (modSec (fun c => { c with bscan := .bypass }) s)
        ∧ exec .clamp s = .next (modSec (fun c => { c with bscan := .bypass }) s) ∧ exec .highz s = .next (modSec (fun c => { c with bscan := .bypass }) s)))
    ∧ bsBalls.length = 265 ∧ bsBalls[0]? = some (.gpio 0)

/-- CHART-UPDATE erases and programs the target copy and no byte outside it. Before the seal, outside FAULT, a command of the update handler changes nothing. Where the update is open, a target in use is refused with STATE by all four commands. Else: an erase leaves every byte of the target copy blank and every other byte of the flash as before, and empties the staged header; a write whose length or range is bad answers RANGE; another write programs its bytes above the header, keeps those of the header in staging, changes no byte outside its range and none of the first 256 bytes of the copy, and is DONE where the programmed bytes read back as written, else answers the verify code 0x0011; the status command puts the first 48 bytes of the copy into the payload and changes no byte of the flash; a commit whose checks fail answers the code of the first failure and changes nothing; one whose checks pass programs the staged header, no byte outside it, and answers by the read-back in the same way. (03_start_load_wipe.md R112, 03_start_load_wipe.md R113, 03_start_load_wipe.md R114, 01_chart_contract.md R28) -/
def Obligations.ChartUpdateWritesItsCopyAlone : Prop :=
  ∀ (m : BitVec 4) (tg : Bool) (s : State),
    (updateOpen s = false → ∀ off len d, exec (.chartErase m tg) s = .next s ∧ exec (.chartWrite m tg off len d) s = .next s
      ∧ exec (.chartCommit m tg) s = .next s ∧ exec (.chartStatus m tg) s = .next s)
    ∧ (updateOpen s = true → targetOk s tg = false → ∀ off len d, exec (.chartErase m tg) s = .next (decideMbx m.toNat rcState s)
      ∧ exec (.chartWrite m tg off len d) s = .next (decideMbx m.toNat rcState s) ∧ exec (.chartCommit m tg) s = .next (decideMbx m.toNat rcState s)
      ∧ exec (.chartStatus m tg) s = .next (decideMbx m.toNat rcState s))
    ∧ (updateOpen s = true → targetOk s tg = true →
      (∃ t, exec (.chartErase m tg) s = .next (decideMbx m.toNat rcDone t)
        ∧ (∀ a, copyBase tg ≤ a → a < copyBase tg + 0x02000000 → tget flashBlank t.flash a = flashBlank)
        ∧ (∀ a, a < copyBase tg ∨ copyBase tg + 0x02000000 ≤ a → tget flashBlank t.flash a = tget flashBlank s.flash a) ∧ t.boot.hdrStage = [])
      ∧ (∀ (off : BitVec 32) (len : BitVec 16) d,
        (len.toNat = 0 ∨ 48 < len.toNat ∨ 0x02000000 < off.toNat + len.toNat → exec (.chartWrite m tg off len d) s = .next (decideMbx m.toNat rcRange s))
        ∧ (1 ≤ len.toNat → len.toNat ≤ 48 → off.toNat + len.toNat ≤ 0x02000000 → ∀ t a f,
          a = copyBase tg + max off.toNat 256 → f = (d.take len.toNat).drop (256 - off.toNat) →
          t = { s with boot := { s.boot with hdrStage := memPut 0 s.boot.hdrStage off.toNat ((d.take len.toNat).take (256 - off.toNat)) }, flash := flashProgram s a f } →
          exec (.chartWrite m tg off len d) s = .next (decideMbx m.toNat (if memBytes flashBlank t.flash a f.length = f then rcDone else 0x0011#16) t)
          ∧ (∀ b, b < a ∨ copyBase tg + off.toNat + len.toNat ≤ b → tget flashBlank t.flash b = tget flashBlank s.flash b)))
      ∧ exec (.chartStatus m tg) s = .next (decideMbx m.toNat rcDone (putData m.toNat (memBytes flashBlank s.flash (copyBase tg) 0x30) s))
      ∧ (∀ v, firstFail (commitFails s (stagedImg s tg)) = some v → exec (.chartCommit m tg) s = .next (decideMbx m.toNat (BitVec.ofNat 16 (0x0100 + v.code)) s))
      ∧ (firstFail (commitFails s (stagedImg s tg)) = none → ∀ t h, h = memBytes 0 s.boot.hdrStage 0 256 →
        t = { s with flash := flashProgram s (copyBase tg) h } →
        exec (.chartCommit m tg) s = .next (decideMbx m.toNat (if memBytes flashBlank t.flash (copyBase tg) 256 = h then rcDone else 0x0011#16) t)
        ∧ (∀ a, a < copyBase tg ∨ copyBase tg + 256 ≤ a → tget flashBlank t.flash a = tget flashBlank s.flash a)))

/-- A value completed while another is pending replaces it and counts an overrun. When a writer completes a value of a buffer whose toggle is still pending after what has crossed is settled, the new value is the pending one, the overrun count rises by one (it stays at its top value) and LBU_OVERRUN (0x0125) is raised with the buffer's index, the count and the sequence count of the new value, which is the old count plus one. (R45) -/
def Obligations.OverrunReplacesPendingValue : Prop :=
  ∀ (n : Nat) (words : List Word) (ns : Nat) (quals : List Qual) (s : State) (v : LbuVal), (settle s (lbuOf s n)).pend = some v →
    ∃ c : Half, c = (if (settle s (lbuOf s n)).ovrCnt = 0xFFFF#16 then 0xFFFF#16 else (settle s (lbuOf s n)).ovrCnt + 1)
      ∧ (lbuOf (lbuComplete n words ns quals s) n).pend = some { words := words, secs := (stampOf ns).1, nanos := (stampOf ns).2, seq := (settle s (lbuOf s n)).count + 1, quals := quals, done := s.cclk }
      ∧ (lbuOf (lbuComplete n words ns quals s) n).ovrCnt = c ∧ (lbuOf (lbuComplete n words ns quals s) n).count = (settle s (lbuOf s n)).count + 1
      ∧ lbuComplete n words ns quals s = raise 0x0125 (w32 n) (c.setWidth 32) (((settle s (lbuOf s n)).count + 1).setWidth 32) { s with lbus := (lbuComplete n words ns quals s).lbus }
      ∧ (∀ j, j ≠ n → lbuOf (lbuComplete n words ns quals s) j = lbuOf s j)

/-- An event sets its slot's sticky bit, and is recorded unless its slot forbids it or its bucket is empty. The first event of a tick is taken as it stands. After the seal every event of a slot with STICKY sets that slot's sticky bit. An event that is not always recorded leaves the recorder as it was when its slot has NOREC, or when the slot has a bucket and it is empty, which counts a suppression; with a token left it takes one token and is recorded. Nothing outside the event manager and the recorder changes. (14_events_recorder_mailboxes.md R453, 14_events_recorder_mailboxes.md R458, 14_events_recorder_mailboxes.md R460, 14_events_recorder_mailboxes.md R461) -/
def Obligations.EventsAreTakenBySlot : Prop :=
  (∀ (code : Nat) (p0 p1 p2 : Word) (s : State), s.recd.base = none ∨ s.recd.tickAt ≠ s.cclk → ∃ (u : State) (x : Raised), raise code p0 p1 p2 s = takeEvent u x
      ∧ x.code = code ∧ x.p0 = p0 ∧ x.p1 = p1 ∧ x.p2 = p2 ∧ x.time = recTime s ∧ u.evm = s.evm ∧ u.recd.staging = s.recd.staging ∧ u.recd.head = s.recd.head ∧ Only [.recd] s u)
  ∧ (∀ (s : State) (x : Raised), Only [.evm, .recd] s (takeEvent s x))
  ∧ (∀ (s : State) (x : Raised) (n : Nat), s.boot.sealed = true → n = evSlotOf s x.code →
    (bitOf (evmtFld s n 2 1) 2 = true → (tget 0 (takeEvent s x).evm.sticky (n / 32)).getLsbD (n % 32) = true)
    ∧ (alwaysRecorded x.code = false → bitOf (evmtFld s n 3 1) 0 = true → takeEvent s x = touchSlot n s)
    ∧ (alwaysRecorded x.code = false → bitOf (evmtFld s n 3 1) 0 = false → evmtFld s n 6 2 ≠ 0 →
      (evmtFld s n 4 1 ≤ (evSlot (touchSlot n s) n).used → (takeEvent s x).recd = s.recd
        ∧ takeEvent s x = modEvSlot n (fun e => { e with supp := satHalfInc e.supp, hidden := e.hidden + 1, lastCode := BitVec.ofNat 16 x.code }) (touchSlot n s))
      ∧ ((evSlot (touchSlot n s) n).used < evmtFld s n 4 1 → takeEvent s x
        = recordEv n x.code x.p0 x.p1 x.p2 x.time (flushSuppressed n x.time (modEvSlot n (fun e => { e with used := e.used + 1 }) (touchSlot n s))))))
end

