-- ==== Sys2Proof/Laws/Only.lean ====
section
/-! SUPPORT. Sys2Proof/Laws/Only.lean: how changes to parts of the state compose. -/

namespace Sys2Proof.Machine

/-- Is every part of the first list in the second? -/
def subParts (l m : List Part) : Bool := l.all (fun p => m.contains p)

theorem subParts_trans {l m n : List Part} (h : subParts l m = true) (g : subParts m n = true) : subParts l n = true := by
  simp only [subParts, List.all_eq_true, List.contains_iff_mem] at *
  exact fun p hp => g p (h p hp)

theorem Only.refl (l : List Part) (s : State) : Only l s s := by
  intro p _; cases p <;> rfl

theorem Only.trans {l : List Part} {s t u : State} (h1 : Only l s t) (h2 : Only l t u) : Only l s u := by
  intro p hp
  have a := h1 p hp
  have b := h2 p hp
  cases p <;> exact Eq.trans b a

theorem Only.mono {l m : List Part} {s t : State} (h : Only l s t) (hs : subParts l m = true) : Only m s t := by
  intro p hp
  refine h p (fun hl => hp ?_)
  have := (List.all_eq_true.mp hs) p hl
  simpa using this

/-- A change of some listed parts after others. -/
theorem Only.after {l m : List Part} {s t u : State} (h : Only m t u) (hs : subParts m l = true) (h1 : Only l s t) : Only l s u :=
  h1.trans (h.mono hs)

theorem Only.ite {l : List Part} {s t u : State} {c : Prop} [Decidable c] (h1 : Only l s t) (h2 : Only l s u) : Only l s (if c then t else u) := by
  split
  · exact h1
  · exact h2

theorem Only.foldl {α : Type} {l : List Part} {s : State} (xs : List α) (f : State → α → State) (t : State)
    (hf : ∀ u x, Only l s u → Only l s (f u x)) (h : Only l s t) : Only l s (xs.foldl f t) := by
  induction xs generalizing t with
  | nil => exact h
  | cons x xs ih => exact ih (f t x) (hf t x h)

theorem Only.fst_mk {α : Type} {l : List Part} {s t : State} {x : α} (h : Only l s t) : Only l s (t, x).1 := h

theorem Only.snd_mk {α : Type} {l : List Part} {s t : State} {x : α} (h : Only l s t) : Only l s (x, t).2 := h

theorem Only.fst_ite {α : Type} {l : List Part} {s : State} {p q : State × α} {c : Prop} [Decidable c] (h1 : Only l s p.1) (h2 : Only l s q.1) :
    Only l s (if c then p else q).1 := by
  split
  · exact h1
  · exact h2

theorem Only.snd_ite {α : Type} {l : List Part} {s : State} {p q : α × State} {c : Prop} [Decidable c] (h1 : Only l s p.2) (h2 : Only l s q.2) :
    Only l s (if c then p else q).2 := by
  split
  · exact h1
  · exact h2

theorem Only.fst_of_eq {α : Type} {l : List Part} {s t : State} {p : State × α} {x : α} (h : p = (t, x)) (hp : Only l s p.1) : Only l s t := by
  subst h; exact hp

theorem Only.snd_of_eq {α : Type} {l : List Part} {s t : State} {p : α × State} {x : α} (h : p = (x, t)) (hp : Only l s p.2) : Only l s t := by
  subst h; exact hp

/-- A fold whose accumulator carries the state first. -/
theorem Only.foldl_fst {α β : Type} {l : List Part} {s : State} (xs : List α) (f : State × β → α → State × β) (t : State × β)
    (hf : ∀ u x, Only l s u.1 → Only l s (f u x).1) (h : Only l s t.1) : Only l s (xs.foldl f t).1 := by
  induction xs generalizing t with
  | nil => exact h
  | cons x xs ih => exact ih (f t x) (hf t x h)

/-- A fold whose accumulator carries the state second. -/
theorem Only.foldl_snd {α β : Type} {l : List Part} {s : State} (xs : List α) (f : β × State → α → β × State) (t : β × State)
    (hf : ∀ u x, Only l s u.2 → Only l s (f u x).2) (h : Only l s t.2) : Only l s (xs.foldl f t).2 := by
  induction xs generalizing t with
  | nil => exact h
  | cons x xs ih => exact ih (f t x) (hf t x h)

theorem Only.getD {l : List Part} {s d : State} {o : Option State} (h : ∀ t, o = some t → Only l s t) (hd : Only l s d) : Only l s (o.getD d) := by
  cases o with
  | none => exact hd
  | some t => exact h t rfl

theorem OnlyNext.next {l : List Part} {s t : State} (h : Only l s t) : OnlyNext l s (.next t) := by
  intro u hu; cases hu; exact h

theorem OnlyNext.ite {l : List Part} {s : State} {a b : Res} {c : Prop} [Decidable c] (h1 : OnlyNext l s a) (h2 : OnlyNext l s b) :
    OnlyNext l s (if c then a else b) := by
  split
  · exact h1
  · exact h2

theorem OnlyNext.mono {l m : List Part} {s : State} {r : Res} (h : OnlyNext l s r) (hs : subParts l m = true) : OnlyNext m s r :=
  fun t ht => (h t ht).mono hs

theorem OnlyNext.after {l m : List Part} {s t : State} {r : Res} (h : OnlyNext m t r) (hs : subParts m l = true) (h1 : Only l s t) : OnlyNext l s r :=
  fun u hu => h1.trans ((h u hu).mono hs)

end Sys2Proof.Machine
end

