-- ==== Sys2Proof/Laws/FrameBase.lean ====
section
/-! SUPPORT. Sys2Proof/Laws/FrameBase.lean: an update of named fields changes only the parts of those fields. -/

namespace Sys2Proof.Machine

theorem only_upd_pending {l : List Part} {s t : State} (v0 : List Instr) (hs : subParts [.pending] l = true) (h : Only l s t) :
    Only l s { t with pending := v0 } := by
  refine Only.after ?_ hs h
  intro p hp
  cases p <;> first | rfl | (exact absurd (by decide) hp)

theorem only_upd_pins {l : List Part} {s t : State} (v0 : Pins) (hs : subParts [.pins] l = true) (h : Only l s t) :
    Only l s { t with pins := v0 } := by
  refine Only.after ?_ hs h
  intro p hp
  cases p <;> first | rfl | (exact absurd (by decide) hp)

theorem only_upd_pins_seq {l : List Part} {s t : State} (v0 : Pins) (v1 : Seq) (hs : subParts [.pins, .seq] l = true) (h : Only l s t) :
    Only l s { t with pins := v0, seq := v1 } := by
  refine Only.after ?_ hs h
  intro p hp
  cases p <;> first | rfl | (exact absurd (by decide) hp)

theorem only_upd_pins_recd_loops {l : List Part} {s t : State} (v0 : Pins) (v1 : Recorder) (v2 : Loops) (hs : subParts [.pins, .recd, .loops] l = true) (h : Only l s t) :
    Only l s { t with pins := v0, recd := v1, loops := v2 } := by
  refine Only.after ?_ hs h
  intro p hp
  cases p <;> first | rfl | (exact absurd (by decide) hp)

theorem only_upd_aon {l : List Part} {s t : State} (v0 : Aon) (hs : subParts [.aon] l = true) (h : Only l s t) :
    Only l s { t with aon := v0 } := by
  refine Only.after ?_ hs h
  intro p hp
  cases p <;> first | rfl | (exact absurd (by decide) hp)

theorem only_upd_aon_boot_recd_brs {l : List Part} {s t : State} (v0 : Aon) (v1 : Boot) (v2 : Recorder) (v3 : Brs) (hs : subParts [.aon, .boot, .recd, .brs] l = true) (h : Only l s t) :
    Only l s { t with aon := v0, boot := v1, recd := v2, brs := v3 } := by
  refine Only.after ?_ hs h
  intro p hp
  cases p <;> first | rfl | (exact absurd (by decide) hp)

theorem only_upd_boot {l : List Part} {s t : State} (v0 : Boot) (hs : subParts [.boot] l = true) (h : Only l s t) :
    Only l s { t with boot := v0 } := by
  refine Only.after ?_ hs h
  intro p hp
  cases p <;> first | rfl | (exact absurd (by decide) hp)

theorem only_upd_boot_hdr_sects {l : List Part} {s t : State} (v0 : Boot) (v1 : Hdr) (v2 : List Sect) (hs : subParts [.boot, .hdr, .sects] l = true) (h : Only l s t) :
    Only l s { t with boot := v0, hdr := v1, sects := v2 } := by
  refine Only.after ?_ hs h
  intro p hp
  cases p <;> first | rfl | (exact absurd (by decide) hp)

theorem only_upd_boot_hdr_sects_seq_cck_dirid_lbus_funcReqs_disabled_forces_evm_recd_mbx_host_sec_pwr_brs_tj_gpio0_gpio1_ptc_ttu_obs_nav_qps_modes_lce_fce_loops_pack_ports_flight {l : List Part} {s t : State} (v0 : Boot) (v1 : Hdr) (v2 : List Sect) (v3 : Seq) (v4 : Cck) (v5 : Word) (v6 : Tab Lbu) (v7 : List FuncReq) (v8 : List (Nat × Nat)) (v9 : List ForceReq) (v10 : Evm) (v11 : Recorder) (v12 : Tab Mbx) (v13 : HostIf) (v14 : Sec) (v15 : Pwr) (v16 : Brs) (v17 : Tj) (v18 : GpioBank) (v19 : GpioBank) (v20 : Ptc) (v21 : Ttus) (v22 : Obs) (v23 : Nav) (v24 : Qps) (v25 : Modes) (v26 : Lce) (v27 : Fce) (v28 : Loops) (v29 : Pack) (v30 : Ports) (v31 : List Flight) (hs : subParts (Part.but [.pending, .pins, .aon, .cclk, .flash, .sram, .logMem, .sdir, .fuses, .draws, .cal]) l = true) (h : Only l s t) :
    Only l s { t with boot := v0, hdr := v1, sects := v2, seq := v3, cck := v4, dirid := v5, lbus := v6, funcReqs := v7, disabled := v8, forces := v9, evm := v10, recd := v11, mbx := v12, host := v13, sec := v14, pwr := v15, brs := v16, tj := v17, gpio0 := v18, gpio1 := v19, ptc := v20, ttu := v21, obs := v22, nav := v23, qps := v24, modes := v25, lce := v26, fce := v27, loops := v28, pack := v29, ports := v30, flight := v31 } := by
  refine Only.after ?_ hs h
  intro p hp
  cases p <;> first | rfl | (exact absurd (by decide) hp)

theorem only_upd_boot_flash {l : List Part} {s t : State} (v0 : Boot) (v1 : Mem) (hs : subParts [.boot, .flash] l = true) (h : Only l s t) :
    Only l s { t with boot := v0, flash := v1 } := by
  refine Only.after ?_ hs h
  intro p hp
  cases p <;> first | rfl | (exact absurd (by decide) hp)

theorem only_upd_boot_seq {l : List Part} {s t : State} (v0 : Boot) (v1 : Seq) (hs : subParts [.boot, .seq] l = true) (h : Only l s t) :
    Only l s { t with boot := v0, seq := v1 } := by
  refine Only.after ?_ hs h
  intro p hp
  cases p <;> first | rfl | (exact absurd (by decide) hp)

theorem only_upd_cclk_pwr_ptc_cal {l : List Part} {s t : State} (v0 : Nat) (v1 : Pwr) (v2 : Ptc) (v3 : Cal) (hs : subParts [.cclk, .pwr, .ptc, .cal] l = true) (h : Only l s t) :
    Only l s { t with cclk := v0, pwr := v1, ptc := v2, cal := v3 } := by
  refine Only.after ?_ hs h
  intro p hp
  cases p <;> first | rfl | (exact absurd (by decide) hp)

theorem only_upd_flash {l : List Part} {s t : State} (v0 : Mem) (hs : subParts [.flash] l = true) (h : Only l s t) :
    Only l s { t with flash := v0 } := by
  refine Only.after ?_ hs h
  intro p hp
  cases p <;> first | rfl | (exact absurd (by decide) hp)

theorem only_upd_sram {l : List Part} {s t : State} (v0 : Mem) (hs : subParts [.sram] l = true) (h : Only l s t) :
    Only l s { t with sram := v0 } := by
  refine Only.after ?_ hs h
  intro p hp
  cases p <;> first | rfl | (exact absurd (by decide) hp)

theorem only_upd_sram_sdir_dirid_lbus {l : List Part} {s t : State} (v0 : Mem) (v1 : Tab SdirEntry) (v2 : Word) (v3 : Tab Lbu) (hs : subParts [.sram, .sdir, .dirid, .lbus] l = true) (h : Only l s t) :
    Only l s { t with sram := v0, sdir := v1, dirid := v2, lbus := v3 } := by
  refine Only.after ?_ hs h
  intro p hp
  cases p <;> first | rfl | (exact absurd (by decide) hp)

theorem only_upd_logMem {l : List Part} {s t : State} (v0 : Mem) (hs : subParts [.logMem] l = true) (h : Only l s t) :
    Only l s { t with logMem := v0 } := by
  refine Only.after ?_ hs h
  intro p hp
  cases p <;> first | rfl | (exact absurd (by decide) hp)

theorem only_upd_logMem_draws {l : List Part} {s t : State} (v0 : Mem) (v1 : Nat) (hs : subParts [.logMem, .draws] l = true) (h : Only l s t) :
    Only l s { t with logMem := v0, draws := v1 } := by
  refine Only.after ?_ hs h
  intro p hp
  cases p <;> first | rfl | (exact absurd (by decide) hp)

theorem only_upd_seq {l : List Part} {s t : State} (v0 : Seq) (hs : subParts [.seq] l = true) (h : Only l s t) :
    Only l s { t with seq := v0 } := by
  refine Only.after ?_ hs h
  intro p hp
  cases p <;> first | rfl | (exact absurd (by decide) hp)

theorem only_upd_seq_cck {l : List Part} {s t : State} (v0 : Seq) (v1 : Cck) (hs : subParts [.seq, .cck] l = true) (h : Only l s t) :
    Only l s { t with seq := v0, cck := v1 } := by
  refine Only.after ?_ hs h
  intro p hp
  cases p <;> first | rfl | (exact absurd (by decide) hp)

theorem only_upd_cck {l : List Part} {s t : State} (v0 : Cck) (hs : subParts [.cck] l = true) (h : Only l s t) :
    Only l s { t with cck := v0 } := by
  refine Only.after ?_ hs h
  intro p hp
  cases p <;> first | rfl | (exact absurd (by decide) hp)

theorem only_upd_cck_flight {l : List Part} {s t : State} (v0 : Cck) (v1 : List Flight) (hs : subParts [.cck, .flight] l = true) (h : Only l s t) :
    Only l s { t with cck := v0, flight := v1 } := by
  refine Only.after ?_ hs h
  intro p hp
  cases p <;> first | rfl | (exact absurd (by decide) hp)

theorem only_upd_sdir {l : List Part} {s t : State} (v0 : Tab SdirEntry) (hs : subParts [.sdir] l = true) (h : Only l s t) :
    Only l s { t with sdir := v0 } := by
  refine Only.after ?_ hs h
  intro p hp
  cases p <;> first | rfl | (exact absurd (by decide) hp)

theorem only_upd_dirid {l : List Part} {s t : State} (v0 : Word) (hs : subParts [.dirid] l = true) (h : Only l s t) :
    Only l s { t with dirid := v0 } := by
  refine Only.after ?_ hs h
  intro p hp
  cases p <;> first | rfl | (exact absurd (by decide) hp)

theorem only_upd_lbus {l : List Part} {s t : State} (v0 : Tab Lbu) (hs : subParts [.lbus] l = true) (h : Only l s t) :
    Only l s { t with lbus := v0 } := by
  refine Only.after ?_ hs h
  intro p hp
  cases p <;> first | rfl | (exact absurd (by decide) hp)

theorem only_upd_funcReqs {l : List Part} {s t : State} (v0 : List FuncReq) (hs : subParts [.funcReqs] l = true) (h : Only l s t) :
    Only l s { t with funcReqs := v0 } := by
  refine Only.after ?_ hs h
  intro p hp
  cases p <;> first | rfl | (exact absurd (by decide) hp)

theorem only_upd_disabled {l : List Part} {s t : State} (v0 : List (Nat × Nat)) (hs : subParts [.disabled] l = true) (h : Only l s t) :
    Only l s { t with disabled := v0 } := by
  refine Only.after ?_ hs h
  intro p hp
  cases p <;> first | rfl | (exact absurd (by decide) hp)

theorem only_upd_forces {l : List Part} {s t : State} (v0 : List ForceReq) (hs : subParts [.forces] l = true) (h : Only l s t) :
    Only l s { t with forces := v0 } := by
  refine Only.after ?_ hs h
  intro p hp
  cases p <;> first | rfl | (exact absurd (by decide) hp)

theorem only_upd_evm {l : List Part} {s t : State} (v0 : Evm) (hs : subParts [.evm] l = true) (h : Only l s t) :
    Only l s { t with evm := v0 } := by
  refine Only.after ?_ hs h
  intro p hp
  cases p <;> first | rfl | (exact absurd (by decide) hp)

theorem only_upd_evm_recd {l : List Part} {s t : State} (v0 : Evm) (v1 : Recorder) (hs : subParts [.evm, .recd] l = true) (h : Only l s t) :
    Only l s { t with evm := v0, recd := v1 } := by
  refine Only.after ?_ hs h
  intro p hp
  cases p <;> first | rfl | (exact absurd (by decide) hp)

theorem only_upd_recd {l : List Part} {s t : State} (v0 : Recorder) (hs : subParts [.recd] l = true) (h : Only l s t) :
    Only l s { t with recd := v0 } := by
  refine Only.after ?_ hs h
  intro p hp
  cases p <;> first | rfl | (exact absurd (by decide) hp)

theorem only_upd_mbx {l : List Part} {s t : State} (v0 : Tab Mbx) (hs : subParts [.mbx] l = true) (h : Only l s t) :
    Only l s { t with mbx := v0 } := by
  refine Only.after ?_ hs h
  intro p hp
  cases p <;> first | rfl | (exact absurd (by decide) hp)

theorem only_upd_host {l : List Part} {s t : State} (v0 : HostIf) (hs : subParts [.host] l = true) (h : Only l s t) :
    Only l s { t with host := v0 } := by
  refine Only.after ?_ hs h
  intro p hp
  cases p <;> first | rfl | (exact absurd (by decide) hp)

theorem only_upd_host_sec_pwr_draws {l : List Part} {s t : State} (v0 : HostIf) (v1 : Sec) (v2 : Pwr) (v3 : Nat) (hs : subParts [.host, .sec, .pwr, .draws] l = true) (h : Only l s t) :
    Only l s { t with host := v0, sec := v1, pwr := v2, draws := v3 } := by
  refine Only.after ?_ hs h
  intro p hp
  cases p <;> first | rfl | (exact absurd (by decide) hp)

theorem only_upd_host_draws {l : List Part} {s t : State} (v0 : HostIf) (v1 : Nat) (hs : subParts [.host, .draws] l = true) (h : Only l s t) :
    Only l s { t with host := v0, draws := v1 } := by
  refine Only.after ?_ hs h
  intro p hp
  cases p <;> first | rfl | (exact absurd (by decide) hp)

theorem only_upd_fuses_sec {l : List Part} {s t : State} (v0 : Fuses) (v1 : Sec) (hs : subParts [.fuses, .sec] l = true) (h : Only l s t) :
    Only l s { t with fuses := v0, sec := v1 } := by
  refine Only.after ?_ hs h
  intro p hp
  cases p <;> first | rfl | (exact absurd (by decide) hp)

theorem only_upd_fuses_sec_draws {l : List Part} {s t : State} (v0 : Fuses) (v1 : Sec) (v2 : Nat) (hs : subParts [.fuses, .sec, .draws] l = true) (h : Only l s t) :
    Only l s { t with fuses := v0, sec := v1, draws := v2 } := by
  refine Only.after ?_ hs h
  intro p hp
  cases p <;> first | rfl | (exact absurd (by decide) hp)

theorem only_upd_sec {l : List Part} {s t : State} (v0 : Sec) (hs : subParts [.sec] l = true) (h : Only l s t) :
    Only l s { t with sec := v0 } := by
  refine Only.after ?_ hs h
  intro p hp
  cases p <;> first | rfl | (exact absurd (by decide) hp)

theorem only_upd_sec_pwr {l : List Part} {s t : State} (v0 : Sec) (v1 : Pwr) (hs : subParts [.sec, .pwr] l = true) (h : Only l s t) :
    Only l s { t with sec := v0, pwr := v1 } := by
  refine Only.after ?_ hs h
  intro p hp
  cases p <;> first | rfl | (exact absurd (by decide) hp)

theorem only_upd_sec_draws {l : List Part} {s t : State} (v0 : Sec) (v1 : Nat) (hs : subParts [.sec, .draws] l = true) (h : Only l s t) :
    Only l s { t with sec := v0, draws := v1 } := by
  refine Only.after ?_ hs h
  intro p hp
  cases p <;> first | rfl | (exact absurd (by decide) hp)

theorem only_upd_pwr {l : List Part} {s t : State} (v0 : Pwr) (hs : subParts [.pwr] l = true) (h : Only l s t) :
    Only l s { t with pwr := v0 } := by
  refine Only.after ?_ hs h
  intro p hp
  cases p <;> first | rfl | (exact absurd (by decide) hp)

theorem only_upd_brs {l : List Part} {s t : State} (v0 : Brs) (hs : subParts [.brs] l = true) (h : Only l s t) :
    Only l s { t with brs := v0 } := by
  refine Only.after ?_ hs h
  intro p hp
  cases p <;> first | rfl | (exact absurd (by decide) hp)

theorem only_upd_tj {l : List Part} {s t : State} (v0 : Tj) (hs : subParts [.tj] l = true) (h : Only l s t) :
    Only l s { t with tj := v0 } := by
  refine Only.after ?_ hs h
  intro p hp
  cases p <;> first | rfl | (exact absurd (by decide) hp)

theorem only_upd_gpio0 {l : List Part} {s t : State} (v0 : GpioBank) (hs : subParts [.gpio0] l = true) (h : Only l s t) :
    Only l s { t with gpio0 := v0 } := by
  refine Only.after ?_ hs h
  intro p hp
  cases p <;> first | rfl | (exact absurd (by decide) hp)

theorem only_upd_gpio1 {l : List Part} {s t : State} (v0 : GpioBank) (hs : subParts [.gpio1] l = true) (h : Only l s t) :
    Only l s { t with gpio1 := v0 } := by
  refine Only.after ?_ hs h
  intro p hp
  cases p <;> first | rfl | (exact absurd (by decide) hp)

theorem only_upd_draws {l : List Part} {s t : State} (v0 : Nat) (hs : subParts [.draws] l = true) (h : Only l s t) :
    Only l s { t with draws := v0 } := by
  refine Only.after ?_ hs h
  intro p hp
  cases p <;> first | rfl | (exact absurd (by decide) hp)

theorem only_upd_ptc {l : List Part} {s t : State} (v0 : Ptc) (hs : subParts [.ptc] l = true) (h : Only l s t) :
    Only l s { t with ptc := v0 } := by
  refine Only.after ?_ hs h
  intro p hp
  cases p <;> first | rfl | (exact absurd (by decide) hp)

theorem only_upd_cal {l : List Part} {s t : State} (v0 : Cal) (hs : subParts [.cal] l = true) (h : Only l s t) :
    Only l s { t with cal := v0 } := by
  refine Only.after ?_ hs h
  intro p hp
  cases p <;> first | rfl | (exact absurd (by decide) hp)

theorem only_upd_ttu {l : List Part} {s t : State} (v0 : Ttus) (hs : subParts [.ttu] l = true) (h : Only l s t) :
    Only l s { t with ttu := v0 } := by
  refine Only.after ?_ hs h
  intro p hp
  cases p <;> first | rfl | (exact absurd (by decide) hp)

theorem only_upd_ttu_fce {l : List Part} {s t : State} (v0 : Ttus) (v1 : Fce) (hs : subParts [.ttu, .fce] l = true) (h : Only l s t) :
    Only l s { t with ttu := v0, fce := v1 } := by
  refine Only.after ?_ hs h
  intro p hp
  cases p <;> first | rfl | (exact absurd (by decide) hp)

theorem only_upd_ttu_fce_loops_ports_flight {l : List Part} {s t : State} (v0 : Ttus) (v1 : Fce) (v2 : Loops) (v3 : Ports) (v4 : List Flight) (hs : subParts [.ttu, .fce, .loops, .ports, .flight] l = true) (h : Only l s t) :
    Only l s { t with ttu := v0, fce := v1, loops := v2, ports := v3, flight := v4 } := by
  refine Only.after ?_ hs h
  intro p hp
  cases p <;> first | rfl | (exact absurd (by decide) hp)

theorem only_upd_obs {l : List Part} {s t : State} (v0 : Obs) (hs : subParts [.obs] l = true) (h : Only l s t) :
    Only l s { t with obs := v0 } := by
  refine Only.after ?_ hs h
  intro p hp
  cases p <;> first | rfl | (exact absurd (by decide) hp)

theorem only_upd_nav {l : List Part} {s t : State} (v0 : Nav) (hs : subParts [.nav] l = true) (h : Only l s t) :
    Only l s { t with nav := v0 } := by
  refine Only.after ?_ hs h
  intro p hp
  cases p <;> first | rfl | (exact absurd (by decide) hp)

theorem only_upd_qps {l : List Part} {s t : State} (v0 : Qps) (hs : subParts [.qps] l = true) (h : Only l s t) :
    Only l s { t with qps := v0 } := by
  refine Only.after ?_ hs h
  intro p hp
  cases p <;> first | rfl | (exact absurd (by decide) hp)

theorem only_upd_modes {l : List Part} {s t : State} (v0 : Modes) (hs : subParts [.modes] l = true) (h : Only l s t) :
    Only l s { t with modes := v0 } := by
  refine Only.after ?_ hs h
  intro p hp
  cases p <;> first | rfl | (exact absurd (by decide) hp)

theorem only_upd_lce {l : List Part} {s t : State} (v0 : Lce) (hs : subParts [.lce] l = true) (h : Only l s t) :
    Only l s { t with lce := v0 } := by
  refine Only.after ?_ hs h
  intro p hp
  cases p <;> first | rfl | (exact absurd (by decide) hp)

theorem only_upd_fce {l : List Part} {s t : State} (v0 : Fce) (hs : subParts [.fce] l = true) (h : Only l s t) :
    Only l s { t with fce := v0 } := by
  refine Only.after ?_ hs h
  intro p hp
  cases p <;> first | rfl | (exact absurd (by decide) hp)

theorem only_upd_loops {l : List Part} {s t : State} (v0 : Loops) (hs : subParts [.loops] l = true) (h : Only l s t) :
    Only l s { t with loops := v0 } := by
  refine Only.after ?_ hs h
  intro p hp
  cases p <;> first | rfl | (exact absurd (by decide) hp)

theorem only_upd_pack {l : List Part} {s t : State} (v0 : Pack) (hs : subParts [.pack] l = true) (h : Only l s t) :
    Only l s { t with pack := v0 } := by
  refine Only.after ?_ hs h
  intro p hp
  cases p <;> first | rfl | (exact absurd (by decide) hp)

theorem only_upd_ports {l : List Part} {s t : State} (v0 : Ports) (hs : subParts [.ports] l = true) (h : Only l s t) :
    Only l s { t with ports := v0 } := by
  refine Only.after ?_ hs h
  intro p hp
  cases p <;> first | rfl | (exact absurd (by decide) hp)

end Sys2Proof.Machine
end

