-- ==== Sys2Proof/Laws/FrameOps.lean ====
section
/-! SUPPORT. Sys2Proof/Laws/FrameOps.lean: which parts of the state each operation of Machine/Ops.lean changes. -/

set_option linter.unusedVariables false

namespace Sys2Proof.Machine

theorem dropLane_only (s : State) :
    Only [.seq] s (dropLane s) := by
  unfold dropLane
  refine only_upd_seq _ (by decide) ?_
  exact Only.refl _ _

theorem setEnt_only (a0 : ℕ) (a1 : SdirEntry) (s : State) :
    Only [.sdir] s (setEnt a0 a1 s) := by
  unfold setEnt
  refine only_upd_sdir _ (by decide) ?_
  exact Only.refl _ _

theorem markStale_only (a0 : ℕ) (a1 : ℕ) (s : State) :
    Only [.sdir] s (markStale a0 a1 s) := by
  unfold markStale
  refine Only.foldl _ _ _ (fun u1 y h2 => ?_) ?_
  · extract_lets +onlyGivenNames x3
    clear_value x3
    refine Only.ite ?_ ?_
    · exact h2
    · refine Only.after (setEnt_only _ _ _) (by decide) ?_
      exact h2
  · exact Only.refl _ _

theorem dropFlight_only (s : State) :
    Only [.sdir] s (dropFlight s) := by
  unfold dropFlight
  refine Only.foldl _ _ _ (fun u1 y h2 => ?_) ?_
  · refine Only.after (markStale_only _ _ _) (by decide) ?_
    refine Only.foldl _ _ _ (fun u3 y h4 => ?_) ?_
    · refine Only.after (setEnt_only _ _ _) (by decide) ?_
      exact h4
    · exact h2
  · exact Only.refl _ _

theorem setReason_only (a0 : ℕ) (a1 : ℕ) (s : State) :
    Only [.boot] s (setReason a0 a1 s) := by
  unfold setReason
  refine Only.ite ?_ ?_
  · exact Only.refl _ _
  · refine only_upd_boot _ (by decide) ?_
    exact Only.refl _ _

theorem traceEntry_only (a0 : ℕ) (a1 : ℕ) (s : State) :
    Only [.sec] s (traceEntry a0 a1 s) := by
  unfold traceEntry
  refine only_upd_sec _ (by decide) ?_
  exact Only.refl _ _

theorem keepShown_only (s : State) :
    Only [.evm] s (keepShown s) := by
  unfold keepShown
  refine Only.ite ?_ ?_
  · exact Only.refl _ _
  · refine only_upd_evm _ (by decide) ?_
    exact Only.refl _ _

theorem openTick_only (s : State) :
    Only [.evm, .recd] s (openTick s) := by
  unfold openTick
  refine Only.ite ?_ ?_
  · exact Only.refl _ _
  · extract_lets +onlyGivenNames x1
    have h2 : Only [Part.evm, Part.recd] s x1 := by
      subst x1
      exact Only.mono (keepShown_only _) (by decide)
    clear_value x1
    refine only_upd_recd _ (by decide) ?_
    exact h2

theorem modEvSlot_only (a0 : ℕ) (a1 : EvSlot → EvSlot) (s : State) :
    Only [.evm] s (modEvSlot a0 a1 s) := by
  unfold modEvSlot
  refine only_upd_evm _ (by decide) ?_
  exact Only.refl _ _

theorem touchSlot_only (a0 : ℕ) (s : State) :
    Only [.evm] s (touchSlot a0 s) := by
  unfold touchSlot
  extract_lets +onlyGivenNames x1
  clear_value x1
  extract_lets +onlyGivenNames x2
  have h3 : Only [Part.evm] s x2 := by
    subst x2
    refine Only.after (modEvSlot_only _ _ _) (by decide) ?_
    refine only_upd_evm _ (by decide) ?_
    exact Only.refl _ _
  clear_value x2
  refine Only.ite ?_ ?_
  · refine only_upd_evm _ (by decide) ?_
    exact h3
  · exact h3

theorem stageRec_only (a0 : Rec) (s : State) :
    Only [.recd] s (stageRec a0 s) := by
  unfold stageRec
  refine Only.ite ?_ ?_
  · refine Only.ite ?_ ?_
    · refine only_upd_recd _ (by decide) ?_
      exact Only.refl _ _
    · refine only_upd_recd _ (by decide) ?_
      exact Only.refl _ _
  · refine Only.ite ?_ ?_
    · refine only_upd_recd _ (by decide) ?_
      exact Only.refl _ _
    · extract_lets +onlyGivenNames x1 x2
      clear_value x1 x2
      refine only_upd_recd _ (by decide) ?_
      exact Only.refl _ _

theorem recordEv_only (a0 : ℕ) (a1 : ℕ) (a2 : Word) (a3 : Word) (a4 : Word) (a5 : Dword) (s : State) :
    Only [.recd] s (recordEv a0 a1 a2 a3 a4 a5 s) := by
  unfold recordEv
  extract_lets +onlyGivenNames x1 x2
  clear_value x1 x2
  exact Only.mono (stageRec_only _ _) (by decide)

theorem flushSuppressed_only (a0 : ℕ) (a1 : Dword) (s : State) :
    Only [.evm, .recd] s (flushSuppressed a0 a1 s) := by
  unfold flushSuppressed
  extract_lets +onlyGivenNames x1
  clear_value x1
  refine Only.ite ?_ ?_
  · exact Only.refl _ _
  · extract_lets +onlyGivenNames x2
    clear_value x2
    extract_lets +onlyGivenNames x3
    have h4 : Only [Part.evm, Part.recd] s x3 := by
      subst x3
      refine Only.after (recordEv_only _ _ _ _ _ _ _) (by decide) ?_
      exact Only.mono (touchSlot_only _ _) (by decide)
    clear_value x3
    refine Only.after (modEvSlot_only _ _ _) (by decide) ?_
    exact h4

theorem settleBucket_only (a0 : ℕ) (s : State) :
    Only [.evm] s (settleBucket a0 s) := by
  unfold settleBucket
  exact Only.mono (modEvSlot_only _ _ _) (by decide)

theorem takeEvent_only (s : State) (a1 : Raised) :
    Only [.evm, .recd] s (takeEvent s a1) := by
  unfold takeEvent
  refine Only.ite ?_ ?_
  · extract_lets +onlyGivenNames x1
    clear_value x1
    extract_lets +onlyGivenNames x2
    have h3 : Only [Part.evm, Part.recd] s x2 := by
      subst x2
      exact Only.mono (touchSlot_only _ _) (by decide)
    clear_value x2
    extract_lets +onlyGivenNames x4
    subst x4
    beta_reduce
    refine Only.ite ?_ ?_
    · refine Only.after (recordEv_only _ _ _ _ _ _ _) (by decide) ?_
      refine Only.after (flushSuppressed_only _ _ _) (by decide) ?_
      exact h3
    · refine Only.ite ?_ ?_
      · exact h3
      · refine Only.ite ?_ ?_
        · refine Only.after (recordEv_only _ _ _ _ _ _ _) (by decide) ?_
          refine Only.after (flushSuppressed_only _ _ _) (by decide) ?_
          exact h3
        · extract_lets +onlyGivenNames x5
          have h6 : Only [Part.evm, Part.recd] s x5 := by
            subst x5
            refine Only.after (settleBucket_only _ _) (by decide) ?_
            exact h3
          clear_value x5
          refine Only.ite ?_ ?_
          · refine Only.after (recordEv_only _ _ _ _ _ _ _) (by decide) ?_
            refine Only.after (flushSuppressed_only _ _ _) (by decide) ?_
            refine Only.after (modEvSlot_only _ _ _) (by decide) ?_
            exact h6
          · refine Only.after (modEvSlot_only _ _ _) (by decide) ?_
            exact h6
  · refine Only.after (recordEv_only _ _ _ _ _ _ _) (by decide) ?_
    exact Only.mono (touchSlot_only _ _) (by decide)

theorem reopenTick_only (s : State) :
    Only [.evm, .recd] s (reopenTick s) := by
  unfold reopenTick
  split
  · exact Only.refl _ _
  · refine only_upd_evm_recd _ _ (by decide) ?_
    exact Only.refl _ _

theorem raiseAt_only (a0 : ℕ × ℕ) (a1 : ℕ) (a2 : Word) (a3 : Word) (a4 : Word) (s : State) :
    Only [.evm, .recd] s (raiseAt a0 a1 a2 a3 a4 s) := by
  unfold raiseAt
  extract_lets +onlyGivenNames x1
  have h2 : Only [Part.evm, Part.recd] s x1 := by
    subst x1
    exact Only.mono (openTick_only _) (by decide)
  clear_value x1
  extract_lets +onlyGivenNames x3
  clear_value x3
  refine Only.foldl _ _ _ (fun u4 y h5 => ?_) ?_
  · refine Only.after (takeEvent_only _ _) (by decide) ?_
    exact h5
  · refine Only.after (reopenTick_only _) (by decide) ?_
    refine only_upd_recd _ (by decide) ?_
    exact h2

theorem raise_only (a0 : ℕ) (a1 : Word) (a2 : Word) (a3 : Word) (s : State) :
    Only [.evm, .recd] s (raise a0 a1 a2 a3 s) := by
  unfold raise
  exact Only.mono (raiseAt_only _ _ _ _ _ _) (by decide)

theorem breach_only (a0 : ℕ) (a1 : Word) (s : State) :
    Only [.boot, .seq, .cck, .sdir, .evm, .recd, .sec] s (breach a0 a1 s) := by
  unfold breach
  refine Only.ite ?_ ?_
  · exact Only.refl _ _
  · extract_lets +onlyGivenNames x1
    have h2 : Only [Part.boot, Part.seq, Part.cck, Part.sdir, Part.evm, Part.recd, Part.sec] s x1 := by
      subst x1
      exact Only.mono (dropFlight_only _) (by decide)
    clear_value x1
    extract_lets +onlyGivenNames x3 x4 x5
    clear_value x3 x4 x5
    extract_lets +onlyGivenNames x6
    have h7 : Only [Part.boot, Part.seq, Part.cck, Part.sdir, Part.evm, Part.recd, Part.sec] s x6 := by
      subst x6
      refine only_upd_seq_cck _ _ (by decide) ?_
      exact h2
    clear_value x6
    refine Only.after (setReason_only _ _ _) (by decide) ?_
    refine Only.after (traceEntry_only _ _ _) (by decide) ?_
    refine Only.after (raise_only _ _ _ _ _) (by decide) ?_
    exact h7

theorem setLbu_only (a0 : ℕ) (a1 : Lbu) (s : State) :
    Only [.lbus] s (setLbu a0 a1 s) := by
  unfold setLbu
  refine only_upd_lbus _ (by decide) ?_
  exact Only.refl _ _

theorem lbuDirect_only (a0 : ℕ) (a1 : List Word) (a2 : ℕ) (s : State) :
    Only [.lbus] s (lbuDirect a0 a1 a2 s) := by
  unfold lbuDirect
  extract_lets +onlyGivenNames x1
  clear_value x1
  exact Only.mono (setLbu_only _ _ _) (by decide)

theorem landDirect_only (a0 : ℕ) (a1 : ℕ) (a2 : List Word) (a3 : ℕ) (s : State) :
    Only [.lbus] s (landDirect a0 a1 a2 a3 s) := by
  unfold landDirect
  split
  · exact Only.refl _ _
  · exact Only.mono (lbuDirect_only _ _ _ _) (by decide)

theorem lbuComplete_only (a0 : ℕ) (a1 : List Word) (a2 : ℕ) (a3 : List Qual) (s : State) :
    Only [.lbus, .evm, .recd] s (lbuComplete a0 a1 a2 a3 s) := by
  unfold lbuComplete
  extract_lets +onlyGivenNames x1 x2
  clear_value x1 x2
  split
  · exact Only.mono (setLbu_only _ _ _) (by decide)
  · extract_lets +onlyGivenNames x3
    clear_value x3
    refine Only.after (raise_only _ _ _ _ _) (by decide) ?_
    exact Only.mono (setLbu_only _ _ _) (by decide)

theorem landFrom_only (a0 : ℕ) (a1 : ℕ) (a2 : List Word) (a3 : ℕ) (s : State) :
    Only [.lbus, .evm, .recd] s (landFrom a0 a1 a2 a3 s) := by
  unfold landFrom
  split
  · exact Only.refl _ _
  · exact Only.mono (lbuComplete_only _ _ _ _ _) (by decide)

theorem setMbx_only (a0 : ℕ) (a1 : Mbx) (s : State) :
    Only [.mbx] s (setMbx a0 a1 s) := by
  unfold setMbx
  refine only_upd_mbx _ (by decide) ?_
  exact Only.refl _ _

theorem issue_only {l : List Part} (eng inst : Nat) (op : Word) (f : State → State) (s : State) (hs : subParts [.boot, .seq, .cck, .sdir, .evm, .recd, .sec] l = true) (hf : Only l s (f s)) :
    OnlyNext l s (issue eng inst op f s) := by
  unfold issue
  refine OnlyNext.ite (OnlyNext.next (Only.refl _ _)) (OnlyNext.ite (OnlyNext.next ?_) ?_)
  · exact Only.mono (dropLane_only _) (subParts_trans (by decide) hs)
  · split
    · refine OnlyNext.ite (OnlyNext.next ?_) (OnlyNext.next ?_)
      · exact Only.after (dropLane_only _) (subParts_trans (by decide) hs) (Only.mono (breach_only _ _ _) (subParts_trans (by decide) hs))
      · exact Only.after (dropLane_only _) (subParts_trans (by decide) hs) hf
    · exact OnlyNext.next (Only.after (dropLane_only _) (subParts_trans (by decide) hs) hf)

theorem writeSig_only (a0 : ℕ) (a1 : Word) (a2 : Qual) (a3 : Word) (s : State) :
    Only [.sdir, .evm, .recd] s (writeSig a0 a1 a2 a3 s) := by
  unfold writeSig
  extract_lets +onlyGivenNames x1
  clear_value x1
  refine Only.ite ?_ ?_
  · exact Only.refl _ _
  · split
    · exact Only.refl _ _
    · refine Only.ite ?_ ?_
      · exact Only.mono (setEnt_only _ _ _) (by decide)
      · refine Only.ite ?_ ?_
        · exact Only.mono (setEnt_only _ _ _) (by decide)
        · exact Only.mono (setEnt_only _ _ _) (by decide)
    · refine Only.ite ?_ ?_
      · exact Only.mono (setEnt_only _ _ _) (by decide)
      · refine Only.ite ?_ ?_
        · exact Only.mono (setEnt_only _ _ _) (by decide)
        · exact Only.mono (setEnt_only _ _ _) (by decide)
    · exact Only.mono (setEnt_only _ _ _) (by decide)
    · refine Only.ite ?_ ?_
      · exact Only.mono (setEnt_only _ _ _) (by decide)
      · refine Only.ite ?_ ?_
        · refine Only.after (raise_only _ _ _ _ _) (by decide) ?_
          exact Only.mono (setEnt_only _ _ _) (by decide)
        · exact Only.mono (setEnt_only _ _ _) (by decide)
    · exact Only.mono (setEnt_only _ _ _) (by decide)

theorem writeNum_only (a0 : ℕ) (a1 : Option ℚ) (a2 : Qual) (a3 : Word) (s : State) :
    Only [.sdir, .evm, .recd] s (writeNum a0 a1 a2 a3 s) := by
  unfold writeNum
  extract_lets +onlyGivenNames x1
  clear_value x1
  split
  · exact Only.mono (writeSig_only _ _ _ _ _) (by decide)
  · split
    · split
      · exact Only.mono (writeSig_only _ _ _ _ _) (by decide)
      · exact Only.mono (writeSig_only _ _ _ _ _) (by decide)
    · split
      · exact Only.mono (writeSig_only _ _ _ _ _) (by decide)
      · exact Only.mono (writeSig_only _ _ _ _ _) (by decide)
    · exact Only.mono (writeSig_only _ _ _ _ _) (by decide)

theorem writeRaw_only (a0 : ℕ) (a1 : Word) (a2 : Qual) (a3 : Word) (s : State) :
    Only [.sdir, .evm, .recd] s (writeRaw a0 a1 a2 a3 s) := by
  unfold writeRaw
  extract_lets +onlyGivenNames x1
  clear_value x1
  refine Only.ite ?_ ?_
  · exact Only.refl _ _
  · refine Only.ite ?_ ?_
    · exact Only.mono (setEnt_only _ _ _) (by decide)
    · exact Only.mono (writeSig_only _ _ _ _ _) (by decide)

theorem finishMbx_only (a0 : ℕ) (a1 : Half) (s : State) :
    Only [.evm, .recd, .mbx] s (finishMbx a0 a1 s) := by
  unfold finishMbx
  extract_lets +onlyGivenNames x1
  clear_value x1
  refine Only.ite ?_ ?_
  · exact Only.refl _ _
  · extract_lets +onlyGivenNames x2
    clear_value x2
    extract_lets +onlyGivenNames x3
    have h4 : Only [Part.evm, Part.recd, Part.mbx] s x3 := by
      subst x3
      refine Only.ite ?_ ?_
      · exact Only.mono (raise_only _ _ _ _ _) (by decide)
      · exact Only.refl _ _
    clear_value x3
    extract_lets +onlyGivenNames x5
    have h6 : Only [Part.evm, Part.recd, Part.mbx] s x5 := by
      subst x5
      refine Only.after (setMbx_only _ _ _) (by decide) ?_
      exact h4
    clear_value x5
    refine Only.ite ?_ ?_
    · refine Only.after (raise_only _ _ _ _ _) (by decide) ?_
      exact h6
    · exact h6

theorem completeMbx_only (a0 : ℕ) (a1 : Half) (s : State) :
    Only [.evm, .recd, .mbx] s (completeMbx a0 a1 s) := by
  unfold completeMbx
  extract_lets +onlyGivenNames x1
  clear_value x1
  refine Only.ite ?_ ?_
  · exact Only.mono (setMbx_only _ _ _) (by decide)
  · exact Only.mono (finishMbx_only _ _ _) (by decide)

theorem closeTick_only (s : State) :
    Only [.recd] s (closeTick s) := by
  unfold closeTick
  refine only_upd_recd _ (by decide) ?_
  exact Only.refl _ _

theorem dbgLower_only (a0 : ℕ) (a1 : ℕ) (s : State) :
    Only [.evm, .recd, .sec] s (dbgLower a0 a1 s) := by
  unfold dbgLower
  extract_lets +onlyGivenNames x1 x2 x3
  clear_value x1 x2 x3
  extract_lets +onlyGivenNames x4
  have h5 : Only [Part.evm, Part.recd, Part.sec] s x4 := by
    subst x4
    refine only_upd_sec _ (by decide) ?_
    exact Only.refl _ _
  clear_value x4
  refine Only.after (raise_only _ _ _ _ _) (by decide) ?_
  exact h5

theorem dbgSettle_only (a0 : ℕ) (s : State) :
    Only [.evm, .recd, .sec] s (dbgSettle a0 s) := by
  unfold dbgSettle
  refine Only.ite ?_ ?_
  · exact Only.mono (dbgLower_only _ _ _) (by decide)
  · exact Only.refl _ _

theorem decideMbx_only (a0 : ℕ) (a1 : Half) (s : State) :
    Only [.mbx] s (decideMbx a0 a1 s) := by
  unfold decideMbx
  extract_lets +onlyGivenNames x1
  clear_value x1
  refine Only.ite ?_ ?_
  · exact Only.mono (setMbx_only _ _ _) (by decide)
  · exact Only.refl _ _

theorem writeTime_only (a0 : ℕ) (a1 : Word) (a2 : Word) (a3 : Qual) (a4 : Qual) (a5 : Word) (s : State) :
    Only [.sdir, .evm, .recd] s (writeTime a0 a1 a2 a3 a4 a5 s) := by
  unfold writeTime
  refine Only.ite ?_ ?_
  · refine Only.after (writeSig_only _ _ _ _ _) (by decide) ?_
    exact Only.mono (writeSig_only _ _ _ _ _) (by decide)
  · refine Only.after (writeSig_only _ _ _ _ _) (by decide) ?_
    exact Only.mono (writeSig_only _ _ _ _ _) (by decide)

theorem abortMbx_only (a0 : ℕ) (s : State) :
    Only [.evm, .recd, .mbx] s (abortMbx a0 s) := by
  unfold abortMbx
  extract_lets +onlyGivenNames x1
  clear_value x1
  refine Only.ite ?_ ?_
  · refine Only.after (finishMbx_only _ _ _) (by decide) ?_
    refine Only.after (setMbx_only _ _ _) (by decide) ?_
    exact Only.mono (raise_only _ _ _ _ _) (by decide)
  · exact Only.refl _ _

theorem clearReason_only (a0 : ℕ) (s : State) :
    Only [.boot] s (clearReason a0 s) := by
  unfold clearReason
  refine Only.ite ?_ ?_
  · exact Only.refl _ _
  · refine only_upd_boot _ (by decide) ?_
    exact Only.refl _ _

theorem trimAlone_only (s : State) :
    Only [.seq] s (trimAlone s) := by
  unfold trimAlone
  refine only_upd_seq _ (by decide) ?_
  exact Only.refl _ _

theorem elapse_only (a0 : ℕ) (s : State) :
    Only [.cclk, .pwr, .ptc, .cal] s (elapse a0 s) := by
  unfold elapse
  extract_lets +onlyGivenNames x1
  clear_value x1
  refine only_upd_cclk_pwr_ptc_cal _ _ _ _ (by decide) ?_
  exact Only.refl _ _

theorem setDev_only (a0 : DevState) (s : State) :
    Only [.boot, .evm, .recd, .sec] s (setDev a0 s) := by
  unfold setDev
  refine Only.ite ?_ ?_
  · exact Only.refl _ _
  · extract_lets +onlyGivenNames x1 x2
    clear_value x1 x2
    extract_lets +onlyGivenNames x3
    have h4 : Only [Part.boot, Part.evm, Part.recd, Part.sec] s x3 := by
      subst x3
      refine only_upd_boot _ (by decide) ?_
      exact Only.refl _ _
    clear_value x3
    refine Only.after (dbgSettle_only _ _) (by decide) ?_
    refine Only.after (raise_only _ _ _ _ _) (by decide) ?_
    exact h4

theorem enterFault_only (a0 : ℕ) (s : State) :
    Only [.boot, .seq, .evm, .recd, .sec] s (enterFault a0 s) := by
  unfold enterFault
  extract_lets +onlyGivenNames x1 x2
  clear_value x1 x2
  extract_lets +onlyGivenNames x3
  have h4 : Only [Part.boot, Part.seq, Part.evm, Part.recd, Part.sec] s x3 := by
    subst x3
    refine only_upd_boot_seq _ _ (by decide) ?_
    exact Only.refl _ _
  clear_value x3
  extract_lets +onlyGivenNames x5
  have h6 : Only [Part.boot, Part.seq, Part.evm, Part.recd, Part.sec] s x5 := by
    subst x5
    refine Only.after (setReason_only _ _ _) (by decide) ?_
    exact h4
  clear_value x5
  refine Only.after (raise_only _ _ _ _ _) (by decide) ?_
  refine Only.after (setDev_only _ _) (by decide) ?_
  exact h6

theorem toTick_only (a0 : ℕ) (s : State) :
    Only [.cclk, .seq, .pwr, .ptc, .cal] s (toTick a0 s) := by
  unfold toTick
  refine Only.ite ?_ ?_
  · extract_lets +onlyGivenNames x1
    have h2 : Only [Part.cclk, Part.seq, Part.pwr, Part.ptc, Part.cal] s x1 := by
      subst x1
      exact Only.mono (elapse_only _ _) (by decide)
    clear_value x1
    refine only_upd_seq _ (by decide) ?_
    exact h2
  · exact Only.refl _ _

theorem raiseOpen_only (a0 : ℕ) (s : State) :
    Only [.evm, .recd, .draws] s (raiseOpen a0 s) := by
  unfold raiseOpen
  extract_lets +onlyGivenNames x1
  clear_value x1
  refine Only.after (raise_only _ _ _ _ _) (by decide) ?_
  refine only_upd_draws _ (by decide) ?_
  exact Only.refl _ _

theorem writeListBy_only {l : List Part} (one : Nat → Word → Qual → Word → State → State) (ht : subParts [.sdir, .evm, .recd] l = true)
    (hf : ∀ i w q t s, Only l s (one i w q t s)) (i : Nat) (ws : List (Word × Qual)) (t : Word) (s : State) : Only l s (writeListBy one i ws t s) := by
  refine writeListBy.induct one (fun i ws t s => Only l s (writeListBy one i ws t s)) ?_ ?_ ?_ ?_ i ws t s
  · intro _ _ _; unfold writeListBy; exact Only.refl _ _
  · intro _ _ _ _ _; unfold writeListBy; exact hf _ _ _ _ _
  · intro _ _ _ _ _ _ _ _ hc ih
    unfold writeListBy
    rw [if_pos hc]
    exact Only.trans (Only.mono (writeTime_only _ _ _ _ _ _ _) ht) ih
  · intro _ _ _ _ _ _ _ _ hc ih
    unfold writeListBy
    rw [if_neg hc]
    exact Only.trans (hf _ _ _ _ _) ih

theorem writeList_only (a0 : ℕ) (a1 : List (Word × Qual)) (a2 : Word) (s : State) :
    Only [.sdir, .evm, .recd] s (writeList a0 a1 a2 s) := by
  exact writeListBy_only _ (by decide) (fun i w q t s => Only.mono (writeSig_only _ _ _ _ _) (by decide)) _ _ _ _

theorem rawList_only (a0 : ℕ) (a1 : List (Word × Qual)) (a2 : Word) (s : State) :
    Only [.sdir, .evm, .recd] s (rawList a0 a1 a2 s) := by
  exact writeListBy_only _ (by decide) (fun i w q t s => Only.mono (writeRaw_only _ _ _ _ _) (by decide)) _ _ _ _

theorem landSig_only (a0 : ℕ) (a1 : Word) (a2 : Qual) (a3 : Word) (s : State) :
    Only [.sdir, .evm, .recd] s (landSig a0 a1 a2 a3 s) := by
  unfold landSig
  refine Only.ite ?_ ?_
  · exact Only.mono (writeSig_only _ _ _ _ _) (by decide)
  · exact Only.mono (writeRaw_only _ _ _ _ _) (by decide)

theorem landList_only (a0 : ℕ) (a1 : List (Word × Qual)) (a2 : Word) (s : State) :
    Only [.sdir, .evm, .recd] s (landList a0 a1 a2 s) := by
  exact writeListBy_only _ (by decide) (fun i w q t s => Only.mono (landSig_only _ _ _ _ _) (by decide)) _ _ _ _

end Sys2Proof.Machine
end

