-- ==== Sys2Proof/Laws/FrameSched.lean ====
section
/-! SUPPORT. Sys2Proof/Laws/FrameSched.lean: which parts of the state each operation of Machine/Sched.lean changes. -/

set_option linter.unusedVariables false

namespace Sys2Proof.Machine

theorem startWake_only (a0 : BitVec 5) (s : State) :
    Only [.pwr] s (startWake a0 s) := by
  unfold startWake
  extract_lets +onlyGivenNames x1
  clear_value x1
  refine Only.foldl _ _ _ (fun u2 y h3 => ?_) ?_
  · refine Only.ite ?_ ?_
    · refine only_upd_pwr _ (by decide) ?_
      exact h3
    · exact h3
  · exact Only.refl _ _

theorem execMark_only (a0 : BitVec 20) (s : State) :
    OnlyNext [.boot, .seq, .cck, .sdir, .evm, .recd, .sec] s (execMark a0 s) := by
  unfold execMark
  refine issue_only _ _ _ _ _ (by decide) ?_
  exact Only.mono (traceEntry_only _ _ _) (by decide)

theorem execAlignerPhaseSample_only (a0 : ℤ) (s : State) :
    OnlyNext [.cclk, .seq, .evm, .recd, .pwr, .draws, .ptc, .cal] s (execAlignerPhaseSample a0 s) := by
  unfold execAlignerPhaseSample
  refine OnlyNext.ite ?_ ?_
  · refine OnlyNext.next ?_
    exact Only.refl _ _
  · extract_lets +onlyGivenNames x1
    have h2 : Only [Part.cclk, Part.seq, Part.evm, Part.recd, Part.pwr, Part.draws, Part.ptc, Part.cal] s x1 := by
      subst x1
      exact Only.mono (toTick_only _ _) (by decide)
    clear_value x1
    extract_lets +onlyGivenNames x3 x4 x5 x6 x7
    clear_value x3 x4 x5 x6 x7
    extract_lets +onlyGivenNames x8
    have h9 : Only [Part.cclk, Part.seq, Part.evm, Part.recd, Part.pwr, Part.draws, Part.ptc, Part.cal] s x8 := by
      subst x8
      refine only_upd_seq _ (by decide) ?_
      exact h2
    clear_value x8
    refine OnlyNext.ite ?_ ?_
    · refine OnlyNext.next ?_
      refine Only.after (raiseOpen_only _ _) (by decide) ?_
      refine only_upd_seq _ (by decide) ?_
      exact h9
    · refine OnlyNext.ite ?_ ?_
      · refine OnlyNext.next ?_
        refine Only.after (raiseOpen_only _ _) (by decide) ?_
        refine only_upd_seq _ (by decide) ?_
        exact h9
      · refine OnlyNext.next ?_
        exact h9

theorem fetchClass_only (s : State) (a1 : ℕ) :
    Only [.seq] s (fetchClass s a1) := by
  unfold fetchClass
  extract_lets +onlyGivenNames x1
  clear_value x1
  refine only_upd_seq _ (by decide) ?_
  exact Only.refl _ _

theorem execCckStore_only (a0 : CckFault) (s : State) :
    OnlyNext [.boot, .seq, .cck, .sdir, .evm, .recd, .sec, .draws] s (execCckStore a0 s) := by
  unfold execCckStore
  refine OnlyNext.ite ?_ ?_
  · split
    · refine OnlyNext.next ?_
      exact Only.mono (breach_only _ _ _) (by decide)
    · refine OnlyNext.next ?_
      refine Only.after (breach_only _ _ _) (by decide) ?_
      refine only_upd_draws _ (by decide) ?_
      exact Only.refl _ _
  · refine OnlyNext.next ?_
    exact Only.refl _ _

theorem writeAge_only (a0 : ℕ) (a1 : ℕ) (a2 : ℕ) (a3 : Word) (s : State) :
    Only [.sdir, .evm, .recd] s (writeAge a0 a1 a2 a3 s) := by
  unfold writeAge
  refine Only.after (writeSig_only _ _ _ _ _) (by decide) ?_
  exact Only.mono (writeSig_only _ _ _ _ _) (by decide)

theorem execSubst_only (a0 : BitVec 17) (a1 : Bool) (s : State) :
    OnlyNext [.boot, .seq, .cck, .sdir, .evm, .recd, .sec] s (execSubst a0 a1 s) := by
  unfold execSubst
  refine issue_only _ _ _ _ _ (by decide) ?_
  extract_lets +onlyGivenNames x1 x2 x3
  clear_value x1 x2 x3
  refine Only.ite ?_ ?_
  · exact Only.mono (writeSig_only _ _ _ _ _) (by decide)
  · refine Only.ite ?_ ?_
    · exact Only.mono (writeSig_only _ _ _ _ _) (by decide)
    · exact Only.mono (writeRaw_only _ _ _ _ _) (by decide)

theorem execNop_only (a0 : BitVec 6) (s : State) :
    OnlyNext [.boot, .seq, .cck, .sdir, .evm, .recd, .sec] s (execNop a0 s) := by
  unfold execNop
  refine issue_only _ _ _ _ _ (by decide) ?_
  exact Only.refl _ _

theorem execPwake_only (a0 : BitVec 5) (s : State) :
    OnlyNext [.boot, .seq, .cck, .sdir, .evm, .recd, .sec, .pwr] s (execPwake a0 s) := by
  unfold execPwake
  refine issue_only _ _ _ _ _ (by decide) ?_
  exact Only.mono (startWake_only _ _) (by decide)

theorem execSlackZoneBegin_only (s : State) :
    OnlyNext [.boot, .cclk, .seq, .cck, .sdir, .evm, .recd, .sec, .pwr, .draws, .ptc, .cal] s (execSlackZoneBegin s) := by
  unfold execSlackZoneBegin
  refine OnlyNext.ite ?_ ?_
  · refine OnlyNext.next ?_
    exact Only.refl _ _
  · extract_lets +onlyGivenNames x1
    clear_value x1
    extract_lets +onlyGivenNames x2
    have h3 : Only [Part.boot, Part.cclk, Part.seq, Part.cck, Part.sdir, Part.evm, Part.recd, Part.sec, Part.pwr, Part.draws, Part.ptc, Part.cal] s x2 := by
      subst x2
      exact Only.mono (toTick_only _ _) (by decide)
    clear_value x2
    extract_lets +onlyGivenNames x4
    have h5 : Only [Part.boot, Part.cclk, Part.seq, Part.cck, Part.sdir, Part.evm, Part.recd, Part.sec, Part.pwr, Part.draws, Part.ptc, Part.cal] s x4 := by
      subst x4
      refine Only.ite ?_ ?_
      · exact h3
      · refine Only.after (breach_only _ _ _) (by decide) ?_
        refine only_upd_draws _ (by decide) ?_
        exact h3
    clear_value x4
    extract_lets +onlyGivenNames x6
    clear_value x6
    extract_lets +onlyGivenNames x7
    have h8 : Only [Part.boot, Part.cclk, Part.seq, Part.cck, Part.sdir, Part.evm, Part.recd, Part.sec, Part.pwr, Part.draws, Part.ptc, Part.cal] s x7 := by
      subst x7
      split
      · refine only_upd_ptc _ (by decide) ?_
        exact h5
      · exact h5
    clear_value x7
    refine OnlyNext.next ?_
    refine Only.after (fetchClass_only _ _) (by decide) ?_
    exact h8

theorem landNone_only (a0 : ℕ) (a1 : ℕ) (a2 : Bool) (s : State) :
    Only [.sdir] s (landNone a0 a1 a2 s) := by
  unfold landNone
  refine Only.foldl _ _ _ (fun u1 y h2 => ?_) ?_
  · extract_lets +onlyGivenNames x3
    clear_value x3
    refine Only.ite ?_ ?_
    · exact h2
    · refine Only.after (setEnt_only _ _ _) (by decide) ?_
      exact h2
  · exact Only.refl _ _

theorem landEffect_only (a0 : ℕ) (s : State) :
    Only [.sdir, .lbus, .evm, .recd] s (landEffect a0 s) := by
  unfold landEffect
  extract_lets +onlyGivenNames x1 x2 x3 x4 x5 x6
  clear_value x1 x2 x3 x4 x5 x6
  extract_lets +onlyGivenNames x7
  have h8 : Only [Part.sdir, Part.lbus, Part.evm, Part.recd] s x7 := by
    subst x7
    exact Only.mono (setLbu_only _ _ _) (by decide)
  clear_value x7
  extract_lets +onlyGivenNames x9
  clear_value x9
  split
  · extract_lets +onlyGivenNames x10
    have h11 : Only [Part.sdir, Part.lbus, Part.evm, Part.recd] s x10 := by
      subst x10
      refine Only.after (landNone_only _ _ _ _) (by decide) ?_
      exact h8
    clear_value x10
    refine Only.ite ?_ ?_
    · refine Only.after (writeAge_only _ _ _ _ _) (by decide) ?_
      exact h11
    · exact h11
  · extract_lets +onlyGivenNames x12
    clear_value x12
    extract_lets +onlyGivenNames x13
    extract_lets +onlyGivenNames x14 x15
    clear_value x14 x15
    extract_lets +onlyGivenNames x16
    have h17 : Only [Part.sdir, Part.lbus, Part.evm, Part.recd] s x16 := by
      subst x16
      refine Only.after (landList_only _ _ _ _) (by decide) ?_
      exact h8
    clear_value x16
    refine Only.ite ?_ ?_
    · refine Only.after (writeAge_only _ _ _ _ _) (by decide) ?_
      exact h17
    · exact h17

theorem execLand_only (a0 : BitVec 10) (s : State) :
    OnlyNext [.boot, .seq, .cck, .sdir, .lbus, .evm, .recd, .sec] s (execLand a0 s) := by
  unfold execLand
  refine issue_only _ _ _ _ _ (by decide) ?_
  refine Only.ite ?_ ?_
  · exact Only.mono (landEffect_only _ _) (by decide)
  · exact Only.mono (breach_only _ _ _) (by decide)

theorem execCurve_only (a0 : BitVec 8) (s : State) :
    OnlyNext [.boot, .seq, .cck, .sdir, .evm, .recd, .sec] s (execCurve a0 s) := by
  unfold execCurve
  refine issue_only _ _ _ _ _ (by decide) ?_
  extract_lets +onlyGivenNames x1
  clear_value x1
  refine Only.ite ?_ ?_
  · exact Only.mono (breach_only _ _ _) (by decide)
  · extract_lets +onlyGivenNames x2 x3 x4
    clear_value x2 x3 x4
    refine Only.ite ?_ ?_
    · exact Only.mono (writeSig_only _ _ _ _ _) (by decide)
    · split
      · exact Only.mono (writeSig_only _ _ _ _ _) (by decide)
      · exact Only.mono (writeSig_only _ _ _ _ _) (by decide)

theorem execPgate_only (a0 : BitVec 5) (s : State) :
    OnlyNext [.boot, .seq, .cck, .sdir, .evm, .recd, .sec, .pwr] s (execPgate a0 s) := by
  unfold execPgate
  refine issue_only _ _ _ _ _ (by decide) ?_
  extract_lets +onlyGivenNames x1 x2
  clear_value x1 x2
  refine only_upd_pwr _ (by decide) ?_
  exact Only.refl _ _

theorem execAlignerTrimUpdate_only (s : State) :
    OnlyNext [.cclk, .seq, .pwr, .ptc, .cal] s (execAlignerTrimUpdate s) := by
  unfold execAlignerTrimUpdate
  refine OnlyNext.ite ?_ ?_
  · extract_lets +onlyGivenNames x1
    have h2 : Only [Part.cclk, Part.seq, Part.pwr, Part.ptc, Part.cal] s x1 := by
      subst x1
      exact Only.mono (toTick_only _ _) (by decide)
    clear_value x1
    extract_lets +onlyGivenNames x3
    clear_value x3
    refine OnlyNext.next ?_
    refine only_upd_seq _ (by decide) ?_
    exact h2
  · refine OnlyNext.next ?_
    exact Only.mono (trimAlone_only _) (by decide)

theorem execCckEccCorr_only (a0 : Fin 6) (s : State) :
    OnlyNext [.cck, .evm, .recd, .draws] s (execCckEccCorr a0 s) := by
  unfold execCckEccCorr
  refine OnlyNext.next ?_
  refine Only.after (raiseOpen_only _ _) (by decide) ?_
  refine only_upd_cck _ (by decide) ?_
  exact Only.refl _ _

theorem execDomainAutoWake_only (a0 : Domain) (s : State) :
    OnlyNext [.cclk, .seq, .pwr, .ptc, .cal] s (execDomainAutoWake a0 s) := by
  unfold execDomainAutoWake
  refine OnlyNext.next ?_
  refine Only.ite ?_ ?_
  · refine Only.after (startWake_only _ _) (by decide) ?_
    exact Only.mono (toTick_only _ _) (by decide)
  · exact Only.refl _ _

end Sys2Proof.Machine
end

