-- ==== Sys2Proof/Laws/FrameSeqp.lean ====
section
/-! SUPPORT. Sys2Proof/Laws/FrameSeqp.lean: which parts of the state each operation of Machine/Seqp.lean changes. -/

set_option linter.unusedVariables false

namespace Sys2Proof.Machine

theorem beginList_only (a0 : ℕ) (a1 : ℕ) (s : State) :
    Only [.seq] s (beginList a0 a1 s) := by
  unfold beginList
  refine only_upd_seq _ (by decide) ?_
  exact Only.refl _ _

theorem nextBundle_only (s : State) :
    Only [.seq] s (nextBundle s) := by
  unfold nextBundle
  extract_lets +onlyGivenNames x1
  clear_value x1
  refine only_upd_seq _ (by decide) ?_
  exact Only.refl _ _

end Sys2Proof.Machine
end

