-- ==== Sys2Proof/Laws/FrameEqual.lean ====
section
/-! SUPPORT. Sys2Proof/Laws/FrameEqual.lean: which parts of the state each operation of Machine/Equal.lean changes. -/

set_option linter.unusedVariables false

namespace Sys2Proof.Machine

theorem modPack_only (a0 : Pack → Pack) (s : State) :
    Only [.pack] s (modPack a0 s) := by
  unfold modPack
  refine only_upd_pack _ (by decide) ?_
  exact Only.refl _ _

theorem eqClear_only (s : State) :
    Only [.pack] s (eqClear s) := by
  unfold eqClear
  exact Only.mono (modPack_only _ _) (by decide)

theorem eqGain_only (s : State) :
    Only [.evm, .recd, .pack] s (eqGain s) := by
  unfold eqGain
  refine Only.ite ?_ ?_
  · refine Only.after (raise_only _ _ _ _ _) (by decide) ?_
    exact Only.mono (modPack_only _ _) (by decide)
  · exact Only.refl _ _

theorem eqTake_only (a0 : ℕ) (a1 : ℕ) (s : State) :
    Only [.evm, .recd, .pack] s (eqTake a0 a1 s).2 := by
  unfold eqTake
  split
  · refine Only.snd_mk ?_
    exact Only.refl _ _
  · extract_lets +onlyGivenNames x1
    have h2 : Only [Part.evm, Part.recd, Part.pack] s x1 := by
      subst x1
      exact Only.mono (modPack_only _ _) (by decide)
    clear_value x1
    refine Only.snd_ite ?_ ?_
    · refine Only.snd_mk ?_
      refine Only.after (eqGain_only _) (by decide) ?_
      refine Only.after (modPack_only _ _) (by decide) ?_
      exact h2
    · refine Only.snd_mk ?_
      exact h2

theorem eqLose_only (s : State) :
    Only [.evm, .recd, .pack] s (eqLose s) := by
  unfold eqLose
  refine Only.ite ?_ ?_
  · split
    · refine Only.after (raise_only _ _ _ _ _) (by decide) ?_
      exact Only.mono (modPack_only _ _) (by decide)
    · exact Only.refl _ _
  · exact Only.refl _ _

end Sys2Proof.Machine
end

