-- ==== Sys2Proof/Laws/FrameQps.lean ====
section
/-! SUPPORT. Sys2Proof/Laws/FrameQps.lean: which parts of the state each operation of Machine/Qps.lean changes. -/

set_option linter.unusedVariables false

namespace Sys2Proof.Machine

theorem qpsEvent_only (a0 : ℕ) (a1 : QpTpl) (s : State) :
    Only [.evm, .recd] s (qpsEvent a0 a1 s) := by
  unfold qpsEvent
  extract_lets +onlyGivenNames x1
  clear_value x1
  split
  · exact Only.mono (raise_only _ _ _ _ _) (by decide)
  · exact Only.mono (raise_only _ _ _ _ _) (by decide)
  · exact Only.mono (raise_only _ _ _ _ _) (by decide)
  · exact Only.mono (raise_only _ _ _ _ _) (by decide)
  · exact Only.refl _ _

theorem qpsCapHandler_only (a0 : ℕ) (a1 : ℕ) (a2 : Bool) (s : State) :
    Only [.evm, .recd, .mbx, .qps] s (qpsCapHandler a0 a1 a2 s) := by
  unfold qpsCapHandler
  refine Only.ite ?_ ?_
  · exact Only.mono (completeMbx_only _ _ _) (by decide)
  · refine only_upd_qps _ (by decide) ?_
    exact Only.refl _ _

theorem execQpsCaptureDisarm_only (a0 : BitVec 4) (a1 : BitVec 8) (s : State) :
    OnlyNext [.evm, .recd, .mbx, .qps] s (execQpsCaptureDisarm a0 a1 s) := by
  unfold execQpsCaptureDisarm
  refine OnlyNext.next ?_
  exact Only.mono (qpsCapHandler_only _ _ _ _) (by decide)

theorem setTpl_only (a0 : ℕ) (a1 : QpTpl) (s : State) :
    Only [.qps] s (setTpl a0 a1 s) := by
  unfold setTpl
  refine only_upd_qps _ (by decide) ?_
  exact Only.refl _ _

theorem putBlk_only (a0 : ℕ) (a1 : ℕ) (a2 : ℕ) (a3 : OQ) (s : State) :
    Only [.qps] s (putBlk a0 a1 a2 a3 s) := by
  unfold putBlk
  extract_lets +onlyGivenNames x1 x2 x3
  clear_value x1 x2 x3
  exact Only.mono (setTpl_only _ _ _) (by decide)

theorem putAll_only (a0 : ℕ) (a1 : ℕ) (a2 : List OQ) (s : State) :
    Only [.qps] s (putAll a0 a1 a2 s) := by
  unfold putAll
  refine Only.foldl _ _ _ (fun u1 y h2 => ?_) ?_
  · refine Only.after (putBlk_only _ _ _ _ _) (by decide) ?_
    exact h2
  · exact Only.refl _ _

theorem qpsBreak_only (a0 : ℕ) (a1 : ℕ) (s : State) :
    Only [.evm, .recd, .qps] s (qpsBreak a0 a1 s) := by
  unfold qpsBreak
  extract_lets +onlyGivenNames x1
  clear_value x1
  refine Only.ite ?_ ?_
  · exact Only.refl _ _
  · refine Only.after (raise_only _ _ _ _ _) (by decide) ?_
    exact Only.mono (setTpl_only _ _ _) (by decide)

theorem qpsStale_only (a0 : ℕ) (s : State) :
    Only [.sdir] s (qpsStale a0 s) := by
  unfold qpsStale
  refine Only.after (markStale_only _ _ _) (by decide) ?_
  exact Only.mono (markStale_only _ _ _) (by decide)

theorem qpsSuppress_only (s : State) :
    Only [.sdir] s (qpsSuppress s) := by
  unfold qpsSuppress
  refine Only.ite ?_ ?_
  · refine Only.foldl _ _ _ (fun u1 y h2 => ?_) ?_
    · refine Only.ite ?_ ?_
      · exact h2
      · refine Only.after (qpsStale_only _ _) (by decide) ?_
        exact h2
    · exact Only.refl _ _
  · exact Only.refl _ _

theorem qpsBoundary_only (s : State) :
    Only [.sdir, .evm, .recd, .mbx, .qps] s (qpsBoundary s) := by
  unfold qpsBoundary
  extract_lets +onlyGivenNames x1
  have h2 : Only [Part.sdir, Part.evm, Part.recd, Part.mbx, Part.qps] s x1 := by
    subst x1
    exact Only.mono (qpsSuppress_only _) (by decide)
  clear_value x1
  extract_lets +onlyGivenNames x3 x4
  clear_value x3 x4
  extract_lets +onlyGivenNames x5
  have h6 : Only [Part.sdir, Part.evm, Part.recd, Part.mbx, Part.qps] s x5 := by
    subst x5
    refine only_upd_qps _ (by decide) ?_
    exact h2
  clear_value x5
  refine Only.foldl _ _ _ (fun u7 y h8 => ?_) ?_
  · extract_lets +onlyGivenNames x9
    clear_value x9
    extract_lets +onlyGivenNames x10
    have h11 : Only [Part.sdir, Part.evm, Part.recd, Part.mbx, Part.qps] s x10 := by
      subst x10
      refine Only.ite ?_ ?_
      · refine only_upd_qps _ (by decide) ?_
        exact h8
      · refine only_upd_qps _ (by decide) ?_
        exact h8
    clear_value x10
    refine Only.after (completeMbx_only _ _ _) (by decide) ?_
    exact h11
  · exact h6

theorem farIterEffect_only (a0 : ℕ) (a1 : ℕ) (s : State) :
    Only [.qps] s (farIterEffect a0 a1 s) := by
  unfold farIterEffect
  extract_lets +onlyGivenNames x1
  have h2 : Only [Part.qps] s x1 := by
    subst x1
    exact Only.mono (setTpl_only _ _ _) (by decide)
  clear_value x1
  refine only_upd_qps _ (by decide) ?_
  exact h2

theorem qpsIssue_only {l : List Part} (eng t op : Nat) (first : Bool) (w : Word) (f : State → State) (s : State) (hs : subParts [.boot, .seq, .cck, .sdir, .evm, .recd, .sec, .qps] l = true) (hf : Only l s (f s)) :
    OnlyNext l s (qpsIssue eng t op first w f s) := by
  unfold qpsIssue
  refine OnlyNext.ite (OnlyNext.next ?_) (issue_only _ _ _ _ _ (subParts_trans (by decide) hs) ?_)
  · exact Only.after (dropLane_only _) (subParts_trans (by decide) hs) (Only.mono (qpsBreak_only _ _ _) (subParts_trans (by decide) hs))
  · exact Only.ite (Only.refl _ _) hf

theorem farImport_only (a0 : ℕ) (s : State) :
    Only [.evm, .recd, .qps, .pack] s (farImport a0 s) := by
  unfold farImport
  extract_lets +onlyGivenNames x1
  have h2 : Only [Part.evm, Part.recd, Part.qps, Part.pack] s x1.2 := by
    subst x1
    exact Only.mono (eqTake_only _ _ _) (by decide)
  clear_value x1
  split
  · refine Only.after (setTpl_only _ _ _) (by decide) ?_
    exact h2
  · exact h2

theorem farStartEffect_only (a0 : ℕ) (s : State) :
    Only [.evm, .recd, .qps, .pack] s (farStartEffect a0 s) := by
  unfold farStartEffect
  extract_lets +onlyGivenNames x1
  clear_value x1
  extract_lets +onlyGivenNames x2
  have h3 : Only [Part.evm, Part.recd, Part.qps, Part.pack] s x2 := by
    subst x2
    exact Only.mono (farImport_only _ _) (by decide)
  clear_value x2
  extract_lets +onlyGivenNames x4 x5
  clear_value x4 x5
  extract_lets +onlyGivenNames x6
  have h7 : Only [Part.evm, Part.recd, Part.qps, Part.pack] s x6 := by
    subst x6
    refine only_upd_qps _ (by decide) ?_
    exact h3
  clear_value x6
  extract_lets +onlyGivenNames x8 x9
  clear_value x8 x9
  extract_lets +onlyGivenNames x10
  have h11 : Only [Part.evm, Part.recd, Part.qps, Part.pack] s x10 := by
    subst x10
    refine Only.ite ?_ ?_
    · refine Only.after (raise_only _ _ _ _ _) (by decide) ?_
      exact h7
    · exact h7
  clear_value x10
  extract_lets +onlyGivenNames x12
  have h13 : Only [Part.evm, Part.recd, Part.qps, Part.pack] s x12 := by
    subst x12
    refine Only.ite ?_ ?_
    · refine Only.after (raise_only _ _ _ _ _) (by decide) ?_
      exact h11
    · exact h11
  clear_value x12
  extract_lets +onlyGivenNames x14 x15 x16 x17 x18 x19 x20 x21 x22 x23 x24 x25 x26 x27
  clear_value x14 x15 x16 x17 x18 x19 x20 x21 x22 x23 x24 x25 x26 x27
  refine Only.after (setTpl_only _ _ _) (by decide) ?_
  exact h13

theorem execFarStart_only (a0 : BitVec 4) (s : State) :
    OnlyNext [.boot, .seq, .cck, .sdir, .evm, .recd, .sec, .qps, .pack] s (execFarStart a0 s) := by
  unfold execFarStart
  extract_lets +onlyGivenNames x1
  clear_value x1
  refine qpsIssue_only _ _ _ _ _ _ _ (by decide) ?_
  refine Only.ite ?_ ?_
  · exact Only.mono (breach_only _ _ _) (by decide)
  · exact Only.mono (farStartEffect_only _ _) (by decide)

theorem farEndEffect_only (a0 : ℕ) (s : State) :
    Only [.sdir, .evm, .recd, .qps] s (farEndEffect a0 s) := by
  unfold farEndEffect
  extract_lets +onlyGivenNames x1 x2 x3 x4 x5 x6
  clear_value x1 x2 x3 x4 x5 x6
  extract_lets +onlyGivenNames x7
  extract_lets +onlyGivenNames x8 x9 x10 x11 x12 x13 x14
  clear_value x8 x9 x10 x11 x12 x13 x14
  extract_lets +onlyGivenNames x15
  have h16 : Only [Part.sdir, Part.evm, Part.recd, Part.qps] s x15 := by
    subst x15
    exact Only.mono (setTpl_only _ _ _) (by decide)
  clear_value x15
  extract_lets +onlyGivenNames x17
  clear_value x17
  extract_lets +onlyGivenNames x18
  have h19 : Only [Part.sdir, Part.evm, Part.recd, Part.qps] s x18 := by
    subst x18
    refine only_upd_qps _ (by decide) ?_
    exact h16
  clear_value x18
  extract_lets +onlyGivenNames x20
  clear_value x20
  extract_lets +onlyGivenNames x21
  have h22 : Only [Part.sdir, Part.evm, Part.recd, Part.qps] s x21 := by
    subst x21
    refine Only.after (rawList_only _ _ _ _) (by decide) ?_
    exact h19
  clear_value x21
  extract_lets +onlyGivenNames x23
  clear_value x23
  extract_lets +onlyGivenNames x24
  have h25 : Only [Part.sdir, Part.evm, Part.recd, Part.qps] s x24 := by
    subst x24
    refine Only.after (rawList_only _ _ _ _) (by decide) ?_
    exact h22
  clear_value x24
  extract_lets +onlyGivenNames x26
  have h27 : Only [Part.sdir, Part.evm, Part.recd, Part.qps] s x26 := by
    subst x26
    refine Only.after (qpsEvent_only _ _ _) (by decide) ?_
    exact h25
  clear_value x26
  refine Only.ite ?_ ?_
  · refine Only.after (raise_only _ _ _ _ _) (by decide) ?_
    refine only_upd_qps _ (by decide) ?_
    exact h27
  · exact h27

theorem farFactEffect_only (a0 : ℕ) (a1 : ℕ) (s : State) :
    Only [.qps] s (farFactEffect a0 a1 s) := by
  unfold farFactEffect
  extract_lets +onlyGivenNames x1 x2 x3 x4 x5 x6
  clear_value x1 x2 x3 x4 x5 x6
  extract_lets +onlyGivenNames x7
  have h8 : Only [Part.qps] s x7 := by
    subst x7
    refine only_upd_qps _ (by decide) ?_
    exact Only.refl _ _
  clear_value x7
  refine Only.ite ?_ ?_
  · refine Only.after (setTpl_only _ _ _) (by decide) ?_
    exact h8
  · extract_lets +onlyGivenNames x9 x10
    clear_value x9 x10
    refine Only.after (setTpl_only _ _ _) (by decide) ?_
    exact h8

theorem execFarFact_only (a0 : BitVec 4) (a1 : BitVec 9) (s : State) :
    OnlyNext [.boot, .seq, .cck, .sdir, .evm, .recd, .sec, .qps] s (execFarFact a0 a1 s) := by
  unfold execFarFact
  extract_lets +onlyGivenNames x1
  clear_value x1
  refine qpsIssue_only _ _ _ _ _ _ _ (by decide) ?_
  refine Only.ite ?_ ?_
  · exact Only.mono (breach_only _ _ _) (by decide)
  · exact Only.mono (farFactEffect_only _ _ _) (by decide)

theorem execFarIter_only (a0 : BitVec 4) (a1 : BitVec 8) (s : State) :
    OnlyNext [.boot, .seq, .cck, .sdir, .evm, .recd, .sec, .qps] s (execFarIter a0 a1 s) := by
  unfold execFarIter
  extract_lets +onlyGivenNames x1
  clear_value x1
  refine qpsIssue_only _ _ _ _ _ _ _ (by decide) ?_
  refine Only.ite ?_ ?_
  · exact Only.mono (breach_only _ _ _) (by decide)
  · exact Only.mono (farIterEffect_only _ _ _) (by decide)

theorem maskBound_only (a0 : ℕ) (a1 : ℕ) (a2 : ℕ) (s : State) :
    Only [.qps] s (maskBound a0 a1 a2 s) := by
  unfold maskBound
  split
  · exact Only.mono (putBlk_only _ _ _ _ _) (by decide)
  · exact Only.refl _ _

theorem execQpsCaptureArm_only (a0 : BitVec 4) (a1 : BitVec 8) (s : State) :
    OnlyNext [.evm, .recd, .mbx, .qps] s (execQpsCaptureArm a0 a1 s) := by
  unfold execQpsCaptureArm
  refine OnlyNext.next ?_
  exact Only.mono (qpsCapHandler_only _ _ _ _) (by decide)

theorem readQual_only (a0 : ℕ) (a1 : List ℕ) (s : State) :
    Only [.qps] s (readQual a0 a1 s) := by
  unfold readQual
  extract_lets +onlyGivenNames x1
  clear_value x1
  exact Only.mono (setTpl_only _ _ _) (by decide)

theorem fsaEntry_only (a0 : ℕ) (a1 : ℕ) (s : State) :
    Only [.qps] s (fsaEntry a0 a1 s) := by
  unfold fsaEntry
  extract_lets +onlyGivenNames x1 x2 x3 x4 x5 x6 x7 x8 x9 x10 x11
  clear_value x1 x2 x3 x4 x5 x6 x7 x8 x9 x10 x11
  split
  · exact Only.mono (putAll_only _ _ _ _) (by decide)
  · refine Only.after (readQual_only _ _ _) (by decide) ?_
    exact Only.mono (putAll_only _ _ _ _) (by decide)
  · exact Only.mono (putAll_only _ _ _ _) (by decide)
  · refine Only.after (readQual_only _ _ _) (by decide) ?_
    exact Only.mono (putAll_only _ _ _ _) (by decide)
  · extract_lets +onlyGivenNames x12
    clear_value x12
    exact Only.mono (putAll_only _ _ _ _) (by decide)
  · refine Only.after (readQual_only _ _ _) (by decide) ?_
    refine Only.foldl _ _ _ (fun u13 y h14 => ?_) ?_
    · refine Only.after (putBlk_only _ _ _ _ _) (by decide) ?_
      exact h14
    · exact Only.refl _ _
  · extract_lets +onlyGivenNames x15 x16 x17 x18
    clear_value x15 x16 x17 x18
    refine Only.after (readQual_only _ _ _) (by decide) ?_
    exact Only.mono (putAll_only _ _ _ _) (by decide)
  · refine Only.after (readQual_only _ _ _) (by decide) ?_
    exact Only.mono (putAll_only _ _ _ _) (by decide)
  · extract_lets +onlyGivenNames x19 x20 x21
    clear_value x19 x20 x21
    extract_lets +onlyGivenNames x22
    have h23 : Only [Part.qps] s x22 := by
      subst x22
      exact Only.mono (setTpl_only _ _ _) (by decide)
    clear_value x22
    refine Only.after (readQual_only _ _ _) (by decide) ?_
    refine Only.foldl _ _ _ (fun u24 y h25 => ?_) ?_
    · refine Only.after (maskBound_only _ _ _ _) (by decide) ?_
      refine Only.after (maskBound_only _ _ _ _) (by decide) ?_
      exact h25
    · exact h23
  · extract_lets +onlyGivenNames x26 x27 x28
    clear_value x26 x27 x28
    refine Only.after (readQual_only _ _ _) (by decide) ?_
    exact Only.mono (setTpl_only _ _ _) (by decide)
  · exact Only.mono (putAll_only _ _ _ _) (by decide)
  · exact Only.refl _ _

theorem fsaBuildEffect_only (a0 : ℕ) (a1 : ℕ) (s : State) :
    Only [.qps] s (fsaBuildEffect a0 a1 s) := by
  unfold fsaBuildEffect
  extract_lets +onlyGivenNames x1
  clear_value x1
  extract_lets +onlyGivenNames x2
  have h3 : Only [Part.qps] s x2 := by
    subst x2
    refine Only.ite ?_ ?_
    · exact Only.mono (setTpl_only _ _ _) (by decide)
    · exact Only.refl _ _
  clear_value x2
  extract_lets +onlyGivenNames x4
  clear_value x4
  extract_lets +onlyGivenNames x5
  have h6 : Only [Part.qps] s x5 := by
    subst x5
    refine Only.foldl _ _ _ (fun u7 y h8 => ?_) ?_
    · refine Only.after (fsaEntry_only _ _ _) (by decide) ?_
      exact h8
    · exact h3
  clear_value x5
  extract_lets +onlyGivenNames x9 x10
  clear_value x9 x10
  extract_lets +onlyGivenNames x11
  have h12 : Only [Part.qps] s x11 := by
    subst x11
    refine Only.after (setTpl_only _ _ _) (by decide) ?_
    exact h6
  clear_value x11
  refine only_upd_qps _ (by decide) ?_
  exact h12

theorem execFsaBuild_only (a0 : BitVec 4) (a1 : BitVec 12) (s : State) :
    OnlyNext [.boot, .seq, .cck, .sdir, .evm, .recd, .sec, .qps] s (execFsaBuild a0 a1 s) := by
  unfold execFsaBuild
  extract_lets +onlyGivenNames x1
  clear_value x1
  refine qpsIssue_only _ _ _ _ _ _ _ (by decide) ?_
  refine Only.ite ?_ ?_
  · exact Only.mono (breach_only _ _ _) (by decide)
  · exact Only.mono (fsaBuildEffect_only _ _ _) (by decide)

theorem execFarEnd_only (a0 : BitVec 4) (s : State) :
    OnlyNext [.boot, .seq, .cck, .sdir, .evm, .recd, .sec, .qps] s (execFarEnd a0 s) := by
  unfold execFarEnd
  extract_lets +onlyGivenNames x1
  clear_value x1
  refine qpsIssue_only _ _ _ _ _ _ _ (by decide) ?_
  refine Only.ite ?_ ?_
  · exact Only.mono (breach_only _ _ _) (by decide)
  · exact Only.mono (farEndEffect_only _ _) (by decide)

end Sys2Proof.Machine
end

