-- ==== Sys2Proof/Laws/FrameObserver.lean ====
section
/-! SUPPORT. Sys2Proof/Laws/FrameObserver.lean: which parts of the state each operation of Machine/Observer.lean changes. -/

set_option linter.unusedVariables false

namespace Sys2Proof.Machine

theorem setSlot_only (a0 : ℕ) (a1 : Slot) (s : State) :
    Only [.obs] s (setSlot a0 a1 s) := by
  unfold setSlot
  refine only_upd_obs _ (by decide) ?_
  exact Only.refl _ _

theorem modSlot_only (a0 : ℕ) (a1 : Slot → Slot) (s : State) :
    Only [.obs] s (modSlot a0 a1 s) := by
  unfold modSlot
  exact Only.mono (setSlot_only _ _ _) (by decide)

theorem rejectSlot_only (a0 : ℕ) (a1 : ℚ) (s : State) :
    Only [.evm, .recd, .obs] s (rejectSlot a0 a1 s) := by
  unfold rejectSlot
  extract_lets +onlyGivenNames x1
  have h2 : Only [Part.evm, Part.recd, Part.obs] s x1 := by
    subst x1
    exact Only.mono (modSlot_only _ _ _) (by decide)
  clear_value x1
  refine Only.after (raise_only _ _ _ _ _) (by decide) ?_
  exact h2

theorem readmitSlot_only (a0 : ℕ) (s : State) :
    Only [.evm, .recd, .obs] s (readmitSlot a0 s) := by
  unfold readmitSlot
  extract_lets +onlyGivenNames x1
  clear_value x1
  refine Only.after (raise_only _ _ _ _ _) (by decide) ?_
  exact Only.mono (setSlot_only _ _ _) (by decide)

theorem countClean_only (a0 : ℕ) (a1 : Bool) (s : State) :
    Only [.evm, .recd, .obs] s (countClean a0 a1 s) := by
  unfold countClean
  extract_lets +onlyGivenNames x1 x2
  clear_value x1 x2
  extract_lets +onlyGivenNames x3
  have h4 : Only [Part.evm, Part.recd, Part.obs] s x3 := by
    subst x3
    exact Only.mono (setSlot_only _ _ _) (by decide)
  clear_value x3
  refine Only.ite ?_ ?_
  · refine Only.after (readmitSlot_only _ _) (by decide) ?_
    exact h4
  · exact h4

theorem writeSlot_only (a0 : ℕ) (a1 : ℕ) (s : State) :
    Only [.sdir, .evm, .recd] s (writeSlot a0 a1 s) := by
  unfold writeSlot
  extract_lets +onlyGivenNames x1 x2 x3
  clear_value x1 x2 x3
  extract_lets +onlyGivenNames x4
  have h5 : Only [Part.sdir, Part.evm, Part.recd] s x4 := by
    subst x4
    exact Only.mono (writeSig_only _ _ _ _ _) (by decide)
  clear_value x4
  extract_lets +onlyGivenNames x6
  have h7 : Only [Part.sdir, Part.evm, Part.recd] s x6 := by
    subst x6
    refine Only.after (writeSig_only _ _ _ _ _) (by decide) ?_
    exact h5
  clear_value x6
  refine Only.ite ?_ ?_
  · extract_lets +onlyGivenNames x8
    have h9 : Only [Part.sdir, Part.evm, Part.recd] s x8 := by
      subst x8
      refine Only.after (writeNum_only _ _ _ _ _) (by decide) ?_
      exact h7
    clear_value x8
    extract_lets +onlyGivenNames x10
    have h11 : Only [Part.sdir, Part.evm, Part.recd] s x10 := by
      subst x10
      refine Only.after (writeNum_only _ _ _ _ _) (by decide) ?_
      exact h9
    clear_value x10
    extract_lets +onlyGivenNames x12
    have h13 : Only [Part.sdir, Part.evm, Part.recd] s x12 := by
      subst x12
      refine Only.after (writeNum_only _ _ _ _ _) (by decide) ?_
      exact h11
    clear_value x12
    extract_lets +onlyGivenNames x14
    have h15 : Only [Part.sdir, Part.evm, Part.recd] s x14 := by
      subst x14
      refine Only.after (writeNum_only _ _ _ _ _) (by decide) ?_
      exact h13
    clear_value x14
    refine Only.after (writeNum_only _ _ _ _ _) (by decide) ?_
    exact h15
  · refine Only.ite ?_ ?_
    · extract_lets +onlyGivenNames x16
      have h17 : Only [Part.sdir, Part.evm, Part.recd] s x16 := by
        subst x16
        refine Only.after (writeNum_only _ _ _ _ _) (by decide) ?_
        exact h7
      clear_value x16
      extract_lets +onlyGivenNames x18
      have h19 : Only [Part.sdir, Part.evm, Part.recd] s x18 := by
        subst x18
        refine Only.after (writeNum_only _ _ _ _ _) (by decide) ?_
        exact h17
      clear_value x18
      extract_lets +onlyGivenNames x20
      have h21 : Only [Part.sdir, Part.evm, Part.recd] s x20 := by
        subst x20
        refine Only.after (writeNum_only _ _ _ _ _) (by decide) ?_
        exact h19
      clear_value x20
      refine Only.after (writeNum_only _ _ _ _ _) (by decide) ?_
      exact h21
    · exact h7

theorem showSlots_only (a0 : List ℕ) (s : State) :
    Only [.obs] s (showSlots a0 s) := by
  unfold showSlots
  refine Only.foldl _ _ _ (fun u1 y h2 => ?_) ?_
  · refine Only.after (modSlot_only _ _ _) (by decide) ?_
    exact h2
  · exact Only.refl _ _

theorem storeXP_only (fx : Nat → Rat) (fp : Nat → Nat → Rat) (s : State) : ∀ t, storeXP fx fp s = .ok t → Only [.obs] s t := by
  intro t ht
  unfold storeXP at ht
  simp only at ht
  split at ht
  · cases ht
  · cases ht
    exact only_upd_obs _ (by decide) (Only.refl _ _)

theorem restoreCheckpoint_only (a0 : ℕ) (a1 : ℕ) (a2 : ℕ) (s : State) :
    Only [.evm, .recd, .obs] s (restoreCheckpoint a0 a1 a2 s) := by
  unfold restoreCheckpoint
  extract_lets +onlyGivenNames x1 x2
  clear_value x1 x2
  extract_lets +onlyGivenNames x3
  have h4 : Only [Part.evm, Part.recd, Part.obs] s x3 := by
    subst x3
    refine only_upd_obs _ (by decide) ?_
    exact Only.refl _ _
  clear_value x3
  extract_lets +onlyGivenNames x5
  have h6 : Only [Part.evm, Part.recd, Part.obs] s x5 := by
    subst x5
    split
    · rename_i v7 v8 v9
      have h10 : Only [Part.evm, Part.recd, Part.obs] s v8 := by
        refine Only.after (storeXP_only _ _ _ _ v9) (by decide) ?_
        exact h4
      exact h10
    · rename_i v11 v12 v13
      exact h4
  clear_value x5
  extract_lets +onlyGivenNames x14
  have h15 : Only [Part.evm, Part.recd, Part.obs] s x14 := by
    subst x14
    split
    · rename_i v16 v17 v18
      have h19 : Only [Part.evm, Part.recd, Part.obs] s v17 := by
        refine Only.after (storeXP_only _ _ _ _ v18) (by decide) ?_
        exact h6
      exact h19
    · rename_i v20 v21 v22
      exact h6
  clear_value x14
  refine Only.after (raise_only _ _ _ _ _) (by decide) ?_
  exact h15

theorem scalarUpdate_only (j w : Nat) (y var : Rat) (s : State) : ∀ t, scalarUpdate j w y var s = .ok t → Only [.obs] s t := by
  intro t ht
  unfold scalarUpdate at ht
  simp only at ht
  split at ht
  · cases ht
  · exact storeXP_only _ _ _ _ ht

theorem setX_only (a0 : ℕ) (a1 : ℤ) (s : State) :
    Only [.obs] s (setX a0 a1 s) := by
  unfold setX
  refine only_upd_obs _ (by decide) ?_
  exact Only.refl _ _

theorem pairTest_only (a0 : ℕ) (a1 : ℕ) (a2 : ℕ) (s : State) :
    Only [.evm, .recd, .obs] s (pairTest a0 a1 a2 s).1 := by
  unfold pairTest
  extract_lets +onlyGivenNames x1 x2 x3 x4 x5 x6
  clear_value x1 x2 x3 x4 x5 x6
  extract_lets +onlyGivenNames x7
  have h8 : Only [Part.evm, Part.recd, Part.obs] s x7 := by
    subst x7
    refine Only.after (setSlot_only _ _ _) (by decide) ?_
    exact Only.mono (setSlot_only _ _ _) (by decide)
  clear_value x7
  refine Only.fst_ite ?_ ?_
  · refine Only.fst_mk ?_
    exact h8
  · extract_lets +onlyGivenNames x9
    have h10 : Only [Part.evm, Part.recd, Part.obs] s x9 := by
      subst x9
      refine Only.after (modSlot_only _ _ _) (by decide) ?_
      refine Only.after (modSlot_only _ _ _) (by decide) ?_
      exact h8
    clear_value x9
    extract_lets +onlyGivenNames x11
    clear_value x11
    refine Only.fst_ite ?_ ?_
    · refine Only.fst_mk ?_
      exact h10
    · extract_lets +onlyGivenNames x12 x13 x14
      clear_value x12 x13 x14
      extract_lets +onlyGivenNames x15
      have h16 : Only [Part.evm, Part.recd, Part.obs] s x15 := by
        subst x15
        refine Only.after (modSlot_only _ _ _) (by decide) ?_
        exact h10
      clear_value x15
      extract_lets +onlyGivenNames x17
      have h18 : Only [Part.evm, Part.recd, Part.obs] s x17 := by
        subst x17
        refine Only.ite ?_ ?_
        · refine Only.after (raise_only _ _ _ _ _) (by decide) ?_
          exact h16
        · exact h16
      clear_value x17
      refine Only.fst_mk ?_
      refine Only.ite ?_ ?_
      · refine Only.after (rejectSlot_only _ _ _) (by decide) ?_
        exact h18
      · exact h18

theorem clearTests_only (a0 : List ℕ) (a1 : List ℕ) (a2 : List ℕ) (s : State) :
    Only [.obs] s (clearTests a0 a1 a2 s) := by
  unfold clearTests
  refine Only.foldl _ _ _ (fun u1 y h2 => ?_) ?_
  · refine Only.after (modSlot_only _ _ _) (by decide) ?_
    exact h2
  · exact Only.refl _ _

theorem medianTest_only (a0 : List ℕ) (s : State) :
    Only [.evm, .recd, .obs] s (medianTest a0 s) := by
  unfold medianTest
  extract_lets +onlyGivenNames x1
  clear_value x1
  extract_lets +onlyGivenNames x2
  have h3 : Only [Part.evm, Part.recd, Part.obs] s x2 := by
    subst x2
    refine Only.foldl _ _ _ (fun u4 y h5 => ?_) ?_
    · extract_lets +onlyGivenNames x6 x7 x8 x9
      clear_value x6 x7 x8 x9
      refine Only.after (setSlot_only _ _ _) (by decide) ?_
      exact h5
    · exact Only.refl _ _
  clear_value x2
  extract_lets +onlyGivenNames x10 x11
  clear_value x10 x11
  split
  · exact h3
  · refine Only.after (rejectSlot_only _ _ _) (by decide) ?_
    exact h3

theorem classTests_only (a0 : List ℕ) (a1 : ℕ) (a2 : List ℕ) (s : State) :
    Only [.evm, .recd, .obs] s (classTests a0 a1 a2 s).1 := by
  unfold classTests
  split
  · extract_lets +onlyGivenNames x1
    have h2 : Only [Part.evm, Part.recd, Part.obs] s x1.1 := by
      subst x1
      refine Only.after (pairTest_only _ _ _ _) (by decide) ?_
      exact Only.mono (clearTests_only _ _ _ _) (by decide)
    clear_value x1
    refine Only.fst_mk ?_
    exact h2
  · refine Only.fst_ite ?_ ?_
    · refine Only.fst_mk ?_
      exact Only.mono (clearTests_only _ _ _ _) (by decide)
    · refine Only.fst_mk ?_
      refine Only.after (medianTest_only _ _) (by decide) ?_
      exact Only.mono (clearTests_only _ _ _ _) (by decide)

theorem uncleanFailed_only (a0 : List ℕ) (s : State) :
    Only [.obs] s (uncleanFailed a0 s) := by
  unfold uncleanFailed
  refine Only.foldl _ _ _ (fun u1 y h2 => ?_) ?_
  · refine Only.after (modSlot_only _ _ _) (by decide) ?_
    exact h2
  · exact Only.refl _ _

theorem weigh_only (a0 : List ℕ) (s : State) :
    Only [.obs] s (weigh a0 s) := by
  unfold weigh
  extract_lets +onlyGivenNames x1
  clear_value x1
  extract_lets +onlyGivenNames x2
  have h3 : Only [Part.obs] s x2 := by
    subst x2
    refine Only.foldl _ _ _ (fun u4 y h5 => ?_) ?_
    · refine Only.after (modSlot_only _ _ _) (by decide) ?_
      exact h5
    · exact Only.refl _ _
  clear_value x2
  extract_lets +onlyGivenNames x6
  subst x6
  beta_reduce
  extract_lets +onlyGivenNames x7
  clear_value x7
  extract_lets +onlyGivenNames x8
  have h9 : Only [Part.obs] s x8 := by
    subst x8
    refine Only.foldl _ _ _ (fun u10 y h11 => ?_) ?_
    · refine Only.after (modSlot_only _ _ _) (by decide) ?_
      exact h11
    · exact h3
  clear_value x8
  refine Only.ite ?_ ?_
  · exact h9
  · extract_lets +onlyGivenNames x12
    have h13 : Only [Part.obs] s x12 := by
      subst x12
      refine Only.foldl _ _ _ (fun u14 y h15 => ?_) ?_
      · extract_lets +onlyGivenNames x16 x17
        clear_value x16 x17
        refine Only.ite ?_ ?_
        · refine Only.after (setSlot_only _ _ _) (by decide) ?_
          exact h15
        · exact h15
      · exact h9
    clear_value x12
    extract_lets +onlyGivenNames x18
    clear_value x18
    refine Only.foldl _ _ _ (fun u19 y h20 => ?_) ?_
    · refine Only.after (modSlot_only _ _ _) (by decide) ?_
      exact h20
    · exact h13

theorem resetRows_only (a0 : List ℕ) (s : State) :
    Only [.obs] s (resetRows a0 s) := by
  unfold resetRows
  extract_lets +onlyGivenNames x1
  clear_value x1
  refine only_upd_obs _ (by decide) ?_
  exact Only.refl _ _

theorem clearHistory_only (a0 : List ℕ) (s : State) :
    Only [.obs] s (clearHistory a0 s) := by
  unfold clearHistory
  refine Only.foldl _ _ _ (fun u1 y h2 => ?_) ?_
  · refine Only.after (modSlot_only _ _ _) (by decide) ?_
    exact h2
  · exact Only.refl _ _

theorem anchor_only (a0 : Bool) (a1 : ℕ) (a2 : List ℕ) (s : State) :
    Only [.evm, .recd, .obs] s (anchor a0 a1 a2 s) := by
  unfold anchor
  extract_lets +onlyGivenNames x1
  clear_value x1
  extract_lets +onlyGivenNames x2
  have h3 : Only [Part.evm, Part.recd, Part.obs] s x2 := by
    subst x2
    refine Only.ite ?_ ?_
    · exact Only.mono (raise_only _ _ _ _ _) (by decide)
    · exact Only.refl _ _
  clear_value x2
  extract_lets +onlyGivenNames x4
  have h5 : Only [Part.evm, Part.recd, Part.obs] s x4 := by
    subst x4
    refine Only.foldl _ _ _ (fun u6 y h7 => ?_) ?_
    · refine Only.after (modSlot_only _ _ _) (by decide) ?_
      exact h7
    · exact h3
  clear_value x4
  extract_lets +onlyGivenNames x8 x9 x10 x11 x12
  clear_value x8 x9 x10 x11 x12
  extract_lets +onlyGivenNames x13
  have h14 : Only [Part.evm, Part.recd, Part.obs] s x13 := by
    subst x13
    refine Only.after (setX_only _ _ _) (by decide) ?_
    refine Only.after (setX_only _ _ _) (by decide) ?_
    exact h5
  clear_value x13
  extract_lets +onlyGivenNames x15
  have h16 : Only [Part.evm, Part.recd, Part.obs] s x15 := by
    subst x15
    refine Only.ite ?_ ?_
    · refine Only.after (setX_only _ _ _) (by decide) ?_
      refine Only.after (setX_only _ _ _) (by decide) ?_
      refine Only.after (setX_only _ _ _) (by decide) ?_
      exact h5
    · refine Only.after (setX_only _ _ _) (by decide) ?_
      refine Only.after (setX_only _ _ _) (by decide) ?_
      refine Only.after (setX_only _ _ _) (by decide) ?_
      refine Only.after (setX_only _ _ _) (by decide) ?_
      exact h14
  clear_value x15
  extract_lets +onlyGivenNames x17
  have h18 : Only [Part.evm, Part.recd, Part.obs] s x17 := by
    subst x17
    refine Only.after (resetRows_only _ _) (by decide) ?_
    exact h16
  clear_value x17
  extract_lets +onlyGivenNames x19
  have h20 : Only [Part.evm, Part.recd, Part.obs] s x19 := by
    subst x19
    refine Only.after (clearHistory_only _ _) (by decide) ?_
    exact h18
  clear_value x19
  extract_lets +onlyGivenNames x21
  have h22 : Only [Part.evm, Part.recd, Part.obs] s x21 := by
    subst x21
    refine Only.foldl _ _ _ (fun u23 y h24 => ?_) ?_
    · refine Only.after (modSlot_only _ _ _) (by decide) ?_
      exact h24
    · exact h20
  clear_value x21
  extract_lets +onlyGivenNames x25
  clear_value x25
  extract_lets +onlyGivenNames x26
  have h27 : Only [Part.evm, Part.recd, Part.obs] s x26 := by
    subst x26
    refine Only.ite ?_ ?_
    · refine only_upd_obs _ (by decide) ?_
      exact h22
    · refine only_upd_obs _ (by decide) ?_
      exact h22
  clear_value x26
  extract_lets +onlyGivenNames x28 x29
  clear_value x28 x29
  refine Only.after (raise_only _ _ _ _ _) (by decide) ?_
  exact h27

theorem initTrack_only (a0 : Bool) (a1 : List ℕ) (s : State) :
    Only [.evm, .recd, .obs] s (initTrack a0 a1 s) := by
  unfold initTrack
  extract_lets +onlyGivenNames x1
  clear_value x1
  extract_lets +onlyGivenNames x2
  subst x2
  beta_reduce
  extract_lets +onlyGivenNames x3
  clear_value x3
  refine Only.ite ?_ ?_
  · extract_lets +onlyGivenNames x4 x5 x6 x7 x8
    clear_value x4 x5 x6 x7 x8
    refine Only.ite ?_ ?_
    · refine Only.after (anchor_only _ _ _ _) (by decide) ?_
      refine Only.ite ?_ ?_
      · refine only_upd_obs _ (by decide) ?_
        exact Only.refl _ _
      · refine only_upd_obs _ (by decide) ?_
        exact Only.refl _ _
    · refine Only.ite ?_ ?_
      · refine only_upd_obs _ (by decide) ?_
        exact Only.refl _ _
      · refine only_upd_obs _ (by decide) ?_
        exact Only.refl _ _
  · refine Only.ite ?_ ?_
    · refine only_upd_obs _ (by decide) ?_
      exact Only.refl _ _
    · refine only_upd_obs _ (by decide) ?_
      exact Only.refl _ _

theorem classTrack_only (a0 : Bool) (a1 : List ℕ) (s : State) :
    Only [.evm, .recd, .mbx, .obs] s (classTrack a0 a1 s) := by
  unfold classTrack
  extract_lets +onlyGivenNames x1 x2 x3
  clear_value x1 x2 x3
  extract_lets +onlyGivenNames x4
  subst x4
  beta_reduce
  extract_lets +onlyGivenNames x5 x6
  clear_value x5 x6
  extract_lets +onlyGivenNames x7
  have h8 : Only [Part.evm, Part.recd, Part.mbx, Part.obs] s x7 := by
    subst x7
    refine Only.ite ?_ ?_
    · refine Only.ite ?_ ?_
      · refine Only.after (raise_only _ _ _ _ _) (by decide) ?_
        refine Only.ite ?_ ?_
        · refine only_upd_obs _ (by decide) ?_
          exact Only.refl _ _
        · refine only_upd_obs _ (by decide) ?_
          exact Only.refl _ _
      · refine Only.ite ?_ ?_
        · refine Only.ite ?_ ?_
          · refine only_upd_obs _ (by decide) ?_
            exact Only.refl _ _
          · refine only_upd_obs _ (by decide) ?_
            exact Only.refl _ _
        · exact Only.refl _ _
    · refine Only.ite ?_ ?_
      · refine Only.after (raise_only _ _ _ _ _) (by decide) ?_
        refine Only.ite ?_ ?_
        · refine only_upd_obs _ (by decide) ?_
          exact Only.refl _ _
        · refine only_upd_obs _ (by decide) ?_
          exact Only.refl _ _
      · exact Only.refl _ _
  clear_value x7
  extract_lets +onlyGivenNames x9 x10
  clear_value x9 x10
  refine Only.ite ?_ ?_
  · refine Only.after (initTrack_only _ _ _) (by decide) ?_
    exact h8
  · refine Only.foldl _ _ _ (fun u11 y h12 => ?_) ?_
    · extract_lets +onlyGivenNames x13
      clear_value x13
      refine Only.ite ?_ ?_
      · refine Only.after (completeMbx_only _ _ _) (by decide) ?_
        refine Only.after (anchor_only _ _ _ _) (by decide) ?_
        exact h12
      · refine Only.after (completeMbx_only _ _ _) (by decide) ?_
        exact h12
    · refine only_upd_obs _ (by decide) ?_
      exact h8

theorem selectSlot_only (a0 : ℕ) (s : State) :
    Only [.evm, .recd, .obs] s (selectSlot a0 s) := by
  unfold selectSlot
  extract_lets +onlyGivenNames x1 x2 x3 x4 x5 x6 x7 x8
  clear_value x1 x2 x3 x4 x5 x6 x7 x8
  extract_lets +onlyGivenNames x9
  have h10 : Only [Part.evm, Part.recd, Part.obs] s x9 := by
    subst x9
    exact Only.mono (setSlot_only _ _ _) (by decide)
  clear_value x9
  refine Only.ite ?_ ?_
  · refine Only.after (raise_only _ _ _ _ _) (by decide) ?_
    exact h10
  · exact h10

theorem obsStart_only (s : State) :
    Only [.obs] s (obsStart s) := by
  unfold obsStart
  refine Only.ite ?_ ?_
  · exact Only.refl _ _
  · refine Only.after (resetRows_only _ _) (by decide) ?_
    refine only_upd_obs _ (by decide) ?_
    exact Only.refl _ _

end Sys2Proof.Machine
end

