-- ==== Sys2Proof/Laws/FrameVmu.lean ====
section
/-! SUPPORT. Sys2Proof/Laws/FrameVmu.lean: which parts of the state each operation of Machine/Vmu.lean changes. -/

set_option linter.unusedVariables false

namespace Sys2Proof.Machine

theorem refTestUpdate_only (a0 : ℕ) (s : State) :
    Only [.obs] s (refTestUpdate a0 s) := by
  unfold refTestUpdate
  extract_lets +onlyGivenNames x1 x2 x3 x4 x5 x6 x7 x8 x9 x10 x11
  clear_value x1 x2 x3 x4 x5 x6 x7 x8 x9 x10 x11
  refine Only.ite ?_ ?_
  · refine only_upd_obs _ (by decide) ?_
    exact Only.refl _ _
  · extract_lets +onlyGivenNames x12 x13 x14 x15 x16 x17 x18 x19 x20
    clear_value x12 x13 x14 x15 x16 x17 x18 x19 x20
    exact Only.mono (setSlot_only _ _ _) (by decide)

theorem refTestEffect_only (a0 : ℕ) (s : State) :
    Only [.sdir, .evm, .recd, .obs] s (refTestEffect a0 s) := by
  unfold refTestEffect
  extract_lets +onlyGivenNames x1 x2 x3 x4
  clear_value x1 x2 x3 x4
  extract_lets +onlyGivenNames x5
  have h6 : Only [Part.sdir, Part.evm, Part.recd, Part.obs] s x5 := by
    subst x5
    exact Only.mono (setSlot_only _ _ _) (by decide)
  clear_value x5
  extract_lets +onlyGivenNames x7
  clear_value x7
  extract_lets +onlyGivenNames x8
  have h9 : Only [Part.sdir, Part.evm, Part.recd, Part.obs] s x8 := by
    subst x8
    refine Only.ite ?_ ?_
    · refine Only.after (refTestUpdate_only _ _) (by decide) ?_
      exact h6
    · exact h6
  clear_value x8
  extract_lets +onlyGivenNames x10
  clear_value x10
  extract_lets +onlyGivenNames x11
  have h12 : Only [Part.sdir, Part.evm, Part.recd, Part.obs] s x11 := by
    subst x11
    refine Only.ite ?_ ?_
    · refine Only.after (rejectSlot_only _ _ _) (by decide) ?_
      exact h9
    · refine Only.after (countClean_only _ _ _) (by decide) ?_
      exact h9
  clear_value x11
  refine Only.after (writeSlot_only _ _ _) (by decide) ?_
  exact h12

theorem execRefTest_only (a0 : BitVec 5) (s : State) :
    OnlyNext [.boot, .seq, .cck, .sdir, .evm, .recd, .sec, .obs] s (execRefTest a0 s) := by
  unfold execRefTest
  refine issue_only _ _ _ _ _ (by decide) ?_
  refine Only.ite ?_ ?_
  · exact Only.mono (refTestEffect_only _ _) (by decide)
  · exact Only.mono (breach_only _ _ _) (by decide)

theorem restoreLimit_only (s : State) :
    Only [.obs] s (restoreLimit s) := by
  unfold restoreLimit
  extract_lets +onlyGivenNames x1 x2
  clear_value x1 x2
  extract_lets +onlyGivenNames x3
  have h4 : Only [Part.obs] s x3 := by
    subst x3
    refine only_upd_obs _ (by decide) ?_
    exact Only.refl _ _
  clear_value x3
  refine Only.ite ?_ ?_
  · extract_lets +onlyGivenNames x5
    have h6 : Only [Part.obs] s x5 := by
      subst x5
      refine Only.foldl _ _ _ (fun u7 y h8 => ?_) ?_
      · refine Only.after (modSlot_only _ _ _) (by decide) ?_
        exact h8
      · exact h4
    clear_value x5
    refine only_upd_obs _ (by decide) ?_
    exact h6
  · exact h4

theorem obsNum_only (a0 : ℕ) (a1 : ℕ) (a2 : Qual) (a3 : Word) (s : State) :
    Only [.sdir, .evm, .recd] s (obsNum a0 a1 a2 a3 s) := by
  unfold obsNum
  exact Only.mono (writeNum_only _ _ _ _ _) (by decide)

theorem obsAng_only (a0 : ℕ) (a1 : ℕ) (a2 : Qual) (a3 : Word) (s : State) :
    Only [.sdir, .evm, .recd] s (obsAng a0 a1 a2 a3 s) := by
  unfold obsAng
  exact Only.mono (writeSig_only _ _ _ _ _) (by decide)

theorem obsWrite_only (s : State) :
    Only [.sdir, .evm, .recd] s (obsWrite s) := by
  unfold obsWrite
  extract_lets +onlyGivenNames x1 x2 x3 x4 x5 x6
  clear_value x1 x2 x3 x4 x5 x6
  extract_lets +onlyGivenNames x7
  have h8 : Only [Part.sdir, Part.evm, Part.recd] s x7 := by
    subst x7
    exact Only.mono (obsNum_only _ _ _ _ _) (by decide)
  clear_value x7
  extract_lets +onlyGivenNames x9
  have h10 : Only [Part.sdir, Part.evm, Part.recd] s x9 := by
    subst x9
    refine Only.after (obsNum_only _ _ _ _ _) (by decide) ?_
    exact h8
  clear_value x9
  extract_lets +onlyGivenNames x11
  have h12 : Only [Part.sdir, Part.evm, Part.recd] s x11 := by
    subst x11
    refine Only.after (obsAng_only _ _ _ _ _) (by decide) ?_
    exact h10
  clear_value x11
  extract_lets +onlyGivenNames x13
  have h14 : Only [Part.sdir, Part.evm, Part.recd] s x13 := by
    subst x13
    refine Only.after (obsNum_only _ _ _ _ _) (by decide) ?_
    exact h12
  clear_value x13
  extract_lets +onlyGivenNames x15
  have h16 : Only [Part.sdir, Part.evm, Part.recd] s x15 := by
    subst x15
    refine Only.after (obsNum_only _ _ _ _ _) (by decide) ?_
    exact h14
  clear_value x15
  extract_lets +onlyGivenNames x17
  have h18 : Only [Part.sdir, Part.evm, Part.recd] s x17 := by
    subst x17
    refine Only.after (obsNum_only _ _ _ _ _) (by decide) ?_
    exact h16
  clear_value x17
  extract_lets +onlyGivenNames x19
  have h20 : Only [Part.sdir, Part.evm, Part.recd] s x19 := by
    subst x19
    refine Only.after (obsNum_only _ _ _ _ _) (by decide) ?_
    exact h18
  clear_value x19
  extract_lets +onlyGivenNames x21
  have h22 : Only [Part.sdir, Part.evm, Part.recd] s x21 := by
    subst x21
    refine Only.after (obsNum_only _ _ _ _ _) (by decide) ?_
    exact h20
  clear_value x21
  extract_lets +onlyGivenNames x23
  have h24 : Only [Part.sdir, Part.evm, Part.recd] s x23 := by
    subst x23
    refine Only.after (obsNum_only _ _ _ _ _) (by decide) ?_
    exact h22
  clear_value x23
  extract_lets +onlyGivenNames x25
  have h26 : Only [Part.sdir, Part.evm, Part.recd] s x25 := by
    subst x25
    refine Only.after (obsNum_only _ _ _ _ _) (by decide) ?_
    exact h24
  clear_value x25
  extract_lets +onlyGivenNames x27
  have h28 : Only [Part.sdir, Part.evm, Part.recd] s x27 := by
    subst x27
    refine Only.after (obsNum_only _ _ _ _ _) (by decide) ?_
    exact h26
  clear_value x27
  extract_lets +onlyGivenNames x29
  have h30 : Only [Part.sdir, Part.evm, Part.recd] s x29 := by
    subst x29
    refine Only.after (obsAng_only _ _ _ _ _) (by decide) ?_
    exact h28
  clear_value x29
  extract_lets +onlyGivenNames x31
  have h32 : Only [Part.sdir, Part.evm, Part.recd] s x31 := by
    subst x31
    refine Only.after (writeNum_only _ _ _ _ _) (by decide) ?_
    exact h30
  clear_value x31
  extract_lets +onlyGivenNames x33
  have h34 : Only [Part.sdir, Part.evm, Part.recd] s x33 := by
    subst x33
    refine Only.after (writeNum_only _ _ _ _ _) (by decide) ?_
    exact h32
  clear_value x33
  extract_lets +onlyGivenNames x35
  have h36 : Only [Part.sdir, Part.evm, Part.recd] s x35 := by
    subst x35
    refine Only.after (writeNum_only _ _ _ _ _) (by decide) ?_
    exact h34
  clear_value x35
  extract_lets +onlyGivenNames x37
  have h38 : Only [Part.sdir, Part.evm, Part.recd] s x37 := by
    subst x37
    refine Only.after (writeSig_only _ _ _ _ _) (by decide) ?_
    exact h36
  clear_value x37
  extract_lets +onlyGivenNames x39
  have h40 : Only [Part.sdir, Part.evm, Part.recd] s x39 := by
    subst x39
    refine Only.after (writeSig_only _ _ _ _ _) (by decide) ?_
    exact h38
  clear_value x39
  extract_lets +onlyGivenNames x41
  have h42 : Only [Part.sdir, Part.evm, Part.recd] s x41 := by
    subst x41
    refine Only.after (writeSig_only _ _ _ _ _) (by decide) ?_
    exact h40
  clear_value x41
  extract_lets +onlyGivenNames x43
  have h44 : Only [Part.sdir, Part.evm, Part.recd] s x43 := by
    subst x43
    refine Only.after (writeSig_only _ _ _ _ _) (by decide) ?_
    exact h42
  clear_value x43
  refine Only.after (writeSig_only _ _ _ _ _) (by decide) ?_
  exact h44

theorem obsOutEffect_only (s : State) :
    Only [.sdir, .evm, .recd, .obs] s (obsOutEffect s) := by
  unfold obsOutEffect
  extract_lets +onlyGivenNames x1
  clear_value x1
  extract_lets +onlyGivenNames x2
  have h3 : Only [Part.sdir, Part.evm, Part.recd, Part.obs] s x2 := by
    subst x2
    refine Only.after (restoreLimit_only _) (by decide) ?_
    exact Only.mono (obsWrite_only _) (by decide)
  clear_value x2
  extract_lets +onlyGivenNames x4
  have h5 : Only [Part.sdir, Part.evm, Part.recd, Part.obs] s x4 := by
    subst x4
    refine Only.after (showSlots_only _ _) (by decide) ?_
    exact h3
  clear_value x4
  refine Only.ite ?_ ?_
  · exact h5
  · refine only_upd_obs _ (by decide) ?_
    exact h5

theorem execObsOut_only (s : State) :
    OnlyNext [.boot, .seq, .cck, .sdir, .evm, .recd, .sec, .obs] s (execObsOut s) := by
  unfold execObsOut
  refine issue_only _ _ _ _ _ (by decide) ?_
  exact Only.mono (obsOutEffect_only _) (by decide)

theorem obsUpdEffect_only (a0 : ℕ) (s : State) :
    Only [.evm, .recd, .obs] s (obsUpdEffect a0 s) := by
  unfold obsUpdEffect
  extract_lets +onlyGivenNames x1
  clear_value x1
  refine Only.ite ?_ ?_
  · exact Only.refl _ _
  · refine Only.ite ?_ ?_
    · exact Only.mono (restoreCheckpoint_only _ _ _ _) (by decide)
    · refine Only.ite ?_ ?_
      · split
        · rename_i v2 v3 v4
          exact Only.mono (restoreCheckpoint_only _ _ _ _) (by decide)
        · rename_i v5 v6 v7
          have h8 : Only [Part.evm, Part.recd, Part.obs] s v6 := by
            refine Only.after (scalarUpdate_only _ _ _ _ _ _ v7) (by decide) ?_
            exact Only.refl _ _
          split
          · rename_i v9 v10 v11
            refine Only.after (restoreCheckpoint_only _ _ _ _) (by decide) ?_
            exact h8
          · rename_i v12 v13 v14
            have h15 : Only [Part.evm, Part.recd, Part.obs] s v13 := by
              refine Only.after (scalarUpdate_only _ _ _ _ _ _ v14) (by decide) ?_
              exact h8
            exact h15
      · split
        · rename_i v16 v17 v18
          exact Only.mono (restoreCheckpoint_only _ _ _ _) (by decide)
        · rename_i v19 v20 v21
          have h22 : Only [Part.evm, Part.recd, Part.obs] s v20 := by
            refine Only.after (scalarUpdate_only _ _ _ _ _ _ v21) (by decide) ?_
            exact Only.refl _ _
          exact h22

theorem mruVoteEffect_only (s : State) :
    Only [.sdir, .evm, .recd, .obs] s (mruVoteEffect s) := by
  unfold mruVoteEffect
  extract_lets +onlyGivenNames x1 x2 x3
  clear_value x1 x2 x3
  extract_lets +onlyGivenNames x4
  subst x4
  beta_reduce
  extract_lets +onlyGivenNames x5 x6
  clear_value x5 x6
  extract_lets +onlyGivenNames x7
  have h8 : Only [Part.sdir, Part.evm, Part.recd, Part.obs] s x7 := by
    subst x7
    refine only_upd_obs _ (by decide) ?_
    exact Only.refl _ _
  clear_value x7
  extract_lets +onlyGivenNames x9
  have h10 : Only [Part.sdir, Part.evm, Part.recd, Part.obs] s x9 := by
    subst x9
    refine Only.after (writeSig_only _ _ _ _ _) (by decide) ?_
    exact h8
  clear_value x9
  extract_lets +onlyGivenNames x11
  have h12 : Only [Part.sdir, Part.evm, Part.recd, Part.obs] s x11 := by
    subst x11
    refine Only.after (writeSig_only _ _ _ _ _) (by decide) ?_
    exact h10
  clear_value x11
  extract_lets +onlyGivenNames x13
  clear_value x13
  extract_lets +onlyGivenNames x14
  have h15 : Only [Part.sdir, Part.evm, Part.recd, Part.obs] s x14 := by
    subst x14
    split
    · refine Only.after (writeNum_only _ _ _ _ _) (by decide) ?_
      exact h12
    · extract_lets +onlyGivenNames x16
      have h17 : Only [Part.sdir, Part.evm, Part.recd, Part.obs] s x16 := by
        subst x16
        refine Only.after (writeSig_only _ _ _ _ _) (by decide) ?_
        exact h8
      clear_value x16
      extract_lets +onlyGivenNames x18
      have h19 : Only [Part.sdir, Part.evm, Part.recd, Part.obs] s x18 := by
        subst x18
        refine Only.after (writeSig_only _ _ _ _ _) (by decide) ?_
        exact h17
      clear_value x18
      refine Only.after (writeNum_only _ _ _ _ _) (by decide) ?_
      exact h19
    · extract_lets +onlyGivenNames x20 x21 x22 x23 x24 x25 x26
      clear_value x20 x21 x22 x23 x24 x25 x26
      extract_lets +onlyGivenNames x27
      have h28 : Only [Part.sdir, Part.evm, Part.recd, Part.obs] s x27 := by
        subst x27
        refine Only.after (writeSig_only _ _ _ _ _) (by decide) ?_
        refine only_upd_obs _ (by decide) ?_
        exact h8
      clear_value x27
      extract_lets +onlyGivenNames x29
      have h30 : Only [Part.sdir, Part.evm, Part.recd, Part.obs] s x29 := by
        subst x29
        refine Only.after (writeSig_only _ _ _ _ _) (by decide) ?_
        exact h28
      clear_value x29
      extract_lets +onlyGivenNames x31
      have h32 : Only [Part.sdir, Part.evm, Part.recd, Part.obs] s x31 := by
        subst x31
        refine Only.after (writeNum_only _ _ _ _ _) (by decide) ?_
        exact h30
      clear_value x31
      refine Only.ite ?_ ?_
      · refine Only.after (raise_only _ _ _ _ _) (by decide) ?_
        exact h32
      · exact h32
    · extract_lets +onlyGivenNames x33
      have h34 : Only [Part.sdir, Part.evm, Part.recd, Part.obs] s x33 := by
        subst x33
        refine Only.after (writeSig_only _ _ _ _ _) (by decide) ?_
        exact h8
      clear_value x33
      extract_lets +onlyGivenNames x35
      have h36 : Only [Part.sdir, Part.evm, Part.recd, Part.obs] s x35 := by
        subst x35
        refine Only.after (writeSig_only _ _ _ _ _) (by decide) ?_
        exact h34
      clear_value x35
      refine Only.after (writeNum_only _ _ _ _ _) (by decide) ?_
      exact h36
  clear_value x14
  refine Only.after (writeSig_only _ _ _ _ _) (by decide) ?_
  exact h15

theorem execMruVote_only (s : State) :
    OnlyNext [.boot, .seq, .cck, .sdir, .evm, .recd, .sec, .obs] s (execMruVote s) := by
  unfold execMruVote
  refine issue_only _ _ _ _ _ (by decide) ?_
  exact Only.mono (mruVoteEffect_only _) (by decide)

theorem execWindHoldEnd_only (s : State) :
    OnlyNext [.obs] s (execWindHoldEnd s) := by
  unfold execWindHoldEnd
  refine OnlyNext.ite ?_ ?_
  · refine OnlyNext.next ?_
    refine only_upd_obs _ (by decide) ?_
    exact Only.refl _ _
  · refine OnlyNext.next ?_
    exact Only.refl _ _

theorem execObsUpd_only (a0 : BitVec 5) (s : State) :
    OnlyNext [.boot, .seq, .cck, .sdir, .evm, .recd, .sec, .obs] s (execObsUpd a0 s) := by
  unfold execObsUpd
  refine issue_only _ _ _ _ _ (by decide) ?_
  refine Only.ite ?_ ?_
  · exact Only.mono (obsUpdEffect_only _ _) (by decide)
  · exact Only.mono (breach_only _ _ _) (by decide)

theorem hdgVoteEffect_only (s : State) :
    Only [.sdir, .evm, .recd, .mbx, .obs] s (hdgVoteEffect s) := by
  unfold hdgVoteEffect
  extract_lets +onlyGivenNames x1 x2
  clear_value x1 x2
  split
  · rename_i v3 v4 v5 v6 v7
    have h8 : Only [Part.sdir, Part.evm, Part.recd, Part.mbx, Part.obs] s v4 := by
      refine Only.fst_of_eq v7 ?_
      exact Only.mono (classTests_only _ _ _ _) (by decide)
    extract_lets +onlyGivenNames x9
    clear_value x9
    extract_lets +onlyGivenNames x10
    have h11 : Only [Part.sdir, Part.evm, Part.recd, Part.mbx, Part.obs] s x10 := by
      subst x10
      refine Only.after (uncleanFailed_only _ _) (by decide) ?_
      refine only_upd_obs _ (by decide) ?_
      exact h8
    clear_value x10
    extract_lets +onlyGivenNames x12
    have h13 : Only [Part.sdir, Part.evm, Part.recd, Part.mbx, Part.obs] s x12 := by
      subst x12
      refine Only.after (weigh_only _ _) (by decide) ?_
      refine Only.after (classTrack_only _ _ _) (by decide) ?_
      exact h11
    clear_value x12
    extract_lets +onlyGivenNames x14
    clear_value x14
    extract_lets +onlyGivenNames x15
    have h16 : Only [Part.sdir, Part.evm, Part.recd, Part.mbx, Part.obs] s x15 := by
      subst x15
      refine Only.after (writeSig_only _ _ _ _ _) (by decide) ?_
      exact h13
    clear_value x15
    refine Only.foldl _ _ _ (fun u17 y h18 => ?_) ?_
    · refine Only.after (writeSlot_only _ _ _) (by decide) ?_
      exact h18
    · refine Only.after (showSlots_only _ _) (by decide) ?_
      exact h16

theorem writeWind_only (a0 : Qual) (s : State) :
    Only [.sdir, .evm, .recd] s (writeWind a0 s) := by
  unfold writeWind
  extract_lets +onlyGivenNames x1 x2 x3 x4 x5 x6 x7 x8 x9 x10 x11
  clear_value x1 x2 x3 x4 x5 x6 x7 x8 x9 x10 x11
  extract_lets +onlyGivenNames x12
  have h13 : Only [Part.sdir, Part.evm, Part.recd] s x12 := by
    subst x12
    exact Only.mono (writeNum_only _ _ _ _ _) (by decide)
  clear_value x12
  extract_lets +onlyGivenNames x14
  have h15 : Only [Part.sdir, Part.evm, Part.recd] s x14 := by
    subst x14
    refine Only.after (writeNum_only _ _ _ _ _) (by decide) ?_
    exact h13
  clear_value x14
  refine Only.after (writeNum_only _ _ _ _ _) (by decide) ?_
  exact h15

theorem execReanchor_only (a0 : BitVec 4) (a1 : BitVec 8) (s : State) :
    OnlyNext [.evm, .recd, .mbx, .obs] s (execReanchor a0 a1 s) := by
  unfold execReanchor
  extract_lets +onlyGivenNames x1
  clear_value x1
  refine OnlyNext.ite ?_ ?_
  · refine OnlyNext.next ?_
    exact Only.mono (completeMbx_only _ _ _) (by decide)
  · refine OnlyNext.ite ?_ ?_
    · refine OnlyNext.next ?_
      exact Only.mono (completeMbx_only _ _ _) (by decide)
    · refine OnlyNext.next ?_
      refine only_upd_obs _ (by decide) ?_
      exact Only.refl _ _

theorem obsImport_only (s : State) :
    Only [.evm, .recd, .obs, .pack] s (obsImport s) := by
  unfold obsImport
  extract_lets +onlyGivenNames x1
  have h2 : Only [Part.evm, Part.recd, Part.obs, Part.pack] s x1.2 := by
    subst x1
    exact Only.mono (eqTake_only _ _ _) (by decide)
  clear_value x1
  split
  · extract_lets +onlyGivenNames x3
    have h4 : Only [Part.evm, Part.recd, Part.obs, Part.pack] s x3 := by
      subst x3
      exact h2
    clear_value x3
    extract_lets +onlyGivenNames x5 x6
    clear_value x5 x6
    extract_lets +onlyGivenNames x7
    have h8 : Only [Part.evm, Part.recd, Part.obs, Part.pack] s x7 := by
      subst x7
      refine only_upd_obs _ (by decide) ?_
      exact h4
    clear_value x7
    refine Only.foldl _ _ _ (fun u9 y h10 => ?_) ?_
    · refine Only.after (modSlot_only _ _ _) (by decide) ?_
      exact h10
    · exact h8
  · exact h2

theorem originShift_only (s : State) :
    Only [.obs] s (originShift s) := by
  unfold originShift
  extract_lets +onlyGivenNames x1 x2
  clear_value x1 x2
  refine Only.ite ?_ ?_
  · exact Only.refl _ _
  · extract_lets +onlyGivenNames x3 x4 x5
    clear_value x3 x4 x5
    extract_lets +onlyGivenNames x6
    have h7 : Only [Part.obs] s x6 := by
      subst x6
      refine only_upd_obs _ (by decide) ?_
      exact Only.refl _ _
    clear_value x6
    refine Only.ite ?_ ?_
    · exact h7
    · split
      · refine Only.after (setX_only _ _ _) (by decide) ?_
        refine Only.after (setX_only _ _ _) (by decide) ?_
        exact h7
      · refine Only.after (setX_only _ _ _) (by decide) ?_
        refine Only.after (setX_only _ _ _) (by decide) ?_
        exact h7

theorem frameChange_only (s : State) :
    Only [.evm, .recd, .obs] s (frameChange s) := by
  unfold frameChange
  extract_lets +onlyGivenNames x1
  clear_value x1
  refine Only.ite ?_ ?_
  · exact Only.refl _ _
  · extract_lets +onlyGivenNames x2
    have h3 : Only [Part.evm, Part.recd, Part.obs] s x2 := by
      subst x2
      refine Only.foldl _ _ _ (fun u4 y h5 => ?_) ?_
      · refine Only.after (setX_only _ _ _) (by decide) ?_
        exact h5
      · exact Only.refl _ _
    clear_value x2
    extract_lets +onlyGivenNames x6
    have h7 : Only [Part.evm, Part.recd, Part.obs] s x6 := by
      subst x6
      refine Only.after (resetRows_only _ _) (by decide) ?_
      exact h3
    clear_value x6
    extract_lets +onlyGivenNames x8
    have h9 : Only [Part.evm, Part.recd, Part.obs] s x8 := by
      subst x8
      refine Only.after (clearHistory_only _ _) (by decide) ?_
      exact h7
    clear_value x8
    refine Only.after (raise_only _ _ _ _ _) (by decide) ?_
    refine only_upd_obs _ (by decide) ?_
    exact h9

theorem obsPredEffect_only (s : State) :
    Only [.evm, .recd, .obs, .pack] s (obsPredEffect s) := by
  unfold obsPredEffect
  extract_lets +onlyGivenNames x1
  have h2 : Only [Part.evm, Part.recd, Part.obs, Part.pack] s x1 := by
    subst x1
    exact Only.mono (obsImport_only _) (by decide)
  clear_value x1
  extract_lets +onlyGivenNames x3
  have h4 : Only [Part.evm, Part.recd, Part.obs, Part.pack] s x3 := by
    subst x3
    refine Only.after (originShift_only _) (by decide) ?_
    refine Only.after (frameChange_only _) (by decide) ?_
    refine Only.after (obsStart_only _) (by decide) ?_
    exact h2
  clear_value x3
  extract_lets +onlyGivenNames x5
  clear_value x5
  extract_lets +onlyGivenNames x6
  have h7 : Only [Part.evm, Part.recd, Part.obs, Part.pack] s x6 := by
    subst x6
    refine only_upd_obs _ (by decide) ?_
    exact h4
  clear_value x6
  split
  · refine Only.after (restoreCheckpoint_only _ _ _ _) (by decide) ?_
    exact h7
  · split
    · rename_i v8 v9 v10
      have h11 : Only [Part.evm, Part.recd, Part.obs, Part.pack] s v9 := by
        refine Only.after (storeXP_only _ _ _ _ v10) (by decide) ?_
        exact h7
      exact h11
    · rename_i v12 v13 v14
      refine Only.after (restoreCheckpoint_only _ _ _ _) (by decide) ?_
      exact h7

theorem execObsPred_only (s : State) :
    OnlyNext [.boot, .seq, .cck, .sdir, .evm, .recd, .sec, .obs, .pack] s (execObsPred s) := by
  unfold execObsPred
  refine issue_only _ _ _ _ _ (by decide) ?_
  exact Only.mono (obsPredEffect_only _) (by decide)

theorem execObsDrExpired_only (a0 : Bool) (s : State) :
    OnlyNext [.evm, .recd, .obs] s (execObsDrExpired a0 s) := by
  unfold execObsDrExpired
  refine OnlyNext.ite ?_ ?_
  · refine OnlyNext.ite ?_ ?_
    · refine OnlyNext.next ?_
      refine Only.after (raise_only _ _ _ _ _) (by decide) ?_
      refine only_upd_obs _ (by decide) ?_
      exact Only.refl _ _
    · refine OnlyNext.next ?_
      exact Only.refl _ _
  · refine OnlyNext.ite ?_ ?_
    · refine OnlyNext.next ?_
      refine Only.after (raise_only _ _ _ _ _) (by decide) ?_
      refine only_upd_obs _ (by decide) ?_
      exact Only.refl _ _
    · refine OnlyNext.next ?_
      exact Only.refl _ _

theorem maddEffect_only (a0 : ℕ) (s : State) :
    Only [.sdir, .evm, .recd] s (maddEffect a0 s) := by
  unfold maddEffect
  extract_lets +onlyGivenNames x1 x2
  clear_value x1 x2
  refine Only.foldl _ _ _ (fun u3 y h4 => ?_) ?_
  · extract_lets +onlyGivenNames x5
    clear_value x5
    refine Only.after (writeNum_only _ _ _ _ _) (by decide) ?_
    exact h4
  · exact Only.refl _ _

theorem refInBits_only (a0 : ℕ) (s : State) :
    Only [.obs] s (refInBits a0 s) := by
  unfold refInBits
  extract_lets +onlyGivenNames x1 x2 x3 x4 x5 x6 x7 x8 x9 x10 x11
  clear_value x1 x2 x3 x4 x5 x6 x7 x8 x9 x10 x11
  exact Only.mono (setSlot_only _ _ _) (by decide)

theorem refInAux_only (a0 : ℕ) (s : State) :
    Only [.obs] s (refInAux a0 s) := by
  unfold refInAux
  extract_lets +onlyGivenNames x1 x2 x3
  clear_value x1 x2 x3
  refine Only.ite ?_ ?_
  · extract_lets +onlyGivenNames x4 x5
    clear_value x4 x5
    exact Only.mono (setSlot_only _ _ _) (by decide)
  · exact Only.mono (setSlot_only _ _ _) (by decide)

theorem refInEffect_only (a0 : ℕ) (s : State) :
    Only [.sdir, .evm, .recd, .obs] s (refInEffect a0 s) := by
  unfold refInEffect
  extract_lets +onlyGivenNames x1
  have h2 : Only [Part.sdir, Part.evm, Part.recd, Part.obs] s x1 := by
    subst x1
    refine Only.after (refInBits_only _ _) (by decide) ?_
    refine Only.after (selectSlot_only _ _) (by decide) ?_
    exact Only.mono (obsStart_only _) (by decide)
  clear_value x1
  extract_lets +onlyGivenNames x3
  clear_value x3
  extract_lets +onlyGivenNames x4
  have h5 : Only [Part.sdir, Part.evm, Part.recd, Part.obs] s x4 := by
    subst x4
    refine Only.after (refInAux_only _ _) (by decide) ?_
    exact h2
  clear_value x4
  extract_lets +onlyGivenNames x6
  clear_value x6
  extract_lets +onlyGivenNames x7
  have h8 : Only [Part.sdir, Part.evm, Part.recd, Part.obs] s x7 := by
    subst x7
    refine Only.ite ?_ ?_
    · refine Only.ite ?_ ?_
      · refine Only.after (rejectSlot_only _ _ _) (by decide) ?_
        exact h2
      · exact h2
    · refine Only.ite ?_ ?_
      · refine Only.after (rejectSlot_only _ _ _) (by decide) ?_
        exact h5
      · refine Only.after (countClean_only _ _ _) (by decide) ?_
        exact h5
  clear_value x7
  refine Only.after (writeSlot_only _ _ _) (by decide) ?_
  refine Only.ite ?_ ?_
  · exact h8
  · refine Only.after (showSlots_only _ _) (by decide) ?_
    exact h8

theorem execRefIn_only (a0 : BitVec 5) (s : State) :
    OnlyNext [.boot, .seq, .cck, .sdir, .evm, .recd, .sec, .obs] s (execRefIn a0 s) := by
  unfold execRefIn
  refine issue_only _ _ _ _ _ (by decide) ?_
  refine Only.ite ?_ ?_
  · exact Only.mono (refInEffect_only _ _) (by decide)
  · exact Only.mono (breach_only _ _ _) (by decide)

theorem refVoteEffect_only (s : State) :
    Only [.sdir, .evm, .recd, .mbx, .obs] s (refVoteEffect s) := by
  unfold refVoteEffect
  extract_lets +onlyGivenNames x1 x2
  clear_value x1 x2
  split
  · rename_i v3 v4 v5 v6 v7
    have h8 : Only [Part.sdir, Part.evm, Part.recd, Part.mbx, Part.obs] s v4 := by
      refine Only.fst_of_eq v7 ?_
      exact Only.mono (classTests_only _ _ _ _) (by decide)
    extract_lets +onlyGivenNames x9
    clear_value x9
    extract_lets +onlyGivenNames x10
    have h11 : Only [Part.sdir, Part.evm, Part.recd, Part.mbx, Part.obs] s x10 := by
      subst x10
      refine Only.after (uncleanFailed_only _ _) (by decide) ?_
      refine only_upd_obs _ (by decide) ?_
      exact h8
    clear_value x10
    extract_lets +onlyGivenNames x12
    have h13 : Only [Part.sdir, Part.evm, Part.recd, Part.mbx, Part.obs] s x12 := by
      subst x12
      refine Only.after (weigh_only _ _) (by decide) ?_
      refine Only.after (classTrack_only _ _ _) (by decide) ?_
      exact h11
    clear_value x12
    refine Only.foldl _ _ _ (fun u14 y h15 => ?_) ?_
    · refine Only.after (writeSlot_only _ _ _) (by decide) ?_
      exact h15
    · refine Only.after (showSlots_only _ _) (by decide) ?_
      exact h13

theorem mmulEffect_only (a0 : ℕ) (s : State) :
    Only [.sdir, .evm, .recd] s (mmulEffect a0 s) := by
  unfold mmulEffect
  extract_lets +onlyGivenNames x1 x2
  clear_value x1 x2
  refine Only.foldl _ _ _ (fun u3 y h4 => ?_) ?_
  · extract_lets +onlyGivenNames x5 x6 x7 x8 x9 x10
    clear_value x5 x6 x7 x8 x9 x10
    refine Only.after (writeNum_only _ _ _ _ _) (by decide) ?_
    exact h4
  · exact Only.refl _ _

theorem execHdgVote_only (s : State) :
    OnlyNext [.boot, .seq, .cck, .sdir, .evm, .recd, .mbx, .sec, .obs] s (execHdgVote s) := by
  unfold execHdgVote
  refine issue_only _ _ _ _ _ (by decide) ?_
  exact Only.mono (hdgVoteEffect_only _) (by decide)

theorem execMmul_only (a0 : BitVec 10) (s : State) :
    OnlyNext [.boot, .seq, .cck, .sdir, .evm, .recd, .sec] s (execMmul a0 s) := by
  unfold execMmul
  refine issue_only _ _ _ _ _ (by decide) ?_
  refine Only.ite ?_ ?_
  · exact Only.mono (mmulEffect_only _ _) (by decide)
  · exact Only.mono (breach_only _ _ _) (by decide)

theorem execRefVote_only (s : State) :
    OnlyNext [.boot, .seq, .cck, .sdir, .evm, .recd, .mbx, .sec, .obs] s (execRefVote s) := by
  unfold execRefVote
  refine issue_only _ _ _ _ _ (by decide) ?_
  exact Only.mono (refVoteEffect_only _) (by decide)

theorem windEffect_only (s : State) :
    Only [.sdir, .evm, .recd, .obs] s (windEffect s) := by
  unfold windEffect
  extract_lets +onlyGivenNames x1
  clear_value x1
  split
  · extract_lets +onlyGivenNames x2
    clear_value x2
    extract_lets +onlyGivenNames x3
    have h4 : Only [Part.sdir, Part.evm, Part.recd, Part.obs] s x3 := by
      subst x3
      refine Only.ite ?_ ?_
      · refine only_upd_obs _ (by decide) ?_
        exact Only.refl _ _
      · refine Only.after (raise_only _ _ _ _ _) (by decide) ?_
        refine only_upd_obs _ (by decide) ?_
        exact Only.refl _ _
    clear_value x3
    extract_lets +onlyGivenNames x5 x6
    clear_value x5 x6
    extract_lets +onlyGivenNames x7
    have h8 : Only [Part.sdir, Part.evm, Part.recd, Part.obs] s x7 := by
      subst x7
      refine Only.ite ?_ ?_
      · refine only_upd_obs _ (by decide) ?_
        exact h4
      · exact h4
    clear_value x7
    extract_lets +onlyGivenNames x9
    clear_value x9
    refine Only.ite ?_ ?_
    · extract_lets +onlyGivenNames x10 x11
      clear_value x10 x11
      refine Only.after (writeSig_only _ _ _ _ _) (by decide) ?_
      refine Only.after (writeSig_only _ _ _ _ _) (by decide) ?_
      refine Only.after (writeSig_only _ _ _ _ _) (by decide) ?_
      exact h8
    · refine Only.after (writeWind_only _ _) (by decide) ?_
      exact h8
  · extract_lets +onlyGivenNames x12 x13 x14 x15 x16 x17 x18
    clear_value x12 x13 x14 x15 x16 x17 x18
    refine Only.after (writeWind_only _ _) (by decide) ?_
    refine only_upd_obs _ (by decide) ?_
    exact Only.refl _ _

theorem execWind_only (s : State) :
    OnlyNext [.boot, .seq, .cck, .sdir, .evm, .recd, .sec, .obs] s (execWind s) := by
  unfold execWind
  refine issue_only _ _ _ _ _ (by decide) ?_
  exact Only.mono (windEffect_only _) (by decide)

theorem execMadd_only (a0 : BitVec 10) (s : State) :
    OnlyNext [.boot, .seq, .cck, .sdir, .evm, .recd, .sec] s (execMadd a0 s) := by
  unfold execMadd
  refine issue_only _ _ _ _ _ (by decide) ?_
  refine Only.ite ?_ ?_
  · exact Only.mono (maddEffect_only _ _) (by decide)
  · exact Only.mono (breach_only _ _ _) (by decide)

end Sys2Proof.Machine
end

