-- ==== Sys2Proof/Laws/FrameModes.lean ====
section
/-! SUPPORT. Sys2Proof/Laws/FrameModes.lean: which parts of the state each operation of Machine/Modes.lean changes. -/

set_option linter.unusedVariables false

namespace Sys2Proof.Machine

theorem setM_only (a0 : Bool) (a1 : ModeRec) (s : State) :
    Only [.modes] s (setM a0 a1 s) := by
  unfold setM
  refine Only.ite ?_ ?_
  · refine only_upd_modes _ (by decide) ?_
    exact Only.refl _ _
  · refine only_upd_modes _ (by decide) ?_
    exact Only.refl _ _

theorem abortHo_only (a0 : Bool) (a1 : ℕ) (s : State) :
    Only [.evm, .recd, .modes] s (abortHo a0 a1 s) := by
  unfold abortHo
  extract_lets +onlyGivenNames x1
  clear_value x1
  extract_lets +onlyGivenNames x2
  have h3 : Only [Part.evm, Part.recd, Part.modes] s x2 := by
    subst x2
    exact Only.mono (setM_only _ _ _) (by decide)
  clear_value x2
  refine Only.ite ?_ ?_
  · refine Only.after (raise_only _ _ _ _ _) (by decide) ?_
    exact h3
  · exact h3

theorem hoDone_only (a0 : Bool) (a1 : ModeRec) (s : State) :
    Only [.evm, .recd, .modes] s (hoDone a0 a1 s) := by
  unfold hoDone
  extract_lets +onlyGivenNames x1
  clear_value x1
  refine Only.after (raise_only _ _ _ _ _) (by decide) ?_
  exact Only.mono (setM_only _ _ _) (by decide)

theorem tauMixEffect_only (s : State) :
    Only [.sdir, .evm, .recd, .modes] s (tauMixEffect s) := by
  unfold tauMixEffect
  extract_lets +onlyGivenNames x1 x2 x3 x4
  clear_value x1 x2 x3 x4
  extract_lets +onlyGivenNames x5
  have h6 : Only [Part.sdir, Part.evm, Part.recd, Part.modes] s x5 := by
    subst x5
    refine Only.ite ?_ ?_
    · refine Only.ite ?_ ?_
      · exact Only.mono (abortHo_only _ _ _) (by decide)
      · exact Only.mono (setM_only _ _ _) (by decide)
    · exact Only.refl _ _
  clear_value x5
  extract_lets +onlyGivenNames x7 x8
  clear_value x7 x8
  extract_lets +onlyGivenNames x9
  have h10 : Only [Part.sdir, Part.evm, Part.recd, Part.modes] s x9 := by
    subst x9
    refine Only.ite ?_ ?_
    · refine Only.after (abortHo_only _ _ _) (by decide) ?_
      exact h6
    · refine Only.after (setM_only _ _ _) (by decide) ?_
      exact h6
  clear_value x9
  extract_lets +onlyGivenNames x11 x12 x13 x14 x15 x16 x17
  clear_value x11 x12 x13 x14 x15 x16 x17
  extract_lets +onlyGivenNames x18
  have h19 : Only [Part.sdir, Part.evm, Part.recd, Part.modes] s x18 := by
    subst x18
    refine only_upd_modes _ (by decide) ?_
    exact h10
  clear_value x18
  extract_lets +onlyGivenNames x20
  have h21 : Only [Part.sdir, Part.evm, Part.recd, Part.modes] s x20 := by
    subst x20
    refine Only.foldl _ _ _ (fun u22 y h23 => ?_) ?_
    · refine Only.after (writeNum_only _ _ _ _ _) (by decide) ?_
      exact h23
    · exact h19
  clear_value x20
  extract_lets +onlyGivenNames x24 x25
  clear_value x24 x25
  extract_lets +onlyGivenNames x26
  have h27 : Only [Part.sdir, Part.evm, Part.recd, Part.modes] s x26 := by
    subst x26
    refine Only.ite ?_ ?_
    · refine Only.after (hoDone_only _ _ _) (by decide) ?_
      exact h21
    · exact h21
  clear_value x26
  extract_lets +onlyGivenNames x28
  clear_value x28
  refine Only.ite ?_ ?_
  · refine Only.after (hoDone_only _ _ _) (by decide) ?_
    exact h27
  · exact h27

theorem execTauMix_only (s : State) :
    OnlyNext [.boot, .seq, .cck, .sdir, .evm, .recd, .sec, .modes] s (execTauMix s) := by
  unfold execTauMix
  refine issue_only _ _ _ _ _ (by decide) ?_
  exact Only.mono (tauMixEffect_only _) (by decide)

theorem writeV_only (a0 : ℕ) (a1 : QV) (a2 : Word) (s : State) :
    Only [.sdir, .evm, .recd] s (writeV a0 a1 a2 s) := by
  unfold writeV
  exact Only.mono (writeNum_only _ _ _ _ _) (by decide)

theorem putPt_only (a0 : ℕ) (a1 : SetPoint) (s : State) :
    Only [.modes] s (putPt a0 a1 s) := by
  unfold putPt
  refine only_upd_modes _ (by decide) ?_
  exact Only.refl _ _

theorem modeReqHandler_only (a0 : ℕ) (a1 : ℕ) (a2 : ℕ) (s : State) :
    Only [.evm, .recd, .mbx, .modes] s (modeReqHandler a0 a1 a2 s) := by
  unfold modeReqHandler
  refine Only.ite ?_ ?_
  · exact Only.mono (completeMbx_only _ _ _) (by decide)
  · refine only_upd_modes _ (by decide) ?_
    exact Only.refl _ _

theorem execModeReqSwitch_only (a0 : BitVec 4) (a1 : BitVec 8) (s : State) :
    OnlyNext [.evm, .recd, .mbx, .modes] s (execModeReqSwitch a0 a1 s) := by
  unfold execModeReqSwitch
  refine OnlyNext.next ?_
  exact Only.mono (modeReqHandler_only _ _ _ _) (by decide)

theorem setPlan_only (a0 : ℕ) (a1 : Plan) (s : State) :
    Only [.modes] s (setPlan a0 a1 s) := by
  unfold setPlan
  refine Only.ite ?_ ?_
  · refine only_upd_modes _ (by decide) ?_
    exact Only.refl _ _
  · refine only_upd_modes _ (by decide) ?_
    exact Only.refl _ _

theorem planStep_only (a0 : ℕ) (a1 : ℕ) (s : State) :
    Only [.evm, .recd, .modes] s (planStep a0 a1 s) := by
  unfold planStep
  extract_lets +onlyGivenNames x1 x2 x3 x4 x5 x6
  clear_value x1 x2 x3 x4 x5 x6
  extract_lets +onlyGivenNames x7
  extract_lets +onlyGivenNames x8 x9 x10
  clear_value x8 x9 x10
  refine Only.ite ?_ ?_
  · extract_lets +onlyGivenNames x11
    clear_value x11
    exact Only.mono (setPlan_only _ _ _) (by decide)
  · extract_lets +onlyGivenNames x12 x13 x14 x15
    clear_value x12 x13 x14 x15
    extract_lets +onlyGivenNames x16
    have h17 : Only [Part.evm, Part.recd, Part.modes] s x16 := by
      subst x16
      exact Only.mono (setPlan_only _ _ _) (by decide)
    clear_value x16
    extract_lets +onlyGivenNames x18
    have h19 : Only [Part.evm, Part.recd, Part.modes] s x18 := by
      subst x18
      refine Only.ite ?_ ?_
      · refine Only.after (raise_only _ _ _ _ _) (by decide) ?_
        exact h17
      · exact h17
    clear_value x18
    refine Only.ite ?_ ?_
    · refine Only.after (raise_only _ _ _ _ _) (by decide) ?_
      exact h19
    · exact h19

theorem seatTakeEffect_only (a0 : ℕ) (s : State) :
    Only [.sdir, .evm, .recd, .modes] s (seatTakeEffect a0 s) := by
  unfold seatTakeEffect
  extract_lets +onlyGivenNames x1 x2 x3 x4
  clear_value x1 x2 x3 x4
  extract_lets +onlyGivenNames x5
  have h6 : Only [Part.sdir, Part.evm, Part.recd, Part.modes] s x5 := by
    subst x5
    exact Only.mono (planStep_only _ _ _) (by decide)
  clear_value x5
  extract_lets +onlyGivenNames x7
  subst x7
  beta_reduce
  extract_lets +onlyGivenNames x8
  clear_value x8
  refine Only.ite ?_ ?_
  · extract_lets +onlyGivenNames x9 x10
    clear_value x9 x10
    split
    · refine Only.foldl _ _ _ (fun u11 y h12 => ?_) ?_
      · refine Only.after (writeV_only _ _ _ _) (by decide) ?_
        exact h12
      · exact h6
    · refine Only.foldl _ _ _ (fun u13 y h14 => ?_) ?_
      · refine Only.after (writeV_only _ _ _ _) (by decide) ?_
        exact h14
      · exact h6
  · refine Only.ite ?_ ?_
    · extract_lets +onlyGivenNames x15
      clear_value x15
      refine Only.foldl _ _ _ (fun u16 y h17 => ?_) ?_
      · refine Only.after (writeV_only _ _ _ _) (by decide) ?_
        exact h17
      · exact h6
    · refine Only.foldl _ _ _ (fun u18 y h19 => ?_) ?_
      · refine Only.after (writeV_only _ _ _ _) (by decide) ?_
        exact h19
      · exact h6

theorem execSeatTake_only (a0 : BitVec 1) (s : State) :
    OnlyNext [.boot, .seq, .cck, .sdir, .evm, .recd, .sec, .modes] s (execSeatTake a0 s) := by
  unfold execSeatTake
  refine issue_only _ _ _ _ _ (by decide) ?_
  exact Only.mono (seatTakeEffect_only _ _) (by decide)

theorem armTimeout_only (s : State) :
    Only [.evm, .recd, .modes] s (armTimeout s) := by
  unfold armTimeout
  extract_lets +onlyGivenNames x1
  clear_value x1
  refine Only.ite ?_ ?_
  · exact Only.mono (abortHo_only _ _ _) (by decide)
  · exact Only.refl _ _

theorem execArmTimeout_only (s : State) :
    OnlyNext [.evm, .recd, .modes] s (execArmTimeout s) := by
  unfold execArmTimeout
  refine OnlyNext.next ?_
  refine Only.ite ?_ ?_
  · exact Only.mono (armTimeout_only _) (by decide)
  · exact Only.refl _ _

theorem writeOrigin_only (a0 : Word) (a1 : Word) (s : State) :
    Only [.sdir, .evm, .recd, .obs, .modes] s (writeOrigin a0 a1 s) := by
  unfold writeOrigin
  extract_lets +onlyGivenNames x1 x2 x3 x4 x5 x6 x7
  clear_value x1 x2 x3 x4 x5 x6 x7
  extract_lets +onlyGivenNames x8
  have h9 : Only [Part.sdir, Part.evm, Part.recd, Part.obs, Part.modes] s x8 := by
    subst x8
    refine Only.after (writeSig_only _ _ _ _ _) (by decide) ?_
    exact Only.mono (writeSig_only _ _ _ _ _) (by decide)
  clear_value x8
  extract_lets +onlyGivenNames x10
  clear_value x10
  extract_lets +onlyGivenNames x11
  have h12 : Only [Part.sdir, Part.evm, Part.recd, Part.obs, Part.modes] s x11 := by
    subst x11
    refine only_upd_modes _ (by decide) ?_
    exact h9
  clear_value x11
  refine Only.ite ?_ ?_
  · exact h12
  · refine only_upd_modes _ (by decide) ?_
    exact h12

theorem origin_only (a0 : Bool) (s : State) :
    Only [.sdir, .evm, .recd, .obs, .modes] s (origin a0 s) := by
  unfold origin
  extract_lets +onlyGivenNames x1 x2 x3 x4
  clear_value x1 x2 x3 x4
  extract_lets +onlyGivenNames x5
  have h6 : Only [Part.sdir, Part.evm, Part.recd, Part.obs, Part.modes] s x5 := by
    subst x5
    refine only_upd_modes _ (by decide) ?_
    exact Only.refl _ _
  clear_value x5
  refine Only.ite ?_ ?_
  · split
    · refine Only.after (writeOrigin_only _ _ _) (by decide) ?_
      exact h6
    · exact h6
  · refine Only.ite ?_ ?_
    · exact h6
    · refine Only.ite ?_ ?_
      · refine Only.after (writeOrigin_only _ _ _) (by decide) ?_
        exact h6
      · refine Only.after (raise_only _ _ _ _ _) (by decide) ?_
        exact h6

theorem armMode_only (a0 : Bool) (a1 : ℕ) (a2 : ℕ) (s : State) :
    Only [.evm, .recd, .modes] s (armMode a0 a1 a2 s) := by
  unfold armMode
  extract_lets +onlyGivenNames x1
  clear_value x1
  refine Only.after (raise_only _ _ _ _ _) (by decide) ?_
  exact Only.mono (setM_only _ _ _) (by decide)

theorem captureSp_only (a0 : Bool) (a1 : ℕ) (a2 : Bool) (s : State) :
    Only [.modes] s (captureSp a0 a1 a2 s) := by
  unfold captureSp
  refine Only.ite ?_ ?_
  · extract_lets +onlyGivenNames x1 x2
    clear_value x1 x2
    exact Only.mono (putPt_only _ _ _) (by decide)
  · exact Only.refl _ _

theorem switchMode_only (a0 : Bool) (s : State) :
    Only [.evm, .recd, .modes] s (switchMode a0 s) := by
  unfold switchMode
  extract_lets +onlyGivenNames x1 x2 x3 x4 x5
  clear_value x1 x2 x3 x4 x5
  extract_lets +onlyGivenNames x6
  have h7 : Only [Part.evm, Part.recd, Part.modes] s x6 := by
    subst x6
    exact Only.mono (captureSp_only _ _ _ _) (by decide)
  clear_value x6
  extract_lets +onlyGivenNames x8
  have h9 : Only [Part.evm, Part.recd, Part.modes] s x8 := by
    subst x8
    refine Only.after (setM_only _ _ _) (by decide) ?_
    exact h7
  clear_value x8
  extract_lets +onlyGivenNames x10
  clear_value x10
  extract_lets +onlyGivenNames x11
  have h12 : Only [Part.evm, Part.recd, Part.modes] s x11 := by
    subst x11
    refine only_upd_modes _ (by decide) ?_
    exact h9
  clear_value x11
  refine Only.after (raise_only _ _ _ _ _) (by decide) ?_
  refine Only.after (raise_only _ _ _ _ _) (by decide) ?_
  exact h12

theorem disarm_only (a0 : Bool) (a1 : ℕ) (s : State) :
    Only [.evm, .recd, .modes] s (disarm a0 a1 s) := by
  unfold disarm
  refine Only.ite ?_ ?_
  · exact Only.refl _ _
  · exact Only.mono (abortHo_only _ _ _) (by decide)

theorem enterSim_only (a0 : ℕ) (s : State) :
    Only [.modes] s (enterSim a0 s) := by
  unfold enterSim
  refine Only.ite ?_ ?_
  · refine only_upd_modes _ (by decide) ?_
    exact Only.refl _ _
  · exact Only.refl _ _

theorem directMode_only (a0 : Bool) (a1 : ℕ) (s : State) :
    Only [.evm, .recd, .modes] s (directMode a0 a1 s) := by
  unfold directMode
  extract_lets +onlyGivenNames x1
  have h2 : Only [Part.evm, Part.recd, Part.modes] s x1 := by
    subst x1
    refine Only.ite ?_ ?_
    · exact Only.refl _ _
    · exact Only.mono (disarm_only _ _ _) (by decide)
  clear_value x1
  extract_lets +onlyGivenNames x3
  clear_value x3
  extract_lets +onlyGivenNames x4
  have h5 : Only [Part.evm, Part.recd, Part.modes] s x4 := by
    subst x4
    refine Only.after (setM_only _ _ _) (by decide) ?_
    exact h2
  clear_value x4
  extract_lets +onlyGivenNames x6
  have h7 : Only [Part.evm, Part.recd, Part.modes] s x6 := by
    subst x6
    refine Only.after (captureSp_only _ _ _ _) (by decide) ?_
    exact h5
  clear_value x6
  refine Only.after (raise_only _ _ _ _ _) (by decide) ?_
  refine Only.ite ?_ ?_
  · exact h7
  · refine Only.after (enterSim_only _ _) (by decide) ?_
    exact h7

theorem doRequest_only (a0 : Bool) (a1 : ℕ) (a2 : ℕ) (a3 : ℕ) (s : State) :
    Only [.evm, .recd, .modes] s (doRequest a0 a1 a2 a3 s) := by
  unfold doRequest
  split
  · exact Only.mono (armMode_only _ _ _ _) (by decide)
  · refine Only.ite ?_ ?_
    · exact Only.refl _ _
    · exact Only.mono (switchMode_only _ _) (by decide)
  · exact Only.mono (disarm_only _ _ _) (by decide)
  · exact Only.mono (directMode_only _ _ _) (by decide)

theorem takeRequest_only (a0 : ℕ) (a1 : ℕ) (a2 : ℕ) (a3 : Bool) (s : State) :
    Only [.evm, .recd, .modes] s (takeRequest a0 a1 a2 a3 s).1 := by
  unfold takeRequest
  extract_lets +onlyGivenNames x1 x2
  clear_value x1 x2
  extract_lets +onlyGivenNames x3
  have h4 : Only [Part.evm, Part.recd, Part.modes] s x3 := by
    subst x3
    refine only_upd_modes _ (by decide) ?_
    exact Only.refl _ _
  clear_value x3
  refine Only.fst_ite ?_ ?_
  · refine Only.fst_mk ?_
    refine Only.after (doRequest_only _ _ _ _ _) (by decide) ?_
    exact h4
  · refine Only.fst_mk ?_
    refine Only.after (raise_only _ _ _ _ _) (by decide) ?_
    exact h4

theorem fallbacks_only (a0 : Bool) (s : State) :
    Only [.evm, .recd, .modes] s (fallbacks a0 s).1 := by
  unfold fallbacks
  extract_lets +onlyGivenNames x1 x2 x3
  clear_value x1 x2 x3
  refine Only.fst_ite ?_ ?_
  · refine Only.fst_mk ?_
    exact Only.mono (abortHo_only _ _ _) (by decide)
  · refine Only.fst_ite ?_ ?_
    · refine Only.fst_mk ?_
      refine Only.ite ?_ ?_
      · exact Only.mono (setM_only _ _ _) (by decide)
      · exact Only.refl _ _
    · refine Only.fst_ite ?_ ?_
      · refine Only.fst_mk ?_
        exact Only.mono (setM_only _ _ _) (by decide)
      · extract_lets +onlyGivenNames x4 x5
        clear_value x4 x5
        refine Only.fst_ite ?_ ?_
        · extract_lets +onlyGivenNames x6
          have h7 : Only [Part.evm, Part.recd, Part.modes] s x6 := by
            subst x6
            refine Only.after (raise_only _ _ _ _ _) (by decide) ?_
            exact Only.mono (disarm_only _ _ _) (by decide)
          clear_value x6
          refine Only.fst_mk ?_
          refine Only.after (switchMode_only _ _) (by decide) ?_
          refine Only.after (setM_only _ _ _) (by decide) ?_
          exact h7
        · refine Only.fst_ite ?_ ?_
          · refine Only.fst_mk ?_
            refine Only.after (directMode_only _ _ _) (by decide) ?_
            exact Only.mono (raise_only _ _ _ _ _) (by decide)
          · refine Only.fst_ite ?_ ?_
            · refine Only.fst_mk ?_
              exact Only.refl _ _
            · extract_lets +onlyGivenNames x8
              have h9 : Only [Part.evm, Part.recd, Part.modes] s x8 := by
                subst x8
                exact Only.mono (disarm_only _ _ _) (by decide)
              clear_value x8
              refine Only.fst_mk ?_
              refine Only.after (raise_only _ _ _ _ _) (by decide) ?_
              refine Only.after (setM_only _ _ _) (by decide) ?_
              exact h9

theorem writeModeGroup_only (a0 : ℕ) (s : State) :
    Only [.sdir, .evm, .recd] s (writeModeGroup a0 s) := by
  unfold writeModeGroup
  extract_lets +onlyGivenNames x1 x2 x3
  clear_value x1 x2 x3
  extract_lets +onlyGivenNames x4
  have h5 : Only [Part.sdir, Part.evm, Part.recd] s x4 := by
    subst x4
    exact Only.mono (writeSig_only _ _ _ _ _) (by decide)
  clear_value x4
  extract_lets +onlyGivenNames x6
  have h7 : Only [Part.sdir, Part.evm, Part.recd] s x6 := by
    subst x6
    refine Only.after (writeSig_only _ _ _ _ _) (by decide) ?_
    exact h5
  clear_value x6
  extract_lets +onlyGivenNames x8
  have h9 : Only [Part.sdir, Part.evm, Part.recd] s x8 := by
    subst x8
    refine Only.after (writeNum_only _ _ _ _ _) (by decide) ?_
    exact h7
  clear_value x8
  extract_lets +onlyGivenNames x10
  have h11 : Only [Part.sdir, Part.evm, Part.recd] s x10 := by
    subst x10
    refine Only.after (writeSig_only _ _ _ _ _) (by decide) ?_
    exact h9
  clear_value x10
  extract_lets +onlyGivenNames x12
  have h13 : Only [Part.sdir, Part.evm, Part.recd] s x12 := by
    subst x12
    refine Only.after (writeSig_only _ _ _ _ _) (by decide) ?_
    exact h11
  clear_value x12
  extract_lets +onlyGivenNames x14
  have h15 : Only [Part.sdir, Part.evm, Part.recd] s x14 := by
    subst x14
    refine Only.after (writeSig_only _ _ _ _ _) (by decide) ?_
    exact h13
  clear_value x14
  extract_lets +onlyGivenNames x16
  have h17 : Only [Part.sdir, Part.evm, Part.recd] s x16 := by
    subst x16
    refine Only.after (writeSig_only _ _ _ _ _) (by decide) ?_
    exact h15
  clear_value x16
  refine Only.after (writeSig_only _ _ _ _ _) (by decide) ?_
  exact h17

theorem execModeReqDisarm_only (a0 : BitVec 4) (a1 : BitVec 8) (s : State) :
    OnlyNext [.evm, .recd, .mbx, .modes] s (execModeReqDisarm a0 a1 s) := by
  unfold execModeReqDisarm
  refine OnlyNext.next ?_
  exact Only.mono (modeReqHandler_only _ _ _ _) (by decide)

theorem modeImport_only (s : State) :
    Only [.sdir, .evm, .recd, .modes, .pack] s (modeImport s) := by
  unfold modeImport
  extract_lets +onlyGivenNames x1
  have h2 : Only [Part.sdir, Part.evm, Part.recd, Part.modes, Part.pack] s x1.2 := by
    subst x1
    exact Only.mono (eqTake_only _ _ _) (by decide)
  clear_value x1
  split
  · extract_lets +onlyGivenNames x3
    have h4 : Only [Part.sdir, Part.evm, Part.recd, Part.modes, Part.pack] s x3 := by
      subst x3
      refine Only.ite ?_ ?_
      · exact h2
      · refine Only.after (enterSim_only _ _) (by decide) ?_
        exact h2
    clear_value x3
    extract_lets +onlyGivenNames x5
    clear_value x5
    extract_lets +onlyGivenNames x6
    have h7 : Only [Part.sdir, Part.evm, Part.recd, Part.modes, Part.pack] s x6 := by
      subst x6
      refine Only.after (setM_only _ _ _) (by decide) ?_
      exact h4
    clear_value x6
    extract_lets +onlyGivenNames x8
    clear_value x8
    extract_lets +onlyGivenNames x9
    have h10 : Only [Part.sdir, Part.evm, Part.recd, Part.modes, Part.pack] s x9 := by
      subst x9
      refine only_upd_modes _ (by decide) ?_
      exact h7
    clear_value x9
    refine Only.ite ?_ ?_
    · extract_lets +onlyGivenNames x11
      clear_value x11
      refine Only.after (writeSig_only _ _ _ _ _) (by decide) ?_
      refine Only.after (writeSig_only _ _ _ _ _) (by decide) ?_
      exact h10
    · exact h10
  · exact h2

theorem signalRequest_only (s : State) :
    Only [.modes] s (signalRequest s).2 := by
  unfold signalRequest
  extract_lets +onlyGivenNames x1 x2
  clear_value x1 x2
  extract_lets +onlyGivenNames x3
  extract_lets +onlyGivenNames x4
  clear_value x4
  extract_lets +onlyGivenNames x5
  have h6 : Only [Part.modes] s x5 := by
    subst x5
    refine only_upd_modes _ (by decide) ?_
    exact Only.refl _ _
  clear_value x5
  refine Only.snd_ite ?_ ?_
  · refine Only.snd_mk ?_
    exact h6
  · refine Only.snd_mk ?_
    exact h6

theorem countArm_only (a0 : ℕ) (s : State) :
    Only [.evm, .recd, .modes] s (countArm a0 s) := by
  unfold countArm
  extract_lets +onlyGivenNames x1
  clear_value x1
  refine Only.ite ?_ ?_
  · extract_lets +onlyGivenNames x2
    have h3 : Only [Part.evm, Part.recd, Part.modes] s x2 := by
      subst x2
      exact Only.mono (setM_only _ _ _) (by decide)
    clear_value x2
    refine Only.ite ?_ ?_
    · refine Only.after (armTimeout_only _) (by decide) ?_
      exact h3
    · exact h3
  · exact Only.refl _ _

theorem simRequest_only (a0 : Bool) (s : State) :
    Only [.evm, .recd, .modes] s (simRequest a0 s) := by
  unfold simRequest
  extract_lets +onlyGivenNames x1 x2
  clear_value x1 x2
  refine Only.ite ?_ ?_
  · exact Only.refl _ _
  · refine Only.ite ?_ ?_
    · exact Only.mono (disarm_only _ _ _) (by decide)
    · extract_lets +onlyGivenNames x3
      have h4 : Only [Part.evm, Part.recd, Part.modes] s x3 := by
        subst x3
        exact Only.mono (disarm_only _ _ _) (by decide)
      clear_value x3
      extract_lets +onlyGivenNames x5
      have h6 : Only [Part.evm, Part.recd, Part.modes] s x5 := by
        subst x5
        refine Only.ite ?_ ?_
        · exact Only.refl _ _
        · refine Only.ite ?_ ?_
          · refine Only.after (armMode_only _ _ _ _) (by decide) ?_
            exact h4
          · exact h4
      clear_value x5
      extract_lets +onlyGivenNames x7
      clear_value x7
      refine Only.ite ?_ ?_
      · refine Only.after (switchMode_only _ _) (by decide) ?_
        exact h6
      · exact h6

theorem newSetPoint_only (a0 : Bool) (s : State) :
    Only [.evm, .recd, .modes] s (newSetPoint a0 s) := by
  unfold newSetPoint
  extract_lets +onlyGivenNames x1 x2 x3 x4
  clear_value x1 x2 x3 x4
  extract_lets +onlyGivenNames x5
  have h6 : Only [Part.evm, Part.recd, Part.modes] s x5 := by
    subst x5
    refine only_upd_modes _ (by decide) ?_
    exact Only.refl _ _
  clear_value x5
  refine Only.ite ?_ ?_
  · exact h6
  · extract_lets +onlyGivenNames x7 x8 x9
    clear_value x7 x8 x9
    refine Only.ite ?_ ?_
    · exact h6
    · extract_lets +onlyGivenNames x10 x11 x12 x13 x14 x15 x16 x17
      clear_value x10 x11 x12 x13 x14 x15 x16 x17
      refine Only.ite ?_ ?_
      · refine Only.after (raise_only _ _ _ _ _) (by decide) ?_
        exact h6
      · extract_lets +onlyGivenNames x18
        have h19 : Only [Part.evm, Part.recd, Part.modes] s x18 := by
          subst x18
          refine Only.after (putPt_only _ _ _) (by decide) ?_
          exact h6
        clear_value x18
        extract_lets +onlyGivenNames x20
        clear_value x20
        extract_lets +onlyGivenNames x21
        have h22 : Only [Part.evm, Part.recd, Part.modes] s x21 := by
          subst x21
          refine Only.ite ?_ ?_
          · refine Only.ite ?_ ?_
            · refine only_upd_modes _ (by decide) ?_
              exact h19
            · refine only_upd_modes _ (by decide) ?_
              exact h19
          · exact h19
        clear_value x21
        refine Only.after (raise_only _ _ _ _ _) (by decide) ?_
        exact h22

theorem modeStepEffect_only (s : State) :
    Only [.sdir, .evm, .recd, .mbx, .obs, .modes, .pack] s (modeStepEffect s) := by
  unfold modeStepEffect
  extract_lets +onlyGivenNames x1
  have h2 : Only [Part.sdir, Part.evm, Part.recd, Part.mbx, Part.obs, Part.modes, Part.pack] s x1 := by
    subst x1
    exact Only.mono (modeImport_only _) (by decide)
  clear_value x1
  extract_lets +onlyGivenNames x3
  clear_value x3
  extract_lets +onlyGivenNames x4
  have h5 : Only [Part.sdir, Part.evm, Part.recd, Part.mbx, Part.obs, Part.modes, Part.pack] s x4 := by
    subst x4
    refine Only.ite ?_ ?_
    · refine Only.after (setM_only _ _ _) (by decide) ?_
      exact h2
    · exact h2
  clear_value x4
  extract_lets +onlyGivenNames x6
  extract_lets +onlyGivenNames x7
  have h8 : Only [Part.sdir, Part.evm, Part.recd, Part.mbx, Part.obs, Part.modes, Part.pack] s x7.2 := by
    subst x7
    refine Only.after (signalRequest_only _) (by decide) ?_
    exact h5
  clear_value x7
  extract_lets +onlyGivenNames x9
  have h10 : Only [Part.sdir, Part.evm, Part.recd, Part.mbx, Part.obs, Part.modes, Part.pack] s x9 := by
    subst x9
    exact h8
  clear_value x9
  extract_lets +onlyGivenNames x11
  clear_value x11
  extract_lets +onlyGivenNames x12
  have h13 : Only [Part.sdir, Part.evm, Part.recd, Part.mbx, Part.obs, Part.modes, Part.pack] s x12.1 := by
    subst x12
    refine Only.fst_ite ?_ ?_
    · refine Only.after (fallbacks_only _ _) (by decide) ?_
      exact h10
    · refine Only.fst_mk ?_
      exact h10
  clear_value x12
  extract_lets +onlyGivenNames x14
  have h15 : Only [Part.sdir, Part.evm, Part.recd, Part.mbx, Part.obs, Part.modes, Part.pack] s x14 := by
    subst x14
    exact h13
  clear_value x14
  extract_lets +onlyGivenNames x16 x17
  clear_value x16 x17
  extract_lets +onlyGivenNames x18
  have h19 : Only [Part.sdir, Part.evm, Part.recd, Part.mbx, Part.obs, Part.modes, Part.pack] s x18 := by
    subst x18
    split
    · extract_lets +onlyGivenNames x20
      have h21 : Only [Part.sdir, Part.evm, Part.recd, Part.mbx, Part.obs, Part.modes, Part.pack] s x20 := by
        subst x20
        refine Only.after (takeRequest_only _ _ _ _ _) (by decide) ?_
        exact h15
      clear_value x20
      split
      · refine Only.after (completeMbx_only _ _ _) (by decide) ?_
        refine only_upd_modes _ (by decide) ?_
        exact h21
      · exact h21
    · split
      · extract_lets +onlyGivenNames x22
        have h23 : Only [Part.sdir, Part.evm, Part.recd, Part.mbx, Part.obs, Part.modes, Part.pack] s x22.1 := by
          subst x22
          refine Only.after (takeRequest_only _ _ _ _ _) (by decide) ?_
          refine only_upd_modes _ (by decide) ?_
          exact h15
        clear_value x22
        refine Only.after (completeMbx_only _ _ _) (by decide) ?_
        exact h23
      · exact h15
  clear_value x18
  extract_lets +onlyGivenNames x24
  have h25 : Only [Part.sdir, Part.evm, Part.recd, Part.mbx, Part.obs, Part.modes, Part.pack] s x24 := by
    subst x24
    refine Only.ite ?_ ?_
    · refine Only.after (countArm_only _ _) (by decide) ?_
      exact h19
    · exact h19
  clear_value x24
  extract_lets +onlyGivenNames x26
  have h27 : Only [Part.sdir, Part.evm, Part.recd, Part.mbx, Part.obs, Part.modes, Part.pack] s x26.1 := by
    subst x26
    refine Only.after (fallbacks_only _ _) (by decide) ?_
    exact h25
  clear_value x26
  extract_lets +onlyGivenNames x28
  have h29 : Only [Part.sdir, Part.evm, Part.recd, Part.mbx, Part.obs, Part.modes, Part.pack] s x28 := by
    subst x28
    refine Only.ite ?_ ?_
    · refine Only.after (simRequest_only _ _) (by decide) ?_
      exact h27
    · exact h25
  clear_value x28
  extract_lets +onlyGivenNames x30
  have h31 : Only [Part.sdir, Part.evm, Part.recd, Part.mbx, Part.obs, Part.modes, Part.pack] s x30 := by
    subst x30
    refine Only.after (origin_only _ _) (by decide) ?_
    refine Only.after (newSetPoint_only _ _) (by decide) ?_
    exact h29
  clear_value x30
  extract_lets +onlyGivenNames x32
  extract_lets +onlyGivenNames x33
  have h34 : Only [Part.sdir, Part.evm, Part.recd, Part.mbx, Part.obs, Part.modes, Part.pack] s x33 := by
    subst x33
    refine Only.after (writeSig_only _ _ _ _ _) (by decide) ?_
    exact h31
  clear_value x33
  refine Only.after (writeModeGroup_only _ _) (by decide) ?_
  exact h34

theorem execModeStep_only (s : State) :
    OnlyNext [.boot, .seq, .cck, .sdir, .evm, .recd, .mbx, .sec, .obs, .modes, .pack] s (execModeStep s) := by
  unfold execModeStep
  refine issue_only _ _ _ _ _ (by decide) ?_
  exact Only.mono (modeStepEffect_only _) (by decide)

theorem seatFeedEffect_only (a0 : ℕ) (s : State) :
    Only [.sdir, .evm, .recd] s (seatFeedEffect a0 s) := by
  unfold seatFeedEffect
  extract_lets +onlyGivenNames x1 x2 x3 x4 x5 x6 x7 x8
  clear_value x1 x2 x3 x4 x5 x6 x7 x8
  extract_lets +onlyGivenNames x9
  have h10 : Only [Part.sdir, Part.evm, Part.recd] s x9 := by
    subst x9
    refine Only.foldl _ _ _ (fun u11 y h12 => ?_) ?_
    · refine Only.after (writeV_only _ _ _ _) (by decide) ?_
      exact h12
    · exact Only.refl _ _
  clear_value x9
  refine Only.after (writeSig_only _ _ _ _ _) (by decide) ?_
  refine Only.after (writeSig_only _ _ _ _ _) (by decide) ?_
  exact h10

theorem execModeReqDirect_only (a0 : BitVec 4) (a1 : BitVec 8) (s : State) :
    OnlyNext [.evm, .recd, .mbx, .modes] s (execModeReqDirect a0 a1 s) := by
  unfold execModeReqDirect
  refine OnlyNext.next ?_
  exact Only.mono (modeReqHandler_only _ _ _ _) (by decide)

theorem execSeatFeed_only (a0 : BitVec 1) (s : State) :
    OnlyNext [.boot, .seq, .cck, .sdir, .evm, .recd, .sec] s (execSeatFeed a0 s) := by
  unfold execSeatFeed
  refine issue_only _ _ _ _ _ (by decide) ?_
  exact Only.mono (seatFeedEffect_only _ _) (by decide)

theorem execModeReqArm_only (a0 : BitVec 4) (a1 : BitVec 8) (s : State) :
    OnlyNext [.evm, .recd, .mbx, .modes] s (execModeReqArm a0 a1 s) := by
  unfold execModeReqArm
  refine OnlyNext.next ?_
  exact Only.mono (modeReqHandler_only _ _ _ _) (by decide)

end Sys2Proof.Machine
end

