-- ==== Sys2Proof/Laws/FrameAlloc.lean ====
section
/-! SUPPORT. Sys2Proof/Laws/FrameAlloc.lean: which parts of the state each operation of Machine/Alloc.lean changes. -/

set_option linter.unusedVariables false

namespace Sys2Proof.Machine

theorem pwrImport_only (s : State) :
    Only [.sdir, .evm, .recd, .modes, .pack] s (pwrImport s) := by
  unfold pwrImport
  extract_lets +onlyGivenNames x1
  have h2 : Only [Part.sdir, Part.evm, Part.recd, Part.modes, Part.pack] s x1.2 := by
    subst x1
    exact Only.mono (eqTake_only _ _ _) (by decide)
  clear_value x1
  split
  · extract_lets +onlyGivenNames x3
    have h4 : Only [Part.sdir, Part.evm, Part.recd, Part.modes, Part.pack] s x3 := by
      subst x3
      exact h2
    clear_value x3
    extract_lets +onlyGivenNames x5 x6
    clear_value x5 x6
    extract_lets +onlyGivenNames x7
    have h8 : Only [Part.sdir, Part.evm, Part.recd, Part.modes, Part.pack] s x7 := by
      subst x7
      refine only_upd_modes _ (by decide) ?_
      exact h4
    clear_value x7
    refine Only.foldl _ _ _ (fun u9 y h10 => ?_) ?_
    · extract_lets +onlyGivenNames x11 x12
      clear_value x11 x12
      extract_lets +onlyGivenNames x13
      have h14 : Only [Part.sdir, Part.evm, Part.recd, Part.modes, Part.pack] s x13 := by
        subst x13
        refine Only.ite ?_ ?_
        · refine Only.after (writeSig_only _ _ _ _ _) (by decide) ?_
          exact h10
        · exact h10
      clear_value x13
      extract_lets +onlyGivenNames x15
      have h16 : Only [Part.sdir, Part.evm, Part.recd, Part.modes, Part.pack] s x15 := by
        subst x15
        refine Only.ite ?_ ?_
        · refine Only.ite ?_ ?_
          · refine Only.after (writeSig_only _ _ _ _ _) (by decide) ?_
            exact h14
          · exact h14
        · exact h10
      clear_value x15
      extract_lets +onlyGivenNames x17
      have h18 : Only [Part.sdir, Part.evm, Part.recd, Part.modes, Part.pack] s x17 := by
        subst x17
        refine Only.foldl _ _ _ (fun u19 y h20 => ?_) ?_
        · refine Only.after (writeSig_only _ _ _ _ _) (by decide) ?_
          exact h20
        · exact h16
      clear_value x17
      refine Only.foldl _ _ _ (fun u21 y h22 => ?_) ?_
      · refine Only.after (writeSig_only _ _ _ _ _) (by decide) ?_
        exact h22
      · exact h18
    · exact h8
  · exact h2

theorem writeSide_only (a0 : ℕ) (a1 : ℕ) (a2 : Bool) (s : State) :
    Only [.sdir, .evm, .recd] s (writeSide a0 a1 a2 s) := by
  unfold writeSide
  exact Only.mono (writeSig_only _ _ _ _ _) (by decide)

theorem firstSide_only (a0 : ℕ) (s : State) :
    Only [.sdir, .evm, .recd, .modes] s (firstSide a0 s) := by
  unfold firstSide
  refine Only.ite ?_ ?_
  · exact Only.refl _ _
  · extract_lets +onlyGivenNames x1
    clear_value x1
    extract_lets +onlyGivenNames x2
    have h3 : Only [Part.sdir, Part.evm, Part.recd, Part.modes] s x2 := by
      subst x2
      refine Only.foldl _ _ _ (fun u4 y h5 => ?_) ?_
      · refine Only.after (writeSide_only _ _ _ _) (by decide) ?_
        exact h5
      · exact Only.refl _ _
    clear_value x2
    refine only_upd_modes _ (by decide) ?_
    exact h3

theorem allocLost_only (s : State) :
    Only [.evm, .recd, .modes] s (allocLost s) := by
  unfold allocLost
  refine Only.ite ?_ ?_
  · refine Only.after (raise_only _ _ _ _ _) (by decide) ?_
    refine only_upd_modes _ (by decide) ?_
    exact Only.refl _ _
  · exact Only.refl _ _

theorem sectorSide_only (a0 : ℕ) (a1 : ℕ) (a2 : Word) (s : State) :
    Only [.sdir, .evm, .recd, .modes] s (sectorSide a0 a1 a2 s) := by
  unfold sectorSide
  extract_lets +onlyGivenNames x1 x2 x3 x4 x5 x6 x7 x8 x9 x10
  clear_value x1 x2 x3 x4 x5 x6 x7 x8 x9 x10
  extract_lets +onlyGivenNames x11
  have h12 : Only [Part.sdir, Part.evm, Part.recd, Part.modes] s x11 := by
    subst x11
    refine Only.after (writeSide_only _ _ _ _) (by decide) ?_
    refine only_upd_modes _ (by decide) ?_
    exact Only.refl _ _
  clear_value x11
  refine Only.ite ?_ ?_
  · refine Only.after (raise_only _ _ _ _ _) (by decide) ?_
    exact h12
  · exact h12

theorem writeLimit_only (a0 : ℕ) (a1 : Qual) (a2 : Word) (s : State) :
    Only [.sdir, .evm, .recd] s (writeLimit a0 a1 a2 s) := by
  unfold writeLimit
  exact Only.mono (writeNum_only _ _ _ _ _) (by decide)

theorem thrCommand_only (a0 : Option (ℕ → ℚ)) (a1 : Qual) (a2 : ℕ) (s : State) :
    Only [.sdir, .evm, .recd, .modes] s (thrCommand a0 a1 a2 s) := by
  unfold thrCommand
  extract_lets +onlyGivenNames x1 x2 x3 x4
  clear_value x1 x2 x3 x4
  extract_lets +onlyGivenNames x5
  subst x5
  beta_reduce
  extract_lets +onlyGivenNames x6
  subst x6
  beta_reduce
  extract_lets +onlyGivenNames x7 x8 x9
  clear_value x7 x8 x9
  extract_lets +onlyGivenNames x10
  have h11 : Only [Part.sdir, Part.evm, Part.recd, Part.modes] s x10 := by
    subst x10
    exact Only.mono (writeV_only _ _ _ _) (by decide)
  clear_value x10
  extract_lets +onlyGivenNames x12
  have h13 : Only [Part.sdir, Part.evm, Part.recd, Part.modes] s x12 := by
    subst x12
    refine Only.ite ?_ ?_
    · refine Only.after (writeSig_only _ _ _ _ _) (by decide) ?_
      refine Only.after (writeSig_only _ _ _ _ _) (by decide) ?_
      exact Only.mono (writeSig_only _ _ _ _ _) (by decide)
    · refine Only.ite ?_ ?_
      · refine Only.ite ?_ ?_
        · refine Only.after (writeSig_only _ _ _ _ _) (by decide) ?_
          refine Only.after (writeSig_only _ _ _ _ _) (by decide) ?_
          exact h11
        · exact Only.mono (writeSig_only _ _ _ _ _) (by decide)
      · split
        · extract_lets +onlyGivenNames x14 x15 x16 x17
          clear_value x14 x15 x16 x17
          extract_lets +onlyGivenNames x18
          have h19 : Only [Part.sdir, Part.evm, Part.recd, Part.modes] s x18 := by
            subst x18
            exact Only.mono (writeNum_only _ _ _ _ _) (by decide)
          clear_value x18
          extract_lets +onlyGivenNames x20
          have h21 : Only [Part.sdir, Part.evm, Part.recd, Part.modes] s x20 := by
            subst x20
            refine Only.after (writeSig_only _ _ _ _ _) (by decide) ?_
            exact h19
          clear_value x20
          extract_lets +onlyGivenNames x22
          have h23 : Only [Part.sdir, Part.evm, Part.recd, Part.modes] s x22 := by
            subst x22
            refine Only.foldl _ _ _ (fun u24 y h25 => ?_) ?_
            · refine Only.after (sectorSide_only _ _ _ _) (by decide) ?_
              exact h25
            · exact h21
          clear_value x22
          refine Only.after (writeSig_only _ _ _ _ _) (by decide) ?_
          exact h23
        · refine Only.after (writeSig_only _ _ _ _ _) (by decide) ?_
          refine Only.after (writeSig_only _ _ _ _ _) (by decide) ?_
          exact Only.mono (writeSig_only _ _ _ _ _) (by decide)
  clear_value x12
  refine Only.after (writeLimit_only _ _ _ _) (by decide) ?_
  exact h13

theorem allocOutEffect_only (s : State) :
    Only [.sdir, .evm, .recd, .modes, .pack] s (allocOutEffect s) := by
  unfold allocOutEffect
  extract_lets +onlyGivenNames x1
  have h2 : Only [Part.sdir, Part.evm, Part.recd, Part.modes, Part.pack] s x1 := by
    subst x1
    exact Only.mono (pwrImport_only _) (by decide)
  clear_value x1
  extract_lets +onlyGivenNames x3 x4 x5 x6 x7 x8 x9 x10 x11 x12 x13
  clear_value x3 x4 x5 x6 x7 x8 x9 x10 x11 x12 x13
  extract_lets +onlyGivenNames x14
  have h15 : Only [Part.sdir, Part.evm, Part.recd, Part.modes, Part.pack] s x14 := by
    subst x14
    refine only_upd_modes _ (by decide) ?_
    exact h2
  clear_value x14
  extract_lets +onlyGivenNames x16
  have h17 : Only [Part.sdir, Part.evm, Part.recd, Part.modes, Part.pack] s x16 := by
    subst x16
    refine Only.foldl _ _ _ (fun u18 y h19 => ?_) ?_
    · refine Only.after (firstSide_only _ _) (by decide) ?_
      exact h19
    · exact h15
  clear_value x16
  extract_lets +onlyGivenNames x20 x21
  clear_value x20 x21
  extract_lets +onlyGivenNames x22
  have h23 : Only [Part.sdir, Part.evm, Part.recd, Part.modes, Part.pack] s x22 := by
    subst x22
    refine Only.ite ?_ ?_
    · refine Only.after (raise_only _ _ _ _ _) (by decide) ?_
      refine only_upd_modes _ (by decide) ?_
      exact h17
    · exact h17
  clear_value x22
  extract_lets +onlyGivenNames x24
  clear_value x24
  extract_lets +onlyGivenNames x25
  have h26 : Only [Part.sdir, Part.evm, Part.recd, Part.modes, Part.pack] s x25 := by
    subst x25
    refine Only.foldl _ _ _ (fun u27 y h28 => ?_) ?_
    · refine Only.after (writeNum_only _ _ _ _ _) (by decide) ?_
      exact h28
    · exact h23
  clear_value x25
  extract_lets +onlyGivenNames x29
  clear_value x29
  extract_lets +onlyGivenNames x30
  have h31 : Only [Part.sdir, Part.evm, Part.recd, Part.modes, Part.pack] s x30 := by
    subst x30
    refine only_upd_modes _ (by decide) ?_
    exact h17
  clear_value x30
  extract_lets +onlyGivenNames x32
  have h33 : Only [Part.sdir, Part.evm, Part.recd, Part.modes, Part.pack] s x32 := by
    subst x32
    refine Only.ite ?_ ?_
    · refine Only.after (raise_only _ _ _ _ _) (by decide) ?_
      exact h31
    · exact h31
  clear_value x32
  extract_lets +onlyGivenNames x34
  have h35 : Only [Part.sdir, Part.evm, Part.recd, Part.modes, Part.pack] s x34 := by
    subst x34
    refine Only.ite ?_ ?_
    · refine Only.after (allocLost_only _) (by decide) ?_
      exact h33
    · exact h33
  clear_value x34
  extract_lets +onlyGivenNames x36
  have h37 : Only [Part.sdir, Part.evm, Part.recd, Part.modes, Part.pack] s x36 := by
    subst x36
    refine Only.ite ?_ ?_
    · refine Only.foldl _ _ _ (fun u38 y h39 => ?_) ?_
      · extract_lets +onlyGivenNames x40 x41
        clear_value x40 x41
        refine Only.after (writeNum_only _ _ _ _ _) (by decide) ?_
        refine Only.after (writeNum_only _ _ _ _ _) (by decide) ?_
        exact h39
      · exact h26
    · refine Only.foldl _ _ _ (fun u42 y h43 => ?_) ?_
      · refine Only.after (writeSig_only _ _ _ _ _) (by decide) ?_
        exact h43
      · exact h35
  clear_value x36
  refine Only.foldl _ _ _ (fun u44 y h45 => ?_) ?_
  · refine Only.after (thrCommand_only _ _ _ _) (by decide) ?_
    exact h45
  · exact h37

theorem execAllocOut_only (s : State) :
    OnlyNext [.boot, .seq, .cck, .sdir, .evm, .recd, .sec, .modes, .pack] s (execAllocOut s) := by
  unfold execAllocOut
  refine issue_only _ _ _ _ _ (by decide) ?_
  exact Only.mono (allocOutEffect_only _) (by decide)

theorem pwrShareEffect_only (s : State) :
    Only [.sdir, .evm, .recd, .modes, .pack] s (pwrShareEffect s) := by
  unfold pwrShareEffect
  extract_lets +onlyGivenNames x1
  have h2 : Only [Part.sdir, Part.evm, Part.recd, Part.modes, Part.pack] s x1 := by
    subst x1
    exact Only.mono (pwrImport_only _) (by decide)
  clear_value x1
  extract_lets +onlyGivenNames x3 x4 x5 x6 x7 x8 x9 x10
  clear_value x3 x4 x5 x6 x7 x8 x9 x10
  extract_lets +onlyGivenNames x11
  have h12 : Only [Part.sdir, Part.evm, Part.recd, Part.modes, Part.pack] s x11 := by
    subst x11
    refine only_upd_modes _ (by decide) ?_
    exact h2
  clear_value x11
  refine Only.foldl _ _ _ (fun u13 y h14 => ?_) ?_
  · extract_lets +onlyGivenNames x15
    clear_value x15
    refine Only.after (writeNum_only _ _ _ _ _) (by decide) ?_
    exact h14
  · exact h12

theorem execAllocLost_only (s : State) :
    OnlyNext [.evm, .recd, .modes] s (execAllocLost s) := by
  unfold execAllocLost
  refine OnlyNext.next ?_
  refine Only.ite ?_ ?_
  · exact Only.mono (allocLost_only _) (by decide)
  · exact Only.refl _ _

theorem caEvalEffect_only (a0 : ℕ) (s : State) :
    Only [.sdir, .evm, .recd, .modes] s (caEvalEffect a0 s) := by
  unfold caEvalEffect
  extract_lets +onlyGivenNames x1 x2 x3 x4 x5 x6 x7 x8 x9 x10 x11 x12 x13
  clear_value x1 x2 x3 x4 x5 x6 x7 x8 x9 x10 x11 x12 x13
  extract_lets +onlyGivenNames x14
  extract_lets +onlyGivenNames x15 x16
  clear_value x15 x16
  extract_lets +onlyGivenNames x17
  have h18 : Only [Part.sdir, Part.evm, Part.recd, Part.modes] s x17 := by
    subst x17
    refine only_upd_modes _ (by decide) ?_
    exact Only.refl _ _
  clear_value x17
  extract_lets +onlyGivenNames x19
  have h20 : Only [Part.sdir, Part.evm, Part.recd, Part.modes] s x19 := by
    subst x19
    refine Only.ite ?_ ?_
    · refine Only.after (raise_only _ _ _ _ _) (by decide) ?_
      exact h18
    · exact h18
  clear_value x19
  extract_lets +onlyGivenNames x21 x22 x23 x24 x25
  clear_value x21 x22 x23 x24 x25
  extract_lets +onlyGivenNames x26
  have h27 : Only [Part.sdir, Part.evm, Part.recd, Part.modes] s x26 := by
    subst x26
    refine Only.ite ?_ ?_
    · refine Only.after (raise_only _ _ _ _ _) (by decide) ?_
      refine only_upd_modes _ (by decide) ?_
      exact h20
    · exact h20
  clear_value x26
  refine Only.after (writeSig_only _ _ _ _ _) (by decide) ?_
  exact h27

theorem execCaEval_only (a0 : BitVec 3) (s : State) :
    OnlyNext [.boot, .seq, .cck, .sdir, .evm, .recd, .sec, .modes] s (execCaEval a0 s) := by
  unfold execCaEval
  refine issue_only _ _ _ _ _ (by decide) ?_
  exact Only.mono (caEvalEffect_only _ _) (by decide)

theorem flrRelease_only (s : State) :
    Only [.evm, .recd, .modes] s (flrRelease s) := by
  unfold flrRelease
  refine Only.ite ?_ ?_
  · exact Only.refl _ _
  · refine Only.foldl _ _ _ (fun u1 y h2 => ?_) ?_
    · refine Only.after (raise_only _ _ _ _ _) (by decide) ?_
      exact h2
    · refine only_upd_modes _ (by decide) ?_
      exact Only.refl _ _

theorem flrGroup_only (a0 : List ℕ) (a1 : List ℕ) (a2 : Word) (a3 : ℕ) (s : State) :
    Only [.sdir, .evm, .recd, .modes] s (flrGroup a0 a1 a2 a3 s) := by
  unfold flrGroup
  extract_lets +onlyGivenNames x1 x2 x3 x4
  clear_value x1 x2 x3 x4
  extract_lets +onlyGivenNames x5
  have h6 : Only [Part.sdir, Part.evm, Part.recd, Part.modes] s x5 := by
    subst x5
    refine Only.foldl _ _ _ (fun u7 y h8 => ?_) ?_
    · refine Only.after (raise_only _ _ _ _ _) (by decide) ?_
      exact h8
    · exact Only.refl _ _
  clear_value x5
  extract_lets +onlyGivenNames x9 x10
  clear_value x9 x10
  extract_lets +onlyGivenNames x11
  have h12 : Only [Part.sdir, Part.evm, Part.recd, Part.modes] s x11 := by
    subst x11
    refine Only.ite ?_ ?_
    · refine only_upd_modes _ (by decide) ?_
      exact h6
    · exact h6
  clear_value x11
  refine Only.ite ?_ ?_
  · extract_lets +onlyGivenNames x13 x14 x15 x16
    clear_value x13 x14 x15 x16
    extract_lets +onlyGivenNames x17
    have h18 : Only [Part.sdir, Part.evm, Part.recd, Part.modes] s x17 := by
      subst x17
      refine only_upd_modes _ (by decide) ?_
      exact h12
    clear_value x17
    extract_lets +onlyGivenNames x19
    have h20 : Only [Part.sdir, Part.evm, Part.recd, Part.modes] s x19 := by
      subst x19
      refine Only.foldl _ _ _ (fun u21 y h22 => ?_) ?_
      · refine Only.after (writeLimit_only _ _ _ _) (by decide) ?_
        exact h22
      · exact h18
    clear_value x19
    refine Only.after (raise_only _ _ _ _ _) (by decide) ?_
    exact h20
  · exact h12

theorem simStepEffect_only (s : State) :
    Only [.sdir, .evm, .recd, .modes] s (simStepEffect s) := by
  unfold simStepEffect
  refine Only.ite ?_ ?_
  · exact Only.refl _ _
  · extract_lets +onlyGivenNames x1 x2 x3 x4 x5 x6 x7 x8 x9 x10 x11 x12 x13 x14 x15 x16 x17 x18 x19 x20
    clear_value x1 x2 x3 x4 x5 x6 x7 x8 x9 x10 x11 x12 x13 x14 x15 x16 x17 x18 x19 x20
    extract_lets +onlyGivenNames x21
    have h22 : Only [Part.sdir, Part.evm, Part.recd, Part.modes] s x21 := by
      subst x21
      refine only_upd_modes _ (by decide) ?_
      exact Only.refl _ _
    clear_value x21
    extract_lets +onlyGivenNames x23 x24
    clear_value x23 x24
    extract_lets +onlyGivenNames x25
    have h26 : Only [Part.sdir, Part.evm, Part.recd, Part.modes] s x25 := by
      subst x25
      refine Only.after (writeSig_only _ _ _ _ _) (by decide) ?_
      exact h22
    clear_value x25
    refine Only.foldl _ _ _ (fun u27 y h28 => ?_) ?_
    · refine Only.after (writeNum_only _ _ _ _ _) (by decide) ?_
      exact h28
    · exact h26

theorem execFlrRelease_only (s : State) :
    OnlyNext [.evm, .recd, .modes] s (execFlrRelease s) := by
  unfold execFlrRelease
  refine OnlyNext.next ?_
  refine Only.ite ?_ ?_
  · exact Only.mono (flrRelease_only _) (by decide)
  · exact Only.refl _ _

theorem caPrepEffect_only (a0 : ℕ) (s : State) :
    Only [.sdir, .evm, .recd] s (caPrepEffect a0 s) := by
  unfold caPrepEffect
  extract_lets +onlyGivenNames x1 x2 x3 x4 x5 x6 x7 x8 x9 x10 x11
  clear_value x1 x2 x3 x4 x5 x6 x7 x8 x9 x10 x11
  extract_lets +onlyGivenNames x12
  have h13 : Only [Part.sdir, Part.evm, Part.recd] s x12 := by
    subst x12
    refine Only.foldl _ _ _ (fun u14 y h15 => ?_) ?_
    · refine Only.after (writeNum_only _ _ _ _ _) (by decide) ?_
      exact h15
    · exact Only.refl _ _
  clear_value x12
  refine Only.foldl _ _ _ (fun u16 y h17 => ?_) ?_
  · extract_lets +onlyGivenNames x18
    clear_value x18
    refine Only.after (writeNum_only _ _ _ _ _) (by decide) ?_
    exact h17
  · exact h13

theorem execPwrShare_only (s : State) :
    OnlyNext [.boot, .seq, .cck, .sdir, .evm, .recd, .sec, .modes, .pack] s (execPwrShare s) := by
  unfold execPwrShare
  refine issue_only _ _ _ _ _ (by decide) ?_
  exact Only.mono (pwrShareEffect_only _) (by decide)

theorem execCaPrep_only (a0 : BitVec 3) (s : State) :
    OnlyNext [.boot, .seq, .cck, .sdir, .evm, .recd, .sec] s (execCaPrep a0 s) := by
  unfold execCaPrep
  refine issue_only _ _ _ _ _ (by decide) ?_
  exact Only.mono (caPrepEffect_only _ _) (by decide)

theorem flrEffect_only (s : State) :
    Only [.sdir, .evm, .recd, .modes, .pack] s (flrEffect s) := by
  unfold flrEffect
  extract_lets +onlyGivenNames x1
  have h2 : Only [Part.sdir, Part.evm, Part.recd, Part.modes, Part.pack] s x1 := by
    subst x1
    exact Only.mono (pwrImport_only _) (by decide)
  clear_value x1
  extract_lets +onlyGivenNames x3
  clear_value x3
  extract_lets +onlyGivenNames x4
  have h5 : Only [Part.sdir, Part.evm, Part.recd, Part.modes, Part.pack] s x4 := by
    subst x4
    refine Only.ite ?_ ?_
    · refine Only.after (flrRelease_only _) (by decide) ?_
      exact h2
    · exact h2
  clear_value x4
  extract_lets +onlyGivenNames x6 x7 x8 x9 x10 x11 x12 x13
  clear_value x6 x7 x8 x9 x10 x11 x12 x13
  extract_lets +onlyGivenNames x14
  have h15 : Only [Part.sdir, Part.evm, Part.recd, Part.modes, Part.pack] s x14 := by
    subst x14
    refine only_upd_modes _ (by decide) ?_
    exact h5
  clear_value x14
  extract_lets +onlyGivenNames x16
  have h17 : Only [Part.sdir, Part.evm, Part.recd, Part.modes, Part.pack] s x16 := by
    subst x16
    refine Only.foldl _ _ _ (fun u18 y h19 => ?_) ?_
    · refine Only.after (raise_only _ _ _ _ _) (by decide) ?_
      exact h19
    · exact h15
  clear_value x16
  refine Only.foldl _ _ _ (fun u20 y h21 => ?_) ?_
  · refine Only.after (flrGroup_only _ _ _ _ _) (by decide) ?_
    exact h21
  · exact h17

theorem execFlr_only (s : State) :
    OnlyNext [.boot, .seq, .cck, .sdir, .evm, .recd, .sec, .modes, .pack] s (execFlr s) := by
  unfold execFlr
  refine issue_only _ _ _ _ _ (by decide) ?_
  exact Only.mono (flrEffect_only _) (by decide)

theorem execSimStep_only (s : State) :
    OnlyNext [.boot, .seq, .cck, .sdir, .evm, .recd, .sec, .modes] s (execSimStep s) := by
  unfold execSimStep
  refine issue_only _ _ _ _ _ (by decide) ?_
  exact Only.mono (simStepEffect_only _) (by decide)

end Sys2Proof.Machine
end

