-- ==== Sys2Proof/Laws/FrameFce.lean ====
section
/-! SUPPORT. Sys2Proof/Laws/FrameFce.lean: which parts of the state each operation of Machine/Fce.lean changes. -/

set_option linter.unusedVariables false

namespace Sys2Proof.Machine

theorem setFce_only (a0 : ℕ) (a1 : FceChan) (s : State) :
    Only [.fce] s (setFce a0 a1 s) := by
  unfold setFce
  refine only_upd_fce _ (by decide) ?_
  exact Only.refl _ _

theorem fcePendEnable_only (a0 : ℕ) (s : State) :
    Only [.fce] s (fcePendEnable a0 s) := by
  unfold fcePendEnable
  extract_lets +onlyGivenNames x1
  clear_value x1
  refine Only.ite ?_ ?_
  · exact Only.mono (setFce_only _ _ _) (by decide)
  · exact Only.refl _ _

theorem fceEnable_only (a0 : ℕ) (s : State) :
    Only [.fce] s (fceEnable a0 s) := by
  unfold fceEnable
  refine Only.foldl _ _ _ (fun u1 y h2 => ?_) ?_
  · refine Only.ite ?_ ?_
    · exact h2
    · refine Only.after (fcePendEnable_only _ _) (by decide) ?_
      exact h2
  · exact Only.refl _ _

theorem settleStep_only (a0 : ℕ) (a1 : Option ℤ) (a2 : Option ℤ) (s : State) :
    Only [.evm, .recd, .fce] s (settleStep a0 a1 a2 s) := by
  unfold settleStep
  extract_lets +onlyGivenNames x1 x2 x3
  clear_value x1 x2 x3
  extract_lets +onlyGivenNames x4
  have h5 : Only [Part.evm, Part.recd, Part.fce] s x4 := by
    subst x4
    exact Only.mono (setFce_only _ _ _) (by decide)
  clear_value x4
  extract_lets +onlyGivenNames x6
  have h7 : Only [Part.evm, Part.recd, Part.fce] s x6 := by
    subst x6
    refine Only.ite ?_ ?_
    · refine Only.after (raise_only _ _ _ _ _) (by decide) ?_
      exact h5
    · exact h5
  clear_value x6
  extract_lets +onlyGivenNames x8
  clear_value x8
  refine Only.ite ?_ ?_
  · refine Only.after (setFce_only _ _ _) (by decide) ?_
    exact h7
  · split
    · extract_lets +onlyGivenNames x9
      clear_value x9
      refine Only.ite ?_ ?_
      · refine Only.ite ?_ ?_
        · refine Only.after (raise_only _ _ _ _ _) (by decide) ?_
          refine Only.after (setFce_only _ _ _) (by decide) ?_
          exact h7
        · refine Only.after (setFce_only _ _ _) (by decide) ?_
          exact h7
      · refine Only.after (setFce_only _ _ _) (by decide) ?_
        exact h7
    · refine Only.after (setFce_only _ _ _) (by decide) ?_
      exact h7

theorem fceRecord_only (a0 : ℕ) (a1 : ℕ) (a2 : Bool) (a3 : Bool) (a4 : Option ℤ) (s : State) :
    Only [.lbus] s (fceRecord a0 a1 a2 a3 a4 s) := by
  unfold fceRecord
  extract_lets +onlyGivenNames x1 x2 x3 x4 x5 x6
  clear_value x1 x2 x3 x4 x5 x6
  exact Only.mono (landDirect_only _ _ _ _ _) (by decide)

theorem fceTakeAll_only (a0 : ℕ) (a1 : List ℤ) (s : State) :
    Only [.fce] s (fceTakeAll a0 a1 s) := by
  unfold fceTakeAll
  exact Only.mono (setFce_only _ _ _) (by decide)

theorem sendSelect_only (a0 : ℕ) (a1 : BitVec 2) (s : State) :
    Only [.fce] s (sendSelect a0 a1 s) := by
  unfold sendSelect
  refine only_upd_fce _ (by decide) ?_
  exact Only.refl _ _

theorem execAnvSel_only (a0 : BitVec 3) (a1 : BitVec 2) (s : State) :
    OnlyNext [.boot, .seq, .cck, .sdir, .evm, .recd, .sec, .fce] s (execAnvSel a0 a1 s) := by
  unfold execAnvSel
  extract_lets +onlyGivenNames x1
  clear_value x1
  refine issue_only _ _ _ _ _ (by decide) ?_
  refine Only.ite ?_ ?_
  · exact Only.mono (breach_only _ _ _) (by decide)
  · exact Only.mono (sendSelect_only _ _ _) (by decide)

theorem fceSleepWake_only (s : State) :
    Only [.fce] s (fceSleepWake s) := by
  unfold fceSleepWake
  refine Only.foldl _ _ _ (fun u1 y h2 => ?_) ?_
  · refine Only.after (fcePendEnable_only _ _) (by decide) ?_
    exact h2
  · exact Only.refl _ _

theorem fceAnaWake_only (s : State) :
    Only [.fce] s (fceAnaWake s) := by
  unfold fceAnaWake
  refine Only.foldl _ _ _ (fun u1 y h2 => ?_) ?_
  · refine Only.after (fcePendEnable_only _ _) (by decide) ?_
    exact h2
  · exact Only.refl _ _

theorem fceRestart_only (a0 : ℕ) (a1 : ℕ) (s : State) :
    Only [.evm, .recd, .fce] s (fceRestart a0 a1 s) := by
  unfold fceRestart
  extract_lets +onlyGivenNames x1 x2 x3
  clear_value x1 x2 x3
  refine Only.after (raise_only _ _ _ _ _) (by decide) ?_
  exact Only.mono (setFce_only _ _ _) (by decide)

theorem fcePending_only (a0 : ℕ) (s : State) :
    Only [.evm, .recd, .fce] s (fcePending a0 s) := by
  unfold fcePending
  extract_lets +onlyGivenNames x1
  clear_value x1
  refine Only.ite ?_ ?_
  · exact Only.refl _ _
  · refine Only.after (fceRestart_only _ _ _) (by decide) ?_
    exact Only.mono (setFce_only _ _ _) (by decide)

theorem execQdcTransition_only (a0 : BitVec 4) (a1 : QdcStep) (a2 : ℕ) (s : State) :
    OnlyNext [.evm, .recd, .fce] s (execQdcTransition a0 a1 a2 s) := by
  unfold execQdcTransition
  extract_lets +onlyGivenNames x1 x2
  clear_value x1 x2
  refine OnlyNext.ite ?_ ?_
  · refine OnlyNext.next ?_
    exact Only.refl _ _
  · extract_lets +onlyGivenNames x3 x4
    clear_value x3 x4
    extract_lets +onlyGivenNames x5
    have h6 : Only [Part.evm, Part.recd, Part.fce] s x5 := by
      subst x5
      refine only_upd_fce _ (by decide) ?_
      exact Only.refl _ _
    clear_value x5
    extract_lets +onlyGivenNames x7
    have h8 : Only [Part.evm, Part.recd, Part.fce] s x7 := by
      subst x7
      refine Only.ite ?_ ?_
      · exact h6
      · refine Only.after (fceTakeAll_only _ _ _) (by decide) ?_
        refine Only.after (fcePending_only _ _) (by decide) ?_
        exact h6
    clear_value x7
    split
    · extract_lets +onlyGivenNames x9 x10
      clear_value x9 x10
      refine OnlyNext.next ?_
      refine Only.after (raise_only _ _ _ _ _) (by decide) ?_
      refine only_upd_fce _ (by decide) ?_
      exact h8
    · refine OnlyNext.next ?_
      exact h8

theorem fceOutput_only (a0 : ℕ) (a1 : ℕ) (s : State) :
    Only [.lbus, .evm, .recd, .fce] s (fceOutput a0 a1 s) := by
  unfold fceOutput
  extract_lets +onlyGivenNames x1 x2 x3 x4 x5
  clear_value x1 x2 x3 x4 x5
  extract_lets +onlyGivenNames x6
  have h7 : Only [Part.lbus, Part.evm, Part.recd, Part.fce] s x6 := by
    subst x6
    exact Only.mono (setFce_only _ _ _) (by decide)
  clear_value x6
  extract_lets +onlyGivenNames x8
  have h9 : Only [Part.lbus, Part.evm, Part.recd, Part.fce] s x8 := by
    subst x8
    split
    · refine Only.after (raise_only _ _ _ _ _) (by decide) ?_
      exact h7
    · exact h7
  clear_value x8
  extract_lets +onlyGivenNames x10
  have h11 : Only [Part.lbus, Part.evm, Part.recd, Part.fce] s x10 := by
    subst x10
    refine Only.after (settleStep_only _ _ _ _) (by decide) ?_
    exact h9
  clear_value x10
  extract_lets +onlyGivenNames x12
  clear_value x12
  extract_lets +onlyGivenNames x13
  have h14 : Only [Part.lbus, Part.evm, Part.recd, Part.fce] s x13 := by
    subst x13
    refine Only.ite ?_ ?_
    · refine Only.after (setFce_only _ _ _) (by decide) ?_
      exact h11
    · exact h7
  clear_value x13
  extract_lets +onlyGivenNames x15
  have h16 : Only [Part.lbus, Part.evm, Part.recd, Part.fce] s x15 := by
    subst x15
    refine Only.after (fceRecord_only _ _ _ _ _ _) (by decide) ?_
    exact h14
  clear_value x15
  refine Only.ite ?_ ?_
  · refine Only.after (fceRestart_only _ _ _) (by decide) ?_
    exact h16
  · exact h16

theorem execFceCicOutput_only (a0 : BitVec 6) (a1 : List Bool) (a2 : ℕ) (a3 : ℕ) (s : State) :
    OnlyNext [.lbus, .evm, .recd, .fce] s (execFceCicOutput a0 a1 a2 a3 s) := by
  unfold execFceCicOutput
  extract_lets +onlyGivenNames x1 x2 x3
  clear_value x1 x2 x3
  refine OnlyNext.ite ?_ ?_
  · refine OnlyNext.next ?_
    exact Only.refl _ _
  · refine OnlyNext.ite ?_ ?_
    · refine OnlyNext.next ?_
      exact Only.mono (setFce_only _ _ _) (by decide)
    · refine OnlyNext.ite ?_ ?_
      · refine OnlyNext.next ?_
        exact Only.refl _ _
      · extract_lets +onlyGivenNames x4
        clear_value x4
        extract_lets +onlyGivenNames x5
        have h6 : Only [Part.lbus, Part.evm, Part.recd, Part.fce] s x5 := by
          subst x5
          exact Only.mono (fceTakeAll_only _ _ _) (by decide)
        clear_value x5
        extract_lets +onlyGivenNames x7
        have h8 : Only [Part.lbus, Part.evm, Part.recd, Part.fce] s x7 := by
          subst x7
          refine Only.ite ?_ ?_
          · exact h6
          · refine Only.after (fceTakeAll_only _ _ _) (by decide) ?_
            refine Only.after (fcePending_only _ _) (by decide) ?_
            exact h6
        clear_value x7
        refine OnlyNext.next ?_
        refine Only.after (fceOutput_only _ _ _) (by decide) ?_
        exact h8

theorem execQdcZeroApply_only (a0 : BitVec 4) (s : State) :
    OnlyNext [.fce] s (execQdcZeroApply a0 s) := by
  unfold execQdcZeroApply
  split
  · refine OnlyNext.next ?_
    refine only_upd_fce _ (by decide) ?_
    exact Only.refl _ _
  · refine OnlyNext.next ?_
    exact Only.refl _ _

theorem execModulatorSelectApply_only (a0 : Fin 48) (a1 : ℕ) (s : State) :
    OnlyNext [.evm, .recd, .fce] s (execModulatorSelectApply a0 a1 s) := by
  unfold execModulatorSelectApply
  extract_lets +onlyGivenNames x1
  clear_value x1
  split
  · refine OnlyNext.next ?_
    exact Only.refl _ _
  · refine OnlyNext.ite ?_ ?_
    · refine OnlyNext.next ?_
      exact Only.refl _ _
    · extract_lets +onlyGivenNames x2
      clear_value x2
      extract_lets +onlyGivenNames x3
      have h4 : Only [Part.evm, Part.recd, Part.fce] s x3 := by
        subst x3
        refine only_upd_fce _ (by decide) ?_
        exact Only.refl _ _
      clear_value x3
      extract_lets +onlyGivenNames x5
      clear_value x5
      refine OnlyNext.ite ?_ ?_
      · refine OnlyNext.next ?_
        refine Only.after (setFce_only _ _ _) (by decide) ?_
        exact h4
      · refine OnlyNext.ite ?_ ?_
        · refine OnlyNext.next ?_
          exact h4
        · extract_lets +onlyGivenNames x6
          clear_value x6
          refine OnlyNext.next ?_
          refine Only.ite ?_ ?_
          · refine Only.after (setFce_only _ _ _) (by decide) ?_
            exact h4
          · refine Only.after (fceRestart_only _ _ _) (by decide) ?_
            refine Only.after (setFce_only _ _ _) (by decide) ?_
            exact h4

theorem execQdcZero_only (a0 : BitVec 4) (s : State) :
    OnlyNext [.boot, .seq, .cck, .sdir, .evm, .recd, .sec, .fce] s (execQdcZero a0 s) := by
  unfold execQdcZero
  refine issue_only _ _ _ _ _ (by decide) ?_
  refine only_upd_fce _ (by decide) ?_
  exact Only.refl _ _

theorem execFceStart_only (a0 : BitVec 8) (s : State) :
    OnlyNext [.evm, .recd, .ttu, .fce] s (execFceStart a0 s) := by
  unfold execFceStart
  extract_lets +onlyGivenNames x1 x2 x3 x4 x5
  clear_value x1 x2 x3 x4 x5
  extract_lets +onlyGivenNames x6
  have h7 : Only [Part.evm, Part.recd, Part.ttu, Part.fce] s x6 := by
    subst x6
    refine only_upd_ttu_fce _ _ (by decide) ?_
    exact Only.refl _ _
  clear_value x6
  extract_lets +onlyGivenNames x8
  clear_value x8
  extract_lets +onlyGivenNames x9
  have h10 : Only [Part.evm, Part.recd, Part.ttu, Part.fce] s x9 := by
    subst x9
    refine Only.ite ?_ ?_
    · refine only_upd_fce _ (by decide) ?_
      exact h7
    · exact h7
  clear_value x9
  extract_lets +onlyGivenNames x11
  have h12 : Only [Part.evm, Part.recd, Part.ttu, Part.fce] s x11 := by
    subst x11
    refine Only.foldl _ _ _ (fun u13 y h14 => ?_) ?_
    · extract_lets +onlyGivenNames x15
      clear_value x15
      extract_lets +onlyGivenNames x16
      have h17 : Only [Part.evm, Part.recd, Part.ttu, Part.fce] s x16 := by
        subst x16
        refine Only.after (setFce_only _ _ _) (by decide) ?_
        exact h14
      clear_value x16
      extract_lets +onlyGivenNames x18
      clear_value x18
      extract_lets +onlyGivenNames x19
      have h20 : Only [Part.evm, Part.recd, Part.ttu, Part.fce] s x19 := by
        subst x19
        refine Only.ite ?_ ?_
        · refine only_upd_fce _ (by decide) ?_
          exact h17
        · exact h17
      clear_value x19
      refine Only.after (fceRestart_only _ _ _) (by decide) ?_
      exact h20
    · exact h10
  clear_value x11
  refine OnlyNext.next ?_
  refine Only.ite ?_ ?_
  · exact h12
  · refine Only.after (raise_only _ _ _ _ _) (by decide) ?_
    exact h12

theorem execFceRestart_only (a0 : BitVec 6) (s : State) :
    OnlyNext [.boot, .seq, .cck, .sdir, .evm, .recd, .sec, .fce] s (execFceRestart a0 s) := by
  unfold execFceRestart
  refine issue_only _ _ _ _ _ (by decide) ?_
  extract_lets +onlyGivenNames x1
  clear_value x1
  refine Only.ite ?_ ?_
  · exact Only.mono (setFce_only _ _ _) (by decide)
  · exact Only.refl _ _

end Sys2Proof.Machine
end

