-- ==== Sys2Proof/Laws/FrameReset.lean ====
section
/-! SUPPORT. Sys2Proof/Laws/FrameReset.lean: which parts of the state each operation of Machine/Reset.lean changes. -/

set_option linter.unusedVariables false

namespace Sys2Proof.Machine

theorem resetState_only (kind : ResetKind) (s : State) :
    Only (Part.but [.pending, .pins, .aon, .cclk, .flash, .sram, .logMem, .sdir, .fuses, .draws, .cal]) s (resetState kind s) := by
  intro p hp
  cases p <;> first | rfl | exact absurd (by decide) hp

theorem tearFuses_only (s : State) :
    Only [.fuses, .sec, .draws] s (tearFuses s) := by
  unfold tearFuses
  split
  · exact Only.refl _ _
  · extract_lets +onlyGivenNames x1 x2 x3 x4 x5 x6 x7 x8 x9 x10
    clear_value x1 x2 x3 x4 x5 x6 x7 x8 x9 x10
    refine only_upd_fuses_sec_draws _ _ _ (by decide) ?_
    exact Only.refl _ _

theorem tearLog_only (s : State) :
    Only [.logMem, .draws] s (tearLog s) := by
  unfold tearLog
  split
  · exact Only.refl _ _
  · refine Only.ite ?_ ?_
    · extract_lets +onlyGivenNames x1
      clear_value x1
      refine only_upd_logMem_draws _ _ (by decide) ?_
      exact Only.refl _ _
    · refine only_upd_draws _ (by decide) ?_
      exact Only.refl _ _

theorem tearOn_only (a0 : ResetKind) (s : State) :
    Only [.logMem, .fuses, .sec, .draws] s (tearOn a0 s) := by
  unfold tearOn
  refine Only.after (tearFuses_only _) (by decide) ?_
  refine Only.ite ?_ ?_
  · exact Only.mono (tearLog_only _) (by decide)
  · exact Only.refl _ _

theorem enterReset_only (a0 : ResetKind) (a1 : Bool) (a2 : Bool) (s : State) :
    Only (Part.but [.pending, .pins, .cclk, .flash, .sram, .sdir, .cal]) s (enterReset a0 a1 a2 s) := by
  unfold enterReset
  refine Only.ite ?_ ?_
  · extract_lets +onlyGivenNames x1
    clear_value x1
    extract_lets +onlyGivenNames x2
    have h3 : Only (Part.but [Part.pending, Part.pins, Part.cclk, Part.flash, Part.sram, Part.sdir, Part.cal]) s x2 := by
      subst x2
      refine only_upd_boot _ (by decide) ?_
      exact Only.refl _ _
    clear_value x2
    refine Only.ite ?_ ?_
    · extract_lets +onlyGivenNames x4
      have h5 : Only (Part.but [Part.pending, Part.pins, Part.cclk, Part.flash, Part.sram, Part.sdir, Part.cal]) s x4 := by
        subst x4
        refine Only.after (tearLog_only _) (by decide) ?_
        exact h3
      clear_value x4
      refine only_upd_aon_boot_recd_brs _ _ _ _ (by decide) ?_
      exact h5
    · refine Only.ite ?_ ?_
      · refine only_upd_aon _ (by decide) ?_
        exact h3
      · exact h3
  · extract_lets +onlyGivenNames x6
    clear_value x6
    extract_lets +onlyGivenNames x7
    have h8 : Only (Part.but [Part.pending, Part.pins, Part.cclk, Part.flash, Part.sram, Part.sdir, Part.cal]) s x7 := by
      subst x7
      refine Only.after (resetState_only _ _) (by decide) ?_
      refine Only.after (tearOn_only _ _) (by decide) ?_
      refine only_upd_aon _ (by decide) ?_
      exact Only.refl _ _
    clear_value x7
    refine Only.after (raise_only _ _ _ _ _) (by decide) ?_
    exact h8

end Sys2Proof.Machine
end

