-- ==== Sys2Proof/Laws/FramePower.lean ====
section
/-! SUPPORT. Sys2Proof/Laws/FramePower.lean: which parts of the state each operation of Machine/Power.lean changes. -/

set_option linter.unusedVariables false

namespace Sys2Proof.Machine

theorem modRail_only (a0 : ℕ) (a1 : Rail → Rail) (s : State) :
    Only [.brs] s (modRail a0 a1 s) := by
  unfold modRail
  refine only_upd_brs _ (by decide) ?_
  exact Only.refl _ _

theorem execBrsPgLost_only (a0 : Fin 12) (s : State) :
    OnlyNext [.evm, .recd, .brs] s (execBrsPgLost a0 s) := by
  unfold execBrsPgLost
  refine OnlyNext.ite ?_ ?_
  · refine OnlyNext.next ?_
    refine Only.after (raise_only _ _ _ _ _) (by decide) ?_
    exact Only.mono (modRail_only _ _ _) (by decide)
  · refine OnlyNext.next ?_
    exact Only.mono (modRail_only _ _ _) (by decide)

theorem modPwr_only (a0 : Pwr → Pwr) (s : State) :
    Only [.pwr] s (modPwr a0 s) := by
  unfold modPwr
  refine only_upd_pwr _ (by decide) ?_
  exact Only.refl _ _

theorem sleepWake_only (a0 : WakeCause) (s : State) :
    Only [.evm, .recd, .pwr] s (sleepWake a0 s) := by
  unfold sleepWake
  refine Only.ite ?_ ?_
  · extract_lets +onlyGivenNames x1
    have h2 : Only [Part.evm, Part.recd, Part.pwr] s x1 := by
      subst x1
      exact Only.mono (modPwr_only _ _) (by decide)
    clear_value x1
    refine Only.after (startWake_only _ _) (by decide) ?_
    refine Only.after (raise_only _ _ _ _ _) (by decide) ?_
    exact h2
  · exact Only.refl _ _

theorem rankEnd_only (s : State) :
    Only [.brs] s (rankEnd s) := by
  unfold rankEnd
  refine Only.ite ?_ ?_
  · refine only_upd_brs _ (by decide) ?_
    exact Only.refl _ _
  · exact Only.refl _ _

theorem railOn_only (a0 : ℕ) (s : State) :
    Only [.brs] s (railOn a0 s) := by
  unfold railOn
  refine Only.after (rankEnd_only _) (by decide) ?_
  exact Only.mono (modRail_only _ _ _) (by decide)

theorem modSec_only (a0 : Sec → Sec) (s : State) :
    Only [.sec] s (modSec a0 s) := by
  unfold modSec
  refine only_upd_sec _ (by decide) ?_
  exact Only.refl _ _

theorem pmbFail.go_only (a0 : ℕ) (a1 : ℕ) (a2 : ℕ) (s : State) :
    Only [.evm, .recd, .brs] s (pmbFail.go a0 a1 a2 s) := by
  unfold pmbFail.go
  refine Only.after (raise_only _ _ _ _ _) (by decide) ?_
  exact Only.mono (modRail_only _ _ _) (by decide)

theorem railWait_only (a0 : ℕ) (s : State) :
    Only [.brs] s (railWait a0 s) := by
  unfold railWait
  exact Only.mono (modRail_only _ _ _) (by decide)

theorem railCmd_only (a0 : ℕ) (a1 : Word) (s : State) :
    Only [.evm, .recd, .brs] s (railCmd a0 a1 s) := by
  unfold railCmd
  refine Only.ite ?_ ?_
  · extract_lets +onlyGivenNames x1 x2
    clear_value x1 x2
    extract_lets +onlyGivenNames x3
    have h4 : Only [Part.evm, Part.recd, Part.brs] s x3 := by
      subst x3
      refine Only.ite ?_ ?_
      · refine Only.ite ?_ ?_
        · exact Only.refl _ _
        · exact Only.mono (railWait_only _ _) (by decide)
      · exact Only.mono (modRail_only _ _ _) (by decide)
    clear_value x3
    refine Only.after (rankEnd_only _) (by decide) ?_
    refine Only.after (raise_only _ _ _ _ _) (by decide) ?_
    exact h4
  · exact Only.refl _ _

theorem pmbFail_only (a0 : ℕ) (a1 : ℕ) (a2 : PmbRead) (s : State) :
    Only [.evm, .recd, .brs] s (pmbFail a0 a1 a2 s) := by
  unfold pmbFail
  split
  · exact Only.refl _ _
  · exact Only.mono (pmbFail.go_only _ _ _ _) (by decide)
  · exact Only.mono (pmbFail.go_only _ _ _ _) (by decide)

theorem dropRequests_only (a0 : Domain) (s : State) :
    Only [.fuses, .sec, .pwr, .draws, .nav, .qps, .loops, .ports] s (dropRequests a0 s) := by
  unfold dropRequests
  split
  · refine only_upd_nav _ (by decide) ?_
    exact Only.refl _ _
  · refine only_upd_qps _ (by decide) ?_
    exact Only.refl _ _
  · refine only_upd_ports _ (by decide) ?_
    exact Only.refl _ _
  · refine only_upd_loops _ (by decide) ?_
    exact Only.refl _ _
  · extract_lets +onlyGivenNames x1
    have h2 : Only [Part.fuses, Part.sec, Part.pwr, Part.draws, Part.nav, Part.qps, Part.loops, Part.ports] s x1 := by
      subst x1
      exact Only.mono (tearFuses_only _) (by decide)
    clear_value x1
    refine only_upd_sec_pwr _ _ (by decide) ?_
    exact h2

theorem abortGroups_only (a0 : ℕ → Bool) (s : State) :
    Only [.evm, .recd, .mbx] s (abortGroups a0 s) := by
  unfold abortGroups
  refine Only.foldl _ _ _ (fun u1 y h2 => ?_) ?_
  · refine Only.after (abortMbx_only _ _) (by decide) ?_
    exact h2
  · exact Only.refl _ _

theorem execPwrDomainFault_only (a0 : Domain) (s : State) :
    OnlyNext [.evm, .recd, .mbx, .fuses, .sec, .pwr, .draws, .nav, .qps, .loops, .ports] s (execPwrDomainFault a0 s) := by
  unfold execPwrDomainFault
  refine OnlyNext.ite ?_ ?_
  · refine OnlyNext.next ?_
    exact Only.refl _ _
  · extract_lets +onlyGivenNames x1
    have h2 : Only [Part.evm, Part.recd, Part.mbx, Part.fuses, Part.sec, Part.pwr, Part.draws, Part.nav, Part.qps, Part.loops, Part.ports] s x1 := by
      subst x1
      exact Only.mono (modPwr_only _ _) (by decide)
    clear_value x1
    extract_lets +onlyGivenNames x3
    have h4 : Only [Part.evm, Part.recd, Part.mbx, Part.fuses, Part.sec, Part.pwr, Part.draws, Part.nav, Part.qps, Part.loops, Part.ports] s x3 := by
      subst x3
      refine Only.after (raise_only _ _ _ _ _) (by decide) ?_
      exact h2
    clear_value x3
    refine OnlyNext.next ?_
    refine Only.after (dropRequests_only _ _) (by decide) ?_
    refine Only.after (abortGroups_only _ _) (by decide) ?_
    exact h4

theorem sleepBoundary_only (s : State) :
    Only [.boot, .seq, .evm, .recd, .mbx, .sec, .pwr] s (sleepBoundary s) := by
  unfold sleepBoundary
  split
  · exact Only.refl _ _
  · refine Only.ite ?_ ?_
    · exact Only.refl _ _
    · extract_lets +onlyGivenNames x1
      have h2 : Only [Part.boot, Part.seq, Part.evm, Part.recd, Part.mbx, Part.sec, Part.pwr] s x1 := by
        subst x1
        exact Only.mono (modPwr_only _ _) (by decide)
      clear_value x1
      refine Only.ite ?_ ?_
      · refine Only.after (completeMbx_only _ _ _) (by decide) ?_
        exact h2
      · extract_lets +onlyGivenNames x3
        clear_value x3
        extract_lets +onlyGivenNames x4
        have h5 : Only [Part.boot, Part.seq, Part.evm, Part.recd, Part.mbx, Part.sec, Part.pwr] s x4 := by
          subst x4
          refine Only.after (modPwr_only _ _) (by decide) ?_
          refine only_upd_seq _ (by decide) ?_
          exact h2
        clear_value x4
        refine Only.after (completeMbx_only _ _ _) (by decide) ?_
        refine Only.after (raise_only _ _ _ _ _) (by decide) ?_
        refine Only.after (setDev_only _ _) (by decide) ?_
        exact h5

theorem sleepHandler_only (a0 : ℕ) (a1 : ℕ) (a2 : ℕ) (a3 : ℕ) (a4 : ℕ) (s : State) :
    Only [.evm, .recd, .mbx, .pwr] s (sleepHandler a0 a1 a2 a3 a4 s) := by
  unfold sleepHandler
  extract_lets +onlyGivenNames x1
  clear_value x1
  refine Only.ite ?_ ?_
  · exact Only.mono (completeMbx_only _ _ _) (by decide)
  · refine Only.ite ?_ ?_
    · exact Only.mono (completeMbx_only _ _ _) (by decide)
    · refine Only.ite ?_ ?_
      · exact Only.mono (completeMbx_only _ _ _) (by decide)
      · exact Only.mono (modPwr_only _ _) (by decide)

theorem execBrsRankStart_only (s : State) :
    OnlyNext [.brs] s (execBrsRankStart s) := by
  unfold execBrsRankStart
  split
  · refine OnlyNext.next ?_
    exact Only.refl _ _
  · refine OnlyNext.next ?_
    refine only_upd_brs _ (by decide) ?_
    exact Only.refl _ _
  · extract_lets +onlyGivenNames x1
    clear_value x1
    extract_lets +onlyGivenNames x2
    have h3 : Only [Part.brs] s x2 := by
      subst x2
      refine only_upd_brs _ (by decide) ?_
      exact Only.refl _ _
    clear_value x2
    refine OnlyNext.next ?_
    refine Only.after (rankEnd_only _) (by decide) ?_
    refine Only.foldl _ _ _ (fun u4 y h5 => ?_) ?_
    · refine Only.ite ?_ ?_
      · refine Only.after (railWait_only _ _) (by decide) ?_
        exact h5
      · exact h5
    · exact h3

theorem execBrsPgBack_only (a0 : Fin 12) (s : State) :
    OnlyNext [.evm, .recd, .brs] s (execBrsPgBack a0 s) := by
  unfold execBrsPgBack
  refine OnlyNext.ite ?_ ?_
  · refine OnlyNext.next ?_
    refine Only.after (railOn_only _ _) (by decide) ?_
    exact Only.mono (raise_only _ _ _ _ _) (by decide)
  · refine OnlyNext.next ?_
    exact Only.mono (modRail_only _ _ _) (by decide)

theorem wakeDone_only (a0 : Domain) (s : State) :
    Only [.pwr, .fce] s (wakeDone a0 s) := by
  unfold wakeDone
  refine Only.ite ?_ ?_
  · exact Only.refl _ _
  · extract_lets +onlyGivenNames x1
    have h2 : Only [Part.pwr, Part.fce] s x1 := by
      subst x1
      exact Only.mono (modPwr_only _ _) (by decide)
    clear_value x1
    refine Only.ite ?_ ?_
    · refine Only.after (fceAnaWake_only _) (by decide) ?_
      exact h2
    · exact h2

theorem pmbRail_only (s : State) (a1 : PmbRail) :
    Only [.lbus, .evm, .recd, .brs] s (pmbRail s a1) := by
  unfold pmbRail
  extract_lets +onlyGivenNames x1
  clear_value x1
  refine Only.ite ?_ ?_
  · exact Only.refl _ _
  · extract_lets +onlyGivenNames x2
    clear_value x2
    extract_lets +onlyGivenNames x3
    have h4 : Only [Part.lbus, Part.evm, Part.recd, Part.brs] s x3 := by
      subst x3
      refine Only.ite ?_ ?_
      · split
        · exact Only.mono (modRail_only _ _ _) (by decide)
        · exact Only.mono (pmbFail_only _ _ _ _) (by decide)
      · exact Only.refl _ _
    clear_value x3
    extract_lets +onlyGivenNames x5
    have h6 : Only [Part.lbus, Part.evm, Part.recd, Part.brs] s x5 := by
      subst x5
      refine Only.after (pmbFail_only _ _ _ _) (by decide) ?_
      refine Only.after (pmbFail_only _ _ _ _) (by decide) ?_
      refine Only.after (pmbFail_only _ _ _ _) (by decide) ?_
      refine Only.after (pmbFail_only _ _ _ _) (by decide) ?_
      exact h4
    clear_value x5
    extract_lets +onlyGivenNames x7
    clear_value x7
    refine Only.after (landDirect_only _ _ _ _ _) (by decide) ?_
    exact h6

theorem dbgJudge_only (a0 : BitVec 2) (s : State) :
    Only [.evm, .recd, .sec] s (dbgJudge a0 s) := by
  unfold dbgJudge
  extract_lets +onlyGivenNames x1
  clear_value x1
  refine Only.ite ?_ ?_
  · refine Only.after (raise_only _ _ _ _ _) (by decide) ?_
    exact Only.mono (modSec_only _ _) (by decide)
  · extract_lets +onlyGivenNames x2
    have h3 : Only [Part.evm, Part.recd, Part.sec] s x2 := by
      subst x2
      refine Only.after (raise_only _ _ _ _ _) (by decide) ?_
      exact Only.mono (modSec_only _ _) (by decide)
    clear_value x2
    refine Only.ite ?_ ?_
    · refine Only.after (dbgLower_only _ _ _) (by decide) ?_
      exact h3
    · refine Only.after (modSec_only _ _) (by decide) ?_
      exact h3

theorem execSecRead_only (s : State) :
    OnlyNext [.boot, .seq, .cck, .sdir, .evm, .recd, .sec] s (execSecRead s) := by
  unfold execSecRead
  refine issue_only _ _ _ _ _ (by decide) ?_
  extract_lets +onlyGivenNames x1
  clear_value x1
  refine Only.ite ?_ ?_
  · exact Only.refl _ _
  · exact Only.mono (writeList_only _ _ _ _) (by decide)

theorem execPwrRead_only (s : State) :
    OnlyNext [.boot, .seq, .cck, .sdir, .evm, .recd, .sec] s (execPwrRead s) := by
  unfold execPwrRead
  refine issue_only _ _ _ _ _ (by decide) ?_
  extract_lets +onlyGivenNames x1
  clear_value x1
  refine Only.ite ?_ ?_
  · exact Only.refl _ _
  · exact Only.mono (writeList_only _ _ _ _) (by decide)

theorem execBrsPgTmo_only (a0 : Fin 12) (s : State) :
    OnlyNext [.evm, .recd, .brs] s (execBrsPgTmo a0 s) := by
  unfold execBrsPgTmo
  refine OnlyNext.ite ?_ ?_
  · refine OnlyNext.next ?_
    refine Only.after (rankEnd_only _) (by decide) ?_
    refine Only.after (raise_only _ _ _ _ _) (by decide) ?_
    exact Only.mono (modRail_only _ _ _) (by decide)
  · refine OnlyNext.next ?_
    exact Only.refl _ _

theorem execBrsRailEnable_only (a0 : Fin 12) (s : State) :
    OnlyNext [.brs] s (execBrsRailEnable a0 s) := by
  unfold execBrsRailEnable
  refine OnlyNext.ite ?_ ?_
  · refine OnlyNext.next ?_
    refine Only.after (rankEnd_only _) (by decide) ?_
    exact Only.mono (railWait_only _ _) (by decide)
  · refine OnlyNext.next ?_
    exact Only.refl _ _

theorem execDomainWakeComplete_only (a0 : Domain) (s : State) :
    OnlyNext [.pwr, .fce] s (execDomainWakeComplete a0 s) := by
  unfold execDomainWakeComplete
  refine OnlyNext.next ?_
  refine Only.ite ?_ ?_
  · exact Only.mono (wakeDone_only _ _) (by decide)
  · exact Only.refl _ _

theorem wakeClocks_only (s : State) :
    Only [.recd, .mbx] s (wakeClocks s) := by
  unfold wakeClocks
  extract_lets +onlyGivenNames x1
  clear_value x1
  extract_lets +onlyGivenNames x2
  have h3 : Only [Part.recd, Part.mbx] s x2 := by
    subst x2
    refine Only.foldl _ _ _ (fun u4 y h5 => ?_) ?_
    · refine Only.after (setMbx_only _ _ _) (by decide) ?_
      exact h5
    · exact Only.refl _ _
  clear_value x2
  refine only_upd_recd _ (by decide) ?_
  exact h3

theorem execSleep_only (a0 : BitVec 4) (a1 : BitVec 8) (a2 : BitVec 8) (a3 : BitVec 8) (a4 : BitVec 48) (s : State) :
    OnlyNext [.evm, .recd, .mbx, .pwr] s (execSleep a0 a1 a2 a3 a4 s) := by
  unfold execSleep
  refine OnlyNext.next ?_
  exact Only.mono (sleepHandler_only _ _ _ _ _ _) (by decide)

theorem execBrsPgGood_only (a0 : Fin 12) (s : State) :
    OnlyNext [.brs] s (execBrsPgGood a0 s) := by
  unfold execBrsPgGood
  refine OnlyNext.next ?_
  refine Only.ite ?_ ?_
  · exact Only.mono (railOn_only _ _) (by decide)
  · exact Only.mono (modRail_only _ _ _) (by decide)

theorem execWakeSyncEntry_only (s : State) :
    OnlyNext [.boot, .cclk, .evm, .recd, .mbx, .sec, .pwr, .ptc, .cal, .fce] s (execWakeSyncEntry s) := by
  unfold execWakeSyncEntry
  split
  · extract_lets +onlyGivenNames x1
    have h2 : Only [Part.boot, Part.cclk, Part.evm, Part.recd, Part.mbx, Part.sec, Part.pwr, Part.ptc, Part.cal, Part.fce] s x1 := by
      subst x1
      exact Only.mono (elapse_only _ _) (by decide)
    clear_value x1
    extract_lets +onlyGivenNames x3
    have h4 : Only [Part.boot, Part.cclk, Part.evm, Part.recd, Part.mbx, Part.sec, Part.pwr, Part.ptc, Part.cal, Part.fce] s x3 := by
      subst x3
      refine Only.foldl _ _ _ (fun u5 y h6 => ?_) ?_
      · refine Only.after (wakeDone_only _ _) (by decide) ?_
        exact h6
      · refine Only.after (startWake_only _ _) (by decide) ?_
        exact h2
    clear_value x3
    extract_lets +onlyGivenNames x7
    have h8 : Only [Part.boot, Part.cclk, Part.evm, Part.recd, Part.mbx, Part.sec, Part.pwr, Part.ptc, Part.cal, Part.fce] s x7 := by
      subst x7
      refine Only.after (wakeClocks_only _) (by decide) ?_
      refine Only.after (fceSleepWake_only _) (by decide) ?_
      exact h4
    clear_value x7
    extract_lets +onlyGivenNames x9
    clear_value x9
    extract_lets +onlyGivenNames x10
    have h11 : Only [Part.boot, Part.cclk, Part.evm, Part.recd, Part.mbx, Part.sec, Part.pwr, Part.ptc, Part.cal, Part.fce] s x10 := by
      subst x10
      refine Only.after (modPwr_only _ _) (by decide) ?_
      refine only_upd_boot _ (by decide) ?_
      exact h8
    clear_value x10
    extract_lets +onlyGivenNames x12
    have h13 : Only [Part.boot, Part.cclk, Part.evm, Part.recd, Part.mbx, Part.sec, Part.pwr, Part.ptc, Part.cal, Part.fce] s x12 := by
      subst x12
      refine Only.after (setDev_only _ _) (by decide) ?_
      exact h11
    clear_value x12
    split
    · refine OnlyNext.next ?_
      refine Only.after (dbgJudge_only _ _) (by decide) ?_
      refine Only.after (modSec_only _ _) (by decide) ?_
      exact h13
    · refine OnlyNext.next ?_
      exact h13
  · refine OnlyNext.next ?_
    exact Only.refl _ _

theorem execSleepWake_only (a0 : WakeCause) (s : State) :
    OnlyNext [.evm, .recd, .pwr] s (execSleepWake a0 s) := by
  unfold execSleepWake
  refine OnlyNext.next ?_
  exact Only.mono (sleepWake_only _ _) (by decide)

theorem execPmbPoll_only (a0 : List PmbRail) (s : State) :
    OnlyNext [.lbus, .evm, .recd, .brs] s (execPmbPoll a0 s) := by
  unfold execPmbPoll
  refine OnlyNext.next ?_
  refine Only.ite ?_ ?_
  · extract_lets +onlyGivenNames x1
    clear_value x1
    extract_lets +onlyGivenNames x2
    have h3 : Only [Part.lbus, Part.evm, Part.recd, Part.brs] s x2 := by
      subst x2
      refine only_upd_brs _ (by decide) ?_
      exact Only.refl _ _
    clear_value x2
    refine Only.foldl _ _ _ (fun u4 y h5 => ?_) ?_
    · refine Only.foldl _ _ _ (fun u6 y h7 => ?_) ?_
      · refine Only.after (pmbRail_only _ _) (by decide) ?_
        exact h7
      · exact h5
    · exact h3
  · exact Only.refl _ _

theorem execDbgAttach_only (a0 : BitVec 2) (s : State) :
    OnlyNext [.evm, .recd, .sec, .pwr] s (execDbgAttach a0 s) := by
  unfold execDbgAttach
  refine OnlyNext.ite ?_ ?_
  · refine OnlyNext.ite ?_ ?_
    · refine OnlyNext.next ?_
      refine Only.after (sleepWake_only _ _) (by decide) ?_
      exact Only.mono (modSec_only _ _) (by decide)
    · refine OnlyNext.next ?_
      refine Only.after (raise_only _ _ _ _ _) (by decide) ?_
      exact Only.mono (modSec_only _ _) (by decide)
  · refine OnlyNext.next ?_
    exact Only.mono (dbgJudge_only _ _) (by decide)

end Sys2Proof.Machine
end

