-- ==== Sys2Proof/Laws/FrameRec.lean ====
section
/-! SUPPORT. Sys2Proof/Laws/FrameRec.lean: which parts of the state each operation of Machine/Rec.lean changes. -/

set_option linter.unusedVariables false

namespace Sys2Proof.Machine

theorem modRecd_only (a0 : Recorder → Recorder) (s : State) :
    Only [.recd] s (modRecd a0 s) := by
  unfold modRecd
  refine only_upd_recd _ (by decide) ?_
  exact Only.refl _ _

theorem setBank_only (a0 : Master) (a1 : RecBank) (s : State) :
    Only [.recd] s (setBank a0 a1 s) := by
  unfold setBank
  split
  · exact Only.mono (modRecd_only _ _) (by decide)
  · exact Only.mono (modRecd_only _ _) (by decide)

theorem startLoad_only (a0 : Master) (a1 : Word) (s : State) :
    Only [.recd] s (startLoad a0 a1 s) := by
  unfold startLoad
  exact Only.mono (setBank_only _ _ _) (by decide)

theorem writeOldest_only (s : State) :
    Only [.logMem, .recd] s (writeOldest s) := by
  unfold writeOldest
  split
  · exact Only.refl _ _
  · refine Only.after (modRecd_only _ _) (by decide) ?_
    refine only_upd_logMem _ (by decide) ?_
    exact Only.refl _ _

theorem execRecRecordWrite_only (s : State) :
    OnlyNext [.logMem, .recd] s (execRecRecordWrite s) := by
  unfold execRecRecordWrite
  refine OnlyNext.ite ?_ ?_
  · refine OnlyNext.next ?_
    exact Only.mono (writeOldest_only _) (by decide)
  · refine OnlyNext.next ?_
    exact Only.refl _ _

theorem clearSticky_only (a0 : ℕ) (a1 : Word) (s : State) :
    Only [.evm, .recd] s (clearSticky a0 a1 s) := by
  unfold clearSticky
  exact only_upd_evm _ (by decide) (Only.after (keepShown_only _) (by decide) (Only.mono (closeTick_only _) (by decide)))

theorem writeStaged_only (a0 : ℕ) (s : State) :
    Only [.logMem, .recd] s (writeStaged a0 s) := by
  induction a0 generalizing s with
  | zero => exact Only.refl _ _
  | succ n ih => exact Only.trans (Only.mono (writeOldest_only _) (by decide)) (ih _)

theorem execRecLoadComplete_only (a0 : Master) (s : State) :
    OnlyNext [.recd, .draws] s (execRecLoadComplete a0 s) := by
  unfold execRecLoadComplete
  extract_lets +onlyGivenNames x1
  clear_value x1
  refine OnlyNext.ite ?_ ?_
  · refine OnlyNext.next ?_
    exact Only.refl _ _
  · extract_lets +onlyGivenNames x2
    clear_value x2
    refine OnlyNext.next ?_
    refine Only.after (setBank_only _ _ _) (by decide) ?_
    refine only_upd_draws _ (by decide) ?_
    exact Only.refl _ _

theorem execEvtTokenRefill_only (a0 : BitVec 8) (s : State) :
    OnlyNext [.evm, .recd] s (execEvtTokenRefill a0 s) := by
  unfold execEvtTokenRefill
  refine OnlyNext.ite ?_ ?_
  · refine OnlyNext.next ?_
    refine Only.after (settleBucket_only _ _) (by decide) ?_
    exact Only.mono (closeTick_only _) (by decide)
  · refine OnlyNext.next ?_
    exact Only.refl _ _

theorem execEvmCheck_only (a0 : BitVec 8) (s : State) :
    OnlyNext [.boot, .seq, .cck, .sdir, .evm, .recd, .sec] s (execEvmCheck a0 s) := by
  unfold execEvmCheck
  extract_lets +onlyGivenNames x1
  clear_value x1
  refine issue_only _ _ _ _ _ (by decide) ?_
  extract_lets +onlyGivenNames x2 x3
  clear_value x2 x3
  refine Only.ite ?_ ?_
  · exact Only.mono (breach_only _ _ _) (by decide)
  · extract_lets +onlyGivenNames x4 x5 x6 x7 x8
    clear_value x4 x5 x6 x7 x8
    extract_lets +onlyGivenNames x9
    have h10 : Only [Part.boot, Part.seq, Part.cck, Part.sdir, Part.evm, Part.recd, Part.sec] s x9 := by
      subst x9
      refine only_upd_evm _ (by decide) ?_
      exact Only.refl _ _
    clear_value x9
    refine Only.ite ?_ ?_
    · refine Only.after (raise_only _ _ _ _ _) (by decide) ?_
      exact h10
    · exact h10

end Sys2Proof.Machine
end

