-- ==== Sys2Proof/Laws/FrameSec.lean ====
section
/-! SUPPORT. Sys2Proof/Laws/FrameSec.lean: which parts of the state each operation of Machine/Sec.lean changes. -/

set_option linter.unusedVariables false

namespace Sys2Proof.Machine

theorem newNonce_only (s : State) :
    Only [.sec, .draws] s (newNonce s) := by
  unfold newNonce
  refine only_upd_sec_draws _ _ (by decide) ?_
  exact Only.refl _ _

theorem tokenApplyHandler_only (a0 : ℕ) (s : State) :
    Only [.evm, .recd, .mbx, .sec] s (tokenApplyHandler a0 s) := by
  unfold tokenApplyHandler
  extract_lets +onlyGivenNames x1
  clear_value x1
  refine Only.ite ?_ ?_
  · exact Only.mono (completeMbx_only _ _ _) (by decide)
  · refine Only.ite ?_ ?_
    · exact Only.mono (completeMbx_only _ _ _) (by decide)
    · exact Only.mono (modSec_only _ _) (by decide)

theorem execTokenApply_only (a0 : BitVec 4) (s : State) :
    OnlyNext [.evm, .recd, .mbx, .sec] s (execTokenApply a0 s) := by
  unfold execTokenApply
  refine OnlyNext.next ?_
  exact Only.mono (tokenApplyHandler_only _ _) (by decide)

theorem scanWith_only (a0 : Bscan) (s : State) :
    Only [.sec] s (scanWith a0 s) := by
  unfold scanWith
  exact Only.mono (modSec_only _ _) (by decide)

theorem loadCells_only (s : State) :
    Only [.sec, .draws] s (loadCells s) := by
  unfold loadCells
  refine Only.ite ?_ ?_
  · exact Only.refl _ _
  · refine Only.after (modSec_only _ _) (by decide) ?_
    refine only_upd_draws _ (by decide) ?_
    exact Only.refl _ _

theorem execExtest_only (s : State) :
    OnlyNext [.sec, .draws] s (execExtest s) := by
  unfold execExtest
  refine OnlyNext.next ?_
  refine Only.after (scanWith_only _ _) (by decide) ?_
  exact Only.mono (loadCells_only _) (by decide)

theorem authCtl_only (a0 : Word) (s : State) :
    Only [.evm, .recd, .sec] s (authCtl a0 s) := by
  unfold authCtl
  extract_lets +onlyGivenNames x1
  have h2 : Only [Part.evm, Part.recd, Part.sec] s x1 := by
    subst x1
    refine Only.ite ?_ ?_
    · refine Only.after (dbgSettle_only _ _) (by decide) ?_
      exact Only.mono (modSec_only _ _) (by decide)
    · exact Only.refl _ _
  clear_value x1
  refine Only.ite ?_ ?_
  · refine Only.after (modSec_only _ _) (by decide) ?_
    exact h2
  · exact h2

theorem tokClear_only (s : State) :
    Only [.sec] s (tokClear s) := by
  unfold tokClear
  exact Only.mono (modSec_only _ _) (by decide)

theorem tokenClearHandler_only (a0 : ℕ) (s : State) :
    Only [.evm, .recd, .mbx, .sec] s (tokenClearHandler a0 s) := by
  unfold tokenClearHandler
  extract_lets +onlyGivenNames x1
  clear_value x1
  refine Only.ite ?_ ?_
  · exact Only.mono (completeMbx_only _ _ _) (by decide)
  · refine Only.after (completeMbx_only _ _ _) (by decide) ?_
    exact Only.mono (tokClear_only _) (by decide)

theorem execTokenClear_only (a0 : BitVec 4) (s : State) :
    OnlyNext [.evm, .recd, .mbx, .sec] s (execTokenClear a0 s) := by
  unfold execTokenClear
  refine OnlyNext.next ?_
  exact Only.mono (tokenClearHandler_only _ _) (by decide)

theorem commandReason_only (s : State) :
    Only [.boot] s (commandReason s) := by
  unfold commandReason
  refine Only.ite ?_ ?_
  · exact Only.mono (setReason_only _ _ _) (by decide)
  · exact Only.mono (clearReason_only _ _) (by decide)

theorem holdApply_only (a0 : Bool) (a1 : ℕ) (s : State) :
    Only [.boot, .evm, .recd, .mbx, .sec] s (holdApply a0 a1 s) := by
  unfold holdApply
  extract_lets +onlyGivenNames x1
  clear_value x1
  extract_lets +onlyGivenNames x2
  have h3 : Only [Part.boot, Part.evm, Part.recd, Part.mbx, Part.sec] s x2 := by
    subst x2
    refine Only.after (commandReason_only _) (by decide) ?_
    exact Only.mono (modSec_only _ _) (by decide)
  clear_value x2
  extract_lets +onlyGivenNames x4
  have h5 : Only [Part.boot, Part.evm, Part.recd, Part.mbx, Part.sec] s x4 := by
    subst x4
    refine Only.after (raise_only _ _ _ _ _) (by decide) ?_
    exact h3
  clear_value x4
  refine Only.ite ?_ ?_
  · refine Only.after (completeMbx_only _ _ _) (by decide) ?_
    exact h5
  · exact h5

theorem holdLatch_only (a0 : Bool) (a1 : ℕ) (s : State) :
    Only [.boot, .evm, .recd, .mbx, .sec] s (holdLatch a0 a1 s) := by
  unfold holdLatch
  refine Only.ite ?_ ?_
  · exact Only.mono (modSec_only _ _) (by decide)
  · exact Only.mono (holdApply_only _ _ _) (by decide)

theorem tokEffect_only (a0 : ℕ) (a1 : ℕ) (a2 : ℕ) (a3 : ℕ) (a4 : BitVec 384) (a5 : BitVec 256) (s : State) :
    Only [.boot, .evm, .recd, .mbx, .sec] s (tokEffect a0 a1 a2 a3 a4 a5 s) := by
  unfold tokEffect
  refine Only.ite ?_ ?_
  · exact Only.mono (modSec_only _ _) (by decide)
  · extract_lets +onlyGivenNames x1
    have h2 : Only [Part.boot, Part.evm, Part.recd, Part.mbx, Part.sec] s x1 := by
      subst x1
      refine Only.ite ?_ ?_
      · refine Only.after (dbgSettle_only _ _) (by decide) ?_
        exact Only.mono (modSec_only _ _) (by decide)
      · refine Only.ite ?_ ?_
        · refine Only.after (raise_only _ _ _ _ _) (by decide) ?_
          exact Only.mono (modSec_only _ _) (by decide)
        · exact Only.mono (holdLatch_only _ _ _) (by decide)
    clear_value x1
    refine Only.after (completeMbx_only _ _ _) (by decide) ?_
    exact h2

theorem execTokenApplyDone_only (s : State) :
    OnlyNext [.boot, .evm, .recd, .mbx, .sec, .draws] s (execTokenApplyDone s) := by
  unfold execTokenApplyDone
  split
  · refine OnlyNext.next ?_
    exact Only.refl _ _
  · extract_lets +onlyGivenNames x1 x2 x3 x4 x5 x6
    clear_value x1 x2 x3 x4 x5 x6
    extract_lets +onlyGivenNames x7
    have h8 : Only [Part.boot, Part.evm, Part.recd, Part.mbx, Part.sec, Part.draws] s x7 := by
      subst x7
      refine Only.after (newNonce_only _) (by decide) ?_
      refine Only.after (tokClear_only _) (by decide) ?_
      exact Only.mono (modSec_only _ _) (by decide)
    clear_value x7
    refine OnlyNext.ite ?_ ?_
    · refine OnlyNext.next ?_
      refine Only.after (tokEffect_only _ _ _ _ _ _ _) (by decide) ?_
      exact h8
    · refine OnlyNext.next ?_
      refine Only.after (completeMbx_only _ _ _) (by decide) ?_
      refine Only.after (raise_only _ _ _ _ _) (by decide) ?_
      exact h8

theorem holdBoundary_only (s : State) :
    Only [.boot, .evm, .recd, .mbx, .sec] s (holdBoundary s) := by
  unfold holdBoundary
  extract_lets +onlyGivenNames x1
  clear_value x1
  extract_lets +onlyGivenNames x2
  have h3 : Only [Part.boot, Part.evm, Part.recd, Part.mbx, Part.sec] s x2 := by
    subst x2
    exact Only.mono (modSec_only _ _) (by decide)
  clear_value x2
  refine Only.foldl _ _ _ (fun u4 y h5 => ?_) ?_
  · refine Only.after (holdApply_only _ _ _) (by decide) ?_
    exact h5
  · exact h3

theorem holdHandler_only (a0 : ℕ) (a1 : Bool) (s : State) :
    Only [.boot, .evm, .recd, .mbx, .sec] s (holdHandler a0 a1 s) := by
  unfold holdHandler
  refine Only.ite ?_ ?_
  · exact Only.mono (completeMbx_only _ _ _) (by decide)
  · exact Only.mono (holdLatch_only _ _ _) (by decide)

theorem dbgCtl_only (a0 : Word) (s : State) :
    Only [.sec] s (dbgCtl a0 s) := by
  unfold dbgCtl
  extract_lets +onlyGivenNames x1
  have h2 : Only [Part.sec] s x1 := by
    subst x1
    refine Only.ite ?_ ?_
    · exact Only.mono (modSec_only _ _) (by decide)
    · exact Only.refl _ _
  clear_value x1
  refine Only.ite ?_ ?_
  · refine Only.after (modSec_only _ _) (by decide) ?_
    exact h2
  · exact h2

theorem dbgSwin_only (a0 : Word) (s : State) :
    Only [.sec] s (dbgSwin a0 s) := by
  unfold dbgSwin
  exact Only.mono (modSec_only _ _) (by decide)

theorem tokenLoadHandler_only (a0 : ℕ) (a1 : ℕ) (a2 : ℕ) (a3 : List Byte) (s : State) :
    Only [.evm, .recd, .mbx, .sec] s (tokenLoadHandler a0 a1 a2 a3 s) := by
  unfold tokenLoadHandler
  extract_lets +onlyGivenNames x1
  clear_value x1
  refine Only.ite ?_ ?_
  · exact Only.mono (completeMbx_only _ _ _) (by decide)
  · refine Only.ite ?_ ?_
    · exact Only.mono (completeMbx_only _ _ _) (by decide)
    · refine Only.ite ?_ ?_
      · exact Only.mono (completeMbx_only _ _ _) (by decide)
      · refine Only.after (completeMbx_only _ _ _) (by decide) ?_
        exact Only.mono (modSec_only _ _) (by decide)

theorem execTokenLoad_only (a0 : BitVec 4) (a1 : BitVec 16) (a2 : BitVec 8) (a3 : List (BitVec 8)) (s : State) :
    OnlyNext [.evm, .recd, .mbx, .sec] s (execTokenLoad a0 a1 a2 a3 s) := by
  unfold execTokenLoad
  refine OnlyNext.next ?_
  exact Only.mono (tokenLoadHandler_only _ _ _ _ _) (by decide)

theorem flushNow_only (s : State) :
    Only [.logMem, .recd, .draws] s (flushNow s) := by
  unfold flushNow
  refine Only.ite ?_ ?_
  · exact Only.refl _ _
  · refine Only.ite ?_ ?_
    · exact Only.mono (writeStaged_only _ _) (by decide)
    · refine Only.after (writeStaged_only _ _) (by decide) ?_
      refine only_upd_draws _ (by decide) ?_
      exact Only.refl _ _

theorem execHoldRelease_only (a0 : BitVec 4) (s : State) :
    OnlyNext [.boot, .evm, .recd, .mbx, .sec] s (execHoldRelease a0 s) := by
  unfold execHoldRelease
  refine OnlyNext.next ?_
  exact Only.mono (holdHandler_only _ _ _) (by decide)

theorem execDbgHalt_only (s : State) :
    OnlyNext [.sec] s (execDbgHalt s) := by
  unfold execDbgHalt
  refine OnlyNext.next ?_
  refine Only.ite ?_ ?_
  · exact Only.mono (dbgCtl_only _ _) (by decide)
  · exact Only.refl _ _

theorem execTapReset_only (s : State) :
    OnlyNext [.sec] s (execTapReset s) := by
  unfold execTapReset
  extract_lets +onlyGivenNames x1
  clear_value x1
  refine OnlyNext.next ?_
  exact Only.mono (modSec_only _ _) (by decide)

theorem execLcTransition_only (a0 : BitVec 4) (s : State) :
    OnlyNext (Part.but [.pending, .pins, .cclk, .flash, .sram, .sdir, .cal]) s (execLcTransition a0 s) := by
  unfold execLcTransition
  split
  · refine OnlyNext.next ?_
    exact Only.refl _ _
  · extract_lets +onlyGivenNames x1
    have h2 : Only (Part.but [Part.pending, Part.pins, Part.cclk, Part.flash, Part.sram, Part.sdir, Part.cal]) s x1 := by
      subst x1
      exact Only.mono (flushNow_only _) (by decide)
    clear_value x1
    extract_lets +onlyGivenNames x3 x4 x5
    clear_value x3 x4 x5
    extract_lets +onlyGivenNames x6
    have h7 : Only (Part.but [Part.pending, Part.pins, Part.cclk, Part.flash, Part.sram, Part.sdir, Part.cal]) s x6 := by
      subst x6
      refine only_upd_fuses_sec _ _ (by decide) ?_
      exact h2
    clear_value x6
    extract_lets +onlyGivenNames x8
    have h9 : Only (Part.but [Part.pending, Part.pins, Part.cclk, Part.flash, Part.sram, Part.sdir, Part.cal]) s x8 := by
      subst x8
      refine Only.after (raise_only _ _ _ _ _) (by decide) ?_
      exact h7
    clear_value x8
    extract_lets +onlyGivenNames x10
    have h11 : Only (Part.but [Part.pending, Part.pins, Part.cclk, Part.flash, Part.sram, Part.sdir, Part.cal]) s x10 := by
      subst x10
      refine Only.after (enterReset_only _ _ _ _) (by decide) ?_
      refine Only.after (flushNow_only _) (by decide) ?_
      exact h9
    clear_value x10
    refine OnlyNext.next ?_
    refine only_upd_boot _ (by decide) ?_
    exact h11

theorem execDbgResume_only (s : State) :
    OnlyNext [.sec] s (execDbgResume s) := by
  unfold execDbgResume
  refine OnlyNext.next ?_
  refine Only.ite ?_ ?_
  · exact Only.mono (dbgCtl_only _ _) (by decide)
  · exact Only.refl _ _

theorem execDbgSwinWrite_only (a0 : BitVec 32) (s : State) :
    OnlyNext [.sec] s (execDbgSwinWrite a0 s) := by
  unfold execDbgSwinWrite
  refine OnlyNext.next ?_
  refine Only.ite ?_ ?_
  · exact Only.mono (dbgSwin_only _ _) (by decide)
  · exact Only.refl _ _

theorem execClamp_only (s : State) :
    OnlyNext [.sec, .draws] s (execClamp s) := by
  unfold execClamp
  refine OnlyNext.next ?_
  refine Only.after (scanWith_only _ _) (by decide) ?_
  exact Only.mono (loadCells_only _) (by decide)

theorem execHighz_only (s : State) :
    OnlyNext [.sec] s (execHighz s) := by
  unfold execHighz
  refine OnlyNext.next ?_
  exact Only.mono (scanWith_only _ _) (by decide)

theorem execHold_only (a0 : BitVec 4) (s : State) :
    OnlyNext [.boot, .evm, .recd, .mbx, .sec] s (execHold a0 s) := by
  unfold execHold
  refine OnlyNext.next ?_
  exact Only.mono (holdHandler_only _ _ _) (by decide)

end Sys2Proof.Machine
end

