-- ==== Sys2Proof/Laws/FrameChk.lean ====
section
/-! SUPPORT. Sys2Proof/Laws/FrameChk.lean: which parts of the state each operation of Machine/Chk.lean changes. -/

set_option linter.unusedVariables false

namespace Sys2Proof.Machine

theorem viewOf_only (a0 : Img) (s : State) :
    Only [.boot, .hdr, .sects] s (viewOf a0 s) := by
  unfold viewOf
  refine only_upd_boot_hdr_sects _ _ _ (by decide) ?_
  exact Only.refl _ _

end Sys2Proof.Machine
end

