-- ==== Sys2Proof/Laws/FramePtc.lean ====
section
/-! SUPPORT. Sys2Proof/Laws/FramePtc.lean: which parts of the state each operation of Machine/Ptc.lean changes. -/

set_option linter.unusedVariables false

namespace Sys2Proof.Machine

theorem modPort_only (a0 : ℕ) (a1 : PtpPort → PtpPort) (s : State) :
    Only [.ptc] s (modPort a0 a1 s) := by
  unfold modPort
  refine only_upd_ptc _ (by decide) ?_
  exact Only.refl _ _

theorem ptpSend_only (a0 : ℕ) (a1 : List PtpMsg) (s : State) :
    Only [.ptc] s (ptpSend a0 a1 s) := by
  unfold ptpSend
  refine Only.ite ?_ ?_
  · exact Only.mono (modPort_only _ _ _) (by decide)
  · exact Only.refl _ _

theorem modSrc_only (a0 : ℕ) (a1 : PtcSrc → PtcSrc) (s : State) :
    Only [.ptc] s (modSrc a0 a1 s) := by
  unfold modSrc
  refine only_upd_ptc _ (by decide) ?_
  exact Only.refl _ _

theorem reselect_only (s : State) :
    Only [.evm, .recd, .ptc] s (reselect s) := by
  unfold reselect
  extract_lets +onlyGivenNames x1
  clear_value x1
  refine Only.ite ?_ ?_
  · exact Only.refl _ _
  · refine Only.after (raise_only _ _ _ _ _) (by decide) ?_
    refine only_upd_ptc _ (by decide) ?_
    exact Only.refl _ _

theorem setSrcValid_only (a0 : ℕ) (a1 : Bool) (s : State) :
    Only [.evm, .recd, .ptc] s (setSrcValid a0 a1 s) := by
  unfold setSrcValid
  refine Only.ite ?_ ?_
  · refine Only.ite ?_ ?_
    · exact Only.refl _ _
    · exact Only.mono (modSrc_only _ _ _) (by decide)
  · refine Only.ite ?_ ?_
    · refine Only.after (reselect_only _) (by decide) ?_
      exact Only.mono (modSrc_only _ _ _) (by decide)
    · refine Only.after (reselect_only _) (by decide) ?_
      exact Only.mono (modSrc_only _ _ _) (by decide)

theorem runBmca_only (s : State) :
    Only [.evm, .recd, .ptc] s (runBmca s) := by
  unfold runBmca
  extract_lets +onlyGivenNames x1 x2 x3 x4 x5
  clear_value x1 x2 x3 x4 x5
  split
  · extract_lets +onlyGivenNames x6
    have h7 : Only [Part.evm, Part.recd, Part.ptc] s x6 := by
      subst x6
      refine Only.foldl _ _ _ (fun u8 y h9 => ?_) ?_
      · extract_lets +onlyGivenNames x10
        clear_value x10
        refine Only.after (modPort_only _ _ _) (by decide) ?_
        exact h9
      · exact Only.refl _ _
    clear_value x6
    extract_lets +onlyGivenNames x11 x12
    clear_value x11 x12
    extract_lets +onlyGivenNames x13
    have h14 : Only [Part.evm, Part.recd, Part.ptc] s x13 := by
      subst x13
      refine only_upd_ptc _ (by decide) ?_
      exact h7
    clear_value x13
    extract_lets +onlyGivenNames x15
    have h16 : Only [Part.evm, Part.recd, Part.ptc] s x15 := by
      subst x15
      refine Only.ite ?_ ?_
      · split
        · refine Only.after (setSrcValid_only _ _ _) (by decide) ?_
          exact h14
        · exact h14
      · split
        · refine Only.after (setSrcValid_only _ _ _) (by decide) ?_
          exact h14
        · exact h14
    clear_value x15
    refine Only.ite ?_ ?_
    · exact h16
    · refine Only.after (raise_only _ _ _ _ _) (by decide) ?_
      exact h16

theorem ptpTimerEffect_only (a0 : ℕ) (a1 : PtpTimer) (s : State) :
    Only [.evm, .recd, .ptc] s (ptpTimerEffect a0 a1 s) := by
  unfold ptpTimerEffect
  split
  · extract_lets +onlyGivenNames x1
    clear_value x1
    extract_lets +onlyGivenNames x2
    have h3 : Only [Part.evm, Part.recd, Part.ptc] s x2 := by
      subst x2
      exact Only.mono (modPort_only _ _ _) (by decide)
    clear_value x2
    refine Only.after (ptpSend_only _ _ _) (by decide) ?_
    exact h3
  · extract_lets +onlyGivenNames x4
    have h5 : Only [Part.evm, Part.recd, Part.ptc] s x4 := by
      subst x4
      refine Only.after (runBmca_only _) (by decide) ?_
      exact Only.mono (modPort_only _ _ _) (by decide)
    clear_value x4
    refine Only.ite ?_ ?_
    · extract_lets +onlyGivenNames x6
      clear_value x6
      refine Only.after (ptpSend_only _ _ _) (by decide) ?_
      refine Only.after (modPort_only _ _ _) (by decide) ?_
      exact h5
    · exact h5
  · extract_lets +onlyGivenNames x7
    clear_value x7
    refine Only.after (ptpSend_only _ _ _) (by decide) ?_
    exact Only.mono (modPort_only _ _ _) (by decide)

theorem execPtpMessageTimer_only (a0 : Fin 4) (a1 : PtpTimer) (s : State) :
    OnlyNext [.evm, .recd, .ptc] s (execPtpMessageTimer a0 a1 s) := by
  unfold execPtpMessageTimer
  refine OnlyNext.next ?_
  refine Only.ite ?_ ?_
  · exact Only.mono (ptpTimerEffect_only _ _ _) (by decide)
  · exact Only.refl _ _

theorem execPtpDelayResponseReceived_only (a0 : Fin 4) (a1 : BitVec 16) (a2 : PtpTime) (a3 : PtpTime) (s : State) :
    OnlyNext [.ptc] s (execPtpDelayResponseReceived a0 a1 a2 a3 s) := by
  unfold execPtpDelayResponseReceived
  extract_lets +onlyGivenNames x1 x2
  clear_value x1 x2
  refine OnlyNext.ite ?_ ?_
  · refine OnlyNext.next ?_
    exact Only.refl _ _
  · refine OnlyNext.ite ?_ ?_
    · split
      · refine OnlyNext.next ?_
        exact Only.mono (modPort_only _ _ _) (by decide)
      · refine OnlyNext.next ?_
        exact Only.refl _ _
    · refine OnlyNext.next ?_
      exact Only.mono (modPort_only _ _ _) (by decide)

theorem execPtpSourceTimeout_only (a0 : Fin 4) (s : State) :
    OnlyNext [.evm, .recd, .ptc] s (execPtpSourceTimeout a0 s) := by
  unfold execPtpSourceTimeout
  refine OnlyNext.next ?_
  refine Only.ite ?_ ?_
  · refine Only.after (runBmca_only _) (by decide) ?_
    refine Only.after (setSrcValid_only _ _ _) (by decide) ?_
    refine Only.foldl _ _ _ (fun u1 y h2 => ?_) ?_
    · refine Only.ite ?_ ?_
      · refine Only.after (modPort_only _ _ _) (by decide) ?_
        exact h2
      · exact h2
    · exact Only.refl _ _
  · exact Only.refl _ _

theorem ptcReadEffect_only (s : State) :
    Only [.sdir, .evm, .recd] s (ptcReadEffect s) := by
  unfold ptcReadEffect
  extract_lets +onlyGivenNames x1 x2 x3 x4
  clear_value x1 x2 x3 x4
  extract_lets +onlyGivenNames x5
  have h6 : Only [Part.sdir, Part.evm, Part.recd] s x5 := by
    subst x5
    exact Only.mono (writeTime_only _ _ _ _ _ _ _) (by decide)
  clear_value x5
  extract_lets +onlyGivenNames x7
  have h8 : Only [Part.sdir, Part.evm, Part.recd] s x7 := by
    subst x7
    refine Only.after (writeSig_only _ _ _ _ _) (by decide) ?_
    exact h6
  clear_value x7
  extract_lets +onlyGivenNames x9
  have h10 : Only [Part.sdir, Part.evm, Part.recd] s x9 := by
    subst x9
    refine Only.after (writeNum_only _ _ _ _ _) (by decide) ?_
    exact h8
  clear_value x9
  extract_lets +onlyGivenNames x11
  have h12 : Only [Part.sdir, Part.evm, Part.recd] s x11 := by
    subst x11
    refine Only.after (writeNum_only _ _ _ _ _) (by decide) ?_
    exact h10
  clear_value x11
  extract_lets +onlyGivenNames x13
  have h14 : Only [Part.sdir, Part.evm, Part.recd] s x13 := by
    subst x13
    refine Only.after (writeNum_only _ _ _ _ _) (by decide) ?_
    exact h12
  clear_value x13
  refine Only.after (writeSig_only _ _ _ _ _) (by decide) ?_
  exact h14

theorem execPpsOutRise_only (s : State) :
    OnlyNext [.ptc] s (execPpsOutRise s) := by
  unfold execPpsOutRise
  refine OnlyNext.next ?_
  refine Only.ite ?_ ?_
  · refine only_upd_ptc _ (by decide) ?_
    exact Only.refl _ _
  · exact Only.refl _ _

theorem execPtpPdelayReqReceived_only (a0 : Fin 4) (a1 : BitVec 16) (s : State) :
    OnlyNext [.ptc] s (execPtpPdelayReqReceived a0 a1 s) := by
  unfold execPtpPdelayReqReceived
  refine OnlyNext.next ?_
  exact Only.mono (ptpSend_only _ _ _) (by decide)

theorem setRate_only (a0 : ℚ) (s : State) :
    Only [.seq, .ptc] s (setRate a0 s) := by
  unfold setRate
  refine Only.ite ?_ ?_
  · refine only_upd_ptc _ (by decide) ?_
    exact Only.refl _ _
  · refine Only.after (trimAlone_only _) (by decide) ?_
    refine only_upd_ptc _ (by decide) ?_
    exact Only.refl _ _

theorem setTimeStatus_only (a0 : BitVec 2) (s : State) :
    Only [.evm, .recd, .ptc] s (setTimeStatus a0 s) := by
  unfold setTimeStatus
  refine Only.ite ?_ ?_
  · exact Only.refl _ _
  · extract_lets +onlyGivenNames x1 x2 x3
    clear_value x1 x2 x3
    extract_lets +onlyGivenNames x4
    have h5 : Only [Part.evm, Part.recd, Part.ptc] s x4 := by
      subst x4
      refine only_upd_ptc _ (by decide) ?_
      exact Only.refl _ _
    clear_value x4
    refine Only.after (raise_only _ _ _ _ _) (by decide) ?_
    exact h5

theorem servo_only (a0 : ℚ) (s : State) :
    Only [.seq, .evm, .recd, .ptc] s (servo a0 s) := by
  unfold servo
  extract_lets +onlyGivenNames x1 x2 x3 x4
  clear_value x1 x2 x3 x4
  extract_lets +onlyGivenNames x5
  have h6 : Only [Part.seq, Part.evm, Part.recd, Part.ptc] s x5 := by
    subst x5
    refine Only.after (setRate_only _ _) (by decide) ?_
    refine only_upd_ptc _ (by decide) ?_
    exact Only.refl _ _
  clear_value x5
  refine Only.ite ?_ ?_
  · extract_lets +onlyGivenNames x7 x8
    clear_value x7 x8
    extract_lets +onlyGivenNames x9
    have h10 : Only [Part.seq, Part.evm, Part.recd, Part.ptc] s x9 := by
      subst x9
      refine only_upd_ptc _ (by decide) ?_
      exact h6
    clear_value x9
    refine Only.ite ?_ ?_
    · refine Only.after (setTimeStatus_only _ _) (by decide) ?_
      exact h10
    · exact h10
  · refine Only.ite ?_ ?_
    · extract_lets +onlyGivenNames x11 x12
      clear_value x11 x12
      extract_lets +onlyGivenNames x13
      have h14 : Only [Part.seq, Part.evm, Part.recd, Part.ptc] s x13 := by
        subst x13
        refine only_upd_ptc _ (by decide) ?_
        exact h6
      clear_value x13
      refine Only.ite ?_ ?_
      · refine Only.after (setTimeStatus_only _ _) (by decide) ?_
        exact h14
      · exact h14
    · exact h6

theorem execRefClkLost_only (s : State) :
    OnlyNext [.evm, .recd, .ptc] s (execRefClkLost s) := by
  unfold execRefClkLost
  refine OnlyNext.ite ?_ ?_
  · refine OnlyNext.next ?_
    exact Only.refl _ _
  · refine OnlyNext.next ?_
    refine Only.after (raise_only _ _ _ _ _) (by decide) ?_
    refine only_upd_ptc _ (by decide) ?_
    exact Only.refl _ _

theorem timeStep_only (a0 : ℕ) (a1 : ℚ) (s : State) :
    Only [.evm, .recd, .ptc] s (timeStep a0 a1 s) := by
  unfold timeStep
  extract_lets +onlyGivenNames x1 x2 x3 x4 x5 x6
  clear_value x1 x2 x3 x4 x5 x6
  extract_lets +onlyGivenNames x7
  have h8 : Only [Part.evm, Part.recd, Part.ptc] s x7 := by
    subst x7
    refine only_upd_ptc _ (by decide) ?_
    exact Only.refl _ _
  clear_value x7
  extract_lets +onlyGivenNames x9
  have h10 : Only [Part.evm, Part.recd, Part.ptc] s x9 := by
    subst x9
    refine Only.after (modSrc_only _ _ _) (by decide) ?_
    exact h8
  clear_value x9
  refine Only.after (setTimeStatus_only _ _) (by decide) ?_
  refine Only.after (raise_only _ _ _ _ _) (by decide) ?_
  exact h10

theorem measure_only (a0 : ℕ) (a1 : ℚ) (s : State) :
    Only [.seq, .evm, .recd, .ptc] s (measure a0 a1 s) := by
  unfold measure
  extract_lets +onlyGivenNames x1
  clear_value x1
  refine Only.ite ?_ ?_
  · exact Only.refl _ _
  · refine Only.ite ?_ ?_
    · refine Only.ite ?_ ?_
      · exact Only.mono (timeStep_only _ _ _) (by decide)
      · exact Only.refl _ _
    · refine Only.ite ?_ ?_
      · exact Only.mono (modSrc_only _ _ _) (by decide)
      · extract_lets +onlyGivenNames x2
        clear_value x2
        extract_lets +onlyGivenNames x3
        have h4 : Only [Part.seq, Part.evm, Part.recd, Part.ptc] s x3 := by
          subst x3
          refine Only.after (modSrc_only _ _ _) (by decide) ?_
          refine only_upd_ptc _ (by decide) ?_
          exact Only.refl _ _
        clear_value x3
        extract_lets +onlyGivenNames x5
        have h6 : Only [Part.seq, Part.evm, Part.recd, Part.ptc] s x5 := by
          subst x5
          refine Only.ite ?_ ?_
          · refine Only.after (setTimeStatus_only _ _) (by decide) ?_
            exact h4
          · exact h4
        clear_value x5
        refine Only.ite ?_ ?_
        · refine Only.after (servo_only _ _) (by decide) ?_
          exact h6
        · exact h6

theorem setCalendar_only (a0 : ℕ) (a1 : ℤ) (a2 : Bool) (s : State) :
    Only [.evm, .recd, .cal] s (setCalendar a0 a1 a2 s) := by
  unfold setCalendar
  extract_lets +onlyGivenNames x1 x2 x3
  clear_value x1 x2 x3
  extract_lets +onlyGivenNames x4
  have h5 : Only [Part.evm, Part.recd, Part.cal] s x4 := by
    subst x4
    refine only_upd_cal _ (by decide) ?_
    exact Only.refl _ _
  clear_value x4
  refine Only.ite ?_ ?_
  · refine Only.after (raise_only _ _ _ _ _) (by decide) ?_
    exact h5
  · exact h5

theorem execPtpAnnounceReceived_only (a0 : Fin 4) (a1 : PtpAnnounce) (s : State) :
    OnlyNext [.evm, .recd, .ptc] s (execPtpAnnounceReceived a0 a1 s) := by
  unfold execPtpAnnounceReceived
  refine OnlyNext.next ?_
  refine Only.after (runBmca_only _) (by decide) ?_
  exact Only.mono (modPort_only _ _ _) (by decide)

theorem execPtcRead_only (s : State) :
    OnlyNext [.boot, .seq, .cck, .sdir, .evm, .recd, .sec] s (execPtcRead s) := by
  unfold execPtcRead
  refine issue_only _ _ _ _ _ (by decide) ?_
  exact Only.mono (ptcReadEffect_only _) (by decide)

theorem syncDone_only (a0 : ℕ) (a1 : ℚ) (a2 : ℚ) (s : State) :
    Only [.seq, .evm, .recd, .ptc] s (syncDone a0 a1 a2 s) := by
  unfold syncDone
  extract_lets +onlyGivenNames x1
  clear_value x1
  extract_lets +onlyGivenNames x2
  have h3 : Only [Part.seq, Part.evm, Part.recd, Part.ptc] s x2 := by
    subst x2
    exact Only.mono (modPort_only _ _ _) (by decide)
  clear_value x2
  split
  · exact h3
  · refine Only.ite ?_ ?_
    · exact h3
    · refine Only.ite ?_ ?_
      · refine Only.after (modSrc_only _ _ _) (by decide) ?_
        exact h3
      · extract_lets +onlyGivenNames x4
        have h5 : Only [Part.seq, Part.evm, Part.recd, Part.ptc] s x4 := by
          subst x4
          refine Only.after (modSrc_only _ _ _) (by decide) ?_
          exact h3
        clear_value x4
        extract_lets +onlyGivenNames x6
        have h7 : Only [Part.seq, Part.evm, Part.recd, Part.ptc] s x6 := by
          subst x6
          refine Only.ite ?_ ?_
          · refine Only.after (setSrcValid_only _ _ _) (by decide) ?_
            exact h5
          · exact h5
        clear_value x6
        refine Only.after (measure_only _ _ _) (by decide) ?_
        exact h7

theorem execPtpSyncReceived_only (a0 : Fin 4) (a1 : BitVec 16) (a2 : Bool) (a3 : PtpTime) (s : State) :
    OnlyNext [.seq, .evm, .recd, .ptc] s (execPtpSyncReceived a0 a1 a2 a3 s) := by
  unfold execPtpSyncReceived
  refine OnlyNext.ite ?_ ?_
  · refine OnlyNext.next ?_
    exact Only.mono (modPort_only _ _ _) (by decide)
  · refine OnlyNext.next ?_
    exact Only.mono (syncDone_only _ _ _ _) (by decide)

theorem execCalendarLoad_only (s : State) :
    OnlyNext [.evm, .recd, .ptc, .cal] s (execCalendarLoad s) := by
  unfold execCalendarLoad
  refine OnlyNext.next ?_
  refine Only.ite ?_ ?_
  · refine Only.after (setCalendar_only _ _ _ _) (by decide) ?_
    refine only_upd_ptc _ (by decide) ?_
    exact Only.refl _ _
  · exact Only.refl _ _

theorem execTimeHoldoverEntry_only (s : State) :
    OnlyNext [.seq, .evm, .recd, .ptc] s (execTimeHoldoverEntry s) := by
  unfold execTimeHoldoverEntry
  refine OnlyNext.next ?_
  refine Only.ite ?_ ?_
  · refine Only.after (setRate_only _ _) (by decide) ?_
    exact Only.mono (setTimeStatus_only _ _) (by decide)
  · exact Only.refl _ _

theorem execPpsOutFall_only (s : State) :
    OnlyNext [.ptc] s (execPpsOutFall s) := by
  unfold execPpsOutFall
  refine OnlyNext.next ?_
  refine Only.ite ?_ ?_
  · refine only_upd_ptc _ (by decide) ?_
    exact Only.refl _ _
  · exact Only.refl _ _

theorem execPpsInEdge_only (a0 : Fin 2) (s : State) :
    OnlyNext [.seq, .evm, .recd, .ptc] s (execPpsInEdge a0 s) := by
  unfold execPpsInEdge
  split
  · refine OnlyNext.next ?_
    exact Only.refl _ _
  · extract_lets +onlyGivenNames x1 x2
    clear_value x1 x2
    refine OnlyNext.ite ?_ ?_
    · refine OnlyNext.next ?_
      exact Only.refl _ _
    · refine OnlyNext.ite ?_ ?_
      · refine OnlyNext.next ?_
        exact Only.mono (modSrc_only _ _ _) (by decide)
      · extract_lets +onlyGivenNames x3 x4 x5 x6
        clear_value x3 x4 x5 x6
        extract_lets +onlyGivenNames x7
        have h8 : Only [Part.seq, Part.evm, Part.recd, Part.ptc] s x7 := by
          subst x7
          refine only_upd_ptc _ (by decide) ?_
          exact Only.refl _ _
        clear_value x7
        extract_lets +onlyGivenNames x9
        have h10 : Only [Part.seq, Part.evm, Part.recd, Part.ptc] s x9 := by
          subst x9
          refine Only.after (modSrc_only _ _ _) (by decide) ?_
          exact h8
        clear_value x9
        extract_lets +onlyGivenNames x11
        have h12 : Only [Part.seq, Part.evm, Part.recd, Part.ptc] s x11 := by
          subst x11
          refine Only.ite ?_ ?_
          · refine Only.after (setSrcValid_only _ _ _) (by decide) ?_
            exact h10
          · exact h10
        clear_value x11
        refine OnlyNext.next ?_
        refine Only.after (measure_only _ _ _) (by decide) ?_
        exact h12

theorem execPpsInMiss_only (a0 : Fin 2) (s : State) :
    OnlyNext [.evm, .recd, .ptc] s (execPpsInMiss a0 s) := by
  unfold execPpsInMiss
  split
  · refine OnlyNext.next ?_
    exact Only.refl _ _
  · refine OnlyNext.ite ?_ ?_
    · extract_lets +onlyGivenNames x1
      clear_value x1
      refine OnlyNext.next ?_
      refine Only.after (raise_only _ _ _ _ _) (by decide) ?_
      refine Only.after (setSrcValid_only _ _ _) (by decide) ?_
      refine only_upd_ptc _ (by decide) ?_
      exact Only.refl _ _
    · refine OnlyNext.next ?_
      exact Only.refl _ _

theorem execSourceHoldExpired_only (a0 : Fin 4) (s : State) :
    OnlyNext [.evm, .recd, .ptc] s (execSourceHoldExpired a0 s) := by
  unfold execSourceHoldExpired
  refine OnlyNext.next ?_
  refine Only.ite ?_ ?_
  · refine Only.after (reselect_only _) (by decide) ?_
    exact Only.mono (modSrc_only _ _ _) (by decide)
  · exact Only.refl _ _

theorem execPtpFollowUpReceived_only (a0 : Fin 4) (a1 : BitVec 16) (a2 : PtpTime) (s : State) :
    OnlyNext [.seq, .evm, .recd, .ptc] s (execPtpFollowUpReceived a0 a1 a2 s) := by
  unfold execPtpFollowUpReceived
  split
  · refine OnlyNext.ite ?_ ?_
    · refine OnlyNext.next ?_
      exact Only.mono (syncDone_only _ _ _ _) (by decide)
    · refine OnlyNext.next ?_
      exact Only.refl _ _
  · refine OnlyNext.next ?_
    exact Only.refl _ _

theorem execRefClkBack_only (s : State) :
    OnlyNext [.evm, .recd, .ptc] s (execRefClkBack s) := by
  unfold execRefClkBack
  refine OnlyNext.ite ?_ ?_
  · refine OnlyNext.next ?_
    refine Only.after (raise_only _ _ _ _ _) (by decide) ?_
    refine only_upd_ptc _ (by decide) ?_
    exact Only.refl _ _
  · refine OnlyNext.next ?_
    exact Only.refl _ _

end Sys2Proof.Machine
end

