-- ==== Sys2Proof/Laws/FrameSer.lean ====
section
/-! SUPPORT. Sys2Proof/Laws/FrameSer.lean: which parts of the state each operation of Machine/Ser.lean changes. -/

set_option linter.unusedVariables false

namespace Sys2Proof.Machine

theorem setSer_only (a0 : ℕ) (a1 : SerPort) (s : State) :
    Only [.ports] s (setSer a0 a1 s) := by
  unfold setSer
  refine only_upd_ports _ (by decide) ?_
  exact Only.refl _ _

theorem modSer_only (a0 : ℕ) (a1 : SerPort → SerPort) (s : State) :
    Only [.ports] s (modSer a0 a1 s) := by
  unfold modSer
  exact Only.mono (setSer_only _ _ _) (by decide)

theorem serEnable_only (a0 : ℕ) (s : State) :
    Only [.ports] s (serEnable a0 s) := by
  unfold serEnable
  exact Only.mono (modSer_only _ _ _) (by decide)

theorem serSeal_only (s : State) :
    Only [.ports] s (serSeal s) := by
  unfold serSeal
  refine Only.foldl _ _ _ (fun u1 y h2 => ?_) ?_
  · refine Only.ite ?_ ?_
    · refine Only.after (serEnable_only _ _) (by decide) ?_
      exact h2
    · exact h2
  · exact Only.refl _ _

theorem serStart_only (a0 : ℕ) (s : State) :
    Only [.ports] s (serStart a0 s) := by
  unfold serStart
  extract_lets +onlyGivenNames x1
  clear_value x1
  split
  · exact Only.mono (setSer_only _ _ _) (by decide)
  · exact Only.refl _ _

theorem serGate1_only (s : State) (a1 : ℕ) :
    Only [.ports] s (serGate1 s a1) := by
  unfold serGate1
  extract_lets +onlyGivenNames x1
  clear_value x1
  refine Only.ite ?_ ?_
  · exact Only.refl _ _
  · exact Only.mono (setSer_only _ _ _) (by decide)

theorem serFail_only (a0 : ℕ) (a1 : ℕ) (a2 : ℕ) (s : State) :
    Only [.evm, .recd, .ports] s (serFail a0 a1 a2 s) := by
  unfold serFail
  extract_lets +onlyGivenNames x1
  have h2 : Only [Part.evm, Part.recd, Part.ports] s x1 := by
    subst x1
    exact Only.mono (modSer_only _ _ _) (by decide)
  clear_value x1
  refine Only.after (raise_only _ _ _ _ _) (by decide) ?_
  exact h2

theorem execSerCharacterError_only (a0 : Fin 12) (a1 : SerErr) (a2 : BitVec 16) (s : State) :
    OnlyNext [.evm, .recd, .ports] s (execSerCharacterError a0 a1 a2 s) := by
  unfold execSerCharacterError
  refine OnlyNext.ite ?_ ?_
  · refine OnlyNext.next ?_
    exact Only.mono (serFail_only _ _ _ _) (by decide)
  · refine OnlyNext.next ?_
    exact Only.refl _ _

theorem serDisable_only (a0 : ℕ) (s : State) :
    Only [.ports] s (serDisable a0 s) := by
  unfold serDisable
  exact Only.mono (modSer_only _ _ _) (by decide)

theorem serRefresh_only (s : State) :
    Only [.ports] s (serRefresh s) := by
  unfold serRefresh
  refine Only.ite ?_ ?_
  · exact Only.refl _ _
  · refine Only.foldl _ _ _ (fun u1 y h2 => ?_) ?_
    · refine Only.after (serGate1_only _ _) (by decide) ?_
      exact h2
    · exact Only.refl _ _

theorem serLand_only (a0 : ℕ) (a1 : RxData) (s : State) :
    Only [.lbus, .evm, .recd, .ports] s (serLand a0 a1 s) := by
  unfold serLand
  extract_lets +onlyGivenNames x1
  clear_value x1
  split
  · exact Only.mono (modSer_only _ _ _) (by decide)
  · extract_lets +onlyGivenNames x2
    have h3 : Only [Part.lbus, Part.evm, Part.recd, Part.ports] s x2 := by
      subst x2
      exact Only.mono (modSer_only _ _ _) (by decide)
    clear_value x2
    split
    · refine Only.after (modSer_only _ _ _) (by decide) ?_
      exact h3
    · extract_lets +onlyGivenNames x4
      clear_value x4
      split
      · refine Only.after (lbuComplete_only _ _ _ _ _) (by decide) ?_
        refine Only.after (modSer_only _ _ _) (by decide) ?_
        exact h3
      · refine Only.after (raise_only _ _ _ _ _) (by decide) ?_
        refine Only.after (modSer_only _ _ _) (by decide) ?_
        exact h3

theorem serNmea_only (a0 : ℕ) (a1 : List Byte) (s : State) :
    Only [.lbus, .evm, .recd, .ports] s (serNmea a0 a1 s) := by
  unfold serNmea
  refine Only.ite ?_ ?_
  · exact Only.refl _ _
  · refine Only.ite ?_ ?_
    · exact Only.mono (serFail_only _ _ _ _) (by decide)
    · refine Only.ite ?_ ?_
      · exact Only.mono (serFail_only _ _ _ _) (by decide)
      · refine Only.ite ?_ ?_
        · exact Only.mono (serFail_only _ _ _ _) (by decide)
        · exact Only.mono (serLand_only _ _ _) (by decide)

theorem serHunt_only (a0 : ℕ) (a1 : ℕ) (a2 : List Byte) (s : State) :
    Only [.lbus, .evm, .recd, .ports] s (serHunt a0 a1 a2 s) := by
  unfold serHunt
  split
  · exact Only.refl _ _
  · split
    · exact Only.mono (serHunt_only _ _ _ _) (by decide)
    · refine Only.ite ?_ ?_
      · refine Only.after (serHunt_only _ _ _ _) (by decide) ?_
        exact Only.mono (serFail_only _ _ _ _) (by decide)
      · refine Only.ite ?_ ?_
        · exact Only.refl _ _
        · refine Only.ite ?_ ?_
          · refine Only.after (serHunt_only _ _ _ _) (by decide) ?_
            exact Only.mono (serFail_only _ _ _ _) (by decide)
          · refine Only.after (serHunt_only _ _ _ _) (by decide) ?_
            exact Only.mono (serLand_only _ _ _) (by decide)

theorem serIdle_only (a0 : ℕ) (a1 : List Byte) (s : State) :
    Only [.lbus, .evm, .recd, .ports] s (serIdle a0 a1 s) := by
  unfold serIdle
  refine Only.ite ?_ ?_
  · exact Only.refl _ _
  · refine Only.ite ?_ ?_
    · exact Only.mono (serFail_only _ _ _ _) (by decide)
    · refine Only.ite ?_ ?_
      · exact Only.mono (serFail_only _ _ _ _) (by decide)
      · exact Only.mono (serLand_only _ _ _) (by decide)

theorem serTelegram_only (a0 : ℕ) (a1 : List Byte) (s : State) :
    Only [.lbus, .evm, .recd, .ports] s (serTelegram a0 a1 s) := by
  unfold serTelegram
  refine Only.ite ?_ ?_
  · exact Only.refl _ _
  · split
    · exact Only.mono (serNmea_only _ _ _) (by decide)
    · exact Only.mono (serHunt_only _ _ _ _) (by decide)
    · exact Only.mono (serIdle_only _ _ _) (by decide)
    · exact Only.refl _ _

theorem serTxEffect_only (a0 : ℕ) (a1 : ℕ) (s : State) :
    Only [.ports] s (serTxEffect a0 a1 s) := by
  unfold serTxEffect
  extract_lets +onlyGivenNames x1 x2
  clear_value x1 x2
  refine Only.ite ?_ ?_
  · exact Only.mono (setSer_only _ _ _) (by decide)
  · extract_lets +onlyGivenNames x3
    clear_value x3
    exact Only.mono (setSer_only _ _ _) (by decide)

theorem execSerTxArrival_only (a0 : Fin 12) (s : State) :
    OnlyNext [.ports] s (execSerTxArrival a0 s) := by
  unfold execSerTxArrival
  extract_lets +onlyGivenNames x1
  clear_value x1
  split
  · refine OnlyNext.ite ?_ ?_
    · refine OnlyNext.next ?_
      refine Only.after (serStart_only _ _) (by decide) ?_
      exact Only.mono (setSer_only _ _ _) (by decide)
    · refine OnlyNext.next ?_
      exact Only.refl _ _
  · refine OnlyNext.next ?_
    exact Only.refl _ _

theorem execSerChunkClose_only (a0 : Fin 12) (a1 : List (BitVec 8)) (s : State) :
    OnlyNext [.lbus, .evm, .recd, .ports] s (execSerChunkClose a0 a1 s) := by
  unfold execSerChunkClose
  refine OnlyNext.ite ?_ ?_
  · extract_lets +onlyGivenNames x1
    have h2 : Only [Part.lbus, Part.evm, Part.recd, Part.ports] s x1 := by
      subst x1
      exact Only.mono (modSer_only _ _ _) (by decide)
    clear_value x1
    extract_lets +onlyGivenNames x3 x4
    clear_value x3 x4
    refine OnlyNext.next ?_
    refine Only.after (landFrom_only _ _ _ _ _) (by decide) ?_
    exact h2
  · refine OnlyNext.next ?_
    exact Only.refl _ _

theorem execSerTelegramSent_only (a0 : Fin 12) (s : State) :
    OnlyNext [.ports] s (execSerTelegramSent a0 s) := by
  unfold execSerTelegramSent
  refine OnlyNext.ite ?_ ?_
  · refine OnlyNext.next ?_
    refine Only.after (serStart_only _ _) (by decide) ?_
    exact Only.mono (modSer_only _ _ _) (by decide)
  · refine OnlyNext.next ?_
    exact Only.refl _ _

theorem execSerTelegramReceived_only (a0 : Fin 12) (a1 : List (BitVec 8)) (s : State) :
    OnlyNext [.lbus, .evm, .recd, .ports] s (execSerTelegramReceived a0 a1 s) := by
  unfold execSerTelegramReceived
  refine OnlyNext.ite ?_ ?_
  · refine OnlyNext.next ?_
    exact Only.mono (serTelegram_only _ _ _) (by decide)
  · refine OnlyNext.next ?_
    exact Only.refl _ _

theorem execSerTx_only (a0 : Fin 12) (a1 : BitVec 6) (s : State) :
    OnlyNext [.boot, .seq, .cck, .sdir, .evm, .recd, .sec, .ports] s (execSerTx a0 a1 s) := by
  unfold execSerTx
  extract_lets +onlyGivenNames x1
  clear_value x1
  refine issue_only _ _ _ _ _ (by decide) ?_
  refine Only.ite ?_ ?_
  · exact Only.mono (breach_only _ _ _) (by decide)
  · exact Only.mono (serTxEffect_only _ _ _) (by decide)

end Sys2Proof.Machine
end

