-- ==== Sys2Proof/Laws/FrameEth.lean ====
section
/-! SUPPORT. Sys2Proof/Laws/FrameEth.lean: which parts of the state each operation of Machine/Eth.lean changes. -/

set_option linter.unusedVariables false

namespace Sys2Proof.Machine

theorem setEth_only (a0 : ℕ) (a1 : EthPort) (s : State) :
    Only [.ports] s (setEth a0 a1 s) := by
  unfold setEth
  refine only_upd_ports _ (by decide) ?_
  exact Only.refl _ _

theorem ethTxEffect_only (a0 : ℕ) (a1 : ℕ) (s : State) :
    Only [.ports] s (ethTxEffect a0 a1 s) := by
  unfold ethTxEffect
  extract_lets +onlyGivenNames x1 x2 x3 x4 x5
  clear_value x1 x2 x3 x4 x5
  refine Only.ite ?_ ?_
  · exact Only.mono (setEth_only _ _ _) (by decide)
  · extract_lets +onlyGivenNames x6 x7 x8
    clear_value x6 x7 x8
    exact Only.mono (setEth_only _ _ _) (by decide)

theorem modEth_only (a0 : ℕ) (a1 : EthPort → EthPort) (s : State) :
    Only [.ports] s (modEth a0 a1 s) := by
  unfold modEth
  exact Only.mono (setEth_only _ _ _) (by decide)

theorem ethDiscard_only (a0 : ℕ) (s : State) :
    Only [.ports] s (ethDiscard a0 s) := by
  unfold ethDiscard
  exact Only.mono (modEth_only _ _ _) (by decide)

theorem ethAdmit_only (a0 : ℕ) (s : State) :
    Only [.evm, .recd, .ports] s (ethAdmit a0 s).2 := by
  unfold ethAdmit
  extract_lets +onlyGivenNames x1
  clear_value x1
  extract_lets +onlyGivenNames x2
  have h3 : Only [Part.evm, Part.recd, Part.ports] s x2 := by
    subst x2
    refine Only.ite ?_ ?_
    · exact Only.refl _ _
    · exact Only.mono (modEth_only _ _ _) (by decide)
  clear_value x2
  extract_lets +onlyGivenNames x4
  clear_value x4
  refine Only.snd_ite ?_ ?_
  · extract_lets +onlyGivenNames x5
    have h6 : Only [Part.evm, Part.recd, Part.ports] s x5 := by
      subst x5
      refine Only.after (setEth_only _ _ _) (by decide) ?_
      exact h3
    clear_value x5
    refine Only.snd_mk ?_
    refine Only.ite ?_ ?_
    · refine Only.after (raise_only _ _ _ _ _) (by decide) ?_
      exact h6
    · exact h6
  · refine Only.snd_mk ?_
    refine Only.after (setEth_only _ _ _) (by decide) ?_
    exact h3

theorem ethLand_only (a0 : ℕ) (a1 : ℕ) (a2 : ℕ) (a3 : RxData) (s : State) :
    Only [.lbus, .evm, .recd, .ports] s (ethLand a0 a1 a2 a3 s) := by
  unfold ethLand
  extract_lets +onlyGivenNames x1
  have h2 : Only [Part.lbus, Part.evm, Part.recd, Part.ports] s x1 := by
    subst x1
    exact Only.mono (modEth_only _ _ _) (by decide)
  clear_value x1
  split
  · refine Only.after (modEth_only _ _ _) (by decide) ?_
    exact h2
  · extract_lets +onlyGivenNames x3
    clear_value x3
    split
    · refine Only.after (lbuComplete_only _ _ _ _ _) (by decide) ?_
      refine Only.after (modEth_only _ _ _) (by decide) ?_
      exact h2
    · refine Only.after (raise_only _ _ _ _ _) (by decide) ?_
      exact h2

theorem ethUdp_only (a0 : ℕ) (a1 : ℕ) (a2 : ℕ) (a3 : ℕ) (a4 : ℕ) (a5 : List Byte) (s : State) :
    Only [.lbus, .evm, .recd, .ports] s (ethUdp a0 a1 a2 a3 a4 a5 s) := by
  unfold ethUdp
  extract_lets +onlyGivenNames x1
  clear_value x1
  split
  · exact Only.mono (ethDiscard_only _ _) (by decide)
  · extract_lets +onlyGivenNames x2
    clear_value x2
    refine Only.ite ?_ ?_
    · extract_lets +onlyGivenNames x3
      clear_value x3
      refine Only.ite ?_ ?_
      · exact Only.mono (modEth_only _ _ _) (by decide)
      · exact Only.mono (modEth_only _ _ _) (by decide)
    · refine Only.ite ?_ ?_
      · split
        · exact Only.mono (ethLand_only _ _ _ _ _) (by decide)
        · exact Only.mono (ethDiscard_only _ _) (by decide)
      · extract_lets +onlyGivenNames x4 x5 x6 x7
        clear_value x4 x5 x6 x7
        refine Only.ite ?_ ?_
        · exact Only.mono (ethDiscard_only _ _) (by decide)
        · refine Only.foldl _ _ _ (fun u8 y h9 => ?_) ?_
          · refine Only.after (ethLand_only _ _ _ _ _) (by decide) ?_
            exact h9
          · exact Only.refl _ _

theorem ethDeliver_only (a0 : ℕ) (a1 : EthFrame) (s : State) :
    Only [.lbus, .evm, .recd, .ports] s (ethDeliver a0 a1 s) := by
  unfold ethDeliver
  split
  · refine Only.ite ?_ ?_
    · exact Only.mono (modEth_only _ _ _) (by decide)
    · exact Only.mono (ethDiscard_only _ _) (by decide)
  · exact Only.refl _ _
  · refine Only.ite ?_ ?_
    · exact Only.refl _ _
    · exact Only.mono (ethDiscard_only _ _) (by decide)
  · refine Only.ite ?_ ?_
    · exact Only.mono (ethDiscard_only _ _) (by decide)
    · refine Only.ite ?_ ?_
      · exact Only.mono (modEth_only _ _ _) (by decide)
      · exact Only.mono (ethUdp_only _ _ _ _ _ _ _) (by decide)
  · exact Only.mono (ethDiscard_only _ _) (by decide)

theorem ethFrame_only (a0 : ℕ) (a1 : EthFrame) (s : State) :
    Only [.lbus, .evm, .recd, .ports] s (ethFrame a0 a1 s) := by
  unfold ethFrame
  refine Only.ite ?_ ?_
  · exact Only.mono (modEth_only _ _ _) (by decide)
  · refine Only.ite ?_ ?_
    · exact Only.mono (ethDiscard_only _ _) (by decide)
    · extract_lets +onlyGivenNames x1
      have h2 : Only [Part.lbus, Part.evm, Part.recd, Part.ports] s x1.2 := by
        subst x1
        exact Only.mono (ethAdmit_only _ _) (by decide)
      clear_value x1
      refine Only.ite ?_ ?_
      · refine Only.after (ethDeliver_only _ _ _) (by decide) ?_
        exact h2
      · exact h2

theorem execEthFrameReceived_only (a0 : Fin 4) (a1 : EthFrame) (s : State) :
    OnlyNext [.lbus, .evm, .recd, .ports] s (execEthFrameReceived a0 a1 s) := by
  unfold execEthFrameReceived
  refine OnlyNext.ite ?_ ?_
  · refine OnlyNext.next ?_
    exact Only.mono (ethFrame_only _ _ _) (by decide)
  · refine OnlyNext.next ?_
    exact Only.refl _ _

theorem ethDisable_only (a0 : ℕ) (s : State) :
    Only [.ports] s (ethDisable a0 s) := by
  unfold ethDisable
  exact Only.mono (modEth_only _ _ _) (by decide)

theorem execEthLink_only (a0 : Fin 4) (a1 : LinkWord) (s : State) :
    OnlyNext [.evm, .recd, .pack, .ports] s (execEthLink a0 a1 s) := by
  unfold execEthLink
  extract_lets +onlyGivenNames x1
  clear_value x1
  refine OnlyNext.ite ?_ ?_
  · refine OnlyNext.next ?_
    exact Only.refl _ _
  · extract_lets +onlyGivenNames x2
    have h3 : Only [Part.evm, Part.recd, Part.pack, Part.ports] s x2 := by
      subst x2
      exact Only.mono (modEth_only _ _ _) (by decide)
    clear_value x2
    extract_lets +onlyGivenNames x4 x5
    clear_value x4 x5
    extract_lets +onlyGivenNames x6
    have h7 : Only [Part.evm, Part.recd, Part.pack, Part.ports] s x6 := by
      subst x6
      refine Only.ite ?_ ?_
      · refine only_upd_pack _ (by decide) ?_
        exact h3
      · exact h3
    clear_value x6
    refine OnlyNext.next ?_
    refine Only.after (raise_only _ _ _ _ _) (by decide) ?_
    exact h7

theorem execEthRawChunk_only (a0 : Fin 4) (a1 : BitVec 8) (s : State) :
    OnlyNext [.lbus, .evm, .recd, .ports] s (execEthRawChunk a0 a1 s) := by
  unfold execEthRawChunk
  extract_lets +onlyGivenNames x1 x2
  clear_value x1 x2
  refine OnlyNext.ite ?_ ?_
  · extract_lets +onlyGivenNames x3
    clear_value x3
    extract_lets +onlyGivenNames x4
    have h5 : Only [Part.lbus, Part.evm, Part.recd, Part.ports] s x4 := by
      subst x4
      exact Only.mono (setEth_only _ _ _) (by decide)
    clear_value x4
    refine OnlyNext.next ?_
    refine Only.after (landFrom_only _ _ _ _ _) (by decide) ?_
    exact h5
  · refine OnlyNext.next ?_
    exact Only.refl _ _

theorem execEthTx_only (a0 : Fin 4) (a1 : BitVec 6) (s : State) :
    OnlyNext [.boot, .seq, .cck, .sdir, .evm, .recd, .sec, .ports] s (execEthTx a0 a1 s) := by
  unfold execEthTx
  extract_lets +onlyGivenNames x1
  clear_value x1
  refine issue_only _ _ _ _ _ (by decide) ?_
  refine Only.ite ?_ ?_
  · exact Only.mono (breach_only _ _ _) (by decide)
  · exact Only.mono (ethTxEffect_only _ _ _) (by decide)

end Sys2Proof.Machine
end

