-- ==== Sys2Proof/Laws/FrameLoops.lean ====
section
/-! SUPPORT. Sys2Proof/Laws/FrameLoops.lean: which parts of the state each operation of Machine/Loops.lean changes. -/

set_option linter.unusedVariables false

namespace Sys2Proof.Machine

theorem setLpo_only (a0 : ℕ) (a1 : Lpo) (s : State) :
    Only [.loops] s (setLpo a0 a1 s) := by
  unfold setLpo
  refine only_upd_loops _ (by decide) ?_
  exact Only.refl _ _

theorem modLpo_only (a0 : ℕ) (a1 : Lpo → Lpo) (s : State) :
    Only [.loops] s (modLpo a0 a1 s) := by
  unfold modLpo
  exact Only.mono (setLpo_only _ _ _) (by decide)

theorem lpoRefresh1_only (s : State) (a1 : ℕ) :
    Only [.loops] s (lpoRefresh1 s a1) := by
  unfold lpoRefresh1
  extract_lets +onlyGivenNames x1 x2
  clear_value x1 x2
  refine Only.ite ?_ ?_
  · exact Only.refl _ _
  · extract_lets +onlyGivenNames x3 x4 x5 x6 x7
    clear_value x3 x4 x5 x6 x7
    exact Only.mono (setLpo_only _ _ _) (by decide)

theorem lpoEnable_only (a0 : ℕ) (s : State) :
    Only [.loops] s (lpoEnable a0 s) := by
  unfold lpoEnable
  refine Only.after (modLpo_only _ _ _) (by decide) ?_
  exact Only.mono (lpoRefresh1_only _ _) (by decide)

theorem lpoClear_only (a0 : ℕ) (s : State) :
    Only [.evm, .recd, .mbx, .loops] s (lpoClear a0 s) := by
  unfold lpoClear
  split
  · exact Only.refl _ _
  · extract_lets +onlyGivenNames x1
    clear_value x1
    extract_lets +onlyGivenNames x2
    have h3 : Only [Part.evm, Part.recd, Part.mbx, Part.loops] s x2 := by
      subst x2
      refine only_upd_loops _ (by decide) ?_
      exact Only.refl _ _
    clear_value x2
    extract_lets +onlyGivenNames x4
    have h5 : Only [Part.evm, Part.recd, Part.mbx, Part.loops] s x4 := by
      subst x4
      refine Only.after (modLpo_only _ _ _) (by decide) ?_
      exact h3
    clear_value x4
    refine Only.after (completeMbx_only _ _ _) (by decide) ?_
    refine Only.after (raise_only _ _ _ _ _) (by decide) ?_
    exact h5

theorem lpoOut_only (a0 : ℕ) (a1 : ℕ) (a2 : Bool) (s : State) :
    Only [.sdir, .evm, .recd] s (lpoOut a0 a1 a2 s) := by
  unfold lpoOut
  extract_lets +onlyGivenNames x1 x2 x3
  clear_value x1 x2 x3
  extract_lets +onlyGivenNames x4
  have h5 : Only [Part.sdir, Part.evm, Part.recd] s x4 := by
    subst x4
    refine Only.ite ?_ ?_
    · exact Only.mono (writeSig_only _ _ _ _ _) (by decide)
    · exact Only.mono (writeSig_only _ _ _ _ _) (by decide)
  clear_value x4
  refine Only.after (writeSig_only _ _ _ _ _) (by decide) ?_
  exact h5

theorem lpoSetEffect_only (a0 : ℕ) (s : State) :
    Only [.sdir, .evm, .recd, .mbx, .loops] s (lpoSetEffect a0 s) := by
  unfold lpoSetEffect
  extract_lets +onlyGivenNames x1
  have h2 : Only [Part.sdir, Part.evm, Part.recd, Part.mbx, Part.loops] s x1 := by
    subst x1
    refine Only.after (lpoClear_only _ _) (by decide) ?_
    exact Only.mono (lpoRefresh1_only _ _) (by decide)
  clear_value x1
  extract_lets +onlyGivenNames x3 x4 x5
  clear_value x3 x4 x5
  refine Only.after (lpoOut_only _ _ _ _) (by decide) ?_
  refine Only.after (lpoRefresh1_only _ _) (by decide) ?_
  refine Only.after (setLpo_only _ _ _) (by decide) ?_
  exact h2

theorem setLpi_only (a0 : ℕ) (a1 : Lpi) (s : State) :
    Only [.loops] s (setLpi a0 a1 s) := by
  unfold setLpi
  refine only_upd_loops _ (by decide) ?_
  exact Only.refl _ _

theorem lpiCheckEffect_only (a0 : ℕ) (s : State) :
    Only [.sdir, .evm, .recd, .loops] s (lpiCheckEffect a0 s) := by
  unfold lpiCheckEffect
  extract_lets +onlyGivenNames x1 x2 x3 x4
  clear_value x1 x2 x3 x4
  refine Only.ite ?_ ?_
  · refine Only.after (writeSig_only _ _ _ _ _) (by decide) ?_
    exact Only.mono (setLpi_only _ _ _) (by decide)
  · extract_lets +onlyGivenNames x5 x6 x7 x8 x9 x10
    clear_value x5 x6 x7 x8 x9 x10
    extract_lets +onlyGivenNames x11
    have h12 : Only [Part.sdir, Part.evm, Part.recd, Part.loops] s x11 := by
      subst x11
      refine Only.ite ?_ ?_
      · exact Only.mono (raise_only _ _ _ _ _) (by decide)
      · exact Only.refl _ _
    clear_value x11
    refine Only.after (writeSig_only _ _ _ _ _) (by decide) ?_
    refine Only.after (setLpi_only _ _ _) (by decide) ?_
    exact h12

theorem lpoDisable_only (a0 : ℕ) (s : State) :
    Only [.evm, .recd, .mbx, .loops] s (lpoDisable a0 s) := by
  unfold lpoDisable
  extract_lets +onlyGivenNames x1 x2
  clear_value x1 x2
  extract_lets +onlyGivenNames x3
  have h4 : Only [Part.evm, Part.recd, Part.mbx, Part.loops] s x3 := by
    subst x3
    refine only_upd_loops _ (by decide) ?_
    exact Only.refl _ _
  clear_value x3
  refine Only.after (lpoRefresh1_only _ _) (by decide) ?_
  refine Only.foldl _ _ _ (fun u5 y h6 => ?_) ?_
  · refine Only.after (abortMbx_only _ _) (by decide) ?_
    exact h6
  · exact h4

theorem lpoRefresh_only (s : State) :
    Only [.loops] s (lpoRefresh s) := by
  unfold lpoRefresh
  refine Only.foldl _ _ _ (fun u1 y h2 => ?_) ?_
  · refine Only.after (lpoRefresh1_only _ _) (by decide) ?_
    exact h2
  · exact Only.refl _ _

theorem aljBoundary_only (s : State) :
    Only [.evm, .recd, .loops] s (aljBoundary s) := by
  unfold aljBoundary
  refine Only.ite ?_ ?_
  · exact Only.refl _ _
  · refine Only.ite ?_ ?_
    · refine only_upd_loops _ (by decide) ?_
      exact Only.refl _ _
    · refine Only.ite ?_ ?_
      · exact Only.refl _ _
      · refine Only.after (raise_only _ _ _ _ _) (by decide) ?_
        refine only_upd_loops _ (by decide) ?_
        exact Only.refl _ _

theorem lpoChange_only (a0 : ℕ) (a1 : Lpo → Lpo) (s : State) :
    Only [.loops] s (lpoChange a0 a1 s) := by
  unfold lpoChange
  extract_lets +onlyGivenNames x1 x2
  clear_value x1 x2
  exact Only.mono (setLpo_only _ _ _) (by decide)

theorem execLpoCodeApply_only (a0 : BitVec 4) (s : State) :
    OnlyNext [.loops] s (execLpoCodeApply a0 s) := by
  unfold execLpoCodeApply
  extract_lets +onlyGivenNames x1
  clear_value x1
  split
  · refine OnlyNext.next ?_
    exact Only.refl _ _
  · refine OnlyNext.ite ?_ ?_
    · refine OnlyNext.next ?_
      exact Only.refl _ _
    · refine OnlyNext.next ?_
      refine Only.ite ?_ ?_
      · exact Only.mono (modLpo_only _ _ _) (by decide)
      · exact Only.mono (lpoChange_only _ _ _) (by decide)

theorem execLpoLatchStrobe_only (a0 : BitVec 16) (s : State) :
    OnlyNext [.ttu, .loops] s (execLpoLatchStrobe a0 s) := by
  unfold execLpoLatchStrobe
  refine OnlyNext.ite ?_ ?_
  · refine OnlyNext.next ?_
    exact Only.refl _ _
  · extract_lets +onlyGivenNames x1 x2
    clear_value x1 x2
    extract_lets +onlyGivenNames x3
    have h4 : Only [Part.ttu, Part.loops] s x3 := by
      subst x3
      refine only_upd_ttu _ (by decide) ?_
      exact Only.refl _ _
    clear_value x3
    refine OnlyNext.next ?_
    refine Only.foldl _ _ _ (fun u5 y h6 => ?_) ?_
    · refine Only.ite ?_ ?_
      · refine Only.after (lpoChange_only _ _ _) (by decide) ?_
        exact h6
      · exact h6
    · exact h4

theorem lpoJudge_only (a0 : ℕ) (s : State) :
    Only [.evm, .recd, .loops] s (lpoJudge a0 s) := by
  unfold lpoJudge
  extract_lets +onlyGivenNames x1
  clear_value x1
  refine Only.ite ?_ ?_
  · exact Only.refl _ _
  · extract_lets +onlyGivenNames x2 x3 x4 x5
    clear_value x2 x3 x4 x5
    refine Only.ite ?_ ?_
    · exact Only.mono (setLpo_only _ _ _) (by decide)
    · extract_lets +onlyGivenNames x6
      have h7 : Only [Part.evm, Part.recd, Part.loops] s x6 := by
        subst x6
        refine Only.after (raise_only _ _ _ _ _) (by decide) ?_
        exact Only.mono (setLpo_only _ _ _) (by decide)
      clear_value x6
      refine Only.ite ?_ ?_
      · exact h7
      · refine Only.ite ?_ ?_
        · refine Only.after (lpoChange_only _ _ _) (by decide) ?_
          exact h7
        · refine Only.ite ?_ ?_
          · refine Only.after (lpoChange_only _ _ _) (by decide) ?_
            exact h7
          · exact h7

theorem loopClearHandler_only (a0 : ℕ) (a1 : ℕ) (s : State) :
    Only [.evm, .recd, .mbx, .loops] s (loopClearHandler a0 a1 s) := by
  unfold loopClearHandler
  refine Only.ite ?_ ?_
  · exact Only.mono (completeMbx_only _ _ _) (by decide)
  · extract_lets +onlyGivenNames x1
    clear_value x1
    refine Only.ite ?_ ?_
    · exact Only.mono (completeMbx_only _ _ _) (by decide)
    · refine only_upd_loops _ (by decide) ?_
      exact Only.refl _ _

theorem execLpiSel_only (a0 : BitVec 5) (a1 : BitVec 2) (s : State) :
    OnlyNext [.boot, .seq, .cck, .sdir, .evm, .recd, .sec, .fce] s (execLpiSel a0 a1 s) := by
  unfold execLpiSel
  extract_lets +onlyGivenNames x1
  clear_value x1
  refine issue_only _ _ _ _ _ (by decide) ?_
  refine Only.ite ?_ ?_
  · exact Only.mono (breach_only _ _ _) (by decide)
  · exact Only.mono (sendSelect_only _ _ _) (by decide)

theorem execLoopClear_only (a0 : BitVec 4) (a1 : BitVec 8) (s : State) :
    OnlyNext [.evm, .recd, .mbx, .loops] s (execLoopClear a0 a1 s) := by
  unfold execLoopClear
  refine OnlyNext.next ?_
  exact Only.mono (loopClearHandler_only _ _ _) (by decide)

theorem execLpiCheck_only (a0 : BitVec 5) (s : State) :
    OnlyNext [.boot, .seq, .cck, .sdir, .evm, .recd, .sec, .loops] s (execLpiCheck a0 s) := by
  unfold execLpiCheck
  extract_lets +onlyGivenNames x1
  clear_value x1
  refine issue_only _ _ _ _ _ (by decide) ?_
  refine Only.ite ?_ ?_
  · exact Only.mono (lpiCheckEffect_only _ _) (by decide)
  · exact Only.mono (breach_only _ _ _) (by decide)

theorem execLpoRbsel_only (a0 : BitVec 4) (a1 : BitVec 2) (s : State) :
    OnlyNext [.boot, .seq, .cck, .sdir, .evm, .recd, .sec, .fce] s (execLpoRbsel a0 a1 s) := by
  unfold execLpoRbsel
  extract_lets +onlyGivenNames x1
  clear_value x1
  refine issue_only _ _ _ _ _ (by decide) ?_
  refine Only.ite ?_ ?_
  · exact Only.mono (breach_only _ _ _) (by decide)
  · exact Only.mono (sendSelect_only _ _ _) (by decide)

theorem lpoMismatch_only (a0 : ℕ) (a1 : ℤ) (s : State) :
    Only [.evm, .recd, .loops] s (lpoMismatch a0 a1 s) := by
  unfold lpoMismatch
  extract_lets +onlyGivenNames x1 x2 x3 x4
  clear_value x1 x2 x3 x4
  refine Only.ite ?_ ?_
  · exact Only.mono (setLpo_only _ _ _) (by decide)
  · extract_lets +onlyGivenNames x5
    have h6 : Only [Part.evm, Part.recd, Part.loops] s x5 := by
      subst x5
      refine Only.ite ?_ ?_
      · exact Only.mono (raise_only _ _ _ _ _) (by decide)
      · refine Only.ite ?_ ?_
        · exact Only.mono (raise_only _ _ _ _ _) (by decide)
        · exact Only.refl _ _
    clear_value x5
    extract_lets +onlyGivenNames x7 x8
    clear_value x7 x8
    refine Only.ite ?_ ?_
    · extract_lets +onlyGivenNames x9
      clear_value x9
      refine Only.after (raise_only _ _ _ _ _) (by decide) ?_
      refine Only.after (setLpo_only _ _ _) (by decide) ?_
      exact h6
    · refine Only.after (setLpo_only _ _ _) (by decide) ?_
      exact h6

theorem lpoCheckEffect_only (a0 : ℕ) (s : State) :
    Only [.sdir, .evm, .recd, .loops] s (lpoCheckEffect a0 s) := by
  unfold lpoCheckEffect
  extract_lets +onlyGivenNames x1
  have h2 : Only [Part.sdir, Part.evm, Part.recd, Part.loops] s x1 := by
    subst x1
    exact Only.mono (lpoRefresh1_only _ _) (by decide)
  clear_value x1
  extract_lets +onlyGivenNames x3 x4
  clear_value x3 x4
  extract_lets +onlyGivenNames x5
  have h6 : Only [Part.sdir, Part.evm, Part.recd, Part.loops] s x5 := by
    subst x5
    refine Only.after (modLpo_only _ _ _) (by decide) ?_
    exact h2
  clear_value x5
  extract_lets +onlyGivenNames x7 x8
  clear_value x7 x8
  extract_lets +onlyGivenNames x9
  have h10 : Only [Part.sdir, Part.evm, Part.recd, Part.loops] s x9 := by
    subst x9
    refine Only.after (setLpo_only _ _ _) (by decide) ?_
    exact h6
  clear_value x9
  extract_lets +onlyGivenNames x11
  have h12 : Only [Part.sdir, Part.evm, Part.recd, Part.loops] s x11 := by
    subst x11
    refine Only.ite ?_ ?_
    · refine Only.after (setLpo_only _ _ _) (by decide) ?_
      exact h6
    · refine Only.ite ?_ ?_
      · refine Only.after (raise_only _ _ _ _ _) (by decide) ?_
        refine Only.after (modLpo_only _ _ _) (by decide) ?_
        exact h10
      · exact h10
  clear_value x11
  extract_lets +onlyGivenNames x13
  clear_value x13
  extract_lets +onlyGivenNames x14
  have h15 : Only [Part.sdir, Part.evm, Part.recd, Part.loops] s x14 := by
    subst x14
    refine Only.after (modLpo_only _ _ _) (by decide) ?_
    exact h12
  clear_value x14
  extract_lets +onlyGivenNames x16
  have h17 : Only [Part.sdir, Part.evm, Part.recd, Part.loops] s x16 := by
    subst x16
    refine Only.after (modLpo_only _ _ _) (by decide) ?_
    exact h15
  clear_value x16
  extract_lets +onlyGivenNames x18
  clear_value x18
  extract_lets +onlyGivenNames x19
  have h20 : Only [Part.sdir, Part.evm, Part.recd, Part.loops] s x19 := by
    subst x19
    refine Only.ite ?_ ?_
    · exact h6
    · refine Only.ite ?_ ?_
      · exact h15
      · refine Only.ite ?_ ?_
        · refine Only.after (lpoMismatch_only _ _ _) (by decide) ?_
          exact h17
        · refine Only.ite ?_ ?_
          · refine Only.ite ?_ ?_
            · exact h17
            · refine Only.after (lpoMismatch_only _ _ _) (by decide) ?_
              exact h17
          · refine Only.after (lpoJudge_only _ _) (by decide) ?_
            exact h17
  clear_value x19
  refine Only.after (lpoOut_only _ _ _ _) (by decide) ?_
  refine Only.after (lpoRefresh1_only _ _) (by decide) ?_
  exact h20

theorem execLpoCheck_only (a0 : BitVec 4) (s : State) :
    OnlyNext [.boot, .seq, .cck, .sdir, .evm, .recd, .sec, .loops] s (execLpoCheck a0 s) := by
  unfold execLpoCheck
  extract_lets +onlyGivenNames x1
  clear_value x1
  refine issue_only _ _ _ _ _ (by decide) ?_
  refine Only.ite ?_ ?_
  · exact Only.mono (lpoCheckEffect_only _ _) (by decide)
  · exact Only.mono (breach_only _ _ _) (by decide)

theorem execLpoSet_only (a0 : BitVec 4) (s : State) :
    OnlyNext [.boot, .seq, .cck, .sdir, .evm, .recd, .mbx, .sec, .loops] s (execLpoSet a0 s) := by
  unfold execLpoSet
  extract_lets +onlyGivenNames x1
  clear_value x1
  refine issue_only _ _ _ _ _ (by decide) ?_
  refine Only.ite ?_ ?_
  · exact Only.mono (lpoSetEffect_only _ _) (by decide)
  · exact Only.mono (breach_only _ _ _) (by decide)

end Sys2Proof.Machine
end

