-- ==== Sys2Proof/Laws/FrameHart.lean ====
section
/-! SUPPORT. Sys2Proof/Laws/FrameHart.lean: which parts of the state each operation of Machine/Hart.lean changes. -/

set_option linter.unusedVariables false

namespace Sys2Proof.Machine

theorem hartLand_only (a0 : ℕ) (a1 : ℕ) (a2 : List Byte) (s : State) :
    Only [.lbus] s (hartLand a0 a1 a2 s).1 := by
  unfold hartLand
  extract_lets +onlyGivenNames x1 x2 x3 x4 x5
  clear_value x1 x2 x3 x4 x5
  refine Only.fst_mk ?_
  exact Only.mono (landDirect_only _ _ _ _ _) (by decide)

theorem setHart_only (a0 : ℕ) (a1 : HartPort) (s : State) :
    Only [.loops] s (setHart a0 a1 s) := by
  unfold setHart
  refine only_upd_loops _ (by decide) ?_
  exact Only.refl _ _

theorem modHart_only (a0 : ℕ) (a1 : HartPort → HartPort) (s : State) :
    Only [.loops] s (modHart a0 a1 s) := by
  unfold modHart
  exact Only.mono (setHart_only _ _ _) (by decide)

theorem hartEnable_only (a0 : ℕ) (s : State) :
    Only [.loops] s (hartEnable a0 s) := by
  unfold hartEnable
  exact Only.mono (modHart_only _ _ _) (by decide)

theorem hartSignals_only (a0 : ℕ) (s : State) :
    Only [.sdir, .evm, .recd] s (hartSignals a0 s) := by
  unfold hartSignals
  extract_lets +onlyGivenNames x1 x2 x3
  clear_value x1 x2 x3
  refine Only.after (writeSig_only _ _ _ _ _) (by decide) ?_
  refine Only.after (writeSig_only _ _ _ _ _) (by decide) ?_
  exact Only.mono (writeSig_only _ _ _ _ _) (by decide)

theorem hartTxnEnd_only (a0 : ℕ) (a1 : ℕ) (a2 : ℕ) (a3 : ℕ) (s : State) :
    Only [.sdir, .evm, .recd, .loops] s (hartTxnEnd a0 a1 a2 a3 s) := by
  unfold hartTxnEnd
  extract_lets +onlyGivenNames x1
  extract_lets +onlyGivenNames x2
  have h3 : Only [Part.sdir, Part.evm, Part.recd, Part.loops] s x2 := by
    subst x2
    exact Only.mono (modHart_only _ _ _) (by decide)
  clear_value x2
  extract_lets +onlyGivenNames x4
  have h5 : Only [Part.sdir, Part.evm, Part.recd, Part.loops] s x4 := by
    subst x4
    refine Only.ite ?_ ?_
    · exact h3
    · refine Only.after (raise_only _ _ _ _ _) (by decide) ?_
      exact h3
  clear_value x4
  refine Only.after (hartSignals_only _ _) (by decide) ?_
  exact h5

theorem hartPassEnd_only (a0 : ℕ) (a1 : ℕ) (a2 : ℕ) (a3 : ℕ) (a4 : List Byte) (s : State) :
    Only [.evm, .recd, .mbx, .loops] s (hartPassEnd a0 a1 a2 a3 a4 s) := by
  unfold hartPassEnd
  extract_lets +onlyGivenNames x1
  clear_value x1
  split
  · exact Only.refl _ _
  · extract_lets +onlyGivenNames x2 x3 x4 x5 x6
    clear_value x2 x3 x4 x5 x6
    extract_lets +onlyGivenNames x7
    have h8 : Only [Part.evm, Part.recd, Part.mbx, Part.loops] s x7 := by
      subst x7
      exact Only.mono (setMbx_only _ _ _) (by decide)
    clear_value x7
    extract_lets +onlyGivenNames x9
    have h10 : Only [Part.evm, Part.recd, Part.mbx, Part.loops] s x9 := by
      subst x9
      refine Only.after (raise_only _ _ _ _ _) (by decide) ?_
      refine Only.after (modHart_only _ _ _) (by decide) ?_
      exact h8
    clear_value x9
    refine Only.after (completeMbx_only _ _ _) (by decide) ?_
    exact h10

theorem hartEnd_only (a0 : ℕ) (a1 : ℕ) (a2 : ℕ) (a3 : ℕ) (a4 : List Byte) (s : State) :
    Only [.sdir, .evm, .recd, .mbx, .loops] s (hartEnd a0 a1 a2 a3 a4 s) := by
  unfold hartEnd
  split
  · exact Only.refl _ _
  · split
    · exact Only.mono (hartTxnEnd_only _ _ _ _ _) (by decide)
    · exact Only.mono (hartPassEnd_only _ _ _ _ _ _) (by decide)

theorem hartRetry_only (a0 : ℕ) (a1 : ℕ) (a2 : ℕ) (a3 : ℕ) (a4 : List Byte) (s : State) :
    Only [.sdir, .evm, .recd, .mbx, .loops] s (hartRetry a0 a1 a2 a3 a4 s) := by
  unfold hartRetry
  split
  · exact Only.refl _ _
  · extract_lets +onlyGivenNames x1
    have h2 : Only [Part.sdir, Part.evm, Part.recd, Part.mbx, Part.loops] s x1 := by
      subst x1
      exact Only.mono (modHart_only _ _ _) (by decide)
    clear_value x1
    refine Only.ite ?_ ?_
    · refine Only.after (modHart_only _ _ _) (by decide) ?_
      exact h2
    · refine Only.after (hartEnd_only _ _ _ _ _ _) (by decide) ?_
      exact h2

theorem hartDisable_only (a0 : ℕ) (s : State) :
    Only [.evm, .recd, .mbx, .loops] s (hartDisable a0 s) := by
  unfold hartDisable
  extract_lets +onlyGivenNames x1
  clear_value x1
  extract_lets +onlyGivenNames x2
  have h3 : Only [Part.evm, Part.recd, Part.mbx, Part.loops] s x2 := by
    subst x2
    exact Only.mono (setHart_only _ _ _) (by decide)
  clear_value x2
  split
  · refine Only.after (abortMbx_only _ _) (by decide) ?_
    exact h3
  · exact h3

theorem execHartRequestSend_only (a0 : Fin 40) (s : State) :
    OnlyNext [.sdir, .evm, .recd, .mbx, .loops] s (execHartRequestSend a0 s) := by
  unfold execHartRequestSend
  extract_lets +onlyGivenNames x1 x2
  clear_value x1 x2
  refine OnlyNext.ite ?_ ?_
  · refine OnlyNext.next ?_
    exact Only.refl _ _
  · split
    · refine OnlyNext.next ?_
      exact Only.refl _ _
    · extract_lets +onlyGivenNames x3 x4
      clear_value x3 x4
      refine OnlyNext.ite ?_ ?_
      · refine OnlyNext.next ?_
        refine Only.after (hartEnd_only _ _ _ _ _ _) (by decide) ?_
        exact Only.mono (setHart_only _ _ _) (by decide)
      · extract_lets +onlyGivenNames x5
        clear_value x5
        refine OnlyNext.next ?_
        exact Only.mono (setHart_only _ _ _) (by decide)

theorem hartPassHandler_only (a0 : ℕ) (a1 : ℕ) (a2 : ℕ) (a3 : ℕ) (a4 : Bool) (a5 : List Byte) (s : State) :
    Only [.evm, .recd, .mbx, .loops] s (hartPassHandler a0 a1 a2 a3 a4 a5 s) := by
  unfold hartPassHandler
  refine Only.ite ?_ ?_
  · exact Only.mono (completeMbx_only _ _ _) (by decide)
  · refine Only.ite ?_ ?_
    · exact Only.mono (completeMbx_only _ _ _) (by decide)
    · refine Only.ite ?_ ?_
      · exact Only.mono (completeMbx_only _ _ _) (by decide)
      · refine Only.ite ?_ ?_
        · exact Only.mono (abortMbx_only _ _) (by decide)
        · exact Only.mono (modHart_only _ _ _) (by decide)

theorem hartReqEffect_only (a0 : ℕ) (s : State) :
    Only [.loops] s (hartReqEffect a0 s) := by
  unfold hartReqEffect
  extract_lets +onlyGivenNames x1 x2 x3 x4
  clear_value x1 x2 x3 x4
  extract_lets +onlyGivenNames x5
  have h6 : Only [Part.loops] s x5 := by
    subst x5
    refine only_upd_loops _ (by decide) ?_
    exact Only.refl _ _
  clear_value x5
  refine Only.ite ?_ ?_
  · refine Only.after (modHart_only _ _ _) (by decide) ?_
    exact h6
  · exact h6

theorem execHartPass_only (a0 : BitVec 4) (a1 : BitVec 8) (a2 : BitVec 8) (a3 : BitVec 8) (a4 : Bool) (a5 : List Byte) (s : State) :
    OnlyNext [.evm, .recd, .mbx, .loops] s (execHartPass a0 a1 a2 a3 a4 a5 s) := by
  unfold execHartPass
  refine OnlyNext.next ?_
  exact Only.mono (hartPassHandler_only _ _ _ _ _ _ _) (by decide)

theorem hartLearn_only (a0 : ℕ) (a1 : ℕ) (a2 : List Byte) (s : State) :
    Only [.evm, .recd, .loops] s (hartLearn a0 a1 a2 s) := by
  unfold hartLearn
  extract_lets +onlyGivenNames x1 x2 x3 x4 x5
  clear_value x1 x2 x3 x4 x5
  extract_lets +onlyGivenNames x6
  have h7 : Only [Part.evm, Part.recd, Part.loops] s x6 := by
    subst x6
    refine only_upd_loops _ (by decide) ?_
    exact Only.refl _ _
  clear_value x6
  split
  · refine Only.ite ?_ ?_
    · exact h7
    · refine Only.after (raise_only _ _ _ _ _) (by decide) ?_
      exact h7
  · exact h7

theorem execHartStoExpiry_only (a0 : Fin 40) (s : State) :
    OnlyNext [.sdir, .evm, .recd, .mbx, .loops] s (execHartStoExpiry a0 s) := by
  unfold execHartStoExpiry
  refine OnlyNext.next ?_
  refine Only.ite ?_ ?_
  · exact Only.mono (hartRetry_only _ _ _ _ _ _) (by decide)
  · exact Only.refl _ _

theorem hartBurst_only (a0 : ℕ) (a1 : HartParts) (s : State) :
    Only [.sdir, .lbus, .evm, .recd, .loops] s (hartBurst a0 a1 s) := by
  unfold hartBurst
  refine Only.ite ?_ ?_
  · exact Only.refl _ _
  · extract_lets +onlyGivenNames x1
    clear_value x1
    extract_lets +onlyGivenNames x2
    have h3 : Only [Part.sdir, Part.lbus, Part.evm, Part.recd, Part.loops] s x2 := by
      subst x2
      refine Only.foldl _ _ _ (fun u4 y h5 => ?_) ?_
      · refine Only.ite ?_ ?_
        · exact h5
        · extract_lets +onlyGivenNames x6
          have h7 : Only [Part.sdir, Part.lbus, Part.evm, Part.recd, Part.loops] s x6.1 := by
            subst x6
            refine Only.after (hartLand_only _ _ _ _) (by decide) ?_
            exact h5
          clear_value x6
          refine Only.after (hartTxnEnd_only _ _ _ _ _) (by decide) ?_
          exact h7
      · exact Only.refl _ _
    clear_value x2
    refine Only.after (modHart_only _ _ _) (by decide) ?_
    exact h3

theorem hartResponse_only (a0 : ℕ) (a1 : HartCur) (a2 : HartParts) (s : State) :
    Only [.sdir, .lbus, .evm, .recd, .mbx, .loops] s (hartResponse a0 a1 a2 s) := by
  unfold hartResponse
  extract_lets +onlyGivenNames x1 x2 x3 x4
  clear_value x1 x2 x3 x4
  refine Only.ite ?_ ?_
  · exact Only.mono (hartRetry_only _ _ _ _ _ _) (by decide)
  · refine Only.ite ?_ ?_
    · exact Only.mono (hartRetry_only _ _ _ _ _ _) (by decide)
    · extract_lets +onlyGivenNames x5
      have h6 : Only [Part.sdir, Part.lbus, Part.evm, Part.recd, Part.mbx, Part.loops] s x5 := by
        subst x5
        exact Only.mono (modHart_only _ _ _) (by decide)
      clear_value x5
      split
      · refine Only.after (hartPassEnd_only _ _ _ _ _ _) (by decide) ?_
        exact h6
      · extract_lets +onlyGivenNames x7
        have h8 : Only [Part.sdir, Part.lbus, Part.evm, Part.recd, Part.mbx, Part.loops] s x7.1 := by
          subst x7
          refine Only.after (hartLand_only _ _ _ _) (by decide) ?_
          exact h6
        clear_value x7
        extract_lets +onlyGivenNames x9
        have h10 : Only [Part.sdir, Part.lbus, Part.evm, Part.recd, Part.mbx, Part.loops] s x9 := by
          subst x9
          refine Only.ite ?_ ?_
          · refine Only.after (hartLearn_only _ _ _ _) (by decide) ?_
            exact h8
          · exact h8
        clear_value x9
        refine Only.after (hartTxnEnd_only _ _ _ _ _) (by decide) ?_
        exact h10

theorem execHartFrameReceived_only (a0 : Fin 40) (a1 : HartFrame) (s : State) :
    OnlyNext [.sdir, .lbus, .evm, .recd, .mbx, .loops] s (execHartFrameReceived a0 a1 s) := by
  unfold execHartFrameReceived
  extract_lets +onlyGivenNames x1
  clear_value x1
  refine OnlyNext.ite ?_ ?_
  · refine OnlyNext.next ?_
    exact Only.refl _ _
  · extract_lets +onlyGivenNames x2
    clear_value x2
    split
    · refine OnlyNext.next ?_
      exact Only.mono (hartRetry_only _ _ _ _ _ _) (by decide)
    · refine OnlyNext.next ?_
      exact Only.refl _ _
    · refine OnlyNext.ite ?_ ?_
      · refine OnlyNext.next ?_
        exact Only.mono (hartBurst_only _ _ _) (by decide)
      · split
        · refine OnlyNext.next ?_
          exact Only.mono (hartResponse_only _ _ _ _) (by decide)
        · refine OnlyNext.next ?_
          exact Only.refl _ _

theorem execHartReq_only (a0 : BitVec 9) (s : State) :
    OnlyNext [.boot, .seq, .cck, .sdir, .evm, .recd, .sec, .loops] s (execHartReq a0 s) := by
  unfold execHartReq
  extract_lets +onlyGivenNames x1
  clear_value x1
  refine OnlyNext.ite ?_ ?_
  · refine OnlyNext.next ?_
    exact Only.mono (dropLane_only _) (by decide)
  · refine issue_only _ _ _ _ _ (by decide) ?_
    refine Only.ite ?_ ?_
    · exact Only.mono (breach_only _ _ _) (by decide)
    · exact Only.mono (hartReqEffect_only _ _) (by decide)

theorem execHartCarrierDetect_only (a0 : Fin 40) (a1 : Bool) (s : State) :
    OnlyNext [.loops] s (execHartCarrierDetect a0 a1 s) := by
  unfold execHartCarrierDetect
  refine OnlyNext.ite ?_ ?_
  · refine OnlyNext.next ?_
    exact Only.refl _ _
  · refine OnlyNext.next ?_
    exact Only.mono (modHart_only _ _ _) (by decide)

end Sys2Proof.Machine
end

