-- ==== Sys2Proof/Laws/FrameGnss.lean ====
section
/-! SUPPORT. Sys2Proof/Laws/FrameGnss.lean: which parts of the state each operation of Machine/Gnss.lean changes. -/

set_option linter.unusedVariables false

namespace Sys2Proof.Machine

theorem modNav_only (a0 : Nav → Nav) (s : State) :
    Only [.nav] s (modNav a0 s) := by
  unfold modNav
  refine only_upd_nav _ (by decide) ?_
  exact Only.refl _ _

theorem setNavCh_only (a0 : ℕ) (a1 : NavChan) (s : State) :
    Only [.nav] s (setNavCh a0 a1 s) := by
  unfold setNavCh
  exact Only.mono (modNav_only _ _) (by decide)

end Sys2Proof.Machine
end

