-- ==== Sys2Proof/Laws/FrameNav.lean ====
section
/-! SUPPORT. Sys2Proof/Laws/FrameNav.lean: which parts of the state each operation of Machine/Nav.lean changes. -/

set_option linter.unusedVariables false

namespace Sys2Proof.Machine

theorem takeCh_only (a0 : ℕ) (a1 : ℕ) (a2 : ℕ) (a3 : ℕ) (a4 : BitVec 3) (a5 : Bool) (a6 : ℚ) (a7 : ℚ) (a8 : ℚ) (s : State) :
    Only [.nav] s (takeCh a0 a1 a2 a3 a4 a5 a6 a7 a8 s) := by
  unfold takeCh
  exact Only.mono (setNavCh_only _ _ _) (by decide)

theorem windowEntry_only (a0 : ℕ) (a1 : ℕ) (a2 : ℕ) (a3 : ℚ) (a4 : ℚ) (a5 : ℚ) (s : State) :
    Only [.nav] s (windowEntry a0 a1 a2 a3 a4 a5 s) := by
  unfold windowEntry
  refine Only.ite ?_ ?_
  · exact Only.refl _ _
  · split
    · exact Only.mono (takeCh_only _ _ _ _ _ _ _ _ _ _) (by decide)
    · exact Only.refl _ _

theorem nextJob_only (s : State) :
    Only [.nav] s (nextJob s) := by
  unfold nextJob
  extract_lets +onlyGivenNames x1
  clear_value x1
  extract_lets +onlyGivenNames x2
  have h3 : Only [Part.nav] s x2 := by
    subst x2
    refine Only.ite ?_ ?_
    · exact Only.mono (modNav_only _ _) (by decide)
    · exact Only.refl _ _
  clear_value x2
  refine Only.ite ?_ ?_
  · refine Only.after (modNav_only _ _) (by decide) ?_
    exact h3
  · extract_lets +onlyGivenNames x4 x5
    clear_value x4 x5
    split
    · refine Only.after (modNav_only _ _) (by decide) ?_
      exact h3
    · refine Only.after (modNav_only _ _) (by decide) ?_
      exact h3

theorem wakeBank_only (s : State) :
    Only [.nav] s (wakeBank s) := by
  unfold wakeBank
  refine Only.ite ?_ ?_
  · exact Only.refl _ _
  · exact Only.mono (nextJob_only _) (by decide)

theorem rxLatch_only (s : State) :
    Only [.evm, .recd, .nav] s (rxLatch s) := by
  unfold rxLatch
  extract_lets +onlyGivenNames x1
  have h2 : Only [Part.evm, Part.recd, Part.nav] s x1 := by
    subst x1
    refine Only.ite ?_ ?_
    · exact Only.mono (modNav_only _ _) (by decide)
    · exact Only.refl _ _
  clear_value x1
  refine Only.ite ?_ ?_
  · exact h2
  · extract_lets +onlyGivenNames x3 x4
    clear_value x3 x4
    refine Only.after (raise_only _ _ _ _ _) (by decide) ?_
    refine Only.after (modNav_only _ _) (by decide) ?_
    exact h2

theorem portChecks_only (a0 : List ℕ) (s : State) :
    Only [.evm, .recd, .nav] s (portChecks a0 s) := by
  unfold portChecks
  extract_lets +onlyGivenNames x1
  clear_value x1
  refine Only.foldl _ _ _ (fun u2 y h3 => ?_) ?_
  · refine Only.ite ?_ ?_
    · exact h3
    · extract_lets +onlyGivenNames x4 x5 x6 x7
      clear_value x4 x5 x6 x7
      refine Only.ite ?_ ?_
      · extract_lets +onlyGivenNames x8
        have h9 : Only [Part.evm, Part.recd, Part.nav] s x8 := by
          subst x8
          refine Only.after (modNav_only _ _) (by decide) ?_
          exact h3
        clear_value x8
        extract_lets +onlyGivenNames x10
        clear_value x10
        refine Only.ite ?_ ?_
        · exact h9
        · refine Only.after (raise_only _ _ _ _ _) (by decide) ?_
          exact h9
      · refine Only.ite ?_ ?_
        · extract_lets +onlyGivenNames x11
          clear_value x11
          refine Only.ite ?_ ?_
          · refine Only.after (raise_only _ _ _ _ _) (by decide) ?_
            refine Only.after (modNav_only _ _) (by decide) ?_
            exact h3
          · refine Only.after (modNav_only _ _) (by decide) ?_
            exact h3
        · refine Only.after (modNav_only _ _) (by decide) ?_
          exact h3
  · exact Only.refl _ _

theorem dgState_only (a0 : List (NavChan × NavRec)) (s : State) :
    Only [.evm, .recd, .nav] s (dgState a0 s) := by
  unfold dgState
  extract_lets +onlyGivenNames x1 x2
  clear_value x1 x2
  refine Only.ite ?_ ?_
  · exact Only.refl _ _
  · extract_lets +onlyGivenNames x3
    clear_value x3
    refine Only.after (raise_only _ _ _ _ _) (by decide) ?_
    exact Only.mono (modNav_only _ _) (by decide)

theorem evalSolution_only (a0 : ℕ) (a1 : Bool) (a2 : ℚ) (a3 : ℕ) (s : State) :
    Only [.evm, .recd, .nav] s (evalSolution a0 a1 a2 a3 s) := by
  unfold evalSolution
  extract_lets +onlyGivenNames x1
  clear_value x1
  refine Only.ite ?_ ?_
  · extract_lets +onlyGivenNames x2
    have h3 : Only [Part.evm, Part.recd, Part.nav] s x2 := by
      subst x2
      exact Only.mono (modNav_only _ _) (by decide)
    clear_value x2
    refine Only.ite ?_ ?_
    · exact h3
    · refine Only.after (raise_only _ _ _ _ _) (by decide) ?_
      exact h3
  · extract_lets +onlyGivenNames x4
    clear_value x4
    extract_lets +onlyGivenNames x5
    have h6 : Only [Part.evm, Part.recd, Part.nav] s x5 := by
      subst x5
      exact Only.mono (modNav_only _ _) (by decide)
    clear_value x5
    refine Only.ite ?_ ?_
    · refine Only.after (raise_only _ _ _ _ _) (by decide) ?_
      refine Only.after (modNav_only _ _) (by decide) ?_
      exact h6
    · exact h6

theorem assignAided_only (s : State) :
    Only [.nav] s (assignAided s) := by
  unfold assignAided
  refine Only.ite ?_ ?_
  · exact Only.refl _ _
  · refine Only.foldl _ _ _ (fun u1 y h2 => ?_) ?_
    · refine Only.ite ?_ ?_
      · exact h2
      · split
        · refine Only.ite ?_ ?_
          · refine Only.after (takeCh_only _ _ _ _ _ _ _ _ _ _) (by decide) ?_
            exact h2
          · exact h2
        · exact h2
    · exact Only.refl _ _

theorem epochDone_only (a0 : NavOp) (a1 : NavSamples) (s : State) :
    Only [.lbus, .evm, .recd, .nav] s (epochDone a0 a1 s) := by
  unfold epochDone
  extract_lets +onlyGivenNames x1
  have h2 : Only [Part.lbus, Part.evm, Part.recd, Part.nav] s x1 := by
    subst x1
    refine Only.after (rxLatch_only _) (by decide) ?_
    refine Only.after (portChecks_only _ _) (by decide) ?_
    exact Only.mono (modNav_only _ _) (by decide)
  clear_value x1
  extract_lets +onlyGivenNames x3 x4 x5
  clear_value x3 x4 x5
  extract_lets +onlyGivenNames x6
  have h7 : Only [Part.lbus, Part.evm, Part.recd, Part.nav] s x6 := by
    subst x6
    refine Only.foldl _ _ _ (fun u8 y h9 => ?_) ?_
    · refine Only.ite ?_ ?_
      · exact h9
      · extract_lets +onlyGivenNames x10 x11 x12
        clear_value x10 x11 x12
        extract_lets +onlyGivenNames x13
        have h14 : Only [Part.lbus, Part.evm, Part.recd, Part.nav] s x13 := by
          subst x13
          refine Only.ite ?_ ?_
          · exact h9
          · refine Only.after (setNavCh_only _ _ _) (by decide) ?_
            exact h9
        clear_value x13
        refine Only.ite ?_ ?_
        · refine Only.after (raise_only _ _ _ _ _) (by decide) ?_
          exact h14
        · exact h14
    · exact h2
  clear_value x6
  extract_lets +onlyGivenNames x15 x16
  clear_value x15 x16
  extract_lets +onlyGivenNames x17
  have h18 : Only [Part.lbus, Part.evm, Part.recd, Part.nav] s x17 := by
    subst x17
    refine Only.foldl _ _ _ (fun u19 y h20 => ?_) ?_
    · refine Only.after (landFrom_only _ _ _ _ _) (by decide) ?_
      exact h20
    · exact h7
  clear_value x17
  extract_lets +onlyGivenNames x21
  have h22 : Only [Part.lbus, Part.evm, Part.recd, Part.nav] s x21 := by
    subst x21
    refine Only.after (landFrom_only _ _ _ _ _) (by decide) ?_
    exact h18
  clear_value x21
  extract_lets +onlyGivenNames x23
  clear_value x23
  extract_lets +onlyGivenNames x24
  have h25 : Only [Part.lbus, Part.evm, Part.recd, Part.nav] s x24 := by
    subst x24
    refine Only.after (dgState_only _ _) (by decide) ?_
    refine Only.after (modNav_only _ _) (by decide) ?_
    exact h22
  clear_value x24
  extract_lets +onlyGivenNames x26 x27
  clear_value x26 x27
  extract_lets +onlyGivenNames x28
  have h29 : Only [Part.lbus, Part.evm, Part.recd, Part.nav] s x28 := by
    subst x28
    refine Only.after (modNav_only _ _) (by decide) ?_
    exact h25
  clear_value x28
  extract_lets +onlyGivenNames x30
  have h31 : Only [Part.lbus, Part.evm, Part.recd, Part.nav] s x30 := by
    subst x30
    refine Only.after (evalSolution_only _ _ _ _ _) (by decide) ?_
    exact h29
  clear_value x30
  extract_lets +onlyGivenNames x32 x33
  clear_value x32 x33
  extract_lets +onlyGivenNames x34
  have h35 : Only [Part.lbus, Part.evm, Part.recd, Part.nav] s x34 := by
    subst x34
    refine Only.after (modNav_only _ _) (by decide) ?_
    exact h31
  clear_value x34
  extract_lets +onlyGivenNames x36
  have h37 : Only [Part.lbus, Part.evm, Part.recd, Part.nav] s x36 := by
    subst x36
    refine Only.ite ?_ ?_
    · refine Only.ite ?_ ?_
      · exact h35
      · refine Only.after (evalSolution_only _ _ _ _ _) (by decide) ?_
        exact h35
    · exact h31
  clear_value x36
  extract_lets +onlyGivenNames x38 x39
  clear_value x38 x39
  extract_lets +onlyGivenNames x40
  have h41 : Only [Part.lbus, Part.evm, Part.recd, Part.nav] s x40 := by
    subst x40
    refine Only.after (modNav_only _ _) (by decide) ?_
    exact h37
  clear_value x40
  refine Only.after (wakeBank_only _) (by decide) ?_
  refine Only.after (assignAided_only _) (by decide) ?_
  exact h41

theorem rtcmDone_only (a0 : NavOp) (s : State) :
    Only [.evm, .recd, .nav] s (rtcmDone a0 s) := by
  unfold rtcmDone
  extract_lets +onlyGivenNames x1 x2 x3 x4 x5 x6
  clear_value x1 x2 x3 x4 x5 x6
  extract_lets +onlyGivenNames x7
  have h8 : Only [Part.evm, Part.recd, Part.nav] s x7 := by
    subst x7
    refine Only.ite ?_ ?_
    · refine Only.after (raise_only _ _ _ _ _) (by decide) ?_
      exact Only.mono (modNav_only _ _) (by decide)
    · exact Only.refl _ _
  clear_value x7
  extract_lets +onlyGivenNames x9 x10
  clear_value x9 x10
  refine Only.after (modNav_only _ _) (by decide) ?_
  exact h8

theorem clockCheck_only (a0 : NavOp) (s : State) :
    Only [.evm, .recd, .nav] s (clockCheck a0 s) := by
  unfold clockCheck
  extract_lets +onlyGivenNames x1 x2
  clear_value x1 x2
  split
  · exact Only.refl _ _
  · extract_lets +onlyGivenNames x3 x4 x5
    clear_value x3 x4 x5
    extract_lets +onlyGivenNames x6
    have h7 : Only [Part.evm, Part.recd, Part.nav] s x6 := by
      subst x6
      refine Only.ite ?_ ?_
      · exact Only.refl _ _
      · split
        · extract_lets +onlyGivenNames x8 x9
          clear_value x8 x9
          exact Only.mono (evalSolution_only _ _ _ _ _) (by decide)
        · exact Only.refl _ _
    clear_value x6
    refine Only.ite ?_ ?_
    · refine Only.after (modNav_only _ _) (by decide) ?_
      exact h7
    · exact h7

theorem navFinish_only (a0 : NavDone) (a1 : NavOp) (s : State) :
    Only [.lbus, .evm, .recd, .nav] s (navFinish a0 a1 s) := by
  unfold navFinish
  split
  · extract_lets +onlyGivenNames x1
    have h2 : Only [Part.lbus, Part.evm, Part.recd, Part.nav] s x1 := by
      subst x1
      exact Only.mono (modNav_only _ _) (by decide)
    clear_value x1
    refine Only.ite ?_ ?_
    · exact h2
    · refine Only.after (wakeBank_only _) (by decide) ?_
      exact h2
  · exact Only.mono (landFrom_only _ _ _ _ _) (by decide)
  · exact Only.mono (landFrom_only _ _ _ _ _) (by decide)
  · exact Only.mono (epochDone_only _ _ _) (by decide)
  · exact Only.refl _ _
  · exact Only.mono (rtcmDone_only _ _) (by decide)
  · extract_lets +onlyGivenNames x3
    have h4 : Only [Part.lbus, Part.evm, Part.recd, Part.nav] s x3 := by
      subst x3
      exact Only.mono (clockCheck_only _ _) (by decide)
    clear_value x3
    refine Only.after (landFrom_only _ _ _ _ _) (by decide) ?_
    exact h4

theorem navExclHandler_only (a0 : ℕ) (a1 : ℕ) (a2 : ℕ) (a3 : Bool) (s : State) :
    Only [.evm, .recd, .mbx, .nav] s (navExclHandler a0 a1 a2 a3 s) := by
  unfold navExclHandler
  refine Only.ite ?_ ?_
  · exact Only.mono (completeMbx_only _ _ _) (by decide)
  · exact Only.mono (modNav_only _ _) (by decide)

theorem execNavExclude_only (a0 : BitVec 4) (a1 : BitVec 8) (a2 : BitVec 8) (s : State) :
    OnlyNext [.evm, .recd, .mbx, .nav] s (execNavExclude a0 a1 a2 s) := by
  unfold execNavExclude
  refine OnlyNext.next ?_
  exact Only.mono (navExclHandler_only _ _ _ _ _) (by decide)

theorem freeChan_only (a0 : ℕ) (s : State) :
    Only [.nav] s (freeChan a0 s) := by
  unfold freeChan
  refine Only.after (wakeBank_only _) (by decide) ?_
  exact Only.mono (setNavCh_only _ _ _) (by decide)

theorem execAcqVerifyTimeout_only (a0 : Fin 192) (s : State) :
    OnlyNext [.nav] s (execAcqVerifyTimeout a0 s) := by
  unfold execAcqVerifyTimeout
  extract_lets +onlyGivenNames x1
  clear_value x1
  refine OnlyNext.ite ?_ ?_
  · refine OnlyNext.next ?_
    refine Only.after (freeChan_only _ _) (by decide) ?_
    exact Only.mono (modNav_only _ _) (by decide)
  · refine OnlyNext.next ?_
    exact Only.refl _ _

theorem navDisable_only (s : State) :
    Only [.nav] s (navDisable s) := by
  unfold navDisable
  exact Only.mono (modNav_only _ _) (by decide)

theorem navBoundary_only (s : State) :
    Only [.evm, .recd, .mbx, .nav] s (navBoundary s) := by
  unfold navBoundary
  extract_lets +onlyGivenNames x1
  clear_value x1
  extract_lets +onlyGivenNames x2
  have h3 : Only [Part.evm, Part.recd, Part.mbx, Part.nav] s x2 := by
    subst x2
    exact Only.mono (modNav_only _ _) (by decide)
  clear_value x2
  refine Only.foldl _ _ _ (fun u4 y h5 => ?_) ?_
  · extract_lets +onlyGivenNames x6
    have h7 : Only [Part.evm, Part.recd, Part.mbx, Part.nav] s x6 := by
      subst x6
      refine Only.after (modNav_only _ _) (by decide) ?_
      exact h5
    clear_value x6
    extract_lets +onlyGivenNames x8
    have h9 : Only [Part.evm, Part.recd, Part.mbx, Part.nav] s x8 := by
      subst x8
      refine Only.after (raise_only _ _ _ _ _) (by decide) ?_
      exact h7
    clear_value x8
    refine Only.after (completeMbx_only _ _ _) (by decide) ?_
    exact h9
  · refine Only.after (wakeBank_only _) (by decide) ?_
    exact h3

theorem execAcqPassEnd_only (a0 : List (BitVec 8)) (a1 : List (BitVec 8)) (a2 : List (BitVec 8)) (a3 : List (BitVec 8)) (s : State) :
    OnlyNext [.evm, .recd, .nav] s (execAcqPassEnd a0 a1 a2 a3 s) := by
  unfold execAcqPassEnd
  refine OnlyNext.ite ?_ ?_
  · refine OnlyNext.next ?_
    exact Only.refl _ _
  · extract_lets +onlyGivenNames x1 x2 x3 x4
    clear_value x1 x2 x3 x4
    split
    · refine OnlyNext.ite ?_ ?_
      · refine OnlyNext.next ?_
        exact Only.mono (nextJob_only _) (by decide)
      · split
        · refine OnlyNext.next ?_
          exact Only.mono (nextJob_only _) (by decide)
        · extract_lets +onlyGivenNames x5 x6
          clear_value x5 x6
          refine OnlyNext.next ?_
          refine Only.after (nextJob_only _) (by decide) ?_
          refine Only.after (raise_only _ _ _ _ _) (by decide) ?_
          exact Only.mono (takeCh_only _ _ _ _ _ _ _ _ _ _) (by decide)
    · extract_lets +onlyGivenNames x7
      clear_value x7
      refine OnlyNext.ite ?_ ?_
      · refine OnlyNext.next ?_
        exact Only.mono (nextJob_only _) (by decide)
      · refine OnlyNext.next ?_
        exact Only.mono (modNav_only _ _) (by decide)

theorem arriveNav_only (a0 : NavOp) (s : State) :
    Only [.nav] s (arriveNav a0 s) := by
  unfold arriveNav
  extract_lets +onlyGivenNames x1
  clear_value x1
  extract_lets +onlyGivenNames x2
  have h3 : Only [Part.nav] s x2 := by
    subst x2
    exact Only.mono (modNav_only _ _) (by decide)
  clear_value x2
  refine Only.ite ?_ ?_
  · refine Only.after (modNav_only _ _) (by decide) ?_
    exact h3
  · refine Only.ite ?_ ?_
    · refine Only.after (wakeBank_only _) (by decide) ?_
      refine Only.after (assignAided_only _) (by decide) ?_
      refine Only.after (modNav_only _ _) (by decide) ?_
      exact h3
    · exact h3

theorem execNavLockLost_only (a0 : ChanSamples) (s : State) :
    OnlyNext [.evm, .recd, .nav] s (execNavLockLost a0 s) := by
  unfold execNavLockLost
  extract_lets +onlyGivenNames x1 x2
  clear_value x1 x2
  refine OnlyNext.ite ?_ ?_
  · refine OnlyNext.next ?_
    refine Only.after (raise_only _ _ _ _ _) (by decide) ?_
    exact Only.mono (setNavCh_only _ _ _) (by decide)
  · refine OnlyNext.next ?_
    exact Only.mono (setNavCh_only _ _ _) (by decide)

theorem pushNav_only (a0 : ℕ) (a1 : ℕ) (a2 : ℕ) (a3 : List (Word × Qual)) (s : State) :
    Only [.nav] s (pushNav a0 a1 a2 a3 s) := by
  unfold pushNav
  extract_lets +onlyGivenNames x1
  clear_value x1
  exact Only.mono (modNav_only _ _) (by decide)

theorem execAcqSnap_only (s : State) :
    OnlyNext [.boot, .seq, .cck, .sdir, .evm, .recd, .sec, .nav] s (execAcqSnap s) := by
  unfold execAcqSnap
  refine issue_only _ _ _ _ _ (by decide) ?_
  exact Only.mono (pushNav_only _ _ _ _ _) (by decide)

theorem execBitSync_only (a0 : ChanEdge) (s : State) :
    OnlyNext [.nav] s (execBitSync a0 s) := by
  unfold execBitSync
  extract_lets +onlyGivenNames x1 x2 x3 x4
  clear_value x1 x2 x3 x4
  refine OnlyNext.ite ?_ ?_
  · refine OnlyNext.next ?_
    exact Only.mono (setNavCh_only _ _ _) (by decide)
  · refine OnlyNext.next ?_
    exact Only.refl _ _

theorem execAiding_only (a0 : BitVec 17) (s : State) :
    OnlyNext [.boot, .seq, .cck, .sdir, .evm, .recd, .sec, .nav] s (execAiding a0 s) := by
  unfold execAiding
  refine issue_only _ _ _ _ _ (by decide) ?_
  exact Only.mono (pushNav_only _ _ _ _ _) (by decide)

theorem execTrkSnap_only (a0 : BitVec 8) (s : State) :
    OnlyNext [.boot, .seq, .cck, .sdir, .evm, .recd, .sec, .nav] s (execTrkSnap a0 s) := by
  unfold execTrkSnap
  refine issue_only _ _ _ _ _ (by decide) ?_
  exact Only.mono (pushNav_only _ _ _ _ _) (by decide)

theorem execRtcmIn_only (a0 : BitVec 17) (s : State) :
    OnlyNext [.boot, .seq, .cck, .sdir, .evm, .recd, .sec, .nav] s (execRtcmIn a0 s) := by
  unfold execRtcmIn
  refine issue_only _ _ _ _ _ (by decide) ?_
  exact Only.mono (pushNav_only _ _ _ _ _) (by decide)

theorem acceptEph_only (a0 : NavEph) (s : State) :
    Only [.evm, .recd, .nav] s (acceptEph a0 s) := by
  unfold acceptEph
  refine Only.ite ?_ ?_
  · exact Only.mono (modNav_only _ _) (by decide)
  · extract_lets +onlyGivenNames x1
    clear_value x1
    extract_lets +onlyGivenNames x2
    have h3 : Only [Part.evm, Part.recd, Part.nav] s x2 := by
      subst x2
      exact Only.mono (modNav_only _ _) (by decide)
    clear_value x2
    split
    · refine Only.after (assignAided_only _) (by decide) ?_
      refine Only.after (modNav_only _ _) (by decide) ?_
      exact h3
    · extract_lets +onlyGivenNames x4
      clear_value x4
      refine Only.ite ?_ ?_
      · refine Only.after (raise_only _ _ _ _ _) (by decide) ?_
        exact h3
      · refine Only.after (assignAided_only _) (by decide) ?_
        refine Only.after (modNav_only _ _) (by decide) ?_
        exact h3

theorem execNavMsgDecoded_only (a0 : Fin 192) (a1 : List Bool) (a2 : ℕ) (a3 : NavMsg) (s : State) :
    OnlyNext [.evm, .recd, .nav] s (execNavMsgDecoded a0 a1 a2 a3 s) := by
  unfold execNavMsgDecoded
  extract_lets +onlyGivenNames x1
  clear_value x1
  refine OnlyNext.ite ?_ ?_
  · refine OnlyNext.next ?_
    exact Only.refl _ _
  · refine OnlyNext.ite ?_ ?_
    · refine OnlyNext.next ?_
      refine Only.after (raise_only _ _ _ _ _) (by decide) ?_
      exact Only.mono (modNav_only _ _) (by decide)
    · split
      · refine OnlyNext.ite ?_ ?_
        · refine OnlyNext.next ?_
          exact Only.mono (acceptEph_only _ _) (by decide)
        · refine OnlyNext.next ?_
          exact Only.refl _ _
      · refine OnlyNext.ite ?_ ?_
        · extract_lets +onlyGivenNames x2
          clear_value x2
          refine OnlyNext.next ?_
          exact Only.mono (modNav_only _ _) (by decide)
        · refine OnlyNext.next ?_
          exact Only.refl _ _
      · refine OnlyNext.ite ?_ ?_
        · refine OnlyNext.next ?_
          exact Only.mono (modNav_only _ _) (by decide)
        · refine OnlyNext.next ?_
          exact Only.refl _ _
      · refine OnlyNext.ite ?_ ?_
        · refine OnlyNext.next ?_
          exact Only.mono (modNav_only _ _) (by decide)
        · refine OnlyNext.next ?_
          exact Only.refl _ _
      · refine OnlyNext.ite ?_ ?_
        · refine OnlyNext.next ?_
          exact Only.mono (modNav_only _ _) (by decide)
        · refine OnlyNext.next ?_
          exact Only.refl _ _
      · refine OnlyNext.next ?_
        exact Only.refl _ _

theorem execAidedDwellEnd_only (a0 : Fin 192) (a1 : List (BitVec 8)) (a2 : List (BitVec 8)) (s : State) :
    OnlyNext [.nav] s (execAidedDwellEnd a0 a1 a2 s) := by
  unfold execAidedDwellEnd
  extract_lets +onlyGivenNames x1
  clear_value x1
  refine OnlyNext.ite ?_ ?_
  · refine OnlyNext.next ?_
    exact Only.refl _ _
  · split
    · extract_lets +onlyGivenNames x2
      clear_value x2
      refine OnlyNext.next ?_
      exact Only.mono (setNavCh_only _ _ _) (by decide)
    · extract_lets +onlyGivenNames x3
      clear_value x3
      extract_lets +onlyGivenNames x4
      have h5 : Only [Part.nav] s x4 := by
        subst x4
        exact Only.mono (setNavCh_only _ _ _) (by decide)
      clear_value x4
      refine OnlyNext.ite ?_ ?_
      · refine OnlyNext.next ?_
        exact h5
      · refine OnlyNext.ite ?_ ?_
        · refine OnlyNext.next ?_
          refine Only.after (freeChan_only _ _) (by decide) ?_
          exact Only.mono (modNav_only _ _) (by decide)
        · refine OnlyNext.next ?_
          exact Only.mono (setNavCh_only _ _ _) (by decide)

theorem execCchClock_only (a0 : BitVec 17) (s : State) :
    OnlyNext [.boot, .seq, .cck, .sdir, .evm, .recd, .sec, .nav] s (execCchClock a0 s) := by
  unfold execCchClock
  refine issue_only _ _ _ _ _ (by decide) ?_
  exact Only.mono (pushNav_only _ _ _ _ _) (by decide)

theorem takeNavOp_only (eng opc : Nat) (s : State) : ∀ p, takeNavOp eng opc s = some p → Only [.nav] s p.2 := by
  intro p hp
  unfold takeNavOp at hp
  obtain ⟨o, -, rfl⟩ := Option.map_eq_some_iff.mp hp
  exact modNav_only _ _

theorem navArrivals_only (s : State) :
    Only [.nav] s (navArrivals s) := by
  unfold navArrivals
  extract_lets +onlyGivenNames x1 x2
  clear_value x1 x2
  refine Only.foldl _ _ _ (fun u3 y h4 => ?_) ?_
  · refine Only.ite ?_ ?_
    · exact h4
    · refine Only.after (arriveNav_only _ _) (by decide) ?_
      exact h4
  · exact Only.refl _ _

theorem execFrameSync_only (a0 : Fin 192) (a1 : ℚ) (s : State) :
    OnlyNext [.nav] s (execFrameSync a0 a1 s) := by
  unfold execFrameSync
  extract_lets +onlyGivenNames x1
  clear_value x1
  refine OnlyNext.ite ?_ ?_
  · refine OnlyNext.next ?_
    exact Only.refl _ _
  · extract_lets +onlyGivenNames x2
    clear_value x2
    extract_lets +onlyGivenNames x3
    have h4 : Only [Part.nav] s x3 := by
      subst x3
      exact Only.mono (setNavCh_only _ _ _) (by decide)
    clear_value x3
    extract_lets +onlyGivenNames x5
    have h6 : Only [Part.nav] s x5 := by
      subst x5
      refine Only.ite ?_ ?_
      · exact h4
      · refine Only.after (modNav_only _ _) (by decide) ?_
        exact h4
    clear_value x5
    extract_lets +onlyGivenNames x7
    have h8 : Only [Part.nav] s x7 := by
      subst x7
      split
      · refine Only.after (windowEntry_only _ _ _ _ _ _ _) (by decide) ?_
        exact h6
      · exact h6
    clear_value x7
    refine OnlyNext.next ?_
    refine Only.ite ?_ ?_
    · refine Only.after (windowEntry_only _ _ _ _ _ _ _) (by decide) ?_
      exact h8
    · exact h8

theorem execSidePeakMove_only (a0 : ChanSamples) (s : State) :
    OnlyNext [.nav] s (execSidePeakMove a0 s) := by
  unfold execSidePeakMove
  extract_lets +onlyGivenNames x1 x2
  clear_value x1 x2
  refine OnlyNext.ite ?_ ?_
  · extract_lets +onlyGivenNames x3
    clear_value x3
    refine OnlyNext.next ?_
    exact Only.mono (setNavCh_only _ _ _) (by decide)
  · refine OnlyNext.next ?_
    exact Only.mono (setNavCh_only _ _ _) (by decide)

theorem execAcqCtl_only (a0 : BitVec 2) (s : State) :
    OnlyNext [.boot, .seq, .cck, .sdir, .evm, .recd, .sec, .nav] s (execAcqCtl a0 s) := by
  unfold execAcqCtl
  refine issue_only _ _ _ _ _ (by decide) ?_
  exact Only.mono (pushNav_only _ _ _ _ _) (by decide)

theorem execNavInclude_only (a0 : BitVec 4) (a1 : BitVec 8) (a2 : BitVec 8) (s : State) :
    OnlyNext [.evm, .recd, .mbx, .nav] s (execNavInclude a0 a1 a2 s) := by
  unfold execNavInclude
  refine OnlyNext.next ?_
  exact Only.mono (navExclHandler_only _ _ _ _ _) (by decide)

theorem execTrkPllLock_only (a0 : ChanSamples) (s : State) :
    OnlyNext [.nav] s (execTrkPllLock a0 s) := by
  unfold execTrkPllLock
  extract_lets +onlyGivenNames x1 x2
  clear_value x1 x2
  refine OnlyNext.next ?_
  exact Only.mono (setNavCh_only _ _ _) (by decide)

theorem execEpoch_only (s : State) :
    OnlyNext [.boot, .seq, .cck, .sdir, .evm, .recd, .sec, .nav] s (execEpoch s) := by
  unfold execEpoch
  refine issue_only _ _ _ _ _ (by decide) ?_
  exact Only.mono (pushNav_only _ _ _ _ _) (by decide)

theorem navDone_only (d : NavDone) (s : State) :
    Only [.lbus, .evm, .recd, .nav] s (navDone d s) := by
  unfold navDone
  extract_lets x
  have hx : Only [.lbus, .evm, .recd, .nav] s x := Only.mono (navArrivals_only _) (by decide)
  clear_value x
  split
  · rename_i o t h
    exact Only.trans (Only.trans hx (Only.mono (takeNavOp_only _ _ _ _ h) (by decide))) (Only.mono (navFinish_only _ _ _) (by decide))
  · exact hx

theorem execNavOpComplete_only (a0 : NavDone) (s : State) :
    OnlyNext [.lbus, .evm, .recd, .nav] s (execNavOpComplete a0 s) := by
  unfold execNavOpComplete
  refine OnlyNext.next ?_
  exact Only.mono (navDone_only _ _) (by decide)

theorem execReacqTimeout_only (a0 : Fin 192) (s : State) :
    OnlyNext [.nav] s (execReacqTimeout a0 s) := by
  unfold execReacqTimeout
  refine OnlyNext.ite ?_ ?_
  · refine OnlyNext.next ?_
    exact Only.mono (freeChan_only _ _) (by decide)
  · refine OnlyNext.next ?_
    exact Only.refl _ _

end Sys2Proof.Machine
end

