-- ==== Sys2Proof/Laws/FrameLce.lean ====
section
/-! SUPPORT. Sys2Proof/Laws/FrameLce.lean: which parts of the state each operation of Machine/Lce.lean changes. -/

set_option linter.unusedVariables false

namespace Sys2Proof.Machine

theorem modLce_only (a0 : Lce → Lce) (s : State) :
    Only [.lce] s (modLce a0 s) := by
  unfold modLce
  refine only_upd_lce _ (by decide) ?_
  exact Only.refl _ _

theorem lceEnable_only (a0 : ℕ) (s : State) :
    Only [.lce] s (lceEnable a0 s) := by
  unfold lceEnable
  refine Only.foldl _ _ _ (fun u1 y h2 => ?_) ?_
  · refine Only.ite ?_ ?_
    · exact h2
    · refine Only.after (modLce_only _ _) (by decide) ?_
      exact h2
  · exact Only.refl _ _

theorem putLceRec_only (a0 : ℕ) (a1 : List Word) (s : State) :
    Only [.sram] s (putLceRec a0 a1 s) := by
  unfold putLceRec
  refine only_upd_sram _ (by decide) ?_
  exact Only.refl _ _

theorem putLceVals_only (a0 : ℕ) (a1 : LceVals) (s : State) :
    Only [.sram] s (putLceVals a0 a1 s) := by
  unfold putLceVals
  extract_lets +onlyGivenNames x1 x2
  clear_value x1 x2
  exact Only.mono (putLceRec_only _ _ _) (by decide)

theorem lceApplyMode_only (a0 : ℕ) (a1 : Bool) (a2 : Option Word) (s : State) :
    Only [.sram, .evm, .recd] s (lceApplyMode a0 a1 a2 s) := by
  unfold lceApplyMode
  extract_lets +onlyGivenNames x1 x2 x3 x4 x5
  clear_value x1 x2 x3 x4 x5
  extract_lets +onlyGivenNames x6
  have h7 : Only [Part.sram, Part.evm, Part.recd] s x6 := by
    subst x6
    exact Only.mono (putLceVals_only _ _ _) (by decide)
  clear_value x6
  refine Only.ite ?_ ?_
  · refine Only.after (raise_only _ _ _ _ _) (by decide) ?_
    exact h7
  · exact h7

theorem lceFinish_only (a0 : ℕ) (a1 : ℕ) (a2 : ℕ) (a3 : Half) (s : State) :
    Only [.evm, .recd, .mbx] s (lceFinish a0 a1 a2 a3 s) := by
  unfold lceFinish
  refine Only.after (completeMbx_only _ _ _) (by decide) ?_
  refine Only.ite ?_ ?_
  · exact Only.refl _ _
  · exact Only.mono (raise_only _ _ _ _ _) (by decide)

theorem injEnd_only (a0 : ℕ) (s : State) :
    Only [.evm, .recd, .lce] s (injEnd a0 s) := by
  unfold injEnd
  refine Only.after (raise_only _ _ _ _ _) (by decide) ?_
  exact Only.mono (modLce_only _ _) (by decide)

theorem lceDisableCtx_only (s : State) (a1 : ℕ) :
    Only [.sdir, .evm, .recd, .mbx, .lce] s (lceDisableCtx s a1) := by
  unfold lceDisableCtx
  extract_lets +onlyGivenNames x1 x2
  clear_value x1 x2
  extract_lets +onlyGivenNames x3
  have h4 : Only [Part.sdir, Part.evm, Part.recd, Part.mbx, Part.lce] s x3 := by
    subst x3
    refine Only.ite ?_ ?_
    · exact Only.refl _ _
    · exact Only.mono (setEnt_only _ _ _) (by decide)
  clear_value x3
  extract_lets +onlyGivenNames x5
  have h6 : Only [Part.sdir, Part.evm, Part.recd, Part.mbx, Part.lce] s x5 := by
    subst x5
    refine Only.after (markStale_only _ _ _) (by decide) ?_
    exact h4
  clear_value x5
  extract_lets +onlyGivenNames x7
  clear_value x7
  extract_lets +onlyGivenNames x8
  have h9 : Only [Part.sdir, Part.evm, Part.recd, Part.mbx, Part.lce] s x8 := by
    subst x8
    refine Only.foldl _ _ _ (fun u10 y h11 => ?_) ?_
    · refine Only.after (lceFinish_only _ _ _ _ _) (by decide) ?_
      exact h11
    · refine Only.after (modLce_only _ _) (by decide) ?_
      exact h6
  clear_value x8
  extract_lets +onlyGivenNames x12
  have h13 : Only [Part.sdir, Part.evm, Part.recd, Part.mbx, Part.lce] s x12 := by
    subst x12
    refine Only.ite ?_ ?_
    · refine Only.after (injEnd_only _ _) (by decide) ?_
      exact h9
    · exact h9
  clear_value x12
  refine Only.ite ?_ ?_
  · refine Only.after (modLce_only _ _) (by decide) ?_
    exact h13
  · exact h13

theorem execLceInjEnd_only (s : State) :
    OnlyNext [.evm, .recd, .lce] s (execLceInjEnd s) := by
  unfold execLceInjEnd
  refine OnlyNext.next ?_
  refine Only.ite ?_ ?_
  · exact Only.mono (injEnd_only _ _) (by decide)
  · exact Only.refl _ _

theorem lceDisable_only (a0 : ℕ) (s : State) :
    Only [.sdir, .evm, .recd, .mbx, .lce] s (lceDisable a0 s) := by
  unfold lceDisable
  refine Only.foldl _ _ _ (fun u1 y h2 => ?_) ?_
  · refine Only.after (lceDisableCtx_only _ _) (by decide) ?_
    exact h2
  · exact Only.refl _ _

theorem lceLeaveSafeHold_only (s : State) :
    Only [.lce] s (lceLeaveSafeHold s) := by
  unfold lceLeaveSafeHold
  exact Only.mono (modLce_only _ _) (by decide)

theorem lceBoundary_only (s : State) :
    Only [.evm, .recd, .mbx, .lce] s (lceBoundary s) := by
  unfold lceBoundary
  extract_lets +onlyGivenNames x1
  have h2 : Only [Part.evm, Part.recd, Part.mbx, Part.lce] s x1 := by
    subst x1
    exact Only.mono (modLce_only _ _) (by decide)
  clear_value x1
  extract_lets +onlyGivenNames x3 x4
  clear_value x3 x4
  refine Only.foldl _ _ _ (fun u5 y h6 => ?_) ?_
  · split
    · refine Only.after (lceFinish_only _ _ _ _ _) (by decide) ?_
      refine Only.after (modLce_only _ _) (by decide) ?_
      exact h6
    · exact h6
  · refine Only.after (modLce_only _ _) (by decide) ?_
    exact h2

theorem lceStart_only (s : State) :
    Only [.lce] s (lceStart s) := by
  unfold lceStart
  exact Only.mono (modLce_only _ _) (by decide)

theorem lceHandler_only (a0 : ℕ) (a1 : ℕ) (a2 : Bool) (a3 : LceCmd) (s : State) :
    Only [.evm, .recd, .mbx, .lce] s (lceHandler a0 a1 a2 a3 s) := by
  unfold lceHandler
  extract_lets +onlyGivenNames x1
  clear_value x1
  refine Only.ite ?_ ?_
  · exact Only.mono (lceFinish_only _ _ _ _ _) (by decide)
  · refine Only.ite ?_ ?_
    · exact Only.mono (lceFinish_only _ _ _ _ _) (by decide)
    · refine Only.ite ?_ ?_
      · exact Only.mono (lceFinish_only _ _ _ _ _) (by decide)
      · refine Only.ite ?_ ?_
        · exact Only.mono (lceFinish_only _ _ _ _ _) (by decide)
        · exact Only.mono (modLce_only _ _) (by decide)

theorem execLceMode_only (a0 : BitVec 4) (a1 : BitVec 8) (a2 : BitVec 8) (a3 : Bool) (a4 : BitVec 32) (s : State) :
    OnlyNext [.evm, .recd, .mbx, .lce] s (execLceMode a0 a1 a2 a3 a4 s) := by
  unfold execLceMode
  refine OnlyNext.next ?_
  exact Only.mono (lceHandler_only _ _ _ _ _) (by decide)

theorem captureSample_only (a0 : ℕ) (a1 : List Word) (s : State) :
    Only [.sram, .evm, .recd, .lce] s (captureSample a0 a1 s) := by
  unfold captureSample
  extract_lets +onlyGivenNames x1
  clear_value x1
  refine Only.ite ?_ ?_
  · exact Only.refl _ _
  · refine Only.ite ?_ ?_
    · exact Only.mono (modLce_only _ _) (by decide)
    · extract_lets +onlyGivenNames x2
      clear_value x2
      extract_lets +onlyGivenNames x3
      have h4 : Only [Part.sram, Part.evm, Part.recd, Part.lce] s x3 := by
        subst x3
        refine only_upd_sram _ (by decide) ?_
        exact Only.refl _ _
      clear_value x3
      extract_lets +onlyGivenNames x5 x6
      clear_value x5 x6
      extract_lets +onlyGivenNames x7
      have h8 : Only [Part.sram, Part.evm, Part.recd, Part.lce] s x7 := by
        subst x7
        refine Only.after (modLce_only _ _) (by decide) ?_
        exact h4
      clear_value x7
      refine Only.ite ?_ ?_
      · refine Only.after (raise_only _ _ _ _ _) (by decide) ?_
        refine Only.after (modLce_only _ _) (by decide) ?_
        exact h8
      · exact h8

theorem lceImport_only (a0 : ℕ) (a1 : List Word) (s : State) :
    Only [.sram] s (lceImport a0 a1 s) := by
  unfold lceImport
  exact Only.mono (putLceRec_only _ _ _) (by decide)

theorem lceBegin_only (a0 : ℕ) (a1 : ℕ) (s : State) :
    Only [.sram] s (lceBegin a0 a1 s) := by
  unfold lceBegin
  extract_lets +onlyGivenNames x1 x2 x3 x4 x5 x6 x7 x8
  clear_value x1 x2 x3 x4 x5 x6 x7 x8
  exact Only.mono (putLceVals_only _ _ _) (by decide)

theorem rewriteSig_only (a0 : ℕ) (a1 : Qual) (a2 : Word) (s : State) :
    Only [.sdir] s (rewriteSig a0 a1 a2 s) := by
  unfold rewriteSig
  extract_lets +onlyGivenNames x1
  clear_value x1
  refine Only.ite ?_ ?_
  · exact Only.refl _ _
  · exact Only.mono (setEnt_only _ _ _) (by decide)

theorem lceHold_only (a0 : ℕ) (a1 : ℕ) (a2 : Qual) (a3 : Qual) (a4 : LceVals) (a5 : ℕ) (a6 : Bool) (a7 : ℕ) (a8 : Word) (s : State) :
    Only [.sram, .sdir, .evm, .recd] s (lceHold a0 a1 a2 a3 a4 a5 a6 a7 a8 s).1 := by
  unfold lceHold
  extract_lets +onlyGivenNames x1 x2 x3 x4 x5 x6 x7 x8 x9 x10
  clear_value x1 x2 x3 x4 x5 x6 x7 x8 x9 x10
  extract_lets +onlyGivenNames x11
  have h12 : Only [Part.sram, Part.sdir, Part.evm, Part.recd] s x11 := by
    subst x11
    refine Only.ite ?_ ?_
    · exact Only.mono (raise_only _ _ _ _ _) (by decide)
    · exact Only.refl _ _
  clear_value x11
  extract_lets +onlyGivenNames x13
  have h14 : Only [Part.sram, Part.sdir, Part.evm, Part.recd] s x13 := by
    subst x13
    refine Only.ite ?_ ?_
    · refine Only.after (raise_only _ _ _ _ _) (by decide) ?_
      exact h12
    · exact h12
  clear_value x13
  extract_lets +onlyGivenNames x15 x16 x17
  clear_value x15 x16 x17
  extract_lets +onlyGivenNames x18
  have h19 : Only [Part.sram, Part.sdir, Part.evm, Part.recd] s x18 := by
    subst x18
    refine Only.after (putLceVals_only _ _ _) (by decide) ?_
    exact h14
  clear_value x18
  extract_lets +onlyGivenNames x20
  clear_value x20
  refine Only.fst_mk ?_
  refine Only.after (writeSig_only _ _ _ _ _) (by decide) ?_
  refine Only.after (rewriteSig_only _ _ _ _) (by decide) ?_
  refine Only.after (rewriteSig_only _ _ _ _) (by decide) ?_
  refine Only.after (writeSig_only _ _ _ _ _) (by decide) ?_
  exact h19

theorem execLceCapturePage_only (a0 : BitVec 4) (a1 : BitVec 8) (a2 : BitVec 8) (s : State) :
    OnlyNext [.evm, .recd, .mbx, .lce] s (execLceCapturePage a0 a1 a2 s) := by
  unfold execLceCapturePage
  refine OnlyNext.next ?_
  exact Only.mono (lceHandler_only _ _ _ _ _) (by decide)

theorem execLceBank_only (a0 : BitVec 4) (a1 : BitVec 8) (a2 : BitVec 8) (s : State) :
    OnlyNext [.evm, .recd, .mbx, .lce] s (execLceBank a0 a1 a2 s) := by
  unfold execLceBank
  refine OnlyNext.next ?_
  exact Only.mono (lceHandler_only _ _ _ _ _) (by decide)

theorem lceApplyBank_only (a0 : ℕ) (a1 : ℕ) (a2 : Bool) (s : State) :
    Only [.sram, .evm, .recd, .mbx] s (lceApplyBank a0 a1 a2 s) := by
  unfold lceApplyBank
  extract_lets +onlyGivenNames x1
  clear_value x1
  split
  · exact Only.mono (lceFinish_only _ _ _ _ _) (by decide)
  · extract_lets +onlyGivenNames x2 x3
    clear_value x2 x3
    refine Only.after (lceFinish_only _ _ _ _ _) (by decide) ?_
    refine Only.after (raise_only _ _ _ _ _) (by decide) ?_
    exact Only.mono (putLceVals_only _ _ _) (by decide)

theorem lceArm_only (a0 : ℕ) (a1 : ℕ) (s : State) :
    Only [.lce] s (lceArm a0 a1 s) := by
  unfold lceArm
  exact Only.mono (modLce_only _ _) (by decide)

theorem lceApplyStart_only (a0 : ℕ) (a1 : ℕ) (a2 : LceTest) (s : State) :
    Only [.evm, .recd, .mbx, .lce] s (lceApplyStart a0 a1 a2 s) := by
  unfold lceApplyStart
  refine Only.ite ?_ ?_
  · exact Only.mono (lceFinish_only _ _ _ _ _) (by decide)
  · refine Only.ite ?_ ?_
    · exact Only.mono (lceFinish_only _ _ _ _ _) (by decide)
    · refine Only.ite ?_ ?_
      · exact Only.mono (lceFinish_only _ _ _ _ _) (by decide)
      · extract_lets +onlyGivenNames x1
        have h2 : Only [Part.evm, Part.recd, Part.mbx, Part.lce] s x1 := by
          subst x1
          exact Only.mono (modLce_only _ _) (by decide)
        clear_value x1
        refine Only.after (lceFinish_only _ _ _ _ _) (by decide) ?_
        refine Only.ite ?_ ?_
        · refine Only.after (lceArm_only _ _ _) (by decide) ?_
          exact h2
        · exact h2

theorem lceApply_only (a0 : ℕ) (a1 : LcePend) (s : State) :
    Only [.sram, .evm, .recd, .mbx, .lce] s (lceApply a0 a1 s).1 := by
  unfold lceApply
  split
  · refine Only.fst_mk ?_
    refine Only.after (lceFinish_only _ _ _ _ _) (by decide) ?_
    exact Only.mono (lceApplyMode_only _ _ _ _) (by decide)
  · refine Only.fst_mk ?_
    exact Only.mono (lceApplyBank_only _ _ _ _) (by decide)
  · refine Only.fst_mk ?_
    exact Only.mono (lceApplyStart_only _ _ _ _) (by decide)
  · refine Only.fst_mk ?_
    exact Only.mono (lceFinish_only _ _ _ _ _) (by decide)
  · refine Only.fst_mk ?_
    refine Only.after (lceFinish_only _ _ _ _ _) (by decide) ?_
    exact Only.mono (lceArm_only _ _ _) (by decide)
  · refine Only.fst_mk ?_
    refine Only.after (lceFinish_only _ _ _ _ _) (by decide) ?_
    exact Only.mono (modLce_only _ _) (by decide)
  · refine Only.fst_mk ?_
    exact Only.refl _ _

theorem lceCommands_only (a0 : ℕ) (s : State) :
    Only [.sram, .evm, .recd, .mbx, .lce] s (lceCommands a0 s).1 := by
  unfold lceCommands
  extract_lets +onlyGivenNames x1 x2 x3
  clear_value x1 x2 x3
  refine Only.foldl_fst _ _ _ (fun u4 y h5 => ?_) ?_
  · extract_lets +onlyGivenNames x6
    have h7 : Only [Part.sram, Part.evm, Part.recd, Part.mbx, Part.lce] s x6.1 := by
      subst x6
      refine Only.after (lceApply_only _ _ _) (by decide) ?_
      exact h5
    clear_value x6
    refine Only.fst_mk ?_
    exact h7
  · refine Only.fst_mk ?_
    exact Only.mono (modLce_only _ _) (by decide)

theorem lcePrepare_only (a0 : ℕ) (s : State) :
    Only [.sram, .evm, .recd, .lce, .pack] s (lcePrepare a0 s) := by
  unfold lcePrepare
  extract_lets +onlyGivenNames x1
  have h2 : Only [Part.sram, Part.evm, Part.recd, Part.lce, Part.pack] s x1 := by
    subst x1
    split
    · exact Only.refl _ _
    · refine Only.after (modLce_only _ _) (by decide) ?_
      exact Only.mono (lceBegin_only _ _ _) (by decide)
  clear_value x1
  extract_lets +onlyGivenNames x3
  have h4 : Only [Part.sram, Part.evm, Part.recd, Part.lce, Part.pack] s x3.2 := by
    subst x3
    refine Only.after (eqTake_only _ _ _) (by decide) ?_
    exact h2
  clear_value x3
  extract_lets +onlyGivenNames x5
  have h6 : Only [Part.sram, Part.evm, Part.recd, Part.lce, Part.pack] s x5 := by
    subst x5
    split
    · refine Only.after (lceImport_only _ _ _) (by decide) ?_
      exact h4
    · exact h4
  clear_value x5
  refine Only.ite ?_ ?_
  · refine Only.after (putLceVals_only _ _ _) (by decide) ?_
    refine Only.after (modLce_only _ _) (by decide) ?_
    exact h6
  · exact h6

theorem lceSample_only (a0 : ℕ) (a1 : Bool) (s : State) :
    Only [.sram, .sdir, .evm, .recd, .lce] s (lceSample a0 a1 s) := by
  unfold lceSample
  extract_lets +onlyGivenNames x1 x2 x3 x4 x5 x6 x7 x8 x9 x10 x11 x12 x13 x14 x15 x16
  clear_value x1 x2 x3 x4 x5 x6 x7 x8 x9 x10 x11 x12 x13 x14 x15 x16
  extract_lets +onlyGivenNames x17
  have h18 : Only [Part.sram, Part.sdir, Part.evm, Part.recd, Part.lce] s x17 := by
    subst x17
    refine Only.ite ?_ ?_
    · exact Only.mono (raise_only _ _ _ _ _) (by decide)
    · exact Only.refl _ _
  clear_value x17
  extract_lets +onlyGivenNames x19 x20 x21 x22 x23 x24 x25 x26 x27 x28 x29
  clear_value x19 x20 x21 x22 x23 x24 x25 x26 x27 x28 x29
  split
  · extract_lets +onlyGivenNames x30
    clear_value x30
    extract_lets +onlyGivenNames x31
    have h32 : Only [Part.sram, Part.sdir, Part.evm, Part.recd, Part.lce] s x31.1 := by
      subst x31
      refine Only.after (lceHold_only _ _ _ _ _ _ _ _ _ _) (by decide) ?_
      exact h18
    clear_value x31
    extract_lets +onlyGivenNames x33
    have h34 : Only [Part.sram, Part.sdir, Part.evm, Part.recd, Part.lce] s x33 := by
      subst x33
      refine Only.ite ?_ ?_
      · refine Only.after (injEnd_only _ _) (by decide) ?_
        exact h32
      · exact h32
    clear_value x33
    refine Only.after (captureSample_only _ _ _) (by decide) ?_
    exact h34
  · extract_lets +onlyGivenNames x35 x36
    clear_value x35 x36
    extract_lets +onlyGivenNames x37
    have h38 : Only [Part.sram, Part.sdir, Part.evm, Part.recd, Part.lce] s x37 := by
      subst x37
      refine Only.ite ?_ ?_
      · refine Only.after (raise_only _ _ _ _ _) (by decide) ?_
        exact h18
      · exact h18
    clear_value x37
    extract_lets +onlyGivenNames x39 x40 x41
    clear_value x39 x40 x41
    extract_lets +onlyGivenNames x42
    have h43 : Only [Part.sram, Part.sdir, Part.evm, Part.recd, Part.lce] s x42 := by
      subst x42
      refine Only.after (putLceVals_only _ _ _) (by decide) ?_
      exact h38
    clear_value x42
    extract_lets +onlyGivenNames x44
    clear_value x44
    extract_lets +onlyGivenNames x45
    have h46 : Only [Part.sram, Part.sdir, Part.evm, Part.recd, Part.lce] s x45 := by
      subst x45
      refine Only.after (writeList_only _ _ _ _) (by decide) ?_
      exact h43
    clear_value x45
    extract_lets +onlyGivenNames x47
    have h48 : Only [Part.sram, Part.sdir, Part.evm, Part.recd, Part.lce] s x47 := by
      subst x47
      refine Only.ite ?_ ?_
      · refine Only.after (raise_only _ _ _ _ _) (by decide) ?_
        exact h46
      · exact h46
    clear_value x47
    extract_lets +onlyGivenNames x49
    have h50 : Only [Part.sram, Part.sdir, Part.evm, Part.recd, Part.lce] s x49 := by
      subst x49
      refine Only.ite ?_ ?_
      · refine Only.after (modLce_only _ _) (by decide) ?_
        exact h48
      · refine Only.ite ?_ ?_
        · refine Only.after (injEnd_only _ _) (by decide) ?_
          exact h48
        · exact h48
    clear_value x49
    refine Only.after (captureSample_only _ _ _) (by decide) ?_
    exact h50

theorem lceStepEffect_only (a0 : ℕ) (s : State) :
    Only [.sram, .sdir, .evm, .recd, .mbx, .lce, .pack] s (lceStepEffect a0 s) := by
  unfold lceStepEffect
  extract_lets +onlyGivenNames x1
  have h2 : Only [Part.sram, Part.sdir, Part.evm, Part.recd, Part.mbx, Part.lce, Part.pack] s x1.1 := by
    subst x1
    refine Only.after (lceCommands_only _ _) (by decide) ?_
    exact Only.mono (lcePrepare_only _ _) (by decide)
  clear_value x1
  refine Only.after (lceSample_only _ _ _) (by decide) ?_
  exact h2

theorem execLceCaptureArm_only (a0 : BitVec 4) (a1 : BitVec 8) (a2 : BitVec 8) (s : State) :
    OnlyNext [.evm, .recd, .mbx, .lce] s (execLceCaptureArm a0 a1 a2 s) := by
  unfold execLceCaptureArm
  refine OnlyNext.next ?_
  exact Only.mono (lceHandler_only _ _ _ _ _) (by decide)

theorem execLceCaptureDisarm_only (a0 : BitVec 4) (a1 : BitVec 8) (s : State) :
    OnlyNext [.evm, .recd, .mbx, .lce] s (execLceCaptureDisarm a0 a1 s) := by
  unfold execLceCaptureDisarm
  refine OnlyNext.next ?_
  exact Only.mono (lceHandler_only _ _ _ _ _) (by decide)

theorem execLceTestStop_only (a0 : BitVec 4) (a1 : BitVec 8) (s : State) :
    OnlyNext [.evm, .recd, .mbx, .lce] s (execLceTestStop a0 a1 s) := by
  unfold execLceTestStop
  refine OnlyNext.next ?_
  exact Only.mono (lceHandler_only _ _ _ _ _) (by decide)

theorem execLceStep_only (a0 : BitVec 8) (s : State) :
    OnlyNext [.boot, .sram, .seq, .cck, .sdir, .evm, .recd, .mbx, .sec, .lce, .pack] s (execLceStep a0 s) := by
  unfold execLceStep
  refine issue_only _ _ _ _ _ (by decide) ?_
  refine Only.ite ?_ ?_
  · exact Only.mono (breach_only _ _ _) (by decide)
  · exact Only.mono (lceStepEffect_only _ _) (by decide)

theorem execLceTestStart_only (a0 : BitVec 4) (a1 : BitVec 8) (a2 : LceTest) (s : State) :
    OnlyNext [.evm, .recd, .mbx, .lce] s (execLceTestStart a0 a1 a2 s) := by
  unfold execLceTestStart
  refine OnlyNext.next ?_
  exact Only.mono (lceHandler_only _ _ _ _ _) (by decide)

end Sys2Proof.Machine
end

