-- ==== Sys2Proof/Laws/FrameCan.lean ====
section
/-! SUPPORT. Sys2Proof/Laws/FrameCan.lean: which parts of the state each operation of Machine/Can.lean changes. -/

set_option linter.unusedVariables false

namespace Sys2Proof.Machine

theorem setCan_only (a0 : ℕ) (a1 : CanCtl) (s : State) :
    Only [.ports] s (setCan a0 a1 s) := by
  unfold setCan
  refine only_upd_ports _ (by decide) ?_
  exact Only.refl _ _

theorem modCan_only (a0 : ℕ) (a1 : CanCtl → CanCtl) (s : State) :
    Only [.ports] s (modCan a0 a1 s) := by
  unfold modCan
  exact Only.mono (setCan_only _ _ _) (by decide)

theorem canEnable_only (a0 : ℕ) (s : State) :
    Only [.ports] s (canEnable a0 s) := by
  unfold canEnable
  refine Only.ite ?_ ?_
  · exact Only.mono (modCan_only _ _ _) (by decide)
  · exact Only.refl _ _

theorem modObj_only (a0 : ℕ) (a1 : ℕ) (a2 : CanObj → CanObj) (s : State) :
    Only [.ports] s (modObj a0 a1 a2 s) := by
  unfold modObj
  exact Only.mono (modCan_only _ _ _) (by decide)

theorem canArrive_only (a0 : ℕ) (a1 : ℕ) (a2 : List Byte) (s : State) :
    Only [.ports] s (canArrive a0 a1 a2 s) := by
  unfold canArrive
  extract_lets +onlyGivenNames x1 x2
  clear_value x1 x2
  extract_lets +onlyGivenNames x3
  have h4 : Only [Part.ports] s x3 := by
    subst x3
    exact Only.mono (modObj_only _ _ _ _) (by decide)
  clear_value x3
  refine Only.ite ?_ ?_
  · refine Only.after (modObj_only _ _ _ _) (by decide) ?_
    exact h4
  · refine Only.after (modObj_only _ _ _ _) (by decide) ?_
    exact h4

theorem canBegin_only (a0 : ℕ) (a1 : Bool) (s : State) :
    Only [.ports] s (canBegin a0 a1 s) := by
  unfold canBegin
  extract_lets +onlyGivenNames x1
  clear_value x1
  refine Only.ite ?_ ?_
  · exact Only.refl _ _
  · split
    · refine Only.after (modObj_only _ _ _ _) (by decide) ?_
      exact Only.mono (modCan_only _ _ _) (by decide)
    · exact Only.refl _ _

theorem canStateEv_only (a0 : ℕ) (s : State) :
    Only [.evm, .recd] s (canStateEv a0 s) := by
  unfold canStateEv
  extract_lets +onlyGivenNames x1
  clear_value x1
  exact Only.mono (raise_only _ _ _ _ _) (by decide)

theorem execCanBusoffRecovery_only (a0 : Fin 8) (a1 : Bool) (s : State) :
    OnlyNext [.evm, .recd, .ports] s (execCanBusoffRecovery a0 a1 s) := by
  unfold execCanBusoffRecovery
  refine OnlyNext.ite ?_ ?_
  · refine OnlyNext.next ?_
    refine Only.after (canBegin_only _ _ _) (by decide) ?_
    refine Only.after (canStateEv_only _ _) (by decide) ?_
    exact Only.mono (modCan_only _ _ _) (by decide)
  · refine OnlyNext.next ?_
    exact Only.refl _ _

theorem canGate1_only (s : State) (a1 : ℕ) :
    Only [.ports] s (canGate1 s a1) := by
  unfold canGate1
  extract_lets +onlyGivenNames x1
  clear_value x1
  refine Only.ite ?_ ?_
  · exact Only.refl _ _
  · refine Only.foldl _ _ _ (fun u2 y h3 => ?_) ?_
    · refine Only.after (modObj_only _ _ _ _) (by decide) ?_
      exact h3
    · exact Only.mono (setCan_only _ _ _) (by decide)

theorem cancelEv_only (a0 : ℕ) (a1 : ℕ) (a2 : ℕ) (s : State) :
    Only [.evm, .recd] s (cancelEv a0 a1 a2 s) := by
  unfold cancelEv
  exact Only.mono (raise_only _ _ _ _ _) (by decide)

theorem canDisable_only (a0 : ℕ) (s : State) :
    Only [.evm, .recd, .mbx, .ports] s (canDisable a0 s) := by
  unfold canDisable
  extract_lets +onlyGivenNames x1
  have h2 : Only [Part.evm, Part.recd, Part.mbx, Part.ports] s x1 := by
    subst x1
    refine Only.foldl _ _ _ (fun u3 y h4 => ?_) ?_
    · refine Only.ite ?_ ?_
      · refine Only.after (cancelEv_only _ _ _ _) (by decide) ?_
        refine Only.after (modObj_only _ _ _ _) (by decide) ?_
        exact h4
      · exact h4
    · exact Only.refl _ _
  clear_value x1
  extract_lets +onlyGivenNames x5
  have h6 : Only [Part.evm, Part.recd, Part.mbx, Part.ports] s x5 := by
    subst x5
    split
    · refine Only.after (modObj_only _ _ _ _) (by decide) ?_
      exact h2
    · exact h2
  clear_value x5
  extract_lets +onlyGivenNames x7
  clear_value x7
  refine Only.foldl _ _ _ (fun u8 y h9 => ?_) ?_
  · refine Only.after (abortMbx_only _ _) (by decide) ?_
    exact h9
  · refine Only.after (modCan_only _ _ _) (by decide) ?_
    exact h6

theorem canRefresh_only (s : State) :
    Only [.ports] s (canRefresh s) := by
  unfold canRefresh
  refine Only.ite ?_ ?_
  · refine Only.foldl _ _ _ (fun u1 y h2 => ?_) ?_
    · refine Only.after (canGate1_only _ _) (by decide) ?_
      exact h2
    · exact Only.refl _ _
  · exact Only.refl _ _

theorem canBoundary_only (s : State) :
    Only [.evm, .recd, .mbx, .ports] s (canBoundary s) := by
  unfold canBoundary
  refine Only.foldl _ _ _ (fun u1 y h2 => ?_) ?_
  · extract_lets +onlyGivenNames x3
    clear_value x3
    extract_lets +onlyGivenNames x4
    have h5 : Only [Part.evm, Part.recd, Part.mbx, Part.ports] s x4 := by
      subst x4
      refine Only.ite ?_ ?_
      · exact h2
      · refine Only.after (modCan_only _ _ _) (by decide) ?_
        exact h2
    clear_value x4
    refine Only.foldl _ _ _ (fun u6 y h7 => ?_) ?_
    · refine Only.after (completeMbx_only _ _ _) (by decide) ?_
      refine Only.after (modCan_only _ _ _) (by decide) ?_
      exact h7
    · exact h5
  · exact Only.refl _ _

theorem execCanCancelArrival_only (a0 : Fin 8) (s : State) :
    OnlyNext [.evm, .recd, .ports] s (execCanCancelArrival a0 s) := by
  unfold execCanCancelArrival
  split
  · refine OnlyNext.ite ?_ ?_
    · refine OnlyNext.next ?_
      exact Only.refl _ _
    · extract_lets +onlyGivenNames x1
      have h2 : Only [Part.evm, Part.recd, Part.ports] s x1 := by
        subst x1
        exact Only.mono (modCan_only _ _ _) (by decide)
      clear_value x1
      refine OnlyNext.ite ?_ ?_
      · refine OnlyNext.next ?_
        refine Only.after (modObj_only _ _ _ _) (by decide) ?_
        exact h2
      · refine OnlyNext.ite ?_ ?_
        · refine OnlyNext.next ?_
          refine Only.after (cancelEv_only _ _ _ _) (by decide) ?_
          refine Only.after (modObj_only _ _ _ _) (by decide) ?_
          exact h2
        · refine OnlyNext.next ?_
          exact h2
  · refine OnlyNext.next ?_
    exact Only.refl _ _

theorem execCanTxArrival_only (a0 : Fin 8) (a1 : Bool) (s : State) :
    OnlyNext [.ports] s (execCanTxArrival a0 a1 s) := by
  unfold execCanTxArrival
  split
  · refine OnlyNext.ite ?_ ?_
    · refine OnlyNext.next ?_
      refine Only.after (canBegin_only _ _ _) (by decide) ?_
      refine Only.after (canArrive_only _ _ _ _) (by decide) ?_
      exact Only.mono (modCan_only _ _ _) (by decide)
    · refine OnlyNext.next ?_
      exact Only.refl _ _
  · refine OnlyNext.next ?_
    exact Only.refl _ _

theorem execCanCancel_only (a0 : Fin 8) (a1 : BitVec 7) (s : State) :
    OnlyNext [.boot, .seq, .cck, .sdir, .evm, .recd, .sec, .ports] s (execCanCancel a0 a1 s) := by
  unfold execCanCancel
  extract_lets +onlyGivenNames x1
  clear_value x1
  refine issue_only _ _ _ _ _ (by decide) ?_
  refine Only.ite ?_ ?_
  · exact Only.mono (breach_only _ _ _) (by decide)
  · exact Only.mono (modCan_only _ _ _) (by decide)

theorem canViewHandler_only (a0 : ℕ) (a1 : ℕ) (a2 : ℕ) (s : State) :
    Only [.evm, .recd, .mbx, .ports] s (canViewHandler a0 a1 a2 s) := by
  unfold canViewHandler
  refine Only.ite ?_ ?_
  · exact Only.mono (completeMbx_only _ _ _) (by decide)
  · exact Only.mono (modCan_only _ _ _) (by decide)

theorem canSeal_only (s : State) :
    Only [.ports] s (canSeal s) := by
  unfold canSeal
  refine Only.foldl _ _ _ (fun u1 y h2 => ?_) ?_
  · refine Only.ite ?_ ?_
    · refine Only.after (modCan_only _ _ _) (by decide) ?_
      exact h2
    · exact h2
  · exact Only.refl _ _

theorem execCanIntegrationComplete_only (a0 : Fin 8) (a1 : Bool) (s : State) :
    OnlyNext [.evm, .recd, .ports] s (execCanIntegrationComplete a0 a1 s) := by
  unfold execCanIntegrationComplete
  refine OnlyNext.ite ?_ ?_
  · refine OnlyNext.next ?_
    refine Only.after (canBegin_only _ _ _) (by decide) ?_
    refine Only.after (canStateEv_only _ _) (by decide) ?_
    exact Only.mono (modCan_only _ _ _) (by decide)
  · refine OnlyNext.next ?_
    exact Only.refl _ _

theorem canTxEffect_only (a0 : ℕ) (a1 : ℕ) (s : State) :
    Only [.ports] s (canTxEffect a0 a1 s) := by
  unfold canTxEffect
  refine Only.ite ?_ ?_
  · extract_lets +onlyGivenNames x1
    clear_value x1
    exact Only.mono (modCan_only _ _ _) (by decide)
  · exact Only.refl _ _

theorem canWire_only (a0 : ℕ) (s : State) :
    Only [.ports] s (canWire a0 s) := by
  unfold canWire
  exact Only.mono (canBegin_only _ _ _) (by decide)

theorem canJudge_only (a0 : ℕ) (s : State) :
    Only [.evm, .recd, .ports] s (canJudge a0 s) := by
  unfold canJudge
  extract_lets +onlyGivenNames x1 x2
  clear_value x1 x2
  refine Only.ite ?_ ?_
  · exact Only.refl _ _
  · extract_lets +onlyGivenNames x3
    have h4 : Only [Part.evm, Part.recd, Part.ports] s x3 := by
      subst x3
      exact Only.mono (setCan_only _ _ _) (by decide)
    clear_value x3
    extract_lets +onlyGivenNames x5
    have h6 : Only [Part.evm, Part.recd, Part.ports] s x5 := by
      subst x5
      split
      · refine Only.after (modObj_only _ _ _ _) (by decide) ?_
        exact h4
      · exact h4
    clear_value x5
    refine Only.after (canStateEv_only _ _) (by decide) ?_
    exact h6

theorem execCanAttemptEnd_only (a0 : Fin 8) (a1 : CanErr) (a2 : BitVec 5) (a3 : Bool) (s : State) :
    OnlyNext [.evm, .recd, .ports] s (execCanAttemptEnd a0 a1 a2 a3 s) := by
  unfold execCanAttemptEnd
  extract_lets +onlyGivenNames x1
  have h2 : Only [Part.evm, Part.recd, Part.ports] s x1 := by
    subst x1
    exact Only.mono (canWire_only _ _) (by decide)
  clear_value x1
  extract_lets +onlyGivenNames x3
  clear_value x3
  split
  · refine OnlyNext.next ?_
    exact h2
  · extract_lets +onlyGivenNames x4 x5
    clear_value x4 x5
    extract_lets +onlyGivenNames x6
    have h7 : Only [Part.evm, Part.recd, Part.ports] s x6 := by
      subst x6
      refine Only.after (modObj_only _ _ _ _) (by decide) ?_
      exact h2
    clear_value x6
    extract_lets +onlyGivenNames x8 x9
    clear_value x8 x9
    extract_lets +onlyGivenNames x10
    have h11 : Only [Part.evm, Part.recd, Part.ports] s x10 := by
      subst x10
      refine Only.after (modCan_only _ _ _) (by decide) ?_
      exact h7
    clear_value x10
    extract_lets +onlyGivenNames x12
    have h13 : Only [Part.evm, Part.recd, Part.ports] s x12 := by
      subst x12
      refine Only.ite ?_ ?_
      · refine Only.after (cancelEv_only _ _ _ _) (by decide) ?_
        exact h11
      · exact h11
    clear_value x12
    extract_lets +onlyGivenNames x14
    extract_lets +onlyGivenNames x15
    have h16 : Only [Part.evm, Part.recd, Part.ports] s x15 := by
      subst x15
      refine Only.ite ?_ ?_
      · refine Only.after (raise_only _ _ _ _ _) (by decide) ?_
        refine Only.after (modCan_only _ _ _) (by decide) ?_
        exact h13
      · exact h13
    clear_value x15
    refine OnlyNext.next ?_
    refine Only.after (canBegin_only _ _ _) (by decide) ?_
    refine Only.after (canJudge_only _ _) (by decide) ?_
    exact h16

theorem execCanTx_only (a0 : Fin 8) (a1 : BitVec 7) (s : State) :
    OnlyNext [.boot, .seq, .cck, .sdir, .evm, .recd, .sec, .ports] s (execCanTx a0 a1 s) := by
  unfold execCanTx
  extract_lets +onlyGivenNames x1
  clear_value x1
  refine issue_only _ _ _ _ _ (by decide) ?_
  refine Only.ite ?_ ?_
  · exact Only.mono (breach_only _ _ _) (by decide)
  · exact Only.mono (canTxEffect_only _ _ _) (by decide)

theorem canHeard_only (a0 : ℕ) (a1 : ℕ) (s : State) :
    Only [.evm, .recd, .ports] s (canHeard a0 a1 s) := by
  unfold canHeard
  extract_lets +onlyGivenNames x1
  clear_value x1
  extract_lets +onlyGivenNames x2
  have h3 : Only [Part.evm, Part.recd, Part.ports] s x2 := by
    subst x2
    exact Only.mono (setCan_only _ _ _) (by decide)
  clear_value x2
  refine Only.ite ?_ ?_
  · refine Only.after (raise_only _ _ _ _ _) (by decide) ?_
    exact h3
  · exact h3

theorem execCanFrameSent_only (a0 : Fin 8) (a1 : Bool) (s : State) :
    OnlyNext [.evm, .recd, .ports] s (execCanFrameSent a0 a1 s) := by
  unfold execCanFrameSent
  extract_lets +onlyGivenNames x1
  have h2 : Only [Part.evm, Part.recd, Part.ports] s x1 := by
    subst x1
    exact Only.mono (canWire_only _ _) (by decide)
  clear_value x1
  split
  · refine OnlyNext.next ?_
    exact h2
  · extract_lets +onlyGivenNames x3
    clear_value x3
    extract_lets +onlyGivenNames x4
    have h5 : Only [Part.evm, Part.recd, Part.ports] s x4 := by
      subst x4
      refine Only.after (modObj_only _ _ _ _) (by decide) ?_
      exact h2
    clear_value x4
    extract_lets +onlyGivenNames x6
    have h7 : Only [Part.evm, Part.recd, Part.ports] s x6 := by
      subst x6
      refine Only.after (modCan_only _ _ _) (by decide) ?_
      exact h5
    clear_value x6
    extract_lets +onlyGivenNames x8
    have h9 : Only [Part.evm, Part.recd, Part.ports] s x8 := by
      subst x8
      refine Only.ite ?_ ?_
      · refine Only.after (cancelEv_only _ _ _ _) (by decide) ?_
        exact h7
      · exact h7
    clear_value x8
    refine OnlyNext.next ?_
    refine Only.after (canBegin_only _ _ _) (by decide) ?_
    refine Only.after (canJudge_only _ _) (by decide) ?_
    refine Only.after (canHeard_only _ _ _) (by decide) ?_
    exact h9

theorem canStore_only (a0 : ℕ) (a1 : ℕ) (a2 : CanFrame) (s : State) :
    Only [.lbus, .evm, .recd, .ports] s (canStore a0 a1 a2 s) := by
  unfold canStore
  extract_lets +onlyGivenNames x1
  have h2 : Only [Part.lbus, Part.evm, Part.recd, Part.ports] s x1 := by
    subst x1
    exact Only.mono (modObj_only _ _ _ _) (by decide)
  clear_value x1
  extract_lets +onlyGivenNames x3
  have h4 : Only [Part.lbus, Part.evm, Part.recd, Part.ports] s x3 := by
    subst x3
    refine Only.after (modCan_only _ _ _) (by decide) ?_
    exact h2
  clear_value x3
  split
  · exact h4
  · split
    · refine Only.after (lbuComplete_only _ _ _ _ _) (by decide) ?_
      exact h4
    · refine Only.after (raise_only _ _ _ _ _) (by decide) ?_
      refine Only.after (modCan_only _ _ _) (by decide) ?_
      exact h4

theorem execCanFrameReceived_only (a0 : Fin 8) (a1 : CanFrame) (a2 : Bool) (s : State) :
    OnlyNext [.lbus, .evm, .recd, .draws, .ports] s (execCanFrameReceived a0 a1 a2 s) := by
  unfold execCanFrameReceived
  extract_lets +onlyGivenNames x1
  clear_value x1
  refine OnlyNext.ite ?_ ?_
  · extract_lets +onlyGivenNames x2
    have h3 : Only [Part.lbus, Part.evm, Part.recd, Part.draws, Part.ports] s x2 := by
      subst x2
      refine Only.after (setCan_only _ _ _) (by decide) ?_
      refine only_upd_draws _ (by decide) ?_
      exact Only.refl _ _
    clear_value x2
    extract_lets +onlyGivenNames x4
    have h5 : Only [Part.lbus, Part.evm, Part.recd, Part.draws, Part.ports] s x4 := by
      subst x4
      refine Only.after (canHeard_only _ _ _) (by decide) ?_
      exact h3
    clear_value x4
    extract_lets +onlyGivenNames x6
    have h7 : Only [Part.lbus, Part.evm, Part.recd, Part.draws, Part.ports] s x6 := by
      subst x6
      refine Only.ite ?_ ?_
      · exact h5
      · split
        · refine Only.after (canStore_only _ _ _ _) (by decide) ?_
          exact h5
        · refine Only.after (modCan_only _ _ _) (by decide) ?_
          exact h5
    clear_value x6
    refine OnlyNext.next ?_
    refine Only.after (canBegin_only _ _ _) (by decide) ?_
    refine Only.after (canJudge_only _ _) (by decide) ?_
    exact h7
  · refine OnlyNext.next ?_
    exact Only.refl _ _

theorem execCanView_only (a0 : BitVec 4) (a1 : BitVec 8) (a2 : BitVec 8) (s : State) :
    OnlyNext [.evm, .recd, .mbx, .ports] s (execCanView a0 a1 a2 s) := by
  unfold execCanView
  refine OnlyNext.next ?_
  exact Only.mono (canViewHandler_only _ _ _ _) (by decide)

theorem execCanRxError_only (a0 : Fin 8) (a1 : BitVec 5) (a2 : Bool) (s : State) :
    OnlyNext [.evm, .recd, .ports] s (execCanRxError a0 a1 a2 s) := by
  unfold execCanRxError
  extract_lets +onlyGivenNames x1
  clear_value x1
  refine OnlyNext.ite ?_ ?_
  · refine OnlyNext.next ?_
    refine Only.after (canBegin_only _ _ _) (by decide) ?_
    refine Only.after (canJudge_only _ _) (by decide) ?_
    exact Only.mono (setCan_only _ _ _) (by decide)
  · refine OnlyNext.next ?_
    exact Only.refl _ _

end Sys2Proof.Machine
end

