-- ==== Sys2Proof/Laws/FrameOut.lean ====
section
/-! SUPPORT. Sys2Proof/Laws/FrameOut.lean: which parts of the state each operation of Machine/Out.lean changes. -/

set_option linter.unusedVariables false

namespace Sys2Proof.Machine

theorem outRefresh_only (s : State) :
    Only [.loops, .ports] s (outRefresh s) := by
  unfold outRefresh
  refine Only.after (lpoRefresh_only _) (by decide) ?_
  refine Only.after (canRefresh_only _) (by decide) ?_
  exact Only.mono (serRefresh_only _) (by decide)

end Sys2Proof.Machine
end

