-- ==== Sys2Proof/Laws/FrameRing.lean ====
section
/-! SUPPORT. Sys2Proof/Laws/FrameRing.lean: which parts of the state each operation of Machine/Ring.lean changes. -/

set_option linter.unusedVariables false

namespace Sys2Proof.Machine

theorem modPsw_only (a0 : Psw → Psw) (s : State) :
    Only [.pack] s (modPsw a0 s) := by
  unfold modPsw
  exact Only.mono (modPack_only _ _) (by decide)

theorem setSub_only (a0 : ℕ) (a1 : PackSub) (s : State) :
    Only [.pack] s (setSub a0 a1 s) := by
  unfold setSub
  exact Only.mono (modPsw_only _ _) (by decide)

theorem directCand_only (a0 : ℕ) (a1 : ℕ) (a2 : Cand) (s : State) :
    Only [.lbus, .evm, .recd, .pack] s (directCand a0 a1 a2 s) := by
  unfold directCand
  extract_lets +onlyGivenNames x1 x2 x3 x4
  clear_value x1 x2 x3 x4
  split
  · refine Only.after (lbuComplete_only _ _ _ _ _) (by decide) ?_
    exact Only.mono (setSub_only _ _ _) (by decide)
  · extract_lets +onlyGivenNames x5 x6
    clear_value x5 x6
    extract_lets +onlyGivenNames x7
    have h8 : Only [Part.lbus, Part.evm, Part.recd, Part.pack] s x7 := by
      subst x7
      exact Only.mono (setSub_only _ _ _) (by decide)
    clear_value x7
    extract_lets +onlyGivenNames x9
    have h10 : Only [Part.lbus, Part.evm, Part.recd, Part.pack] s x9 := by
      subst x9
      refine Only.ite ?_ ?_
      · refine Only.after (raise_only _ _ _ _ _) (by decide) ?_
        exact h8
      · exact h8
    clear_value x9
    refine Only.ite ?_ ?_
    · exact h10
    · refine Only.after (lbuComplete_only _ _ _ _ _) (by decide) ?_
      exact h10

theorem countLost_only (a0 : List ℕ) (s : State) :
    Only [.pack] s (countLost a0 s) := by
  unfold countLost
  exact Only.mono (modPsw_only _ _) (by decide)

theorem packCand_only (a0 : ℕ) (a1 : ℕ) (a2 : Cand) (s : State) :
    Only [.lbus, .evm, .recd, .pack] s (packCand a0 a1 a2 s) := by
  unfold packCand
  refine Only.ite ?_ ?_
  · extract_lets +onlyGivenNames x1
    clear_value x1
    split
    · refine Only.ite ?_ ?_
      · exact Only.refl _ _
      · exact Only.mono (directCand_only _ _ _ _) (by decide)
    · extract_lets +onlyGivenNames x2
      have h3 : Only [Part.lbus, Part.evm, Part.recd, Part.pack] s x2 := by
        subst x2
        exact Only.mono (setSub_only _ _ _) (by decide)
      clear_value x2
      refine Only.ite ?_ ?_
      · extract_lets +onlyGivenNames x4 x5 x6
        clear_value x4 x5 x6
        extract_lets +onlyGivenNames x7
        have h8 : Only [Part.lbus, Part.evm, Part.recd, Part.pack] s x7 := by
          subst x7
          refine Only.after (setSub_only _ _ _) (by decide) ?_
          exact h3
        clear_value x7
        refine Only.after (lbuComplete_only _ _ _ _ _) (by decide) ?_
        refine Only.after (countLost_only _ _) (by decide) ?_
        exact h8
      · refine Only.after (directCand_only _ _ _ _) (by decide) ?_
        exact h3
  · exact Only.mono (directCand_only _ _ _ _) (by decide)

theorem pubEffect_only (a0 : ℕ) (a1 : ℕ) (s : State) :
    Only [.pack] s (pubEffect a0 a1 s) := by
  unfold pubEffect
  extract_lets +onlyGivenNames x1
  clear_value x1
  refine Only.ite ?_ ?_
  · exact Only.refl _ _
  · extract_lets +onlyGivenNames x2 x3
    clear_value x2 x3
    exact Only.mono (modPsw_only _ _) (by decide)

theorem execPub_only (a0 : BitVec 8) (a1 : BitVec 2) (s : State) :
    OnlyNext [.boot, .seq, .cck, .sdir, .evm, .recd, .sec, .pack] s (execPub a0 a1 s) := by
  unfold execPub
  refine issue_only _ _ _ _ _ (by decide) ?_
  exact Only.mono (pubEffect_only _ _ _) (by decide)

theorem packRecord_only (a0 : PackFrame) (a1 : PackRec) (s : State) :
    Only [.lbus, .evm, .recd, .pack] s (packRecord a0 a1 s) := by
  unfold packRecord
  refine Only.ite ?_ ?_
  · refine Only.after (raise_only _ _ _ _ _) (by decide) ?_
    exact Only.mono (modPsw_only _ _) (by decide)
  · refine Only.ite ?_ ?_
    · exact Only.refl _ _
    · extract_lets +onlyGivenNames x1
      clear_value x1
      refine Only.foldl _ _ _ (fun u2 y h3 => ?_) ?_
      · extract_lets +onlyGivenNames x4
        clear_value x4
        refine Only.ite ?_ ?_
        · split
          · refine Only.after (packCand_only _ _ _ _) (by decide) ?_
            exact h3
          · exact h3
        · exact h3
      · exact Only.refl _ _

theorem deliver_only (a0 : PackFrame) (s : State) :
    Only [.lbus, .evm, .recd, .pack] s (deliver a0 s) := by
  unfold deliver
  refine Only.ite ?_ ?_
  · refine Only.ite ?_ ?_
    · exact Only.mono (modPsw_only _ _) (by decide)
    · refine Only.ite ?_ ?_
      · exact Only.mono (modPsw_only _ _) (by decide)
      · extract_lets +onlyGivenNames x1
        have h2 : Only [Part.lbus, Part.evm, Part.recd, Part.pack] s x1 := by
          subst x1
          refine Only.ite ?_ ?_
          · exact Only.mono (modPack_only _ _) (by decide)
          · exact Only.refl _ _
        clear_value x1
        refine Only.foldl _ _ _ (fun u3 y h4 => ?_) ?_
        · refine Only.after (packRecord_only _ _ _) (by decide) ?_
          exact h4
        · exact h2
  · refine Only.ite ?_ ?_
    · exact Only.refl _ _
    · exact Only.mono (modPsw_only _ _) (by decide)

theorem ringFrame_only (a0 : Bool) (a1 : PackFrame) (a2 : RingForward) (a3 : Bool) (s : State) :
    Only [.lbus, .evm, .recd, .pack] s (ringFrame a0 a1 a2 a3 s) := by
  unfold ringFrame
  refine Only.ite ?_ ?_
  · exact Only.mono (modPsw_only _ _) (by decide)
  · refine Only.ite ?_ ?_
    · exact Only.refl _ _
    · refine Only.ite ?_ ?_
      · exact Only.refl _ _
      · extract_lets +onlyGivenNames x1 x2 x3 x4 x5 x6 x7
        clear_value x1 x2 x3 x4 x5 x6 x7
        extract_lets +onlyGivenNames x8
        have h9 : Only [Part.lbus, Part.evm, Part.recd, Part.pack] s x8 := by
          subst x8
          exact Only.mono (modPsw_only _ _) (by decide)
        clear_value x8
        extract_lets +onlyGivenNames x10
        subst x10
        beta_reduce
        extract_lets +onlyGivenNames x11
        have h12 : Only [Part.lbus, Part.evm, Part.recd, Part.pack] s x11 := by
          subst x11
          refine Only.after (modPsw_only _ _) (by decide) ?_
          exact h9
        clear_value x11
        extract_lets +onlyGivenNames x13
        have h14 : Only [Part.lbus, Part.evm, Part.recd, Part.pack] s x13 := by
          subst x13
          refine Only.after (modPsw_only _ _) (by decide) ?_
          refine Only.ite ?_ ?_
          · refine Only.after (raise_only _ _ _ _ _) (by decide) ?_
            exact h12
          · exact h9
        clear_value x13
        extract_lets +onlyGivenNames x15
        have h16 : Only [Part.lbus, Part.evm, Part.recd, Part.pack] s x15 := by
          subst x15
          refine Only.ite ?_ ?_
          · refine Only.after (raise_only _ _ _ _ _) (by decide) ?_
            exact h14
          · refine Only.ite ?_ ?_
            · refine Only.after (raise_only _ _ _ _ _) (by decide) ?_
              exact h12
            · exact h9
        clear_value x15
        refine Only.ite ?_ ?_
        · refine Only.after (modPsw_only _ _) (by decide) ?_
          exact h16
        · refine Only.ite ?_ ?_
          · exact h16
          · refine Only.after (deliver_only _ _) (by decide) ?_
            exact h16

theorem pswTxEffect_only (s : State) :
    Only [.pack] s (pswTxEffect s) := by
  unfold pswTxEffect
  refine Only.ite ?_ ?_
  · exact Only.refl _ _
  · extract_lets +onlyGivenNames x1
    clear_value x1
    exact Only.mono (modPsw_only _ _) (by decide)

theorem execPswTx_only (s : State) :
    OnlyNext [.boot, .seq, .cck, .sdir, .evm, .recd, .sec, .pack] s (execPswTx s) := by
  unfold execPswTx
  refine issue_only _ _ _ _ _ (by decide) ?_
  exact Only.mono (pswTxEffect_only _) (by decide)

theorem execRingFrameReceived_only (a0 : Bool) (a1 : PackFrame) (a2 : RingForward) (a3 : Bool) (s : State) :
    OnlyNext [.lbus, .evm, .recd, .pack] s (execRingFrameReceived a0 a1 a2 a3 s) := by
  unfold execRingFrameReceived
  refine OnlyNext.ite ?_ ?_
  · refine OnlyNext.next ?_
    exact Only.mono (ringFrame_only _ _ _ _ _) (by decide)
  · refine OnlyNext.next ?_
    exact Only.refl _ _

end Sys2Proof.Machine
end

