-- ==== Sys2Proof/Laws/FrameLeash.lean ====
section
/-! SUPPORT. Sys2Proof/Laws/FrameLeash.lean: which parts of the state each operation of Machine/Leash.lean changes. -/

set_option linter.unusedVariables false

namespace Sys2Proof.Machine

theorem modLink_only (a0 : ℕ) (a1 : LeashLink → LeashLink) (s : State) :
    Only [.pack] s (modLink a0 a1 s) := by
  unfold modLink
  exact Only.mono (modPack_only _ _) (by decide)

theorem judgeBark_only (a0 : ℕ) (a1 : Bark) (s : State) :
    Only [.boot, .evm, .recd, .pack] s (judgeBark a0 a1 s) := by
  unfold judgeBark
  extract_lets +onlyGivenNames x1
  extract_lets +onlyGivenNames x2
  clear_value x2
  extract_lets +onlyGivenNames x3
  have h4 : Only [Part.boot, Part.evm, Part.recd, Part.pack] s x3 := by
    subst x3
    refine Only.after (setReason_only _ _ _) (by decide) ?_
    exact Only.mono (modLink_only _ _ _) (by decide)
  clear_value x3
  extract_lets +onlyGivenNames x5
  have h6 : Only [Part.boot, Part.evm, Part.recd, Part.pack] s x5 := by
    subst x5
    refine Only.ite ?_ ?_
    · refine Only.ite ?_ ?_
      · refine Only.after (raise_only _ _ _ _ _) (by decide) ?_
        exact h4
      · exact h4
    · exact Only.refl _ _
  clear_value x5
  refine Only.ite ?_ ?_
  · extract_lets +onlyGivenNames x7
    clear_value x7
    extract_lets +onlyGivenNames x8
    have h9 : Only [Part.boot, Part.evm, Part.recd, Part.pack] s x8 := by
      subst x8
      refine Only.after (setReason_only _ _ _) (by decide) ?_
      refine Only.after (modLink_only _ _ _) (by decide) ?_
      exact h6
    clear_value x8
    refine Only.ite ?_ ?_
    · refine Only.after (raise_only _ _ _ _ _) (by decide) ?_
      exact h9
    · exact h9
  · exact h6

theorem barkReceived_only (a0 : ℕ) (a1 : Bark) (s : State) :
    Only [.boot, .lbus, .evm, .recd, .pack] s (barkReceived a0 a1 s) := by
  unfold barkReceived
  extract_lets +onlyGivenNames x1
  have h2 : Only [Part.boot, Part.lbus, Part.evm, Part.recd, Part.pack] s x1 := by
    subst x1
    exact Only.mono (modLink_only _ _ _) (by decide)
  clear_value x1
  refine Only.after (judgeBark_only _ _ _) (by decide) ?_
  refine Only.after (landFrom_only _ _ _ _ _) (by decide) ?_
  exact h2

theorem crcFailed_only (a0 : ℕ) (s : State) :
    Only [.pack] s (crcFailed a0 s) := by
  unfold crcFailed
  exact Only.mono (modLink_only _ _ _) (by decide)

theorem execLeashBarkReceived_only (a0 : Fin 3) (a1 : Bool) (a2 : Bark) (s : State) :
    OnlyNext [.boot, .lbus, .evm, .recd, .pack] s (execLeashBarkReceived a0 a1 a2 s) := by
  unfold execLeashBarkReceived
  refine OnlyNext.ite ?_ ?_
  · refine OnlyNext.next ?_
    exact Only.refl _ _
  · refine OnlyNext.ite ?_ ?_
    · refine OnlyNext.next ?_
      exact Only.mono (barkReceived_only _ _ _) (by decide)
    · refine OnlyNext.next ?_
      exact Only.mono (crcFailed_only _ _) (by decide)

theorem resetRefused_only (a0 : ℕ) (s : State) :
    Only [.evm, .recd] s (resetRefused a0 s) := by
  unfold resetRefused
  exact Only.mono (raise_only _ _ _ _ _) (by decide)

theorem eqReceived_only (a0 : EqItem) (s : State) :
    Only [.pack] s (eqReceived a0 s) := by
  unfold eqReceived
  refine Only.ite ?_ ?_
  · extract_lets +onlyGivenNames x1
    clear_value x1
    exact Only.mono (modPack_only _ _) (by decide)
  · exact Only.mono (modPack_only _ _) (by decide)

theorem execLeashEqReceived_only (a0 : Fin 3) (a1 : Bool) (a2 : EqItem) (s : State) :
    OnlyNext [.pack] s (execLeashEqReceived a0 a1 a2 s) := by
  unfold execLeashEqReceived
  refine OnlyNext.ite ?_ ?_
  · refine OnlyNext.next ?_
    exact Only.refl _ _
  · refine OnlyNext.ite ?_ ?_
    · refine OnlyNext.next ?_
      exact Only.mono (eqReceived_only _ _) (by decide)
    · refine OnlyNext.next ?_
      exact Only.mono (crcFailed_only _ _) (by decide)

theorem leashSend_only (a0 : ℕ) (a1 : BitVec 2) (a2 : List Byte) (a3 : Option ℕ) (s : State) :
    Only [.pack] s (leashSend a0 a1 a2 a3 s) := by
  unfold leashSend
  extract_lets +onlyGivenNames x1
  clear_value x1
  exact Only.mono (modLink_only _ _ _) (by decide)

theorem barkTxEffect_only (s : State) :
    Only [.pack] s (barkTxEffect s) := by
  unfold barkTxEffect
  extract_lets +onlyGivenNames x1 x2
  clear_value x1 x2
  extract_lets +onlyGivenNames x3
  have h4 : Only [Part.pack] s x3 := by
    subst x3
    refine Only.foldl _ _ _ (fun u5 y h6 => ?_) ?_
    · refine Only.after (modLink_only _ _ _) (by decide) ?_
      refine Only.after (leashSend_only _ _ _ _ _) (by decide) ?_
      exact h6
    · exact Only.refl _ _
  clear_value x3
  refine Only.after (modPack_only _ _) (by decide) ?_
  exact h4

theorem partnerResetHandler_only (a0 : ℕ) (a1 : ℕ) (s : State) :
    Only [.evm, .recd, .mbx, .pack] s (partnerResetHandler a0 a1 s) := by
  unfold partnerResetHandler
  refine Only.ite ?_ ?_
  · exact Only.mono (completeMbx_only _ _ _) (by decide)
  · extract_lets +onlyGivenNames x1
    clear_value x1
    extract_lets +onlyGivenNames x2
    have h3 : Only [Part.evm, Part.recd, Part.mbx, Part.pack] s x2 := by
      subst x2
      refine Only.after (modLink_only _ _ _) (by decide) ?_
      exact Only.mono (leashSend_only _ _ _ _ _) (by decide)
    clear_value x2
    refine Only.after (decideMbx_only _ _ _) (by decide) ?_
    refine Only.after (raise_only _ _ _ _ _) (by decide) ?_
    exact h3

theorem execPartnerReset_only (a0 : BitVec 4) (a1 : BitVec 8) (s : State) :
    OnlyNext [.evm, .recd, .mbx, .pack] s (execPartnerReset a0 a1 s) := by
  unfold execPartnerReset
  refine OnlyNext.next ?_
  exact Only.mono (partnerResetHandler_only _ _ _) (by decide)

theorem execLeashDown_only (a0 : Fin 3) (a1 : Bool) (a2 : BitVec 16) (s : State) :
    OnlyNext [.evm, .recd, .pack] s (execLeashDown a0 a1 a2 s) := by
  unfold execLeashDown
  extract_lets +onlyGivenNames x1
  clear_value x1
  extract_lets +onlyGivenNames x2
  have h3 : Only [Part.evm, Part.recd, Part.pack] s x2 := by
    subst x2
    exact Only.mono (modLink_only _ _ _) (by decide)
  clear_value x2
  refine OnlyNext.next ?_
  refine Only.ite ?_ ?_
  · refine Only.after (raise_only _ _ _ _ _) (by decide) ?_
    exact h3
  · exact h3

theorem setIlk_only (a0 : BitVec 2) (s : State) :
    Only [.evm, .recd, .loops, .pack, .ports] s (setIlk a0 s) := by
  unfold setIlk
  extract_lets +onlyGivenNames x1
  clear_value x1
  extract_lets +onlyGivenNames x2
  have h3 : Only [Part.evm, Part.recd, Part.loops, Part.pack, Part.ports] s x2 := by
    subst x2
    exact Only.mono (modPack_only _ _) (by decide)
  clear_value x2
  extract_lets +onlyGivenNames x4
  have h5 : Only [Part.evm, Part.recd, Part.loops, Part.pack, Part.ports] s x4 := by
    subst x4
    refine Only.ite ?_ ?_
    · refine Only.after (raise_only _ _ _ _ _) (by decide) ?_
      exact h3
    · exact h3
  clear_value x4
  refine Only.after (outRefresh_only _) (by decide) ?_
  exact h5

theorem execIlkInEdge_only (s : State) :
    OnlyNext [.pins, .evm, .recd, .loops, .pack, .ports] s (execIlkInEdge s) := by
  unfold execIlkInEdge
  refine OnlyNext.next ?_
  refine Only.after (setIlk_only _ _) (by decide) ?_
  refine Only.after (modPack_only _ _) (by decide) ?_
  refine only_upd_pins _ (by decide) ?_
  exact Only.refl _ _

theorem cmdReceived_only (a0 : ℕ) (a1 : LeashCmd) (s : State) :
    Only (Part.but [.pending, .pins, .cclk, .flash, .sram, .sdir, .cal]) s (cmdReceived a0 a1 s) := by
  unfold cmdReceived
  refine Only.ite ?_ ?_
  · exact Only.refl _ _
  · split
    · exact Only.mono (resetRefused_only _ _) (by decide)
    · exact Only.mono (resetRefused_only _ _) (by decide)
    · extract_lets +onlyGivenNames x1
      have h2 : Only (Part.but [Part.pending, Part.pins, Part.cclk, Part.flash, Part.sram, Part.sdir, Part.cal]) s x1 := by
        subst x1
        exact Only.mono (modLink_only _ _ _) (by decide)
      clear_value x1
      refine Only.ite ?_ ?_
      · refine Only.after (enterReset_only _ _ _ _) (by decide) ?_
        exact h2
      · exact h2
    · exact Only.mono (enterReset_only _ _ _ _) (by decide)

theorem execLeashCmdReceived_only (a0 : Fin 3) (a1 : Bool) (a2 : LeashCmd) (s : State) :
    OnlyNext (Part.but [.pending, .pins, .cclk, .flash, .sram, .sdir, .cal]) s (execLeashCmdReceived a0 a1 a2 s) := by
  unfold execLeashCmdReceived
  refine OnlyNext.ite ?_ ?_
  · refine OnlyNext.next ?_
    exact Only.refl _ _
  · refine OnlyNext.ite ?_ ?_
    · refine OnlyNext.next ?_
      exact Only.mono (cmdReceived_only _ _ _) (by decide)
    · refine OnlyNext.next ?_
      exact Only.mono (crcFailed_only _ _) (by decide)

theorem execEqLost_only (s : State) :
    OnlyNext [.evm, .recd, .pack] s (execEqLost s) := by
  unfold execEqLost
  refine OnlyNext.next ?_
  exact Only.mono (eqLose_only _) (by decide)

theorem execBarkTx_only (s : State) :
    OnlyNext [.boot, .seq, .cck, .sdir, .evm, .recd, .sec, .pack] s (execBarkTx s) := by
  unfold execBarkTx
  refine issue_only _ _ _ _ _ (by decide) ?_
  exact Only.mono (barkTxEffect_only _) (by decide)

theorem eqSnapEffect_only (a0 : ℕ) (a1 : ℕ) (s : State) :
    Only [.pack] s (eqSnapEffect a0 a1 s) := by
  unfold eqSnapEffect
  split
  · exact Only.refl _ _
  · extract_lets +onlyGivenNames x1
    clear_value x1
    refine Only.foldl _ _ _ (fun u2 y h3 => ?_) ?_
    · split
      · refine Only.ite ?_ ?_
        · refine Only.after (modLink_only _ _ _) (by decide) ?_
          refine Only.after (leashSend_only _ _ _ _ _) (by decide) ?_
          exact h3
        · exact h3
      · exact h3
    · exact Only.refl _ _

theorem execEqSnap_only (a0 : BitVec 4) (a1 : BitVec 8) (s : State) :
    OnlyNext [.boot, .seq, .cck, .sdir, .evm, .recd, .sec, .pack] s (execEqSnap a0 a1 s) := by
  unfold execEqSnap
  refine issue_only _ _ _ _ _ (by decide) ?_
  exact Only.mono (eqSnapEffect_only _ _ _) (by decide)

theorem execIlkClaimLapse_only (s : State) :
    OnlyNext [.evm, .recd, .loops, .pack, .ports] s (execIlkClaimLapse s) := by
  unfold execIlkClaimLapse
  refine OnlyNext.next ?_
  refine Only.ite ?_ ?_
  · exact Only.mono (setIlk_only _ _) (by decide)
  · exact Only.refl _ _

theorem execLeashUp_only (a0 : Fin 3) (s : State) :
    OnlyNext [.evm, .recd, .pack] s (execLeashUp a0 s) := by
  unfold execLeashUp
  refine OnlyNext.ite ?_ ?_
  · refine OnlyNext.next ?_
    exact Only.refl _ _
  · refine OnlyNext.next ?_
    refine Only.after (raise_only _ _ _ _ _) (by decide) ?_
    exact Only.mono (modLink_only _ _ _) (by decide)

end Sys2Proof.Machine
end

