-- ==== Sys2Proof/Laws/FrameRole.lean ====
section
/-! SUPPORT. Sys2Proof/Laws/FrameRole.lean: which parts of the state each operation of Machine/Role.lean changes. -/

set_option linter.unusedVariables false

namespace Sys2Proof.Machine

theorem startFall_only (a0 : ℕ) (s : State) :
    Only [.evm, .recd, .pack] s (startFall a0 s) := by
  unfold startFall
  extract_lets +onlyGivenNames x1
  clear_value x1
  refine Only.after (raise_only _ _ _ _ _) (by decide) ?_
  exact Only.mono (modPack_only _ _) (by decide)

theorem swapAbort_only (a0 : ℕ) (s : State) :
    Only [.evm, .recd, .mbx, .pack] s (swapAbort a0 s) := by
  unfold swapAbort
  extract_lets +onlyGivenNames x1
  clear_value x1
  refine Only.ite ?_ ?_
  · exact Only.refl _ _
  · extract_lets +onlyGivenNames x2
    clear_value x2
    extract_lets +onlyGivenNames x3
    have h4 : Only [Part.evm, Part.recd, Part.mbx, Part.pack] s x3 := by
      subst x3
      exact Only.mono (modPack_only _ _) (by decide)
    clear_value x3
    refine Only.ite ?_ ?_
    · exact h4
    · extract_lets +onlyGivenNames x5
      have h6 : Only [Part.evm, Part.recd, Part.mbx, Part.pack] s x5 := by
        subst x5
        refine Only.after (raise_only _ _ _ _ _) (by decide) ?_
        exact h4
      clear_value x5
      split
      · refine Only.after (completeMbx_only _ _ _) (by decide) ?_
        exact h6
      · exact h6

theorem fallStep_only (a0 : State) (a1 : NewBarks) (s : State) :
    Only [.evm, .recd, .mbx, .pack] s (fallStep a0 a1 s).1 := by
  unfold fallStep
  refine Only.fst_ite ?_ ?_
  · refine Only.fst_mk ?_
    exact Only.refl _ _
  · extract_lets +onlyGivenNames x1 x2 x3 x4
    clear_value x1 x2 x3 x4
    extract_lets +onlyGivenNames x5
    have h6 : Only [Part.evm, Part.recd, Part.mbx, Part.pack] s x5 := by
      subst x5
      refine Only.ite ?_ ?_
      · exact Only.refl _ _
      · exact Only.mono (startFall_only _ _) (by decide)
    clear_value x5
    extract_lets +onlyGivenNames x7
    have h8 : Only [Part.evm, Part.recd, Part.mbx, Part.pack] s x7 := by
      subst x7
      split
      · exact h6
      · extract_lets +onlyGivenNames x9 x10
        clear_value x9 x10
        refine Only.after (modPack_only _ _) (by decide) ?_
        exact h6
    clear_value x7
    extract_lets +onlyGivenNames x11
    clear_value x11
    refine Only.fst_mk ?_
    refine Only.ite ?_ ?_
    · refine Only.after (swapAbort_only _ _) (by decide) ?_
      exact h8
    · exact h8

theorem packDuplexHandler_only (a0 : ℕ) (a1 : ℕ) (s : State) :
    Only [.evm, .recd, .mbx, .pack] s (packDuplexHandler a0 a1 s) := by
  unfold packDuplexHandler
  refine Only.ite ?_ ?_
  · exact Only.mono (completeMbx_only _ _ _) (by decide)
  · refine Only.ite ?_ ?_
    · exact Only.mono (completeMbx_only _ _ _) (by decide)
    · refine Only.ite ?_ ?_
      · exact Only.mono (modPack_only _ _) (by decide)
      · exact Only.mono (completeMbx_only _ _ _) (by decide)

theorem execPackDuplex_only (a0 : BitVec 4) (a1 : BitVec 8) (s : State) :
    OnlyNext [.evm, .recd, .mbx, .pack] s (execPackDuplex a0 a1 s) := by
  unfold execPackDuplex
  refine OnlyNext.next ?_
  exact Only.mono (packDuplexHandler_only _ _ _) (by decide)

theorem ilkStep_only (a0 : NewBarks) (s : State) :
    Only [.evm, .recd, .pack] s (ilkStep a0 s) := by
  unfold ilkStep
  refine Only.ite ?_ ?_
  · extract_lets +onlyGivenNames x1
    extract_lets +onlyGivenNames x2
    extract_lets +onlyGivenNames x3
    extract_lets +onlyGivenNames x4
    extract_lets +onlyGivenNames x5 x6
    clear_value x5 x6
    extract_lets +onlyGivenNames x7
    have h8 : Only [Part.evm, Part.recd, Part.pack] s x7 := by
      subst x7
      exact Only.mono (modPack_only _ _) (by decide)
    clear_value x7
    refine Only.ite ?_ ?_
    · refine Only.after (raise_only _ _ _ _ _) (by decide) ?_
      exact h8
    · exact h8
  · exact Only.refl _ _

theorem dropClaim_only (s : State) :
    Only [.pack] s (dropClaim s) := by
  unfold dropClaim
  exact Only.mono (modPack_only _ _) (by decide)

theorem enterStandby_only (s : State) :
    Only [.boot, .evm, .recd, .sec, .pack] s (enterStandby s) := by
  unfold enterStandby
  extract_lets +onlyGivenNames x1
  have h2 : Only [Part.boot, Part.evm, Part.recd, Part.sec, Part.pack] s x1 := by
    subst x1
    refine Only.ite ?_ ?_
    · exact Only.mono (eqClear_only _) (by decide)
    · exact Only.refl _ _
  clear_value x1
  extract_lets +onlyGivenNames x3
  have h4 : Only [Part.boot, Part.evm, Part.recd, Part.sec, Part.pack] s x3 := by
    subst x3
    refine Only.after (setDev_only _ _) (by decide) ?_
    refine Only.after (dropClaim_only _) (by decide) ?_
    exact h2
  clear_value x3
  refine Only.after (modPack_only _ _) (by decide) ?_
  exact h4

theorem dupEnd_only (a0 : Bool) (s : State) :
    Only [.evm, .recd, .mbx, .pack] s (dupEnd a0 s) := by
  unfold dupEnd
  split
  · exact Only.refl _ _
  · extract_lets +onlyGivenNames x1
    have h2 : Only [Part.evm, Part.recd, Part.mbx, Part.pack] s x1 := by
      subst x1
      refine Only.after (raise_only _ _ _ _ _) (by decide) ?_
      exact Only.mono (modPack_only _ _) (by decide)
    clear_value x1
    split
    · refine Only.after (completeMbx_only _ _ _) (by decide) ?_
      exact h2
    · exact h2

theorem releaseCollar_only (a0 : ℕ) (s : State) :
    Only [.evm, .recd, .pack] s (releaseCollar a0 s) := by
  unfold releaseCollar
  refine Only.ite ?_ ?_
  · extract_lets +onlyGivenNames x1
    have h2 : Only [Part.evm, Part.recd, Part.pack] s x1 := by
      subst x1
      exact Only.mono (modPack_only _ _) (by decide)
    clear_value x1
    refine Only.after (raise_only _ _ _ _ _) (by decide) ?_
    exact h2
  · exact Only.refl _ _

theorem enterSafeHold_only (s : State) :
    Only [.boot, .evm, .recd, .mbx, .sec, .pack] s (enterSafeHold s) := by
  unfold enterSafeHold
  extract_lets +onlyGivenNames x1
  clear_value x1
  extract_lets +onlyGivenNames x2
  have h3 : Only [Part.boot, Part.evm, Part.recd, Part.mbx, Part.sec, Part.pack] s x2 := by
    subst x2
    refine Only.after (dupEnd_only _ _) (by decide) ?_
    refine Only.after (swapAbort_only _ _) (by decide) ?_
    refine Only.after (dropClaim_only _) (by decide) ?_
    exact Only.mono (releaseCollar_only _ _) (by decide)
  clear_value x2
  extract_lets +onlyGivenNames x4
  have h5 : Only [Part.boot, Part.evm, Part.recd, Part.mbx, Part.sec, Part.pack] s x4 := by
    subst x4
    refine Only.ite ?_ ?_
    · refine Only.after (eqClear_only _) (by decide) ?_
      exact h3
    · exact h3
  clear_value x4
  extract_lets +onlyGivenNames x6
  have h7 : Only [Part.boot, Part.evm, Part.recd, Part.mbx, Part.sec, Part.pack] s x6 := by
    subst x6
    refine Only.after (setDev_only _ _) (by decide) ?_
    refine Only.after (modPack_only _ _) (by decide) ?_
    exact h5
  clear_value x6
  refine Only.after (raise_only _ _ _ _ _) (by decide) ?_
  exact h7

theorem enterVoting_only (s : State) :
    Only [.boot, .evm, .recd, .mbx, .sec, .pack] s (enterVoting s) := by
  unfold enterVoting
  extract_lets +onlyGivenNames x1
  have h2 : Only [Part.boot, Part.evm, Part.recd, Part.mbx, Part.sec, Part.pack] s x1 := by
    subst x1
    refine Only.after (dropClaim_only _) (by decide) ?_
    exact Only.mono (releaseCollar_only _ _) (by decide)
  clear_value x1
  extract_lets +onlyGivenNames x3
  have h4 : Only [Part.boot, Part.evm, Part.recd, Part.mbx, Part.sec, Part.pack] s x3 := by
    subst x3
    split
    · refine Only.ite ?_ ?_
      · refine Only.after (dupEnd_only _ _) (by decide) ?_
        exact h2
      · exact h2
    · exact h2
  clear_value x3
  refine Only.after (setDev_only _ _) (by decide) ?_
  refine Only.after (modPack_only _ _) (by decide) ?_
  exact h4

theorem enterActive_only (s : State) :
    Only [.boot, .evm, .recd, .mbx, .sec, .pack] s (enterActive s) := by
  unfold enterActive
  extract_lets +onlyGivenNames x1
  have h2 : Only [Part.boot, Part.evm, Part.recd, Part.mbx, Part.sec, Part.pack] s x1 := by
    subst x1
    refine Only.after (setDev_only _ _) (by decide) ?_
    exact Only.mono (modPack_only _ _) (by decide)
  clear_value x1
  split
  · refine Only.ite ?_ ?_
    · refine Only.after (dupEnd_only _ _) (by decide) ?_
      exact h2
    · exact h2
  · exact h2

theorem roleBoundary_only (s : State) :
    Only [.boot, .evm, .recd, .mbx, .sec, .loops, .pack, .ports] s (roleBoundary s) := by
  unfold roleBoundary
  extract_lets +onlyGivenNames x1
  clear_value x1
  extract_lets +onlyGivenNames x2
  extract_lets +onlyGivenNames x3
  extract_lets +onlyGivenNames x4
  have h5 : Only [Part.boot, Part.evm, Part.recd, Part.mbx, Part.sec, Part.loops, Part.pack, Part.ports] s x4 := by
    subst x4
    exact Only.mono (enterStandby_only _) (by decide)
  clear_value x4
  extract_lets +onlyGivenNames x6
  have h7 : Only [Part.boot, Part.evm, Part.recd, Part.mbx, Part.sec, Part.loops, Part.pack, Part.ports] s x6 := by
    subst x6
    refine Only.after (enterStandby_only _) (by decide) ?_
    exact Only.mono (releaseCollar_only _ _) (by decide)
  clear_value x6
  extract_lets +onlyGivenNames x8
  have h9 : Only [Part.boot, Part.evm, Part.recd, Part.mbx, Part.sec, Part.loops, Part.pack, Part.ports] s x8 := by
    subst x8
    refine Only.ite ?_ ?_
    · exact Only.mono (enterVoting_only _) (by decide)
    · refine Only.ite ?_ ?_
      · refine Only.after (raise_only _ _ _ _ _) (by decide) ?_
        exact Only.mono (enterVoting_only _) (by decide)
      · refine Only.ite ?_ ?_
        · refine Only.ite ?_ ?_
          · refine Only.after (modPack_only _ _) (by decide) ?_
            exact h5
          · exact h5
        · refine Only.ite ?_ ?_
          · refine Only.after (modPack_only _ _) (by decide) ?_
            exact h7
          · refine Only.ite ?_ ?_
            · refine Only.after (enterStandby_only _) (by decide) ?_
              exact Only.mono (releaseCollar_only _ _) (by decide)
            · split
              · refine Only.ite ?_ ?_
                · exact Only.mono (enterActive_only _) (by decide)
                · exact Only.refl _ _
              · exact Only.refl _ _
  clear_value x8
  refine Only.after (outRefresh_only _) (by decide) ?_
  refine Only.after (modPack_only _ _) (by decide) ?_
  exact h9

theorem barkReasons_only (s : State) :
    Only [.boot, .pack] s (barkReasons s) := by
  unfold barkReasons
  extract_lets +onlyGivenNames x1
  clear_value x1
  extract_lets +onlyGivenNames x2
  have h3 : Only [Part.boot, Part.pack] s x2 := by
    subst x2
    refine Only.foldl _ _ _ (fun u4 y h5 => ?_) ?_
    · refine Only.after (modLink_only _ _ _) (by decide) ?_
      exact h5
    · exact Only.refl _ _
  clear_value x2
  extract_lets +onlyGivenNames x6
  clear_value x6
  extract_lets +onlyGivenNames x7
  have h8 : Only [Part.boot, Part.pack] s x7 := by
    subst x7
    refine Only.ite ?_ ?_
    · exact h3
    · refine Only.after (clearReason_only _ _) (by decide) ?_
      exact h3
  clear_value x7
  refine Only.ite ?_ ?_
  · exact h8
  · refine Only.after (clearReason_only _ _) (by decide) ?_
    exact h8

theorem dupFailed_only (s : State) :
    Only [.evm, .recd, .mbx, .pack] s (dupFailed s) := by
  unfold dupFailed
  refine Only.ite ?_ ?_
  · refine Only.after (startFall_only _ _) (by decide) ?_
    exact Only.mono (dupEnd_only _ _) (by decide)
  · exact Only.refl _ _

theorem claimEnd_only (s : State) :
    Only [.evm, .recd, .mbx, .loops, .pack, .ports] s (claimEnd s) := by
  unfold claimEnd
  refine Only.ite ?_ ?_
  · exact Only.refl _ _
  · refine Only.ite ?_ ?_
    · extract_lets +onlyGivenNames x1
      have h2 : Only [Part.evm, Part.recd, Part.mbx, Part.loops, Part.pack, Part.ports] s x1 := by
        subst x1
        exact Only.mono (modPack_only _ _) (by decide)
      clear_value x1
      refine Only.after (outRefresh_only _) (by decide) ?_
      refine Only.after (raise_only _ _ _ _ _) (by decide) ?_
      exact h2
    · extract_lets +onlyGivenNames x3
      clear_value x3
      extract_lets +onlyGivenNames x4
      have h5 : Only [Part.evm, Part.recd, Part.mbx, Part.loops, Part.pack, Part.ports] s x4 := by
        subst x4
        refine Only.after (dupFailed_only _) (by decide) ?_
        exact Only.mono (modPack_only _ _) (by decide)
      clear_value x4
      refine Only.after (outRefresh_only _) (by decide) ?_
      refine Only.ite ?_ ?_
      · refine Only.after (modPack_only _ _) (by decide) ?_
        exact h5
      · exact h5

theorem execCollarClaimWindowEnd_only (s : State) :
    OnlyNext [.evm, .recd, .mbx, .loops, .pack, .ports] s (execCollarClaimWindowEnd s) := by
  unfold execCollarClaimWindowEnd
  refine OnlyNext.next ?_
  refine Only.ite ?_ ?_
  · exact Only.mono (claimEnd_only _) (by decide)
  · exact Only.refl _ _

theorem swapDeferred_only (a0 : ℕ) (s : State) :
    Only [.evm, .recd] s (swapDeferred a0 s) := by
  unfold swapDeferred
  exact Only.mono (raise_only _ _ _ _ _) (by decide)

theorem readLink_only (a0 : ℕ) (s : State) :
    Only [.pack] s (readLink a0 s) := by
  unfold readLink
  exact Only.mono (modLink_only _ _ _) (by decide)

theorem countNoHold_only (a0 : NewBarks) (s : State) :
    Only [.pack] s (countNoHold a0 s) := by
  unfold countNoHold
  extract_lets +onlyGivenNames x1
  clear_value x1
  exact Only.mono (modPack_only _ _) (by decide)

theorem countLease_only (a0 : NewBarks) (s : State) :
    Only [.pack] s (countLease a0 s) := by
  unfold countLease
  extract_lets +onlyGivenNames x1 x2 x3
  clear_value x1 x2 x3
  extract_lets +onlyGivenNames x4
  have h5 : Only [Part.pack] s x4 := by
    subst x4
    refine Only.ite ?_ ?_
    · exact Only.mono (modPack_only _ _) (by decide)
    · exact Only.refl _ _
  clear_value x4
  refine Only.ite ?_ ?_
  · exact h5
  · refine Only.ite ?_ ?_
    · refine Only.after (modPack_only _ _) (by decide) ?_
      exact h5
    · refine Only.ite ?_ ?_
      · refine Only.after (modPack_only _ _) (by decide) ?_
        exact h5
      · refine Only.ite ?_ ?_
        · exact h5
        · refine Only.after (modPack_only _ _) (by decide) ?_
          exact h5

theorem dupStep_only (a0 : NewBarks) (s : State) :
    Only [.evm, .recd, .mbx, .pack] s (dupStep a0 s).1 := by
  unfold dupStep
  extract_lets +onlyGivenNames x1 x2
  clear_value x1 x2
  extract_lets +onlyGivenNames x3
  have h4 : Only [Part.evm, Part.recd, Part.mbx, Part.pack] s x3 := by
    subst x3
    split
    · exact Only.mono (modPack_only _ _) (by decide)
    · exact Only.refl _ _
  clear_value x3
  split
  · refine Only.fst_mk ?_
    exact h4
  · extract_lets +onlyGivenNames x5
    clear_value x5
    extract_lets +onlyGivenNames x6
    have h7 : Only [Part.evm, Part.recd, Part.mbx, Part.pack] s x6 := by
      subst x6
      split
      · refine Only.ite ?_ ?_
        · refine Only.after (dupEnd_only _ _) (by decide) ?_
          exact h4
        · refine Only.ite ?_ ?_
          · refine Only.after (dupEnd_only _ _) (by decide) ?_
            exact h4
          · exact h4
      · exact h4
    clear_value x6
    extract_lets +onlyGivenNames x8
    have h9 : Only [Part.evm, Part.recd, Part.mbx, Part.pack] s x8 := by
      subst x8
      refine Only.ite ?_ ?_
      · refine Only.after (modPack_only _ _) (by decide) ?_
        exact h7
      · exact h7
    clear_value x8
    refine Only.fst_mk ?_
    exact h9

theorem conflictStep_only (a0 : NewBarks) (s : State) :
    Only [.evm, .recd, .mbx, .pack] s (conflictStep a0 s).1 := by
  unfold conflictStep
  refine Only.fst_ite ?_ ?_
  · extract_lets +onlyGivenNames x1
    clear_value x1
    extract_lets +onlyGivenNames x2
    have h3 : Only [Part.evm, Part.recd, Part.mbx, Part.pack] s x2 := by
      subst x2
      exact Only.mono (raise_only _ _ _ _ _) (by decide)
    clear_value x2
    refine Only.fst_mk ?_
    refine Only.after (swapAbort_only _ _) (by decide) ?_
    refine Only.ite ?_ ?_
    · refine Only.after (modPack_only _ _) (by decide) ?_
      exact h3
    · exact h3
  · refine Only.fst_mk ?_
    exact Only.refl _ _

theorem claimStart_only (s : State) :
    Only [.loops, .pack, .ports] s (claimStart s) := by
  unfold claimStart
  refine Only.after (outRefresh_only _) (by decide) ?_
  exact Only.mono (modPack_only _ _) (by decide)

theorem takeStep_only (s : State) :
    Only [.evm, .recd, .mbx, .loops, .pack, .ports] s (takeStep s) := by
  unfold takeStep
  extract_lets +onlyGivenNames x1
  clear_value x1
  refine Only.ite ?_ ?_
  · refine Only.ite ?_ ?_
    · extract_lets +onlyGivenNames x2
      have h3 : Only [Part.evm, Part.recd, Part.mbx, Part.loops, Part.pack, Part.ports] s x2 := by
        subst x2
        exact Only.mono (modPack_only _ _) (by decide)
      clear_value x2
      refine Only.after (raise_only _ _ _ _ _) (by decide) ?_
      exact h3
    · exact Only.refl _ _
  · refine Only.ite ?_ ?_
    · exact Only.refl _ _
    · refine Only.ite ?_ ?_
      · refine Only.ite ?_ ?_
        · exact Only.mono (modPack_only _ _) (by decide)
        · exact Only.refl _ _
      · refine Only.ite ?_ ?_
        · exact Only.refl _ _
        · refine Only.ite ?_ ?_
          · extract_lets +onlyGivenNames x4 x5
            clear_value x4 x5
            extract_lets +onlyGivenNames x6
            have h7 : Only [Part.evm, Part.recd, Part.mbx, Part.loops, Part.pack, Part.ports] s x6 := by
              subst x6
              exact Only.mono (modPack_only _ _) (by decide)
            clear_value x6
            extract_lets +onlyGivenNames x8
            have h9 : Only [Part.evm, Part.recd, Part.mbx, Part.loops, Part.pack, Part.ports] s x8 := by
              subst x8
              refine Only.ite ?_ ?_
              · refine Only.after (raise_only _ _ _ _ _) (by decide) ?_
                exact h7
              · exact h7
            clear_value x8
            refine Only.after (dupFailed_only _) (by decide) ?_
            exact h9
          · exact Only.mono (claimStart_only _) (by decide)

theorem swapAfter_only (a0 : NewBarks) (s : State) :
    Only [.evm, .recd, .mbx, .pack] s (swapAfter a0 s) := by
  unfold swapAfter
  extract_lets +onlyGivenNames x1
  clear_value x1
  refine Only.ite ?_ ?_
  · exact Only.refl _ _
  · refine Only.ite ?_ ?_
    · extract_lets +onlyGivenNames x2
      have h3 : Only [Part.evm, Part.recd, Part.mbx, Part.pack] s x2 := by
        subst x2
        exact Only.mono (modPack_only _ _) (by decide)
      clear_value x2
      extract_lets +onlyGivenNames x4
      have h5 : Only [Part.evm, Part.recd, Part.mbx, Part.pack] s x4 := by
        subst x4
        refine Only.after (raise_only _ _ _ _ _) (by decide) ?_
        exact h3
      clear_value x4
      split
      · refine Only.after (completeMbx_only _ _ _) (by decide) ?_
        exact h5
      · exact h5
    · refine Only.after (modPack_only _ _) (by decide) ?_
      exact Only.mono (swapAbort_only _ _) (by decide)

theorem swapOffer_only (a0 : Option ℕ) (s : State) :
    Only [.evm, .recd, .pack] s (swapOffer a0 s) := by
  unfold swapOffer
  extract_lets +onlyGivenNames x1
  clear_value x1
  extract_lets +onlyGivenNames x2
  have h3 : Only [Part.evm, Part.recd, Part.pack] s x2 := by
    subst x2
    exact Only.mono (modPack_only _ _) (by decide)
  clear_value x2
  refine Only.after (raise_only _ _ _ _ _) (by decide) ?_
  exact h3

theorem swapDefer_only (a0 : ℕ) (s : State) :
    Only [.evm, .recd, .pack] s (swapDefer a0 s) := by
  unfold swapDefer
  extract_lets +onlyGivenNames x1
  clear_value x1
  extract_lets +onlyGivenNames x2
  have h3 : Only [Part.evm, Part.recd, Part.pack] s x2 := by
    subst x2
    exact Only.mono (modPack_only _ _) (by decide)
  clear_value x2
  refine Only.ite ?_ ?_
  · refine Only.after (swapDeferred_only _ _) (by decide) ?_
    exact h3
  · exact h3

theorem swapHolder_only (a0 : NewBarks) (s : State) :
    Only [.evm, .recd, .mbx, .pack] s (swapHolder a0 s) := by
  unfold swapHolder
  extract_lets +onlyGivenNames x1 x2
  clear_value x1 x2
  refine Only.ite ?_ ?_
  · split
    · refine Only.ite ?_ ?_
      · exact Only.mono (modPack_only _ _) (by decide)
      · refine Only.ite ?_ ?_
        · exact Only.mono (swapAbort_only _ _) (by decide)
        · exact Only.mono (swapAbort_only _ _) (by decide)
    · exact Only.mono (swapAbort_only _ _) (by decide)
  · refine Only.ite ?_ ?_
    · exact Only.refl _ _
    · extract_lets +onlyGivenNames x3
      clear_value x3
      split
      · extract_lets +onlyGivenNames x4
        have h5 : Only [Part.evm, Part.recd, Part.mbx, Part.pack] s x4 := by
          subst x4
          exact Only.mono (modPack_only _ _) (by decide)
        clear_value x4
        extract_lets +onlyGivenNames x6
        clear_value x6
        refine Only.ite ?_ ?_
        · refine Only.after (swapOffer_only _ _) (by decide) ?_
          exact h5
        · refine Only.after (completeMbx_only _ _ _) (by decide) ?_
          refine Only.after (swapDeferred_only _ _) (by decide) ?_
          exact h5
      · extract_lets +onlyGivenNames x7
        clear_value x7
        refine Only.ite ?_ ?_
        · extract_lets +onlyGivenNames x8
          have h9 : Only [Part.evm, Part.recd, Part.mbx, Part.pack] s x8 := by
            subst x8
            exact Only.mono (modPack_only _ _) (by decide)
          clear_value x8
          refine Only.ite ?_ ?_
          · extract_lets +onlyGivenNames x10
            clear_value x10
            refine Only.ite ?_ ?_
            · refine Only.after (swapOffer_only _ _) (by decide) ?_
              exact h9
            · refine Only.after (swapDefer_only _ _) (by decide) ?_
              exact h9
          · exact h9
        · exact Only.refl _ _

theorem swapPartner_only (a0 : NewBarks) (s : State) :
    Only [.pack] s (swapPartner a0 s) := by
  unfold swapPartner
  extract_lets +onlyGivenNames x1 x2 x3
  clear_value x1 x2 x3
  extract_lets +onlyGivenNames x4
  split
  · refine Only.ite ?_ ?_
    · extract_lets +onlyGivenNames x5
      clear_value x5
      exact Only.mono (modPack_only _ _) (by decide)
    · refine Only.ite ?_ ?_
      · exact Only.mono (modPack_only _ _) (by decide)
      · refine Only.ite ?_ ?_
        · exact Only.mono (modPack_only _ _) (by decide)
        · exact Only.refl _ _
  · refine Only.ite ?_ ?_
    · exact Only.mono (modPack_only _ _) (by decide)
    · exact Only.refl _ _

theorem swapRefuse_only (s : State) :
    Only [.evm, .recd, .mbx, .pack] s (swapRefuse s) := by
  unfold swapRefuse
  split
  · refine Only.ite ?_ ?_
    · refine Only.after (completeMbx_only _ _ _) (by decide) ?_
      exact Only.mono (modPack_only _ _) (by decide)
    · exact Only.refl _ _
  · exact Only.refl _ _

theorem swapStep_only (a0 : NewBarks) (s : State) :
    Only [.evm, .recd, .mbx, .pack] s (swapStep a0 s) := by
  unfold swapStep
  refine Only.ite ?_ ?_
  · exact Only.mono (swapAfter_only _ _) (by decide)
  · refine Only.ite ?_ ?_
    · exact Only.mono (swapHolder_only _ _) (by decide)
    · refine Only.after (swapPartner_only _ _) (by decide) ?_
      exact Only.mono (swapRefuse_only _) (by decide)

theorem refuseHeld_only (s : State) :
    Only [.evm, .recd, .pack] s (refuseHeld s) := by
  unfold refuseHeld
  refine Only.foldl _ _ _ (fun u1 y h2 => ?_) ?_
  · split
    · refine Only.after (resetRefused_only _ _) (by decide) ?_
      refine Only.after (modLink_only _ _ _) (by decide) ?_
      exact h2
    · exact h2
  · exact Only.refl _ _

theorem roleStepEffect_only (s : State) :
    Only [.evm, .recd, .mbx, .loops, .pack, .ports] s (roleStepEffect s) := by
  unfold roleStepEffect
  extract_lets +onlyGivenNames x1
  have h2 : Only [Part.evm, Part.recd, Part.mbx, Part.loops, Part.pack, Part.ports] s x1 := by
    subst x1
    exact Only.refl _ _
  clear_value x1
  extract_lets +onlyGivenNames x3
  have h4 : Only [Part.evm, Part.recd, Part.mbx, Part.loops, Part.pack, Part.ports] s x3 := by
    subst x3
    refine Only.foldl _ _ _ (fun u5 y h6 => ?_) ?_
    · refine Only.after (readLink_only _ _) (by decide) ?_
      exact h6
    · exact Only.refl _ _
  clear_value x3
  extract_lets +onlyGivenNames x7
  clear_value x7
  extract_lets +onlyGivenNames x8
  have h9 : Only [Part.evm, Part.recd, Part.mbx, Part.loops, Part.pack, Part.ports] s x8 := by
    subst x8
    refine Only.after (countNoHold_only _ _) (by decide) ?_
    refine Only.after (countLease_only _ _) (by decide) ?_
    exact h4
  clear_value x8
  extract_lets +onlyGivenNames x10
  have h11 : Only [Part.evm, Part.recd, Part.mbx, Part.loops, Part.pack, Part.ports] s x10 := by
    subst x10
    refine Only.after (eqGain_only _) (by decide) ?_
    refine Only.after (eqLose_only _) (by decide) ?_
    exact h9
  clear_value x10
  extract_lets +onlyGivenNames x12
  clear_value x12
  extract_lets +onlyGivenNames x13
  have h14 : Only [Part.evm, Part.recd, Part.mbx, Part.loops, Part.pack, Part.ports] s x13 := by
    subst x13
    refine Only.after (ilkStep_only _ _) (by decide) ?_
    exact h11
  clear_value x13
  extract_lets +onlyGivenNames x15
  have h16 : Only [Part.evm, Part.recd, Part.mbx, Part.loops, Part.pack, Part.ports] s x15.1 := by
    subst x15
    refine Only.after (fallStep_only _ _ _) (by decide) ?_
    exact h14
  clear_value x15
  extract_lets +onlyGivenNames x17
  have h18 : Only [Part.evm, Part.recd, Part.mbx, Part.loops, Part.pack, Part.ports] s x17.1 := by
    subst x17
    refine Only.after (dupStep_only _ _) (by decide) ?_
    exact h16
  clear_value x17
  extract_lets +onlyGivenNames x19
  have h20 : Only [Part.evm, Part.recd, Part.mbx, Part.loops, Part.pack, Part.ports] s x19.1 := by
    subst x19
    refine Only.fst_ite ?_ ?_
    · refine Only.fst_mk ?_
      refine Only.ite ?_ ?_
      · refine Only.after (conflictStep_only _ _) (by decide) ?_
        exact h18
      · exact h18
    · refine Only.after (conflictStep_only _ _) (by decide) ?_
      exact h18
  clear_value x19
  extract_lets +onlyGivenNames x21
  have h22 : Only [Part.evm, Part.recd, Part.mbx, Part.loops, Part.pack, Part.ports] s x21 := by
    subst x21
    refine Only.ite ?_ ?_
    · exact h14
    · refine Only.ite ?_ ?_
      · exact h20
      · refine Only.after (takeStep_only _) (by decide) ?_
        refine Only.after (swapStep_only _ _) (by decide) ?_
        exact h20
  clear_value x21
  extract_lets +onlyGivenNames x23
  have h24 : Only [Part.evm, Part.recd, Part.mbx, Part.loops, Part.pack, Part.ports] s x23 := by
    subst x23
    refine Only.after (refuseHeld_only _) (by decide) ?_
    exact h22
  clear_value x23
  refine Only.after (modPack_only _ _) (by decide) ?_
  exact h24

theorem execRoleStep_only (s : State) :
    OnlyNext [.boot, .seq, .cck, .sdir, .evm, .recd, .mbx, .sec, .loops, .pack, .ports] s (execRoleStep s) := by
  unfold execRoleStep
  refine issue_only _ _ _ _ _ (by decide) ?_
  exact Only.mono (roleStepEffect_only _) (by decide)

theorem roleSwapHandler_only (a0 : ℕ) (s : State) :
    Only [.evm, .recd, .mbx, .pack] s (roleSwapHandler a0 s) := by
  unfold roleSwapHandler
  extract_lets +onlyGivenNames x1
  clear_value x1
  refine Only.ite ?_ ?_
  · exact Only.mono (completeMbx_only _ _ _) (by decide)
  · exact Only.mono (modPack_only _ _) (by decide)

theorem execLeaseExpired_only (s : State) :
    OnlyNext [.pack] s (execLeaseExpired s) := by
  unfold execLeaseExpired
  refine OnlyNext.ite ?_ ?_
  · refine OnlyNext.next ?_
    exact Only.refl _ _
  · refine OnlyNext.next ?_
    exact Only.mono (modPack_only _ _) (by decide)

theorem judgeUnit_only (s : State) :
    Only [.boot, .evm, .recd, .pack] s (judgeUnit s) := by
  unfold judgeUnit
  refine Only.ite ?_ ?_
  · exact Only.refl _ _
  · refine Only.after (raise_only _ _ _ _ _) (by decide) ?_
    refine Only.after (setReason_only _ _ _) (by decide) ?_
    exact Only.mono (modPack_only _ _) (by decide)

theorem execRoleSwap_only (a0 : BitVec 4) (s : State) :
    OnlyNext [.evm, .recd, .mbx, .pack] s (execRoleSwap a0 s) := by
  unfold execRoleSwap
  refine OnlyNext.next ?_
  exact Only.mono (roleSwapHandler_only _ _) (by decide)

end Sys2Proof.Machine
end

