-- ==== Sys2Proof/Laws/FrameUpdate.lean ====
section
/-! SUPPORT. Sys2Proof/Laws/FrameUpdate.lean: which parts of the state each operation of Machine/Update.lean changes. -/

set_option linter.unusedVariables false

namespace Sys2Proof.Machine

theorem chartCommit_only (a0 : ℕ) (a1 : Bool) (s : State) :
    Only [.flash, .mbx] s (chartCommit a0 a1 s) := by
  unfold chartCommit
  refine Only.ite ?_ ?_
  · exact Only.mono (decideMbx_only _ _ _) (by decide)
  · split
    · exact Only.mono (decideMbx_only _ _ _) (by decide)
    · extract_lets +onlyGivenNames x1
      clear_value x1
      extract_lets +onlyGivenNames x2
      have h3 : Only [Part.flash, Part.mbx] s x2 := by
        subst x2
        refine only_upd_flash _ (by decide) ?_
        exact Only.refl _ _
      clear_value x2
      refine Only.after (decideMbx_only _ _ _) (by decide) ?_
      exact h3

theorem chartErase_only (a0 : ℕ) (a1 : Bool) (s : State) :
    Only [.boot, .flash, .mbx] s (chartErase a0 a1 s) := by
  unfold chartErase
  refine Only.ite ?_ ?_
  · exact Only.mono (decideMbx_only _ _ _) (by decide)
  · refine Only.after (decideMbx_only _ _ _) (by decide) ?_
    refine only_upd_boot_flash _ _ (by decide) ?_
    exact Only.refl _ _

theorem putData_only (a0 : ℕ) (a1 : List Byte) (s : State) :
    Only [.mbx] s (putData a0 a1 s) := by
  unfold putData
  extract_lets +onlyGivenNames x1
  clear_value x1
  exact Only.mono (setMbx_only _ _ _) (by decide)

theorem chartStatus_only (a0 : ℕ) (a1 : Bool) (s : State) :
    Only [.mbx] s (chartStatus a0 a1 s) := by
  unfold chartStatus
  refine Only.ite ?_ ?_
  · exact Only.mono (decideMbx_only _ _ _) (by decide)
  · refine Only.after (decideMbx_only _ _ _) (by decide) ?_
    exact Only.mono (putData_only _ _ _) (by decide)

theorem chartWrite_only (a0 : ℕ) (a1 : Bool) (a2 : ℕ) (a3 : ℕ) (a4 : List Byte) (s : State) :
    Only [.boot, .flash, .mbx] s (chartWrite a0 a1 a2 a3 a4 s) := by
  unfold chartWrite
  refine Only.ite ?_ ?_
  · exact Only.mono (decideMbx_only _ _ _) (by decide)
  · refine Only.ite ?_ ?_
    · exact Only.mono (decideMbx_only _ _ _) (by decide)
    · extract_lets +onlyGivenNames x1 x2 x3
      clear_value x1 x2 x3
      extract_lets +onlyGivenNames x4
      have h5 : Only [Part.boot, Part.flash, Part.mbx] s x4 := by
        subst x4
        refine only_upd_boot _ (by decide) ?_
        exact Only.refl _ _
      clear_value x4
      extract_lets +onlyGivenNames x6 x7
      clear_value x6 x7
      extract_lets +onlyGivenNames x8
      have h9 : Only [Part.boot, Part.flash, Part.mbx] s x8 := by
        subst x8
        refine only_upd_flash _ (by decide) ?_
        exact h5
      clear_value x8
      refine Only.after (decideMbx_only _ _ _) (by decide) ?_
      exact h9

theorem execChartErase_only (a0 : BitVec 4) (a1 : Bool) (s : State) :
    OnlyNext [.boot, .flash, .mbx] s (execChartErase a0 a1 s) := by
  unfold execChartErase
  refine OnlyNext.next ?_
  refine Only.ite ?_ ?_
  · exact Only.mono (chartErase_only _ _ _) (by decide)
  · exact Only.refl _ _

theorem execChartStatus_only (a0 : BitVec 4) (a1 : Bool) (s : State) :
    OnlyNext [.mbx] s (execChartStatus a0 a1 s) := by
  unfold execChartStatus
  refine OnlyNext.next ?_
  refine Only.ite ?_ ?_
  · exact Only.mono (chartStatus_only _ _ _) (by decide)
  · exact Only.refl _ _

theorem execChartCommit_only (a0 : BitVec 4) (a1 : Bool) (s : State) :
    OnlyNext [.flash, .mbx] s (execChartCommit a0 a1 s) := by
  unfold execChartCommit
  refine OnlyNext.next ?_
  refine Only.ite ?_ ?_
  · exact Only.mono (chartCommit_only _ _ _) (by decide)
  · exact Only.refl _ _

theorem execChartWrite_only (a0 : BitVec 4) (a1 : Bool) (a2 : BitVec 32) (a3 : BitVec 16) (a4 : List (BitVec 8)) (s : State) :
    OnlyNext [.boot, .flash, .mbx] s (execChartWrite a0 a1 a2 a3 a4 s) := by
  unfold execChartWrite
  refine OnlyNext.next ?_
  refine Only.ite ?_ ?_
  · exact Only.mono (chartWrite_only _ _ _ _ _ _) (by decide)
  · exact Only.refl _ _

end Sys2Proof.Machine
end

