-- ==== Sys2Proof/Laws/FrameMbx.lean ====
section
/-! SUPPORT. Sys2Proof/Laws/FrameMbx.lean: which parts of the state each operation of Machine/Mbx.lean changes. -/

set_option linter.unusedVariables false

namespace Sys2Proof.Machine

theorem lockRead_only (a0 : ℕ) (a1 : ℕ) (s : State) :
    Only [.mbx] s (lockRead a0 a1 s).2 := by
  unfold lockRead
  extract_lets +onlyGivenNames x1
  clear_value x1
  refine Only.snd_ite ?_ ?_
  · refine Only.snd_mk ?_
    exact Only.mono (setMbx_only _ _ _) (by decide)
  · refine Only.snd_ite ?_ ?_
    · refine Only.snd_mk ?_
      exact Only.refl _ _
    · refine Only.snd_ite ?_ ?_
      · refine Only.snd_mk ?_
        exact Only.refl _ _
      · refine Only.snd_mk ?_
        exact Only.refl _ _

theorem postMbx_only (a0 : ℕ) (a1 : ℕ) (s : State) :
    ∀ t, postMbx a0 a1 s = some t → Only [.evm, .recd, .mbx, .pwr] s t := by
  intro t ht
  unfold postMbx at ht
  extract_lets m u at ht
  have h1 : Only [.evm, .recd, .mbx, .pwr] s u := Only.mono (setMbx_only _ _ _) (by decide)
  clear_value u
  split at ht
  · cases ht
    refine Only.ite (Only.after (sleepWake_only _ _) (by decide) h1) ?_
    split
    · exact Only.after (startWake_only _ _) (by decide) h1
    · exact h1
  · cases ht

theorem guarded_only {l : List Part} {s : State} (n : Nat) (ok : Bool) (f : State → State) (t : State) (hs : subParts [.evm, .recd, .mbx] l = true) (hf : Only l s (f t)) (h : Only l s t) :
    Only l s (guarded n ok f t) := by
  unfold guarded
  exact Only.ite hf (Only.after (completeMbx_only _ _ _) hs h)

theorem payWrite_only (a0 : ℕ) (a1 : ℕ) (a2 : ℕ) (a3 : Word) (s : State) :
    ∀ t, payWrite a0 a1 a2 a3 s = some t → Only [.mbx] s t := by
  intro t ht
  unfold payWrite at ht
  simp only at ht
  split at ht
  · cases ht
    exact Only.mono (setMbx_only _ _ _) (by decide)
  · cases ht

theorem releaseMbx_only (a0 : ℕ) (a1 : ℕ) (s : State) :
    ∀ t, releaseMbx a0 a1 s = some t → Only [.mbx] s t := by
  intro t ht
  unfold releaseMbx at ht
  simp only at ht
  split at ht
  · cases ht
    exact Only.mono (setMbx_only _ _ _) (by decide)
  · cases ht

theorem ctlWrite_only (a0 : ℕ) (a1 : ℕ) (a2 : Word) (s : State) :
    ∀ t, ctlWrite a0 a1 a2 s = some t → Only [.evm, .recd, .mbx, .pwr] s t := by
  intro t ht
  unfold ctlWrite at ht
  split at ht
  · exact Only.mono (postMbx_only _ _ _ t ht) (by decide)
  · exact Only.mono (releaseMbx_only _ _ _ t ht) (by decide)
  · cases ht

theorem handlerEnds_only (a0 : ℕ) (s : State) :
    Only [.evm, .recd, .mbx] s (handlerEnds a0 s) := by
  unfold handlerEnds
  extract_lets +onlyGivenNames x1
  clear_value x1
  split
  · extract_lets +onlyGivenNames x2
    have h3 : Only [Part.evm, Part.recd, Part.mbx] s x2 := by
      subst x2
      exact Only.mono (finishMbx_only _ _ _) (by decide)
    clear_value x2
    refine Only.ite ?_ ?_
    · refine Only.after (raise_only _ _ _ _ _) (by decide) ?_
      exact h3
    · exact h3
  · exact Only.refl _ _

theorem execMbxCommandComplete_only (a0 : BitVec 4) (s : State) :
    OnlyNext [.evm, .recd, .mbx] s (execMbxCommandComplete a0 s) := by
  unfold execMbxCommandComplete
  refine OnlyNext.next ?_
  refine Only.ite ?_ ?_
  · exact Only.mono (handlerEnds_only _ _) (by decide)
  · exact Only.refl _ _

theorem execMbxPost_only (n : BitVec 4) (tp : BitVec 8) (s : State) :
    OnlyNext [.boot, .seq, .cck, .sdir, .evm, .recd, .mbx, .sec, .pwr] s (execMbxPost n tp s) := by
  unfold execMbxPost
  refine issue_only _ _ _ _ _ (by decide) ?_
  refine Only.ite (Only.mono (breach_only _ _ _) (by decide)) ?_
  have hl := lockRead_only n.toNat 3 s
  have hr : Only [.boot, .seq, .cck, .sdir, .evm, .recd, .mbx, .sec, .pwr] s (lockRead n.toNat 3 s).2 := Only.mono hl (by decide)
  refine Only.ite (Only.mono (raise_only _ _ _ _ _) (by decide)) ?_
  have hs : ∀ m, Only [.boot, .seq, .cck, .sdir, .evm, .recd, .mbx, .sec, .pwr] s (setMbx n.toNat m (lockRead n.toNat 3 s).2) := fun m => Only.after (setMbx_only _ _ _) (by decide) hr
  exact Only.getD (fun t h => Only.after (postMbx_only _ _ _ t h) (by decide) (hs _)) (hs _)

theorem funcHandler_only (a0 : ℕ) (a1 : ℕ) (a2 : ℕ) (a3 : Bool) (s : State) :
    Only [.funcReqs, .evm, .recd, .mbx] s (funcHandler a0 a1 a2 a3 s) := by
  unfold funcHandler
  refine Only.ite ?_ ?_
  · exact Only.mono (completeMbx_only _ _ _) (by decide)
  · refine Only.ite ?_ ?_
    · exact Only.mono (completeMbx_only _ _ _) (by decide)
    · refine Only.after (completeMbx_only _ _ _) (by decide) ?_
      refine only_upd_funcReqs _ (by decide) ?_
      exact Only.refl _ _

theorem execFuncDisable_only (a0 : BitVec 4) (a1 : BitVec 8) (a2 : BitVec 16) (s : State) :
    OnlyNext [.funcReqs, .evm, .recd, .mbx] s (execFuncDisable a0 a1 a2 s) := by
  unfold execFuncDisable
  refine OnlyNext.next ?_
  exact Only.mono (funcHandler_only _ _ _ _ _) (by decide)

theorem masterReset_only (a0 : ℕ) (s : State) :
    Only [.evm, .recd, .mbx, .sec] s (masterReset a0 s) := by
  unfold masterReset
  extract_lets +onlyGivenNames x1
  have h2 : Only [Part.evm, Part.recd, Part.mbx, Part.sec] s x1 := by
    subst x1
    refine Only.foldl _ _ _ (fun u3 y h4 => ?_) ?_
    · refine Only.ite ?_ ?_
      · refine Only.after (handlerEnds_only _ _) (by decide) ?_
        exact h4
      · exact h4
    · exact Only.refl _ _
  clear_value x1
  extract_lets +onlyGivenNames x5 x6 x7
  clear_value x5 x6 x7
  extract_lets +onlyGivenNames x8
  have h9 : Only [Part.evm, Part.recd, Part.mbx, Part.sec] s x8 := by
    subst x8
    refine Only.foldl _ _ _ (fun u10 y h11 => ?_) ?_
    · refine Only.after (setMbx_only _ _ _) (by decide) ?_
      exact h11
    · exact h2
  clear_value x8
  extract_lets +onlyGivenNames x12
  have h13 : Only [Part.evm, Part.recd, Part.mbx, Part.sec] s x12 := by
    subst x12
    refine Only.foldl _ _ _ (fun u14 y h15 => ?_) ?_
    · refine Only.after (setMbx_only _ _ _) (by decide) ?_
      exact h15
    · exact h9
  clear_value x12
  extract_lets +onlyGivenNames x16
  have h17 : Only [Part.evm, Part.recd, Part.mbx, Part.sec] s x16 := by
    subst x16
    refine Only.ite ?_ ?_
    · refine Only.after (tokClear_only _) (by decide) ?_
      exact h13
    · exact h13
  clear_value x16
  refine Only.after (raise_only _ _ _ _ _) (by decide) ?_
  exact h17

theorem timeSetHandler_only (a0 : ℕ) (a1 : ℕ) (a2 : ℤ) (s : State) :
    Only [.evm, .recd, .mbx, .cal] s (timeSetHandler a0 a1 a2 s) := by
  unfold timeSetHandler
  refine Only.ite ?_ ?_
  · exact Only.mono (completeMbx_only _ _ _) (by decide)
  · refine Only.after (completeMbx_only _ _ _) (by decide) ?_
    exact Only.mono (setCalendar_only _ _ _ _) (by decide)

theorem execTimeSet_only (a0 : BitVec 4) (a1 : BitVec 48) (a2 : BitVec 16) (s : State) :
    OnlyNext [.evm, .recd, .mbx, .cal] s (execTimeSet a0 a1 a2 s) := by
  unfold execTimeSet
  refine OnlyNext.next ?_
  exact Only.mono (timeSetHandler_only _ _ _ _) (by decide)

theorem guardedUpd_only {l : List Part} {s : State} (n : Nat) (m : Mbx) (f : State → State) (t : State) (hs : subParts [.mbx] l = true) (hf : Only l s (f t)) (h : Only l s t) :
    Only l s (takeCommand.guardedUpd n m f t) := by
  unfold takeCommand.guardedUpd
  exact Only.ite hf (Only.after (decideMbx_only _ _ _) hs h)

theorem forceHandler_only (a0 : ℕ) (a1 : ℕ) (a2 : Word) (s : State) :
    Only [.forces, .evm, .recd, .mbx] s (forceHandler a0 a1 a2 s) := by
  unfold forceHandler
  refine Only.ite ?_ ?_
  · exact Only.mono (completeMbx_only _ _ _) (by decide)
  · refine Only.ite ?_ ?_
    · exact Only.mono (completeMbx_only _ _ _) (by decide)
    · refine Only.after (completeMbx_only _ _ _) (by decide) ?_
      refine only_upd_forces _ (by decide) ?_
      exact Only.refl _ _

theorem releaseHandler_only (a0 : ℕ) (a1 : ℕ) (s : State) :
    Only [.forces, .evm, .recd, .mbx] s (releaseHandler a0 a1 s) := by
  unfold releaseHandler
  refine Only.ite ?_ ?_
  · exact Only.mono (completeMbx_only _ _ _) (by decide)
  · refine Only.ite ?_ ?_
    · exact Only.mono (completeMbx_only _ _ _) (by decide)
    · refine Only.after (completeMbx_only _ _ _) (by decide) ?_
      refine only_upd_forces _ (by decide) ?_
      exact Only.refl _ _

theorem reanchorHandler_only (a0 : ℕ) (a1 : ℕ) (s : State) :
    Only [.evm, .recd, .mbx, .obs] s (reanchorHandler a0 a1 s) := by
  unfold reanchorHandler
  split
  · rename_i t ht
    exact Only.mono (execReanchor_only _ _ _ t ht) (by decide)
  · exact Only.refl _ _

theorem takeCommand_only (a0 : ℕ) (s : State) :
    Only [.boot, .flash, .funcReqs, .forces, .evm, .recd, .mbx, .sec, .pwr, .cal, .obs, .nav, .qps, .modes, .lce, .loops, .pack, .ports] s (takeCommand a0 s) := by
  unfold takeCommand
  extract_lets +onlyGivenNames x1 x2 x3 x4 x5 x6
  clear_value x1 x2 x3 x4 x5 x6
  split
  · refine guarded_only _ _ _ _ (by decide) ?_ ?_
    · exact Only.mono (forceHandler_only _ _ _ _) (by decide)
    · exact Only.refl _ _
  · refine guarded_only _ _ _ _ (by decide) ?_ ?_
    · exact Only.mono (releaseHandler_only _ _ _) (by decide)
    · exact Only.refl _ _
  · refine guarded_only _ _ _ _ (by decide) ?_ ?_
    · exact Only.mono (funcHandler_only _ _ _ _ _) (by decide)
    · exact Only.refl _ _
  · refine guardedUpd_only _ _ _ _ (by decide) ?_ ?_
    · exact Only.mono (chartErase_only _ _ _) (by decide)
    · exact Only.refl _ _
  · refine guardedUpd_only _ _ _ _ (by decide) ?_ ?_
    · exact Only.mono (chartWrite_only _ _ _ _ _ _) (by decide)
    · exact Only.refl _ _
  · refine guardedUpd_only _ _ _ _ (by decide) ?_ ?_
    · exact Only.mono (chartCommit_only _ _ _) (by decide)
    · exact Only.refl _ _
  · refine guardedUpd_only _ _ _ _ (by decide) ?_ ?_
    · exact Only.mono (chartStatus_only _ _ _) (by decide)
    · exact Only.refl _ _
  · refine guarded_only _ _ _ _ (by decide) ?_ ?_
    · exact Only.mono (reanchorHandler_only _ _ _) (by decide)
    · exact Only.refl _ _
  · refine guarded_only _ _ _ _ (by decide) ?_ ?_
    · exact Only.mono (navExclHandler_only _ _ _ _ _) (by decide)
    · exact Only.refl _ _
  · refine guarded_only _ _ _ _ (by decide) ?_ ?_
    · exact Only.mono (qpsCapHandler_only _ _ _ _) (by decide)
    · exact Only.refl _ _
  · refine guarded_only _ _ _ _ (by decide) ?_ ?_
    · exact Only.mono (modeReqHandler_only _ _ _ _) (by decide)
    · exact Only.refl _ _
  · refine guarded_only _ _ _ _ (by decide) ?_ ?_
    · exact Only.mono (lceHandler_only _ _ _ _ _) (by decide)
    · exact Only.refl _ _
  · refine guarded_only _ _ _ _ (by decide) ?_ ?_
    · exact Only.mono (lceHandler_only _ _ _ _ _) (by decide)
    · exact Only.refl _ _
  · extract_lets +onlyGivenNames x7
    clear_value x7
    refine guarded_only _ _ _ _ (by decide) ?_ ?_
    · exact Only.mono (lceHandler_only _ _ _ _ _) (by decide)
    · exact Only.refl _ _
  · refine guarded_only _ _ _ _ (by decide) ?_ ?_
    · exact Only.mono (lceHandler_only _ _ _ _ _) (by decide)
    · exact Only.refl _ _
  · refine guarded_only _ _ _ _ (by decide) ?_ ?_
    · exact Only.mono (loopClearHandler_only _ _ _) (by decide)
    · exact Only.refl _ _
  · refine guarded_only _ _ _ _ (by decide) ?_ ?_
    · exact Only.mono (hartPassHandler_only _ _ _ _ _ _ _) (by decide)
    · exact Only.refl _ _
  · refine guarded_only _ _ _ _ (by decide) ?_ ?_
    · exact Only.mono (roleSwapHandler_only _ _) (by decide)
    · exact Only.refl _ _
  · refine guarded_only _ _ _ _ (by decide) ?_ ?_
    · exact Only.mono (packDuplexHandler_only _ _ _) (by decide)
    · exact Only.refl _ _
  · refine guarded_only _ _ _ _ (by decide) ?_ ?_
    · exact Only.mono (partnerResetHandler_only _ _ _) (by decide)
    · exact Only.refl _ _
  · refine guarded_only _ _ _ _ (by decide) ?_ ?_
    · exact Only.mono (timeSetHandler_only _ _ _ _) (by decide)
    · exact Only.refl _ _
  · refine guarded_only _ _ _ _ (by decide) ?_ ?_
    · exact Only.mono (canViewHandler_only _ _ _ _) (by decide)
    · exact Only.refl _ _
  · refine guarded_only _ _ _ _ (by decide) ?_ ?_
    · exact Only.mono (tokenLoadHandler_only _ _ _ _ _) (by decide)
    · exact Only.refl _ _
  · refine guarded_only _ _ _ _ (by decide) ?_ ?_
    · exact Only.mono (tokenApplyHandler_only _ _) (by decide)
    · exact Only.refl _ _
  · refine guarded_only _ _ _ _ (by decide) ?_ ?_
    · exact Only.mono (tokenClearHandler_only _ _) (by decide)
    · exact Only.refl _ _
  · refine guarded_only _ _ _ _ (by decide) ?_ ?_
    · exact Only.mono (holdHandler_only _ _ _) (by decide)
    · exact Only.refl _ _
  · refine guarded_only _ _ _ _ (by decide) ?_ ?_
    · exact Only.mono (holdHandler_only _ _ _) (by decide)
    · exact Only.refl _ _
  · refine guarded_only _ _ _ _ (by decide) ?_ ?_
    · exact Only.mono (sleepHandler_only _ _ _ _ _ _) (by decide)
    · exact Only.refl _ _
  · exact Only.mono (completeMbx_only _ _ _) (by decide)

theorem latchCommand_only (a0 : ℕ) (s : State) :
    Only [.boot, .flash, .funcReqs, .forces, .evm, .recd, .mbx, .sec, .pwr, .cal, .obs, .nav, .qps, .modes, .lce, .loops, .pack, .ports] s (latchCommand a0 s) := by
  unfold latchCommand
  extract_lets +onlyGivenNames x1
  clear_value x1
  refine Only.ite ?_ ?_
  · exact Only.refl _ _
  · extract_lets +onlyGivenNames x2 x3
    clear_value x2 x3
    extract_lets +onlyGivenNames x4
    have h5 : Only [Part.boot, Part.flash, Part.funcReqs, Part.forces, Part.evm, Part.recd, Part.mbx, Part.sec, Part.pwr, Part.cal, Part.obs, Part.nav, Part.qps, Part.modes, Part.lce, Part.loops, Part.pack, Part.ports] s x4 := by
      subst x4
      exact Only.mono (setMbx_only _ _ _) (by decide)
    clear_value x4
    refine Only.ite ?_ ?_
    · refine Only.after (completeMbx_only _ _ _) (by decide) ?_
      exact h5
    · refine Only.ite ?_ ?_
      · refine Only.after (completeMbx_only _ _ _) (by decide) ?_
        exact h5
      · refine Only.ite ?_ ?_
        · refine Only.after (completeMbx_only _ _ _) (by decide) ?_
          exact h5
        · refine Only.after (takeCommand_only _ _) (by decide) ?_
          exact h5

theorem execStandaloneServerLatch_only (a0 : BitVec 4) (s : State) :
    OnlyNext [.boot, .flash, .funcReqs, .forces, .evm, .recd, .mbx, .sec, .pwr, .cal, .obs, .nav, .qps, .modes, .lce, .loops, .pack, .ports] s (execStandaloneServerLatch a0 s) := by
  unfold execStandaloneServerLatch
  refine OnlyNext.next ?_
  refine Only.ite ?_ ?_
  · exact Only.mono (latchCommand_only _ _) (by decide)
  · exact Only.refl _ _

theorem execSignalRelease_only (a0 : BitVec 4) (a1 : BitVec 32) (s : State) :
    OnlyNext [.forces, .evm, .recd, .mbx] s (execSignalRelease a0 a1 s) := by
  unfold execSignalRelease
  refine OnlyNext.next ?_
  exact Only.mono (releaseHandler_only _ _ _) (by decide)

theorem execMbxServe_only (a0 : BitVec 4) (s : State) :
    OnlyNext [.boot, .flash, .seq, .cck, .sdir, .funcReqs, .forces, .evm, .recd, .mbx, .sec, .pwr, .cal, .obs, .nav, .qps, .modes, .lce, .loops, .pack, .ports] s (execMbxServe a0 s) := by
  unfold execMbxServe
  extract_lets +onlyGivenNames x1
  clear_value x1
  refine issue_only _ _ _ _ _ (by decide) ?_
  extract_lets +onlyGivenNames x2
  clear_value x2
  refine Only.ite ?_ ?_
  · exact Only.mono (breach_only _ _ _) (by decide)
  · refine Only.ite ?_ ?_
    · extract_lets +onlyGivenNames x3
      have h4 : Only [Part.boot, Part.flash, Part.seq, Part.cck, Part.sdir, Part.funcReqs, Part.forces, Part.evm, Part.recd, Part.mbx, Part.sec, Part.pwr, Part.cal, Part.obs, Part.nav, Part.qps, Part.modes, Part.lce, Part.loops, Part.pack, Part.ports] s x3 := by
        subst x3
        exact Only.mono (setMbx_only _ _ _) (by decide)
      clear_value x3
      refine Only.ite ?_ ?_
      · exact h4
      · refine Only.after (raise_only _ _ _ _ _) (by decide) ?_
        exact h4
    · exact Only.mono (latchCommand_only _ _) (by decide)

theorem execFuncEnable_only (a0 : BitVec 4) (a1 : BitVec 8) (a2 : BitVec 16) (s : State) :
    OnlyNext [.funcReqs, .evm, .recd, .mbx] s (execFuncEnable a0 a1 a2 s) := by
  unfold execFuncEnable
  refine OnlyNext.next ?_
  exact Only.mono (funcHandler_only _ _ _ _ _) (by decide)

theorem execMbxLockExpired_only (a0 : BitVec 4) (s : State) :
    OnlyNext [.evm, .recd, .mbx] s (execMbxLockExpired a0 s) := by
  unfold execMbxLockExpired
  extract_lets +onlyGivenNames x1
  clear_value x1
  refine OnlyNext.ite ?_ ?_
  · refine OnlyNext.next ?_
    refine Only.after (raise_only _ _ _ _ _) (by decide) ?_
    exact Only.mono (setMbx_only _ _ _) (by decide)
  · refine OnlyNext.next ?_
    exact Only.refl _ _

theorem execForce_only (a0 : BitVec 4) (a1 : BitVec 32) (a2 : BitVec 32) (s : State) :
    OnlyNext [.forces, .evm, .recd, .mbx] s (execForce a0 a1 a2 s) := by
  unfold execForce
  refine OnlyNext.next ?_
  exact Only.mono (forceHandler_only _ _ _ _) (by decide)

end Sys2Proof.Machine
end

