-- ==== Sys2Proof/Laws/FramePins.lean ====
section
/-! SUPPORT. Sys2Proof/Laws/FramePins.lean: which parts of the state each operation of Machine/Pins.lean changes. -/

set_option linter.unusedVariables false

namespace Sys2Proof.Machine

theorem setGpio_only (a0 : Bool) (a1 : GpioBank) (s : State) :
    Only [.gpio0, .gpio1] s (setGpio a0 a1 s) := by
  unfold setGpio
  refine Only.ite ?_ ?_
  · refine only_upd_gpio1 _ (by decide) ?_
    exact Only.refl _ _
  · refine only_upd_gpio0 _ (by decide) ?_
    exact Only.refl _ _

theorem gpioSetEffect_only (a0 : ℕ) (a1 : Bool) (s : State) :
    Only [.gpio0, .gpio1, .draws] s (gpioSetEffect a0 a1 s) := by
  unfold gpioSetEffect
  extract_lets +onlyGivenNames x1 x2 x3 x4 x5 x6
  clear_value x1 x2 x3 x4 x5 x6
  refine Only.after (setGpio_only _ _ _) (by decide) ?_
  refine only_upd_draws _ (by decide) ?_
  exact Only.refl _ _

theorem gpioRecord_only (a0 : Bool) (a1 : ℕ) (s : State) :
    Only [.lbus, .gpio0, .gpio1] s (gpioRecord a0 a1 s) := by
  unfold gpioRecord
  extract_lets +onlyGivenNames x1 x2
  clear_value x1 x2
  refine Only.after (landDirect_only _ _ _ _ _) (by decide) ?_
  exact Only.mono (setGpio_only _ _ _) (by decide)

theorem gpioFrame_only (s : State) :
    Only [.lbus, .gpio0, .gpio1] s (gpioFrame s) := by
  unfold gpioFrame
  refine Only.ite ?_ ?_
  · exact Only.refl _ _
  · refine Only.after (gpioRecord_only _ _ _) (by decide) ?_
    exact Only.mono (gpioRecord_only _ _ _) (by decide)

theorem execGpioLevelChange_only (a0 : Bool) (a1 : Word) (s : State) :
    OnlyNext [.lbus, .gpio0, .gpio1] s (execGpioLevelChange a0 a1 s) := by
  unfold execGpioLevelChange
  extract_lets +onlyGivenNames x1
  clear_value x1
  refine OnlyNext.ite ?_ ?_
  · refine OnlyNext.next ?_
    exact Only.refl _ _
  · extract_lets +onlyGivenNames x2
    have h3 : Only [Part.lbus, Part.gpio0, Part.gpio1] s x2 := by
      subst x2
      exact Only.mono (setGpio_only _ _ _) (by decide)
    clear_value x2
    refine OnlyNext.ite ?_ ?_
    · refine OnlyNext.next ?_
      exact h3
    · refine OnlyNext.next ?_
      refine Only.after (gpioRecord_only _ _ _) (by decide) ?_
      exact h3

theorem execTjSample_only (a0 : BitVec 16) (s : State) :
    OnlyNext [.evm, .recd, .tj] s (execTjSample a0 s) := by
  unfold execTjSample
  refine OnlyNext.ite ?_ ?_
  · refine OnlyNext.next ?_
    exact Only.refl _ _
  · extract_lets +onlyGivenNames x1 x2 x3 x4
    clear_value x1 x2 x3 x4
    refine OnlyNext.ite ?_ ?_
    · refine OnlyNext.next ?_
      refine Only.after (raise_only _ _ _ _ _) (by decide) ?_
      refine only_upd_tj _ (by decide) ?_
      exact Only.refl _ _
    · refine OnlyNext.ite ?_ ?_
      · refine OnlyNext.next ?_
        refine Only.after (raise_only _ _ _ _ _) (by decide) ?_
        refine only_upd_tj _ (by decide) ?_
        exact Only.refl _ _
      · refine OnlyNext.next ?_
        refine only_upd_tj _ (by decide) ?_
        exact Only.refl _ _

theorem execGpioSet_only (a0 : BitVec 17) (a1 : Bool) (s : State) :
    OnlyNext [.boot, .seq, .cck, .sdir, .evm, .recd, .sec, .gpio0, .gpio1, .draws] s (execGpioSet a0 a1 s) := by
  unfold execGpioSet
  refine issue_only _ _ _ _ _ (by decide) ?_
  exact Only.mono (gpioSetEffect_only _ _ _) (by decide)

end Sys2Proof.Machine
end

