-- ==== Sys2Proof/Laws/FrameTtu.lean ====
section
/-! SUPPORT. Sys2Proof/Laws/FrameTtu.lean: which parts of the state each operation of Machine/Ttu.lean changes. -/

set_option linter.unusedVariables false

namespace Sys2Proof.Machine

theorem modTtu_only (a0 : ℕ) (a1 : Ttu → Ttu) (s : State) :
    Only [.ttu] s (modTtu a0 a1 s) := by
  unfold modTtu
  refine only_upd_ttu _ (by decide) ?_
  exact Only.refl _ _

theorem ttuLand_only (a0 : ℕ) (a1 : ℕ) (a2 : ℕ) (s : State) :
    Only [.lbus, .evm, .recd] s (ttuLand a0 a1 a2 s) := by
  unfold ttuLand
  extract_lets +onlyGivenNames x1
  clear_value x1
  exact Only.mono (landFrom_only _ _ _ _ _) (by decide)

theorem judgeOnce_only (a0 : ℕ) (a1 : ℕ) (s : State) :
    Only [.lbus, .evm, .recd, .ttu] s (judgeOnce a0 a1 s) := by
  unfold judgeOnce
  refine Only.ite ?_ ?_
  · extract_lets +onlyGivenNames x1
    clear_value x1
    extract_lets +onlyGivenNames x2
    have h3 : Only [Part.lbus, Part.evm, Part.recd, Part.ttu] s x2 := by
      subst x2
      refine Only.after (modTtu_only _ _ _) (by decide) ?_
      refine only_upd_ttu _ (by decide) ?_
      exact Only.refl _ _
    clear_value x2
    refine Only.after (raise_only _ _ _ _ _) (by decide) ?_
    refine Only.after (ttuLand_only _ _ _ _) (by decide) ?_
    exact h3
  · exact Only.mono (modTtu_only _ _ _) (by decide)

theorem judge_only (a0 : ℕ) (a1 : TtuProg) (s : State) :
    Only [.lbus, .evm, .recd, .ttu] s (judge a0 a1 s) := by
  unfold judge
  split
  · exact Only.mono (modTtu_only _ _ _) (by decide)
  · extract_lets +onlyGivenNames x1
    have h2 : Only [Part.lbus, Part.evm, Part.recd, Part.ttu] s x1 := by
      subst x1
      exact Only.mono (modTtu_only _ _ _) (by decide)
    clear_value x1
    refine Only.after (ttuLand_only _ _ _ _) (by decide) ?_
    exact h2
  · exact Only.mono (judgeOnce_only _ _ _) (by decide)
  · exact Only.mono (judgeOnce_only _ _ _) (by decide)
  · refine Only.ite ?_ ?_
    · exact Only.mono (modTtu_only _ _ _) (by decide)
    · exact Only.refl _ _

theorem ttuEnable_only (a0 : ℕ) (s : State) :
    Only [.lbus, .evm, .recd, .ttu] s (ttuEnable a0 s) := by
  unfold ttuEnable
  refine Only.ite ?_ ?_
  · exact Only.mono (judge_only _ _ _) (by decide)
  · exact Only.refl _ _

theorem ttuAutoArm_only (s : State) :
    Only [.lbus, .evm, .recd, .ttu] s (ttuAutoArm s) := by
  unfold ttuAutoArm
  refine Only.foldl _ _ _ (fun u1 y h2 => ?_) ?_
  · refine Only.ite ?_ ?_
    · refine Only.after (judge_only _ _ _) (by decide) ?_
      exact h2
    · exact h2
  · exact Only.refl _ _

theorem execTtuStop_only (a0 : BitVec 6) (s : State) :
    OnlyNext [.boot, .seq, .cck, .sdir, .evm, .recd, .sec, .ttu] s (execTtuStop a0 s) := by
  unfold execTtuStop
  refine issue_only _ _ _ _ _ (by decide) ?_
  exact Only.mono (modTtu_only _ _ _) (by decide)

theorem ttuAct_only (a0 : ℕ) (s : State) :
    Only [.ttu] s (ttuAct a0 s) := by
  unfold ttuAct
  extract_lets +onlyGivenNames x1
  clear_value x1
  split
  · refine Only.ite ?_ ?_
    · extract_lets +onlyGivenNames x2
      clear_value x2
      refine only_upd_ttu _ (by decide) ?_
      exact Only.refl _ _
    · exact Only.refl _ _
  · refine only_upd_ttu _ (by decide) ?_
    exact Only.refl _ _
  · refine only_upd_ttu _ (by decide) ?_
    exact Only.refl _ _
  · exact Only.refl _ _

theorem ttuFire_only (a0 : ℕ) (s : State) :
    Only [.lbus, .evm, .recd, .ttu] s (ttuFire a0 s) := by
  unfold ttuFire
  extract_lets +onlyGivenNames x1
  clear_value x1
  extract_lets +onlyGivenNames x2
  have h3 : Only [Part.lbus, Part.evm, Part.recd, Part.ttu] s x2 := by
    subst x2
    exact Only.mono (ttuAct_only _ _) (by decide)
  clear_value x2
  extract_lets +onlyGivenNames x4
  have h5 : Only [Part.lbus, Part.evm, Part.recd, Part.ttu] s x4 := by
    subst x4
    refine Only.after (modTtu_only _ _ _) (by decide) ?_
    exact h3
  clear_value x4
  extract_lets +onlyGivenNames x6
  have h7 : Only [Part.lbus, Part.evm, Part.recd, Part.ttu] s x6 := by
    subst x6
    refine Only.after (ttuLand_only _ _ _ _) (by decide) ?_
    exact h5
  clear_value x6
  refine Only.ite ?_ ?_
  · refine Only.after (modTtu_only _ _ _) (by decide) ?_
    exact h7
  · exact h7

theorem execTtuProgramArrival_only (a0 : BitVec 6) (s : State) :
    OnlyNext [.lbus, .evm, .recd, .ttu] s (execTtuProgramArrival a0 s) := by
  unfold execTtuProgramArrival
  split
  · refine OnlyNext.next ?_
    exact Only.refl _ _
  · refine OnlyNext.ite ?_ ?_
    · extract_lets +onlyGivenNames x1
      have h2 : Only [Part.lbus, Part.evm, Part.recd, Part.ttu] s x1 := by
        subst x1
        refine Only.ite ?_ ?_
        · exact Only.mono (ttuFire_only _ _) (by decide)
        · exact Only.refl _ _
      clear_value x1
      refine OnlyNext.next ?_
      refine Only.after (judge_only _ _ _) (by decide) ?_
      refine Only.after (modTtu_only _ _ _) (by decide) ?_
      exact h2
    · refine OnlyNext.next ?_
      exact Only.refl _ _

theorem execTtuArm_only (a0 : BitVec 6) (s : State) :
    OnlyNext [.boot, .seq, .cck, .sdir, .evm, .recd, .sec, .ttu] s (execTtuArm a0 s) := by
  unfold execTtuArm
  refine issue_only _ _ _ _ _ (by decide) ?_
  exact Only.mono (modTtu_only _ _ _) (by decide)

theorem execTtuFire_only (a0 : BitVec 6) (s : State) :
    OnlyNext [.lbus, .evm, .recd, .ttu] s (execTtuFire a0 s) := by
  unfold execTtuFire
  refine OnlyNext.next ?_
  refine Only.ite ?_ ?_
  · exact Only.mono (ttuFire_only _ _) (by decide)
  · exact Only.refl _ _

end Sys2Proof.Machine
end

