-- ==== Sys2Proof/Laws/FrameBoot.lean ====
section
/-! SUPPORT. Sys2Proof/Laws/FrameBoot.lean: which parts of the state each operation of Machine/Boot.lean changes. -/

set_option linter.unusedVariables false

namespace Sys2Proof.Machine

theorem modBoot_only (a0 : Boot → Boot) (s : State) :
    Only [.boot] s (modBoot a0 s) := by
  unfold modBoot
  refine only_upd_boot _ (by decide) ?_
  exact Only.refl _ _

theorem tryRelease_only (s : State) :
    Only [.boot] s (tryRelease s) := by
  unfold tryRelease
  refine Only.ite ?_ ?_
  · exact Only.mono (modBoot_only _ _) (by decide)
  · exact Only.refl _ _

theorem execPfailRelease_only (s : State) :
    OnlyNext [.pins, .boot] s (execPfailRelease s) := by
  unfold execPfailRelease
  refine OnlyNext.next ?_
  refine Only.after (tryRelease_only _) (by decide) ?_
  refine only_upd_pins _ (by decide) ?_
  exact Only.refl _ _

theorem setVfail_only (a0 : Bool) (a1 : Word) (a2 : Word) (s : State) :
    Only [.seq] s (setVfail a0 a1 a2 s) := by
  unfold setVfail
  refine Only.ite ?_ ?_
  · refine only_upd_seq _ (by decide) ?_
    exact Only.refl _ _
  · refine only_upd_seq _ (by decide) ?_
    exact Only.refl _ _

theorem noCandidate_only (a0 : Bool) (s : State) :
    Only [.seq, .evm, .recd] s (noCandidate a0 s) := by
  unfold noCandidate
  refine Only.ite ?_ ?_
  · exact Only.refl _ _
  · refine Only.after (raise_only _ _ _ _ _) (by decide) ?_
    exact Only.mono (setVfail_only _ _ _ _) (by decide)

theorem execChartHeadersRead_only (a0 : Bool) (a1 : ℕ) (s : State) :
    OnlyNext [.boot, .cclk, .seq, .evm, .recd, .sec, .pwr, .ptc, .cal] s (execChartHeadersRead a0 a1 s) := by
  unfold execChartHeadersRead
  refine OnlyNext.ite ?_ ?_
  · refine OnlyNext.next ?_
    exact Only.refl _ _
  · extract_lets +onlyGivenNames x1
    have h2 : Only [Part.boot, Part.cclk, Part.seq, Part.evm, Part.recd, Part.sec, Part.pwr, Part.ptc, Part.cal] s x1 := by
      subst x1
      exact Only.mono (elapse_only _ _) (by decide)
    clear_value x1
    refine OnlyNext.ite ?_ ?_
    · refine OnlyNext.next ?_
      refine Only.after (enterFault_only _ _) (by decide) ?_
      exact h2
    · refine OnlyNext.ite ?_ ?_
      · refine OnlyNext.next ?_
        refine Only.after (enterFault_only _ _) (by decide) ?_
        exact h2
      · extract_lets +onlyGivenNames x3
        have h4 : Only [Part.boot, Part.cclk, Part.seq, Part.evm, Part.recd, Part.sec, Part.pwr, Part.ptc, Part.cal] s x3 := by
          subst x3
          refine Only.after (noCandidate_only _ _) (by decide) ?_
          refine Only.after (noCandidate_only _ _) (by decide) ?_
          exact h2
        clear_value x3
        extract_lets +onlyGivenNames x5
        have h6 : Only [Part.boot, Part.cclk, Part.seq, Part.evm, Part.recd, Part.sec, Part.pwr, Part.ptc, Part.cal] s x5 := by
          subst x5
          refine Only.after (modBoot_only _ _) (by decide) ?_
          exact h4
        clear_value x5
        refine OnlyNext.ite ?_ ?_
        · refine OnlyNext.next ?_
          refine Only.after (enterFault_only _ _) (by decide) ?_
          exact h6
        · refine OnlyNext.next ?_
          refine Only.after (modBoot_only _ _) (by decide) ?_
          refine only_upd_seq _ (by decide) ?_
          exact h6

theorem execResetNLow_only (s : State) :
    OnlyNext (Part.but [.pending, .cclk, .flash, .sram, .sdir, .cal]) s (execResetNLow s) := by
  unfold execResetNLow
  refine OnlyNext.next ?_
  refine Only.after (enterReset_only _ _ _ _) (by decide) ?_
  refine only_upd_pins _ (by decide) ?_
  exact Only.refl _ _

theorem elapseTo_only (a0 : ℕ) (s : State) :
    Only [.cclk, .pwr, .ptc, .cal] s (elapseTo a0 s) := by
  unfold elapseTo
  exact Only.mono (elapse_only _ _) (by decide)

theorem execPfailNLow_only (s : State) :
    OnlyNext (Part.but [.pending, .cclk, .flash, .sram, .sdir, .cal]) s (execPfailNLow s) := by
  unfold execPfailNLow
  refine OnlyNext.next ?_
  refine Only.after (enterReset_only _ _ _ _) (by decide) ?_
  refine only_upd_pins _ (by decide) ?_
  exact Only.refl _ _

theorem sealRecords_only (s : State) :
    Only [.evm, .recd] s (sealRecords s) := by
  unfold sealRecords
  extract_lets +onlyGivenNames x1
  clear_value x1
  extract_lets +onlyGivenNames x2
  have h3 : Only [Part.evm, Part.recd] s x2 := by
    subst x2
    exact Only.mono (raiseAt_only _ _ _ _ _ _) (by decide)
  clear_value x2
  extract_lets +onlyGivenNames x4
  have h5 : Only [Part.evm, Part.recd] s x4 := by
    subst x4
    refine Only.after (raiseAt_only _ _ _ _ _ _) (by decide) ?_
    exact h3
  clear_value x4
  refine Only.after (raiseAt_only _ _ _ _ _ _) (by decide) ?_
  exact h5

theorem execSealComplete_only (s : State) :
    OnlyNext [.boot, .hdr, .sects, .cclk, .evm, .recd, .host, .sec, .pwr, .draws, .ptc, .cal, .pack, .ports] s (execSealComplete s) := by
  unfold execSealComplete
  refine OnlyNext.ite ?_ ?_
  · refine OnlyNext.next ?_
    exact Only.refl _ _
  · extract_lets +onlyGivenNames x1
    have h2 : Only [Part.boot, Part.hdr, Part.sects, Part.cclk, Part.evm, Part.recd, Part.host, Part.sec, Part.pwr, Part.draws, Part.ptc, Part.cal, Part.pack, Part.ports] s x1 := by
      subst x1
      refine Only.after (viewOf_only _ _) (by decide) ?_
      exact Only.mono (elapseTo_only _ _) (by decide)
    clear_value x1
    extract_lets +onlyGivenNames x3 x4 x5
    clear_value x3 x4 x5
    extract_lets +onlyGivenNames x6
    have h7 : Only [Part.boot, Part.hdr, Part.sects, Part.cclk, Part.evm, Part.recd, Part.host, Part.sec, Part.pwr, Part.draws, Part.ptc, Part.cal, Part.pack, Part.ports] s x6 := by
      subst x6
      refine only_upd_host_sec_pwr_draws _ _ _ _ (by decide) ?_
      exact h2
    clear_value x6
    extract_lets +onlyGivenNames x8
    have h9 : Only [Part.boot, Part.hdr, Part.sects, Part.cclk, Part.evm, Part.recd, Part.host, Part.sec, Part.pwr, Part.draws, Part.ptc, Part.cal, Part.pack, Part.ports] s x8 := by
      subst x8
      refine Only.after (modBoot_only _ _) (by decide) ?_
      exact h7
    clear_value x8
    refine OnlyNext.next ?_
    refine Only.after (setDev_only _ _) (by decide) ?_
    refine Only.after (judgeUnit_only _) (by decide) ?_
    refine Only.after (serSeal_only _) (by decide) ?_
    refine Only.after (canSeal_only _) (by decide) ?_
    refine Only.after (sealRecords_only _) (by decide) ?_
    exact h9

theorem execFlushCutoff_only (s : State) :
    OnlyNext [.aon, .boot] s (execFlushCutoff s) := by
  unfold execFlushCutoff
  refine OnlyNext.ite ?_ ?_
  · refine OnlyNext.next ?_
    refine Only.after (modBoot_only _ _) (by decide) ?_
    refine only_upd_aon _ (by decide) ?_
    exact Only.refl _ _
  · refine OnlyNext.next ?_
    exact Only.refl _ _

theorem loadSection_only (a0 : ISect) (a1 : List Byte) (s : State) :
    Only [.sram, .sdir] s (loadSection a0 a1 s) := by
  unfold loadSection
  refine Only.ite ?_ ?_
  · exact Only.refl _ _
  · refine Only.ite ?_ ?_
    · refine only_upd_sdir _ (by decide) ?_
      exact Only.refl _ _
    · refine only_upd_sram _ (by decide) ?_
      exact Only.refl _ _

theorem streamCopy_only (a0 : Img) (s : State) :
    Only [.sram, .sdir, .dirid] s (streamCopy a0 s) := by
  unfold streamCopy
  refine Only.ite ?_ ?_
  · exact Only.refl _ _
  · extract_lets +onlyGivenNames x1
    have h2 : Only [Part.sram, Part.sdir, Part.dirid] s x1 := by
      subst x1
      split
      · refine Only.foldl _ _ _ (fun u3 y h4 => ?_) ?_
        · refine Only.ite ?_ ?_
          · refine Only.after (loadSection_only _ _ _) (by decide) ?_
            exact h4
          · exact h4
        · exact Only.refl _ _
      · exact Only.refl _ _
    clear_value x1
    refine only_upd_dirid _ (by decide) ?_
    exact h2

theorem execChartCopyStreamed_only (a0 : ℕ) (s : State) :
    OnlyNext [.boot, .cclk, .sram, .sdir, .dirid, .evm, .recd, .sec, .pwr, .ptc, .cal] s (execChartCopyStreamed a0 s) := by
  unfold execChartCopyStreamed
  refine OnlyNext.ite ?_ ?_
  · refine OnlyNext.next ?_
    exact Only.refl _ _
  · extract_lets +onlyGivenNames x1 x2
    clear_value x1 x2
    extract_lets +onlyGivenNames x3
    have h4 : Only [Part.boot, Part.cclk, Part.sram, Part.sdir, Part.dirid, Part.evm, Part.recd, Part.sec, Part.pwr, Part.ptc, Part.cal] s x3 := by
      subst x3
      refine Only.after (streamCopy_only _ _) (by decide) ?_
      exact Only.mono (elapse_only _ _) (by decide)
    clear_value x3
    refine OnlyNext.next ?_
    refine Only.after (setDev_only _ _) (by decide) ?_
    refine Only.after (modBoot_only _ _) (by decide) ?_
    exact h4

theorem execRecorderFlushEnd_only (s : State) :
    OnlyNext [.boot] s (execRecorderFlushEnd s) := by
  unfold execRecorderFlushEnd
  refine OnlyNext.ite ?_ ?_
  · refine OnlyNext.next ?_
    exact Only.mono (modBoot_only _ _) (by decide)
  · refine OnlyNext.next ?_
    exact Only.refl _ _

theorem execPorRelease_only (s : State) :
    OnlyNext [.pins, .boot] s (execPorRelease s) := by
  unfold execPorRelease
  refine OnlyNext.next ?_
  refine Only.after (tryRelease_only _) (by decide) ?_
  refine only_upd_pins _ (by decide) ?_
  exact Only.refl _ _

theorem rejectCopy_only (a0 : Bool) (a1 : Verdict) (s : State) :
    Only [.boot, .seq, .evm, .recd] s (rejectCopy a0 a1 s) := by
  unfold rejectCopy
  extract_lets +onlyGivenNames x1
  clear_value x1
  extract_lets +onlyGivenNames x2
  have h3 : Only [Part.boot, Part.seq, Part.evm, Part.recd] s x2 := by
    subst x2
    exact Only.mono (setVfail_only _ _ _ _) (by decide)
  clear_value x2
  refine Only.after (raise_only _ _ _ _ _) (by decide) ?_
  refine Only.ite ?_ ?_
  · refine Only.after (modBoot_only _ _) (by decide) ?_
    exact h3
  · exact h3

theorem execVerifyComplete_only (a0 : ℕ) (s : State) :
    OnlyNext [.boot, .cclk, .seq, .evm, .recd, .sec, .pwr, .ptc, .cal] s (execVerifyComplete a0 s) := by
  unfold execVerifyComplete
  refine OnlyNext.ite ?_ ?_
  · refine OnlyNext.next ?_
    exact Only.refl _ _
  · extract_lets +onlyGivenNames x1 x2
    clear_value x1 x2
    extract_lets +onlyGivenNames x3
    have h4 : Only [Part.boot, Part.cclk, Part.seq, Part.evm, Part.recd, Part.sec, Part.pwr, Part.ptc, Part.cal] s x3 := by
      subst x3
      exact Only.mono (elapse_only _ _) (by decide)
    clear_value x3
    split
    · extract_lets +onlyGivenNames x5
      have h6 : Only [Part.boot, Part.cclk, Part.seq, Part.evm, Part.recd, Part.sec, Part.pwr, Part.ptc, Part.cal] s x5 := by
        subst x5
        refine Only.after (setVfail_only _ _ _ _) (by decide) ?_
        exact h4
      clear_value x5
      extract_lets +onlyGivenNames x7
      clear_value x7
      extract_lets +onlyGivenNames x8
      have h9 : Only [Part.boot, Part.cclk, Part.seq, Part.evm, Part.recd, Part.sec, Part.pwr, Part.ptc, Part.cal] s x8 := by
        subst x8
        refine only_upd_seq _ (by decide) ?_
        exact h6
      clear_value x8
      refine OnlyNext.next ?_
      refine Only.after (modBoot_only _ _) (by decide) ?_
      exact h9
    · extract_lets +onlyGivenNames x10
      have h11 : Only [Part.boot, Part.cclk, Part.seq, Part.evm, Part.recd, Part.sec, Part.pwr, Part.ptc, Part.cal] s x10 := by
        subst x10
        refine Only.after (rejectCopy_only _ _ _) (by decide) ?_
        exact h4
      clear_value x10
      extract_lets +onlyGivenNames x12
      clear_value x12
      refine OnlyNext.ite ?_ ?_
      · extract_lets +onlyGivenNames x13
        clear_value x13
        extract_lets +onlyGivenNames x14
        have h15 : Only [Part.boot, Part.cclk, Part.seq, Part.evm, Part.recd, Part.sec, Part.pwr, Part.ptc, Part.cal] s x14 := by
          subst x14
          refine Only.after (setDev_only _ _) (by decide) ?_
          refine only_upd_seq _ (by decide) ?_
          exact h11
        clear_value x14
        refine OnlyNext.next ?_
        refine Only.after (modBoot_only _ _) (by decide) ?_
        exact h15
      · refine OnlyNext.next ?_
        refine Only.after (enterFault_only _ _) (by decide) ?_
        exact h11

theorem drainQueue_only (s : State) :
    Only [.recd] s (drainQueue s) := by
  unfold drainQueue
  extract_lets +onlyGivenNames x1 x2
  clear_value x1 x2
  refine Only.after (modRecd_only _ _) (by decide) ?_
  exact Only.mono (closeTick_only _) (by decide)

theorem wipeRecorder_only (s : State) :
    Only [.boot, .recd] s (wipeRecorder s) := by
  unfold wipeRecorder
  extract_lets +onlyGivenNames x1
  clear_value x1
  refine Only.after (drainQueue_only _) (by decide) ?_
  refine Only.after (modBoot_only _ _) (by decide) ?_
  exact Only.mono (modRecd_only _ _) (by decide)

theorem execZeroiserComplete_only (a0 : Option (BitVec 4 × BitVec 28)) (s : State) :
    OnlyNext [.boot, .cclk, .sram, .seq, .sdir, .dirid, .lbus, .evm, .recd, .sec, .pwr, .draws, .ptc, .cal] s (execZeroiserComplete a0 s) := by
  unfold execZeroiserComplete
  refine OnlyNext.ite ?_ ?_
  · refine OnlyNext.next ?_
    exact Only.refl _ _
  · extract_lets +onlyGivenNames x1
    have h2 : Only [Part.boot, Part.cclk, Part.sram, Part.seq, Part.sdir, Part.dirid, Part.lbus, Part.evm, Part.recd, Part.sec, Part.pwr, Part.draws, Part.ptc, Part.cal] s x1 := by
      subst x1
      exact Only.mono (elapseTo_only _ _) (by decide)
    clear_value x1
    extract_lets +onlyGivenNames x3
    have h4 : Only [Part.boot, Part.cclk, Part.sram, Part.seq, Part.sdir, Part.dirid, Part.lbus, Part.evm, Part.recd, Part.sec, Part.pwr, Part.draws, Part.ptc, Part.cal] s x3 := by
      subst x3
      refine only_upd_sram_sdir_dirid_lbus _ _ _ _ (by decide) ?_
      exact h2
    clear_value x3
    extract_lets +onlyGivenNames x5
    have h6 : Only [Part.boot, Part.cclk, Part.sram, Part.seq, Part.sdir, Part.dirid, Part.lbus, Part.evm, Part.recd, Part.sec, Part.pwr, Part.draws, Part.ptc, Part.cal] s x5 := by
      subst x5
      refine Only.after (newNonce_only _) (by decide) ?_
      refine Only.ite ?_ ?_
      · refine Only.after (wipeRecorder_only _) (by decide) ?_
        exact h4
      · exact h4
    clear_value x5
    extract_lets +onlyGivenNames x7
    have h8 : Only [Part.boot, Part.cclk, Part.sram, Part.seq, Part.sdir, Part.dirid, Part.lbus, Part.evm, Part.recd, Part.sec, Part.pwr, Part.draws, Part.ptc, Part.cal] s x7 := by
      subst x7
      refine Only.after (modBoot_only _ _) (by decide) ?_
      exact h6
    clear_value x7
    split
    · refine OnlyNext.next ?_
      refine Only.after (enterFault_only _ _) (by decide) ?_
      refine Only.after (raise_only _ _ _ _ _) (by decide) ?_
      refine Only.after (modBoot_only _ _) (by decide) ?_
      exact h8
    · refine OnlyNext.next ?_
      refine Only.after (setDev_only _ _) (by decide) ?_
      exact h8

theorem execResetExit_only (a0 : Bool) (a1 : BitVec 2) (a2 : BitVec 4) (a3 : Option LogMem) (s : State) :
    OnlyNext [.pins, .boot, .cclk, .evm, .recd, .sec, .pwr, .ptc, .cal, .loops] s (execResetExit a0 a1 a2 a3 s) := by
  unfold execResetExit
  refine OnlyNext.ite ?_ ?_
  · refine OnlyNext.next ?_
    exact Only.refl _ _
  · extract_lets +onlyGivenNames x1
    have h2 : Only [Part.pins, Part.boot, Part.cclk, Part.evm, Part.recd, Part.sec, Part.pwr, Part.ptc, Part.cal, Part.loops] s x1 := by
      subst x1
      exact Only.mono (elapseTo_only _ _) (by decide)
    clear_value x1
    extract_lets +onlyGivenNames x3 x4 x5
    clear_value x3 x4 x5
    extract_lets +onlyGivenNames x6
    have h7 : Only [Part.pins, Part.boot, Part.cclk, Part.evm, Part.recd, Part.sec, Part.pwr, Part.ptc, Part.cal, Part.loops] s x6 := by
      subst x6
      refine only_upd_pins_recd_loops _ _ _ (by decide) ?_
      exact h2
    clear_value x6
    extract_lets +onlyGivenNames x8
    have h9 : Only [Part.pins, Part.boot, Part.cclk, Part.evm, Part.recd, Part.sec, Part.pwr, Part.ptc, Part.cal, Part.loops] s x8 := by
      subst x8
      refine Only.after (setDev_only _ _) (by decide) ?_
      exact h7
    clear_value x8
    refine OnlyNext.next ?_
    refine Only.after (modBoot_only _ _) (by decide) ?_
    exact h9

theorem execContractReset_only (s : State) :
    OnlyNext (Part.but [.pending, .pins, .flash, .sram, .sdir]) s (execContractReset s) := by
  unfold execContractReset
  refine OnlyNext.ite ?_ ?_
  · refine OnlyNext.next ?_
    exact Only.refl _ _
  · extract_lets +onlyGivenNames x1
    have h2 : Only (Part.but [Part.pending, Part.pins, Part.flash, Part.sram, Part.sdir]) s x1 := by
      subst x1
      exact Only.mono (elapseTo_only _ _) (by decide)
    clear_value x1
    refine OnlyNext.ite ?_ ?_
    · refine OnlyNext.next ?_
      refine Only.after (outRefresh_only _) (by decide) ?_
      refine Only.after (enterFault_only _ _) (by decide) ?_
      exact h2
    · refine OnlyNext.next ?_
      refine Only.after (enterReset_only _ _ _ _) (by decide) ?_
      exact h2

theorem execResetNRise_only (s : State) :
    OnlyNext [.pins, .boot] s (execResetNRise s) := by
  unfold execResetNRise
  refine OnlyNext.next ?_
  refine Only.after (tryRelease_only _) (by decide) ?_
  refine only_upd_pins _ (by decide) ?_
  exact Only.refl _ _

theorem execSyncTmo_only (s : State) :
    OnlyNext [.boot, .evm, .recd, .draws] s (execSyncTmo s) := by
  unfold execSyncTmo
  refine OnlyNext.ite ?_ ?_
  · refine OnlyNext.next ?_
    refine Only.after (raiseOpen_only _ _) (by decide) ?_
    refine Only.after (setReason_only _ _ _) (by decide) ?_
    exact Only.mono (modBoot_only _ _) (by decide)
  · refine OnlyNext.next ?_
    exact Only.refl _ _

theorem execPorAssert_only (s : State) :
    OnlyNext (Part.but [.pending, .cclk, .flash, .sram, .sdir, .cal]) s (execPorAssert s) := by
  unfold execPorAssert
  refine OnlyNext.next ?_
  refine Only.after (enterReset_only _ _ _ _) (by decide) ?_
  refine only_upd_pins _ (by decide) ?_
  exact Only.refl _ _

end Sys2Proof.Machine
end

