-- ==== Sys2Proof/Laws/FrameCck.lean ====
section
/-! SUPPORT. Sys2Proof/Laws/FrameCck.lean: which parts of the state each operation of Machine/Cck.lean changes. -/

set_option linter.unusedVariables false

namespace Sys2Proof.Machine

theorem settleCck_only (s : State) :
    Only [.cck, .flight] s (settleCck s) := by
  unfold settleCck
  refine only_upd_cck_flight _ _ (by decide) ?_
  exact Only.refl _ _

theorem bookOp_only (a0 : ℕ) (a1 : OpInfo) (s : State) :
    Only [.cck, .flight] s (bookOp a0 a1 s) := by
  unfold bookOp
  extract_lets +onlyGivenNames x1
  clear_value x1
  refine only_upd_cck_flight _ _ (by decide) ?_
  exact Only.refl _ _

theorem issueLane_only (a0 : ℕ) (s : State) :
    Only [.pending, .boot, .seq, .cck, .sdir, .evm, .recd, .sec, .flight] s (issueLane a0 s) := by
  unfold issueLane
  extract_lets +onlyGivenNames x1
  clear_value x1
  split
  · extract_lets +onlyGivenNames x2
    have h3 : Only [Part.pending, Part.boot, Part.seq, Part.cck, Part.sdir, Part.evm, Part.recd, Part.sec, Part.flight] s x2 := by
      subst x2
      exact Only.mono (settleCck_only _) (by decide)
    clear_value x2
    refine Only.ite ?_ ?_
    · refine only_upd_pending _ (by decide) ?_
      exact h3
    · split
      · refine Only.after (dropLane_only _) (by decide) ?_
        refine Only.after (breach_only _ _ _) (by decide) ?_
        exact h3
      · extract_lets +onlyGivenNames x4
        have h5 : Only [Part.pending, Part.boot, Part.seq, Part.cck, Part.sdir, Part.evm, Part.recd, Part.sec, Part.flight] s x4 := by
          subst x4
          refine Only.after (bookOp_only _ _ _) (by decide) ?_
          exact h3
        clear_value x4
        refine only_upd_pending _ (by decide) ?_
        exact h5
  · exact Only.mono (dropLane_only _) (by decide)

theorem slackCheck_only (s : State) :
    Only [.boot, .seq, .cck, .sdir, .evm, .recd, .sec, .draws] s (slackCheck s) := by
  unfold slackCheck
  refine Only.ite ?_ ?_
  · refine Only.after (breach_only _ _ _) (by decide) ?_
    refine only_upd_draws _ (by decide) ?_
    exact Only.refl _ _
  · exact Only.refl _ _

theorem openBundle_only (s : State) :
    Only [.seq] s (openBundle s) := by
  unfold openBundle
  extract_lets +onlyGivenNames x1
  clear_value x1
  extract_lets +onlyGivenNames x2
  have h3 : Only [Part.seq] s x2 := by
    subst x2
    exact Only.mono (nextBundle_only _) (by decide)
  clear_value x2
  refine only_upd_seq _ (by decide) ?_
  exact h3

end Sys2Proof.Machine
end

