-- ==== Sys2Proof/Laws/FrameFrame.lean ====
section
/-! SUPPORT. Sys2Proof/Laws/FrameFrame.lean: which parts of the state each operation of Machine/Frame.lean changes. -/

set_option linter.unusedVariables false

namespace Sys2Proof.Machine

theorem funcRestart_only (a0 : ℕ) (a1 : ℕ) (s : State) :
    Only [.lbus, .evm, .recd, .ttu, .lce, .fce, .loops, .ports] s (funcRestart a0 a1 s) := by
  unfold funcRestart
  refine Only.ite ?_ ?_
  · exact Only.mono (lceEnable_only _ _) (by decide)
  · refine Only.ite ?_ ?_
    · exact Only.mono (fceEnable_only _ _) (by decide)
    · refine Only.ite ?_ ?_
      · exact Only.mono (ttuEnable_only _ _) (by decide)
      · refine Only.ite ?_ ?_
        · exact Only.mono (canEnable_only _ _) (by decide)
        · refine Only.ite ?_ ?_
          · exact Only.mono (serEnable_only _ _) (by decide)
          · refine Only.ite ?_ ?_
            · refine Only.after (hartEnable_only _ _) (by decide) ?_
              exact Only.mono (lpoEnable_only _ _) (by decide)
            · refine Only.ite ?_ ?_
              · exact Only.mono (hartEnable_only _ _) (by decide)
              · exact Only.refl _ _

theorem putPiece_only (s : State) (a1 : Piece) :
    Only [.sram, .obs, .nav, .qps, .modes, .pack] s (putPiece s a1) := by
  unfold putPiece
  split
  · refine only_upd_obs _ (by decide) ?_
    exact Only.refl _ _
  · refine only_upd_nav _ (by decide) ?_
    exact Only.refl _ _
  · refine only_upd_qps _ (by decide) ?_
    exact Only.refl _ _
  · refine only_upd_modes _ (by decide) ?_
    exact Only.refl _ _
  · refine only_upd_sram _ (by decide) ?_
    exact Only.refl _ _
  · refine only_upd_pack _ (by decide) ?_
    exact Only.refl _ _

theorem dropHanded_only (s : State) :
    Only [.sram, .ttu, .obs, .nav, .qps, .modes, .fce, .loops, .pack, .ports, .flight] s (dropHanded s) := by
  unfold dropHanded
  refine Only.ite ?_ ?_
  · exact Only.refl _ _
  · extract_lets +onlyGivenNames x1
    have h2 : Only [Part.sram, Part.ttu, Part.obs, Part.nav, Part.qps, Part.modes, Part.fce, Part.loops, Part.pack, Part.ports, Part.flight] s x1 := by
      subst x1
      refine Only.foldl _ _ _ (fun u3 y h4 => ?_) ?_
      · refine Only.after (putPiece_only _ _) (by decide) ?_
        exact h4
      · exact Only.refl _ _
    clear_value x1
    refine only_upd_ttu_fce_loops_ports_flight _ _ _ _ _ (by decide) ?_
    exact h2

theorem freshLbu_only (s : State) (a1 : ℕ) :
    Only [.lbus] s (freshLbu s a1) := by
  unfold freshLbu
  exact Only.mono (setLbu_only _ _ _) (by decide)

theorem funcEnable_only (a0 : ℕ) (a1 : ℕ) (s : State) :
    Only [.lbus, .disabled, .evm, .recd, .ttu, .lce, .fce, .loops, .ports] s (funcEnable a0 a1 s) := by
  unfold funcEnable
  refine Only.ite ?_ ?_
  · exact Only.refl _ _
  · extract_lets +onlyGivenNames x1
    have h2 : Only [Part.lbus, Part.disabled, Part.evm, Part.recd, Part.ttu, Part.lce, Part.fce, Part.loops, Part.ports] s x1 := by
      subst x1
      refine only_upd_disabled _ (by decide) ?_
      exact Only.refl _ _
    clear_value x1
    refine Only.after (funcRestart_only _ _ _) (by decide) ?_
    refine Only.foldl _ _ _ (fun u3 y h4 => ?_) ?_
    · refine Only.after (freshLbu_only _ _) (by decide) ?_
      exact h4
    · exact h2

theorem freshBarks_only (s : State) :
    Only [.pack] s (freshBarks s) := by
  unfold freshBarks
  refine Only.foldl _ _ _ (fun u1 y h2 => ?_) ?_
  · refine Only.after (modLink_only _ _ _) (by decide) ?_
    exact h2
  · exact Only.refl _ _

theorem haltStart_only (s : State) :
    Only [.boot, .evm, .recd, .sec] s (haltStart s) := by
  unfold haltStart
  refine Only.ite ?_ ?_
  · exact Only.refl _ _
  · extract_lets +onlyGivenNames x1
    have h2 : Only [Part.boot, Part.evm, Part.recd, Part.sec] s x1 := by
      subst x1
      exact Only.mono (modSec_only _ _) (by decide)
    clear_value x1
    refine Only.after (commandReason_only _) (by decide) ?_
    refine Only.after (raise_only _ _ _ _ _) (by decide) ?_
    exact h2

theorem haltEnd_only (s : State) :
    Only [.boot, .lbus, .evm, .recd, .sec, .ttu, .lce, .fce, .loops, .ports] s (haltEnd s) := by
  unfold haltEnd
  refine Only.ite ?_ ?_
  · exact Only.refl _ _
  · extract_lets +onlyGivenNames x1
    clear_value x1
    extract_lets +onlyGivenNames x2
    have h3 : Only [Part.boot, Part.lbus, Part.evm, Part.recd, Part.sec, Part.ttu, Part.lce, Part.fce, Part.loops, Part.ports] s x2 := by
      subst x2
      refine Only.after (raise_only _ _ _ _ _) (by decide) ?_
      exact Only.mono (modSec_only _ _) (by decide)
    clear_value x2
    extract_lets +onlyGivenNames x4
    have h5 : Only [Part.boot, Part.lbus, Part.evm, Part.recd, Part.sec, Part.ttu, Part.lce, Part.fce, Part.loops, Part.ports] s x4 := by
      subst x4
      refine Only.after (commandReason_only _) (by decide) ?_
      exact h3
    clear_value x4
    extract_lets +onlyGivenNames x6
    have h7 : Only [Part.boot, Part.lbus, Part.evm, Part.recd, Part.sec, Part.ttu, Part.lce, Part.fce, Part.loops, Part.ports] s x6 := by
      subst x6
      refine Only.foldl _ _ _ (fun u8 y h9 => ?_) ?_
      · refine Only.after (setLbu_only _ _ _) (by decide) ?_
        exact h9
      · exact h5
    clear_value x6
    extract_lets +onlyGivenNames x10
    have h11 : Only [Part.boot, Part.lbus, Part.evm, Part.recd, Part.sec, Part.ttu, Part.lce, Part.fce, Part.loops, Part.ports] s x10 := by
      subst x10
      refine Only.after (fceEnable_only _ _) (by decide) ?_
      refine Only.after (lceEnable_only _ _) (by decide) ?_
      exact h7
    clear_value x10
    extract_lets +onlyGivenNames x12
    have h13 : Only [Part.boot, Part.lbus, Part.evm, Part.recd, Part.sec, Part.ttu, Part.lce, Part.fce, Part.loops, Part.ports] s x12 := by
      subst x12
      refine Only.foldl _ _ _ (fun u14 y h15 => ?_) ?_
      · refine Only.ite ?_ ?_
        · exact h15
        · refine Only.after (ttuEnable_only _ _) (by decide) ?_
          exact h15
      · exact h11
    clear_value x12
    extract_lets +onlyGivenNames x16
    have h17 : Only [Part.boot, Part.lbus, Part.evm, Part.recd, Part.sec, Part.ttu, Part.lce, Part.fce, Part.loops, Part.ports] s x16 := by
      subst x16
      refine Only.foldl _ _ _ (fun u18 y h19 => ?_) ?_
      · refine Only.ite ?_ ?_
        · exact h19
        · refine Only.after (canEnable_only _ _) (by decide) ?_
          exact h19
      · exact h13
    clear_value x16
    extract_lets +onlyGivenNames x20
    have h21 : Only [Part.boot, Part.lbus, Part.evm, Part.recd, Part.sec, Part.ttu, Part.lce, Part.fce, Part.loops, Part.ports] s x20 := by
      subst x20
      refine Only.foldl _ _ _ (fun u22 y h23 => ?_) ?_
      · refine Only.ite ?_ ?_
        · exact h23
        · refine Only.after (serEnable_only _ _) (by decide) ?_
          exact h23
      · exact h17
    clear_value x20
    extract_lets +onlyGivenNames x24
    have h25 : Only [Part.boot, Part.lbus, Part.evm, Part.recd, Part.sec, Part.ttu, Part.lce, Part.fce, Part.loops, Part.ports] s x24 := by
      subst x24
      refine Only.foldl _ _ _ (fun u26 y h27 => ?_) ?_
      · refine Only.ite ?_ ?_
        · exact h27
        · refine Only.after (hartEnable_only _ _) (by decide) ?_
          refine Only.after (lpoEnable_only _ _) (by decide) ?_
          exact h27
      · exact h21
    clear_value x24
    refine Only.foldl _ _ _ (fun u28 y h29 => ?_) ?_
    · refine Only.ite ?_ ?_
      · exact h29
      · refine Only.after (hartEnable_only _ _) (by decide) ?_
        exact h29
    · exact h25

theorem haltBoundary_only (s : State) :
    Only [.boot, .lbus, .evm, .recd, .sec, .ttu, .lce, .fce, .loops, .ports] s (haltBoundary s) := by
  unfold haltBoundary
  extract_lets +onlyGivenNames x1
  clear_value x1
  extract_lets +onlyGivenNames x2
  have h3 : Only [Part.boot, Part.lbus, Part.evm, Part.recd, Part.sec, Part.ttu, Part.lce, Part.fce, Part.loops, Part.ports] s x2 := by
    subst x2
    exact Only.mono (modSec_only _ _) (by decide)
  clear_value x2
  refine Only.foldl _ _ _ (fun u4 y h5 => ?_) ?_
  · refine Only.ite ?_ ?_
    · refine Only.after (haltStart_only _) (by decide) ?_
      exact h5
    · refine Only.after (haltEnd_only _) (by decide) ?_
      exact h5
  · exact h3

theorem forceSig_only (a0 : ℕ) (a1 : Word) (s : State) :
    Only [.sdir, .evm, .recd] s (forceSig a0 a1 s) := by
  unfold forceSig
  extract_lets +onlyGivenNames x1 x2 x3
  clear_value x1 x2 x3
  extract_lets +onlyGivenNames x4
  have h5 : Only [Part.sdir, Part.evm, Part.recd] s x4 := by
    subst x4
    refine Only.ite ?_ ?_
    · exact Only.mono (writeSig_only _ _ _ _ _) (by decide)
    · exact Only.refl _ _
  clear_value x4
  extract_lets +onlyGivenNames x6
  have h7 : Only [Part.sdir, Part.evm, Part.recd] s x6 := by
    subst x6
    refine Only.ite ?_ ?_
    · refine Only.after (raise_only _ _ _ _ _) (by decide) ?_
      exact h5
    · exact h5
  clear_value x6
  refine Only.after (raise_only _ _ _ _ _) (by decide) ?_
  refine Only.after (setEnt_only _ _ _) (by decide) ?_
  exact h7

theorem releaseSig_only (a0 : ℕ) (s : State) :
    Only [.sdir, .evm, .recd] s (releaseSig a0 s) := by
  unfold releaseSig
  extract_lets +onlyGivenNames x1
  clear_value x1
  refine Only.ite ?_ ?_
  · refine Only.after (raise_only _ _ _ _ _) (by decide) ?_
    exact Only.mono (setEnt_only _ _ _) (by decide)
  · exact Only.refl _ _

theorem forceBoundary_only (s : State) :
    Only [.sdir, .forces, .evm, .recd] s (forceBoundary s) := by
  unfold forceBoundary
  extract_lets +onlyGivenNames x1
  clear_value x1
  extract_lets +onlyGivenNames x2
  have h3 : Only [Part.sdir, Part.forces, Part.evm, Part.recd] s x2 := by
    subst x2
    refine only_upd_forces _ (by decide) ?_
    exact Only.refl _ _
  clear_value x2
  refine Only.foldl _ _ _ (fun u4 y h5 => ?_) ?_
  · split
    · refine Only.after (forceSig_only _ _ _) (by decide) ?_
      exact h5
    · refine Only.after (releaseSig_only _ _) (by decide) ?_
      exact h5
  · exact h3

theorem discardLbu_only (s : State) (a1 : ℕ) :
    Only [.sdir, .lbus] s (discardLbu s a1) := by
  unfold discardLbu
  refine Only.after (markStale_only _ _ _) (by decide) ?_
  exact Only.mono (setLbu_only _ _ _) (by decide)

theorem funcDisable_only (a0 : ℕ) (a1 : ℕ) (s : State) :
    Only [.sdir, .lbus, .disabled, .evm, .recd, .mbx, .nav, .lce, .loops, .ports] s (funcDisable a0 a1 s) := by
  unfold funcDisable
  refine Only.ite ?_ ?_
  · exact Only.refl _ _
  · extract_lets +onlyGivenNames x1
    have h2 : Only [Part.sdir, Part.lbus, Part.disabled, Part.evm, Part.recd, Part.mbx, Part.nav, Part.lce, Part.loops, Part.ports] s x1 := by
      subst x1
      refine Only.foldl _ _ _ (fun u3 y h4 => ?_) ?_
      · refine Only.after (discardLbu_only _ _) (by decide) ?_
        exact h4
      · refine only_upd_disabled _ (by decide) ?_
        exact Only.refl _ _
    clear_value x1
    extract_lets +onlyGivenNames x5
    clear_value x5
    extract_lets +onlyGivenNames x6
    have h7 : Only [Part.sdir, Part.lbus, Part.disabled, Part.evm, Part.recd, Part.mbx, Part.nav, Part.lce, Part.loops, Part.ports] s x6 := by
      subst x6
      refine Only.after (raise_only _ _ _ _ _) (by decide) ?_
      exact h2
    clear_value x6
    refine Only.ite ?_ ?_
    · refine Only.after (lceDisable_only _ _) (by decide) ?_
      exact h7
    · refine Only.ite ?_ ?_
      · refine Only.after (abortGroups_only _ _) (by decide) ?_
        refine Only.after (navDisable_only _) (by decide) ?_
        exact h7
      · refine Only.ite ?_ ?_
        · refine Only.after (canDisable_only _ _) (by decide) ?_
          exact h7
        · refine Only.ite ?_ ?_
          · refine Only.after (serDisable_only _ _) (by decide) ?_
            exact h7
          · refine Only.ite ?_ ?_
            · refine Only.after (ethDisable_only _ _) (by decide) ?_
              exact h7
            · refine Only.ite ?_ ?_
              · refine Only.after (lpoDisable_only _ _) (by decide) ?_
                refine Only.after (hartDisable_only _ _) (by decide) ?_
                exact h7
              · refine Only.ite ?_ ?_
                · refine Only.after (hartDisable_only _ _) (by decide) ?_
                  exact h7
                · exact h7

theorem funcBoundary_only (s : State) :
    Only [.sdir, .lbus, .funcReqs, .disabled, .evm, .recd, .mbx, .ttu, .nav, .lce, .fce, .loops, .ports] s (funcBoundary s) := by
  unfold funcBoundary
  extract_lets +onlyGivenNames x1
  clear_value x1
  extract_lets +onlyGivenNames x2
  have h3 : Only [Part.sdir, Part.lbus, Part.funcReqs, Part.disabled, Part.evm, Part.recd, Part.mbx, Part.ttu, Part.nav, Part.lce, Part.fce, Part.loops, Part.ports] s x2 := by
    subst x2
    refine only_upd_funcReqs _ (by decide) ?_
    exact Only.refl _ _
  clear_value x2
  refine Only.foldl _ _ _ (fun u4 y h5 => ?_) ?_
  · refine Only.ite ?_ ?_
    · refine Only.after (funcEnable_only _ _ _) (by decide) ?_
      exact h5
    · refine Only.after (funcDisable_only _ _ _) (by decide) ?_
      exact h5
  · exact h3

theorem leaveSafeHold_only (s : State) :
    Only [.boot, .evm, .recd, .sec, .lce, .pack] s (leaveSafeHold s) := by
  unfold leaveSafeHold
  extract_lets +onlyGivenNames x1
  have h2 : Only [Part.boot, Part.evm, Part.recd, Part.sec, Part.lce, Part.pack] s x1 := by
    subst x1
    refine Only.after (raise_only _ _ _ _ _) (by decide) ?_
    exact Only.mono (enterStandby_only _) (by decide)
  clear_value x1
  refine Only.after (lceLeaveSafeHold_only _) (by decide) ?_
  exact h2

theorem stateBoundary_only (s : State) :
    Only [.boot, .evm, .recd, .mbx, .sec, .lce, .loops, .pack, .ports] s (stateBoundary s) := by
  unfold stateBoundary
  refine Only.ite ?_ ?_
  · refine Only.after (outRefresh_only _) (by decide) ?_
    exact Only.mono (enterSafeHold_only _) (by decide)
  · refine Only.ite ?_ ?_
    · refine Only.after (outRefresh_only _) (by decide) ?_
      exact Only.mono (leaveSafeHold_only _) (by decide)
    · exact Only.mono (roleBoundary_only _) (by decide)

theorem frameHooks_only (s : State) :
    Only (Part.but [.pending, .pins, .aon, .hdr, .sects, .cclk, .flash, .logMem, .cck, .dirid, .host, .fuses, .brs, .tj, .draws, .ptc, .cal]) s (frameHooks s) := by
  unfold frameHooks
  extract_lets +onlyGivenNames x1
  have h2 : Only (Part.but [Part.pending, Part.pins, Part.aon, Part.hdr, Part.sects, Part.cclk, Part.flash, Part.logMem, Part.cck, Part.dirid, Part.host, Part.fuses, Part.brs, Part.tj, Part.draws, Part.ptc, Part.cal]) s x1 := by
    subst x1
    refine Only.after (holdBoundary_only _) (by decide) ?_
    refine Only.after (haltBoundary_only _) (by decide) ?_
    refine Only.after (forceBoundary_only _) (by decide) ?_
    refine Only.after (funcBoundary_only _) (by decide) ?_
    exact Only.mono (dropHanded_only _) (by decide)
  clear_value x1
  extract_lets +onlyGivenNames x3
  have h4 : Only (Part.but [Part.pending, Part.pins, Part.aon, Part.hdr, Part.sects, Part.cclk, Part.flash, Part.logMem, Part.cck, Part.dirid, Part.host, Part.fuses, Part.brs, Part.tj, Part.draws, Part.ptc, Part.cal]) s x3 := by
    subst x3
    refine Only.after (sleepBoundary_only _) (by decide) ?_
    refine Only.after (eqGain_only _) (by decide) ?_
    refine Only.after (eqLose_only _) (by decide) ?_
    refine Only.after (stateBoundary_only _) (by decide) ?_
    refine Only.after (barkReasons_only _) (by decide) ?_
    exact h2
  clear_value x3
  refine Only.ite ?_ ?_
  · refine Only.after (gpioFrame_only _) (by decide) ?_
    refine Only.after (aljBoundary_only _) (by decide) ?_
    refine Only.after (lceBoundary_only _) (by decide) ?_
    refine Only.after (navBoundary_only _) (by decide) ?_
    refine Only.after (qpsBoundary_only _) (by decide) ?_
    refine Only.after (canBoundary_only _) (by decide) ?_
    exact h4
  · refine Only.after (outRefresh_only _) (by decide) ?_
    exact h4

theorem execScheduleStart_only (s : State) :
    OnlyNext (Part.but [.pending, .pins, .aon, .hdr, .sects, .flash, .logMem, .cck, .dirid, .host, .fuses, .brs, .tj, .draws]) s (execScheduleStart s) := by
  unfold execScheduleStart
  refine OnlyNext.ite ?_ ?_
  · refine OnlyNext.next ?_
    exact Only.refl _ _
  · extract_lets +onlyGivenNames x1
    clear_value x1
    extract_lets +onlyGivenNames x2
    have h3 : Only (Part.but [Part.pending, Part.pins, Part.aon, Part.hdr, Part.sects, Part.flash, Part.logMem, Part.cck, Part.dirid, Part.host, Part.fuses, Part.brs, Part.tj, Part.draws]) s x2 := by
      subst x2
      exact Only.mono (elapse_only _ _) (by decide)
    clear_value x2
    extract_lets +onlyGivenNames x4
    clear_value x4
    extract_lets +onlyGivenNames x5
    have h6 : Only (Part.but [Part.pending, Part.pins, Part.aon, Part.hdr, Part.sects, Part.flash, Part.logMem, Part.cck, Part.dirid, Part.host, Part.fuses, Part.brs, Part.tj, Part.draws]) s x5 := by
      subst x5
      refine only_upd_seq _ (by decide) ?_
      exact h3
    clear_value x5
    extract_lets +onlyGivenNames x7
    have h8 : Only (Part.but [Part.pending, Part.pins, Part.aon, Part.hdr, Part.sects, Part.flash, Part.logMem, Part.cck, Part.dirid, Part.host, Part.fuses, Part.brs, Part.tj, Part.draws]) s x7 := by
      subst x7
      refine Only.after (freshBarks_only _) (by decide) ?_
      refine Only.after (fetchClass_only _ _) (by decide) ?_
      exact h6
    clear_value x7
    extract_lets +onlyGivenNames x9
    have h10 : Only (Part.but [Part.pending, Part.pins, Part.aon, Part.hdr, Part.sects, Part.flash, Part.logMem, Part.cck, Part.dirid, Part.host, Part.fuses, Part.brs, Part.tj, Part.draws]) s x9 := by
      subst x9
      refine Only.after (beginList_only _ _ _) (by decide) ?_
      exact h8
    clear_value x9
    extract_lets +onlyGivenNames x11
    have h12 : Only (Part.but [Part.pending, Part.pins, Part.aon, Part.hdr, Part.sects, Part.flash, Part.logMem, Part.cck, Part.dirid, Part.host, Part.fuses, Part.brs, Part.tj, Part.draws]) s x11 := by
      subst x11
      refine Only.after (enterStandby_only _) (by decide) ?_
      refine Only.after (clearReason_only _ _) (by decide) ?_
      refine Only.after (clearReason_only _ _) (by decide) ?_
      exact h10
    clear_value x11
    refine OnlyNext.next ?_
    refine Only.after (frameHooks_only _) (by decide) ?_
    refine Only.after (ttuAutoArm_only _) (by decide) ?_
    refine Only.after (lceStart_only _) (by decide) ?_
    exact h12

theorem gatingEnds_only (s : State) :
    Only [.pwr, .fce] s (gatingEnds s) := by
  unfold gatingEnds
  extract_lets +onlyGivenNames x1
  have h2 : Only [Part.pwr, Part.fce] s x1 := by
    subst x1
    exact Only.mono (startWake_only _ _) (by decide)
  clear_value x1
  extract_lets +onlyGivenNames x3
  have h4 : Only [Part.pwr, Part.fce] s x3 := by
    subst x3
    refine Only.foldl _ _ _ (fun u5 y h6 => ?_) ?_
    · refine Only.after (wakeDone_only _ _) (by decide) ?_
      exact h6
    · exact h2
  clear_value x3
  refine Only.after (modPwr_only _ _) (by decide) ?_
  exact h4

theorem execFrameBoundary_only (a0 : BitVec 4) (s : State) :
    OnlyNext (Part.but [.pending, .aon, .hdr, .sects, .flash, .logMem, .cck, .dirid, .host, .fuses, .brs, .tj, .draws]) s (execFrameBoundary a0 s) := by
  unfold execFrameBoundary
  refine OnlyNext.ite ?_ ?_
  · refine OnlyNext.next ?_
    exact Only.refl _ _
  · extract_lets +onlyGivenNames x1
    have h2 : Only (Part.but [Part.pending, Part.aon, Part.hdr, Part.sects, Part.flash, Part.logMem, Part.cck, Part.dirid, Part.host, Part.fuses, Part.brs, Part.tj, Part.draws]) s x1 := by
      subst x1
      exact Only.mono (toTick_only _ _) (by decide)
    clear_value x1
    extract_lets +onlyGivenNames x3 x4
    clear_value x3 x4
    extract_lets +onlyGivenNames x5
    have h6 : Only (Part.but [Part.pending, Part.aon, Part.hdr, Part.sects, Part.flash, Part.logMem, Part.cck, Part.dirid, Part.host, Part.fuses, Part.brs, Part.tj, Part.draws]) s x5 := by
      subst x5
      refine only_upd_pins_seq _ _ (by decide) ?_
      exact h2
    clear_value x5
    refine OnlyNext.next ?_
    refine Only.after (frameHooks_only _) (by decide) ?_
    refine Only.after (gatingEnds_only _) (by decide) ?_
    refine Only.after (beginList_only _ _ _) (by decide) ?_
    exact h6

end Sys2Proof.Machine
end

