-- ==== Sys2Proof/Laws/FrameMap.lean ====
section
/-! SUPPORT. Sys2Proof/Laws/FrameMap.lean: which parts of the state each operation of Machine/Map.lean changes. -/

set_option linter.unusedVariables false

namespace Sys2Proof.Machine

theorem latchTime_only (a0 : Master) (s : State) :
    Only [.ptc] s (latchTime a0 s) := by
  unfold latchTime
  extract_lets +onlyGivenNames x1 x2
  clear_value x1 x2
  split
  · refine only_upd_ptc _ (by decide) ?_
    exact Only.refl _ _
  · refine only_upd_ptc _ (by decide) ?_
    exact Only.refl _ _

theorem lockSide_only (a0 : Master) (a1 : ℕ) (s : State) :
    Only [.mbx] s (lockSide a0 a1 s) := by
  unfold lockSide
  refine Only.ite ?_ ?_
  · exact Only.mono (lockRead_only _ _ _) (by decide)
  · exact Only.refl _ _

theorem readSide_only (a0 : Master) (a1 : ℕ) (s : State) :
    Only [.recd, .mbx, .ptc] s (readSide a0 a1 s) := by
  unfold readSide
  refine Only.ite ?_ ?_
  · exact Only.mono (startLoad_only _ _ _) (by decide)
  · refine Only.ite ?_ ?_
    · exact Only.mono (latchTime_only _ _) (by decide)
    · exact Only.mono (lockSide_only _ _ _) (by decide)

theorem readAt_only (a0 : Master) (a1 : ℕ) (s : State) :
    Only [.recd, .mbx, .ptc] s (readAt a0 a1 s).2 := by
  unfold readAt
  split
  · refine Only.snd_mk ?_
    exact Only.refl _ _
  · refine Only.snd_ite ?_ ?_
    · refine Only.snd_mk ?_
      exact Only.refl _ _
    · refine Only.snd_ite ?_ ?_
      · refine Only.snd_mk ?_
        exact Only.mono (readSide_only _ _ _) (by decide)
      · refine Only.snd_mk ?_
        refine Only.ite ?_ ?_
        · exact Only.mono (lockSide_only _ _ _) (by decide)
        · exact Only.refl _ _

theorem readBy_only (a0 : Master) (a1 : ℕ) (s : State) :
    Only [.recd, .mbx, .host, .ptc] s (readBy a0 a1 s) := by
  unfold readBy
  extract_lets +onlyGivenNames x1
  have h2 : Only [Part.recd, Part.mbx, Part.host, Part.ptc] s x1.2 := by
    subst x1
    exact Only.mono (readAt_only _ _ _) (by decide)
  clear_value x1
  extract_lets +onlyGivenNames x3
  have h4 : Only [Part.recd, Part.mbx, Part.host, Part.ptc] s x3 := by
    subst x3
    exact h2
  clear_value x3
  refine only_upd_host _ (by decide) ?_
  exact h4

theorem execMbxLockRead_only (a0 : Master) (a1 : BitVec 4) (s : State) :
    OnlyNext [.recd, .mbx, .host, .ptc] s (execMbxLockRead a0 a1 s) := by
  unfold execMbxLockRead
  refine OnlyNext.next ?_
  exact Only.mono (readBy_only _ _ _) (by decide)

theorem mbxWrite_only (a0 : Master) (a1 : ℕ) (a2 : Word) (s : State) :
    ∀ t, mbxWrite a0 a1 a2 s = some t → Only [.evm, .recd, .mbx, .pwr] s t := by
  intro t ht
  unfold mbxWrite at ht
  split at ht
  · exact Only.mono (payWrite_only _ _ _ _ _ t ht) (by decide)
  · split at ht
    · exact Only.mono (ctlWrite_only _ _ _ _ t ht) (by decide)
    · cases ht

theorem applyWord_only (a0 : Master) (a1 : ℕ) (a2 : Word) (s : State) :
    ∀ t, applyWord a0 a1 a2 s = some t → Only [.evm, .recd, .mbx, .sec, .pwr, .brs] s t := by
  intro t ht
  have some_ite : ∀ {c : Prop} [Decidable c] {a b : Option State}, (if c then a else b) = some t → a = some t ∨ b = some t := by
    intro c _ a b h
    split at h
    · exact Or.inl h
    · exact Or.inr h
  have mw : ∀ {m o w}, mbxWrite m o w s = some t → Only [.evm, .recd, .mbx, .sec, .pwr, .brs] s t :=
    fun h => Only.mono (mbxWrite_only _ _ _ _ t h) (by decide)
  have sl : ∀ {m w}, some (startLoad m w s) = some t → Only [.evm, .recd, .mbx, .sec, .pwr, .brs] s t := by
    intro m w h; cases h; exact Only.mono (startLoad_only _ _ _) (by decide)
  unfold applyWord at ht
  extract_lets b at ht
  clear_value b
  rcases some_ite ht with h | h
  · cases h
  split at h
  · rcases some_ite h with h | h
    · cases h
    rcases some_ite h with h | h
    · exact mw h
    rcases some_ite h with h | h
    · exact sl h
    · cases h
  · rcases some_ite h with h | h
    · exact mw h
    · cases h
  case' h_8 => cases h
  all_goals
    rcases some_ite h with h | h
    · exact mw h
    rcases some_ite h with h | h
    · cases h; exact Only.mono (clearSticky_only _ _ _) (by decide)
    rcases some_ite h with h | h
    · exact sl h
    rcases some_ite h with h | h
    · rcases some_ite h with h | h
      · cases h; exact Only.mono (authCtl_only _ _) (by decide)
      · cases h
    rcases some_ite h with h | h
    · rcases some_ite h with h | h
      · cases h; exact Only.mono (railCmd_only _ _ _) (by decide)
      · cases h
    · cases h

theorem refuseHsp_only (a0 : ℕ) (s : State) :
    Only [.evm, .recd, .host] s (refuseHsp a0 s) := by
  unfold refuseHsp
  extract_lets +onlyGivenNames x1
  clear_value x1
  extract_lets +onlyGivenNames x2
  have h3 : Only [Part.evm, Part.recd, Part.host] s x2 := by
    subst x2
    refine only_upd_host _ (by decide) ?_
    exact Only.refl _ _
  clear_value x2
  refine Only.ite ?_ ?_
  · refine Only.after (raise_only _ _ _ _ _) (by decide) ?_
    exact h3
  · refine Only.after (raise_only _ _ _ _ _) (by decide) ?_
    exact h3

theorem hspWord_only (a0 : ℕ) (a1 : Word) (s : State) :
    Only [.evm, .recd, .mbx, .host, .sec, .pwr, .brs] s (hspWord a0 a1 s).2 := by
  unfold hspWord
  split
  · rename_i v1 v2 v3
    have h4 : Only [Part.evm, Part.recd, Part.mbx, Part.host, Part.sec, Part.pwr, Part.brs] s v2 := by
      refine Only.after (applyWord_only _ _ _ _ _ v3) (by decide) ?_
      exact Only.refl _ _
    refine Only.snd_mk ?_
    exact h4
  · rename_i v5 v6
    refine Only.snd_mk ?_
    exact Only.mono (refuseHsp_only _ _) (by decide)

theorem hspWords_only (a0 : ℕ) (a1 : List Word) (s : State) :
    Only [.evm, .recd, .mbx, .host, .sec, .pwr, .brs] s (hspWords a0 a1 s).2 := by
  induction a1 generalizing a0 s with
  | nil => exact Only.refl _ _
  | cons w l ih => exact Only.trans (Only.mono (hspWord_only _ _ _) (by decide)) (ih _ _)

theorem hspWriteWords_only (a0 : ℕ) (a1 : List Word) (s : State) :
    Only [.evm, .recd, .mbx, .host, .sec, .pwr, .brs] s (hspWriteWords a0 a1 s) := by
  unfold hspWriteWords
  extract_lets +onlyGivenNames x1
  have h2 : Only [Part.evm, Part.recd, Part.mbx, Part.host, Part.sec, Part.pwr, Part.brs] s x1.2 := by
    subst x1
    exact Only.mono (hspWords_only _ _ _) (by decide)
  clear_value x1
  extract_lets +onlyGivenNames x3
  have h4 : Only [Part.evm, Part.recd, Part.mbx, Part.host, Part.sec, Part.pwr, Part.brs] s x3 := by
    subst x3
    exact h2
  clear_value x3
  refine only_upd_host _ (by decide) ?_
  exact h4

theorem refuseMep_only (a0 : ℕ) (s : State) :
    Only [.evm, .recd, .host, .draws] s (refuseMep a0 s) := by
  unfold refuseMep
  extract_lets +onlyGivenNames x1 x2
  clear_value x1 x2
  extract_lets +onlyGivenNames x3
  have h4 : Only [Part.evm, Part.recd, Part.host, Part.draws] s x3 := by
    subst x3
    refine only_upd_host_draws _ _ (by decide) ?_
    exact Only.refl _ _
  clear_value x3
  refine Only.ite ?_ ?_
  · refine Only.after (raise_only _ _ _ _ _) (by decide) ?_
    exact h4
  · exact h4

theorem readWords_only (a0 : Master) (a1 : ℕ) (a2 : ℕ) (s : State) :
    Only [.recd, .mbx, .ptc] s (readWords a0 a1 a2 s).2 := by
  induction a2 generalizing a1 s with
  | zero => exact Only.refl _ _
  | succ n ih => exact Only.trans (Only.mono (readAt_only _ _ _) (by decide)) (ih _ _)

theorem mepWord_only (a0 : ℕ) (a1 : Word) (s : State) :
    Only [.evm, .recd, .mbx, .host, .sec, .pwr, .brs, .draws] s (mepWord a0 a1 s).2 := by
  unfold mepWord
  split
  · rename_i v1 v2 v3
    have h4 : Only [Part.evm, Part.recd, Part.mbx, Part.host, Part.sec, Part.pwr, Part.brs, Part.draws] s v2 := by
      refine Only.after (applyWord_only _ _ _ _ _ v3) (by decide) ?_
      exact Only.refl _ _
    refine Only.snd_mk ?_
    exact h4
  · rename_i v5 v6
    refine Only.snd_ite ?_ ?_
    · refine Only.snd_mk ?_
      exact Only.mono (refuseMep_only _ _) (by decide)
    · refine Only.snd_mk ?_
      exact Only.refl _ _

theorem dbgAccess_only (a : Nat) (data : Word) (write : Bool) (s : State) :
    Only [.evm, .recd, .mbx, .host, .sec, .pwr, .brs, .ptc] s (dbgAccess a data write s).2.2 := by
  unfold dbgAccess
  split
  · split
    · exact Only.refl _ _
    · split
      · split
        · exact Only.mono (dbgCtl_only _ _) (by decide)
        · exact Only.refl _ _
      · split
        · split
          · exact Only.mono (dbgSwin_only _ _) (by decide)
          · exact Only.refl _ _
        · exact Only.refl _ _
  · split
    · exact Only.refl _ _
    · split
      · exact Only.mono (readAt_only _ _ _) (by decide)
      · split
        · rename_i t ht
          exact Only.mono (applyWord_only _ _ _ _ t ht) (by decide)
        · show Only _ s (if _ then _ else _)
          exact Only.ite (Only.mono (raise_only _ _ _ _ _) (by decide)) (Only.mono (refuseHsp_only _ _) (by decide))

theorem execDbgAcc_only (a0 : Word) (a1 : Word) (a2 : Bool) (a3 : Bool) (s : State) :
    OnlyNext [.evm, .recd, .mbx, .host, .sec, .pwr, .brs, .ptc] s (execDbgAcc a0 a1 a2 a3 s) := by
  unfold execDbgAcc
  refine OnlyNext.ite (OnlyNext.next (Only.refl _ _)) (OnlyNext.next ?_)
  exact Only.after (modSec_only _ _) (by decide) (Only.mono (dbgAccess_only _ _ _ _) (by decide))

theorem writeBy_only (a0 : Master) (a1 : ℕ) (a2 : Word) (s : State) :
    Only [.evm, .recd, .mbx, .host, .sec, .pwr, .brs, .draws] s (writeBy a0 a1 a2 s) := by
  unfold writeBy
  split
  · exact Only.mono (hspWriteWords_only _ _ _) (by decide)
  · refine Only.ite ?_ ?_
    · exact Only.mono (mepWord_only _ _ _) (by decide)
    · exact Only.refl _ _

theorem execRevokeDebug_only (a0 : Master) (s : State) :
    OnlyNext [.evm, .recd, .mbx, .host, .sec, .pwr, .brs, .draws] s (execRevokeDebug a0 s) := by
  unfold execRevokeDebug
  refine OnlyNext.next ?_
  exact Only.mono (writeBy_only _ _ _ _) (by decide)

theorem execCloseHostauth_only (a0 : Master) (s : State) :
    OnlyNext [.evm, .recd, .mbx, .host, .sec, .pwr, .brs, .draws] s (execCloseHostauth a0 s) := by
  unfold execCloseHostauth
  refine OnlyNext.next ?_
  exact Only.mono (writeBy_only _ _ _ _) (by decide)

theorem execEvtStickyClear_only (a0 : Master) (a1 : BitVec 3) (a2 : Word) (s : State) :
    OnlyNext [.evm, .recd, .mbx, .host, .sec, .pwr, .brs, .draws] s (execEvtStickyClear a0 a1 a2 s) := by
  unfold execEvtStickyClear
  refine OnlyNext.next ?_
  exact Only.mono (writeBy_only _ _ _ _) (by decide)

theorem execBrsRailcmd_only (a0 : Master) (a1 : Word) (s : State) :
    OnlyNext [.evm, .recd, .mbx, .host, .sec, .pwr, .brs, .draws] s (execBrsRailcmd a0 a1 s) := by
  unfold execBrsRailcmd
  refine OnlyNext.next ?_
  exact Only.mono (writeBy_only _ _ _ _) (by decide)

theorem execRecWin7Read_only (a0 : Master) (s : State) :
    OnlyNext [.recd, .mbx, .host, .ptc] s (execRecWin7Read a0 s) := by
  unfold execRecWin7Read
  refine OnlyNext.next ?_
  exact Only.mono (readBy_only _ _ _) (by decide)

theorem execRecCursorWrite_only (a0 : Master) (a1 : Word) (s : State) :
    OnlyNext [.evm, .recd, .mbx, .host, .sec, .pwr, .brs, .draws] s (execRecCursorWrite a0 a1 s) := by
  unfold execRecCursorWrite
  refine OnlyNext.next ?_
  exact Only.mono (writeBy_only _ _ _ _) (by decide)

theorem execMbxCtlPost_only (a0 : Master) (a1 : BitVec 4) (s : State) :
    OnlyNext [.evm, .recd, .mbx, .host, .sec, .pwr, .brs, .draws] s (execMbxCtlPost a0 a1 s) := by
  unfold execMbxCtlPost
  refine OnlyNext.next ?_
  exact Only.mono (writeBy_only _ _ _ _) (by decide)

theorem execRegisterWrite_only (a0 : Master) (a1 : Word) (a2 : Word) (s : State) :
    OnlyNext [.evm, .recd, .mbx, .host, .sec, .pwr, .brs, .draws] s (execRegisterWrite a0 a1 a2 s) := by
  unfold execRegisterWrite
  refine OnlyNext.next ?_
  exact Only.mono (writeBy_only _ _ _ _) (by decide)

theorem execMbxCtlRelease_only (a0 : Master) (a1 : BitVec 4) (s : State) :
    OnlyNext [.evm, .recd, .mbx, .host, .sec, .pwr, .brs, .draws] s (execMbxCtlRelease a0 a1 s) := by
  unfold execMbxCtlRelease
  refine OnlyNext.next ?_
  exact Only.mono (writeBy_only _ _ _ _) (by decide)

theorem execPtcNsRead_only (a0 : Master) (s : State) :
    OnlyNext [.recd, .mbx, .host, .ptc] s (execPtcNsRead a0 s) := by
  unfold execPtcNsRead
  refine OnlyNext.next ?_
  exact Only.mono (readBy_only _ _ _) (by decide)

end Sys2Proof.Machine
end

