-- ==== Sys2Proof/Laws/FrameHostif.lean ====
section
/-! SUPPORT. Sys2Proof/Laws/FrameHostif.lean: which parts of the state each operation of Machine/Hostif.lean changes. -/

set_option linter.unusedVariables false

namespace Sys2Proof.Machine

theorem hspBroken_only (a0 : Word) (s : State) :
    Only [.evm, .recd, .host] s (hspBroken a0 s) := by
  unfold hspBroken
  refine Only.after (raise_only _ _ _ _ _) (by decide) ?_
  refine only_upd_host _ (by decide) ?_
  exact Only.refl _ _

theorem execHspWrite_only (a0 : Word) (a1 : BitVec 8) (a2 : List (BitVec 32)) (a3 : BitVec 16) (s : State) :
    OnlyNext [.evm, .recd, .mbx, .host, .sec, .pwr, .brs] s (execHspWrite a0 a1 a2 a3 s) := by
  unfold execHspWrite
  refine OnlyNext.ite ?_ ?_
  · refine OnlyNext.next ?_
    exact Only.mono (hspBroken_only _ _) (by decide)
  · refine OnlyNext.ite ?_ ?_
    · refine OnlyNext.next ?_
      refine Only.after (raise_only _ _ _ _ _) (by decide) ?_
      refine only_upd_host _ (by decide) ?_
      exact Only.refl _ _
    · refine OnlyNext.next ?_
      exact Only.mono (hspWriteWords_only _ _ _) (by decide)

theorem execHspRead_only (a0 : Word) (a1 : BitVec 8) (s : State) :
    OnlyNext [.evm, .recd, .mbx, .host, .ptc] s (execHspRead a0 a1 s) := by
  unfold execHspRead
  refine OnlyNext.ite ?_ ?_
  · refine OnlyNext.next ?_
    exact Only.mono (hspBroken_only _ _) (by decide)
  · extract_lets +onlyGivenNames x1
    have h2 : Only [Part.evm, Part.recd, Part.mbx, Part.host, Part.ptc] s x1.2 := by
      subst x1
      exact Only.mono (readWords_only _ _ _ _) (by decide)
    clear_value x1
    extract_lets +onlyGivenNames x3
    clear_value x3
    refine OnlyNext.next ?_
    extract_lets +onlyGivenNames x4
    have h5 : Only [Part.evm, Part.recd, Part.mbx, Part.host, Part.ptc] s x4 := by
      subst x4
      exact h2
    clear_value x4
    refine only_upd_host _ (by decide) ?_
    exact h5

theorem mepItem_only (a0 : Byte) (a1 : Byte) (a2 : ℕ) (a3 : List Byte) (s : State) :
    Only [.evm, .recd, .mbx, .host, .sec, .pwr, .brs, .draws, .ptc] s (mepItem a0 a1 a2 a3 s).2 := by
  unfold mepItem
  extract_lets +onlyGivenNames x1 x2
  clear_value x1 x2
  refine Only.snd_ite ?_ ?_
  · extract_lets +onlyGivenNames x3
    clear_value x3
    extract_lets +onlyGivenNames x4
    have h5 : Only [Part.evm, Part.recd, Part.mbx, Part.host, Part.sec, Part.pwr, Part.brs, Part.draws, Part.ptc] s x4.2 := by
      subst x4
      exact Only.mono (readWords_only _ _ _ _) (by decide)
    clear_value x4
    refine Only.snd_mk ?_
    exact h5
  · extract_lets +onlyGivenNames x6
    have h7 : Only [Part.evm, Part.recd, Part.mbx, Part.host, Part.sec, Part.pwr, Part.brs, Part.draws, Part.ptc] s x6.2 := by
      subst x6
      refine Only.foldl_snd _ _ _ (fun u8 y h9 => ?_) ?_
      · extract_lets +onlyGivenNames x10
        have h11 : Only [Part.evm, Part.recd, Part.mbx, Part.host, Part.sec, Part.pwr, Part.brs, Part.draws, Part.ptc] s x10.2 := by
          subst x10
          refine Only.after (mepWord_only _ _ _) (by decide) ?_
          exact h9
        clear_value x10
        refine Only.snd_mk ?_
        exact h11
      · refine Only.snd_mk ?_
        exact Only.refl _ _
    clear_value x6
    refine Only.snd_mk ?_
    exact h7

theorem execHspResetMaster_only (a0 : BitVec 8) (s : State) :
    OnlyNext [.evm, .recd, .mbx, .host, .sec, .draws] s (execHspResetMaster a0 s) := by
  unfold execHspResetMaster
  refine OnlyNext.ite ?_ ?_
  · refine OnlyNext.next ?_
    exact Only.mono (masterReset_only _ _) (by decide)
  · refine OnlyNext.next ?_
    refine Only.after (hspBroken_only _ _) (by decide) ?_
    refine only_upd_draws _ (by decide) ?_
    exact Only.refl _ _

theorem execHspStatus_only (s : State) :
    OnlyNext [.host] s (execHspStatus s) := by
  unfold execHspStatus
  extract_lets +onlyGivenNames x1
  clear_value x1
  refine OnlyNext.next ?_
  refine only_upd_host _ (by decide) ?_
  exact Only.refl _ _

theorem mepDrop_only (s : State) :
    Only [.host] s (mepDrop s) := by
  unfold mepDrop
  refine only_upd_host _ (by decide) ?_
  exact Only.refl _ _

theorem mepFail_only (a0 : Bool) (a1 : MepFrame) (a2 : ℕ) (s : State) :
    Only [.evm, .recd, .host] s (mepFail a0 a1 a2 s) := by
  unfold mepFail
  refine Only.after (raise_only _ _ _ _ _) (by decide) ?_
  exact Only.mono (mepDrop_only _) (by decide)

theorem mepAdmit_only (a0 : Bool) (s : State) :
    Only [.evm, .recd, .ports] s (mepAdmit a0 s).2 := by
  unfold mepAdmit
  refine Only.snd_ite ?_ ?_
  · exact Only.mono (ethAdmit_only _ _) (by decide)
  · refine Only.snd_mk ?_
    exact Only.refl _ _

theorem execMepNonceQuery_only (a0 : Bool) (a1 : BitVec 48) (s : State) :
    OnlyNext [.evm, .recd, .host, .ports] s (execMepNonceQuery a0 a1 s) := by
  unfold execMepNonceQuery
  extract_lets +onlyGivenNames x1
  have h2 : Only [Part.evm, Part.recd, Part.host, Part.ports] s x1.2 := by
    subst x1
    exact Only.mono (mepAdmit_only _ _) (by decide)
  clear_value x1
  split
  · refine OnlyNext.next ?_
    exact Only.refl _ _
  · refine OnlyNext.next ?_
    exact h2
  · refine OnlyNext.next ?_
    refine Only.after (mepDrop_only _) (by decide) ?_
    exact h2
  · extract_lets +onlyGivenNames x3
    have h4 : Only [Part.evm, Part.recd, Part.host, Part.ports] s x3 := by
      subst x3
      exact h2
    clear_value x3
    refine OnlyNext.next ?_
    refine only_upd_host _ (by decide) ?_
    exact h4

theorem mepItems_only (a0 : ℕ) (a1 : ℕ) (a2 : List Byte) (s : State) :
    Only [.evm, .recd, .mbx, .host, .sec, .pwr, .brs, .draws, .ptc] s (mepItems a0 a1 a2 s).2 := by
  induction a0 generalizing a1 a2 s with
  | zero => exact Only.refl _ _
  | succ n ih =>
    unfold mepItems
    refine Only.snd_ite ?_ (Only.refl _ _)
    exact Only.trans (Only.mono (mepItem_only _ _ _ _ _) (by decide)) (ih _ _ _)

theorem execMepRequest_only (a0 : Bool) (a1 : MepFrame) (s : State) :
    OnlyNext [.evm, .recd, .mbx, .host, .sec, .pwr, .brs, .draws, .ptc, .ports] s (execMepRequest a0 a1 s) := by
  unfold execMepRequest
  extract_lets +onlyGivenNames x1
  have h2 : Only [Part.evm, Part.recd, Part.mbx, Part.host, Part.sec, Part.pwr, Part.brs, Part.draws, Part.ptc, Part.ports] s x1.2 := by
    subst x1
    exact Only.mono (mepAdmit_only _ _) (by decide)
  clear_value x1
  split
  · refine OnlyNext.next ?_
    exact Only.refl _ _
  · refine OnlyNext.next ?_
    exact h2
  · extract_lets +onlyGivenNames x3
    have h4 : Only [Part.evm, Part.recd, Part.mbx, Part.host, Part.sec, Part.pwr, Part.brs, Part.draws, Part.ptc, Part.ports] s x3 := by
      subst x3
      exact h2
    clear_value x3
    extract_lets +onlyGivenNames x5 x6
    clear_value x5 x6
    refine OnlyNext.ite ?_ ?_
    · refine OnlyNext.next ?_
      refine Only.after (mepFail_only _ _ _ _) (by decide) ?_
      exact h4
    · refine OnlyNext.ite ?_ ?_
      · refine OnlyNext.next ?_
        refine Only.after (mepFail_only _ _ _ _) (by decide) ?_
        exact h4
      · refine OnlyNext.ite ?_ ?_
        · refine OnlyNext.next ?_
          refine Only.after (raise_only _ _ _ _ _) (by decide) ?_
          refine only_upd_host _ (by decide) ?_
          exact h4
        · refine OnlyNext.ite ?_ ?_
          · refine OnlyNext.next ?_
            refine Only.after (mepFail_only _ _ _ _) (by decide) ?_
            exact h4
          · extract_lets +onlyGivenNames x7
            clear_value x7
            extract_lets +onlyGivenNames x8
            have h9 : Only [Part.evm, Part.recd, Part.mbx, Part.host, Part.sec, Part.pwr, Part.brs, Part.draws, Part.ptc, Part.ports] s x8 := by
              subst x8
              refine only_upd_host _ (by decide) ?_
              exact h4
            clear_value x8
            extract_lets +onlyGivenNames x10
            have h11 : Only [Part.evm, Part.recd, Part.mbx, Part.host, Part.sec, Part.pwr, Part.brs, Part.draws, Part.ptc, Part.ports] s x10 := by
              subst x10
              refine Only.ite ?_ ?_
              · refine Only.after (masterReset_only _ _) (by decide) ?_
                exact h9
              · exact h9
            clear_value x10
            extract_lets +onlyGivenNames x12
            clear_value x12
            extract_lets +onlyGivenNames x13
            have h14 : Only [Part.evm, Part.recd, Part.mbx, Part.host, Part.sec, Part.pwr, Part.brs, Part.draws, Part.ptc, Part.ports] s x13.2 := by
              subst x13
              refine Only.after (mepItems_only _ _ _ _) (by decide) ?_
              exact h11
            clear_value x13
            extract_lets +onlyGivenNames x15 x16 x17 x18
            clear_value x15 x16 x17 x18
            refine OnlyNext.next ?_
            extract_lets +onlyGivenNames x19
            have h20 : Only [Part.evm, Part.recd, Part.mbx, Part.host, Part.sec, Part.pwr, Part.brs, Part.draws, Part.ptc, Part.ports] s x19 := by
              subst x19
              exact h14
            clear_value x19
            refine only_upd_host _ (by decide) ?_
            exact h20
  · refine OnlyNext.next ?_
    refine Only.after (mepDrop_only _) (by decide) ?_
    exact h2

theorem execHspFrameError_only (a0 : Option (BitVec 32)) (s : State) :
    OnlyNext [.evm, .recd, .host, .draws] s (execHspFrameError a0 s) := by
  unfold execHspFrameError
  split
  · refine OnlyNext.next ?_
    exact Only.mono (hspBroken_only _ _) (by decide)
  · refine OnlyNext.next ?_
    refine Only.after (hspBroken_only _ _) (by decide) ?_
    refine only_upd_draws _ (by decide) ?_
    exact Only.refl _ _

end Sys2Proof.Machine
end

