-- ==== Sys2Proof/Laws/FrameNavSolve.lean ====
section
/-! SUPPORT. Sys2Proof/Laws/FrameNavSolve.lean: which parts of the state each operation of Machine/NavSolve.lean changes. -/

set_option linter.unusedVariables false

namespace Sys2Proof.Machine

theorem hdgWrite_only (a0 : Option (List ℚ)) (a1 : ℕ) (a2 : Bool) (s : State) :
    Only [.sdir, .evm, .recd, .nav] s (hdgWrite a0 a1 a2 s) := by
  unfold hdgWrite
  extract_lets +onlyGivenNames x1 x2 x3
  clear_value x1 x2 x3
  extract_lets +onlyGivenNames x4
  have h5 : Only [Part.sdir, Part.evm, Part.recd, Part.nav] s x4 := by
    subst x4
    split
    · extract_lets +onlyGivenNames x6 x7
      clear_value x6 x7
      extract_lets +onlyGivenNames x8
      have h9 : Only [Part.sdir, Part.evm, Part.recd, Part.nav] s x8 := by
        subst x8
        exact Only.mono (modNav_only _ _) (by decide)
      clear_value x8
      extract_lets +onlyGivenNames x10
      have h11 : Only [Part.sdir, Part.evm, Part.recd, Part.nav] s x10 := by
        subst x10
        refine Only.after (writeSig_only _ _ _ _ _) (by decide) ?_
        exact h9
      clear_value x10
      extract_lets +onlyGivenNames x12
      have h13 : Only [Part.sdir, Part.evm, Part.recd, Part.nav] s x12 := by
        subst x12
        refine Only.after (writeSig_only _ _ _ _ _) (by decide) ?_
        exact h11
      clear_value x12
      extract_lets +onlyGivenNames x14
      have h15 : Only [Part.sdir, Part.evm, Part.recd, Part.nav] s x14 := by
        subst x14
        refine Only.after (writeSig_only _ _ _ _ _) (by decide) ?_
        exact h13
      clear_value x14
      refine Only.after (writeNum_only _ _ _ _ _) (by decide) ?_
      exact h15
    · exact Only.refl _ _
  clear_value x4
  extract_lets +onlyGivenNames x16
  have h17 : Only [Part.sdir, Part.evm, Part.recd, Part.nav] s x16 := by
    subst x16
    refine Only.after (writeSig_only _ _ _ _ _) (by decide) ?_
    exact h5
  clear_value x16
  refine Only.after (writeNum_only _ _ _ _ _) (by decide) ?_
  exact h17

theorem hdgLose_only (a0 : ℕ) (s : State) :
    Only [.evm, .recd, .nav] s (hdgLose a0 s) := by
  unfold hdgLose
  refine Only.after (raise_only _ _ _ _ _) (by decide) ?_
  exact Only.mono (modNav_only _ _) (by decide)

theorem hdgSolveEffect_only (s : State) :
    Only [.sdir, .evm, .recd, .nav] s (hdgSolveEffect s) := by
  unfold hdgSolveEffect
  extract_lets +onlyGivenNames x1 x2
  clear_value x1 x2
  split
  · refine Only.after (hdgWrite_only _ _ _ _) (by decide) ?_
    refine Only.ite ?_ ?_
    · exact Only.mono (hdgLose_only _ _) (by decide)
    · exact Only.refl _ _
  · extract_lets +onlyGivenNames x3
    clear_value x3
    refine Only.ite ?_ ?_
    · refine Only.ite ?_ ?_
      · refine Only.after (hdgWrite_only _ _ _ _) (by decide) ?_
        exact Only.mono (hdgLose_only _ _) (by decide)
      · extract_lets +onlyGivenNames x4 x5 x6
        clear_value x4 x5 x6
        split
        · refine Only.after (hdgWrite_only _ _ _ _) (by decide) ?_
          exact Only.mono (hdgLose_only _ _) (by decide)
        · extract_lets +onlyGivenNames x7 x8
          clear_value x7 x8
          refine Only.ite ?_ ?_
          · refine Only.after (hdgWrite_only _ _ _ _) (by decide) ?_
            exact Only.mono (hdgLose_only _ _) (by decide)
          · extract_lets +onlyGivenNames x9
            clear_value x9
            refine Only.after (hdgWrite_only _ _ _ _) (by decide) ?_
            exact Only.mono (modNav_only _ _) (by decide)
    · refine Only.ite ?_ ?_
      · exact Only.mono (hdgWrite_only _ _ _ _) (by decide)
      · extract_lets +onlyGivenNames x10
        clear_value x10
        split
        · exact Only.mono (hdgWrite_only _ _ _ _) (by decide)
        · extract_lets +onlyGivenNames x11 x12 x13 x14
          clear_value x11 x12 x13 x14
          refine Only.ite ?_ ?_
          · extract_lets +onlyGivenNames x15
            have h16 : Only [Part.sdir, Part.evm, Part.recd, Part.nav] s x15 := by
              subst x15
              refine Only.after (hdgWrite_only _ _ _ _) (by decide) ?_
              exact Only.mono (modNav_only _ _) (by decide)
            clear_value x15
            refine Only.after (raise_only _ _ _ _ _) (by decide) ?_
            exact h16
          · exact Only.mono (hdgWrite_only _ _ _ _) (by decide)

theorem gnssMeasure_only (s : State) :
    Only [.seq, .evm, .recd, .ptc] s (gnssMeasure s) := by
  unfold gnssMeasure
  split
  · exact Only.refl _ _
  · extract_lets +onlyGivenNames x1 x2
    clear_value x1 x2
    extract_lets +onlyGivenNames x3
    have h4 : Only [Part.seq, Part.evm, Part.recd, Part.ptc] s x3 := by
      subst x3
      exact Only.mono (setSrcValid_only _ _ _) (by decide)
    clear_value x3
    split
    · refine Only.ite ?_ ?_
      · refine Only.after (measure_only _ _ _) (by decide) ?_
        exact h4
      · exact h4
    · exact h4

theorem pvtSolveEffect_only (s : State) :
    Only [.sdir, .evm, .recd, .nav] s (pvtSolveEffect s) := by
  unfold pvtSolveEffect
  extract_lets +onlyGivenNames x1 x2 x3 x4 x5 x6 x7 x8 x9 x10
  clear_value x1 x2 x3 x4 x5 x6 x7 x8 x9 x10
  split
  · extract_lets +onlyGivenNames x11
    have h12 : Only [Part.sdir, Part.evm, Part.recd, Part.nav] s x11 := by
      subst x11
      exact Only.mono (modNav_only _ _) (by decide)
    clear_value x11
    extract_lets +onlyGivenNames x13
    have h14 : Only [Part.sdir, Part.evm, Part.recd, Part.nav] s x13 := by
      subst x13
      refine Only.foldl _ _ _ (fun u15 y h16 => ?_) ?_
      · refine Only.after (writeNum_only _ _ _ _ _) (by decide) ?_
        exact h16
      · exact h12
    clear_value x13
    extract_lets +onlyGivenNames x17
    have h18 : Only [Part.sdir, Part.evm, Part.recd, Part.nav] s x17 := by
      subst x17
      refine Only.after (writeNum_only _ _ _ _ _) (by decide) ?_
      exact h14
    clear_value x17
    refine Only.after (writeNum_only _ _ _ _ _) (by decide) ?_
    refine Only.after (writeNum_only _ _ _ _ _) (by decide) ?_
    refine Only.after (writeNum_only _ _ _ _ _) (by decide) ?_
    exact h18
  · extract_lets +onlyGivenNames x19 x20 x21 x22 x23 x24 x25 x26 x27 x28 x29 x30 x31 x32 x33 x34 x35 x36 x37 x38
    clear_value x19 x20 x21 x22 x23 x24 x25 x26 x27 x28 x29 x30 x31 x32 x33 x34 x35 x36 x37 x38
    extract_lets +onlyGivenNames x39
    have h40 : Only [Part.sdir, Part.evm, Part.recd, Part.nav] s x39 := by
      subst x39
      exact Only.mono (modNav_only _ _) (by decide)
    clear_value x39
    extract_lets +onlyGivenNames x41
    have h42 : Only [Part.sdir, Part.evm, Part.recd, Part.nav] s x41 := by
      subst x41
      refine Only.after (writeNum_only _ _ _ _ _) (by decide) ?_
      exact h40
    clear_value x41
    extract_lets +onlyGivenNames x43
    have h44 : Only [Part.sdir, Part.evm, Part.recd, Part.nav] s x43 := by
      subst x43
      refine Only.after (writeNum_only _ _ _ _ _) (by decide) ?_
      exact h42
    clear_value x43
    extract_lets +onlyGivenNames x45
    have h46 : Only [Part.sdir, Part.evm, Part.recd, Part.nav] s x45 := by
      subst x45
      refine Only.after (writeNum_only _ _ _ _ _) (by decide) ?_
      exact h44
    clear_value x45
    extract_lets +onlyGivenNames x47
    have h48 : Only [Part.sdir, Part.evm, Part.recd, Part.nav] s x47 := by
      subst x47
      refine Only.after (writeNum_only _ _ _ _ _) (by decide) ?_
      exact h46
    clear_value x47
    extract_lets +onlyGivenNames x49
    have h50 : Only [Part.sdir, Part.evm, Part.recd, Part.nav] s x49 := by
      subst x49
      refine Only.after (writeNum_only _ _ _ _ _) (by decide) ?_
      exact h48
    clear_value x49
    extract_lets +onlyGivenNames x51
    have h52 : Only [Part.sdir, Part.evm, Part.recd, Part.nav] s x51 := by
      subst x51
      refine Only.after (writeNum_only _ _ _ _ _) (by decide) ?_
      exact h50
    clear_value x51
    extract_lets +onlyGivenNames x53
    have h54 : Only [Part.sdir, Part.evm, Part.recd, Part.nav] s x53 := by
      subst x53
      refine Only.after (writeNum_only _ _ _ _ _) (by decide) ?_
      exact h52
    clear_value x53
    extract_lets +onlyGivenNames x55
    have h56 : Only [Part.sdir, Part.evm, Part.recd, Part.nav] s x55 := by
      subst x55
      refine Only.after (writeNum_only _ _ _ _ _) (by decide) ?_
      exact h54
    clear_value x55
    extract_lets +onlyGivenNames x57
    have h58 : Only [Part.sdir, Part.evm, Part.recd, Part.nav] s x57 := by
      subst x57
      refine Only.after (writeNum_only _ _ _ _ _) (by decide) ?_
      exact h56
    clear_value x57
    refine Only.after (writeNum_only _ _ _ _ _) (by decide) ?_
    exact h58

theorem pvtOutEffect_only (s : State) :
    Only [.seq, .sdir, .evm, .recd, .ptc, .nav] s (pvtOutEffect s) := by
  unfold pvtOutEffect
  extract_lets +onlyGivenNames x1 x2 x3 x4 x5
  clear_value x1 x2 x3 x4 x5
  extract_lets +onlyGivenNames x6
  have h7 : Only [Part.seq, Part.sdir, Part.evm, Part.recd, Part.ptc, Part.nav] s x6 := by
    subst x6
    exact Only.mono (modNav_only _ _) (by decide)
  clear_value x6
  extract_lets +onlyGivenNames x8
  have h9 : Only [Part.seq, Part.sdir, Part.evm, Part.recd, Part.ptc, Part.nav] s x8 := by
    subst x8
    split
    · extract_lets +onlyGivenNames x10
      clear_value x10
      refine Only.after (writeNum_only _ _ _ _ _) (by decide) ?_
      refine Only.after (writeSig_only _ _ _ _ _) (by decide) ?_
      refine Only.after (writeSig_only _ _ _ _ _) (by decide) ?_
      exact h7
    · exact h7
  clear_value x8
  extract_lets +onlyGivenNames x11
  have h12 : Only [Part.seq, Part.sdir, Part.evm, Part.recd, Part.ptc, Part.nav] s x11 := by
    subst x11
    refine Only.after (writeSig_only _ _ _ _ _) (by decide) ?_
    exact h9
  clear_value x11
  extract_lets +onlyGivenNames x13
  have h14 : Only [Part.seq, Part.sdir, Part.evm, Part.recd, Part.ptc, Part.nav] s x13 := by
    subst x13
    refine Only.after (writeSig_only _ _ _ _ _) (by decide) ?_
    exact h12
  clear_value x13
  refine Only.after (gnssMeasure_only _) (by decide) ?_
  refine Only.after (writeSig_only _ _ _ _ _) (by decide) ?_
  exact h14

theorem execNavBootstrapEpoch_only (a0 : NavSamples) (s : State) :
    OnlyNext [.seq, .sdir, .lbus, .evm, .recd, .ptc, .nav] s (execNavBootstrapEpoch a0 s) := by
  unfold execNavBootstrapEpoch
  refine OnlyNext.ite ?_ ?_
  · extract_lets +onlyGivenNames x1
    have h2 : Only [Part.seq, Part.sdir, Part.lbus, Part.evm, Part.recd, Part.ptc, Part.nav] s x1 := by
      subst x1
      refine Only.after (wakeBank_only _) (by decide) ?_
      exact Only.mono (modNav_only _ _) (by decide)
    clear_value x1
    extract_lets +onlyGivenNames x3
    clear_value x3
    extract_lets +onlyGivenNames x4
    have h5 : Only [Part.seq, Part.sdir, Part.lbus, Part.evm, Part.recd, Part.ptc, Part.nav] s x4 := by
      subst x4
      refine Only.after (epochDone_only _ _ _) (by decide) ?_
      exact h2
    clear_value x4
    extract_lets +onlyGivenNames x6
    subst x6
    beta_reduce
    extract_lets +onlyGivenNames x7
    have h8 : Only [Part.seq, Part.sdir, Part.lbus, Part.evm, Part.recd, Part.ptc, Part.nav] s x7 := by
      subst x7
      refine Only.after (pvtSolveEffect_only _) (by decide) ?_
      refine Only.foldl _ _ _ (fun u9 y h10 => ?_) ?_
      · refine Only.ite ?_ ?_
        · extract_lets +onlyGivenNames x11
          clear_value x11
          split
          · extract_lets +onlyGivenNames x12
            have h13 : Only [Part.seq, Part.sdir, Part.lbus, Part.evm, Part.recd, Part.ptc, Part.nav] s x12 := by
              subst x12
              refine Only.after (setLbu_only _ _ _) (by decide) ?_
              exact h10
            clear_value x12
            refine Only.after (landList_only _ _ _ _) (by decide) ?_
            exact h13
          · exact h10
        · exact h10
      · exact h5
    clear_value x7
    extract_lets +onlyGivenNames x14 x15
    clear_value x14 x15
    extract_lets +onlyGivenNames x16
    have h17 : Only [Part.seq, Part.sdir, Part.lbus, Part.evm, Part.recd, Part.ptc, Part.nav] s x16 := by
      subst x16
      refine Only.after (clockCheck_only _ _) (by decide) ?_
      exact h8
    clear_value x16
    extract_lets +onlyGivenNames x18
    have h19 : Only [Part.seq, Part.sdir, Part.lbus, Part.evm, Part.recd, Part.ptc, Part.nav] s x18 := by
      subst x18
      refine Only.after (landFrom_only _ _ _ _ _) (by decide) ?_
      exact h17
    clear_value x18
    refine OnlyNext.next ?_
    refine Only.after (pvtOutEffect_only _) (by decide) ?_
    refine Only.foldl _ _ _ (fun u20 y h21 => ?_) ?_
    · refine Only.ite ?_ ?_
      · extract_lets +onlyGivenNames x22
        clear_value x22
        split
        · extract_lets +onlyGivenNames x23
          have h24 : Only [Part.seq, Part.sdir, Part.lbus, Part.evm, Part.recd, Part.ptc, Part.nav] s x23 := by
            subst x23
            refine Only.after (setLbu_only _ _ _) (by decide) ?_
            exact h21
          clear_value x23
          refine Only.after (landList_only _ _ _ _) (by decide) ?_
          exact h24
        · exact h21
      · exact h21
    · exact h19
  · refine OnlyNext.next ?_
    exact Only.refl _ _

theorem execHdgSolve_only (s : State) :
    OnlyNext [.boot, .seq, .cck, .sdir, .evm, .recd, .sec, .nav] s (execHdgSolve s) := by
  unfold execHdgSolve
  refine issue_only _ _ _ _ _ (by decide) ?_
  exact Only.mono (hdgSolveEffect_only _) (by decide)

theorem execPvtSolve_only (s : State) :
    OnlyNext [.boot, .seq, .cck, .sdir, .evm, .recd, .sec, .nav] s (execPvtSolve s) := by
  unfold execPvtSolve
  refine issue_only _ _ _ _ _ (by decide) ?_
  exact Only.mono (pvtSolveEffect_only _) (by decide)

theorem execPvtOut_only (s : State) :
    OnlyNext [.boot, .seq, .cck, .sdir, .evm, .recd, .sec, .ptc, .nav] s (execPvtOut s) := by
  unfold execPvtOut
  refine issue_only _ _ _ _ _ (by decide) ?_
  exact Only.mono (pvtOutEffect_only _) (by decide)

end Sys2Proof.Machine
end

