-- ==== Sys2Proof/Laws/FrameTick.lean ====
section
/-! SUPPORT. Sys2Proof/Laws/FrameTick.lean: which parts of the state each operation of Machine/Tick.lean changes. -/

set_option linter.unusedVariables false

namespace Sys2Proof.Machine

theorem gateFree_only (s : State) :
    Only [.pwr] s (gateFree s) := by
  unfold gateFree
  refine Only.ite ?_ ?_
  · exact Only.refl _ _
  · extract_lets +onlyGivenNames x1
    clear_value x1
    refine only_upd_pwr _ (by decide) ?_
    exact Only.refl _ _

theorem putFront_only (a0 : Option Instr) (s : State) :
    Only [.pending] s (putFront a0 s) := by
  unfold putFront
  split
  · refine only_upd_pending _ (by decide) ?_
    exact Only.refl _ _
  · exact Only.refl _ _

theorem frameTick_only (s : State) :
    Only [.pending, .boot, .cclk, .seq, .cck, .sdir, .evm, .recd, .sec, .pwr, .draws, .ptc, .cal] s (frameTick s) := by
  unfold frameTick
  refine Only.ite ?_ ?_
  · refine only_upd_pending _ (by decide) ?_
    exact Only.refl _ _
  · extract_lets +onlyGivenNames x1
    have h2 : Only [Part.pending, Part.boot, Part.cclk, Part.seq, Part.cck, Part.sdir, Part.evm, Part.recd, Part.sec, Part.pwr, Part.draws, Part.ptc, Part.cal] s x1 := by
      subst x1
      refine Only.after (elapse_only _ _) (by decide) ?_
      exact Only.mono (gateFree_only _) (by decide)
    extract_lets +onlyGivenNames x3
    clear_value x3
    extract_lets +onlyGivenNames x4
    have h5 : Only [Part.pending, Part.boot, Part.cclk, Part.seq, Part.cck, Part.sdir, Part.evm, Part.recd, Part.sec, Part.pwr, Part.draws, Part.ptc, Part.cal] s x4 := by
      subst x4
      refine only_upd_seq _ (by decide) ?_
      exact h2
    extract_lets +onlyGivenNames x6
    have h7 : Only [Part.pending, Part.boot, Part.cclk, Part.seq, Part.cck, Part.sdir, Part.evm, Part.recd, Part.sec, Part.pwr, Part.draws, Part.ptc, Part.cal] s x6 := by
      subst x6
      refine Only.ite ?_ ?_
      · refine Only.after (slackCheck_only _) (by decide) ?_
        exact h5
      · exact h5
    clear_value x6
    refine only_upd_pending _ (by decide) ?_
    exact h7

theorem idle_only (s : State) :
    Only [.pending, .boot, .cclk, .seq, .cck, .sdir, .evm, .recd, .sec, .pwr, .draws, .ptc, .cal, .nav, .flight] s (idle s) := by
  unfold idle
  extract_lets +onlyGivenNames x1
  have h2 : Only [Part.pending, Part.boot, Part.cclk, Part.seq, Part.cck, Part.sdir, Part.evm, Part.recd, Part.sec, Part.pwr, Part.draws, Part.ptc, Part.cal, Part.nav, Part.flight] s x1 := by
    subst x1
    exact Only.mono (navArrivals_only _) (by decide)
  clear_value x1
  split
  · refine only_upd_pending _ (by decide) ?_
    exact h2
  · refine Only.after (issueLane_only _ _) (by decide) ?_
    exact h2
  · refine Only.ite ?_ ?_
    · refine Only.after (openBundle_only _) (by decide) ?_
      exact h2
    · split
      · refine only_upd_pending _ (by decide) ?_
        exact h2
      · refine Only.ite ?_ ?_
        · refine Only.after (frameTick_only _) (by decide) ?_
          exact h2
        · refine Only.after (elapse_only _ _) (by decide) ?_
          exact h2

end Sys2Proof.Machine
end

