-- ==== Sys2Proof/Laws/Mem.lean ====
section
/-! SUPPORT. Sys2Proof/Laws/Mem.lean: what the operations on tables and byte memories do, and that they keep the canonical form. -/

namespace Sys2Proof.Machine

theorem tabove_mono {α : Type} {a b : Nat} {t : Tab α} (h : tabove b t) (hab : a ≤ b) : tabove a t := by
  cases t with
  | nil => trivial
  | cons x t => exact Nat.lt_of_le_of_lt hab h

/-- A key at or below the bound of a table is not listed in it. -/
theorem tget_above {α : Type} {d : α} {t : Tab α} {b k : Nat} (h : tabove b t) (hw : twf d t) (hk : k ≤ b) : tget d t k = d := by
  induction t generalizing b with
  | nil => rfl
  | cons x t ih =>
    have hb : b < x.1 := h
    have hne : k ≠ x.1 := by omega
    simp only [tget, if_neg hne]
    exact ih hw.2.1 hw.2.2 (by omega)

theorem tabove_tset {α : Type} [DecidableEq α] {d : α} {t : Tab α} {b k : Nat} {v : α} (h : tabove b t) (hw : twf d t) (hk : b < k) :
    tabove b (tset d t k v) := by
  cases t with
  | nil => simp only [tset]; split <;> simp_all [tabove]
  | cons x t =>
    have hb : b < x.1 := h
    simp only [tset]
    split
    · split
      · exact hb
      · exact hk
    · split
      · split
        · exact tabove_mono hw.2.1 (Nat.le_of_lt hb)
        · exact hk
      · exact hb

/-- A write keeps the canonical form of a table. -/
theorem twf_tset {α : Type} [DecidableEq α] {d : α} {t : Tab α} (k : Nat) (v : α) (hw : twf d t) : twf d (tset d t k v) := by
  induction t with
  | nil =>
    simp only [tset]
    split
    · trivial
    · exact ⟨by assumption, trivial, trivial⟩
  | cons x t ih =>
    obtain ⟨hv, ha, ht⟩ := hw
    simp only [tset]
    split
    · split
      · exact ⟨hv, ha, ht⟩
      · exact ⟨by assumption, by assumption, hv, ha, ht⟩
    · rename_i hlt
      split
      · rename_i heq
        split
        · exact ht
        · exact ⟨by assumption, heq ▸ ha, ht⟩
      · exact ⟨hv, tabove_tset ha ht (by omega), ih ht⟩

/-- A read of the key just written gives the value written. -/
theorem tget_tset_self {α : Type} [DecidableEq α] {d : α} {t : Tab α} (k : Nat) (v : α) (hw : twf d t) : tget d (tset d t k v) k = v := by
  induction t with
  | nil =>
    simp only [tset]
    split
    · simp_all [tget]
    · simp [tget]
  | cons x t ih =>
    obtain ⟨hv, ha, ht⟩ := hw
    simp only [tset]
    split
    · rename_i hlt
      split
      · rename_i hd
        have hne : k ≠ x.1 := by omega
        simp only [tget, if_neg hne]
        rw [tget_above ha ht (by omega), hd]
      · simp [tget]
    · split
      · rename_i heq
        split
        · rename_i hd
          rw [tget_above ha ht (by omega), hd]
        · simp [tget]
      · rename_i hne
        simp only [tget, if_neg hne]
        exact ih ht

/-- A value that is not what an unlisted key reads as is read back, whatever the table's form. -/
theorem tget_tset_val {α : Type} [DecidableEq α] {d v : α} (t : Tab α) (k : Nat) (h : v ≠ d) : tget d (tset d t k v) k = v := by
  induction t with
  | nil => simp [tset, tget, h]
  | cons x t ih =>
    obtain ⟨k', v'⟩ := x
    simp only [tset, h, if_false]
    split
    · simp [tget]
    · split
      · simp [tget]
      · simp_all [tget]

/-- A write leaves every other key alone. -/
theorem tget_tset_of_ne {α : Type} [DecidableEq α] {d : α} (t : Tab α) {k j : Nat} (v : α) (h : j ≠ k) : tget d (tset d t k v) j = tget d t j := by
  induction t with
  | nil => simp only [tset]; split <;> simp [tget, h]
  | cons x t ih =>
    simp only [tset]
    split
    · split
      · rfl
      · simp [tget, h]
    · split
      · rename_i heq
        have hx : j ≠ x.1 := by omega
        split
        · simp [tget, hx]
        · simp [tget, h, hx]
      · by_cases hj : j = x.1
        · simp [tget, hj]
        · simp [tget, hj, ih]

/-- The checked form of the canonical form says the same. -/
theorem Memory.wf_iff (d : Byte) (m : Mem) : Memory.wf d m = true ↔ twf d m := by
  induction m with
  | nil => simp [Memory.wf, twf]
  | cons x t ih =>
    simp only [Memory.wf, twf, Bool.and_eq_true, bne_iff_ne, ne_eq, ih, and_assoc]
    cases t with
    | nil => simp [tabove]
    | cons y t => simp [tabove]

/-- Writing one byte keeps the canonical form. -/
theorem Memory.wf_set (d : Byte) (m : Mem) (a : Nat) (b : Byte) (h : Memory.wf d m = true) : Memory.wf d (tset d m a b) = true := by
  rw [Memory.wf_iff] at *
  exact twf_tset a b h

/-- Writing a run of bytes keeps the canonical form. -/
theorem Memory.wf_put (d : Byte) (bs : List Byte) (m : Mem) (a : Nat) (h : Memory.wf d m = true) : Memory.wf d (memPut d m a bs) = true := by
  induction bs generalizing m a with
  | nil => exact h
  | cons b bs ih => exact ih _ _ (Memory.wf_set d m a b h)

theorem tabove_filter {α : Type} {d : α} {t : Tab α} {b : Nat} (p : Nat × α → Bool) (h : tabove b t) (hw : twf d t) : tabove b (t.filter p) := by
  induction t generalizing b with
  | nil => trivial
  | cons x t ih =>
    simp only [List.filter_cons]
    split
    · exact h
    · exact ih (tabove_mono hw.2.1 (Nat.le_of_lt h)) hw.2.2

theorem twf_filter {α : Type} {d : α} {t : Tab α} (p : Nat × α → Bool) (hw : twf d t) : twf d (t.filter p) := by
  induction t with
  | nil => trivial
  | cons x t ih =>
    simp only [List.filter_cons]
    split
    · exact ⟨hw.1, tabove_filter p hw.2.1 hw.2.2, ih hw.2.2⟩
    · exact ih hw.2.2

/-- Clearing a range keeps the canonical form. -/
theorem Memory.wf_clear (d : Byte) (m : Mem) (a n : Nat) (h : Memory.wf d m = true) : Memory.wf d (memClear m a n) = true := by
  rw [Memory.wf_iff] at *
  exact twf_filter _ h

end Sys2Proof.Machine
end

