-- ==== Sys2Proof/Laws/Get.lean ====
section
/-! SUPPORT. Sys2Proof/Laws/Get.lean: what reading one entry of a table of the state gives after that entry, or another, was written. -/

namespace Sys2Proof.Machine

@[simp] theorem mbxOf_setMbx_ne {n k : Nat} (h : k ≠ n) (v : Mbx) (s : State) : mbxOf (setMbx n v s) k = mbxOf s k := tget_tset_of_ne _ _ h
theorem mbxOf_setMbx_val {v : Mbx} (h : v ≠ {}) (n : Nat) (s : State) : mbxOf (setMbx n v s) n = v := tget_tset_val _ n h
theorem mbxOf_setMbx {s : State} (h : twf {} s.mbx) (n : Nat) (v : Mbx) : mbxOf (setMbx n v s) n = v := tget_tset_self n v h

@[simp] theorem ent_setEnt_ne {n k : Nat} (h : k ≠ n) (v : SdirEntry) (s : State) : ent (setEnt n v s) k = ent s k := tget_tset_of_ne _ _ h
theorem ent_setEnt_val {v : SdirEntry} (h : v ≠ {}) (n : Nat) (s : State) : ent (setEnt n v s) n = v := tget_tset_val _ n h
theorem ent_setEnt {s : State} (h : twf {} s.sdir) (n : Nat) (v : SdirEntry) : ent (setEnt n v s) n = v := tget_tset_self n v h

@[simp] theorem lbuOf_setLbu_ne {n k : Nat} (h : k ≠ n) (v : Lbu) (s : State) : lbuOf (setLbu n v s) k = lbuOf s k := tget_tset_of_ne _ _ h
theorem lbuOf_setLbu_val {v : Lbu} (h : v ≠ {}) (n : Nat) (s : State) : lbuOf (setLbu n v s) n = v := tget_tset_val _ n h
theorem lbuOf_setLbu {s : State} (h : twf {} s.lbus) (n : Nat) (v : Lbu) : lbuOf (setLbu n v s) n = v := tget_tset_self n v h

@[simp] theorem canOf_setCan_ne {n k : Nat} (h : k ≠ n) (v : CanCtl) (s : State) : canOf (setCan n v s) k = canOf s k := tget_tset_of_ne _ _ h
theorem canOf_setCan_val {v : CanCtl} (h : v ≠ {}) (n : Nat) (s : State) : canOf (setCan n v s) n = v := tget_tset_val _ n h
theorem canOf_setCan {s : State} (h : twf {} s.ports.can) (n : Nat) (v : CanCtl) : canOf (setCan n v s) n = v := tget_tset_self n v h

@[simp] theorem ethOf_setEth_ne {n k : Nat} (h : k ≠ n) (v : EthPort) (s : State) : ethOf (setEth n v s) k = ethOf s k := tget_tset_of_ne _ _ h
theorem ethOf_setEth_val {v : EthPort} (h : v ≠ {}) (n : Nat) (s : State) : ethOf (setEth n v s) n = v := tget_tset_val _ n h
theorem ethOf_setEth {s : State} (h : twf {} s.ports.eth) (n : Nat) (v : EthPort) : ethOf (setEth n v s) n = v := tget_tset_self n v h

@[simp] theorem fceChan_setFce_ne {n k : Nat} (h : k ≠ n) (v : FceChan) (s : State) : fceChan (setFce n v s) k = fceChan s k := tget_tset_of_ne _ _ h
theorem fceChan_setFce_val {v : FceChan} (h : v ≠ {}) (n : Nat) (s : State) : fceChan (setFce n v s) n = v := tget_tset_val _ n h
theorem fceChan_setFce {s : State} (h : twf {} s.fce.chans) (n : Nat) (v : FceChan) : fceChan (setFce n v s) n = v := tget_tset_self n v h

@[simp] theorem hartOf_setHart_ne {n k : Nat} (h : k ≠ n) (v : HartPort) (s : State) : hartOf (setHart n v s) k = hartOf s k := tget_tset_of_ne _ _ h
theorem hartOf_setHart_val {v : HartPort} (h : v ≠ {}) (n : Nat) (s : State) : hartOf (setHart n v s) n = v := tget_tset_val _ n h
theorem hartOf_setHart {s : State} (h : twf {} s.loops.hart) (n : Nat) (v : HartPort) : hartOf (setHart n v s) n = v := tget_tset_self n v h

@[simp] theorem lpoOf_setLpo_ne {n k : Nat} (h : k ≠ n) (v : Lpo) (s : State) : lpoOf (setLpo n v s) k = lpoOf s k := tget_tset_of_ne _ _ h
theorem lpoOf_setLpo_val {v : Lpo} (h : v ≠ {}) (n : Nat) (s : State) : lpoOf (setLpo n v s) n = v := tget_tset_val _ n h
theorem lpoOf_setLpo {s : State} (h : twf {} s.loops.lpo) (n : Nat) (v : Lpo) : lpoOf (setLpo n v s) n = v := tget_tset_self n v h

@[simp] theorem lpiOf_setLpi_ne {n k : Nat} (h : k ≠ n) (v : Lpi) (s : State) : lpiOf (setLpi n v s) k = lpiOf s k := tget_tset_of_ne _ _ h
theorem lpiOf_setLpi_val {v : Lpi} (h : v ≠ {}) (n : Nat) (s : State) : lpiOf (setLpi n v s) n = v := tget_tset_val _ n h
theorem lpiOf_setLpi {s : State} (h : twf {} s.loops.lpi) (n : Nat) (v : Lpi) : lpiOf (setLpi n v s) n = v := tget_tset_self n v h

@[simp] theorem navCh_setNavCh_ne {n k : Nat} (h : k ≠ n) (v : NavChan) (s : State) : navCh (setNavCh n v s) k = navCh s k := tget_tset_of_ne _ _ h
theorem navCh_setNavCh_val {v : NavChan} (h : v ≠ {}) (n : Nat) (s : State) : navCh (setNavCh n v s) n = v := tget_tset_val _ n h
theorem navCh_setNavCh {s : State} (h : twf {} s.nav.chans) (n : Nat) (v : NavChan) : navCh (setNavCh n v s) n = v := tget_tset_self n v h

@[simp] theorem slot_setSlot_ne {n k : Nat} (h : k ≠ n) (v : Slot) (s : State) : slot (setSlot n v s) k = slot s k := tget_tset_of_ne _ _ h
theorem slot_setSlot_val {v : Slot} (h : v ≠ {}) (n : Nat) (s : State) : slot (setSlot n v s) n = v := tget_tset_val _ n h
theorem slot_setSlot {s : State} (h : twf {} s.obs.slots) (n : Nat) (v : Slot) : slot (setSlot n v s) n = v := tget_tset_self n v h

@[simp] theorem qTpl_setTpl_ne {n k : Nat} (h : k ≠ n) (v : QpTpl) (s : State) : qTpl (setTpl n v s) k = qTpl s k := tget_tset_of_ne _ _ h
theorem qTpl_setTpl_val {v : QpTpl} (h : v ≠ {}) (n : Nat) (s : State) : qTpl (setTpl n v s) n = v := tget_tset_val _ n h
theorem qTpl_setTpl {s : State} (h : twf {} s.qps.tpls) (n : Nat) (v : QpTpl) : qTpl (setTpl n v s) n = v := tget_tset_self n v h

@[simp] theorem serOf_setSer_ne {n k : Nat} (h : k ≠ n) (v : SerPort) (s : State) : serOf (setSer n v s) k = serOf s k := tget_tset_of_ne _ _ h
theorem serOf_setSer_val {v : SerPort} (h : v ≠ {}) (n : Nat) (s : State) : serOf (setSer n v s) n = v := tget_tset_val _ n h
theorem serOf_setSer {s : State} (h : twf {} s.ports.ser) (n : Nat) (v : SerPort) : serOf (setSer n v s) n = v := tget_tset_self n v h

@[simp] theorem linkOf_modLink_ne {n k : Nat} (h : k ≠ n) (f : LeashLink → LeashLink) (s : State) : linkOf (modLink n f s) k = linkOf s k := tget_tset_of_ne _ _ h
theorem linkOf_modLink_val {f : LeashLink → LeashLink} {n : Nat} {s : State} (h : f (linkOf s n) ≠ {}) : linkOf (modLink n f s) n = f (linkOf s n) := tget_tset_val _ n h
theorem linkOf_modLink {s : State} (h : twf {} s.pack.links) (n : Nat) (f : LeashLink → LeashLink) : linkOf (modLink n f s) n = f (linkOf s n) := tget_tset_self n _ h

@[simp] theorem railOf_modRail_ne {n k : Nat} (h : k ≠ n) (f : Rail → Rail) (s : State) : railOf (modRail n f s) k = railOf s k := tget_tset_of_ne _ _ h
theorem railOf_modRail_val {f : Rail → Rail} {n : Nat} {s : State} (h : f (railOf s n) ≠ {}) : railOf (modRail n f s) n = f (railOf s n) := tget_tset_val _ n h
theorem railOf_modRail {s : State} (h : twf {} s.brs.rails) (n : Nat) (f : Rail → Rail) : railOf (modRail n f s) n = f (railOf s n) := tget_tset_self n _ h

@[simp] theorem src_modSrc_ne {n k : Nat} (h : k ≠ n) (f : PtcSrc → PtcSrc) (s : State) : src (modSrc n f s) k = src s k := tget_tset_of_ne _ _ h
theorem src_modSrc_val {f : PtcSrc → PtcSrc} {n : Nat} {s : State} (h : f (src s n) ≠ {}) : src (modSrc n f s) n = f (src s n) := tget_tset_val _ n h
theorem src_modSrc {s : State} (h : twf {} s.ptc.srcs) (n : Nat) (f : PtcSrc → PtcSrc) : src (modSrc n f s) n = f (src s n) := tget_tset_self n _ h

@[simp] theorem port_modPort_ne {n k : Nat} (h : k ≠ n) (f : PtpPort → PtpPort) (s : State) : port (modPort n f s) k = port s k := tget_tset_of_ne _ _ h
theorem port_modPort_val {f : PtpPort → PtpPort} {n : Nat} {s : State} (h : f (port s n) ≠ {}) : port (modPort n f s) n = f (port s n) := tget_tset_val _ n h
theorem port_modPort {s : State} (h : twf {} s.ptc.ports) (n : Nat) (f : PtpPort → PtpPort) : port (modPort n f s) n = f (port s n) := tget_tset_self n _ h

@[simp] theorem ttuEnt_modTtu_ne {n k : Nat} (h : k ≠ n) (f : Ttu → Ttu) (s : State) : ttuEnt (modTtu n f s) k = ttuEnt s k := tget_tset_of_ne _ _ h
theorem ttuEnt_modTtu_val {f : Ttu → Ttu} {n : Nat} {s : State} (h : f (ttuEnt s n) ≠ {}) : ttuEnt (modTtu n f s) n = f (ttuEnt s n) := tget_tset_val _ n h
theorem ttuEnt_modTtu {s : State} (h : twf {} s.ttu.ent) (n : Nat) (f : Ttu → Ttu) : ttuEnt (modTtu n f s) n = f (ttuEnt s n) := tget_tset_self n _ h

@[simp] theorem canOf_modCan_ne {n k : Nat} (h : k ≠ n) (f : CanCtl → CanCtl) (s : State) : canOf (modCan n f s) k = canOf s k := tget_tset_of_ne _ _ h
theorem canOf_modCan_val {f : CanCtl → CanCtl} {n : Nat} {s : State} (h : f (canOf s n) ≠ {}) : canOf (modCan n f s) n = f (canOf s n) := tget_tset_val _ n h

@[simp] theorem ethOf_modEth_ne {n k : Nat} (h : k ≠ n) (f : EthPort → EthPort) (s : State) : ethOf (modEth n f s) k = ethOf s k := tget_tset_of_ne _ _ h
theorem ethOf_modEth_val {f : EthPort → EthPort} {n : Nat} {s : State} (h : f (ethOf s n) ≠ {}) : ethOf (modEth n f s) n = f (ethOf s n) := tget_tset_val _ n h

@[simp] theorem hartOf_modHart_ne {n k : Nat} (h : k ≠ n) (f : HartPort → HartPort) (s : State) : hartOf (modHart n f s) k = hartOf s k := tget_tset_of_ne _ _ h
theorem hartOf_modHart_val {f : HartPort → HartPort} {n : Nat} {s : State} (h : f (hartOf s n) ≠ {}) : hartOf (modHart n f s) n = f (hartOf s n) := tget_tset_val _ n h

@[simp] theorem lpoOf_modLpo_ne {n k : Nat} (h : k ≠ n) (f : Lpo → Lpo) (s : State) : lpoOf (modLpo n f s) k = lpoOf s k := tget_tset_of_ne _ _ h
theorem lpoOf_modLpo_val {f : Lpo → Lpo} {n : Nat} {s : State} (h : f (lpoOf s n) ≠ {}) : lpoOf (modLpo n f s) n = f (lpoOf s n) := tget_tset_val _ n h

@[simp] theorem serOf_modSer_ne {n k : Nat} (h : k ≠ n) (f : SerPort → SerPort) (s : State) : serOf (modSer n f s) k = serOf s k := tget_tset_of_ne _ _ h
theorem serOf_modSer_val {f : SerPort → SerPort} {n : Nat} {s : State} (h : f (serOf s n) ≠ {}) : serOf (modSer n f s) n = f (serOf s n) := tget_tset_val _ n h

end Sys2Proof.Machine
end

