-- ==== Sys2Proof/Laws/Issue.lean ====
section
/-! SUPPORT. Sys2Proof/Laws/Issue.lean: what the issue of an operation can do, said once. -/

namespace Sys2Proof.Machine

/-- An operation that SEQ issues has its effect and is taken from the lane. -/
theorem issue_of_issued {s : State} {eng inst : Nat} (h : issued s eng inst = true) (op : Word) (f : State → State) :
    issue eng inst op f s = .next (dropLane (f s)) := by
  unfold issued at h
  unfold issue
  cases hd : engDomain eng with
  | none => simp_all
  | some d => simp_all

/-- Without a running schedule, or after a breach, nothing issues. -/
theorem issue_of_not_running {s : State} (h : s.seq.run = false ∨ s.seq.stopped = true) (eng inst : Nat) (op : Word) (f : State → State) :
    issue eng inst op f s = .next s := by
  unfold issue; rcases h with h | h <;> simp [h]

/-- A disabled function's operation, and every operation of a halted schedule, only leaves its lane. -/
theorem issue_of_held {s : State} {eng inst : Nat} (hr : s.seq.run = true) (hs : s.seq.stopped = false)
    (h : isDisabled s eng inst = true ∨ halted s = true) (op : Word) (f : State → State) :
    issue eng inst op f s = .next (dropLane s) := by
  unfold issue; rcases h with h | h <;> simp [hr, hs, h]

/-- An operation of a gated domain breaches the contract. -/
theorem issue_of_gated {s : State} {eng inst : Nat} {d : Domain} (hr : s.seq.run = true) (hs : s.seq.stopped = false)
    (hd : isDisabled s eng inst = false) (hh : halted s = false) (he : engDomain eng = some d) (hg : domGated s d = true)
    (op : Word) (f : State → State) : issue eng inst op f s = .next (dropLane (breach 0x0106 op s)) := by
  unfold issue; simp [hr, hs, hd, hh, he, hg]

end Sys2Proof.Machine
end

