-- ==== Sys2Proof/Laws/State.lean ====
section
/-! SUPPORT. Sys2Proof/Laws/State.lean: what the updates of one part of the state do to every field, so that no proof unfolds a record update. -/

namespace Sys2Proof.Machine

@[simp] theorem modBoot_pending (f : Boot → Boot) (s : State) : (modBoot f s).pending = s.pending := rfl
@[simp] theorem modBoot_pins (f : Boot → Boot) (s : State) : (modBoot f s).pins = s.pins := rfl
@[simp] theorem modBoot_aon (f : Boot → Boot) (s : State) : (modBoot f s).aon = s.aon := rfl
@[simp] theorem modBoot_boot (f : Boot → Boot) (s : State) : (modBoot f s).boot = f s.boot := rfl
@[simp] theorem modBoot_hdr (f : Boot → Boot) (s : State) : (modBoot f s).hdr = s.hdr := rfl
@[simp] theorem modBoot_sects (f : Boot → Boot) (s : State) : (modBoot f s).sects = s.sects := rfl
@[simp] theorem modBoot_cclk (f : Boot → Boot) (s : State) : (modBoot f s).cclk = s.cclk := rfl
@[simp] theorem modBoot_flash (f : Boot → Boot) (s : State) : (modBoot f s).flash = s.flash := rfl
@[simp] theorem modBoot_sram (f : Boot → Boot) (s : State) : (modBoot f s).sram = s.sram := rfl
@[simp] theorem modBoot_logMem (f : Boot → Boot) (s : State) : (modBoot f s).logMem = s.logMem := rfl
@[simp] theorem modBoot_seq (f : Boot → Boot) (s : State) : (modBoot f s).seq = s.seq := rfl
@[simp] theorem modBoot_cck (f : Boot → Boot) (s : State) : (modBoot f s).cck = s.cck := rfl
@[simp] theorem modBoot_sdir (f : Boot → Boot) (s : State) : (modBoot f s).sdir = s.sdir := rfl
@[simp] theorem modBoot_dirid (f : Boot → Boot) (s : State) : (modBoot f s).dirid = s.dirid := rfl
@[simp] theorem modBoot_lbus (f : Boot → Boot) (s : State) : (modBoot f s).lbus = s.lbus := rfl
@[simp] theorem modBoot_funcReqs (f : Boot → Boot) (s : State) : (modBoot f s).funcReqs = s.funcReqs := rfl
@[simp] theorem modBoot_disabled (f : Boot → Boot) (s : State) : (modBoot f s).disabled = s.disabled := rfl
@[simp] theorem modBoot_forces (f : Boot → Boot) (s : State) : (modBoot f s).forces = s.forces := rfl
@[simp] theorem modBoot_evm (f : Boot → Boot) (s : State) : (modBoot f s).evm = s.evm := rfl
@[simp] theorem modBoot_recd (f : Boot → Boot) (s : State) : (modBoot f s).recd = s.recd := rfl
@[simp] theorem modBoot_mbx (f : Boot → Boot) (s : State) : (modBoot f s).mbx = s.mbx := rfl
@[simp] theorem modBoot_host (f : Boot → Boot) (s : State) : (modBoot f s).host = s.host := rfl
@[simp] theorem modBoot_fuses (f : Boot → Boot) (s : State) : (modBoot f s).fuses = s.fuses := rfl
@[simp] theorem modBoot_sec (f : Boot → Boot) (s : State) : (modBoot f s).sec = s.sec := rfl
@[simp] theorem modBoot_pwr (f : Boot → Boot) (s : State) : (modBoot f s).pwr = s.pwr := rfl
@[simp] theorem modBoot_brs (f : Boot → Boot) (s : State) : (modBoot f s).brs = s.brs := rfl
@[simp] theorem modBoot_tj (f : Boot → Boot) (s : State) : (modBoot f s).tj = s.tj := rfl
@[simp] theorem modBoot_gpio0 (f : Boot → Boot) (s : State) : (modBoot f s).gpio0 = s.gpio0 := rfl
@[simp] theorem modBoot_gpio1 (f : Boot → Boot) (s : State) : (modBoot f s).gpio1 = s.gpio1 := rfl
@[simp] theorem modBoot_draws (f : Boot → Boot) (s : State) : (modBoot f s).draws = s.draws := rfl
@[simp] theorem modBoot_ptc (f : Boot → Boot) (s : State) : (modBoot f s).ptc = s.ptc := rfl
@[simp] theorem modBoot_cal (f : Boot → Boot) (s : State) : (modBoot f s).cal = s.cal := rfl
@[simp] theorem modBoot_ttu (f : Boot → Boot) (s : State) : (modBoot f s).ttu = s.ttu := rfl
@[simp] theorem modBoot_obs (f : Boot → Boot) (s : State) : (modBoot f s).obs = s.obs := rfl
@[simp] theorem modBoot_nav (f : Boot → Boot) (s : State) : (modBoot f s).nav = s.nav := rfl
@[simp] theorem modBoot_qps (f : Boot → Boot) (s : State) : (modBoot f s).qps = s.qps := rfl
@[simp] theorem modBoot_modes (f : Boot → Boot) (s : State) : (modBoot f s).modes = s.modes := rfl
@[simp] theorem modBoot_lce (f : Boot → Boot) (s : State) : (modBoot f s).lce = s.lce := rfl
@[simp] theorem modBoot_fce (f : Boot → Boot) (s : State) : (modBoot f s).fce = s.fce := rfl
@[simp] theorem modBoot_loops (f : Boot → Boot) (s : State) : (modBoot f s).loops = s.loops := rfl
@[simp] theorem modBoot_pack (f : Boot → Boot) (s : State) : (modBoot f s).pack = s.pack := rfl
@[simp] theorem modBoot_ports (f : Boot → Boot) (s : State) : (modBoot f s).ports = s.ports := rfl
@[simp] theorem modBoot_flight (f : Boot → Boot) (s : State) : (modBoot f s).flight = s.flight := rfl

@[simp] theorem setCan_pending (c : Nat) (x : CanCtl) (s : State) : (setCan c x s).pending = s.pending := rfl
@[simp] theorem setCan_pins (c : Nat) (x : CanCtl) (s : State) : (setCan c x s).pins = s.pins := rfl
@[simp] theorem setCan_aon (c : Nat) (x : CanCtl) (s : State) : (setCan c x s).aon = s.aon := rfl
@[simp] theorem setCan_boot (c : Nat) (x : CanCtl) (s : State) : (setCan c x s).boot = s.boot := rfl
@[simp] theorem setCan_hdr (c : Nat) (x : CanCtl) (s : State) : (setCan c x s).hdr = s.hdr := rfl
@[simp] theorem setCan_sects (c : Nat) (x : CanCtl) (s : State) : (setCan c x s).sects = s.sects := rfl
@[simp] theorem setCan_cclk (c : Nat) (x : CanCtl) (s : State) : (setCan c x s).cclk = s.cclk := rfl
@[simp] theorem setCan_flash (c : Nat) (x : CanCtl) (s : State) : (setCan c x s).flash = s.flash := rfl
@[simp] theorem setCan_sram (c : Nat) (x : CanCtl) (s : State) : (setCan c x s).sram = s.sram := rfl
@[simp] theorem setCan_logMem (c : Nat) (x : CanCtl) (s : State) : (setCan c x s).logMem = s.logMem := rfl
@[simp] theorem setCan_seq (c : Nat) (x : CanCtl) (s : State) : (setCan c x s).seq = s.seq := rfl
@[simp] theorem setCan_cck (c : Nat) (x : CanCtl) (s : State) : (setCan c x s).cck = s.cck := rfl
@[simp] theorem setCan_sdir (c : Nat) (x : CanCtl) (s : State) : (setCan c x s).sdir = s.sdir := rfl
@[simp] theorem setCan_dirid (c : Nat) (x : CanCtl) (s : State) : (setCan c x s).dirid = s.dirid := rfl
@[simp] theorem setCan_lbus (c : Nat) (x : CanCtl) (s : State) : (setCan c x s).lbus = s.lbus := rfl
@[simp] theorem setCan_funcReqs (c : Nat) (x : CanCtl) (s : State) : (setCan c x s).funcReqs = s.funcReqs := rfl
@[simp] theorem setCan_disabled (c : Nat) (x : CanCtl) (s : State) : (setCan c x s).disabled = s.disabled := rfl
@[simp] theorem setCan_forces (c : Nat) (x : CanCtl) (s : State) : (setCan c x s).forces = s.forces := rfl
@[simp] theorem setCan_evm (c : Nat) (x : CanCtl) (s : State) : (setCan c x s).evm = s.evm := rfl
@[simp] theorem setCan_recd (c : Nat) (x : CanCtl) (s : State) : (setCan c x s).recd = s.recd := rfl
@[simp] theorem setCan_mbx (c : Nat) (x : CanCtl) (s : State) : (setCan c x s).mbx = s.mbx := rfl
@[simp] theorem setCan_host (c : Nat) (x : CanCtl) (s : State) : (setCan c x s).host = s.host := rfl
@[simp] theorem setCan_fuses (c : Nat) (x : CanCtl) (s : State) : (setCan c x s).fuses = s.fuses := rfl
@[simp] theorem setCan_sec (c : Nat) (x : CanCtl) (s : State) : (setCan c x s).sec = s.sec := rfl
@[simp] theorem setCan_pwr (c : Nat) (x : CanCtl) (s : State) : (setCan c x s).pwr = s.pwr := rfl
@[simp] theorem setCan_brs (c : Nat) (x : CanCtl) (s : State) : (setCan c x s).brs = s.brs := rfl
@[simp] theorem setCan_tj (c : Nat) (x : CanCtl) (s : State) : (setCan c x s).tj = s.tj := rfl
@[simp] theorem setCan_gpio0 (c : Nat) (x : CanCtl) (s : State) : (setCan c x s).gpio0 = s.gpio0 := rfl
@[simp] theorem setCan_gpio1 (c : Nat) (x : CanCtl) (s : State) : (setCan c x s).gpio1 = s.gpio1 := rfl
@[simp] theorem setCan_draws (c : Nat) (x : CanCtl) (s : State) : (setCan c x s).draws = s.draws := rfl
@[simp] theorem setCan_ptc (c : Nat) (x : CanCtl) (s : State) : (setCan c x s).ptc = s.ptc := rfl
@[simp] theorem setCan_cal (c : Nat) (x : CanCtl) (s : State) : (setCan c x s).cal = s.cal := rfl
@[simp] theorem setCan_ttu (c : Nat) (x : CanCtl) (s : State) : (setCan c x s).ttu = s.ttu := rfl
@[simp] theorem setCan_obs (c : Nat) (x : CanCtl) (s : State) : (setCan c x s).obs = s.obs := rfl
@[simp] theorem setCan_nav (c : Nat) (x : CanCtl) (s : State) : (setCan c x s).nav = s.nav := rfl
@[simp] theorem setCan_qps (c : Nat) (x : CanCtl) (s : State) : (setCan c x s).qps = s.qps := rfl
@[simp] theorem setCan_modes (c : Nat) (x : CanCtl) (s : State) : (setCan c x s).modes = s.modes := rfl
@[simp] theorem setCan_lce (c : Nat) (x : CanCtl) (s : State) : (setCan c x s).lce = s.lce := rfl
@[simp] theorem setCan_fce (c : Nat) (x : CanCtl) (s : State) : (setCan c x s).fce = s.fce := rfl
@[simp] theorem setCan_loops (c : Nat) (x : CanCtl) (s : State) : (setCan c x s).loops = s.loops := rfl
@[simp] theorem setCan_pack (c : Nat) (x : CanCtl) (s : State) : (setCan c x s).pack = s.pack := rfl
@[simp] theorem setCan_flight (c : Nat) (x : CanCtl) (s : State) : (setCan c x s).flight = s.flight := rfl

@[simp] theorem modCan_pending (c : Nat) (f : CanCtl → CanCtl) (s : State) : (modCan c f s).pending = s.pending := rfl
@[simp] theorem modCan_pins (c : Nat) (f : CanCtl → CanCtl) (s : State) : (modCan c f s).pins = s.pins := rfl
@[simp] theorem modCan_aon (c : Nat) (f : CanCtl → CanCtl) (s : State) : (modCan c f s).aon = s.aon := rfl
@[simp] theorem modCan_boot (c : Nat) (f : CanCtl → CanCtl) (s : State) : (modCan c f s).boot = s.boot := rfl
@[simp] theorem modCan_hdr (c : Nat) (f : CanCtl → CanCtl) (s : State) : (modCan c f s).hdr = s.hdr := rfl
@[simp] theorem modCan_sects (c : Nat) (f : CanCtl → CanCtl) (s : State) : (modCan c f s).sects = s.sects := rfl
@[simp] theorem modCan_cclk (c : Nat) (f : CanCtl → CanCtl) (s : State) : (modCan c f s).cclk = s.cclk := rfl
@[simp] theorem modCan_flash (c : Nat) (f : CanCtl → CanCtl) (s : State) : (modCan c f s).flash = s.flash := rfl
@[simp] theorem modCan_sram (c : Nat) (f : CanCtl → CanCtl) (s : State) : (modCan c f s).sram = s.sram := rfl
@[simp] theorem modCan_logMem (c : Nat) (f : CanCtl → CanCtl) (s : State) : (modCan c f s).logMem = s.logMem := rfl
@[simp] theorem modCan_seq (c : Nat) (f : CanCtl → CanCtl) (s : State) : (modCan c f s).seq = s.seq := rfl
@[simp] theorem modCan_cck (c : Nat) (f : CanCtl → CanCtl) (s : State) : (modCan c f s).cck = s.cck := rfl
@[simp] theorem modCan_sdir (c : Nat) (f : CanCtl → CanCtl) (s : State) : (modCan c f s).sdir = s.sdir := rfl
@[simp] theorem modCan_dirid (c : Nat) (f : CanCtl → CanCtl) (s : State) : (modCan c f s).dirid = s.dirid := rfl
@[simp] theorem modCan_lbus (c : Nat) (f : CanCtl → CanCtl) (s : State) : (modCan c f s).lbus = s.lbus := rfl
@[simp] theorem modCan_funcReqs (c : Nat) (f : CanCtl → CanCtl) (s : State) : (modCan c f s).funcReqs = s.funcReqs := rfl
@[simp] theorem modCan_disabled (c : Nat) (f : CanCtl → CanCtl) (s : State) : (modCan c f s).disabled = s.disabled := rfl
@[simp] theorem modCan_forces (c : Nat) (f : CanCtl → CanCtl) (s : State) : (modCan c f s).forces = s.forces := rfl
@[simp] theorem modCan_evm (c : Nat) (f : CanCtl → CanCtl) (s : State) : (modCan c f s).evm = s.evm := rfl
@[simp] theorem modCan_recd (c : Nat) (f : CanCtl → CanCtl) (s : State) : (modCan c f s).recd = s.recd := rfl
@[simp] theorem modCan_mbx (c : Nat) (f : CanCtl → CanCtl) (s : State) : (modCan c f s).mbx = s.mbx := rfl
@[simp] theorem modCan_host (c : Nat) (f : CanCtl → CanCtl) (s : State) : (modCan c f s).host = s.host := rfl
@[simp] theorem modCan_fuses (c : Nat) (f : CanCtl → CanCtl) (s : State) : (modCan c f s).fuses = s.fuses := rfl
@[simp] theorem modCan_sec (c : Nat) (f : CanCtl → CanCtl) (s : State) : (modCan c f s).sec = s.sec := rfl
@[simp] theorem modCan_pwr (c : Nat) (f : CanCtl → CanCtl) (s : State) : (modCan c f s).pwr = s.pwr := rfl
@[simp] theorem modCan_brs (c : Nat) (f : CanCtl → CanCtl) (s : State) : (modCan c f s).brs = s.brs := rfl
@[simp] theorem modCan_tj (c : Nat) (f : CanCtl → CanCtl) (s : State) : (modCan c f s).tj = s.tj := rfl
@[simp] theorem modCan_gpio0 (c : Nat) (f : CanCtl → CanCtl) (s : State) : (modCan c f s).gpio0 = s.gpio0 := rfl
@[simp] theorem modCan_gpio1 (c : Nat) (f : CanCtl → CanCtl) (s : State) : (modCan c f s).gpio1 = s.gpio1 := rfl
@[simp] theorem modCan_draws (c : Nat) (f : CanCtl → CanCtl) (s : State) : (modCan c f s).draws = s.draws := rfl
@[simp] theorem modCan_ptc (c : Nat) (f : CanCtl → CanCtl) (s : State) : (modCan c f s).ptc = s.ptc := rfl
@[simp] theorem modCan_cal (c : Nat) (f : CanCtl → CanCtl) (s : State) : (modCan c f s).cal = s.cal := rfl
@[simp] theorem modCan_ttu (c : Nat) (f : CanCtl → CanCtl) (s : State) : (modCan c f s).ttu = s.ttu := rfl
@[simp] theorem modCan_obs (c : Nat) (f : CanCtl → CanCtl) (s : State) : (modCan c f s).obs = s.obs := rfl
@[simp] theorem modCan_nav (c : Nat) (f : CanCtl → CanCtl) (s : State) : (modCan c f s).nav = s.nav := rfl
@[simp] theorem modCan_qps (c : Nat) (f : CanCtl → CanCtl) (s : State) : (modCan c f s).qps = s.qps := rfl
@[simp] theorem modCan_modes (c : Nat) (f : CanCtl → CanCtl) (s : State) : (modCan c f s).modes = s.modes := rfl
@[simp] theorem modCan_lce (c : Nat) (f : CanCtl → CanCtl) (s : State) : (modCan c f s).lce = s.lce := rfl
@[simp] theorem modCan_fce (c : Nat) (f : CanCtl → CanCtl) (s : State) : (modCan c f s).fce = s.fce := rfl
@[simp] theorem modCan_loops (c : Nat) (f : CanCtl → CanCtl) (s : State) : (modCan c f s).loops = s.loops := rfl
@[simp] theorem modCan_pack (c : Nat) (f : CanCtl → CanCtl) (s : State) : (modCan c f s).pack = s.pack := rfl
@[simp] theorem modCan_flight (c : Nat) (f : CanCtl → CanCtl) (s : State) : (modCan c f s).flight = s.flight := rfl

@[simp] theorem modObj_pending (c o : Nat) (f : CanObj → CanObj) (s : State) : (modObj c o f s).pending = s.pending := rfl
@[simp] theorem modObj_pins (c o : Nat) (f : CanObj → CanObj) (s : State) : (modObj c o f s).pins = s.pins := rfl
@[simp] theorem modObj_aon (c o : Nat) (f : CanObj → CanObj) (s : State) : (modObj c o f s).aon = s.aon := rfl
@[simp] theorem modObj_boot (c o : Nat) (f : CanObj → CanObj) (s : State) : (modObj c o f s).boot = s.boot := rfl
@[simp] theorem modObj_hdr (c o : Nat) (f : CanObj → CanObj) (s : State) : (modObj c o f s).hdr = s.hdr := rfl
@[simp] theorem modObj_sects (c o : Nat) (f : CanObj → CanObj) (s : State) : (modObj c o f s).sects = s.sects := rfl
@[simp] theorem modObj_cclk (c o : Nat) (f : CanObj → CanObj) (s : State) : (modObj c o f s).cclk = s.cclk := rfl
@[simp] theorem modObj_flash (c o : Nat) (f : CanObj → CanObj) (s : State) : (modObj c o f s).flash = s.flash := rfl
@[simp] theorem modObj_sram (c o : Nat) (f : CanObj → CanObj) (s : State) : (modObj c o f s).sram = s.sram := rfl
@[simp] theorem modObj_logMem (c o : Nat) (f : CanObj → CanObj) (s : State) : (modObj c o f s).logMem = s.logMem := rfl
@[simp] theorem modObj_seq (c o : Nat) (f : CanObj → CanObj) (s : State) : (modObj c o f s).seq = s.seq := rfl
@[simp] theorem modObj_cck (c o : Nat) (f : CanObj → CanObj) (s : State) : (modObj c o f s).cck = s.cck := rfl
@[simp] theorem modObj_sdir (c o : Nat) (f : CanObj → CanObj) (s : State) : (modObj c o f s).sdir = s.sdir := rfl
@[simp] theorem modObj_dirid (c o : Nat) (f : CanObj → CanObj) (s : State) : (modObj c o f s).dirid = s.dirid := rfl
@[simp] theorem modObj_lbus (c o : Nat) (f : CanObj → CanObj) (s : State) : (modObj c o f s).lbus = s.lbus := rfl
@[simp] theorem modObj_funcReqs (c o : Nat) (f : CanObj → CanObj) (s : State) : (modObj c o f s).funcReqs = s.funcReqs := rfl
@[simp] theorem modObj_disabled (c o : Nat) (f : CanObj → CanObj) (s : State) : (modObj c o f s).disabled = s.disabled := rfl
@[simp] theorem modObj_forces (c o : Nat) (f : CanObj → CanObj) (s : State) : (modObj c o f s).forces = s.forces := rfl
@[simp] theorem modObj_evm (c o : Nat) (f : CanObj → CanObj) (s : State) : (modObj c o f s).evm = s.evm := rfl
@[simp] theorem modObj_recd (c o : Nat) (f : CanObj → CanObj) (s : State) : (modObj c o f s).recd = s.recd := rfl
@[simp] theorem modObj_mbx (c o : Nat) (f : CanObj → CanObj) (s : State) : (modObj c o f s).mbx = s.mbx := rfl
@[simp] theorem modObj_host (c o : Nat) (f : CanObj → CanObj) (s : State) : (modObj c o f s).host = s.host := rfl
@[simp] theorem modObj_fuses (c o : Nat) (f : CanObj → CanObj) (s : State) : (modObj c o f s).fuses = s.fuses := rfl
@[simp] theorem modObj_sec (c o : Nat) (f : CanObj → CanObj) (s : State) : (modObj c o f s).sec = s.sec := rfl
@[simp] theorem modObj_pwr (c o : Nat) (f : CanObj → CanObj) (s : State) : (modObj c o f s).pwr = s.pwr := rfl
@[simp] theorem modObj_brs (c o : Nat) (f : CanObj → CanObj) (s : State) : (modObj c o f s).brs = s.brs := rfl
@[simp] theorem modObj_tj (c o : Nat) (f : CanObj → CanObj) (s : State) : (modObj c o f s).tj = s.tj := rfl
@[simp] theorem modObj_gpio0 (c o : Nat) (f : CanObj → CanObj) (s : State) : (modObj c o f s).gpio0 = s.gpio0 := rfl
@[simp] theorem modObj_gpio1 (c o : Nat) (f : CanObj → CanObj) (s : State) : (modObj c o f s).gpio1 = s.gpio1 := rfl
@[simp] theorem modObj_draws (c o : Nat) (f : CanObj → CanObj) (s : State) : (modObj c o f s).draws = s.draws := rfl
@[simp] theorem modObj_ptc (c o : Nat) (f : CanObj → CanObj) (s : State) : (modObj c o f s).ptc = s.ptc := rfl
@[simp] theorem modObj_cal (c o : Nat) (f : CanObj → CanObj) (s : State) : (modObj c o f s).cal = s.cal := rfl
@[simp] theorem modObj_ttu (c o : Nat) (f : CanObj → CanObj) (s : State) : (modObj c o f s).ttu = s.ttu := rfl
@[simp] theorem modObj_obs (c o : Nat) (f : CanObj → CanObj) (s : State) : (modObj c o f s).obs = s.obs := rfl
@[simp] theorem modObj_nav (c o : Nat) (f : CanObj → CanObj) (s : State) : (modObj c o f s).nav = s.nav := rfl
@[simp] theorem modObj_qps (c o : Nat) (f : CanObj → CanObj) (s : State) : (modObj c o f s).qps = s.qps := rfl
@[simp] theorem modObj_modes (c o : Nat) (f : CanObj → CanObj) (s : State) : (modObj c o f s).modes = s.modes := rfl
@[simp] theorem modObj_lce (c o : Nat) (f : CanObj → CanObj) (s : State) : (modObj c o f s).lce = s.lce := rfl
@[simp] theorem modObj_fce (c o : Nat) (f : CanObj → CanObj) (s : State) : (modObj c o f s).fce = s.fce := rfl
@[simp] theorem modObj_loops (c o : Nat) (f : CanObj → CanObj) (s : State) : (modObj c o f s).loops = s.loops := rfl
@[simp] theorem modObj_pack (c o : Nat) (f : CanObj → CanObj) (s : State) : (modObj c o f s).pack = s.pack := rfl
@[simp] theorem modObj_flight (c o : Nat) (f : CanObj → CanObj) (s : State) : (modObj c o f s).flight = s.flight := rfl

@[simp] theorem modPack_pending (f : Pack → Pack) (s : State) : (modPack f s).pending = s.pending := rfl
@[simp] theorem modPack_pins (f : Pack → Pack) (s : State) : (modPack f s).pins = s.pins := rfl
@[simp] theorem modPack_aon (f : Pack → Pack) (s : State) : (modPack f s).aon = s.aon := rfl
@[simp] theorem modPack_boot (f : Pack → Pack) (s : State) : (modPack f s).boot = s.boot := rfl
@[simp] theorem modPack_hdr (f : Pack → Pack) (s : State) : (modPack f s).hdr = s.hdr := rfl
@[simp] theorem modPack_sects (f : Pack → Pack) (s : State) : (modPack f s).sects = s.sects := rfl
@[simp] theorem modPack_cclk (f : Pack → Pack) (s : State) : (modPack f s).cclk = s.cclk := rfl
@[simp] theorem modPack_flash (f : Pack → Pack) (s : State) : (modPack f s).flash = s.flash := rfl
@[simp] theorem modPack_sram (f : Pack → Pack) (s : State) : (modPack f s).sram = s.sram := rfl
@[simp] theorem modPack_logMem (f : Pack → Pack) (s : State) : (modPack f s).logMem = s.logMem := rfl
@[simp] theorem modPack_seq (f : Pack → Pack) (s : State) : (modPack f s).seq = s.seq := rfl
@[simp] theorem modPack_cck (f : Pack → Pack) (s : State) : (modPack f s).cck = s.cck := rfl
@[simp] theorem modPack_sdir (f : Pack → Pack) (s : State) : (modPack f s).sdir = s.sdir := rfl
@[simp] theorem modPack_dirid (f : Pack → Pack) (s : State) : (modPack f s).dirid = s.dirid := rfl
@[simp] theorem modPack_lbus (f : Pack → Pack) (s : State) : (modPack f s).lbus = s.lbus := rfl
@[simp] theorem modPack_funcReqs (f : Pack → Pack) (s : State) : (modPack f s).funcReqs = s.funcReqs := rfl
@[simp] theorem modPack_disabled (f : Pack → Pack) (s : State) : (modPack f s).disabled = s.disabled := rfl
@[simp] theorem modPack_forces (f : Pack → Pack) (s : State) : (modPack f s).forces = s.forces := rfl
@[simp] theorem modPack_evm (f : Pack → Pack) (s : State) : (modPack f s).evm = s.evm := rfl
@[simp] theorem modPack_recd (f : Pack → Pack) (s : State) : (modPack f s).recd = s.recd := rfl
@[simp] theorem modPack_mbx (f : Pack → Pack) (s : State) : (modPack f s).mbx = s.mbx := rfl
@[simp] theorem modPack_host (f : Pack → Pack) (s : State) : (modPack f s).host = s.host := rfl
@[simp] theorem modPack_fuses (f : Pack → Pack) (s : State) : (modPack f s).fuses = s.fuses := rfl
@[simp] theorem modPack_sec (f : Pack → Pack) (s : State) : (modPack f s).sec = s.sec := rfl
@[simp] theorem modPack_pwr (f : Pack → Pack) (s : State) : (modPack f s).pwr = s.pwr := rfl
@[simp] theorem modPack_brs (f : Pack → Pack) (s : State) : (modPack f s).brs = s.brs := rfl
@[simp] theorem modPack_tj (f : Pack → Pack) (s : State) : (modPack f s).tj = s.tj := rfl
@[simp] theorem modPack_gpio0 (f : Pack → Pack) (s : State) : (modPack f s).gpio0 = s.gpio0 := rfl
@[simp] theorem modPack_gpio1 (f : Pack → Pack) (s : State) : (modPack f s).gpio1 = s.gpio1 := rfl
@[simp] theorem modPack_draws (f : Pack → Pack) (s : State) : (modPack f s).draws = s.draws := rfl
@[simp] theorem modPack_ptc (f : Pack → Pack) (s : State) : (modPack f s).ptc = s.ptc := rfl
@[simp] theorem modPack_cal (f : Pack → Pack) (s : State) : (modPack f s).cal = s.cal := rfl
@[simp] theorem modPack_ttu (f : Pack → Pack) (s : State) : (modPack f s).ttu = s.ttu := rfl
@[simp] theorem modPack_obs (f : Pack → Pack) (s : State) : (modPack f s).obs = s.obs := rfl
@[simp] theorem modPack_nav (f : Pack → Pack) (s : State) : (modPack f s).nav = s.nav := rfl
@[simp] theorem modPack_qps (f : Pack → Pack) (s : State) : (modPack f s).qps = s.qps := rfl
@[simp] theorem modPack_modes (f : Pack → Pack) (s : State) : (modPack f s).modes = s.modes := rfl
@[simp] theorem modPack_lce (f : Pack → Pack) (s : State) : (modPack f s).lce = s.lce := rfl
@[simp] theorem modPack_fce (f : Pack → Pack) (s : State) : (modPack f s).fce = s.fce := rfl
@[simp] theorem modPack_loops (f : Pack → Pack) (s : State) : (modPack f s).loops = s.loops := rfl
@[simp] theorem modPack_pack (f : Pack → Pack) (s : State) : (modPack f s).pack = f s.pack := rfl
@[simp] theorem modPack_ports (f : Pack → Pack) (s : State) : (modPack f s).ports = s.ports := rfl
@[simp] theorem modPack_flight (f : Pack → Pack) (s : State) : (modPack f s).flight = s.flight := rfl

@[simp] theorem setEth_pending (p : Nat) (x : EthPort) (s : State) : (setEth p x s).pending = s.pending := rfl
@[simp] theorem setEth_pins (p : Nat) (x : EthPort) (s : State) : (setEth p x s).pins = s.pins := rfl
@[simp] theorem setEth_aon (p : Nat) (x : EthPort) (s : State) : (setEth p x s).aon = s.aon := rfl
@[simp] theorem setEth_boot (p : Nat) (x : EthPort) (s : State) : (setEth p x s).boot = s.boot := rfl
@[simp] theorem setEth_hdr (p : Nat) (x : EthPort) (s : State) : (setEth p x s).hdr = s.hdr := rfl
@[simp] theorem setEth_sects (p : Nat) (x : EthPort) (s : State) : (setEth p x s).sects = s.sects := rfl
@[simp] theorem setEth_cclk (p : Nat) (x : EthPort) (s : State) : (setEth p x s).cclk = s.cclk := rfl
@[simp] theorem setEth_flash (p : Nat) (x : EthPort) (s : State) : (setEth p x s).flash = s.flash := rfl
@[simp] theorem setEth_sram (p : Nat) (x : EthPort) (s : State) : (setEth p x s).sram = s.sram := rfl
@[simp] theorem setEth_logMem (p : Nat) (x : EthPort) (s : State) : (setEth p x s).logMem = s.logMem := rfl
@[simp] theorem setEth_seq (p : Nat) (x : EthPort) (s : State) : (setEth p x s).seq = s.seq := rfl
@[simp] theorem setEth_cck (p : Nat) (x : EthPort) (s : State) : (setEth p x s).cck = s.cck := rfl
@[simp] theorem setEth_sdir (p : Nat) (x : EthPort) (s : State) : (setEth p x s).sdir = s.sdir := rfl
@[simp] theorem setEth_dirid (p : Nat) (x : EthPort) (s : State) : (setEth p x s).dirid = s.dirid := rfl
@[simp] theorem setEth_lbus (p : Nat) (x : EthPort) (s : State) : (setEth p x s).lbus = s.lbus := rfl
@[simp] theorem setEth_funcReqs (p : Nat) (x : EthPort) (s : State) : (setEth p x s).funcReqs = s.funcReqs := rfl
@[simp] theorem setEth_disabled (p : Nat) (x : EthPort) (s : State) : (setEth p x s).disabled = s.disabled := rfl
@[simp] theorem setEth_forces (p : Nat) (x : EthPort) (s : State) : (setEth p x s).forces = s.forces := rfl
@[simp] theorem setEth_evm (p : Nat) (x : EthPort) (s : State) : (setEth p x s).evm = s.evm := rfl
@[simp] theorem setEth_recd (p : Nat) (x : EthPort) (s : State) : (setEth p x s).recd = s.recd := rfl
@[simp] theorem setEth_mbx (p : Nat) (x : EthPort) (s : State) : (setEth p x s).mbx = s.mbx := rfl
@[simp] theorem setEth_host (p : Nat) (x : EthPort) (s : State) : (setEth p x s).host = s.host := rfl
@[simp] theorem setEth_fuses (p : Nat) (x : EthPort) (s : State) : (setEth p x s).fuses = s.fuses := rfl
@[simp] theorem setEth_sec (p : Nat) (x : EthPort) (s : State) : (setEth p x s).sec = s.sec := rfl
@[simp] theorem setEth_pwr (p : Nat) (x : EthPort) (s : State) : (setEth p x s).pwr = s.pwr := rfl
@[simp] theorem setEth_brs (p : Nat) (x : EthPort) (s : State) : (setEth p x s).brs = s.brs := rfl
@[simp] theorem setEth_tj (p : Nat) (x : EthPort) (s : State) : (setEth p x s).tj = s.tj := rfl
@[simp] theorem setEth_gpio0 (p : Nat) (x : EthPort) (s : State) : (setEth p x s).gpio0 = s.gpio0 := rfl
@[simp] theorem setEth_gpio1 (p : Nat) (x : EthPort) (s : State) : (setEth p x s).gpio1 = s.gpio1 := rfl
@[simp] theorem setEth_draws (p : Nat) (x : EthPort) (s : State) : (setEth p x s).draws = s.draws := rfl
@[simp] theorem setEth_ptc (p : Nat) (x : EthPort) (s : State) : (setEth p x s).ptc = s.ptc := rfl
@[simp] theorem setEth_cal (p : Nat) (x : EthPort) (s : State) : (setEth p x s).cal = s.cal := rfl
@[simp] theorem setEth_ttu (p : Nat) (x : EthPort) (s : State) : (setEth p x s).ttu = s.ttu := rfl
@[simp] theorem setEth_obs (p : Nat) (x : EthPort) (s : State) : (setEth p x s).obs = s.obs := rfl
@[simp] theorem setEth_nav (p : Nat) (x : EthPort) (s : State) : (setEth p x s).nav = s.nav := rfl
@[simp] theorem setEth_qps (p : Nat) (x : EthPort) (s : State) : (setEth p x s).qps = s.qps := rfl
@[simp] theorem setEth_modes (p : Nat) (x : EthPort) (s : State) : (setEth p x s).modes = s.modes := rfl
@[simp] theorem setEth_lce (p : Nat) (x : EthPort) (s : State) : (setEth p x s).lce = s.lce := rfl
@[simp] theorem setEth_fce (p : Nat) (x : EthPort) (s : State) : (setEth p x s).fce = s.fce := rfl
@[simp] theorem setEth_loops (p : Nat) (x : EthPort) (s : State) : (setEth p x s).loops = s.loops := rfl
@[simp] theorem setEth_pack (p : Nat) (x : EthPort) (s : State) : (setEth p x s).pack = s.pack := rfl
@[simp] theorem setEth_flight (p : Nat) (x : EthPort) (s : State) : (setEth p x s).flight = s.flight := rfl

@[simp] theorem modEth_pending (p : Nat) (f : EthPort → EthPort) (s : State) : (modEth p f s).pending = s.pending := rfl
@[simp] theorem modEth_pins (p : Nat) (f : EthPort → EthPort) (s : State) : (modEth p f s).pins = s.pins := rfl
@[simp] theorem modEth_aon (p : Nat) (f : EthPort → EthPort) (s : State) : (modEth p f s).aon = s.aon := rfl
@[simp] theorem modEth_boot (p : Nat) (f : EthPort → EthPort) (s : State) : (modEth p f s).boot = s.boot := rfl
@[simp] theorem modEth_hdr (p : Nat) (f : EthPort → EthPort) (s : State) : (modEth p f s).hdr = s.hdr := rfl
@[simp] theorem modEth_sects (p : Nat) (f : EthPort → EthPort) (s : State) : (modEth p f s).sects = s.sects := rfl
@[simp] theorem modEth_cclk (p : Nat) (f : EthPort → EthPort) (s : State) : (modEth p f s).cclk = s.cclk := rfl
@[simp] theorem modEth_flash (p : Nat) (f : EthPort → EthPort) (s : State) : (modEth p f s).flash = s.flash := rfl
@[simp] theorem modEth_sram (p : Nat) (f : EthPort → EthPort) (s : State) : (modEth p f s).sram = s.sram := rfl
@[simp] theorem modEth_logMem (p : Nat) (f : EthPort → EthPort) (s : State) : (modEth p f s).logMem = s.logMem := rfl
@[simp] theorem modEth_seq (p : Nat) (f : EthPort → EthPort) (s : State) : (modEth p f s).seq = s.seq := rfl
@[simp] theorem modEth_cck (p : Nat) (f : EthPort → EthPort) (s : State) : (modEth p f s).cck = s.cck := rfl
@[simp] theorem modEth_sdir (p : Nat) (f : EthPort → EthPort) (s : State) : (modEth p f s).sdir = s.sdir := rfl
@[simp] theorem modEth_dirid (p : Nat) (f : EthPort → EthPort) (s : State) : (modEth p f s).dirid = s.dirid := rfl
@[simp] theorem modEth_lbus (p : Nat) (f : EthPort → EthPort) (s : State) : (modEth p f s).lbus = s.lbus := rfl
@[simp] theorem modEth_funcReqs (p : Nat) (f : EthPort → EthPort) (s : State) : (modEth p f s).funcReqs = s.funcReqs := rfl
@[simp] theorem modEth_disabled (p : Nat) (f : EthPort → EthPort) (s : State) : (modEth p f s).disabled = s.disabled := rfl
@[simp] theorem modEth_forces (p : Nat) (f : EthPort → EthPort) (s : State) : (modEth p f s).forces = s.forces := rfl
@[simp] theorem modEth_evm (p : Nat) (f : EthPort → EthPort) (s : State) : (modEth p f s).evm = s.evm := rfl
@[simp] theorem modEth_recd (p : Nat) (f : EthPort → EthPort) (s : State) : (modEth p f s).recd = s.recd := rfl
@[simp] theorem modEth_mbx (p : Nat) (f : EthPort → EthPort) (s : State) : (modEth p f s).mbx = s.mbx := rfl
@[simp] theorem modEth_host (p : Nat) (f : EthPort → EthPort) (s : State) : (modEth p f s).host = s.host := rfl
@[simp] theorem modEth_fuses (p : Nat) (f : EthPort → EthPort) (s : State) : (modEth p f s).fuses = s.fuses := rfl
@[simp] theorem modEth_sec (p : Nat) (f : EthPort → EthPort) (s : State) : (modEth p f s).sec = s.sec := rfl
@[simp] theorem modEth_pwr (p : Nat) (f : EthPort → EthPort) (s : State) : (modEth p f s).pwr = s.pwr := rfl
@[simp] theorem modEth_brs (p : Nat) (f : EthPort → EthPort) (s : State) : (modEth p f s).brs = s.brs := rfl
@[simp] theorem modEth_tj (p : Nat) (f : EthPort → EthPort) (s : State) : (modEth p f s).tj = s.tj := rfl
@[simp] theorem modEth_gpio0 (p : Nat) (f : EthPort → EthPort) (s : State) : (modEth p f s).gpio0 = s.gpio0 := rfl
@[simp] theorem modEth_gpio1 (p : Nat) (f : EthPort → EthPort) (s : State) : (modEth p f s).gpio1 = s.gpio1 := rfl
@[simp] theorem modEth_draws (p : Nat) (f : EthPort → EthPort) (s : State) : (modEth p f s).draws = s.draws := rfl
@[simp] theorem modEth_ptc (p : Nat) (f : EthPort → EthPort) (s : State) : (modEth p f s).ptc = s.ptc := rfl
@[simp] theorem modEth_cal (p : Nat) (f : EthPort → EthPort) (s : State) : (modEth p f s).cal = s.cal := rfl
@[simp] theorem modEth_ttu (p : Nat) (f : EthPort → EthPort) (s : State) : (modEth p f s).ttu = s.ttu := rfl
@[simp] theorem modEth_obs (p : Nat) (f : EthPort → EthPort) (s : State) : (modEth p f s).obs = s.obs := rfl
@[simp] theorem modEth_nav (p : Nat) (f : EthPort → EthPort) (s : State) : (modEth p f s).nav = s.nav := rfl
@[simp] theorem modEth_qps (p : Nat) (f : EthPort → EthPort) (s : State) : (modEth p f s).qps = s.qps := rfl
@[simp] theorem modEth_modes (p : Nat) (f : EthPort → EthPort) (s : State) : (modEth p f s).modes = s.modes := rfl
@[simp] theorem modEth_lce (p : Nat) (f : EthPort → EthPort) (s : State) : (modEth p f s).lce = s.lce := rfl
@[simp] theorem modEth_fce (p : Nat) (f : EthPort → EthPort) (s : State) : (modEth p f s).fce = s.fce := rfl
@[simp] theorem modEth_loops (p : Nat) (f : EthPort → EthPort) (s : State) : (modEth p f s).loops = s.loops := rfl
@[simp] theorem modEth_pack (p : Nat) (f : EthPort → EthPort) (s : State) : (modEth p f s).pack = s.pack := rfl
@[simp] theorem modEth_flight (p : Nat) (f : EthPort → EthPort) (s : State) : (modEth p f s).flight = s.flight := rfl

@[simp] theorem setFce_pending (c : Nat) (x : FceChan) (s : State) : (setFce c x s).pending = s.pending := rfl
@[simp] theorem setFce_pins (c : Nat) (x : FceChan) (s : State) : (setFce c x s).pins = s.pins := rfl
@[simp] theorem setFce_aon (c : Nat) (x : FceChan) (s : State) : (setFce c x s).aon = s.aon := rfl
@[simp] theorem setFce_boot (c : Nat) (x : FceChan) (s : State) : (setFce c x s).boot = s.boot := rfl
@[simp] theorem setFce_hdr (c : Nat) (x : FceChan) (s : State) : (setFce c x s).hdr = s.hdr := rfl
@[simp] theorem setFce_sects (c : Nat) (x : FceChan) (s : State) : (setFce c x s).sects = s.sects := rfl
@[simp] theorem setFce_cclk (c : Nat) (x : FceChan) (s : State) : (setFce c x s).cclk = s.cclk := rfl
@[simp] theorem setFce_flash (c : Nat) (x : FceChan) (s : State) : (setFce c x s).flash = s.flash := rfl
@[simp] theorem setFce_sram (c : Nat) (x : FceChan) (s : State) : (setFce c x s).sram = s.sram := rfl
@[simp] theorem setFce_logMem (c : Nat) (x : FceChan) (s : State) : (setFce c x s).logMem = s.logMem := rfl
@[simp] theorem setFce_seq (c : Nat) (x : FceChan) (s : State) : (setFce c x s).seq = s.seq := rfl
@[simp] theorem setFce_cck (c : Nat) (x : FceChan) (s : State) : (setFce c x s).cck = s.cck := rfl
@[simp] theorem setFce_sdir (c : Nat) (x : FceChan) (s : State) : (setFce c x s).sdir = s.sdir := rfl
@[simp] theorem setFce_dirid (c : Nat) (x : FceChan) (s : State) : (setFce c x s).dirid = s.dirid := rfl
@[simp] theorem setFce_lbus (c : Nat) (x : FceChan) (s : State) : (setFce c x s).lbus = s.lbus := rfl
@[simp] theorem setFce_funcReqs (c : Nat) (x : FceChan) (s : State) : (setFce c x s).funcReqs = s.funcReqs := rfl
@[simp] theorem setFce_disabled (c : Nat) (x : FceChan) (s : State) : (setFce c x s).disabled = s.disabled := rfl
@[simp] theorem setFce_forces (c : Nat) (x : FceChan) (s : State) : (setFce c x s).forces = s.forces := rfl
@[simp] theorem setFce_evm (c : Nat) (x : FceChan) (s : State) : (setFce c x s).evm = s.evm := rfl
@[simp] theorem setFce_recd (c : Nat) (x : FceChan) (s : State) : (setFce c x s).recd = s.recd := rfl
@[simp] theorem setFce_mbx (c : Nat) (x : FceChan) (s : State) : (setFce c x s).mbx = s.mbx := rfl
@[simp] theorem setFce_host (c : Nat) (x : FceChan) (s : State) : (setFce c x s).host = s.host := rfl
@[simp] theorem setFce_fuses (c : Nat) (x : FceChan) (s : State) : (setFce c x s).fuses = s.fuses := rfl
@[simp] theorem setFce_sec (c : Nat) (x : FceChan) (s : State) : (setFce c x s).sec = s.sec := rfl
@[simp] theorem setFce_pwr (c : Nat) (x : FceChan) (s : State) : (setFce c x s).pwr = s.pwr := rfl
@[simp] theorem setFce_brs (c : Nat) (x : FceChan) (s : State) : (setFce c x s).brs = s.brs := rfl
@[simp] theorem setFce_tj (c : Nat) (x : FceChan) (s : State) : (setFce c x s).tj = s.tj := rfl
@[simp] theorem setFce_gpio0 (c : Nat) (x : FceChan) (s : State) : (setFce c x s).gpio0 = s.gpio0 := rfl
@[simp] theorem setFce_gpio1 (c : Nat) (x : FceChan) (s : State) : (setFce c x s).gpio1 = s.gpio1 := rfl
@[simp] theorem setFce_draws (c : Nat) (x : FceChan) (s : State) : (setFce c x s).draws = s.draws := rfl
@[simp] theorem setFce_ptc (c : Nat) (x : FceChan) (s : State) : (setFce c x s).ptc = s.ptc := rfl
@[simp] theorem setFce_cal (c : Nat) (x : FceChan) (s : State) : (setFce c x s).cal = s.cal := rfl
@[simp] theorem setFce_ttu (c : Nat) (x : FceChan) (s : State) : (setFce c x s).ttu = s.ttu := rfl
@[simp] theorem setFce_obs (c : Nat) (x : FceChan) (s : State) : (setFce c x s).obs = s.obs := rfl
@[simp] theorem setFce_nav (c : Nat) (x : FceChan) (s : State) : (setFce c x s).nav = s.nav := rfl
@[simp] theorem setFce_qps (c : Nat) (x : FceChan) (s : State) : (setFce c x s).qps = s.qps := rfl
@[simp] theorem setFce_modes (c : Nat) (x : FceChan) (s : State) : (setFce c x s).modes = s.modes := rfl
@[simp] theorem setFce_lce (c : Nat) (x : FceChan) (s : State) : (setFce c x s).lce = s.lce := rfl
@[simp] theorem setFce_loops (c : Nat) (x : FceChan) (s : State) : (setFce c x s).loops = s.loops := rfl
@[simp] theorem setFce_pack (c : Nat) (x : FceChan) (s : State) : (setFce c x s).pack = s.pack := rfl
@[simp] theorem setFce_ports (c : Nat) (x : FceChan) (s : State) : (setFce c x s).ports = s.ports := rfl
@[simp] theorem setFce_flight (c : Nat) (x : FceChan) (s : State) : (setFce c x s).flight = s.flight := rfl

@[simp] theorem setHart_pending (p : Nat) (h : HartPort) (s : State) : (setHart p h s).pending = s.pending := rfl
@[simp] theorem setHart_pins (p : Nat) (h : HartPort) (s : State) : (setHart p h s).pins = s.pins := rfl
@[simp] theorem setHart_aon (p : Nat) (h : HartPort) (s : State) : (setHart p h s).aon = s.aon := rfl
@[simp] theorem setHart_boot (p : Nat) (h : HartPort) (s : State) : (setHart p h s).boot = s.boot := rfl
@[simp] theorem setHart_hdr (p : Nat) (h : HartPort) (s : State) : (setHart p h s).hdr = s.hdr := rfl
@[simp] theorem setHart_sects (p : Nat) (h : HartPort) (s : State) : (setHart p h s).sects = s.sects := rfl
@[simp] theorem setHart_cclk (p : Nat) (h : HartPort) (s : State) : (setHart p h s).cclk = s.cclk := rfl
@[simp] theorem setHart_flash (p : Nat) (h : HartPort) (s : State) : (setHart p h s).flash = s.flash := rfl
@[simp] theorem setHart_sram (p : Nat) (h : HartPort) (s : State) : (setHart p h s).sram = s.sram := rfl
@[simp] theorem setHart_logMem (p : Nat) (h : HartPort) (s : State) : (setHart p h s).logMem = s.logMem := rfl
@[simp] theorem setHart_seq (p : Nat) (h : HartPort) (s : State) : (setHart p h s).seq = s.seq := rfl
@[simp] theorem setHart_cck (p : Nat) (h : HartPort) (s : State) : (setHart p h s).cck = s.cck := rfl
@[simp] theorem setHart_sdir (p : Nat) (h : HartPort) (s : State) : (setHart p h s).sdir = s.sdir := rfl
@[simp] theorem setHart_dirid (p : Nat) (h : HartPort) (s : State) : (setHart p h s).dirid = s.dirid := rfl
@[simp] theorem setHart_lbus (p : Nat) (h : HartPort) (s : State) : (setHart p h s).lbus = s.lbus := rfl
@[simp] theorem setHart_funcReqs (p : Nat) (h : HartPort) (s : State) : (setHart p h s).funcReqs = s.funcReqs := rfl
@[simp] theorem setHart_disabled (p : Nat) (h : HartPort) (s : State) : (setHart p h s).disabled = s.disabled := rfl
@[simp] theorem setHart_forces (p : Nat) (h : HartPort) (s : State) : (setHart p h s).forces = s.forces := rfl
@[simp] theorem setHart_evm (p : Nat) (h : HartPort) (s : State) : (setHart p h s).evm = s.evm := rfl
@[simp] theorem setHart_recd (p : Nat) (h : HartPort) (s : State) : (setHart p h s).recd = s.recd := rfl
@[simp] theorem setHart_mbx (p : Nat) (h : HartPort) (s : State) : (setHart p h s).mbx = s.mbx := rfl
@[simp] theorem setHart_host (p : Nat) (h : HartPort) (s : State) : (setHart p h s).host = s.host := rfl
@[simp] theorem setHart_fuses (p : Nat) (h : HartPort) (s : State) : (setHart p h s).fuses = s.fuses := rfl
@[simp] theorem setHart_sec (p : Nat) (h : HartPort) (s : State) : (setHart p h s).sec = s.sec := rfl
@[simp] theorem setHart_pwr (p : Nat) (h : HartPort) (s : State) : (setHart p h s).pwr = s.pwr := rfl
@[simp] theorem setHart_brs (p : Nat) (h : HartPort) (s : State) : (setHart p h s).brs = s.brs := rfl
@[simp] theorem setHart_tj (p : Nat) (h : HartPort) (s : State) : (setHart p h s).tj = s.tj := rfl
@[simp] theorem setHart_gpio0 (p : Nat) (h : HartPort) (s : State) : (setHart p h s).gpio0 = s.gpio0 := rfl
@[simp] theorem setHart_gpio1 (p : Nat) (h : HartPort) (s : State) : (setHart p h s).gpio1 = s.gpio1 := rfl
@[simp] theorem setHart_draws (p : Nat) (h : HartPort) (s : State) : (setHart p h s).draws = s.draws := rfl
@[simp] theorem setHart_ptc (p : Nat) (h : HartPort) (s : State) : (setHart p h s).ptc = s.ptc := rfl
@[simp] theorem setHart_cal (p : Nat) (h : HartPort) (s : State) : (setHart p h s).cal = s.cal := rfl
@[simp] theorem setHart_ttu (p : Nat) (h : HartPort) (s : State) : (setHart p h s).ttu = s.ttu := rfl
@[simp] theorem setHart_obs (p : Nat) (h : HartPort) (s : State) : (setHart p h s).obs = s.obs := rfl
@[simp] theorem setHart_nav (p : Nat) (h : HartPort) (s : State) : (setHart p h s).nav = s.nav := rfl
@[simp] theorem setHart_qps (p : Nat) (h : HartPort) (s : State) : (setHart p h s).qps = s.qps := rfl
@[simp] theorem setHart_modes (p : Nat) (h : HartPort) (s : State) : (setHart p h s).modes = s.modes := rfl
@[simp] theorem setHart_lce (p : Nat) (h : HartPort) (s : State) : (setHart p h s).lce = s.lce := rfl
@[simp] theorem setHart_fce (p : Nat) (h : HartPort) (s : State) : (setHart p h s).fce = s.fce := rfl
@[simp] theorem setHart_pack (p : Nat) (h : HartPort) (s : State) : (setHart p h s).pack = s.pack := rfl
@[simp] theorem setHart_ports (p : Nat) (h : HartPort) (s : State) : (setHart p h s).ports = s.ports := rfl
@[simp] theorem setHart_flight (p : Nat) (h : HartPort) (s : State) : (setHart p h s).flight = s.flight := rfl

@[simp] theorem modHart_pending (p : Nat) (f : HartPort → HartPort) (s : State) : (modHart p f s).pending = s.pending := rfl
@[simp] theorem modHart_pins (p : Nat) (f : HartPort → HartPort) (s : State) : (modHart p f s).pins = s.pins := rfl
@[simp] theorem modHart_aon (p : Nat) (f : HartPort → HartPort) (s : State) : (modHart p f s).aon = s.aon := rfl
@[simp] theorem modHart_boot (p : Nat) (f : HartPort → HartPort) (s : State) : (modHart p f s).boot = s.boot := rfl
@[simp] theorem modHart_hdr (p : Nat) (f : HartPort → HartPort) (s : State) : (modHart p f s).hdr = s.hdr := rfl
@[simp] theorem modHart_sects (p : Nat) (f : HartPort → HartPort) (s : State) : (modHart p f s).sects = s.sects := rfl
@[simp] theorem modHart_cclk (p : Nat) (f : HartPort → HartPort) (s : State) : (modHart p f s).cclk = s.cclk := rfl
@[simp] theorem modHart_flash (p : Nat) (f : HartPort → HartPort) (s : State) : (modHart p f s).flash = s.flash := rfl
@[simp] theorem modHart_sram (p : Nat) (f : HartPort → HartPort) (s : State) : (modHart p f s).sram = s.sram := rfl
@[simp] theorem modHart_logMem (p : Nat) (f : HartPort → HartPort) (s : State) : (modHart p f s).logMem = s.logMem := rfl
@[simp] theorem modHart_seq (p : Nat) (f : HartPort → HartPort) (s : State) : (modHart p f s).seq = s.seq := rfl
@[simp] theorem modHart_cck (p : Nat) (f : HartPort → HartPort) (s : State) : (modHart p f s).cck = s.cck := rfl
@[simp] theorem modHart_sdir (p : Nat) (f : HartPort → HartPort) (s : State) : (modHart p f s).sdir = s.sdir := rfl
@[simp] theorem modHart_dirid (p : Nat) (f : HartPort → HartPort) (s : State) : (modHart p f s).dirid = s.dirid := rfl
@[simp] theorem modHart_lbus (p : Nat) (f : HartPort → HartPort) (s : State) : (modHart p f s).lbus = s.lbus := rfl
@[simp] theorem modHart_funcReqs (p : Nat) (f : HartPort → HartPort) (s : State) : (modHart p f s).funcReqs = s.funcReqs := rfl
@[simp] theorem modHart_disabled (p : Nat) (f : HartPort → HartPort) (s : State) : (modHart p f s).disabled = s.disabled := rfl
@[simp] theorem modHart_forces (p : Nat) (f : HartPort → HartPort) (s : State) : (modHart p f s).forces = s.forces := rfl
@[simp] theorem modHart_evm (p : Nat) (f : HartPort → HartPort) (s : State) : (modHart p f s).evm = s.evm := rfl
@[simp] theorem modHart_recd (p : Nat) (f : HartPort → HartPort) (s : State) : (modHart p f s).recd = s.recd := rfl
@[simp] theorem modHart_mbx (p : Nat) (f : HartPort → HartPort) (s : State) : (modHart p f s).mbx = s.mbx := rfl
@[simp] theorem modHart_host (p : Nat) (f : HartPort → HartPort) (s : State) : (modHart p f s).host = s.host := rfl
@[simp] theorem modHart_fuses (p : Nat) (f : HartPort → HartPort) (s : State) : (modHart p f s).fuses = s.fuses := rfl
@[simp] theorem modHart_sec (p : Nat) (f : HartPort → HartPort) (s : State) : (modHart p f s).sec = s.sec := rfl
@[simp] theorem modHart_pwr (p : Nat) (f : HartPort → HartPort) (s : State) : (modHart p f s).pwr = s.pwr := rfl
@[simp] theorem modHart_brs (p : Nat) (f : HartPort → HartPort) (s : State) : (modHart p f s).brs = s.brs := rfl
@[simp] theorem modHart_tj (p : Nat) (f : HartPort → HartPort) (s : State) : (modHart p f s).tj = s.tj := rfl
@[simp] theorem modHart_gpio0 (p : Nat) (f : HartPort → HartPort) (s : State) : (modHart p f s).gpio0 = s.gpio0 := rfl
@[simp] theorem modHart_gpio1 (p : Nat) (f : HartPort → HartPort) (s : State) : (modHart p f s).gpio1 = s.gpio1 := rfl
@[simp] theorem modHart_draws (p : Nat) (f : HartPort → HartPort) (s : State) : (modHart p f s).draws = s.draws := rfl
@[simp] theorem modHart_ptc (p : Nat) (f : HartPort → HartPort) (s : State) : (modHart p f s).ptc = s.ptc := rfl
@[simp] theorem modHart_cal (p : Nat) (f : HartPort → HartPort) (s : State) : (modHart p f s).cal = s.cal := rfl
@[simp] theorem modHart_ttu (p : Nat) (f : HartPort → HartPort) (s : State) : (modHart p f s).ttu = s.ttu := rfl
@[simp] theorem modHart_obs (p : Nat) (f : HartPort → HartPort) (s : State) : (modHart p f s).obs = s.obs := rfl
@[simp] theorem modHart_nav (p : Nat) (f : HartPort → HartPort) (s : State) : (modHart p f s).nav = s.nav := rfl
@[simp] theorem modHart_qps (p : Nat) (f : HartPort → HartPort) (s : State) : (modHart p f s).qps = s.qps := rfl
@[simp] theorem modHart_modes (p : Nat) (f : HartPort → HartPort) (s : State) : (modHart p f s).modes = s.modes := rfl
@[simp] theorem modHart_lce (p : Nat) (f : HartPort → HartPort) (s : State) : (modHart p f s).lce = s.lce := rfl
@[simp] theorem modHart_fce (p : Nat) (f : HartPort → HartPort) (s : State) : (modHart p f s).fce = s.fce := rfl
@[simp] theorem modHart_pack (p : Nat) (f : HartPort → HartPort) (s : State) : (modHart p f s).pack = s.pack := rfl
@[simp] theorem modHart_ports (p : Nat) (f : HartPort → HartPort) (s : State) : (modHart p f s).ports = s.ports := rfl
@[simp] theorem modHart_flight (p : Nat) (f : HartPort → HartPort) (s : State) : (modHart p f s).flight = s.flight := rfl

@[simp] theorem modLce_pending (f : Lce → Lce) (s : State) : (modLce f s).pending = s.pending := rfl
@[simp] theorem modLce_pins (f : Lce → Lce) (s : State) : (modLce f s).pins = s.pins := rfl
@[simp] theorem modLce_aon (f : Lce → Lce) (s : State) : (modLce f s).aon = s.aon := rfl
@[simp] theorem modLce_boot (f : Lce → Lce) (s : State) : (modLce f s).boot = s.boot := rfl
@[simp] theorem modLce_hdr (f : Lce → Lce) (s : State) : (modLce f s).hdr = s.hdr := rfl
@[simp] theorem modLce_sects (f : Lce → Lce) (s : State) : (modLce f s).sects = s.sects := rfl
@[simp] theorem modLce_cclk (f : Lce → Lce) (s : State) : (modLce f s).cclk = s.cclk := rfl
@[simp] theorem modLce_flash (f : Lce → Lce) (s : State) : (modLce f s).flash = s.flash := rfl
@[simp] theorem modLce_sram (f : Lce → Lce) (s : State) : (modLce f s).sram = s.sram := rfl
@[simp] theorem modLce_logMem (f : Lce → Lce) (s : State) : (modLce f s).logMem = s.logMem := rfl
@[simp] theorem modLce_seq (f : Lce → Lce) (s : State) : (modLce f s).seq = s.seq := rfl
@[simp] theorem modLce_cck (f : Lce → Lce) (s : State) : (modLce f s).cck = s.cck := rfl
@[simp] theorem modLce_sdir (f : Lce → Lce) (s : State) : (modLce f s).sdir = s.sdir := rfl
@[simp] theorem modLce_dirid (f : Lce → Lce) (s : State) : (modLce f s).dirid = s.dirid := rfl
@[simp] theorem modLce_lbus (f : Lce → Lce) (s : State) : (modLce f s).lbus = s.lbus := rfl
@[simp] theorem modLce_funcReqs (f : Lce → Lce) (s : State) : (modLce f s).funcReqs = s.funcReqs := rfl
@[simp] theorem modLce_disabled (f : Lce → Lce) (s : State) : (modLce f s).disabled = s.disabled := rfl
@[simp] theorem modLce_forces (f : Lce → Lce) (s : State) : (modLce f s).forces = s.forces := rfl
@[simp] theorem modLce_evm (f : Lce → Lce) (s : State) : (modLce f s).evm = s.evm := rfl
@[simp] theorem modLce_recd (f : Lce → Lce) (s : State) : (modLce f s).recd = s.recd := rfl
@[simp] theorem modLce_mbx (f : Lce → Lce) (s : State) : (modLce f s).mbx = s.mbx := rfl
@[simp] theorem modLce_host (f : Lce → Lce) (s : State) : (modLce f s).host = s.host := rfl
@[simp] theorem modLce_fuses (f : Lce → Lce) (s : State) : (modLce f s).fuses = s.fuses := rfl
@[simp] theorem modLce_sec (f : Lce → Lce) (s : State) : (modLce f s).sec = s.sec := rfl
@[simp] theorem modLce_pwr (f : Lce → Lce) (s : State) : (modLce f s).pwr = s.pwr := rfl
@[simp] theorem modLce_brs (f : Lce → Lce) (s : State) : (modLce f s).brs = s.brs := rfl
@[simp] theorem modLce_tj (f : Lce → Lce) (s : State) : (modLce f s).tj = s.tj := rfl
@[simp] theorem modLce_gpio0 (f : Lce → Lce) (s : State) : (modLce f s).gpio0 = s.gpio0 := rfl
@[simp] theorem modLce_gpio1 (f : Lce → Lce) (s : State) : (modLce f s).gpio1 = s.gpio1 := rfl
@[simp] theorem modLce_draws (f : Lce → Lce) (s : State) : (modLce f s).draws = s.draws := rfl
@[simp] theorem modLce_ptc (f : Lce → Lce) (s : State) : (modLce f s).ptc = s.ptc := rfl
@[simp] theorem modLce_cal (f : Lce → Lce) (s : State) : (modLce f s).cal = s.cal := rfl
@[simp] theorem modLce_ttu (f : Lce → Lce) (s : State) : (modLce f s).ttu = s.ttu := rfl
@[simp] theorem modLce_obs (f : Lce → Lce) (s : State) : (modLce f s).obs = s.obs := rfl
@[simp] theorem modLce_nav (f : Lce → Lce) (s : State) : (modLce f s).nav = s.nav := rfl
@[simp] theorem modLce_qps (f : Lce → Lce) (s : State) : (modLce f s).qps = s.qps := rfl
@[simp] theorem modLce_modes (f : Lce → Lce) (s : State) : (modLce f s).modes = s.modes := rfl
@[simp] theorem modLce_lce (f : Lce → Lce) (s : State) : (modLce f s).lce = f s.lce := rfl
@[simp] theorem modLce_fce (f : Lce → Lce) (s : State) : (modLce f s).fce = s.fce := rfl
@[simp] theorem modLce_loops (f : Lce → Lce) (s : State) : (modLce f s).loops = s.loops := rfl
@[simp] theorem modLce_pack (f : Lce → Lce) (s : State) : (modLce f s).pack = s.pack := rfl
@[simp] theorem modLce_ports (f : Lce → Lce) (s : State) : (modLce f s).ports = s.ports := rfl
@[simp] theorem modLce_flight (f : Lce → Lce) (s : State) : (modLce f s).flight = s.flight := rfl

@[simp] theorem modLink_pending (k : Nat) (f : LeashLink → LeashLink) (s : State) : (modLink k f s).pending = s.pending := rfl
@[simp] theorem modLink_pins (k : Nat) (f : LeashLink → LeashLink) (s : State) : (modLink k f s).pins = s.pins := rfl
@[simp] theorem modLink_aon (k : Nat) (f : LeashLink → LeashLink) (s : State) : (modLink k f s).aon = s.aon := rfl
@[simp] theorem modLink_boot (k : Nat) (f : LeashLink → LeashLink) (s : State) : (modLink k f s).boot = s.boot := rfl
@[simp] theorem modLink_hdr (k : Nat) (f : LeashLink → LeashLink) (s : State) : (modLink k f s).hdr = s.hdr := rfl
@[simp] theorem modLink_sects (k : Nat) (f : LeashLink → LeashLink) (s : State) : (modLink k f s).sects = s.sects := rfl
@[simp] theorem modLink_cclk (k : Nat) (f : LeashLink → LeashLink) (s : State) : (modLink k f s).cclk = s.cclk := rfl
@[simp] theorem modLink_flash (k : Nat) (f : LeashLink → LeashLink) (s : State) : (modLink k f s).flash = s.flash := rfl
@[simp] theorem modLink_sram (k : Nat) (f : LeashLink → LeashLink) (s : State) : (modLink k f s).sram = s.sram := rfl
@[simp] theorem modLink_logMem (k : Nat) (f : LeashLink → LeashLink) (s : State) : (modLink k f s).logMem = s.logMem := rfl
@[simp] theorem modLink_seq (k : Nat) (f : LeashLink → LeashLink) (s : State) : (modLink k f s).seq = s.seq := rfl
@[simp] theorem modLink_cck (k : Nat) (f : LeashLink → LeashLink) (s : State) : (modLink k f s).cck = s.cck := rfl
@[simp] theorem modLink_sdir (k : Nat) (f : LeashLink → LeashLink) (s : State) : (modLink k f s).sdir = s.sdir := rfl
@[simp] theorem modLink_dirid (k : Nat) (f : LeashLink → LeashLink) (s : State) : (modLink k f s).dirid = s.dirid := rfl
@[simp] theorem modLink_lbus (k : Nat) (f : LeashLink → LeashLink) (s : State) : (modLink k f s).lbus = s.lbus := rfl
@[simp] theorem modLink_funcReqs (k : Nat) (f : LeashLink → LeashLink) (s : State) : (modLink k f s).funcReqs = s.funcReqs := rfl
@[simp] theorem modLink_disabled (k : Nat) (f : LeashLink → LeashLink) (s : State) : (modLink k f s).disabled = s.disabled := rfl
@[simp] theorem modLink_forces (k : Nat) (f : LeashLink → LeashLink) (s : State) : (modLink k f s).forces = s.forces := rfl
@[simp] theorem modLink_evm (k : Nat) (f : LeashLink → LeashLink) (s : State) : (modLink k f s).evm = s.evm := rfl
@[simp] theorem modLink_recd (k : Nat) (f : LeashLink → LeashLink) (s : State) : (modLink k f s).recd = s.recd := rfl
@[simp] theorem modLink_mbx (k : Nat) (f : LeashLink → LeashLink) (s : State) : (modLink k f s).mbx = s.mbx := rfl
@[simp] theorem modLink_host (k : Nat) (f : LeashLink → LeashLink) (s : State) : (modLink k f s).host = s.host := rfl
@[simp] theorem modLink_fuses (k : Nat) (f : LeashLink → LeashLink) (s : State) : (modLink k f s).fuses = s.fuses := rfl
@[simp] theorem modLink_sec (k : Nat) (f : LeashLink → LeashLink) (s : State) : (modLink k f s).sec = s.sec := rfl
@[simp] theorem modLink_pwr (k : Nat) (f : LeashLink → LeashLink) (s : State) : (modLink k f s).pwr = s.pwr := rfl
@[simp] theorem modLink_brs (k : Nat) (f : LeashLink → LeashLink) (s : State) : (modLink k f s).brs = s.brs := rfl
@[simp] theorem modLink_tj (k : Nat) (f : LeashLink → LeashLink) (s : State) : (modLink k f s).tj = s.tj := rfl
@[simp] theorem modLink_gpio0 (k : Nat) (f : LeashLink → LeashLink) (s : State) : (modLink k f s).gpio0 = s.gpio0 := rfl
@[simp] theorem modLink_gpio1 (k : Nat) (f : LeashLink → LeashLink) (s : State) : (modLink k f s).gpio1 = s.gpio1 := rfl
@[simp] theorem modLink_draws (k : Nat) (f : LeashLink → LeashLink) (s : State) : (modLink k f s).draws = s.draws := rfl
@[simp] theorem modLink_ptc (k : Nat) (f : LeashLink → LeashLink) (s : State) : (modLink k f s).ptc = s.ptc := rfl
@[simp] theorem modLink_cal (k : Nat) (f : LeashLink → LeashLink) (s : State) : (modLink k f s).cal = s.cal := rfl
@[simp] theorem modLink_ttu (k : Nat) (f : LeashLink → LeashLink) (s : State) : (modLink k f s).ttu = s.ttu := rfl
@[simp] theorem modLink_obs (k : Nat) (f : LeashLink → LeashLink) (s : State) : (modLink k f s).obs = s.obs := rfl
@[simp] theorem modLink_nav (k : Nat) (f : LeashLink → LeashLink) (s : State) : (modLink k f s).nav = s.nav := rfl
@[simp] theorem modLink_qps (k : Nat) (f : LeashLink → LeashLink) (s : State) : (modLink k f s).qps = s.qps := rfl
@[simp] theorem modLink_modes (k : Nat) (f : LeashLink → LeashLink) (s : State) : (modLink k f s).modes = s.modes := rfl
@[simp] theorem modLink_lce (k : Nat) (f : LeashLink → LeashLink) (s : State) : (modLink k f s).lce = s.lce := rfl
@[simp] theorem modLink_fce (k : Nat) (f : LeashLink → LeashLink) (s : State) : (modLink k f s).fce = s.fce := rfl
@[simp] theorem modLink_loops (k : Nat) (f : LeashLink → LeashLink) (s : State) : (modLink k f s).loops = s.loops := rfl
@[simp] theorem modLink_ports (k : Nat) (f : LeashLink → LeashLink) (s : State) : (modLink k f s).ports = s.ports := rfl
@[simp] theorem modLink_flight (k : Nat) (f : LeashLink → LeashLink) (s : State) : (modLink k f s).flight = s.flight := rfl

@[simp] theorem setLpo_pending (n : Nat) (x : Lpo) (s : State) : (setLpo n x s).pending = s.pending := rfl
@[simp] theorem setLpo_pins (n : Nat) (x : Lpo) (s : State) : (setLpo n x s).pins = s.pins := rfl
@[simp] theorem setLpo_aon (n : Nat) (x : Lpo) (s : State) : (setLpo n x s).aon = s.aon := rfl
@[simp] theorem setLpo_boot (n : Nat) (x : Lpo) (s : State) : (setLpo n x s).boot = s.boot := rfl
@[simp] theorem setLpo_hdr (n : Nat) (x : Lpo) (s : State) : (setLpo n x s).hdr = s.hdr := rfl
@[simp] theorem setLpo_sects (n : Nat) (x : Lpo) (s : State) : (setLpo n x s).sects = s.sects := rfl
@[simp] theorem setLpo_cclk (n : Nat) (x : Lpo) (s : State) : (setLpo n x s).cclk = s.cclk := rfl
@[simp] theorem setLpo_flash (n : Nat) (x : Lpo) (s : State) : (setLpo n x s).flash = s.flash := rfl
@[simp] theorem setLpo_sram (n : Nat) (x : Lpo) (s : State) : (setLpo n x s).sram = s.sram := rfl
@[simp] theorem setLpo_logMem (n : Nat) (x : Lpo) (s : State) : (setLpo n x s).logMem = s.logMem := rfl
@[simp] theorem setLpo_seq (n : Nat) (x : Lpo) (s : State) : (setLpo n x s).seq = s.seq := rfl
@[simp] theorem setLpo_cck (n : Nat) (x : Lpo) (s : State) : (setLpo n x s).cck = s.cck := rfl
@[simp] theorem setLpo_sdir (n : Nat) (x : Lpo) (s : State) : (setLpo n x s).sdir = s.sdir := rfl
@[simp] theorem setLpo_dirid (n : Nat) (x : Lpo) (s : State) : (setLpo n x s).dirid = s.dirid := rfl
@[simp] theorem setLpo_lbus (n : Nat) (x : Lpo) (s : State) : (setLpo n x s).lbus = s.lbus := rfl
@[simp] theorem setLpo_funcReqs (n : Nat) (x : Lpo) (s : State) : (setLpo n x s).funcReqs = s.funcReqs := rfl
@[simp] theorem setLpo_disabled (n : Nat) (x : Lpo) (s : State) : (setLpo n x s).disabled = s.disabled := rfl
@[simp] theorem setLpo_forces (n : Nat) (x : Lpo) (s : State) : (setLpo n x s).forces = s.forces := rfl
@[simp] theorem setLpo_evm (n : Nat) (x : Lpo) (s : State) : (setLpo n x s).evm = s.evm := rfl
@[simp] theorem setLpo_recd (n : Nat) (x : Lpo) (s : State) : (setLpo n x s).recd = s.recd := rfl
@[simp] theorem setLpo_mbx (n : Nat) (x : Lpo) (s : State) : (setLpo n x s).mbx = s.mbx := rfl
@[simp] theorem setLpo_host (n : Nat) (x : Lpo) (s : State) : (setLpo n x s).host = s.host := rfl
@[simp] theorem setLpo_fuses (n : Nat) (x : Lpo) (s : State) : (setLpo n x s).fuses = s.fuses := rfl
@[simp] theorem setLpo_sec (n : Nat) (x : Lpo) (s : State) : (setLpo n x s).sec = s.sec := rfl
@[simp] theorem setLpo_pwr (n : Nat) (x : Lpo) (s : State) : (setLpo n x s).pwr = s.pwr := rfl
@[simp] theorem setLpo_brs (n : Nat) (x : Lpo) (s : State) : (setLpo n x s).brs = s.brs := rfl
@[simp] theorem setLpo_tj (n : Nat) (x : Lpo) (s : State) : (setLpo n x s).tj = s.tj := rfl
@[simp] theorem setLpo_gpio0 (n : Nat) (x : Lpo) (s : State) : (setLpo n x s).gpio0 = s.gpio0 := rfl
@[simp] theorem setLpo_gpio1 (n : Nat) (x : Lpo) (s : State) : (setLpo n x s).gpio1 = s.gpio1 := rfl
@[simp] theorem setLpo_draws (n : Nat) (x : Lpo) (s : State) : (setLpo n x s).draws = s.draws := rfl
@[simp] theorem setLpo_ptc (n : Nat) (x : Lpo) (s : State) : (setLpo n x s).ptc = s.ptc := rfl
@[simp] theorem setLpo_cal (n : Nat) (x : Lpo) (s : State) : (setLpo n x s).cal = s.cal := rfl
@[simp] theorem setLpo_ttu (n : Nat) (x : Lpo) (s : State) : (setLpo n x s).ttu = s.ttu := rfl
@[simp] theorem setLpo_obs (n : Nat) (x : Lpo) (s : State) : (setLpo n x s).obs = s.obs := rfl
@[simp] theorem setLpo_nav (n : Nat) (x : Lpo) (s : State) : (setLpo n x s).nav = s.nav := rfl
@[simp] theorem setLpo_qps (n : Nat) (x : Lpo) (s : State) : (setLpo n x s).qps = s.qps := rfl
@[simp] theorem setLpo_modes (n : Nat) (x : Lpo) (s : State) : (setLpo n x s).modes = s.modes := rfl
@[simp] theorem setLpo_lce (n : Nat) (x : Lpo) (s : State) : (setLpo n x s).lce = s.lce := rfl
@[simp] theorem setLpo_fce (n : Nat) (x : Lpo) (s : State) : (setLpo n x s).fce = s.fce := rfl
@[simp] theorem setLpo_pack (n : Nat) (x : Lpo) (s : State) : (setLpo n x s).pack = s.pack := rfl
@[simp] theorem setLpo_ports (n : Nat) (x : Lpo) (s : State) : (setLpo n x s).ports = s.ports := rfl
@[simp] theorem setLpo_flight (n : Nat) (x : Lpo) (s : State) : (setLpo n x s).flight = s.flight := rfl

@[simp] theorem modLpo_pending (n : Nat) (f : Lpo → Lpo) (s : State) : (modLpo n f s).pending = s.pending := rfl
@[simp] theorem modLpo_pins (n : Nat) (f : Lpo → Lpo) (s : State) : (modLpo n f s).pins = s.pins := rfl
@[simp] theorem modLpo_aon (n : Nat) (f : Lpo → Lpo) (s : State) : (modLpo n f s).aon = s.aon := rfl
@[simp] theorem modLpo_boot (n : Nat) (f : Lpo → Lpo) (s : State) : (modLpo n f s).boot = s.boot := rfl
@[simp] theorem modLpo_hdr (n : Nat) (f : Lpo → Lpo) (s : State) : (modLpo n f s).hdr = s.hdr := rfl
@[simp] theorem modLpo_sects (n : Nat) (f : Lpo → Lpo) (s : State) : (modLpo n f s).sects = s.sects := rfl
@[simp] theorem modLpo_cclk (n : Nat) (f : Lpo → Lpo) (s : State) : (modLpo n f s).cclk = s.cclk := rfl
@[simp] theorem modLpo_flash (n : Nat) (f : Lpo → Lpo) (s : State) : (modLpo n f s).flash = s.flash := rfl
@[simp] theorem modLpo_sram (n : Nat) (f : Lpo → Lpo) (s : State) : (modLpo n f s).sram = s.sram := rfl
@[simp] theorem modLpo_logMem (n : Nat) (f : Lpo → Lpo) (s : State) : (modLpo n f s).logMem = s.logMem := rfl
@[simp] theorem modLpo_seq (n : Nat) (f : Lpo → Lpo) (s : State) : (modLpo n f s).seq = s.seq := rfl
@[simp] theorem modLpo_cck (n : Nat) (f : Lpo → Lpo) (s : State) : (modLpo n f s).cck = s.cck := rfl
@[simp] theorem modLpo_sdir (n : Nat) (f : Lpo → Lpo) (s : State) : (modLpo n f s).sdir = s.sdir := rfl
@[simp] theorem modLpo_dirid (n : Nat) (f : Lpo → Lpo) (s : State) : (modLpo n f s).dirid = s.dirid := rfl
@[simp] theorem modLpo_lbus (n : Nat) (f : Lpo → Lpo) (s : State) : (modLpo n f s).lbus = s.lbus := rfl
@[simp] theorem modLpo_funcReqs (n : Nat) (f : Lpo → Lpo) (s : State) : (modLpo n f s).funcReqs = s.funcReqs := rfl
@[simp] theorem modLpo_disabled (n : Nat) (f : Lpo → Lpo) (s : State) : (modLpo n f s).disabled = s.disabled := rfl
@[simp] theorem modLpo_forces (n : Nat) (f : Lpo → Lpo) (s : State) : (modLpo n f s).forces = s.forces := rfl
@[simp] theorem modLpo_evm (n : Nat) (f : Lpo → Lpo) (s : State) : (modLpo n f s).evm = s.evm := rfl
@[simp] theorem modLpo_recd (n : Nat) (f : Lpo → Lpo) (s : State) : (modLpo n f s).recd = s.recd := rfl
@[simp] theorem modLpo_mbx (n : Nat) (f : Lpo → Lpo) (s : State) : (modLpo n f s).mbx = s.mbx := rfl
@[simp] theorem modLpo_host (n : Nat) (f : Lpo → Lpo) (s : State) : (modLpo n f s).host = s.host := rfl
@[simp] theorem modLpo_fuses (n : Nat) (f : Lpo → Lpo) (s : State) : (modLpo n f s).fuses = s.fuses := rfl
@[simp] theorem modLpo_sec (n : Nat) (f : Lpo → Lpo) (s : State) : (modLpo n f s).sec = s.sec := rfl
@[simp] theorem modLpo_pwr (n : Nat) (f : Lpo → Lpo) (s : State) : (modLpo n f s).pwr = s.pwr := rfl
@[simp] theorem modLpo_brs (n : Nat) (f : Lpo → Lpo) (s : State) : (modLpo n f s).brs = s.brs := rfl
@[simp] theorem modLpo_tj (n : Nat) (f : Lpo → Lpo) (s : State) : (modLpo n f s).tj = s.tj := rfl
@[simp] theorem modLpo_gpio0 (n : Nat) (f : Lpo → Lpo) (s : State) : (modLpo n f s).gpio0 = s.gpio0 := rfl
@[simp] theorem modLpo_gpio1 (n : Nat) (f : Lpo → Lpo) (s : State) : (modLpo n f s).gpio1 = s.gpio1 := rfl
@[simp] theorem modLpo_draws (n : Nat) (f : Lpo → Lpo) (s : State) : (modLpo n f s).draws = s.draws := rfl
@[simp] theorem modLpo_ptc (n : Nat) (f : Lpo → Lpo) (s : State) : (modLpo n f s).ptc = s.ptc := rfl
@[simp] theorem modLpo_cal (n : Nat) (f : Lpo → Lpo) (s : State) : (modLpo n f s).cal = s.cal := rfl
@[simp] theorem modLpo_ttu (n : Nat) (f : Lpo → Lpo) (s : State) : (modLpo n f s).ttu = s.ttu := rfl
@[simp] theorem modLpo_obs (n : Nat) (f : Lpo → Lpo) (s : State) : (modLpo n f s).obs = s.obs := rfl
@[simp] theorem modLpo_nav (n : Nat) (f : Lpo → Lpo) (s : State) : (modLpo n f s).nav = s.nav := rfl
@[simp] theorem modLpo_qps (n : Nat) (f : Lpo → Lpo) (s : State) : (modLpo n f s).qps = s.qps := rfl
@[simp] theorem modLpo_modes (n : Nat) (f : Lpo → Lpo) (s : State) : (modLpo n f s).modes = s.modes := rfl
@[simp] theorem modLpo_lce (n : Nat) (f : Lpo → Lpo) (s : State) : (modLpo n f s).lce = s.lce := rfl
@[simp] theorem modLpo_fce (n : Nat) (f : Lpo → Lpo) (s : State) : (modLpo n f s).fce = s.fce := rfl
@[simp] theorem modLpo_pack (n : Nat) (f : Lpo → Lpo) (s : State) : (modLpo n f s).pack = s.pack := rfl
@[simp] theorem modLpo_ports (n : Nat) (f : Lpo → Lpo) (s : State) : (modLpo n f s).ports = s.ports := rfl
@[simp] theorem modLpo_flight (n : Nat) (f : Lpo → Lpo) (s : State) : (modLpo n f s).flight = s.flight := rfl

@[simp] theorem setLpi_pending (n : Nat) (x : Lpi) (s : State) : (setLpi n x s).pending = s.pending := rfl
@[simp] theorem setLpi_pins (n : Nat) (x : Lpi) (s : State) : (setLpi n x s).pins = s.pins := rfl
@[simp] theorem setLpi_aon (n : Nat) (x : Lpi) (s : State) : (setLpi n x s).aon = s.aon := rfl
@[simp] theorem setLpi_boot (n : Nat) (x : Lpi) (s : State) : (setLpi n x s).boot = s.boot := rfl
@[simp] theorem setLpi_hdr (n : Nat) (x : Lpi) (s : State) : (setLpi n x s).hdr = s.hdr := rfl
@[simp] theorem setLpi_sects (n : Nat) (x : Lpi) (s : State) : (setLpi n x s).sects = s.sects := rfl
@[simp] theorem setLpi_cclk (n : Nat) (x : Lpi) (s : State) : (setLpi n x s).cclk = s.cclk := rfl
@[simp] theorem setLpi_flash (n : Nat) (x : Lpi) (s : State) : (setLpi n x s).flash = s.flash := rfl
@[simp] theorem setLpi_sram (n : Nat) (x : Lpi) (s : State) : (setLpi n x s).sram = s.sram := rfl
@[simp] theorem setLpi_logMem (n : Nat) (x : Lpi) (s : State) : (setLpi n x s).logMem = s.logMem := rfl
@[simp] theorem setLpi_seq (n : Nat) (x : Lpi) (s : State) : (setLpi n x s).seq = s.seq := rfl
@[simp] theorem setLpi_cck (n : Nat) (x : Lpi) (s : State) : (setLpi n x s).cck = s.cck := rfl
@[simp] theorem setLpi_sdir (n : Nat) (x : Lpi) (s : State) : (setLpi n x s).sdir = s.sdir := rfl
@[simp] theorem setLpi_dirid (n : Nat) (x : Lpi) (s : State) : (setLpi n x s).dirid = s.dirid := rfl
@[simp] theorem setLpi_lbus (n : Nat) (x : Lpi) (s : State) : (setLpi n x s).lbus = s.lbus := rfl
@[simp] theorem setLpi_funcReqs (n : Nat) (x : Lpi) (s : State) : (setLpi n x s).funcReqs = s.funcReqs := rfl
@[simp] theorem setLpi_disabled (n : Nat) (x : Lpi) (s : State) : (setLpi n x s).disabled = s.disabled := rfl
@[simp] theorem setLpi_forces (n : Nat) (x : Lpi) (s : State) : (setLpi n x s).forces = s.forces := rfl
@[simp] theorem setLpi_evm (n : Nat) (x : Lpi) (s : State) : (setLpi n x s).evm = s.evm := rfl
@[simp] theorem setLpi_recd (n : Nat) (x : Lpi) (s : State) : (setLpi n x s).recd = s.recd := rfl
@[simp] theorem setLpi_mbx (n : Nat) (x : Lpi) (s : State) : (setLpi n x s).mbx = s.mbx := rfl
@[simp] theorem setLpi_host (n : Nat) (x : Lpi) (s : State) : (setLpi n x s).host = s.host := rfl
@[simp] theorem setLpi_fuses (n : Nat) (x : Lpi) (s : State) : (setLpi n x s).fuses = s.fuses := rfl
@[simp] theorem setLpi_sec (n : Nat) (x : Lpi) (s : State) : (setLpi n x s).sec = s.sec := rfl
@[simp] theorem setLpi_pwr (n : Nat) (x : Lpi) (s : State) : (setLpi n x s).pwr = s.pwr := rfl
@[simp] theorem setLpi_brs (n : Nat) (x : Lpi) (s : State) : (setLpi n x s).brs = s.brs := rfl
@[simp] theorem setLpi_tj (n : Nat) (x : Lpi) (s : State) : (setLpi n x s).tj = s.tj := rfl
@[simp] theorem setLpi_gpio0 (n : Nat) (x : Lpi) (s : State) : (setLpi n x s).gpio0 = s.gpio0 := rfl
@[simp] theorem setLpi_gpio1 (n : Nat) (x : Lpi) (s : State) : (setLpi n x s).gpio1 = s.gpio1 := rfl
@[simp] theorem setLpi_draws (n : Nat) (x : Lpi) (s : State) : (setLpi n x s).draws = s.draws := rfl
@[simp] theorem setLpi_ptc (n : Nat) (x : Lpi) (s : State) : (setLpi n x s).ptc = s.ptc := rfl
@[simp] theorem setLpi_cal (n : Nat) (x : Lpi) (s : State) : (setLpi n x s).cal = s.cal := rfl
@[simp] theorem setLpi_ttu (n : Nat) (x : Lpi) (s : State) : (setLpi n x s).ttu = s.ttu := rfl
@[simp] theorem setLpi_obs (n : Nat) (x : Lpi) (s : State) : (setLpi n x s).obs = s.obs := rfl
@[simp] theorem setLpi_nav (n : Nat) (x : Lpi) (s : State) : (setLpi n x s).nav = s.nav := rfl
@[simp] theorem setLpi_qps (n : Nat) (x : Lpi) (s : State) : (setLpi n x s).qps = s.qps := rfl
@[simp] theorem setLpi_modes (n : Nat) (x : Lpi) (s : State) : (setLpi n x s).modes = s.modes := rfl
@[simp] theorem setLpi_lce (n : Nat) (x : Lpi) (s : State) : (setLpi n x s).lce = s.lce := rfl
@[simp] theorem setLpi_fce (n : Nat) (x : Lpi) (s : State) : (setLpi n x s).fce = s.fce := rfl
@[simp] theorem setLpi_pack (n : Nat) (x : Lpi) (s : State) : (setLpi n x s).pack = s.pack := rfl
@[simp] theorem setLpi_ports (n : Nat) (x : Lpi) (s : State) : (setLpi n x s).ports = s.ports := rfl
@[simp] theorem setLpi_flight (n : Nat) (x : Lpi) (s : State) : (setLpi n x s).flight = s.flight := rfl

@[simp] theorem modNav_pending (f : Nav → Nav) (s : State) : (modNav f s).pending = s.pending := rfl
@[simp] theorem modNav_pins (f : Nav → Nav) (s : State) : (modNav f s).pins = s.pins := rfl
@[simp] theorem modNav_aon (f : Nav → Nav) (s : State) : (modNav f s).aon = s.aon := rfl
@[simp] theorem modNav_boot (f : Nav → Nav) (s : State) : (modNav f s).boot = s.boot := rfl
@[simp] theorem modNav_hdr (f : Nav → Nav) (s : State) : (modNav f s).hdr = s.hdr := rfl
@[simp] theorem modNav_sects (f : Nav → Nav) (s : State) : (modNav f s).sects = s.sects := rfl
@[simp] theorem modNav_cclk (f : Nav → Nav) (s : State) : (modNav f s).cclk = s.cclk := rfl
@[simp] theorem modNav_flash (f : Nav → Nav) (s : State) : (modNav f s).flash = s.flash := rfl
@[simp] theorem modNav_sram (f : Nav → Nav) (s : State) : (modNav f s).sram = s.sram := rfl
@[simp] theorem modNav_logMem (f : Nav → Nav) (s : State) : (modNav f s).logMem = s.logMem := rfl
@[simp] theorem modNav_seq (f : Nav → Nav) (s : State) : (modNav f s).seq = s.seq := rfl
@[simp] theorem modNav_cck (f : Nav → Nav) (s : State) : (modNav f s).cck = s.cck := rfl
@[simp] theorem modNav_sdir (f : Nav → Nav) (s : State) : (modNav f s).sdir = s.sdir := rfl
@[simp] theorem modNav_dirid (f : Nav → Nav) (s : State) : (modNav f s).dirid = s.dirid := rfl
@[simp] theorem modNav_lbus (f : Nav → Nav) (s : State) : (modNav f s).lbus = s.lbus := rfl
@[simp] theorem modNav_funcReqs (f : Nav → Nav) (s : State) : (modNav f s).funcReqs = s.funcReqs := rfl
@[simp] theorem modNav_disabled (f : Nav → Nav) (s : State) : (modNav f s).disabled = s.disabled := rfl
@[simp] theorem modNav_forces (f : Nav → Nav) (s : State) : (modNav f s).forces = s.forces := rfl
@[simp] theorem modNav_evm (f : Nav → Nav) (s : State) : (modNav f s).evm = s.evm := rfl
@[simp] theorem modNav_recd (f : Nav → Nav) (s : State) : (modNav f s).recd = s.recd := rfl
@[simp] theorem modNav_mbx (f : Nav → Nav) (s : State) : (modNav f s).mbx = s.mbx := rfl
@[simp] theorem modNav_host (f : Nav → Nav) (s : State) : (modNav f s).host = s.host := rfl
@[simp] theorem modNav_fuses (f : Nav → Nav) (s : State) : (modNav f s).fuses = s.fuses := rfl
@[simp] theorem modNav_sec (f : Nav → Nav) (s : State) : (modNav f s).sec = s.sec := rfl
@[simp] theorem modNav_pwr (f : Nav → Nav) (s : State) : (modNav f s).pwr = s.pwr := rfl
@[simp] theorem modNav_brs (f : Nav → Nav) (s : State) : (modNav f s).brs = s.brs := rfl
@[simp] theorem modNav_tj (f : Nav → Nav) (s : State) : (modNav f s).tj = s.tj := rfl
@[simp] theorem modNav_gpio0 (f : Nav → Nav) (s : State) : (modNav f s).gpio0 = s.gpio0 := rfl
@[simp] theorem modNav_gpio1 (f : Nav → Nav) (s : State) : (modNav f s).gpio1 = s.gpio1 := rfl
@[simp] theorem modNav_draws (f : Nav → Nav) (s : State) : (modNav f s).draws = s.draws := rfl
@[simp] theorem modNav_ptc (f : Nav → Nav) (s : State) : (modNav f s).ptc = s.ptc := rfl
@[simp] theorem modNav_cal (f : Nav → Nav) (s : State) : (modNav f s).cal = s.cal := rfl
@[simp] theorem modNav_ttu (f : Nav → Nav) (s : State) : (modNav f s).ttu = s.ttu := rfl
@[simp] theorem modNav_obs (f : Nav → Nav) (s : State) : (modNav f s).obs = s.obs := rfl
@[simp] theorem modNav_nav (f : Nav → Nav) (s : State) : (modNav f s).nav = f s.nav := rfl
@[simp] theorem modNav_qps (f : Nav → Nav) (s : State) : (modNav f s).qps = s.qps := rfl
@[simp] theorem modNav_modes (f : Nav → Nav) (s : State) : (modNav f s).modes = s.modes := rfl
@[simp] theorem modNav_lce (f : Nav → Nav) (s : State) : (modNav f s).lce = s.lce := rfl
@[simp] theorem modNav_fce (f : Nav → Nav) (s : State) : (modNav f s).fce = s.fce := rfl
@[simp] theorem modNav_loops (f : Nav → Nav) (s : State) : (modNav f s).loops = s.loops := rfl
@[simp] theorem modNav_pack (f : Nav → Nav) (s : State) : (modNav f s).pack = s.pack := rfl
@[simp] theorem modNav_ports (f : Nav → Nav) (s : State) : (modNav f s).ports = s.ports := rfl
@[simp] theorem modNav_flight (f : Nav → Nav) (s : State) : (modNav f s).flight = s.flight := rfl

@[simp] theorem setNavCh_pending (c : Nat) (v : NavChan) (s : State) : (setNavCh c v s).pending = s.pending := rfl
@[simp] theorem setNavCh_pins (c : Nat) (v : NavChan) (s : State) : (setNavCh c v s).pins = s.pins := rfl
@[simp] theorem setNavCh_aon (c : Nat) (v : NavChan) (s : State) : (setNavCh c v s).aon = s.aon := rfl
@[simp] theorem setNavCh_boot (c : Nat) (v : NavChan) (s : State) : (setNavCh c v s).boot = s.boot := rfl
@[simp] theorem setNavCh_hdr (c : Nat) (v : NavChan) (s : State) : (setNavCh c v s).hdr = s.hdr := rfl
@[simp] theorem setNavCh_sects (c : Nat) (v : NavChan) (s : State) : (setNavCh c v s).sects = s.sects := rfl
@[simp] theorem setNavCh_cclk (c : Nat) (v : NavChan) (s : State) : (setNavCh c v s).cclk = s.cclk := rfl
@[simp] theorem setNavCh_flash (c : Nat) (v : NavChan) (s : State) : (setNavCh c v s).flash = s.flash := rfl
@[simp] theorem setNavCh_sram (c : Nat) (v : NavChan) (s : State) : (setNavCh c v s).sram = s.sram := rfl
@[simp] theorem setNavCh_logMem (c : Nat) (v : NavChan) (s : State) : (setNavCh c v s).logMem = s.logMem := rfl
@[simp] theorem setNavCh_seq (c : Nat) (v : NavChan) (s : State) : (setNavCh c v s).seq = s.seq := rfl
@[simp] theorem setNavCh_cck (c : Nat) (v : NavChan) (s : State) : (setNavCh c v s).cck = s.cck := rfl
@[simp] theorem setNavCh_sdir (c : Nat) (v : NavChan) (s : State) : (setNavCh c v s).sdir = s.sdir := rfl
@[simp] theorem setNavCh_dirid (c : Nat) (v : NavChan) (s : State) : (setNavCh c v s).dirid = s.dirid := rfl
@[simp] theorem setNavCh_lbus (c : Nat) (v : NavChan) (s : State) : (setNavCh c v s).lbus = s.lbus := rfl
@[simp] theorem setNavCh_funcReqs (c : Nat) (v : NavChan) (s : State) : (setNavCh c v s).funcReqs = s.funcReqs := rfl
@[simp] theorem setNavCh_disabled (c : Nat) (v : NavChan) (s : State) : (setNavCh c v s).disabled = s.disabled := rfl
@[simp] theorem setNavCh_forces (c : Nat) (v : NavChan) (s : State) : (setNavCh c v s).forces = s.forces := rfl
@[simp] theorem setNavCh_evm (c : Nat) (v : NavChan) (s : State) : (setNavCh c v s).evm = s.evm := rfl
@[simp] theorem setNavCh_recd (c : Nat) (v : NavChan) (s : State) : (setNavCh c v s).recd = s.recd := rfl
@[simp] theorem setNavCh_mbx (c : Nat) (v : NavChan) (s : State) : (setNavCh c v s).mbx = s.mbx := rfl
@[simp] theorem setNavCh_host (c : Nat) (v : NavChan) (s : State) : (setNavCh c v s).host = s.host := rfl
@[simp] theorem setNavCh_fuses (c : Nat) (v : NavChan) (s : State) : (setNavCh c v s).fuses = s.fuses := rfl
@[simp] theorem setNavCh_sec (c : Nat) (v : NavChan) (s : State) : (setNavCh c v s).sec = s.sec := rfl
@[simp] theorem setNavCh_pwr (c : Nat) (v : NavChan) (s : State) : (setNavCh c v s).pwr = s.pwr := rfl
@[simp] theorem setNavCh_brs (c : Nat) (v : NavChan) (s : State) : (setNavCh c v s).brs = s.brs := rfl
@[simp] theorem setNavCh_tj (c : Nat) (v : NavChan) (s : State) : (setNavCh c v s).tj = s.tj := rfl
@[simp] theorem setNavCh_gpio0 (c : Nat) (v : NavChan) (s : State) : (setNavCh c v s).gpio0 = s.gpio0 := rfl
@[simp] theorem setNavCh_gpio1 (c : Nat) (v : NavChan) (s : State) : (setNavCh c v s).gpio1 = s.gpio1 := rfl
@[simp] theorem setNavCh_draws (c : Nat) (v : NavChan) (s : State) : (setNavCh c v s).draws = s.draws := rfl
@[simp] theorem setNavCh_ptc (c : Nat) (v : NavChan) (s : State) : (setNavCh c v s).ptc = s.ptc := rfl
@[simp] theorem setNavCh_cal (c : Nat) (v : NavChan) (s : State) : (setNavCh c v s).cal = s.cal := rfl
@[simp] theorem setNavCh_ttu (c : Nat) (v : NavChan) (s : State) : (setNavCh c v s).ttu = s.ttu := rfl
@[simp] theorem setNavCh_obs (c : Nat) (v : NavChan) (s : State) : (setNavCh c v s).obs = s.obs := rfl
@[simp] theorem setNavCh_qps (c : Nat) (v : NavChan) (s : State) : (setNavCh c v s).qps = s.qps := rfl
@[simp] theorem setNavCh_modes (c : Nat) (v : NavChan) (s : State) : (setNavCh c v s).modes = s.modes := rfl
@[simp] theorem setNavCh_lce (c : Nat) (v : NavChan) (s : State) : (setNavCh c v s).lce = s.lce := rfl
@[simp] theorem setNavCh_fce (c : Nat) (v : NavChan) (s : State) : (setNavCh c v s).fce = s.fce := rfl
@[simp] theorem setNavCh_loops (c : Nat) (v : NavChan) (s : State) : (setNavCh c v s).loops = s.loops := rfl
@[simp] theorem setNavCh_pack (c : Nat) (v : NavChan) (s : State) : (setNavCh c v s).pack = s.pack := rfl
@[simp] theorem setNavCh_ports (c : Nat) (v : NavChan) (s : State) : (setNavCh c v s).ports = s.ports := rfl
@[simp] theorem setNavCh_flight (c : Nat) (v : NavChan) (s : State) : (setNavCh c v s).flight = s.flight := rfl

@[simp] theorem setSlot_pending (n : Nat) (v : Slot) (s : State) : (setSlot n v s).pending = s.pending := rfl
@[simp] theorem setSlot_pins (n : Nat) (v : Slot) (s : State) : (setSlot n v s).pins = s.pins := rfl
@[simp] theorem setSlot_aon (n : Nat) (v : Slot) (s : State) : (setSlot n v s).aon = s.aon := rfl
@[simp] theorem setSlot_boot (n : Nat) (v : Slot) (s : State) : (setSlot n v s).boot = s.boot := rfl
@[simp] theorem setSlot_hdr (n : Nat) (v : Slot) (s : State) : (setSlot n v s).hdr = s.hdr := rfl
@[simp] theorem setSlot_sects (n : Nat) (v : Slot) (s : State) : (setSlot n v s).sects = s.sects := rfl
@[simp] theorem setSlot_cclk (n : Nat) (v : Slot) (s : State) : (setSlot n v s).cclk = s.cclk := rfl
@[simp] theorem setSlot_flash (n : Nat) (v : Slot) (s : State) : (setSlot n v s).flash = s.flash := rfl
@[simp] theorem setSlot_sram (n : Nat) (v : Slot) (s : State) : (setSlot n v s).sram = s.sram := rfl
@[simp] theorem setSlot_logMem (n : Nat) (v : Slot) (s : State) : (setSlot n v s).logMem = s.logMem := rfl
@[simp] theorem setSlot_seq (n : Nat) (v : Slot) (s : State) : (setSlot n v s).seq = s.seq := rfl
@[simp] theorem setSlot_cck (n : Nat) (v : Slot) (s : State) : (setSlot n v s).cck = s.cck := rfl
@[simp] theorem setSlot_sdir (n : Nat) (v : Slot) (s : State) : (setSlot n v s).sdir = s.sdir := rfl
@[simp] theorem setSlot_dirid (n : Nat) (v : Slot) (s : State) : (setSlot n v s).dirid = s.dirid := rfl
@[simp] theorem setSlot_lbus (n : Nat) (v : Slot) (s : State) : (setSlot n v s).lbus = s.lbus := rfl
@[simp] theorem setSlot_funcReqs (n : Nat) (v : Slot) (s : State) : (setSlot n v s).funcReqs = s.funcReqs := rfl
@[simp] theorem setSlot_disabled (n : Nat) (v : Slot) (s : State) : (setSlot n v s).disabled = s.disabled := rfl
@[simp] theorem setSlot_forces (n : Nat) (v : Slot) (s : State) : (setSlot n v s).forces = s.forces := rfl
@[simp] theorem setSlot_evm (n : Nat) (v : Slot) (s : State) : (setSlot n v s).evm = s.evm := rfl
@[simp] theorem setSlot_recd (n : Nat) (v : Slot) (s : State) : (setSlot n v s).recd = s.recd := rfl
@[simp] theorem setSlot_mbx (n : Nat) (v : Slot) (s : State) : (setSlot n v s).mbx = s.mbx := rfl
@[simp] theorem setSlot_host (n : Nat) (v : Slot) (s : State) : (setSlot n v s).host = s.host := rfl
@[simp] theorem setSlot_fuses (n : Nat) (v : Slot) (s : State) : (setSlot n v s).fuses = s.fuses := rfl
@[simp] theorem setSlot_sec (n : Nat) (v : Slot) (s : State) : (setSlot n v s).sec = s.sec := rfl
@[simp] theorem setSlot_pwr (n : Nat) (v : Slot) (s : State) : (setSlot n v s).pwr = s.pwr := rfl
@[simp] theorem setSlot_brs (n : Nat) (v : Slot) (s : State) : (setSlot n v s).brs = s.brs := rfl
@[simp] theorem setSlot_tj (n : Nat) (v : Slot) (s : State) : (setSlot n v s).tj = s.tj := rfl
@[simp] theorem setSlot_gpio0 (n : Nat) (v : Slot) (s : State) : (setSlot n v s).gpio0 = s.gpio0 := rfl
@[simp] theorem setSlot_gpio1 (n : Nat) (v : Slot) (s : State) : (setSlot n v s).gpio1 = s.gpio1 := rfl
@[simp] theorem setSlot_draws (n : Nat) (v : Slot) (s : State) : (setSlot n v s).draws = s.draws := rfl
@[simp] theorem setSlot_ptc (n : Nat) (v : Slot) (s : State) : (setSlot n v s).ptc = s.ptc := rfl
@[simp] theorem setSlot_cal (n : Nat) (v : Slot) (s : State) : (setSlot n v s).cal = s.cal := rfl
@[simp] theorem setSlot_ttu (n : Nat) (v : Slot) (s : State) : (setSlot n v s).ttu = s.ttu := rfl
@[simp] theorem setSlot_nav (n : Nat) (v : Slot) (s : State) : (setSlot n v s).nav = s.nav := rfl
@[simp] theorem setSlot_qps (n : Nat) (v : Slot) (s : State) : (setSlot n v s).qps = s.qps := rfl
@[simp] theorem setSlot_modes (n : Nat) (v : Slot) (s : State) : (setSlot n v s).modes = s.modes := rfl
@[simp] theorem setSlot_lce (n : Nat) (v : Slot) (s : State) : (setSlot n v s).lce = s.lce := rfl
@[simp] theorem setSlot_fce (n : Nat) (v : Slot) (s : State) : (setSlot n v s).fce = s.fce := rfl
@[simp] theorem setSlot_loops (n : Nat) (v : Slot) (s : State) : (setSlot n v s).loops = s.loops := rfl
@[simp] theorem setSlot_pack (n : Nat) (v : Slot) (s : State) : (setSlot n v s).pack = s.pack := rfl
@[simp] theorem setSlot_ports (n : Nat) (v : Slot) (s : State) : (setSlot n v s).ports = s.ports := rfl
@[simp] theorem setSlot_flight (n : Nat) (v : Slot) (s : State) : (setSlot n v s).flight = s.flight := rfl

@[simp] theorem setEnt_pending (i : Nat) (e : SdirEntry) (s : State) : (setEnt i e s).pending = s.pending := rfl
@[simp] theorem setEnt_pins (i : Nat) (e : SdirEntry) (s : State) : (setEnt i e s).pins = s.pins := rfl
@[simp] theorem setEnt_aon (i : Nat) (e : SdirEntry) (s : State) : (setEnt i e s).aon = s.aon := rfl
@[simp] theorem setEnt_boot (i : Nat) (e : SdirEntry) (s : State) : (setEnt i e s).boot = s.boot := rfl
@[simp] theorem setEnt_hdr (i : Nat) (e : SdirEntry) (s : State) : (setEnt i e s).hdr = s.hdr := rfl
@[simp] theorem setEnt_sects (i : Nat) (e : SdirEntry) (s : State) : (setEnt i e s).sects = s.sects := rfl
@[simp] theorem setEnt_cclk (i : Nat) (e : SdirEntry) (s : State) : (setEnt i e s).cclk = s.cclk := rfl
@[simp] theorem setEnt_flash (i : Nat) (e : SdirEntry) (s : State) : (setEnt i e s).flash = s.flash := rfl
@[simp] theorem setEnt_sram (i : Nat) (e : SdirEntry) (s : State) : (setEnt i e s).sram = s.sram := rfl
@[simp] theorem setEnt_logMem (i : Nat) (e : SdirEntry) (s : State) : (setEnt i e s).logMem = s.logMem := rfl
@[simp] theorem setEnt_seq (i : Nat) (e : SdirEntry) (s : State) : (setEnt i e s).seq = s.seq := rfl
@[simp] theorem setEnt_cck (i : Nat) (e : SdirEntry) (s : State) : (setEnt i e s).cck = s.cck := rfl
@[simp] theorem setEnt_sdir (i : Nat) (e : SdirEntry) (s : State) : (setEnt i e s).sdir = tset {} s.sdir i e := rfl
@[simp] theorem setEnt_dirid (i : Nat) (e : SdirEntry) (s : State) : (setEnt i e s).dirid = s.dirid := rfl
@[simp] theorem setEnt_lbus (i : Nat) (e : SdirEntry) (s : State) : (setEnt i e s).lbus = s.lbus := rfl
@[simp] theorem setEnt_funcReqs (i : Nat) (e : SdirEntry) (s : State) : (setEnt i e s).funcReqs = s.funcReqs := rfl
@[simp] theorem setEnt_disabled (i : Nat) (e : SdirEntry) (s : State) : (setEnt i e s).disabled = s.disabled := rfl
@[simp] theorem setEnt_forces (i : Nat) (e : SdirEntry) (s : State) : (setEnt i e s).forces = s.forces := rfl
@[simp] theorem setEnt_evm (i : Nat) (e : SdirEntry) (s : State) : (setEnt i e s).evm = s.evm := rfl
@[simp] theorem setEnt_recd (i : Nat) (e : SdirEntry) (s : State) : (setEnt i e s).recd = s.recd := rfl
@[simp] theorem setEnt_mbx (i : Nat) (e : SdirEntry) (s : State) : (setEnt i e s).mbx = s.mbx := rfl
@[simp] theorem setEnt_host (i : Nat) (e : SdirEntry) (s : State) : (setEnt i e s).host = s.host := rfl
@[simp] theorem setEnt_fuses (i : Nat) (e : SdirEntry) (s : State) : (setEnt i e s).fuses = s.fuses := rfl
@[simp] theorem setEnt_sec (i : Nat) (e : SdirEntry) (s : State) : (setEnt i e s).sec = s.sec := rfl
@[simp] theorem setEnt_pwr (i : Nat) (e : SdirEntry) (s : State) : (setEnt i e s).pwr = s.pwr := rfl
@[simp] theorem setEnt_brs (i : Nat) (e : SdirEntry) (s : State) : (setEnt i e s).brs = s.brs := rfl
@[simp] theorem setEnt_tj (i : Nat) (e : SdirEntry) (s : State) : (setEnt i e s).tj = s.tj := rfl
@[simp] theorem setEnt_gpio0 (i : Nat) (e : SdirEntry) (s : State) : (setEnt i e s).gpio0 = s.gpio0 := rfl
@[simp] theorem setEnt_gpio1 (i : Nat) (e : SdirEntry) (s : State) : (setEnt i e s).gpio1 = s.gpio1 := rfl
@[simp] theorem setEnt_draws (i : Nat) (e : SdirEntry) (s : State) : (setEnt i e s).draws = s.draws := rfl
@[simp] theorem setEnt_ptc (i : Nat) (e : SdirEntry) (s : State) : (setEnt i e s).ptc = s.ptc := rfl
@[simp] theorem setEnt_cal (i : Nat) (e : SdirEntry) (s : State) : (setEnt i e s).cal = s.cal := rfl
@[simp] theorem setEnt_ttu (i : Nat) (e : SdirEntry) (s : State) : (setEnt i e s).ttu = s.ttu := rfl
@[simp] theorem setEnt_obs (i : Nat) (e : SdirEntry) (s : State) : (setEnt i e s).obs = s.obs := rfl
@[simp] theorem setEnt_nav (i : Nat) (e : SdirEntry) (s : State) : (setEnt i e s).nav = s.nav := rfl
@[simp] theorem setEnt_qps (i : Nat) (e : SdirEntry) (s : State) : (setEnt i e s).qps = s.qps := rfl
@[simp] theorem setEnt_modes (i : Nat) (e : SdirEntry) (s : State) : (setEnt i e s).modes = s.modes := rfl
@[simp] theorem setEnt_lce (i : Nat) (e : SdirEntry) (s : State) : (setEnt i e s).lce = s.lce := rfl
@[simp] theorem setEnt_fce (i : Nat) (e : SdirEntry) (s : State) : (setEnt i e s).fce = s.fce := rfl
@[simp] theorem setEnt_loops (i : Nat) (e : SdirEntry) (s : State) : (setEnt i e s).loops = s.loops := rfl
@[simp] theorem setEnt_pack (i : Nat) (e : SdirEntry) (s : State) : (setEnt i e s).pack = s.pack := rfl
@[simp] theorem setEnt_ports (i : Nat) (e : SdirEntry) (s : State) : (setEnt i e s).ports = s.ports := rfl
@[simp] theorem setEnt_flight (i : Nat) (e : SdirEntry) (s : State) : (setEnt i e s).flight = s.flight := rfl

@[simp] theorem setLbu_pending (n : Nat) (b : Lbu) (s : State) : (setLbu n b s).pending = s.pending := rfl
@[simp] theorem setLbu_pins (n : Nat) (b : Lbu) (s : State) : (setLbu n b s).pins = s.pins := rfl
@[simp] theorem setLbu_aon (n : Nat) (b : Lbu) (s : State) : (setLbu n b s).aon = s.aon := rfl
@[simp] theorem setLbu_boot (n : Nat) (b : Lbu) (s : State) : (setLbu n b s).boot = s.boot := rfl
@[simp] theorem setLbu_hdr (n : Nat) (b : Lbu) (s : State) : (setLbu n b s).hdr = s.hdr := rfl
@[simp] theorem setLbu_sects (n : Nat) (b : Lbu) (s : State) : (setLbu n b s).sects = s.sects := rfl
@[simp] theorem setLbu_cclk (n : Nat) (b : Lbu) (s : State) : (setLbu n b s).cclk = s.cclk := rfl
@[simp] theorem setLbu_flash (n : Nat) (b : Lbu) (s : State) : (setLbu n b s).flash = s.flash := rfl
@[simp] theorem setLbu_sram (n : Nat) (b : Lbu) (s : State) : (setLbu n b s).sram = s.sram := rfl
@[simp] theorem setLbu_logMem (n : Nat) (b : Lbu) (s : State) : (setLbu n b s).logMem = s.logMem := rfl
@[simp] theorem setLbu_seq (n : Nat) (b : Lbu) (s : State) : (setLbu n b s).seq = s.seq := rfl
@[simp] theorem setLbu_cck (n : Nat) (b : Lbu) (s : State) : (setLbu n b s).cck = s.cck := rfl
@[simp] theorem setLbu_sdir (n : Nat) (b : Lbu) (s : State) : (setLbu n b s).sdir = s.sdir := rfl
@[simp] theorem setLbu_dirid (n : Nat) (b : Lbu) (s : State) : (setLbu n b s).dirid = s.dirid := rfl
@[simp] theorem setLbu_lbus (n : Nat) (b : Lbu) (s : State) : (setLbu n b s).lbus = tset {} s.lbus n b := rfl
@[simp] theorem setLbu_funcReqs (n : Nat) (b : Lbu) (s : State) : (setLbu n b s).funcReqs = s.funcReqs := rfl
@[simp] theorem setLbu_disabled (n : Nat) (b : Lbu) (s : State) : (setLbu n b s).disabled = s.disabled := rfl
@[simp] theorem setLbu_forces (n : Nat) (b : Lbu) (s : State) : (setLbu n b s).forces = s.forces := rfl
@[simp] theorem setLbu_evm (n : Nat) (b : Lbu) (s : State) : (setLbu n b s).evm = s.evm := rfl
@[simp] theorem setLbu_recd (n : Nat) (b : Lbu) (s : State) : (setLbu n b s).recd = s.recd := rfl
@[simp] theorem setLbu_mbx (n : Nat) (b : Lbu) (s : State) : (setLbu n b s).mbx = s.mbx := rfl
@[simp] theorem setLbu_host (n : Nat) (b : Lbu) (s : State) : (setLbu n b s).host = s.host := rfl
@[simp] theorem setLbu_fuses (n : Nat) (b : Lbu) (s : State) : (setLbu n b s).fuses = s.fuses := rfl
@[simp] theorem setLbu_sec (n : Nat) (b : Lbu) (s : State) : (setLbu n b s).sec = s.sec := rfl
@[simp] theorem setLbu_pwr (n : Nat) (b : Lbu) (s : State) : (setLbu n b s).pwr = s.pwr := rfl
@[simp] theorem setLbu_brs (n : Nat) (b : Lbu) (s : State) : (setLbu n b s).brs = s.brs := rfl
@[simp] theorem setLbu_tj (n : Nat) (b : Lbu) (s : State) : (setLbu n b s).tj = s.tj := rfl
@[simp] theorem setLbu_gpio0 (n : Nat) (b : Lbu) (s : State) : (setLbu n b s).gpio0 = s.gpio0 := rfl
@[simp] theorem setLbu_gpio1 (n : Nat) (b : Lbu) (s : State) : (setLbu n b s).gpio1 = s.gpio1 := rfl
@[simp] theorem setLbu_draws (n : Nat) (b : Lbu) (s : State) : (setLbu n b s).draws = s.draws := rfl
@[simp] theorem setLbu_ptc (n : Nat) (b : Lbu) (s : State) : (setLbu n b s).ptc = s.ptc := rfl
@[simp] theorem setLbu_cal (n : Nat) (b : Lbu) (s : State) : (setLbu n b s).cal = s.cal := rfl
@[simp] theorem setLbu_ttu (n : Nat) (b : Lbu) (s : State) : (setLbu n b s).ttu = s.ttu := rfl
@[simp] theorem setLbu_obs (n : Nat) (b : Lbu) (s : State) : (setLbu n b s).obs = s.obs := rfl
@[simp] theorem setLbu_nav (n : Nat) (b : Lbu) (s : State) : (setLbu n b s).nav = s.nav := rfl
@[simp] theorem setLbu_qps (n : Nat) (b : Lbu) (s : State) : (setLbu n b s).qps = s.qps := rfl
@[simp] theorem setLbu_modes (n : Nat) (b : Lbu) (s : State) : (setLbu n b s).modes = s.modes := rfl
@[simp] theorem setLbu_lce (n : Nat) (b : Lbu) (s : State) : (setLbu n b s).lce = s.lce := rfl
@[simp] theorem setLbu_fce (n : Nat) (b : Lbu) (s : State) : (setLbu n b s).fce = s.fce := rfl
@[simp] theorem setLbu_loops (n : Nat) (b : Lbu) (s : State) : (setLbu n b s).loops = s.loops := rfl
@[simp] theorem setLbu_pack (n : Nat) (b : Lbu) (s : State) : (setLbu n b s).pack = s.pack := rfl
@[simp] theorem setLbu_ports (n : Nat) (b : Lbu) (s : State) : (setLbu n b s).ports = s.ports := rfl
@[simp] theorem setLbu_flight (n : Nat) (b : Lbu) (s : State) : (setLbu n b s).flight = s.flight := rfl

@[simp] theorem setMbx_pending (n : Nat) (m : Mbx) (s : State) : (setMbx n m s).pending = s.pending := rfl
@[simp] theorem setMbx_pins (n : Nat) (m : Mbx) (s : State) : (setMbx n m s).pins = s.pins := rfl
@[simp] theorem setMbx_aon (n : Nat) (m : Mbx) (s : State) : (setMbx n m s).aon = s.aon := rfl
@[simp] theorem setMbx_boot (n : Nat) (m : Mbx) (s : State) : (setMbx n m s).boot = s.boot := rfl
@[simp] theorem setMbx_hdr (n : Nat) (m : Mbx) (s : State) : (setMbx n m s).hdr = s.hdr := rfl
@[simp] theorem setMbx_sects (n : Nat) (m : Mbx) (s : State) : (setMbx n m s).sects = s.sects := rfl
@[simp] theorem setMbx_cclk (n : Nat) (m : Mbx) (s : State) : (setMbx n m s).cclk = s.cclk := rfl
@[simp] theorem setMbx_flash (n : Nat) (m : Mbx) (s : State) : (setMbx n m s).flash = s.flash := rfl
@[simp] theorem setMbx_sram (n : Nat) (m : Mbx) (s : State) : (setMbx n m s).sram = s.sram := rfl
@[simp] theorem setMbx_logMem (n : Nat) (m : Mbx) (s : State) : (setMbx n m s).logMem = s.logMem := rfl
@[simp] theorem setMbx_seq (n : Nat) (m : Mbx) (s : State) : (setMbx n m s).seq = s.seq := rfl
@[simp] theorem setMbx_cck (n : Nat) (m : Mbx) (s : State) : (setMbx n m s).cck = s.cck := rfl
@[simp] theorem setMbx_sdir (n : Nat) (m : Mbx) (s : State) : (setMbx n m s).sdir = s.sdir := rfl
@[simp] theorem setMbx_dirid (n : Nat) (m : Mbx) (s : State) : (setMbx n m s).dirid = s.dirid := rfl
@[simp] theorem setMbx_lbus (n : Nat) (m : Mbx) (s : State) : (setMbx n m s).lbus = s.lbus := rfl
@[simp] theorem setMbx_funcReqs (n : Nat) (m : Mbx) (s : State) : (setMbx n m s).funcReqs = s.funcReqs := rfl
@[simp] theorem setMbx_disabled (n : Nat) (m : Mbx) (s : State) : (setMbx n m s).disabled = s.disabled := rfl
@[simp] theorem setMbx_forces (n : Nat) (m : Mbx) (s : State) : (setMbx n m s).forces = s.forces := rfl
@[simp] theorem setMbx_evm (n : Nat) (m : Mbx) (s : State) : (setMbx n m s).evm = s.evm := rfl
@[simp] theorem setMbx_recd (n : Nat) (m : Mbx) (s : State) : (setMbx n m s).recd = s.recd := rfl
@[simp] theorem setMbx_mbx (n : Nat) (m : Mbx) (s : State) : (setMbx n m s).mbx = tset {} s.mbx n m := rfl
@[simp] theorem setMbx_host (n : Nat) (m : Mbx) (s : State) : (setMbx n m s).host = s.host := rfl
@[simp] theorem setMbx_fuses (n : Nat) (m : Mbx) (s : State) : (setMbx n m s).fuses = s.fuses := rfl
@[simp] theorem setMbx_sec (n : Nat) (m : Mbx) (s : State) : (setMbx n m s).sec = s.sec := rfl
@[simp] theorem setMbx_pwr (n : Nat) (m : Mbx) (s : State) : (setMbx n m s).pwr = s.pwr := rfl
@[simp] theorem setMbx_brs (n : Nat) (m : Mbx) (s : State) : (setMbx n m s).brs = s.brs := rfl
@[simp] theorem setMbx_tj (n : Nat) (m : Mbx) (s : State) : (setMbx n m s).tj = s.tj := rfl
@[simp] theorem setMbx_gpio0 (n : Nat) (m : Mbx) (s : State) : (setMbx n m s).gpio0 = s.gpio0 := rfl
@[simp] theorem setMbx_gpio1 (n : Nat) (m : Mbx) (s : State) : (setMbx n m s).gpio1 = s.gpio1 := rfl
@[simp] theorem setMbx_draws (n : Nat) (m : Mbx) (s : State) : (setMbx n m s).draws = s.draws := rfl
@[simp] theorem setMbx_ptc (n : Nat) (m : Mbx) (s : State) : (setMbx n m s).ptc = s.ptc := rfl
@[simp] theorem setMbx_cal (n : Nat) (m : Mbx) (s : State) : (setMbx n m s).cal = s.cal := rfl
@[simp] theorem setMbx_ttu (n : Nat) (m : Mbx) (s : State) : (setMbx n m s).ttu = s.ttu := rfl
@[simp] theorem setMbx_obs (n : Nat) (m : Mbx) (s : State) : (setMbx n m s).obs = s.obs := rfl
@[simp] theorem setMbx_nav (n : Nat) (m : Mbx) (s : State) : (setMbx n m s).nav = s.nav := rfl
@[simp] theorem setMbx_qps (n : Nat) (m : Mbx) (s : State) : (setMbx n m s).qps = s.qps := rfl
@[simp] theorem setMbx_modes (n : Nat) (m : Mbx) (s : State) : (setMbx n m s).modes = s.modes := rfl
@[simp] theorem setMbx_lce (n : Nat) (m : Mbx) (s : State) : (setMbx n m s).lce = s.lce := rfl
@[simp] theorem setMbx_fce (n : Nat) (m : Mbx) (s : State) : (setMbx n m s).fce = s.fce := rfl
@[simp] theorem setMbx_loops (n : Nat) (m : Mbx) (s : State) : (setMbx n m s).loops = s.loops := rfl
@[simp] theorem setMbx_pack (n : Nat) (m : Mbx) (s : State) : (setMbx n m s).pack = s.pack := rfl
@[simp] theorem setMbx_ports (n : Nat) (m : Mbx) (s : State) : (setMbx n m s).ports = s.ports := rfl
@[simp] theorem setMbx_flight (n : Nat) (m : Mbx) (s : State) : (setMbx n m s).flight = s.flight := rfl

@[simp] theorem modPwr_pending (f : Pwr → Pwr) (s : State) : (modPwr f s).pending = s.pending := rfl
@[simp] theorem modPwr_pins (f : Pwr → Pwr) (s : State) : (modPwr f s).pins = s.pins := rfl
@[simp] theorem modPwr_aon (f : Pwr → Pwr) (s : State) : (modPwr f s).aon = s.aon := rfl
@[simp] theorem modPwr_boot (f : Pwr → Pwr) (s : State) : (modPwr f s).boot = s.boot := rfl
@[simp] theorem modPwr_hdr (f : Pwr → Pwr) (s : State) : (modPwr f s).hdr = s.hdr := rfl
@[simp] theorem modPwr_sects (f : Pwr → Pwr) (s : State) : (modPwr f s).sects = s.sects := rfl
@[simp] theorem modPwr_cclk (f : Pwr → Pwr) (s : State) : (modPwr f s).cclk = s.cclk := rfl
@[simp] theorem modPwr_flash (f : Pwr → Pwr) (s : State) : (modPwr f s).flash = s.flash := rfl
@[simp] theorem modPwr_sram (f : Pwr → Pwr) (s : State) : (modPwr f s).sram = s.sram := rfl
@[simp] theorem modPwr_logMem (f : Pwr → Pwr) (s : State) : (modPwr f s).logMem = s.logMem := rfl
@[simp] theorem modPwr_seq (f : Pwr → Pwr) (s : State) : (modPwr f s).seq = s.seq := rfl
@[simp] theorem modPwr_cck (f : Pwr → Pwr) (s : State) : (modPwr f s).cck = s.cck := rfl
@[simp] theorem modPwr_sdir (f : Pwr → Pwr) (s : State) : (modPwr f s).sdir = s.sdir := rfl
@[simp] theorem modPwr_dirid (f : Pwr → Pwr) (s : State) : (modPwr f s).dirid = s.dirid := rfl
@[simp] theorem modPwr_lbus (f : Pwr → Pwr) (s : State) : (modPwr f s).lbus = s.lbus := rfl
@[simp] theorem modPwr_funcReqs (f : Pwr → Pwr) (s : State) : (modPwr f s).funcReqs = s.funcReqs := rfl
@[simp] theorem modPwr_disabled (f : Pwr → Pwr) (s : State) : (modPwr f s).disabled = s.disabled := rfl
@[simp] theorem modPwr_forces (f : Pwr → Pwr) (s : State) : (modPwr f s).forces = s.forces := rfl
@[simp] theorem modPwr_evm (f : Pwr → Pwr) (s : State) : (modPwr f s).evm = s.evm := rfl
@[simp] theorem modPwr_recd (f : Pwr → Pwr) (s : State) : (modPwr f s).recd = s.recd := rfl
@[simp] theorem modPwr_mbx (f : Pwr → Pwr) (s : State) : (modPwr f s).mbx = s.mbx := rfl
@[simp] theorem modPwr_host (f : Pwr → Pwr) (s : State) : (modPwr f s).host = s.host := rfl
@[simp] theorem modPwr_fuses (f : Pwr → Pwr) (s : State) : (modPwr f s).fuses = s.fuses := rfl
@[simp] theorem modPwr_sec (f : Pwr → Pwr) (s : State) : (modPwr f s).sec = s.sec := rfl
@[simp] theorem modPwr_pwr (f : Pwr → Pwr) (s : State) : (modPwr f s).pwr = f s.pwr := rfl
@[simp] theorem modPwr_brs (f : Pwr → Pwr) (s : State) : (modPwr f s).brs = s.brs := rfl
@[simp] theorem modPwr_tj (f : Pwr → Pwr) (s : State) : (modPwr f s).tj = s.tj := rfl
@[simp] theorem modPwr_gpio0 (f : Pwr → Pwr) (s : State) : (modPwr f s).gpio0 = s.gpio0 := rfl
@[simp] theorem modPwr_gpio1 (f : Pwr → Pwr) (s : State) : (modPwr f s).gpio1 = s.gpio1 := rfl
@[simp] theorem modPwr_draws (f : Pwr → Pwr) (s : State) : (modPwr f s).draws = s.draws := rfl
@[simp] theorem modPwr_ptc (f : Pwr → Pwr) (s : State) : (modPwr f s).ptc = s.ptc := rfl
@[simp] theorem modPwr_cal (f : Pwr → Pwr) (s : State) : (modPwr f s).cal = s.cal := rfl
@[simp] theorem modPwr_ttu (f : Pwr → Pwr) (s : State) : (modPwr f s).ttu = s.ttu := rfl
@[simp] theorem modPwr_obs (f : Pwr → Pwr) (s : State) : (modPwr f s).obs = s.obs := rfl
@[simp] theorem modPwr_nav (f : Pwr → Pwr) (s : State) : (modPwr f s).nav = s.nav := rfl
@[simp] theorem modPwr_qps (f : Pwr → Pwr) (s : State) : (modPwr f s).qps = s.qps := rfl
@[simp] theorem modPwr_modes (f : Pwr → Pwr) (s : State) : (modPwr f s).modes = s.modes := rfl
@[simp] theorem modPwr_lce (f : Pwr → Pwr) (s : State) : (modPwr f s).lce = s.lce := rfl
@[simp] theorem modPwr_fce (f : Pwr → Pwr) (s : State) : (modPwr f s).fce = s.fce := rfl
@[simp] theorem modPwr_loops (f : Pwr → Pwr) (s : State) : (modPwr f s).loops = s.loops := rfl
@[simp] theorem modPwr_pack (f : Pwr → Pwr) (s : State) : (modPwr f s).pack = s.pack := rfl
@[simp] theorem modPwr_ports (f : Pwr → Pwr) (s : State) : (modPwr f s).ports = s.ports := rfl
@[simp] theorem modPwr_flight (f : Pwr → Pwr) (s : State) : (modPwr f s).flight = s.flight := rfl

@[simp] theorem modSec_pending (f : Sec → Sec) (s : State) : (modSec f s).pending = s.pending := rfl
@[simp] theorem modSec_pins (f : Sec → Sec) (s : State) : (modSec f s).pins = s.pins := rfl
@[simp] theorem modSec_aon (f : Sec → Sec) (s : State) : (modSec f s).aon = s.aon := rfl
@[simp] theorem modSec_boot (f : Sec → Sec) (s : State) : (modSec f s).boot = s.boot := rfl
@[simp] theorem modSec_hdr (f : Sec → Sec) (s : State) : (modSec f s).hdr = s.hdr := rfl
@[simp] theorem modSec_sects (f : Sec → Sec) (s : State) : (modSec f s).sects = s.sects := rfl
@[simp] theorem modSec_cclk (f : Sec → Sec) (s : State) : (modSec f s).cclk = s.cclk := rfl
@[simp] theorem modSec_flash (f : Sec → Sec) (s : State) : (modSec f s).flash = s.flash := rfl
@[simp] theorem modSec_sram (f : Sec → Sec) (s : State) : (modSec f s).sram = s.sram := rfl
@[simp] theorem modSec_logMem (f : Sec → Sec) (s : State) : (modSec f s).logMem = s.logMem := rfl
@[simp] theorem modSec_seq (f : Sec → Sec) (s : State) : (modSec f s).seq = s.seq := rfl
@[simp] theorem modSec_cck (f : Sec → Sec) (s : State) : (modSec f s).cck = s.cck := rfl
@[simp] theorem modSec_sdir (f : Sec → Sec) (s : State) : (modSec f s).sdir = s.sdir := rfl
@[simp] theorem modSec_dirid (f : Sec → Sec) (s : State) : (modSec f s).dirid = s.dirid := rfl
@[simp] theorem modSec_lbus (f : Sec → Sec) (s : State) : (modSec f s).lbus = s.lbus := rfl
@[simp] theorem modSec_funcReqs (f : Sec → Sec) (s : State) : (modSec f s).funcReqs = s.funcReqs := rfl
@[simp] theorem modSec_disabled (f : Sec → Sec) (s : State) : (modSec f s).disabled = s.disabled := rfl
@[simp] theorem modSec_forces (f : Sec → Sec) (s : State) : (modSec f s).forces = s.forces := rfl
@[simp] theorem modSec_evm (f : Sec → Sec) (s : State) : (modSec f s).evm = s.evm := rfl
@[simp] theorem modSec_recd (f : Sec → Sec) (s : State) : (modSec f s).recd = s.recd := rfl
@[simp] theorem modSec_mbx (f : Sec → Sec) (s : State) : (modSec f s).mbx = s.mbx := rfl
@[simp] theorem modSec_host (f : Sec → Sec) (s : State) : (modSec f s).host = s.host := rfl
@[simp] theorem modSec_fuses (f : Sec → Sec) (s : State) : (modSec f s).fuses = s.fuses := rfl
@[simp] theorem modSec_sec (f : Sec → Sec) (s : State) : (modSec f s).sec = f s.sec := rfl
@[simp] theorem modSec_pwr (f : Sec → Sec) (s : State) : (modSec f s).pwr = s.pwr := rfl
@[simp] theorem modSec_brs (f : Sec → Sec) (s : State) : (modSec f s).brs = s.brs := rfl
@[simp] theorem modSec_tj (f : Sec → Sec) (s : State) : (modSec f s).tj = s.tj := rfl
@[simp] theorem modSec_gpio0 (f : Sec → Sec) (s : State) : (modSec f s).gpio0 = s.gpio0 := rfl
@[simp] theorem modSec_gpio1 (f : Sec → Sec) (s : State) : (modSec f s).gpio1 = s.gpio1 := rfl
@[simp] theorem modSec_draws (f : Sec → Sec) (s : State) : (modSec f s).draws = s.draws := rfl
@[simp] theorem modSec_ptc (f : Sec → Sec) (s : State) : (modSec f s).ptc = s.ptc := rfl
@[simp] theorem modSec_cal (f : Sec → Sec) (s : State) : (modSec f s).cal = s.cal := rfl
@[simp] theorem modSec_ttu (f : Sec → Sec) (s : State) : (modSec f s).ttu = s.ttu := rfl
@[simp] theorem modSec_obs (f : Sec → Sec) (s : State) : (modSec f s).obs = s.obs := rfl
@[simp] theorem modSec_nav (f : Sec → Sec) (s : State) : (modSec f s).nav = s.nav := rfl
@[simp] theorem modSec_qps (f : Sec → Sec) (s : State) : (modSec f s).qps = s.qps := rfl
@[simp] theorem modSec_modes (f : Sec → Sec) (s : State) : (modSec f s).modes = s.modes := rfl
@[simp] theorem modSec_lce (f : Sec → Sec) (s : State) : (modSec f s).lce = s.lce := rfl
@[simp] theorem modSec_fce (f : Sec → Sec) (s : State) : (modSec f s).fce = s.fce := rfl
@[simp] theorem modSec_loops (f : Sec → Sec) (s : State) : (modSec f s).loops = s.loops := rfl
@[simp] theorem modSec_pack (f : Sec → Sec) (s : State) : (modSec f s).pack = s.pack := rfl
@[simp] theorem modSec_ports (f : Sec → Sec) (s : State) : (modSec f s).ports = s.ports := rfl
@[simp] theorem modSec_flight (f : Sec → Sec) (s : State) : (modSec f s).flight = s.flight := rfl

@[simp] theorem modRail_pending (n : Nat) (f : Rail → Rail) (s : State) : (modRail n f s).pending = s.pending := rfl
@[simp] theorem modRail_pins (n : Nat) (f : Rail → Rail) (s : State) : (modRail n f s).pins = s.pins := rfl
@[simp] theorem modRail_aon (n : Nat) (f : Rail → Rail) (s : State) : (modRail n f s).aon = s.aon := rfl
@[simp] theorem modRail_boot (n : Nat) (f : Rail → Rail) (s : State) : (modRail n f s).boot = s.boot := rfl
@[simp] theorem modRail_hdr (n : Nat) (f : Rail → Rail) (s : State) : (modRail n f s).hdr = s.hdr := rfl
@[simp] theorem modRail_sects (n : Nat) (f : Rail → Rail) (s : State) : (modRail n f s).sects = s.sects := rfl
@[simp] theorem modRail_cclk (n : Nat) (f : Rail → Rail) (s : State) : (modRail n f s).cclk = s.cclk := rfl
@[simp] theorem modRail_flash (n : Nat) (f : Rail → Rail) (s : State) : (modRail n f s).flash = s.flash := rfl
@[simp] theorem modRail_sram (n : Nat) (f : Rail → Rail) (s : State) : (modRail n f s).sram = s.sram := rfl
@[simp] theorem modRail_logMem (n : Nat) (f : Rail → Rail) (s : State) : (modRail n f s).logMem = s.logMem := rfl
@[simp] theorem modRail_seq (n : Nat) (f : Rail → Rail) (s : State) : (modRail n f s).seq = s.seq := rfl
@[simp] theorem modRail_cck (n : Nat) (f : Rail → Rail) (s : State) : (modRail n f s).cck = s.cck := rfl
@[simp] theorem modRail_sdir (n : Nat) (f : Rail → Rail) (s : State) : (modRail n f s).sdir = s.sdir := rfl
@[simp] theorem modRail_dirid (n : Nat) (f : Rail → Rail) (s : State) : (modRail n f s).dirid = s.dirid := rfl
@[simp] theorem modRail_lbus (n : Nat) (f : Rail → Rail) (s : State) : (modRail n f s).lbus = s.lbus := rfl
@[simp] theorem modRail_funcReqs (n : Nat) (f : Rail → Rail) (s : State) : (modRail n f s).funcReqs = s.funcReqs := rfl
@[simp] theorem modRail_disabled (n : Nat) (f : Rail → Rail) (s : State) : (modRail n f s).disabled = s.disabled := rfl
@[simp] theorem modRail_forces (n : Nat) (f : Rail → Rail) (s : State) : (modRail n f s).forces = s.forces := rfl
@[simp] theorem modRail_evm (n : Nat) (f : Rail → Rail) (s : State) : (modRail n f s).evm = s.evm := rfl
@[simp] theorem modRail_recd (n : Nat) (f : Rail → Rail) (s : State) : (modRail n f s).recd = s.recd := rfl
@[simp] theorem modRail_mbx (n : Nat) (f : Rail → Rail) (s : State) : (modRail n f s).mbx = s.mbx := rfl
@[simp] theorem modRail_host (n : Nat) (f : Rail → Rail) (s : State) : (modRail n f s).host = s.host := rfl
@[simp] theorem modRail_fuses (n : Nat) (f : Rail → Rail) (s : State) : (modRail n f s).fuses = s.fuses := rfl
@[simp] theorem modRail_sec (n : Nat) (f : Rail → Rail) (s : State) : (modRail n f s).sec = s.sec := rfl
@[simp] theorem modRail_pwr (n : Nat) (f : Rail → Rail) (s : State) : (modRail n f s).pwr = s.pwr := rfl
@[simp] theorem modRail_tj (n : Nat) (f : Rail → Rail) (s : State) : (modRail n f s).tj = s.tj := rfl
@[simp] theorem modRail_gpio0 (n : Nat) (f : Rail → Rail) (s : State) : (modRail n f s).gpio0 = s.gpio0 := rfl
@[simp] theorem modRail_gpio1 (n : Nat) (f : Rail → Rail) (s : State) : (modRail n f s).gpio1 = s.gpio1 := rfl
@[simp] theorem modRail_draws (n : Nat) (f : Rail → Rail) (s : State) : (modRail n f s).draws = s.draws := rfl
@[simp] theorem modRail_ptc (n : Nat) (f : Rail → Rail) (s : State) : (modRail n f s).ptc = s.ptc := rfl
@[simp] theorem modRail_cal (n : Nat) (f : Rail → Rail) (s : State) : (modRail n f s).cal = s.cal := rfl
@[simp] theorem modRail_ttu (n : Nat) (f : Rail → Rail) (s : State) : (modRail n f s).ttu = s.ttu := rfl
@[simp] theorem modRail_obs (n : Nat) (f : Rail → Rail) (s : State) : (modRail n f s).obs = s.obs := rfl
@[simp] theorem modRail_nav (n : Nat) (f : Rail → Rail) (s : State) : (modRail n f s).nav = s.nav := rfl
@[simp] theorem modRail_qps (n : Nat) (f : Rail → Rail) (s : State) : (modRail n f s).qps = s.qps := rfl
@[simp] theorem modRail_modes (n : Nat) (f : Rail → Rail) (s : State) : (modRail n f s).modes = s.modes := rfl
@[simp] theorem modRail_lce (n : Nat) (f : Rail → Rail) (s : State) : (modRail n f s).lce = s.lce := rfl
@[simp] theorem modRail_fce (n : Nat) (f : Rail → Rail) (s : State) : (modRail n f s).fce = s.fce := rfl
@[simp] theorem modRail_loops (n : Nat) (f : Rail → Rail) (s : State) : (modRail n f s).loops = s.loops := rfl
@[simp] theorem modRail_pack (n : Nat) (f : Rail → Rail) (s : State) : (modRail n f s).pack = s.pack := rfl
@[simp] theorem modRail_ports (n : Nat) (f : Rail → Rail) (s : State) : (modRail n f s).ports = s.ports := rfl
@[simp] theorem modRail_flight (n : Nat) (f : Rail → Rail) (s : State) : (modRail n f s).flight = s.flight := rfl

@[simp] theorem modSrc_pending (i : Nat) (f : PtcSrc → PtcSrc) (s : State) : (modSrc i f s).pending = s.pending := rfl
@[simp] theorem modSrc_pins (i : Nat) (f : PtcSrc → PtcSrc) (s : State) : (modSrc i f s).pins = s.pins := rfl
@[simp] theorem modSrc_aon (i : Nat) (f : PtcSrc → PtcSrc) (s : State) : (modSrc i f s).aon = s.aon := rfl
@[simp] theorem modSrc_boot (i : Nat) (f : PtcSrc → PtcSrc) (s : State) : (modSrc i f s).boot = s.boot := rfl
@[simp] theorem modSrc_hdr (i : Nat) (f : PtcSrc → PtcSrc) (s : State) : (modSrc i f s).hdr = s.hdr := rfl
@[simp] theorem modSrc_sects (i : Nat) (f : PtcSrc → PtcSrc) (s : State) : (modSrc i f s).sects = s.sects := rfl
@[simp] theorem modSrc_cclk (i : Nat) (f : PtcSrc → PtcSrc) (s : State) : (modSrc i f s).cclk = s.cclk := rfl
@[simp] theorem modSrc_flash (i : Nat) (f : PtcSrc → PtcSrc) (s : State) : (modSrc i f s).flash = s.flash := rfl
@[simp] theorem modSrc_sram (i : Nat) (f : PtcSrc → PtcSrc) (s : State) : (modSrc i f s).sram = s.sram := rfl
@[simp] theorem modSrc_logMem (i : Nat) (f : PtcSrc → PtcSrc) (s : State) : (modSrc i f s).logMem = s.logMem := rfl
@[simp] theorem modSrc_seq (i : Nat) (f : PtcSrc → PtcSrc) (s : State) : (modSrc i f s).seq = s.seq := rfl
@[simp] theorem modSrc_cck (i : Nat) (f : PtcSrc → PtcSrc) (s : State) : (modSrc i f s).cck = s.cck := rfl
@[simp] theorem modSrc_sdir (i : Nat) (f : PtcSrc → PtcSrc) (s : State) : (modSrc i f s).sdir = s.sdir := rfl
@[simp] theorem modSrc_dirid (i : Nat) (f : PtcSrc → PtcSrc) (s : State) : (modSrc i f s).dirid = s.dirid := rfl
@[simp] theorem modSrc_lbus (i : Nat) (f : PtcSrc → PtcSrc) (s : State) : (modSrc i f s).lbus = s.lbus := rfl
@[simp] theorem modSrc_funcReqs (i : Nat) (f : PtcSrc → PtcSrc) (s : State) : (modSrc i f s).funcReqs = s.funcReqs := rfl
@[simp] theorem modSrc_disabled (i : Nat) (f : PtcSrc → PtcSrc) (s : State) : (modSrc i f s).disabled = s.disabled := rfl
@[simp] theorem modSrc_forces (i : Nat) (f : PtcSrc → PtcSrc) (s : State) : (modSrc i f s).forces = s.forces := rfl
@[simp] theorem modSrc_evm (i : Nat) (f : PtcSrc → PtcSrc) (s : State) : (modSrc i f s).evm = s.evm := rfl
@[simp] theorem modSrc_recd (i : Nat) (f : PtcSrc → PtcSrc) (s : State) : (modSrc i f s).recd = s.recd := rfl
@[simp] theorem modSrc_mbx (i : Nat) (f : PtcSrc → PtcSrc) (s : State) : (modSrc i f s).mbx = s.mbx := rfl
@[simp] theorem modSrc_host (i : Nat) (f : PtcSrc → PtcSrc) (s : State) : (modSrc i f s).host = s.host := rfl
@[simp] theorem modSrc_fuses (i : Nat) (f : PtcSrc → PtcSrc) (s : State) : (modSrc i f s).fuses = s.fuses := rfl
@[simp] theorem modSrc_sec (i : Nat) (f : PtcSrc → PtcSrc) (s : State) : (modSrc i f s).sec = s.sec := rfl
@[simp] theorem modSrc_pwr (i : Nat) (f : PtcSrc → PtcSrc) (s : State) : (modSrc i f s).pwr = s.pwr := rfl
@[simp] theorem modSrc_brs (i : Nat) (f : PtcSrc → PtcSrc) (s : State) : (modSrc i f s).brs = s.brs := rfl
@[simp] theorem modSrc_tj (i : Nat) (f : PtcSrc → PtcSrc) (s : State) : (modSrc i f s).tj = s.tj := rfl
@[simp] theorem modSrc_gpio0 (i : Nat) (f : PtcSrc → PtcSrc) (s : State) : (modSrc i f s).gpio0 = s.gpio0 := rfl
@[simp] theorem modSrc_gpio1 (i : Nat) (f : PtcSrc → PtcSrc) (s : State) : (modSrc i f s).gpio1 = s.gpio1 := rfl
@[simp] theorem modSrc_draws (i : Nat) (f : PtcSrc → PtcSrc) (s : State) : (modSrc i f s).draws = s.draws := rfl
@[simp] theorem modSrc_cal (i : Nat) (f : PtcSrc → PtcSrc) (s : State) : (modSrc i f s).cal = s.cal := rfl
@[simp] theorem modSrc_ttu (i : Nat) (f : PtcSrc → PtcSrc) (s : State) : (modSrc i f s).ttu = s.ttu := rfl
@[simp] theorem modSrc_obs (i : Nat) (f : PtcSrc → PtcSrc) (s : State) : (modSrc i f s).obs = s.obs := rfl
@[simp] theorem modSrc_nav (i : Nat) (f : PtcSrc → PtcSrc) (s : State) : (modSrc i f s).nav = s.nav := rfl
@[simp] theorem modSrc_qps (i : Nat) (f : PtcSrc → PtcSrc) (s : State) : (modSrc i f s).qps = s.qps := rfl
@[simp] theorem modSrc_modes (i : Nat) (f : PtcSrc → PtcSrc) (s : State) : (modSrc i f s).modes = s.modes := rfl
@[simp] theorem modSrc_lce (i : Nat) (f : PtcSrc → PtcSrc) (s : State) : (modSrc i f s).lce = s.lce := rfl
@[simp] theorem modSrc_fce (i : Nat) (f : PtcSrc → PtcSrc) (s : State) : (modSrc i f s).fce = s.fce := rfl
@[simp] theorem modSrc_loops (i : Nat) (f : PtcSrc → PtcSrc) (s : State) : (modSrc i f s).loops = s.loops := rfl
@[simp] theorem modSrc_pack (i : Nat) (f : PtcSrc → PtcSrc) (s : State) : (modSrc i f s).pack = s.pack := rfl
@[simp] theorem modSrc_ports (i : Nat) (f : PtcSrc → PtcSrc) (s : State) : (modSrc i f s).ports = s.ports := rfl
@[simp] theorem modSrc_flight (i : Nat) (f : PtcSrc → PtcSrc) (s : State) : (modSrc i f s).flight = s.flight := rfl

@[simp] theorem modPort_pending (p : Nat) (f : PtpPort → PtpPort) (s : State) : (modPort p f s).pending = s.pending := rfl
@[simp] theorem modPort_pins (p : Nat) (f : PtpPort → PtpPort) (s : State) : (modPort p f s).pins = s.pins := rfl
@[simp] theorem modPort_aon (p : Nat) (f : PtpPort → PtpPort) (s : State) : (modPort p f s).aon = s.aon := rfl
@[simp] theorem modPort_boot (p : Nat) (f : PtpPort → PtpPort) (s : State) : (modPort p f s).boot = s.boot := rfl
@[simp] theorem modPort_hdr (p : Nat) (f : PtpPort → PtpPort) (s : State) : (modPort p f s).hdr = s.hdr := rfl
@[simp] theorem modPort_sects (p : Nat) (f : PtpPort → PtpPort) (s : State) : (modPort p f s).sects = s.sects := rfl
@[simp] theorem modPort_cclk (p : Nat) (f : PtpPort → PtpPort) (s : State) : (modPort p f s).cclk = s.cclk := rfl
@[simp] theorem modPort_flash (p : Nat) (f : PtpPort → PtpPort) (s : State) : (modPort p f s).flash = s.flash := rfl
@[simp] theorem modPort_sram (p : Nat) (f : PtpPort → PtpPort) (s : State) : (modPort p f s).sram = s.sram := rfl
@[simp] theorem modPort_logMem (p : Nat) (f : PtpPort → PtpPort) (s : State) : (modPort p f s).logMem = s.logMem := rfl
@[simp] theorem modPort_seq (p : Nat) (f : PtpPort → PtpPort) (s : State) : (modPort p f s).seq = s.seq := rfl
@[simp] theorem modPort_cck (p : Nat) (f : PtpPort → PtpPort) (s : State) : (modPort p f s).cck = s.cck := rfl
@[simp] theorem modPort_sdir (p : Nat) (f : PtpPort → PtpPort) (s : State) : (modPort p f s).sdir = s.sdir := rfl
@[simp] theorem modPort_dirid (p : Nat) (f : PtpPort → PtpPort) (s : State) : (modPort p f s).dirid = s.dirid := rfl
@[simp] theorem modPort_lbus (p : Nat) (f : PtpPort → PtpPort) (s : State) : (modPort p f s).lbus = s.lbus := rfl
@[simp] theorem modPort_funcReqs (p : Nat) (f : PtpPort → PtpPort) (s : State) : (modPort p f s).funcReqs = s.funcReqs := rfl
@[simp] theorem modPort_disabled (p : Nat) (f : PtpPort → PtpPort) (s : State) : (modPort p f s).disabled = s.disabled := rfl
@[simp] theorem modPort_forces (p : Nat) (f : PtpPort → PtpPort) (s : State) : (modPort p f s).forces = s.forces := rfl
@[simp] theorem modPort_evm (p : Nat) (f : PtpPort → PtpPort) (s : State) : (modPort p f s).evm = s.evm := rfl
@[simp] theorem modPort_recd (p : Nat) (f : PtpPort → PtpPort) (s : State) : (modPort p f s).recd = s.recd := rfl
@[simp] theorem modPort_mbx (p : Nat) (f : PtpPort → PtpPort) (s : State) : (modPort p f s).mbx = s.mbx := rfl
@[simp] theorem modPort_host (p : Nat) (f : PtpPort → PtpPort) (s : State) : (modPort p f s).host = s.host := rfl
@[simp] theorem modPort_fuses (p : Nat) (f : PtpPort → PtpPort) (s : State) : (modPort p f s).fuses = s.fuses := rfl
@[simp] theorem modPort_sec (p : Nat) (f : PtpPort → PtpPort) (s : State) : (modPort p f s).sec = s.sec := rfl
@[simp] theorem modPort_pwr (p : Nat) (f : PtpPort → PtpPort) (s : State) : (modPort p f s).pwr = s.pwr := rfl
@[simp] theorem modPort_brs (p : Nat) (f : PtpPort → PtpPort) (s : State) : (modPort p f s).brs = s.brs := rfl
@[simp] theorem modPort_tj (p : Nat) (f : PtpPort → PtpPort) (s : State) : (modPort p f s).tj = s.tj := rfl
@[simp] theorem modPort_gpio0 (p : Nat) (f : PtpPort → PtpPort) (s : State) : (modPort p f s).gpio0 = s.gpio0 := rfl
@[simp] theorem modPort_gpio1 (p : Nat) (f : PtpPort → PtpPort) (s : State) : (modPort p f s).gpio1 = s.gpio1 := rfl
@[simp] theorem modPort_draws (p : Nat) (f : PtpPort → PtpPort) (s : State) : (modPort p f s).draws = s.draws := rfl
@[simp] theorem modPort_cal (p : Nat) (f : PtpPort → PtpPort) (s : State) : (modPort p f s).cal = s.cal := rfl
@[simp] theorem modPort_ttu (p : Nat) (f : PtpPort → PtpPort) (s : State) : (modPort p f s).ttu = s.ttu := rfl
@[simp] theorem modPort_obs (p : Nat) (f : PtpPort → PtpPort) (s : State) : (modPort p f s).obs = s.obs := rfl
@[simp] theorem modPort_nav (p : Nat) (f : PtpPort → PtpPort) (s : State) : (modPort p f s).nav = s.nav := rfl
@[simp] theorem modPort_qps (p : Nat) (f : PtpPort → PtpPort) (s : State) : (modPort p f s).qps = s.qps := rfl
@[simp] theorem modPort_modes (p : Nat) (f : PtpPort → PtpPort) (s : State) : (modPort p f s).modes = s.modes := rfl
@[simp] theorem modPort_lce (p : Nat) (f : PtpPort → PtpPort) (s : State) : (modPort p f s).lce = s.lce := rfl
@[simp] theorem modPort_fce (p : Nat) (f : PtpPort → PtpPort) (s : State) : (modPort p f s).fce = s.fce := rfl
@[simp] theorem modPort_loops (p : Nat) (f : PtpPort → PtpPort) (s : State) : (modPort p f s).loops = s.loops := rfl
@[simp] theorem modPort_pack (p : Nat) (f : PtpPort → PtpPort) (s : State) : (modPort p f s).pack = s.pack := rfl
@[simp] theorem modPort_ports (p : Nat) (f : PtpPort → PtpPort) (s : State) : (modPort p f s).ports = s.ports := rfl
@[simp] theorem modPort_flight (p : Nat) (f : PtpPort → PtpPort) (s : State) : (modPort p f s).flight = s.flight := rfl

@[simp] theorem setTpl_pending (t : Nat) (q : QpTpl) (s : State) : (setTpl t q s).pending = s.pending := rfl
@[simp] theorem setTpl_pins (t : Nat) (q : QpTpl) (s : State) : (setTpl t q s).pins = s.pins := rfl
@[simp] theorem setTpl_aon (t : Nat) (q : QpTpl) (s : State) : (setTpl t q s).aon = s.aon := rfl
@[simp] theorem setTpl_boot (t : Nat) (q : QpTpl) (s : State) : (setTpl t q s).boot = s.boot := rfl
@[simp] theorem setTpl_hdr (t : Nat) (q : QpTpl) (s : State) : (setTpl t q s).hdr = s.hdr := rfl
@[simp] theorem setTpl_sects (t : Nat) (q : QpTpl) (s : State) : (setTpl t q s).sects = s.sects := rfl
@[simp] theorem setTpl_cclk (t : Nat) (q : QpTpl) (s : State) : (setTpl t q s).cclk = s.cclk := rfl
@[simp] theorem setTpl_flash (t : Nat) (q : QpTpl) (s : State) : (setTpl t q s).flash = s.flash := rfl
@[simp] theorem setTpl_sram (t : Nat) (q : QpTpl) (s : State) : (setTpl t q s).sram = s.sram := rfl
@[simp] theorem setTpl_logMem (t : Nat) (q : QpTpl) (s : State) : (setTpl t q s).logMem = s.logMem := rfl
@[simp] theorem setTpl_seq (t : Nat) (q : QpTpl) (s : State) : (setTpl t q s).seq = s.seq := rfl
@[simp] theorem setTpl_cck (t : Nat) (q : QpTpl) (s : State) : (setTpl t q s).cck = s.cck := rfl
@[simp] theorem setTpl_sdir (t : Nat) (q : QpTpl) (s : State) : (setTpl t q s).sdir = s.sdir := rfl
@[simp] theorem setTpl_dirid (t : Nat) (q : QpTpl) (s : State) : (setTpl t q s).dirid = s.dirid := rfl
@[simp] theorem setTpl_lbus (t : Nat) (q : QpTpl) (s : State) : (setTpl t q s).lbus = s.lbus := rfl
@[simp] theorem setTpl_funcReqs (t : Nat) (q : QpTpl) (s : State) : (setTpl t q s).funcReqs = s.funcReqs := rfl
@[simp] theorem setTpl_disabled (t : Nat) (q : QpTpl) (s : State) : (setTpl t q s).disabled = s.disabled := rfl
@[simp] theorem setTpl_forces (t : Nat) (q : QpTpl) (s : State) : (setTpl t q s).forces = s.forces := rfl
@[simp] theorem setTpl_evm (t : Nat) (q : QpTpl) (s : State) : (setTpl t q s).evm = s.evm := rfl
@[simp] theorem setTpl_recd (t : Nat) (q : QpTpl) (s : State) : (setTpl t q s).recd = s.recd := rfl
@[simp] theorem setTpl_mbx (t : Nat) (q : QpTpl) (s : State) : (setTpl t q s).mbx = s.mbx := rfl
@[simp] theorem setTpl_host (t : Nat) (q : QpTpl) (s : State) : (setTpl t q s).host = s.host := rfl
@[simp] theorem setTpl_fuses (t : Nat) (q : QpTpl) (s : State) : (setTpl t q s).fuses = s.fuses := rfl
@[simp] theorem setTpl_sec (t : Nat) (q : QpTpl) (s : State) : (setTpl t q s).sec = s.sec := rfl
@[simp] theorem setTpl_pwr (t : Nat) (q : QpTpl) (s : State) : (setTpl t q s).pwr = s.pwr := rfl
@[simp] theorem setTpl_brs (t : Nat) (q : QpTpl) (s : State) : (setTpl t q s).brs = s.brs := rfl
@[simp] theorem setTpl_tj (t : Nat) (q : QpTpl) (s : State) : (setTpl t q s).tj = s.tj := rfl
@[simp] theorem setTpl_gpio0 (t : Nat) (q : QpTpl) (s : State) : (setTpl t q s).gpio0 = s.gpio0 := rfl
@[simp] theorem setTpl_gpio1 (t : Nat) (q : QpTpl) (s : State) : (setTpl t q s).gpio1 = s.gpio1 := rfl
@[simp] theorem setTpl_draws (t : Nat) (q : QpTpl) (s : State) : (setTpl t q s).draws = s.draws := rfl
@[simp] theorem setTpl_ptc (t : Nat) (q : QpTpl) (s : State) : (setTpl t q s).ptc = s.ptc := rfl
@[simp] theorem setTpl_cal (t : Nat) (q : QpTpl) (s : State) : (setTpl t q s).cal = s.cal := rfl
@[simp] theorem setTpl_ttu (t : Nat) (q : QpTpl) (s : State) : (setTpl t q s).ttu = s.ttu := rfl
@[simp] theorem setTpl_obs (t : Nat) (q : QpTpl) (s : State) : (setTpl t q s).obs = s.obs := rfl
@[simp] theorem setTpl_nav (t : Nat) (q : QpTpl) (s : State) : (setTpl t q s).nav = s.nav := rfl
@[simp] theorem setTpl_modes (t : Nat) (q : QpTpl) (s : State) : (setTpl t q s).modes = s.modes := rfl
@[simp] theorem setTpl_lce (t : Nat) (q : QpTpl) (s : State) : (setTpl t q s).lce = s.lce := rfl
@[simp] theorem setTpl_fce (t : Nat) (q : QpTpl) (s : State) : (setTpl t q s).fce = s.fce := rfl
@[simp] theorem setTpl_loops (t : Nat) (q : QpTpl) (s : State) : (setTpl t q s).loops = s.loops := rfl
@[simp] theorem setTpl_pack (t : Nat) (q : QpTpl) (s : State) : (setTpl t q s).pack = s.pack := rfl
@[simp] theorem setTpl_ports (t : Nat) (q : QpTpl) (s : State) : (setTpl t q s).ports = s.ports := rfl
@[simp] theorem setTpl_flight (t : Nat) (q : QpTpl) (s : State) : (setTpl t q s).flight = s.flight := rfl

@[simp] theorem modRecd_pending (f : Recorder → Recorder) (s : State) : (modRecd f s).pending = s.pending := rfl
@[simp] theorem modRecd_pins (f : Recorder → Recorder) (s : State) : (modRecd f s).pins = s.pins := rfl
@[simp] theorem modRecd_aon (f : Recorder → Recorder) (s : State) : (modRecd f s).aon = s.aon := rfl
@[simp] theorem modRecd_boot (f : Recorder → Recorder) (s : State) : (modRecd f s).boot = s.boot := rfl
@[simp] theorem modRecd_hdr (f : Recorder → Recorder) (s : State) : (modRecd f s).hdr = s.hdr := rfl
@[simp] theorem modRecd_sects (f : Recorder → Recorder) (s : State) : (modRecd f s).sects = s.sects := rfl
@[simp] theorem modRecd_cclk (f : Recorder → Recorder) (s : State) : (modRecd f s).cclk = s.cclk := rfl
@[simp] theorem modRecd_flash (f : Recorder → Recorder) (s : State) : (modRecd f s).flash = s.flash := rfl
@[simp] theorem modRecd_sram (f : Recorder → Recorder) (s : State) : (modRecd f s).sram = s.sram := rfl
@[simp] theorem modRecd_logMem (f : Recorder → Recorder) (s : State) : (modRecd f s).logMem = s.logMem := rfl
@[simp] theorem modRecd_seq (f : Recorder → Recorder) (s : State) : (modRecd f s).seq = s.seq := rfl
@[simp] theorem modRecd_cck (f : Recorder → Recorder) (s : State) : (modRecd f s).cck = s.cck := rfl
@[simp] theorem modRecd_sdir (f : Recorder → Recorder) (s : State) : (modRecd f s).sdir = s.sdir := rfl
@[simp] theorem modRecd_dirid (f : Recorder → Recorder) (s : State) : (modRecd f s).dirid = s.dirid := rfl
@[simp] theorem modRecd_lbus (f : Recorder → Recorder) (s : State) : (modRecd f s).lbus = s.lbus := rfl
@[simp] theorem modRecd_funcReqs (f : Recorder → Recorder) (s : State) : (modRecd f s).funcReqs = s.funcReqs := rfl
@[simp] theorem modRecd_disabled (f : Recorder → Recorder) (s : State) : (modRecd f s).disabled = s.disabled := rfl
@[simp] theorem modRecd_forces (f : Recorder → Recorder) (s : State) : (modRecd f s).forces = s.forces := rfl
@[simp] theorem modRecd_evm (f : Recorder → Recorder) (s : State) : (modRecd f s).evm = s.evm := rfl
@[simp] theorem modRecd_recd (f : Recorder → Recorder) (s : State) : (modRecd f s).recd = f s.recd := rfl
@[simp] theorem modRecd_mbx (f : Recorder → Recorder) (s : State) : (modRecd f s).mbx = s.mbx := rfl
@[simp] theorem modRecd_host (f : Recorder → Recorder) (s : State) : (modRecd f s).host = s.host := rfl
@[simp] theorem modRecd_fuses (f : Recorder → Recorder) (s : State) : (modRecd f s).fuses = s.fuses := rfl
@[simp] theorem modRecd_sec (f : Recorder → Recorder) (s : State) : (modRecd f s).sec = s.sec := rfl
@[simp] theorem modRecd_pwr (f : Recorder → Recorder) (s : State) : (modRecd f s).pwr = s.pwr := rfl
@[simp] theorem modRecd_brs (f : Recorder → Recorder) (s : State) : (modRecd f s).brs = s.brs := rfl
@[simp] theorem modRecd_tj (f : Recorder → Recorder) (s : State) : (modRecd f s).tj = s.tj := rfl
@[simp] theorem modRecd_gpio0 (f : Recorder → Recorder) (s : State) : (modRecd f s).gpio0 = s.gpio0 := rfl
@[simp] theorem modRecd_gpio1 (f : Recorder → Recorder) (s : State) : (modRecd f s).gpio1 = s.gpio1 := rfl
@[simp] theorem modRecd_draws (f : Recorder → Recorder) (s : State) : (modRecd f s).draws = s.draws := rfl
@[simp] theorem modRecd_ptc (f : Recorder → Recorder) (s : State) : (modRecd f s).ptc = s.ptc := rfl
@[simp] theorem modRecd_cal (f : Recorder → Recorder) (s : State) : (modRecd f s).cal = s.cal := rfl
@[simp] theorem modRecd_ttu (f : Recorder → Recorder) (s : State) : (modRecd f s).ttu = s.ttu := rfl
@[simp] theorem modRecd_obs (f : Recorder → Recorder) (s : State) : (modRecd f s).obs = s.obs := rfl
@[simp] theorem modRecd_nav (f : Recorder → Recorder) (s : State) : (modRecd f s).nav = s.nav := rfl
@[simp] theorem modRecd_qps (f : Recorder → Recorder) (s : State) : (modRecd f s).qps = s.qps := rfl
@[simp] theorem modRecd_modes (f : Recorder → Recorder) (s : State) : (modRecd f s).modes = s.modes := rfl
@[simp] theorem modRecd_lce (f : Recorder → Recorder) (s : State) : (modRecd f s).lce = s.lce := rfl
@[simp] theorem modRecd_fce (f : Recorder → Recorder) (s : State) : (modRecd f s).fce = s.fce := rfl
@[simp] theorem modRecd_loops (f : Recorder → Recorder) (s : State) : (modRecd f s).loops = s.loops := rfl
@[simp] theorem modRecd_pack (f : Recorder → Recorder) (s : State) : (modRecd f s).pack = s.pack := rfl
@[simp] theorem modRecd_ports (f : Recorder → Recorder) (s : State) : (modRecd f s).ports = s.ports := rfl
@[simp] theorem modRecd_flight (f : Recorder → Recorder) (s : State) : (modRecd f s).flight = s.flight := rfl

@[simp] theorem setSer_pending (p : Nat) (x : SerPort) (s : State) : (setSer p x s).pending = s.pending := rfl
@[simp] theorem setSer_pins (p : Nat) (x : SerPort) (s : State) : (setSer p x s).pins = s.pins := rfl
@[simp] theorem setSer_aon (p : Nat) (x : SerPort) (s : State) : (setSer p x s).aon = s.aon := rfl
@[simp] theorem setSer_boot (p : Nat) (x : SerPort) (s : State) : (setSer p x s).boot = s.boot := rfl
@[simp] theorem setSer_hdr (p : Nat) (x : SerPort) (s : State) : (setSer p x s).hdr = s.hdr := rfl
@[simp] theorem setSer_sects (p : Nat) (x : SerPort) (s : State) : (setSer p x s).sects = s.sects := rfl
@[simp] theorem setSer_cclk (p : Nat) (x : SerPort) (s : State) : (setSer p x s).cclk = s.cclk := rfl
@[simp] theorem setSer_flash (p : Nat) (x : SerPort) (s : State) : (setSer p x s).flash = s.flash := rfl
@[simp] theorem setSer_sram (p : Nat) (x : SerPort) (s : State) : (setSer p x s).sram = s.sram := rfl
@[simp] theorem setSer_logMem (p : Nat) (x : SerPort) (s : State) : (setSer p x s).logMem = s.logMem := rfl
@[simp] theorem setSer_seq (p : Nat) (x : SerPort) (s : State) : (setSer p x s).seq = s.seq := rfl
@[simp] theorem setSer_cck (p : Nat) (x : SerPort) (s : State) : (setSer p x s).cck = s.cck := rfl
@[simp] theorem setSer_sdir (p : Nat) (x : SerPort) (s : State) : (setSer p x s).sdir = s.sdir := rfl
@[simp] theorem setSer_dirid (p : Nat) (x : SerPort) (s : State) : (setSer p x s).dirid = s.dirid := rfl
@[simp] theorem setSer_lbus (p : Nat) (x : SerPort) (s : State) : (setSer p x s).lbus = s.lbus := rfl
@[simp] theorem setSer_funcReqs (p : Nat) (x : SerPort) (s : State) : (setSer p x s).funcReqs = s.funcReqs := rfl
@[simp] theorem setSer_disabled (p : Nat) (x : SerPort) (s : State) : (setSer p x s).disabled = s.disabled := rfl
@[simp] theorem setSer_forces (p : Nat) (x : SerPort) (s : State) : (setSer p x s).forces = s.forces := rfl
@[simp] theorem setSer_evm (p : Nat) (x : SerPort) (s : State) : (setSer p x s).evm = s.evm := rfl
@[simp] theorem setSer_recd (p : Nat) (x : SerPort) (s : State) : (setSer p x s).recd = s.recd := rfl
@[simp] theorem setSer_mbx (p : Nat) (x : SerPort) (s : State) : (setSer p x s).mbx = s.mbx := rfl
@[simp] theorem setSer_host (p : Nat) (x : SerPort) (s : State) : (setSer p x s).host = s.host := rfl
@[simp] theorem setSer_fuses (p : Nat) (x : SerPort) (s : State) : (setSer p x s).fuses = s.fuses := rfl
@[simp] theorem setSer_sec (p : Nat) (x : SerPort) (s : State) : (setSer p x s).sec = s.sec := rfl
@[simp] theorem setSer_pwr (p : Nat) (x : SerPort) (s : State) : (setSer p x s).pwr = s.pwr := rfl
@[simp] theorem setSer_brs (p : Nat) (x : SerPort) (s : State) : (setSer p x s).brs = s.brs := rfl
@[simp] theorem setSer_tj (p : Nat) (x : SerPort) (s : State) : (setSer p x s).tj = s.tj := rfl
@[simp] theorem setSer_gpio0 (p : Nat) (x : SerPort) (s : State) : (setSer p x s).gpio0 = s.gpio0 := rfl
@[simp] theorem setSer_gpio1 (p : Nat) (x : SerPort) (s : State) : (setSer p x s).gpio1 = s.gpio1 := rfl
@[simp] theorem setSer_draws (p : Nat) (x : SerPort) (s : State) : (setSer p x s).draws = s.draws := rfl
@[simp] theorem setSer_ptc (p : Nat) (x : SerPort) (s : State) : (setSer p x s).ptc = s.ptc := rfl
@[simp] theorem setSer_cal (p : Nat) (x : SerPort) (s : State) : (setSer p x s).cal = s.cal := rfl
@[simp] theorem setSer_ttu (p : Nat) (x : SerPort) (s : State) : (setSer p x s).ttu = s.ttu := rfl
@[simp] theorem setSer_obs (p : Nat) (x : SerPort) (s : State) : (setSer p x s).obs = s.obs := rfl
@[simp] theorem setSer_nav (p : Nat) (x : SerPort) (s : State) : (setSer p x s).nav = s.nav := rfl
@[simp] theorem setSer_qps (p : Nat) (x : SerPort) (s : State) : (setSer p x s).qps = s.qps := rfl
@[simp] theorem setSer_modes (p : Nat) (x : SerPort) (s : State) : (setSer p x s).modes = s.modes := rfl
@[simp] theorem setSer_lce (p : Nat) (x : SerPort) (s : State) : (setSer p x s).lce = s.lce := rfl
@[simp] theorem setSer_fce (p : Nat) (x : SerPort) (s : State) : (setSer p x s).fce = s.fce := rfl
@[simp] theorem setSer_loops (p : Nat) (x : SerPort) (s : State) : (setSer p x s).loops = s.loops := rfl
@[simp] theorem setSer_pack (p : Nat) (x : SerPort) (s : State) : (setSer p x s).pack = s.pack := rfl
@[simp] theorem setSer_flight (p : Nat) (x : SerPort) (s : State) : (setSer p x s).flight = s.flight := rfl

@[simp] theorem modSer_pending (p : Nat) (f : SerPort → SerPort) (s : State) : (modSer p f s).pending = s.pending := rfl
@[simp] theorem modSer_pins (p : Nat) (f : SerPort → SerPort) (s : State) : (modSer p f s).pins = s.pins := rfl
@[simp] theorem modSer_aon (p : Nat) (f : SerPort → SerPort) (s : State) : (modSer p f s).aon = s.aon := rfl
@[simp] theorem modSer_boot (p : Nat) (f : SerPort → SerPort) (s : State) : (modSer p f s).boot = s.boot := rfl
@[simp] theorem modSer_hdr (p : Nat) (f : SerPort → SerPort) (s : State) : (modSer p f s).hdr = s.hdr := rfl
@[simp] theorem modSer_sects (p : Nat) (f : SerPort → SerPort) (s : State) : (modSer p f s).sects = s.sects := rfl
@[simp] theorem modSer_cclk (p : Nat) (f : SerPort → SerPort) (s : State) : (modSer p f s).cclk = s.cclk := rfl
@[simp] theorem modSer_flash (p : Nat) (f : SerPort → SerPort) (s : State) : (modSer p f s).flash = s.flash := rfl
@[simp] theorem modSer_sram (p : Nat) (f : SerPort → SerPort) (s : State) : (modSer p f s).sram = s.sram := rfl
@[simp] theorem modSer_logMem (p : Nat) (f : SerPort → SerPort) (s : State) : (modSer p f s).logMem = s.logMem := rfl
@[simp] theorem modSer_seq (p : Nat) (f : SerPort → SerPort) (s : State) : (modSer p f s).seq = s.seq := rfl
@[simp] theorem modSer_cck (p : Nat) (f : SerPort → SerPort) (s : State) : (modSer p f s).cck = s.cck := rfl
@[simp] theorem modSer_sdir (p : Nat) (f : SerPort → SerPort) (s : State) : (modSer p f s).sdir = s.sdir := rfl
@[simp] theorem modSer_dirid (p : Nat) (f : SerPort → SerPort) (s : State) : (modSer p f s).dirid = s.dirid := rfl
@[simp] theorem modSer_lbus (p : Nat) (f : SerPort → SerPort) (s : State) : (modSer p f s).lbus = s.lbus := rfl
@[simp] theorem modSer_funcReqs (p : Nat) (f : SerPort → SerPort) (s : State) : (modSer p f s).funcReqs = s.funcReqs := rfl
@[simp] theorem modSer_disabled (p : Nat) (f : SerPort → SerPort) (s : State) : (modSer p f s).disabled = s.disabled := rfl
@[simp] theorem modSer_forces (p : Nat) (f : SerPort → SerPort) (s : State) : (modSer p f s).forces = s.forces := rfl
@[simp] theorem modSer_evm (p : Nat) (f : SerPort → SerPort) (s : State) : (modSer p f s).evm = s.evm := rfl
@[simp] theorem modSer_recd (p : Nat) (f : SerPort → SerPort) (s : State) : (modSer p f s).recd = s.recd := rfl
@[simp] theorem modSer_mbx (p : Nat) (f : SerPort → SerPort) (s : State) : (modSer p f s).mbx = s.mbx := rfl
@[simp] theorem modSer_host (p : Nat) (f : SerPort → SerPort) (s : State) : (modSer p f s).host = s.host := rfl
@[simp] theorem modSer_fuses (p : Nat) (f : SerPort → SerPort) (s : State) : (modSer p f s).fuses = s.fuses := rfl
@[simp] theorem modSer_sec (p : Nat) (f : SerPort → SerPort) (s : State) : (modSer p f s).sec = s.sec := rfl
@[simp] theorem modSer_pwr (p : Nat) (f : SerPort → SerPort) (s : State) : (modSer p f s).pwr = s.pwr := rfl
@[simp] theorem modSer_brs (p : Nat) (f : SerPort → SerPort) (s : State) : (modSer p f s).brs = s.brs := rfl
@[simp] theorem modSer_tj (p : Nat) (f : SerPort → SerPort) (s : State) : (modSer p f s).tj = s.tj := rfl
@[simp] theorem modSer_gpio0 (p : Nat) (f : SerPort → SerPort) (s : State) : (modSer p f s).gpio0 = s.gpio0 := rfl
@[simp] theorem modSer_gpio1 (p : Nat) (f : SerPort → SerPort) (s : State) : (modSer p f s).gpio1 = s.gpio1 := rfl
@[simp] theorem modSer_draws (p : Nat) (f : SerPort → SerPort) (s : State) : (modSer p f s).draws = s.draws := rfl
@[simp] theorem modSer_ptc (p : Nat) (f : SerPort → SerPort) (s : State) : (modSer p f s).ptc = s.ptc := rfl
@[simp] theorem modSer_cal (p : Nat) (f : SerPort → SerPort) (s : State) : (modSer p f s).cal = s.cal := rfl
@[simp] theorem modSer_ttu (p : Nat) (f : SerPort → SerPort) (s : State) : (modSer p f s).ttu = s.ttu := rfl
@[simp] theorem modSer_obs (p : Nat) (f : SerPort → SerPort) (s : State) : (modSer p f s).obs = s.obs := rfl
@[simp] theorem modSer_nav (p : Nat) (f : SerPort → SerPort) (s : State) : (modSer p f s).nav = s.nav := rfl
@[simp] theorem modSer_qps (p : Nat) (f : SerPort → SerPort) (s : State) : (modSer p f s).qps = s.qps := rfl
@[simp] theorem modSer_modes (p : Nat) (f : SerPort → SerPort) (s : State) : (modSer p f s).modes = s.modes := rfl
@[simp] theorem modSer_lce (p : Nat) (f : SerPort → SerPort) (s : State) : (modSer p f s).lce = s.lce := rfl
@[simp] theorem modSer_fce (p : Nat) (f : SerPort → SerPort) (s : State) : (modSer p f s).fce = s.fce := rfl
@[simp] theorem modSer_loops (p : Nat) (f : SerPort → SerPort) (s : State) : (modSer p f s).loops = s.loops := rfl
@[simp] theorem modSer_pack (p : Nat) (f : SerPort → SerPort) (s : State) : (modSer p f s).pack = s.pack := rfl
@[simp] theorem modSer_flight (p : Nat) (f : SerPort → SerPort) (s : State) : (modSer p f s).flight = s.flight := rfl

@[simp] theorem modTtu_pending (n : Nat) (f : Ttu → Ttu) (s : State) : (modTtu n f s).pending = s.pending := rfl
@[simp] theorem modTtu_pins (n : Nat) (f : Ttu → Ttu) (s : State) : (modTtu n f s).pins = s.pins := rfl
@[simp] theorem modTtu_aon (n : Nat) (f : Ttu → Ttu) (s : State) : (modTtu n f s).aon = s.aon := rfl
@[simp] theorem modTtu_boot (n : Nat) (f : Ttu → Ttu) (s : State) : (modTtu n f s).boot = s.boot := rfl
@[simp] theorem modTtu_hdr (n : Nat) (f : Ttu → Ttu) (s : State) : (modTtu n f s).hdr = s.hdr := rfl
@[simp] theorem modTtu_sects (n : Nat) (f : Ttu → Ttu) (s : State) : (modTtu n f s).sects = s.sects := rfl
@[simp] theorem modTtu_cclk (n : Nat) (f : Ttu → Ttu) (s : State) : (modTtu n f s).cclk = s.cclk := rfl
@[simp] theorem modTtu_flash (n : Nat) (f : Ttu → Ttu) (s : State) : (modTtu n f s).flash = s.flash := rfl
@[simp] theorem modTtu_sram (n : Nat) (f : Ttu → Ttu) (s : State) : (modTtu n f s).sram = s.sram := rfl
@[simp] theorem modTtu_logMem (n : Nat) (f : Ttu → Ttu) (s : State) : (modTtu n f s).logMem = s.logMem := rfl
@[simp] theorem modTtu_seq (n : Nat) (f : Ttu → Ttu) (s : State) : (modTtu n f s).seq = s.seq := rfl
@[simp] theorem modTtu_cck (n : Nat) (f : Ttu → Ttu) (s : State) : (modTtu n f s).cck = s.cck := rfl
@[simp] theorem modTtu_sdir (n : Nat) (f : Ttu → Ttu) (s : State) : (modTtu n f s).sdir = s.sdir := rfl
@[simp] theorem modTtu_dirid (n : Nat) (f : Ttu → Ttu) (s : State) : (modTtu n f s).dirid = s.dirid := rfl
@[simp] theorem modTtu_lbus (n : Nat) (f : Ttu → Ttu) (s : State) : (modTtu n f s).lbus = s.lbus := rfl
@[simp] theorem modTtu_funcReqs (n : Nat) (f : Ttu → Ttu) (s : State) : (modTtu n f s).funcReqs = s.funcReqs := rfl
@[simp] theorem modTtu_disabled (n : Nat) (f : Ttu → Ttu) (s : State) : (modTtu n f s).disabled = s.disabled := rfl
@[simp] theorem modTtu_forces (n : Nat) (f : Ttu → Ttu) (s : State) : (modTtu n f s).forces = s.forces := rfl
@[simp] theorem modTtu_evm (n : Nat) (f : Ttu → Ttu) (s : State) : (modTtu n f s).evm = s.evm := rfl
@[simp] theorem modTtu_recd (n : Nat) (f : Ttu → Ttu) (s : State) : (modTtu n f s).recd = s.recd := rfl
@[simp] theorem modTtu_mbx (n : Nat) (f : Ttu → Ttu) (s : State) : (modTtu n f s).mbx = s.mbx := rfl
@[simp] theorem modTtu_host (n : Nat) (f : Ttu → Ttu) (s : State) : (modTtu n f s).host = s.host := rfl
@[simp] theorem modTtu_fuses (n : Nat) (f : Ttu → Ttu) (s : State) : (modTtu n f s).fuses = s.fuses := rfl
@[simp] theorem modTtu_sec (n : Nat) (f : Ttu → Ttu) (s : State) : (modTtu n f s).sec = s.sec := rfl
@[simp] theorem modTtu_pwr (n : Nat) (f : Ttu → Ttu) (s : State) : (modTtu n f s).pwr = s.pwr := rfl
@[simp] theorem modTtu_brs (n : Nat) (f : Ttu → Ttu) (s : State) : (modTtu n f s).brs = s.brs := rfl
@[simp] theorem modTtu_tj (n : Nat) (f : Ttu → Ttu) (s : State) : (modTtu n f s).tj = s.tj := rfl
@[simp] theorem modTtu_gpio0 (n : Nat) (f : Ttu → Ttu) (s : State) : (modTtu n f s).gpio0 = s.gpio0 := rfl
@[simp] theorem modTtu_gpio1 (n : Nat) (f : Ttu → Ttu) (s : State) : (modTtu n f s).gpio1 = s.gpio1 := rfl
@[simp] theorem modTtu_draws (n : Nat) (f : Ttu → Ttu) (s : State) : (modTtu n f s).draws = s.draws := rfl
@[simp] theorem modTtu_ptc (n : Nat) (f : Ttu → Ttu) (s : State) : (modTtu n f s).ptc = s.ptc := rfl
@[simp] theorem modTtu_cal (n : Nat) (f : Ttu → Ttu) (s : State) : (modTtu n f s).cal = s.cal := rfl
@[simp] theorem modTtu_obs (n : Nat) (f : Ttu → Ttu) (s : State) : (modTtu n f s).obs = s.obs := rfl
@[simp] theorem modTtu_nav (n : Nat) (f : Ttu → Ttu) (s : State) : (modTtu n f s).nav = s.nav := rfl
@[simp] theorem modTtu_qps (n : Nat) (f : Ttu → Ttu) (s : State) : (modTtu n f s).qps = s.qps := rfl
@[simp] theorem modTtu_modes (n : Nat) (f : Ttu → Ttu) (s : State) : (modTtu n f s).modes = s.modes := rfl
@[simp] theorem modTtu_lce (n : Nat) (f : Ttu → Ttu) (s : State) : (modTtu n f s).lce = s.lce := rfl
@[simp] theorem modTtu_fce (n : Nat) (f : Ttu → Ttu) (s : State) : (modTtu n f s).fce = s.fce := rfl
@[simp] theorem modTtu_loops (n : Nat) (f : Ttu → Ttu) (s : State) : (modTtu n f s).loops = s.loops := rfl
@[simp] theorem modTtu_pack (n : Nat) (f : Ttu → Ttu) (s : State) : (modTtu n f s).pack = s.pack := rfl
@[simp] theorem modTtu_ports (n : Nat) (f : Ttu → Ttu) (s : State) : (modTtu n f s).ports = s.ports := rfl
@[simp] theorem modTtu_flight (n : Nat) (f : Ttu → Ttu) (s : State) : (modTtu n f s).flight = s.flight := rfl

@[simp] theorem dropLane_pending (s : State) : (dropLane s).pending = s.pending := rfl
@[simp] theorem dropLane_pins (s : State) : (dropLane s).pins = s.pins := rfl
@[simp] theorem dropLane_aon (s : State) : (dropLane s).aon = s.aon := rfl
@[simp] theorem dropLane_boot (s : State) : (dropLane s).boot = s.boot := rfl
@[simp] theorem dropLane_hdr (s : State) : (dropLane s).hdr = s.hdr := rfl
@[simp] theorem dropLane_sects (s : State) : (dropLane s).sects = s.sects := rfl
@[simp] theorem dropLane_cclk (s : State) : (dropLane s).cclk = s.cclk := rfl
@[simp] theorem dropLane_flash (s : State) : (dropLane s).flash = s.flash := rfl
@[simp] theorem dropLane_sram (s : State) : (dropLane s).sram = s.sram := rfl
@[simp] theorem dropLane_logMem (s : State) : (dropLane s).logMem = s.logMem := rfl
@[simp] theorem dropLane_cck (s : State) : (dropLane s).cck = s.cck := rfl
@[simp] theorem dropLane_sdir (s : State) : (dropLane s).sdir = s.sdir := rfl
@[simp] theorem dropLane_dirid (s : State) : (dropLane s).dirid = s.dirid := rfl
@[simp] theorem dropLane_lbus (s : State) : (dropLane s).lbus = s.lbus := rfl
@[simp] theorem dropLane_funcReqs (s : State) : (dropLane s).funcReqs = s.funcReqs := rfl
@[simp] theorem dropLane_disabled (s : State) : (dropLane s).disabled = s.disabled := rfl
@[simp] theorem dropLane_forces (s : State) : (dropLane s).forces = s.forces := rfl
@[simp] theorem dropLane_evm (s : State) : (dropLane s).evm = s.evm := rfl
@[simp] theorem dropLane_recd (s : State) : (dropLane s).recd = s.recd := rfl
@[simp] theorem dropLane_mbx (s : State) : (dropLane s).mbx = s.mbx := rfl
@[simp] theorem dropLane_host (s : State) : (dropLane s).host = s.host := rfl
@[simp] theorem dropLane_fuses (s : State) : (dropLane s).fuses = s.fuses := rfl
@[simp] theorem dropLane_sec (s : State) : (dropLane s).sec = s.sec := rfl
@[simp] theorem dropLane_pwr (s : State) : (dropLane s).pwr = s.pwr := rfl
@[simp] theorem dropLane_brs (s : State) : (dropLane s).brs = s.brs := rfl
@[simp] theorem dropLane_tj (s : State) : (dropLane s).tj = s.tj := rfl
@[simp] theorem dropLane_gpio0 (s : State) : (dropLane s).gpio0 = s.gpio0 := rfl
@[simp] theorem dropLane_gpio1 (s : State) : (dropLane s).gpio1 = s.gpio1 := rfl
@[simp] theorem dropLane_draws (s : State) : (dropLane s).draws = s.draws := rfl
@[simp] theorem dropLane_ptc (s : State) : (dropLane s).ptc = s.ptc := rfl
@[simp] theorem dropLane_cal (s : State) : (dropLane s).cal = s.cal := rfl
@[simp] theorem dropLane_ttu (s : State) : (dropLane s).ttu = s.ttu := rfl
@[simp] theorem dropLane_obs (s : State) : (dropLane s).obs = s.obs := rfl
@[simp] theorem dropLane_nav (s : State) : (dropLane s).nav = s.nav := rfl
@[simp] theorem dropLane_qps (s : State) : (dropLane s).qps = s.qps := rfl
@[simp] theorem dropLane_modes (s : State) : (dropLane s).modes = s.modes := rfl
@[simp] theorem dropLane_lce (s : State) : (dropLane s).lce = s.lce := rfl
@[simp] theorem dropLane_fce (s : State) : (dropLane s).fce = s.fce := rfl
@[simp] theorem dropLane_loops (s : State) : (dropLane s).loops = s.loops := rfl
@[simp] theorem dropLane_pack (s : State) : (dropLane s).pack = s.pack := rfl
@[simp] theorem dropLane_ports (s : State) : (dropLane s).ports = s.ports := rfl
@[simp] theorem dropLane_flight (s : State) : (dropLane s).flight = s.flight := rfl

end Sys2Proof.Machine
end

