-- ==== Sys2Proof/WellFormed.lean ====
section
/-! DEFINITION. Sys2Proof/WellFormed.lean: which commands the spec admits: operand values that an encoding table reserves, and operands of
events that no hardware can deliver, are ill formed. What a command's payload may carry is judged by the device, not here. -/

namespace Sys2Proof

/-- A PTP time: seconds in 48 bits, nanoseconds below 10^9 (R393). -/
def PtpTime.wf (t : PtpTime) : Bool := decide (t.secs < 2 ^ 48) && decide (t.nanos < 1000000000)

/-- The fields of an Announce fit their octets (R395). -/
def PtpAnnounce.wf (a : PtpAnnounce) : Bool :=
  decide (a.prio1 < 256) && decide (a.cls < 256) && decide (a.accuracy < 256) && decide (a.variance < 65536) && decide (a.prio2 < 256)
    && decide (a.steps < 65536) && decide (-32768 ≤ a.utcOff ∧ a.utcOff < 32768)

/-- Data bytes of a CAN frame by its DLC (R428). -/
def canDlcLen (fdf : Bool) (dlc : Nat) : Nat :=
  if dlc ≤ 8 then dlc else if !fdf then 8 else ([12, 16, 20, 24, 32, 48, 64][dlc - 9]?).getD 0

/-- A CAN frame: its data as its DLC says, none in a remote frame, which is a classic frame; an 11-bit identifier without IDE; BRS and
ESI in FD frames only (R428). -/
def CanFrame.wf (f : CanFrame) : Bool :=
  decide (f.data.length = if f.remote then 0 else canDlcLen f.fdf f.dlc.toNat) && !(f.remote && f.fdf) && (f.ide || decide (f.id.toNat < 2048))
    && (f.fdf || (!f.brs && !f.esi))

/-- A pack frame's records: at most 16 words each with their qualities, a two-bit selector, a one-byte group (R350). -/
def PackFrame.wf (f : PackFrame) : Bool :=
  f.recs.all (fun r => decide (r.psel < 4) && decide (r.group < 256) && decide (r.words.length = r.quals.length) && decide (1 ≤ r.words.length ∧ r.words.length ≤ 16))

/-- An equalisation item: index 0 but for LCE contexts and QPS templates, an LCE record of 64 bytes, a warm-start record of 8 to 776 bytes (Table 11-9). -/
def EqItem.wf (x : EqItem) : Bool :=
  match x.body with
  | .lce ws => decide (ws.length = 16)
  | .qps b => decide (x.index.toNat < 16 ∧ 8 ≤ b.length ∧ b.length ≤ 776)
  | _ => x.index == 0

/-- The four sample ports (R160). -/
def NavSamples.wf (e : NavSamples) : Bool := decide (e.counts.length = 4)

def NavDone.wf : NavDone → Bool
  | .epoch e => e.wf
  | _ => true

/-- A UDP datagram fits the frame that carries it, whose headers and check sequence take 46 bytes (R445). -/
def EthFrame.wf (f : EthFrame) : Bool :=
  match f.body with
  | .udp _ _ _ _ _ _ _ p => decide (p.length + 46 ≤ f.len)
  | _ => true

/-- SGMII speeds (R444). -/
def LinkWord.wf (w : LinkWord) : Bool := w.speed == 10 || w.speed == 100 || w.speed == 1000

/-- Well-formed commands. -/
def wellFormed : Instr → Bool
  | .nop eng => decide (eng.toNat ≤ 0x30) && decide (eng.toNat ≠ 1)
  | .acqCtl mode => decide (mode.toNat < 3)
  | .trkSnap ch => decide (ch.toNat < 192)
  | .farIter _ count => decide (count.toNat ≠ 0)
  | .anvSel _ sel | .lpoRbsel _ sel | .lpiSel _ sel => decide (sel.toNat < 3)
  | .evmCheck slot => decide (slot.toNat ≤ 254)
  | .eqSnap item index =>
    decide (1 ≤ item.toNat ∧ item.toNat ≤ 5) && (decide (item.toNat = 3) || (decide (item.toNat = 4) && decide (index.toNat < 16)) || decide (index.toNat = 0))
  | .navBootstrapEpoch e => e.wf
  | .navOpComplete d => d.wf
  | .frameSync _ ns => decide (0 ≤ ns)
  | .hartFrameReceived _ f => decide (f.bytes.length ≤ 267)
  | .hartPass _ _ _ _ _ data => decide (data.length ≤ 255)
  | .ringFrameReceived _ f _ _ => f.wf
  | .leashEqReceived _ _ x => x.wf
  | .ptpSyncReceived _ _ _ t => t.wf
  | .ptpFollowUpReceived _ _ t => t.wf
  | .ptpAnnounceReceived _ a => a.wf
  | .ptpDelayResponseReceived _ _ rx tx => rx.wf && tx.wf
  | .canFrameReceived _ f _ => f.wf
  | .serTelegramReceived _ b => !b.isEmpty
  | .serChunkClose _ b => !b.isEmpty
  | .ethFrameReceived _ f => f.wf
  | .ethLink _ w => w.wf
  | .mepRequest _ f => decide (f.body.length ≤ 1024)
  | .tokenLoad _ _ _ data | .chartWrite _ _ _ _ data => decide (data.length ≤ 48)
  | .pmbPoll l => l.all (fun r => decide (r.rail < 12)) && decide ((l.map (fun r => r.rail)).Nodup)
  | .fceCicOutput _ _ split _ => decide (split ≤ 65536)
  | .porRelease | .porAssert | .resetNLow | .resetNRise | .pfailNLow | .pfailRelease | .recorderFlushEnd | .flushCutoff
  | .resetExit _ _ _ _ | .zeroiserComplete _ | .chartHeadersRead _ _ | .chartCopyStreamed _ | .verifyComplete _ | .sealComplete
  | .syncTmo | .scheduleStart | .contractReset | .slackZoneBegin | .alignerPhaseSample _ | .alignerTrimUpdate | .frameBoundary _
  | .cckStore _ | .cckEccCorr _ | .mark _ | .pwake _ | .pgate _ | .domainWakeComplete _ | .domainAutoWake _ | .land _ | .pub _ _
  | .subst _ _ | .curve _ | .mmul _ | .madd _ | .mruVote | .obsPred | .refIn _ | .refTest _ | .hdgVote | .refVote
  | .obsDrExpired _ | .obsUpd _ | .obsOut | .wind | .windHoldEnd | .pvtSolve | .pvtOut | .hdgSolve | .acqSnap | .epoch | .aiding _
  | .rtcmIn _ | .cchClock _ | .acqPassEnd _ _ _ _ | .aidedDwellEnd _ _ _ | .trkPllLock _ | .acqVerifyTimeout _ | .bitSync _ | .navLockLost _ | .reacqTimeout _
  | .sidePeakMove _ | .navMsgDecoded _ _ _ _ | .navExclude _ _ _ | .navInclude _ _ _ | .fsaBuild _ _ | .farFact _ _ | .farStart _
  | .farEnd _ | .qpsCaptureArm _ _ | .qpsCaptureDisarm _ _ | .modeStep | .armTimeout | .modeReqArm _ _ | .modeReqSwitch _ _
  | .modeReqDisarm _ _ | .modeReqDirect _ _ | .seatFeed _ | .seatTake _ | .tauMix | .pwrShare | .flr | .flrRelease | .allocOut
  | .allocLost | .caPrep _ | .caEval _ | .simStep | .lceStep _ | .lceMode _ _ _ _ _ | .lceBank _ _ _ | .lceTestStart _ _ _
  | .lceTestStop _ _ | .lceInjEnd | .lceCaptureArm _ _ _ | .lceCaptureDisarm _ _ | .lceCapturePage _ _ _ | .fceRestart _
  | .fceStart _ | .modulatorSelectApply _ _ | .qdcZero _ | .qdcZeroApply _ | .qdcTransition _ _ _ | .lpoSet _ | .lpoCodeApply _
  | .lpoLatchStrobe _ | .lpoCheck _ | .lpiCheck _ | .loopClear _ _ | .hartReq _ | .hartRequestSend _ | .hartStoExpiry _ | .pswTx
  | .barkTx | .roleStep | .leaseExpired | .collarClaimWindowEnd | .eqLost | .leashUp _ | .leashDown _ _ _
  | .leashBarkReceived _ _ _ | .leashCmdReceived _ _ _ | .ilkInEdge | .ilkClaimLapse | .roleSwap _ | .packDuplex _ _
  | .partnerReset _ _ | .ptcRead | .ptpPdelayReqReceived _ _ | .ptpMessageTimer _ _ | .ptpSourceTimeout _ | .timeHoldoverEntry
  | .sourceHoldExpired _ | .refClkLost | .refClkBack | .ppsOutRise | .ppsOutFall | .ppsInEdge _ | .ppsInMiss _ | .ttuArm _
  | .ttuStop _ | .ttuProgramArrival _ | .ttuFire _ | .calendarLoad | .timeSet _ _ _ | .canTx _ _ | .canTxArrival _ _
  | .canFrameSent _ _ | .canAttemptEnd _ _ _ _ | .canCancel _ _ | .canCancelArrival _ | .canBusoffRecovery _ _ | .canView _ _ _
  | .serTx _ _ | .serTxArrival _ | .ethTx _ _ | .ethRawChunk _ _ | .mepNonceQuery _ _ | .evtTokenRefill _
  | .evtStickyClear _ _ _ | .recRecordWrite | .recCursorWrite _ _ | .recLoadComplete _ | .recWin7Read _ | .mbxLockRead _ _
  | .mbxCtlPost _ _ | .mbxCtlRelease _ _ | .mbxLockExpired _ | .mbxServe _ | .mbxPost _ _ | .mbxCommandComplete _
  | .standaloneServerLatch _ | .force _ _ _ | .signalRelease _ _ | .funcDisable _ _ _ | .funcEnable _ _ _ | .hspRead _ _
  | .hspWrite _ _ _ _ | .hspStatus | .hspResetMaster _ | .ptcNsRead _ | .registerWrite _ _ _ | .tokenApply _ | .tokenApplyDone
  | .tokenClear _ | .lcTransition _ | .hold _ | .holdRelease _ | .sleep _ _ _ _ _ | .sleepWake _ | .wakeSyncEntry | .revokeDebug _
  | .closeHostauth _ | .secRead | .pwrRead | .dbgAttach _ | .dbgAcc _ _ _ _ | .dbgHalt | .dbgResume | .dbgSwinWrite _ | .tapReset
  | .extest | .clamp | .highz | .pwrDomainFault _ | .brsRankStart | .brsRailEnable _ | .brsPgGood _ | .brsPgTmo _ | .brsPgLost _
  | .brsPgBack _ | .brsRailcmd _ _ | .tjSample _ | .gpioSet _ _ | .gpioLevelChange _ _ | .chartErase _ _ | .chartCommit _ _
  | .chartStatus _ _ | .reanchor _ _ | .serCharacterError _ _ _ | .serTelegramSent _ | .canRxError _ _ _
  | .canIntegrationComplete _ _ | .hspFrameError _ | .hartCarrierDetect _ _ => true

end Sys2Proof
end

