-- ==== Sys2Proof/Tests/Slice0.lean ====
section
/-! SUPPORT. Sys2Proof/Tests/Slice0.lean: small tests of the block: ill-formed operands are refused, words of the manual's tables decode, and concrete states meet the hypotheses of the statements. -/

set_option maxRecDepth 20000

namespace Sys2Proof.Machine

/-- A sealed device whose schedule runs, in STANDBY, with nothing else changed since reset. -/
def live : State :=
  { State.reset with
    boot := { State.reset.boot with dev := .standby, sealed := true, firstWipe := false }
    seq := { State.reset.seq with run := true, ended := false } }

/-- The same with one section of the Chart, every byte of which is v. -/
def table (t : SectType) (i : Nat) (v : Byte) (s : State) : State :=
  { s with sects := [{ type := t, inst := i, dest := 0, len := 0, unpack := 0 }], sram := (List.range 700).map (fun a => (a, v)) }

/-- The same with one section of the Chart whose bytes are 0 but for those listed. -/
def bytes (t : SectType) (i : Nat) (cs : List (Nat × Byte)) (s : State) : State :=
  { s with sects := [{ type := t, inst := i, dest := 0, len := 0, unpack := 0 }], sram := cs }

/-- The same with signal i of a format, a quality and a word. -/
def signal (i : Nat) (fmt : Half) (q : Qual) (w : Word) (s : State) : State := setEnt i { value := w, fmt := fmt, state := q.setWidth 16 } s

/-- The same with signal i held at a word with quality FORCED. -/
def heldSignal (i : Nat) (fmt : Half) (w : Word) (s : State) : State := setEnt i { value := w, fmt := fmt, state := 0x13 } s

/-- The same device in another state of its life. -/
def inDev (d : DevState) (s : State) : State := { s with boot := { s.boot with dev := d } }

theorem witness_runs : issued live 0 0 = true ∧ issued live 2 0 = true ∧ issued live 3 0 = true ∧ issued live 4 0 = true ∧ issued live 5 0 = true
    ∧ issued live 6 0 = true ∧ issued live 8 0 = true ∧ issued live 0x0A 0 = true ∧ issued live 0x0B 0 = true ∧ issued live 0x0C 0 = true
    ∧ issued live 0x0E 0 = true ∧ issued live 0x0F 0 = true ∧ issued live 0x2A 0 = true ∧ issued live 0x2B 0 = true ∧ issued live 0x2C 0 = true
    ∧ issued live 0x2E 0 = true ∧ issued live 0x2F 0 = true ∧ issued live 0x30 0 = true := by decide
theorem witness_parts_issue : issued live 1 0 = true ∧ issued live 9 0 = true ∧ issued live 6 31 = true ∧ issued live 7 63 = true ∧ issued live 0x0D 63 = true ∧ issued live 0x10 0 = true
    ∧ issued live 0x17 0 = true ∧ issued live 0x18 0 = true ∧ issued live 0x23 0 = true ∧ issued live 0x24 0 = true ∧ issued live 0x27 0 = true
    ∧ issued live 0x28 15 = true ∧ issued live 0x29 31 = true ∧ issued live 0x29 64 = true := by decide
/-- Reset, its recorder flush ended. -/
def flushed : State := { State.reset with boot := { State.reset.boot with flushDone := true } }
theorem witness_idle : flushed.pending = [] ∧ wakeOver (navArrivals flushed) = none ∧ (navArrivals flushed).seq.run = false ∧ dueEvent (navArrivals flushed) = none := by decide
theorem witness_next : exec .epoch State.reset = .next State.reset ∧ exec (.lcTransition 0) State.reset = .next State.reset := ⟨rfl, rfl⟩
theorem witness_encode : encodeOp (.mmul 7) = some 0x0C100007 ∧ encodeOp (.nop 2) = some 0x08000000 ∧ decodeOp 0xB8200053 = some (.mbxPost 3 5) := by decide
theorem witness_invariants : Memory.wf flashBlank State.reset.flash = true ∧ Memory.wf 0 State.reset.sram = true ∧ Memory.wf logBlank State.reset.logMem = true
    ∧ State.reset.funcReqs = [] ∧ State.reset.disabled = [] := by decide
theorem witness_curve : (0 : Nat) < fld32 (table .crve 0 1 live) .crve 0 0 ∧ sigNan (table .crve 0 1 live) 0x10101 = false
    ∧ curveOut (bytes .crve 0 [(0, 1), (30, 1)] live) 0 0 = none ∧ 0 < fld32 (bytes .crve 0 [(0, 1)] live) .crve 0 0
    ∧ sigNan (bytes .crve 0 [(0, 1)] live) 0 = false ∧ curveOut (bytes .crve 0 [(0, 1)] live) 0 (sigW (bytes .crve 0 [(0, 1)] live) 0) = some 0
    ∧ fld32 live .crve 0 0 ≤ 0 := by decide
theorem witness_held : State.reset.seq.run = false ∧ live.seq.run = true ∧ live.seq.stopped = false ∧ isDisabled live 8 0 = false ∧ halted live = false
    ∧ halted { live with sec := { live.sec with halted := true } } = true ∧ isDisabled { live with disabled := [(0x0D, 63)] } 0x0D 63 = true
    ∧ isDisabled { live with disabled := [(0x17, 0)] } 0x17 0 = true ∧ isDisabled { live with disabled := [(6, cxGrp live 255)] } 6 (cxGrp live 255) = true
    ∧ domGated { live with pwr := { live.pwr with gated := 0x1F } } .nav = true ∧ domGated { live with pwr := { live.pwr with gated := 0x1F } } .ana = true := by decide
theorem witness_land : 0 < lbuCnt (table .lbut 0 1 live) ∧ issued (table .lbut 0 1 live) 1 0 = true ∧ lbuCnt live ≤ 1023
    ∧ exec (.land 0) (table .lbut 0 1 live) = .next (dropLane (landEffect 0 (table .lbut 0 1 live))) := by
  refine ⟨by decide, by decide, by decide, rfl⟩
theorem witness_subst : sigNan (signal 5 1 qGood 9 live) 5 = false ∧ sigQ (signal 5 1 qGood 9 live) 5 = qGood ∧ sigNan (signal 5 1 qForced 9 live) 5 = false
    ∧ sigQ (signal 5 1 qForced 9 live) 5 = qForced ∧ sigQ (signal 5 1 qSubst 9 live) 5 = qSubst ∧ sigQ (signal 5 1 qStale 9 live) 5 = qStale
    ∧ sigNan (signal 5 1 qGood nanWord live) 5 = true ∧ sigQ (signal 5 4 qNan 9 live) 5 = qNan := by decide
theorem witness_writeSig : entHeld (ent (signal 5 1 qGood 0 live) 5) = false ∧ entHeld { state := 0x10 } = true ∧ entConst { state := 8 } = true ∧ entConst { state := 0x10 } = false
    ∧ entType (ent (signal 5 1 qGood 0 live) 5) = 1 ∧ entType (ent (signal 5 2 qGood 0 live) 5) = 2 ∧ nanWord ≠ 0 ∧ qGood ≠ qNan ∧ qGood ≠ qStale := by decide
theorem witness_worst : sigQ (signal 5 1 qGood 0 live) 5 = qGood ∧ sigQ (signal 5 1 qNan 0 live) 5 = qNan ∧ sigQ (signal 5 1 qStale 0 live) 5 = qStale
    ∧ sigQ (signal 5 1 qSubst 0 live) 5 = qSubst ∧ sigQ (signal 5 1 qForced 0 live) 5 = qForced := by decide
theorem witness_observer : (0 : Nat) < vm (table .vmdl 0 1 live) 0x14 2 ∧ vm live 0x14 2 ≤ 1023 ∧ slotKind (bytes .vmdl 0 [(4, 64), (64, 1)] live) 0 ≠ 0
    ∧ slotKind (bytes .vmdl 0 [(4, 64), (64, 1)] live) 1 = 0 := by decide
theorem witness_solver : (15 : Nat) < tplCnt (bytes .qpst 0 [(0, 16)] live) ∧ (qTpl live 15).broken = false
    ∧ (qTpl { live with qps := { live.qps with tpls := [(15, { (qTpl live 15) with broken := true })] } } 15).broken = true
    ∧ issued (table .lcek 0 1 live) 6 (cxGrp (table .lcek 0 1 live) 255) = true ∧ 255 < ctxCnt (table .lcek 0 1 live) ∧ ctxCnt live ≤ 0 := by decide
theorem witness_converters : (fceChan live 63).started = false ∧ (fceChan (setFce 63 { fceChan live 63 with started := true } live) 63).started = true
    ∧ lpoOn (bytes .pwrt 0 [(0, 1)] live) 0 = true ∧ lpiOn (bytes .pwrt 0 [(0, 1)] live) 0 = true ∧ 0 < txnCnt (bytes .pwrt 0 [(0x14, 1)] live) ∧ hartOff live 0 = false := by decide
theorem witness_ports : 0 < objCnt (table .cant 7 1 live) 7 ∧ objCnt live 7 ≤ 127 ∧ 0 < se (table .sert 11 1 live) 11 0x1C 2 ∧ se live 11 0x1C 2 ≤ 63
    ∧ 0 < et (table .etht 3 1 live) 3 0x12 2 ∧ et live 3 0x12 2 ≤ 63 := by decide
theorem witness_system : evmtFld live 0 0 2 < 0xF000 ∧ mbxtFld live 15 2 2 = 0 ∧ suppressed { live with disabled := [(0x0D, 63)] } ((encodeOp (.ttuArm 63)).getD 0) = true
    ∧ suppressed live ((encodeOp (.ttuArm 63)).getD 0) = false ∧ 0xF000 ≤ evmtFld (table .evmt 0 0xF0 live) 0 0 2 ∧ evmtFld (table .evmt 0 0xF0 live) 0 0 2 ≤ 0xF0FF
    ∧ sigTrue (table .evmt 0 0xF0 live) 0xF0F0 = false ∧ sigTrue (signal 0 4 qGood 1 (bytes .evmt 0 [(65, 0xF0)] live)) 0 = true
    ∧ tget false live.evm.edges 0 = false ∧ mbxtFld (table .mbxt 0 1 live) 15 2 2 ≠ 0 ∧ 0 < fld16 (table .mbxt 0 1 live) .mbxt 0 4
    ∧ (mbxOf live 15).state = .free ∧ live.boot.dev ≠ .sleep ∧ (lockRead 15 3 (setMbx 15 { mbxOf live 15 with state := .locked, owner := 1 } live)).1 ≠ 0
    ∧ bitOf (fld32 (table .pwrt 0 0xFF live) .pwrt 0 0x14) 31 = true ∧ bitOf (fld32 (table .pwrt 0 1 live) .pwrt 0 0x14) 31 = false
    ∧ bitOf (fld32 (table .pwrt 0 1 live) .pwrt 0 0x18) 31 = false := by decide
theorem witness_reset : live.boot.dev ≠ .reset ∧ State.reset.boot.dev = .reset ∧ State.reset.boot.released = false ∧ State.reset.pins.resetN = true
    ∧ State.reset.pins.pfailN = true ∧ ({ State.reset with pins := { State.reset.pins with por := false } }).pins.por = false
    ∧ State.reset.recd.staging = [] ∧ State.reset.boot.flushDone = false ∧ State.reset.recd.hasLog = false
    ∧ flushLate { State.reset with cclk := 800000, recd := { State.reset.recd with hasLog := true, staging := [{ code := 0x0120, seq := 0, flags := 0, source := 0, time := 0, p0 := 0, p1 := 0, p2 := 0 }] } } = true := by decide
/-- Reset, with the POWER-ON assertion ended, a Chart header in copy A and the fuses of a MANUFACTURING device. -/
def released : State :=
  { State.reset with
    pins := { State.reset.pins with por := false }
    boot := { State.reset.boot with released := true, flushDone := true }
    fuses := { State.reset.fuses with lc0 := 1, lc1 := 1 }
    flash := [(0, 0x4A), (1, 0x43), (2, 0x48), (3, 0x54), (0xFC, 0xBD), (0xFD, 0x3A), (0xFE, 0x63), (0xFF, 0x30)] }
theorem witness_boot : released.boot.dev = .reset ∧ released.boot.released = true ∧ released.boot.flushDone = true ∧ (inDev .wipe released).boot.dev = .wipe
    ∧ (inDev .load released).boot.loading = false ∧ lcState (inDev .load released) ≠ 0 ∧ lcState (inDev .load released) ≠ 4
    ∧ isCandidate (flashImg (inDev .load released) false) = true
    ∧ (modBoot (fun b => { b with loading := true }) (inDev .load released)).boot.loading = true := by decide +kernel
theorem witness_seal : (inDev .verify State.reset).boot.dev = .verify ∧ (inDev .verify State.reset).boot.sealing = false
    ∧ (modBoot (fun b => { b with sealing := true }) (inDev .verify State.reset)).boot.sealing = true
    ∧ (inDev .sync State.reset).boot.syncTmo = false ∧ (inDev .sync State.reset).ptc.status = 0 ∧ (inDev .sync State.reset).seq.run = false
    ∧ ({ inDev .sync State.reset with ptc := { State.reset.ptc with status := 1 } }).ptc.status ≠ 0 := by decide
theorem witness_boundary : live.seq.run = true ∧ ({ live with seq := { live.seq with ended := true } }).seq.ended = true
    ∧ ({ live with ptc := { live.ptc with rNext := some 1 } }).ptc.rNext = some 1 := by decide
theorem witness_breach : live.boot.sealed = true ∧ live.cck.breach = false ∧ State.reset.boot.sealed = false
    ∧ (breach 0x0108 0 live).cck.breach = true ∧ (inDev .safeHold (breach 0x0108 0 live)).boot.dev = .safeHold
    ∧ ¬ (live.aon.kind = 4 ∧ (breach 0x0108 0 live).cck.breachAt - live.boot.sealAt < 24000000000)
    ∧ ({ live with aon := { live.aon with kind := 4 } }).aon.kind = 4 ∧ 0 - live.boot.sealAt < 24000000000 := by decide
theorem witness_domains : tget 0 live.pwr.wakeDue (domBit .sec) ≤ live.cclk ∧ live.cclk < tget 0 ({ live.pwr with wakeDue := tset 0 [] (domBit .qps) 1 }).wakeDue (domBit .qps)
    ∧ live.seq.run = true ∧ State.reset.seq.run = false ∧ ({ live with pwr := { live.pwr with gated := 0x1F } }).pwr.gated &&& domMask .qps ≠ 0
    ∧ (live.pwr.gated ||| live.pwr.faulted) &&& domMask .ioe = 0 ∧ (0x10 ||| live.pwr.faulted) &&& domMask .sec ≠ 0 := by decide
/-- A device whose Chart uses rail 0 with rank 0, its sequence begun. -/
def railed : State := { bytes .pwrt 0 [(0x0C, 64), (0x11, 1), (64, 1)] live with brs := { live.brs with begun := true, rank := 0 } }
theorem witness_rails : rankStarts railed = none ∧ rankStarts live = some none ∧ rankStarts { railed with brs := live.brs } = some (some 0)
    ∧ railDue railed 0 = true ∧ railDue live 11 = false ∧ pgLate (modRail 11 (fun x => { x with raised := true, state := .waitPg }) railed) 11 = true ∧ pgLate railed 0 = false
    ∧ railed.boot.sealed = true ∧ State.reset.boot.sealed = false ∧ (railOf railed 0).state ≠ .waitPg ∧ (railOf railed 0).en = false
    ∧ (railOf (modRail 11 (fun x => { x with state := .waitPg }) railed) 11).state = .waitPg
    ∧ (railOf (modRail 11 (fun x => { x with state := .on, en := true }) railed) 11).state = .on ∧ (railOf (modRail 11 (fun x => { x with state := .failed }) railed) 11).state = .failed
    ∧ railed.brs.polls < pollTimes { railed with cclk := 400000 } ∧ pollTimes live ≤ live.brs.polls := by decide
theorem witness_pins : (0 : Word) = (gpioOf live false).levels ∧ (1 : Word) ≠ (gpioOf live true).levels ∧ live.boot.dev ≠ .sleep ∧ (inDev .sleep live).boot.dev = .sleep
    ∧ domGated live .ioe = false ∧ domGated { live with pwr := { live.pwr with gated := 0x1F } } .ioe = true := by decide
theorem witness_tj : live.boot.dev ≠ .reset ∧ live.boot.dev ≠ .sleep ∧ live.tj.last = none ∧ live.tj.high = false ∧ live.cclk < 0 + 400000 ∧ 0 + 400000 ≤ ({ live with cclk := 400000 }).cclk
    ∧ degrees 115 ≤ (0x7FFF : BitVec 16).toInt ∧ (0x8000 : BitVec 16).toInt < degrees 115
    ∧ (0x8000 : BitVec 16).toInt ≤ degrees 110 ∧ degrees 110 < (0x7FFF : BitVec 16).toInt ∧ 999 ≤ ({ live with tj := { live.tj with hot := 999 } }).tj.hot
    ∧ ({ live with tj := { live.tj with high := true, cool := 999 } }).tj.high = true := by decide
/-- A device with one channel, the last, in a state. -/
def tracked (v : NavChan) : State := setNavCh 191 v live
theorem witness_tracking : (track (tracked { state := 2, goodMs := 100 }) (navCh (tracked { state := 2, goodMs := 100 }) 191) []).goodMs = 100 ∧ (track live (navCh live 191) []).state ≠ 2
    ∧ (track live { state := 4, lowCnMs := 0 } []).state = 4 ∧ nv live 0x60 2 ≤ (track live { state := 5 } []).lowLockMs ∧ (track live { state := 1 } []).state = 1
    ∧ (track live { state := 3 } []).lowCnMs < nv (table .navc 0 1 live) 0x60 2
    ∧ (track live { sig := 2, sideMs := 20, state := 5 } []).sideMs = 20 ∧ (track live { sig := 2, state := 5 } []).sig = 2 ∧ (track live { sig := 1, state := 5 } []).sig ≠ 2 := by decide +kernel
theorem witness_channels : (navCh (tracked { state := 3 }) 191).state = 3 ∧ domGated live .nav = false ∧ (navCh live 191).state ≠ 3 ∧ domGated { live with pwr := { live.pwr with gated := 0x1F } } .nav = true
    ∧ (navCh (tracked { state := 4 }) 191).state = 4 ∧ verifyOver live { state := 2 } = true ∧ verifyOver live { state := 3 } = false ∧ reacqOver live { state := 6 } = true ∧ reacqOver live { state := 5 } = false
    ∧ dwelling { state := 1 } = true ∧ dwelling { state := 2, window := true } = true ∧ dwelling { state := 6 } = true ∧ dwelling { state := 5 } = false ∧ 0 + dwellTicks live 0 ≤ live.cclk
    ∧ live.cclk < 1 + dwellTicks live 0 ∧ detects (bytes .navc 0 [(0x57, 255)] live) 0 1 = false ∧ (dwellFound live { state := 1 } []).isSome = true
    ∧ 0 + 1 < aidedDwells (table .navc 0 1 live) { state := 1 } ∧ aidedDwells live { state := 1 } ≤ 99 + 1 := by decide +kernel
/-- A device that searches. -/
def searching : State := { table .navc 0 0x80 live with nav := { live.nav with jobOn := true, acqMode := 1, jobPrn := 1 } }
theorem witness_search : live.nav.jobOn = false ∧ searching.nav.jobOn = true ∧ domGated searching .nav = false ∧ searching.nav.jobAt + passTicks searching ≤ ({ searching with cclk := passTicks searching }).cclk
    ∧ searching.cclk < searching.nav.jobAt + passTicks searching ∧ detects searching 0 1 = false ∧ detects searching 0 0 = true
    ∧ live.nav.acqMode = 0 ∧ searching.nav.acqMode ≠ 0 ∧ searching.nav.jobPass + 1 < jobPasses searching searching.nav.jobSig ∧ jobPasses live 0 ≤ live.nav.jobPass + 1
    ∧ assigned searching (acqAnt searching) searching.nav.jobSig searching.nav.jobPrn = false ∧ (freeCh searching (acqAnt searching) searching.nav.jobSig).isSome = true := by decide +kernel
theorem witness_messages : (navCh live 191).state = 0 ∧ (navCh (tracked { state := 5 }) 191).state ≠ 0 ∧ (navCh (tracked { state := 5 }) 191).sig = 0 ∧ messageOk 0 [] = false
    ∧ (navCh (tracked { state := 5, sig := 4 }) 191).sig = 4 ∧ messageOk 4 (List.replicate 300 false) = true ∧ sbasTypes.contains 1 = true
    ∧ live.nav.excluded.contains (3, 120) = false ∧ (navCh (tracked { state := 5, sig := 7 }) 191).sig ≠ 6
    ∧ takeNavOp 8 1 (navArrivals live) = none
    ∧ bitOf (tt (bytes .ttut 0 [(0, 1), (4, 1)] (inDev .sync State.reset)) 4 1) 0 = true ∧ (srcIdx (bytes .ttut 0 [(0, 1), (4, 1)] (inDev .sync State.reset)) 1).isSome = true
    ∧ bitOf (tt live 4 1) 0 = false ∧ srcIdx live 1 = none := by decide +kernel
theorem witness_force : (131071 : Nat) < 131072 ∧ entHeld (ent (heldSignal 131071 0x209 0 live) 131071) = true ∧ entType (ent (heldSignal 131071 0x209 0 live) 131071) ≠ 0
    ∧ entType (ent (signal 5 4 qGood 0 live) 5) = 4 ∧ (0x3B9AC9FF : Word).toNat ≤ 999999999 := by decide
theorem witness_requests : ({ live with seq := { live.seq with tick := 49952 } }).seq.tick + 48 ≤ live.hdr.f ∧ live.hdr.f < ({ live with seq := { live.seq with tick := 49953 } }).seq.tick + 48
    ∧ (131071 : BitVec 32).toNat < 131072 ∧ 131072 ≤ (131072 : BitVec 32).toNat ∧ entType (ent live 0) = 0 ∧ entForceable (ent (signal 131071 0x209 qGood 0 live) 131071) = true
    ∧ entForceable (ent (signal 131071 1 qGood 0 live) 131071) = false ∧ entType (ent (signal 131071 1 qGood 0 live) 131071) ≠ 0 ∧ willHold (heldSignal 131071 0x209 0 live) 131071 = true
    ∧ willHold (signal 131071 0x209 qGood 0 live) 131071 = false ∧ 0x31 ≤ (0x31 : BitVec 8).toNat ∧ (0x30 : BitVec 8).toNat < 0x31 ∧ funcParts 6 = 32 ∧ funcParts 0x29 = 24 ∧ funcParts 0 = 0
    ∧ willOff live 6 31 = false ∧ willOff { live with disabled := [(0x29, 23)] } 0x29 23 = true
    ∧ 15 < tplCnt (bytes .qpst 0 [(0, 16)] live) ∧ tplCnt live ≤ 0 ∧ live.modes.req = none
    ∧ ({ live with modes := { live.modes with req := some { mode := 1, action := 1, due := 0, mbx := 0 } } }).modes.req ≠ none
    ∧ prnRange 0 32 = true ∧ prnRange 0 33 = false ∧ prnRange 3 120 = true ∧ prnRange 3 119 = false := by decide
theorem witness_modeEvents : armedOf ({ live.modes.m with incoming := 1 }) ≠ 0 ∧ live.modes.m.ho = false ∧ sm (table .stmt 0 1 live) 0x1E 2 ≠ 0 ∧ sm (table .stmt 0 1 live) 0x1E 2 ≤ 257 ∧ sm live 0x1E 2 = 0
    ∧ ({ live.modes with flrLim := [(1, 1)] }).flrLim ≠ [] ∧ live.modes.flrEnd ≤ live.seq.k ∧ live.seq.k < ({ live.modes with flrEnd := 1 }).flrEnd
    ∧ ({ live.modes with hold := true }).hold = true ∧ live.modes.lost = false ∧ th live 0x2E 2 ≤ live.modes.holdCyc.toNat ∧ live.modes.holdCyc.toNat < th (bytes .vmdl 0 [(0x2E, 1)] live) 0x2E 2
    ∧ ({ live.obs with pstat := 2, hstat := 2 }).pstat = 2 ∧ ob live 0x13C 4 ≤ live.obs.drCyc.toNat ∧ ob live 0x140 4 ≤ live.obs.hdrCyc.toNat ∧ live.obs.drCyc.toNat < ob (bytes .vmdl 0 [(0x13C, 1)] live) 0x13C 4
    ∧ ({ live.obs with wLost := true }).wLost = true ∧ wb live 0x010 4 ≤ live.obs.wHold ∧ live.obs.wHold < wb (bytes .vmdl 0 [(0xB, 1), (0x10, 1)] live) 0x010 4
    ∧ slotKind (bytes .vmdl 0 [(4, 64), (768, 1)] live) 11 ≠ 0 ∧ slotKind live 11 = 0 ∧ 17 ≤ (17 : BitVec 8).toNat ∧ slotKind (bytes .vmdl 0 [(4, 64), (1088, 1)] live) 16 ≠ 0 := by decide
/-- A device with one loop context, its command source any. -/
def looped : State := bytes .lcek 0 [(0, 1), (4, 16), (16, 0xFF)] live
theorem witness_loopCommands : 0 < ctxCnt looped ∧ ctxCnt live ≤ 0 ∧ isDisabled looped 6 (cxGrp looped 0) = false ∧ isDisabled { looped with disabled := [(6, 0)] } 6 (cxGrp looped 0) = true
    ∧ (¬ ∃ q ∈ looped.lce.cmds, q.ctx = 0 ∧ lceCmdNo q.cmd = lceCmdNo .stop)
    ∧ (∃ q ∈ ({ looped.lce with cmds := [{ ctx := 0, cmd := .stop, due := 0, mbx := 0 }] }).cmds, q.ctx = 0 ∧ lceCmdNo q.cmd = lceCmdNo .stop)
    ∧ decide ((1 : BitVec 8).toNat ≤ 1) = true ∧ decide ((2 : BitVec 8).toNat ≤ 1) = false ∧ lceRange (.mode false (some 0)) = true ∧ lceRange (.mode true (some nanWord)) = true ∧ lceRange (.arm 0) = false
    ∧ lceAllowed looped 0 (.mode false (some 0)) = true ∧ lceAllowed looped 0 (.bank true) = true ∧ lceAllowed live 0 (.bank true) = false
    ∧ lceRange (.arm 1) = true ∧ lceRange (.page 0) = true ∧ lceRange .stop = true ∧ lceRange .disarm = true
    ∧ lceAllowed looped 0 (.start {}) = true ∧ lceRange (.start { wave := 4, point := 1, dur := 0xFFFFFF, hold := 1, order := 15, capt := 1 }) = true
    ∧ live.lce.inj.active = false ∧ injDone { test := { dur := 1 }, i := 1 } = true ∧ injDone { test := { dur := 1 } } = false := by decide
theorem witness_converterEvents :  fcEnabled (bytes .fcec 0 [(0, 64), (64, 1), (65, 1)] live) 0 = true ∧ fcGroup (bytes .fcec 0 [(0, 64), (64, 1), (65, 1)] live) 0 = 1
    ∧ bitOf (arrived { live with cclk := 8000 } aclkCross [{ item := (2 : BitVec 8), since := 0 }]).toNat 1 = true
    ∧ (([] : List (Handed (Nat × BitVec 2))).find? (fun p => p.item.1 = 47)) = none ∧ (([{ item := (47, 2), since := 0 }] : List (Handed (Nat × BitVec 2))).find? (fun p => p.item.1 = 47)).isSome = true
    ∧ mayArrive { live with cclk := 8000 } aclkCross { item := 0, since := 0 } = true ∧ mayArrive live aclkCross { item := 0, since := 0 } = false
    ∧ (fceChan live 47).started = false ∧ (fceChan (setFce 63 { fceChan live 63 with started := true } live) 63).started = true ∧ domGated live .ana = false
    ∧ domGated { live with pwr := { live.pwr with gated := 0x1F } } .ana = true ∧ fceOff { live with disabled := [(7, 63)] } 63 = true ∧ fceOff live 63 = false
    ∧ (lpoOf live 15).fifo = [] ∧ bitOf (lpF live 15 0 1) 1 = false ∧ bitOf (lpF (bytes .pwrt 0 [(0, 2)] live) 0 0 1) 1 = true := by decide
/-- A device whose Chart uses HART port 0 and loop output 0. -/
def harted : State := let u := bytes .pwrt 0 [(0, 9)] live; { u with loops := { u.loops with hart := [(0, { armed := [0], carrier := false })], ids := [(0, some 5)] } }
theorem witness_currentLoops : lpoOn (bytes .pwrt 0 [(0, 1)] live) 0 = true ∧ lpoOn live 0 = false ∧ isDisabled live 0x28 0 = false ∧ (lpoOf live 0).state ≠ 3
    ∧ (lpoOf (modLpo 0 (fun x => { x with state := 3, cause := 2 }) live) 0).state = 3 ∧ (lpoOf (modLpo 0 (fun x => { x with state := 3, cause := 3 }) live) 0).cause = 3
    ∧ 40 ≤ (40 : BitVec 8).toNat ∧ (39 : BitVec 8).toNat < 40 ∧ (15 : BitVec 8).toNat < 16 ∧ hpFlag harted 0 3 = true ∧ hpFlag harted 0 0 = true ∧ hpFlag live 0 0 = false
    ∧ (hartOf live 0).pass = none ∧ (hartOf (modHart 0 (fun h => { h with pass := some { mbx := 0, addr := 0, cmd := 0, long := false, data := [], due := 0 } }) live) 0).pass ≠ none
    ∧ hartOff live 39 = false ∧ hartOff { live with disabled := [(0x29, 23)] } 39 = true := by decide
theorem witness_hart : hartParse { bytes := [], preambles := 5, parityOk := true, gapsOk := true } = none
    ∧ (hartParse { bytes := [6, 0, 3, 2, 0, 0, 7], preambles := 2, parityOk := true, gapsOk := true }).map (fun q => q.delim) = some 6
    ∧ (hartParse { bytes := [1, 0, 3, 2, 0, 0, 0], preambles := 2, parityOk := true, gapsOk := true }).map (fun q => q.delim) = some 1
    ∧ ((hartOf (modHart 39 (fun h => { h with cur := some { txn := none, attempts := 1, await := true } }) live) 39).cur.filter (fun c => c.await)).isSome = true
    ∧ ((hartOf live 39).cur.filter (fun c => c.await)) = none ∧ hartMaySend harted 0 (hartOf harted 0) = true ∧ hartMaySend harted 0 { hartOf harted 0 with carrier := true } = false
    ∧ harted.seq.run = true ∧ (hartChoose harted (hartOf harted 0) 0).isSome = true ∧ (hartId harted 0 0).isSome = true ∧ hartId live 0 0 = none
    ∧ stoOver live (hartOf live 39) = false ∧ stoOver { live with cclk := 400000000 } { cur := some { txn := none, attempts := 1, await := true } } = true := by decide
/-- Unit A of a duplex MANAGER pack in VOTING whose partner shows VOTING. -/
def paired : State :=
  let u := inDev .voting (bytes .pwrt 0 [(7, 1)] live)
  { u with boot := { u.boot with chartRole := true }, pack := { u.pack with links := [(0, { up := true, fresh := 1, cur := some { code := 2, role := 2, peers := 7 } })] } }
theorem witness_paired : hears paired 0 = true ∧ linkActive paired 0 = true ∧ paired.boot.dev = .voting ∧ paired.pack.dup = none ∧ dupReady paired 1 = true ∧ dupReady paired 2 = true
    ∧ lsh0Up paired = true ∧ dupClean paired 1 = true ∧ dupClean paired 2 = true ∧ dupReady live 2 = false ∧ lsh0Up live = false
    ∧ dupClean { paired with pack := { paired.pack with ilkFault := true } } 1 = false := by decide
/-- A Chart whose one bundle issues EQ_SNAP of MODE. -/
def snapped : State := bytes .seqp 0 [(0, 1), (4, 128), (8, 64), (66, 0x11), (68, 1), (70, 0x30), (71, 0x3C)] live
theorem witness_eqLost : importing snapped = true ∧ importing (inDev .active live) = false ∧ live.pack.eqOk = false ∧ ({ snapped.pack with eqOk := true }).eqOk = true
    ∧ (eqNeeded snapped).find? (fun k => (eqVersion snapped k).elim true (eqStale snapped)) = some 256
    ∧ (eqNeeded live).find? (fun k => (eqVersion live k).elim true (eqStale live)) = none := by decide
theorem witness_leash : (linkOf live 2).up = false ∧ (linkOf (modLink 2 (fun l => { l with up := true }) live) 2).up = true ∧ hears live 2 = false
    ∧ ({ live.pack with ilk := 1 }).ilk = 1 ∧ live.pack.ilkEdge + 768 < ({ live with cclk := 769 }).cclk ∧ ({ live with cclk := 768 }).cclk ≤ live.pack.ilkEdge + 768 := by decide
theorem witness_pack : live.pack.holder = false ∧ ({ live.pack with leaseLeft := 1 }).leaseLeft = 1 ∧ live.pack.leaseLeft ≠ 1 ∧ ({ live.pack with window := true, winOk := true }).winOk = true
    ∧ live.pack.window = false ∧ live.pack.claimAt + 768 ≤ ({ live with cclk := 768 }).cclk ∧ live.cclk < live.pack.claimAt + 768 ∧ live.pack.winOk = false ∧ live.pack.ilk = 0
    ∧ live.boot.dev = .standby ∧ live.pack.swap.req = none ∧ live.pack.swap.state = 0 ∧ ({ live.pack.swap with state := 4 }).state = 4 ∧ live.pack.dup = none
    ∧ ({ live.pack with dup := some { target := 1, cyc := 0, mbx := none } }).dup ≠ none
    ∧ (2 : BitVec 8).toNat = 2 ∧ (3 : BitVec 8).toNat ≠ 1 ∧ (3 : BitVec 8).toNat ≠ 2 ∧ 3 ≤ (3 : BitVec 8).toNat ∧ linkActive live 0 = false := by decide
/-- An announcement of a grandmaster of this priority 1. -/
def announce (n : Nat) : PtpAnnounce := { identity := 1, prio1 := n, prio2 := 0, cls := 0, accuracy := 0, variance := 0, steps := 0, utcOff := 0, utcValid := false }
/-- A sealed device with a TIME section all of 0. -/
def clocked : State := bytes .ttut 0 [] live
theorem witness_ptp : (port (modPort 3 (fun y => { y with waitSync := some (7, 0, 0) }) live) 3).waitSync = some (7, 0, 0) ∧ (port live 3).waitSync = none ∧ (7 : BitVec 16).toNat = 7 ∧ (8 : BitVec 16).toNat ≠ 7
    ∧ (port live 3).best.all (fun b => (announce 1).identity == b.identity || annBetter (announce 1) b) = true ∧ annBetter (announce 1) (announce 2) = true
    ∧ srcIdx (bytes .ttut 0 [(3, 4)] live) (portKind 3) = some 3 ∧ (port (modPort 3 (fun y => { y with slave := true, delayOk := true }) live) 3).slave = true
    ∧ (port live 3).reqSeq = 0 ∧ (port live 3).reqSeq ≠ 1 ∧ portE2e live 3 = false ∧ portE2e (table .ttut 0 0xFF live) 3 = true
    ∧ (port live 3).syncDiff = none ∧ (port (modPort 3 (fun y => { y with syncDiff := some 1 }) live) 3).syncDiff = some 1
    ∧ ptpTimerOver clocked 0 .delay = true ∧ ptpTimerOver clocked 0 .sync = false ∧ State.reset.boot.sealed = false ∧ sourceOver live 3 = false
    ∧ sourceOver (modPort 0 (fun y => { y with best := some (announce 1) }) (bytes .ttut 0 [(3, 2)] { live with ptc := { live.ptc with edges := 1 } })) 3 = true := by decide +kernel
theorem witness_time : live.ptc.onXtal = false ∧ ({ live.ptc with onXtal := true }).onXtal = true ∧ lossOver { live with ptc := { live.ptc with status := 1, edges := 1 } } = true ∧ lossOver live = false
    ∧ live.seq.run = true ∧ State.reset.seq.run = false ∧ live.ptc.status = 0 ∧ ({ live.ptc with status := 3 }).status ≠ 0
    ∧ holdOver (modSrc 3 (fun x => { x with valid := true }) { live with ptc := { live.ptc with edges := 1 } }) 3 = true ∧ holdOver live 3 = false
    ∧ ppsDue { live with ptc := { live.ptc with status := 1, counter := 1000000000 * ptcUnit } } = true ∧ ppsDue live = false ∧ ppsEnds { live with ptc := { live.ptc with ppsOut := true } } = true ∧ ppsEnds live = false
    ∧ calDue { live with ptc := { live.ptc with status := 1, counter := 1000000000 * ptcUnit } } = true ∧ calDue live = false := by decide +kernel
theorem witness_pps : srcIdx (bytes .ttut 0 [(0, 5), (1, 6)] live) (5 + 1) = some 1 ∧ srcIdx live 5 = none ∧ ppsMissed live 1 = false
    ∧ ppsMissed { bytes .ttut 0 [(0, 5), (1, 6)] live with ptc := { live.ptc with edges := 375000001, ppsAt := [(1, some 0)] } } 1 = true
    ∧ 250000000 < absQ (ppsOffset (8 * ptcUnit + 500000000 * ptcUnit - 8 * ptcUnit)) ∧ absQ (ppsOffset (8 * ptcUnit - 8 * ptcUnit)) ≤ 250000000 := by decide +kernel
theorem witness_triggers : (ttuEnt live 63).fifo = [] ∧ (ttuEnt (modTtu 63 (fun e => { e with fifo := [{ since := 0, item := .stop }], status := 1 }) live) 63).fifo = [{ since := 0, item := .stop }]
    ∧ mayArrive { live with cclk := 8 } ttuCross { since := 0, item := TtuProg.stop } = true ∧ mayArrive live ttuCross { since := 0, item := TtuProg.stop } = false
    ∧ fireDue (modTtu 63 (fun e => { e with status := 1 }) live) 63 = true ∧ fireDue live 63 = false
    ∧ teKind (bytes .ttut 0 [(0x80, 2)] live) 0 = 2 ∧ teKind live 0 ≠ 2 := by decide
/-- A device whose CAN controller 7 is in a state. -/
def canned (c : CanCtl) : State := let u := bytes .cant 7 [(0x0C, 1), (0x10, 64), (64, 1)] live; { u with ports := { u.ports with can := [(7, c)] } }
/-- An entry of a CAN controller's FIFO. -/
def queued (x : CanFifo) : Handed CanFifo := { since := 0, item := x }
theorem witness_can : (canOf (canned { fifo := [queued (.tx 0 {})] }) 7).fifo = [queued (.tx 0 {})] ∧ (canOf (canned { fifo := [queued (.cancel 0)] }) 7).fifo = [queued (.cancel 0)] ∧ (canOf live 7).fifo = []
    ∧ mayArrive { live with cclk := 15 } canCross (queued (.cancel 0)) = true ∧ mayArrive live canCross (queued (.tx 0 {})) = false ∧ (canOf (canned {}) 7).wire = none ∧ (canOf (canned {}) 7).wire ≠ some 0
    ∧ (canObj (canned { objs := [(0, { stat := 1 })] }) 7 0).stat = 1 ∧ (canObj (canned {}) 7 0).stat ≠ 1 ∧ (canOf (canned { wire := some 0, state := 2 }) 7).wire = some 0
    ∧ (canOf (canned { state := 3 }) 7).state = 3 ∧ (canOf (canned { state := 2 }) 7).state = 2 ∧ (canOf (canned { state := 4 }) 7).state = 4 ∧ (canOf (canned { state := 4 }) 7).state ≠ 1 ∧ (canOf (canned { state := 1 }) 7).state = 1
    ∧ hasSect (canned {}) .cant 7 = true ∧ objUsed (canned {}) 7 0 = true ∧ hasSect live .cant 7 = false ∧ objUsed (canned {}) 7 1 = false := by decide
theorem witness_canWire : canWire 7 (canned { wire := some 0, state := 2 }) = canned { wire := some 0, state := 2 } ∧ canWire 7 (canned {}) = canned {} := ⟨rfl, rfl⟩
/-- A device with serial port 11 in use in binary framing, and Ethernet port 3. -/
def ported : State := bytes .sert 11 [(0, 1), (1, 4)] live
theorem witness_portEvents : (serOf live 11).fifo = [] ∧ (serOf (setSer 11 { serOf live 11 with fifo := [{ since := 0, item := [] }] } live) 11).fifo = [{ since := 0, item := [] }]
    ∧ mayArrive { live with cclk := 50000000 } (serCross live 11) { since := 0, item := ([] : List Byte) } = true ∧ mayArrive live (serCross live 11) { since := 0, item := ([] : List Byte) } = false
    ∧ serSent live 11 0 = false ∧ serSent (setSer 11 { serOf live 11 with wire := some [] } { live with cclk := 1 }) 11 0 = true ∧ serLive ported 11 = true ∧ serLive live 11 = false
    ∧ serFraming ported 11 = 4 ∧ serFraming live 11 ≠ 4 ∧ serEcho ported 11 = false ∧ (serOf ported 11).closes < chunkTimes { bytes .sert 11 [(0, 1), (1, 4), (4, 255), (5, 255), (8, 255), (9, 255)] live with cclk := 40000000000 } 11
    ∧ chunkTimes live 11 ≤ (serOf live 11).closes ∧ 2 ≤ (3 : Fin 4).val ∧ (1 : Fin 4).val < 2 ∧ ethLive (bytes .etht 3 [(12, 1)] live) 3 = true ∧ ethLive live 3 = false
    ∧ rawDue live 3 255 = false ∧ rawDue (setEth 3 { ethOf live 3 with raw := [(255, [0])] } (bytes .etht 3 [(12, 1)] live)) 3 255 = true
    ∧ (ethOf live 3).speed = linkSpeed 3 { up := false, full := false, speed := 0 } ∧ (ethOf live 3).speed ≠ linkSpeed 3 { up := true, full := true, speed := 100 } := by decide
theorem witness_records : live.boot.firstWipe = false ∧ live.recd.staging.length < 4096 ∧ StoresWf live ∧ ({ live.recd with hasLog := true }).hasLog = true ∧ live.recd.hasLog = false ∧ live.recd.staging = []
    ∧ ¬ (live.boot.dev = .reset ∧ live.boot.flushDone = true) ∧ live.boot.dev ≠ .sleep ∧ (stageRec { code := 0x0120, seq := 0, flags := 0, source := 0, time := 0, p0 := 0, p1 := 0, p2 := 0 } live).recd.staging.length = 1
    ∧ 4096 ≤ (List.replicate 4096 0).length := by
  refine ⟨by decide, by decide, ⟨by decide, by decide, by decide⟩, rfl, by decide, by decide, by decide, by decide, by decide, by simp⟩
theorem witness_readers : live.boot.sealed = true ∧ served live = true ∧ refillDue { bytes .evmt 0 [(70, 1)] live with cclk := 4000000000000 } 0 = true ∧ refillDue live 255 = false
    ∧ (bankOf (setBank .mep { bankOf live .mep with wstat := 1 } live) .mep).wstat = 1 ∧ (bankOf live .hsp).wstat ≠ 1 ∧ Master.hsp ≠ .mep ∧ (7 : Nat) ≠ (6 : BitVec 3).toNat := by decide
/-- The end of a read or a write by a master, as the two statements on both masters take it. -/
def finish : Master → State → State
  | .mep, s => s
  | .hsp, s => { s with host := { s.host with applied := true, crcFailed := false, wrRefused := false } }
theorem witness_finish : (∀ t, finish .mep t = t) ∧ (∀ t, finish .hsp t = { t with host := { t.host with applied := true, crcFailed := false, wrRefused := false } }) := ⟨fun _ => rfl, fun _ => rfl⟩
theorem witness_mailboxes : served live = true ∧ (mbxOf live 15).state = .free ∧ (mbxOf (setMbx 15 { mbxOf live 15 with state := .locked, owner := 1 } live) 15).owner = 1
    ∧ (mbxOf live 15).owner ≠ 1 ∧ (mbxOf (setMbx 15 { mbxOf live 15 with state := .done, owner := 1 } live) 15).state = .done ∧ lockOver live 15 = false
    ∧ lockOver (setMbx 15 { mbxOf live 15 with state := .locked, owner := 1 } { table .mbxt 0 1 live with cclk := 4000000000000 }) 15 = true
    ∧ handlerMay (setMbx 15 { mbxOf live 15 with state := .running, result := some 0 } { live with cclk := 4 }) 15 = true ∧ handlerMay live 15 = false
    ∧ standaloneServes (setMbx 1 { mbxOf live 1 with state := .posted } (inDev .fault live)) 1 = true ∧ standaloneServes (inDev .fault live) 2 = false := by decide
theorem witness_host : (1 : Nat) ≤ (64 : BitVec 8).toNat ∧ 64 < (65 : BitVec 8).toNat ∧ hspWriteCrc 0x20000 1 [0] = (BitVec.ofNat 16 (hspWriteCrc 0x20000 1 [0])).toNat
    ∧ hspWriteCrc 0x20000 1 [0] ≠ (BitVec.ofNat 16 (hspWriteCrc 0x20000 1 [0]) + 1).toNat ∧ ([0] : List Word).length = (1 : BitVec 8).toNat ∧ ([] : List Word).length ≠ (1 : BitVec 8).toNat
    ∧ served State.reset = false ∧ (0xA4 : BitVec 8) ≠ 0xA5 ∧ ¬ (0x20000 ≤ 0x20040 ∧ 0x20040 < 0x21000 ∧ 0x20040 % 256 = 0x48) := by decide
/-- A device with a session key, listening on ETH2 for MEP. -/
def listening : State := let u := bytes .etht 2 [(12, 3), (14, 1)] live; { u with sec := { u.sec with mepKey := some 5 } }
/-- A request of counter 9 whose tag is the right one. -/
def request : MepFrame :=
  { mver := 1, restart := false, nonce := listening.host.bootNonce, counter := 9, body := [], mac := 0
    tag := Config.gcmTag 5 (mepIv 9 listening.host.bootNonce 3) (mepHeader 1 3 0 listening.host.bootNonce 9 0) [] }
theorem witness_mep : mepListens false live = none ∧ mepListens false listening = some true ∧ mepListens false { listening with sec := { listening.sec with mepKey := none } } = some false ∧ (mepAdmit false listening).1 = true ∧ (mepAdmit false live).1 = false
    ∧ listening.sec.mepKey = some 5 ∧ (2 : Byte) ≠ 1
    ∧ (0 : Nat) ≤ listening.host.mepLast.toNat ∧ listening.host.mepLast.toNat < (9 : Dword).toNat := by decide
theorem witness_mepTag : Config.gcmTag 5 (mepIv request.counter request.nonce 3) (mepHeader request.mver 3 (BitVec.ofNat 8 (b2n request.restart)) request.nonce request.counter request.body.length) request.body = request.tag := rfl
/-- An owner's mailbox 15 that master 2 posted. -/
def posted : State := setMbx 15 { mbxOf live 15 with state := .running, owner := 2, poster := 2 } live
theorem witness_tokens : (mbxOf posted 15).poster = 2 ∧ (mbxOf live 15).poster ≠ 1 ∧ (mbxOf live 15).poster ≠ 2 ∧ posted.sec.tokOwner = 0 ∧ ({ posted.sec with tokOwner := 1 }).tokOwner ≠ (mbxOf posted 15).poster
    ∧ (464 : BitVec 16).toNat + (48 : BitVec 8).toNat ≤ 512 ∧ 512 < (465 : BitVec 16).toNat + (48 : BitVec 8).toNat
    ∧ ({ posted.sec with tokOwner := 2 }).tokOwner = (mbxOf posted 15).poster ∧ posted.sec.applying = none ∧ ({ posted.sec with applying := some 15 }).applying = some 15
    ∧ tokVerdict { live with sec := { live.sec with applying := some 15 } } ≠ rcDone ∧ live.sec.lct = none
    ∧ ({ live.sec with lct := some { ttype := 2, mbx := 15, owner := 0, key := 0, at_ := 0 } }).lct.isSome = true ∧ live.seq.run = true ∧ State.reset.seq.run = false := by decide
theorem witness_sleep : posted.boot.dev = .standby ∧ (inDev .active posted).boot.dev ≠ .standby ∧ bitOf (fld8 (bytes .pwrt 0 [(0x10, 1)] posted) .pwrt 0 0x10) 0 = true
    ∧ (1 : BitVec 8).toNat < 8 ∧ 8 ≤ (8 : BitVec 8).toNat ∧ bitOf (6 : BitVec 8).toNat 0 = false ∧ ptcNs live < (1 : BitVec 48).toNat * 1000000000 ∧ (0 : BitVec 48).toNat * 1000000000 ≤ ptcNs live
    ∧ wakes .time { inDev .sleep live with pwr := { live.pwr with sleepArmed := some { mask := 1, gpio := 0, level := false, secs := 0, due := 0, mbx := 0 } } } = true ∧ wakes .gpio live = false
    ∧ live.pwr.wakeAt = none ∧ ({ live.pwr with wakeAt := some 5 }).wakeAt = some 5 ∧ served live = true ∧ waOk .mep live = true ∧ waOk .hsp { live with sec := { live.sec with hostauth := true } } = true := by decide
theorem witness_debug : live.boot.dev ≠ .sleep ∧ attachWakes live = false ∧ attachWakes { live with fuses := { live.fuses with lc0 := 1, lc1 := 1 } } = true
    ∧ dbgPermitted { live with fuses := { live.fuses with lc0 := 0xF, lc1 := 0xF } } < (2 : BitVec 2).toNat ∧ live.sec.level.toNat ≤ (0 : BitVec 2).toNat
    ∧ (0 : BitVec 2).toNat ≤ dbgPermitted live ∧ (0 : BitVec 2).toNat < ({ live.sec with level := 1 }).level.toNat ∧ live.sec.level.toNat < 2 ∧ ({ live.sec with level := 3 }).level = 3
    ∧ swinOk { live with sec := { live.sec with level := 3 } } 4 = true ∧ swinOk { live with sec := { live.sec with level := 3 } } 5 = false
    ∧ swinOk { live with sec := { live.sec with level := 2 } } 3 = true ∧ bscanState DevState.verify = true ∧ bscanState DevState.standby = false := by decide
theorem witness_update : updateOpen live = true ∧ updateOpen State.reset = false ∧ targetOk live true = true ∧ targetOk live false = false ∧ (0x01FFFFD0 : BitVec 32).toNat + (48 : BitVec 16).toNat ≤ 0x02000000
    ∧ 0x02000000 < (0x01FFFFD1 : BitVec 32).toNat + (48 : BitVec 16).toNat ∧ (firstFail (commitFails live (stagedImg live true))).isSome = true := by decide +kernel
theorem witness_overrun : (settle live { pend := some { words := [], secs := 0, nanos := 0, seq := 0, quals := [], done := live.cclk } }).pend = some { words := [], secs := 0, nanos := 0, seq := 0, quals := [], done := live.cclk } := by decide
theorem witness_events : live.recd.base = none ∧ live.boot.sealed = true ∧ bitOf (evmtFld (table .evmt 0 0xFF live) 0 2 1) 2 = true ∧ bitOf (evmtFld (table .evmt 0 0xFF live) 0 3 1) 0 = true
    ∧ alwaysRecorded 0xF000 = false ∧ bitOf (evmtFld (table .evmt 0 2 live) 0 3 1) 0 = false ∧ evmtFld (table .evmt 0 2 live) 0 6 2 ≠ 0
    ∧ (evSlot (touchSlot 0 (table .evmt 0 2 live)) 0).used < evmtFld (table .evmt 0 2 live) 0 4 1 ∧ evmtFld live 0 4 1 ≤ (evSlot (touchSlot 0 live) 0).used := by decide

/-! Ill-formed operands are refused. -/

theorem test_wellFormed_operations : wellFormed (.nop 1) = false ∧ wellFormed (.nop 0x31) = false ∧ wellFormed (.nop 0x30) = true ∧ wellFormed (.acqCtl 3) = false
    ∧ wellFormed (.trkSnap 192) = false ∧ wellFormed (.trkSnap 191) = true ∧ wellFormed (.farIter 0 0) = false ∧ wellFormed (.anvSel 0 3) = false ∧ wellFormed (.lpoRbsel 0 3) = false
    ∧ wellFormed (.lpiSel 0 3) = false ∧ wellFormed (.evmCheck 255) = false ∧ wellFormed (.eqSnap 0 0) = false ∧ wellFormed (.eqSnap 6 0) = false ∧ wellFormed (.eqSnap 1 1) = false
    ∧ wellFormed (.eqSnap 4 16) = false ∧ wellFormed (.eqSnap 3 255) = true := by decide
theorem test_wellFormed_time : wellFormed (.ptpSyncReceived 0 0 false { secs := 0, nanos := 1000000000, corr := 0 }) = false
    ∧ wellFormed (.ptpFollowUpReceived 0 0 { secs := 2 ^ 48, nanos := 0, corr := 0 }) = false
    ∧ wellFormed (.ptpAnnounceReceived 0 { prio1 := 256, cls := 0, accuracy := 0, variance := 0, prio2 := 0, identity := 0, steps := 0, utcOff := 0, utcValid := false }) = false
    ∧ wellFormed (.ptpDelayResponseReceived 0 0 { secs := 0, nanos := 0, corr := 0 } { secs := 0, nanos := 1000000000, corr := 0 }) = false := by decide
theorem test_wellFormed_frames :
    wellFormed (.canFrameReceived 0 { id := 2048, ide := false, fdf := false, brs := false, esi := false, dlc := 0, data := [], remote := false } false) = false
    ∧ wellFormed (.canFrameReceived 0 { id := 0, ide := false, fdf := true, brs := true, esi := false, dlc := 9, data := List.replicate 12 0, remote := false } false) = true
    ∧ wellFormed (.canFrameReceived 0 { id := 0, ide := false, fdf := true, brs := true, esi := false, dlc := 9, data := List.replicate 9 0, remote := false } false) = false
    ∧ wellFormed (.serTelegramReceived 0 []) = false ∧ wellFormed (.serChunkClose 0 []) = false ∧ wellFormed (.ethLink 0 { up := true, speed := 2500, full := true }) = false
    ∧ wellFormed (.hartPass 0 0 0 0 false (List.replicate 256 0)) = false ∧ wellFormed (.tokenLoad 0 0 0 (List.replicate 49 0)) = false ∧ wellFormed (.chartWrite 0 false 0 0 (List.replicate 49 0)) = false
    ∧ wellFormed (.hartFrameReceived 0 { bytes := List.replicate 268 0, preambles := 5, parityOk := true, gapsOk := true }) = false
    ∧ wellFormed (.mepRequest false { mver := 1, restart := false, nonce := 0, counter := 0, body := List.replicate 1025 0, mac := 0, tag := 0 }) = false ∧ wellFormed (.frameSync 0 (-1)) = false ∧ wellFormed (.fceCicOutput 0 [] 65537 0) = false
    ∧ wellFormed (.leashEqReceived 0 true { index := 0, version := 0, code := 1, body := .lce [] }) = false := by decide

/-! Words of the operation tables decode (R38, R41, R42 and the tables of each engine). -/

theorem test_decode_sequencer : decodeOp 0x00000000 = some (.nop 0) ∧ decodeOp 0x00300003 = some (.pgate 3) ∧ decodeOp 0x04000000 = some (.land 0) ∧ decodeOp 0x04000400 = none ∧ decodeOp 0x04100000 = none := by decide
theorem test_decode_engines : decodeOp 0x0C200001 = some (.madd 1) ∧ decodeOp 0x0CA00010 = some (.refIn 16) ∧ decodeOp 0x10100012 = some (.fsaBuild 2 1) ∧ decodeOp 0x14300054 = some (.farIter 4 5)
    ∧ decodeOp 0x1B000000 = some .modeStep ∧ decodeOp 0x1C100005 = some (.fceRestart 5) ∧ decodeOp 0x20100002 = some (.acqCtl 2) ∧ decodeOp 0x241000BF = some (.trkSnap 191)
    ∧ decodeOp 0x28200010 = some (.aiding 16) ∧ decodeOp 0x2C100000 = some (.cchClock 0) ∧ decodeOp 0x30100000 = some .ptcRead := by decide
theorem test_decode_ports : decodeOp 0x38100000 = some .pswTx ∧ decodeOp 0x3C300023 = some (.eqSnap 3 2) ∧ decodeOp 0x5C200001 = some (.canCancel 7 1) ∧ decodeOp 0x60100002 = some (.serTx 0 2)
    ∧ decodeOp 0x8C100000 = some (.serTx 11 0) ∧ decodeOp 0x9C100001 = some (.ethTx 3 1) ∧ decodeOp 0xA0300021 = some (.lpoRbsel 1 2) ∧ decodeOp 0xA4300004 = some (.hartReq 4)
    ∧ decodeOp 0xA8200003 = some (.qdcZero 3) ∧ decodeOp 0xAC120005 = some (.gpioSet 5 true) ∧ decodeOp 0xB0100003 = some (.evmCheck 3) ∧ decodeOp 0xBC100000 = some .secRead ∧ decodeOp 0xC0100000 = some .pwrRead := by decide

/-! Small figures, worked by hand from the rules. -/

theorem test_crc32_check : crc32 [0x31, 0x32, 0x33, 0x34, 0x35, 0x36, 0x37, 0x38, 0x39] = 0xCBF43926 := by decide
theorem test_latchFrame : latchFrame { live with seq := { live.seq with k := 7, tick := 49952 } } = 8 ∧ latchFrame { live with seq := { live.seq with k := 7, tick := 49953 } } = 9 := by decide
theorem test_stagingOrder : (stageRec { code := 0x0120, seq := 0, flags := 0, source := 0, time := 0, p0 := 0, p1 := 0, p2 := 0 } { live with recd := { live.recd with head := 41 } }).recd.head = 42 := by decide
theorem test_nop_leaves_lane : exec (.nop 2) live = .next (dropLane live) := rfl
theorem test_step_idle_counts : step flushed = .next (elapse 1 flushed) := rfl
theorem test_step_idle_flush : step State.reset = .next { State.reset with pending := [.recorderFlushEnd] } := rfl
theorem test_reset_counts : (aonReset .pin true false { live.aon with count := 0xFFFF }).count = 0xFFFF ∧ (aonReset .pin false true { live.aon with count := 5 }).count = 6 := by decide
theorem test_wellFormed_samples : wellFormed (.navBootstrapEpoch { counts := [] }) = false ∧ wellFormed (.navOpComplete (.epoch { counts := [0, 0, 0] })) = false
    ∧ wellFormed (.navOpComplete (.epoch { counts := [0, 0, 0, 0] })) = true ∧ wellFormed (.navOpComplete .acqCtl) = true := by decide
theorem test_wellFormed_packets : wellFormed (.ethFrameReceived 0 { len := 45, fcsOk := true, vid := none, dst := 0, ago := 0, body := .udp 0 0 0 0 true true true [] }) = false
    ∧ PackFrame.wf { src := 0, hsr := 0, tagged := true, etype := 0, fcsOk := true, pver := 1, packId := 0, code := 0, act := false, vot := false, role := 0, fseq := 0, pcyc := 0, kIdx := 0, secs := 0, nanos := 0, recs := [{ psel := 4, group := 0, secs := 0, nanos := 0, dirid := 0, words := [0], quals := [1] }] } = false
    ∧ wellFormed (.pmbPoll [{ rail := 12, mode := .noAck, vout := .noAck, iout := .noAck, temp := .noAck, status := .noAck }]) = false := by decide

/-! The boundary-scan register (R556). -/

theorem test_balls : bsBalls.length = 265 ∧ bsBalls.Nodup ∧ bsCell { live with sec := { live.sec with bsCells := 2 } } (.gpio 0) 1 = some true := by decide +kernel

end Sys2Proof.Machine
end

section
/-! Operation words: the encoder and the decoder of R38 are inverse to each other. -/

namespace Sys2Proof

theorem wordEng_opFields {eng opc d : Nat} (ho : opc < 64) (hd : d < 2 ^ 20) : wordEng (opFields eng opc d) = eng := by
  unfold wordEng opFields; omega

theorem wordOpc_opFields {eng opc d : Nat} (ho : opc < 64) (hd : d < 2 ^ 20) : wordOpc (opFields eng opc d) = opc := by
  unfold wordOpc opFields; omega

theorem wordOpnd_opFields {eng opc d : Nat} (hd : d < 2 ^ 20) : wordOpnd (opFields eng opc d) = d := by
  unfold wordOpnd opFields; omega

theorem opFields_words (w : Nat) : opFields (wordEng w) (wordOpc w) (wordOpnd w) = w := by
  unfold opFields wordEng wordOpc wordOpnd; omega

theorem opFields_lt {eng opc d : Nat} (he : eng < 64) (ho : opc < 64) (hd : d < 2 ^ 20) : opFields eng opc d < 2 ^ 32 := by
  unfold opFields; omega

/-- The decoder of operation words, as a function of the three fields of R38. -/
def decodeFields (eng opc d : Nat) : Option Instr :=
  if eng = 1 then (if opc = 0 then operand 10 d (fun d => .land (.ofNat 10 d)) else none)
  else if opc = 0 then (if eng ≤ 0x30 then operand 0 d (fun _ => .nop (.ofNat 6 eng)) else none)
  else if eng = 0 then decSeq opc d
  else if eng = 2 then decSdir opc d
  else if eng = 3 then decVmu opc d
  else if eng = 4 ∨ eng = 5 then decQps eng opc d
  else if eng = 6 then decLce opc d
  else if 8 ≤ eng ∧ eng ≤ 0x0B then decNav eng opc d
  else if 0x0C ≤ eng ∧ eng ≤ 0x0F then decPack eng opc d
  else if 0x10 ≤ eng ∧ eng < 0x28 then decPort eng opc d
  else if eng = 7 ∨ (0x28 ≤ eng ∧ eng ≤ 0x2A) then decLoop eng opc d
  else decSys eng opc d

theorem decodeOp_eq_decodeFields (w : Nat) : decodeOp w = decodeFields (wordEng w) (wordOpc w) (wordOpnd w) := rfl

theorem decodeOp_opFields {eng opc d : Nat} (ho : opc < 64) (hd : d < 2 ^ 20) :
    decodeOp (opFields eng opc d) = decodeFields eng opc d := by
  rw [decodeOp_eq_decodeFields, wordEng_opFields ho hd, wordOpc_opFields ho hd, wordOpnd_opFields hd]

theorem operand_of_lt {n d : Nat} (h : d < 2 ^ n) (f : Nat → Instr) : operand n d f = some (f d) := if_pos h

theorem operand_eq_some {n d : Nat} {f : Nat → Instr} {i : Instr} : operand n d f = some i ↔ d < 2 ^ n ∧ f d = i := by
  unfold operand; split <;> simp [*]

/-- The word of an instruction fits 32 bits and decodes to it. -/
def WordOf (w : Nat) (i : Instr) : Prop := w < 2 ^ 32 ∧ decodeOp w = some i

theorem wordOf_opFields {eng opc d : Nat} {i : Instr} (he : eng < 64) (ho : opc < 64) (hd : d < 2 ^ 20)
    (h : decodeFields eng opc d = some i) : WordOf (opFields eng opc d) i :=
  ⟨opFields_lt he ho hd, (decodeOp_opFields ho hd).trans h⟩

theorem wordOf_none {eng opc : Nat} {i : Instr} (hb : eng < 64 ∧ opc < 64)
    (h : ∀ d, decodeFields eng opc d = operand 0 d (fun _ => i)) : WordOf (opFields eng opc 0) i :=
  wordOf_opFields hb.1 hb.2 (by decide) ((h 0).trans (operand_of_lt (by decide) _))

theorem wordOf_one {eng opc n : Nat} (f : BitVec n → Instr) (x : BitVec n) (hb : eng < 64 ∧ opc < 64 ∧ n ≤ 20)
    (h : ∀ d, decodeFields eng opc d = operand n d (fun d => f (.ofNat n d))) : WordOf (opFields eng opc x.toNat) (f x) := by
  obtain ⟨he, ho, hn⟩ := hb
  refine wordOf_opFields he ho (Nat.lt_of_lt_of_le x.isLt (Nat.pow_le_pow_right (by decide) hn)) ?_
  rw [h, operand_of_lt x.isLt, BitVec.ofNat_toNat, BitVec.setWidth_eq]

theorem pair_lt {m n x y : Nat} (hx : x < 2 ^ m) (hy : y < 2 ^ n) : x + 2 ^ m * y < 2 ^ (m + n) := by
  rw [Nat.pow_add]
  calc x + 2 ^ m * y < 2 ^ m * (y + 1) := by rw [Nat.mul_succ]; omega
    _ ≤ 2 ^ m * 2 ^ n := Nat.mul_le_mul_left _ hy

theorem wordOf_two {eng opc m n : Nat} (f : BitVec m → BitVec n → Instr) (x : BitVec m) (y : BitVec n)
    (hb : eng < 64 ∧ opc < 64 ∧ m + n ≤ 20)
    (h : ∀ d, decodeFields eng opc d = operand (m + n) d (fun d => f (.ofNat m (d % 2 ^ m)) (.ofNat n (d / 2 ^ m)))) :
    WordOf (opFields eng opc (x.toNat + 2 ^ m * y.toNat)) (f x y) := by
  obtain ⟨he, ho, hn⟩ := hb
  have hd := pair_lt x.isLt y.isLt
  refine wordOf_opFields he ho (Nat.lt_of_lt_of_le hd (Nat.pow_le_pow_right (by decide) hn)) ?_
  rw [h, operand_of_lt hd, Nat.add_mul_mod_self_left, Nat.mod_eq_of_lt x.isLt,
    Nat.add_mul_div_left _ _ (Nat.two_pow_pos m), Nat.div_eq_of_lt x.isLt, Nat.zero_add]
  simp only [BitVec.ofNat_toNat, BitVec.setWidth_eq]

theorem wordOf_flag {eng opc n : Nat} (f : BitVec n → Bool → Instr) (x : BitVec n) (b : Bool)
    (hb : eng < 64 ∧ opc < 64 ∧ n + 1 ≤ 20)
    (h : ∀ d, decodeFields eng opc d = operand (n + 1) d (fun d => f (.ofNat n (d % 2 ^ n)) (d / 2 ^ n % 2 == 1))) :
    WordOf (opFields eng opc (x.toNat + 2 ^ n * b2n b)) (f x b) := by
  obtain ⟨he, ho, hn⟩ := hb
  have hd := pair_lt (n := 1) x.isLt (y := b2n b) (by cases b <;> decide)
  refine wordOf_opFields he ho (Nat.lt_of_lt_of_le hd (Nat.pow_le_pow_right (by decide) hn)) ?_
  rw [h, operand_of_lt hd, Nat.add_mul_mod_self_left, Nat.mod_eq_of_lt x.isLt,
    Nat.add_mul_div_left _ _ (Nat.two_pow_pos n), Nat.div_eq_of_lt x.isLt, Nat.zero_add]
  cases b <;> simp [b2n]

/-- Settles O7: each command of an operation table is one of four shapes of operand, and each shape is read back as it was written. -/
theorem decodeOfEncode : Obligations.DecodeOfEncode := by
  intro i w h
  change WordOf w i
  cases i with
  | nop eng =>
    obtain ⟨hc, hw⟩ := Option.ite_none_right_eq_some.mp h
    cases hw
    refine wordOf_none (by omega) (fun d => ?_)
    simp only [decodeFields, if_neg hc.2, if_pos hc.1, if_true, BitVec.ofNat_toNat, BitVec.setWidth_eq]
  | mark t => cases h; exact wordOf_one .mark t (by decide) (fun _ => rfl)
  | pwake m => cases h; exact wordOf_one .pwake m (by decide) (fun _ => rfl)
  | pgate m => cases h; exact wordOf_one .pgate m (by decide) (fun _ => rfl)
  | land n => cases h; exact wordOf_one .land n (by decide) (fun _ => rfl)
  | pub g p => cases h; exact wordOf_two .pub g p (by decide) (fun _ => rfl)
  | subst i z => cases h; exact wordOf_flag .subst i z (by decide) (fun _ => rfl)
  | curve n => cases h; exact wordOf_one .curve n (by decide) (fun _ => rfl)
  | mmul d => cases h; exact wordOf_one .mmul d (by decide) (fun _ => rfl)
  | madd d => cases h; exact wordOf_one .madd d (by decide) (fun _ => rfl)
  | mruVote => cases h; exact wordOf_none (by decide) (fun _ => rfl)
  | obsPred => cases h; exact wordOf_none (by decide) (fun _ => rfl)
  | refIn n => cases h; exact wordOf_one .refIn n (by decide) (fun _ => rfl)
  | refTest n => cases h; exact wordOf_one .refTest n (by decide) (fun _ => rfl)
  | hdgVote => cases h; exact wordOf_none (by decide) (fun _ => rfl)
  | refVote => cases h; exact wordOf_none (by decide) (fun _ => rfl)
  | obsUpd n => cases h; exact wordOf_one .obsUpd n (by decide) (fun _ => rfl)
  | obsOut => cases h; exact wordOf_none (by decide) (fun _ => rfl)
  | wind => cases h; exact wordOf_none (by decide) (fun _ => rfl)
  | pvtSolve => cases h; exact wordOf_none (by decide) (fun _ => rfl)
  | pvtOut => cases h; exact wordOf_none (by decide) (fun _ => rfl)
  | hdgSolve => cases h; exact wordOf_none (by decide) (fun _ => rfl)
  | fsaBuild t e => cases h; exact wordOf_two .fsaBuild t e (by decide) (fun _ => rfl)
  | farFact t c => cases h; exact wordOf_two .farFact t c (by decide) (fun _ => rfl)
  | farStart t => cases h; exact wordOf_one .farStart t (by decide) (fun _ => rfl)
  | farIter t k => cases h; exact wordOf_two .farIter t k (by decide) (fun _ => rfl)
  | farEnd t => cases h; exact wordOf_one .farEnd t (by decide) (fun _ => rfl)
  | lceStep c => cases h; exact wordOf_one .lceStep c (by decide) (fun _ => rfl)
  | modeStep => cases h; exact wordOf_none (by decide) (fun _ => rfl)
  | seatFeed n => cases h; exact wordOf_one .seatFeed n (by decide) (fun _ => rfl)
  | seatTake n => cases h; exact wordOf_one .seatTake n (by decide) (fun _ => rfl)
  | tauMix => cases h; exact wordOf_none (by decide) (fun _ => rfl)
  | pwrShare => cases h; exact wordOf_none (by decide) (fun _ => rfl)
  | flr => cases h; exact wordOf_none (by decide) (fun _ => rfl)
  | allocOut => cases h; exact wordOf_none (by decide) (fun _ => rfl)
  | caPrep g => cases h; exact wordOf_one .caPrep g (by decide) (fun _ => rfl)
  | caEval g => cases h; exact wordOf_one .caEval g (by decide) (fun _ => rfl)
  | simStep => cases h; exact wordOf_none (by decide) (fun _ => rfl)
  | fceRestart c => cases h; exact wordOf_one .fceRestart c (by decide) (fun _ => rfl)
  | acqCtl m => cases h; exact wordOf_one .acqCtl m (by decide) (fun _ => rfl)
  | acqSnap => cases h; exact wordOf_none (by decide) (fun _ => rfl)
  | trkSnap c => cases h; exact wordOf_one .trkSnap c (by decide) (fun _ => rfl)
  | epoch => cases h; exact wordOf_none (by decide) (fun _ => rfl)
  | aiding i => cases h; exact wordOf_one .aiding i (by decide) (fun _ => rfl)
  | rtcmIn i => cases h; exact wordOf_one .rtcmIn i (by decide) (fun _ => rfl)
  | cchClock i => cases h; exact wordOf_one .cchClock i (by decide) (fun _ => rfl)
  | ptcRead => cases h; exact wordOf_none (by decide) (fun _ => rfl)
  | ttuArm e => cases h; exact wordOf_one .ttuArm e (by decide) (fun _ => rfl)
  | ttuStop e => cases h; exact wordOf_one .ttuStop e (by decide) (fun _ => rfl)
  | pswTx => cases h; exact wordOf_none (by decide) (fun _ => rfl)
  | barkTx => cases h; exact wordOf_none (by decide) (fun _ => rfl)
  | roleStep => cases h; exact wordOf_none (by decide) (fun _ => rfl)
  | eqSnap i x => cases h; exact wordOf_two .eqSnap i x (by decide) (fun _ => rfl)
  | canTx c o => cases h; exact wordOf_one (.canTx c) o (by omega) (fun _ => by fin_cases c <;> rfl)
  | canCancel c o => cases h; exact wordOf_one (.canCancel c) o (by omega) (fun _ => by fin_cases c <;> rfl)
  | serTx p d => cases h; exact wordOf_one (.serTx p) d (by omega) (fun _ => by fin_cases p <;> rfl)
  | ethTx p d => cases h; exact wordOf_one (.ethTx p) d (by omega) (fun _ => by fin_cases p <;> rfl)
  | lpoSet c => cases h; exact wordOf_one .lpoSet c (by decide) (fun _ => rfl)
  | lpoCheck c => cases h; exact wordOf_one .lpoCheck c (by decide) (fun _ => rfl)
  | lpoRbsel c x => cases h; exact wordOf_two .lpoRbsel c x (by decide) (fun _ => rfl)
  | lpiSel c x => cases h; exact wordOf_two .lpiSel c x (by decide) (fun _ => rfl)
  | lpiCheck c => cases h; exact wordOf_one .lpiCheck c (by decide) (fun _ => rfl)
  | hartReq t => cases h; exact wordOf_one .hartReq t (by decide) (fun _ => rfl)
  | anvSel c x => cases h; exact wordOf_two .anvSel c x (by decide) (fun _ => rfl)
  | qdcZero d => cases h; exact wordOf_one .qdcZero d (by decide) (fun _ => rfl)
  | gpioSet i b => cases h; exact wordOf_flag .gpioSet i b (by decide) (fun _ => rfl)
  | evmCheck n => cases h; exact wordOf_one .evmCheck n (by decide) (fun _ => rfl)
  | mbxServe n => cases h; exact wordOf_one .mbxServe n (by decide) (fun _ => rfl)
  | mbxPost n t => cases h; exact wordOf_two .mbxPost n t (by decide) (fun _ => rfl)
  | secRead => cases h; exact wordOf_none (by decide) (fun _ => rfl)
  | pwrRead => cases h; exact wordOf_none (by decide) (fun _ => rfl)
  | _ => cases h


theorem pair_split {m n d : Nat} (h : d < 2 ^ (m + n)) : (BitVec.ofNat m (d % 2 ^ m)).toNat + 2 ^ m * (BitVec.ofNat n (d / 2 ^ m)).toNat = d := by
  rw [BitVec.toNat_ofNat, BitVec.toNat_ofNat, Nat.mod_mod, Nat.mod_eq_of_lt (Nat.div_lt_of_lt_mul (by rwa [← Nat.pow_add])), Nat.mod_add_div]

theorem flag_split {n d : Nat} (h : d < 2 ^ (n + 1)) : (BitVec.ofNat n (d % 2 ^ n)).toNat + 2 ^ n * b2n (d / 2 ^ n % 2 == 1) = d := by
  have hb : b2n (d / 2 ^ n % 2 == 1) = d / 2 ^ n := by
    have : d / 2 ^ n < 2 := Nat.div_lt_of_lt_mul (by rwa [Nat.pow_succ] at h)
    interval_cases d / 2 ^ n <;> rfl
  rw [hb, BitVec.toNat_ofNat, Nat.mod_mod, Nat.mod_add_div]

theorem encodeOp_none {i j : Instr} {d eng opc : Nat} (he : encodeOp i = some (opFields eng opc 0)) (h : operand 0 d (fun _ => i) = some j) :
    encodeOp j = some (opFields eng opc d) := by
  obtain ⟨hd, rfl⟩ := operand_eq_some.mp h
  rw [he, show d = 0 by omega]

theorem encodeOp_one {n d eng opc : Nat} {f : BitVec n → Instr} {j : Instr} (he : ∀ x, encodeOp (f x) = some (opFields eng opc x.toNat))
    (h : operand n d (fun d => f (.ofNat n d)) = some j) : encodeOp j = some (opFields eng opc d) := by
  obtain ⟨hd, rfl⟩ := operand_eq_some.mp h
  rw [he, BitVec.toNat_ofNat, Nat.mod_eq_of_lt hd]

theorem encodeOp_two {m n d eng opc : Nat} {f : BitVec m → BitVec n → Instr} {j : Instr}
    (he : ∀ x y, encodeOp (f x y) = some (opFields eng opc (x.toNat + 2 ^ m * y.toNat)))
    (h : operand (m + n) d (fun d => f (.ofNat m (d % 2 ^ m)) (.ofNat n (d / 2 ^ m))) = some j) : encodeOp j = some (opFields eng opc d) := by
  obtain ⟨hd, rfl⟩ := operand_eq_some.mp h
  rw [he, pair_split hd]

theorem encodeOp_flag {n d eng opc : Nat} {f : BitVec n → Bool → Instr} {j : Instr}
    (he : ∀ x b, encodeOp (f x b) = some (opFields eng opc (x.toNat + 2 ^ n * b2n b)))
    (h : operand (n + 1) d (fun d => f (.ofNat n (d % 2 ^ n)) (d / 2 ^ n % 2 == 1)) = some j) : encodeOp j = some (opFields eng opc d) := by
  obtain ⟨hd, rfl⟩ := operand_eq_some.mp h
  rw [he, flag_split hd]

theorem encodeOp_of_decSeq {opc d : Nat} {i : Instr} (h : decSeq opc d = some i) : encodeOp i = some (opFields 0 opc d) := by
  unfold decSeq at h
  split at h
  · exact encodeOp_one (fun _ => rfl) h
  · exact encodeOp_one (fun _ => rfl) h
  · exact encodeOp_one (fun _ => rfl) h
  · cases h

theorem encodeOp_of_decSdir {opc d : Nat} {i : Instr} (h : decSdir opc d = some i) : encodeOp i = some (opFields 2 opc d) := by
  unfold decSdir at h
  split at h
  · exact encodeOp_two (m := 8) (n := 2) (fun _ _ => rfl) h
  · exact encodeOp_flag (fun _ _ => rfl) h
  · exact encodeOp_one (fun _ => rfl) h
  · cases h
theorem encodeOp_of_decVmu {opc d : Nat} {i : Instr} (h : decVmu opc d = some i) : encodeOp i = some (opFields 3 opc d) := by
  unfold decVmu at h
  split at h
  · exact encodeOp_one (fun _ => rfl) h
  · exact encodeOp_one (fun _ => rfl) h
  · exact encodeOp_none rfl h
  · exact encodeOp_none rfl h
  · exact encodeOp_one (fun _ => rfl) h
  · exact encodeOp_one (fun _ => rfl) h
  · exact encodeOp_none rfl h
  · exact encodeOp_none rfl h
  · exact encodeOp_one (fun _ => rfl) h
  · exact encodeOp_none rfl h
  · exact encodeOp_none rfl h
  · exact encodeOp_none rfl h
  · exact encodeOp_none rfl h
  · exact encodeOp_none rfl h
  · cases h

theorem encodeOp_of_decQps {eng opc d : Nat} {i : Instr} (h : decQps eng opc d = some i) : encodeOp i = some (opFields eng opc d) := by
  unfold decQps at h
  split at h
  · exact encodeOp_two (m := 4) (n := 12) (fun _ _ => rfl) h
  · exact encodeOp_two (m := 4) (n := 9) (fun _ _ => rfl) h
  · exact encodeOp_one (fun _ => rfl) h
  · exact encodeOp_two (m := 4) (n := 8) (fun _ _ => rfl) h
  · exact encodeOp_one (fun _ => rfl) h
  · cases h

theorem encodeOp_of_decLce {opc d : Nat} {i : Instr} (h : decLce opc d = some i) : encodeOp i = some (opFields 6 opc d) := by
  unfold decLce at h
  split at h
  · exact encodeOp_one (fun _ => rfl) h
  · exact encodeOp_none rfl h
  · exact encodeOp_one (fun _ => rfl) h
  · exact encodeOp_one (fun _ => rfl) h
  · exact encodeOp_none rfl h
  · exact encodeOp_none rfl h
  · exact encodeOp_none rfl h
  · exact encodeOp_none rfl h
  · exact encodeOp_one (fun _ => rfl) h
  · exact encodeOp_one (fun _ => rfl) h
  · exact encodeOp_none rfl h
  · cases h

theorem encodeOp_of_decNav {eng opc d : Nat} {i : Instr} (h : decNav eng opc d = some i) : encodeOp i = some (opFields eng opc d) := by
  unfold decNav at h
  split at h
  · exact encodeOp_one (fun _ => rfl) h
  · exact encodeOp_none rfl h
  · exact encodeOp_one (fun _ => rfl) h
  · exact encodeOp_none rfl h
  · exact encodeOp_one (fun _ => rfl) h
  · exact encodeOp_one (fun _ => rfl) h
  · exact encodeOp_one (fun _ => rfl) h
  · cases h

theorem encodeOp_of_decLoop {eng opc d : Nat} {i : Instr} (h : decLoop eng opc d = some i) : encodeOp i = some (opFields eng opc d) := by
  unfold decLoop at h
  split at h
  · exact encodeOp_one (fun _ => rfl) h
  · exact encodeOp_one (fun _ => rfl) h
  · exact encodeOp_one (fun _ => rfl) h
  · exact encodeOp_two (m := 4) (n := 2) (fun _ _ => rfl) h
  · exact encodeOp_two (m := 5) (n := 2) (fun _ _ => rfl) h
  · exact encodeOp_one (fun _ => rfl) h
  · exact encodeOp_one (fun _ => rfl) h
  · exact encodeOp_two (m := 3) (n := 2) (fun _ _ => rfl) h
  · exact encodeOp_one (fun _ => rfl) h
  · cases h

theorem encodeOp_of_decPack {eng opc d : Nat} {i : Instr} (h : decPack eng opc d = some i) : encodeOp i = some (opFields eng opc d) := by
  unfold decPack at h
  split at h
  · exact encodeOp_none rfl h
  · exact encodeOp_one (fun _ => rfl) h
  · exact encodeOp_one (fun _ => rfl) h
  · exact encodeOp_none rfl h
  · exact encodeOp_none rfl h
  · exact encodeOp_none rfl h
  · exact encodeOp_two (m := 4) (n := 8) (fun _ _ => rfl) h
  · cases h

theorem encodeOp_of_decSys {eng opc d : Nat} {i : Instr} (h : decSys eng opc d = some i) : encodeOp i = some (opFields eng opc d) := by
  unfold decSys at h
  split at h
  · exact encodeOp_flag (fun _ _ => rfl) h
  · exact encodeOp_one (fun _ => rfl) h
  · exact encodeOp_one (fun _ => rfl) h
  · exact encodeOp_two (m := 4) (n := 8) (fun _ _ => rfl) h
  · exact encodeOp_none rfl h
  · exact encodeOp_none rfl h
  · cases h

theorem encodeOp_of_decPort {eng opc d : Nat} {i : Instr} (h : decPort eng opc d = some i) : encodeOp i = some (opFields eng opc d) := by
  unfold decPort at h
  split at h
  case isTrue hc =>
    obtain ⟨c, rfl⟩ := Nat.exists_eq_add_of_le hc.1
    simp only [Nat.add_sub_cancel_left] at h
    split at h
    · exact encodeOp_one (fun _ => rfl) h
    · exact encodeOp_one (fun _ => rfl) h
    · cases h
  case isFalse =>
    split at h
    case isTrue hs =>
      obtain ⟨p, rfl⟩ := Nat.exists_eq_add_of_le hs.1
      simp only [Nat.add_sub_cancel_left] at h
      split at h
      · exact encodeOp_one (fun _ => rfl) h
      · cases h
    case isFalse =>
      split at h
      case isTrue hn =>
        obtain ⟨p, rfl⟩ := Nat.exists_eq_add_of_le hn.1
        simp only [Nat.add_sub_cancel_left] at h
        split at h
        · exact encodeOp_one (fun _ => rfl) h
        · cases h
      case isFalse => cases h

theorem encodeOp_nop {eng : Nat} (he : eng ≤ 0x30) (h1 : eng ≠ 1) : encodeOp (.nop (.ofNat 6 eng)) = some (opFields eng 0 0) := by
  have hn : (BitVec.ofNat 6 eng).toNat = eng := by rw [BitVec.toNat_ofNat, Nat.mod_eq_of_lt (by omega)]
  change (if (BitVec.ofNat 6 eng).toNat ≤ 0x30 ∧ (BitVec.ofNat 6 eng).toNat ≠ 1 then some (opFields (BitVec.ofNat 6 eng).toNat 0 0) else none) = _
  rw [hn, if_pos ⟨he, h1⟩]

theorem encodeOp_of_decodeFields {eng opc d : Nat} {i : Instr} (h : decodeFields eng opc d = some i) : encodeOp i = some (opFields eng opc d) := by
  unfold decodeFields at h
  obtain ⟨rfl, h⟩ | ⟨h1, h⟩ := ite_eq_iff.mp h
  · obtain ⟨rfl, h⟩ := Option.ite_none_right_eq_some.mp h
    exact encodeOp_one (f := .land) (fun _ => rfl) h
  obtain ⟨rfl, h⟩ | ⟨-, h⟩ := ite_eq_iff.mp h
  · obtain ⟨he, h⟩ := Option.ite_none_right_eq_some.mp h
    exact encodeOp_none (encodeOp_nop he h1) h
  obtain ⟨rfl, h⟩ | ⟨-, h⟩ := ite_eq_iff.mp h
  · exact encodeOp_of_decSeq h
  obtain ⟨rfl, h⟩ | ⟨-, h⟩ := ite_eq_iff.mp h
  · exact encodeOp_of_decSdir h
  obtain ⟨rfl, h⟩ | ⟨-, h⟩ := ite_eq_iff.mp h
  · exact encodeOp_of_decVmu h
  obtain ⟨-, h⟩ | ⟨-, h⟩ := ite_eq_iff.mp h
  · exact encodeOp_of_decQps h
  obtain ⟨rfl, h⟩ | ⟨-, h⟩ := ite_eq_iff.mp h
  · exact encodeOp_of_decLce h
  obtain ⟨-, h⟩ | ⟨-, h⟩ := ite_eq_iff.mp h
  · exact encodeOp_of_decNav h
  obtain ⟨-, h⟩ | ⟨-, h⟩ := ite_eq_iff.mp h
  · exact encodeOp_of_decPack h
  obtain ⟨-, h⟩ | ⟨-, h⟩ := ite_eq_iff.mp h
  · exact encodeOp_of_decPort h
  obtain ⟨-, h⟩ | ⟨-, h⟩ := ite_eq_iff.mp h
  · exact encodeOp_of_decLoop h
  · exact encodeOp_of_decSys h

/-- Settles O8: a word is its three fields, and every row of the decoder is the row of the encoder read backwards. -/
theorem encodeOfDecode : Obligations.EncodeOfDecode := by
  intro i w _ h
  rw [decodeOp_eq_decodeFields] at h
  rw [encodeOp_of_decodeFields h, opFields_words]

end Sys2Proof
end

section
/-! A part that a frame does not name is the same field of both states. -/

namespace Sys2Proof.Machine

section
variable {l : List Part} {s t : State}

theorem Only.boot (h : Only l s t) (hl : l.contains Part.boot = false) : t.boot = s.boot := h .boot (by simpa using hl)
theorem Only.aon (h : Only l s t) (hl : l.contains Part.aon = false) : t.aon = s.aon := h .aon (by simpa using hl)
theorem Only.hdr (h : Only l s t) (hl : l.contains Part.hdr = false) : t.hdr = s.hdr := h .hdr (by simpa using hl)
theorem Only.seq (h : Only l s t) (hl : l.contains Part.seq = false) : t.seq = s.seq := h .seq (by simpa using hl)
theorem Only.cck (h : Only l s t) (hl : l.contains Part.cck = false) : t.cck = s.cck := h .cck (by simpa using hl)
theorem Only.pins (h : Only l s t) (hl : l.contains Part.pins = false) : t.pins = s.pins := h .pins (by simpa using hl)
theorem Only.sects (h : Only l s t) (hl : l.contains Part.sects = false) : t.sects = s.sects := h .sects (by simpa using hl)
theorem Only.sram (h : Only l s t) (hl : l.contains Part.sram = false) : t.sram = s.sram := h .sram (by simpa using hl)
theorem Only.sdir (h : Only l s t) (hl : l.contains Part.sdir = false) : t.sdir = s.sdir := h .sdir (by simpa using hl)
theorem Only.lbus (h : Only l s t) (hl : l.contains Part.lbus = false) : t.lbus = s.lbus := h .lbus (by simpa using hl)
theorem Only.flash (h : Only l s t) (hl : l.contains Part.flash = false) : t.flash = s.flash := h .flash (by simpa using hl)
theorem Only.mbx (h : Only l s t) (hl : l.contains Part.mbx = false) : t.mbx = s.mbx := h .mbx (by simpa using hl)
theorem Only.fuses (h : Only l s t) (hl : l.contains Part.fuses = false) : t.fuses = s.fuses := h .fuses (by simpa using hl)
theorem Only.pwr (h : Only l s t) (hl : l.contains Part.pwr = false) : t.pwr = s.pwr := h .pwr (by simpa using hl)
theorem Only.ptc (h : Only l s t) (hl : l.contains Part.ptc = false) : t.ptc = s.ptc := h .ptc (by simpa using hl)
theorem Only.cclk (h : Only l s t) (hl : l.contains Part.cclk = false) : t.cclk = s.cclk := h .cclk (by simpa using hl)
theorem Only.sec (h : Only l s t) (hl : l.contains Part.sec = false) : t.sec = s.sec := h .sec (by simpa using hl)
theorem Only.funcReqs (h : Only l s t) (hl : l.contains Part.funcReqs = false) : t.funcReqs = s.funcReqs := h .funcReqs (by simpa using hl)
theorem Only.disabled (h : Only l s t) (hl : l.contains Part.disabled = false) : t.disabled = s.disabled := h .disabled (by simpa using hl)

end

end Sys2Proof.Machine
end

section
/-! The frame of the commands. -/

namespace Sys2Proof.Machine

/-- The frame of each command, from the frame of its meaning. -/
theorem exec_only : ∀ (c : Instr) (s : State), OnlyNext (touches c) s (exec c s)
  | .porRelease, s => execPorRelease_only s
  | .porAssert, s => execPorAssert_only s
  | .resetNLow, s => execResetNLow_only s
  | .resetNRise, s => execResetNRise_only s
  | .pfailNLow, s => execPfailNLow_only s
  | .pfailRelease, s => execPfailRelease_only s
  | .recorderFlushEnd, s => execRecorderFlushEnd_only s
  | .flushCutoff, s => execFlushCutoff_only s
  | .resetExit roleSel unitSel alj log, s => execResetExit_only roleSel unitSel alj log s
  | .zeroiserComplete fail, s => execZeroiserComplete_only fail s
  | .chartHeadersRead octal ticks, s => execChartHeadersRead_only octal ticks s
  | .chartCopyStreamed ticks, s => execChartCopyStreamed_only ticks s
  | .verifyComplete ticks, s => execVerifyComplete_only ticks s
  | .sealComplete, s => execSealComplete_only s
  | .syncTmo, s => execSyncTmo_only s
  | .scheduleStart, s => execScheduleStart_only s
  | .contractReset, s => execContractReset_only s
  | .slackZoneBegin, s => execSlackZoneBegin_only s
  | .alignerPhaseSample e, s => execAlignerPhaseSample_only e s
  | .alignerTrimUpdate, s => execAlignerTrimUpdate_only s
  | .frameBoundary alj, s => execFrameBoundary_only alj s
  | .cckStore fault, s => execCckStore_only fault s
  | .cckEccCorr store, s => execCckEccCorr_only store s
  | .nop eng, s => execNop_only eng s
  | .mark tag, s => execMark_only tag s
  | .pwake mask, s => execPwake_only mask s
  | .pgate mask, s => execPgate_only mask s
  | .domainWakeComplete d, s => execDomainWakeComplete_only d s
  | .domainAutoWake d, s => execDomainAutoWake_only d s
  | .land lbu, s => execLand_only lbu s
  | .pub group psel, s => execPub_only group psel s
  | .subst sig zero, s => execSubst_only sig zero s
  | .curve n, s => execCurve_only n s
  | .mmul d, s => execMmul_only d s
  | .madd d, s => execMadd_only d s
  | .mruVote, s => execMruVote_only s
  | .obsPred, s => execObsPred_only s
  | .refIn slot, s => execRefIn_only slot s
  | .refTest slot, s => execRefTest_only slot s
  | .hdgVote, s => execHdgVote_only s
  | .refVote, s => execRefVote_only s
  | .obsDrExpired heading, s => execObsDrExpired_only heading s
  | .obsUpd slot, s => execObsUpd_only slot s
  | .obsOut, s => execObsOut_only s
  | .wind, s => execWind_only s
  | .windHoldEnd, s => execWindHoldEnd_only s
  | .pvtSolve, s => execPvtSolve_only s
  | .pvtOut, s => execPvtOut_only s
  | .hdgSolve, s => execHdgSolve_only s
  | .acqCtl mode, s => execAcqCtl_only mode s
  | .acqSnap, s => execAcqSnap_only s
  | .trkSnap ch, s => execTrkSnap_only ch s
  | .epoch, s => execEpoch_only s
  | .aiding sig, s => execAiding_only sig s
  | .rtcmIn sig, s => execRtcmIn_only sig s
  | .cchClock sig, s => execCchClock_only sig s
  | .navOpComplete done, s => execNavOpComplete_only done s
  | .navBootstrapEpoch samples, s => execNavBootstrapEpoch_only samples s
  | .acqPassEnd iq0 iq1 iq2 iq3, s => execAcqPassEnd_only iq0 iq1 iq2 iq3 s
  | .aidedDwellEnd chan ant1 ant2, s => execAidedDwellEnd_only chan ant1 ant2 s
  | .trkPllLock samples, s => execTrkPllLock_only samples s
  | .acqVerifyTimeout chan, s => execAcqVerifyTimeout_only chan s
  | .bitSync at_, s => execBitSync_only at_ s
  | .frameSync chan tx, s => execFrameSync_only chan tx s
  | .navLockLost samples, s => execNavLockLost_only samples s
  | .reacqTimeout chan, s => execReacqTimeout_only chan s
  | .sidePeakMove samples, s => execSidePeakMove_only samples s
  | .navMsgDecoded chan symbols type msg, s => execNavMsgDecoded_only chan symbols type msg s
  | .navExclude mbx con prn, s => execNavExclude_only mbx con prn s
  | .navInclude mbx con prn, s => execNavInclude_only mbx con prn s
  | .fsaBuild tpl entry, s => execFsaBuild_only tpl entry s
  | .farFact tpl col, s => execFarFact_only tpl col s
  | .farStart tpl, s => execFarStart_only tpl s
  | .farIter tpl count, s => execFarIter_only tpl count s
  | .farEnd tpl, s => execFarEnd_only tpl s
  | .qpsCaptureArm mbx tpl, s => execQpsCaptureArm_only mbx tpl s
  | .qpsCaptureDisarm mbx tpl, s => execQpsCaptureDisarm_only mbx tpl s
  | .modeStep, s => execModeStep_only s
  | .armTimeout, s => execArmTimeout_only s
  | .modeReqArm mbx mode, s => execModeReqArm_only mbx mode s
  | .modeReqSwitch mbx mode, s => execModeReqSwitch_only mbx mode s
  | .modeReqDisarm mbx mode, s => execModeReqDisarm_only mbx mode s
  | .modeReqDirect mbx mode, s => execModeReqDirect_only mbx mode s
  | .seatFeed seat, s => execSeatFeed_only seat s
  | .seatTake seat, s => execSeatTake_only seat s
  | .tauMix, s => execTauMix_only s
  | .pwrShare, s => execPwrShare_only s
  | .flr, s => execFlr_only s
  | .flrRelease, s => execFlrRelease_only s
  | .allocOut, s => execAllocOut_only s
  | .allocLost, s => execAllocLost_only s
  | .caPrep group, s => execCaPrep_only group s
  | .caEval group, s => execCaEval_only group s
  | .simStep, s => execSimStep_only s
  | .lceStep ctx, s => execLceStep_only ctx s
  | .lceMode mbx ctx mode mvSet uman, s => execLceMode_only mbx ctx mode mvSet uman s
  | .lceBank mbx ctx bank, s => execLceBank_only mbx ctx bank s
  | .lceTestStart mbx ctx t, s => execLceTestStart_only mbx ctx t s
  | .lceTestStop mbx ctx, s => execLceTestStop_only mbx ctx s
  | .lceInjEnd, s => execLceInjEnd_only s
  | .lceCaptureArm mbx ctx dec, s => execLceCaptureArm_only mbx ctx dec s
  | .lceCaptureDisarm mbx ctx, s => execLceCaptureDisarm_only mbx ctx s
  | .lceCapturePage mbx ctx page, s => execLceCapturePage_only mbx ctx page s
  | .fceRestart chan, s => execFceRestart_only chan s
  | .fceStart mask, s => execFceStart_only mask s
  | .modulatorSelectApply chan before, s => execModulatorSelectApply_only chan before s
  | .fceCicOutput chan bits split ago, s => execFceCicOutput_only chan bits split ago s
  | .anvSel chan sel, s => execAnvSel_only chan sel s
  | .qdcZero dec, s => execQdcZero_only dec s
  | .qdcZeroApply dec, s => execQdcZeroApply_only dec s
  | .qdcTransition dec dir gap, s => execQdcTransition_only dec dir gap s
  | .lpoSet chan, s => execLpoSet_only chan s
  | .lpoCodeApply chan, s => execLpoCodeApply_only chan s
  | .lpoLatchStrobe mask, s => execLpoLatchStrobe_only mask s
  | .lpoCheck chan, s => execLpoCheck_only chan s
  | .lpoRbsel chan sel, s => execLpoRbsel_only chan sel s
  | .lpiSel chan sel, s => execLpiSel_only chan sel s
  | .lpiCheck chan, s => execLpiCheck_only chan s
  | .loopClear mbx chan, s => execLoopClear_only mbx chan s
  | .hartReq txn, s => execHartReq_only txn s
  | .hartRequestSend port, s => execHartRequestSend_only port s
  | .hartFrameReceived port frame, s => execHartFrameReceived_only port frame s
  | .hartStoExpiry port, s => execHartStoExpiry_only port s
  | .hartPass mbx port addr cmd long data, s => execHartPass_only mbx port addr cmd long data s
  | .pswTx, s => execPswTx_only s
  | .ringFrameReceived port frame fwd localWait, s => execRingFrameReceived_only port frame fwd localWait s
  | .barkTx, s => execBarkTx_only s
  | .roleStep, s => execRoleStep_only s
  | .leaseExpired, s => execLeaseExpired_only s
  | .collarClaimWindowEnd, s => execCollarClaimWindowEnd_only s
  | .eqSnap item index, s => execEqSnap_only item index s
  | .eqLost, s => execEqLost_only s
  | .leashUp link, s => execLeashUp_only link s
  | .leashDown link aligned errs, s => execLeashDown_only link aligned errs s
  | .leashBarkReceived link ok bark, s => execLeashBarkReceived_only link ok bark s
  | .leashEqReceived link ok item, s => execLeashEqReceived_only link ok item s
  | .leashCmdReceived link ok cmd, s => execLeashCmdReceived_only link ok cmd s
  | .ilkInEdge, s => execIlkInEdge_only s
  | .ilkClaimLapse, s => execIlkClaimLapse_only s
  | .roleSwap mbx, s => execRoleSwap_only mbx s
  | .packDuplex mbx unit, s => execPackDuplex_only mbx unit s
  | .partnerReset mbx link, s => execPartnerReset_only mbx link s
  | .ptcRead, s => execPtcRead_only s
  | .ptpSyncReceived port seq twoStep t1, s => execPtpSyncReceived_only port seq twoStep t1 s
  | .ptpFollowUpReceived port seq t1, s => execPtpFollowUpReceived_only port seq t1 s
  | .ptpAnnounceReceived port ann, s => execPtpAnnounceReceived_only port ann s
  | .ptpPdelayReqReceived port seq, s => execPtpPdelayReqReceived_only port seq s
  | .ptpDelayResponseReceived port seq rx tx, s => execPtpDelayResponseReceived_only port seq rx tx s
  | .ptpMessageTimer port timer, s => execPtpMessageTimer_only port timer s
  | .ptpSourceTimeout src, s => execPtpSourceTimeout_only src s
  | .timeHoldoverEntry, s => execTimeHoldoverEntry_only s
  | .sourceHoldExpired src, s => execSourceHoldExpired_only src s
  | .refClkLost, s => execRefClkLost_only s
  | .refClkBack, s => execRefClkBack_only s
  | .ppsOutRise, s => execPpsOutRise_only s
  | .ppsOutFall, s => execPpsOutFall_only s
  | .ppsInEdge input, s => execPpsInEdge_only input s
  | .ppsInMiss input, s => execPpsInMiss_only input s
  | .ttuArm ent, s => execTtuArm_only ent s
  | .ttuStop ent, s => execTtuStop_only ent s
  | .ttuProgramArrival ent, s => execTtuProgramArrival_only ent s
  | .ttuFire ent, s => execTtuFire_only ent s
  | .calendarLoad, s => execCalendarLoad_only s
  | .timeSet mbx secs utc, s => execTimeSet_only mbx secs utc s
  | .canTx ctl obj, s => execCanTx_only ctl obj s
  | .canTxArrival ctl begins, s => execCanTxArrival_only ctl begins s
  | .canFrameSent ctl begins, s => execCanFrameSent_only ctl begins s
  | .canAttemptEnd ctl err more begins, s => execCanAttemptEnd_only ctl err more begins s
  | .canCancel ctl obj, s => execCanCancel_only ctl obj s
  | .canCancelArrival ctl, s => execCanCancelArrival_only ctl s
  | .canBusoffRecovery ctl begins, s => execCanBusoffRecovery_only ctl begins s
  | .canFrameReceived ctl frame begins, s => execCanFrameReceived_only ctl frame begins s
  | .canView mbx ctl obj, s => execCanView_only mbx ctl obj s
  | .serTx port desc, s => execSerTx_only port desc s
  | .serTxArrival port, s => execSerTxArrival_only port s
  | .serTelegramReceived port bytes, s => execSerTelegramReceived_only port bytes s
  | .serChunkClose port bytes, s => execSerChunkClose_only port bytes s
  | .ethTx port desc, s => execEthTx_only port desc s
  | .ethFrameReceived port frame, s => execEthFrameReceived_only port frame s
  | .ethRawChunk port desc, s => execEthRawChunk_only port desc s
  | .ethLink port word, s => execEthLink_only port word s
  | .mepNonceQuery port mac, s => execMepNonceQuery_only port mac s
  | .mepRequest port frame, s => execMepRequest_only port frame s
  | .evmCheck slot, s => execEvmCheck_only slot s
  | .evtTokenRefill slot, s => execEvtTokenRefill_only slot s
  | .evtStickyClear m reg mask, s => execEvtStickyClear_only m reg mask s
  | .recRecordWrite, s => execRecRecordWrite_only s
  | .recCursorWrite m seq, s => execRecCursorWrite_only m seq s
  | .recLoadComplete m, s => execRecLoadComplete_only m s
  | .recWin7Read m, s => execRecWin7Read_only m s
  | .mbxLockRead m mbx, s => execMbxLockRead_only m mbx s
  | .mbxCtlPost m mbx, s => execMbxCtlPost_only m mbx s
  | .mbxCtlRelease m mbx, s => execMbxCtlRelease_only m mbx s
  | .mbxLockExpired mbx, s => execMbxLockExpired_only mbx s
  | .mbxServe mbx, s => execMbxServe_only mbx s
  | .mbxPost mbx tpl, s => execMbxPost_only mbx tpl s
  | .mbxCommandComplete mbx, s => execMbxCommandComplete_only mbx s
  | .standaloneServerLatch mbx, s => execStandaloneServerLatch_only mbx s
  | .force mbx sig val, s => execForce_only mbx sig val s
  | .signalRelease mbx sig, s => execSignalRelease_only mbx sig s
  | .funcDisable mbx eng inst, s => execFuncDisable_only mbx eng inst s
  | .funcEnable mbx eng inst, s => execFuncEnable_only mbx eng inst s
  | .hspRead addr n, s => execHspRead_only addr n s
  | .hspWrite addr n words crc, s => execHspWrite_only addr n words crc s
  | .hspStatus, s => execHspStatus_only s
  | .hspResetMaster byte, s => execHspResetMaster_only byte s
  | .ptcNsRead m, s => execPtcNsRead_only m s
  | .registerWrite m addr w, s => execRegisterWrite_only m addr w s
  | .tokenLoad mbx off len data, s => execTokenLoad_only mbx off len data s
  | .tokenApply mbx, s => execTokenApply_only mbx s
  | .tokenApplyDone, s => execTokenApplyDone_only s
  | .tokenClear mbx, s => execTokenClear_only mbx s
  | .lcTransition stuck, s => execLcTransition_only stuck s
  | .hold mbx, s => execHold_only mbx s
  | .holdRelease mbx, s => execHoldRelease_only mbx s
  | .sleep mbx mask gpio level secs, s => execSleep_only mbx mask gpio level secs s
  | .sleepWake cause, s => execSleepWake_only cause s
  | .wakeSyncEntry, s => execWakeSyncEntry_only s
  | .revokeDebug m, s => execRevokeDebug_only m s
  | .closeHostauth m, s => execCloseHostauth_only m s
  | .secRead, s => execSecRead_only s
  | .pwrRead, s => execPwrRead_only s
  | .dbgAttach req, s => execDbgAttach_only req s
  | .dbgAcc addr data write go, s => execDbgAcc_only addr data write go s
  | .dbgHalt, s => execDbgHalt_only s
  | .dbgResume, s => execDbgResume_only s
  | .dbgSwinWrite w, s => execDbgSwinWrite_only w s
  | .tapReset, s => execTapReset_only s
  | .extest, s => execExtest_only s
  | .clamp, s => execClamp_only s
  | .highz, s => execHighz_only s
  | .pwrDomainFault d, s => execPwrDomainFault_only d s
  | .brsRankStart, s => execBrsRankStart_only s
  | .brsRailEnable rail, s => execBrsRailEnable_only rail s
  | .brsPgGood rail, s => execBrsPgGood_only rail s
  | .brsPgTmo rail, s => execBrsPgTmo_only rail s
  | .brsPgLost rail, s => execBrsPgLost_only rail s
  | .brsPgBack rail, s => execBrsPgBack_only rail s
  | .brsRailcmd m w, s => execBrsRailcmd_only m w s
  | .pmbPoll reads, s => execPmbPoll_only reads s
  | .tjSample temp, s => execTjSample_only temp s
  | .gpioSet sig bank, s => execGpioSet_only sig bank s
  | .gpioLevelChange bank levels, s => execGpioLevelChange_only bank levels s
  | .chartErase mbx target, s => execChartErase_only mbx target s
  | .chartWrite mbx target off len data, s => execChartWrite_only mbx target off len data s
  | .chartCommit mbx target, s => execChartCommit_only mbx target s
  | .chartStatus mbx target, s => execChartStatus_only mbx target s
  | .reanchor mbx slot, s => execReanchor_only mbx slot s
  | .serCharacterError port err bytes, s => execSerCharacterError_only port err bytes s
  | .serTelegramSent port, s => execSerTelegramSent_only port s
  | .canRxError ctl more begins, s => execCanRxError_only ctl more begins s
  | .canIntegrationComplete ctl begins, s => execCanIntegrationComplete_only ctl begins s
  | .hspFrameError addr, s => execHspFrameError_only addr s
  | .hartCarrierDetect port on, s => execHartCarrierDetect_only port on s

theorem pending_not_touched (c : Instr) : Part.pending ∉ touches c := by
  cases c <;> exact of_decide_eq_false rfl

/-- Settles O4: the frame lemma of each meaning is the frame of its command, and no list names the queue. -/
theorem commandsChangeOnlyTheirParts : Obligations.CommandsChangeOnlyTheirParts :=
  fun c => ⟨pending_not_touched c, fun s t h => exec_only c s t h⟩

end Sys2Proof.Machine
end

section
/-! Every command of every state answers a next state. -/

namespace Sys2Proof.Machine

/-- A command's outcome is a next state. -/
def Answers (r : Res) : Prop := ∃ t, r = .next t

theorem Answers.next (t : State) : Answers (.next t) := ⟨t, rfl⟩

theorem Answers.ite {c : Prop} [Decidable c] {a b : Res} (ha : Answers a) (hb : Answers b) : Answers (if c then a else b) := by
  split
  · exact ha
  · exact hb

theorem issue_answers (eng inst : Nat) (op : Word) (f : State → State) (s : State) : Answers (issue eng inst op f s) := by
  refine .ite (.next _) (.ite (.next _) ?_)
  split
  · exact .ite (.next _) (.next _)
  · exact .next _

theorem qpsIssue_answers (eng t op : Nat) (first : Bool) (w : Word) (f : State → State) (s : State) : Answers (qpsIssue eng t op first w f s) :=
  .ite (.next _) (issue_answers _ _ _ _ _)

theorem execCckStore_answers (fault : CckFault) (s : State) : Answers (execCckStore fault s) := by
  refine .ite ?_ (.next _)
  split
  · exact .next _
  · exact .next _

theorem execPtpFollowUpReceived_answers (p : Fin 4) (seq : BitVec 16) (t1 : PtpTime) (s : State) : Answers (execPtpFollowUpReceived p seq t1 s) := by
  unfold execPtpFollowUpReceived
  split
  · exact .ite (.next _) (.next _)
  · exact .next _

theorem execPtpDelayResponseReceived_answers (p : Fin 4) (seq : BitVec 16) (rx tx : PtpTime) (s : State) : Answers (execPtpDelayResponseReceived p seq rx tx s) := by
  refine .ite (.next _) (.ite ?_ (.next _))
  split
  · exact .next _
  · exact .next _

theorem execPpsInEdge_answers (k : Fin 2) (s : State) : Answers (execPpsInEdge k s) := by
  unfold execPpsInEdge
  split
  · exact .next _
  · exact .ite (.next _) (.ite (.next _) (.next _))

theorem execPpsInMiss_answers (k : Fin 2) (s : State) : Answers (execPpsInMiss k s) := by
  unfold execPpsInMiss
  split
  · exact .next _
  · exact .ite (.next _) (.next _)

theorem execSerTxArrival_answers (p : Fin 12) (s : State) : Answers (execSerTxArrival p s) := by
  unfold execSerTxArrival
  dsimp only
  split
  · exact .ite (.next _) (.next _)
  · exact .next _

theorem execCanTxArrival_answers (c : Fin 8) (begins : Bool) (s : State) : Answers (execCanTxArrival c begins s) := by
  unfold execCanTxArrival
  split
  · exact .ite (.next _) (.next _)
  · exact .next _

theorem execCanCancelArrival_answers (c : Fin 8) (s : State) : Answers (execCanCancelArrival c s) := by
  unfold execCanCancelArrival
  split
  · exact .ite (.next _) (.ite (.next _) (.ite (.next _) (.next _)))
  · exact .next _

theorem execCanFrameSent_answers (c : Fin 8) (begins : Bool) (s : State) : Answers (execCanFrameSent c begins s) := by
  unfold execCanFrameSent
  extract_lets
  split
  · exact .next _
  · exact .next _

theorem execCanAttemptEnd_answers (c : Fin 8) (e : CanErr) (more : BitVec 5) (begins : Bool) (s : State) : Answers (execCanAttemptEnd c e more begins s) := by
  unfold execCanAttemptEnd
  extract_lets
  split
  · exact .next _
  · exact .next _

theorem execModulatorSelectApply_answers (chan : Fin 48) (before : Nat) (s : State) : Answers (execModulatorSelectApply chan before s) := by
  unfold execModulatorSelectApply
  extract_lets
  split
  · exact .next _
  · exact .ite (.next _) (.ite (.next _) (.ite (.next _) (.next _)))

theorem execQdcTransition_answers (dec : BitVec 4) (dir : QdcStep) (gap : Nat) (s : State) : Answers (execQdcTransition dec dir gap s) := by
  refine .ite (.next _) ?_
  cases dir
  · exact .next _
  · exact .next _
  · exact .next _

theorem execQdcZeroApply_answers (dec : BitVec 4) (s : State) : Answers (execQdcZeroApply dec s) := by
  unfold execQdcZeroApply
  split
  · exact .next _
  · exact .next _

theorem execLpoCodeApply_answers (chan : BitVec 4) (s : State) : Answers (execLpoCodeApply chan s) := by
  unfold execLpoCodeApply
  extract_lets
  split
  · exact .next _
  · exact .ite (.next _) (.next _)

theorem execHartRequestSend_answers (port : Fin 40) (s : State) : Answers (execHartRequestSend port s) := by
  refine .ite (.next _) ?_
  split
  · exact .next _
  · exact .ite (.next _) (.next _)

theorem execHartFrameReceived_answers (port : Fin 40) (f : HartFrame) (s : State) : Answers (execHartFrameReceived port f s) := by
  refine .ite (.next _) ?_
  split
  · exact .next _
  · exact .next _
  · refine .ite (.next _) ?_
    split
    · exact .next _
    · exact .next _

theorem execAcqPassEnd_answers (iq0 iq1 iq2 iq3 : List (BitVec 8)) (s : State) : Answers (execAcqPassEnd iq0 iq1 iq2 iq3 s) := by
  refine .ite (.next _) ?_
  extract_lets
  split
  · refine .ite (.next _) ?_
    split
    · exact .next _
    · exact .next _
  · exact .ite (.next _) (.next _)

theorem execAidedDwellEnd_answers (c : Fin 192) (ant1 ant2 : List (BitVec 8)) (s : State) : Answers (execAidedDwellEnd c ant1 ant2 s) := by
  refine .ite (.next _) ?_
  split
  · exact .next _
  · exact .ite (.next _) (.ite (.next _) (.next _))

theorem execNavMsgDecoded_answers (c : Fin 192) (symbols : List Bool) (type : Nat) (m : NavMsg) (s : State) : Answers (execNavMsgDecoded c symbols type m s) := by
  refine .ite (.next _) (.ite (.next _) ?_)
  cases m
  case other => exact .next _
  all_goals exact .ite (.next _) (.next _)

theorem execWakeSyncEntry_answers (s : State) : Answers (execWakeSyncEntry s) := by
  unfold execWakeSyncEntry
  split
  · extract_lets
    split
    · exact .next _
    · exact .next _
  · exact .next _

theorem execBrsRankStart_answers (s : State) : Answers (execBrsRankStart s) := by
  unfold execBrsRankStart
  split
  · exact .next _
  · exact .next _
  · exact .next _

theorem execTokenApplyDone_answers (s : State) : Answers (execTokenApplyDone s) := by
  unfold execTokenApplyDone
  split
  · exact .next _
  · exact .ite (.next _) (.next _)

theorem execLcTransition_answers (stuck : BitVec 4) (s : State) : Answers (execLcTransition stuck s) := by
  unfold execLcTransition
  split
  · exact .next _
  · exact .next _

theorem execTtuProgramArrival_answers (n : BitVec 6) (s : State) : Answers (execTtuProgramArrival n s) := by
  unfold execTtuProgramArrival
  split
  · exact .next _
  · exact .ite (.next _) (.next _)

theorem execZeroiserComplete_answers (fail : Option (BitVec 4 × BitVec 28)) (s : State) : Answers (execZeroiserComplete fail s) := by
  refine .ite (.next _) ?_
  cases fail
  · exact .next _
  · exact .next _

theorem execVerifyComplete_answers (ticks : Nat) (s : State) : Answers (execVerifyComplete ticks s) := by
  refine .ite (.next _) ?_
  extract_lets
  split
  · exact .next _
  · exact .ite (.next _) (.next _)

theorem execHspFrameError_answers (addr : Option (BitVec 32)) (s : State) : Answers (execHspFrameError addr s) := by
  cases addr
  · exact .next _
  · exact .next _

theorem execMepNonceQuery_answers (port : Bool) (mac : BitVec 48) (s : State) : Answers (execMepNonceQuery port mac s) := by
  unfold execMepNonceQuery
  extract_lets
  split
  · exact .next _
  · exact .next _
  · exact .next _
  · exact .next _

theorem execMepRequest_answers (port : Bool) (f : MepFrame) (s : State) : Answers (execMepRequest port f s) := by
  unfold execMepRequest
  extract_lets
  split
  · exact .next _
  · exact .next _
  · exact .ite (.next _) (.ite (.next _) (.ite (.next _) (.ite (.next _) (.next _))))
  · exact .next _

theorem exec_answers (c : Instr) (s : State) : Answers (exec c s) := by
  cases c with
  | porRelease | porAssert | resetNLow | resetNRise | pfailNLow | pfailRelease | cckEccCorr | domainWakeComplete | domainAutoWake
    | navOpComplete | navExclude | navInclude | qpsCaptureArm | qpsCaptureDisarm | armTimeout | modeReqArm | modeReqSwitch | modeReqDisarm
    | modeReqDirect | flrRelease | allocLost | lceMode | lceBank | lceTestStart | lceTestStop | lceInjEnd | lceCaptureArm
    | lceCaptureDisarm | lceCapturePage | loopClear | hartStoExpiry | hartPass | collarClaimWindowEnd | eqLost | ilkInEdge | ilkClaimLapse
    | roleSwap | packDuplex | partnerReset | ptpAnnounceReceived | ptpPdelayReqReceived | ptpMessageTimer | ptpSourceTimeout
    | timeHoldoverEntry | sourceHoldExpired | ppsOutRise | ppsOutFall | ttuFire | calendarLoad | timeSet | canView | evtStickyClear
    | recCursorWrite | recWin7Read | mbxLockRead | mbxCtlPost | mbxCtlRelease | mbxCommandComplete | standaloneServerLatch | force
    | signalRelease | funcDisable | funcEnable | ptcNsRead | registerWrite | tokenLoad | tokenApply | tokenClear | hold | holdRelease
    | sleep | sleepWake | revokeDebug | closeHostauth | dbgHalt | dbgResume | dbgSwinWrite | extest | clamp | highz | brsPgGood
    | brsRailcmd | pmbPoll | chartErase | chartWrite | chartCommit | chartStatus => exact .next _
  | nop | mark | pwake | pgate | land | pub | subst | curve | mmul | madd | mruVote | obsPred | refIn | refTest | hdgVote | refVote
    | obsUpd | obsOut | wind | pvtSolve | pvtOut | hdgSolve | acqCtl | acqSnap | trkSnap | epoch | aiding | rtcmIn | cchClock | modeStep
    | seatFeed | seatTake | tauMix | pwrShare | flr | allocOut | caPrep | caEval | simStep | lceStep | fceRestart | qdcZero | pswTx
    | barkTx | roleStep | eqSnap | ptcRead | ttuArm | ttuStop | secRead | pwrRead | gpioSet =>
    dsimp only [exec]
    exact issue_answers _ _ _ _ _
  | anvSel | lpoSet | lpoCheck | lpoRbsel | lpiSel | lpiCheck | canTx | canCancel | serTx | ethTx | evmCheck | mbxServe | mbxPost =>
    dsimp only [exec, execAnvSel, execLpoSet, execLpoCheck, execLpoRbsel, execLpiSel, execLpiCheck, execCanTx, execCanCancel, execSerTx,
      execEthTx, execEvmCheck, execMbxServe, execMbxPost]
    exact issue_answers _ _ _ _ _
  | fsaBuild | farFact | farStart | farIter | farEnd =>
    dsimp only [exec, execFsaBuild, execFarFact, execFarStart, execFarIter, execFarEnd]
    exact qpsIssue_answers _ _ _ _ _ _ _
  | recorderFlushEnd | flushCutoff | resetExit | chartHeadersRead | chartCopyStreamed | sealComplete | syncTmo | scheduleStart
    | contractReset | alignerPhaseSample | alignerTrimUpdate | frameBoundary | obsDrExpired | windHoldEnd | trkPllLock | acqVerifyTimeout
    | bitSync | navLockLost | reacqTimeout | sidePeakMove | fceStart | fceCicOutput | lpoLatchStrobe | hartReq | ringFrameReceived
    | leaseExpired | leashUp | leashDown | leashBarkReceived | leashEqReceived | leashCmdReceived | ptpSyncReceived | refClkLost
    | refClkBack | canBusoffRecovery | serTelegramReceived | serChunkClose | ethFrameReceived | ethRawChunk | ethLink | evtTokenRefill
    | recRecordWrite | recLoadComplete | mbxLockExpired | hspRead | hspWrite | hspStatus | hspResetMaster | dbgAttach | dbgAcc | tapReset
    | pwrDomainFault | brsRailEnable | brsPgTmo | brsPgLost | brsPgBack | tjSample | gpioLevelChange | reanchor | serTelegramSent
    | canRxError | canIntegrationComplete | slackZoneBegin | serCharacterError | canFrameReceived | hartCarrierDetect | frameSync | navBootstrapEpoch =>
    repeat' apply Answers.ite
    all_goals exact .next _
  | zeroiserComplete fail => exact execZeroiserComplete_answers fail s
  | verifyComplete ticks => exact execVerifyComplete_answers ticks s
  | cckStore fault => exact execCckStore_answers fault s
  | acqPassEnd iq0 iq1 iq2 iq3 => exact execAcqPassEnd_answers iq0 iq1 iq2 iq3 s
  | aidedDwellEnd chan ant1 ant2 => exact execAidedDwellEnd_answers chan ant1 ant2 s
  | navMsgDecoded chan symbols type msg => exact execNavMsgDecoded_answers chan symbols type msg s
  | modulatorSelectApply chan before => exact execModulatorSelectApply_answers chan before s
  | qdcZeroApply dec => exact execQdcZeroApply_answers dec s
  | qdcTransition dec dir gap => exact execQdcTransition_answers dec dir gap s
  | lpoCodeApply chan => exact execLpoCodeApply_answers chan s
  | hartRequestSend port => exact execHartRequestSend_answers port s
  | hartFrameReceived port frame => exact execHartFrameReceived_answers port frame s
  | ptpFollowUpReceived port seq t1 => exact execPtpFollowUpReceived_answers port seq t1 s
  | ptpDelayResponseReceived port seq rx tx => exact execPtpDelayResponseReceived_answers port seq rx tx s
  | ppsInEdge input => exact execPpsInEdge_answers input s
  | ppsInMiss input => exact execPpsInMiss_answers input s
  | ttuProgramArrival ent => exact execTtuProgramArrival_answers ent s
  | canTxArrival ctl begins => exact execCanTxArrival_answers ctl begins s
  | canFrameSent ctl begins => exact execCanFrameSent_answers ctl begins s
  | canAttemptEnd ctl err more begins => exact execCanAttemptEnd_answers ctl err more begins s
  | canCancelArrival ctl => exact execCanCancelArrival_answers ctl s
  | serTxArrival port => exact execSerTxArrival_answers port s
  | mepNonceQuery port mac => exact execMepNonceQuery_answers port mac s
  | mepRequest port frame => exact execMepRequest_answers port frame s
  | tokenApplyDone => exact execTokenApplyDone_answers s
  | lcTransition stuck => exact execLcTransition_answers stuck s
  | wakeSyncEntry => exact execWakeSyncEntry_answers s
  | brsRankStart => exact execBrsRankStart_answers s
  | hspFrameError addr => exact execHspFrameError_answers addr s

/-- Settles O3: whatever branch a command's meaning takes, it ends in a next state. -/
theorem everyCommandAnswersNext : Obligations.EveryCommandAnswersNext := exec_answers

end Sys2Proof.Machine
end

section
/-! The functions that may be disabled (R51): no command leaves the list of chapter 14. -/

namespace Sys2Proof.Machine

/-- Every next state of an outcome disables listed functions only. -/
def ListedNext (r : Res) : Prop := ∀ t, r = .next t → FuncsListed t

theorem ListedNext.next {t : State} (h : FuncsListed t) : ListedNext (.next t) := by
  rintro _ ⟨⟩
  exact h

theorem ListedNext.ite {c : Prop} [Decidable c] {a b : Res} (ha : ListedNext a) (hb : ListedNext b) : ListedNext (if c then a else b) := by
  split
  · exact ha
  · exact hb

theorem FuncsListed.ite {c : Prop} [Decidable c] {s t : State} (hs : FuncsListed s) (ht : FuncsListed t) : FuncsListed (if c then s else t) := by
  split
  · exact hs
  · exact ht

theorem FuncsListed.congr {s t : State} (h : FuncsListed s) (hr : t.funcReqs = s.funcReqs) (hd : t.disabled = s.disabled) : FuncsListed t := by
  unfold FuncsListed
  rwa [hr, hd]

/-- A change of other parts keeps the list. -/
theorem FuncsListed.only {l : List Part} {s t : State} (h : FuncsListed s) (ho : Only l s t)
    (hl : l.contains Part.funcReqs = false ∧ l.contains Part.disabled = false) : FuncsListed t :=
  h.congr (ho.funcReqs hl.1) (ho.disabled hl.2)

theorem FuncsListed.foldl {α : Type} {f : State → α → State} {s : State} (l : List α) (hf : ∀ u, ∀ x ∈ l, FuncsListed u → FuncsListed (f u x))
    (h : FuncsListed s) : FuncsListed (l.foldl f s) := by
  induction l generalizing s with
  | nil => exact h
  | cons x l ih => exact ih (fun u y hy => hf u y (List.mem_cons_of_mem _ hy)) (hf s x List.mem_cons_self h)

/-! Requests and boundaries. -/

theorem funcParts_funcEng (eng : Nat) : funcParts (funcEng eng) = funcParts eng := by
  unfold funcEng
  split
  case isTrue h =>
    obtain ⟨h1, h2⟩ := h
    interval_cases eng <;> rfl
  case isFalse => rfl

theorem funcHandler_listed (mbx eng inst : Nat) (enable : Bool) {s : State} (h : FuncsListed s) : FuncsListed (funcHandler mbx eng inst enable s) := by
  unfold funcHandler
  split
  case isTrue => exact h.only (completeMbx_only _ _ _) (by decide)
  case isFalse hr =>
    split
    case isTrue => exact h.only (completeMbx_only _ _ _) (by decide)
    case isFalse hs =>
      rw [not_or, not_and] at hr
      rw [not_or] at hs
      have hq : FuncsListed { s with funcReqs := s.funcReqs ++ [{ eng := funcEng eng, inst := inst, enable := enable, due := latchFrame s }] } := by
        refine ⟨fun r hm => ?_, h.2⟩
        rcases List.mem_append.mp hm with hm | hm
        · exact h.1 r hm
        · obtain rfl := List.mem_singleton.mp hm
          exact funcParts_funcEng eng ▸ Nat.lt_of_not_le (hr.2 hs.1)
      exact hq.only (completeMbx_only _ _ _) (by decide)

theorem funcDisable_listed {eng inst : Nat} (hp : inst < funcParts eng) {s : State} (h : FuncsListed s) : FuncsListed (funcDisable eng inst s) := by
  have hd : FuncsListed { s with disabled := (eng, inst) :: s.disabled } :=
    ⟨h.1, fun p hm => (List.mem_cons.mp hm).elim (fun he => he ▸ hp) (h.2 p)⟩
  have hb := hd.foldl (funcLbus s eng inst) (fun u n _ hu => hu.only (discardLbu_only u n) (by decide))
  refine .ite h ?_
  extract_lets t w u
  have hu : FuncsListed u := hb.only (raise_only _ _ _ _ _) (by decide)
  refine .ite (hu.only (lceDisable_only _ _) (by decide)) (.ite ?_ (.ite (hu.only (canDisable_only _ _) (by decide)) (.ite (hu.only (serDisable_only _ _) (by decide))
    (.ite (hu.only (ethDisable_only _ _) (by decide)) (.ite ?_ (.ite (hu.only (hartDisable_only _ _) (by decide)) hu))))))
  · exact (hu.only (navDisable_only _) (by decide)).only (abortGroups_only _ _) (by decide)
  · exact (hu.only (hartDisable_only _ _) (by decide)).only (lpoDisable_only _ _) (by decide)

theorem funcEnable_listed (eng inst : Nat) {s : State} (h : FuncsListed s) : FuncsListed (funcEnable eng inst s) := by
  unfold funcEnable
  split
  case isTrue => exact h
  case isFalse =>
    extract_lets t
    have ht : FuncsListed t := ⟨h.1, fun p hm => h.2 p (List.mem_of_mem_filter hm)⟩
    exact (ht.foldl (funcLbus t eng inst) (fun u n _ hu => hu.only (freshLbu_only u n) (by decide))).only (funcRestart_only _ _ _) (by decide)

theorem funcBoundary_listed {s : State} (h : FuncsListed s) : FuncsListed (funcBoundary s) := by
  unfold funcBoundary
  extract_lets now t
  have ht : FuncsListed t := ⟨fun r hm => h.1 r (List.mem_of_mem_filter hm), h.2⟩
  refine ht.foldl now (fun u r hm hu => ?_)
  exact .ite (funcEnable_listed _ _ hu) (funcDisable_listed (h.1 r (List.mem_of_mem_filter hm)) hu)

theorem frameHooks_listed {s : State} (h : FuncsListed s) : FuncsListed (frameHooks s) := by
  unfold frameHooks
  extract_lets u v
  have hf := funcBoundary_listed (h.only (dropHanded_only s) (by decide))
  have hu : FuncsListed u := ((hf.only (forceBoundary_only _) (by decide)).only (haltBoundary_only _) (by decide)).only (holdBoundary_only _) (by decide)
  have hs := (hu.only (barkReasons_only _) (by decide)).only (stateBoundary_only _) (by decide)
  have hv : FuncsListed v := ((hs.only (eqLose_only _) (by decide)).only (eqGain_only _) (by decide)).only (sleepBoundary_only _) (by decide)
  split
  · have hq := (hv.only (canBoundary_only _) (by decide)).only (qpsBoundary_only _) (by decide)
    have hl := ((hq.only (navBoundary_only _) (by decide)).only (lceBoundary_only _) (by decide)).only (aljBoundary_only _) (by decide)
    exact hl.only (gpioFrame_only _) (by decide)
  · exact hv.only (outRefresh_only _) (by decide)

/-! Resets. -/

theorem resetState_listed (kind : ResetKind) (s : State) : FuncsListed (resetState kind s) :=
  ⟨fun _ hm => absurd hm List.not_mem_nil, fun _ hm => absurd hm List.not_mem_nil⟩

theorem enterReset_listed (kind : ResetKind) (lct pfail : Bool) {s : State} (h : FuncsListed s) : FuncsListed (enterReset kind lct pfail s) := by
  refine .ite ?_ ?_
  · extract_lets b t u
    have ht : FuncsListed t := h.congr rfl rfl
    have hu : FuncsListed u := ht.only (tearLog_only t) (by decide)
    exact .ite (hu.congr rfl rfl) (.ite (h.congr rfl rfl) (h.congr rfl rfl))
  · exact (resetState_listed kind _).only (raise_only _ _ _ _ _) (by decide)

theorem cmdReceived_listed (k : Nat) (c : LeashCmd) {s : State} (h : FuncsListed s) : FuncsListed (cmdReceived k c s) := by
  refine .ite h ?_
  split
  · exact h.only (resetRefused_only _ _) (by decide)
  · exact h.only (resetRefused_only _ _) (by decide)
  · have hl := h.only (modLink_only k (fun l => { l with cmdIn := some c.sender.toNat }) s) (by decide)
    exact .ite (enterReset_listed _ _ _ hl) hl
  · exact enterReset_listed _ _ _ h

/-! The mailbox handlers. -/

theorem guarded_listed (n : Nat) (ok : Bool) {f : State → State} {s : State} (h : FuncsListed s) (hf : FuncsListed (f s)) :
    FuncsListed (guarded n ok f s) :=
  .ite hf (h.only (completeMbx_only _ _ _) (by decide))

theorem guardedUpd_listed (n : Nat) (m : Mbx) {f : State → State} {s : State} (h : FuncsListed s) (hf : FuncsListed (f s)) :
    FuncsListed (takeCommand.guardedUpd n m f s) :=
  .ite hf (h.only (decideMbx_only _ _ _) (by decide))

theorem takeCommand_listed (n : Nat) {s : State} (h : FuncsListed s) : FuncsListed (takeCommand n s) := by
  unfold takeCommand
  extract_lets m b z w bytes z2
  split
  · exact guarded_listed _ _ h (h.only (forceHandler_only _ _ _ _) (by decide))
  · exact guarded_listed _ _ h (h.only (releaseHandler_only _ _ _) (by decide))
  · exact guarded_listed _ _ h (funcHandler_listed _ _ _ _ h)
  · exact guardedUpd_listed _ _ h (h.only (chartErase_only _ _ _) (by decide))
  · exact guardedUpd_listed _ _ h (h.only (chartWrite_only _ _ _ _ _ _) (by decide))
  · exact guardedUpd_listed _ _ h (h.only (chartCommit_only _ _ _) (by decide))
  · exact guardedUpd_listed _ _ h (h.only (chartStatus_only _ _ _) (by decide))
  · exact guarded_listed _ _ h (h.only (reanchorHandler_only _ _ _) (by decide))
  · exact guarded_listed _ _ h (h.only (navExclHandler_only _ _ _ _ _) (by decide))
  · exact guarded_listed _ _ h (h.only (qpsCapHandler_only _ _ _ _) (by decide))
  · exact guarded_listed _ _ h (h.only (modeReqHandler_only _ _ _ _) (by decide))
  · exact guarded_listed _ _ h (h.only (lceHandler_only _ _ _ _ _) (by decide))
  · exact guarded_listed _ _ h (h.only (lceHandler_only _ _ _ _ _) (by decide))
  · exact guarded_listed _ _ h (h.only (lceHandler_only _ _ _ _ _) (by decide))
  · exact guarded_listed _ _ h (h.only (lceHandler_only _ _ _ _ _) (by decide))
  · exact guarded_listed _ _ h (h.only (loopClearHandler_only _ _ _) (by decide))
  · exact guarded_listed _ _ h (h.only (hartPassHandler_only _ _ _ _ _ _ _) (by decide))
  · exact guarded_listed _ _ h (h.only (roleSwapHandler_only _ _) (by decide))
  · exact guarded_listed _ _ h (h.only (packDuplexHandler_only _ _ _) (by decide))
  · exact guarded_listed _ _ h (h.only (partnerResetHandler_only _ _ _) (by decide))
  · exact guarded_listed _ _ h (h.only (timeSetHandler_only _ _ _ _) (by decide))
  · exact guarded_listed _ _ h (h.only (canViewHandler_only _ _ _ _) (by decide))
  · exact guarded_listed _ _ h (h.only (tokenLoadHandler_only _ _ _ _ _) (by decide))
  · exact guarded_listed _ _ h (h.only (tokenApplyHandler_only _ _) (by decide))
  · exact guarded_listed _ _ h (h.only (tokenClearHandler_only _ _) (by decide))
  · exact guarded_listed _ _ h (h.only (holdHandler_only _ _ _) (by decide))
  · exact guarded_listed _ _ h (h.only (holdHandler_only _ _ _) (by decide))
  · exact guarded_listed _ _ h (h.only (sleepHandler_only _ _ _ _ _ _) (by decide))
  · exact h.only (completeMbx_only _ _ _) (by decide)

theorem latchCommand_listed (n : Nat) {s : State} (h : FuncsListed s) : FuncsListed (latchCommand n s) := by
  unfold latchCommand
  extract_lets m g bind t
  refine .ite h ?_
  have ht : FuncsListed t := h.only (setMbx_only _ _ _) (by decide)
  exact .ite (ht.only (completeMbx_only _ _ _) (by decide)) (.ite (ht.only (completeMbx_only _ _ _) (by decide))
    (.ite (ht.only (completeMbx_only _ _ _) (by decide)) (takeCommand_listed n ht)))

/-! The commands. -/

theorem issue_listed (eng inst : Nat) (op : Word) {f : State → State} {s : State} (h : FuncsListed s) (hf : FuncsListed (f s)) :
    ListedNext (issue eng inst op f s) := by
  have hd {u : State} (hu : FuncsListed u) : FuncsListed (dropLane u) := hu.only (dropLane_only u) (by decide)
  refine .ite (.next h) (.ite (.next (hd h)) ?_)
  split
  · exact .ite (.next (hd (h.only (breach_only _ _ _) (by decide)))) (.next (hd hf))
  · exact .next (hd hf)

theorem execMbxServe_listed (n : BitVec 4) {s : State} (h : FuncsListed s) : ListedNext (execMbxServe n s) := by
  unfold execMbxServe
  extract_lets w
  refine issue_listed _ _ _ h ?_
  extract_lets m t
  refine .ite (h.only (breach_only _ _ _) (by decide)) (.ite ?_ (latchCommand_listed _ h))
  have ht : FuncsListed t := h.only (setMbx_only _ _ _) (by decide)
  exact .ite ht (ht.only (raise_only _ _ _ _ _) (by decide))

theorem execLcTransition_listed (stuck : BitVec 4) {s : State} (h : FuncsListed s) : ListedNext (execLcTransition stuck s) := by
  unfold execLcTransition
  split
  case h_1 => exact .next h
  case h_2 r =>
    extract_lets u old want c v w x
    have hu : FuncsListed u := h.only (flushNow_only _) (by decide)
    have hv : FuncsListed v := hu.congr rfl rfl
    have hw : FuncsListed w := hv.only (raise_only _ _ _ _ _) (by decide)
    have hx : FuncsListed x := enterReset_listed _ _ _ (hw.only (flushNow_only _) (by decide))
    exact .next (hx.congr rfl rfl)

theorem execContractReset_listed {s : State} (h : FuncsListed s) : ListedNext (execContractReset s) := by
  refine .ite (.next h) ?_
  extract_lets t
  have ht : FuncsListed t := h.only (elapseTo_only _ _) (by decide)
  exact .ite (.next ((ht.only (enterFault_only _ _) (by decide)).only (outRefresh_only _) (by decide))) (.next (enterReset_listed _ _ _ ht))

theorem execFrameBoundary_listed (alj : BitVec 4) {s : State} (h : FuncsListed s) : ListedNext (execFrameBoundary alj s) := by
  refine .ite (.next h) ?_
  extract_lets t p q u
  have ht : FuncsListed t := h.only (toTick_only _ _) (by decide)
  have hu : FuncsListed u := ht.congr rfl rfl
  exact .next (frameHooks_listed ((hu.only (beginList_only _ _ _) (by decide)).only (gatingEnds_only _) (by decide)))

theorem execScheduleStart_listed {s : State} (h : FuncsListed s) : ListedNext (execScheduleStart s) := by
  refine .ite (.next h) ?_
  extract_lets k t q u v w x
  have ht : FuncsListed t := h.only (elapse_only _ _) (by decide)
  have hu : FuncsListed u := ht.congr rfl rfl
  have hv : FuncsListed v := (hu.only (fetchClass_only _ _) (by decide)).only (freshBarks_only _) (by decide)
  have hw : FuncsListed w := hv.only (beginList_only _ _ _) (by decide)
  have hx : FuncsListed x := ((hw.only (clearReason_only _ _) (by decide)).only (clearReason_only _ _) (by decide)).only (enterStandby_only _) (by decide)
  exact .next (frameHooks_listed ((hx.only (lceStart_only _) (by decide)).only (ttuAutoArm_only _) (by decide)))

theorem exec_listed (c : Instr) {s : State} (h : FuncsListed s) : ListedNext (exec c s) := by
  cases c with
  | porAssert => exact .next (enterReset_listed _ _ _ (h.congr rfl rfl))
  | resetNLow => exact .next (enterReset_listed _ _ _ (h.congr rfl rfl))
  | pfailNLow => exact .next (enterReset_listed _ _ _ (h.congr rfl rfl))
  | scheduleStart => exact execScheduleStart_listed h
  | contractReset => exact execContractReset_listed h
  | frameBoundary alj => exact execFrameBoundary_listed alj h
  | leashCmdReceived link ok cmd =>
    exact .ite (.next h) (.ite (.next (cmdReceived_listed _ _ h)) (.next (h.only (crcFailed_only _ _) (by decide))))
  | lcTransition stuck => exact execLcTransition_listed stuck h
  | mbxServe n => exact execMbxServe_listed n h
  | standaloneServerLatch n => exact .next (.ite (latchCommand_listed _ h) h)
  | funcDisable m e i => exact .next (funcHandler_listed _ _ _ _ h)
  | funcEnable m e i => exact .next (funcHandler_listed _ _ _ _ h)
  | _ => exact fun t ht => h.only (exec_only _ s t ht) ⟨rfl, rfl⟩

/-- Settles O12: only the handlers of FUNC add a request, and only for a part that the engine has; only a request's boundary disables. -/
theorem onlyListedFunctionsDisabled : Obligations.OnlyListedFunctionsDisabled := by
  refine ⟨fun s t h hs => ?_, by decide⟩
  unfold step at hs
  split at hs
  · next c rest _ => exact exec_listed c (s := { s with pending := rest }) (h.congr rfl rfl) t hs
  · cases hs
    exact h.only (idle_only s) (by decide)

end Sys2Proof.Machine
end

section
/-! An operation that SEQ holds back (R24, R43, R51, R55, R515). -/

namespace Sys2Proof.Machine

/-- The fields of a word are in their ranges. -/
abbrev FieldsFit (eng opc d : Nat) : Prop := eng < 64 ∧ opc < 64 ∧ d < 2 ^ 20

theorem opEng_opFields {eng opc d : Nat} (hb : FieldsFit eng opc d) : opEng (opFields eng opc d) = eng := wordEng_opFields hb.2.1 hb.2.2
theorem opOpc_opFields {eng opc d : Nat} (hb : FieldsFit eng opc d) : opOpc (opFields eng opc d) = opc := wordOpc_opFields hb.2.1 hb.2.2
theorem opOpnd_opFields {eng opc d : Nat} (hb : FieldsFit eng opc d) : opOpnd (opFields eng opc d) = d := wordOpnd_opFields hb.2.2

/-- The part of its engine that an operation works on, by the fields of its word. -/
def instOf (s : State) (eng opc d : Nat) : Nat :=
  match eng with
  | 6 => if opc = 1 then cxGrp s (d % 256) else 0
  | 7 | 0x0D => d % 64
  | 0x28 => d % 16
  | 0x29 => if opc = 3 then 64 else d % 32
  | _ => 0

theorem opInst_opFields (s : State) {eng opc d : Nat} (hb : FieldsFit eng opc d) : opInst s (opFields eng opc d) = instOf s eng opc d := by
  have h (w : Nat) : opInst s w = instOf s (opEng w) (opOpc w) (opOpnd w) := rfl
  rw [h, opEng_opFields hb, opOpc_opFields hb, opOpnd_opFields hb]

/-- The ways in which an operation of a word issues. -/
inductive Issues (i : Instr) (w : Nat) (s : State) : Prop where
  | plain (f : State → State) (hh : (opEng w == 0x29 && opOpc w == 3) = false) (hx : exec i s = issue (opEng w) (opInst s w) (w32 w) f s)
  | qps (t k : Nat) (first : Bool) (f : State → State) (he : opEng w = 4 ∨ opEng w = 5) (hx : exec i s = qpsIssue (opEng w) t k first (w32 w) f s)
  | hart (f : State → State) (he : opEng w = 0x29 ∧ opOpc w = 3)
      (hx : exec i s = if s.seq.run && !s.seq.stopped && hartOff s (txPort s (opOpnd w % 512)) then .next (dropLane s)
        else issue (opEng w) (opInst s w) (w32 w) f s)

theorem Issues.whole {i : Instr} {s : State} {eng opc d : Nat} {f : State → State} (hb : FieldsFit eng opc d) (hh : (eng == 0x29 && opc == 3) = false)
    (hi : instOf s eng opc d = 0) (hx : exec i s = issue eng 0 (opWord eng opc d) f s) : Issues i (opFields eng opc d) s :=
  .plain f (by rwa [opEng_opFields hb, opOpc_opFields hb]) (by rw [opInst_opFields s hb, opEng_opFields hb, hi]; exact hx)

theorem Issues.part {i : Instr} {s : State} {eng opc d : Nat} (inst : Nat) {f : State → State} (hb : FieldsFit eng opc d)
    (hh : (eng == 0x29 && opc == 3) = false) (hi : instOf s eng opc d = inst) (hx : exec i s = issue eng inst (opWord eng opc d) f s) :
    Issues i (opFields eng opc d) s :=
  .plain f (by rwa [opEng_opFields hb, opOpc_opFields hb]) (by rw [opInst_opFields s hb, opEng_opFields hb, hi]; exact hx)

theorem Issues.solver {i : Instr} {s : State} {eng opc d t k : Nat} {first : Bool} {f : State → State} (hb : FieldsFit eng opc d)
    (he : eng = 4 ∨ eng = 5) (hx : exec i s = qpsIssue eng t k first (opWord eng opc d) f s) : Issues i (opFields eng opc d) s :=
  .qps t k first f (by rwa [opEng_opFields hb]) (by rw [opEng_opFields hb]; exact hx)

theorem b2n_le_one (b : Bool) : b2n b ≤ 1 := by
  cases b <;> decide

theorem instOf_port (s : State) {eng opc d : Nat} (h : 0x10 ≤ eng ∧ eng < 0x28) : instOf s eng opc d = 0 := by
  obtain ⟨h1, h2⟩ := h
  interval_cases eng <;> rfl

theorem instOf_nop (s : State) (eng : Nat) : instOf s eng 0 0 = 0 := by
  unfold instOf
  split <;> rfl

theorem issues_hartReq (t : BitVec 9) (s : State) : Issues (.hartReq t) (opFields 0x29 3 t.toNat) s := by
  have hb : FieldsFit 0x29 3 t.toNat := by omega
  refine .hart (fun s => if txnCnt s ≤ t.toNat then breach 0x0107 (opWord 0x29 3 t.toNat) s else hartReqEffect t.toNat s)
    ⟨opEng_opFields hb, opOpc_opFields hb⟩ ?_
  rw [opInst_opFields s hb, opEng_opFields hb, opOpnd_opFields hb, Nat.mod_eq_of_lt t.isLt]
  rfl

/-- Every operation issues in one of the three ways. -/
theorem exec_issues (i : Instr) (w : Nat) (s : State) (h : encodeOp i = some w) : Issues i w s := by
  cases i with
  | nop eng =>
    obtain ⟨⟨-, -⟩, hw⟩ := Option.ite_none_right_eq_some.mp h
    cases hw
    exact .whole (by omega) (Bool.and_false _) (instOf_nop s _) (by dsimp only [exec, execNop])
  | mark t => cases h; exact .whole (by omega) (by decide) rfl (by dsimp only [exec, execMark])
  | pwake m => cases h; exact .whole (by omega) (by decide) rfl (by dsimp only [exec, execPwake])
  | pgate m => cases h; exact .whole (by omega) (by decide) rfl (by dsimp only [exec, execPgate])
  | land n => cases h; exact .whole (by omega) (by decide) rfl (by dsimp only [exec, execLand])
  | pub g p => cases h; exact .whole (by omega) (by decide) rfl (by dsimp only [exec, execPub])
  | subst i z => cases h; exact .whole (by have := b2n_le_one z; omega) (by decide) rfl (by dsimp only [exec, execSubst])
  | curve n => cases h; exact .whole (by omega) (by decide) rfl (by dsimp only [exec, execCurve])
  | mmul d => cases h; exact .whole (by omega) (by decide) rfl (by dsimp only [exec, execMmul])
  | madd d => cases h; exact .whole (by omega) (by decide) rfl (by dsimp only [exec, execMadd])
  | mruVote => cases h; exact .whole (by omega) (by decide) rfl (by dsimp only [exec, execMruVote])
  | obsPred => cases h; exact .whole (by omega) (by decide) rfl (by dsimp only [exec, execObsPred])
  | refIn n => cases h; exact .whole (by omega) (by decide) rfl (by dsimp only [exec, execRefIn])
  | refTest n => cases h; exact .whole (by omega) (by decide) rfl (by dsimp only [exec, execRefTest])
  | hdgVote => cases h; exact .whole (by omega) (by decide) rfl (by dsimp only [exec, execHdgVote])
  | refVote => cases h; exact .whole (by omega) (by decide) rfl (by dsimp only [exec, execRefVote])
  | obsUpd n => cases h; exact .whole (by omega) (by decide) rfl (by dsimp only [exec, execObsUpd])
  | obsOut => cases h; exact .whole (by omega) (by decide) rfl (by dsimp only [exec, execObsOut])
  | wind => cases h; exact .whole (by omega) (by decide) rfl (by dsimp only [exec, execWind])
  | pvtSolve => cases h; exact .whole (by omega) (by decide) rfl (by dsimp only [exec, execPvtSolve])
  | pvtOut => cases h; exact .whole (by omega) (by decide) rfl (by dsimp only [exec, execPvtOut])
  | hdgSolve => cases h; exact .whole (by omega) (by decide) rfl (by dsimp only [exec, execHdgSolve])
  | fsaBuild t e => cases h; exact .solver (by omega) (by decide) (by dsimp only [exec, execFsaBuild])
  | farFact t c => cases h; exact .solver (by omega) (by decide) (by dsimp only [exec, execFarFact])
  | farStart t => cases h; exact .solver (by omega) (by decide) (by dsimp only [exec, execFarStart])
  | farIter t k => cases h; exact .solver (by omega) (by decide) (by dsimp only [exec, execFarIter])
  | farEnd t => cases h; exact .solver (by omega) (by decide) (by dsimp only [exec, execFarEnd])
  | lceStep c => cases h; exact .part (cxGrp s c.toNat) (by omega) (by decide) (congrArg (cxGrp s) (Nat.mod_eq_of_lt c.isLt)) (by dsimp only [exec, execLceStep])
  | modeStep => cases h; exact .whole (by omega) (by decide) rfl (by dsimp only [exec, execModeStep])
  | seatFeed n => cases h; exact .whole (by omega) (by decide) rfl (by dsimp only [exec, execSeatFeed])
  | seatTake n => cases h; exact .whole (by omega) (by decide) rfl (by dsimp only [exec, execSeatTake])
  | tauMix => cases h; exact .whole (by omega) (by decide) rfl (by dsimp only [exec, execTauMix])
  | pwrShare => cases h; exact .whole (by omega) (by decide) rfl (by dsimp only [exec, execPwrShare])
  | flr => cases h; exact .whole (by omega) (by decide) rfl (by dsimp only [exec, execFlr])
  | allocOut => cases h; exact .whole (by omega) (by decide) rfl (by dsimp only [exec, execAllocOut])
  | caPrep g => cases h; exact .whole (by omega) (by decide) rfl (by dsimp only [exec, execCaPrep])
  | caEval g => cases h; exact .whole (by omega) (by decide) rfl (by dsimp only [exec, execCaEval])
  | simStep => cases h; exact .whole (by omega) (by decide) rfl (by dsimp only [exec, execSimStep])
  | fceRestart c => cases h; exact .part c.toNat (by omega) (by decide) (Nat.mod_eq_of_lt c.isLt) (by dsimp only [exec, execFceRestart])
  | acqCtl m => cases h; exact .whole (by omega) (by decide) rfl (by dsimp only [exec, execAcqCtl])
  | acqSnap => cases h; exact .whole (by omega) (by decide) rfl (by dsimp only [exec, execAcqSnap])
  | trkSnap c => cases h; exact .whole (by omega) (by decide) rfl (by dsimp only [exec, execTrkSnap])
  | epoch => cases h; exact .whole (by omega) (by decide) rfl (by dsimp only [exec, execEpoch])
  | aiding i => cases h; exact .whole (by omega) (by decide) rfl (by dsimp only [exec, execAiding])
  | rtcmIn i => cases h; exact .whole (by omega) (by decide) rfl (by dsimp only [exec, execRtcmIn])
  | cchClock i => cases h; exact .whole (by omega) (by decide) rfl (by dsimp only [exec, execCchClock])
  | ptcRead => cases h; exact .whole (by omega) (by decide) rfl (by dsimp only [exec, execPtcRead])
  | ttuArm e => cases h; exact .part e.toNat (by omega) (by decide) (Nat.mod_eq_of_lt e.isLt) (by dsimp only [exec, execTtuArm])
  | ttuStop e => cases h; exact .part e.toNat (by omega) (by decide) (Nat.mod_eq_of_lt e.isLt) (by dsimp only [exec, execTtuStop])
  | pswTx => cases h; exact .whole (by omega) (by decide) rfl (by dsimp only [exec, execPswTx])
  | barkTx => cases h; exact .whole (by omega) (by decide) rfl (by dsimp only [exec, execBarkTx])
  | roleStep => cases h; exact .whole (by omega) (by decide) rfl (by dsimp only [exec, execRoleStep])
  | eqSnap i x => cases h; exact .whole (by omega) (by decide) rfl (by dsimp only [exec, execEqSnap])
  | canTx c o => cases h; exact .whole (by omega) (Bool.and_false _) (instOf_port s (by omega)) (by dsimp only [exec, execCanTx])
  | canCancel c o => cases h; exact .whole (by omega) (Bool.and_false _) (instOf_port s (by omega)) (by dsimp only [exec, execCanCancel])
  | serTx p d => cases h; exact .whole (by omega) (Bool.and_false _) (instOf_port s (by omega)) (by dsimp only [exec, execSerTx])
  | ethTx p d => cases h; exact .whole (by omega) (Bool.and_false _) (instOf_port s (by omega)) (by dsimp only [exec, execEthTx])
  | lpoSet c => cases h; exact .part c.toNat (by omega) (by decide) (Nat.mod_eq_of_lt c.isLt) (by dsimp only [exec, execLpoSet])
  | lpoCheck c => cases h; exact .part c.toNat (by omega) (by decide) (Nat.mod_eq_of_lt c.isLt) (by dsimp only [exec, execLpoCheck])
  | lpoRbsel c x => cases h; exact .part c.toNat (by omega) (by decide) ((Nat.add_mul_mod_self_left _ _ _).trans (Nat.mod_eq_of_lt c.isLt)) (by dsimp only [exec, execLpoRbsel])
  | lpiSel c x => cases h; exact .part c.toNat (by omega) (by decide) ((Nat.add_mul_mod_self_left _ _ _).trans (Nat.mod_eq_of_lt c.isLt)) (by dsimp only [exec, execLpiSel])
  | lpiCheck c => cases h; exact .part c.toNat (by omega) (by decide) (Nat.mod_eq_of_lt (by omega)) (by dsimp only [exec, execLpiCheck])
  | hartReq t => cases h; exact issues_hartReq t s
  | anvSel c x => cases h; exact .whole (by omega) (by decide) rfl (by dsimp only [exec, execAnvSel])
  | qdcZero d => cases h; exact .whole (by omega) (by decide) rfl (by dsimp only [exec, execQdcZero])
  | gpioSet i b => cases h; exact .whole (by have := b2n_le_one b; omega) (by decide) rfl (by dsimp only [exec, execGpioSet]; rfl)
  | evmCheck n => cases h; exact .whole (by omega) (by decide) rfl (by dsimp only [exec, execEvmCheck])
  | mbxServe n => cases h; exact .whole (by omega) (by decide) rfl (by dsimp only [exec, execMbxServe])
  | mbxPost n t => cases h; exact .whole (by omega) (by decide) rfl (by dsimp only [exec, execMbxPost])
  | secRead => cases h; exact .whole (by omega) (by decide) rfl (by dsimp only [exec, execSecRead])
  | pwrRead => cases h; exact .whole (by omega) (by decide) rfl (by dsimp only [exec, execPwrRead])
  | _ => cases h

theorem suppressed_eq_false {s : State} {w : Nat} (h : suppressed s w = false) :
    isDisabled s (opEng w) (opInst s w) = false ∧ halted s = false
      ∧ (opEng w = 0x29 → opOpc w = 3 → hartOff s (txPort s (opOpnd w % 512)) = false) := by
  unfold suppressed at h
  simp only [Bool.or_eq_false_iff] at h
  obtain ⟨⟨hd, hp⟩, hh⟩ := h
  refine ⟨hd, hh, fun he ho => ?_⟩
  simpa [he, ho] using hp

/-- A suppressed operation is one of a disabled function or of a halted schedule, unless it is a HART request of a disabled port. -/
theorem held_of_suppressed {s : State} {w : Nat} (hh : (opEng w == 0x29 && opOpc w == 3) = false) (h : suppressed s w = true) :
    isDisabled s (opEng w) (opInst s w) = true ∨ halted s = true := by
  unfold suppressed at h
  simpa [hh] using h

theorem exec_of_not_running {i : Instr} {w : Nat} {s : State} (h : encodeOp i = some w) (hr : s.seq.run = false ∨ s.seq.stopped = true) :
    exec i s = .next s := by
  have hg : (s.seq.run && !s.seq.stopped) = false := by rcases hr with hr | hr <;> simp [hr]
  cases exec_issues i w s h with
  | plain f hh hx => exact hx.trans (issue_of_not_running hr _ _ _ _)
  | qps t k first f he hx =>
    rw [hx, qpsIssue, hg, Bool.false_and, if_neg (by decide)]
    exact issue_of_not_running hr _ _ _ _
  | hart f he hx =>
    rw [hx, hg, Bool.false_and, if_neg (by decide)]
    exact issue_of_not_running hr _ _ _ _

theorem exec_of_suppressed {i : Instr} {w : Nat} {s : State} (h : encodeOp i = some w) (hr : s.seq.run = true) (hs : s.seq.stopped = false)
    (h4 : opEng w ≠ 4) (h5 : opEng w ≠ 5) (hw : suppressed s w = true) : exec i s = .next (dropLane s) := by
  cases exec_issues i w s h with
  | plain f hh hx => exact hx.trans (issue_of_held hr hs (held_of_suppressed hh hw) _ _)
  | qps t k first f he hx => exact absurd he (not_or.mpr ⟨h4, h5⟩)
  | hart f he hx =>
    rw [hx]
    split
    case isTrue => rfl
    case isFalse hp =>
      refine issue_of_held hr hs ?_ _ _
      unfold suppressed at hw
      simpa [hr, hs, he.1, he.2, show hartOff s (txPort s (opOpnd w % 512)) = false by simpa [hr, hs] using hp] using hw

theorem exec_of_gated {i : Instr} {w : Nat} {s : State} {d : Domain} (h : encodeOp i = some w) (hr : s.seq.run = true) (hs : s.seq.stopped = false)
    (hw : suppressed s w = false) (hd : engDomain (opEng w) = some d) (hg : domGated s d = true) :
    exec i s = .next (dropLane (breach 0x0106 (w32 w) s)) := by
  obtain ⟨hf, hh, hp⟩ := suppressed_eq_false hw
  cases exec_issues i w s h with
  | plain f _ hx => exact hx.trans (issue_of_gated hr hs hf hh hd hg _ _)
  | qps t k first f he hx =>
    have h0 : opInst s w = 0 := by
      unfold opInst
      rcases he with he | he <;> simp [he]
    rw [h0] at hf
    rw [hx, qpsIssue, hf, hh, Bool.or_false, Bool.and_false, if_neg (by decide)]
    exact issue_of_gated hr hs hf hh hd hg _ _
  | hart f he hx =>
    rw [hx, hp he.1 he.2, Bool.and_false, if_neg (by decide)]
    exact issue_of_gated hr hs hf hh hd hg _ _

/-- Settles O14: an operation issues by issue, or by the QP solver or a HART port ahead of it, and each of these holds it back. -/
theorem heldOperationsOnlyLeaveTheirLane : Obligations.HeldOperationsOnlyLeaveTheirLane :=
  fun _ _ _ h => ⟨exec_of_not_running h, exec_of_suppressed h, fun hr hs hw _ => exec_of_gated h hr hs hw⟩

end Sys2Proof.Machine
end

section
/-! The sequencer's and the signal engine's operations, landing, overrun and the idle clock (chapter 1). -/

namespace Sys2Proof.Machine

/-- Settles O5, by evaluating the decoder on each word. -/
theorem operationWordsDecode : Obligations.OperationWordsDecode := by
  unfold Obligations.OperationWordsDecode
  decide

/-! The clock on an empty queue. -/

theorem step_of_empty {s : State} (h : s.pending = []) : step s = .next (idle s) := by
  unfold step
  rw [h]

theorem idle_of_nothing_due {s : State} (hw : wakeOver (navArrivals s) = none) (hr : (navArrivals s).seq.run = false)
    (hd : dueEvent (navArrivals s) = none) : idle s = elapse 1 (navArrivals s) := by
  unfold idle
  simp [hw, hr, hd]

/-- Settles O2: with nothing waiting and nothing due only the arrivals at NAV and one cycle remain. -/
theorem emptyQueueRunsClock : Obligations.EmptyQueueRunsClock := by
  intro s h
  refine ⟨step_of_empty h, fun hw hr hd => ⟨?_, ?_⟩⟩
  · rw [step_of_empty h, idle_of_nothing_due hw hr hd]
  · exact Only.after (elapse_only 1 _) (by decide) ((navArrivals_only s).mono (by decide))

/-! Writes of the directory leave the entries outside their targets. -/

theorem ent_of_only {l : List Part} {s t : State} (h : Only l s t) (hl : l.contains Part.sdir = false) (k : Nat) : ent t k = ent s k := by
  unfold ent
  rw [h.sdir hl]

@[simp] theorem ent_raise (c : Nat) (p0 p1 p2 : Word) (s : State) (k : Nat) : ent (raise c p0 p1 p2 s) k = ent s k :=
  ent_of_only (raise_only c p0 p1 p2 s) (by decide) k

theorem ent_writeSig_of_ne {i k : Nat} (h : k ≠ i) (w : Word) (q : Qual) (t : Word) (s : State) : ent (writeSig i w q t s) k = ent s k := by
  unfold writeSig
  extract_lets e
  split
  · rfl
  · split
    · rfl
    · split
      · exact ent_setEnt_ne h _ _
      · split
        · exact ent_setEnt_ne h _ _
        · exact ent_setEnt_ne h _ _
    · split
      · exact ent_setEnt_ne h _ _
      · split
        · exact ent_setEnt_ne h _ _
        · exact ent_setEnt_ne h _ _
    · exact ent_setEnt_ne h _ _
    · split
      · exact ent_setEnt_ne h _ _
      · split
        · exact (ent_raise _ _ _ _ _ k).trans (ent_setEnt_ne h _ _)
        · exact ent_setEnt_ne h _ _
    · exact ent_setEnt_ne h _ _

theorem ent_writeRaw_of_ne {i k : Nat} (h : k ≠ i) (w : Word) (q : Qual) (t : Word) (s : State) : ent (writeRaw i w q t s) k = ent s k := by
  unfold writeRaw
  extract_lets e
  split
  · rfl
  · split
    · exact ent_setEnt_ne h _ _
    · exact ent_writeSig_of_ne h _ _ _ _

theorem ent_landSig_of_ne {i k : Nat} (h : k ≠ i) (w : Word) (q : Qual) (t : Word) (s : State) : ent (landSig i w q t s) k = ent s k := by
  unfold landSig
  split
  · exact ent_writeSig_of_ne h _ _ _ _
  · exact ent_writeRaw_of_ne h _ _ _ _

theorem ent_writeTime_of_ne {i k : Nat} (h0 : k ≠ i) (h1 : k ≠ i + 1) (a b : Word) (q q' : Qual) (t : Word) (s : State) :
    ent (writeTime i a b q q' t s) k = ent s k := by
  unfold writeTime
  split
  · exact (ent_writeSig_of_ne h1 _ _ _ _).trans (ent_writeSig_of_ne h0 _ _ _ _)
  · exact (ent_writeSig_of_ne h1 _ _ _ _).trans (ent_writeSig_of_ne h0 _ _ _ _)

/-- A run of words changes the entries of the run alone. -/
theorem ent_landList_of_out {k : Nat} (l : List (Word × Qual)) (t : Word) (i : Nat) (s : State) (h : k < i ∨ i + l.length ≤ k) :
    ent (landList i l t s) k = ent s k := by
  unfold landList
  induction i, l, t, s using writeListBy.induct (one := landSig) with
  | case1 => rfl
  | case2 i w q t s => exact ent_landSig_of_ne (by simp at h; omega) _ _ _ _
  | case3 i w q w' q' l t s hty ih =>
    simp only [List.length_cons] at h
    rw [writeListBy, if_pos hty, ih (by omega)]
    exact ent_writeTime_of_ne (by omega) (by omega) _ _ _ _ _ _
  | case4 i w q w' q' l t s hty ih =>
    simp only [List.length_cons] at h ih
    rw [writeListBy, if_neg hty, ih (by omega)]
    exact ent_landSig_of_ne (by omega) _ _ _ _

theorem ent_writeAge_of_ne {i k : Nat} (h0 : k ≠ i) (h1 : k ≠ i + 1) (a n : Nat) (t : Word) (s : State) : ent (writeAge i a n t s) k = ent s k :=
  (ent_writeSig_of_ne h1 _ _ _ _).trans (ent_writeSig_of_ne h0 _ _ _ _)

theorem ent_landNone_of_out {k target words : Nat} (h : k < target ∨ target + words ≤ k) (nan : Bool) (s : State) :
    ent (landNone target words nan s) k = ent s k := by
  unfold landNone
  refine List.foldlRecOn (motive := fun u => ent u k = ent s k) _ _ rfl (fun u hu j hj => ?_)
  have hj := List.mem_range.mp hj
  dsimp only
  split
  · exact hu
  · exact (ent_setEnt_ne (by omega) _ _).trans hu

/-- A landing changes the buffer's payload signals and the two of its age alone. -/
theorem ent_landEffect_of_out {k n : Nat} {s : State} (h : k < lbutFld s n 4 4 % 2 ^ 17 ∨ lbutFld s n 4 4 % 2 ^ 17 + lbutFld s n 2 1 + 2 ≤ k) :
    ent (landEffect n s) k = ent s k := by
  unfold landEffect
  extract_lets words flags target maxAge b b' u t
  have hk : k < target ∨ target + words + 2 ≤ k := h
  split
  · have hn : ent (landNone target words (bitOf flags 0) u) k = ent s k := ent_landNone_of_out (by omega) _ _
    split
    · exact (ent_writeAge_of_ne (by omega) (by omega) _ _ _ _).trans hn
    · exact hn
  · extract_lets age fresh wt ws v
    have hv : ent v k = ent s k := ent_landList_of_out _ _ _ _ (by simp only [ws, List.length_map, List.length_range]; omega)
    split
    · exact (ent_writeAge_of_ne (by omega) (by omega) _ _ _ _).trans hv
    · exact hv

theorem exec_land {l : BitVec 10} {s : State} (h : issued s 1 0 = true) (hl : l.toNat < lbuCnt s) :
    exec (.land l) s = .next (dropLane (landEffect l.toNat s)) := by
  change execLand l s = _
  unfold execLand
  rw [issue_of_issued h, if_pos hl]

/-- Settles O15: the effect by the rule of an issue, the frame by the frames of the writes. -/
theorem landCompletes : Obligations.LandCompletes := by
  refine ⟨fun l s h => ⟨exec_land h, fun hl => ?_⟩, fun l s t h hl ht k hk => ?_⟩
  · change execLand l s = _
    unfold execLand
    rw [issue_of_issued h, if_neg (by omega)]
  · rw [exec_land h hl] at ht
    cases ht
    exact ent_landEffect_of_out hk

/-! A value completed in a landing buffer. -/

theorem lbus_raise (c : Nat) (p0 p1 p2 : Word) (s : State) : (raise c p0 p1 p2 s).lbus = s.lbus := (raise_only c p0 p1 p2 s).lbus rfl

theorem lbuOf_raise (c : Nat) (p0 p1 p2 : Word) (s : State) (k : Nat) : lbuOf (raise c p0 p1 p2 s) k = lbuOf s k := by
  unfold lbuOf
  rw [lbus_raise]

theorem lbuComplete_of_pending {n : Nat} {s : State} {v : LbuVal} (words : List Word) (ns : Nat) (quals : List Qual)
    (h : (settle s (lbuOf s n)).pend = some v) :
    lbuComplete n words ns quals s =
      let b := settle s (lbuOf s n)
      let c := if b.ovrCnt = 0xFFFF#16 then b.ovrCnt else b.ovrCnt + 1
      let u : LbuVal := { words := words, secs := (stampOf ns).1, nanos := (stampOf ns).2, seq := b.count + 1, quals := quals, done := s.cclk }
      raise 0x0125 (w32 n) (c.setWidth 32) (u.seq.setWidth 32) (setLbu n { b with count := b.count + 1, pend := some u, ovrCnt := c, ovrSeq := u.seq } s) := by
  unfold lbuComplete
  simp only [h]

/-- Settles O59: a pending value is the case of lbuComplete that raises the overrun. -/
theorem overrunReplacesPendingValue : Obligations.OverrunReplacesPendingValue := by
  intro n words ns quals s v hp
  refine ⟨if (settle s (lbuOf s n)).ovrCnt = 0xFFFF#16 then (settle s (lbuOf s n)).ovrCnt else (settle s (lbuOf s n)).ovrCnt + 1, ?_, ?_⟩
  · split
    · assumption
    · rfl
  rw [lbuComplete_of_pending words ns quals hp]
  refine ⟨?_, ?_, ?_, ?_, fun j hj => ?_⟩
  · rw [lbuOf_raise, lbuOf_setLbu_val (by simp)]
  · rw [lbuOf_raise, lbuOf_setLbu_val (by simp)]
  · rw [lbuOf_raise, lbuOf_setLbu_val (by simp)]
  · rw [lbus_raise]
    rfl
  · rw [lbuOf_raise, lbuOf_setLbu_ne hj]

/-! The operations of the sequencer and of the signal engine. -/

theorem exec_nop {eng : BitVec 6} {s : State} (h : issued s eng.toNat 0 = true) : exec (.nop eng) s = .next (dropLane s) := by
  change execNop eng s = _
  unfold execNop
  rw [issue_of_issued h]

theorem exec_mark {s : State} (h : issued s 0 0 = true) (tag : BitVec 20) : exec (.mark tag) s = .next (dropLane (traceEntry 1 tag.toNat s)) := by
  change execMark tag s = _
  unfold execMark
  rw [issue_of_issued h]

theorem exec_pwake {s : State} (h : issued s 0 0 = true) (m : BitVec 5) : exec (.pwake m) s = .next (dropLane (startWake m s)) := by
  change execPwake m s = _
  unfold execPwake
  rw [issue_of_issued h]

theorem exec_pgate {s : State} (h : issued s 0 0 = true) (m : BitVec 5) :
    exec (.pgate m) s = .next (dropLane { s with pwr := { s.pwr with
      gatePend := s.pwr.gatePend ||| (m &&& ~~~ domMask .ioe &&& ~~~ busyMask s (m &&& ~~~ domMask .ioe))
      gateLater := s.pwr.gateLater ||| busyMask s (m &&& ~~~ domMask .ioe) } }) := by
  change execPgate m s = _
  unfold execPgate
  rw [issue_of_issued h]

theorem exec_pub {s : State} (h : issued s 2 0 = true) (g : BitVec 8) (p : BitVec 2) :
    exec (.pub g p) s = .next (dropLane (pubEffect g.toNat p.toNat s)) := by
  change execPub g p s = _
  unfold execPub
  rw [issue_of_issued h]

theorem exec_curve_undeclared {s : State} (h : issued s 2 0 = true) {n : BitVec 8} (hn : fld32 s .crve 0 0 ≤ n.toNat) :
    exec (.curve n) s = .next (dropLane (breach 0x0107 (opWord 2 3 n.toNat) s)) := by
  change execCurve n s = _
  unfold execCurve
  rw [issue_of_issued h]
  simp only [if_pos hn]

/-- A declared curve without a value: its source is NaN, or the curve gives nothing. -/
theorem exec_curve_nan {s : State} (h : issued s 2 0 = true) {n : BitVec 8} (hn : n.toNat < fld32 s .crve 0 0)
    (hc : sigNan s (fld32 s .crve 0 (16 + 16 * n.toNat) % 2 ^ 17) = true
      ∨ curveOut s n.toNat (sigW s (fld32 s .crve 0 (16 + 16 * n.toNat) % 2 ^ 17)) = none) :
    exec (.curve n) s = .next (dropLane (writeSig (fld32 s .crve 0 (16 + 16 * n.toNat + 4) % 2 ^ 17) 0 qNan
      (opTime s (8 + clog2 (fld16 s .crve 0 (16 + 16 * n.toNat + 12) % 512))) s)) := by
  change execCurve n s = _
  unfold execCurve
  rw [issue_of_issued h]
  simp only [if_neg (Nat.not_le.mpr hn)]
  rcases hc with hc | hc
  · rw [if_pos hc]
  · rw [hc, ite_self]

theorem exec_curve_value {s : State} (h : issued s 2 0 = true) {n : BitVec 8} (hn : n.toNat < fld32 s .crve 0 0) {w : Word}
    (hs : sigNan s (fld32 s .crve 0 (16 + 16 * n.toNat) % 2 ^ 17) = false)
    (hc : curveOut s n.toNat (sigW s (fld32 s .crve 0 (16 + 16 * n.toNat) % 2 ^ 17)) = some w) :
    exec (.curve n) s = .next (dropLane (writeSig (fld32 s .crve 0 (16 + 16 * n.toNat + 4) % 2 ^ 17) w
      (sigsQual s [fld32 s .crve 0 (16 + 16 * n.toNat) % 2 ^ 17]) (opTime s (8 + clog2 (fld16 s .crve 0 (16 + 16 * n.toNat + 12) % 512))) s)) := by
  change execCurve n s = _
  unfold execCurve
  rw [issue_of_issued h]
  simp only [if_neg (Nat.not_le.mpr hn), hs, hc]
  rfl

/-- Settles O13: the operations by the rule of an issue. -/
theorem sequencerAndSignalOperationsComplete : Obligations.SequencerAndSignalOperationsComplete :=
  ⟨fun _ => ⟨fun _ h => exec_nop h, fun h => ⟨exec_mark h, exec_pwake h, exec_pgate h⟩⟩,
    fun _ h => ⟨exec_pub h, fun _ hn => ⟨exec_curve_nan h hn, fun _ => exec_curve_value h hn⟩, fun _ => exec_curve_undeclared h⟩⟩

/-! The contract checker's corrected errors. -/

/-- Settles O29: raising an event changes the event manager, the recorder and the open values alone. -/
theorem eccCorrectionIsNoBreach : Obligations.EccCorrectionIsNoBreach := by
  intro store s
  have h := raiseOpen_only 0x0110 { s with cck := { s.cck with eccCnt := if s.cck.eccCnt = 0xFFFFFFFF#32 then s.cck.eccCnt else s.cck.eccCnt + 1 } }
  have hc := h.cck rfl
  exact ⟨_, rfl, rfl, hc, (congrArg Cck.breach hc :), Only.after h (by decide) (only_upd_cck _ (by decide) (Only.refl _ s))⟩

end Sys2Proof.Machine
end

section
/-! The contract checker's breach and the reset that follows it (R55, R56, R108, R109). -/

namespace Sys2Proof.Machine

theorem raise_boot (c : Nat) (p0 p1 p2 : Word) (s : State) : (raise c p0 p1 p2 s).boot = s.boot := (raise_only c p0 p1 p2 s).boot rfl

theorem bitOf_or_setReason (r : BitVec 7) {b : Nat} (hb : b < 7) : bitOf (r ||| BitVec.ofNat 7 (2 ^ b)).toNat b = true := by
  interval_cases b <;> revert r <;> decide

theorem setReason_bit {b : Nat} (hb : b < 7) (due : Nat) (s : State) : bitOf (setReason b due s).boot.reasons.toNat b = true := by
  unfold setReason
  split
  · assumption
  · exact bitOf_or_setReason _ hb

/-- The first breach captures the place of the schedule. -/
theorem breach_cck {s : State} (h : s.cck.breach = false) (code : Nat) (op : Word) :
    (breach code op s).cck = { s.cck with
      breach := true, code := BitVec.ofNat 16 code, merid := BitVec.ofNat 16 (s.seq.k / s.hdr.m), kIdx := BitVec.ofNat 16 (s.seq.k % s.hdr.m)
      lane := BitVec.ofNat 2 (s.seq.lanes.headD 0), tick := BitVec.ofNat 19 s.seq.tick, bundle := BitVec.ofNat 18 s.seq.lastBund, op := op
      breachAt := s.cclk, writes := [], regions := [] } := by
  have hd := dropFlight_only s
  unfold breach
  rw [h, if_neg (by decide)]
  extract_lets t lane c q u
  have hu : u.cck = { t.cck with
      breach := true, code := BitVec.ofNat 16 code, merid := BitVec.ofNat 16 (t.seq.k / t.hdr.m), kIdx := BitVec.ofNat 16 (t.seq.k % t.hdr.m)
      lane := BitVec.ofNat 2 (t.seq.lanes.headD 0), tick := BitVec.ofNat 19 t.seq.tick, bundle := BitVec.ofNat 18 t.seq.lastBund, op := op
      breachAt := t.cclk, writes := [], regions := [] } := rfl
  rw [(setReason_only _ _ _).cck rfl, (traceEntry_only _ _ _).cck rfl, (raise_only _ _ _ _ _).cck rfl, hu, hd.cck rfl, hd.seq rfl, hd.hdr rfl, hd.cclk rfl]

/-- The first breach stops the schedule. -/
theorem breach_seq {s : State} (h : s.cck.breach = false) (code : Nat) (op : Word) : (breach code op s).seq = { s.seq with stopped := true } := by
  unfold breach
  rw [h, if_neg (by decide)]
  extract_lets t lane c q u
  have hu : u.seq = { t.seq with stopped := true } := rfl
  rw [(setReason_only _ _ _).seq rfl, (traceEntry_only _ _ _).seq rfl, (raise_only _ _ _ _ _).seq rfl, hu, (dropFlight_only s).seq rfl]

theorem breach_reason {s : State} (h : s.cck.breach = false) (code : Nat) (op : Word) : bitOf (breach code op s).boot.reasons.toNat 0 = true := by
  unfold breach
  rw [h, if_neg (by decide)]
  exact setReason_bit (by decide) _ _

theorem breach_again {s : State} (h : s.cck.breach = true) (code : Nat) (op : Word) : breach code op s = s := by
  unfold breach
  rw [if_pos h]

/-- The operation word of a finding, and the state after the draw of one where the finding has none. -/
def cckWord (f : CckFault) (s : State) : Word := (cckOp f).getD ((Config.freeWord s.draws).setWidth 32)
def cckDrawn (f : CckFault) (s : State) : State := if (cckOp f).isSome then s else { s with draws := s.draws + 1 }

theorem exec_cckStore_unsealed (f : CckFault) {s : State} (h : s.boot.sealed = false) : exec (.cckStore f) s = .next s := by
  change execCckStore f s = _
  unfold execCckStore
  rw [h, if_neg (by decide)]

theorem exec_cckStore_sealed (f : CckFault) {s : State} (h : s.boot.sealed = true) :
    exec (.cckStore f) s = .next (breach (cckCode f) (cckWord f s) (cckDrawn f s)) := by
  change execCckStore f s = _
  unfold execCckStore
  rw [if_pos h]
  cases f <;> rfl

theorem cckDrawn_only (f : CckFault) (s : State) : Only [.draws] s (cckDrawn f s) :=
  .ite (.refl _ _) (only_upd_draws _ (by decide) (.refl _ s))

/-- A finding on a sealed device without a breach. -/
theorem cckStore_first (f : CckFault) {s : State} (h : s.cck.breach = false) :
    let t := breach (cckCode f) (cckWord f s) (cckDrawn f s)
    t.cck.breach = true ∧ t.seq.stopped = true ∧ t.cck.code = BitVec.ofNat 16 (cckCode f)
      ∧ t.cck.merid = BitVec.ofNat 16 (s.seq.k / s.hdr.m) ∧ t.cck.kIdx = BitVec.ofNat 16 (s.seq.k % s.hdr.m) ∧ t.cck.tick = BitVec.ofNat 19 s.seq.tick
      ∧ t.cck.bundle = BitVec.ofNat 18 s.seq.lastBund ∧ (∀ op, cckOp f = some op → t.cck.op = op)
      ∧ bitOf t.boot.reasons.toNat 0 = true ∧ t.hdr = s.hdr ∧ t.flash = s.flash ∧ t.mbx = s.mbx := by
  have hd := cckDrawn_only f s
  have hb : (cckDrawn f s).cck.breach = false := (hd.cck rfl).symm ▸ h
  have ho := breach_only (cckCode f) (cckWord f s) (cckDrawn f s)
  intro t
  have hq : t.seq.stopped = true := congrArg Seq.stopped (breach_seq hb _ _)
  have hr : bitOf t.boot.reasons.toNat 0 = true := breach_reason hb _ _
  have hc := breach_cck hb (cckCode f) (cckWord f s)
  rw [hd.cck rfl, hd.seq rfl, hd.hdr rfl, hd.cclk rfl] at hc
  rw [show t.cck = _ from hc]
  refine ⟨rfl, hq, rfl, rfl, rfl, rfl, rfl, fun op he => ?_, hr, (ho.hdr rfl).trans (hd.hdr rfl), (ho.flash rfl).trans (hd.flash rfl), (ho.mbx rfl).trans (hd.mbx rfl)⟩
  simp [cckWord, he]

/-- A finding while a breach is held. -/
theorem cckStore_again (f : CckFault) {s : State} (h : s.cck.breach = true) :
    let t := breach (cckCode f) (cckWord f s) (cckDrawn f s)
    t.cck = s.cck ∧ t.seq = s.seq ∧ t.boot = s.boot := by
  have hd := cckDrawn_only f s
  intro t
  have ht : t = cckDrawn f s := breach_again ((hd.cck rfl).symm ▸ h) _ _
  rw [ht]
  exact ⟨hd.cck rfl, hd.seq rfl, hd.boot rfl⟩

/-! The contract reset. -/

theorem raise_aon (c : Nat) (p0 p1 p2 : Word) (s : State) : (raise c p0 p1 p2 s).aon = s.aon := (raise_only c p0 p1 p2 s).aon rfl
theorem raise_seq (c : Nat) (p0 p1 p2 : Word) (s : State) : (raise c p0 p1 p2 s).seq = s.seq := (raise_only c p0 p1 p2 s).seq rfl
theorem raise_flash (c : Nat) (p0 p1 p2 : Word) (s : State) : (raise c p0 p1 p2 s).flash = s.flash := (raise_only c p0 p1 p2 s).flash rfl

/-- An entry to RESET from another state. -/
theorem enterReset_fresh (kind : ResetKind) (lct pfail : Bool) {s : State} (h : s.boot.dev ≠ .reset) :
    (enterReset kind lct pfail s).boot.dev = .reset ∧ (enterReset kind lct pfail s).aon = aonReset kind lct pfail s.aon
      ∧ (enterReset kind lct pfail s).seq = State.reset.seq ∧ (enterReset kind lct pfail s).flash = s.flash := by
  unfold enterReset
  rw [if_neg h]
  extract_lets old t
  have ho := tearOn_only kind { s with aon := aonReset kind lct pfail s.aon }
  have ha : t.aon = aonReset kind lct pfail s.aon := ho.aon rfl
  have hf : t.flash = s.flash := ho.flash rfl
  rw [raise_boot, raise_aon, raise_seq, raise_flash]
  exact ⟨rfl, ha, rfl, hf⟩

theorem setDev_dev (d : DevState) (s : State) : (setDev d s).boot.dev = d := by
  unfold setDev
  split
  · assumption
  · rw [(dbgSettle_only _ _).boot rfl, raise_boot]

theorem setDev_faultCause (d : DevState) (s : State) : (setDev d s).boot.faultCause = s.boot.faultCause := by
  unfold setDev
  split
  · rfl
  · rw [(dbgSettle_only _ _).boot rfl, raise_boot]

theorem setReason_faultCause (b due : Nat) (s : State) : (setReason b due s).boot.faultCause = s.boot.faultCause := by
  unfold setReason
  split <;> rfl

theorem enterFault_facts (cause : Nat) (s : State) :
    (enterFault cause s).boot.dev = .fault ∧ (enterFault cause s).boot.faultCause = cause ∧ (enterFault cause s).seq.run = false := by
  unfold enterFault
  extract_lets b q t u
  refine ⟨?_, ?_, ?_⟩
  · rw [raise_boot, setDev_dev]
  · rw [raise_boot, setDev_faultCause, setReason_faultCause]
  · rw [raise_seq, (setDev_only _ _).seq rfl, (setReason_only _ _ _).seq rfl]

/-- A contract reset of a device whose breach is a repeated one within 60 s of the seal. -/
def repeatedBreach (s : State) : Prop := s.aon.kind = 4 ∧ s.cck.breachAt - s.boot.sealAt < 24000000000

theorem exec_contractReset_reset {s : State} (hd : s.boot.dev = .safeHold) (hb : s.cck.breach = true) (hr : ¬ repeatedBreach s) :
    exec .contractReset s = .next (enterReset .contract false false (elapseTo (s.cck.breachAt + 400000000) s)) := by
  have ho := elapseTo_only (s.cck.breachAt + 400000000) s
  change execContractReset s = _
  unfold execContractReset
  rw [if_neg (by simp [hd, hb])]
  dsimp only
  rw [ho.aon rfl, ho.cck rfl, ho.boot rfl]
  exact if_neg hr

theorem exec_contractReset_fault {s : State} (hd : s.boot.dev = .safeHold) (hb : s.cck.breach = true) (hr : repeatedBreach s) :
    exec .contractReset s = .next (outRefresh (enterFault 3 (elapseTo (s.cck.breachAt + 400000000) s))) := by
  have ho := elapseTo_only (s.cck.breachAt + 400000000) s
  change execContractReset s = _
  unfold execContractReset
  rw [if_neg (by simp [hd, hb])]
  dsimp only
  rw [ho.aon rfl, ho.cck rfl, ho.boot rfl]
  exact if_pos hr

theorem contractReset_reset {s : State} (hd : s.boot.dev = .safeHold) (hb : s.cck.breach = true) (hr : ¬ repeatedBreach s) :
    ∃ t, exec .contractReset s = .next t ∧ t.boot.dev = .reset ∧ t.aon.kind = 4 ∧ t.seq.run = false ∧ t.flash = s.flash := by
  have ho := elapseTo_only (s.cck.breachAt + 400000000) s
  have hn : (elapseTo (s.cck.breachAt + 400000000) s).boot.dev ≠ .reset := by
    rw [ho.boot rfl, hd]
    decide
  obtain ⟨hdev, haon, hseq, hflash⟩ := enterReset_fresh .contract false false hn
  exact ⟨_, exec_contractReset_reset hd hb hr, hdev, congrArg Aon.kind haon, congrArg Seq.run hseq, hflash.trans (ho.flash rfl)⟩

theorem contractReset_fault {s : State} (hd : s.boot.dev = .safeHold) (hb : s.cck.breach = true) (hr : repeatedBreach s) :
    ∃ t, exec .contractReset s = .next t ∧ t.boot.dev = .fault ∧ t.boot.faultCause = 3 ∧ t.seq.run = false ∧ t.flash = s.flash := by
  obtain ⟨hdev, hcause, hrun⟩ := enterFault_facts 3 (elapseTo (s.cck.breachAt + 400000000) s)
  have hf := enterFault_only 3 (elapseTo (s.cck.breachAt + 400000000) s)
  have ho := outRefresh_only (enterFault 3 (elapseTo (s.cck.breachAt + 400000000) s))
  refine ⟨_, exec_contractReset_fault hd hb hr, ?_, ?_, ?_, ?_⟩
  · rw [ho.boot rfl, hdev]
  · rw [ho.boot rfl, hcause]
  · rw [ho.seq rfl, hrun]
  · rw [ho.flash rfl, hf.flash rfl, (elapseTo_only _ s).flash rfl]

/-- Settles O30: the first breach by what breach captures, a later one by its leaving the state alone, the reset by its two branches. -/
theorem breachStopsThenResets : Obligations.BreachStopsThenResets := by
  refine ⟨fun f s => ⟨fun hs hb => ⟨_, exec_cckStore_sealed f hs, cckStore_first f hb⟩, fun hs hb => ⟨_, exec_cckStore_sealed f hs, cckStore_again f hb⟩,
    exec_cckStore_unsealed f⟩, fun _ _ _ => ⟨rfl, rfl, rfl, rfl⟩, fun s hd hb => ⟨contractReset_reset hd hb, fun hk ht => contractReset_fault hd hb ⟨hk, ht⟩⟩⟩

end Sys2Proof.Machine
end

section
/-! The wake and the fault of a power domain (R43, R516, R518, R520). -/

namespace Sys2Proof.Machine

theorem and_domMask_self (g : BitVec 5) (d : Domain) : domMask d &&& g &&& domMask d = g &&& domMask d := by
  rw [BitVec.and_comm (domMask d) g, BitVec.and_assoc, BitVec.and_self]

theorem and_domMask_other (g : BitVec 5) {d e : Domain} (h : e ≠ d) : domMask d &&& g &&& domMask e = 0#5 := by
  have hz : domMask d &&& domMask e = 0#5 := by
    revert h
    cases d <;> cases e <;> decide
  rw [BitVec.and_comm (domMask d) g, BitVec.and_assoc, hz, BitVec.and_zero]

/-- The state in which the wake of a domain has started. -/
def wakeStarted (d : Domain) (s : State) : State :=
  { s with pwr := { s.pwr with gated := s.pwr.gated &&& ~~~ domMask d, waking := s.pwr.waking ||| domMask d, wakeDue := tset 0 s.pwr.wakeDue (domBit d) (s.cclk + domWake d) } }

/-- What a PWAKE of a mask does for one domain. -/
def wakeIn (m : BitVec 5) (s : State) (d : Domain) : State := if m &&& domMask d != 0 then wakeStarted d s else s

theorem startWake_eq (mask : BitVec 5) (s : State) :
    startWake mask s = [Domain.qps, .nav, .ana, .sec].foldl (wakeIn (mask &&& s.pwr.gated)) s := rfl

theorem wakeIn_other (g : BitVec 5) {d e : Domain} (h : e ≠ d) (s : State) : wakeIn (domMask d &&& g) s e = s := by
  unfold wakeIn
  rw [and_domMask_other g h]
  rfl

theorem wakeIn_self {g : BitVec 5} {d : Domain} (h : g &&& domMask d ≠ 0) (s : State) : wakeIn (domMask d &&& g) s d = wakeStarted d s := by
  unfold wakeIn
  rw [and_domMask_self]
  exact if_pos (bne_iff_ne.mpr h)

/-- A wake of one gated domain starts that domain alone. -/
theorem startWake_domMask {d : Domain} {s : State} (hd : d ≠ .ioe) (hg : s.pwr.gated &&& domMask d ≠ 0) :
    startWake (domMask d) s = wakeStarted d s := by
  rw [startWake_eq]
  have hself := wakeIn_self hg
  have hother {e : Domain} (h : e ≠ d) := wakeIn_other s.pwr.gated h
  cases d with
  | ioe => exact absurd rfl hd
  | qps | nav | ana | sec => simp only [List.foldl_cons, List.foldl_nil, hself, hother, ne_eq, reduceCtorEq, not_false_eq_true]

theorem startWake_pwr {d : Domain} {s : State} (hd : d ≠ .ioe) (hg : s.pwr.gated &&& domMask d ≠ 0) :
    (startWake (domMask d) s).pwr.gated = s.pwr.gated &&& ~~~ domMask d ∧ (startWake (domMask d) s).pwr.waking = s.pwr.waking ||| domMask d
      ∧ tget 0 (startWake (domMask d) s).pwr.wakeDue (domBit d) = s.cclk + domWake d := by
  rw [startWake_domMask hd hg]
  have hdue : s.cclk + domWake d ≠ 0 := by
    cases d with
    | ioe => exact absurd rfl hd
    | qps | nav | ana | sec => simp [domWake]
  exact ⟨rfl, rfl, tget_tset_val _ _ hdue⟩

/-- The power block when a domain's wake has ended. -/
def wakeEnded (d : Domain) (s : State) : State :=
  modPwr (fun p => { p with waking := p.waking &&& ~~~ domMask d, wakeDue := tset 0 p.wakeDue (domBit d) 0 }) s

theorem wakeDone_pwr (d : Domain) (s : State) (h : s.pwr.waking &&& domMask d ≠ 0) : (wakeDone d s).pwr = (wakeEnded d s).pwr := by
  unfold wakeDone
  rw [if_neg h]
  extract_lets u
  split
  · exact (fceAnaWake_only _).pwr rfl
  · rfl

theorem wakeDone_waking (d : Domain) (s : State) : (wakeDone d s).pwr.waking &&& domMask d = 0 := by
  by_cases h : s.pwr.waking &&& domMask d = 0
  · rw [wakeDone, if_pos h, h]
  · rw [wakeDone_pwr d s h]
    change s.pwr.waking &&& ~~~ domMask d &&& domMask d = 0
    rw [BitVec.and_assoc, BitVec.and_comm (~~~ domMask d), BitVec.and_not_self]
    exact BitVec.and_zero

theorem exec_domainWakeComplete_due {d : Domain} {s : State} (h : tget 0 s.pwr.wakeDue (domBit d) ≤ s.cclk) :
    exec (.domainWakeComplete d) s = .next (wakeDone d s) := congrArg Host.Outcome.next (if_pos h)

theorem exec_domainWakeComplete_early {d : Domain} {s : State} (h : s.cclk < tget 0 s.pwr.wakeDue (domBit d)) :
    exec (.domainWakeComplete d) s = .next s := congrArg Host.Outcome.next (if_neg (Nat.not_le.mpr h))

theorem exec_domainAutoWake (d : Domain) (s : State) : exec (.domainAutoWake d) s
    = .next (if s.seq.run then startWake (domMask d) (toTick (s.hdr.f - 64 - domWake d) s) else s) := rfl

theorem exec_pwrDomainFault_powered {d : Domain} {s : State} (h : (s.pwr.gated ||| s.pwr.faulted) &&& domMask d = 0) :
    exec (.pwrDomainFault d) s = .next (dropRequests d (abortGroups (fun g => groupDomain g == some d) (raise 0x0F0A (w32 (domBit d)) (w32 (devCode s.boot.dev)) 0
      { s with pwr := { s.pwr with faulted := s.pwr.faulted ||| domMask d, waking := s.pwr.waking &&& ~~~ domMask d, wakeDue := tset 0 s.pwr.wakeDue (domBit d) 0 } }))) := by
  change execPwrDomainFault d s = _
  unfold execPwrDomainFault
  rw [if_neg (by rw [h]; decide)]
  rfl

theorem exec_pwrDomainFault_off {d : Domain} {s : State} (h : (s.pwr.gated ||| s.pwr.faulted) &&& domMask d ≠ 0) :
    exec (.pwrDomainFault d) s = .next s := if_pos (bne_iff_ne.mpr h)

/-- Settles O31: a wake ends by `wakeDone`, starts by `startWake` on the domain's own mask, and a fault is the two branches of its command. -/
theorem domainsWakeAndFault : Obligations.DomainsWakeAndFault := by
  intro d s
  refine ⟨fun h => ⟨_, exec_domainWakeComplete_due h, wakeDone_waking d s, wakeDone_only d s⟩, exec_domainWakeComplete_early, fun h => ?_, fun h => ?_,
    startWake_pwr, exec_pwrDomainFault_powered, exec_pwrDomainFault_off⟩
  · rw [exec_domainAutoWake, if_pos h]
  · rw [exec_domainAutoWake, if_neg (by simp [h])]

end Sys2Proof.Machine
end

section
/-! The frame's own events (R22, R25, R26, R39, R402). -/

namespace Sys2Proof.Machine

/-- The schedule at tick n of its frame, if that tick is still to come. -/
def atTick (n : Nat) (q : Seq) : Seq := { q with tick := max q.tick n }

theorem toTick_seq (n : Nat) (s : State) : (toTick n s).seq = atTick n s.seq := by
  unfold toTick atTick
  split
  case isTrue h => rw [Nat.max_eq_right h.le]
  case isFalse h => rw [Nat.max_eq_left (Nat.not_lt.mp h)]

/-- Frame k has given way to the next one, with frames of f ticks. -/
def nextFrame (alj : BitVec 4) (f k : Nat) (p : Pins) (u : State) : State :=
  { u with seq := { u.seq with k := k + 1, tick := 0, frameLen := f }, pins := { p with alj := alj } }

theorem exec_frameBoundary {s : State} (hr : s.seq.run = true) (alj : BitVec 4) : exec (.frameBoundary alj) s
    = .next (frameHooks (gatingEnds (beginList s.seq.nextList s.seq.nextTag (nextFrame alj s.hdr.f s.seq.k s.pins (toTick s.seq.frameLen s))))) := by
  have ho := toTick_only s.seq.frameLen s
  have hq := toTick_seq s.seq.frameLen s
  have hk : (toTick s.seq.frameLen s).seq.k = s.seq.k := (congrArg Seq.k hq :)
  have hlist : (toTick s.seq.frameLen s).seq.nextList = s.seq.nextList := (congrArg Seq.nextList hq :)
  have htag : (toTick s.seq.frameLen s).seq.nextTag = s.seq.nextTag := (congrArg Seq.nextTag hq :)
  have hx : exec (.frameBoundary alj) s = .next (frameHooks (gatingEnds (beginList (toTick s.seq.frameLen s).seq.nextList (toTick s.seq.frameLen s).seq.nextTag
      (nextFrame alj (toTick s.seq.frameLen s).hdr.f (toTick s.seq.frameLen s).seq.k (toTick s.seq.frameLen s).pins (toTick s.seq.frameLen s))))) := by
    change execFrameBoundary alj s = _
    exact if_neg (by simp [hr])
  rw [hx, hlist, htag, hk, ho.hdr rfl, ho.pins rfl]

/-! The slack zone. -/

/-- The class-table entry of a Meridian frame index. -/
def classWord (s : State) (k : Nat) : Nat := fld32 s .seqp 0 (fld32 s .seqp 0 4 + 4 * classOf s k)

theorem fetchClass_seq (s : State) (k : Nat) :
    (fetchClass s k).seq = { s.seq with nextList := classWord s k % 2 ^ 18, nextTag := bitsOf (classWord s k) 31 24 } := rfl

/-- The class table stands in a section of the SRAM. -/
theorem classWord_congr {s t : State} (hh : t.hdr = s.hdr) (hs : t.sects = s.sects) (hm : t.sram = s.sram) (k : Nat) : classWord t k = classWord s k := by
  simp only [classWord, fld32, fld, sectOf, classOf, hh, hs, hm]

/-- A PTC rate change that waits for the slack zone takes effect (R402). -/
def takeRate (s : State) : State :=
  match s.ptc.rNext with
  | some r => { s with ptc := { s.ptc with r := r, rNext := none } }
  | none => s

theorem takeRate_only (s : State) : Only [.ptc] s (takeRate s) := by
  unfold takeRate
  split
  · exact only_upd_ptc _ (by decide) (Only.refl _ _)
  · exact Only.refl _ _

theorem takeRate_ptc {s : State} {r : Rat} (h : s.ptc.rNext = some r) : (takeRate s).ptc.r = r ∧ (takeRate s).ptc.rNext = none := by
  unfold takeRate
  rw [h]
  exact ⟨rfl, rfl⟩

theorem toTick_rNext (n : Nat) (s : State) : (toTick n s).ptc.rNext = s.ptc.rNext := by
  unfold toTick
  split <;> rfl

/-- A list that has come to its END is no breach at the slack zone. -/
theorem exec_slackZoneBegin_ended {s : State} (hr : s.seq.run = true) (he : s.seq.ended = true) : exec .slackZoneBegin s
    = .next (fetchClass (takeRate (toTick (s.hdr.f - 64) s)) (((takeRate (toTick (s.hdr.f - 64) s)).seq.k + 1) % (takeRate (toTick (s.hdr.f - 64) s)).hdr.m)) := by
  have hq : (toTick (s.hdr.f - 64) s).seq.ended = true := (congrArg Seq.ended (toTick_seq _ s) :).trans he
  change execSlackZoneBegin s = _
  unfold execSlackZoneBegin
  rw [if_neg (by simp [hr])]
  extract_lets walked u v ptc w
  have hv : v = u := if_pos (by simp [u, hq])
  have hw : w = takeRate v := rfl
  rw [hw, hv]

theorem slackZone_ended {s : State} (hr : s.seq.run = true) (he : s.seq.ended = true) :
    ∃ t, exec .slackZoneBegin s = .next t ∧ t.seq.nextList = (fetchClass s ((s.seq.k + 1) % s.hdr.m)).seq.nextList
      ∧ t.seq.nextTag = (fetchClass s ((s.seq.k + 1) % s.hdr.m)).seq.nextTag ∧ t.seq.k = s.seq.k ∧ (∀ r, s.ptc.rNext = some r → t.ptc.r = r ∧ t.ptc.rNext = none) := by
  have ho : Only [.cclk, .seq, .pwr, .ptc, .cal] s (takeRate (toTick (s.hdr.f - 64) s)) := (toTick_only _ s).trans ((takeRate_only _).mono (by decide))
  have hk : (takeRate (toTick (s.hdr.f - 64) s)).seq.k = s.seq.k := by
    rw [(takeRate_only _).seq rfl, toTick_seq]
    rfl
  rw [exec_slackZoneBegin_ended hr he, hk, ho.hdr rfl]
  refine ⟨_, rfl, ?_, ?_, ?_, fun r hn => ?_⟩
  · rw [fetchClass_seq, fetchClass_seq, classWord_congr (ho.hdr rfl) (ho.sects rfl) (ho.sram rfl)]
  · rw [fetchClass_seq, fetchClass_seq, classWord_congr (ho.hdr rfl) (ho.sects rfl) (ho.sram rfl)]
  · rw [fetchClass_seq, hk]
  · rw [(fetchClass_only _ _).ptc rfl]
    exact takeRate_ptc ((toTick_rNext _ s).trans hn)

/-! The aligner. -/

/-- The schedule's registers after a phase sample e, in frames of f ticks. -/
def sampled (e : Int) (f : Nat) (q : Seq) : Seq :=
  let m : Int := roundZero (meanPhase ((e :: q.phases).take 16))
  let q := { q with phases := (e :: q.phases).take 16, err := m }
  if 1 ≤ m then { q with frameLen := f + 1, adds := q.adds + 1 }
  else if m ≤ -1 then { q with frameLen := f - 1, drops := q.drops + 1 }
  else { q with frameLen := f }

theorem sampled_facts (e : Int) (f : Nat) (q : Seq) :
    (sampled e f q).phases = (e :: q.phases).take 16 ∧ (sampled e f q).err = roundZero (meanPhase ((e :: q.phases).take 16))
      ∧ (sampled e f q).frameLen = (if 1 ≤ (sampled e f q).err then f + 1 else if (sampled e f q).err ≤ -1 then f - 1 else f) ∧ (sampled e f q).k = q.k := by
  unfold sampled
  extract_lets m p
  split
  · exact ⟨rfl, rfl, rfl, rfl⟩
  · split <;> exact ⟨rfl, rfl, rfl, rfl⟩

/-- ALIGN and its events (R27). -/
def alignJudged (m : Int) (s : State) : State :=
  if decide (64 < m.natAbs) && s.seq.align == 1#2 then raiseOpen 0x0121 { s with seq := { s.seq with align := 2 } }
  else if decide (m.natAbs ≤ 1) && s.seq.align == 2#2 then raiseOpen 0x0122 { s with seq := { s.seq with align := 1 } }
  else s

theorem alignJudged_seq (m : Int) (s : State) : ∃ a, (alignJudged m s).seq = { s.seq with align := a } := by
  unfold alignJudged
  split
  · exact ⟨2, (raiseOpen_only _ _).seq rfl⟩
  · split
    · exact ⟨1, (raiseOpen_only _ _).seq rfl⟩
    · exact ⟨s.seq.align, rfl⟩

theorem exec_alignerPhaseSample {s : State} (hr : s.seq.run = true) (e : Int) : exec (.alignerPhaseSample e) s
    = .next (alignJudged (roundZero (meanPhase ((e :: (toTick (s.hdr.f - 32) s).seq.phases).take 16)))
      { toTick (s.hdr.f - 32) s with seq := sampled e (toTick (s.hdr.f - 32) s).hdr.f (toTick (s.hdr.f - 32) s).seq }) := by
  change execAlignerPhaseSample e s = _
  unfold execAlignerPhaseSample
  rw [if_neg (by simp [hr])]
  unfold alignJudged
  exact ((apply_ite Host.Outcome.next _ _ _).trans (congrArg _ (apply_ite Host.Outcome.next _ _ _))).symm

theorem alignerPhaseSample_facts {s : State} (hr : s.seq.run = true) (e : Int) :
    ∃ t, exec (.alignerPhaseSample e) s = .next t ∧ t.seq.phases = (e :: s.seq.phases).take 16 ∧ t.seq.err = roundZero (meanPhase ((e :: s.seq.phases).take 16))
      ∧ t.seq.frameLen = (if 1 ≤ t.seq.err then s.hdr.f + 1 else if t.seq.err ≤ -1 then s.hdr.f - 1 else s.hdr.f) ∧ t.seq.k = s.seq.k := by
  refine ⟨_, exec_alignerPhaseSample hr e, ?_⟩
  obtain ⟨a, ha⟩ := alignJudged_seq (roundZero (meanPhase ((e :: (toTick (s.hdr.f - 32) s).seq.phases).take 16)))
    { toTick (s.hdr.f - 32) s with seq := sampled e (toTick (s.hdr.f - 32) s).hdr.f (toTick (s.hdr.f - 32) s).seq }
  rw [ha, (toTick_only _ s).hdr rfl, toTick_seq]
  exact sampled_facts e s.hdr.f (atTick (s.hdr.f - 32) s.seq)

theorem alignerTrimUpdate_facts {s : State} (hr : s.seq.run = true) :
    ∃ t, exec .alignerTrimUpdate s = .next t ∧ t.seq.k = s.seq.k ∧ t.seq.phases = s.seq.phases ∧ t.seq.frameLen = s.seq.frameLen
      ∧ (t.seq.fb, t.seq.trim) = trimLaw s.hdr.f (meanPhase s.seq.phases) s.seq.fb (feedForward (toTick (s.hdr.f - 16) s)) := by
  have hq := toTick_seq (s.hdr.f - 16) s
  have hx : exec .alignerTrimUpdate s = .next { toTick (s.hdr.f - 16) s with seq :=
      { (toTick (s.hdr.f - 16) s).seq with
        fb := (trimLaw (toTick (s.hdr.f - 16) s).hdr.f (meanPhase (toTick (s.hdr.f - 16) s).seq.phases) (toTick (s.hdr.f - 16) s).seq.fb (feedForward (toTick (s.hdr.f - 16) s))).1,
        trim := (trimLaw (toTick (s.hdr.f - 16) s).hdr.f (meanPhase (toTick (s.hdr.f - 16) s).seq.phases) (toTick (s.hdr.f - 16) s).seq.fb (feedForward (toTick (s.hdr.f - 16) s))).2 } } := by
    change execAlignerTrimUpdate s = _
    exact if_pos hr
  rw [(toTick_only _ s).hdr rfl, hq] at hx
  exact ⟨_, hx, rfl, rfl, rfl, rfl⟩

/-- Settles O28: each event first lets the ticks to its own pass, which leave of the schedule all but its tick as they were. -/
theorem frameEventsAdvance : Obligations.FrameEventsAdvance :=
  fun _ hr => ⟨exec_frameBoundary hr, slackZone_ended hr, alignerPhaseSample_facts hr, alignerTrimUpdate_facts hr⟩

end Sys2Proof.Machine
end

section
/-! Verification, the seal, SYNC and the schedule start (R24, R33, R100, R102, R104). -/

namespace Sys2Proof.Machine

/-! VERIFY. -/

theorem rejectCopy_boot (copy : Bool) (v : Verdict) (s : State) : ∃ r, (rejectCopy copy v s).boot = { s.boot with roleMism := r } := by
  unfold rejectCopy
  extract_lets role u
  have hu : u.boot = s.boot := (setVfail_only _ _ _ s).boot rfl
  rw [raise_boot]
  split
  · exact ⟨true, congrArg (fun b => { b with roleMism := true }) hu⟩
  · exact ⟨s.boot.roleMism, hu⟩

/-- An accepted copy is being sealed. -/
def copyAccepted (copy : Bool) (m : Img) (s : State) : State :=
  let s := setVfail copy 0xFFFF00FF#32 0 s
  let s := { s with seq := { s.seq with copyAOk := s.seq.copyAOk || !copy, copyBOk := s.seq.copyBOk || copy } }
  modBoot (fun b => { b with sealing := true, roleValid := true, chartRole := iRole m, phaseAt := s.cclk }) s

/-- The other copy is a candidate that has not been tried. -/
def otherCopy (copy : Bool) (b : Boot) : Bool := if copy then b.candA && !b.triedA else b.candB && !b.triedB

/-- WIPE begins again, for the other copy. -/
def wipeForOther (copy : Bool) (s : State) : State :=
  let s := setDev .wipe { s with seq := { s.seq with copy := !copy } }
  modBoot (fun b => { b with wipeDone := false, phaseAt := s.cclk }) s

theorem wipeForOther_dev (copy : Bool) (s : State) : (wipeForOther copy s).boot.dev = .wipe := setDev_dev _ _

theorem wipeForOther_copy (copy : Bool) (s : State) : (wipeForOther copy s).seq.copy = !copy :=
  (congrArg Seq.copy ((setDev_only .wipe { s with seq := { s.seq with copy := !copy } }).seq rfl) :)

/-- A rejected copy gives way to the other one, or the device enters FAULT. -/
def copyRejected (copy : Bool) (v : Verdict) (s : State) : State :=
  let s := rejectCopy copy v s
  if otherCopy copy s.boot then wipeForOther copy s else enterFault 1 s

theorem copyAccepted_boot (copy : Bool) (m : Img) (s : State) : (copyAccepted copy m s).boot.dev = s.boot.dev
    ∧ (copyAccepted copy m s).boot.sealing = true ∧ (copyAccepted copy m s).boot.roleValid = true :=
  ⟨(congrArg Boot.dev ((setVfail_only copy 0xFFFF00FF#32 0 s).boot rfl) :), rfl, rfl⟩

theorem copyRejected_facts (copy : Bool) (v : Verdict) (s : State) :
    if otherCopy copy s.boot then (copyRejected copy v s).boot.dev = .wipe ∧ (copyRejected copy v s).seq.copy = !copy
    else (copyRejected copy v s).boot.dev = .fault ∧ (copyRejected copy v s).boot.faultCause = 1 := by
  obtain ⟨r, hr⟩ := rejectCopy_boot copy v s
  have hc : otherCopy copy (rejectCopy copy v s).boot = otherCopy copy s.boot := by rw [hr]; rfl
  unfold copyRejected
  extract_lets u
  rw [hc]
  split
  · exact ⟨wipeForOther_dev copy u, wipeForOther_copy copy u⟩
  · obtain ⟨hdev, hcause, -⟩ := enterFault_facts 1 u
    exact ⟨hdev, hcause⟩

/-- The state that the verdict of a copy gives. -/
def copyJudged (copy : Bool) (m : Img) (s : State) : State :=
  match verdictOf s m with
  | none => copyAccepted copy m s
  | some v => copyRejected copy v s

theorem exec_verifyComplete {s : State} (hd : s.boot.dev = .verify) (hs : s.boot.sealing = false) (n : Nat) :
    exec (.verifyComplete n) s = .next (copyJudged s.seq.copy (flashImg s s.seq.copy) (elapse (min n 8000000) s)) := by
  change execVerifyComplete n s = _
  unfold execVerifyComplete
  rw [if_neg (by simp [hd, hs])]
  extract_lets copy m u
  unfold copyJudged
  cases verdictOf u m with
  | none => rfl
  | some v => exact (apply_ite Host.Outcome.next _ _ _).symm

theorem copyJudged_facts (copy : Bool) (m : Img) (s : State) : (verdictOf s m).elim
    ((copyJudged copy m s).boot.dev = s.boot.dev ∧ (copyJudged copy m s).boot.sealing = true ∧ (copyJudged copy m s).boot.roleValid = true)
    (fun _ => if otherCopy copy s.boot then (copyJudged copy m s).boot.dev = .wipe ∧ (copyJudged copy m s).seq.copy = !copy
      else (copyJudged copy m s).boot.dev = .fault ∧ (copyJudged copy m s).boot.faultCause = 1) := by
  unfold copyJudged
  cases verdictOf s m with
  | none => exact copyAccepted_boot copy m s
  | some v => exact copyRejected_facts copy v s

theorem verifyComplete_facts {s : State} (hd : s.boot.dev = .verify) (hs : s.boot.sealing = false) (n : Nat) :
    ∃ t, exec (.verifyComplete n) s = .next t ∧ t.flash = s.flash ∧ (verdictOf (elapse (min n 8000000) s) (flashImg s s.seq.copy)).elim
      (t.boot.dev = .verify ∧ t.boot.sealing = true ∧ t.boot.roleValid = true)
      (fun _ => if (if s.seq.copy then s.boot.candA && !s.boot.triedA else s.boot.candB && !s.boot.triedB) then t.boot.dev = .wipe ∧ t.seq.copy = !s.seq.copy
        else t.boot.dev = .fault ∧ t.boot.faultCause = 1) := by
  have hx := exec_verifyComplete hd hs n
  have hfacts := copyJudged_facts s.seq.copy (flashImg s s.seq.copy) (elapse (min n 8000000) s)
  rw [(elapse_only _ s).boot rfl, hd] at hfacts
  generalize copyJudged s.seq.copy (flashImg s s.seq.copy) (elapse (min n 8000000) s) = t at hx hfacts
  generalize verdictOf (elapse (min n 8000000) s) (flashImg s s.seq.copy) = o at hfacts ⊢
  exact ⟨t, hx, (execVerifyComplete_only n s _ hx).flash rfl, hfacts⟩

/-! The seal. -/

/-- What the seal does after the three records. -/
def sealDone (s : State) : State := setDev .sync (judgeUnit (serSeal (canSeal (sealRecords s))))

theorem setReason_sealed (b due : Nat) (s : State) : (setReason b due s).boot.sealed = s.boot.sealed ∧ (setReason b due s).boot.sealing = s.boot.sealing := by
  unfold setReason
  split <;> exact ⟨rfl, rfl⟩

theorem judgeUnit_sealed (s : State) : (judgeUnit s).boot.sealed = s.boot.sealed ∧ (judgeUnit s).boot.sealing = s.boot.sealing := by
  unfold judgeUnit
  split
  · exact ⟨rfl, rfl⟩
  · rw [raise_boot]
    exact setReason_sealed 4 _ _

theorem setDev_sealed (d : DevState) (s : State) : (setDev d s).boot.sealed = s.boot.sealed ∧ (setDev d s).boot.sealing = s.boot.sealing := by
  unfold setDev
  split
  · exact ⟨rfl, rfl⟩
  · rw [(dbgSettle_only _ _).boot rfl, raise_boot]
    exact ⟨rfl, rfl⟩

theorem sealDone_boot (s : State) : (sealDone s).boot.dev = .sync ∧ (sealDone s).boot.sealed = s.boot.sealed ∧ (sealDone s).boot.sealing = s.boot.sealing := by
  unfold sealDone
  obtain ⟨hd, hd'⟩ := setDev_sealed .sync (judgeUnit (serSeal (canSeal (sealRecords s))))
  obtain ⟨hj, hj'⟩ := judgeUnit_sealed (serSeal (canSeal (sealRecords s)))
  have hb : (serSeal (canSeal (sealRecords s))).boot = s.boot := by
    rw [(serSeal_only _).boot rfl, (canSeal_only _).boot rfl, (sealRecords_only s).boot rfl]
  rw [hd, hj, hd', hj', hb]
  exact ⟨setDev_dev _ _, rfl, rfl⟩

theorem exec_sealComplete {s : State} (hd : s.boot.dev = .verify) (hs : s.boot.sealing = true) :
    ∃ u, exec .sealComplete s = .next (sealDone u) ∧ u.boot.sealed = true ∧ u.boot.sealing = false := by
  change ∃ u, execSealComplete s = _ ∧ _
  unfold execSealComplete
  rw [if_neg (by simp [hd, hs])]
  exact ⟨_, rfl, rfl, rfl⟩

theorem sealComplete_facts {s : State} (hd : s.boot.dev = .verify) (hs : s.boot.sealing = true) :
    ∃ t, exec .sealComplete s = .next t ∧ t.boot.dev = .sync ∧ t.boot.sealed = true ∧ t.boot.sealing = false ∧ t.flash = s.flash ∧ t.fuses = s.fuses := by
  obtain ⟨u, hx, hu, hu'⟩ := exec_sealComplete hd hs
  obtain ⟨hdev, hsealed, hsealing⟩ := sealDone_boot u
  have ho := execSealComplete_only s _ hx
  exact ⟨_, hx, hdev, hsealed.trans hu, hsealing.trans hu', ho.flash rfl, ho.fuses rfl⟩

/-! SYNC and the schedule start. -/

theorem exec_syncTmo_first {s : State} (hd : s.boot.dev = .sync) (ht : s.boot.syncTmo = false) (hp : s.ptc.status = 0) :
    exec .syncTmo s = .next (raiseOpen 0x0120 (setReason 1 s.seq.k (modBoot (fun b => { b with syncTmo := true }) s))) := if_pos ⟨hd, ht, hp⟩

theorem bitOf_and_clearReason (r : BitVec 7) {b c : Nat} (hb : b < 7) (hc : c < 7) :
    bitOf (r &&& ~~~ BitVec.ofNat 7 (2 ^ b)).toNat c = (bitOf r.toNat c && decide (c ≠ b)) := by
  interval_cases b <;> interval_cases c <;> revert r <;> decide

/-- Clearing a SAFE-HOLD reason leaves the other ones. -/
theorem clearReason_bit {b c : Nat} (hb : b < 7) (hc : c < 7) (s : State) :
    bitOf (clearReason b s).boot.reasons.toNat c = (bitOf s.boot.reasons.toNat c && decide (c ≠ b)) := by
  unfold clearReason
  split
  case isTrue h =>
    by_cases hcb : c = b
    · rw [hcb, h, Bool.false_and]
    · rw [decide_eq_true hcb, Bool.and_true]
  case isFalse h => exact bitOf_and_clearReason _ hb hc

theorem setDev_reasons (d : DevState) (s : State) : (setDev d s).boot.reasons = s.boot.reasons := by
  unfold setDev
  split
  · rfl
  · rw [(dbgSettle_only _ _).boot rfl, raise_boot]

theorem enterStandby_boot (s : State) : (enterStandby s).boot.dev = .standby ∧ (enterStandby s).boot.reasons = s.boot.reasons := by
  unfold enterStandby
  extract_lets u v
  have hu : u.boot = s.boot := by
    simp only [u]
    split
    · exact (eqClear_only s).boot rfl
    · rfl
  refine ⟨setDev_dev _ _, ?_⟩
  calc v.boot.reasons
    _ = (dropClaim u).boot.reasons := setDev_reasons _ _
    _ = s.boot.reasons := by rw [(dropClaim_only u).boot rfl, hu]

/-- STANDBY with the SYNC and BOOT reasons cleared. -/
def standbyFresh (s : State) : State := enterStandby (clearReason 5 (clearReason 1 s))

theorem standbyFresh_boot (s : State) : (standbyFresh s).boot.dev = .standby ∧ bitOf (standbyFresh s).boot.reasons.toNat 1 = false
    ∧ bitOf (standbyFresh s).boot.reasons.toNat 5 = false := by
  unfold standbyFresh
  obtain ⟨hdev, hreasons⟩ := enterStandby_boot (clearReason 5 (clearReason 1 s))
  rw [hreasons, clearReason_bit (by decide) (by decide), clearReason_bit (by decide) (by decide), clearReason_bit (by decide) (by decide)]
  exact ⟨hdev, by simp, by simp⟩

theorem standbyFresh_seq (s : State) : (standbyFresh s).seq = s.seq := by
  unfold standbyFresh
  rw [(enterStandby_only _).seq rfl, (clearReason_only _ _).seq rfl, (clearReason_only _ _).seq rfl]

/-- The frame of Meridian index 0 begins as frame k, with the list of its class. -/
def firstFrame (k : Nat) (s : State) : State :=
  let s := { s with seq := { s.seq with run := true, k := k, tick := 0, frameLen := s.hdr.f, align := 1, phases := [], err := 0, fb := 0 } }
  let s := freshBarks (fetchClass s 0)
  beginList s.seq.nextList s.seq.nextTag s

theorem firstFrame_seq (k : Nat) (s : State) : (firstFrame k s).seq.run = true ∧ (firstFrame k s).seq.k = k ∧ (firstFrame k s).seq.tick = 0
    ∧ (firstFrame k s).seq.frameLen = s.hdr.f := by
  unfold firstFrame
  extract_lets q u v
  have hv : v.seq = (fetchClass u 0).seq := (freshBarks_only _).seq rfl
  exact ⟨(congrArg Seq.run hv :), (congrArg Seq.k hv :), (congrArg Seq.tick hv :), (congrArg Seq.frameLen hv :)⟩

theorem exec_scheduleStart {s : State} (hd : s.boot.dev = .sync) (hp : s.ptc.status ≠ 0) (hr : s.seq.run = false) : exec .scheduleStart s
    = .next (frameHooks (ttuAutoArm (lceStart (standbyFresh (firstFrame (s.hdr.m * nextMerid s) (elapse (cyclesToMerid s) s)))))) := by
  have hn : ¬ (s.boot.dev ≠ .sync ∨ s.ptc.status = 0 ∨ s.seq.run = true) := by
    rintro (h | h | h)
    · exact h hd
    · exact hp h
    · exact Bool.noConfusion (hr.symm.trans h)
  change execScheduleStart s = _
  exact if_neg hn

theorem scheduleStart_facts {s : State} (hd : s.boot.dev = .sync) (hp : s.ptc.status ≠ 0) (hr : s.seq.run = false) :
    ∃ u, exec .scheduleStart s = .next (frameHooks (ttuAutoArm (lceStart u))) ∧ u.boot.dev = .standby
      ∧ u.seq.run = true ∧ u.seq.k = s.hdr.m * nextMerid s ∧ u.seq.tick = 0 ∧ u.seq.frameLen = s.hdr.f ∧ bitOf u.boot.reasons.toNat 1 = false ∧ bitOf u.boot.reasons.toNat 5 = false := by
  obtain ⟨hdev, hsync, hboot⟩ := standbyFresh_boot (firstFrame (s.hdr.m * nextMerid s) (elapse (cyclesToMerid s) s))
  obtain ⟨hrun, hk, htick, hlen⟩ := firstFrame_seq (s.hdr.m * nextMerid s) (elapse (cyclesToMerid s) s)
  rw [← standbyFresh_seq] at hrun hk htick hlen
  exact ⟨_, exec_scheduleStart hd hp hr, hdev, hrun, hk, htick, hlen, hsync, hboot⟩

/-- Settles O27: each of the four commands by the branch that its state takes. -/
theorem verifySealAndFirstFrame : Obligations.VerifySealAndFirstFrame :=
  fun _ => ⟨verifyComplete_facts, sealComplete_facts, exec_syncTmo_first, scheduleStart_facts⟩

end Sys2Proof.Machine
end

section
/-! The STATE word of a directory entry, writes of a signal, SUBST and the combined quality (chapter 2, R64 to R77). -/

namespace Sys2Proof.Machine

/-! The fields of a STATE word (Table 2-4). -/

theorem b2n_lt_two (b : Bool) : b2n b < 2 := by
  cases b <;> decide

theorem b2n_beq_one (b : Bool) : (b2n b == 1) = b := by
  cases b <;> rfl

/-- The four fields stand side by side in the 16 bits. -/
theorem entState_toNat (q : Qual) (const held : Bool) (n : Nat) :
    (entState q const held n).toNat = q.toNat + 8 * b2n const + 16 * b2n held + 256 * (n % 256) := by
  have hq := q.isLt
  have hc := b2n_lt_two const
  have hh := b2n_lt_two held
  unfold entState
  rw [BitVec.toNat_ofNat, Nat.mod_eq_of_lt (by omega)]

section
variable {e : SdirEntry} {q : Qual} {const held : Bool} {n : Nat}

theorem entQual_of_state (h : e.state = entState q const held n) : entQual e = q := by
  have hq := q.isLt
  unfold entQual
  apply BitVec.eq_of_toNat_eq
  rw [h, BitVec.toNat_setWidth, entState_toNat]
  omega

theorem entConst_of_state (h : e.state = entState q const held n) : entConst e = const := by
  have hq := q.isLt
  have hc := b2n_lt_two const
  unfold entConst bitOf
  rw [h, entState_toNat, show _ % 2 = b2n const by omega, b2n_beq_one]

theorem entHeld_of_state (h : e.state = entState q const held n) : entHeld e = held := by
  have hq := q.isLt
  have hc := b2n_lt_two const
  have hh := b2n_lt_two held
  unfold entHeld bitOf
  rw [h, entState_toNat, show _ % 2 = b2n held by omega, b2n_beq_one]

theorem entWcnt_of_state (h : e.state = entState q const held n) : entWcnt e = n % 256 := by
  have hq := q.isLt
  have hc := b2n_lt_two const
  have hh := b2n_lt_two held
  unfold entWcnt bitsOf
  rw [h, entState_toNat]
  omega

end

theorem entWcnt_lt (e : SdirEntry) : entWcnt e < 256 := Nat.mod_lt _ (by decide)

/-! One write (R68, R69, R72, R74). -/

theorem writeSig_of_locked {i : Nat} {s : State} (h : entHeld (ent s i) = true ∨ entConst (ent s i) = true) (w : Word) (q : Qual) (t : Word) :
    writeSig i w q t s = s :=
  if_pos (Bool.or_eq_true_iff.mpr h)

/-- A write of a writable SFX or UFX signal, with the NaN code in step with quality NAN. -/
theorem writeSig_of_number {i : Nat} {s : State} (hh : entHeld (ent s i) = false) (hc : entConst (ent s i) = false)
    (hty : entType (ent s i) = 1 ∨ entType (ent s i) = 2) (w : Word) (q : Qual) (t : Word) : writeSig i w q t s
      = if q = qNan ∨ w = nanWord then setEnt i (written (ent s i) nanWord qNan t) s else setEnt i (written (ent s i) w q t) s := by
  have hl : ¬ (entHeld (ent s i) || entConst (ent s i)) = true := by simp [hh, hc]
  unfold writeSig
  rw [if_neg hl]
  by_cases hq : q = qNan
  · rcases hty with hty | hty <;> simp [hty, hq]
  · by_cases hw : w = nanWord
    · rcases hty with hty | hty <;> simp [hty, hq, hw]
    · rcases hty with hty | hty <;> simp [hty, hq, hw]

/-- Settles O17: the frame of a write, its locked case, its case of a number, and the fields of the entry it stores. -/
theorem writeSigSetsOneSignal : Obligations.WriteSigSetsOneSignal := by
  intro i w q t s
  refine ⟨fun k hk => ent_writeSig_of_ne hk w q t s, fun h => writeSig_of_locked h w q t, fun hh hc hty => ?_, fun v r => ⟨rfl, entWcnt_of_state rfl⟩⟩
  rw [writeSig_of_number hh hc hty]
  exact ⟨fun h => if_pos h, fun hq hw => if_neg (not_or.mpr ⟨hq, hw⟩)⟩

/-! SUBST (R77). -/

/-- What SUBST of signal i does by the quality q that it sees there. -/
def substEffect (i : Nat) (zero : Bool) (q : Qual) (s : State) : State :=
  if q = qGood then writeSig (i + 1) (sigW s i) qGood (opTime s 4) s
  else if q = qForced ∨ q = qSubst then writeSig (i + 1) (sigW s i) qSubst (opTime s 4) s
  else writeRaw (i + 1) (if zero then 0 else sigW s (i + 1)) qSubst (opTime s 4) s

theorem exec_subst {g : BitVec 17} {s : State} (h : issued s 2 0 = true) (zero : Bool) : exec (.subst g zero) s
    = .next (dropLane (substEffect g.toNat zero (if sigNan s g.toNat then qNan else sigQ s g.toNat) s)) := by
  change execSubst g zero s = _
  unfold execSubst
  rw [issue_of_issued h]
  rfl

theorem substEffect_good (i : Nat) (zero : Bool) (s : State) :
    substEffect i zero qGood s = writeSig (i + 1) (sigW s i) qGood (opTime s 4) s := if_pos rfl

theorem substEffect_substituted {q : Qual} (h : q = qForced ∨ q = qSubst) (i : Nat) (zero : Bool) (s : State) :
    substEffect i zero q s = writeSig (i + 1) (sigW s i) qSubst (opTime s 4) s := by
  have hg : q ≠ qGood := by rcases h with rfl | rfl <;> decide
  unfold substEffect
  rw [if_neg hg, if_pos h]

theorem substEffect_unusable {q : Qual} (h : q = qStale ∨ q = qNan) (i : Nat) (zero : Bool) (s : State) :
    substEffect i zero q s = writeRaw (i + 1) (if zero then 0 else sigW s (i + 1)) qSubst (opTime s 4) s := by
  have hg : q ≠ qGood := by rcases h with rfl | rfl <;> decide
  have hs : ¬ (q = qForced ∨ q = qSubst) := by rcases h with rfl | rfl <;> decide
  unfold substEffect
  rw [if_neg hg, if_neg hs]

theorem ent_substEffect_of_ne {i k : Nat} (h : k ≠ i + 1) (zero : Bool) (q : Qual) (s : State) : ent (substEffect i zero q s) k = ent s k := by
  unfold substEffect
  split
  · exact ent_writeSig_of_ne h _ _ _ _
  · split
    · exact ent_writeSig_of_ne h _ _ _ _
    · exact ent_writeRaw_of_ne h _ _ _ _

/-- Settles O16: the effect by the quality that SUBST sees, the frame by the frames of its writes. -/
theorem substFollowsSourceQuality : Obligations.SubstFollowsSourceQuality := by
  intro g zero s h
  rw [exec_subst h]
  refine ⟨fun hn hq => ?_, fun hn hq => ?_, fun hq => ?_, fun t ht k hk => ?_⟩
  · simp only [hn, hq, Bool.false_eq_true, if_false, substEffect_good]
  · rw [hn, if_neg Bool.false_ne_true, substEffect_substituted hq]
  · have hu : (if sigNan s g.toNat then qNan else sigQ s g.toNat) = qStale ∨ (if sigNan s g.toNat then qNan else sigQ s g.toNat) = qNan := by
      split
      case isTrue => exact .inr rfl
      case isFalse hn => exact hq.resolve_left hn
    rw [substEffect_unusable hu]
  · cases ht
    exact ent_substEffect_of_ne hk zero _ s

/-! The combined quality (R73). -/

theorem one_le_qRank {q : Qual} (h : q ≠ qNan) : 1 ≤ qRank q := by
  unfold qRank
  rw [if_neg h]
  split
  · exact le_rfl
  · split <;> omega

theorem two_le_qRank {q : Qual} (hn : q ≠ qNan) (hs : q ≠ qStale) : 2 ≤ qRank q := by
  unfold qRank
  rw [if_neg hn, if_neg hs]
  split <;> omega

/-- The least rank of a list: a bound of every rank that one of them, or the rank of GOOD, attains. -/
theorem foldl_min_qRank {n : Nat} (l : List Qual) (a : Nat) (ha : n ≤ a) (hlow : ∀ q ∈ l, n ≤ qRank q) (hin : a = n ∨ ∃ q ∈ l, qRank q = n) :
    l.foldl (fun a q => min a (qRank q)) a = n := by
  induction l generalizing a with
  | nil => simpa using hin
  | cons x l ih =>
    have hx := hlow x List.mem_cons_self
    refine ih (min a (qRank x)) (by omega) (fun q hq => hlow q (List.mem_cons_of_mem x hq)) ?_
    rcases hin with rfl | ⟨q, hq, hqn⟩
    · exact .inl (Nat.min_eq_left hx)
    · rcases List.mem_cons.mp hq with rfl | hq
      · exact .inl (by omega)
      · exact .inr ⟨q, hq, hqn⟩

theorem sigsQual_of_rank {s : State} {l : List Nat} {n : Nat} (hn : n ≤ 3) (hlow : ∀ i ∈ l, n ≤ qRank (sigQ s i))
    (hin : 3 = n ∨ ∃ i ∈ l, qRank (sigQ s i) = n) : sigsQual s l = qOfRank n :=
  congrArg qOfRank (foldl_min_qRank _ 3 hn (List.forall_mem_map.mpr hlow)
    (hin.imp_right fun ⟨i, hi, hr⟩ => ⟨sigQ s i, List.mem_map_of_mem hi, hr⟩))

/-- Settles O18: in each case the worst rank is the one that an input has and none is below. -/
theorem worstQualityOfInputs : Obligations.WorstQualityOfInputs := by
  intro s l _
  refine ⟨fun ⟨i, hi, hq⟩ => ?_, fun hnan ⟨i, hi, hq⟩ => ?_, fun hbad ⟨i, hi, hq⟩ => ?_, fun hgood => ?_⟩
  · exact sigsQual_of_rank (n := 0) (by omega) (fun _ _ => Nat.zero_le _) (.inr ⟨i, hi, by rw [hq]; rfl⟩)
  · exact sigsQual_of_rank (n := 1) (by omega) (fun j hj => one_le_qRank (hnan j hj)) (.inr ⟨i, hi, by rw [hq]; rfl⟩)
  · exact sigsQual_of_rank (n := 2) (by omega) (fun j hj => two_le_qRank (hbad j hj).1 (hbad j hj).2)
      (.inr ⟨i, hi, by rcases hq with hq | hq <;> rw [hq] <;> rfl⟩)
  · exact sigsQual_of_rank (n := 3) le_rfl (fun j hj => by rw [hgood j hj]; decide) (.inl rfl)

end Sys2Proof.Machine
end

section
/-! Forces and their release, and the requests that latch for a frame boundary (R51, R52, R74, R195, R226, R236). -/

namespace Sys2Proof.Machine

/-! A force and its release. -/

theorem forcedWord_plain {e : SdirEntry} (h4 : entType e ≠ 4) (h5 : entType e ≠ 5) (h6 : entType e ≠ 6) (w : Word) : forcedWord e w = (w, qForced) := by
  unfold forcedWord
  split
  · contradiction
  · contradiction
  · contradiction
  · rfl

theorem forcedWord_bool {e : SdirEntry} (h : entType e = 4) (w : Word) : forcedWord e w = (if w = 0 then 0 else 1, qForced) := by
  simp only [forcedWord, h]

theorem forcedWord_time {e : SdirEntry} (h : entType e = 6) {w : Word} (hw : w.toNat ≤ 999999999) : forcedWord e w = (w, qForced) := by
  unfold forcedWord
  rw [h]
  exact if_neg (Nat.not_lt.mpr hw)

/-- The entry that a force leaves. -/
def forcedEnt (e : SdirEntry) (w t : Word) : SdirEntry :=
  { e with value := (forcedWord e w).1, wtime := t, state := entState (forcedWord e w).2 (entConst e) true (entWcnt e + 1) }

/-- What a refused word does beside the forced signal: the other word of a TIME64 pair, the report of an ENUM (R68). -/
def forceRefused (i : Nat) (w : Word) (s : State) : State :=
  let u := if (forcedWord (ent s i) w).2 = qNan ∧ entType (ent s i) = 6 then writeSig (i + 1) 0 qNan (wtimeOf (nowNs s)) s else s
  if (forcedWord (ent s i) w).2 = qNan ∧ entType (ent s i) = 5 then raise 0x0134 (w32 i) w 0 u else u

theorem forceSig_eq (i : Nat) (w : Word) (s : State) :
    forceSig i w s = raise 0x0131 (w32 i) w 0 (setEnt i (forcedEnt (ent s i) w (wtimeOf (nowNs s))) (forceRefused i w s)) := rfl

theorem ent_forceRefused_of_ne {i k : Nat} {w : Word} {s : State} (h : k ≠ i + 1 ∨ entType (ent s i) ≠ 6 ∨ w.toNat ≤ 999999999) :
    ent (forceRefused i w s) k = ent s k := by
  have hpair : ent (if (forcedWord (ent s i) w).2 = qNan ∧ entType (ent s i) = 6 then writeSig (i + 1) 0 qNan (wtimeOf (nowNs s)) s else s) k = ent s k := by
    split
    case isTrue hr =>
      obtain ⟨hq, h6⟩ := hr
      rcases h with hk | h | hw
      · exact ent_writeSig_of_ne hk _ _ _ _
      · exact absurd h6 h
      · rw [forcedWord_time h6 hw] at hq
        exact absurd (show qForced = qNan from hq) (by decide)
    case isFalse => rfl
  unfold forceRefused
  extract_lets u
  split
  · exact (ent_raise _ _ _ _ _ k).trans hpair
  · exact hpair

theorem ent_forceSig_of_ne {i k : Nat} {w : Word} {s : State} (hk : k ≠ i) (h : k ≠ i + 1 ∨ entType (ent s i) ≠ 6 ∨ w.toNat ≤ 999999999) :
    ent (forceSig i w s) k = ent s k := by
  rw [forceSig_eq, ent_raise, ent_setEnt_ne hk, ent_forceRefused_of_ne h]

theorem entHeld_forcedEnt (e : SdirEntry) (w t : Word) : entHeld (forcedEnt e w t) = true := entHeld_of_state rfl

/-- A held entry is not the blank one, so it is listed in the directory's table. -/
theorem ent_forceSig (i : Nat) (w : Word) (s : State) : ent (forceSig i w s) i = forcedEnt (ent s i) w (wtimeOf (nowNs s)) := by
  have hne : forcedEnt (ent s i) w (wtimeOf (nowNs s)) ≠ {} := fun h => absurd (h ▸ entHeld_forcedEnt (ent s i) w (wtimeOf (nowNs s))) (by decide)
  rw [forceSig_eq, ent_raise, ent_setEnt_val hne]

/-- The entry that a release leaves. -/
def releasedEnt (e : SdirEntry) : SdirEntry := { e with state := entState qStale (entConst e) false (entWcnt e) }

theorem releaseSig_of_held {i : Nat} {s : State} (h : entHeld (ent s i) = true) :
    releaseSig i s = raise 0x0132 (w32 i) (ent s i).value 0 (setEnt i (releasedEnt (ent s i)) s) := if_pos h

/-- A declared signal's entry is not the blank one. -/
theorem ent_releaseSig {i : Nat} {s : State} (h : entHeld (ent s i) = true) (ht : entType (ent s i) ≠ 0) :
    ent (releaseSig i s) i = releasedEnt (ent s i) := by
  have hne : releasedEnt (ent s i) ≠ {} := fun hb => ht (congrArg entType hb)
  rw [releaseSig_of_held h, ent_raise, ent_setEnt_val hne]

theorem ent_releaseSig_of_ne {i k : Nat} (hk : k ≠ i) {s : State} (h : entHeld (ent s i) = true) : ent (releaseSig i s) k = ent s k := by
  rw [releaseSig_of_held h, ent_raise, ent_setEnt_ne hk]

theorem forceSig_facts (i : Nat) (w : Word) (s : State) :
    sigW (forceSig i w s) i = (forcedWord (ent s i) w).1 ∧ sigQ (forceSig i w s) i = (forcedWord (ent s i) w).2
      ∧ entHeld (ent (forceSig i w s) i) = true ∧ entWcnt (ent (forceSig i w s) i) = (entWcnt (ent s i) + 1) % 256 := by
  unfold sigW sigQ
  rw [ent_forceSig]
  exact ⟨rfl, entQual_of_state rfl, entHeld_forcedEnt _ _ _, entWcnt_of_state rfl⟩

theorem releaseSig_facts {i : Nat} {s : State} (h : entHeld (ent s i) = true) (ht : entType (ent s i) ≠ 0) :
    sigW (releaseSig i s) i = sigW s i ∧ sigQ (releaseSig i s) i = qStale ∧ entHeld (ent (releaseSig i s) i) = false
      ∧ entWcnt (ent (releaseSig i s) i) = entWcnt (ent s i) := by
  unfold sigW sigQ
  rw [ent_releaseSig h ht]
  exact ⟨rfl, entQual_of_state rfl, entHeld_of_state rfl, (entWcnt_of_state rfl).trans (Nat.mod_eq_of_lt (entWcnt_lt _))⟩

/-- Settles O36: the entries that a force and a release leave, their frames, and the write of a held signal. -/
theorem forceHoldsTheSignal : Obligations.ForceHoldsTheSignal := by
  intro i w s _
  obtain ⟨hw, hq, hheld, hcnt⟩ := forceSig_facts i w s
  refine ⟨⟨fun _ hk h => ent_forceSig_of_ne hk h, hw, hq, hheld, fun h4 h5 h6 => forcedWord_plain h4 h5 h6 w, fun h4 => forcedWord_bool h4 w, hcnt,
    writeSig_of_locked (.inl hheld), _, forceSig_eq i w s⟩, fun h ht => ?_⟩
  obtain ⟨hw, hq, hheld, hcnt⟩ := releaseSig_facts h ht
  exact ⟨fun _ hk => ent_releaseSig_of_ne hk h, hw, hq, hheld, hcnt, _, releaseSig_of_held h⟩

/-! The handlers of the requests, a lemma for each answer. -/

theorem latchFrame_early {s : State} (h : s.seq.tick + 48 ≤ s.hdr.f) : latchFrame s = s.seq.k + 1 := if_pos h

theorem latchFrame_late {s : State} (h : s.hdr.f < s.seq.tick + 48) : latchFrame s = s.seq.k + 2 := if_neg (Nat.not_le.mpr h)

section
variable (mbx : Nat) {i : Nat} {s : State}

theorem forceHandler_undeclared (h : 131072 ≤ i ∨ entType (ent s i) = 0) (w : Word) : forceHandler mbx i w s = completeMbx mbx rcRange s := if_pos h

theorem releaseHandler_undeclared (h : 131072 ≤ i ∨ entType (ent s i) = 0) : releaseHandler mbx i s = completeMbx mbx rcRange s := if_pos h

theorem forceHandler_declared (hi : i < 131072) (ht : entType (ent s i) ≠ 0) (w : Word) : forceHandler mbx i w s
    = if entForceable (ent s i) = false then completeMbx mbx rcDenied s
      else completeMbx mbx rcDone { s with forces := s.forces ++ [{ sig := i, val := some w, due := latchFrame s }] } :=
  if_neg (not_or.mpr ⟨Nat.not_le.mpr hi, ht⟩)

theorem releaseHandler_declared (hi : i < 131072) (ht : entType (ent s i) ≠ 0) : releaseHandler mbx i s
    = if willHold s i = false then completeMbx mbx rcState s
      else completeMbx mbx rcDone { s with forces := s.forces ++ [{ sig := i, val := none, due := latchFrame s }] } :=
  if_neg (not_or.mpr ⟨Nat.not_le.mpr hi, ht⟩)

end

section
variable (mbx : Nat) {eng inst : Nat} {s : State}

theorem funcHandler_range (h : 0x31 ≤ eng ∨ (funcParts eng ≠ 0 ∧ funcParts eng ≤ inst)) (enable : Bool) :
    funcHandler mbx eng inst enable s = completeMbx mbx rcRange s := if_pos h

theorem funcHandler_fixed (he : eng < 0x31) (hp : funcParts eng = 0) (enable : Bool) : funcHandler mbx eng inst enable s = completeMbx mbx rcState s := by
  unfold funcHandler
  rw [if_neg (by omega), if_pos (.inl hp)]

theorem funcHandler_unchanged (he : eng < 0x31) (hi : inst < funcParts eng) {enable : Bool} (h : willOff s eng inst = !enable) :
    funcHandler mbx eng inst enable s = completeMbx mbx rcState s := by
  unfold funcHandler
  rw [if_neg (by omega), if_pos (.inr h)]

theorem funcHandler_latched (he : eng < 0x31) (hi : inst < funcParts eng) {enable : Bool} (h : willOff s eng inst = enable) :
    funcHandler mbx eng inst enable s
      = completeMbx mbx rcDone { s with funcReqs := s.funcReqs ++ [{ eng := funcEng eng, inst := inst, enable := enable, due := latchFrame s }] } := by
  have hn : ¬ (funcParts eng = 0 ∨ willOff s eng inst = !enable) := by
    rintro (hp | hw)
    · omega
    · exact Bool.not_ne_self enable (hw.symm.trans h)
  unfold funcHandler
  rw [if_neg (by omega), if_neg hn]

end

section
variable (mbx : Nat) {s : State}

theorem qpsCapHandler_range {t : Nat} (h : tplCnt s ≤ t) (arm : Bool) : qpsCapHandler mbx t arm s = completeMbx mbx rcRange s := if_pos h

theorem qpsCapHandler_latched {t : Nat} (h : t < tplCnt s) (arm : Bool) : qpsCapHandler mbx t arm s
    = { s with qps := { s.qps with capReqs := s.qps.capReqs ++ [{ tpl := t, arm := arm, due := latchFrame s, mbx := mbx }] } } :=
  if_neg (Nat.not_le.mpr h)

theorem modeReqHandler_latched (h : s.modes.req = none) (x a : Nat) : modeReqHandler mbx x a s
    = { s with modes := { s.modes with req := some { mode := x, action := a, due := latchFrame s, mbx := mbx } } } :=
  if_neg (by simp [h])

theorem modeReqHandler_busy (h : s.modes.req ≠ none) (x a : Nat) : modeReqHandler mbx x a s = completeMbx mbx rcBusy s :=
  if_pos (Option.isSome_iff_ne_none.mpr h)

theorem navExclHandler_range {con prn : Nat} (h : prnRange con prn = false) (excl : Bool) :
    navExclHandler mbx con prn excl s = completeMbx mbx rcRange s :=
  if_pos (by simp [h])

theorem navExclHandler_latched {con prn : Nat} (h : prnRange con prn = true) (excl : Bool) : navExclHandler mbx con prn excl s
    = modNav (fun n => { n with reqs := n.reqs ++ [{ con := con, prn := prn, excl := excl, due := latchFrame s, mbx := mbx }] }) s :=
  if_neg (by simp [h])

end

/-! The commands run their handlers. -/

section
variable (m : BitVec 4) (s : State)

theorem exec_force (g v : BitVec 32) : exec (.force m g v) s = .next (forceHandler m.toNat g.toNat v s) := rfl

theorem exec_signalRelease (g : BitVec 32) : exec (.signalRelease m g) s = .next (releaseHandler m.toNat g.toNat s) := rfl

theorem exec_funcDisable (e : BitVec 8) (i : BitVec 16) : exec (.funcDisable m e i) s = .next (funcHandler m.toNat e.toNat i.toNat false s) := rfl

theorem exec_funcEnable (e : BitVec 8) (i : BitVec 16) : exec (.funcEnable m e i) s = .next (funcHandler m.toNat e.toNat i.toNat true s) := rfl

theorem exec_qpsCaptureArm (t : BitVec 8) : exec (.qpsCaptureArm m t) s = .next (qpsCapHandler m.toNat t.toNat true s) := rfl

theorem exec_qpsCaptureDisarm (t : BitVec 8) : exec (.qpsCaptureDisarm m t) s = .next (qpsCapHandler m.toNat t.toNat false s) := rfl

theorem exec_navExclude (con prn : BitVec 8) : exec (.navExclude m con prn) s = .next (navExclHandler m.toNat con.toNat prn.toNat true s) := rfl

theorem exec_navInclude (con prn : BitVec 8) : exec (.navInclude m con prn) s = .next (navExclHandler m.toNat con.toNat prn.toNat false s) := rfl

/-- The four mode requests, each with its action code (R236). -/
def modeRequests (x : BitVec 8) : List (Instr × Nat) :=
  [(.modeReqArm m x, 1), (.modeReqSwitch m x, 2), (.modeReqDisarm m x, 3), (.modeReqDirect m x, 4)]

theorem exec_modeRequests (x : BitVec 8) : ∀ p ∈ modeRequests m x, exec p.1 s = .next (modeReqHandler m.toNat x.toNat p.2 s) :=
  List.forall_mem_cons.mpr ⟨rfl, List.forall_mem_cons.mpr ⟨rfl, List.forall_mem_cons.mpr ⟨rfl, List.forall_mem_singleton.mpr rfl⟩⟩⟩

end

/-- Settles O37: each command by the answer of its handler. -/
theorem requestsLatchForTheBoundary : Obligations.RequestsLatchForTheBoundary := by
  intro m s
  refine ⟨⟨latchFrame_early, latchFrame_late⟩, fun g v => ?_, fun e i => ?_, fun t => ?_, fun x p hp => ?_, fun con prn => ?_⟩
  · rw [exec_force, exec_signalRelease]
    refine ⟨fun h => ?_, fun hg ht => ?_⟩
    · rw [forceHandler_undeclared _ h, releaseHandler_undeclared _ h]
      exact ⟨rfl, rfl⟩
    · rw [forceHandler_declared _ hg ht, releaseHandler_declared _ hg ht]
      exact ⟨fun h => by simp [h], fun h => by simp [h], fun h => by simp [h], fun h => by simp [h]⟩
  · rw [exec_funcDisable, exec_funcEnable]
    refine ⟨fun h => ?_, fun he hp => ?_, fun he hi => ⟨fun h => ?_, fun h => ?_⟩⟩
    · rw [funcHandler_range _ h, funcHandler_range _ h]
      exact ⟨rfl, rfl⟩
    · rw [funcHandler_fixed _ he hp, funcHandler_fixed _ he hp]
      exact ⟨rfl, rfl⟩
    · rw [funcHandler_latched _ he hi h, funcHandler_unchanged _ he hi h]
      exact ⟨rfl, rfl⟩
    · rw [funcHandler_latched _ he hi h, funcHandler_unchanged _ he hi h]
      exact ⟨rfl, rfl⟩
  · rw [exec_qpsCaptureArm, exec_qpsCaptureDisarm]
    refine ⟨fun h => ?_, fun h => ?_⟩
    · rw [qpsCapHandler_latched _ h, qpsCapHandler_latched _ h]
      exact ⟨rfl, rfl⟩
    · rw [qpsCapHandler_range _ h, qpsCapHandler_range _ h]
      exact ⟨rfl, rfl⟩
  · rw [exec_modeRequests m s x p hp]
    exact ⟨fun h => congrArg Host.Outcome.next (modeReqHandler_latched _ h _ _), fun h => congrArg Host.Outcome.next (modeReqHandler_busy _ h _ _)⟩
  · rw [exec_navExclude, exec_navInclude]
    refine ⟨fun h => ?_, fun h => ?_⟩
    · rw [navExclHandler_latched _ h, navExclHandler_latched _ h]
      exact ⟨rfl, rfl⟩
    · rw [navExclHandler_range _ h, navExclHandler_range _ h]
      exact ⟨rfl, rfl⟩

end Sys2Proof.Machine
end


section
/-! The fields of the log memory, the calendar and the directory's identity under a frame that does not name them. -/

namespace Sys2Proof.Machine

section
variable {l : List Part} {s t : State}

theorem Only.logMem (h : Only l s t) (hl : l.contains Part.logMem = false) : t.logMem = s.logMem := h .logMem (by simpa using hl)
theorem Only.cal (h : Only l s t) (hl : l.contains Part.cal = false) : t.cal = s.cal := h .cal (by simpa using hl)
theorem Only.dirid (h : Only l s t) (hl : l.contains Part.dirid = false) : t.dirid = s.dirid := h .dirid (by simpa using hl)

end

end Sys2Proof.Machine
end

section
/-! The byte stores keep their canonical form (R96, R112, R290, R469). -/

namespace Sys2Proof.Machine

/-- None of the three byte stores is among the parts. -/
def noStore (l : List Part) : Bool := !l.contains .flash && !l.contains .sram && !l.contains .logMem

/-- Every next state of an outcome has its stores in canonical form. -/
def StoresNext (r : Res) : Prop := ∀ t, r = .next t → StoresWf t

theorem StoresNext.next {t : State} (h : StoresWf t) : StoresNext (.next t) := by
  rintro _ ⟨⟩
  exact h

theorem StoresNext.ite {c : Prop} [Decidable c] {a b : Res} (ha : StoresNext a) (hb : StoresNext b) : StoresNext (if c then a else b) := by
  split
  · exact ha
  · exact hb

theorem StoresWf.ite {c : Prop} [Decidable c] {s t : State} (hs : StoresWf s) (ht : StoresWf t) : StoresWf (if c then s else t) := by
  split
  · exact hs
  · exact ht

theorem StoresWf.congr {s t : State} (h : StoresWf s) (hf : t.flash = s.flash) (hs : t.sram = s.sram) (hl : t.logMem = s.logMem) : StoresWf t := by
  unfold StoresWf
  rwa [hf, hs, hl]

/-- A change of other parts keeps the stores. -/
theorem StoresWf.only {l : List Part} {s t : State} (h : StoresWf s) (ho : Only l s t) (hl : noStore l = true) : StoresWf t := by
  simp only [noStore, Bool.and_eq_true, Bool.not_eq_true'] at hl
  obtain ⟨⟨hf, hs⟩, hm⟩ := hl
  exact h.congr (ho.flash hf) (ho.sram hs) (ho.logMem hm)

theorem StoresWf.foldl {α : Type} {f : State → α → State} {s : State} (l : List α) (hf : ∀ u x, StoresWf u → StoresWf (f u x)) (h : StoresWf s) :
    StoresWf (l.foldl f s) := by
  induction l generalizing s with
  | nil => exact h
  | cons x l ih => exact ih (hf s x h)

/-! The ways a store is written. -/

theorem StoresWf.setFlash {m : Mem} (hm : Memory.wf flashBlank m = true) {s : State} (h : StoresWf s) : StoresWf { s with flash := m } := by
  obtain ⟨-, hs, hl⟩ := h
  exact ⟨hm, hs, hl⟩

theorem StoresWf.putSram (a : Nat) (l : List Byte) {s : State} (h : StoresWf s) : StoresWf { s with sram := memPut 0 s.sram a l } := by
  obtain ⟨hf, hs, hl⟩ := h
  exact ⟨hf, Memory.wf_put 0 l _ a hs, hl⟩

theorem StoresWf.putLog (a : Nat) (l : List Byte) {s : State} (h : StoresWf s) : StoresWf { s with logMem := memPut logBlank s.logMem a l } := by
  obtain ⟨hf, hs, hl⟩ := h
  exact ⟨hf, hs, Memory.wf_put logBlank l _ a hl⟩

theorem StoresWf.wipeSram {s : State} (h : StoresWf s) : StoresWf { s with sram := [] } := by
  obtain ⟨hf, -, hl⟩ := h
  exact ⟨hf, rfl, hl⟩

theorem flashProgram_wf (a : Nat) (l : List Byte) {s : State} (h : StoresWf s) : Memory.wf flashBlank (flashProgram s a l) = true :=
  Memory.wf_put flashBlank _ _ a h.1

/-! The state records and the capture of the loop control engine. -/

theorem putLceRec_stores (c : Nat) (ws : List Word) {s : State} (h : StoresWf s) : StoresWf (putLceRec c ws s) := h.putSram _ _

theorem putLceVals_stores (c : Nat) (v : LceVals) {s : State} (h : StoresWf s) : StoresWf (putLceVals c v s) := putLceRec_stores c _ h

theorem captureSample_stores (c : Nat) (ws : List Word) {s : State} (h : StoresWf s) : StoresWf (captureSample c ws s) := by
  unfold captureSample
  extract_lets l base u n t0 v
  have hv : StoresWf v := (h.putSram _ _).only (modLce_only _ u) rfl
  exact .ite h (.ite (h.only (modLce_only _ s) rfl) (.ite ((hv.only (modLce_only _ v) rfl).only (raise_only _ _ _ _ _) rfl) hv))

theorem lcePrepare_stores (c : Nat) {s : State} (h : StoresWf s) : StoresWf (lcePrepare c s) := by
  unfold lcePrepare
  extract_lets u x v
  have hu : StoresWf u := by
    unfold u
    split
    · exact h
    · exact (putLceVals_stores c _ h).only (modLce_only _ _) rfl
  have hx : StoresWf x.2 := hu.only (eqTake_only _ _ u) rfl
  have hv : StoresWf v := by
    unfold v
    split
    · exact putLceRec_stores c _ hx
    · exact hx
  exact .ite (putLceVals_stores c _ (hv.only (modLce_only _ v) rfl)) hv

theorem lceApplyMode_stores (c : Nat) (auto : Bool) (mv : Option Word) {s : State} (h : StoresWf s) : StoresWf (lceApplyMode c auto mv s) :=
  .ite ((putLceVals_stores c _ h).only (raise_only _ _ _ _ _) rfl) (putLceVals_stores c _ h)

theorem lceApplyBank_stores (mbx c : Nat) (b : Bool) {s : State} (h : StoresWf s) : StoresWf (lceApplyBank mbx c b s) := by
  unfold lceApplyBank
  extract_lets v
  split
  · exact h.only (lceFinish_only _ _ _ _ s) rfl
  · exact ((putLceVals_stores c _ h).only (raise_only _ _ _ _ _) rfl).only (lceFinish_only _ _ _ _ _) rfl

theorem lceApply_stores (c : Nat) (p : LcePend) {s : State} (h : StoresWf s) : StoresWf (lceApply c p s).1 := by
  unfold lceApply
  split
  · exact (lceApplyMode_stores c _ _ h).only (lceFinish_only _ _ _ _ _) rfl
  · exact lceApplyBank_stores _ c _ h
  · exact h.only (lceApplyStart_only _ _ _ s) rfl
  · exact h.only (lceFinish_only _ _ _ _ s) rfl
  · exact (h.only (lceArm_only _ _ s) rfl).only (lceFinish_only _ _ _ _ _) rfl
  · exact (h.only (modLce_only _ s) rfl).only (lceFinish_only _ _ _ _ _) rfl
  · exact h

theorem lceCommands_stores (c : Nat) {s : State} (h : StoresWf s) : StoresWf (lceCommands c s).1 := by
  unfold lceCommands
  extract_lets isPage mine now
  exact List.foldlRecOn (motive := fun a : State × Bool => StoresWf a.1) now _ (h.only (modLce_only _ s) rfl) (fun a ha p _ => lceApply_stores c p ha)

theorem lceHold_stores (c inp : Nat) (q q12 : Qual) (v : LceVals) (sel : Nat) (lost : Bool) (flags : Nat) (t : Word) {s : State} (h : StoresWf s) :
    StoresWf (lceHold c inp q q12 v sel lost flags t s).1 := by
  unfold lceHold
  extract_lets auto b eu n lo hi du past u fail s1 s2 st v' o s3 x
  have h1 : StoresWf s1 := .ite (h.only (raise_only _ _ _ _ s) rfl) h
  have h2 : StoresWf s2 := .ite (h1.only (raise_only _ _ _ _ s1) rfl) h1
  have h3 : StoresWf s3 := putLceVals_stores c v' h2
  exact (((h3.only (writeSig_only _ _ _ _ s3) rfl).only (rewriteSig_only _ _ _ _) rfl).only (rewriteSig_only _ _ _ _) rfl).only (writeSig_only _ _ _ _ _) rfl

theorem lceSample_stores (c : Nat) (stop : Bool) {s : State} (h : StoresWf s) : StoresWf (lceSample c stop s) := by
  unfold lceSample
  extract_lets +onlyGivenNames v auto b er eu t j mine why on m atSp dv dSp dOut sl s1 rin y ff f lim q12 cross recov v0 res yw
  have h1 : StoresWf s1 := .ite (h.only (raise_only _ _ _ _ s) rfl) h
  clear_value s1 res
  split
  · extract_lets l hold s2
    have hh : StoresWf hold.1 := lceHold_stores c _ _ _ _ _ _ _ _ h1
    have h2 : StoresWf s2 := .ite (hh.only (injEnd_only _ _) rfl) hh
    exact captureSample_stores c _ h2
  · extract_lets st v1 s2 trQ q0 o s3 rw' s4 s5 s6
    have h2 : StoresWf s2 := .ite (h1.only (raise_only _ _ _ _ s1) rfl) h1
    have h4 : StoresWf s4 := (putLceVals_stores c v1 h2).only (writeList_only _ _ _ _) rfl
    have h5 : StoresWf s5 := .ite (h4.only (raise_only _ _ _ _ s4) rfl) h4
    have h6 : StoresWf s6 := .ite (h5.only (modLce_only _ s5) rfl) (.ite (h5.only (injEnd_only _ s5) rfl) h5)
    exact captureSample_stores c _ h6

theorem lceStepEffect_stores (c : Nat) {s : State} (h : StoresWf s) : StoresWf (lceStepEffect c s) :=
  lceSample_stores c _ (lceCommands_stores c (lcePrepare_stores c h))

/-! The recorder's log, and resets. -/

theorem writeOldest_stores {s : State} (h : StoresWf s) : StoresWf (writeOldest s) := by
  unfold writeOldest
  split
  · exact h
  · exact (h.putLog _ _).only (modRecd_only _ _) rfl

theorem writeStaged_stores (n : Nat) {s : State} (h : StoresWf s) : StoresWf (writeStaged n s) := by
  induction n generalizing s with
  | zero => exact h
  | succ n ih => exact ih (writeOldest_stores h)

theorem flushNow_stores {s : State} (h : StoresWf s) : StoresWf (flushNow s) :=
  .ite h (.ite (writeStaged_stores _ h) (writeStaged_stores _ (h.congr rfl rfl rfl)))

theorem tearLog_stores {s : State} (h : StoresWf s) : StoresWf (tearLog s) := by
  unfold tearLog
  split
  · exact h
  · exact .ite ((h.putLog _ _).congr rfl rfl rfl) (h.congr rfl rfl rfl)

theorem enterReset_stores (kind : ResetKind) (lct pfail : Bool) {s : State} (h : StoresWf s) : StoresWf (enterReset kind lct pfail s) := by
  refine .ite ?_ ?_
  · extract_lets b t u
    have ht : StoresWf t := h.congr rfl rfl rfl
    have hu : StoresWf u := tearLog_stores ht
    exact .ite (hu.congr rfl rfl rfl) (.ite (ht.congr rfl rfl rfl) ht)
  · extract_lets old t
    have ha : StoresWf { s with aon := aonReset kind lct pfail s.aon } := h.congr rfl rfl rfl
    have ht : StoresWf t := ((StoresWf.ite (tearLog_stores ha) ha).only (tearFuses_only _) rfl).congr rfl rfl rfl
    exact ht.only (raise_only _ _ _ _ t) rfl

theorem cmdReceived_stores (k : Nat) (c : LeashCmd) {s : State} (h : StoresWf s) : StoresWf (cmdReceived k c s) := by
  refine .ite h ?_
  split
  · exact h.only (resetRefused_only _ s) rfl
  · exact h.only (resetRefused_only _ s) rfl
  · have hl := h.only (modLink_only k (fun l => { l with cmdIn := some c.sender.toNat }) s) rfl
    exact .ite (enterReset_stores _ _ _ hl) hl
  · exact enterReset_stores _ _ _ h

/-! The CHART-UPDATE handler, and the mailboxes that reach it. -/

theorem chartErase_stores (mbx : Nat) (t : Bool) {s : State} (h : StoresWf s) : StoresWf (chartErase mbx t s) := by
  have he : StoresWf { s with flash := memClear s.flash (copyBase t) 0x02000000, boot := { s.boot with hdrStage := [] } } :=
    (h.setFlash (Memory.wf_clear flashBlank _ _ _ h.1)).congr rfl rfl rfl
  exact .ite (h.only (decideMbx_only _ _ s) rfl) (he.only (decideMbx_only _ _ _) rfl)

theorem chartWrite_stores (mbx : Nat) (t : Bool) (off len : Nat) (data : List Byte) {s : State} (h : StoresWf s) :
    StoresWf (chartWrite mbx t off len data s) := by
  refine .ite (h.only (decideMbx_only _ _ s) rfl) (.ite (h.only (decideMbx_only _ _ s) rfl) ?_)
  extract_lets d hd b u a f v
  have hu : StoresWf u := h.congr rfl rfl rfl
  have hv : StoresWf v := hu.setFlash (flashProgram_wf a f hu)
  exact hv.only (decideMbx_only _ _ v) rfl

theorem chartCommit_stores (mbx : Nat) (t : Bool) {s : State} (h : StoresWf s) : StoresWf (chartCommit mbx t s) := by
  refine .ite (h.only (decideMbx_only _ _ s) rfl) ?_
  split
  · exact h.only (decideMbx_only _ _ s) rfl
  · exact (h.setFlash (flashProgram_wf _ _ h)).only (decideMbx_only _ _ _) rfl

theorem guarded_stores (n : Nat) (ok : Bool) {f : State → State} {s : State} (h : StoresWf s) {l : List Part} (hf : Only l s (f s))
    (hl : noStore l = true) : StoresWf (guarded n ok f s) :=
  .ite (h.only hf hl) (h.only (completeMbx_only _ _ s) rfl)

theorem guardedUpd_stores (n : Nat) (m : Mbx) {f : State → State} {s : State} (h : StoresWf s) (hf : StoresWf (f s)) :
    StoresWf (takeCommand.guardedUpd n m f s) :=
  .ite hf (h.only (decideMbx_only _ _ s) rfl)

theorem takeCommand_stores (n : Nat) {s : State} (h : StoresWf s) : StoresWf (takeCommand n s) := by
  unfold takeCommand
  extract_lets m b z w bytes z2
  split
  · exact guarded_stores _ _ h (forceHandler_only _ _ _ s) rfl
  · exact guarded_stores _ _ h (releaseHandler_only _ _ s) rfl
  · exact guarded_stores _ _ h (funcHandler_only _ _ _ _ s) rfl
  · exact guardedUpd_stores _ _ h (chartErase_stores _ _ h)
  · exact guardedUpd_stores _ _ h (chartWrite_stores _ _ _ _ _ h)
  · exact guardedUpd_stores _ _ h (chartCommit_stores _ _ h)
  · exact guardedUpd_stores _ _ h (h.only (chartStatus_only _ _ s) rfl)
  · exact guarded_stores _ _ h (reanchorHandler_only _ _ s) rfl
  · exact guarded_stores _ _ h (navExclHandler_only _ _ _ _ s) rfl
  · exact guarded_stores _ _ h (qpsCapHandler_only _ _ _ s) rfl
  · exact guarded_stores _ _ h (modeReqHandler_only _ _ _ s) rfl
  · exact guarded_stores _ _ h (lceHandler_only _ _ _ _ s) rfl
  · exact guarded_stores _ _ h (lceHandler_only _ _ _ _ s) rfl
  · exact guarded_stores _ _ h (lceHandler_only _ _ _ _ s) rfl
  · exact guarded_stores _ _ h (lceHandler_only _ _ _ _ s) rfl
  · exact guarded_stores _ _ h (loopClearHandler_only _ _ s) rfl
  · exact guarded_stores _ _ h (hartPassHandler_only _ _ _ _ _ _ s) rfl
  · exact guarded_stores _ _ h (roleSwapHandler_only _ s) rfl
  · exact guarded_stores _ _ h (packDuplexHandler_only _ _ s) rfl
  · exact guarded_stores _ _ h (partnerResetHandler_only _ _ s) rfl
  · exact guarded_stores _ _ h (timeSetHandler_only _ _ _ s) rfl
  · exact guarded_stores _ _ h (canViewHandler_only _ _ _ s) rfl
  · exact guarded_stores _ _ h (tokenLoadHandler_only _ _ _ _ s) rfl
  · exact guarded_stores _ _ h (tokenApplyHandler_only _ s) rfl
  · exact guarded_stores _ _ h (tokenClearHandler_only _ s) rfl
  · exact guarded_stores _ _ h (holdHandler_only _ _ s) rfl
  · exact guarded_stores _ _ h (holdHandler_only _ _ s) rfl
  · exact guarded_stores _ _ h (sleepHandler_only _ _ _ _ _ s) rfl
  · exact h.only (completeMbx_only _ _ s) rfl

theorem latchCommand_stores (n : Nat) {s : State} (h : StoresWf s) : StoresWf (latchCommand n s) := by
  unfold latchCommand
  extract_lets m g bind t
  refine .ite h ?_
  have ht : StoresWf t := h.only (setMbx_only _ _ s) rfl
  exact .ite (ht.only (completeMbx_only _ _ t) rfl) (.ite (ht.only (completeMbx_only _ _ t) rfl)
    (.ite (ht.only (completeMbx_only _ _ t) rfl) (takeCommand_stores n ht)))

/-! Loading, and the frame boundary. -/

theorem loadSection_stores (x : ISect) (b : List Byte) {s : State} (h : StoresWf s) : StoresWf (loadSection x b s) :=
  .ite h (.ite (h.congr rfl rfl rfl) (h.putSram _ _))

theorem streamCopy_stores (m : Img) {s : State} (h : StoresWf s) : StoresWf (streamCopy m s) := by
  refine .ite h ?_
  extract_lets u
  have hu : StoresWf u := by
    unfold u
    split
    · exact h.foldl _ (fun w x hw => .ite (loadSection_stores _ _ hw) hw)
    · exact h
  exact hu.congr rfl rfl rfl

theorem putPiece_stores (p : Piece) {s : State} (h : StoresWf s) : StoresWf (putPiece s p) := by
  cases p with
  | bytes a l => exact h.putSram a l
  | _ => exact h.congr rfl rfl rfl

theorem dropHanded_stores {s : State} (h : StoresWf s) : StoresWf (dropHanded s) := by
  refine .ite h ?_
  extract_lets u
  have hu : StoresWf u := h.foldl _ (fun w x hw => putPiece_stores x.piece hw)
  exact hu.congr rfl rfl rfl

theorem frameHooks_stores {s : State} (h : StoresWf s) : StoresWf (frameHooks s) := by
  unfold frameHooks
  extract_lets u v
  have hf := (dropHanded_stores h).only (funcBoundary_only _) rfl
  have hu : StoresWf u := ((hf.only (forceBoundary_only _) rfl).only (haltBoundary_only _) rfl).only (holdBoundary_only _) rfl
  have hs := (hu.only (barkReasons_only _) rfl).only (stateBoundary_only _) rfl
  have hv : StoresWf v := ((hs.only (eqLose_only _) rfl).only (eqGain_only _) rfl).only (sleepBoundary_only _) rfl
  split
  · have hq := (hv.only (canBoundary_only _) rfl).only (qpsBoundary_only _) rfl
    have hl := ((hq.only (navBoundary_only _) rfl).only (lceBoundary_only _) rfl).only (aljBoundary_only _) rfl
    exact hl.only (gpioFrame_only _) rfl
  · exact hv.only (outRefresh_only _) rfl

/-! The commands that write a store. -/

theorem issue_stores (eng inst : Nat) (op : Word) {f : State → State} {s : State} (h : StoresWf s) (hf : StoresWf (f s)) :
    StoresNext (issue eng inst op f s) := by
  have hd {u : State} (hu : StoresWf u) : StoresWf (dropLane u) := hu.only (dropLane_only u) rfl
  refine .ite (.next h) (.ite (.next (hd h)) ?_)
  split
  · exact .ite (.next (hd (h.only (breach_only _ _ _) rfl))) (.next (hd hf))
  · exact .next (hd hf)

theorem execLceStep_stores (c : BitVec 8) {s : State} (h : StoresWf s) : StoresNext (execLceStep c s) :=
  issue_stores _ _ _ h (.ite (h.only (breach_only _ _ s) rfl) (lceStepEffect_stores _ h))

theorem execMbxServe_stores (n : BitVec 4) {s : State} (h : StoresWf s) : StoresNext (execMbxServe n s) := by
  unfold execMbxServe
  extract_lets w
  refine issue_stores _ _ _ h ?_
  extract_lets m t
  refine .ite (h.only (breach_only _ _ _) rfl) (.ite ?_ (latchCommand_stores _ h))
  have ht : StoresWf t := h.only (setMbx_only _ _ s) rfl
  exact .ite ht (ht.only (raise_only _ _ _ _ t) rfl)

theorem execLcTransition_stores (stuck : BitVec 4) {s : State} (h : StoresWf s) : StoresNext (execLcTransition stuck s) := by
  unfold execLcTransition
  split
  case h_1 => exact .next h
  case h_2 r =>
    extract_lets u old want c v w x
    have hv : StoresWf v := (flushNow_stores h).congr rfl rfl rfl
    have hx : StoresWf x := enterReset_stores _ _ _ (flushNow_stores (hv.only (raise_only _ _ _ _ v) rfl))
    exact .next (hx.congr rfl rfl rfl)

theorem execContractReset_stores {s : State} (h : StoresWf s) : StoresNext (execContractReset s) := by
  refine .ite (.next h) ?_
  extract_lets t
  have ht : StoresWf t := h.only (elapseTo_only _ s) rfl
  exact .ite (.next ((ht.only (enterFault_only _ t) rfl).only (outRefresh_only _) rfl)) (.next (enterReset_stores _ _ _ ht))

theorem execFrameBoundary_stores (alj : BitVec 4) {s : State} (h : StoresWf s) : StoresNext (execFrameBoundary alj s) := by
  refine .ite (.next h) ?_
  extract_lets t p q u
  have hu : StoresWf u := (h.only (toTick_only _ s) rfl).congr rfl rfl rfl
  exact .next (frameHooks_stores ((hu.only (beginList_only _ _ u) rfl).only (gatingEnds_only _) rfl))

theorem execScheduleStart_stores {s : State} (h : StoresWf s) : StoresNext (execScheduleStart s) := by
  refine .ite (.next h) ?_
  extract_lets k t q u v w x
  have hu : StoresWf u := (h.only (elapse_only _ s) rfl : StoresWf t).congr rfl rfl rfl
  have hv : StoresWf v := (hu.only (fetchClass_only u _) rfl).only (freshBarks_only _) rfl
  have hw : StoresWf w := hv.only (beginList_only _ _ v) rfl
  have hx : StoresWf x := ((hw.only (clearReason_only _ w) rfl).only (clearReason_only _ _) rfl).only (enterStandby_only _) rfl
  exact .next (frameHooks_stores ((hx.only (lceStart_only x) rfl).only (ttuAutoArm_only _) rfl))

theorem execZeroiserComplete_stores (fail : Option (BitVec 4 × BitVec 28)) {s : State} (h : StoresWf s) : StoresNext (execZeroiserComplete fail s) := by
  refine .ite (.next h) ?_
  extract_lets t u v w
  have hu : StoresWf u := (h.only (elapseTo_only _ s) rfl).wipeSram.congr rfl rfl rfl
  have hv : StoresWf v := (StoresWf.ite (hu.only (wipeRecorder_only u) rfl) hu).only (newNonce_only _) rfl
  have hw : StoresWf w := hv.only (modBoot_only _ v) rfl
  split
  · exact .next (((hw.only (modBoot_only _ w) rfl).only (raise_only _ _ _ _ _) rfl).only (enterFault_only _ _) rfl)
  · exact .next (hw.only (setDev_only _ w) rfl)

theorem execChartCopyStreamed_stores (ticks : Nat) {s : State} (h : StoresWf s) : StoresNext (execChartCopyStreamed ticks s) := by
  refine .ite (.next h) ?_
  extract_lets copy m t
  have ht : StoresWf t := streamCopy_stores m (h.only (elapse_only _ s) rfl)
  exact .next ((ht.only (modBoot_only _ t) rfl).only (setDev_only _ _) rfl)

/-- The commands that write a store, each by its lemma; of the others the frame names no store. -/
theorem exec_stores (c : Instr) {s : State} (h : StoresWf s) : StoresNext (exec c s) := by
  cases c with
  | porAssert => exact .next (enterReset_stores _ _ _ (h.congr rfl rfl rfl))
  | resetNLow => exact .next (enterReset_stores _ _ _ (h.congr rfl rfl rfl))
  | pfailNLow => exact .next (enterReset_stores _ _ _ (h.congr rfl rfl rfl))
  | zeroiserComplete fail => exact execZeroiserComplete_stores fail h
  | chartCopyStreamed ticks => exact execChartCopyStreamed_stores ticks h
  | scheduleStart => exact execScheduleStart_stores h
  | contractReset => exact execContractReset_stores h
  | frameBoundary alj => exact execFrameBoundary_stores alj h
  | lceStep c => exact execLceStep_stores c h
  | leashCmdReceived link ok cmd =>
    exact .ite (.next h) (.ite (.next (cmdReceived_stores _ _ h)) (.next (h.only (crcFailed_only _ s) rfl)))
  | recRecordWrite => exact .ite (.next (writeOldest_stores h)) (.next h)
  | mbxServe n => exact execMbxServe_stores n h
  | standaloneServerLatch n => exact .next (.ite (latchCommand_stores _ h) h)
  | lcTransition stuck => exact execLcTransition_stores stuck h
  | chartErase m t => exact .next (.ite (chartErase_stores _ t h) h)
  | chartWrite m t off len d => exact .next (.ite (chartWrite_stores _ t _ _ _ h) h)
  | chartCommit m t => exact .next (.ite (chartCommit_stores _ t h) h)
  | _ => exact fun t ht => h.only (exec_only _ s t ht) rfl

/-- Settles O10: every write of a store is a run of bytes put, a region cleared or a wipe, each of which keeps the canonical form. -/
theorem storesStayCanonical : Obligations.StoresStayCanonical := by
  intro s t h hs
  unfold step at hs
  split at hs
  · next c rest _ => exact exec_stores c (s := { s with pending := rest }) (h.congr rfl rfl rfl) t hs
  · cases hs
    exact h.only (idle_only s) rfl

end Sys2Proof.Machine
end

section
/-! Reset and the requests for it (R87, R90 to R95, R570). -/

namespace Sys2Proof.Machine

/-! The reset state. -/

theorem roundEven_zero : roundEven 0 = 0 := by
  have hf : (0 : Rat).floor = 0 := Rat.floor_intCast 0
  norm_num [roundEven, hf]

/-- Right after reset each listed register reads as listed. -/
def HoldsAtReset (l : List (Nat × Nat)) : Prop := ∀ p ∈ l, regWord State.reset .hsp p.1 = some (w32 p.2)

theorem HoldsAtReset.append {l m : List (Nat × Nat)} (hl : HoldsAtReset l) (hm : HoldsAtReset m) : HoldsAtReset (l ++ m) :=
  List.forall_mem_append.mpr ⟨hl, hm⟩

theorem HoldsAtReset.of_decide {l : List (Nat × Nat)} (h : (l.all fun p => regWord State.reset .hsp p.1 == some (w32 p.2)) = true) : HoldsAtReset l := by
  simpa [HoldsAtReset] using h

/-! Four registers show a rounded rational, which a closed evaluation does not reach: the servo rate, the two peer delays, the hand-over share. -/

theorem ptcRate_at_reset : regWord State.reset .hsp 0x30014 = some (i32 (roundEven 0)) := rfl

theorem ptpDelays_at_reset : regWord State.reset .hsp 0x30030 = some (w32 (0 + twos 24 (roundEven 0)))
    ∧ regWord State.reset .hsp 0x30034 = some (w32 (0 + twos 24 (roundEven 0))) := ⟨rfl, rfl⟩

theorem modeState_at_reset : regWord State.reset .hsp 0x40400 = some (w32 (65536 * ((i32 (roundEven (0 * 4096))).toNat % 8192))) := rfl

theorem resetValuesPtcTtu_hold : HoldsAtReset resetValuesPtcTtu := by
  simp only [HoldsAtReset, resetValuesPtcTtu, List.forall_mem_cons, ptcRate_at_reset, ptpDelays_at_reset, roundEven_zero]
  decide

theorem resetValuesModeAllocFlrCa_hold : HoldsAtReset resetValuesModeAllocFlrCa := by
  simp only [HoldsAtReset, resetValuesModeAllocFlrCa, List.forall_mem_cons, modeState_at_reset, zero_mul, roundEven_zero]
  decide

theorem resetValues_hold : HoldsAtReset resetValues := by
  have hsys : HoldsAtReset (resetValuesDev ++ resetValuesSecPwr ++ resetValuesEvtRec ++ resetValuesMbxHspMep) := .of_decide (by decide)
  have hseq : HoldsAtReset resetValuesSeqCckLbuSdir := .of_decide (by decide)
  have hobs : HoldsAtReset resetValuesObsRef := .of_decide (by decide)
  have hpack : HoldsAtReset resetValuesPackLshPsw := .of_decide (by decide)
  have hqps : HoldsAtReset resetValuesQps := .of_decide (by decide)
  have hlce : HoldsAtReset resetValuesLce := .of_decide (by decide)
  have hfce : HoldsAtReset resetValuesFceQdc := .of_decide (by decide)
  have hloop : HoldsAtReset resetValuesLoopLpoLpiHrt := .of_decide (by decide)
  have hnav : HoldsAtReset resetValuesNav := .of_decide (by decide)
  have hport : HoldsAtReset resetValuesCanSerEthGpio := .of_decide (by decide)
  exact ((((((((((hsys.append resetValuesPtcTtu_hold).append hseq).append hobs).append resetValuesModeAllocFlrCa_hold).append hpack).append hqps).append
    hlce).append hfce).append hloop).append hnav).append hport

/-- Settles O6: the fields of the reset state by its definition, the registers list by list. -/
theorem resetLeavesBlockAtRest : Obligations.ResetLeavesBlockAtRest :=
  ⟨⟨rfl, rfl, rfl, rfl, fun _ => ⟨rfl, rfl⟩, rfl, rfl, fun _ => rfl, rfl, rfl, rfl⟩, resetValues_hold⟩

/-- Settles O9: at reset the stores and the lists of functions are empty. -/
theorem invariantsHoldAtReset : Obligations.InvariantsHoldAtReset :=
  ⟨⟨rfl, rfl, rfl⟩, fun _ hr => absurd hr List.not_mem_nil, fun _ hp => absurd hp List.not_mem_nil⟩

/-! A request from another state enters RESET. -/

theorem tearLog_of_empty {s : State} (h : s.recd.staging = []) : tearLog s = s := by
  unfold tearLog
  rw [h]

theorem tearFuses_of_idle {s : State} (h : s.sec.lct = none) : tearFuses s = s := by
  unfold tearFuses
  rw [h]

theorem tearOn_logMem (kind : ResetKind) {s : State} (h : kind ≠ .powerOn ∨ s.recd.staging = []) : (tearOn kind s).logMem = s.logMem := by
  have ht : (if kind = .powerOn then tearLog s else s) = s := by
    split
    case isTrue hk => exact tearLog_of_empty (h.resolve_left (not_not_intro hk))
    case isFalse => rfl
  unfold tearOn
  rw [ht, (tearFuses_only s).logMem rfl]

theorem tearOn_fuses (kind : ResetKind) {s : State} (h : s.sec.lct = none) : (tearOn kind s).fuses = s.fuses := by
  have ho : Only [.logMem, .draws] s (if kind = .powerOn then tearLog s else s) := .ite (tearLog_only s) (.refl _ s)
  unfold tearOn
  rw [tearFuses_of_idle ((congrArg Sec.lct (ho.sec rfl)).trans h), ho.fuses rfl]

/-- The state that a reset request enters from another state. -/
def resetEntered (kind : ResetKind) (pf : Bool) (p : Pins) (s : State) : State :=
  raise 0x0141 (w32 (devCode s.boot.dev)) 1 0x20 (resetState kind (tearOn kind { s with pins := p, aon := aonReset kind false pf s.aon }))

theorem enterReset_of_ne (kind : ResetKind) (pf : Bool) (p : Pins) {s : State} (h : s.boot.dev ≠ .reset) :
    enterReset kind false pf { s with pins := p } = resetEntered kind pf p s := if_neg h

theorem resetEntered_facts (kind : ResetKind) (pf : Bool) (p : Pins) (s : State) :
    let t := resetEntered kind pf p s
    t.boot.dev = .reset ∧ t.boot.sealed = false ∧ t.seq.run = false ∧ t.pins = p
      ∧ t.aon.kind = kindCode kind ∧ t.aon.prevKind = s.aon.kind ∧ t.aon.pfail = pf
      ∧ t.aon.count = (if s.aon.count = 0xFFFF#16 then s.aon.count else s.aon.count + 1)
      ∧ t.flash = s.flash ∧ t.sram = s.sram ∧ (kind ≠ .powerOn ∨ s.recd.staging = [] → t.logMem = s.logMem) ∧ (s.sec.lct = none → t.fuses = s.fuses)
      ∧ t.cclk = s.cclk ∧ t.cal = s.cal := by
  intro t
  let u : State := { s with pins := p, aon := aonReset kind false pf s.aon }
  have hr : Only [.evm, .recd] (resetState kind (tearOn kind u)) t := raise_only _ _ _ _ _
  have ht := tearOn_only kind u
  have ha : t.aon = aonReset kind false pf s.aon := (hr.aon rfl).trans (ht.aon rfl)
  rw [hr.boot rfl, hr.seq rfl, hr.pins rfl, ha, hr.flash rfl, hr.sram rfl, hr.logMem rfl, hr.fuses rfl, hr.cclk rfl, hr.cal rfl]
  exact ⟨rfl, rfl, rfl, ht.pins rfl, rfl, rfl, rfl, rfl, ht.flash rfl, ht.sram rfl, tearOn_logMem kind (s := u), tearOn_fuses kind (s := u), ht.cclk rfl, ht.cal rfl⟩

/-- Settles O24: each request is an entry to RESET, and what an entry leaves is read off its frame. -/
theorem resetRequestsEnterReset : Obligations.ResetRequestsEnterReset := by
  intro s h into hinto
  have he : into = fun kind pf p => resetEntered kind pf p s := by
    funext kind pf p
    exact hinto kind pf p
  subst he
  exact ⟨congrArg _ (enterReset_of_ne .powerOn false _ h), congrArg _ (enterReset_of_ne .pin false _ h), congrArg _ (enterReset_of_ne .pin true _ h),
    fun kind pf p => resetEntered_facts kind pf p s⟩

/-! A request in RESET joins the reset in progress. -/

theorem enterReset_pin_joins {s : State} (h : s.boot.dev = .reset) :
    enterReset .pin false false s = { s with boot := { s.boot with released := false } }
      ∧ enterReset .pin false true s = { s with boot := { s.boot with released := false }, aon := { s.aon with pfail := true } } := by
  have hb : (s.boot.released && ResetKind.pin != .pin && ResetKind.pin != .powerOn) = false := by simp
  unfold enterReset
  rw [if_pos h, hb, if_pos h]
  exact ⟨rfl, rfl⟩

theorem enterReset_powerOn_joins {s : State} (h : s.boot.dev = .reset) :
    let t := enterReset .powerOn false false s
    t.aon = { s.aon with kind := 1 } ∧ t.recd.staging = [] ∧ t.recd.preq = [] ∧ t.boot.flushDone = true ∧ t.boot.released = false ∧ t.boot.dev = .reset := by
  have hb : (s.boot.released && ResetKind.powerOn != .pin && ResetKind.powerOn != .powerOn) = false := by simp
  have ho := tearLog_only { s with boot := { s.boot with released := false } }
  unfold enterReset
  rw [if_pos h, hb]
  dsimp only
  rw [if_pos rfl, ho.aon rfl, ho.boot rfl]
  exact ⟨rfl, rfl, rfl, rfl, rfl, h⟩

/-- A reset that no input holds off is released. -/
theorem tryRelease_of_free {s : State} (hd : s.boot.dev = .reset) (hr : s.boot.released = false) (hp : s.pins.por = false) (hn : s.pins.resetN = true)
    (hf : s.pins.pfailN = true) : tryRelease s = modBoot (fun b => { b with released := true, releaseAt := s.cclk }) s :=
  if_pos ⟨hd, hr, hp, hn, hf⟩

/-- Settles O25: a request in RESET by what joining changes, a release by the inputs that are left, the flush by its two ends. -/
theorem resetJoinsAndReleases : Obligations.ResetJoinsAndReleases := by
  refine ⟨fun s h => ?_, fun s h => ⟨fun hr hn hf => ?_, fun hr hp hf => ?_, fun hr hp => ?_, fun he => ?_, fun hl => ?_⟩⟩
  · have hlow := (enterReset_pin_joins (s := { s with pins := { s.pins with resetN := false } }) h).1
    have hfail := (enterReset_pin_joins (s := { s with pins := { s.pins with pfailN := false } }) h).2
    exact ⟨congrArg _ hlow, congrArg _ hfail, _, rfl, enterReset_powerOn_joins (s := { s with pins := { s.pins with por := true } }) h⟩
  · exact congrArg _ (tryRelease_of_free (s := { s with pins := { s.pins with por := false } }) h hr rfl hn hf)
  · exact congrArg _ (tryRelease_of_free (s := { s with pins := { s.pins with resetN := true } }) h hr hp rfl hf)
  · exact congrArg _ (tryRelease_of_free (s := { s with pins := { s.pins with pfailN := true, resetN := true } }) h hr hp rfl rfl)
  · exact if_pos ⟨h, he⟩
  · exact if_pos hl

end Sys2Proof.Machine
end

section
/-! CHART-UPDATE and the flash it writes (R112 to R114). -/

namespace Sys2Proof.Machine

/-! Reads of a byte memory after a run of bytes was put, or a region cleared. -/

theorem length_memBytes (d : Byte) (m : Mem) (a n : Nat) : (memBytes d m a n).length = n := by
  induction n generalizing a with
  | zero => rfl
  | succ n ih => exact congrArg (· + 1) (ih (a + 1))

/-- A run of bytes put leaves every byte outside it. -/
theorem tget_memPut_outside (d : Byte) (bs : List Byte) (m : Mem) {a b : Nat} (h : b < a ∨ a + bs.length ≤ b) :
    tget d (memPut d m a bs) b = tget d m b := by
  induction bs generalizing m a with
  | nil => rfl
  | cons x bs ih =>
    rw [List.length_cons] at h
    exact (ih _ (by omega)).trans (tget_tset_of_ne m x (by omega))

theorem tget_memClear_inside (d : Byte) (m : Mem) {a n b : Nat} (ha : a ≤ b) (hb : b < a + n) : tget d (memClear m a n) b = d := by
  induction m with
  | nil => rfl
  | cons x m ih =>
    simp only [memClear, List.filter_cons] at ih ⊢
    split
    case isTrue hx =>
      have hne : b ≠ x.1 := by
        simp only [Bool.or_eq_true, decide_eq_true_eq] at hx
        omega
      rw [tget, if_neg hne, ih]
    case isFalse => exact ih

theorem tget_memClear_outside (d : Byte) (m : Mem) {a n b : Nat} (h : b < a ∨ a + n ≤ b) : tget d (memClear m a n) b = tget d m b := by
  induction m with
  | nil => rfl
  | cons x m ih =>
    simp only [memClear, List.filter_cons] at ih ⊢
    split
    case isTrue => rw [tget, tget, ih]
    case isFalse hx =>
      have hne : b ≠ x.1 := by
        simp only [Bool.or_eq_true, decide_eq_true_eq] at hx
        omega
      rw [ih, tget, if_neg hne]

/-- Programming leaves every byte outside the run. -/
theorem tget_flashProgram_outside (s : State) (bs : List Byte) {a b : Nat} (h : b < a ∨ a + bs.length ≤ b) :
    tget flashBlank (flashProgram s a bs) b = tget flashBlank s.flash b := by
  refine tget_memPut_outside flashBlank _ s.flash ?_
  rwa [List.length_zipWith, length_memBytes, Nat.min_self]

/-! The handler's answers. -/

section
variable {m : Nat} {tg : Bool} {s : State}

/-- A target in use. -/
theorem chart_targetInUse (h : targetOk s tg = false) (off len : Nat) (d : List Byte) :
    chartErase m tg s = decideMbx m rcState s ∧ chartWrite m tg off len d s = decideMbx m rcState s
      ∧ chartCommit m tg s = decideMbx m rcState s ∧ chartStatus m tg s = decideMbx m rcState s :=
  ⟨if_pos h, if_pos h, if_pos h, if_pos h⟩

theorem chartErase_of_ok (h : targetOk s tg = true) :
    chartErase m tg s = decideMbx m rcDone { s with flash := memClear s.flash (copyBase tg) 0x02000000, boot := { s.boot with hdrStage := [] } } :=
  if_neg (by simp [h])

theorem chartStatus_of_ok (h : targetOk s tg = true) :
    chartStatus m tg s = decideMbx m rcDone (putData m (memBytes flashBlank s.flash (copyBase tg) 0x30) s) :=
  if_neg (by simp [h])

theorem chartWrite_badRange (h : targetOk s tg = true) {off len : Nat} (hr : len = 0 ∨ 48 < len ∨ 0x02000000 < off + len) (d : List Byte) :
    chartWrite m tg off len d s = decideMbx m rcRange s := by
  unfold chartWrite
  rw [if_neg (by simp [h]), if_pos hr]

/-- The state after a write of bytes d at an offset of the copy: those below the header's end in staging, the others programmed. -/
def chartWritten (tg : Bool) (off : Nat) (d : List Byte) (s : State) : State :=
  { s with
    boot := { s.boot with hdrStage := memPut 0 s.boot.hdrStage off (d.take (256 - off)) }
    flash := flashProgram s (copyBase tg + max off 256) (d.drop (256 - off)) }

theorem chartWrite_of_ok (h : targetOk s tg = true) {off len : Nat} (hr : ¬ (len = 0 ∨ 48 < len ∨ 0x02000000 < off + len)) (d : List Byte) :
    chartWrite m tg off len d s = decideMbx m
      (if memBytes flashBlank (chartWritten tg off (d.take len) s).flash (copyBase tg + max off 256) ((d.take len).drop (256 - off)).length
          = (d.take len).drop (256 - off) then rcDone else 0x0011#16) (chartWritten tg off (d.take len) s) := by
  unfold chartWrite
  rw [if_neg (by simp [h]), if_neg hr]
  rfl

/-- A write changes no byte outside its range, and none of the header. -/
theorem chartWritten_outside {off len : Nat} (d : List Byte) {b : Nat} (hb : b < copyBase tg + max off 256 ∨ copyBase tg + off + len ≤ b) :
    tget flashBlank (chartWritten tg off (d.take len) s).flash b = tget flashBlank s.flash b := by
  refine tget_flashProgram_outside s _ ?_
  have hl : ((d.take len).drop (256 - off)).length ≤ len - (256 - off) := by
    rw [List.length_drop, List.length_take]
    omega
  omega

theorem chartCommit_rejected (h : targetOk s tg = true) {v : Verdict} (hv : firstFail (commitFails s (stagedImg s tg)) = some v) :
    chartCommit m tg s = decideMbx m (BitVec.ofNat 16 (0x0100 + v.code)) s := by
  unfold chartCommit
  rw [if_neg (by simp [h]), hv]

theorem chartCommit_of_ok (h : targetOk s tg = true) (hv : firstFail (commitFails s (stagedImg s tg)) = none) {hdr : List Byte}
    (hh : hdr = memBytes 0 s.boot.hdrStage 0 256) {t : State} (ht : t = { s with flash := flashProgram s (copyBase tg) hdr }) :
    chartCommit m tg s = decideMbx m (if memBytes flashBlank t.flash (copyBase tg) 256 = hdr then rcDone else 0x0011#16) t := by
  subst ht hh
  unfold chartCommit
  rw [if_neg (by simp [h]), hv]

end

/-! The commands: while the handler is open they run it, and change nothing while it is not (R114). -/

section
variable {m : BitVec 4} {tg : Bool} {s : State}

theorem exec_chart_closed (h : updateOpen s = false) (off : BitVec 32) (len : BitVec 16) (d : List Byte) :
    exec (.chartErase m tg) s = .next s ∧ exec (.chartWrite m tg off len d) s = .next s ∧ exec (.chartCommit m tg) s = .next s
      ∧ exec (.chartStatus m tg) s = .next s := by
  have hn : ¬ updateOpen s = true := by simp [h]
  exact ⟨congrArg _ (if_neg hn), congrArg _ (if_neg hn), congrArg _ (if_neg hn), congrArg _ (if_neg hn)⟩

variable (ho : updateOpen s = true)
include ho

theorem exec_chartErase_open : exec (.chartErase m tg) s = .next (chartErase m.toNat tg s) := congrArg _ (if_pos ho)

theorem exec_chartWrite_open (off : BitVec 32) (len : BitVec 16) (d : List Byte) :
    exec (.chartWrite m tg off len d) s = .next (chartWrite m.toNat tg off.toNat len.toNat d s) := congrArg _ (if_pos ho)

theorem exec_chartCommit_open : exec (.chartCommit m tg) s = .next (chartCommit m.toNat tg s) := congrArg _ (if_pos ho)

theorem exec_chartStatus_open : exec (.chartStatus m tg) s = .next (chartStatus m.toNat tg s) := congrArg _ (if_pos ho)

theorem exec_chart_targetInUse (hu : targetOk s tg = false) (off : BitVec 32) (len : BitVec 16) (d : List Byte) :
    exec (.chartErase m tg) s = .next (decideMbx m.toNat rcState s) ∧ exec (.chartWrite m tg off len d) s = .next (decideMbx m.toNat rcState s)
      ∧ exec (.chartCommit m tg) s = .next (decideMbx m.toNat rcState s) ∧ exec (.chartStatus m tg) s = .next (decideMbx m.toNat rcState s) := by
  obtain ⟨he, hw, hc, hs⟩ := chart_targetInUse (m := m.toNat) hu off.toNat len.toNat d
  rw [exec_chartErase_open ho, exec_chartWrite_open ho, exec_chartCommit_open ho, exec_chartStatus_open ho, he, hw, hc, hs]
  exact ⟨rfl, rfl, rfl, rfl⟩

variable (ht : targetOk s tg = true)
include ht

theorem chartErase_blanks_copy : ∃ t, exec (.chartErase m tg) s = .next (decideMbx m.toNat rcDone t)
    ∧ (∀ a, copyBase tg ≤ a → a < copyBase tg + 0x02000000 → tget flashBlank t.flash a = flashBlank)
    ∧ (∀ a, a < copyBase tg ∨ copyBase tg + 0x02000000 ≤ a → tget flashBlank t.flash a = tget flashBlank s.flash a) ∧ t.boot.hdrStage = [] := by
  refine ⟨_, (exec_chartErase_open ho).trans (congrArg _ (chartErase_of_ok ht)), fun a => ?_, fun a => ?_, rfl⟩
  · exact tget_memClear_inside flashBlank s.flash
  · exact tget_memClear_outside flashBlank s.flash

theorem chartWrite_programs_range {off : BitVec 32} {len : BitVec 16} (d : List Byte) (h1 : 1 ≤ len.toNat) (h48 : len.toNat ≤ 48)
    (hfit : off.toNat + len.toNat ≤ 0x02000000) {t : State} {a : Nat} {f : List Byte} (ha : a = copyBase tg + max off.toNat 256)
    (hf : f = (d.take len.toNat).drop (256 - off.toNat))
    (hw : t = { s with
      boot := { s.boot with hdrStage := memPut 0 s.boot.hdrStage off.toNat ((d.take len.toNat).take (256 - off.toNat)) }
      flash := flashProgram s a f }) :
    exec (.chartWrite m tg off len d) s = .next (decideMbx m.toNat (if memBytes flashBlank t.flash a f.length = f then rcDone else 0x0011#16) t)
      ∧ (∀ b, b < a ∨ copyBase tg + off.toNat + len.toNat ≤ b → tget flashBlank t.flash b = tget flashBlank s.flash b) := by
  obtain rfl : t = chartWritten tg off.toNat (d.take len.toNat) s := by rw [hw, ha, hf, chartWritten]
  subst ha hf
  exact ⟨(exec_chartWrite_open ho off len d).trans (congrArg _ (chartWrite_of_ok ht (by omega) d)), fun b => chartWritten_outside d⟩

theorem chartCommit_programs_header (hv : firstFail (commitFails s (stagedImg s tg)) = none) {t : State} {hdr : List Byte}
    (hh : hdr = memBytes 0 s.boot.hdrStage 0 256) (hw : t = { s with flash := flashProgram s (copyBase tg) hdr }) :
    exec (.chartCommit m tg) s = .next (decideMbx m.toNat (if memBytes flashBlank t.flash (copyBase tg) 256 = hdr then rcDone else 0x0011#16) t)
      ∧ (∀ a, a < copyBase tg ∨ copyBase tg + 256 ≤ a → tget flashBlank t.flash a = tget flashBlank s.flash a) := by
  refine ⟨(exec_chartCommit_open ho).trans (congrArg _ (chartCommit_of_ok ht hv hh hw)), fun a ha => ?_⟩
  have hl : hdr.length = 256 := hh ▸ length_memBytes 0 _ 0 256
  rw [hw]
  exact tget_flashProgram_outside s hdr (by omega)

end

/-- Settles O58: each command by its handler's answer, each frame by where the bytes are put. -/
theorem chartUpdateWritesItsCopyAlone : Obligations.ChartUpdateWritesItsCopyAlone := by
  intro m tg s
  refine ⟨exec_chart_closed, exec_chart_targetInUse, fun ho ht => ⟨chartErase_blanks_copy ho ht, fun off len d => ⟨fun hr => ?_, ?_⟩, ?_, fun v hv => ?_, ?_⟩⟩
  · exact (exec_chartWrite_open ho off len d).trans (congrArg _ (chartWrite_badRange ht hr d))
  · exact fun h1 h48 hfit _ _ _ => chartWrite_programs_range ho ht d h1 h48 hfit
  · exact (exec_chartStatus_open ho).trans (congrArg _ (chartStatus_of_ok ht))
  · exact (exec_chartCommit_open ho).trans (congrArg _ (chartCommit_rejected ht hv))
  · exact fun hv _ _ => chartCommit_programs_header ho ht hv

end Sys2Proof.Machine
end

section
/-! From RESET through WIPE and LOAD to VERIFY (R4, R33, R90, R94, R96, R98, R100). -/

namespace Sys2Proof.Machine

theorem le_elapseTo_cclk (c : Nat) (s : State) : c ≤ (elapseTo c s).cclk := by
  change c ≤ s.cclk + (c - s.cclk)
  omega

/-- A move to another device state changes nothing else of the boot record. -/
theorem setDev_boot (d : DevState) (s : State) : (setDev d s).boot = { s.boot with dev := d } := by
  unfold setDev
  split
  case isTrue h => rw [← h]
  case isFalse => rw [(dbgSettle_only _ _).boot rfl, raise_boot]

theorem setReason_checkFail (b due : Nat) (s : State) : (setReason b due s).boot.checkFail = s.boot.checkFail := by
  unfold setReason
  split <;> rfl

theorem enterFault_checkFail (cause : Nat) (s : State) : (enterFault cause s).boot.checkFail = s.boot.checkFail := by
  unfold enterFault
  extract_lets b q t u
  rw [raise_boot, setDev_boot]
  exact setReason_checkFail 6 _ t

/-! The end of RESET. -/

/-- The inputs and the log memory as RESET_EXIT samples them. -/
def strapsSampled (role : Bool) (unit : BitVec 2) (alj : BitVec 4) (log : Option LogMem) (s : State) : State :=
  { s with
    pins := { s.pins with roleSel := role, unitSel := unit, alj := alj }
    loops := { s.loops with alj := alj }
    recd := { logFound log s.recd with staging := [], tickEvs := [], base := none } }

/-- WIPE begins with what was sampled. -/
def wipeBegun (role : Bool) (unit : BitVec 2) (alj : BitVec 4) (log : Option LogMem) (s : State) : State :=
  let t := setDev .wipe (strapsSampled role unit alj log s)
  modBoot (fun b => { b with strapRole := role, phaseAt := t.cclk }) t

theorem exec_resetExit {s : State} (hd : s.boot.dev = .reset) (hr : s.boot.released = true) (hf : s.boot.flushDone = true)
    (role : Bool) (unit : BitVec 2) (alj : BitVec 4) (log : Option LogMem) :
    exec (.resetExit role unit alj log) s = .next (wipeBegun role unit alj log (elapseTo (s.boot.releaseAt + 20000) s)) :=
  if_neg (by simp [hd, hr, hf])

theorem wipeBegun_facts (role : Bool) (unit : BitVec 2) (alj : BitVec 4) (log : Option LogMem) (s : State) :
    let t := wipeBegun role unit alj log s
    t.boot.dev = .wipe ∧ t.pins = { s.pins with roleSel := role, unitSel := unit, alj := alj } ∧ t.boot.strapRole = role ∧ t.cclk = s.cclk := by
  have ho := setDev_only .wipe (strapsSampled role unit alj log s)
  exact ⟨setDev_dev _ _, ho.pins rfl, rfl, ho.cclk rfl⟩

theorem resetExit_facts {s : State} (hd : s.boot.dev = .reset) (hr : s.boot.released = true) (hf : s.boot.flushDone = true)
    (role : Bool) (unit : BitVec 2) (alj : BitVec 4) (log : Option LogMem) : ∃ t, exec (.resetExit role unit alj log) s = .next t
      ∧ t.boot.dev = .wipe ∧ t.pins = { s.pins with roleSel := role, unitSel := unit, alj := alj } ∧ t.boot.strapRole = role
      ∧ s.boot.releaseAt + 20000 ≤ t.cclk ∧ t.flash = s.flash ∧ t.sram = s.sram ∧ t.fuses = s.fuses := by
  have hx := exec_resetExit hd hr hf role unit alj log
  have ho := execResetExit_only role unit alj log s _ hx
  obtain ⟨hdev, hpins, hrole, hcclk⟩ := wipeBegun_facts role unit alj log (elapseTo (s.boot.releaseAt + 20000) s)
  rw [(elapseTo_only _ s).pins rfl] at hpins
  exact ⟨_, hx, hdev, hpins, hrole, hcclk ▸ le_elapseTo_cclk _ s, ho.flash rfl, ho.sram rfl, ho.fuses rfl⟩

/-! The wipe. -/

theorem wipeRecorder_wipes (s : State) : (wipeRecorder s).boot.wipes = s.boot.wipes := by
  unfold wipeRecorder
  rw [(drainQueue_only _).boot rfl]
  rfl

/-- The stores blank, the recorder ready after the first wipe, the wipe counted. -/
def wiped (s : State) : State :=
  let t := { s with sram := [], sdir := [], dirid := 0, lbus := [] }
  modBoot (fun b => { b with wipes := b.wipes + 1, wipeDone := true }) (newNonce (if t.boot.firstWipe then wipeRecorder t else t))

theorem wiped_facts (s : State) : (wiped s).sram = [] ∧ (wiped s).sdir = [] ∧ (wiped s).lbus = [] ∧ (wiped s).dirid = 0
    ∧ (wiped s).boot.wipes = s.boot.wipes + 1 ∧ (wiped s).boot.wipeDone = true := by
  unfold wiped
  extract_lets t
  have hr : Only [.boot, .recd] t (if t.boot.firstWipe then wipeRecorder t else t) := .ite (wipeRecorder_only t) (.refl _ t)
  have ho := newNonce_only (if t.boot.firstWipe then wipeRecorder t else t)
  have hw : (if t.boot.firstWipe then wipeRecorder t else t).boot.wipes = t.boot.wipes := by
    split
    · exact wipeRecorder_wipes t
    · rfl
  refine ⟨(ho.sram rfl).trans (hr.sram rfl), (ho.sdir rfl).trans (hr.sdir rfl), (ho.lbus rfl).trans (hr.lbus rfl), (ho.dirid rfl).trans (hr.dirid rfl), ?_, rfl⟩
  change (newNonce _).boot.wipes + 1 = _
  rw [ho.boot rfl, hw]

/-- The ticks until the zeroiser is done have passed. -/
def wipeOver (s : State) : State := elapseTo (s.boot.phaseAt + (if s.boot.firstWipe then 442368 else 440320)) s

/-- A store failed its check. -/
def wipeFailed (f : BitVec 4 × BitVec 28) (s : State) : State :=
  enterFault 2 (raise 0x0149 (f.1.setWidth 32) (f.2.setWidth 32) 0 (modBoot (fun b => { b with checkFail := true }) s))

theorem exec_zeroiserComplete {s : State} (h : s.boot.dev = .wipe) (fail : Option (BitVec 4 × BitVec 28)) :
    exec (.zeroiserComplete fail) s = .next (fail.elim (setDev .load (wiped (wipeOver s))) (fun f => wipeFailed f (wiped (wipeOver s)))) := by
  change execZeroiserComplete fail s = _
  unfold execZeroiserComplete
  rw [if_neg (not_not_intro h)]
  cases fail <;> rfl

theorem zeroiserComplete_ok {s : State} (h : s.boot.dev = .wipe) :
    ∃ t, exec (.zeroiserComplete none) s = .next t ∧ t.boot.dev = .load ∧ t.sram = [] ∧ t.sdir = [] ∧ t.lbus = [] ∧ t.dirid = 0
      ∧ t.boot.wipes = s.boot.wipes + 1 ∧ t.boot.wipeDone = true ∧ t.flash = s.flash ∧ t.fuses = s.fuses := by
  have hx := exec_zeroiserComplete h none
  have ho := execZeroiserComplete_only none s _ hx
  obtain ⟨hsram, hsdir, hlbus, hdirid, hwipes, hdone⟩ := wiped_facts (wipeOver s)
  have hd := setDev_only .load (wiped (wipeOver s))
  have hb := setDev_boot .load (wiped (wipeOver s))
  refine ⟨_, hx, setDev_dev _ _, (hd.sram rfl).trans hsram, (hd.sdir rfl).trans hsdir, (hd.lbus rfl).trans hlbus, (hd.dirid rfl).trans hdirid,
    ?_, (congrArg Boot.wipeDone hb).trans hdone, ho.flash rfl, ho.fuses rfl⟩
  exact ((congrArg Boot.wipes hb).trans hwipes :)

theorem wipeFailed_facts (f : BitVec 4 × BitVec 28) (s : State) : (wipeFailed f s).boot.dev = .fault ∧ (wipeFailed f s).boot.faultCause = 2
    ∧ (wipeFailed f s).boot.checkFail = true ∧ (wipeFailed f s).sram = s.sram ∧ (wipeFailed f s).sdir = s.sdir := by
  unfold wipeFailed
  have hr := raise_only 0x0149 (f.1.setWidth 32) (f.2.setWidth 32) 0 (modBoot (fun b => { b with checkFail := true }) s)
  generalize raise 0x0149 (f.1.setWidth 32) (f.2.setWidth 32) 0 (modBoot (fun b => { b with checkFail := true }) s) = u at hr
  obtain ⟨hdev, hcause, -⟩ := enterFault_facts 2 u
  have hf := enterFault_only 2 u
  rw [enterFault_checkFail, hr.boot rfl, hf.sram rfl, hr.sram rfl, hf.sdir rfl, hr.sdir rfl]
  exact ⟨hdev, hcause, rfl, rfl, rfl⟩

theorem zeroiserComplete_failed {s : State} (h : s.boot.dev = .wipe) (f : BitVec 4 × BitVec 28) :
    ∃ t, exec (.zeroiserComplete (some f)) s = .next t ∧ t.boot.dev = .fault ∧ t.boot.faultCause = 2 ∧ t.boot.checkFail = true ∧ t.sram = [] ∧ t.sdir = [] := by
  obtain ⟨hsram, hsdir, -⟩ := wiped_facts (wipeOver s)
  obtain ⟨hdev, hcause, hcheck, hfsram, hfsdir⟩ := wipeFailed_facts f (wiped (wipeOver s))
  exact ⟨_, exec_zeroiserComplete h (some f), hdev, hcause, hcheck, hfsram.trans hsram, hfsdir.trans hsdir⟩

/-! Loading. -/

theorem flashImg_congr {s t : State} (h : t.flash = s.flash) (copy : Bool) : flashImg t copy = flashImg s copy := by
  unfold flashImg
  rw [h]

/-- The candidates as the headers show them. -/
def candidatesNoted (octal : Bool) (s : State) : State :=
  modBoot (fun b => { b with octalC := octal, candA := isCandidate (flashImg s false), candB := isCandidate (flashImg s true) }) s

/-- The copy to try first is in hand. -/
def copyChosen (s : State) : State := modBoot (fun b => { b with loading := true }) { s with seq := { s.seq with copy := firstCopy s } }

theorem candidatesNoted_some {s v : State} (hf : v.flash = s.flash)
    (hc : isCandidate (flashImg s false) = true ∨ isCandidate (flashImg s true) = true) (octal : Bool) :
    ¬ ((candidatesNoted octal v).boot.candA = false ∧ (candidatesNoted octal v).boot.candB = false) := by
  change ¬ (isCandidate (flashImg v false) = false ∧ isCandidate (flashImg v true) = false)
  rw [flashImg_congr hf, flashImg_congr hf, ← Bool.not_eq_true, ← Bool.not_eq_true, ← not_or]
  exact not_not_intro hc

theorem exec_chartHeadersRead {s : State} (hd : s.boot.dev = .load) (hl : s.boot.loading = false) (hblank : lcState s ≠ 0) (hscrap : lcState s ≠ 4)
    (hc : isCandidate (flashImg s false) = true ∨ isCandidate (flashImg s true) = true) (octal : Bool) (n : Nat) :
    exec (.chartHeadersRead octal n) s = .next (copyChosen (candidatesNoted octal (noCandidate true (noCandidate false (elapse (min n 40000) s))))) := by
  change execChartHeadersRead octal n s = _
  unfold execChartHeadersRead
  rw [if_neg (by simp [hd, hl])]
  extract_lets u v w
  have hv : v.flash = s.flash := ((noCandidate_only _ _).flash rfl).trans (((noCandidate_only _ _).flash rfl).trans ((elapse_only _ s).flash rfl))
  have hlc : lcState u = lcState s := rfl
  have hw : ¬ (w.boot.candA = false ∧ w.boot.candB = false) := candidatesNoted_some hv hc octal
  rw [hlc, if_neg hblank, if_neg hscrap, if_neg hw]
  rfl

theorem copyChosen_facts {octal : Bool} {s v : State} (hf : v.flash = s.flash) :
    let t := copyChosen (candidatesNoted octal v)
    t.boot.dev = v.boot.dev ∧ t.boot.loading = true ∧ t.boot.octalC = octal
      ∧ t.boot.candA = isCandidate (flashImg s false) ∧ t.boot.candB = isCandidate (flashImg s true)
      ∧ t.seq.copy = (if isCandidate (flashImg s false) = true ∧ isCandidate (flashImg s true) = true
          then decide (iSeq (flashImg s false) < iSeq (flashImg s true)) else isCandidate (flashImg s true)) := by
  have hc : firstCopy (candidatesNoted octal v) = (if (isCandidate (flashImg v false) && isCandidate (flashImg v true)) = true
      then decide (iSeq (flashImg v false) < iSeq (flashImg v true)) else isCandidate (flashImg v true)) := rfl
  simp only [flashImg_congr hf, Bool.and_eq_true] at hc
  exact ⟨rfl, rfl, rfl, congrArg isCandidate (flashImg_congr hf false), congrArg isCandidate (flashImg_congr hf true), hc⟩

theorem chartHeadersRead_facts {s : State} (hd : s.boot.dev = .load) (hl : s.boot.loading = false) (hblank : lcState s ≠ 0) (hscrap : lcState s ≠ 4)
    (hc : isCandidate (flashImg s false) = true ∨ isCandidate (flashImg s true) = true) (octal : Bool) (n : Nat) :
    ∃ t, exec (.chartHeadersRead octal n) s = .next t ∧ t.boot.dev = .load ∧ t.boot.loading = true ∧ t.boot.octalC = octal
      ∧ t.boot.candA = isCandidate (flashImg s false) ∧ t.boot.candB = isCandidate (flashImg s true)
      ∧ t.seq.copy = (if isCandidate (flashImg s false) = true ∧ isCandidate (flashImg s true) = true
          then decide (iSeq (flashImg s false) < iSeq (flashImg s true)) else isCandidate (flashImg s true))
      ∧ t.flash = s.flash ∧ t.sram = s.sram := by
  have hx := exec_chartHeadersRead hd hl hblank hscrap hc octal n
  have ho := execChartHeadersRead_only octal n s _ hx
  let v := noCandidate true (noCandidate false (elapse (min n 40000) s))
  have hv : Only [.cclk, .pwr, .ptc, .cal, .seq, .evm, .recd] s v :=
    .after (noCandidate_only true _) (by decide) (.after (noCandidate_only false _) (by decide) ((elapse_only _ s).mono (by decide)))
  obtain ⟨hdev, hload, hoct, ha, hb, hcopy⟩ := copyChosen_facts (octal := octal) (hv.flash rfl)
  exact ⟨_, hx, hdev.trans ((congrArg Boot.dev (hv.boot rfl)).trans hd), hload, hoct, ha, hb, hcopy, ho.flash rfl, ho.sram rfl⟩

/-- VERIFY begins with the copy in hand marked tried. -/
def copyTried (copy : Bool) (s : State) : State :=
  setDev .verify (modBoot (fun b => { b with triedA := b.triedA || !copy, triedB := b.triedB || copy }) s)

theorem exec_chartCopyStreamed {s : State} (hd : s.boot.dev = .load) (hl : s.boot.loading = true) (n : Nat) :
    exec (.chartCopyStreamed n) s
      = .next (copyTried s.seq.copy (streamCopy (flashImg s s.seq.copy) (elapse (streamTicks s (flashImg s s.seq.copy) n) s))) :=
  if_neg (by simp [hd, hl])

theorem copyTried_boot (copy : Bool) (s : State) :
    (copyTried copy s).boot = { s.boot with triedA := s.boot.triedA || !copy, triedB := s.boot.triedB || copy, dev := .verify } := setDev_boot _ _

theorem chartCopyStreamed_facts {s : State} (hd : s.boot.dev = .load) (hl : s.boot.loading = true) (n : Nat) :
    ∃ t, exec (.chartCopyStreamed n) s = .next t ∧ t.boot.dev = .verify
      ∧ (if s.seq.copy then t.boot.triedB = true ∧ t.boot.triedA = s.boot.triedA else t.boot.triedA = true ∧ t.boot.triedB = s.boot.triedB)
      ∧ t.flash = s.flash := by
  have hx := exec_chartCopyStreamed hd hl n
  have hb := copyTried_boot s.seq.copy (streamCopy (flashImg s s.seq.copy) (elapse (streamTicks s (flashImg s s.seq.copy) n) s))
  rw [(streamCopy_only _ _).boot rfl, (elapse_only _ s).boot rfl] at hb
  refine ⟨_, hx, by rw [hb], ?_, (execChartCopyStreamed_only n s _ hx).flash rfl⟩
  rw [hb]
  cases s.seq.copy <;> simp

/-- Settles O26: each event's command by the state it names, the stores and fuses by its frame. -/
theorem bootSequenceAdvances : Obligations.BootSequenceAdvances :=
  fun _ => ⟨resetExit_facts, zeroiserComplete_ok, zeroiserComplete_failed, chartHeadersRead_facts, chartCopyStreamed_facts⟩

end Sys2Proof.Machine
end

section
/-! The operations of the vector and matrix unit (R154 to R156) and of the satellite navigation engines (R163 to R165, R185, R186, R194). -/

namespace Sys2Proof.Machine

/-! An operation with a bound on its operand: its effect within the bound, a contract breach outside (R55). -/

theorem issue_bounded_of_true {eng inst : Nat} {c : State → Bool} {s : State} (h : issued s eng inst = true) (hc : c s = true) (opc opnd : Nat)
    (f : State → State) :
    issue eng inst (opWord eng opc opnd) (fun u => if c u then f u else breach 0x0107 (opWord eng opc opnd) u) s = .next (dropLane (f s)) := by
  rw [issue_of_issued h, if_pos hc]

theorem issue_bounded_of_false {eng inst : Nat} {c : State → Bool} {s : State} (h : issued s eng inst = true) (hc : c s = false) (opc opnd : Nat)
    (f : State → State) :
    issue eng inst (opWord eng opc opnd) (fun u => if c u then f u else breach 0x0107 (opWord eng opc opnd) u) s
      = .next (dropLane (breach 0x0107 (opWord eng opc opnd) s)) := by
  rw [issue_of_issued h, if_neg (Bool.eq_false_iff.mp hc)]

theorem matBound_of_lt {s : State} {d : Nat} (h : d < vm s 0x14 2) : matBound s d = true := decide_eq_true h

theorem matBound_of_le {s : State} {d : Nat} (h : vm s 0x14 2 ≤ d) : matBound s d = false := decide_eq_false (Nat.not_lt.mpr h)

/-- A slot that an operation of slots 0 to m - 1 may name: one of these and used. -/
def slotBound (m n : Nat) (s : State) : Bool := n < m && slotKind s n != 0

theorem slotBound_of_used {m n : Nat} {s : State} (hn : n < m) (hk : slotKind s n ≠ 0) : slotBound m n s = true := by
  simp [slotBound, hn, hk]

theorem slotBound_of_unused {m n : Nat} {s : State} (h : m ≤ n ∨ slotKind s n = 0) : slotBound m n s = false := by
  rcases h with hn | hk
  · simp [slotBound, Nat.not_lt.mpr hn]
  · simp [slotBound, hk]

section VmuOperands

variable {s : State} (h : issued s 3 0 = true)
include h

theorem exec_matrix_declared (d : BitVec 10) (hd : d.toNat < vm s 0x14 2) :
    exec (.mmul d) s = .next (dropLane (mmulEffect d.toNat s)) ∧ exec (.madd d) s = .next (dropLane (maddEffect d.toNat s)) :=
  have bounded := issue_bounded_of_true (c := (matBound · d.toNat)) h (matBound_of_lt hd)
  ⟨bounded 1 d.toNat (mmulEffect d.toNat), bounded 2 d.toNat (maddEffect d.toNat)⟩

theorem exec_matrix_undeclared (d : BitVec 10) (hd : vm s 0x14 2 ≤ d.toNat) :
    exec (.mmul d) s = .next (dropLane (breach 0x0107 (opWord 3 1 d.toNat) s))
      ∧ exec (.madd d) s = .next (dropLane (breach 0x0107 (opWord 3 2 d.toNat) s)) :=
  have bounded := issue_bounded_of_false (c := (matBound · d.toNat)) h (matBound_of_le hd)
  ⟨bounded 1 d.toNat (mmulEffect d.toNat), bounded 2 d.toNat (maddEffect d.toNat)⟩

theorem exec_refIn_used (n : BitVec 5) (hn : n.toNat < 17) (hk : slotKind s n.toNat ≠ 0) :
    exec (.refIn n) s = .next (dropLane (refInEffect n.toNat s)) :=
  issue_bounded_of_true (c := slotBound 17 n.toNat) h (slotBound_of_used hn hk) 0x0A n.toNat (refInEffect n.toNat)

theorem exec_refIn_unused (n : BitVec 5) (hn : 17 ≤ n.toNat ∨ slotKind s n.toNat = 0) :
    exec (.refIn n) s = .next (dropLane (breach 0x0107 (opWord 3 0x0A n.toNat) s)) :=
  issue_bounded_of_false (c := slotBound 17 n.toNat) h (slotBound_of_unused hn) 0x0A n.toNat (refInEffect n.toNat)

theorem exec_testedSlot_used (n : BitVec 5) (hn : n.toNat < 12) (hk : slotKind s n.toNat ≠ 0) :
    exec (.refTest n) s = .next (dropLane (refTestEffect n.toNat s)) ∧ exec (.obsUpd n) s = .next (dropLane (obsUpdEffect n.toNat s)) :=
  have bounded := issue_bounded_of_true (c := slotBound 12 n.toNat) h (slotBound_of_used hn hk)
  ⟨bounded 0x0B n.toNat (refTestEffect n.toNat), bounded 0x0E n.toNat (obsUpdEffect n.toNat)⟩

theorem exec_testedSlot_unused (n : BitVec 5) (hn : 12 ≤ n.toNat ∨ slotKind s n.toNat = 0) :
    exec (.refTest n) s = .next (dropLane (breach 0x0107 (opWord 3 0x0B n.toNat) s))
      ∧ exec (.obsUpd n) s = .next (dropLane (breach 0x0107 (opWord 3 0x0E n.toNat) s)) :=
  have bounded := issue_bounded_of_false (c := slotBound 12 n.toNat) h (slotBound_of_unused hn)
  ⟨bounded 0x0B n.toNat (refTestEffect n.toNat), bounded 0x0E n.toNat (obsUpdEffect n.toNat)⟩

end VmuOperands

/-- An operation enters the NAV queue at its end, with the PTP time of the tick. -/
theorem pushNav_appends (eng opc opnd : Nat) (words : List (Word × Qual)) (s : State) :
    ∃ o : NavOp, o.eng = eng ∧ o.opc = opc ∧ o.opnd = opnd ∧ o.words = words ∧ o.ns = nowNs s
      ∧ pushNav eng opc opnd words s = { s with nav := { s.nav with ops := s.nav.ops ++ [o] } } :=
  ⟨_, rfl, rfl, rfl, rfl, rfl, rfl⟩

/-- Settles O19: every operation by the rule of an issue, the NAV queue by what an operation appends to it. -/
theorem observerAndNavOperationsComplete : Obligations.ObserverAndNavOperationsComplete := by
  refine ⟨fun s h => ?vmu, fun s => ⟨fun h => ?acq, fun h ch => ?trk, fun h => ?pvt, fun h g => ?cch, fun eng opc opnd words => ?queue⟩⟩
  case vmu =>
    have plain (opc : Nat) (f : State → State) := issue_of_issued h (opWord 3 opc 0) f
    exact ⟨exec_matrix_declared h, exec_matrix_undeclared h, plain 0x08 mruVoteEffect, plain 0x09 obsPredEffect,
      exec_refIn_used h, exec_testedSlot_used h, exec_refIn_unused h, exec_testedSlot_unused h,
      plain 0x0C hdgVoteEffect, plain 0x0D refVoteEffect, plain 0x0F obsOutEffect, plain 0x10 windEffect,
      plain 0x20 pvtSolveEffect, plain 0x21 pvtOutEffect, plain 0x22 hdgSolveEffect⟩
  case acq =>
    exact ⟨fun m => issue_of_issued h (opWord 8 1 m.toNat) (pushNav 8 1 m.toNat []), issue_of_issued h (opWord 8 2 0) (pushNav 8 2 0 [])⟩
  case trk => exact issue_of_issued h (opWord 9 1 ch.toNat) (pushNav 9 1 ch.toNat [])
  case pvt =>
    exact ⟨issue_of_issued h (opWord 0x0A 1 0) (pushNav 0x0A 1 0 []),
      fun g => issue_of_issued h (opWord 0x0A 2 g.toNat) (fun u => pushNav 0x0A 2 g.toNat (navBlock u g.toNat 8) u),
      fun g => issue_of_issued h (opWord 0x0A 3 g.toNat) (fun u => pushNav 0x0A 3 g.toNat (navBlock u g.toNat 16) u)⟩
  case cch => exact issue_of_issued h (opWord 0x0B 1 g.toNat) (fun u => pushNav 0x0B 1 g.toNat (navBlock u g.toNat 2) u)
  case queue => exact ⟨pushNav_only eng opc opnd words s, pushNav_appends eng opc opnd words s⟩

end Sys2Proof.Machine
end

section
/-! The satellite channels' events (R171 to R177, R180, R183). -/

namespace Sys2Proof.Machine

theorem Only.nav {l : List Part} {s t : State} (h : Only l s t) (hl : l.contains Part.nav = false) : t.nav = s.nav := h .nav (by simpa using hl)

theorem raise_nav (c : Nat) (p0 p1 p2 : Word) (s : State) : (raise c p0 p1 p2 s).nav = s.nav := (raise_only c p0 p1 p2 s).nav rfl

theorem navCh_raise (c : Nat) (p0 p1 p2 : Word) (s : State) (k : Nat) : navCh (raise c p0 p1 p2 s) k = navCh s k := by
  unfold navCh
  rw [raise_nav]

/-- A channel in a state other than IDLE is no unlisted one. -/
theorem ne_default_of_state {v : NavChan} (h : v.state ≠ 0) : v ≠ {} := fun hv => h (by rw [hv])

/-! The lock events: a stretch of samples is tracked first. -/

section LockEvents

variable {s : State} {c : Fin 192} {iq : List Byte} {u : NavChan} (hu : u = track s (navCh s c) iq)
include hu

theorem exec_trkPllLock_locked (h2 : u.state = 2) (hg : 100 ≤ u.goodMs) :
    exec (.trkPllLock ⟨c, iq⟩) s = .next (setNavCh c { u with state := 3, since := s.cclk, rest := [] } s) := by
  subst hu
  exact congrArg (fun x => Host.Outcome.next (setNavCh c x s)) (if_pos ⟨h2, hg⟩)

theorem exec_trkPllLock_tracks (h : u.state ≠ 2 ∨ u.goodMs < 100) : exec (.trkPllLock ⟨c, iq⟩) s = .next (setNavCh c u s) := by
  subst hu
  refine congrArg (fun x => Host.Outcome.next (setNavCh c x s)) (if_neg ?_)
  rintro ⟨h2, hg⟩
  exact h.elim (· h2) (Nat.not_lt.mpr hg)

theorem exec_navLockLost_lost (hst : u.state = 3 ∨ u.state = 4 ∨ u.state = 5) (hlow : nv s 0x60 2 ≤ u.lowCnMs ∨ nv s 0x60 2 ≤ u.lowLockMs) :
    ∃ x : NavChan, exec (.navLockLost ⟨c, iq⟩) s = .next (raise 0x0503 (w32 c) (sigPrn u.sig u.prn) (Config.reportWord u.cn0) (setNavCh c x s))
      ∧ x.state = 6 ∧ x.tx = none ∧ x.code = u.code ∧ x.dopp = u.dopp := by
  subst hu
  exact ⟨_, if_pos ⟨hst, hlow⟩, rfl, rfl, rfl, rfl⟩

theorem exec_navLockLost_tracks
    (h : (u.state ≠ 3 ∧ u.state ≠ 4 ∧ u.state ≠ 5) ∨ (u.lowCnMs < nv s 0x60 2 ∧ u.lowLockMs < nv s 0x60 2)) :
    exec (.navLockLost ⟨c, iq⟩) s = .next (setNavCh c u s) := by
  subst hu
  refine if_neg ?_
  rintro ⟨hst, hlow⟩
  rcases h with ⟨h3, h4, h5⟩ | ⟨hcn, hlock⟩
  · rcases hst with hst | hst | hst
    · exact h3 hst
    · exact h4 hst
    · exact h5 hst
  · exact hlow.elim (Nat.not_le.mpr hcn) (Nat.not_le.mpr hlock)

/-- The channel that goes to REACQ is the one that the event names, and nothing but NAV and the event's record changes. -/
theorem navLockLost_facts (hst : u.state = 3 ∨ u.state = 4 ∨ u.state = 5) (hlow : nv s 0x60 2 ≤ u.lowCnMs ∨ nv s 0x60 2 ≤ u.lowLockMs) :
    ∃ t, exec (.navLockLost ⟨c, iq⟩) s = .next (raise 0x0503 (w32 c) (sigPrn u.sig u.prn) (Config.reportWord u.cn0) t)
      ∧ (navCh t c).state = 6 ∧ (navCh t c).tx = none ∧ (navCh t c).code = u.code ∧ (navCh t c).dopp = u.dopp ∧ Only [.nav] s t := by
  obtain ⟨x, hx, hstate, htx, hcode, hdopp⟩ := exec_navLockLost_lost hu hst hlow
  have hch : navCh (setNavCh c x s) c = x := navCh_setNavCh_val (ne_default_of_state (by rw [hstate]; decide)) c s
  refine ⟨setNavCh c x s, hx, ?_⟩
  rw [hch]
  exact ⟨hstate, htx, hcode, hdopp, setNavCh_only c x s⟩

theorem exec_sidePeakMove_moves (hsig : u.sig = 2) (hside : 20 ≤ u.sideMs) :
    ∃ x : NavChan, exec (.sidePeakMove ⟨c, iq⟩) s = .next (setNavCh c x s) ∧ x.sidePeaks = u.sidePeaks + 1 ∧ x.sideMs = 0 ∧ x.state = u.state
      ∧ (power (u.acc.getD 4 (0, 0)) ≤ power (u.acc.getD 3 (0, 0)) → x.code = u.code + 1 / 2)
      ∧ (power (u.acc.getD 3 (0, 0)) < power (u.acc.getD 4 (0, 0)) → x.code = u.code - 1 / 2) := by
  subst hu
  refine ⟨_, if_pos ⟨hsig, hside⟩, rfl, rfl, rfl, fun hle => ?_, fun hlt => ?_⟩
  · exact congrArg (_ + ·) (if_pos hle)
  · refine (congrArg (_ + ·) (if_neg (not_le.mpr hlt))).trans ?_
    ring

theorem exec_sidePeakMove_tracks (h : u.sig ≠ 2 ∨ u.sideMs < 20) : exec (.sidePeakMove ⟨c, iq⟩) s = .next (setNavCh c u s) := by
  subst hu
  refine if_neg ?_
  rintro ⟨hsig, hside⟩
  exact h.elim (· hsig) (Nat.not_lt.mpr hside)

end LockEvents

/-! Bit and frame synchronisation. -/

section Synchronisation

variable {s : State} {c : Fin 192}

theorem exec_bitSync_synced (h3 : (navCh s c).state = 3) (hg : domGated s .nav = false) (e : Nat) :
    ∃ x : NavChan, exec (.bitSync ⟨c, e⟩) s = .next (setNavCh c x s) ∧ x.state = 4 ∧ x.dopp = (navCh s c).dopp :=
  ⟨_, if_pos ⟨h3, hg⟩, rfl, rfl⟩

theorem exec_bitSync_idle (h : (navCh s c).state ≠ 3 ∨ domGated s .nav = true) (e : Nat) : exec (.bitSync ⟨c, e⟩) s = .next s := by
  refine if_neg ?_
  rintro ⟨h3, hg⟩
  exact h.elim (· h3) (by simp [hg])

theorem freeCh_idle {ant sig k : Nat} (h : freeCh s ant sig = some k) : (navCh s k).state = 0 := by
  simpa using List.find?_some h

/-- A window is opened on a free channel alone, so a channel in use stays as it is. -/
theorem navCh_windowEntry {k : Nat} (hk : (navCh s k).state ≠ 0) (ant sig prn : Nat) (code dopp at_ : Rat) :
    navCh (windowEntry ant sig prn code dopp at_ s) k = navCh s k := by
  unfold windowEntry
  split
  · rfl
  · split
    next j hj =>
      have hne : k ≠ j := fun hkj => hk (hkj ▸ freeCh_idle hj)
      exact navCh_setNavCh_ne hne _ s
    next => rfl

theorem windowEntry_rxSet (ant sig prn : Nat) (code dopp at_ : Rat) (s : State) : (windowEntry ant sig prn code dopp at_ s).nav.rxSet = s.nav.rxSet := by
  unfold windowEntry
  split
  · rfl
  · split <;> rfl

/-- A channel stands as v, and the receiver time is set. -/
def SyncedAs (k : Nat) (v : NavChan) (t : State) : Prop := navCh t k = v ∧ t.nav.rxSet = true

theorem SyncedAs.windowEntry {k : Nat} {v : NavChan} (hv : v.state ≠ 0) (h : SyncedAs k v s) (ant sig prn : Nat) (code dopp at_ : Rat) :
    SyncedAs k v (windowEntry ant sig prn code dopp at_ s) := by
  obtain ⟨hch, hrx⟩ := h
  exact ⟨(navCh_windowEntry (by rwa [hch]) ant sig prn code dopp at_).trans hch, (windowEntry_rxSet ant sig prn code dopp at_ s).trans hrx⟩

/-- Frame synchronisation puts the channel in TRACKING, sets the receiver time, and opens windows on other channels only. -/
theorem exec_frameSync_tracking (h4 : (navCh s c).state = 4) (hg : domGated s .nav = false) (tx : Rat) :
    ∃ t, exec (.frameSync c tx) s = .next t ∧ SyncedAs c { navCh s c with state := 5, since := s.cclk, tx := some tx, halfOk := true } t := by
  change ∃ t, execFrameSync c tx s = .next t ∧ _
  unfold execFrameSync
  extract_lets v x tracking timed followed
  rw [if_neg (by simp [v, h4, hg])]
  have hx : x.state ≠ 0 := (by decide : (5 : BitVec 3) ≠ 0)
  have htracking : navCh tracking c = x := navCh_setNavCh_val (ne_default_of_state hx) c s
  have htimed : SyncedAs c x timed := by
    unfold timed
    split
    next hrx => exact ⟨htracking, hrx⟩
    next => exact ⟨htracking, rfl⟩
  have hfollowed : SyncedAs c x followed := by
    unfold followed
    split
    · exact htimed.windowEntry hx _ _ _ _ _ _
    · exact htimed
  refine ⟨_, rfl, ?_⟩
  split
  · exact hfollowed.windowEntry hx _ _ _ _ _ _
  · exact hfollowed

theorem frameSync_facts (h4 : (navCh s c).state = 4) (hg : domGated s .nav = false) (tx : Rat) :
    ∃ t, exec (.frameSync c tx) s = .next t ∧ (navCh t c).state = 5 ∧ (navCh t c).tx = some tx ∧ (navCh t c).halfOk = true
      ∧ t.nav.rxSet = true ∧ Only [.nav] s t := by
  obtain ⟨t, ht, hch, hrx⟩ := exec_frameSync_tracking h4 hg tx
  refine ⟨t, ht, ?_⟩
  rw [hch]
  exact ⟨rfl, rfl, rfl, hrx, execFrameSync_only c tx s t ht⟩

theorem exec_frameSync_idle (h : (navCh s c).state ≠ 4 ∨ domGated s .nav = true) (tx : Rat) : exec (.frameSync c tx) s = .next s := if_pos h

end Synchronisation

/-! Time-outs and dwells. -/

theorem exec_acqVerifyTimeout_over {s : State} {c : Fin 192} (h : verifyOver s (navCh s c) = true) :
    exec (.acqVerifyTimeout c) s
      = .next (freeChan c (modNav (fun n => { n with falseAl := if (navCh s c).window then n.falseAl else n.falseAl + 1 }) s)) := if_pos h

theorem exec_acqVerifyTimeout_early {s : State} {c : Fin 192} (h : verifyOver s (navCh s c) = false) : exec (.acqVerifyTimeout c) s = .next s :=
  if_neg (Bool.eq_false_iff.mp h)

theorem exec_reacqTimeout_over {s : State} {c : Fin 192} (h : reacqOver s (navCh s c) = true) : exec (.reacqTimeout c) s = .next (freeChan c s) := if_pos h

theorem exec_reacqTimeout_early {s : State} {c : Fin 192} (h : reacqOver s (navCh s c) = false) : exec (.reacqTimeout c) s = .next s :=
  if_neg (Bool.eq_false_iff.mp h)

theorem exec_aidedDwellEnd_early {s : State} {c : Fin 192}
    (h : dwelling (navCh s c) = false ∨ domGated s .nav = true ∨ s.cclk < (navCh s c).dwellAt + dwellTicks s (navCh s c).sig) (iq1 iq2 : List Byte) :
    exec (.aidedDwellEnd c iq1 iq2) s = .next s := if_pos h

section DwellEnd

variable {s : State} {c : Fin 192} {v : NavChan} (hv : v = navCh s c) {iq1 iq2 : List Byte}
  (hd : dwelling v = true) (hg : domGated s .nav = false) (ht : v.dwellAt + dwellTicks s v.sig ≤ s.cclk)
include hv hd hg ht

theorem exec_aidedDwellEnd_found {code dopp : Rat} (hf : dwellFound s v (dwellBytes v iq1 iq2) = some (code, dopp)) :
    ∃ x : NavChan, exec (.aidedDwellEnd c iq1 iq2) s = .next (setNavCh c x s) ∧ x.state = 2 ∧ x.found = true ∧ x.code = code ∧ x.dopp = dopp := by
  subst hv
  exact ⟨_, (if_neg (by simp [hd, hg, Nat.not_lt.mpr ht])).trans (by rw [hf]), rfl, rfl, rfl, rfl⟩

variable (hn : dwellFound s v (dwellBytes v iq1 iq2) = none)
include hn

/-- A dwell that found nothing is one more of its window, or the last. -/
theorem exec_aidedDwellEnd_empty :
    exec (.aidedDwellEnd c iq1 iq2) s = if v.state = 2 ∨ v.dwells + 1 < aidedDwells s v then .next (setNavCh c { v with dwells := v.dwells + 1, dwellAt := s.cclk } s)
      else if v.state = 1 then .next (freeChan c (modNav (fun m => { m with unaided := (v.sig, v.prn) :: m.unaided }) s))
      else .next (setNavCh c { v with dwells := 0, dwellAt := s.cclk } s) := by
  subst hv
  exact (if_neg (by simp [hd, hg, Nat.not_lt.mpr ht])).trans (by rw [hn])

theorem exec_aidedDwellEnd_counts (h : v.state = 2 ∨ v.dwells + 1 < aidedDwells s v) :
    exec (.aidedDwellEnd c iq1 iq2) s = .next (setNavCh c { v with dwells := v.dwells + 1, dwellAt := s.cclk } s) :=
  (exec_aidedDwellEnd_empty hv hd hg ht hn).trans (if_pos h)

theorem exec_aidedDwellEnd_exhausted (h2 : v.state ≠ 2) (he : aidedDwells s v ≤ v.dwells + 1) :
    exec (.aidedDwellEnd c iq1 iq2) s = if v.state = 1 then .next (freeChan c (modNav (fun m => { m with unaided := (v.sig, v.prn) :: m.unaided }) s))
      else .next (setNavCh c { v with dwells := 0, dwellAt := s.cclk } s) :=
  (exec_aidedDwellEnd_empty hv hd hg ht hn).trans (if_neg (not_or.mpr ⟨h2, Nat.not_lt.mpr he⟩))

theorem exec_aidedDwellEnd_unaided (h1 : v.state = 1) (he : aidedDwells s v ≤ v.dwells + 1) :
    exec (.aidedDwellEnd c iq1 iq2) s = .next (freeChan c (modNav (fun m => { m with unaided := (v.sig, v.prn) :: m.unaided }) s)) :=
  (exec_aidedDwellEnd_exhausted hv hd hg ht hn (by rw [h1]; decide) he).trans (if_pos h1)

theorem exec_aidedDwellEnd_repeats (h6 : v.state = 6) (he : aidedDwells s v ≤ v.dwells + 1) :
    exec (.aidedDwellEnd c iq1 iq2) s = .next (setNavCh c { v with dwells := 0, dwellAt := s.cclk } s) :=
  (exec_aidedDwellEnd_exhausted hv hd hg ht hn (by rw [h6]; decide) he).trans (if_neg (by rw [h6]; decide))

end DwellEnd

/-! The other channels. -/

/-- Every channel but c is after the answer as it was in s. -/
def KeepsOthers (c : Nat) (s : State) (r : Res) : Prop := ∀ t, r = .next t → ∀ j, j ≠ c → navCh t j = navCh s j

theorem keepsOthers_self (c : Nat) (s : State) : KeepsOthers c s (.next s) := by
  rintro _ ⟨⟩ j _
  rfl

theorem keepsOthers_setNavCh (c : Nat) (v : NavChan) (s : State) : KeepsOthers c s (.next (setNavCh c v s)) := by
  rintro _ ⟨⟩ j hj
  exact navCh_setNavCh_ne hj v s

theorem keepsOthers_raise_setNavCh (c : Nat) (v : NavChan) (e : Nat) (p0 p1 p2 : Word) (s : State) :
    KeepsOthers c s (.next (raise e p0 p1 p2 (setNavCh c v s))) := by
  rintro _ ⟨⟩ j hj
  exact (navCh_raise e p0 p1 p2 _ j).trans (navCh_setNavCh_ne hj v s)

theorem KeepsOthers.ite {c : Nat} {s : State} {a b : Res} {p : Prop} [Decidable p] (ha : KeepsOthers c s a) (hb : KeepsOthers c s b) :
    KeepsOthers c s (if p then a else b) := by
  split
  · exact ha
  · exact hb

/-- The lock events and bit synchronisation write the one channel that they name. -/
theorem lockEvents_keepOthers (c : Fin 192) (s : State) (iq : List Byte) (e : Nat) (i : Instr)
    (hi : i ∈ ([.trkPllLock ⟨c, iq⟩, .navLockLost ⟨c, iq⟩, .sidePeakMove ⟨c, iq⟩, .bitSync ⟨c, e⟩] : List Instr)) : KeepsOthers c s (exec i s) := by
  simp only [List.mem_cons, List.not_mem_nil, or_false] at hi
  rcases hi with rfl | rfl | rfl | rfl
  case inl => exact keepsOthers_setNavCh c _ s
  case inr.inl => exact (keepsOthers_raise_setNavCh c _ _ _ _ _ s).ite (keepsOthers_setNavCh c _ s)
  case inr.inr.inl => exact (keepsOthers_setNavCh c _ s).ite (keepsOthers_setNavCh c _ s)
  case inr.inr.inr => exact (keepsOthers_setNavCh c _ s).ite (keepsOthers_self c s)

/-- Settles O34: each event by the branch of its command, the other channels by the one channel that a lock event writes. -/
theorem navChannelEvents : Obligations.NavChannelEvents := by
  intro c s iq iq1 iq2 v u hv hu
  rw [hv] at hu
  refine ⟨exec_trkPllLock_locked hu, exec_trkPllLock_tracks hu, navLockLost_facts hu, exec_navLockLost_tracks hu,
    exec_sidePeakMove_moves hu, exec_sidePeakMove_tracks hu, ?bit, ?noBit, ?frame, ?noFrame, ?verify, ?noVerify, ?reacq, ?noReacq, ?early, ?dwell,
    fun e i hi => lockEvents_keepOthers c s iq e i hi⟩
  case dwell =>
    exact fun hd hg ht => ⟨fun _ _ hf => exec_aidedDwellEnd_found hv hd hg ht hf, exec_aidedDwellEnd_counts hv hd hg ht,
      exec_aidedDwellEnd_unaided hv hd hg ht, exec_aidedDwellEnd_repeats hv hd hg ht⟩
  all_goals subst hv
  case bit => exact exec_bitSync_synced
  case noBit => exact exec_bitSync_idle
  case frame => exact frameSync_facts
  case noFrame => exact exec_frameSync_idle
  case verify => exact exec_acqVerifyTimeout_over
  case noVerify => exact exec_acqVerifyTimeout_early
  case reacq => exact exec_reacqTimeout_over
  case noReacq => exact exec_reacqTimeout_early
  case early => exact fun h => exec_aidedDwellEnd_early h iq1 iq2

end Sys2Proof.Machine
end

section
/-! The fixed-point sine, cosine and square root (R71, R122): bounds that hold whatever error R122 leaves free. -/

namespace Sys2Proof.Machine

theorem pow2_natCast (n : ℕ) : pow2 n = 2 ^ n := by simp [pow2]

theorem pow2_neg_natCast (n : ℕ) : pow2 (-(n + 1 : ℕ)) = 1 / 2 ^ (n + 1) := by
  have hneg : ¬ (0 : ℤ) ≤ -(n + 1 : ℕ) := by omega
  rw [pow2, if_neg hneg, neg_neg, Int.toNat_natCast, Nat.cast_pow, Nat.cast_ofNat]

theorem pow2_neg64 : pow2 (-64) = 1 / 2 ^ 64 := pow2_neg_natCast 63

theorem cut64_eq (x : ℚ) : cut64 x = (⌊x * 2 ^ 64⌋ : ℚ) / 2 ^ 64 := by
  rw [cut64, show pow2 64 = 2 ^ 64 from pow2_natCast 64, pow2_neg64]
  exact mul_one_div _ _

/-- A cut to a multiple of 2^-64 stays within bounds that are such multiples. -/
theorem abs_cut64_le {x : ℚ} (n : ℕ) (h : |x| ≤ n / 32) : |cut64 x| ≤ n / 32 := by
  have hscale : (n / 32 : ℚ) * 2 ^ 64 = n * 2 ^ 59 := by ring
  have hx : |x * 2 ^ 64| ≤ (n : ℚ) * 2 ^ 59 := by
    rw [← hscale, abs_mul, abs_of_nonneg (by positivity : (0 : ℚ) ≤ 2 ^ 64)]
    gcongr
  obtain ⟨hlo, hhi⟩ := abs_le.mp hx
  have hfloor : (-(n * 2 ^ 59) : ℤ) ≤ ⌊x * 2 ^ 64⌋ := Int.le_floor.mpr (by exact_mod_cast hlo)
  rw [cut64_eq, abs_div, abs_of_nonneg (by positivity : (0 : ℚ) ≤ 2 ^ 64), div_le_iff₀ (by positivity), hscale]
  exact abs_le.mpr ⟨by exact_mod_cast hfloor, (Int.floor_le _).trans hhi⟩

theorem abs_halfTurn_le (x : ℚ) : |halfTurn x| ≤ 1 / 2 := by
  have hle : (⌊x + 1 / 2⌋ : ℚ) ≤ x + 1 / 2 := Int.floor_le _
  have hlt : x + 1 / 2 < ⌊x + 1 / 2⌋ + 1 := Int.lt_floor_add_one _
  change |x - (⌊x + 1 / 2⌋ : ℚ)| ≤ 1 / 2
  exact abs_le.mpr ⟨by linarith, by linarith⟩

theorem abs_clampQ_le {b : ℚ} (hb : 0 ≤ b) (x : ℚ) : |clampQ (-b) b x| ≤ b := by
  unfold clampQ
  split
  · rw [abs_neg, abs_of_nonneg hb]
  · split
    · rw [abs_of_nonneg hb]
    next hlo hhi => exact abs_le.mpr ⟨not_lt.mp hlo, not_lt.mp hhi⟩

section Series

variable {z : ℚ} (h0 : 0 ≤ z)
include h0

/-- One term more of the alternating series, of a bounded tail. -/
theorem abs_altSeries_succ {a k : ℕ} {c f : ℚ} (htail : |altSeries z (a + 2) k| ≤ c) (hf : z / ((a * (a + 1) : ℕ) : ℚ) ≤ f) :
    |altSeries z a (k + 1)| ≤ 1 + f * c := by
  have hz : 0 ≤ z / ((a * (a + 1) : ℕ) : ℚ) := div_nonneg h0 (Nat.cast_nonneg _)
  calc |altSeries z a (k + 1)| = |1 - z / ((a * (a + 1) : ℕ) : ℚ) * altSeries z (a + 2) k| := rfl
    _ ≤ |1| + |z / ((a * (a + 1) : ℕ) : ℚ) * altSeries z (a + 2) k| := abs_sub _ _
    _ = 1 + z / ((a * (a + 1) : ℕ) : ℚ) * |altSeries z (a + 2) k| := by rw [abs_one, abs_mul, abs_of_nonneg hz]
    _ ≤ 1 + f * c := by linarith [mul_le_mul hf htail (abs_nonneg _) (hz.trans hf)]

variable (h10 : z ≤ 10)
include h10

theorem abs_altSeries_tail (k : ℕ) : ∀ a : ℕ, 5 ≤ a → |altSeries z a k| ≤ 3 / 2 := by
  induction k with
  | zero => intro a _; norm_num [altSeries]
  | succ k ih =>
    intro a ha
    have hf : z / ((a * (a + 1) : ℕ) : ℚ) ≤ 1 / 3 := by
      have ha' : (5 : ℚ) ≤ a := by exact_mod_cast ha
      rw [div_le_iff₀ (by push_cast; positivity)]
      push_cast
      nlinarith
    exact (abs_altSeries_succ h0 (ih (a + 2) (by omega)) hf).trans (by norm_num)

theorem abs_altSeries_sine : |altSeries z 2 20| ≤ 4 := by
  have h4 := abs_altSeries_succ (a := 4) (f := 1 / 2) h0 (abs_altSeries_tail h0 h10 18 6 (by decide)) (by norm_num; linarith)
  exact (abs_altSeries_succ (f := 5 / 3) h0 h4 (by norm_num; linarith)).trans (by norm_num)

theorem abs_altSeries_cosine : |altSeries z 1 20| ≤ 49 / 4 := by
  have h3 := abs_altSeries_succ (a := 3) (f := 5 / 6) h0 (abs_altSeries_tail h0 h10 18 5 (by decide)) (by norm_num; linarith)
  exact (abs_altSeries_succ (f := 5) h0 h3 (by norm_num; linarith)).trans (by norm_num)

end Series

/-- An angle in turns as the series take it, in radians from -π to π. -/
theorem abs_radians_le (x : ℚ) : |cut64 (2 * piQ * halfTurn x)| ≤ 101 / 32 := by
  refine abs_cut64_le 101 ?_
  have hpi : |2 * piQ| ≤ 101 / 16 := by norm_num [piQ]
  calc |2 * piQ * halfTurn x| = |2 * piQ| * |halfTurn x| := abs_mul _ _
    _ ≤ 101 / 16 * (1 / 2) := by gcongr; exact abs_halfTurn_le x
    _ = (101 : ℕ) / 32 := by norm_num

theorem sq_radians_le (x : ℚ) : cut64 (2 * piQ * halfTurn x) * cut64 (2 * piQ * halfTurn x) ≤ 10 := by
  have h := abs_radians_le x
  rw [← abs_mul_abs_self]
  nlinarith [abs_nonneg (cut64 (2 * piQ * halfTurn x))]

theorem abs_sinExact_le (x : ℚ) : |sinExact x| ≤ 13 := by
  have hs := abs_altSeries_sine (mul_self_nonneg (cut64 (2 * piQ * halfTurn x))) (sq_radians_le x)
  refine (abs_cut64_le 416 ?_).trans (by norm_num)
  rw [abs_mul]
  calc _ ≤ (101 / 32 : ℚ) * 4 := by gcongr; exact abs_radians_le x
    _ ≤ (416 : ℕ) / 32 := by norm_num

theorem abs_cosExact_le (x : ℚ) : |cosExact x| ≤ 13 := by
  have hs := abs_altSeries_cosine (mul_self_nonneg (cut64 (2 * piQ * halfTurn x))) (sq_radians_le x)
  exact (abs_cut64_le 416 (hs.trans (by norm_num))).trans (by norm_num)

theorem trigBound_eq : trigBound = 1 / 2 ^ 30 - 1 / 2 ^ 60 := by
  rw [trigBound, show pow2 (-30) = 1 / 2 ^ 30 from pow2_neg_natCast 29, show pow2 (-60) = 1 / 2 ^ 60 from pow2_neg_natCast 59]

theorem trigBound_nonneg : 0 ≤ trigBound := by norm_num [trigBound_eq]

theorem trigBound_le_one : trigBound ≤ 1 := by norm_num [trigBound_eq]

theorem abs_sinTurns_le (x : ℚ) : |sinTurns x| ≤ 14 := by
  have he := abs_clampQ_le trigBound_nonneg (Config.trigError 0 x)
  exact (abs_add_le _ _).trans (by linarith [abs_sinExact_le x, trigBound_le_one])

theorem abs_cosTurns_le (x : ℚ) : |cosTurns x| ≤ 14 := by
  have he := abs_clampQ_le trigBound_nonneg (Config.trigError 1 x)
  exact (abs_add_le _ _).trans (by linarith [abs_cosExact_le x, trigBound_le_one])

theorem sqrtQ_eq (x : ℚ) : sqrtQ x = (Nat.sqrt ⌊x * 2 ^ 128⌋.toNat : ℚ) / 2 ^ 64 := by
  rw [sqrtQ, show pow2 128 = 2 ^ 128 from pow2_natCast 128, pow2_neg64]
  exact mul_one_div _ _

theorem sqrtQ_le {x : ℚ} {n : ℕ} (h : x ≤ n * n) : sqrtQ x ≤ n := by
  have hfloor : ⌊x * 2 ^ 128⌋ ≤ ((n * 2 ^ 64 * (n * 2 ^ 64) : ℕ) : ℤ) := by
    refine Int.floor_le_iff.mpr ?_
    push_cast
    linarith
  have hsqrt : Nat.sqrt ⌊x * 2 ^ 128⌋.toNat ≤ n * 2 ^ 64 :=
    (Nat.sqrt_le_sqrt (Int.toNat_le.mpr hfloor)).trans (Nat.sqrt_eq _).le
  rw [sqrtQ_eq, div_le_iff₀ (by positivity)]
  exact_mod_cast hsqrt

theorem sqrtQ_mul_self (n : ℕ) : sqrtQ (n * n) = n := by
  have hsq : ((n : ℚ) * n) * 2 ^ 128 = ((n * 2 ^ 64 * (n * 2 ^ 64) : ℕ) : ℚ) := by
    push_cast
    ring
  rw [sqrtQ_eq, hsq, Int.floor_natCast, Int.toNat_natCast, Nat.sqrt_eq, Nat.cast_mul]
  norm_num

end Sys2Proof.Machine
end

section
/-! What an epoch, the clock check and a landing leave of the last solution (R164, R187, R191). -/

namespace Sys2Proof.Machine

/-- A fold of steps that each leave a reading of the state leaves it. -/
theorem foldl_keeps {α β : Type} (g : State → β) {f : State → α → State} (hf : ∀ u x, g (f u x) = g u) (l : List α) (s : State) :
    g (l.foldl f s) = g s := by
  induction l generalizing s with
  | nil => rfl
  | cons x l ih => exact (ih (f s x)).trans (hf s x)

theorem landFrom_nav (eng idx : Nat) (l : List Word) (ns : Nat) (s : State) : (landFrom eng idx l ns s).nav = s.nav :=
  (landFrom_only eng idx l ns s).nav rfl

theorem raise_pos (c : Nat) (p0 p1 p2 : Word) (s : State) : (raise c p0 p1 p2 s).nav.pos = s.nav.pos := congrArg Nav.pos (raise_nav c p0 p1 p2 s)

theorem landFrom_pos (eng idx : Nat) (l : List Word) (ns : Nat) (s : State) : (landFrom eng idx l ns s).nav.pos = s.nav.pos :=
  congrArg Nav.pos (landFrom_nav eng idx l ns s)

theorem nextJob_pos (s : State) : (nextJob s).nav.pos = s.nav.pos := by
  unfold nextJob
  extract_lets here turned
  have hturned : turned.nav.pos = s.nav.pos := by
    unfold turned
    split <;> rfl
  split
  · exact hturned
  · split <;> exact hturned

theorem wakeBank_pos (s : State) : (wakeBank s).nav.pos = s.nav.pos := by
  unfold wakeBank
  split
  · rfl
  · exact nextJob_pos s

theorem assignAided_pos (s : State) : (assignAided s).nav.pos = s.nav.pos := by
  unfold assignAided
  split
  · rfl
  · refine foldl_keeps (·.nav.pos) (fun u j => ?_) _ s
    split
    · rfl
    · split
      · split <;> rfl
      · rfl

theorem portChecks_pos (counts : List Nat) (s : State) : (portChecks counts s).nav.pos = s.nav.pos := by
  unfold portChecks
  refine foldl_keeps (·.nav.pos) (fun u p => ?_) _ s
  split
  · rfl
  · extract_lets rate bad m failed failing expect k
    split
    · split
      · rfl
      · exact raise_pos _ _ _ _ _
    · split
      · split
        · exact raise_pos _ _ _ _ _
        · rfl
      · rfl

theorem rxLatch_pos (s : State) : (rxLatch s).nav.pos = s.nav.pos := by
  unfold rxLatch
  extract_lets timed
  have htimed : timed.nav.pos = s.nav.pos := by
    unfold timed
    split <;> rfl
  split
  · exact htimed
  · exact (raise_pos _ _ _ _ _).trans htimed

theorem dgState_pos (recs : List (NavChan × NavRec)) (s : State) : (dgState recs s).nav.pos = s.nav.pos := by
  unfold dgState
  extract_lets n on age
  split
  · rfl
  · exact raise_pos _ _ _ _ _

/-- A check's evaluation changes the marks and the runs of clean evaluations alone. -/
theorem evalSolution_nav (bit : Nat) (fail : Bool) (stat : Rat) (n : Nat) (s : State) :
    (evalSolution bit fail stat n s).nav = { s.nav with marks := (evalSolution bit fail stat n s).nav.marks, clean := (evalSolution bit fail stat n s).nav.clean } := by
  unfold evalSolution
  extract_lets m marked k counted
  split
  · split
    · rfl
    · rw [raise_nav]
      rfl
  · split
    · rw [raise_nav]
      rfl
    · rfl

theorem evalSolution_pos (bit : Nat) (fail : Bool) (stat : Rat) (n : Nat) (s : State) : (evalSolution bit fail stat n s).nav.pos = s.nav.pos := by
  rw [evalSolution_nav]

theorem evalSolution_isFix (bit : Nat) (fail : Bool) (stat : Rat) (n : Nat) (s : State) : (evalSolution bit fail stat n s).nav.isFix = s.nav.isFix := by
  rw [evalSolution_nav]

theorem clockCheck_isFix (op : NavOp) (s : State) : (clockCheck op s).nav.isFix = s.nav.isFix := by
  unfold clockCheck
  extract_lets +onlyGivenNames w off
  clear_value w off
  split
  · rfl
  · extract_lets +onlyGivenNames t young pts
    clear_value t young pts
    extract_lets +onlyGivenNames checked
    have hchecked : checked.nav.isFix = s.nav.isFix := by
      unfold checked
      split
      · rfl
      · split
        · exact evalSolution_isFix _ _ _ _ s
        · rfl
    split <;> exact hchecked

theorem epochDone_pos (op : NavOp) (e : NavSamples) (s : State) : (epochDone op e s).nav.pos = s.nav.pos := by
  unfold epochDone
  extract_lets +onlyGivenNames latched l chans recs0 checked marked recs landed headed pairs rated noise pj noised jumped d run counted directed tr mean aligned
  have hlatched : latched.nav.pos = s.nav.pos := (rxLatch_pos _).trans (portChecks_pos _ _)
  clear_value latched
  have hchecked : checked.nav.pos = latched.nav.pos := by
    refine foldl_keeps (·.nav.pos) (fun u r => ?_) _ latched
    split
    · rfl
    · extract_lets +onlyGivenNames lam x v kept
      have hkept : kept.nav.pos = u.nav.pos := by
        unfold kept
        split <;> rfl
      split
      · exact (raise_pos _ _ _ _ _).trans hkept
      · exact hkept
  clear_value checked marked recs
  have hlanded : landed.nav.pos = checked.nav.pos := by
    refine foldl_keeps (·.nav.pos) (fun u r => ?_) _ checked
    exact landFrom_pos _ _ _ _ u
  clear_value landed
  have hheaded : headed.nav.pos = landed.nav.pos := landFrom_pos _ _ _ _ landed
  clear_value headed
  have hrated : rated.nav.pos = headed.nav.pos := dgState_pos _ (modNav _ headed)
  have hnoised : noised.nav.pos = rated.nav.pos := rfl
  clear_value rated noise pj noised
  have hjumped : jumped.nav.pos = noised.nav.pos := evalSolution_pos _ _ _ _ noised
  clear_value jumped
  have hdirected : directed.nav.pos = jumped.nav.pos := by
    unfold directed
    split
    · split
      · rfl
      · exact evalSolution_pos _ _ _ _ counted
    · rfl
  clear_value directed
  exact (wakeBank_pos _).trans ((assignAided_pos _).trans
    (hdirected.trans (hjumped.trans (hnoised.trans (hrated.trans (hheaded.trans (hlanded.trans (hchecked.trans hlatched))))))))

end Sys2Proof.Machine
end

section
/-! The bootstrap epoch of a device locked to GNSS (R26, R187, R394, R402). -/

namespace Sys2Proof.Machine

/-! A device in SYNC with a fix. Six satellites stand on the axes about the origin, so that the solution is exact there; the values of sine and cosine are
free inside R122's bound, and the dilution stays below its limit whatever they are. Every signal has type VOID, so that no write changes the directory. -/

/-- The entries of the record of a channel whose satellite stands 20,000 km along one axis, with a pseudorange of that length and a correction. -/
def axisEntries (c axis : Nat) (w : Word) : List (Nat × SdirEntry) :=
  [(16 * c, { value := w32 (c + 1) }), (16 * c + 1, { value := 1280000000 }), (16 * c + 6 + axis, { value := w }), (16 * c + 15, { value := 9, state := 1 })]

/-- The directory: the six records, and of the solution's group a time offset of 1,000 ns, its deviation 0, and the time status. -/
def bootDirectory : List (Nat × SdirEntry) :=
  axisEntries 0 0 640000000 ++ axisEntries 1 0 (-640000000) ++ axisEntries 2 1 640000000 ++ axisEntries 3 1 (-640000000)
    ++ axisEntries 4 2 640000000 ++ axisEntries 5 2 (-640000000) ++ [(0x1008, { value := 1000, state := 1 }), (0x1009, { state := 1 }), (0x100F, { value := 1, state := 1 })]

/-- A device in SYNC, synchronised to GNSS as its one source, with no schedule and a trim of 0. NAVC gives a range deviation of 1 m, the highest HDOP limit,
the solution's group at 0x1000, the landed records at 0 and the marks at 0x2000; TTUT gives GNSS as the first source, GM_EN, KP 1, a rate slew of 4096 ppt, a
deviation limit of 16 ns and an outlier limit of 4096 ns. -/
def bootLocked : State :=
  { State.reset with
    boot := { State.reset.boot with dev := .sync, sealed := true }
    sects := [{ type := .navc, inst := 0, dest := 0, len := 0, unpack := 0 }, { type := .ttut, inst := 0, dest := 0x100, len := 0, unpack := 0 }]
    sram := [(0x85, 1), (0x88, 0xFF), (0x89, 0xFF), (0x99, 0x10), (0xAD, 0x20), (0x100, 1), (0x104, 1), (0x10E, 1), (0x115, 0x10), (0x118, 0x10), (0x11D, 0x10)]
    ptc := { State.reset.ptc with gm := true, status := 1, sel := 0, srcs := [(0, { valid := true })] }
    sdir := bootDirectory }

/-- Of bootLocked nothing has changed but the navigation state, the landing buffers and what is recorded. -/
def NavChanged (t : State) : Prop := Only [.lbus, .evm, .recd, .nav] bootLocked t

theorem NavChanged.modNav {t : State} (h : NavChanged t) (f : Nav → Nav) : NavChanged (modNav f t) := Only.after (modNav_only f t) (by decide) h

section
variable {t : State} (h : NavChanged t)
include h

theorem NavChanged.fld (ty : SectType) (i off n : Nat) : fld t ty i off n = fld bootLocked ty i off n := by
  unfold Machine.fld sectOf
  rw [Only.sects h rfl, Only.sram h rfl]

theorem NavChanged.nv (off n : Nat) : nv t off n = nv bootLocked off n := h.fld .navc 0 off n

theorem NavChanged.tt (off n : Nat) : tt t off n = tt bootLocked off n := h.fld .ttut 0 off n

theorem NavChanged.ent (i : Nat) : ent t i = ent bootLocked i := ent_of_only h rfl i

theorem NavChanged.landRecs : landRecs t = landRecs bootLocked := by
  unfold Machine.landRecs sigW sigQ sigNan
  simp only [h.nv, h.ent]

end

/-- The record that axisEntries lands. -/
def axisRecord (c : Nat) (sv : List Rat) : LandRec :=
  { chan := c, prn := c + 1, sig := 0, ant := 0, flags := 9, pr := 20000000, ph := 0, dopp := 0, sv := sv, vel := [0, 0, 0], corr := 0, iono := 0, elev := 0 }

/-- The six records of bootLocked's directory. -/
def axisRecords : List LandRec :=
  [axisRecord 0 [20000000, 0, 0], axisRecord 1 [-20000000, 0, 0], axisRecord 2 [0, 20000000, 0], axisRecord 3 [0, -20000000, 0], axisRecord 4 [0, 0, 20000000],
   axisRecord 5 [0, 0, -20000000]]

/-- The fields of a record, as data that is compared. -/
def LandRec.fields (r : LandRec) : List Nat × List (List Rat) × Word :=
  ([r.chan, r.prn, r.sig, r.ant, r.flags], [r.sv, r.vel, [r.pr, r.dopp, r.corr, r.iono, r.elev]], r.ph)

theorem LandRec.fields_injective : Function.Injective LandRec.fields := by
  rintro ⟨⟩ ⟨⟩ h
  simpa [LandRec.fields, and_assoc, and_left_comm, and_comm] using h

theorem landRecs_bootLocked : landRecs bootLocked = axisRecords :=
  List.map_injective_iff.mpr LandRec.fields_injective (by decide +kernel)

/-- The measurement that a record of axisRecords gives; b says whether its correction counts as of SBAS. -/
def axisMeasurement (sv : List Rat) (b : Bool) : PvtMeas := { con := 0, rho := 20000000, var := 1, dopp := 0, sig := 0, sv := sv, vel := [0, 0, 0], dg := true, sbas := b }

/-- The measurements of all six records. -/
def axisMeasurements (b : Nat → Bool) : List PvtMeas := axisRecords.map (fun r => axisMeasurement r.sv (b r.chan))

theorem axisRecords_form : ∀ r ∈ axisRecords, r = axisRecord r.chan r.sv := by
  simp [axisRecords, axisRecord]

section
variable {t : State} (h : NavChanged t)
include h

theorem pvtMeas_axisRecord (c : Nat) (sv : List Rat) : pvtMeas t (some (axisRecord c sv)) none = some (axisMeasurement sv (!t.nav.rtcmChans.contains c)) := by
  have hflag : bitOf 9 3 = true := by decide
  have ha : nv bootLocked 0x84 2 = 256 := by decide +kernel
  have hb : nv bootLocked 0x86 2 = 0 := by decide +kernel
  simp [pvtMeas, axisRecord, axisMeasurement, h.nv, ha, hb, hflag, conOf]

theorem recClean_axisRecord (c : Nat) (sv : List Rat) : recClean t (axisRecord c sv) = true := by
  have hm : nv bootLocked 0x52 1 = 0 := by decide +kernel
  have h4 : bitOf 9 4 = false := by decide
  have h5 : bitOf 9 5 = false := by decide
  have h6 : bitOf 9 6 = false := by decide
  simp [recClean, axisRecord, h.nv, hm, h4, h5, h6]

theorem pvtInputs_eq : pvtInputs t = axisMeasurements (fun c => !t.nav.rtcmChans.contains c) := by
  have hused : (decide (0 = 0) && bitOf 9 0) = true := by decide
  have hmode : nv t 0x42 1 = 0 := by rw [h.nv]; decide +kernel
  unfold pvtInputs
  rw [h.landRecs, landRecs_bootLocked]
  extract_lets rs l1 l5 same all dg sel
  have hrs : rs = axisRecords := List.filter_eq_self.mpr fun r hr => by
    rw [axisRecords_form r hr]
    exact Bool.and_eq_true_iff.mpr ⟨hused, recClean_axisRecord h _ _⟩
  have hl1 : l1 = axisRecords := by
    refine (congrArg (List.filter _) hrs).trans (List.filter_eq_self.mpr fun r hr => ?_)
    rw [axisRecords_form r hr]
    rfl
  have hl5 : l5 = [] := by
    refine (congrArg (List.filter _) hrs).trans (List.filter_eq_nil_iff.mpr fun r hr => ?_)
    rw [axisRecords_form r hr]
    simp [axisRecord, isL1]
  have hall : all = axisMeasurements (fun c => !t.nav.rtcmChans.contains c) := by
    unfold all axisMeasurements
    rw [hl1, hl5, List.filter_nil, List.filterMap_nil, List.append_nil, ← List.filterMap_eq_map]
    refine List.filterMap_congr fun r hr => ?_
    rw [axisRecords_form r hr]
    exact pvtMeas_axisRecord h _ _
  have hsel : sel = all := if_neg fun hd => hd.1 hmode
  have hcon : sel.filter (fun m => m.con = 0) = sel := List.filter_eq_self.mpr fun m hm => by
    rw [hsel, hall] at hm
    obtain ⟨r, -, rfl⟩ := List.mem_map.mp hm
    rfl
  rw [hcon, ite_self, hsel, hall]

end

/-! Writes of signals of type VOID change nothing (R65). -/

/-- Every signal of the directory has type VOID. -/
def AllVoid (s : State) : Prop := ∀ i, entType (ent s i) = 0

theorem writeSig_of_void {s : State} (h : AllVoid s) (i : Nat) (w : Word) (q : Qual) (t : Word) : writeSig i w q t s = s := by
  simp only [writeSig, h i, ite_self]

theorem writeNum_of_void {s : State} (h : AllVoid s) (i : Nat) (v : Option Rat) (q : Qual) (t : Word) : writeNum i v q t s = s := by
  cases v with
  | none => exact writeSig_of_void h i _ _ _
  | some x => simp only [writeNum, h i, writeSig_of_void h]

theorem fitsSig_of_void {s : State} (h : AllVoid s) (i : Nat) (x : Rat) : fitsSig s i (some x) = true := by
  simp [fitsSig, h i]

theorem AllVoid.modNav {s : State} (h : AllVoid s) (f : Nav → Nav) : AllVoid (modNav f s) := h

/-- A property of every entry of a table and of what an unlisted key reads as is one of every key's reading. -/
theorem tget_all {α : Type} {p : α → Prop} {d : α} {l : Tab α} (hd : p d) (hl : ∀ x ∈ l, p x.2) (k : Nat) : p (tget d l k) := by
  induction l with
  | nil => exact hd
  | cons x l ih =>
    unfold tget
    split
    · exact hl x List.mem_cons_self
    · exact ih fun y hy => hl y (List.mem_cons_of_mem x hy)

theorem NavChanged.allVoid {t : State} (h : NavChanged t) : AllVoid t := fun i => by
  rw [h.ent]
  exact tget_all (p := fun e => entType e = 0) rfl (by decide) i

/-! The solution from axisRecords: the rows are unit vectors along the axes, and the position is the origin. -/

/-- The geometry matrix of axisRecords seen from the origin. -/
def axisRows : Mat := [[-1, 0, 0, 1], [1, 0, 0, 1], [0, -1, 0, 1], [0, 1, 0, 1], [0, 0, -1, 1], [0, 0, 1, 1]]

/-- The inverse of its normal matrix. -/
def axisCov : Mat := [[1 / 2, 0, 0, 0], [0, 1 / 2, 0, 0], [0, 0, 1 / 2, 0], [0, 0, 0, 1 / 6]]

theorem matInv_axisRows : matInv 4 (normalMat 4 axisRows [1, 1, 1, 1, 1, 1]) = some axisCov := by decide +kernel

theorem wls_axisRows : wls 4 axisRows [1, 1, 1, 1, 1, 1] [0, 0, 0, 0, 0, 0] = some ([0, 0, 0, 0], axisCov) := by decide +kernel

theorem sqrtQ_range : sqrtQ 400000000000000 = 20000000 := by
  have h := sqrtQ_mul_self 20000000
  norm_num at h
  exact h

theorem pvtRow_axis (b : Nat → Bool) : (axisMeasurements b).map (pvtRow [0] [0, 0, 0]) = axisRows := by
  simp [axisMeasurements, axisRecords, axisRecord, axisMeasurement, pvtRow, sub3, norm3, dot, sumQ, axisRows]
  norm_num [sqrtQ_range]

theorem weights_axis (b : Nat → Bool) : (axisMeasurements b).map (fun m => 1 / m.var) = [1, 1, 1, 1, 1, 1] := by
  simp [axisMeasurements, axisRecords, axisMeasurement]

theorem consOf_axis (b : Nat → Bool) : consOf (axisMeasurements b) = [0] := by
  simp [consOf, axisMeasurements, axisRecords, axisRecord, axisMeasurement]

theorem pvtIter_axis (b : Nat → Bool) : pvtIter [0] (axisMeasurements b) [0, 0, 0, 0] = some ([0, 0, 0, 0], axisCov) := by
  unfold pvtIter
  extract_lets x clk hrows y
  have hh : hrows = axisRows := pvtRow_axis b
  have hy : y = [0, 0, 0, 0, 0, 0] := by
    simp [y, x, clk, axisMeasurements, axisRecords, axisRecord, axisMeasurement, sub3, norm3, dot, sumQ]
    norm_num [sqrtQ_range]
  rw [hh, hy, weights_axis]
  exact (congrArg (Option.map _) wls_axisRows).trans (by simp)

/-- The position of axisRecords is a fixed point of the iteration (R186). -/
theorem pvtIter_axis_fold (b : Nat → Bool) :
    (List.range 4).foldl (fun o _ => o.bind (fun xb => pvtIter [0] (axisMeasurements b) xb.1)) (some ([0, 0, 0, 0], [])) = some ([0, 0, 0, 0], axisCov) := by
  simp [List.range, List.range.loop, pvtIter_axis]

theorem dot_zero3 (l : List Rat) : dot l [0, 0, 0] = 0 := by
  rcases l with _ | ⟨a, _ | ⟨b, _ | ⟨c, l⟩⟩⟩ <;> simp [dot, sumQ]

/-- The satellites of axisRecords stand still, and no Doppler is measured. -/
theorem rangeRates_axis (row : PvtMeas → List Rat) (b : Nat → Bool) :
    (axisMeasurements b).map (fun m => -(m.dopp * cLight / carrier m.sig) + dot (row m) m.vel) = [0, 0, 0, 0, 0, 0] := by
  simp [axisMeasurements, axisRecords, axisMeasurement, axisRecord, dot_zero3]

theorem quad_axisCov (x y z : Rat) : quad axisCov [x, y, z] = (x * x + y * y + z * z) / 2 := by
  simp [quad, axisCov, dot, sumQ]
  ring

theorem mul_self_le_of_abs_le {x b : Rat} (h : |x| ≤ b) : x * x ≤ b * b := by
  rw [← abs_mul_abs_self]
  exact mul_self_le_mul_self (abs_nonneg x) h

/-- The horizontal dilution of axisRecords is bounded along whatever axes the free error of the trigonometric functions gives. -/
theorem hdop_axisCov_le (lat lon : Rat) :
    sqrtQ (quad axisCov ((localAxes lat lon).getD 0 []) + quad axisCov ((localAxes lat lon).getD 1 [])) ≤ 197 := by
  have product {x y : Rat} (hx : |x| ≤ 14) (hy : |y| ≤ 14) : |x * y| ≤ 14 * 14 := by
    rw [abs_mul]
    gcongr
  have hnorth := mul_self_le_of_abs_le (product (abs_sinTurns_le lat) (abs_cosTurns_le lon))
  have heast := mul_self_le_of_abs_le (product (abs_sinTurns_le lat) (abs_sinTurns_le lon))
  have hup := mul_self_le_of_abs_le (abs_cosTurns_le lat)
  have hsin := mul_self_le_of_abs_le (abs_sinTurns_le lon)
  have hcos := mul_self_le_of_abs_le (abs_cosTurns_le lon)
  change sqrtQ (quad axisCov [-(sinTurns lat * cosTurns lon), -(sinTurns lat * sinTurns lon), cosTurns lat] + quad axisCov [-sinTurns lon, cosTurns lon, 0]) ≤ (197 : ℕ)
  refine sqrtQ_le ?_
  rw [quad_axisCov, quad_axisCov]
  push_cast
  linarith

/-- PVT_SOLVE of axisRecords from no position is a fix. -/
theorem pvtSolveEffect_fix {t : State} (h : NavChanged t) (hp : t.nav.pos = none) : NavChanged (pvtSolveEffect t) ∧ (pvtSolveEffect t).nav.isFix = true := by
  unfold pvtSolveEffect
  extract_lets +onlyGivenNames at_ b l cons x0 start sol enough q used
  have hl := pvtInputs_eq h
  change l = _ at hl
  generalize (fun c => !t.nav.rtcmChans.contains c) = sb at hl
  have hcons : cons = [0] := (congrArg consOf hl).trans (consOf_axis _)
  have hx0 : x0 = [0, 0, 0] := by
    unfold x0
    rw [hp]
  have hstart : start = some ([0, 0, 0, 0], []) := by
    unfold start
    rw [hx0, hcons]
    rfl
  have hsol : sol = some ([0, 0, 0, 0], axisCov) := by
    unfold sol
    rw [hstart, hcons, hl]
    exact pvtIter_axis_fold sb
  have henough : enough = true := by
    unfold enough
    rw [hcons, hl]
    rfl
  clear_value l cons sol enough
  subst hl hcons hsol henough
  rw [if_pos rfl]
  split
  case h_1 hnone => cases hnone
  case h_2 xb qm hsome =>
  cases hsome
  extract_lets +onlyGivenNames x hrows w g geo ax ga qa hdop pdop rr vel vloc bg off bound offSig results fix age fixed
  have hrows' : hrows = axisRows := pvtRow_axis sb
  have hw : w = [1, 1, 1, 1, 1, 1] := weights_axis sb
  have hg : g = axisCov := by
    unfold g
    rw [hrows', hw]
    exact congrArg (Option.getD · []) matInv_axisRows
  have hrr : rr = [0, 0, 0, 0, 0, 0] := rangeRates_axis _ sb
  have hvel : vel = [0, 0, 0, 0] := by
    unfold vel
    rw [hrows', hw, hrr]
    change (match wls 4 axisRows [1, 1, 1, 1, 1, 1] [0, 0, 0, 0, 0, 0] with
      | some r => r.1
      | none => []) = _
    rw [wls_axisRows]
  have hvloc (i : Nat) : vloc i = some (dot (ax.getD i []) [0, 0, 0]) := by
    unfold vloc
    rw [hvel]
    rfl
  have hhdop : hdop ≤ ((nv t 0x88 2 : Nat) : Rat) / 256 := by
    have hlim : nv t 0x88 2 = 65535 := by rw [h.nv]; decide +kernel
    rw [hlim]
    unfold hdop ga
    rw [hg]
    exact (hdop_axisCov_le _ _).trans (by norm_num)
  have hfits : results.all (fun r => fitsSig t (b + r.1) r.2) = true := by
    simp [results, hvloc, fitsSig_of_void h.allVoid]
  have hvoid : AllVoid fixed := h.allVoid.modNav _
  simp only [writeNum_of_void hvoid]
  exact ⟨h.modNav _, Bool.and_eq_true_iff.mpr ⟨decide_eq_true hhdop, hfits⟩⟩

/-- PVT_OUT of a fix without marks ends in the measurement of GNSS as a valid time source. -/
theorem pvtOutEffect_fix {t : State} (h : NavChanged t) (hfix : t.nav.isFix = true) : ∃ u, NavChanged u ∧ u.nav.tstat = 1 ∧ pvtOutEffect t = gnssMeasure u := by
  unfold pvtOutEffect
  extract_lets +onlyGivenNames at_ b marks fix tst out placed
  have hmarks : marks = 0 := by
    unfold marks sigW
    rw [h.nv, h.ent]
    decide +kernel
  have htst : tst = 1 := by
    unfold tst
    rw [hmarks, hfix]
    rfl
  have hout : NavChanged out := h.modNav _
  have hvoid : AllVoid out := hout.allVoid
  have hplaced : placed = out := by
    unfold placed
    split
    · simp only [writeNum_of_void hvoid, writeSig_of_void hvoid]
    · rfl
  refine ⟨out, hout, ?_, ?_⟩
  · exact congrArg (BitVec.ofNat 2) htst
  · rw [hplaced]
    simp only [writeSig_of_void hvoid]

/-! Without a schedule the trim follows the servo's rate at once (R26, R402). -/

theorem setRate_trim {s : State} (hrun : s.seq.run = false) (r : Rat) :
    (setRate r s).seq.trim = clampI (-200000) 200000 (roundEven (roundEven (r / 1000) : Int)) := by
  unfold setRate
  rw [if_neg (by rw [hrun]; decide)]
  rfl

theorem setTimeStatus_seq (n : BitVec 2) (s : State) : (setTimeStatus n s).seq = s.seq := (setTimeStatus_only n s).seq rfl

/-- What the servo computes for an offset: the new integral and rate (R401). -/
def servoAnswer (off : Rat) (s : State) : Rat × Rat :=
  servoLaw (((tt s 0x0C 4 : Nat) : Rat) / 65536) (((tt s 0x10 4 : Nat) : Rat) / 65536) ((tt s 0x14 4 : Nat) : Rat) s.ptc.i (servoRate s) off

theorem servo_trim {s : State} (hrun : s.seq.run = false) (off : Rat) :
    (servo off s).seq.trim = clampI (-200000) 200000 (roundEven (roundEven ((servoAnswer off s).2 / 1000) : Int)) := by
  rw [← setRate_trim (s := { s with ptc := { s.ptc with i := (servoAnswer off s).1, offset := off, predAt := s.ptc.counter } }) hrun]
  refine congrArg Seq.trim ?_
  unfold servo
  extract_lets kp ki p rated n counted m counted'
  split
  · split
    · exact setTimeStatus_seq _ _
    · rfl
  · split
    · split
      · exact setTimeStatus_seq _ _
      · rfl
    · rfl

/-- The directory makes GNSS a valid time source with an offset of 1,000 ns. -/
theorem gnssMeasure_eq {u : State} (h : NavChanged u) (htst : u.nav.tstat = 1) : gnssMeasure u = measure 0 1000 u := by
  have hptc : u.ptc = bootLocked.ptc := Only.ptc h rfl
  have hsrcIdx : srcIdx u 1 = some 0 := by
    unfold srcIdx srcKind fld8
    simp only [h.fld]
    decide +kernel
  have hsrc : (src u 0).valid = true := by
    unfold src
    rw [hptc]
    rfl
  unfold gnssMeasure
  rw [hsrcIdx]
  split
  case h_1 hnone => cases hnone
  case h_2 i hsome =>
  cases hsome
  extract_lets +onlyGivenNames b ok valid
  have hb : b = 0x1000 := by
    unfold b
    rw [h.nv]
    decide +kernel
  have hok : ok = true := by
    unfold ok sigQ sigNum
    rw [hptc, htst, hb]
    simp only [h.ent, h.tt]
    decide +kernel
  have hvalid : valid = u := by
    unfold valid setSrcValid
    rw [hok, if_pos hsrc]
    rfl
  have hoffset : sigNum u 0x1008 = some 1000 := by
    unfold sigNum
    rw [h.ent]
    decide +kernel
  rw [hvalid, hb, hoffset, hok]
  rfl

/-- A measurement of the selected source that is no outlier drives the servo. -/
theorem measure_eq_servo {i : Nat} {off : Rat} {s : State} (hv : (src s i).valid = true) (hst : s.ptc.status = 1)
    (hin : absQ (off - predicted s) ≤ ((tt s 0x1C 4 : Nat) : Rat)) (hsel : s.ptc.sel = i) :
    ∃ v, measure i off s = servo off v ∧ Only [.ptc] s v ∧ v.ptc.i = s.ptc.i ∧ servoRate v = servoRate s := by
  unfold measure
  extract_lets +onlyGivenNames x timed accepted turned
  have h0 : s.ptc.status ≠ 0 := by rw [hst]; decide
  have h3 : accepted.ptc.status ≠ 3 := fun h => absurd (hst.symm.trans h) (by decide)
  have hturned : turned = accepted := if_neg h3
  have hin' : ¬ (decide (((tt s 0x1C 4 : Nat) : Rat) < absQ (off - predicted s)) && decide (x.discRun < 3)) = true := by simp [not_lt.mpr hin]
  refine ⟨accepted, ?_, ?_, rfl, rfl⟩
  · rw [if_neg (by simp [x, hv]), if_neg h0, if_neg hin', hturned]
    exact if_pos hsel
  · exact Only.after (modSrc_only i _ _) (by decide) (only_upd_ptc _ (by decide) (Only.refl [.ptc] s))

/-- The offset of 1,000 ns gives a rate of 1,000 ppt, and the trim is its 1 ppb. -/
theorem gnssMeasure_trim {u : State} (h : NavChanged u) (htst : u.nav.tstat = 1) : (gnssMeasure u).seq.trim = 1 := by
  have hptc : u.ptc = bootLocked.ptc := Only.ptc h rfl
  have hin : absQ (1000 - predicted u) ≤ ((tt u 0x1C 4 : Nat) : Rat) := by
    unfold predicted servoRate
    rw [hptc, h.tt]
    decide +kernel
  have hvalid : (src u 0).valid = true := by
    unfold src
    rw [hptc]
    rfl
  obtain ⟨v, hmeasure, hv, hi, hrate⟩ := measure_eq_servo hvalid (by rw [hptc]; rfl) hin (by rw [hptc]; rfl)
  have hrun : v.seq.run = false := congrArg Seq.run ((hv.seq rfl).trans (Only.seq h rfl))
  have htt (off n : Nat) : tt v off n = tt bootLocked off n := by
    refine Eq.trans ?_ (h.tt off n)
    unfold tt fld sectOf
    rw [hv.sects rfl, hv.sram rfl]
  have hanswer : servoAnswer 1000 v = servoAnswer 1000 bootLocked := by
    unfold servoAnswer
    rw [htt, htt, htt, hi, hrate]
    unfold servoRate
    rw [hptc]
  rw [gnssMeasure_eq h htst, hmeasure, servo_trim hrun, hanswer]
  decide +kernel

/-- A device without landing buffers lands nothing. -/
theorem NavChanged.noLanding {t : State} (h : NavChanged t) : lbuCnt t = 0 := by
  unfold lbuCnt fld32
  rw [h.fld]
  decide +kernel

/-- The bootstrap epoch of bootLocked moves the trim to the servo's rate. -/
theorem navBootstrapEpoch_bootLocked (e : NavSamples) : ∃ t, exec (.navBootstrapEpoch e) bootLocked = .next t ∧ t.seq.trim = 1 := by
  have hrun : bootLocked.boot.dev = .sync ∧ bootLocked.seq.run = false ∧ bitOf (tt bootLocked 4 1) 0 = true ∧ (srcIdx bootLocked 1).isSome = true := by decide +kernel
  have h0 : NavChanged bootLocked := Only.refl _ _
  change ∃ t, execNavBootstrapEpoch e bootLocked = .next t ∧ _
  unfold execNavBootstrapEpoch
  rw [if_pos hrun]
  extract_lets +onlyGivenNames listed op measured land solved b cop checked landed
  have hland {t : State} (ht : NavChanged t) : land t = t := by
    unfold land
    rw [ht.noLanding]
    rfl
  have hlisted : NavChanged listed := Only.after (wakeBank_only _) (by decide) (h0.modNav _)
  have hlistedPos : listed.nav.pos = none := wakeBank_pos _
  clear_value listed
  have hmeasured : NavChanged measured := Only.after (epochDone_only op e listed) (by decide) hlisted
  have hmeasuredPos : measured.nav.pos = none := (epochDone_pos op e listed).trans hlistedPos
  clear_value measured
  have hsolved : NavChanged solved ∧ solved.nav.isFix = true := by
    unfold solved
    rw [hland hmeasured]
    exact pvtSolveEffect_fix hmeasured hmeasuredPos
  obtain ⟨hsolvedOnly, hfix⟩ := hsolved
  clear_value solved
  have hchecked : NavChanged checked := Only.after (clockCheck_only cop solved) (by decide) hsolvedOnly
  have hcheckedFix : checked.nav.isFix = true := (clockCheck_isFix cop solved).trans hfix
  clear_value checked
  have hlanded : NavChanged landed := Only.after (landFrom_only _ _ _ _ checked) (by decide) hchecked
  have hlandedFix : landed.nav.isFix = true := (congrArg Nav.isFix (landFrom_nav _ _ _ _ checked)).trans hcheckedFix
  clear_value landed
  obtain ⟨u, hu, htst, hout⟩ := pvtOutEffect_fix hlanded hlandedFix
  refine ⟨_, rfl, ?_⟩
  rw [hland hlanded, hout]
  exact gnssMeasure_trim hu htst

/-- Refutes O35: while a device in SYNC is locked to GNSS, the measurement at the end of a bootstrap epoch drives the servo, whose rate the trim follows
at once while no schedule runs (R26, R402), so the schedule's part of the state is not as before. -/
theorem not_navSearchAndMessages : ¬ Obligations.NavSearchAndMessages := by
  intro h
  obtain ⟨-, -, -, -, hboot, -⟩ := h bootLocked
  obtain ⟨t, ht, -, -, hseq⟩ := hboot rfl rfl (by decide +kernel) (by decide +kernel) { counts := [] }
  obtain ⟨u, hu, htrim⟩ := navBootstrapEpoch_bootLocked { counts := [] }
  have htu : t = u := Host.Outcome.next.inj (ht.symm.trans hu)
  rw [← htu, hseq] at htrim
  exact absurd htrim (by decide)

end Sys2Proof.Machine
end

section
/-! The operations of the QP solver (R204 to R221), the mode operations (R229, R230) and LCE_STEP (R267, R268). -/

namespace Sys2Proof.Machine

/-- An effect on entry n of a table of a declared size: an entry at or above the size is a contract breach (R55). -/
def onDeclared (size : State → Nat) (n : Nat) (w : Word) (f : State → State) (s : State) : State :=
  if size s ≤ n then breach 0x0107 w s else f s

theorem onDeclared_of_lt {size : State → Nat} {n : Nat} {s : State} (h : n < size s) (w : Word) (f : State → State) :
    onDeclared size n w f s = f s := if_neg (Nat.not_le.mpr h)

theorem onDeclared_of_le {size : State → Nat} {n : Nat} {s : State} (h : size s ≤ n) (w : Word) (f : State → State) :
    onDeclared size n w f s = breach 0x0107 w s := if_pos h

/-! The rule of an issue of the QP solver. -/

/-- An issued operation of the solver has its effect but after a break, which only a first segment ends. -/
theorem qpsIssue_of_issued {s : State} {eng : Nat} (h : issued s eng 0 = true) (t op : Nat) (first : Bool) (w : Word) (f : State → State) :
    qpsIssue eng t op first w f s = .next (dropLane (if (qTpl s t).broken && !first then s else f s)) := by
  have hheld : ¬ (s.seq.run && !s.seq.stopped && (isDisabled s eng 0 || halted s)) = true := by
    unfold issued at h
    simp_all
  rw [qpsIssue, if_neg hheld, issue_of_issued h]

theorem qpsIssue_of_halted {s : State} (hr : s.seq.run = true) (hs : s.seq.stopped = false) (hh : halted s = true)
    (eng t op : Nat) (first : Bool) (w : Word) (f : State → State) :
    qpsIssue eng t op first w f s = .next (dropLane (qpsBreak t op s)) := by
  simp [qpsIssue, hr, hs, hh]

/-! The five operations of the solver, as operations op of an engine on template t with effect f. -/

/-- What the solver's operations have in common: they issue by its rule, on a declared template. -/
def SolverOp (i : Instr) (eng t op : Nat) (first : Bool) (w : Word) (f : State → State) : Prop :=
  ∀ s, exec i s = qpsIssue eng t op first w (onDeclared tplCnt t w f) s

theorem solverOp_fsaBuild (t : BitVec 4) (e : BitVec 12) :
    SolverOp (.fsaBuild t e) 4 t.toNat 0 (e = 0) (opWord 4 1 (t.toNat + 16 * e.toNat)) (fsaBuildEffect t.toNat e.toNat) := fun _ => rfl

theorem solverOp_farFact (t : BitVec 4) (c : BitVec 9) :
    SolverOp (.farFact t c) 5 t.toNat 1 false (opWord 5 1 (t.toNat + 16 * c.toNat)) (farFactEffect t.toNat (c.toNat + 1)) := fun _ => rfl

theorem solverOp_farStart (t : BitVec 4) :
    SolverOp (.farStart t) 5 t.toNat 2 false (opWord 5 2 t.toNat) (farStartEffect t.toNat) := fun _ => rfl

theorem solverOp_farIter (t : BitVec 4) (k : BitVec 8) :
    SolverOp (.farIter t k) 5 t.toNat 3 false (opWord 5 3 (t.toNat + 16 * k.toNat)) (farIterEffect t.toNat k.toNat) := fun _ => rfl

theorem solverOp_farEnd (t : BitVec 4) :
    SolverOp (.farEnd t) 5 t.toNat 4 false (opWord 5 4 t.toNat) (farEndEffect t.toNat) := fun _ => rfl

namespace SolverOp

variable {i : Instr} {eng t op : Nat} {first : Bool} {w : Word} {f : State → State} {s : State}

theorem exec_unbroken (hi : SolverOp i eng t op first w f) (h : issued s eng 0 = true) (hb : (qTpl s t).broken = false) :
    exec i s = .next (dropLane (onDeclared tplCnt t w f s)) := by
  rw [hi s, qpsIssue_of_issued h, hb, Bool.false_and, if_neg Bool.false_ne_true]

theorem exec_declared (hi : SolverOp i eng t op first w f) (h : issued s eng 0 = true) (hb : (qTpl s t).broken = false) (ht : t < tplCnt s) :
    exec i s = .next (dropLane (f s)) := by
  rw [hi.exec_unbroken h hb, onDeclared_of_lt ht]

theorem exec_undeclared (hi : SolverOp i eng t op first w f) (h : issued s eng 0 = true) (hb : (qTpl s t).broken = false) (ht : tplCnt s ≤ t) :
    exec i s = .next (dropLane (breach 0x0107 w s)) := by
  rw [hi.exec_unbroken h hb, onDeclared_of_le ht]

/-- A first segment begins a solve anew, broken or not. -/
theorem exec_first (hi : SolverOp i eng t op true w f) (h : issued s eng 0 = true) (ht : t < tplCnt s) :
    exec i s = .next (dropLane (f s)) := by
  rw [hi s, qpsIssue_of_issued h, Bool.not_true, Bool.and_false, if_neg Bool.false_ne_true, onDeclared_of_lt ht]

theorem exec_broken (hi : SolverOp i eng t op false w f) (h : issued s eng 0 = true) (hb : (qTpl s t).broken = true) :
    exec i s = .next (dropLane s) := by
  rw [hi s, qpsIssue_of_issued h, hb, Bool.not_false, Bool.and_true, if_pos rfl]

theorem exec_halted (hi : SolverOp i eng t op first w f) (hr : s.seq.run = true) (hs : s.seq.stopped = false) (hh : halted s = true) :
    exec i s = .next (dropLane (qpsBreak t op s)) := by
  rw [hi s, qpsIssue_of_halted hr hs hh]

end SolverOp

/-- Every segment but the first is, to the rule of an issue, an operation that continues a solve. -/
theorem solverOp_laterSegment (t : BitVec 4) {e : BitVec 12} (he : e ≠ 0) :
    SolverOp (.fsaBuild t e) 4 t.toNat 0 false (opWord 4 1 (t.toNat + 16 * e.toNat)) (fsaBuildEffect t.toNat e.toNat) := by
  simpa only [decide_eq_false he] using solverOp_fsaBuild t e

/-! LCE_STEP, on a context that LCEK declares. -/

theorem exec_lceStep {c : BitVec 8} {s : State} (h : issued s 6 (cxGrp s c.toNat) = true) :
    exec (.lceStep c) s = .next (dropLane (onDeclared ctxCnt c.toNat (opWord 6 1 c.toNat) (lceStepEffect c.toNat) s)) :=
  issue_of_issued h (opWord 6 1 c.toNat) (onDeclared ctxCnt c.toNat (opWord 6 1 c.toNat) (lceStepEffect c.toNat))

theorem exec_lceStep_declared {c : BitVec 8} {s : State} (h : issued s 6 (cxGrp s c.toNat) = true) (hc : c.toNat < ctxCnt s) :
    exec (.lceStep c) s = .next (dropLane (lceStepEffect c.toNat s)) := by
  rw [exec_lceStep h, onDeclared_of_lt hc]

theorem exec_lceStep_undeclared {c : BitVec 8} {s : State} (h : issued s 6 (cxGrp s c.toNat) = true) (hc : ctxCnt s ≤ c.toNat) :
    exec (.lceStep c) s = .next (dropLane (breach 0x0107 (opWord 6 1 c.toNat) s)) := by
  rw [exec_lceStep h, onDeclared_of_le hc]

/-- Settles O20: the solver's operations by what they have in common, the mode operations and LCE_STEP by the rule of an issue. -/
theorem solverAndModeOperationsComplete : Obligations.SolverAndModeOperationsComplete := by
  refine ⟨fun t s ht => ⟨fun h => ⟨?first, fun hb e => ?segment, fun hb e he => ?laterBroken⟩, fun h hb => ?solve, fun h hb => ?solveBroken⟩,
    fun t s ht hb => ⟨fun h e => ?segmentUndeclared, fun h => ?solveUndeclared⟩, fun t s hr hs hh => ?halted,
    fun s => ⟨fun h => ?mode, fun c h => ⟨exec_lceStep_declared h, exec_lceStep_undeclared h⟩⟩⟩
  case first => exact (solverOp_fsaBuild t 0).exec_first h ht
  case segment => exact (solverOp_fsaBuild t e).exec_declared h hb ht
  case laterBroken => exact (solverOp_laterSegment t he).exec_broken h hb
  case solve =>
    exact ⟨fun c => (solverOp_farFact t c).exec_declared h hb ht, (solverOp_farStart t).exec_declared h hb ht,
      fun k => (solverOp_farIter t k).exec_declared h hb ht, (solverOp_farEnd t).exec_declared h hb ht⟩
  case solveBroken =>
    exact ⟨fun c => (solverOp_farFact t c).exec_broken h hb, (solverOp_farStart t).exec_broken h hb,
      fun k => (solverOp_farIter t k).exec_broken h hb, (solverOp_farEnd t).exec_broken h hb⟩
  case segmentUndeclared => exact (solverOp_fsaBuild t e).exec_undeclared h hb ht
  case solveUndeclared =>
    exact ⟨fun c => (solverOp_farFact t c).exec_undeclared h hb ht, (solverOp_farStart t).exec_undeclared h hb ht,
      fun k => (solverOp_farIter t k).exec_undeclared h hb ht, (solverOp_farEnd t).exec_undeclared h hb ht⟩
  case halted =>
    exact ⟨fun e => (solverOp_fsaBuild t e).exec_halted hr hs hh, fun c => (solverOp_farFact t c).exec_halted hr hs hh,
      (solverOp_farStart t).exec_halted hr hs hh, fun k => (solverOp_farIter t k).exec_halted hr hs hh, (solverOp_farEnd t).exec_halted hr hs hh⟩
  case mode =>
    have modeOp (opc opnd : Nat) (f : State → State) := issue_of_issued h (opWord 6 opc opnd) f
    exact ⟨modeOp 0x30 0 modeStepEffect,
      fun n => ⟨modeOp 0x31 n.toNat (seatFeedEffect n.toNat), modeOp 0x32 n.toNat (seatTakeEffect n.toNat)⟩,
      modeOp 0x33 0 tauMixEffect, modeOp 0x34 0 pwrShareEffect, modeOp 0x35 0 flrEffect, modeOp 0x36 0 allocOutEffect,
      fun g => ⟨modeOp 0x37 g.toNat (caPrepEffect g.toNat), modeOp 0x38 g.toNat (caEvalEffect g.toNat)⟩,
      modeOp 0x39 0 simStepEffect⟩

end Sys2Proof.Machine
end

section
/-! Events that the counts of the modes, the allocation and the observer decide (R143, R149, R239, R254, R257), and REANCHOR (R152). -/

namespace Sys2Proof.Machine

section Events

variable {s : State}

/-! The arm time-out (R239). -/

/-- Freeing the seat because a time-out ended its wait is recorded, in a hand-over or outside one. -/
theorem abortHo_timeout (s : State) : abortHo false 2 s
    = raise 0x0705 (w32 s.modes.m.incoming) (w32 2) (alphaWord s.modes.m.alpha)
      (setM false { s.modes.m with incoming := 0, ho := false, alpha := 0, direct := false, armCyc := 0 } s) := if_pos (.inr rfl)

theorem armTimeout_waiting (ha : armedOf s.modes.m ≠ 0) (hh : s.modes.m.ho = false) (ht : sm s 0x1E 2 ≠ 0) :
    armTimeout s = abortHo false 2 s := if_pos ⟨ha, by rw [hh]; rfl, ht⟩

theorem armTimeout_disabled (ht : sm s 0x1E 2 = 0) : armTimeout s = s := if_neg fun h => h.2.2 ht

theorem exec_armTimeout (s : State) : exec .armTimeout s = .next (if sm s 0x1E 2 ≤ s.modes.m.armCyc then armTimeout s else s) := rfl

theorem exec_armTimeout_due (ha : armedOf s.modes.m ≠ 0) (hh : s.modes.m.ho = false) (ht : sm s 0x1E 2 ≠ 0) (hc : sm s 0x1E 2 ≤ s.modes.m.armCyc) :
    exec .armTimeout s = .next (raise 0x0705 (w32 s.modes.m.incoming) (w32 2) (alphaWord s.modes.m.alpha)
      (setM false { s.modes.m with incoming := 0, ho := false, alpha := 0, direct := false, armCyc := 0 } s)) := by
  rw [exec_armTimeout, if_pos hc, armTimeout_waiting ha hh ht, abortHo_timeout]

theorem exec_armTimeout_disabled (ht : sm s 0x1E 2 = 0) : exec .armTimeout s = .next s := by
  rw [exec_armTimeout, armTimeout_disabled ht, ite_self]

/-! The end of a phase-back (R257). -/

theorem flrRelease_standing (h : s.modes.flrLim ≠ []) : flrRelease s
    = ((List.range 8).filter (fun g => bitOf s.modes.flrGrp g)).foldl (fun u g => raise 0x0711 (w32 g) 0 0 u)
      { s with modes := { s.modes with flrLim := [], flrEnd := 0, flrGrp := 0 } } := if_neg (mt List.isEmpty_iff.mp h)

theorem flrRelease_none (h : s.modes.flrLim = []) : flrRelease s = s := if_pos (List.isEmpty_iff.mpr h)

theorem exec_flrRelease_due (he : s.modes.flrEnd ≤ s.seq.k) : exec .flrRelease s = .next (flrRelease s) :=
  congrArg Host.Outcome.next (if_pos he)

theorem exec_flrRelease_early (he : s.seq.k < s.modes.flrEnd) : exec .flrRelease s = .next s :=
  congrArg Host.Outcome.next (if_neg (Nat.not_le.mpr he))

theorem exec_flrRelease_none (h : s.modes.flrLim = []) : exec .flrRelease s = .next s := by
  rcases Nat.lt_or_ge s.seq.k s.modes.flrEnd with he | he
  · exact exec_flrRelease_early he
  · rw [exec_flrRelease_due he, flrRelease_none h]

/-! A lost allocation (R254). -/

theorem allocLost_held (hh : s.modes.hold = true) (hl : s.modes.lost = false) : allocLost s
    = raise 0x070C (s.modes.holdCyc.setWidth 32) (w32 s.modes.result) 0 { s with modes := { s.modes with lost := true } } :=
  if_pos (by rw [hh, hl]; rfl)

theorem allocLost_unheld (hh : s.modes.hold = false) : allocLost s = s := if_neg (by simp [hh])

theorem allocLost_again (hl : s.modes.lost = true) : allocLost s = s := if_neg (by simp [hl])

theorem exec_allocLost (s : State) : exec .allocLost s = .next (if th s 0x2E 2 ≤ s.modes.holdCyc.toNat then allocLost s else s) := rfl

theorem exec_allocLost_due (hh : s.modes.hold = true) (hl : s.modes.lost = false) (hc : th s 0x2E 2 ≤ s.modes.holdCyc.toNat) : exec .allocLost s
    = .next (raise 0x070C (s.modes.holdCyc.setWidth 32) (w32 s.modes.result) 0 { s with modes := { s.modes with lost := true } }) := by
  rw [exec_allocLost, if_pos hc, allocLost_held hh hl]

theorem exec_allocLost_none (h : s.modes.hold = false ∨ s.modes.lost = true ∨ s.modes.holdCyc.toNat < th s 0x2E 2) : exec .allocLost s = .next s := by
  rw [exec_allocLost]
  obtain hh | hl | hc := h
  · rw [allocLost_unheld hh, ite_self]
  · rw [allocLost_again hl, ite_self]
  · rw [if_neg (Nat.not_le.mpr hc)]

/-! The end of dead reckoning (R149) and of the wind hold (R143). An event of the observer that waits in a phase for its count to reach a limit has its
effect in that phase once the limit is reached, and none otherwise. -/

section CountedEvent

variable {phase : Bool} {limit count : Nat} {i : Instr} {t : State}
  (hi : exec i s = if phase && decide (limit ≤ count) then .next t else .next s)
include hi

theorem exec_counted_due (hp : phase = true) (hc : limit ≤ count) : exec i s = .next t := by
  rw [hi, if_pos (by rw [hp, decide_eq_true hc]; rfl)]

theorem exec_counted_none (h : phase = false ∨ count < limit) : exec i s = .next s := by
  rw [hi, if_neg]
  rw [Bool.and_eq_true, decide_eq_true_iff]
  rintro ⟨hp, hc⟩
  exact h.elim (fun h => Bool.false_ne_true (h.symm.trans hp)) (Nat.not_lt.mpr hc)

end CountedEvent

theorem exec_obsDrExpired_position (s : State) : exec (.obsDrExpired false) s
    = if decide (s.obs.pstat = 2) && decide (ob s 0x13C 4 ≤ s.obs.drCyc.toNat) then
        .next (raise 0x0406 0 s.obs.drCyc 0 { s with obs := { s.obs with pstat := 3 } })
      else .next s := rfl

theorem exec_obsDrExpired_heading (s : State) : exec (.obsDrExpired true) s
    = if decide (s.obs.hstat = 2) && decide (ob s 0x140 4 ≤ s.obs.hdrCyc.toNat) then
        .next (raise 0x0406 1 s.obs.hdrCyc 0 { s with obs := { s.obs with hstat := 3 } })
      else .next s := rfl

theorem exec_windHoldEnd (s : State) : exec .windHoldEnd s
    = if s.obs.wLost && decide (wb s 0x010 4 ≤ s.obs.wHold) then .next { s with obs := { s.obs with wDecay := true } } else .next s := rfl

/-! REANCHOR (R152). -/

section Reanchor

variable (m : BitVec 4) {n : BitVec 8}

theorem exec_reanchor_range (h : 17 ≤ n.toNat ∨ slotKind s n.toNat = 0) : exec (.reanchor m n) s = .next (completeMbx m.toNat rcRange s) := if_pos h

theorem exec_reanchor_used (hn : n.toNat < 17) (hk : slotKind s n.toNat ≠ 0) : exec (.reanchor m n) s
    = if 12 ≤ n.toNat then .next (completeMbx m.toNat rcState s)
      else .next { s with obs := { s.obs with reanch := s.obs.reanch ++ [(n.toNat, latchFrame s, m.toNat)] } } :=
  if_neg (not_or.mpr ⟨Nat.not_le.mpr hn, hk⟩)

theorem exec_reanchor_latched (hn : n.toNat < 12) (hk : slotKind s n.toNat ≠ 0) : exec (.reanchor m n) s
    = .next { s with obs := { s.obs with reanch := s.obs.reanch ++ [(n.toNat, latchFrame s, m.toNat)] } } := by
  rw [exec_reanchor_used m (by omega) hk, if_neg (Nat.not_le.mpr hn)]

theorem exec_reanchor_state (h12 : 12 ≤ n.toNat) (hn : n.toNat < 17) (hk : slotKind s n.toNat ≠ 0) :
    exec (.reanchor m n) s = .next (completeMbx m.toNat rcState s) := by
  rw [exec_reanchor_used m hn hk, if_pos h12]

end Reanchor

end Events

/-- Settles O38: the mode and allocation events and REANCHOR by their cases, the observer's events by the rule of a count and its limit. -/
theorem modeEventsComplete : Obligations.ModeEventsComplete := by
  intro s
  refine ⟨exec_armTimeout_due, exec_armTimeout_disabled, fun h he => ?release, fun h => ?noRelease, exec_allocLost_due, exec_allocLost_none,
    fun h hc => ?position, fun h => ?noPosition, fun h hc => ?heading, fun h => ?noHeading, ?wind, ?noWind,
    fun m n => ⟨exec_reanchor_latched m, exec_reanchor_range m, exec_reanchor_state m⟩⟩
  case release => rw [exec_flrRelease_due he, flrRelease_standing h]
  case noRelease => exact h.elim exec_flrRelease_none exec_flrRelease_early
  case position => exact exec_counted_due (exec_obsDrExpired_position s) (decide_eq_true h) hc
  case noPosition => exact exec_counted_none (exec_obsDrExpired_position s) (h.imp_left decide_eq_false)
  case heading => exact exec_counted_due (exec_obsDrExpired_heading s) (decide_eq_true h) hc
  case noHeading => exact exec_counted_none (exec_obsDrExpired_heading s) (h.imp_left decide_eq_false)
  case wind => exact exec_counted_due (exec_windHoldEnd s)
  case noWind => exact exec_counted_none (exec_windHoldEnd s)

end Sys2Proof.Machine
end

section
/-! The commands of the loop engine that wait for their sample (R280 to R282, R288 to R291), and the end of an injection (R289). -/

namespace Sys2Proof.Machine

/-- A command with the number of `cmd` waits for context c (R282). -/
def LcePending (s : State) (c : Nat) (cmd : LceCmd) : Prop := ∃ q ∈ s.lce.cmds, q.ctx = c ∧ lceCmdNo q.cmd = lceCmdNo cmd

theorem any_eq_true_iff_lcePending (s : State) (c : Nat) (cmd : LceCmd) :
    s.lce.cmds.any (fun q => q.ctx == c && lceCmdNo q.cmd == lceCmdNo cmd) = true ↔ LcePending s c cmd := by
  simp only [List.any_eq_true, Bool.and_eq_true, beq_iff_eq, LcePending]

section Handler

variable (mbx : Nat) {c : Nat} {inRange : Bool} {cmd : LceCmd} {s : State}

theorem lceHandler_range (h : ctxCnt s ≤ c ∨ inRange = false ∨ lceRange cmd = false) :
    lceHandler mbx c inRange cmd s = lceFinish mbx c (lceCmdNo cmd) rcRange s :=
  if_pos (by simpa [or_assoc] using h)

section InRange

variable (hc : c < ctxCnt s) (hi : inRange = true) (hr : lceRange cmd = true)
include hc hi hr

/-- With its context declared and its fields in range, a command is refused by the first of DENIED, BUSY and STATE that applies, or waits;
the order is the model's reading of the spec (log entry 66). -/
theorem lceHandler_inRange : lceHandler mbx c inRange cmd s
    = if !lceAllowed s c cmd then lceFinish mbx c (lceCmdNo cmd) rcDenied s
      else if s.lce.cmds.any (fun q => q.ctx == c && lceCmdNo q.cmd == lceCmdNo cmd) then lceFinish mbx c (lceCmdNo cmd) rcBusy s
      else if isDisabled s 6 (cxGrp s c) then lceFinish mbx c (lceCmdNo cmd) rcState s
      else modLce (fun l => { l with cmds := l.cmds ++ [{ ctx := c, cmd := cmd, due := latchFrame s, mbx := mbx }] }) s :=
  if_neg (by simp [hc, hi, hr])

theorem lceHandler_denied (ha : lceAllowed s c cmd = false) :
    lceHandler mbx c inRange cmd s = lceFinish mbx c (lceCmdNo cmd) rcDenied s := by
  rw [lceHandler_inRange mbx hc hi hr, if_pos (by simp [ha])]

theorem lceHandler_busy (ha : lceAllowed s c cmd = true) (hp : LcePending s c cmd) :
    lceHandler mbx c inRange cmd s = lceFinish mbx c (lceCmdNo cmd) rcBusy s := by
  rw [lceHandler_inRange mbx hc hi hr, if_neg (by simp [ha]), if_pos ((any_eq_true_iff_lcePending s c cmd).mpr hp)]

/-- A command that the context allows and that has none of its number before it is refused in a disabled group and waits in any other. -/
theorem lceHandler_notPending (ha : lceAllowed s c cmd = true) (hp : ¬ LcePending s c cmd) : lceHandler mbx c inRange cmd s
    = if isDisabled s 6 (cxGrp s c) then lceFinish mbx c (lceCmdNo cmd) rcState s
      else modLce (fun l => { l with cmds := l.cmds ++ [{ ctx := c, cmd := cmd, due := latchFrame s, mbx := mbx }] }) s := by
  rw [lceHandler_inRange mbx hc hi hr, if_neg (by simp [ha]), if_neg (mt (any_eq_true_iff_lcePending s c cmd).mp hp)]

theorem lceHandler_disabled (ha : lceAllowed s c cmd = true) (hp : ¬ LcePending s c cmd) (hd : isDisabled s 6 (cxGrp s c) = true) :
    lceHandler mbx c inRange cmd s = lceFinish mbx c (lceCmdNo cmd) rcState s := by
  rw [lceHandler_notPending mbx hc hi hr ha hp, if_pos hd]

theorem lceHandler_latched (ha : lceAllowed s c cmd = true) (hp : ¬ LcePending s c cmd) (hd : isDisabled s 6 (cxGrp s c) = false) :
    lceHandler mbx c inRange cmd s
      = modLce (fun l => { l with cmds := l.cmds ++ [{ ctx := c, cmd := cmd, due := latchFrame s, mbx := mbx }] }) s := by
  rw [lceHandler_notPending mbx hc hi hr ha hp, if_neg (Bool.eq_false_iff.mp hd)]

end InRange

end Handler

/-- The mailbox commands of the loop engine, each with the range check of its own operands and the command that it latches. -/
def lceMailboxCommands (m : BitVec 4) (c mode bank dec page : BitVec 8) (mv : Bool) (u : Word) (x : LceTest) : List (Instr × Bool × LceCmd) :=
  [(.lceMode m c mode mv u, decide (mode.toNat ≤ 1), .mode (mode == 1) (if mv then some u else none)),
   (.lceBank m c bank, decide (bank.toNat ≤ 1), .bank (bank == 1)),
   (.lceTestStart m c x, true, .start x),
   (.lceTestStop m c, true, .stop),
   (.lceCaptureArm m c dec, true, .arm dec.toNat),
   (.lceCaptureDisarm m c, true, .disarm),
   (.lceCapturePage m c page, true, .page page.toNat)]

theorem exec_lceMailboxCommands (m : BitVec 4) (c mode bank dec page : BitVec 8) (mv : Bool) (u : Word) (x : LceTest) (s : State) :
    ∀ p ∈ lceMailboxCommands m c mode bank dec page mv u x, exec p.1 s = .next (lceHandler m.toNat c.toNat p.2.1 p.2.2 s) := by
  unfold lceMailboxCommands
  simp only [List.forall_mem_cons, List.not_mem_nil, false_implies, implies_true, and_true]
  exact ⟨rfl, rfl, rfl, rfl, rfl, rfl, rfl⟩

/-! The end of an injection (R289). -/

/-- An injection that ends DONE lets the waveform that waits start, from the generator's own fields with the injection no longer active. -/
theorem injEnd_done (s : State) {j : LceInj} (hj : j = { s.lce.inj with active := false, next := none, reason := 0 }) : injEnd 0 s
    = raise 0x0808 (w32 s.lce.inj.ctx) (w32 0) (w32 s.lce.inj.i)
      { s with lce := { s.lce with inj := (s.lce.inj.next.map (fun t => injStart j.ctx (roleCode s.boot.dev) t j)).getD j } } := by
  subst hj
  cases hn : s.lce.inj.next with
  | none => simp [injEnd, modLce, hn]
  | some t => simp [injEnd, modLce, hn]

theorem exec_lceInjEnd_done {s : State} (ha : s.lce.inj.active = true) (hd : injDone s.lce.inj = true) : exec .lceInjEnd s = .next (injEnd 0 s) :=
  congrArg Host.Outcome.next (if_pos (by rw [ha, hd]; rfl))

theorem exec_lceInjEnd_none {s : State} (h : s.lce.inj.active = false ∨ injDone s.lce.inj = false) : exec .lceInjEnd s = .next s :=
  congrArg Host.Outcome.next (if_neg (by rw [Bool.not_eq_true, Bool.and_eq_false_iff]; exact h))

/-- Settles O39: each mailbox command by the answer of the handler they share, the end of an injection by whether a waveform waits. -/
theorem loopCommandsLatch : Obligations.LoopCommandsLatch := by
  refine ⟨fun m c s mode bank dec page mv u x p hp => ?commands, fun s => ⟨fun ha hd j hj => ?done, exec_lceInjEnd_none⟩⟩
  case commands =>
    rw [exec_lceMailboxCommands m c mode bank dec page mv u x s p hp]
    exact ⟨fun h => congrArg Host.Outcome.next (lceHandler_range _ h),
      fun hc hi hr => ⟨fun ha => congrArg Host.Outcome.next (lceHandler_denied _ hc hi hr ha),
        fun ha hb => congrArg Host.Outcome.next (lceHandler_busy _ hc hi hr ha hb),
        fun ha hb hd => congrArg Host.Outcome.next (lceHandler_disabled _ hc hi hr ha hb hd),
        fun ha hb hd => congrArg Host.Outcome.next (lceHandler_latched _ hc hi hr ha hb hd)⟩⟩
  case done => rw [exec_lceInjEnd_done ha hd, injEnd_done s hj]

end Sys2Proof.Machine
end

section
/-! The operations of the filter chain (R297, R302, R311, R312) and of the current loops (R317, R328, R336). -/

namespace Sys2Proof.Machine

/-! An operation that some operands or channels make a contract breach (R55). -/

section Refusable

variable {s : State} {eng inst : Nat} {refused : State → Prop} [DecidablePred refused] (h : issued s eng inst = true)
include h

theorem issue_of_refused (hr : refused s) (opc opnd : Nat) (f : State → State) :
    issue eng inst (opWord eng opc opnd) (fun u => if refused u then breach 0x0107 (opWord eng opc opnd) u else f u) s
      = .next (dropLane (breach 0x0107 (opWord eng opc opnd) s)) := by
  rw [issue_of_issued h, if_pos hr]

theorem issue_of_not_refused (hr : ¬ refused s) (opc opnd : Nat) (f : State → State) :
    issue eng inst (opWord eng opc opnd) (fun u => if refused u then breach 0x0107 (opWord eng opc opnd) u else f u) s = .next (dropLane (f s)) := by
  rw [issue_of_issued h, if_neg hr]

end Refusable

theorem running_of_issued {s : State} {eng inst : Nat} (h : issued s eng inst = true) : s.seq.run = true ∧ s.seq.stopped = false := by
  simp only [issued, Bool.and_eq_true, Bool.not_eq_true'] at h
  obtain ⟨⟨⟨⟨hrun, hstop⟩, -⟩, -⟩, -⟩ := h
  exact ⟨hrun, hstop⟩

theorem exec_fceRestart {s : State} {c : BitVec 6} (h : issued s 7 c.toNat = true) :
    exec (.fceRestart c) s
      = .next (dropLane (if (fceChan s c.toNat).started then setFce c.toNat { fceChan s c.toNat with pendCmd := true } s else s)) :=
  issue_of_issued h (opWord 7 1 c.toNat) (fun u => if (fceChan u c.toNat).started then setFce c.toNat { fceChan u c.toNat with pendCmd := true } u else u)

/-! Selects: 3 selects nothing, and a loop channel must be enabled (R312, R317). -/

theorem exec_anvSel {s : State} (h : issued s 0x2A 0 = true) (c : BitVec 3) {x : BitVec 2} (hx : x ≠ 3) :
    exec (.anvSel c x) s = .next (dropLane (sendSelect (40 + c.toNat) x s)) :=
  issue_of_not_refused (refused := fun _ => x = 3) h hx 1 (c.toNat + 8 * x.toNat) (sendSelect (40 + c.toNat) x)

theorem exec_anvSel_three {s : State} (h : issued s 0x2A 0 = true) (c : BitVec 3) :
    exec (.anvSel c 3) s = .next (dropLane (breach 0x0107 (opWord 0x2A 1 (c.toNat + 24)) s)) :=
  issue_of_refused (refused := fun _ => (3 : BitVec 2) = 3) h rfl 1 (c.toNat + 24) (sendSelect (40 + c.toNat) 3)

theorem exec_qdcZero {s : State} (h : issued s 0x2A 0 = true) (d : BitVec 4) :
    exec (.qdcZero d) s = .next (dropLane { s with fce := { s.fce with zeroFifo := s.fce.zeroFifo ++ [handed s 0 d.toNat] } }) :=
  issue_of_issued h (opWord 0x2A 2 d.toNat) (fun u => { u with fce := { u.fce with zeroFifo := u.fce.zeroFifo ++ [handed u 0 d.toNat] } })

/-! The operations of an output channel. -/

section LoopOutput

variable {s : State} {c : BitVec 4} (h : issued s 0x28 c.toNat = true)
include h

theorem exec_loopOutput_enabled (hon : lpoOn s c.toNat = true) :
    exec (.lpoSet c) s = .next (dropLane (lpoSetEffect c.toNat s)) ∧ exec (.lpoCheck c) s = .next (dropLane (lpoCheckEffect c.toNat s)) :=
  have enabled := issue_bounded_of_true (c := (lpoOn · c.toNat)) h hon
  ⟨enabled 1 c.toNat (lpoSetEffect c.toNat), enabled 2 c.toNat (lpoCheckEffect c.toNat)⟩

theorem exec_loopOutput_not_enabled (hon : lpoOn s c.toNat = false) :
    exec (.lpoSet c) s = .next (dropLane (breach 0x0107 (opWord 0x28 1 c.toNat) s))
      ∧ exec (.lpoCheck c) s = .next (dropLane (breach 0x0107 (opWord 0x28 2 c.toNat) s)) :=
  have missing := issue_bounded_of_false (c := (lpoOn · c.toNat)) h hon
  ⟨missing 1 c.toNat (lpoSetEffect c.toNat), missing 2 c.toNat (lpoCheckEffect c.toNat)⟩

theorem exec_lpoRbsel {x : BitVec 2} (hon : lpoOn s c.toNat = true) (hx : x ≠ 3) :
    exec (.lpoRbsel c x) s = .next (dropLane (sendSelect (24 + c.toNat) x s)) :=
  issue_of_not_refused (refused := fun u => x = 3 ∨ lpoOn u c.toNat = false) h (by simpa [hon] using hx) 3 (c.toNat + 16 * x.toNat)
    (sendSelect (24 + c.toNat) x)

theorem exec_lpoRbsel_refused {x : BitVec 2} (hr : x = 3 ∨ lpoOn s c.toNat = false) :
    exec (.lpoRbsel c x) s = .next (dropLane (breach 0x0107 (opWord 0x28 3 (c.toNat + 16 * x.toNat)) s)) :=
  issue_of_refused (refused := fun u => x = 3 ∨ lpoOn u c.toNat = false) h hr 3 (c.toNat + 16 * x.toNat) (sendSelect (24 + c.toNat) x)

end LoopOutput

/-! The operations of an input channel. -/

section LoopInput

variable {s : State} {c : BitVec 5} (h : issued s 0x29 c.toNat = true)
include h

theorem exec_lpiCheck_enabled (hon : lpiOn s c.toNat = true) : exec (.lpiCheck c) s = .next (dropLane (lpiCheckEffect c.toNat s)) :=
  issue_bounded_of_true (c := (lpiOn · c.toNat)) h hon 2 c.toNat (lpiCheckEffect c.toNat)

theorem exec_lpiCheck_not_enabled (hon : lpiOn s c.toNat = false) :
    exec (.lpiCheck c) s = .next (dropLane (breach 0x0107 (opWord 0x29 2 c.toNat) s)) :=
  issue_bounded_of_false (c := (lpiOn · c.toNat)) h hon 2 c.toNat (lpiCheckEffect c.toNat)

theorem exec_lpiSel {x : BitVec 2} (hon : lpiOn s c.toNat = true) (hx : x ≠ 3) :
    exec (.lpiSel c x) s = .next (dropLane (sendSelect c.toNat x s)) :=
  issue_of_not_refused (refused := fun u => x = 3 ∨ lpiOn u c.toNat = false) h (by simpa [hon] using hx) 1 (c.toNat + 32 * x.toNat)
    (sendSelect c.toNat x)

theorem exec_lpiSel_refused {x : BitVec 2} (hr : x = 3 ∨ lpiOn s c.toNat = false) :
    exec (.lpiSel c x) s = .next (dropLane (breach 0x0107 (opWord 0x29 1 (c.toNat + 32 * x.toNat)) s)) :=
  issue_of_refused (refused := fun u => x = 3 ∨ lpiOn u c.toNat = false) h hr 1 (c.toNat + 32 * x.toNat) (sendSelect c.toNat x)

end LoopInput

/-! HART_REQ, which its port's disable holds back ahead of the issue (R328). -/

section HartRequest

variable {s : State} {t : BitVec 9} (h : issued s 0x29 64 = true)
include h

theorem exec_hartReq (hp : hartOff s (txPort s t.toNat) = false) :
    exec (.hartReq t) s = .next (dropLane (onDeclared txnCnt t.toNat (opWord 0x29 3 t.toNat) (hartReqEffect t.toNat) s)) := by
  have hfree : ¬ (s.seq.run && !s.seq.stopped && hartOff s (txPort s t.toNat)) = true := by simp [hp]
  exact (if_neg hfree).trans (issue_of_issued h (opWord 0x29 3 t.toNat) (onDeclared txnCnt t.toNat (opWord 0x29 3 t.toNat) (hartReqEffect t.toNat)))

theorem exec_hartReq_portDisabled (hp : hartOff s (txPort s t.toNat) = true) : exec (.hartReq t) s = .next (dropLane s) := by
  obtain ⟨hrun, hstop⟩ := running_of_issued h
  exact if_pos (by simp [hrun, hstop, hp])

end HartRequest

/-- Settles O21: every operation by the rule of an issue, HART_REQ first by whether its port is disabled. -/
theorem converterOperationsComplete : Obligations.ConverterOperationsComplete := by
  refine fun s => ⟨fun c h => ?restart, fun h => ⟨fun c x hx => exec_anvSel h c hx, exec_anvSel_three h, exec_qdcZero h⟩,
    fun c h => ⟨fun hon => ?output, exec_loopOutput_not_enabled h, fun x hr => exec_lpoRbsel_refused h hr⟩,
    fun c h => ⟨fun hon => ⟨exec_lpiCheck_enabled h hon, fun x hx => exec_lpiSel h hon hx⟩, exec_lpiCheck_not_enabled h,
      fun x hr => exec_lpiSel_refused h hr⟩,
    fun t h => ⟨fun hp ht => ?declared, fun hp ht => ?undeclared, exec_hartReq_portDisabled h⟩⟩
  case restart =>
    rw [exec_fceRestart h]
    exact ⟨fun hs => by rw [if_pos hs], fun hs => by rw [if_neg (Bool.eq_false_iff.mp hs)]⟩
  case output =>
    obtain ⟨hset, hcheck⟩ := exec_loopOutput_enabled h hon
    exact ⟨hset, hcheck, fun x hx => exec_lpoRbsel h hon hx⟩
  case declared => rw [exec_hartReq h hp, onDeclared_of_lt ht]
  case undeclared => rw [exec_hartReq h hp, onDeclared_of_le ht]

end Sys2Proof.Machine
end

section
/-! A converter start (R297): the channels that it starts, one after another. -/

namespace Sys2Proof.Machine

theorem Only.fce {l : List Part} {s t : State} (h : Only l s t) (hl : l.contains Part.fce = false) : t.fce = s.fce := h .fce (by simpa using hl)

theorem Only.ttu {l : List Part} {s t : State} (h : Only l s t) (hl : l.contains Part.ttu = false) : t.ttu = s.ttu := h .ttu (by simpa using hl)

theorem raise_fce (c : Nat) (p0 p1 p2 : Word) (s : State) : (raise c p0 p1 p2 s).fce = s.fce := (raise_only c p0 p1 p2 s).fce rfl

theorem raise_ttu (c : Nat) (p0 p1 p2 : Word) (s : State) : (raise c p0 p1 p2 s).ttu = s.ttu := (raise_only c p0 p1 p2 s).ttu rfl

theorem fceChan_raise (n : Nat) (p0 p1 p2 : Word) (s : State) (k : Nat) : fceChan (raise n p0 p1 p2 s) k = fceChan s k := by
  unfold fceChan
  rw [raise_fce]

theorem fceChan_eq_of_chans {s t : State} (h : t.fce.chans = s.fce.chans) (k : Nat) : fceChan t k = fceChan s k := by
  unfold fceChan
  rw [h]

theorem ne_default_of_started {x : FceChan} (h : x.started = true) : x ≠ {} := by
  rintro rfl
  exact absurd h (by decide)

/-! A restart works on its own channel alone, and does not stop it. -/

theorem fceChan_fceRestart_ne {c k : Nat} (h : k ≠ c) (cause : Nat) (s : State) : fceChan (fceRestart c cause s) k = fceChan s k :=
  (fceChan_raise _ _ _ _ _ k).trans (fceChan_setFce_ne h _ s)

theorem fceRestart_started {c : Nat} {s : State} (h : (fceChan s c).started = true) (cause : Nat) :
    (fceChan (fceRestart c cause s) c).started = true := by
  unfold fceRestart
  extract_lets x n y
  have hy : y.started = true := h
  rw [fceChan_raise, fceChan_setFce_val (ne_default_of_started hy), hy]

theorem fceRestart_groups (c cause : Nat) (s : State) : (fceRestart c cause s).fce.groups = s.fce.groups := by
  unfold fceRestart
  rw [raise_fce]
  rfl

/-! The start of one channel. -/

/-- A channel as a start leaves it ahead of its restart. -/
def startedChan (c : Nat) (x : FceChan) : FceChan :=
  { x with started := true, sel := 0, skip := if c < 48 then 9 else 0, pos := 0, win := 0, pendCmd := false, pendEn := false }

/-- The count of a quadrature channel's decoder starts at 0. -/
def clearCount (c : Nat) (s : State) : State :=
  if 48 ≤ c then { s with fce := { s.fce with qcount := tset 0 s.fce.qcount (c - 48) 0 } } else s

def startChan (s : State) (c : Nat) : State := fceRestart c 1 (clearCount c (setFce c (startedChan c (fceChan s c)) s))

theorem clearCount_chans (c : Nat) (s : State) : (clearCount c s).fce.chans = s.fce.chans := by
  unfold clearCount
  split <;> rfl

theorem clearCount_groups (c : Nat) (s : State) : (clearCount c s).fce.groups = s.fce.groups := by
  unfold clearCount
  split <;> rfl

theorem clearCount_ttu (c : Nat) (s : State) : (clearCount c s).ttu = s.ttu := by
  unfold clearCount
  split <;> rfl

theorem fceChan_startChan_ne {c k : Nat} (h : k ≠ c) (s : State) : fceChan (startChan s c) k = fceChan s k := by
  rw [startChan, fceChan_fceRestart_ne h, fceChan_eq_of_chans (clearCount_chans c _), fceChan_setFce_ne h]

theorem startChan_started (s : State) (c : Nat) : (fceChan (startChan s c) c).started = true := by
  refine fceRestart_started ?_ 1
  rw [fceChan_eq_of_chans (clearCount_chans c _), fceChan_setFce_val (ne_default_of_started rfl)]
  rfl

theorem startChan_groups (s : State) (c : Nat) : (startChan s c).fce.groups = s.fce.groups := by
  rw [startChan, fceRestart_groups, clearCount_groups]
  rfl

theorem startChan_ttu (s : State) (c : Nat) : (startChan s c).ttu = s.ttu := by
  rw [startChan, (fceRestart_only _ _ _).ttu rfl, clearCount_ttu]
  rfl

/-! The starts of a list of channels. -/

theorem foldl_startChan_of_notMem {l : List Nat} {k : Nat} (h : k ∉ l) (s : State) : fceChan (l.foldl startChan s) k = fceChan s k := by
  induction l generalizing s with
  | nil => rfl
  | cons c l ih =>
    obtain ⟨hc, hl⟩ := not_or.mp (mt List.mem_cons.mpr h)
    exact (ih hl (startChan s c)).trans (fceChan_startChan_ne hc s)

theorem startChan_keeps_started {s : State} {k : Nat} (h : (fceChan s k).started = true) (c : Nat) :
    (fceChan (startChan s c) k).started = true := by
  by_cases hk : k = c
  · exact hk ▸ startChan_started s k
  · rwa [fceChan_startChan_ne hk]

theorem foldl_startChan_keeps_started {s : State} {k : Nat} (h : (fceChan s k).started = true) (l : List Nat) :
    (fceChan (l.foldl startChan s) k).started = true := by
  induction l generalizing s with
  | nil => exact h
  | cons c l ih => exact ih (startChan_keeps_started h c)

theorem foldl_startChan_of_mem {l : List Nat} {k : Nat} (h : k ∈ l) (s : State) : (fceChan (l.foldl startChan s) k).started = true := by
  induction l generalizing s with
  | nil => exact absurd h List.not_mem_nil
  | cons c l ih =>
    rcases List.mem_cons.mp h with rfl | hl
    · exact foldl_startChan_keeps_started (startChan_started s k) l
    · exact ih hl (startChan s c)

/-! The command: it takes the bits that have arrived, counts the starts it ignores, and starts the channels that are not started. -/

/-- The start bits of a mask that have arrived. -/
def startBits (mask : BitVec 8) (s : State) : BitVec 8 := mask &&& arrived s aclkCross s.ttu.conv

/-- The enabled channels of the groups that the bits name. -/
def namedChans (mask : BitVec 8) (s : State) : List Nat :=
  (List.range 64).filter (fun c => fcEnabled s c && bitOf (startBits mask s).toNat (fcGroup s c))

def freshChans (mask : BitVec 8) (s : State) : List Nat := (namedChans mask s).filter (fun c => !(fceChan s c).started)

/-- The bits are out of their FIFO and their groups started. -/
def takeStarts (mask : BitVec 8) (s : State) : State :=
  { s with ttu := { s.ttu with conv := leaveOut s aclkCross mask s.ttu.conv }, fce := { s.fce with groups := s.fce.groups ||| startBits mask s } }

/-- A start of fewer fresh channels than it names counts as ignored. -/
def countIgnored (fresh named : Nat) (s : State) : State :=
  if fresh < named then { s with fce := { s.fce with ignCnt := if s.fce.ignCnt = 0xFFFF#16 then s.fce.ignCnt else s.fce.ignCnt + 1 } } else s

/-- The state in which the fresh channels start. -/
def beforeStarts (mask : BitVec 8) (s : State) : State :=
  countIgnored (freshChans mask s).length (namedChans mask s).length (takeStarts mask s)

def afterStarts (mask : BitVec 8) (s : State) : State := (freshChans mask s).foldl startChan (beforeStarts mask s)

theorem beforeStarts_chans (mask : BitVec 8) (s : State) : (beforeStarts mask s).fce.chans = s.fce.chans := by
  unfold beforeStarts countIgnored
  split <;> rfl

theorem beforeStarts_groups (mask : BitVec 8) (s : State) : (beforeStarts mask s).fce.groups = s.fce.groups ||| startBits mask s := by
  unfold beforeStarts countIgnored
  split <;> rfl

theorem beforeStarts_ttu (mask : BitVec 8) (s : State) :
    (beforeStarts mask s).ttu = { s.ttu with conv := leaveOut s aclkCross mask s.ttu.conv } := by
  unfold beforeStarts countIgnored
  split <;> rfl

theorem exec_fceStart (mask : BitVec 8) (s : State) :
    exec (.fceStart mask) s = .next (if freshChans mask s = [] then afterStarts mask s
      else raise 0x0900 ((startBits mask s).setWidth 32) (w32 (freshChans mask s).length) 0 (afterStarts mask s)) := rfl

/-- What a start does to the timing unit and the filter chain, its event apart. -/
theorem exec_fceStart_chain (mask : BitVec 8) (s : State) :
    ∃ t, exec (.fceStart mask) s = .next t ∧ t.ttu = (afterStarts mask s).ttu ∧ t.fce = (afterStarts mask s).fce := by
  refine ⟨_, exec_fceStart mask s, ?_⟩
  split
  · exact ⟨rfl, rfl⟩
  · exact ⟨raise_ttu _ _ _ _ _, raise_fce _ _ _ _ _⟩

theorem afterStarts_ttu (mask : BitVec 8) (s : State) :
    (afterStarts mask s).ttu = { s.ttu with conv := leaveOut s aclkCross mask s.ttu.conv } :=
  (foldl_keeps State.ttu startChan_ttu _ _).trans (beforeStarts_ttu mask s)

theorem afterStarts_groups (mask : BitVec 8) (s : State) : (afterStarts mask s).fce.groups = s.fce.groups ||| startBits mask s :=
  (foldl_keeps (fun u => u.fce.groups) startChan_groups _ _).trans (beforeStarts_groups mask s)

theorem mem_freshChans {mask : BitVec 8} {s : State} {c : Nat} : c ∈ freshChans mask s
    ↔ c < 64 ∧ fcEnabled s c = true ∧ bitOf (startBits mask s).toNat (fcGroup s c) = true ∧ (fceChan s c).started = false := by
  simp only [freshChans, namedChans, List.mem_filter, List.mem_range, Bool.and_eq_true, Bool.not_eq_true', and_assoc]

theorem fceChan_afterStarts_of_notMem {mask : BitVec 8} {s : State} {c : Nat} (h : c ∉ freshChans mask s) :
    fceChan (afterStarts mask s) c = fceChan s c :=
  (foldl_startChan_of_notMem h _).trans (fceChan_eq_of_chans (beforeStarts_chans mask s) c)

theorem afterStarts_started {mask : BitVec 8} {s : State} {c : Nat} (hc : c < 64) (he : fcEnabled s c = true)
    (hg : bitOf (startBits mask s).toNat (fcGroup s c) = true) : (fceChan (afterStarts mask s) c).started = true := by
  cases hs : (fceChan s c).started with
  | false => exact foldl_startChan_of_mem (mem_freshChans.mpr ⟨hc, he, hg, hs⟩) _
  | true => exact foldl_startChan_keeps_started (by rwa [fceChan_eq_of_chans (beforeStarts_chans mask s)]) _

theorem fceChan_afterStarts_of_not_fresh {mask : BitVec 8} {s : State} {c : Nat} (h : (fceChan s c).started = true ∨ 64 ≤ c ∨ fcEnabled s c = false
    ∨ bitOf (startBits mask s).toNat (fcGroup s c) = false) : fceChan (afterStarts mask s) c = fceChan s c := by
  refine fceChan_afterStarts_of_notMem fun hm => ?_
  obtain ⟨hc, he, hg, hs⟩ := mem_freshChans.mp hm
  rcases h with h | h | h | h
  · simp [hs] at h
  · omega
  · simp [he] at h
  · simp [hg] at h

end Sys2Proof.Machine
end

section
/-! The other converter events (R298, R299, R311, R320). -/

namespace Sys2Proof.Machine

/-! A select at its modulator, the oldest of its channel in the FIFO (R298, R312). -/

/-- A select that has come out of the FIFO: it waits for the start of a channel not started, and one that changes nothing restarts nothing. -/
def selectArrives (c n : Nat) (sel : BitVec 2) (s : State) : State :=
  let x := fceChan s c
  let v := setFce c { x with sel := sel, skip := 9, pos := x.pos + n, pendCmd := false, pendEn := false } s
  if !x.started then setFce c { x with sel := sel } s else if x.sel = sel then s else if fceOff s c then v else fceRestart c 2 v

section SelectArrives

variable {s : State} {c : Nat} {sel : BitVec 2}

theorem selectArrives_stopped (h : (fceChan s c).started = false) (n : Nat) :
    selectArrives c n sel s = setFce c { fceChan s c with sel := sel } s :=
  if_pos (by rw [h]; rfl)

theorem selectArrives_same (h : (fceChan s c).started = true) (he : (fceChan s c).sel = sel) (n : Nat) : selectArrives c n sel s = s :=
  (if_neg (by simp [h])).trans (if_pos he)

theorem selectArrives_changed (h : (fceChan s c).started = true) (he : (fceChan s c).sel ≠ sel) {n : Nat} {v : State}
    (hv : v = setFce c { fceChan s c with sel := sel, skip := 9, pos := (fceChan s c).pos + n, pendCmd := false, pendEn := false } s) :
    selectArrives c n sel s = if fceOff s c then v else fceRestart c 2 v := by
  subst hv
  exact (if_neg (by simp [h])).trans (if_neg he)

end SelectArrives

theorem exec_modulatorSelectApply_none {s : State} {c : Fin 48} (h : s.fce.selFifo.find? (fun p => p.item.1 = c.val) = none) (n : Nat) :
    exec (.modulatorSelectApply c n) s = .next s := by
  dsimp only [exec, execModulatorSelectApply]
  rw [h]

section Select

variable {s : State} {c : Fin 48} {p : Handed (Nat × BitVec 2)} (h : s.fce.selFifo.find? (fun p => p.item.1 = c.val) = some p)
include h

theorem exec_modulatorSelectApply_held (hp : mayArrive s aclkCross p = false ∨ domGated s .ana = true) (n : Nat) :
    exec (.modulatorSelectApply c n) s = .next s := by
  dsimp only [exec, execModulatorSelectApply]
  rw [h]
  exact if_pos hp

theorem exec_modulatorSelectApply_arrives (hp : mayArrive s aclkCross p = true) (hg : domGated s .ana = false) (n : Nat) :
    exec (.modulatorSelectApply c n) s
      = .next (selectArrives c n p.item.2 { s with fce := { s.fce with selFifo := s.fce.selFifo.erase p } }) := by
  dsimp only [exec, execModulatorSelectApply]
  rw [h]
  refine (if_neg (by simp [hp, hg])).trans ?_
  unfold selectArrives
  simp only [apply_ite Host.Outcome.next]

end Select

/-! A CIC window (R297, R299): its values, and how the channel takes them. -/

/-- The values that complete a window: a modulator's bits, and zeros of a quadrature channel. -/
def windowValues (c n : Nat) (bits : List Bool) : List Int := if c < 48 then (bits.take n).map bitValue else List.replicate n 0

/-- A channel takes a window's values; a restart that waits comes after the first of them, split in number. -/
def takeWindow (c split : Nat) (l : List Int) (s : State) : State :=
  if l.length ≤ split then fceTakeAll c (l.take split) s
  else fceTakeAll c (l.drop split) (fcePending c (fceTakeAll c (l.take split) s))

theorem exec_fceCicOutput_none {s : State} {c : BitVec 6} (h : (fceChan s c.toNat).started = false ∨ (c.toNat < 48 ∧ domGated s .ana = true))
    (bits : List Bool) (split ago : Nat) : exec (.fceCicOutput c bits split ago) s = .next s :=
  if_pos (by rcases h with h | ⟨hc, hg⟩ <;> simp [*])

section Window

variable {s : State} {c : BitVec 6} (hs : (fceChan s c.toNat).started = true) (hg : 48 ≤ c.toNat ∨ domGated s .ana = false)
include hs hg

theorem fceCicOutput_taken : ¬ (!(fceChan s c.toNat).started || (decide (c.toNat < 48) && domGated s .ana)) = true := by
  rcases hg with hc | hg
  · simp [hs, hc]
  · simp [hs, hg]

theorem exec_fceCicOutput_disabled (ho : fceOff s c.toNat = true) (bits : List Bool) (split ago : Nat) :
    exec (.fceCicOutput c bits split ago) s
      = .next (setFce c.toNat { fceChan s c.toNat with win := (fceChan s c.toNat).win + 1, pos := 0, skip := 0 } s) :=
  (if_neg (fceCicOutput_taken hs hg)).trans (if_pos ho)

theorem exec_fceCicOutput_short (ho : fceOff s c.toNat = false) {bits : List Bool} (hc : c.toNat < 48)
    (hb : bits.length < fch s c.toNat 4 2 - (fceChan s c.toNat).pos) (split ago : Nat) : exec (.fceCicOutput c bits split ago) s = .next s :=
  (if_neg (fceCicOutput_taken hs hg)).trans ((if_neg (by simp [ho])).trans (if_pos ⟨hc, hb⟩))

theorem exec_fceCicOutput_window (ho : fceOff s c.toNat = false) {bits : List Bool}
    (hb : ¬ (c.toNat < 48 ∧ bits.length < fch s c.toNat 4 2 - (fceChan s c.toNat).pos)) (split ago : Nat) :
    exec (.fceCicOutput c bits split ago) s = .next (fceOutput c.toNat ago
      (takeWindow c.toNat split (windowValues c.toNat (fch s c.toNat 4 2 - (fceChan s c.toNat).pos) bits) s)) :=
  (if_neg (fceCicOutput_taken hs hg)).trans ((if_neg (by simp [ho])).trans (if_neg hb))

end Window

/-! A zero at its decoder (R312). -/

theorem exec_qdcZeroApply_some {s : State} {d : BitVec 4} {p : Handed Nat}
    (h : s.fce.zeroFifo.find? (fun p => p.item = d.toNat && mayArrive s aclkCross p) = some p) :
    exec (.qdcZeroApply d) s = .next { s with fce := { s.fce with zeroFifo := s.fce.zeroFifo.erase p, qcount := tset 0 s.fce.qcount d.toNat 0 } } := by
  dsimp only [exec, execQdcZeroApply]
  rw [h]

theorem exec_qdcZeroApply_none {s : State} {d : BitVec 4}
    (h : s.fce.zeroFifo.find? (fun p => p.item = d.toNat && mayArrive s aclkCross p) = none) : exec (.qdcZeroApply d) s = .next s := by
  dsimp only [exec, execQdcZeroApply]
  rw [h]

/-! A transition of a decoder (R311). -/

/-- The decoder counts a step, and unless its channel is disabled the stream takes the gap's zeros and the step. -/
def takeTransition (q gap : Nat) (v : Int) (s : State) : State :=
  let u := { s with fce := { s.fce with qcount := tmod 0 s.fce.qcount q (fun n => n + BitVec.ofInt 32 v) } }
  if fceOff s (48 + q) then u else fceTakeAll (48 + q) (List.replicate gap 0 ++ [v]) (fcePending (48 + q) u)

/-- The error count of a decoder after one more error. -/
def errorCount (q : Nat) (s : State) : Half := if tget 0 s.fce.qerr q = 0xFFFF#16 then tget 0 s.fce.qerr q else tget 0 s.fce.qerr q + 1

theorem errorCount_eq (q : Nat) (s : State) :
    errorCount q s = if tget 0 s.fce.qerr q = 0xFFFF#16 then 0xFFFF#16 else tget 0 s.fce.qerr q + 1 :=
  ite_congr rfl id (fun _ => rfl)

/-- An error counts and is recorded. -/
def countError (q : Nat) (s : State) : State :=
  raise 0x0905 (w32 q) (tget 0 s.fce.qcount q) ((errorCount q s).setWidth 32) { s with fce := { s.fce with qerr := tset 0 s.fce.qerr q (errorCount q s) } }

theorem exec_qdcTransition_stopped {s : State} {d : BitVec 4} (h : (fceChan s (48 + d.toNat)).started = false) (k : QdcStep) (g : Nat) :
    exec (.qdcTransition d k g) s = .next s :=
  if_pos (by rw [h]; rfl)

section Transition

variable {s : State} {d : BitVec 4} (h : (fceChan s (48 + d.toNat)).started = true) (g : Nat)
include h

theorem exec_qdcTransition_up : exec (.qdcTransition d .up g) s = .next (takeTransition d.toNat g 1 s) := if_neg (by simp [h])

theorem exec_qdcTransition_down : exec (.qdcTransition d .down g) s = .next (takeTransition d.toNat g (-1) s) := if_neg (by simp [h])

theorem exec_qdcTransition_both : exec (.qdcTransition d .both g) s = .next (countError d.toNat (takeTransition d.toNat g 0 s)) :=
  if_neg (by simp [h])

end Transition

/-! An output code and a latch strobe (R320). -/

section OutputCode

variable {s : State} {n : BitVec 4}

theorem exec_lpoCodeApply_empty (h : (lpoOf s n.toNat).fifo = []) : exec (.lpoCodeApply n) s = .next s := by
  dsimp only [exec, execLpoCodeApply]
  rw [h]

variable {c : Handed (Option Nat)} {l : List (Handed (Option Nat))} (h : (lpoOf s n.toNat).fifo = c :: l)
include h

theorem exec_lpoCodeApply_held (hp : mayArrive s aclkCross c = false ∨ domGated s .ana = true) : exec (.lpoCodeApply n) s = .next s := by
  dsimp only [exec, execLpoCodeApply]
  rw [h]
  exact if_pos hp

theorem exec_lpoCodeApply_arrives (hp : mayArrive s aclkCross c = true) (hg : domGated s .ana = false) :
    exec (.lpoCodeApply n) s = .next (if bitOf (lpF s n.toNat 0 1) 1 then modLpo n.toNat (fun x => { x with fifo := l, latch := c.item }) s
      else lpoChange n.toNat (fun x => { x with fifo := l, applied := c.item }) s) := by
  dsimp only [exec, execLpoCodeApply]
  rw [h]
  exact if_neg (by simp [hp, hg])

end OutputCode

theorem exec_lpoLatchStrobe_gated {s : State} (h : domGated s .ana = true) (m : BitVec 16) : exec (.lpoLatchStrobe m) s = .next s := if_pos h

theorem exec_lpoLatchStrobe {s : State} (h : domGated s .ana = false) (m : BitVec 16) :
    exec (.lpoLatchStrobe m) s = .next ((List.range 16).foldl (fun u n =>
      if (m &&& arrived s aclkCross s.ttu.latch).getLsbD n && lpoOn u n && bitOf (lpF u n 0 1) 1 then lpoChange n (fun x => { x with applied := x.latch }) u else u)
      { s with ttu := { s.ttu with latch := leaveOut s aclkCross m s.ttu.latch } }) :=
  if_neg (by simp [h])

/-- Settles O40: a start by what each of its channels' starts leaves, every other event by the branch of its command. -/
theorem converterEventsComplete : Obligations.ConverterEventsComplete := by
  refine fun s => ⟨fun m => ?start, fun c n x hx => ⟨fun h => exec_modulatorSelectApply_none h n,
      fun p h => ⟨fun hp => exec_modulatorSelectApply_held h hp n, fun hp hg u hu => ?select⟩⟩,
    fun c bits split ago n hn => ⟨fun h => exec_fceCicOutput_none h bits split ago, fun hs hc hg ho hb => ?short,
      fun hs hg ho => exec_fceCicOutput_disabled hs hg ho bits split ago, fun hs ho l hl => ?window⟩,
    fun d => ⟨fun p h => exec_qdcZeroApply_some h, exec_qdcZeroApply_none⟩,
    fun d g => ⟨fun h k => exec_qdcTransition_stopped h k g, fun h w hw => ?transition⟩,
    fun n => ⟨exec_lpoCodeApply_empty, fun c l h => ⟨exec_lpoCodeApply_held h, fun hp hg => ?code⟩⟩,
    fun m => ⟨fun h => exec_lpoLatchStrobe_gated h m, fun h => exec_lpoLatchStrobe h m⟩⟩
  case start =>
    obtain ⟨t, ht, httu, hfce⟩ := exec_fceStart_chain m s
    have hchan (c : Nat) : fceChan t c = fceChan (afterStarts m s) c := fceChan_eq_of_chans (congrArg Fce.chans hfce) c
    refine ⟨t, ht, httu.trans (afterStarts_ttu m s), (congrArg Fce.groups hfce).trans (afterStarts_groups m s),
      (execFceStart_only m s t ht).mono (by decide), fun c hc he hg => ?_, fun c h => ?_⟩
    · rw [hchan]
      exact afterStarts_started hc he hg
    · rw [hchan]
      exact fceChan_afterStarts_of_not_fresh h
  case select =>
    have hxu : x = fceChan u c := by rw [hx, hu]; rfl
    have hou : fceOff s c = fceOff u c := by rw [hu]; rfl
    rw [exec_modulatorSelectApply_arrives h hp hg, ← hu, hou, hxu]
    exact ⟨fun hs => congrArg Host.Outcome.next (selectArrives_stopped hs n),
      fun hs he => congrArg Host.Outcome.next (selectArrives_same hs he n),
      fun hs he v hv => congrArg Host.Outcome.next (selectArrives_changed hs he hv)⟩
  case short => exact exec_fceCicOutput_short hs (.inr hg) ho hc (hn ▸ hb) split ago
  case window =>
    subst hn
    rcases hl with ⟨hc, hg, hb, rfl⟩ | ⟨hc, rfl⟩
    · rw [exec_fceCicOutput_window hs (.inr hg) ho (by omega), windowValues, if_pos hc]
      rfl
    · rw [exec_fceCicOutput_window hs (.inl hc) ho (by omega), windowValues, if_neg (by omega)]
      rfl
  case transition =>
    have hstep (v : Int) : w v = takeTransition d.toNat g v s := hw v _ rfl
    rw [hstep, hstep, hstep]
    exact ⟨exec_qdcTransition_up h g, exec_qdcTransition_down h g, _, errorCount_eq _ _, exec_qdcTransition_both h g⟩
  case code =>
    rw [exec_lpoCodeApply_arrives h hp hg]
    exact ⟨fun hl => by rw [if_pos hl], fun hl => by rw [if_neg (Bool.eq_false_iff.mp hl)]⟩

end Sys2Proof.Machine
end

section
/-! LOOP-CLEAR, HART-PASS and the events of the HART ports (R326, R332 to R335, R339). -/

namespace Sys2Proof.Machine

/-! The answers of LOOP-CLEAR, which latches and acts at a boundary (R326; log entry 72). -/

section LoopClear

variable (mbx : Nat) {n : Nat} {s : State}

theorem loopClearHandler_range (h : lpoOn s n = false) : loopClearHandler mbx n s = completeMbx mbx rcRange s := if_pos (by simp [h])

variable (hon : lpoOn s n = true)
include hon

theorem loopClearHandler_state (h : isDisabled s 0x28 n = true ∨ (lpoOf s n).state ≠ 3 ∨ ((lpoOf s n).cause ≠ 2 ∧ (lpoOf s n).cause ≠ 3)) :
    loopClearHandler mbx n s = completeMbx mbx rcState s :=
  (if_neg (by simp [hon])).trans (if_pos (by simpa [imp_iff_not_or] using h))

theorem loopClearHandler_latched (hd : isDisabled s 0x28 n = false) (hs : (lpoOf s n).state = 3) (hc : (lpoOf s n).cause = 2 ∨ (lpoOf s n).cause = 3) :
    loopClearHandler mbx n s = { s with loops := { s.loops with clears := s.loops.clears ++ [{ chan := n, due := latchFrame s, mbx := mbx }] } } :=
  (if_neg (by simp [hon])).trans (if_neg (by simpa [hd, hs, or_iff_not_imp_left] using hc))

end LoopClear

/-! The answers of HART-PASS (R339). That a port that is not enabled is DENIED and a disabled one ABORTED is log entry 73. -/

section HartPass

variable (mbx : Nat) {p addr : Nat} (cmd : Nat) (long : Bool) {data : List Byte} {s : State}

theorem hartPassHandler_range (h : 40 ≤ p ∨ 16 ≤ addr ∨ 48 < data.length) :
    hartPassHandler mbx p addr cmd long data s = completeMbx mbx rcRange s := if_pos h

variable (hp : p < 40) (ha : addr < 16) (hd : data.length ≤ 48)
include hp ha hd

theorem hartPassHandler_denied (h : hpFlag s p 0 = false ∨ hpFlag s p 3 = false) :
    hartPassHandler mbx p addr cmd long data s = completeMbx mbx rcDenied s :=
  (if_neg (by omega)).trans (if_pos (by simpa using h))

variable (hon : hpFlag s p 0 = true) (hen : hpFlag s p 3 = true)
include hon hen

theorem hartPassHandler_permitted : hartPassHandler mbx p addr cmd long data s
    = if (hartOf s p).pass.isSome then completeMbx mbx rcBusy s
      else if hartOff s p then abortMbx mbx s
      else modHart p (fun h => { h with pass := some { mbx := mbx, addr := addr, cmd := cmd, long := long, data := data, due := latchFrame s } }) s :=
  (if_neg (by omega)).trans (if_neg (by simp [hon, hen]))

theorem hartPassHandler_busy (h : (hartOf s p).pass ≠ none) : hartPassHandler mbx p addr cmd long data s = completeMbx mbx rcBusy s := by
  rw [hartPassHandler_permitted mbx cmd long hp ha hd hon hen, if_pos (Option.isSome_iff_ne_none.mpr h)]

variable (hnone : (hartOf s p).pass = none)
include hnone

theorem hartPassHandler_disabled (h : hartOff s p = true) : hartPassHandler mbx p addr cmd long data s = abortMbx mbx s := by
  rw [hartPassHandler_permitted mbx cmd long hp ha hd hon hen, if_neg (by simp [hnone]), if_pos h]

theorem hartPassHandler_latched (h : hartOff s p = false) : hartPassHandler mbx p addr cmd long data s
    = modHart p (fun h => { h with pass := some { mbx := mbx, addr := addr, cmd := cmd, long := long, data := data, due := latchFrame s } }) s := by
  rw [hartPassHandler_permitted mbx cmd long hp ha hd hon hen, if_neg (by simp [hnone]), if_neg (by simp [h])]

end HartPass

/-! The commands run their handlers. -/

theorem exec_loopClear (m : BitVec 4) (n : BitVec 8) (s : State) : exec (.loopClear m n) s = .next (loopClearHandler m.toNat n.toNat s) := rfl

theorem exec_hartPass (m : BitVec 4) (p a c : BitVec 8) (lg : Bool) (d : List Byte) (s : State) :
    exec (.hartPass m p a c lg d) s = .next (hartPassHandler m.toNat p.toNat a.toNat c.toNat lg d s) := rfl

/-! A frame and a request need a port that is enabled and not disabled, and ANA powered (R340). -/

section Port

variable {s : State} {p : Fin 40}

theorem exec_hartPort_off (h : hpFlag s p 0 = false ∨ hartOff s p = true ∨ domGated s .ana = true) (f : HartFrame) :
    exec (.hartFrameReceived p f) s = .next s ∧ exec (.hartRequestSend p) s = .next s :=
  ⟨if_pos (by simpa [or_assoc] using h), if_pos (by rcases h with h | h | h <;> simp [h])⟩

theorem exec_hartRequestSend_waits (h : hartMaySend s p (hartOf s p) = false ∨ s.seq.run = false) : exec (.hartRequestSend p) s = .next s :=
  if_pos (by rcases h with h | h <;> simp [h])

variable (hon : hpFlag s p 0 = true) (hoff : hartOff s p = false) (hana : domGated s .ana = false)
include hon hoff hana

/-! A frame that comes in (R332, R334). -/

section Frame

variable {f : HartFrame}

theorem exec_hartFrameReceived_unparsed (hf : hartParse f = none) : exec (.hartFrameReceived p f) s
    = .next (if ((hartOf s p).cur.filter (fun c => c.await)).isSome then hartRetry p 2 0 0 [] s else s) := by
  refine (if_neg (by simp [hon, hoff, hana])).trans ?_
  rw [hf]
  cases (hartOf s p).cur.filter (fun c => c.await) with
  | none => rfl
  | some c => rfl

variable {q : HartParts} (hf : hartParse f = some q)
include hf

theorem exec_hartFrameReceived_burst (hq : q.delim = 0x01 ∨ q.delim = 0x81) : exec (.hartFrameReceived p f) s = .next (hartBurst p q s) := by
  refine (if_neg (by simp [hon, hoff, hana])).trans ?_
  rw [hf]
  exact if_pos hq

variable (h1 : q.delim ≠ 0x01) (h2 : q.delim ≠ 0x81)
include h1 h2

theorem exec_hartFrameReceived_unasked (hc : (hartOf s p).cur.filter (fun c => c.await) = none) :
    exec (.hartFrameReceived p f) s = .next s := by
  refine (if_neg (by simp [hon, hoff, hana])).trans ?_
  rw [hf, hc]
  exact if_neg (not_or.mpr ⟨h1, h2⟩)

theorem exec_hartFrameReceived_response {c : HartCur} (hc : (hartOf s p).cur.filter (fun c => c.await) = some c) :
    exec (.hartFrameReceived p f) s = .next (hartResponse p c q s) := by
  refine (if_neg (by simp [hon, hoff, hana])).trans ?_
  rw [hf, hc]
  exact if_neg (not_or.mpr ⟨h1, h2⟩)

end Frame

/-! A request that goes out (R333, R335). -/

variable (hmay : hartMaySend s p (hartOf s p) = true) (hrun : s.seq.run = true)
include hmay hrun

theorem exec_hartRequestSend_nothing (hch : hartChoose s (hartOf s p) p = none) : exec (.hartRequestSend p) s = .next s := by
  refine (if_neg (by simp [hon, hoff, hana, hmay, hrun])).trans ?_
  rw [hch]

variable {h : HartPort} {c : HartCur} (hch : hartChoose s (hartOf s p) p = some (h, c))
include hch

/-- The exchange in hand either lacks its long address or goes out. -/
theorem exec_hartRequestSend_chosen : exec (.hartRequestSend p) s
    = if (exchange s h c).2.2.1 && (hartId s p (exchange s h c).1).isNone then .next (hartEnd p 6 0 0 [] (setHart p { h with cur := some c } s))
      else .next (setHart p { h with
        cur := some { c with attempts := c.attempts + 1, await := true }
        sent := hartFrame s p (hartAddr s p (exchange s h c).1 (if (exchange s h c).2.2.1 then hartId s p (exchange s h c).1 else none))
          (exchange s h c).2.1 (exchange s h c).2.2.2
        sentAt := s.cclk } s) := by
  refine (if_neg (by simp [hon, hoff, hana, hmay, hrun])).trans ?_
  rw [hch]

end Port

/-! The end of a slot time (R333). -/

theorem exec_hartStoExpiry (p : Fin 40) (s : State) :
    exec (.hartStoExpiry p) s = .next (if stoOver s (hartOf s p) then hartRetry p 1 0 0 [] s else s) := rfl

/-! A carrier edge (R333). That every change of the carrier starts the timer anew is log entry 149. -/

theorem exec_hartCarrierDetect_gated {s : State} (h : domGated s .ana = true) (p : Fin 40) (on : Bool) :
    exec (.hartCarrierDetect p on) s = .next s := if_pos h

/-- A port's own exchange is the one whose response it awaits. -/
theorem exec_hartCarrierDetect {s : State} (h : domGated s .ana = false) (p : Fin 40) (on : Bool) : exec (.hartCarrierDetect p on) s
    = .next (setHart p { hartOf s p with
        carrier := on, since := s.cclk
        timer := if on = true ∧ (hartOf s p).cur.filter (fun c => c.await) = none then 1 else (hartOf s p).timer } s) := by
  refine (if_neg (by simp [h])).trans (congrArg
    (fun t => Host.Outcome.next (setHart p { hartOf s p with carrier := on, since := s.cclk, timer := t } s)) ?_)
  cases (hartOf s p).cur with
  | none => simp
  | some c => simp

/-- Settles O41: the handlers of the two mailbox commands by their answers, the events of a port by the branch of each. -/
theorem currentLoopCommandsComplete : Obligations.CurrentLoopCommandsComplete := by
  refine fun s => ⟨fun m n => ?clear, fun m p a c lg d => ?pass, fun p f => ⟨fun h => exec_hartPort_off h f, fun hon hoff hana =>
      ⟨fun hc hf => ?ignored, fun q hf hq => exec_hartFrameReceived_burst hon hoff hana hf hq,
        fun c hc => ⟨fun hf => ?unparsed, fun q hf h1 h2 => exec_hartFrameReceived_response hon hoff hana hf h1 h2 hc⟩,
        fun h => ?idle, fun hmay hrun h c e id hch he hid => ?send⟩⟩,
    fun p => ?slot, fun p on => ⟨fun h => exec_hartCarrierDetect_gated h p on, fun h => exec_hartCarrierDetect h p on⟩⟩
  case clear =>
    rw [exec_loopClear]
    exact ⟨fun h => congrArg Host.Outcome.next (loopClearHandler_range _ h), fun hon h => congrArg Host.Outcome.next (loopClearHandler_state _ hon h),
      fun hon hd hs hc => congrArg Host.Outcome.next (loopClearHandler_latched _ hon hd hs hc)⟩
  case pass =>
    rw [exec_hartPass]
    exact ⟨fun h => congrArg Host.Outcome.next (hartPassHandler_range _ _ _ h), fun hp ha hd =>
      ⟨fun h => congrArg Host.Outcome.next (hartPassHandler_denied _ _ _ hp ha hd h), fun hon hen =>
        ⟨fun h => congrArg Host.Outcome.next (hartPassHandler_busy _ _ _ hp ha hd hon hen h),
          fun hn h => congrArg Host.Outcome.next (hartPassHandler_disabled _ _ _ hp ha hd hon hen hn h),
          fun hn h => congrArg Host.Outcome.next (hartPassHandler_latched _ _ _ hp ha hd hon hen hn h)⟩⟩⟩
  case ignored =>
    rcases hf with hf | ⟨q, hf, h1, h2⟩
    · rw [exec_hartFrameReceived_unparsed hon hoff hana hf, hc]
      rfl
    · exact exec_hartFrameReceived_unasked hon hoff hana hf h1 h2 hc
  case unparsed =>
    rw [exec_hartFrameReceived_unparsed hon hoff hana hf, hc]
    rfl
  case idle =>
    by_cases hready : hartMaySend s p (hartOf s p) = true ∧ s.seq.run = true
    · obtain ⟨hmay, hrun⟩ := hready
      exact exec_hartRequestSend_nothing hon hoff hana hmay hrun (by simpa [hmay, hrun] using h)
    · exact exec_hartRequestSend_waits (by simpa [imp_iff_not_or] using hready)
  case send =>
    subst he hid
    rw [exec_hartRequestSend_chosen hon hoff hana hmay hrun hch]
    exact ⟨fun hl hn => if_pos (by simp [hl, hn]), fun hk => if_neg (by simpa [imp_iff_not_or] using hk)⟩
  case slot =>
    rw [exec_hartStoExpiry]
    exact ⟨fun h => by rw [if_pos h], fun h => by rw [if_neg (Bool.eq_false_iff.mp h)]⟩

end Sys2Proof.Machine
end

section
/-! The operations of the pack engines (R351, R358, R380, R384), of PTC and the time trigger unit (R409, R418) and of the field ports (R432, R433, R442,
R447, R449). -/

namespace Sys2Proof.Machine

/-- Both operations of a trigger entry put a piece of programming, for TTU_ARM one made from the state at the issue, at the end of its FIFO. -/
theorem exec_triggerEntry {s : State} {n : BitVec 6} (h : issued s 0x0D n.toNat = true) :
    exec (.ttuArm n) s = .next (dropLane (modTtu n.toNat (fun e => { e with fifo := e.fifo ++ [handed s 4 (armProg s n.toNat)] }) s))
      ∧ exec (.ttuStop n) s = .next (dropLane (modTtu n.toNat (fun e => { e with fifo := e.fifo ++ [handed s 4 .stop] }) s)) :=
  ⟨issue_of_issued h (opWord 0x0D 1 n.toNat) (fun u => modTtu n.toNat (fun e => { e with fifo := e.fifo ++ [handed u 4 (armProg u n.toNat)] }) u),
    issue_of_issued h (opWord 0x0D 2 n.toNat) (fun u => modTtu n.toNat (fun e => { e with fifo := e.fifo ++ [handed u 4 .stop] }) u)⟩

/-! A field port refuses an object or a descriptor that its table does not declare (R55). -/

section CanObject

variable {s : State} {c : Fin 8} {o : BitVec 7} (h : issued s (0x10 + c.val) 0 = true)
include h

theorem exec_canObject_declared (ho : o.toNat < objCnt s c) :
    exec (.canTx c o) s = .next (dropLane (canTxEffect c o.toNat s))
      ∧ exec (.canCancel c o) s = .next (dropLane (modCan c (fun y => { y with fifo := y.fifo ++ [handed s 4 (.cancel o.toNat)] }) s)) :=
  have declared := issue_of_not_refused (refused := fun u => objCnt u c ≤ o.toNat) h (Nat.not_le.mpr ho)
  ⟨declared 1 o.toNat (canTxEffect c o.toNat),
    declared 2 o.toNat (fun u => modCan c (fun y => { y with fifo := y.fifo ++ [handed u 4 (.cancel o.toNat)] }) u)⟩

theorem exec_canObject_undeclared (ho : objCnt s c ≤ o.toNat) :
    exec (.canTx c o) s = .next (dropLane (breach 0x0107 (opWord (0x10 + c.val) 1 o.toNat) s))
      ∧ exec (.canCancel c o) s = .next (dropLane (breach 0x0107 (opWord (0x10 + c.val) 2 o.toNat) s)) :=
  have missing := issue_of_refused (refused := fun u => objCnt u c ≤ o.toNat) h ho
  ⟨missing 1 o.toNat (canTxEffect c o.toNat),
    missing 2 o.toNat (fun u => modCan c (fun y => { y with fifo := y.fifo ++ [handed u 4 (.cancel o.toNat)] }) u)⟩

end CanObject

section SerialDescriptor

variable {s : State} {p : Fin 12} {d : BitVec 6} (h : issued s (0x18 + p.val) 0 = true)
include h

theorem exec_serTx_declared (hd : d.toNat < se s p 0x1C 2) : exec (.serTx p d) s = .next (dropLane (serTxEffect p d.toNat s)) :=
  issue_of_not_refused (refused := fun u => se u p 0x1C 2 ≤ d.toNat) h (Nat.not_le.mpr hd) 1 d.toNat (serTxEffect p d.toNat)

theorem exec_serTx_undeclared (hd : se s p 0x1C 2 ≤ d.toNat) :
    exec (.serTx p d) s = .next (dropLane (breach 0x0107 (opWord (0x18 + p.val) 1 d.toNat) s)) :=
  issue_of_refused (refused := fun u => se u p 0x1C 2 ≤ d.toNat) h hd 1 d.toNat (serTxEffect p d.toNat)

end SerialDescriptor

section EthernetDescriptor

variable {s : State} {p : Fin 4} {d : BitVec 6} (h : issued s (0x24 + p.val) 0 = true)
include h

theorem exec_ethTx_declared (hd : d.toNat < et s p 0x12 2) : exec (.ethTx p d) s = .next (dropLane (ethTxEffect p d.toNat s)) :=
  issue_of_not_refused (refused := fun u => et u p 0x12 2 ≤ d.toNat) h (Nat.not_le.mpr hd) 1 d.toNat (ethTxEffect p d.toNat)

theorem exec_ethTx_undeclared (hd : et s p 0x12 2 ≤ d.toNat) :
    exec (.ethTx p d) s = .next (dropLane (breach 0x0107 (opWord (0x24 + p.val) 1 d.toNat) s)) :=
  issue_of_refused (refused := fun u => et u p 0x12 2 ≤ d.toNat) h hd 1 d.toNat (ethTxEffect p d.toNat)

end EthernetDescriptor

/-- Settles O22: every operation by the rule of an issue, a field port's by whether its table declares the operand. -/
theorem packTimeAndPortOperationsComplete : Obligations.PackTimeAndPortOperationsComplete := by
  refine ⟨fun s => ⟨fun h => ?ring, fun h => ?leash, fun h => ?time, fun n h => exec_triggerEntry h⟩,
    fun s => ⟨fun c o h => ⟨exec_canObject_declared h, exec_canObject_undeclared h⟩,
      fun p d h => ⟨exec_serTx_declared h, exec_serTx_undeclared h⟩,
      fun p d h => ⟨exec_ethTx_declared h, exec_ethTx_undeclared h⟩⟩⟩
  case ring => exact issue_of_issued h (opWord 0x0E 1 0) pswTxEffect
  case leash =>
    exact ⟨issue_of_issued h (opWord 0x0F 1 0) barkTxEffect, issue_of_issued h (opWord 0x0F 2 0) roleStepEffect,
      fun i n => issue_of_issued h (opWord 0x0F 3 (i.toNat + 16 * n.toNat)) (eqSnapEffect i.toNat n.toNat)⟩
  case time => exact issue_of_issued h (opWord 0x0C 1 0) ptcReadEffect

end Sys2Proof.Machine
end

section
/-! The links of the Leash (R346, R356, R357) and the interlock (R360). -/

namespace Sys2Proof.Machine

/-! Link state (R356). That it is tracked in every device state is log entry 79. -/

section LinkState

variable {k : Fin 3} {s : State}

theorem exec_leashUp_of_down (h : (linkOf s k).up = false) : exec (.leashUp k) s
    = .next (raise 0x0B07 (w32 k) (w32 (linkPeer s k)) 0 (modLink k (fun l => { l with up := true, aligned := true }) s)) :=
  if_neg (Bool.eq_false_iff.mp h)

theorem exec_leashUp_of_up (h : (linkOf s k).up = true) : exec (.leashUp k) s = .next s := if_pos h

variable {al : Bool} {errs : BitVec 16} {u : State}
  (hu : u = modLink k (fun l => { l with up := false, aligned := al, codeErr := BitVec.ofNat 16 (min 65535 (l.codeErr.toNat + errs.toNat)) }) s)
include hu

theorem exec_leashDown_of_up (h : (linkOf s k).up = true) : exec (.leashDown k al errs) s
    = .next (raise 0x0B06 (w32 k) (((lastBark u k).map (fun b => b.code.setWidth 32)).getD 0) 0 u) := by
  subst hu
  exact congrArg Host.Outcome.next (if_pos h)

theorem exec_leashDown_of_down (h : (linkOf s k).up = false) : exec (.leashDown k al errs) s = .next u := by
  subst hu
  exact congrArg Host.Outcome.next (if_neg (Bool.eq_false_iff.mp h))

end LinkState

/-! What a link receives (R346, R357). -/

/-- A frame on link k has the effect f when its check holds; nothing is received on a link that is not active, or before the seal. -/
def onHeard (k : Nat) (ok : Bool) (f : State → State) (s : State) : Res :=
  if !hears s k then .next s else if ok then .next (f s) else .next (crcFailed k s)

theorem exec_leashBarkReceived (k : Fin 3) (ok : Bool) (b : Bark) (s : State) :
    exec (.leashBarkReceived k ok b) s = onHeard k ok (barkReceived k b) s := rfl

theorem exec_leashEqReceived (k : Fin 3) (ok : Bool) (x : EqItem) (s : State) :
    exec (.leashEqReceived k ok x) s = onHeard k ok (eqReceived x) s := rfl

theorem exec_leashCmdReceived (k : Fin 3) (ok : Bool) (c : LeashCmd) (s : State) :
    exec (.leashCmdReceived k ok c) s = onHeard k ok (cmdReceived k c) s := rfl

theorem onHeard_of_heard {k : Nat} {s : State} (h : hears s k = true) (f : State → State) :
    onHeard k true f s = .next (f s) ∧ onHeard k false f s = .next (crcFailed k s) := by
  simp [onHeard, h]

theorem onHeard_of_unheard {k : Nat} {s : State} (h : hears s k = false) (ok : Bool) (f : State → State) : onHeard k ok f s = .next s :=
  if_pos (by simp [h])

/-! The interlock (R360). That a lapse takes the level that stands is log entry 80. -/

theorem Only.pack {l : List Part} {s t : State} (h : Only l s t) (hl : l.contains Part.pack = false) : t.pack = s.pack := h .pack (by simpa using hl)

theorem raise_pack (code : Nat) (p0 p1 p2 : Word) (s : State) : (raise code p0 p1 p2 s).pack = s.pack := (raise_only code p0 p1 p2 s).pack rfl

theorem outRefresh_pack (s : State) : (outRefresh s).pack = s.pack := (outRefresh_only s).pack rfl

/-- The event of a disabled output and the output stages leave the pack engines alone. -/
theorem setIlk_ilk (c : BitVec 2) (s : State) : (setIlk c s).pack.ilk = c := by
  unfold setIlk
  rw [outRefresh_pack]
  split
  · rw [raise_pack]
    rfl
  · rfl

theorem exec_ilkInEdge (s : State) : exec .ilkInEdge s
    = .next (setIlk 1 { s with pins := { s.pins with ilkIn := !s.pins.ilkIn }, pack := { s.pack with ilkEdge := s.cclk } }) := rfl

theorem exec_ilkClaimLapse (s : State) : exec .ilkClaimLapse s = .next (if ilkLapsed s then setIlk (if s.pins.ilkIn then 2 else 0) s else s) := rfl

theorem ilkLapsed_iff (s : State) : ilkLapsed s = true ↔ s.pack.ilk = 1 ∧ s.pack.ilkEdge + 768 < s.cclk := by simp [ilkLapsed]

/-- Settles O42: the state of a link by what its last state was, a frame by whether the link hears it, a lapse by `ilkLapsed`. -/
theorem leashLinksAndInterlock : Obligations.LeashLinksAndInterlock := by
  refine fun k s => ⟨exec_leashUp_of_down, exec_leashUp_of_up, fun al errs u hu => ⟨exec_leashDown_of_up hu, exec_leashDown_of_down hu⟩, rfl,
    fun h => ?heard, fun h ok b x c => ?unheard, exec_ilkInEdge s, fun hc ho => ?lapse, fun h => ?noLapse, fun c => setIlk_ilk c s⟩
  case heard =>
    simp only [exec_leashBarkReceived, exec_leashEqReceived, exec_leashCmdReceived]
    exact ⟨fun b => onHeard_of_heard h (barkReceived k b), fun x => onHeard_of_heard h (eqReceived x), fun c => onHeard_of_heard h (cmdReceived k c)⟩
  case unheard =>
    rw [exec_leashBarkReceived, exec_leashEqReceived, exec_leashCmdReceived]
    exact ⟨onHeard_of_unheard h ok _, onHeard_of_unheard h ok _, onHeard_of_unheard h ok _⟩
  case lapse => rw [exec_ilkClaimLapse, if_pos ((ilkLapsed_iff s).mpr ⟨hc, ho⟩)]
  case noLapse =>
    have hn : ¬ ilkLapsed s = true := by
      rw [ilkLapsed_iff, not_and_or, Nat.not_lt]
      exact h
    rw [exec_ilkClaimLapse, if_neg hn]

end Sys2Proof.Machine
end

section
/-! Ring frames (R348), the lease and the claim window (R363, R364), the loss of equalisation (R370), ROLE-SWAP, PACK-DUPLEX and PARTNER-RESET (R374,
R379, R383). -/

namespace Sys2Proof.Machine

/-! A ring frame (R348) and a lease (R363). -/

theorem exec_ringFrameReceived_sealed {s : State} (h : s.boot.sealed = true) (p : Bool) (f : PackFrame) (a : RingForward) (b : Bool) :
    exec (.ringFrameReceived p f a b) s = .next (ringFrame p f a b s) := if_pos h

theorem exec_ringFrameReceived_unsealed {s : State} (h : s.boot.sealed = false) (p : Bool) (f : PackFrame) (a : RingForward) (b : Bool) :
    exec (.ringFrameReceived p f a b) s = .next s := if_neg (Bool.eq_false_iff.mp h)

theorem exec_leaseExpired_last {s : State} (hh : s.pack.holder = false) (hl : s.pack.leaseLeft = 1) :
    exec .leaseExpired s = .next { s with pack := { s.pack with leaseLeft := 0, why := if s.pack.renewed then 1 else 0 } } :=
  if_neg (by simp [hh, hl])

theorem exec_leaseExpired_other {s : State} (h : s.pack.holder = true ∨ s.pack.leaseLeft ≠ 1) : exec .leaseExpired s = .next s := if_pos h

/-! The end of a claim window (R364). That the claim is judged there is log entry 150. -/

section ClaimWindow

variable {s : State}

theorem windowOver_iff (s : State) : windowOver s = true ↔ s.pack.window = true ∧ s.pack.claimAt + 768 ≤ s.cclk := by simp [windowOver]

theorem exec_collarClaimWindowEnd_open (h : s.pack.window = false ∨ s.cclk < s.pack.claimAt + 768) : exec .collarClaimWindowEnd s = .next s := by
  have hn : ¬ windowOver s = true := by
    rw [windowOver_iff, not_and_or, Bool.not_eq_true, Nat.not_le]
    exact h
  exact congrArg Host.Outcome.next (if_neg hn)

variable (hw : s.pack.window = true)
include hw

theorem exec_collarClaimWindowEnd_over (ho : s.pack.claimAt + 768 ≤ s.cclk) : exec .collarClaimWindowEnd s = .next (claimEnd s) :=
  congrArg Host.Outcome.next (if_pos ((windowOver_iff s).mpr ⟨hw, ho⟩))

theorem claimEnd_takes (hok : s.pack.winOk = true) (hilk : s.pack.ilk = 0) (hdev : s.boot.dev = .standby) : claimEnd s
    = outRefresh (raise 0x0B00 (s.pack.why.setWidth 32) (w32 (b2n s.pack.eqOk)) (w32 (pcyc s))
      { s with pack := { s.pack with
        window := false, holder := true, releasing := false, blocked := false, roleNext := some .active, swap := { s.pack.swap with takes := false } } }) :=
  (if_neg (by simp [hw])).trans (if_pos ⟨hok, hilk, hdev⟩)

theorem claimEnd_fails (h : s.pack.winOk = false ∨ s.pack.ilk ≠ 0 ∨ s.boot.dev ≠ .standby) {u : State}
    (hu : u = dupFailed { s with pack := { s.pack with window := false, winOk := false, claiming := false } }) : claimEnd s
    = outRefresh (if s.pins.unitSel = 1 then modPack (fun p => { p with leaseLeft := leaseLen u }) u else u) := by
  subst hu
  simp only [← beq_iff_eq (a := s.pins.unitSel)]
  exact (if_neg (by simp [hw])).trans (if_neg (by simpa [imp_iff_not_or] using h))

end ClaimWindow

/-! The loss of equalisation (R370). That it is judged on the items that the Chart's EQ_SNAPs name is log entry 84. -/

section EqLost

variable {s : State}

theorem exec_eqLost (s : State) : exec .eqLost s = .next (eqLose s) := rfl

theorem eqLose_of_kept (h : importing s = false ∨ s.pack.eqOk = false) : eqLose s = s := if_neg (by simpa [imp_iff_not_or] using h)

variable {stale : Nat → Bool} (hs : ∀ k, stale k = (eqVersion s k).elim true (eqStale s))
include hs

/-- A unit that imports and has EQ_OK loses it at the first item that is stale or was never imported. -/
theorem eqLose_eq_find? (hi : importing s = true) (he : s.pack.eqOk = true) : eqLose s
    = ((eqNeeded s).find? stale).elim s (fun key =>
      raise 0x0B0D (w32 key) (i32 (eqAge s ((eqVersion s key).getD 0))) 0 { s with pack := { s.pack with eqOk := false } }) := by
  have hsearch (g : Nat → Bool) (hg : ∀ k, g k = (eqVersion s k).elim true (eqStale s)) : (eqNeeded s).find? g = (eqNeeded s).find? stale :=
    List.find?_congr fun k _ => (hg k).trans (hs k).symm
  unfold eqLose
  rw [if_pos (by rw [hi, he]; rfl), hsearch _ ?item]
  case item =>
    intro k
    cases eqVersion s k with
    | none => rfl
    | some v => rw [Option.elim_some]
  cases (eqNeeded s).find? stale with
  | none => rfl
  | some key =>
    rw [Option.elim_some]
    rfl

theorem eqLose_of_stale (hi : importing s = true) (he : s.pack.eqOk = true) {key : Nat} (hf : (eqNeeded s).find? stale = some key) : eqLose s
    = raise 0x0B0D (w32 key) (i32 (eqAge s ((eqVersion s key).getD 0))) 0 { s with pack := { s.pack with eqOk := false } } := by
  rw [eqLose_eq_find? hs hi he, hf]
  rfl

theorem eqLose_of_none_stale (hf : (eqNeeded s).find? stale = none) : eqLose s = s := by
  by_cases h : importing s = true ∧ s.pack.eqOk = true
  · obtain ⟨hi, he⟩ := h
    rw [eqLose_eq_find? hs hi he, hf]
    rfl
  · exact eqLose_of_kept (by simpa [imp_iff_not_or] using h)

end EqLost

/-! The answers of ROLE-SWAP (R374). That SWAP_RETRY and SWAP_EN do not hold it back is log entry 81. -/

section RoleSwap

variable (mbx : Nat) {s : State}

theorem roleSwapHandler_busy (h : s.pack.swap.req ≠ none ∨ s.pack.swap.state = 2 ∨ s.pack.swap.state = 3 ∨ s.pack.swap.state = 4) :
    roleSwapHandler mbx s = completeMbx mbx rcBusy s := if_pos (by rwa [Option.isSome_iff_ne_none])

theorem roleSwapHandler_requested (hr : s.pack.swap.req = none) (h2 : s.pack.swap.state ≠ 2) (h3 : s.pack.swap.state ≠ 3)
    (h4 : s.pack.swap.state ≠ 4) :
    roleSwapHandler mbx s = { s with pack := { s.pack with swap := { s.pack.swap with req := some (latchFrame s, mbx) } } } :=
  if_neg (by simpa [hr] using ⟨h2, h3, h4⟩)

end RoleSwap

/-! The answers of PACK-DUPLEX (R379). That the units' readiness is read from their Barks is log entry 83. -/

section PackDuplex

variable (mbx : Nat) {unit : Nat} {s : State}

theorem packDuplexHandler_range (h1 : unit ≠ 1) (h2 : unit ≠ 2) : packDuplexHandler mbx unit s = completeMbx mbx rcRange s := if_pos ⟨h1, h2⟩

variable (hu : unit = 1 ∨ unit = 2)
include hu

theorem packDuplexHandler_busy (h : s.pack.dup ≠ none) : packDuplexHandler mbx unit s = completeMbx mbx rcBusy s :=
  (if_neg (by omega)).trans (if_pos (Option.isSome_iff_ne_none.mpr h))

variable (hn : s.pack.dup = none)
include hn

theorem packDuplexHandler_pending (hv : s.boot.dev = .voting) (hr1 : dupReady s 1 = true) (hr2 : dupReady s 2 = true) (hl : lsh0Up s = true)
    (hc1 : dupClean s 1 = true) (hc2 : dupClean s 2 = true) : packDuplexHandler mbx unit s
    = { s with pack := { s.pack with dup := some { target := unit, cyc := pcyc s + 4, mbx := some mbx } } } :=
  (if_neg (by omega)).trans ((if_neg (by simp [hn])).trans (if_pos ⟨hv, hr1, hr2, hl, hc1, hc2⟩))

theorem packDuplexHandler_state (h : s.boot.dev ≠ .voting ∨ dupReady s 1 = false ∨ dupReady s 2 = false ∨ lsh0Up s = false ∨ dupClean s 1 = false
    ∨ dupClean s 2 = false) : packDuplexHandler mbx unit s = completeMbx mbx rcState s :=
  (if_neg (by omega)).trans ((if_neg (by simp [hn])).trans (if_neg (by simpa [imp_iff_not_or] using h)))

end PackDuplex

/-! The answers of PARTNER-RESET (R383). -/

section PartnerReset

variable (mbx : Nat) {k : Nat} {s : State}

theorem partnerResetHandler_range (h : 3 ≤ k ∨ linkActive s k = false) : partnerResetHandler mbx k s = completeMbx mbx rcRange s :=
  if_pos (by simpa using h)

theorem partnerResetHandler_sent (hk : k < 3) (ha : linkActive s k = true) {c : LeashCmd}
    (hc : c = { target := BitVec.ofNat 8 (linkPeer s k), sender := BitVec.ofNat 8 (unitCode s), chartId := s.hdr.chartId, pcyc := w32 (pcyc s) }) :
    partnerResetHandler mbx k s = decideMbx mbx rcDone (raise 0x0B13 (w32 k) (c.target.setWidth 32) 0
      (modLink k (fun l => { l with txCmd := some c }) (leashSend k 3 (cmdPayload c) (some mbx) s))) := by
  subst hc
  exact if_neg (by simp [ha, hk])

end PartnerReset

/-! The commands run their handlers. -/

theorem exec_roleSwap (m : BitVec 4) (s : State) : exec (.roleSwap m) s = .next (roleSwapHandler m.toNat s) := rfl

theorem exec_packDuplex (m : BitVec 4) (u : BitVec 8) (s : State) : exec (.packDuplex m u) s = .next (packDuplexHandler m.toNat u.toNat s) := rfl

theorem exec_partnerReset (m : BitVec 4) (k : BitVec 8) (s : State) :
    exec (.partnerReset m k) s = .next (partnerResetHandler m.toNat k.toNat s) := rfl

/-- Settles O43: the events by the branch of each, the commands by the answers of their handlers. -/
theorem packEventsAndCommands : Obligations.PackEventsAndCommands := by
  refine fun s => ⟨fun p f a b => ⟨fun h => exec_ringFrameReceived_sealed h p f a b, fun h => exec_ringFrameReceived_unsealed h p f a b⟩,
    exec_leaseExpired_last, exec_leaseExpired_other, fun hw ho => ?window, exec_collarClaimWindowEnd_open, rfl,
    fun stale hs => ?equalisation, fun m => ?swap, fun m u => ?duplex, fun m k => ?reset⟩
  case window =>
    rw [exec_collarClaimWindowEnd_over hw ho]
    exact ⟨fun hok hilk hdev => congrArg Host.Outcome.next (claimEnd_takes hw hok hilk hdev),
      fun h u hu => congrArg Host.Outcome.next (claimEnd_fails hw h hu)⟩
  case equalisation =>
    rw [exec_eqLost]
    refine ⟨fun hi he key hf => congrArg Host.Outcome.next (eqLose_of_stale hs hi he hf), fun h => congrArg Host.Outcome.next ?_⟩
    rcases h with hi | he | hf
    · exact eqLose_of_kept (.inl hi)
    · exact eqLose_of_kept (.inr he)
    · exact eqLose_of_none_stale hs hf
  case swap =>
    rw [exec_roleSwap]
    exact ⟨fun h => congrArg Host.Outcome.next (roleSwapHandler_busy _ h),
      fun hr h2 h3 h4 => congrArg Host.Outcome.next (roleSwapHandler_requested _ hr h2 h3 h4)⟩
  case duplex =>
    rw [exec_packDuplex]
    exact ⟨fun h1 h2 => congrArg Host.Outcome.next (packDuplexHandler_range _ h1 h2),
      fun hu => ⟨fun h => congrArg Host.Outcome.next (packDuplexHandler_busy _ hu h),
        fun hn hv hr1 hr2 hl hc1 hc2 => congrArg Host.Outcome.next (packDuplexHandler_pending _ hu hn hv hr1 hr2 hl hc1 hc2),
        fun hn h => congrArg Host.Outcome.next (packDuplexHandler_state _ hu hn h)⟩⟩
  case reset =>
    rw [exec_partnerReset]
    exact ⟨fun h => congrArg Host.Outcome.next (partnerResetHandler_range _ h),
      fun hk ha c hc => congrArg Host.Outcome.next (partnerResetHandler_sent _ hk ha hc)⟩

end Sys2Proof.Machine
end

section
/-! The fuses (R491, R492, R504): a bit that is programmed stays, and only a transition programs one. -/

namespace Sys2Proof.Machine

theorem and_of_and_trans {n : Nat} {a b c : BitVec n} (h : a &&& b = a) (g : b &&& c = b) : a &&& c = a := by
  rw [← h, BitVec.and_assoc, g]

theorem and_or_self {n : Nat} (a b : BitVec n) : a &&& (a ||| b) = a := by
  ext i hi
  rw [BitVec.getElem_and, BitVec.getElem_or]
  exact inf_sup_self

theorem FusesKept.refl (f : Fuses) : FusesKept f f :=
  ⟨BitVec.and_self, BitVec.and_self, BitVec.and_self, BitVec.and_self, BitVec.and_self, id, id, id, rfl, rfl⟩

theorem FusesKept.trans {f g h : Fuses} (hf : FusesKept f g) (hg : FusesKept g h) : FusesKept f h := by
  obtain ⟨l0, l1, l2, ho, hk, d0, d1, d2, hu, hr⟩ := hf
  obtain ⟨l0', l1', l2', ho', hk', d0', d1', d2', hu', hr'⟩ := hg
  exact ⟨and_of_and_trans l0 l0', and_of_and_trans l1 l1', and_of_and_trans l2 l2', and_of_and_trans ho ho', and_of_and_trans hk hk',
    d0' ∘ d0, d1' ∘ d1, d2' ∘ d2, hu'.trans hu, hr'.trans hr⟩

theorem FusesKept.ite {c : Prop} [Decidable c] {f g h : Fuses} (hg : FusesKept f g) (hh : FusesKept f h) : FusesKept f (if c then g else h) := by
  split
  · exact hg
  · exact hh

theorem or_true_of_left {a b : Bool} (h : a = true) : (a || b) = true := by
  rw [h, Bool.true_or]

/-- A transition only raises fuse bits, whichever life-cycle bits fail to program (R491). -/
theorem program_kept (r : LcReq) (stuck : BitVec 4) (f : Fuses) : FusesKept f (program r stuck f) := by
  refine ⟨and_or_self _ _, and_or_self _ _, and_or_self _ _, ?owner, ?key, or_true_of_left, or_true_of_left, or_true_of_left, rfl, rfl⟩
  case owner =>
    show f.ownerHash &&& (if r.ttype = 1 then f.ownerHash ||| r.owner else f.ownerHash) = f.ownerHash
    split
    · exact and_or_self _ _
    · exact BitVec.and_self
  case key =>
    show f.devKey &&& (if r.ttype = 1 then f.devKey ||| r.key else if (r.ttype == 4 || r.ttype == 5) = true then BitVec.allOnes 256 else f.devKey) = f.devKey
    split
    · exact and_or_self _ _
    · split
      · exact BitVec.and_allOnes
      · exact BitVec.and_self

/-- The fuses of a transition cut off at some stage of R504: the part of the words that the stage had begun is free (R492). -/
theorem tearFuses_kept (s : State) : FusesKept s.fuses (tearFuses s).fuses := by
  unfold tearFuses
  split
  case h_1 => exact .refl _
  case h_2 r _ =>
    extract_lets w wide done stage f keys b dead m out
    obtain ⟨-, -, -, ho, hk, -, -, -, -, -⟩ := program_kept r 0 f
    have hkeys : FusesKept f keys := .ite (.refl f) (.ite ⟨BitVec.and_self, BitVec.and_self, BitVec.and_self, ho, hk, id, id, id, rfl, rfl⟩
      ⟨BitVec.and_self, BitVec.and_self, BitVec.and_self, and_or_self _ _, and_or_self _ _, id, id, id, rfl, rfl⟩)
    obtain ⟨l0, l1, l2, ho', hk', d0, d1, d2, hu, hr⟩ := hkeys
    have hdead : FusesKept f dead := .ite ⟨l0, l1, l2, ho', hk', d0, d1, d2, hu, hr⟩
      ⟨l0, l1, l2, ho', hk', or_true_of_left, or_true_of_left, or_true_of_left, hu, hr⟩
    obtain ⟨l0, l1, l2, ho', hk', d0, d1, d2, hu, hr⟩ := hdead
    exact .ite ⟨l0, l1, l2, ho', hk', d0, d1, d2, hu, hr⟩ ⟨and_or_self _ _, and_or_self _ _, and_or_self _ _, ho', hk', d0, d1, d2, hu, hr⟩

/-- From s to t the fuses only rise, and without a transition in progress they stand. -/
def FusesStep (s t : State) : Prop := FusesKept s.fuses t.fuses ∧ (s.sec.lct = none → t.fuses = s.fuses)

/-- Every next state of an outcome keeps to FusesStep. -/
def FusesNext (s : State) (r : Res) : Prop := ∀ t, r = .next t → FusesStep s t

theorem FusesStep.of_eq {s t : State} (h : t.fuses = s.fuses) : FusesStep s t := ⟨h ▸ .refl _, fun _ => h⟩

theorem FusesStep.only {l : List Part} {s t : State} (h : Only l s t) (hl : l.contains Part.fuses = false) : FusesStep s t := .of_eq (h.fuses hl)

/-- What stands before a change may touch neither the fuses nor the transition in progress. -/
theorem FusesStep.congr_left {s u t : State} (h : FusesStep u t) (hf : u.fuses = s.fuses) (hl : u.sec = s.sec) : FusesStep s t := by
  unfold FusesStep
  rw [← hf, ← hl]
  exact h

theorem FusesStep.congr_right {s u t : State} (h : FusesStep s u) (hf : t.fuses = u.fuses) : FusesStep s t := by
  unfold FusesStep
  rw [hf]
  exact h

theorem FusesStep.ite {c : Prop} [Decidable c] {s t u : State} (ht : FusesStep s t) (hu : FusesStep s u) : FusesStep s (if c then t else u) := by
  split
  · exact ht
  · exact hu

theorem FusesNext.next {s t : State} (h : FusesStep s t) : FusesNext s (.next t) := by
  rintro _ ⟨⟩
  exact h

theorem FusesNext.ite {c : Prop} [Decidable c] {s : State} {a b : Res} (ha : FusesNext s a) (hb : FusesNext s b) : FusesNext s (if c then a else b) := by
  split
  · exact ha
  · exact hb

theorem tearFuses_fusesStep (s : State) : FusesStep s (tearFuses s) := ⟨tearFuses_kept s, fun h => by rw [tearFuses_of_idle h]⟩

theorem tearOn_fusesStep (kind : ResetKind) (s : State) : FusesStep s (tearOn kind s) := by
  have ho : Only [.logMem, .draws] s (if kind = .powerOn then tearLog s else s) := .ite (tearLog_only s) (.refl _ s)
  exact (tearFuses_fusesStep _).congr_left (ho.fuses rfl) (ho.sec rfl)

theorem enterReset_fusesStep (kind : ResetKind) (lct pfail : Bool) (s : State) : FusesStep s (enterReset kind lct pfail s) := by
  refine .ite ?_ ?_
  · extract_lets b t u
    exact .ite (.of_eq ((tearLog_only t).fuses rfl)) (.ite (.of_eq rfl) (.of_eq rfl))
  · extract_lets old t
    have ht : FusesStep s t := ((tearOn_fusesStep kind { s with aon := aonReset kind lct pfail s.aon }).congr_left rfl rfl).congr_right rfl
    exact ht.congr_right ((raise_only _ _ _ _ t).fuses rfl)

theorem cmdReceived_fusesStep (k : Nat) (c : LeashCmd) (s : State) : FusesStep s (cmdReceived k c s) := by
  refine .ite (.of_eq rfl) ?_
  split
  · exact .only (resetRefused_only _ s) rfl
  · exact .only (resetRefused_only _ s) rfl
  · have hl := modLink_only k (fun l => { l with cmdIn := some c.sender.toNat }) s
    exact .ite ((enterReset_fusesStep _ _ _ _).congr_left (hl.fuses rfl) (hl.sec rfl)) (.only hl rfl)
  · exact enterReset_fusesStep _ _ _ s

theorem dropRequests_fusesStep (d : Domain) (s : State) : FusesStep s (dropRequests d s) := by
  cases d with
  | sec => exact (tearFuses_fusesStep s).congr_right rfl
  | _ => unfold dropRequests; exact .of_eq rfl

theorem execPwrDomainFault_fusesNext (d : Domain) (s : State) : FusesNext s (execPwrDomainFault d s) := by
  refine .ite (.next (.of_eq rfl)) ?_
  extract_lets t u
  have hu : Only [.evm, .recd, .mbx, .pwr] s (abortGroups (fun g => groupDomain g == some d) u) :=
    .after (abortGroups_only _ u) (by decide) (.after (raise_only _ _ _ _ t) (by decide) ((modPwr_only _ s).mono (by decide)))
  exact .next ((dropRequests_fusesStep d _).congr_left (hu.fuses rfl) (hu.sec rfl))

theorem execContractReset_fusesNext (s : State) : FusesNext s (execContractReset s) := by
  refine .ite (.next (.of_eq rfl)) ?_
  extract_lets t
  have ht := elapseTo_only (s.cck.breachAt + 400000000) s
  refine .ite (.next (.of_eq ?_)) (.next ((enterReset_fusesStep _ _ _ t).congr_left (ht.fuses rfl) (ht.sec rfl)))
  rw [(outRefresh_only _).fuses rfl, (enterFault_only _ t).fuses rfl, ht.fuses rfl]

theorem execLcTransition_fusesNext (stuck : BitVec 4) (s : State) : FusesNext s (execLcTransition stuck s) := by
  unfold execLcTransition
  split
  case h_1 => exact .next (.of_eq rfl)
  case h_2 r hr =>
    extract_lets u old want c v w x
    have hv : FusesKept s.fuses v.fuses := (flushNow_only s).fuses rfl ▸ program_kept r stuck u.fuses
    have hw : (flushNow w).fuses = v.fuses := ((flushNow_only w).fuses rfl).trans ((raise_only _ _ _ _ v).fuses rfl)
    have hx : FusesKept v.fuses x.fuses := hw ▸ (enterReset_fusesStep .powerOn true false (flushNow w)).1
    exact .next ⟨hv.trans hx, fun h => absurd h (by rw [hr]; exact Option.some_ne_none r)⟩

/-- The commands that reach a transition, each by its lemma; of the others the frame names no fuse. -/
theorem exec_fusesNext (c : Instr) (s : State) : FusesNext s (exec c s) := by
  cases c with
  | porAssert => exact .next ((enterReset_fusesStep _ _ _ _).congr_left rfl rfl)
  | resetNLow => exact .next ((enterReset_fusesStep _ _ _ _).congr_left rfl rfl)
  | pfailNLow => exact .next ((enterReset_fusesStep _ _ _ _).congr_left rfl rfl)
  | contractReset => exact execContractReset_fusesNext s
  | leashCmdReceived link ok cmd =>
    exact .ite (.next (.of_eq rfl)) (.ite (.next (cmdReceived_fusesStep _ _ s)) (.next (.only (crcFailed_only _ s) rfl)))
  | lcTransition stuck => exact execLcTransition_fusesNext stuck s
  | pwrDomainFault d => exact execPwrDomainFault_fusesNext d s
  | _ => exact fun t ht => .only (exec_only _ s t ht) rfl

/-- Settles O11: a command either leaves the fuses by its frame or reaches a transition, which only raises them. -/
theorem fuseBitsOnlyRise : Obligations.FuseBitsOnlyRise := by
  refine ⟨fun s t hs => ?_, fun c s t h hx => (exec_fusesNext c s t hx).2 h⟩
  unfold step at hs
  split at hs
  · next c rest _ => exact (exec_fusesNext c { s with pending := rest } t hs).1
  · cases hs
    exact (FusesStep.only (idle_only s) rfl).1

end Sys2Proof.Machine
end

section
/-! The step on a queue that is not empty. -/

namespace Sys2Proof.Machine

/-- Settles O1: the step's own equation for a queue with a front. -/
theorem stepRunsFrontCommand : Obligations.StepRunsFrontCommand := fun _ _ _ => rfl

end Sys2Proof.Machine
end

section
/-! The board rails (R524 to R526), the temperature sensor (R542) and the GPIO banks (R554). -/

namespace Sys2Proof.Machine

/-! A command that acts in one case and else changes nothing. -/

theorem next_ite_pos {c : Prop} [Decidable c] {t u : State} (h : c) : (Host.Outcome.next (if c then t else u) : Res) = .next t :=
  congrArg Host.Outcome.next (if_pos h)

theorem next_ite_neg {c : Prop} [Decidable c] {t u : State} (h : ¬ c) : (Host.Outcome.next (if c then t else u) : Res) = .next u :=
  congrArg Host.Outcome.next (if_neg h)

/-! The start of a rank (R524). -/

theorem exec_brsRankStart_none {s : State} (h : rankStarts s = none) : exec .brsRankStart s = .next s := by
  show execBrsRankStart s = _
  rw [execBrsRankStart, h]

theorem exec_brsRankStart_end {s : State} (h : rankStarts s = some none) :
    exec .brsRankStart s = .next { s with brs := { s.brs with begun := true, rank := 15 } } := by
  show execBrsRankStart s = _
  rw [execBrsRankStart, h]

theorem exec_brsRankStart_rank {s : State} {q : Nat} (h : rankStarts s = some (some q)) {u : State}
    (hu : u = { s with brs := { s.brs with begun := true, rank := q, rankAt := s.cclk } }) :
    exec .brsRankStart s = .next (rankEnd ((rankRails u q).foldl (fun v n => if (railOf v n).en then railWait n v else v) u)) := by
  subst hu
  show execBrsRankStart s = _
  rw [execBrsRankStart, h]

/-! The PMBus polls (R526). -/

theorem exec_pmbPoll_due {s : State} (hs : s.boot.sealed = true) (hp : s.brs.polls < pollTimes s) (reads : List PmbRail) :
    exec (.pmbPoll reads) s = .next ((List.range 12).foldl (fun v n => (reads.filter (fun a => a.rail == n)).foldl pmbRail v)
      { s with brs := { s.brs with polls := pollTimes s } }) :=
  next_ite_pos (by simp [hs, hp])

theorem exec_pmbPoll_idle {s : State} (h : s.boot.sealed = false ∨ pollTimes s ≤ s.brs.polls) (reads : List PmbRail) :
    exec (.pmbPoll reads) s = .next s :=
  next_ite_neg (by rcases h with h | h <;> simp [h])

/-! The edges of a rail's power-good (R524, R525; log entry 121). After the seal each acts on a rail in one state, and else only sets the level. -/

section Rail

variable {s : State} {n : Fin 12}

theorem exec_brsPgGood_waiting (hs : s.boot.sealed = true) (hw : (railOf s n).state = .waitPg) : exec (.brsPgGood n) s = .next (railOn n s) :=
  next_ite_pos (by simp [hs, hw])

theorem exec_brsPgGood_level (h : s.boot.sealed = false ∨ (railOf s n).state ≠ .waitPg) :
    exec (.brsPgGood n) s = .next (modRail n (fun x => { x with pg := true }) s) :=
  next_ite_neg (by rcases h with h | h <;> simp [h])

theorem exec_brsPgLost_on (hs : s.boot.sealed = true) (ho : (railOf s n).state = .on) (he : (railOf s n).en = true) : exec (.brsPgLost n) s
    = .next (raise 0x0F0C (w32 n) 0 0 (modRail n (fun x => { x with pg := false, state := .failed, failedAt := s.cclk }) s)) :=
  if_pos (by simp [hs, ho, he])

theorem exec_brsPgLost_level (h : s.boot.sealed = false ∨ (railOf s n).state ≠ .on ∨ (railOf s n).en = false) :
    exec (.brsPgLost n) s = .next (modRail n (fun x => { x with pg := false }) s) :=
  if_neg (by rcases h with h | h | h <;> simp [h])

theorem exec_brsPgBack_failed (hs : s.boot.sealed = true) (hf : (railOf s n).state = .failed) : exec (.brsPgBack n) s
    = .next (railOn n (raise 0x0F0D (w32 n) (w32 ((s.cclk - (railOf s n).failedAt) / 400000)) 0 s)) :=
  if_pos (by simp [hs, hf])

theorem exec_brsPgBack_level (h : s.boot.sealed = false ∨ (railOf s n).state ≠ .failed) :
    exec (.brsPgBack n) s = .next (modRail n (fun x => { x with pg := true }) s) :=
  if_neg (by rcases h with h | h <;> simp [h])

end Rail

/-! A change of the levels of a GPIO bank (R554). When it is recorded is log entry 102. -/

section Gpio

variable {s : State} {b : Bool} {w : Word}

theorem domGated_setGpio (x : GpioBank) (d : Domain) : domGated (setGpio b x s) d = domGated s d := by
  cases b <;> rfl

theorem nowHalf_setGpio (x : GpioBank) : nowHalf (setGpio b x s) = nowHalf s := by
  cases b <;> rfl

variable (hw : w ≠ (gpioOf s b).levels)
include hw

theorem exec_gpioLevelChange : exec (.gpioLevelChange b w) s
    = if s.boot.sealed = false ∨ s.boot.dev = .sleep ∨ domGated s .ioe then .next (setGpio b { gpioOf s b with levels := w } s)
      else .next (gpioRecord b ((nowHalf s - 50) / 2) (setGpio b { gpioOf s b with levels := w } s)) := by
  refine (if_neg hw).trans ?_
  rw [(setGpio_only b _ s).boot rfl, domGated_setGpio, nowHalf_setGpio]

end Gpio

/-- Settles O32: each event by its branch. -/
theorem boardRailsAndPins : Obligations.BoardRailsAndPins := by
  refine ⟨fun s => ⟨exec_brsRankStart_none, exec_brsRankStart_end, fun q hq u hu => exec_brsRankStart_rank hq hu, exec_pmbPoll_due, exec_pmbPoll_idle⟩,
    fun n s => ⟨fun h => if_pos h, fun h => if_neg (by simp [h]), fun h => if_pos h, fun h => if_neg (by simp [h]), exec_brsPgGood_waiting, exec_brsPgGood_level,
      exec_brsPgLost_on, exec_brsPgLost_level, exec_brsPgBack_failed, exec_brsPgBack_level⟩,
    fun b w s => ⟨fun h => if_pos h, fun hw h => ?unrecorded, fun hw hs hd hg => ?recorded⟩⟩
  case unrecorded => exact (exec_gpioLevelChange hw).trans (if_pos h)
  case recorded => exact (exec_gpioLevelChange hw).trans (if_neg (by simp [hs, hd, hg]))

/-! The temperature sensor. That it stands in RESET and SLEEP is log entry 103. -/

section Sensor

variable {s : State} (x : BitVec 16)

/-- The sensor with a sample taken: what it holds before the alarm is judged. -/
def tjTaken (s : State) : Tj :=
  { s.tj with
    temp := x, hot := if degrees 115 ≤ x.toInt then min (s.tj.hot + 1) 1000 else 0
    cool := if x.toInt ≤ degrees 110 then min (s.tj.cool + 1) 1000 else 0, last := some s.cclk }

/-- A run of samples is full when this sample belongs to it and 999 before it did. -/
theorem run_full_iff {c : Prop} [Decidable c] (n : Nat) : (if c then min (n + 1) 1000 else 0) = 1000 ↔ c ∧ 999 ≤ n := by
  split
  case isTrue h => simp only [h, true_and]; omega
  case isFalse h => simp [h]

theorem tjTaken_hot_full (s : State) : (tjTaken x s).hot = 1000 ↔ degrees 115 ≤ x.toInt ∧ 999 ≤ s.tj.hot := run_full_iff s.tj.hot

theorem tjTaken_cool_full (s : State) : (tjTaken x s).cool = 1000 ↔ x.toInt ≤ degrees 110 ∧ 999 ≤ s.tj.cool := run_full_iff s.tj.cool

theorem tjTaken_hot_broken (s : State) (h : x.toInt < degrees 115) : (tjTaken x s).hot = 0 := if_neg (Int.not_le.mpr h)

theorem tjTaken_cool_broken (s : State) (h : degrees 110 < x.toInt) : (tjTaken x s).cool = 0 := if_neg (Int.not_le.mpr h)

theorem exec_tjSample_idle (h : s.boot.dev = .reset ∨ s.boot.dev = .sleep ∨ ∃ t0, s.tj.last = some t0 ∧ s.cclk < t0 + 400000) :
    exec (.tjSample x) s = .next s :=
  if_pos (by simpa [Option.any_eq_true] using h)

variable (hr : s.boot.dev ≠ .reset) (hs : s.boot.dev ≠ .sleep) (hl : ∀ t0, s.tj.last = some t0 → t0 + 400000 ≤ s.cclk)
include hr hs hl

theorem exec_tjSample_taken : exec (.tjSample x) s
    = if !s.tj.high && (tjTaken x s).hot == 1000 then
        .next (raise 0x1000 (x.setWidth 32) 0 0 { s with tj := { tjTaken x s with high := true, since := s.cclk } })
      else if s.tj.high && (tjTaken x s).cool == 1000 then
        .next (raise 0x1001 (x.setWidth 32) (w32 ((s.cclk - s.tj.since) / 400000000)) 0 { s with tj := { tjTaken x s with high := false } })
      else .next { s with tj := tjTaken x s } := by
  refine if_neg ?_
  simp only [hr, hs, false_or, Option.any_eq_true, decide_eq_true_eq, not_exists, not_and, Nat.not_lt]
  exact hl

theorem exec_tjSample_high (h : s.tj.high = false) (hf : (tjTaken x s).hot = 1000) : exec (.tjSample x) s
    = .next (raise 0x1000 (x.setWidth 32) 0 0 { s with tj := { tjTaken x s with high := true, since := s.cclk } }) := by
  rw [exec_tjSample_taken x hr hs hl, if_pos (by simp [h, hf])]

theorem exec_tjSample_normal (h : s.tj.high = true) (hf : (tjTaken x s).cool = 1000) : exec (.tjSample x) s
    = .next (raise 0x1001 (x.setWidth 32) (w32 ((s.cclk - s.tj.since) / 400000000)) 0 { s with tj := { tjTaken x s with high := false } }) := by
  rw [exec_tjSample_taken x hr hs hl, if_neg (by simp [h]), if_pos (by simp [h, hf])]

theorem exec_tjSample_stored (h : s.tj.high = false ∧ (tjTaken x s).hot ≠ 1000 ∨ s.tj.high = true ∧ (tjTaken x s).cool ≠ 1000) :
    exec (.tjSample x) s = .next { s with tj := tjTaken x s } := by
  rw [exec_tjSample_taken x hr hs hl]
  rcases h with ⟨h, hf⟩ | ⟨h, hf⟩
  · rw [if_neg (by simp [hf]), if_neg (by simp [h])]
  · rw [if_neg (by simp [h]), if_neg (by simp [hf])]

/-- Whichever way the alarm is judged, the sample and its counts stand, and HIGH follows the full run of its kind. -/
theorem tjSample_facts : ∃ t high since, exec (.tjSample x) s = .next t ∧ t.tj = { tjTaken x s with high := high, since := since }
    ∧ (s.tj.high = false → (high = true ↔ (tjTaken x s).hot = 1000)) ∧ (s.tj.high = true → (high = false ↔ (tjTaken x s).cool = 1000)) := by
  have hraise (c : Nat) (a b : Word) (v : Tj) : (raise c a b 0 { s with tj := v }).tj = v := raise_only c a b 0 _ .tj (by decide)
  cases hh : s.tj.high with
  | false =>
    by_cases hf : (tjTaken x s).hot = 1000
    · exact ⟨_, true, s.cclk, exec_tjSample_high x hr hs hl hh hf, hraise _ _ _ _, fun _ => iff_of_true rfl hf, nofun⟩
    · exact ⟨_, s.tj.high, s.tj.since, exec_tjSample_stored x hr hs hl (.inl ⟨hh, hf⟩), rfl, fun _ => iff_of_false (by simp [hh]) hf, nofun⟩
  | true =>
    by_cases hf : (tjTaken x s).cool = 1000
    · exact ⟨_, false, s.tj.since, exec_tjSample_normal x hr hs hl hh hf, hraise _ _ _ _, nofun, fun _ => iff_of_true rfl hf⟩
    · exact ⟨_, s.tj.high, s.tj.since, exec_tjSample_stored x hr hs hl (.inr ⟨hh, hf⟩), rfl, nofun, fun _ => iff_of_false (by simp [hh]) hf⟩

end Sensor

/-- Settles O33: the alarm is judged on the counts that the sample leaves; a sample that is hot is not cool. -/
theorem junctionTemperatureAlarm : Obligations.JunctionTemperatureAlarm := by
  refine fun x s => ⟨exec_tjSample_idle x, fun hr hs hl => ⟨?facts, fun hh hx hc => ?high, fun hh hx hc => ?normal⟩⟩
  case facts =>
    obtain ⟨t, high, since, he, ht, hset, hclear⟩ := tjSample_facts x hr hs hl
    refine ⟨t, he, ?_, ?_, (exec_only _ s t he).mono rfl, ?_⟩ <;> rw [ht]
    · rfl
    · rfl
    · exact ⟨fun h => (hset h).trans (tjTaken_hot_full x s), fun h => (hclear h).trans (tjTaken_cool_full x s), tjTaken_hot_broken x s, tjTaken_cool_broken x s⟩
  case high =>
    have hf := (tjTaken_hot_full x s).mpr ⟨hx, hc⟩
    have hn : (tjTaken x s).cool = 0 := tjTaken_cool_broken x s (by unfold degrees at *; omega)
    rw [exec_tjSample_high x hr hs hl hh hf, ← hf, ← hn]
    rfl
  case normal =>
    have hf := (tjTaken_cool_full x s).mpr ⟨hx, hc⟩
    have hn : (tjTaken x s).hot = 0 := tjTaken_hot_broken x s (by unfold degrees at *; omega)
    rw [exec_tjSample_normal x hr hs hl hh hf, ← hf, ← hn]
    rfl

end Sys2Proof.Machine
end

section
/-! The recorder's staging (R466) and the writes of its log (R463, R467, R469, R470, R521). -/

namespace Sys2Proof.Machine

/-! A record that enters staging. -/

section Staging

variable {r : Rec} {s : State} (hw : s.boot.firstWipe = false)
include hw

/-- The record as it enters staging. -/
theorem stageRec_enters (h : ¬ (s.recd.hasLog = true ∧ 4096 ≤ s.recd.staging.length)) : ∃ w, stageRec r s = { s with recd := { s.recd with
    staging := (if 4096 ≤ s.recd.staging.length then s.recd.staging.drop 1 else s.recd.staging)
      ++ [{ r with seq := s.recd.head, flags := if s.recd.lostFlag then r.flags ||| 4#8 else r.flags }]
    writeAt := w, head := s.recd.head + 1, numbered := s.recd.numbered + 1, lostFlag := false } } :=
  ⟨_, (if_neg (by simp [hw])).trans (if_neg (by simpa using h))⟩

theorem stageRec_lost (hl : s.recd.hasLog = true) (hf : 4096 ≤ s.recd.staging.length) :
    stageRec r s = { s with recd := { s.recd with lostStage := satHalfInc s.recd.lostStage, lostFlag := true } } :=
  (if_neg (by simp [hw])).trans (if_pos (by simp [hl, hf]))

end Staging

/-- Settles O48: by whether staging is full, and whether there is a log. -/
theorem recordEntersStagingInOrder : Obligations.RecordEntersStagingInOrder := by
  refine fun r s hw => ⟨fun hroom => ?room, fun hf hl => stageRec_lost hw hl hf, fun hf hl => ?full, stageRec_only r s⟩
  case room =>
    obtain ⟨w, he⟩ := stageRec_enters (r := r) hw (fun h => absurd h.2 (Nat.not_le.mpr hroom))
    rw [he, if_neg (Nat.not_le.mpr hroom)]
    exact ⟨_, rfl, rfl, rfl, rfl, rfl⟩
  case full =>
    obtain ⟨w, he⟩ := stageRec_enters (r := r) hw (fun h => absurd (h.1.symm.trans hl) (by decide))
    rw [he, if_pos hf]
    exact ⟨_, rfl, rfl, rfl⟩

/-! A record written to the log. -/

theorem length_leBytes (n v : Nat) : (leBytes n v).length = n := by
  induction n generalizing v with
  | zero => rfl
  | succ n ih => exact congrArg (· + 1) (ih _)

theorem length_recBytes (r : Rec) : (recBytes r).length = 32 := by
  simp only [recBytes, recHead, List.length_append, List.length_cons, List.length_nil, length_leBytes]

/-- A run of bytes put into a canonical memory is read back. -/
theorem memBytes_memPut (d : Byte) (bs : List Byte) {m : Mem} (hm : Memory.wf d m = true) (a : Nat) :
    memBytes d (memPut d m a bs) a bs.length = bs := by
  induction bs generalizing m a with
  | nil => rfl
  | cons b bs ih =>
    have hb : tget d (memPut d (tset d m a b) (a + 1) bs) a = b :=
      (tget_memPut_outside d bs _ (.inl (Nat.lt_succ_self a))).trans (tget_tset_self a b ((Memory.wf_iff d m).mp hm))
    exact congrArg₂ List.cons hb (ih (Memory.wf_set d m a b hm) (a + 1))

section Oldest

variable {r : Rec} {l : List Rec} {s : State} (h : s.recd.staging = r :: l)
include h

theorem writeOldest_staging : (writeOldest s).recd.staging = l := by
  rw [writeOldest, h]
  rfl

theorem writeOldest_logMem : (writeOldest s).logMem = memPut logBlank s.logMem (logAddr s r.seq.toNat) (recBytes r) := by
  rw [writeOldest, h, modRecd_logMem]

end Oldest

/-- When a record may be written; that no record is written in SLEEP is log entry 108. -/
theorem mayWrite_iff (s : State) : mayWrite s = true
    ↔ s.recd.hasLog = true ∧ s.recd.staging ≠ [] ∧ s.boot.dev ≠ .sleep ∧ ¬ (s.boot.dev = .reset ∧ s.boot.flushDone = true) := by
  simp [mayWrite, and_assoc, imp_iff_not_or]

theorem exec_recRecordWrite (h : mayWrite s = true) : exec .recRecordWrite s = .next (writeOldest s) := if_pos h

/-- Settles O49: the bytes put are read back, and the bytes outside them stand. -/
theorem recordWriteStoresThirtyTwoBytes : Obligations.RecordWriteStoresThirtyTwoBytes := by
  refine fun s => ⟨fun r l hwf hr hl hd hf => ?written, fun h => if_neg ?idle⟩
  case written =>
    obtain ⟨-, -, hm⟩ := hwf
    have hback := memBytes_memPut logBlank (recBytes r) hm (logAddr s r.seq.toNat)
    rw [length_recBytes] at hback
    refine ⟨_, exec_recRecordWrite ((mayWrite_iff s).mpr ⟨hl, hr ▸ List.cons_ne_nil r l, hd, hf⟩), writeOldest_staging hr, ?_, ?_, writeOldest_only s⟩
    · rw [writeOldest_logMem hr, hback]
    · intro a ha
      rw [writeOldest_logMem hr]
      exact tget_memPut_outside logBlank (recBytes r) s.logMem (by rwa [length_recBytes])
  case idle =>
    rw [mayWrite_iff]
    rintro ⟨hl, hs, hd, hf⟩
    rcases h with h | h | h | h
    · exact absurd (hl.symm.trans h) (by decide)
    · exact hs h
    · exact hd h
    · exact hf h

end Sys2Proof.Machine
end

section
/-! Reads and writes of the maintenance space while the device serves its masters (R471, R474, R475, R506, R559 to R565). -/

namespace Sys2Proof.Machine

theorem Only.host {l : List Part} {s t : State} (h : Only l s t) (hl : l.contains Part.host = false) : t.host = s.host := h .host (by simpa using hl)

theorem served_iff (s : State) : served s = true
    ↔ s.boot.dev = .sync ∨ s.boot.dev = .standby ∨ s.boot.dev = .active ∨ s.boot.dev = .voting ∨ s.boot.dev = .safeHold := by
  unfold served
  cases s.boot.dev <;> simp

/-- What a master's write of one word leaves, over HSP with STATUS showing a word applied. -/
def afterWrite (m : Master) (t : State) : State :=
  match m with
  | .hsp => { t with host := { t.host with applied := true, crcFailed := false, wrRefused := false } }
  | .mep => t

theorem afterWrite_unique {fin : Master → State → State} (hm : ∀ t, fin .mep t = t)
    (hh : ∀ t, fin .hsp t = { t with host := { t.host with applied := true, crcFailed := false, wrRefused := false } }) : fin = afterWrite := by
  funext m t
  cases m with
  | hsp => exact hh t
  | mep => exact hm t

theorem afterWrite_only (m : Master) (t : State) : Only [.host] t (afterWrite m t) := by
  cases m with
  | hsp => exact only_upd_host _ (by decide) (.refl _ _)
  | mep => exact .refl _ _

section Served

variable {s : State} (hs : served s = true) (m : Master)
include hs

theorem readable_of_served (a : Nat) : readable s a = true := by
  unfold readable
  rcases (served_iff s).mp hs with h | h | h | h | h <;> rw [h]

theorem ne_sleep_of_served : s.boot.dev ≠ .sleep := by
  rcases (served_iff s).mp hs with h | h | h | h | h <;> rw [h] <;> decide

theorem readAt_of_served {a : Nat} {w : Word} (hw : regWord s m a = some w) : readAt m a s = (w, readSide m a s) := by
  unfold readAt
  rw [hw]
  dsimp only
  rw [if_neg (by simp [hs]), if_pos (readable_of_served hs a)]

theorem readBy_of_served {a : Nat} {w : Word} (hw : regWord s m a = some w) :
    readBy m a s = { readSide m a s with host := { (readSide m a s).host with reply := [w] } } := by
  rw [readBy, readAt_of_served hs m hw]

/-- A read that only answers. -/
theorem readBy_answer {a : Nat} {w : Word} (hw : regWord s m a = some w) (hside : readSide m a s = s) :
    readBy m a s = { s with host := { s.host with reply := [w] } } := by
  rw [readBy_of_served hs m hw, hside]

/-- Table 17-2: what may be afterWrite while the device serves its masters. -/
theorem applyWord_of_served {a : Nat} (ha : a % 4 = 0) (w : Word) : applyWord m a w s
    = if 0x20000 ≤ a ∧ a < 0x21000 then mbxWrite m (a - 0x20000) w s
      else if 0x10100 ≤ a ∧ a < 0x10120 then some (clearSticky ((a - 0x10100) / 4) w s)
      else if a = 0x18020 then some (startLoad m w s)
      else if a = 0x101C then (if waOk m s then some (authCtl w s) else none)
      else if a = 0x2014 then (if waOk m s && railCmdOk s w then some (railCmd (masterNo m) w s) else none)
      else none := by
  unfold applyWord
  rw [if_neg (not_not_intro ha)]
  rcases (served_iff s).mp hs with h | h | h | h | h <;> simp only [h, decide_eq_true_eq]

theorem applyWord_cursor (w : Word) : applyWord m 0x18020 w s = some (startLoad m w s) := applyWord_of_served hs m rfl w

theorem applyWord_sticky (i : BitVec 3) (w : Word) : applyWord m (0x10100 + 4 * i.toNat) w s = some (clearSticky i.toNat w s) := by
  rw [applyWord_of_served hs m (by omega), if_neg (by omega), if_pos (by omega)]
  congr 2
  omega

theorem applyWord_authCtl (hw : waOk m s = true) (w : Word) : applyWord m 0x101C w s = some (authCtl w s) :=
  (applyWord_of_served hs m rfl w).trans (if_pos hw)

theorem applyWord_mbxCtl (n : BitVec 4) (w : Word) : applyWord m (0x20040 + 256 * n.toNat) w s = ctlWrite n.toNat (masterNo m) w s := by
  rw [applyWord_of_served hs m (by omega), if_pos (by omega), mbxWrite, if_neg (by omega), if_pos (by omega)]
  congr 1
  omega

theorem writeBy_applied {a : Nat} {w : Word} {t : State} (ha : a < 2 ^ 32) (h : applyWord m a w s = some t) : writeBy m a w s = afterWrite m t := by
  cases m with
  | hsp =>
    unfold writeBy hspWriteWords hspWords hspWord
    rw [Nat.mod_eq_of_lt ha, h]
    rfl
  | mep =>
    unfold writeBy mepWord
    rw [if_pos hs, h]
    rfl

theorem writeBy_refused_mbx {a : Nat} {w : Word} (ha : a < 2 ^ 32) (h : applyWord m a w s = none) : (writeBy m a w s).mbx = s.mbx := by
  cases m with
  | hsp =>
    unfold writeBy hspWriteWords hspWords hspWord
    rw [Nat.mod_eq_of_lt ha, h]
    exact (refuseHsp_only a s).mbx rfl
  | mep =>
    unfold writeBy mepWord
    rw [if_pos hs, h]
    dsimp only
    split
    · exact (refuseMep_only a s).mbx rfl
    · rfl

end Served

theorem refuseHsp_errProtect (a : Nat) (s : State) : (refuseHsp a s).host.errProtect = satByteInc s.host.errProtect := by
  unfold refuseHsp
  dsimp only
  split
  · rw [(raise_only _ _ _ _ _).host rfl]
  · rw [(raise_only _ _ _ _ _).host rfl]

/-- A write that is refused over HSP shows in STATUS and is counted (R564). -/
theorem writeBy_refused_host {s : State} {a : Nat} {w : Word} (ha : a < 2 ^ 32) (h : applyWord .hsp a w s = none) :
    (writeBy .hsp a w s).host.wrRefused = true ∧ (writeBy .hsp a w s).host.errProtect = satByteInc s.host.errProtect := by
  unfold writeBy hspWriteWords hspWords hspWord
  rw [Nat.mod_eq_of_lt ha, h]
  exact ⟨rfl, refuseHsp_errProtect a s⟩

/-! The registers whose reads act (R565), and the reads that do not. -/

theorem regWord_mbxLock (m : Master) (n : BitVec 4) (s : State) :
    regWord s m (0x20048 + 256 * n.toNat) = some (w32 (lockRead n.toNat (masterNo m) s).1) := by
  have hn := n.isLt
  unfold regWord
  iterate 7 rw [if_neg (by omega)]
  rw [if_pos (by omega), mbxAreaReg, if_pos (by omega)]
  congr 4
  omega

theorem readSide_mbxLock (m : Master) (n : BitVec 4) (s : State) : readSide m (0x20048 + 256 * n.toNat) s = (lockRead n.toNat (masterNo m) s).2 := by
  have hn := n.isLt
  rw [readSide, if_neg (by omega), if_neg (by omega), lockSide, if_pos (by omega)]
  congr 2
  omega

theorem regWord_recWin7 (m : Master) (s : State) : regWord s m 0x1805C = some (if (bankOf s m).wstat = 1 then 0 else (bankOf s m).win.getD 7 0) := rfl

theorem regWord_ptcNs (m : Master) (s : State) : regWord s m 0x30004 = some (w32 (ptcNs s % 1000000000)) := rfl

theorem readSide_of_plain {m : Master} {a : Nat} (hl : ¬ (0x20000 ≤ a ∧ a < 0x21000 ∧ a % 256 = 0x48)) (hr : a ≠ 0x1805C) (hp : a ≠ 0x30004) (s : State) :
    readSide m a s = s := by
  rw [readSide, if_neg hr, if_neg hp, lockSide, if_neg hl]

theorem readAt_of_plain {m : Master} {a : Nat} (hl : ¬ (0x20000 ≤ a ∧ a < 0x21000 ∧ a % 256 = 0x48)) (hr : a ≠ 0x1805C) (hp : a ≠ 0x30004) (s : State) :
    (readAt m a s).2 = s := by
  have hside : lockSide m a s = s := if_neg hl
  unfold readAt
  rw [readSide_of_plain hl hr hp, hside, ite_self]
  split
  · rfl
  · split
    · rfl
    · split <;> rfl

/-- Settles O53: every address but three has no side effect, and that of PTC_NS is the latch. -/
theorem hostReadsHaveNoSideEffect : Obligations.HostReadsHaveNoSideEffect := by
  refine fun m s => ⟨fun a hl hr hp => ?plain, fun hs => ⟨latchTime m s, congrArg Host.Outcome.next ?latch, latchTime_only m s, ?_⟩⟩
  case plain =>
    have h : Only [.host] s (readAt m a s).2 := by
      rw [readAt_of_plain hl hr hp]
      exact .refl _ s
    exact only_upd_host _ (by decide) h
  case latch =>
    rw [readBy_of_served hs m (regWord_ptcNs m s), ← (latchTime_only m s).host rfl]
    rfl
  cases m <;> rfl

/-! The recorder's registers (R471, R472), the token buckets (R460) and the sticky bits (R458). -/

theorem bankOf_setBank (m : Master) (b : RecBank) (s : State) : bankOf (setBank m b s) m = b := by
  cases m <;> rfl

theorem bankOf_setBank_ne {m k : Master} (h : k ≠ m) (b : RecBank) (s : State) : bankOf (setBank m b s) k = bankOf s k := by
  cases m <;> cases k <;> first | rfl | exact absurd rfl h

theorem exec_recLoadComplete_loading {m : Master} {s : State} (h : (bankOf s m).wstat = 1) : exec (.recLoadComplete m) s
    = .next (setBank m { bankOf s m with wstat := (loadResult s (bankOf s m).cursor).1, win := (loadResult s (bankOf s m).cursor).2 }
      { s with draws := s.draws + 8 }) :=
  if_neg (not_not_intro h)

theorem clearSticky_sticky (i : Nat) (mask : Word) (s : State) :
    (clearSticky i mask s).evm.sticky = tset 0 s.evm.sticky i (tget 0 s.evm.sticky i &&& (~~~ mask ||| raisedNow s i)) := by
  have h : (keepShown (closeTick s)).evm.sticky = s.evm.sticky := by
    unfold keepShown
    split <;> rfl
  unfold clearSticky
  dsimp only
  rw [h]
  rfl

/-- Settles O50: refills and loads by their branch, writes and reads by the register they name. -/
theorem recorderReadsAndTokens : Obligations.RecorderReadsAndTokens := by
  intro s fin hm hh
  obtain rfl := afterWrite_unique hm hh
  refine ⟨fun n => ⟨fun h => if_pos h, fun h => if_neg (by simp [h])⟩, fun hs m q => ?cursor, fun hs m => ⟨_, rfl, ?win7⟩,
    fun m b => ⟨bankOf_setBank m b s, fun k hk => bankOf_setBank_ne hk b s, setBank_only m b s⟩,
    fun m => ⟨exec_recLoadComplete_loading, fun h => if_pos h⟩,
    fun hs m i mask => ⟨clearSticky i.toNat mask s, ?sticky, clearSticky_only _ _ s, clearSticky_sticky _ _ s, fun j hj => ?others⟩⟩
  case cursor => exact congrArg Host.Outcome.next (writeBy_applied hs m (by decide) (applyWord_cursor hs m q))
  case win7 => exact congrArg Host.Outcome.next (readBy_of_served hs m (regWord_recWin7 m s))
  case sticky => exact congrArg Host.Outcome.next (writeBy_applied hs m (by omega) (applyWord_sticky hs m i mask))
  case others =>
    rw [clearSticky_sticky]
    exact tget_tset_of_ne _ _ hj

end Sys2Proof.Machine
end

section
/-! The mailboxes seen from the masters (R474, R475) and from their handlers (R476, R477, R482). -/

namespace Sys2Proof.Machine

theorem mbxOf_congr {s t : State} (h : t.mbx = s.mbx) (k : Nat) : mbxOf t k = mbxOf s k := by
  rw [mbxOf, mbxOf, h]

section Served

variable {s : State} (hs : served s = true) (m : Master) (n : BitVec 4)
include hs

theorem exec_mbxLockRead : exec (.mbxLockRead m n) s = .next { (lockRead n.toNat (masterNo m) s).2 with
    host := { s.host with reply := [w32 (lockRead n.toNat (masterNo m) s).1] } } := by
  have h : (lockRead n.toNat (masterNo m) s).2.host = s.host := (lockRead_only n.toNat (masterNo m) s).host rfl
  refine congrArg Host.Outcome.next ?_
  rw [readBy_of_served hs m (regWord_mbxLock m n s), readSide_mbxLock, h]

theorem writeBy_mbxCtl {w : Word} {t : State} (h : ctlWrite n.toNat (masterNo m) w s = some t) :
    writeBy m (0x20040 + 256 * n.toNat) w s = afterWrite m t :=
  writeBy_applied hs m (by omega) ((applyWord_mbxCtl hs m n w).trans h)

/-- A write of MBX_CTLn that is no permitted request. -/
theorem writeBy_mbxCtl_refused {w : Word} (h : ctlWrite n.toNat (masterNo m) w s = none) :
    (writeBy m (0x20040 + 256 * n.toNat) w s).mbx = s.mbx
      ∧ (m = .hsp → (writeBy m (0x20040 + 256 * n.toNat) w s).host.wrRefused = true
        ∧ (writeBy m (0x20040 + 256 * n.toNat) w s).host.errProtect = satByteInc s.host.errProtect) := by
  have ha := (applyWord_mbxCtl hs m n w).trans h
  refine ⟨writeBy_refused_mbx hs m (by omega) ha, ?_⟩
  rintro rfl
  exact writeBy_refused_host (by omega) ha

end Served

theorem postMbx_of_owner {n no : Nat} {s : State} (hd : s.boot.dev ≠ .sleep) (ho : (mbxOf s n).owner = no) (hl : (mbxOf s n).state = .locked) :
    postMbx n no s = some ((groupDomain (payByte (mbxOf s n) 1)).elim id (fun d => startWake (domMask d))
      (setMbx n { mbxOf s n with state := .posted, posts := (mbxOf s n).posts + 1, poster := no, ackValid := false, result := none, touched := s.cclk } s)) := by
  refine (if_pos ⟨ho, hl⟩).trans (congrArg some ((if_neg hd).trans ?_))
  cases groupDomain (payByte (mbxOf s n) 1) <;> rfl

/-- Settles O51: the lock by lockRead, the two requests by the writes of MBX_CTLn, the time-out by its branch. -/
theorem mailboxLockAndControl : Obligations.MailboxLockAndControl := by
  intro n s fin hm hh
  obtain rfl := afterWrite_unique hm hh
  refine ⟨fun hs m no x hno hx => ?_, fun x j hj => mbxOf_setMbx_ne hj x s, fun h => if_pos h, fun h => if_neg (by simp [h])⟩
  obtain rfl : masterNo m = no := by rcases hno with ⟨rfl, rfl⟩ | ⟨rfl, rfl⟩ <;> rfl
  subst hx
  refine ⟨fun hf => ?take, fun hf => ?answer, fun ho hl => ?post, fun ho hl => ?release, fun h => ⟨_, rfl, writeBy_mbxCtl_refused hs m n ?_⟩,
    fun h => ⟨_, rfl, writeBy_mbxCtl_refused hs m n ?_⟩⟩
  case take => rw [exec_mbxLockRead hs, lockRead, if_pos hf]; rfl
  case answer =>
    rw [exec_mbxLockRead hs, lockRead, if_neg hf]
    split
    · rfl
    · split <;> rfl
  case post => exact congrArg Host.Outcome.next (writeBy_mbxCtl hs m n (postMbx_of_owner (ne_sleep_of_served hs) ho hl))
  case release => exact congrArg Host.Outcome.next (writeBy_mbxCtl hs m n (if_pos ⟨ho, hl⟩))
  · exact if_neg (by rintro ⟨ho, hl⟩; exact h.elim (· ho) (· hl))
  · exact if_neg (by rintro ⟨ho, hl⟩; exact h.elim (· ho) (fun hn => hl.elim hn.1 hn.2))

/-! The end of a handler (R477). How long a decided command takes to its end is log entry 14. -/

section Handler

variable {n : Nat} {s : State}

/-- The mailbox that the end of a handler leaves. -/
def finished (code : Half) (s : State) (m : Mbx) : Mbx :=
  { m with
    state := if m.owner = 0 then .free else .done, result := none, touched := s.cclk, ackPosts := m.posts
    ackMaster := BitVec.ofNat 4 m.poster, ackReset := false, ackOrphan := m.owner == 0, ackValid := true, ackCode := code }

theorem finished_ne_default (code : Half) (m : Mbx) : finished code s m ≠ {} :=
  fun h => absurd (show false = true from congrArg Mbx.ackReset h) (by decide)

theorem finishMbx_mbx (code : Half) (h : (mbxOf s n).state = .running) :
    (finishMbx n code s).mbx = (setMbx n (finished code s (mbxOf s n)) s).mbx := by
  unfold finishMbx
  extract_lets m orphan t u
  have ht : Only [.evm, .recd] s t := .ite (raise_only _ _ _ _ s) (.refl _ s)
  have hu : u.mbx = (setMbx n (finished code s m) s).mbx := by
    simp only [u, setMbx, finished, ht.mbx rfl, ht.cclk rfl, orphan, beq_iff_eq]
  rw [if_neg (by simp [m, h])]
  split
  · exact ((raise_only _ _ _ _ u).mbx rfl).trans hu
  · exact hu

theorem handlerEnds_mbx {code : Half} (hr : (mbxOf s n).result = some code) : (handlerEnds n s).mbx = (finishMbx n code s).mbx := by
  unfold handlerEnds
  dsimp only
  rw [hr]
  dsimp only
  split
  · exact (raise_only _ _ _ _ _).mbx rfl
  · rfl

theorem handlerMay_running (h : handlerMay s n = true) : (mbxOf s n).state = .running ∧ ∃ code, (mbxOf s n).result = some code := by
  simp only [handlerMay, Bool.and_eq_true, beq_iff_eq, Option.isSome_iff_exists] at h
  exact h.1.1.1

end Handler

/-- Settles O52: the end of a handler writes its mailbox once, and what it records is no mailbox. -/
theorem mailboxCommandCompletes : Obligations.MailboxCommandCompletes := by
  refine fun n s => ⟨fun h => ?completes, fun h => next_ite_neg (by simp [h]), fun h => next_ite_pos h, fun h => next_ite_neg (by simp [h])⟩
  obtain ⟨hrun, code, hres⟩ := handlerMay_running h
  have he : exec (.mbxCommandComplete n) s = .next (handlerEnds n.toNat s) := next_ite_pos h
  have hmbx : (handlerEnds n.toNat s).mbx = (setMbx n.toNat (finished code s (mbxOf s n.toNat)) s).mbx :=
    (handlerEnds_mbx hres).trans (finishMbx_mbx code hrun)
  have hself : mbxOf (handlerEnds n.toNat s) n.toNat = finished code s (mbxOf s n.toNat) :=
    (mbxOf_congr hmbx _).trans (mbxOf_setMbx_val (finished_ne_default code (mbxOf s n.toNat)) n.toNat s)
  refine ⟨hrun, code, hres, _, he, ?_⟩
  rw [hself]
  exact ⟨rfl, rfl, rfl, rfl, rfl, fun j hj => (mbxOf_congr hmbx j).trans (mbxOf_setMbx_ne hj _ s), (exec_only _ s _ he).mono rfl⟩

end Sys2Proof.Machine
end

section
/-! The host SPI port (R484) and the maintenance Ethernet protocol (R485 to R487). -/

namespace Sys2Proof.Machine

/-! HSP. -/

theorem length_readWords (m : Master) (a n : Nat) (s : State) : (readWords m a n s).1.length = n := by
  induction n generalizing a s with
  | zero => rfl
  | succ n ih => exact congrArg (· + 1) (ih _ _)

section Hsp

variable {n : BitVec 8} {s : State}

theorem exec_hspRead_broken (h : n.toNat = 0 ∨ 64 < n.toNat) (a : Word) : exec (.hspRead a n) s = .next (hspBroken a s) := if_pos h

theorem exec_hspWrite_broken {l : List Word} (h : n.toNat = 0 ∨ 64 < n.toNat ∨ l.length ≠ n.toNat) (a : Word) (crc : BitVec 16) :
    exec (.hspWrite a n l crc) s = .next (hspBroken a s) := if_pos h

variable (h1 : 1 ≤ n.toNat) (h2 : n.toNat ≤ 64)
include h1 h2

theorem exec_hspRead (a : Word) : exec (.hspRead a n) s = .next { (readWords .hsp a.toNat n.toNat s).2 with
    host := { (readWords .hsp a.toNat n.toNat s).2.host with
      reply := (readWords .hsp a.toNat n.toNat s).1
      replyCrc := BitVec.ofNat 16 (crc16 (beBytes 4 a.toNat ++ [n] ++ (readWords .hsp a.toNat n.toNat s).1.flatMap (fun w => beBytes 4 w.toNat))) } } :=
  if_neg (by omega)

variable {l : List Word} (hl : l.length = n.toNat) {a : Word} {crc : BitVec 16}
include hl

theorem exec_hspWrite_applied (hc : hspWriteCrc a n l = crc.toNat) : exec (.hspWrite a n l crc) s = .next (hspWriteWords a.toNat l s) :=
  (if_neg (by omega)).trans (if_neg (not_not_intro hc))

theorem exec_hspWrite_crcFailed (hc : hspWriteCrc a n l ≠ crc.toNat) : exec (.hspWrite a n l crc) s
    = .next (raise 0x0E08 0 a 0 { s with host := { s.host with errCrc := satByteInc s.host.errCrc, applied := false, crcFailed := true, wrRefused := false } }) :=
  (if_neg (by omega)).trans (if_pos hc)

end Hsp

/-- Settles O54: by the count and the CRC of a transaction. The address of a record that has none to name is free (log entry 112). -/
theorem hostTransactionsComplete : Obligations.HostTransactionsComplete := by
  refine fun s => ⟨fun a n => ⟨?read, fun h => exec_hspRead_broken h a⟩,
    fun a n l crc => ⟨fun h1 h2 hl => ⟨exec_hspWrite_applied h1 h2 hl, exec_hspWrite_crcFailed h1 h2 hl⟩, fun h => exec_hspWrite_broken h a crc⟩,
    fun a => rfl, ⟨_, rfl⟩, fun a => rfl, rfl, rfl, fun b hb => ⟨_, if_neg hb⟩, fun a w => ⟨rfl, fun hs => next_ite_pos hs, fun hs => next_ite_neg (by simp [hs])⟩⟩
  case read =>
    rintro h1 h2 r rfl
    exact ⟨length_readWords _ _ _ _, exec_hspRead h1 h2 a⟩

/-! MEP. -/

/-- The tag that a request must carry (R486). -/
def requestTag (key : BitVec 256) (f : MepFrame) : BitVec 128 :=
  Config.gcmTag key (mepIv f.counter f.nonce 3) (mepHeader f.mver 3 (BitVec.ofNat 8 (b2n f.restart)) f.nonce f.counter f.body.length) f.body

/-- An accepted request has taken its counter (R486). -/
def mepAccepted (f : MepFrame) (u : State) : State := { u with host := { u.host with mepLast := f.counter, mepOk := u.host.mepOk + 1 } }

/-- What the items of an accepted request answer, and the state after them. A malformed item ends the walk (log entry 114), as does one whose
answer no longer fits (log entry 153). -/
def mepRun (key : BitVec 256) (f : MepFrame) (u : State) : List Byte × State :=
  mepItems (Config.gcmCrypt key (mepIv f.counter f.nonce 3) f.body).length 1400 (Config.gcmCrypt key (mepIv f.counter f.nonce 3) f.body)
    (if f.restart then masterReset 2 (mepAccepted f u) else mepAccepted f u)

/-- The response to the items' answers, encrypted and under its tag. -/
def mepAnswered (p : Bool) (key : BitVec 256) (f : MepFrame) (r : List Byte × State) : State :=
  let head := mepHeader 1 4 0 f.nonce f.counter r.1.length
  let body := Config.gcmCrypt key (mepIv f.counter f.nonce 4) r.1
  { r.2 with host := { r.2.host with
    mepReply := head ++ body ++ leBytes 16 (Config.gcmTag key (mepIv f.counter f.nonce 4) head body).toNat, mepPort := mepPortNo p, mepMac := f.mac } }

section Mep

variable {p : Bool} {s u : State} {go : Bool} (ha : mepAdmit p s = (go, u))
include ha

theorem exec_mep_unheard (hl : mepListens p s = none) (f : MepFrame) (mac : BitVec 48) :
    exec (.mepRequest p f) s = .next s ∧ exec (.mepNonceQuery p mac) s = .next s := by
  show execMepRequest p f s = _ ∧ execMepNonceQuery p mac s = _
  unfold execMepRequest execMepNonceQuery
  rw [hl, ha]
  exact ⟨rfl, rfl⟩

theorem exec_mep_limited {k : Bool} (hl : mepListens p s = some k) (hg : go = false) (f : MepFrame) (mac : BitVec 48) :
    exec (.mepRequest p f) s = .next u ∧ exec (.mepNonceQuery p mac) s = .next u := by
  subst hg
  show execMepRequest p f s = _ ∧ execMepNonceQuery p mac s = _
  unfold execMepRequest execMepNonceQuery
  rw [hl, ha]
  exact ⟨rfl, rfl⟩

variable (hg : go = true)
include hg

theorem exec_mep_dropped (hl : mepListens p s = some false) (f : MepFrame) (mac : BitVec 48) :
    exec (.mepRequest p f) s = .next (mepDrop u) ∧ exec (.mepNonceQuery p mac) s = .next (mepDrop u) := by
  subst hg
  show execMepRequest p f s = _ ∧ execMepNonceQuery p mac s = _
  unfold execMepRequest execMepNonceQuery
  rw [hl, ha]
  exact ⟨rfl, rfl⟩

variable (hl : mepListens p s = some true)
include hl

theorem exec_mepNonceQuery_answered (mac : BitVec 48) : exec (.mepNonceQuery p mac) s = .next { u with host := { u.host with
    mepNonces := u.host.mepNonces + 1, mepReply := mepHeader 1 2 0 u.host.bootNonce u.host.mepLast 0, mepPort := mepPortNo p, mepMac := mac } } := by
  subst hg
  show execMepNonceQuery p mac s = _
  unfold execMepNonceQuery
  rw [hl, ha]

variable {key : BitVec 256} (hk : s.sec.mepKey = some key) {f : MepFrame}
include hk

/-- The conditions of R486 in their order. -/
theorem exec_mepRequest_examined : exec (.mepRequest p f) s
    = if f.mver ≠ 1#8 then .next (mepFail p f 0 u)
      else if f.nonce ≠ u.host.bootNonce then .next (mepFail p f 1 u)
      else if f.counter.toNat ≤ u.host.mepLast.toNat then
        .next (raise 0x0E0A (w32 (mepPortNo p)) (f.counter.setWidth 32) (u.host.mepLast.setWidth 32) { u with host := { u.host with mepReplay := satHalfInc u.host.mepReplay } })
      else if requestTag key f ≠ f.tag then .next (mepFail p f 2 u)
      else .next (mepAnswered p key f (mepRun key f u)) := by
  subst hg
  show execMepRequest p f s = _
  unfold execMepRequest
  rw [hl, ha, hk]
  rfl

end Mep

/-- Settles O55: by the port, its limit and the conditions of R486 in their order. -/
theorem mepRequestsAuthenticate : Obligations.MepRequestsAuthenticate := by
  refine fun p s u go ha => ⟨exec_mep_unheard ha, fun k => exec_mep_limited ha, fun hl hg => exec_mep_dropped ha hg hl,
    fun hl hg => exec_mepNonceQuery_answered ha hg hl, fun hl hg key f hk => ?_⟩
  rw [exec_mepRequest_examined ha hg hl hk]
  refine ⟨fun hv => if_pos hv, fun hv hn => ?nonce, fun hv hn hc => ?replay, fun hv hn hc ok hok => ⟨fun h => ?tag, fun h => ?answered⟩⟩
  case nonce => rw [if_neg (not_not_intro hv), if_pos hn]
  case replay => rw [if_neg (not_not_intro hv), if_neg (not_not_intro hn), if_pos hc]
  case tag =>
    have ht : requestTag key f ≠ f.tag := fun ht => Bool.false_ne_true (h.symm.trans (hok.mpr ht))
    rw [if_neg (not_not_intro hv), if_neg (not_not_intro hn), if_neg (Nat.not_le.mpr hc), if_pos ht]
  case answered =>
    rintro v plain r head rfl rfl rfl rfl
    have ht : requestTag key f = f.tag := hok.mp h
    rw [if_neg (not_not_intro hv), if_neg (not_not_intro hn), if_neg (Nat.not_le.mpr hc), if_neg (not_not_intro ht)]
    rfl

end Sys2Proof.Machine
end

section
/-! The operations of EVM, MBX, SEC, PWR and GPIO (R455, R476, R480, R529, R552). -/

namespace Sys2Proof.Machine

theorem exec_of_issued {s : State} {eng inst : Nat} (h : issued s eng inst = true) {i : Instr} {op : Word} {f : State → State}
    (hx : exec i s = issue eng inst op f s) : exec i s = .next (dropLane (f s)) := by
  rw [hx, issue_of_issued h]

theorem next_dropLane {t u : State} (h : t = u) : (Host.Outcome.next (dropLane t) : Res) = .next (dropLane u) := by
  rw [h]

/-! EVM_CHECK. -/

theorem check_quiet {now edge was : Bool} (h : now = false ∨ edge = true ∧ was = true) : ¬ (now && (!edge || !was)) = true := by
  rcases h with rfl | ⟨rfl, rfl⟩
  · exact Bool.false_ne_true
  · cases now <;> decide

theorem check_raises {now edge was : Bool} (hn : now = true) (h : edge = false ∨ was = false) : (now && (!edge || !was)) = true := by
  subst hn
  rcases h with rfl | rfl
  · rfl
  · exact Bool.or_true _

section EvmCheck

variable {s : State} {n : BitVec 8} (h : issued s 0x2C 0 = true)
include h

theorem exec_evmCheck_refused (hc : evmtFld s n.toNat 0 2 < 0xF000 ∨ 0xF0FF < evmtFld s n.toNat 0 2) :
    exec (.evmCheck n) s = .next (dropLane (breach 0x0107 (opWord 0x2C 1 n.toNat) s)) := by
  refine (exec_of_issued h (by dsimp only [exec, execEvmCheck])).trans ?_
  exact next_dropLane (if_pos hc)

variable (h1 : 0xF000 ≤ evmtFld s n.toNat 0 2) (h2 : evmtFld s n.toNat 0 2 ≤ 0xF0FF)
include h1 h2

/-- The level of the condition is kept; the code is raised on a true condition, with EDGE only where it was false before. -/
theorem exec_evmCheck {now edge was : Bool} (hn : now = sigTrue s (evmtFld s n.toNat 8 4 % 2 ^ 17)) (he : edge = bitOf (evmtFld s n.toNat 3 1) 1)
    (hw : was = tget false s.evm.edges n.toNat) {t : State} (ht : t = { s with evm := { s.evm with edges := tset false s.evm.edges n.toNat now } }) :
    exec (.evmCheck n) s = .next (dropLane (if now && (!edge || !was) then raise (evmtFld s n.toNat 0 2) (sigW s (evmtFld s n.toNat 8 4 % 2 ^ 17))
      ((sigQ s (evmtFld s n.toNat 8 4 % 2 ^ 17)).setWidth 32) (w32 (s.seq.k % s.hdr.m)) t else t)) := by
  subst hn he hw ht
  refine (exec_of_issued h (by dsimp only [exec, execEvmCheck])).trans ?_
  exact next_dropLane (if_neg (not_or.mpr ⟨Nat.not_lt.mpr h1, Nat.not_lt.mpr h2⟩))

end EvmCheck

/-! MBX_SERVE. -/

section MbxServe

variable {s : State} {n : BitVec 4} (h : issued s 0x2E 0 = true)
include h

theorem exec_mbxServe_unbound (hb : mbxtFld s n.toNat 2 2 = 0) : exec (.mbxServe n) s = .next (dropLane (breach 0x0107 (opWord 0x2E 1 n.toNat) s)) := by
  refine (exec_of_issued h (by dsimp only [exec, execMbxServe])).trans ?_
  exact next_dropLane (if_pos hb)

variable (hb : mbxtFld s n.toNat 2 2 ≠ 0)
include hb

/-- A post of SEQ that is DONE is freed. -/
theorem exec_mbxServe_frees (hd : (mbxOf s n.toNat).state = .done) (ho : (mbxOf s n.toNat).owner = 3) {t : State}
    (ht : t = setMbx n.toNat { mbxOf s n.toNat with state := .free, owner := 0 } s) : exec (.mbxServe n) s
      = .next (dropLane (if (mbxOf s n.toNat).ackCode = rcDone then t
        else raise 0x0E05 (w32 n.toNat) (w32 (mbxCmd (mbxOf s n.toNat))) ((mbxOf s n.toNat).ackCode.setWidth 32) t)) := by
  subst ht
  refine (exec_of_issued h (by dsimp only [exec, execMbxServe])).trans ?_
  exact next_dropLane ((if_neg hb).trans (if_pos ⟨hd, ho⟩))

theorem exec_mbxServe_latches (hm : (mbxOf s n.toNat).state ≠ .done ∨ (mbxOf s n.toNat).owner ≠ 3) :
    exec (.mbxServe n) s = .next (dropLane (latchCommand n.toNat s)) := by
  refine (exec_of_issued h (by dsimp only [exec, execMbxServe])).trans ?_
  exact next_dropLane ((if_neg hb).trans (if_neg (not_and_or.mpr hm)))

end MbxServe

/-! MBX_POST. -/

section MbxPost

variable {s : State} {n : BitVec 4} {t : BitVec 8}

/-- What MBX_POST does in a bound mailbox with a declared template. -/
def mbxPostEffect (n t : Nat) (s : State) : State :=
  let r := lockRead n 3 s
  if r.1 ≠ 0 ∨ (mbxOf r.2 n).state ≠ .locked then
    raise 0x0E05 (w32 n) (w32 ((tplWord s t 0).toNat % 65536)) (rcBusy.setWidth 32) s
  else
    let u := setMbx n { mbxOf r.2 n with payload := (List.range 16).foldl (fun p i => tset 0 p i (tplWord s t i)) [] } r.2
    (postMbx n 3 u).getD u

theorem exec_mbxPost (h : issued s 0x2E 0 = true) (hb : mbxtFld s n.toNat 2 2 ≠ 0) (ht : t.toNat < fld16 s .mbxt 0 4) :
    exec (.mbxPost n t) s = .next (dropLane (mbxPostEffect n.toNat t.toNat s)) := by
  refine (exec_of_issued h (by dsimp only [exec, execMbxPost])).trans ?_
  exact next_dropLane (if_neg (not_or.mpr ⟨hb, Nat.not_le.mpr ht⟩))

theorem mbxPostEffect_refused {n : Nat} (hl : (lockRead n 3 s).1 ≠ 0) (t : Nat) :
    mbxPostEffect n t s = raise 0x0E05 (w32 n) (w32 ((tplWord s t 0).toNat % 65536)) (rcBusy.setWidth 32) s :=
  if_pos (.inl hl)

theorem mbxOf_wake (g : Option Domain) (u : State) (k : Nat) : mbxOf (g.elim id (fun d => startWake (domMask d)) u) k = mbxOf u k := by
  cases g with
  | none => rfl
  | some d => exact mbxOf_congr ((startWake_only (domMask d) u).mbx rfl) k

theorem ne_default_of_mbxState {x : Mbx} (h : x.state ≠ .free) : x ≠ {} := fun hx => h (by rw [hx])

/-- SEQ takes a free mailbox, puts the template's payload into it and posts it. -/
theorem mbxPostEffect_posts {n : Nat} (t : Nat) (hf : (mbxOf s n).state = .free) (hd : s.boot.dev ≠ .sleep) :
    (∀ k, k ≠ n → mbxOf (mbxPostEffect n t s) k = mbxOf s k)
      ∧ (mbxOf (mbxPostEffect n t s) n).state = .posted ∧ (mbxOf (mbxPostEffect n t s) n).owner = 3 ∧ (mbxOf (mbxPostEffect n t s) n).poster = 3
      ∧ (mbxOf (mbxPostEffect n t s) n).posts = (mbxOf s n).posts + 1 ∧ (mbxOf (mbxPostEffect n t s) n).ackValid = false := by
  obtain ⟨x, hx⟩ : ∃ x : Mbx, x = { mbxOf s n with state := .locked, owner := 3, touched := s.cclk } := ⟨_, rfl⟩
  have hl : lockRead n 3 s = (0, setMbx n x s) := by rw [hx]; exact if_pos hf
  have hxs : x.state = .locked := by rw [hx]
  have hr : mbxOf (setMbx n x s) n = x := mbxOf_setMbx_val (ne_default_of_mbxState (by rw [hxs]; decide)) n s
  obtain ⟨y, hy⟩ : ∃ y : Mbx, y = { x with payload := (List.range 16).foldl (fun p i => tset 0 p i (tplWord s t i)) [] } := ⟨_, rfl⟩
  have hys : y.state = .locked := by rw [hy]; exact hxs
  have hu : mbxOf (setMbx n y (setMbx n x s)) n = y := mbxOf_setMbx_val (ne_default_of_mbxState (by rw [hys]; decide)) n _
  have he : mbxPostEffect n t s = (postMbx n 3 (setMbx n y (setMbx n x s))).getD (setMbx n y (setMbx n x s)) := by
    unfold mbxPostEffect
    rw [hl]
    dsimp only
    rw [hr, if_neg (by simp [hxs]), ← hy]
  have hown : (mbxOf (setMbx n y (setMbx n x s)) n).owner = 3 := by rw [hu, hy, hx]
  have hlocked : (mbxOf (setMbx n y (setMbx n x s)) n).state = .locked := by rw [hu, hys]
  have hawake : (setMbx n y (setMbx n x s)).boot.dev ≠ .sleep := hd
  rw [he, postMbx_of_owner hawake hown hlocked, Option.getD_some, hu]
  refine ⟨fun k hk => ?_, ?_⟩
  · rw [mbxOf_wake, mbxOf_setMbx_ne hk, mbxOf_setMbx_ne hk, mbxOf_setMbx_ne hk]
  · rw [mbxOf_wake, mbxOf_setMbx_val (ne_default_of_mbxState (MbxState.noConfusion : MbxState.posted ≠ .free)), hy, hx]
    exact ⟨rfl, rfl, rfl, rfl, rfl⟩

end MbxPost

/-! SEC_READ and PWR_READ. -/

theorem exec_secRead {s : State} (h : issued s 0x2F 0 = true) : exec .secRead s = .next (dropLane (if bitOf (fld32 s .pwrt 0 0x14) 31 then s
    else writeList (fld32 s .pwrt 0 0x14 % 2 ^ 17)
      [(w32 (lcState s), qGood), (w32 s.sec.level.toNat, qGood), (w32 (b2n s.sec.hostauth), qGood), (w32 (b2n (keyLive s)), qGood)] (opTime s 6) s)) := by
  refine (exec_of_issued h (by dsimp only [exec, execSecRead])).trans ?_
  rfl

theorem exec_pwrRead {s : State} (h : issued s 0x30 0 = true) : exec .pwrRead s = .next (dropLane (if bitOf (fld32 s .pwrt 0 0x18) 31 then s
    else writeList (fld32 s .pwrt 0 0x18 % 2 ^ 17)
      [(w32 (railMask s .on), qGood), (w32 (railMask s .failed), qGood), (w32 s.pwr.faulted.toNat, qGood)] (opTime s 6) s)) := by
  refine (exec_of_issued h (by dsimp only [exec, execPwrRead])).trans ?_
  rfl

/-- Settles O23: each operation by the rule of an issue and the branch of its effect. -/
theorem systemOperationsComplete : Obligations.SystemOperationsComplete := by
  refine fun s => ⟨fun n h => ⟨exec_evmCheck_refused h, fun h1 h2 => ?evm⟩, fun n h => exec_mbxServe_unbound h,
    fun n h hb => ⟨⟨fun hd ho hc => ?freed, fun hd ho hc => ?recorded, exec_mbxServe_latches h hb⟩, fun t ht hl => ?refused, fun t ht hf hd => ?posted⟩,
    fun h => ⟨fun hb => ?_, fun hb => ?_⟩, fun h => ⟨fun hb => ?_, fun hb => ?_⟩,
    fun h g b => issue_of_issued h (opWord 0x2B 1 (g.toNat + 131072 * b2n b)) (gpioSetEffect g.toNat b)⟩
  case evm =>
    rw [exec_evmCheck h h1 h2 rfl rfl rfl rfl]
    exact ⟨fun hq => next_dropLane (if_neg (check_quiet hq)), fun hn hr => next_dropLane (if_pos (check_raises hn hr))⟩
  case freed => rw [exec_mbxServe_frees h hb hd ho rfl, if_pos hc]
  case recorded => rw [exec_mbxServe_frees h hb hd ho rfl, if_neg hc]
  case refused => rw [exec_mbxPost h hb ht, mbxPostEffect_refused hl]
  case posted => exact ⟨_, exec_mbxPost h hb ht, mbxPostEffect_posts t.toNat hf hd⟩
  · rw [exec_secRead h, if_pos hb]
  · rw [exec_secRead h, if_neg (by simp [hb])]
  · rw [exec_pwrRead h, if_pos hb]
  · rw [exec_pwrRead h, if_neg (by simp [hb])]

end Sys2Proof.Machine
end

section
/-! The clock reference, the time status, the PPS pins, the calendar (R390 to R407, R414) and the time triggers (R408 to R413). The servo's rate is log
entry 88, the calendar's step log entry 90, the firing before a programming that arrives log entry 92, the time words of a firing log entry 151. -/

namespace Sys2Proof.Machine

/-! The entry into HOLDOVER (R400, R403). -/

theorem setTimeStatus_holdover {s : State} (h : s.ptc.status ≠ 3) : (setTimeStatus 3 s).ptc.status = 3 ∧ (setTimeStatus 3 s).ptc.holdFrom = s.cclk := by
  rw [setTimeStatus, if_neg h]
  dsimp only
  rw [(raise_only _ _ _ _ _).ptc rfl]
  exact ⟨rfl, rfl⟩

theorem setTimeStatus_i (n : BitVec 2) (s : State) : (setTimeStatus n s).ptc.i = s.ptc.i := by
  unfold setTimeStatus
  split
  · rfl
  · dsimp only
    rw [(raise_only _ _ _ _ _).ptc rfl]

theorem setRate_status (r : Rat) (s : State) : (setRate r s).ptc.status = s.ptc.status ∧ (setRate r s).ptc.holdFrom = s.ptc.holdFrom := by
  unfold setRate
  split <;> exact ⟨rfl, rfl⟩

theorem setRate_standing {s : State} (h : s.seq.run = false) (r : Rat) : (setRate r s).ptc.r = r := by
  rw [setRate, if_neg (by simp [h])]
  rfl

theorem setRate_running {s : State} (h : s.seq.run = true) (r : Rat) : (setRate r s).ptc.rNext = some r := by
  rw [setRate, if_pos h]

theorem exec_timeHoldoverEntry {s : State} (h : lossOver s = true) : ∃ t, exec .timeHoldoverEntry s = .next t ∧ t.ptc.status = 3 ∧ t.ptc.holdFrom = s.cclk
    ∧ Only [.ptc, .seq, .evm, .recd] s t ∧ (s.seq.run = false → t.ptc.r = clampQ (-50000000) 50000000 s.ptc.i)
    ∧ (s.seq.run = true → t.ptc.rNext = some (clampQ (-50000000) 50000000 s.ptc.i)) := by
  have hs : s.ptc.status ≠ 3 := by
    intro e
    simp [lossOver, e] at h
  obtain ⟨hst, hfrom⟩ := setTimeStatus_holdover hs
  obtain ⟨hst', hfrom'⟩ := setRate_status (clampQ (-50000000) 50000000 s.ptc.i) (setTimeStatus 3 s)
  refine ⟨_, next_ite_pos h, hst'.trans hst, hfrom'.trans hfrom, ?only, fun hr => setRate_standing ?_ _, fun hr => setRate_running ?_ _⟩
  case only => exact ((setTimeStatus_only _ _).mono (by decide)).trans ((setRate_only _ _).mono (by decide))
  all_goals rw [setTimeStatus_seq, hr]

/-! The PPS inputs (R406, R407). -/

section PpsInput

variable {s : State} {k : Fin 2} {i : Nat}

theorem exec_ppsInMiss_missed (h : ppsMissed s k = true) (hi : srcIdx s (5 + k) = some i) :
    exec (.ppsInMiss k) s = .next (raise 0x0C06 (w32 k) (w32 ((s.ptc.edges - (tget none s.ptc.ppsAt k).getD 0) / 250000000)) 0
      (setSrcValid i false { s with ptc := { s.ptc with ppsAt := tset none s.ptc.ppsAt k none } })) := by
  show execPpsInMiss k s = _
  rw [execPpsInMiss, hi]
  exact if_pos h

theorem exec_ppsInMiss_idle (h : ppsMissed s k = false) : exec (.ppsInMiss k) s = .next s := by
  show execPpsInMiss k s = _
  unfold execPpsInMiss
  split
  · rfl
  · exact if_neg (by simp [h])

theorem exec_ppsInEdge_unlisted (h : srcIdx s (5 + k) = none ∨ s.ptc.status = 0) : exec (.ppsInEdge k) s = .next s := by
  show execPpsInEdge k s = _
  unfold execPpsInEdge
  split
  case h_1 => rfl
  case h_2 i hi => exact if_pos (h.resolve_left (by simp [hi]))

variable {cap : Nat} (hi : srcIdx s (5 + k) = some i) (hst : s.ptc.status ≠ 0) (hcap : cap = s.ptc.counter - 8 * ptcUnit)
include hi hst hcap

theorem exec_ppsInEdge_far (h : 250000000 < absQ (ppsOffset cap)) :
    exec (.ppsInEdge k) s = .next (modSrc i (fun x => { x with disc := x.disc + 1 }) s) := by
  show execPpsInEdge k s = _
  unfold execPpsInEdge
  simp only [hi, ← hcap, if_neg hst, if_pos h]

theorem exec_ppsInEdge_near (h : absQ (ppsOffset cap) ≤ 250000000) {last : Nat} (hl : last = tget 0 s.ptc.ppsLast k) {near : Bool}
    (hn : near = (decide (last ≠ 0) && decide (999000000 ≤ (cap - last) / ptcUnit) && decide ((cap - last) / ptcUnit ≤ 1001000000))) {v : State}
    (hv : v = modSrc i (fun x => { x with run := if near then x.run + 1 else 1 })
      { s with ptc := { s.ptc with ppsLast := tset 0 s.ptc.ppsLast k cap, ppsAt := tset none s.ptc.ppsAt k (some s.ptc.edges) } }) :
    exec (.ppsInEdge k) s = .next (measure i (ppsOffset cap) (if 3 ≤ (src v i).run then setSrcValid i true v else v)) := by
  show execPpsInEdge k s = _
  unfold execPpsInEdge
  simp only [hi, ← hcap, ← hl, ← hn, ← hv, if_neg hst, if_neg (not_lt.mpr h)]

end PpsInput

/-! The arrival of programming (R409, R410). -/

section Arrival

variable {s : State} {n : BitVec 6}

theorem exec_ttuProgramArrival_empty (h : (ttuEnt s n.toNat).fifo = []) : exec (.ttuProgramArrival n) s = .next s := by
  show execTtuProgramArrival n s = _
  rw [execTtuProgramArrival, h]

variable {p : Handed TtuProg} {l : List (Handed TtuProg)} (h : (ttuEnt s n.toNat).fifo = p :: l)
include h

theorem exec_ttuProgramArrival_early (hm : mayArrive s ttuCross p = false) : exec (.ttuProgramArrival n) s = .next s := by
  show execTtuProgramArrival n s = _
  rw [execTtuProgramArrival, h]
  exact if_neg (by simp [hm])

theorem exec_ttuProgramArrival_judged (hm : mayArrive s ttuCross p = true) : exec (.ttuProgramArrival n) s = .next (judge n.toNat p.item
    (modTtu n.toNat (fun e => { e with fifo := l }) (if fireDue s n.toNat then ttuFire n.toNat s else s))) := by
  show execTtuProgramArrival n s = _
  rw [execTtuProgramArrival, h]
  exact if_pos hm

end Arrival

/-! A firing (R408, R412, R413). -/

/-- A field of a section reads as before where neither the section list nor SRAM has changed. -/
theorem fld_of_only {l : List Part} {s t : State} (h : Only l s t) (hs : l.contains .sects = false) (hr : l.contains .sram = false) (ty : SectType)
    (i off n : Nat) : fld t ty i off n = fld s ty i off n := by
  unfold fld sectOf
  rw [h.sects hs, h.sram hr]

theorem te_of_only {l : List Part} {s t : State} (h : Only l s t) (hs : l.contains .sects = false) (hr : l.contains .sram = false) (n off len : Nat) :
    te t n off len = te s n off len := fld_of_only h hs hr .ttut 0 _ len

theorem teKind_of_only {l : List Part} {s t : State} (h : Only l s t) (hs : l.contains .sects = false) (hr : l.contains .sram = false) (n : Nat) :
    teKind t n = teKind s n := by
  unfold teKind
  rw [te_of_only h hs hr]

theorem ttuEnt_ttuAct (n j : Nat) (s : State) : ttuEnt (ttuAct n s) j = ttuEnt s j := by
  unfold ttuAct ttuEnt
  dsimp only
  split
  · split <;> rfl
  · rfl
  · rfl
  · rfl

theorem ttuEnt_ttuLand (n at' ns j : Nat) (s : State) : ttuEnt (ttuLand n at' ns s) j = ttuEnt s j :=
  congrArg (fun x : Ttus => tget ({} : Ttu) x.ent j) ((ttuLand_only n at' ns s).ttu rfl)

/-- What a firing does to its entry, by the entry's kind. -/
def firedEnt (s : State) (n : Nat) : Ttu :=
  let e := ttuEnt s n
  if teKind s n = 2 then { e with fires := e.fires + 1, status := 1, target := e.target + te s n 8 4 } else { e with fires := e.fires + 1, status := 2 }

/-- The count and the status of a firing: the entry has been touched, so it is not the blank one. -/
theorem ttuEnt_counted (n : Nat) (s : State) : ttuEnt (modTtu n (fun e => { e with fires := e.fires + 1, status := if teKind s n = 2 then 1 else 2 }) s) n
    = { ttuEnt s n with fires := (ttuEnt s n).fires + 1, status := if teKind s n = 2 then 1 else 2 } := by
  refine ttuEnt_modTtu_val fun e => ?_
  have hz : (if teKind s n = 2 then (1 : BitVec 3) else 2) = 0 := congrArg Ttu.status e
  split at hz <;> exact absurd hz (by decide)

theorem ttuEnt_retargeted {n : Nat} {s : State} (h : (ttuEnt s n).status = 1) (d : Nat) :
    ttuEnt (modTtu n (fun e => { e with target := e.target + d }) s) n = { ttuEnt s n with target := (ttuEnt s n).target + d } := by
  refine ttuEnt_modTtu_val fun e => ?_
  have hz : (ttuEnt s n).status = 0 := congrArg Ttu.status e
  rw [h] at hz
  exact absurd hz (by decide)

/-- The state of a firing before a PERIODIC entry's target moves on: acted, counted and landed. -/
def ttuFired (n : Nat) (s : State) : State :=
  let at' := max (ptcNs s) (ttuEnt s n).target
  let s := ttuAct n s
  ttuLand n at' at' (modTtu n (fun e => { e with fires := e.fires + 1, status := if teKind s n = 2 then 1 else 2 }) s)

theorem ttuFired_only (n : Nat) (s : State) : Only [.ttu, .lbus, .evm, .recd] s (ttuFired n s) :=
  (((ttuAct_only n s).mono (by decide)).trans ((modTtu_only n _ _).mono (by decide))).trans ((ttuLand_only n _ _ _).mono (by decide))

theorem ttuFire_eq (n : Nat) (s : State) : ttuFire n s = if teKind (ttuFired n s) n = 2
    then modTtu n (fun e => { e with target := e.target + te (ttuFired n s) n 8 4 }) (ttuFired n s) else ttuFired n s := rfl

theorem ttuEnt_ttuFired (n : Nat) (s : State) : ttuEnt (ttuFired n s) n
    = { ttuEnt s n with fires := (ttuEnt s n).fires + 1, status := if teKind s n = 2 then 1 else 2 } := by
  unfold ttuFired
  rw [ttuEnt_ttuLand, ttuEnt_counted, ttuEnt_ttuAct, teKind_of_only (ttuAct_only n s) rfl rfl]

theorem ttuEnt_ttuFired_ne {n j : Nat} (h : j ≠ n) (s : State) : ttuEnt (ttuFired n s) j = ttuEnt s j := by
  unfold ttuFired
  rw [ttuEnt_ttuLand, ttuEnt_modTtu_ne h, ttuEnt_ttuAct]

theorem ttuEnt_ttuFire (n : Nat) (s : State) : ttuEnt (ttuFire n s) n = firedEnt s n := by
  have hf := ttuEnt_ttuFired n s
  unfold firedEnt
  rw [ttuFire_eq, teKind_of_only (ttuFired_only n s) rfl rfl, te_of_only (ttuFired_only n s) rfl rfl]
  split
  case isTrue hk =>
    rw [if_pos hk] at hf
    rw [ttuEnt_retargeted (by rw [hf]), hf]
  case isFalse hk => rw [hf, if_neg hk]

theorem ttuEnt_ttuFire_ne {n j : Nat} (h : j ≠ n) (s : State) : ttuEnt (ttuFire n s) j = ttuEnt s j := by
  rw [ttuFire_eq]
  split
  · rw [ttuEnt_modTtu_ne h, ttuEnt_ttuFired_ne h]
  · exact ttuEnt_ttuFired_ne h s

theorem firedEnt_fires (s : State) (n : Nat) : (firedEnt s n).fires = (ttuEnt s n).fires + 1 := by
  unfold firedEnt
  split <;> rfl

theorem firedEnt_periodic {s : State} {n : Nat} (h : teKind s n = 2) :
    (firedEnt s n).status = 1 ∧ (firedEnt s n).target = (ttuEnt s n).target + te s n 8 4 := by
  rw [firedEnt, if_pos h]
  exact ⟨rfl, rfl⟩

theorem firedEnt_oneshot {s : State} {n : Nat} (h : teKind s n ≠ 2) : (firedEnt s n).status = 2 := by
  rw [firedEnt, if_neg h]

/-- Settles O45: each event by its branch, a firing by what it leaves in its entry. -/
theorem timeSourcesAndTriggers : Obligations.TimeSourcesAndTriggers := by
  refine ⟨fun s => ⟨fun h => ⟨if_neg (by simp [h]), if_neg (by simp [h])⟩, fun h => ⟨if_pos h, if_pos h⟩, exec_timeHoldoverEntry,
      fun h => next_ite_neg (by simp [h]), fun i => ⟨next_ite_pos, fun h => next_ite_neg (by simp [h])⟩, next_ite_pos, fun h => next_ite_neg (by simp [h]),
      next_ite_pos, fun h => next_ite_neg (by simp [h]), fun k => ?pps, next_ite_pos, fun h => next_ite_neg (by simp [h]), fun m x u => ?timeSet⟩,
    fun n s => ⟨exec_ttuProgramArrival_empty, fun p l h => ⟨exec_ttuProgramArrival_early h, exec_ttuProgramArrival_judged h⟩, next_ite_pos,
      fun h => next_ite_neg (by simp [h]), ?firing⟩⟩
  case pps =>
    exact ⟨fun h i hi => exec_ppsInMiss_missed h hi, exec_ppsInMiss_idle, exec_ppsInEdge_unlisted, fun i cap last hi hst hcap hl =>
      ⟨exec_ppsInEdge_far hi hst hcap, fun h near v hn hv => exec_ppsInEdge_near hi hst hcap h hl hn hv⟩⟩
  case timeSet => exact ⟨fun h => next_ite_neg (not_not.mpr h), next_ite_pos⟩
  case firing =>
    rw [ttuEnt_ttuFire]
    exact ⟨firedEnt_fires s _, firedEnt_periodic, firedEnt_oneshot, fun j hj => ttuEnt_ttuFire_ne hj s⟩

end Sys2Proof.Machine
end

section
/-! The PTP messages (R392 to R397). How a message is stamped and what a timer sends are log entries 89, 91 and 151. -/

namespace Sys2Proof.Machine

variable {p : Fin 4} {s : State}

/-! Sync and Follow_Up (R393). -/

section FollowUp

variable {n : BitVec 16} {t1 : PtpTime}

theorem exec_ptpFollowUp_none (h : (port s p).waitSync = none) : exec (.ptpFollowUpReceived p n t1) s = .next s := by
  show execPtpFollowUpReceived p n t1 s = _
  rw [execPtpFollowUpReceived, h]

variable {q t2 : Nat} {corr : Int} (h : (port s p).waitSync = some (q, t2, corr))
include h

theorem exec_ptpFollowUp_same (hq : q = n.toNat) : exec (.ptpFollowUpReceived p n t1) s
    = .next (syncDone p (ptpNs { t1 with corr := t1.corr + corr }) ((t2 : Rat) / 4294967296) s) := by
  show execPtpFollowUpReceived p n t1 s = _
  rw [execPtpFollowUpReceived, h]
  exact if_pos hq

theorem exec_ptpFollowUp_other (hq : q ≠ n.toNat) : exec (.ptpFollowUpReceived p n t1) s = .next s := by
  show execPtpFollowUpReceived p n t1 s = _
  rw [execPtpFollowUpReceived, h]
  exact if_neg hq

end FollowUp

/-- A port's record and a source's record do not say which source is listed where. -/
theorem srcIdx_modPort (p : Nat) (f : PtpPort → PtpPort) (k : Nat) (s : State) : srcIdx (modPort p f s) k = srcIdx s k := rfl

/-- A Sync done on a slave port with a valid delay is one measurement of its source (R392, R393). -/
theorem syncDone_measures {i : Nat} (hi : srcIdx s (portKind p) = some i) (hs : (port s p).slave = true) (hd : (port s p).delayOk = true) (t1 t2 : Rat) :
    ∃ u, syncDone p t1 t2 s = measure i (t1 + (port s p).delay - t2) u ∧ Only [.ptc, .evm, .recd] s u := by
  unfold syncDone
  simp only [srcIdx_modPort, hi, hs, hd, Bool.not_true, Bool.false_eq_true, if_false]
  refine ⟨_, rfl, .ite ?_ ?_⟩
  · exact (((modPort_only _ _ _).mono (by decide)).trans ((modSrc_only _ _ _).mono (by decide))).trans ((setSrcValid_only _ _ _).mono (by decide))
  · exact ((modPort_only _ _ _).mono (by decide)).trans ((modSrc_only _ _ _).mono (by decide))

/-! Announce (R395). -/

theorem exec_ptpAnnounce (a : PtpAnnounce) : exec (.ptpAnnounceReceived p a) s = .next (runBmca (modPort p (fun y =>
    if y.best.all (fun b => a.identity == b.identity || annBetter a b) then { y with best := some a, annAt := s.ptc.edges } else y) s)) := by
  show execPtpAnnounceReceived p a s = _
  unfold execPtpAnnounceReceived
  congr 3
  funext y
  cases y.best <;> rfl

/-! Delay responses (R393). -/

section DelayResponse

variable {n : BitVec 16} {rx tx : PtpTime}

theorem exec_ptpDelay_other (h : (port s p).reqSeq ≠ n) : exec (.ptpDelayResponseReceived p n rx tx) s = .next s := if_pos h

variable (hn : (port s p).reqSeq = n)
include hn

theorem exec_ptpDelay_peer (he : portE2e s p = false) : exec (.ptpDelayResponseReceived p n rx tx) s = .next (modPort p (fun y =>
    { y with delay := ((rxStamp s p - ((port s p).reqAt : Rat) / 4294967296) - (ptpNs tx - ptpNs rx)) / 2, delayOk := true }) s) :=
  (if_neg (not_not.mpr hn)).trans (if_neg (by simp [he]))

theorem exec_ptpDelay_mean (he : portE2e s p = true) {d : Rat} (hd : (port s p).syncDiff = some d) : exec (.ptpDelayResponseReceived p n rx tx) s
    = .next (modPort p (fun y => { y with delay := (d + (ptpNs rx - ((port s p).reqAt : Rat) / 4294967296)) / 2, delayOk := true }) s) := by
  refine ((if_neg (not_not.mpr hn)).trans (if_pos he)).trans ?_
  rw [hd]

theorem exec_ptpDelay_noSync (he : portE2e s p = true) (hd : (port s p).syncDiff = none) : exec (.ptpDelayResponseReceived p n rx tx) s = .next s := by
  refine ((if_neg (not_not.mpr hn)).trans (if_pos he)).trans ?_
  rw [hd]

end DelayResponse

/-- Before the seal no PTP timer runs out (R396). -/
theorem ptpTimerOver_of_unsealed (h : s.boot.sealed = false) (p : Nat) (t : PtpTimer) : ptpTimerOver s p t = false := by
  unfold ptpTimerOver
  rw [h, Bool.false_and, Bool.false_and]

/-- Settles O44: each message by its branch. -/
theorem ptpMessagesMeasure : Obligations.PtpMessagesMeasure := by
  refine fun p s => ⟨fun n t1 => ⟨rfl, rfl⟩, fun n t1 => ⟨exec_ptpFollowUp_none, fun q t2 corr h => ⟨exec_ptpFollowUp_same h, exec_ptpFollowUp_other h⟩⟩,
    fun t1 t2 i hi hs hd => syncDone_measures hi hs hd t1 t2, exec_ptpAnnounce, fun n => rfl, fun n rx tx => ?delay, fun t => ?timer,
    next_ite_pos, fun h => next_ite_neg (by simp [h])⟩
  case delay =>
    exact ⟨exec_ptpDelay_other, exec_ptpDelay_peer, fun hn he => ⟨fun d => exec_ptpDelay_mean hn he, exec_ptpDelay_noSync hn he⟩⟩
  case timer => exact ⟨next_ite_pos, fun h => next_ite_neg (by simp [h]), fun h => ptpTimerOver_of_unsealed h p t⟩

end Sys2Proof.Machine
end

section
/-! The events of a CAN controller (R431 to R437). What the free choices of a run are is log entries 97 and 98. -/

namespace Sys2Proof.Machine

/-! A transmit or a cancel at the head of the controller's FIFO (R432, R433). -/

section Fifo

variable {c : Fin 8} {b : Bool} {s : State} {l : List (Handed CanFifo)}

theorem exec_canTxArrival_empty (h : (canOf s c).fifo = []) : exec (.canTxArrival c b) s = .next s := by
  show execCanTxArrival c b s = _
  rw [execCanTxArrival, h]

theorem exec_canCancelArrival_empty (h : (canOf s c).fifo = []) : exec (.canCancelArrival c) s = .next s := by
  show execCanCancelArrival c s = _
  rw [execCanCancelArrival, h]

section Transmit

variable {t o : Nat} {d : List Byte} (h : (canOf s c).fifo = ⟨t, .tx o d⟩ :: l)
include h

theorem exec_canTxArrival_tx (hm : mayArrive s canCross (⟨t, .tx o d⟩ : Handed CanFifo) = true) : exec (.canTxArrival c b) s
    = .next (canBegin c b (canArrive c o d (modCan c (fun x => { x with fifo := l }) s))) := by
  show execCanTxArrival c b s = _
  rw [execCanTxArrival, h]
  exact if_pos hm

theorem exec_canTxArrival_early (hm : mayArrive s canCross (⟨t, .tx o d⟩ : Handed CanFifo) = false) : exec (.canTxArrival c b) s = .next s := by
  show execCanTxArrival c b s = _
  rw [execCanTxArrival, h]
  exact if_neg (by simp [hm])

theorem exec_canCancelArrival_tx : exec (.canCancelArrival c) s = .next s := by
  show execCanCancelArrival c s = _
  rw [execCanCancelArrival, h]

end Transmit

section Cancel

variable {t o : Nat} (h : (canOf s c).fifo = ⟨t, .cancel o⟩ :: l)
include h

theorem exec_canTxArrival_cancel : exec (.canTxArrival c b) s = .next s := by
  show execCanTxArrival c b s = _
  rw [execCanTxArrival, h]

theorem exec_canCancelArrival_early (hm : mayArrive s canCross (⟨t, .cancel o⟩ : Handed CanFifo) = false) : exec (.canCancelArrival c) s = .next s := by
  show execCanCancelArrival c s = _
  rw [execCanCancelArrival, h]
  exact if_pos hm

/-- A cancel that arrives, on the state v that it has left the FIFO of. -/
theorem exec_canCancelArrival_taken (hm : mayArrive s canCross (⟨t, .cancel o⟩ : Handed CanFifo) = true) {v : State}
    (hv : v = modCan c (fun x => { x with fifo := l }) s) : exec (.canCancelArrival c) s
    = if (canOf v c).wire = some o then .next (modObj c o (fun x => { x with cancel := true, again := false }) v)
      else if (canObj v c o).stat = 1 then .next (cancelEv c o 4 (modObj c o (fun x => { x with stat := 4 }) v)) else .next v := by
  subst hv
  show execCanCancelArrival c s = _
  rw [execCanCancelArrival, h]
  exact if_neg (by simp [hm])

end Cancel

end Fifo

/-! The end of a frame on the wire (R432 to R434). -/

section Wire

variable {c : Fin 8} {b : Bool} {s : State}

theorem exec_canFrameSent_idle (h : (canOf (canWire c s) c).wire = none) : exec (.canFrameSent c b) s = .next (canWire c s) := by
  show execCanFrameSent c b s = _
  unfold execCanFrameSent
  dsimp only
  rw [h]

theorem exec_canAttemptEnd_idle (h : (canOf (canWire c s) c).wire = none) (e : CanErr) (more : BitVec 5) :
    exec (.canAttemptEnd c e more b) s = .next (canWire c s) := by
  show execCanAttemptEnd c e more b s = _
  unfold execCanAttemptEnd
  dsimp only
  rw [h]

variable {o : Nat} (h : (canOf (canWire c s) c).wire = some o)
include h

theorem exec_canFrameSent_wire {v : State} (hv : v = modCan c (fun x => { x with wire := none, tx := x.tx + 1, tec := x.tec - 1 })
      (modObj c o (fun y => { y with stat := if y.again then 1 else if y.cancel then 5 else 3, again := false, cancel := false }) (canWire c s))) :
    exec (.canFrameSent c b) s
      = .next (canBegin c b (canJudge c (canHeard c 0 (if (canObj (canWire c s) c o).cancel then cancelEv c o 5 v else v)))) := by
  subst hv
  show execCanFrameSent c b s = _
  unfold execCanFrameSent
  dsimp only
  rw [h]

end Wire

/-! A failed attempt (R432, R434). -/

theorem ca13_of_only {l : List Part} {s t : State} (h : Only l s t) (hs : l.contains .sects = false) (hr : l.contains .sram = false) (c off n : Nat) :
    ca13 t c off n = ca13 s c off n := fld_of_only h hs hr .cant c off n

/-- How far a failed attempt raises TEC before its further errors, in the error state n (R434). -/
def attemptRise (e : CanErr) (n : BitVec 3) : Nat := if e = .lostArb ∨ e = .stuffArb ∨ (e = .ack ∧ n = 3) then 0 else 8

/-- The state in which a failed attempt of object o has left the wire. -/
def attemptFailed (c o : Nat) (e : CanErr) (more : BitVec 5) (up : Nat) (run : Half) (ends : Bool) (u : State) : State :=
  modCan c (fun x => { x with wire := none, tec := x.tec + up + (if e = .lostArb then 0 else 8 * more.toNat), ackRun := run, errFr := if e = .lostArb then x.errFr else satH x.errFr })
    (modObj c o (fun y => { y with stat := if ends && !y.again then 4 else 1, again := false, cancel := false }) u)

theorem attemptFailed_only (c o : Nat) (e : CanErr) (more : BitVec 5) (up : Nat) (run : Half) (ends : Bool) (u : State) :
    Only [.ports] u (attemptFailed c o e more up run ends u) :=
  ((modObj_only _ _ _ _).mono (by decide)).trans ((modCan_only _ _ _).mono (by decide))

section Attempt

variable {c : Fin 8} {b : Bool} {s u : State} (hu : u = canWire c s) {o : Nat} (h : (canOf u c).wire = some o)
include hu h

theorem exec_canAttemptEnd_wire (e : CanErr) (more : BitVec 5) {run : Half} (hrun : run = if e = .ack then satH (canOf u c).ackRun else 0) {ends : Bool}
    (hends : ends = ((canObj u c o).cancel || (canOf u c).state == 0)) {w : State}
    (hw : w = if ends then cancelEv c o 4 (attemptFailed c o e more (attemptRise e (canOf u c).state) run ends u)
      else attemptFailed c o e more (attemptRise e (canOf u c).state) run ends u) :
    exec (.canAttemptEnd c e more b) s = .next (canBegin c b (canJudge c (if e = .ack ∧ ca13 w c 0xA 2 ≤ run.toNat ∧ !(canOf u c).lonely
      then raise 0x0D01 (w32 c) (run.setWidth 32) (w32 o) (modCan c (fun x => { x with lonely := true }) w) else w))) := by
  subst hu hrun hends hw
  show execCanAttemptEnd c e more b s = _
  unfold execCanAttemptEnd
  dsimp only
  rw [h]
  cases e
  case lostArb => rfl
  case stuffArb => rfl
  case other => rfl
  case ack => simp [attemptRise, attemptFailed]

/-- The same with the limit of lonely attempts read from the state before the attempt: an attempt does not change the controller's section. -/
theorem exec_canAttemptEnd_limit (e : CanErr) (more : BitVec 5) {up : Nat} (hup : up = attemptRise e (canOf u c).state) {run : Half}
    (hrun : run = if e = .ack then satH (canOf u c).ackRun else 0) {ends : Bool} (hends : ends = ((canObj u c o).cancel || (canOf u c).state == 0))
    {v w : State} (hv : v = attemptFailed c o e more up run ends u) (hw : w = if ends then cancelEv c o 4 v else v) :
    exec (.canAttemptEnd c e more b) s = .next (canBegin c b (canJudge c (if e = .ack ∧ ca13 s c 0xA 2 ≤ run.toNat ∧ (canOf u c).lonely = false
      then raise 0x0D01 (w32 c) (run.setWidth 32) (w32 o) (modCan c (fun x => { x with lonely := true }) w) else w))) := by
  have hsv : Only [.ports, .evm, .recd] s v := by
    rw [hv, hu]
    exact ((canWire_only _ _).mono (by decide)).trans ((attemptFailed_only _ _ _ _ _ _ _ _).mono (by decide))
  have hsw : Only [.ports, .evm, .recd] s w := by
    rw [hw]
    exact .ite (hsv.trans ((cancelEv_only _ _ _ _).mono (by decide))) hsv
  subst hup
  subst hv
  rw [exec_canAttemptEnd_wire hu h e more hrun hends hw, ca13_of_only hsw rfl rfl]
  simp only [Bool.not_eq_true']

end Attempt

/-! Reception and the error states (R431, R434). -/

section Reception

variable {c : Fin 8} {b : Bool} {s : State}

section Taking

variable (h : (canOf s c).state = 2 ∨ (canOf s c).state = 3)
include h

theorem exec_canRxError_taken (more : BitVec 5) : exec (.canRxError c more b) s = .next (canBegin c b (canJudge c
    (setCan c { canOf s c with rec_ := min 255 ((canOf s c).rec_ + 1 + 8 * more.toNat), errFr := satH (canOf s c).errFr } s))) :=
  if_pos h

theorem exec_canFrameReceived_taken (f : CanFrame) {v : State}
    (hv : v = canHeard c 1 (setCan c { canOf s c with rec_ := recAfter s (canOf s c).rec_ } { s with draws := s.draws + 1 })) :
    exec (.canFrameReceived c f b) s = .next (canBegin c b (canJudge c (if f.remote then v else (canMatch v c f).elim
      (modCan c (fun x => { x with unm := satH x.unm }) v) (fun o => canStore c o f v)))) := by
  subst hv
  refine (if_pos h).trans ?_
  dsimp only
  cases canMatch (canHeard c 1 (setCan c { canOf s c with rec_ := recAfter s (canOf s c).rec_ } { s with draws := s.draws + 1 })) c f <;> rfl

end Taking

theorem exec_canReception_off (h2 : (canOf s c).state ≠ 2) (h3 : (canOf s c).state ≠ 3) (more : BitVec 5) (f : CanFrame) :
    exec (.canRxError c more b) s = .next s ∧ exec (.canFrameReceived c f b) s = .next s := by
  have h : ¬ ((canOf s c).state = 2 ∨ (canOf s c).state = 3) := not_or.mpr ⟨h2, h3⟩
  exact ⟨if_neg h, if_neg h⟩

end Reception

/-- Settles O46: each event by its branch. -/
theorem canEventsComplete : Obligations.CanEventsComplete := by
  refine ⟨fun c b s u hu => ⟨fun t o d l h => ⟨exec_canTxArrival_tx h, exec_canTxArrival_early h, exec_canCancelArrival_tx h⟩,
      fun t o l h => ⟨exec_canTxArrival_cancel h, exec_canCancelArrival_early h, fun hm v hv => ?cancel⟩,
      fun h => ⟨exec_canTxArrival_empty h, exec_canCancelArrival_empty h⟩, fun h => ?idle, fun o h => ⟨fun v hv => ?sent, fun e more up run ends v w hup hrun hends hv hw =>
        exec_canAttemptEnd_limit hu h e more hup hrun hends hv hw⟩, fun h => ⟨exec_canRxError_taken h, fun f v => exec_canFrameReceived_taken h f⟩,
      exec_canReception_off, fun h => if_pos h, fun h => if_neg h, fun h => if_pos h, fun h => if_neg h⟩,
    fun m c o s => ⟨fun hc hs ho => next_ite_neg ?_, fun h => next_ite_pos ?_⟩⟩
  case cancel =>
    have ht := exec_canCancelArrival_taken h hm hv
    exact ⟨fun hw => ht.trans (if_pos hw), fun hw ho => ht.trans ((if_neg hw).trans (if_pos ho)), fun hw ho => ht.trans ((if_neg hw).trans (if_neg ho))⟩
  case idle =>
    subst hu
    exact ⟨exec_canFrameSent_idle h, exec_canAttemptEnd_idle h⟩
  case sent =>
    subst hu
    exact exec_canFrameSent_wire h hv
  · simp [hs, ho, Nat.not_le.mpr hc]
  · simpa using h

end Sys2Proof.Machine
end

section
/-! The events of the serial ports (R439 to R442) and of the Ethernet ports (R444 to R446). Their readings are log entries 95, 100 and 152. -/

namespace Sys2Proof.Machine

variable {s : State}

/-! A telegram that is sent (R442, R50). -/

section Sending

variable {p : Fin 12}

theorem exec_serTxArrival_empty (h : (serOf s p).fifo = []) : exec (.serTxArrival p) s = .next s := by
  show execSerTxArrival p s = _
  unfold execSerTxArrival
  dsimp only
  rw [h]

variable {x : Handed (List Byte)} {l : List (Handed (List Byte))} (h : (serOf s p).fifo = x :: l)
include h

theorem exec_serTxArrival_early (hm : mayArrive s (serCross s p) x = false) : exec (.serTxArrival p) s = .next s := by
  show execSerTxArrival p s = _
  unfold execSerTxArrival
  dsimp only
  rw [h]
  exact if_neg (by simp [hm])

theorem exec_serTxArrival_taken (hm : mayArrive s (serCross s p) x = true) : exec (.serTxArrival p) s
    = .next (serStart p (setSer p { serOf s p with fifo := l, queue := (serOf s p).queue ++ [x.item] } s)) := by
  show execSerTxArrival p s = _
  unfold execSerTxArrival
  dsimp only
  rw [h]
  exact if_pos hm

end Sending

/-! A RAW chunk that closes (R441). -/

section Chunk

variable {p : Fin 12} {bs : List Byte}

theorem exec_serChunkClose_due (hl : serLive s p = true) (hf : serFraming s p = 4) (hb : bs ≠ []) (he : serEcho s p = false)
    (hc : (serOf s p).closes < chunkTimes s p) {u : State}
    (hu : u = modSer p (fun y => { y with chunk := y.chunk + 1, landed := y.landed + 1, closes := chunkTimes s p }) s) :
    ∃ d, exec (.serChunkClose p bs) s = .next (landFrom (0x18 + p.val) d (chunkWords (serOf u p).chunk (bs.take 60)) (asyncStamp u) u) := by
  subst hu
  exact ⟨_, if_pos (by simp [hl, hf, hb, he, hc])⟩

theorem exec_serChunkClose_none (h : serLive s p = false ∨ serFraming s p ≠ 4 ∨ bs = [] ∨ serEcho s p = true ∨ chunkTimes s p ≤ (serOf s p).closes) :
    exec (.serChunkClose p bs) s = .next s :=
  if_neg (by rcases h with h | h | h | h | h <;> simp [h])

end Chunk

/-! A character error (R439, R440). -/

section CharacterError

variable {p : Fin 12} {n : BitVec 16}

theorem exec_serCharacterError_fails (hl : serLive s p = true) (he : serEcho s p = false) :
    exec (.serCharacterError p .char n) s = .next (serFail p 0 n.toNat s) ∧ exec (.serCharacterError p .long n) s = .next (serFail p 2 n.toNat s)
      ∧ exec (.serCharacterError p .charset n) s = .next (serFail p 3 n.toNat s) := by
  have h : (serLive s p && !serEcho s p) = true := by simp [hl, he]
  exact ⟨if_pos h, if_pos h, if_pos h⟩

theorem exec_serCharacterError_ignored (h : serLive s p = false ∨ serEcho s p = true) (e : SerErr) : exec (.serCharacterError p e n) s = .next s :=
  if_neg (by rcases h with h | h <;> simp [h])

end CharacterError

/-! A link at a new speed (R444). -/

section Link

variable {p : Fin 4} {w : LinkWord} (h : (ethOf s p).speed ≠ linkSpeed p w) {u : State} (hu : u = modEth p (fun y => { y with speed := linkSpeed p w }) s)
include h hu

theorem exec_ethLink_vessel (hp : 2 ≤ p.val) : exec (.ethLink p w) s = .next (raise 0x0D05 (w32 p) ((linkSpeed p w).setWidth 32) 0 u) := by
  subst hu
  refine (if_neg h).trans ?_
  dsimp only
  rw [if_neg (Nat.not_lt.mpr hp)]

theorem exec_ethLink_ring (hp : p.val < 2) : exec (.ethLink p w) s = .next (raise 0x0D05 (w32 p) ((linkSpeed p w).setWidth 32) 0
    { u with pack := { u.pack with psw := { u.pack.psw with
      link := if linkSpeed p w = 0 then u.pack.psw.link &&& ~~~ BitVec.ofNat 2 (2 ^ p.val) else u.pack.psw.link ||| BitVec.ofNat 2 (2 ^ p.val) } } }) := by
  subst hu
  refine (if_neg h).trans ?_
  dsimp only
  rw [if_pos hp]

end Link

theorem exec_ethRawChunk_due {p : Fin 4} {d : BitVec 8} (h : rawDue s p d.toNat = true) {q : List Byte} {n : Half}
    (hq : q = tget [] (ethOf s p).raw d.toNat) (hn : n = tget 0 (ethOf s p).seqs d.toNat + 1) :
    exec (.ethRawChunk p d) s = .next (landFrom (0x24 + p.val) d.toNat (chunkWords n (q.take 60)) (ptcNs s) (setEth p { ethOf s p with
      raw := tset [] (ethOf s p).raw d.toNat (q.drop 60), rawAt := tset 0 (ethOf s p).rawAt d.toNat (ptcNs s), seqs := tset 0 (ethOf s p).seqs d.toNat n,
      landed := (ethOf s p).landed + 1 } s)) := by
  subst hq hn
  exact if_pos h

theorem exec_ethFrame_ignored {p : Fin 4} {f : EthFrame} (h : p.val < 2 ∨ ethLive s p = false) : exec (.ethFrameReceived p f) s = .next s := by
  refine if_neg fun ⟨hp, hl⟩ => ?_
  rcases h with h | h
  · exact absurd hp (Nat.not_le.mpr h)
  · exact absurd hl (by simp [h])

/-- Settles O47: each event by its branch. -/
theorem serialAndEthernetEvents : Obligations.SerialAndEthernetEvents := by
  refine fun s => ⟨fun p => ⟨exec_serTxArrival_empty, fun x l h => ⟨exec_serTxArrival_early h, exec_serTxArrival_taken h⟩, fun h => if_pos h,
      fun h => if_neg (by simp [h])⟩, fun p bs => ⟨fun h => if_pos h, fun h => if_neg (by simp [h])⟩,
    fun p bs => ⟨fun hl hf hb he hc u => exec_serChunkClose_due hl hf hb he hc, exec_serChunkClose_none⟩,
    fun p n => ⟨exec_serCharacterError_fails, exec_serCharacterError_ignored⟩,
    fun p f => ⟨fun hp hl => if_pos ⟨hp, hl⟩, exec_ethFrame_ignored⟩, fun p d => ⟨fun h q n => exec_ethRawChunk_due h, fun h => if_neg (by simp [h])⟩,
    fun p w => ⟨fun h => if_pos h, fun h u hu => ⟨exec_ethLink_vessel h hu, exec_ethLink_ring h hu⟩⟩⟩

end Sys2Proof.Machine
end

section
/-! Tokens (R498 to R504), HOLD (R505), authorisation (R506) and SLEEP (R521, R522). Their readings are log entries 116, 118, 119 and 154. -/

namespace Sys2Proof.Machine

/-! The token buffer (R501). -/

section Token

variable {m : BitVec 4} {s : State}

section Load

variable {off : BitVec 16} {len : BitVec 8} {d : List Byte}

theorem exec_tokenLoad_denied (h1 : (mbxOf s m.toNat).poster ≠ 1) (h2 : (mbxOf s m.toNat).poster ≠ 2) :
    exec (.tokenLoad m off len d) s = .next (completeMbx m.toNat rcDenied s) :=
  next_ite_pos ⟨h1, h2⟩

variable (hp : (mbxOf s m.toNat).poster = 1 ∨ (mbxOf s m.toNat).poster = 2)
include hp

/-- A load by a master: who owns the buffer and where the part lies decide. -/
theorem exec_tokenLoad_master : exec (.tokenLoad m off len d) s
    = .next (if s.sec.tokOwner ≠ 0 ∧ s.sec.tokOwner ≠ (mbxOf s m.toNat).poster then completeMbx m.toNat rcBusy s
      else if len.toNat = 0 ∨ 48 < len.toNat ∨ 512 < off.toNat + len.toNat then completeMbx m.toNat rcRange s
      else completeMbx m.toNat rcDone (modSec (fun c => { c with
        tokBuf := memPut 0 c.tokBuf off.toNat (d.take len.toNat), tokOwner := (mbxOf s m.toNat).poster, tokLen := max c.tokLen (off.toNat + len.toNat) }) s)) :=
  next_ite_neg fun ⟨h1, h2⟩ => hp.elim h1 h2

theorem exec_tokenLoad_busy (h0 : s.sec.tokOwner ≠ 0) (ho : s.sec.tokOwner ≠ (mbxOf s m.toNat).poster) :
    exec (.tokenLoad m off len d) s = .next (completeMbx m.toNat rcBusy s) :=
  (exec_tokenLoad_master hp).trans (next_ite_pos ⟨h0, ho⟩)

variable (ho : s.sec.tokOwner = 0 ∨ s.sec.tokOwner = (mbxOf s m.toNat).poster)
include ho

theorem exec_tokenLoad_range (hr : len.toNat = 0 ∨ 48 < len.toNat ∨ 512 < off.toNat + len.toNat) :
    exec (.tokenLoad m off len d) s = .next (completeMbx m.toNat rcRange s) := by
  rw [exec_tokenLoad_master hp, if_neg fun ⟨h1, h2⟩ => ho.elim h1 h2, if_pos hr]

theorem exec_tokenLoad_done (h1 : 1 ≤ len.toNat) (h48 : len.toNat ≤ 48) (h512 : off.toNat + len.toNat ≤ 512) :
    exec (.tokenLoad m off len d) s = .next (completeMbx m.toNat rcDone (modSec (fun c => { c with
      tokBuf := memPut 0 c.tokBuf off.toNat (d.take len.toNat), tokOwner := (mbxOf s m.toNat).poster, tokLen := max c.tokLen (off.toNat + len.toNat) }) s)) := by
  rw [exec_tokenLoad_master hp, if_neg fun ⟨h1, h2⟩ => ho.elim h1 h2, if_neg (by omega)]

end Load

theorem exec_token_denied (h : (mbxOf s m.toNat).poster = 0 ∨ s.sec.tokOwner ≠ (mbxOf s m.toNat).poster) :
    exec (.tokenApply m) s = .next (completeMbx m.toNat rcDenied s) ∧ exec (.tokenClear m) s = .next (completeMbx m.toNat rcDenied s) :=
  ⟨next_ite_pos h, next_ite_pos h⟩

section Owner

variable (hp : (mbxOf s m.toNat).poster ≠ 0) (ho : s.sec.tokOwner = (mbxOf s m.toNat).poster)
include hp ho

theorem not_denied_of_owner : ¬ ((mbxOf s m.toNat).poster = 0 ∨ s.sec.tokOwner ≠ (mbxOf s m.toNat).poster) := fun h => h.elim hp (fun hn => hn ho)

theorem exec_tokenApply_starts (ha : s.sec.applying = none) : exec (.tokenApply m) s = .next (modSec (fun c => { c with applying := some m.toNat }) s) :=
  (next_ite_neg (not_denied_of_owner hp ho)).trans (next_ite_neg (by simp [ha]))

theorem exec_tokenApply_busy {k : Nat} (ha : s.sec.applying = some k) : exec (.tokenApply m) s = .next (completeMbx m.toNat rcBusy s) :=
  (next_ite_neg (not_denied_of_owner hp ho)).trans (next_ite_pos (by simp [ha]))

theorem exec_tokenClear_owner : exec (.tokenClear m) s = .next (completeMbx m.toNat rcDone (tokClear s)) :=
  next_ite_neg (not_denied_of_owner hp ho)

end Owner

end Token

/-! The end of a token's check (R500). -/

section Check

variable {s : State}

theorem exec_tokenApplyDone_idle (h : s.sec.applying = none) : exec .tokenApplyDone s = .next s := by
  show execTokenApplyDone s = _
  rw [execTokenApplyDone, h]

variable {k : Nat} (h : s.sec.applying = some k) {u : State}
  (hu : u = newNonce (tokClear (modSec (fun c => { c with applying := none, tokResult := tokVerdict s, tokType := BitVec.ofNat 4 (tokType s) }) s)))
include h hu

theorem exec_tokenApplyDone_failed (hv : tokVerdict s ≠ rcDone) : exec .tokenApplyDone s
    = .next (completeMbx k (tokVerdict s) (raise 0x0F01 (w32 (tokType s)) ((tokVerdict s).setWidth 32) (w32 s.sec.tokOwner) u)) := by
  subst hu
  show execTokenApplyDone s = _
  rw [execTokenApplyDone, h]
  exact if_neg hv

theorem exec_tokenApplyDone_passed (hv : tokVerdict s = rcDone) : exec .tokenApplyDone s
    = .next (tokEffect k s.sec.tokOwner (tokType s) (tokNum s 0x18 4) (BitVec.ofNat 384 (tokNum s 0x20 48)) (BitVec.ofNat 256 (tokNum s 0x50 32)) u) := by
  subst hu
  show execTokenApplyDone s = _
  rw [execTokenApplyDone, h]
  exact if_pos hv

end Check

/-! A life-cycle transition (R504, R111). -/

/-- The power-on reset with no transition under way keeps the fuses, whether it enters RESET or joins one. -/
theorem enterReset_powerOn_idle {s : State} (h : s.sec.lct = none) (lct : Bool) : (enterReset .powerOn lct false s).fuses = s.fuses
    ∧ (enterReset .powerOn lct false s).sec.lct = none ∧ (enterReset .powerOn lct false s).boot.dev = .reset ∧ (enterReset .powerOn lct false s).aon.kind = 1 := by
  by_cases hd : s.boot.dev = .reset
  case pos =>
    have ht := tearLog_only { s with boot := { s.boot with released := s.boot.released && ResetKind.powerOn != .pin && ResetKind.powerOn != .powerOn } }
    have hf := ht.fuses rfl
    have hs := congrArg Sec.lct (ht.sec rfl)
    have hb := congrArg Boot.dev (ht.boot rfl)
    unfold enterReset
    rw [if_pos hd]
    exact ⟨hf, hs.trans h, hb.trans hd, rfl⟩
  case neg =>
    obtain ⟨hdev, haon, -, -⟩ := enterReset_fresh .powerOn lct false hd
    refine ⟨?fuses, ?lct, hdev, by rw [haon]; rfl⟩
    case fuses =>
      unfold enterReset
      rw [if_neg hd]
      exact ((raise_only _ _ _ _ _).fuses rfl).trans (tearOn_fuses .powerOn (s := { s with aon := aonReset .powerOn lct false s.aon }) h)
    case lct =>
      unfold enterReset
      rw [if_neg hd]
      exact congrArg Sec.lct ((raise_only _ _ _ _ _).sec rfl)

theorem exec_lcTransition_none {s : State} (h : s.sec.lct = none) (k : BitVec 4) : exec (.lcTransition k) s = .next s := by
  show execLcTransition k s = _
  rw [execLcTransition, h]

theorem exec_lcTransition_some {s : State} {r : LcReq} (h : s.sec.lct = some r) (k : BitVec 4) : ∃ t, exec (.lcTransition k) s = .next t
    ∧ t.fuses = program r k s.fuses ∧ t.sec.lct = none ∧ t.boot.dev = .reset ∧ t.aon.kind = 1 ∧ t.boot.released = true := by
  show ∃ t, execLcTransition k s = .next t ∧ _
  rw [execLcTransition, h]
  dsimp -zeta only
  extract_lets u old want c v w x
  have hw : Only [.evm, .recd, .logMem, .draws] v (flushNow w) := ((raise_only _ _ _ _ v).mono (by decide)).trans ((flushNow_only w).mono (by decide))
  obtain ⟨hf, hl, hd, hk⟩ := enterReset_powerOn_idle (s := flushNow w) ((congrArg Sec.lct (hw.sec rfl)).trans rfl) true
  refine ⟨_, rfl, hf.trans ((hw.fuses rfl).trans ?_), hl, hd, hk, rfl⟩
  exact congrArg (program r k) ((flushNow_only s).fuses rfl)

/-! HOLD and RELEASE (R505). -/

section Hold

variable {m : BitVec 4} {s : State}

theorem exec_hold_denied (h : (mbxOf s m.toNat).poster ≠ 2) :
    exec (.hold m) s = .next (completeMbx m.toNat rcDenied s) ∧ exec (.holdRelease m) s = .next (completeMbx m.toNat rcDenied s) :=
  ⟨next_ite_pos h, next_ite_pos h⟩

variable (h : (mbxOf s m.toNat).poster = 2)
include h

theorem exec_hold_latched (hr : s.seq.run = true) :
    exec (.hold m) s = .next (modSec (fun c => { c with holdQueue := c.holdQueue ++ [(true, latchFrame s, m.toNat)] }) s)
      ∧ exec (.holdRelease m) s = .next (modSec (fun c => { c with holdQueue := c.holdQueue ++ [(false, latchFrame s, m.toNat)] }) s) :=
  ⟨(next_ite_neg (not_not.mpr h)).trans (next_ite_pos hr), (next_ite_neg (not_not.mpr h)).trans (next_ite_pos hr)⟩

theorem exec_hold_now (hr : s.seq.run = false) :
    exec (.hold m) s = .next (holdApply true m.toNat s) ∧ exec (.holdRelease m) s = .next (holdApply false m.toNat s) := by
  have hn : ¬ s.seq.run = true := by simp [hr]
  exact ⟨(next_ite_neg (not_not.mpr h)).trans (next_ite_neg hn), (next_ite_neg (not_not.mpr h)).trans (next_ite_neg hn)⟩

end Hold

/-! The SLEEP command (R501, R521). -/

section Sleep

variable {m : BitVec 4} {mask g lv : BitVec 8} {secs : BitVec 48} {s : State}

theorem exec_sleep_denied (h2 : (mbxOf s m.toNat).poster ≠ 2) (h1 : (mbxOf s m.toNat).poster ≠ 1 ∨ s.sec.hostauth = false) :
    exec (.sleep m mask g lv secs) s = .next (completeMbx m.toNat rcDenied s) := by
  refine next_ite_pos ⟨h2, fun ⟨hp, ha⟩ => h1.elim (fun hn => hn hp) (fun hf => ?_)⟩
  rw [hf] at ha
  exact absurd ha (by decide)

theorem not_sleepState (hd : s.boot.dev = .standby) (hb : bitOf (fld8 s .pwrt 0 0x10) 0 = true) :
    ¬ (s.boot.dev ≠ .standby ∨ bitOf (fld8 s .pwrt 0 0x10) 0 = false) := by
  simp [hd, hb]

variable (hp : (mbxOf s m.toNat).poster = 2 ∨ (mbxOf s m.toNat).poster = 1 ∧ s.sec.hostauth = true)
include hp

theorem not_sleepDenied : ¬ ((mbxOf s m.toNat).poster ≠ 2 ∧ ¬ ((mbxOf s m.toNat).poster = 1 ∧ s.sec.hostauth)) := fun ⟨h2, h1⟩ => hp.elim h2 h1

theorem exec_sleep_state (h : s.boot.dev ≠ .standby ∨ bitOf (fld8 s .pwrt 0 0x10) 0 = false) :
    exec (.sleep m mask g lv secs) s = .next (completeMbx m.toNat rcState s) :=
  (next_ite_neg (not_sleepDenied hp)).trans (next_ite_pos h)

variable (hd : s.boot.dev = .standby) (hb : bitOf (fld8 s .pwrt 0 0x10) 0 = true)
include hd hb

theorem exec_sleep_range (h : mask.toNat = 0 ∨ 8 ≤ mask.toNat ∨ 64 ≤ g.toNat ∨ 2 ≤ lv.toNat ∨ (bitOf mask.toNat 0 = true ∧ secs.toNat * 1000000000 ≤ ptcNs s)) :
    exec (.sleep m mask g lv secs) s = .next (completeMbx m.toNat rcRange s) :=
  (next_ite_neg (not_sleepDenied hp)).trans ((next_ite_neg (not_sleepState hd hb)).trans (next_ite_pos h))

theorem exec_sleep_latched (h1 : 1 ≤ mask.toNat) (h8 : mask.toNat < 8) (hg : g.toNat < 64) (hl : lv.toNat < 2)
    (ht : bitOf mask.toNat 0 = false ∨ ptcNs s < secs.toNat * 1000000000) : exec (.sleep m mask g lv secs) s
    = .next (modPwr (fun p => { p with sleepReq := some { mask := mask.toNat, gpio := g.toNat, level := lv.toNat == 1, secs := secs.toNat, due := latchFrame s, mbx := m.toNat } }) s) := by
  have hn : ¬ (bitOf mask.toNat 0 = true ∧ secs.toNat * 1000000000 ≤ ptcNs s) := by
    rintro ⟨hm, hs⟩
    rcases ht with ht | ht
    · simp [hm] at ht
    · omega
  refine (next_ite_neg (not_sleepDenied hp)).trans ((next_ite_neg (not_sleepState hd hb)).trans (next_ite_neg ?_))
  rintro (h | h | h | h | h)
  · omega
  · omega
  · omega
  · omega
  · exact hn h

end Sleep

/-! The wake from SLEEP (R522). -/

/-- A wake of domains touches only their gates. -/
theorem wakeIn_foldl_pwr (g : BitVec 5) (l : List Domain) (s : State) :
    ∃ a b c, (l.foldl (wakeIn g) s).pwr = { s.pwr with gated := a, waking := b, wakeDue := c } := by
  induction l generalizing s with
  | nil => exact ⟨_, _, _, rfl⟩
  | cons d l ih =>
    have hd : ∃ a b c, (wakeIn g s d).pwr = { s.pwr with gated := a, waking := b, wakeDue := c } := by
      unfold wakeIn
      split
      · exact ⟨_, _, _, rfl⟩
      · exact ⟨_, _, _, rfl⟩
    obtain ⟨a, b, c, hd⟩ := hd
    obtain ⟨a', b', c', ih⟩ := ih (wakeIn g s d)
    exact ⟨a', b', c', ih.trans (by rw [hd])⟩

theorem startWake_marks (mask : BitVec 5) (s : State) : (startWake mask s).pwr.wakeAt = s.pwr.wakeAt ∧ (startWake mask s).pwr.wakeCnt = s.pwr.wakeCnt
    ∧ (startWake mask s).pwr.wakeCause = s.pwr.wakeCause := by
  obtain ⟨a, b, c, h⟩ := wakeIn_foldl_pwr (mask &&& s.pwr.gated) [Domain.qps, .nav, .ana, .sec] s
  rw [startWake_eq, h]
  exact ⟨rfl, rfl, rfl⟩

section Wake

variable {c : WakeCause} {s : State}

theorem exec_sleepWake_wakes (hd : s.boot.dev = .sleep) (hn : s.pwr.wakeAt = none) (hw : wakes c s = true) : ∃ t, exec (.sleepWake c) s = .next t
    ∧ t.pwr.wakeAt = some (s.cclk + 80000) ∧ t.pwr.wakeCnt = s.pwr.wakeCnt + 1 ∧ t.pwr.wakeCause = BitVec.ofNat 3 (wakeCode c) ∧ t.boot = s.boot := by
  refine ⟨_, next_ite_pos ⟨hd, hn, hw⟩, ?_⟩
  dsimp only
  rw [(startWake_marks _ _).1, (startWake_marks _ _).2.1, (startWake_marks _ _).2.2, (startWake_only _ _).boot rfl, (raise_only _ _ _ _ _).pwr rfl, raise_boot]
  exact ⟨rfl, rfl, rfl, rfl⟩

theorem exec_sleepWake_none (h : s.boot.dev ≠ .sleep ∨ s.pwr.wakeAt.isSome = true ∨ wakes c s = false) : exec (.sleepWake c) s = .next s := by
  refine next_ite_neg fun ⟨hd, hn, hw⟩ => ?_
  rcases h with h | h | h
  · exact h hd
  · simp [hn] at h
  · simp [hw] at h

end Wake

theorem dbgLower_heldReq (l r : Nat) (s : State) : (dbgLower l r s).sec.heldReq = s.sec.heldReq := by
  unfold dbgLower
  dsimp only
  rw [(raise_only _ _ _ _ _).sec rfl]

theorem dbgJudge_heldReq (r : BitVec 2) (s : State) : (dbgJudge r s).sec.heldReq = s.sec.heldReq := by
  unfold dbgJudge
  dsimp only
  split
  · rw [(raise_only _ _ _ _ _).sec rfl]
    rfl
  · split
    · rw [dbgLower_heldReq, (raise_only _ _ _ _ _).sec rfl]
      rfl
    · exact (congrArg Sec.heldReq ((raise_only _ _ _ _ _).sec rfl)).trans rfl

/-- A held request is judged and no longer held; without one nothing happens. -/
def heldJudged (s : State) : State :=
  match s.sec.heldReq with
  | some r => dbgJudge r (modSec (fun c => { c with heldReq := none }) s)
  | none => s

theorem heldJudged_only (s : State) : Only [.evm, .recd, .sec] s (heldJudged s) := by
  unfold heldJudged
  split
  · exact ((modSec_only _ s).mono (by decide)).trans (dbgJudge_only _ _)
  · exact .refl _ _

theorem heldJudged_heldReq (s : State) : (heldJudged s).sec.heldReq = none := by
  unfold heldJudged
  split
  · rw [dbgJudge_heldReq]
    rfl
  · assumption

section WakeEnd

variable {s : State}

theorem exec_wakeSyncEntry_wakes {x : Nat} (hd : s.boot.dev = .sleep) (hw : s.pwr.wakeAt = some x) : ∃ t, exec .wakeSyncEntry s = .next t
    ∧ t.boot.dev = .sync ∧ t.boot.syncTmo = false ∧ t.pwr.wakeAt = none ∧ t.sec.heldReq = none ∧ t.sdir = s.sdir ∧ t.sram = s.sram := by
  have he : ∃ v, exec .wakeSyncEntry s = .next (heldJudged (setDev .sync v)) ∧ v.boot.syncTmo = false ∧ v.pwr.wakeAt = none := by
    show ∃ v, execWakeSyncEntry s = _ ∧ _
    rw [execWakeSyncEntry, hd, hw]
    dsimp -zeta only
    extract_lets u v w b y z
    refine ⟨y, ?_, rfl, rfl⟩
    unfold heldJudged
    cases z.sec.heldReq <;> rfl
  obtain ⟨v, he, htmo, hat⟩ := he
  have ho := execWakeSyncEntry_only s _ he
  have hj := heldJudged_only (setDev .sync v)
  refine ⟨_, he, ?_, ?_, ?_, heldJudged_heldReq _, ho.sdir rfl, ho.sram rfl⟩
  · rw [hj.boot rfl, setDev_dev]
  · rw [hj.boot rfl, setDev_boot]
    exact htmo
  · rw [hj.pwr rfl, (setDev_only _ _).pwr rfl, hat]

theorem exec_wakeSyncEntry_none (h : s.boot.dev ≠ .sleep ∨ s.pwr.wakeAt = none) : exec .wakeSyncEntry s = .next s := by
  show execWakeSyncEntry s = _
  unfold execWakeSyncEntry
  split
  case h_1 x hd hw =>
    rcases h with h | h
    · exact absurd hd h
    · rw [hw] at h
      exact absurd h (by simp)
  case h_2 => rfl

end WakeEnd

/-! The authorisation register (R506, R512). -/

theorem authCtl_close (s : State) : (authCtl 1 s).sec.hostauth = false := rfl

theorem dbgSettle_grant (r : Nat) (s : State) : (dbgSettle r s).sec.grant = s.sec.grant := by
  unfold dbgSettle dbgLower
  dsimp only
  split
  · rw [(raise_only _ _ _ _ _).sec rfl]
  · rfl

theorem authCtl_revoke (s : State) : (authCtl 2 s).sec.grant = 0 := by
  show (dbgSettle 3 (modSec (fun c => { c with grant := 0 }) s)).sec.grant = 0
  rw [dbgSettle_grant]
  rfl

theorem exec_authorisation {a : Master} {s : State} (hs : served s = true) (hw : waOk a s = true) :
    (∃ t, exec (.closeHostauth a) s = .next t ∧ t.sec.hostauth = false) ∧ (∃ t, exec (.revokeDebug a) s = .next t ∧ t.sec.grant = 0) := by
  have h (w : Word) : writeBy a 0x101C w s = afterWrite a (authCtl w s) := writeBy_applied hs a (by decide) (applyWord_authCtl hs a hw w)
  refine ⟨⟨_, rfl, ?_⟩, ⟨_, rfl, ?_⟩⟩
  · rw [h, (afterWrite_only a _).sec rfl, authCtl_close]
  · rw [h, (afterWrite_only a _).sec rfl, authCtl_revoke]

/-- Settles O56: each command by its branch. -/
theorem securityCommandsComplete : Obligations.SecurityCommandsComplete := by
  refine fun m s => ⟨fun off len d => ⟨exec_tokenLoad_denied, fun hp => ⟨exec_tokenLoad_busy hp, fun ho => ⟨exec_tokenLoad_range hp ho, exec_tokenLoad_done hp ho⟩⟩⟩,
    exec_token_denied, fun hp ho => ⟨exec_tokenApply_starts hp ho, fun k => exec_tokenApply_busy hp ho, exec_tokenClear_owner hp ho⟩, exec_tokenApplyDone_idle,
    fun k h u hu => ?check, fun k => ⟨fun h => exec_lcTransition_none h k, fun r h => exec_lcTransition_some h k⟩, exec_hold_denied,
    fun h => ⟨exec_hold_latched h, exec_hold_now h⟩,
    fun mask g lv secs => ⟨exec_sleep_denied, fun hp => ⟨exec_sleep_state hp, fun hd hb => ⟨exec_sleep_range hp hd hb, exec_sleep_latched hp hd hb⟩⟩⟩,
    fun c => ⟨exec_sleepWake_wakes, exec_sleepWake_none⟩, fun x => exec_wakeSyncEntry_wakes, exec_wakeSyncEntry_none,
    fun a => ⟨rfl, rfl, fun w => rfl, exec_authorisation⟩⟩
  case check =>
    refine ⟨?_, ?_, ?_, exec_tokenApplyDone_failed h hu, exec_tokenApplyDone_passed h hu⟩
    all_goals rw [hu]; rfl

end Sys2Proof.Machine
end

section
/-! The debug port (R507 to R515) and the boundary scan (R508, R509, R556). The attach and the TAP reset are log entry 117, the scan cells log entry 129. -/

namespace Sys2Proof.Machine

variable {s : State}

/-! Attach (R510, R511). -/

section Attach

variable {r : BitVec 2}

theorem exec_dbgAttach_wakes (hd : s.boot.dev = .sleep) (hw : attachWakes s = true) :
    exec (.dbgAttach r) s = .next (sleepWake .debug (modSec (fun c => { c with heldReq := some r }) s)) :=
  (if_pos hd).trans (if_pos hw)

theorem exec_dbgAttach_asleep (hd : s.boot.dev = .sleep) (hw : attachWakes s = false) :
    exec (.dbgAttach r) s = .next (raise 0x0F03 (w32 r.toNat) 0 (w32 (dbgCell s)) (modSec (fun c => { c with refused := true }) s)) :=
  (if_pos hd).trans (if_neg (by simp [hw]))

variable (hd : s.boot.dev ≠ .sleep)
include hd

theorem exec_dbgAttach_refused (h : dbgPermitted s < r.toNat) : exec (.dbgAttach r) s
    = .next (raise 0x0F03 (w32 r.toNat) (w32 (dbgPermitted s)) (w32 (dbgCell s)) (modSec (fun c => { c with refused := true }) s)) :=
  (if_neg hd).trans (next_ite_pos h)

/-- An attach that the permitted level admits, on the state u that has counted and recorded it: the admitted level falls, or it is the one requested. -/
theorem exec_dbgAttach_admitted (h : r.toNat ≤ dbgPermitted s) {u : State}
    (hu : u = raise 0x0F02 (w32 r.toNat) (w32 (dbgPermitted s)) (w32 (dbgCell s)) (modSec (fun c => { c with refused := false, attaches := c.attaches + 1 }) s)) :
    exec (.dbgAttach r) s = .next (if r.toNat < s.sec.level.toNat then dbgLower r.toNat 0 u else modSec (fun c => { c with level := r }) u) := by
  have hl : u.sec.level = s.sec.level := by
    rw [hu, (raise_only _ _ _ _ _).sec rfl]
    rfl
  refine ((if_neg hd).trans (next_ite_neg (Nat.not_lt.mpr h))).trans ?_
  rw [← hl, hu]

end Attach

/-! The halt of the schedule and the TAP reset (R515, R508). -/

theorem exec_dbgHalt_full (h : s.sec.level = 3) : exec .dbgHalt s = .next (modSec (fun c => { c with haltQueue := c.haltQueue ++ [(true, latchFrame s)] }) s)
    ∧ exec .dbgResume s = .next (modSec (fun c => { c with haltQueue := c.haltQueue ++ [(false, latchFrame s)] }) s) :=
  ⟨next_ite_pos h, next_ite_pos h⟩

theorem exec_tapReset_halted (hl : s.sec.level = 3) (hh : s.sec.halted = true) : exec .tapReset s
    = .next (modSec (fun c => { c with level := 0, bscan := .bypass, haltQueue := c.haltQueue ++ [(false, latchFrame s)] }) s) := by
  show execTapReset s = _
  unfold execTapReset
  simp only [hl, hh, BEq.rfl, Bool.true_or, Bool.and_true, if_true]

theorem exec_tapReset_below (hl : s.sec.level ≠ 3) : exec .tapReset s = .next (modSec (fun c => { c with level := 0, bscan := .bypass }) s) := by
  have h3 : (s.sec.level == 3) = false := beq_eq_false_iff_ne.mpr hl
  show execTapReset s = _
  unfold execTapReset
  simp only [h3, Bool.false_and, Bool.false_eq_true, if_false]

/-! Boundary scan (R508, R509, R556). -/

/-- The state in which the tester has shifted the boundary-scan register. -/
def cellsLoaded (s : State) : State := modSec (fun c => { c with bsCells := Config.scanCells s.draws }) { s with draws := s.draws + 1 }

theorem loadCells_admitted (h : 1 ≤ s.sec.level.toNat) : loadCells s = cellsLoaded s :=
  if_neg fun e => by simp [e] at h

theorem loadCells_none (h : s.sec.level = 0) : loadCells s = s := if_pos h

theorem scanWith_taken (b : Bscan) (hd : bscanState s.boot.dev = true) (hl : 1 ≤ s.sec.level.toNat) :
    scanWith b s = modSec (fun c => { c with bscan := b }) s := by
  unfold scanWith modSec
  simp only [hd, hl, decide_true, Bool.and_true, if_true]

theorem scanWith_bypassed (b : Bscan) (h : bscanState s.boot.dev = false ∨ s.sec.level = 0) :
    scanWith b s = modSec (fun c => { c with bscan := .bypass }) s := by
  have hn : (bscanState s.boot.dev && decide (1 ≤ s.sec.level.toNat)) = false := by
    rcases h with h | h
    · simp [h]
    · simp [h]
  unfold scanWith modSec
  simp only [hn, Bool.false_eq_true, if_false]

section Scan

variable {u : State} (hu : u = { s with draws := s.draws + 1 })
include hu

theorem exec_scan_taken (hd : bscanState s.boot.dev = true) (hl : 1 ≤ s.sec.level.toNat) :
    exec .extest s = .next (modSec (fun c => { c with bscan := .extest, bsCells := Config.scanCells s.draws }) u)
      ∧ exec .clamp s = .next (modSec (fun c => { c with bscan := .clamp, bsCells := Config.scanCells s.draws }) u)
      ∧ exec .highz s = .next (modSec (fun c => { c with bscan := .highz }) s) := by
  have hb (b : Bscan) : scanWith b (loadCells s) = modSec (fun c => { c with bscan := b, bsCells := Config.scanCells s.draws }) u := by
    rw [loadCells_admitted hl, scanWith_taken (s := cellsLoaded s) b hd hl, hu]
    rfl
  exact ⟨congrArg _ (hb .extest), congrArg _ (hb .clamp), congrArg _ (scanWith_taken .highz hd hl)⟩

theorem exec_scan_bypassed (hd : bscanState s.boot.dev = false) (hl : 1 ≤ s.sec.level.toNat) :
    exec .extest s = .next (modSec (fun c => { c with bscan := .bypass, bsCells := Config.scanCells s.draws }) u)
      ∧ exec .clamp s = .next (modSec (fun c => { c with bscan := .bypass, bsCells := Config.scanCells s.draws }) u)
      ∧ exec .highz s = .next (modSec (fun c => { c with bscan := .bypass }) s) := by
  have hb (b : Bscan) : scanWith b (loadCells s) = modSec (fun c => { c with bscan := .bypass, bsCells := Config.scanCells s.draws }) u := by
    rw [loadCells_admitted hl, scanWith_bypassed (s := cellsLoaded s) b (.inl hd), hu]
    rfl
  exact ⟨congrArg _ (hb .extest), congrArg _ (hb .clamp), congrArg _ (scanWith_bypassed .highz (.inl hd))⟩

end Scan

theorem exec_scan_none (h : s.sec.level = 0) : exec .extest s = .next (modSec (fun c => { c with bscan := .bypass }) s)
    ∧ exec .clamp s = .next (modSec (fun c => { c with bscan := .bypass }) s) ∧ exec .highz s = .next (modSec (fun c => { c with bscan := .bypass }) s) := by
  have hb (b : Bscan) : scanWith b (loadCells s) = modSec (fun c => { c with bscan := .bypass }) s := by
    rw [loadCells_none h, scanWith_bypassed b (.inr h)]
  exact ⟨congrArg _ (hb .extest), congrArg _ (hb .clamp), congrArg _ (scanWith_bypassed .highz (.inr h))⟩

/-- The boundary-scan register holds 265 balls, the first of them GPIO 0. -/
theorem bsBalls_size : bsBalls.length = 265 ∧ bsBalls[0]? = some (.gpio 0) := by decide +kernel

/-- Settles O57: each command by its branch. -/
theorem debugPortCompletes : Obligations.DebugPortCompletes := by
  refine fun s => ⟨fun r => ⟨exec_dbgAttach_wakes, exec_dbgAttach_asleep, fun hd => ⟨exec_dbgAttach_refused hd, fun h u hu => ?admitted⟩⟩,
    fun a d w go h => if_pos h, fun a d w h => ?access, exec_dbgHalt_full, fun h => ⟨next_ite_neg h, next_ite_neg h⟩,
    fun w => ⟨next_ite_pos, fun h => next_ite_neg (by simp [h])⟩, exec_tapReset_halted, exec_tapReset_below, ⟨_, rfl, rfl, rfl, modSec_only _ s⟩,
    fun u hu => ⟨exec_scan_taken hu, exec_scan_bypassed hu, exec_scan_none⟩, bsBalls_size⟩
  case admitted =>
    have ha := exec_dbgAttach_admitted hd h hu
    exact ⟨fun hl => ha.trans (next_ite_neg (Nat.not_lt.mpr hl)), fun hl => ha.trans (next_ite_pos hl)⟩
  case access => exact if_neg (by simp [Nat.not_lt.mpr h])

end Sys2Proof.Machine
end
